-- ==== Sys2Proof/Word.lean ====
section
/-! DEFINITION. The plain value types of the SK7240 model: bytes, 64-byte lines, 32-bit registers, and the keyed lists that
hold sparse tables. -/

namespace Sys2Proof

/-- A byte. -/
abbrev Byte := BitVec 8

/-- A 32-bit register value (00_scope R4). -/
abbrev Word := BitVec 32

/-- A line: 64 bytes, byte k in bits 8k+7..8k (00_scope glossary: the unit of CXL atomicity and of poison). -/
abbrev Line := BitVec 512

/-- A byte mask of a line, bit k for byte k (03_persistence R77). -/
abbrev Mask := BitVec 64

/-- A sparse table: entries (key, value) with keys strictly rising. -/
abbrev AMap (α : Type) := List (Nat × α)

/-- Bytes of a message or payload, in address order. -/
abbrev Bytes := List Byte

end Sys2Proof
end

