-- ==== Sys2Proof/Syntax.lean ====
section
/-! DEFINITION. The commands of the block: one constructor of `Instr` per row of spec/opcode_table.json, with the operands that
the environment supplies. -/

namespace Sys2Proof

/-- The path on which a BCS command arrives (13_management R482). `admin` carries the CID of the BCS Tunnel entry; `forwarded`
carries the MPL message tag and says whether the receiving controller's path was privileged. -/
inductive BcsPath where
  | sideband
  | admin (cid : Nat)
  | fm (head : Nat)
  | primary (ld : Nat)
  | forwarded (mtag : Nat) (privileged : Bool)
deriving DecidableEq, Repr, Inhabited

/-- The PCI function through which a register access arrives: an LD's (07_cxl_ports R251) or the FM-owned LD of a head. -/
inductive MmioSrc where
  | ld (index : Nat)
  | fm (head : Nat)
deriving DecidableEq, Repr, Inhabited

/-- A CXL.mem request (07_cxl_ports R265): the head, the requester (LD number within the head, or the source fabric ID in G-FAM),
the host's tag and the device physical address. -/
structure CxlReq where
  head : Nat
  requester : Nat
  tag : Nat
  dpa : Nat
deriving DecidableEq, Repr, Inhabited

/-- How a cabinet chunk read ended (04_tiers R139): the step that succeeded, with the retry level of step 2. -/
inductive ReadOutcome where
  | hard
  | retry (level : Nat)
  | reconstructed
  | lost
deriving DecidableEq, Repr, Inhabited

/-- An Ethernet frame received on a fabric port, as its parser classifies it (08_remote_access R292). -/
inductive FrameKind where
  | fcsError
  | roce (dgidIndex : Nat) (icrcOk : Bool) (destQpn : Nat)
  | ptp
  | witness
  | arpOrNd (gidIndex : Nat)
  | other
deriving DecidableEq, Repr, Inhabited

/-- An RDMA request message at a responder QP (08_remote_access R306): the QP index, its first PSN, the packets it spans, the
key, the virtual address and whether a packet carried ECN-CE (R315). -/
structure RdmaReq where
  qp : Nat
  psn : Nat
  packets : Nat
  rkey : Nat
  va : Nat
  ecn : Bool
deriving DecidableEq, Repr, Inhabited

/-- A multipath packet's MPETH and path (08_remote_access R327). -/
structure Mpeth where
  qp : Nat
  msn : Nat
  immFlag : Bool
  poisonFlag : Bool
  path : Nat
  reservedBits : Bool
  msgLen : Nat
  va : Nat
  rkey : Nat
  pktOffset : Nat
  immediate : Nat
  linePoison : Mask
  pktCount : Nat
deriving DecidableEq, Repr, Inhabited

/-- A frame on an instrument port (10_capture_replay R379, R391): its bytes, its wire length, whether the FCS was good, whether
the PCS reported an error, and the timestamp of its start-of-frame delimiter. -/
structure InstrFrame where
  bytes : Bytes
  wireLen : Nat
  fcsGood : Bool
  pcsError : Bool
  timestamp : Nat
deriving DecidableEq, Repr, Inhabited

/-- A line write of a mirrored unit as MIRROR_WRITE carries it (06_pair R210): line index, mask, data, poison. -/
structure LineWrite where
  line : Nat
  mask : Mask
  data : Line
  poison : Bool
deriving DecidableEq, Repr, Inhabited

/-- A run entry of MIRROR_SEAL (06_pair R213). -/
structure SealRun where
  seq : Nat
  firstMsn : Nat
  count : Nat
deriving DecidableEq, Repr, Inhabited

/-- What one side tells the other of a mirrored region at the join (06_pair R238). -/
structure JoinView where
  region : Nat
  state : Nat
  gen : Nat
  identitySame : Bool
  unknown : List (List LineWrite)
deriving DecidableEq, Repr, Inhabited

/-- The access that a FWD_REQUEST carries (06_pair R210, 01_architecture R25), and the partner's part of a Drain To Cabinet
(09_command_queues R375). -/
inductive FwdOp where
  | read (bytes : Nat)
  | drain (bytes : Nat)
  | write (lines : List LineWrite)
  | atomic (kind : Nat) (a b : BitVec 64)
deriving DecidableEq, Repr, Inhabited

/-- The corrected errors that a read meets on its way (12_integrity R448): the shelf byte addresses of those of the shelf, and how
many the drawer, the chest and other SRAMs gave. -/
structure Corrected where
  shelf : List Nat := []
  drawer : Nat := 0
  chest : Nat := 0
  sram : Nat := 0
deriving DecidableEq, Repr, Inhabited

/-- A corrected error that a scrub found (12_integrity R462): MEMORY, REGION and ADDRESS of its entry. -/
structure ScrubFind where
  memory : Nat
  region : Nat
  address : Nat
deriving DecidableEq, Repr, Inhabited

/-- The place at which an uncorrectable error is found (12_integrity R452). -/
inductive DamagedPlace where
  | drawerHeld (slot : Nat)
  | chestLine (seq : Nat) (index : Nat)
  | segClean (segment : Nat) (page : Nat)
  | segDirty (segment : Nat) (page : Nat) (lines : List Nat)
  | segVolatile (segment : Nat) (page : Nat) (lines : List Nat)
  | mapPage (page : Nat)
  | lentKeys (bothBad : Bool) (index : Nat)
  | lentCapsule (bothBad : Bool) (qid : Nat)
  | lentOther (bothBad : Bool)
  | qpContext (qp : Nat)
  | replayStaging (channel : Nat) (record : Nat)
  | replayProgram (channel : Nat)
  | captureStaging (port : Nat) (line : Nat)
  | frontCache (head : Nat) (granule : Nat)
  | recentWriteMap
  | transformContext (stream : Nat)
  | mplReceiveBuffer (batch : Nat)
  | ethReceiveBuffer (port : Nat)
  | captureReceiveBuffer (port : Nat)
  | managementSram
deriving DecidableEq, Repr, Inhabited

/-- One META item as META_COPY carries it (05_regions R163, 06_pair R245, 14_trust R527): its KIND and the fields that the
receiver applies. -/
inductive MetaItem where
  | regionDesc (id : Nat) (bytes : Bytes)
  | extentAssign (region position first : Nat) (lens : List Nat)
  | extentRelease (region position first : Nat) (lens : List Nat)
  | pairRecord (pairId : Nat) (id0 id1 mode checkMode slot : Nat) (witness : Bool) (retired : List Nat)
  | lease (region holder cause epoch beat : Nat)
  | mirrorState (region position state gen mark : Nat)
  | keySlot (slot scope type region : Nat) (wrapped : Bytes)
  | sanitizeMark (phase kind beat : Nat)
deriving DecidableEq, Repr, Inhabited

/-- The commands. Each constructor is the row of spec/opcode_table.json whose mnemonic is its name in capitals (`sealData` and `unsealData`
are the rows SEAL and UNSEAL). -/
inductive Instr where
  -- registers and the beat
  | mmioRegisterWrite (src : MmioSrc) (offset : Nat) (value : Word)
  | beatBoundary
  | beatLoRead
  | todLoRead
  | teNctrLoRead
  | ueLogLoRead
  | newestLoRead
  -- transform engine slots
  | transformCycle
  | backlogLimit (stream : Nat)
  | getSlotTable (path : BcsPath) (input : Bytes)
  | setSlotTable (path : BcsPath) (input : Bytes)
  | activateSlotTable (path : BcsPath) (input : Bytes)
  | slotTableSwap
  -- timebase
  | ptpMessage (port : Nat) (sync : Bool) (offset : Int)
  | ppsInEdge (rising : Bool) (offset : Int)
  | timebaseSourceLost (pps : Bool)
  | timebaseLocked
  | ppsOutRise
  | ppsOutFall
  -- persistence
  | writeAdmission (unit : Nat)
  | writeAcknowledge (unit : Nat)
  | journalRecordComplete (seq : Nat)
  | anchorUpdate
  | persistFence (qid cid : Nat)
  | persistFenceComplete (qid cid : Nat)
  | admissionWaitLimit
  | drainComplete
  | chestVerifyFailure (row : Nat)
  | drawerBankError (bank : Nat) (slot : Nat)
  | drawerBankDisable (bank : Nat)
  -- tiers
  | segmentSlotRequest (segment : Nat)
  | slotWaitLimit
  | pageArrival (segment page : Nat)
  | shelfPageFailure (slot partition : Nat)
  | drainPlacement (seq : Nat)
  | checkpointStart
  | checkpointComplete
  | rowClose (position block row : Nat)
  | rowCloseTimeout (position block row : Nat)
  | writeBack (lcn addr : Nat)
  | writeBackComplete (lcn : Nat)
  | relocationComplete (lcn addr : Nat)
  | chunkReadComplete (lcn : Nat) (outcome : ReadOutcome)
  | garbageCollection (position : Nat)
  | freeStripeExhausted (position : Nat)
  | wearLevelRelocation (position : Nat)
  | readDisturbRefresh (position block : Nat)
  | nandStatusFailure (lun block : Nat) (erase : Bool)
  | lunFailure (lun : Nat)
  | rebuildComplete (lun : Nat)
  | opEvaluation
  -- regions
  | createRegion (path : BcsPath) (input : Bytes)
  | deleteRegion (path : BcsPath) (input : Bytes)
  | resizeRegion (path : BcsPath) (input : Bytes)
  | getRegion (path : BcsPath) (input : Bytes)
  | listRegions (path : BcsPath) (input : Bytes)
  | setRegionAttributes (path : BcsPath) (input : Bytes)
  | attachExtent (path : BcsPath) (input : Bytes)
  | detachExtent (path : BcsPath) (input : Bytes)
  | grantMemoryKey (path : BcsPath) (input : Bytes)
  | revokeMemoryKey (path : BcsPath) (input : Bytes)
  | getCapacity (path : BcsPath) (input : Bytes)
  | regionChangeBoundary (region : Nat)
  | regionChangeDrained (region : Nat)
  | readOnlyTakesEffect (region : Nat)
  | domainMaskTakesEffect (region : Nat)
  -- pair
  | formPair (path : BcsPath) (input : Bytes)
  | armPairJoin (path : BcsPath) (input : Bytes)
  | armingExpiry
  | dissolvePair (path : BcsPath) (input : Bytes)
  | getPairStatus (path : BcsPath) (input : Bytes)
  | moveSeat (path : BcsPath) (input : Bytes)
  | moveChair (path : BcsPath) (input : Bytes)
  | admitReplacement (path : BcsPath) (input : Bytes)
  | setStandbyChecks (path : BcsPath) (input : Bytes)
  | getPairHealth (path : BcsPath) (input : Bytes)
  | forceSeat (path : BcsPath) (input : Bytes)
  | setWitnessPath (path : BcsPath) (input : Bytes)
  | hello (message : Bytes)
  | encapsulationKey (message : Bytes)
  | kemCiphertext (message : Bytes)
  | formationTimeout
  | laneFault (lane : Nat) (lostLock : Bool)
  | mplLinkInService (nonce : Bytes)
  | batchReceive (number : Nat) (flits : List Bytes)
  | batchAck (number : Nat)
  | batchNak (number : Nat)
  | heartbeat (h chairEpoch leaseEpoch : Nat)
  | heartbeatEcho (h : Nat)
  | taken (chairEpoch : Nat)
  | witnessHeartbeat (port : Nat) (datagram : Bytes)
  | leaseStopPoint
  | takeoverDeadline
  | switchOverComplete
  | mirrorWrite (region msn : Nat) (zero : Bool) (lines : List LineWrite)
  | mirrorAccept (region msn : Nat)
  | mirrorAbort (region msn : Nat)
  | mirrorSeal (region groupBeat : Nat) (runs : List SealRun)
  | mirrorDone (seq : Nat)
  | metaCopy (seq : Nat) (items : List MetaItem)
  | metaDone (seq : Nat)
  | fwdRequest (mtag region offset : Nat) (op : FwdOp)
  | fwdBcs (mtag opcode : Nat) (privileged : Bool) (input : Bytes)
  | fwdResponse (mtag status : Nat) (poison : List Nat) (data : Bytes)
  | bcsResponse (mtag rc : Nat) (output : Bytes)
  | resyncChunk (region offset srcSeq : Nat) (zero : Bool) (data : Bytes) (poison : List Nat)
  | mplCompare (region offset : Nat) (crc : BitVec 64)
  | seatMoveComplete (region : Nat)
  | mirrorCompare
  | roleSwap
  | standbySelfTest (test : Nat) (detail : Nat) (passed : Bool)
  | pairJoin (views : List JoinView)
  | resyncMark (region : Nat)
  | resyncComplete (region : Nat)
  | joinWaitTimeout (region : Nat)
  -- CXL
  | headLinkUp (head width speed flit : Nat)
  | headLinkDown (head cause : Nat)
  | perstNAssert (head : Nat)
  | cxlMemRead (req : CxlReq) (corrected : Corrected)
  | cxlMemWrite (req : CxlReq) (data : Line) (mask : Mask) (poison : Bool)
  | missFillReturn (head register : Nat)
  | victimHandoff (head entry : Nat)
  | frontCacheEccError (head granule : Nat)
  | frontCacheBankEmpty (head bank : Nat)
  | addDynamicCapacityResponse (target : Nat) (accepted : List Nat) (more : Bool)
  | offerTimeout (entry : Nat)
  | releaseDynamicCapacity (target : Nat) (dpas : List Nat)
  | detachTimeout (entry : Nat)
  | gpfPhase1 (head : Nat)
  | gpfPhase2 (head : Nat)
  -- standard mailbox commands
  | identify (path : BcsPath) (input : Bytes)
  | backgroundOperationStatus (path : BcsPath) (input : Bytes)
  | getEventRecords (path : BcsPath) (input : Bytes)
  | clearEventRecords (path : BcsPath) (input : Bytes)
  | getEventInterruptPolicy (path : BcsPath) (input : Bytes)
  | setEventInterruptPolicy (path : BcsPath) (input : Bytes)
  | getFwInfo (path : BcsPath) (input : Bytes)
  | transferFw (path : BcsPath) (input : Bytes)
  | activateFw (path : BcsPath) (input : Bytes)
  | getTimestamp (path : BcsPath) (input : Bytes)
  | setTimestamp (path : BcsPath) (input : Bytes)
  | getSupportedLogs (path : BcsPath) (input : Bytes)
  | getLog (path : BcsPath) (input : Bytes)
  | identifyMemoryDevice (path : BcsPath) (input : Bytes)
  | getPartitionInfo (path : BcsPath) (input : Bytes)
  | setPartitionInfo (path : BcsPath) (input : Bytes)
  | getLsa (path : BcsPath) (input : Bytes)
  | setLsa (path : BcsPath) (input : Bytes)
  | getHealthInfo (path : BcsPath) (input : Bytes)
  | getAlertConfiguration (path : BcsPath) (input : Bytes)
  | setAlertConfiguration (path : BcsPath) (input : Bytes)
  | getShutdownState (path : BcsPath) (input : Bytes)
  | setShutdownState (path : BcsPath) (input : Bytes)
  | getPoisonList (path : BcsPath) (input : Bytes)
  | injectPoison (path : BcsPath) (input : Bytes)
  | clearPoison (path : BcsPath) (input : Bytes)
  | getScanMediaCapabilities (path : BcsPath) (input : Bytes)
  | scanMedia (path : BcsPath) (input : Bytes)
  | getScanMediaResults (path : BcsPath) (input : Bytes)
  | getDynamicCapacityConfiguration (path : BcsPath) (input : Bytes)
  | getDynamicCapacityExtentList (path : BcsPath) (input : Bytes)
  | cxlSanitize (path : BcsPath) (input : Bytes)
  | secureErase (path : BcsPath) (input : Bytes)
  | getLdInfo (path : BcsPath) (input : Bytes)
  | getLdAllocations (path : BcsPath) (input : Bytes)
  | setLdAllocations (path : BcsPath) (input : Bytes)
  -- network and RDMA
  | ethLinkChange (port : Nat) (up : Bool) (speed : Nat)
  | fabricFrame (port length : Nat) (kind : FrameKind)
  | rdmaWrite (req : RdmaReq) (data : Bytes)
  | rdmaWriteWithImmediate (req : RdmaReq) (data : Bytes) (immediate : Nat)
  | send (req : RdmaReq) (data : Bytes)
  | sendWithImmediate (req : RdmaReq) (data : Bytes) (immediate : Nat)
  | rdmaRead (req : RdmaReq) (length : Nat)
  | compareAndSwap (req : RdmaReq) (compareValue swapValue : BitVec 64)
  | fetchAndAdd (req : RdmaReq) (addend : BitVec 64)
  | atomicWrite (req : RdmaReq) (value : BitVec 64)
  | flush (req : RdmaReq) (length : Nat)
  | ack (qp psn credits : Nat)
  | nak (qp psn syndrome : Nat)
  | rnrNak (qp psn timer : Nat)
  | readResponse (qp psn : Nat) (data : Bytes)
  | atomicAcknowledge (qp psn : Nat) (original : BitVec 64)
  | cnp (qp : Nat)
  | rateIncrease (qp : Nat)
  | ackTimeout (qp : Nat)
  | rnrTimerExpiry (qp : Nat)
  | contextSwapComplete (qp : Nat)
  | keyRevocation (index : Nat)
  | revocationComplete (index : Nat)
  | counterFire (entry : Nat)
  | workRequestIssue (qp : Nat)
  | qpError (qp cause status : Nat)
  | createQp (path : BcsPath) (input : Bytes)
  | modifyQp (path : BcsPath) (input : Bytes)
  | queryQp (path : BcsPath) (input : Bytes)
  | destroyQp (path : BcsPath) (input : Bytes)
  | setGid (path : BcsPath) (input : Bytes)
  | getPortStatus (path : BcsPath) (input : Bytes)
  | triggerCounter (path : BcsPath) (input : Bytes)
  | mpWrite (h : Mpeth) (payload : Bytes)
  | mpWriteImm (h : Mpeth) (payload : Bytes)
  | mpMessageComplete (qp msn : Nat)
  | mpReadReq (h : Mpeth)
  | mpReassemblyTimeout (qp msn : Nat)
  -- queues
  | sqTailDoorbell (head qid : Nat) (value : Word)
  | cqHeadDoorbell (head qid : Nat) (value : Word)
  | aqEnable (head : Nat)
  | aqDisable (head : Nat)
  | aqReady
  | commandFetch (qid : Nat) (entry list : Bytes)
  | inFlightLimitHeld
  | read (qid cid : Nat) (corrected : Corrected)
  | write (qid cid : Nat) (data : Bytes)
  | writeZeroes (qid cid : Nat)
  | copy (qid cid : Nat)
  | compare (qid cid : Nat) (data : Bytes)
  | drainToCabinet (qid cid : Nat)
  | drainToCabinetComplete (qid cid : Nat)
  | checkValue (qid cid : Nat) (data : Bytes)
  | scanPattern (qid cid : Nat) (data : Bytes)
  | sealData (qid cid : Nat) (data : Bytes)
  | unsealData (qid cid : Nat) (data : Bytes)
  | triggerArm (qid cid : Nat)
  | triggerArmEffect (entry : Nat)
  | bcsTunnel (cid : Nat) (input : Bytes)
  | createQueuePair (path : BcsPath) (input : Bytes)
  | deleteQueuePair (path : BcsPath) (input : Bytes)
  | queryQueuePair (path : BcsPath) (input : Bytes)
  | commandCapsule (qp psn : Nat) (capsule : Bytes)
  | transferReadySend (qid cid : Nat)
  | pieceDelivery (qp stagingKey immediate va : Nat) (data : Bytes)
  | transferTimeout (tag : Nat)
  | notice (qid : Nat)
  | interruptAggregationExpiry (qid : Nat)
  | hostMemoryFailure (qid cid kind address : Nat)
  -- capture and replay
  | instrumentFrame (port : Nat) (frame : InstrFrame)
  | stagedChunkProgram (port chunk addr : Nat)
  | stagedChunkTimeout (port chunk addr : Nat)
  | stagedBacklogExceeded
  | captureConfigure (qid cid : Nat) (data : Bytes)
  | setRules (qid cid : Nat) (data : Bytes)
  | ruleSetActivation (port : Nat)
  | captureStart (qid cid : Nat)
  | ringStartBeat (port : Nat)
  | captureStop (qid cid : Nat)
  | ringStopBeat (port : Nat)
  | captureStatus (qid cid : Nat)
  | release (qid cid : Nat)
  | tailRelease (port : Nat)
  | replayConfigure (qid cid : Nat) (data : Bytes)
  | load (qid cid : Nat)
  | replayStart (qid cid : Nat)
  | channelStartBeat (channel : Nat)
  | replayStop (qid cid : Nat)
  | channelStopBeat (channel : Nat)
  | replayStatus (qid cid : Nat)
  | captureControl (path : BcsPath) (input : Bytes)
  | replayControl (path : BcsPath) (input : Bytes)
  | replayPrefetch (channel : Nat)
  | recordStaged (channel : Nat)
  | frameLaunch (channel : Nat) (cycle : Nat)
  -- transform engine
  | sliceFault (slice : Nat)
  | spareSliceActivation
  | nonceWindowReservation (window : Nat)
  | keySlotChangeEffect (slot : Nat)
  -- integrity and DRAM
  | uncorrectableError (place : DamagedPlace)
  | dirtyPageRecovery (segment page : Nat)
  | recentWriteMapRebuild
  | mapPageRebuild (page : Nat)
  | startScrub (path : BcsPath) (input : Bytes)
  | getScrubSummary (path : BcsPath) (input : Bytes)
  | scrubEnd (corrected : List ScrubFind)
  | stackTemperatureReading (stack : Nat) (celsius : Int)
  | bandChangeQuiesce
  | fullRateChange (stack : Nat)
  | refreshDue (channel bank : Nat)
  -- management complex
  | lockstepMismatch (sramError : Bool)
  | watchdogExpiry
  | complexRestartComplete
  | backgroundCommandComplete (opcode : Nat)
  | fwTransferTimeout
  | activationSelfCheckTimeout
  | registerWrite (address : Nat) (value : Word) (pecOk : Bool)
  | registerRead (address : Nat) (pecOk : Bool)
  | bcsLoad (offset : Nat) (data : Bytes) (pecOk : Bool)
  | bcsExecute (opcode length : Nat) (pecOk : Bool)
  | bcsStatus (pecOk : Bool)
  | bcsFetch (offset : Nat) (pecOk : Bool)
  | smbusAddressMatch (beforeStep2 inLostWindow : Bool)
  | smbusTimeout
  | getUnitPower (path : BcsPath) (input : Bytes)
  | setUnitPower (path : BcsPath) (input : Bytes)
  | getParameter (path : BcsPath) (input : Bytes)
  | setParameter (path : BcsPath) (input : Bytes)
  | listParameters (path : BcsPath) (input : Bytes)
  | enterDeviceStandby (path : BcsPath) (input : Bytes)
  | readEvents (path : BcsPath) (input : Bytes)
  | getRecorderStatus (path : BcsPath) (input : Bytes)
  | identifyController (path : BcsPath) (input : Bytes)
  -- trust
  | getIdentityKey (path : BcsPath) (input : Bytes)
  | getAttestationReport (path : BcsPath) (input : Bytes)
  | getProtectionLevel (path : BcsPath) (input : Bytes)
  | setProtectionLevel (path : BcsPath) (input : Bytes)
  | sanitize (path : BcsPath) (input : Bytes)
  -- spares and sequencer commands
  | getSparesInventory (path : BcsPath) (input : Bytes)
  | getEraseCounts (path : BcsPath) (input : Bytes)
  | getStripeState (path : BcsPath) (input : Bytes)
  | readWearLog (path : BcsPath) (input : Bytes)
  | getSequencerStatus (path : BcsPath) (input : Bytes)
  | clearLockout (path : BcsPath) (input : Bytes)
  | powerDown (path : BcsPath) (input : Bytes)
  | bindTransformStream (path : BcsPath) (input : Bytes)
  | rollbackFuseUpdate
  | signingWindowReservation (window : Nat)
  | keyUnitReady
  -- configuration flash and recorder
  | norOperationComplete (failed : Bool)
  | eraseSuspend
  | counterLogCompaction
  | hourEntry
  | eventRecordWrite
  | pendingEventRelay
  -- power
  | vstbyApplied
  | vstbyCollapse
  | powerUpStart
  | railDebounceComplete (rail : Nat)
  | stepGapEnd
  | stepTimeout (microseconds lowSamples : Nat)
  | retryWaitEnd
  | railLow (rail : Nat)
  | fallTimeout (rail : Nat)
  | powerGoodLoss (rail : Nat)
  | pfailNAssert
  | vinSenseTrip
  | inputRecovered
  | wdiEdge (microsSinceLast : Nat)
  | wdiWindowExpiry (microsSinceLast : Nat)
  | thermalReading (sensor : Nat) (celsius : Int)
  | idleTimerEntry (unit : Nat)
  | unitWorkArrival (unit agent : Nat)
  | commandedStateEntry (unit : Nat)
  | padHoldRelease (groups : BitVec 10)
  | wakeNLow (edge inLostWindow : Bool)
  | resetNAssert
  | resetNDeassert
  | sysRefclkLoss
  -- start-up
  | startUpRomPhase
  | startUpFirmwarePhase (stack0 stack1 chestTemp : Int) (failedSlices : BitVec 17) (badSets : List Nat)
  | startUpJournalPhase (beats : Nat)
  | startUpMapPhase (geometryOk readable : Bool) (beats : Nat)
  | startUpRegionsPhase (badSlots : List Nat)
  | startUpLinksPhase (milliseconds : Nat)
  | warmUpEnd (chestTemp : Int) (milliseconds : Nat)
  | warmUpTimeout
  | switchOverBound
  | clk25InLoss
  | perstNDeassert (head : Nat)
  | headLinkPowerStateChange (head state : Nat)
  | jtagInstruction (instruction : Nat)
  | dcdManagementCommand (path : BcsPath) (opcode : Nat) (input : Bytes)
deriving DecidableEq, Repr

end Sys2Proof
end

