-- ==== Sys2Proof/Machine/Bytes.lean ====
section
/-! DEFINITION. Byte order and bit fields: little-endian fields of records, commands and registers (00_scope, Notation), and
bytes of a line under a mask (03_persistence R77). -/

namespace Sys2Proof.Machine

/-- The `n` bytes of `v`, little-endian. -/
def le : Nat → Nat → Bytes
  | 0, _ => []
  | n + 1, v => BitVec.ofNat 8 v :: le n (v / 256)

/-- The `n` bytes of `v`, big-endian. -/
def be (n v : Nat) : Bytes := (le n v).reverse

/-- The number that the bytes spell, little-endian. -/
def leVal : Bytes → Nat
  | [] => 0
  | b :: r => b.toNat + 256 * leVal r

/-- The number that the bytes spell, big-endian. -/
def beVal (b : Bytes) : Nat := leVal b.reverse

/-- `n` bytes from offset `off`. -/
def slice (off n : Nat) (b : Bytes) : Bytes := (b.drop off).take n

/-- The little-endian field of `n` bytes at offset `off`. -/
def fld (off n : Nat) (b : Bytes) : Nat := leVal (slice off n b)

/-- `n` zero bytes. -/
def zeros (n : Nat) : Bytes := List.replicate n 0

/-- The bytes, cut or filled with zeros to `n`. -/
def padTo (n : Nat) (b : Bytes) : Bytes := b.take n ++ zeros (n - b.length)

/-- Bits `hi` to `lo` of a number. -/
def bitsOf (hi lo v : Nat) : Nat := v / 2 ^ lo % 2 ^ (hi - lo + 1)

/-- One bit of a number. -/
def bitOf (i v : Nat) : Bool := v / 2 ^ i % 2 == 1

/-- 1 or 0. -/
def b2n (b : Bool) : Nat := if b then 1 else 0

/-- The two's complement of a signed number in `n` bytes. -/
def leInt (n : Nat) (v : Int) : Bytes := le n (v % (256 ^ n : Int)).toNat

/-- Bytes 0 to 63 of a line, in address order. -/
def lineBytes (l : Line) : Bytes := le 64 l.toNat

/-- The line that 64 bytes spell. -/
def lineOf (b : Bytes) : Line := BitVec.ofNat 512 (leVal (b.take 64))

/-- A byte mask as bytes FFh and 00h. -/
def maskSpread (m : Mask) : Line :=
  BitVec.ofNat 512 (leVal ((List.range 64).map fun i => if m.getLsbD i then 255#8 else 0#8))

/-- The new bytes where the mask is set, the old ones elsewhere. -/
def mergeLine (m : Mask) (old new : Line) : Line :=
  (old &&& ~~~ maskSpread m) ||| (new &&& maskSpread m)

/-- The mask of every byte. -/
def fullMask : Mask := BitVec.allOnes 64

/-- The mask of bytes `lo` to `hi - 1`. -/
def rangeMask (lo hi : Nat) : Mask := BitVec.ofNat 64 (2 ^ hi - 2 ^ lo)

/-- Cut bytes into blocks of `n` (`n` is not zero), the last one possibly short. -/
def chunksOf (n : Nat) (b : Bytes) : List Bytes :=
  (List.range ((b.length + n - 1) / n)).map fun i => slice (i * n) n b

/-- The bitwise exclusive or of two byte lists. -/
def xorBytes (a b : Bytes) : Bytes := List.zipWith (· ^^^ ·) a b

/-- Whether every byte is zero. -/
def allZero (b : Bytes) : Bool := b.all (· == 0)

/-- Count to at most `m`. -/
def satAdd (m a b : Nat) : Nat := min m (a + b)

end Sys2Proof.Machine
end

