-- ==== Sys2Proof/Types/Base.lean ====
section
/-! DEFINITION. State of events and the recorder (00_scope R7, 13_management R486, 15_config_flash_events R561 to R566), and
of the timebase and the slot tables (02_beat). -/

namespace Sys2Proof

/-- Severity of an event record (00_scope R7, byte 2). -/
inductive Severity where
  | info
  | warning
  | error
  | fatal
deriving DecidableEq, Repr, Inhabited

/-- The severity's encoding in an event record (00_scope R7). -/
def Severity.code : Severity → Nat
  | .info => 0
  | .warning => 1
  | .error => 2
  | .fatal => 3

/-- An event record (00_scope R7). Check and valid mark are computed when the record is written. -/
structure Event where
  code : Nat
  severity : Severity
  relayed : Bool := false
  undisciplined : Bool := true
  unit : Nat := 0xFFFF
  beat : Nat
  tod : Nat
  hours : Nat
  cycles : Nat
  data : Bytes
deriving DecidableEq, Repr, Inhabited

/-- A repeated condition that an event reports at most once in a window, with the occurrences since the last report. -/
structure Report where
  code : Nat
  key : Nat
  lastBeat : Nat
  count : Nat
deriving DecidableEq, Repr, Inhabited

/-- The event interrupt registers of one head's function (R486): EVT.IRQ_EN and EVT.IRQ_VEC. -/
structure HeadIrq where
  enable : BitVec 4 := 0
  badwrEnable : Bool := false
  vector : BitVec 11 := 0
deriving DecidableEq, Repr, Inhabited

/-- An entry of the wear-and-spares log (17_startup_service_life R612). Check and mark are computed when it is read. -/
structure WearEntry where
  type : Nat
  unit : Nat
  cycles : Nat
  index : Nat
  beat : Nat
  hours : Nat
  data : Bytes
deriving DecidableEq, Repr, Inhabited

/-- Event flags, the recorder's queue and the recorder's areas. `status` and `setThisBeat` have the layout of EVT.STATUS bits
7 to 0; `recent` and `first` hold the written records by record index. -/
structure EventUnit where
  status : BitVec 8 := 0
  setThisBeat : BitVec 8 := 0
  irq : AMap HeadIrq := []
  newestHi : Word := 0
  lost : Nat := 0
  lostUnreported : Nat := 0
  queue : List Event := []
  recent : AMap Event := []
  first : AMap Event := []
  abandoned : List Nat := []
  abandonedCount : Nat := 0
  nextIndex : Nat := 0
  firstBase : Nat := 0
  running : Bool := false
  reports : List Report := []
  supPending : List Event := []
  supLost : Nat := 0
  hours : Nat := 0
  cycles : Nat := 0
  wear : List WearEntry := []
  wearIndex : Nat := 0
  spares : AMap Nat := []
deriving DecidableEq, Repr, Inhabited

/-- Timebase states (02_beat R52). -/
inductive TbMode where
  | free
  | acquire
  | locked
  | holdover
deriving DecidableEq, Repr, Inhabited

/-- The STATE encoding of R52. -/
def TbMode.code : TbMode → Nat
  | .free => 0
  | .acquire => 1
  | .locked => 2
  | .holdover => 3

/-- Beat counter and time of day (02_beat R32 to R38, R49 to R58). -/
structure Timebase where
  beat : Nat := 0
  beatHi : Word := 0
  tod : Nat := 0
  todFrac : Nat := 0
  freqAdj : Int := 0
  todHi : Word := 0
  beatStart : Nat := 0
  mode : TbMode := .free
  ppsMiss : Bool := false
  slotOvr : Bool := false
  srcLost : Bool := false
  stepped : Bool := false
  ppsInPol : Bool := false
  ppsOutEn : Bool := false
  ptpPort : Nat := 0
  srcSel : Nat := 0
  lastOffset : Int := 0
  lastGoodEdge : Nat := 0
  stepDone : Bool := false
  ppsOut : Bool := false
  ppsRise : Nat := 0
  goodSince : Option Nat := none
  lastEdgeBeat : Option Nat := none
deriving DecidableEq, Repr, Inhabited

/-- A pending Activate Slot Table command (02_beat R43): the path to answer and the boundary beat of the swap. -/
structure SlotActivation where
  path : BcsPath
  beat : Nat
deriving DecidableEq, Repr, Inhabited

/-- The two slot table copies and the round-robin pointer (02_beat R39, R42, R43, R45). An entry that is not listed is open. -/
structure SlotSched where
  copyA : AMap (BitVec 16) := []
  copyB : AMap (BitVec 16) := []
  activeB : Bool := false
  activation : Option SlotActivation := none
  rrPointer : Nat := 0
  cycle : Nat := 0
  backlog : AMap Nat := []
  backlogReported : List Nat := []
deriving DecidableEq, Repr, Inhabited

/-- Who waits for a timed action to take effect: a queue command, the BCS path of C060h and C061h, or nobody once a management
reset has ended the command (13_management R492). -/
inductive CtlFrom where
  | gqp (qid cid : Nat)
  | bcs (path : BcsPath) (opcode : Nat)
  | nobody
deriving DecidableEq, Repr, Inhabited

end Sys2Proof
end

