-- ==== Sys2Proof/Types/Persist.lean ====
section
/-! DEFINITION. State of the persistence unit: the drawer, the recent-write map, the journal in the chest, admission, fences and
the power-fail drain (03_persistence). -/

namespace Sys2Proof

/-- The drawer floor that a write may use (03_persistence R64). -/
inductive WClass where
  | general
  | mirrorCopy
  | control
deriving DecidableEq, Repr, Inhabited

/-- Whose write a unit is: where its acknowledgement goes. `background` writes answer nobody. -/
inductive WSrc where
  | cxl (head requester tag : Nat)
  | victim (head : Nat)
  | rdma (qp psn piece : Nat)
  | gqp (qid cid piece : Nat)
  | multipath (qp msn piece : Nat)
  | workRequest (qp psn : Nat)
  | mirror (msn : Nat)
  | forwarded (mtag : Nat)
  | capture (port kind upTo : Nat)
  | resync
  | bureau (job : Nat)
  | control
  | background
deriving DecidableEq, Repr, Inhabited

/-- The phase of a write unit: waiting for admission, slots reserved, last byte staged, acknowledged (R62, R65, R68). -/
inductive UPhase where
  | waiting
  | reserved
  | staged
  | held
deriving DecidableEq, Repr, Inhabited

/-- One change of a map entry: the chunk, its new state and address, and DATA_SEQ (04_tiers R123). -/
structure MapUpd where
  lcn : Nat
  state : Nat
  addr : Nat
  dataSeq : Nat
  servesUnit : Bool := false
deriving DecidableEq, Repr, Inhabited

/-- A write unit: an atomic write unit (R72), or a control record waiting for submission (R83). `zeroChunks` lists the chunks
that a Write Zeroes piece turns to ZERO (09_command_queues R370); `reply` holds what a forwarded atomic operation answers. -/
structure WUnit where
  id : Nat
  src : WSrc
  cls : WClass := .general
  region : Nat
  lines : List LineWrite := []
  zeroChunks : List Nat := []
  zeroLines : Option (Nat × Nat) := none
  phase : UPhase := .waiting
  arrived : Nat := 0
  mirrored : Bool := false
  accepted : Bool := false
  acceptNo : Nat := 0
  gen : Nat := 0
  msn : Nat := 0
  originSeq : Option Nat := none
  capture : Bool := false
  slots : List Nat := []
  reply : Bytes := []
deriving DecidableEq, Repr, Inhabited

/-- States of a drawer slot that is not FREE (R62). -/
inductive SlotState where
  | reserved
  | staged
  | held
deriving DecidableEq, Repr, Inhabited

/-- A drawer line slot with its descriptor (R62): the bank is the slot number divided by 8,192. -/
structure DSlot where
  state : SlotState
  unit : Nat
  cls : WClass
  src : WSrc
  region : Nat
  line : Nat
  mask : Mask
  poison : Bool
  data : Line
  ack : Nat := 0
  msn : Option Nat := none
deriving DecidableEq, Repr, Inhabited

/-- Where a line copy of the recent-write map stands (R66): a HELD slot, or a line of a chest record. -/
inductive Place where
  | slot (n : Nat)
  | chest (seq index : Nat)
deriving DecidableEq, Repr, Inhabited

/-- A copy that the recent-write map names, in acknowledgement order. -/
structure Copy where
  region : Nat
  line : Nat
  ack : Nat
  place : Place
deriving DecidableEq, Repr, Inhabited

/-- The body of a CHECKPOINT record (04_tiers R129), with what the checkpoint wrote to the system stripes. -/
structure CkptBody where
  number : Nat
  startSeq : Nat
  pages : Nat
deriving DecidableEq, Repr, Inhabited

/-- What a journal record carries (R78). -/
inductive RecKind where
  | data
  | lineset
  | map (entries : List MapUpd)
  | metaRec (items : List MetaItem)
  | checkpoint (body : CkptBody)
  | drain (t0 trigger lines firstSeq : Nat)
  | pad (lines : Nat)
  | reserved (type : Nat)
deriving DecidableEq, Repr, Inhabited

/-- A line as a record holds it: its region and the line write. -/
structure RecLine where
  region : Nat
  lw : LineWrite
deriving DecidableEq, Repr, Inhabited

/-- A journal record (R77 to R80). While queued, `slots` names the drawer slots that hold its lines; once it is in the chest,
`lines` holds them. `complete` is the valid mark. `zeroMsn` names the mirrored unit, by region and MSN, of a MAP record that turns whole chunks
ZERO and has no other record (09_command_queues R370). -/
structure JRec where
  seq : Nat := 0
  originSeq : Nat := 0
  origin : Nat := 0
  kind : RecKind
  region : Nat := 0
  mirrorCopy : Bool := false
  mirrored : Bool := false
  capture : Bool := false
  gen : Nat := 0
  groupBeat : Nat := 0
  slots : List Nat := []
  slotClass : WClass := .general
  drawerLines : Nat := 0
  lines : List RecLine := []
  lastAck : Nat := 0
  metaId : Option Nat := none
  pos : Nat := 0
  complete : Bool := false
  payloadBad : Bool := false
  zeroMsn : Option (Nat × Nat) := none
  placed : Bool := false
deriving DecidableEq, Repr, Inhabited

/-- A journal anchor (R82). -/
structure Anchor where
  line : Nat
  seq : Nat
  generation : Nat
deriving DecidableEq, Repr, Inhabited

/-- Condition of a drawer bank (R107). -/
inductive BankState where
  | failing
  | disabled
deriving DecidableEq, Repr, Inhabited

/-- A power-fail drain in progress (R95). -/
structure DrainRun where
  t0 : Nat
  trigger : Nat
  firstSeq : Nat
  lines : Nat := 0
  done : Bool := false
deriving DecidableEq, Repr, Inhabited

/-- A Persist Fence that waits (R87): the acknowledgements up to `mark` that SCOPE selects. -/
structure Fence where
  qid : Nat
  cid : Nat
  scope : Nat
  region : Nat
  mark : Nat
  beat : Nat
deriving DecidableEq, Repr, Inhabited

/-- What is left to do when a META record is complete wherever it must be (05_regions R169). -/
inductive MetaAct where
  | answer (path : BcsPath) (opcode rc : Nat) (out : Bytes)
  | answerSeq (path : BcsPath) (opcode : Nat)
  | attrs (region : Nat) (shed : Option Nat) (label : Option Bytes) (command : Option Bool)
      (masks : Option (BitVec 256 × BitVec 256))
  | item (i : MetaItem)
  | event (code : Nat) (severity : Severity) (data : Bytes)
  | checkpoint
  | releaseExtents (region first : Nat)
  | destroyKey (slot : Nat)
  | removeRegion (region : Nat)
  | moveDone (region : Nat)
  | metaDone (seq : Nat)
  | takeover
  | dissolved
  | formed
deriving DecidableEq, Repr, Inhabited

/-- A META change that is not yet complete in every chest that must hold it (R169, 06_pair R214). -/
structure MetaWait where
  id : Nat
  items : List MetaItem
  acts : List MetaAct
  localDone : Bool := false
  partnerDone : Bool := true
  seq : Nat := 0
deriving DecidableEq, Repr, Inhabited

/-- The persistence unit and the chest. The first part is volatile; the chest part survives power loss. -/
structure Persist where
  slots : AMap DSlot := []
  nextBank : Nat := 0
  banks : AMap BankState := []
  copies : List Copy := []
  units : List WUnit := []
  nextUnit : Nat := 0
  nextAck : Nat := 0
  nextAccept : Nat := 0
  openGroup : List JRec := []
  mirrorGroup : List JRec := []
  openSet : List Nat := []
  queue : List JRec := []
  freeNext : List Nat := []
  ctlWaiting : List JRec := []
  metaWaits : List MetaWait := []
  nextMeta : Nat := 0
  waitBeats : Nat := 0
  waitReported : Bool := false
  writerDone : Nat := 0
  writerBudget : Nat := 384
  ingestUsed : Nat := 0
  drain : Option DrainRun := none
  fences : List Fence := []
  chest : List JRec := []
  nextSeq : Nat := 1
  writePos : Nat := 0
  reclaimLine : Nat := 0
  reclaimSeq : Nat := 1
  anchorA : Option Anchor := some ⟨0, 1, 0⟩
  anchorB : Option Anchor := none
  lastAnchorBeat : Nat := 0
  rowsRetired : List Nat := []
  rowRemaps : List Nat := []
  spareRows : Nat := 32768
  ingestLimit : Option Nat := none
  writesRefused : Bool := false
  bankLost : Bool := false
deriving DecidableEq, Repr, Inhabited

end Sys2Proof
end

