-- ==== Sys2Proof/Types/Tiers.lean ====
section
/-! DEFINITION. State of the shelf and the cabinet: segment cache, chunk map, checkpoints, stripes, write-back and relocation
(04_tiers). -/

namespace Sys2Proof

/-- Addressed bytes, canonical: addresses strictly rising, no zero byte listed; an unlisted address reads as zero. -/
abbrev Memory := List Host.Cell

/-- A map entry (04_tiers R23, R121) with its DATA_SEQ (R123). An absent entry is ZERO. -/
structure MapEntry where
  state : Nat
  addr : Nat
  dataSeq : Nat := 0
deriving DecidableEq, Repr, Inhabited

/-- A segment-cache slot descriptor (R111). VALID and DIRTY are bitmaps; `bucketOrder` orders the slots of one AGE bucket;
`changed` gives the beat of the last change of each chunk, `placed` the highest SEQ placed in it, `low` the lowest SEQ placed since
the chunk was last clean; `phys` is the slot's place in the partition. -/
structure SegSlot where
  valid : Nat := 0
  dirty : Nat := 0
  pins : Nat := 0
  age : Nat := 0
  filling : Bool := false
  bucketOrder : Nat := 0
  changed : AMap Nat := []
  placed : AMap Nat := []
  low : AMap Nat := []
  phys : Nat := 0
deriving DecidableEq, Repr, Inhabited

/-- Metadata of a programmed cabinet chunk (R125). -/
structure ChunkMeta where
  lcn : Nat
  kind : Nat := 0
  region : Nat := 0
  dataSeq : Nat := 0
  nonce : Nat := 0
  tag : Nat := 0
  erases : Nat := 0
  poison : List Nat := []
deriving DecidableEq, Repr, Inhabited

/-- States of a stripe (R134). -/
inductive StripeState where
  | free
  | openData
  | openReloc
  | openSystem
  | closed
  | retired
deriving DecidableEq, Repr, Inhabited

/-- A row of a stripe: the beat of its first program, and the channels whose members are programmed. -/
structure Row where
  first : Nat
  members : List Nat := []
  closed : Bool := false
deriving DecidableEq, Repr, Inhabited

/-- A stripe (R132 to R134, R146, R147). `bad` lists the channels whose member is left out. -/
structure Stripe where
  state : StripeState := .free
  erases : Nat := 0
  reads : Nat := 0
  closedOrder : Nat := 0
  rows : AMap Row := []
  bad : List Nat := []
  relocations : AMap Nat := []
deriving DecidableEq, Repr, Inhabited

/-- A chunk on its way to the cabinet (R137, R138): the address programmed, the entry's address when it was taken, the SEQ
placed through, and whether a relocation took it. -/
structure CabWrite where
  lcn : Nat
  addr : Nat
  fromAddr : Nat
  through : Nat
  reloc : Bool := false
  staged : Bool := false
deriving DecidableEq, Repr, Inhabited

/-- A retired LUN-block (R149): the beat, the cause as event 0x0305 gives it, and its erase count. -/
structure RetiredBlock where
  beat : Nat
  cause : Nat
  erases : Nat
deriving DecidableEq, Repr, Inhabited

/-- A LUN's condition (R149): failed, and its retired blocks. -/
structure Lun where
  failed : Bool := false
  retired : AMap RetiredBlock := []
deriving DecidableEq, Repr, Inhabited

/-- A segment fill (R117): the chunks still to read, in order. -/
structure Fill where
  segment : Nat
  chunks : List Nat
deriving DecidableEq, Repr, Inhabited

/-- An operation on a LUN that a read may suspend (R140). -/
structure LunOp where
  erase : Bool
  suspends : Nat := 0
  resumedAt : Nat := 0
deriving DecidableEq, Repr, Inhabited

/-- A rebuild after a LUN failure (R150). -/
structure Rebuild where
  lun : Nat
  stripes : List Nat
  relocated : Nat := 0
deriving DecidableEq, Repr, Inhabited

/-- A running checkpoint (R127): START_SEQ, its start and the pages that step 2 writes. -/
structure CkptRun where
  number : Nat
  startSeq : Nat
  beat : Nat
  pages : List Nat
  image : AMap MapEntry
  snapshot : List MetaItem
deriving DecidableEq, Repr, Inhabited

/-- The shelf and the cabinet. `shelf` is keyed by logical byte address (LCN times 65,536 plus the byte), `cab` by cabinet chunk
address times 65,536 plus the byte; the poison lists are keyed by address over 64. -/
structure Tiers where
  -- shelf (volatile)
  shelf : Memory := []
  shelfPoison : List Nat := []
  segs : AMap SegSlot := []
  touchCount : Nat := 0
  slotsTotal : Nat := 0
  partMap : Nat := 0
  partReplay : Nat := 0
  partCapture : Nat := 0
  mappedOut : List Nat := []
  slotWaiters : List Nat := []
  slotWaitBeats : Nat := 0
  slotWaitReported : Bool := false
  fills : List Fill := []
  map : AMap MapEntry := []
  dirtyPages : List Nat := []
  wbHead : List Nat := []
  inFlight : List CabWrite := []
  ckpt : Option CkptRun := none
  ckptAgain : Bool := false
  rebuilds : List Rebuild := []
  opBand : Nat := 2
  opBeat : Nat := 0
  -- cabinet (nonvolatile)
  cab : Memory := []
  chunkMeta : AMap ChunkMeta := []
  stripes : AMap Stripe := []
  stripeClock : Nat := 0
  luns : AMap Lun := []
  lunOps : AMap LunOp := []
  ckptNumber : Nat := 0
  ckptStart : Nat := 0
  ckptBeat : Nat := 0
  ckptMap : AMap MapEntry := []
  ckptMeta : List MetaItem := []
  rotate : Nat := 0
  mapBytes : Nat := 0
  opN : Nat := 0
  opG : Nat := 0
  opD : Nat := 0
  opValue : Nat := 0
deriving DecidableEq, Repr, Inhabited

end Sys2Proof
end

