-- ==== Sys2Proof/Machine/Mem.lean ====
section
/-! DEFINITION. Byte memory in canonical form: addresses strictly rising, no zero byte listed, an unlisted address reads as zero.
The shelf and the cabinet are held so. -/

namespace Sys2Proof.Machine

/-- The byte at address `a`. -/
def memRead (a : Nat) : Memory → Byte
  | [] => 0
  | (j, b) :: r => if j = a then b else memRead a r

/-- The memory with no entry at `a`. -/
def memClear (a : Nat) : Memory → Memory
  | [] => []
  | (j, b) :: r => if j = a then r else if a < j then (j, b) :: r else (j, b) :: memClear a r

/-- The memory with byte `b`, which is not zero, listed at `a`. -/
def memInsert (a : Nat) (b : Byte) : Memory → Memory
  | [] => [(a, b)]
  | (j, c) :: r => if a < j then (a, b) :: (j, c) :: r else if j = a then (a, b) :: r else (j, c) :: memInsert a b r

/-- Write one byte. -/
def memWrite (a : Nat) (b : Byte) (m : Memory) : Memory := if b = 0 then memClear a m else memInsert a b m

/-- The form of a memory above a lower bound. -/
def Memory.wfFrom : Nat → Memory → Bool
  | _, [] => true
  | lo, (a, b) :: r => decide (lo ≤ a) && decide (b ≠ 0) && Memory.wfFrom (a + 1) r

/-- The canonical form: addresses strictly rising, no zero byte listed. -/
def Memory.wf (m : Memory) : Bool := Memory.wfFrom 0 m

/-- `n` bytes from address `a`. -/
def memReadN (m : Memory) (a n : Nat) : Bytes := (List.range n).map fun i => memRead (a + i) m

/-- Write bytes from address `a`. -/
def memWriteN : Nat → Bytes → Memory → Memory
  | _, [], m => m
  | a, b :: r, m => memWriteN (a + 1) r (memWrite a b m)

/-- The line at line address `k` (byte address over 64). -/
def memLine (m : Memory) (k : Nat) : Line := lineOf (memReadN m (k * 64) 64)

/-- Write a line at line address `k`. -/
def memWriteLine (k : Nat) (l : Line) (m : Memory) : Memory := memWriteN (k * 64) (lineBytes l) m

/-- Every byte from `a` for `n` bytes reads as zero. -/
def memErase (a n : Nat) (m : Memory) : Memory := m.filter fun c => decide (c.1 < a) || decide (a + n ≤ c.1)

/-- A copy of the `n` bytes from `a`, as cells at their offset from `a`. -/
def memCut (a n : Nat) (m : Memory) : Memory :=
  (m.filter fun c => decide (a ≤ c.1) && decide (c.1 < a + n)).map fun c => (c.1 - a, c.2)

/-- The memory with the cells of `w` written at `a`, over `n` bytes erased first. -/
def memPaste (a n : Nat) (w : Memory) (m : Memory) : Memory :=
  w.foldl (fun m c => memWrite (a + c.1) c.2 m) (memErase a n m)

/-- Insert a key in a strictly rising list of keys. -/
def setInsert (k : Nat) : List Nat → List Nat
  | [] => [k]
  | j :: r => if k < j then k :: j :: r else if j = k then j :: r else j :: setInsert k r

/-- Mark or unmark a key. -/
def setTo (on : Bool) (k : Nat) (l : List Nat) : List Nat := if on then setInsert k l else l.filter (· != k)

end Sys2Proof.Machine
end

