-- ==== Sys2Proof/Config.lean ====
section
/-! DEFINITION. Values that the specification leaves open. They have no body: nothing can evaluate them, and a statement that
mentions one holds for every value. -/

namespace Sys2Proof

/-- The n-th free value that the machine drew: a value that the specification leaves open. -/
opaque Config.free : Nat → BitVec 512

/-- The public key, the signature and the shared secret of the algorithms whose outputs the specification names by their standard
only (14_trust R521): XMSS signatures, and ML-KEM-1024 key generation, encapsulation and decapsulation. -/
opaque Config.sign : Bytes → Nat → Bytes → Bytes

/-- Whether a signature over a message verifies under a public key. -/
opaque Config.verify : Bytes → Bytes → Bytes → Bool

/-- ML-KEM-1024: the encapsulation key and the decapsulation key from a seed. -/
opaque Config.kemKeyGen : Bytes → Bytes × Bytes

/-- ML-KEM-1024: the ciphertext and the shared secret from an encapsulation key and a seed. -/
opaque Config.kemEncaps : Bytes → Bytes → Bytes × Bytes

/-- ML-KEM-1024: the shared secret from a decapsulation key and a ciphertext. -/
opaque Config.kemDecaps : Bytes → Bytes → Bytes

/-- The identity key pair, generated at manufacture (14_trust R518): its private seed and its 68-byte public key. -/
opaque Config.identitySeed : Bytes
opaque Config.identityKey : Bytes

/-- The rest of the certificate (14_trust R522): manufacture date, issuer public key and issuer signature. -/
opaque Config.certDate : Nat
opaque Config.certIssuer : Bytes
opaque Config.certSignature : Bytes

/-- The silicon stepping, the serial number and the root hash, fixed at manufacture (14_trust R513, 13_management R504). -/
opaque Config.stepping : Nat
opaque Config.serial : Nat
opaque Config.rootHash : Bytes

/-- The firmware image with which the part is shipped (15_config_flash_events R559). -/
opaque Config.shippedImage : Bytes

/-- The device unique secret, fused at manufacture (14_trust R513). -/
opaque Config.dus : Bytes

/-- The salt drawn at manufacture (14_trust R525). -/
opaque Config.salt : Bytes

/-- The cabinet program capacity in bytes per second by the LUNs per channel (04_tiers R143). -/
opaque Config.programRate : Nat → Nat

/-- Numbers that the specification leaves open and that are fixed for a part: fields of standard CXL outputs and the like. -/
opaque Config.fixed : Nat → Nat

/-- The Vendor Debug log at a read-out protection level (13_management R493, 14_trust R534). -/
opaque Config.debugLog : Nat → Bytes

/-- The bank, with its pseudo-channel, and the row of a shelf byte address (12_integrity R462, R474). -/
opaque Config.dramBank : Nat → Nat
opaque Config.dramRow : Nat → Nat

/-- The repair rows that the stacks report for a bank (12_integrity R474, 17_startup_service_life R610). -/
opaque Config.repairRows : Nat → Nat

/-- The bytes that stand under the poison mark of a line of a region, where the specification gives none (12_integrity R458). -/
opaque Config.poisonBytes : Nat → Nat → Line

/-- Where the device starts to look for a free logical extent, by the extents held (05_regions R160). -/
opaque Config.extentChoice : List Nat → Nat

/-- The shelf pages that a number of entries takes in lent pages: 0 for the recent-write map, 1 for the poison ledger (03_persistence
R67, 12_integrity R459). -/
opaque Config.pagesFor : Nat → Nat → Nat

end Sys2Proof
end

