-- ==== Sys2Proof/Machine/Maps.lean ====
section
/-! DEFINITION. Operations over keyed lists (`AMap`): lookup, insertion in key order, removal. Every sparse table of the model
goes through these. -/

namespace Sys2Proof.Machine

/-- The value under key `k`. -/
def mget {α : Type} (k : Nat) : AMap α → Option α
  | [] => none
  | (j, v) :: r => if j = k then some v else mget k r

/-- The value under key `k`, or `d` where no entry is listed. -/
def mgetD {α : Type} (d : α) (k : Nat) (m : AMap α) : α := (mget k m).getD d

/-- The table with `v` under key `k`, entries in key order. -/
def mput {α : Type} (k : Nat) (v : α) : AMap α → AMap α
  | [] => [(k, v)]
  | (j, w) :: r =>
    if k < j then (k, v) :: (j, w) :: r
    else if j = k then (k, v) :: r
    else (j, w) :: mput k v r

/-- The table without key `k`. -/
def mdel {α : Type} (k : Nat) : AMap α → AMap α
  | [] => []
  | (j, w) :: r => if j = k then mdel k r else (j, w) :: mdel k r

/-- Update the entry under `k`, where there is one. -/
def mmod {α : Type} (k : Nat) (f : α → α) : AMap α → AMap α
  | [] => []
  | (j, w) :: r => if j = k then (j, f w) :: mmod k f r else (j, w) :: mmod k f r

/-- Update the entry under `k`, starting from `d` where none is listed. -/
def mmodD {α : Type} (d : α) (k : Nat) (f : α → α) (m : AMap α) : AMap α := mput k (f (mgetD d k m)) m

/-- Whether key `k` is listed. -/
def mhas {α : Type} (k : Nat) (m : AMap α) : Bool := (mget k m).isSome

/-- The smallest number from `n` on, over `fuel` tries, that `used` does not claim. -/
def firstFree (used : Nat → Bool) : Nat → Nat → Option Nat
  | 0, _ => none
  | fuel + 1, n => if used n then firstFree used fuel (n + 1) else some n

end Sys2Proof.Machine
end

