-- ==== Sys2Proof/Machine/SlotDefault.lean ====
section
/-! DEFINITION. The default slot table and its construction (02_beat R39, R45). -/

namespace Sys2Proof.Machine

/-- A granted entry of a slot table (R39). -/
def grantEntry (id : Nat) : BitVec 16 := BitVec.ofNat 16 (0x8000 + id)

/-- Entries that the default table gives a stream (R45). -/
def defaultShare (id : Nat) : Nat :=
  if 1 ≤ id ∧ id ≤ 8 then 29 else if 9 ≤ id ∧ id ≤ 0x10 then 49 else if id = 0x11 ∨ id = 0x12 then 198 else 0

/-- The first open cycle from `c` on, cyclically (R45). -/
def openCycle (t : AMap (BitVec 16)) : Nat → Nat → Nat
  | 0, c => c
  | fuel + 1, c => if mhas c t then openCycle t fuel ((c + 1) % 1024) else c

/-- Grant entry k of a stream (R45). -/
def placeDefault (id k : Nat) (t : AMap (BitVec 16)) : AMap (BitVec 16) :=
  mput (openCycle t 1024 ((k * 1024 / defaultShare id + id - 1) % 1024)) (grantEntry id) t

/-- The default table (R45): streams in ascending order, each stream's entries in order. -/
def defaultTable : AMap (BitVec 16) :=
  ((List.range 0x12).map (· + 1)).foldl
    (fun t id => (List.range (defaultShare id)).foldl (fun t k => placeDefault id k t) t) []

end Sys2Proof.Machine
end

