-- ==== Sys2Proof/Types/Cap.lean ====
section
/-! DEFINITION. State of line-rate capture and deterministic replay (10_capture_replay). -/

namespace Sys2Proof

/-- A ring configuration (R387) with the region and control block that CONFIGURE names. -/
structure RingConf where
  region : Nat
  control : Nat
  cls : Nat
  mode : Nat
  flags : Nat
  defaultAction : Nat
  defaultSlice : Nat
  dataOff : Nat
  dataSize : Nat
  idxOff : Nat
  idxSize : Nat
  post : Nat
deriving DecidableEq, Repr, Inhabited

/-- A record in the ring (R391): its logical offset and size, the beat it belongs to, its RSEQ (none for a pad record), and whether
it is durable. -/
structure RingRec where
  off : Nat
  size : Nat
  beat : Nat
  rseq : Option Nat
  durable : Bool := false
deriving DecidableEq, Repr, Inhabited

/-- A record in the receive buffer (R382): the logical offset it takes, the beat it belongs to, the stream bytes still
to check, and whether an error hit it (12_integrity R452). -/
structure BufRec where
  off : Nat
  bytes : Bytes
  beat : Nat
  checkLeft : Nat := 0
  poison : Bool := false
deriving DecidableEq, Repr, Inhabited

/-- A staged chunk of a ring (R396): the byte up to which it is filled, the byte up to which it has been programmed or is being
programmed, the byte up to which it is durable, and the beat of its first record. -/
structure StagedChunk where
  lcn : Nat
  port : Nat
  filled : Nat := 0
  programmed : Nat := 0
  durable : Nat := 0
  first : Nat := 0
deriving DecidableEq, Repr, Inhabited

/-- A timed action with its beat and who waits for it. -/
structure Timed where
  beat : Nat
  waiter : CtlFrom
deriving DecidableEq, Repr, Inhabited

/-- A capture ring (R393, R397, R401, R415). Timed actions stand in order of arrival; `index` holds the index records that name kept
records, as (logical offset, FIRST); `written` is what the control block last took; `sample` is the STATUS data of the last
boundary. -/
structure Ring where
  conf : Option RingConf := none
  state : Nat := 0
  cause : Nat := 0
  rules : List Bytes := []
  newRules : List (List Bytes × Timed) := []
  startAt : List (Bool × Timed) := []
  stopAt : List Timed := []
  releaseTo : List (Nat × Timed) := []
  write : Nat := 0
  tail : Nat := 0
  durable : Nat := 0
  indexNext : Nat := 0
  index : List (Nat × Nat) := []
  rseq : Nat := 0
  epoch : Nat := 0
  stored : Nat := 0
  dropped : Nat := 0
  dropsBefore : Nat := 0
  postLeft : Nat := 0
  stopping : Bool := false
  records : List RingRec := []
  buffer : List BufRec := []
  beatFirst : Option Nat := none
  beatCount : Nat := 0
  written : Nat × Nat × Nat := (0, 0, 0)
  sample : Bytes := []
deriving DecidableEq, Repr, Inhabited

/-- What comes next in the order of a program: a frame, a frame beyond its window, a bad record, or the end (R407, R412, R413). -/
inductive ItemKind where
  | frame
  | dropped
  | bad
  | finish
deriving DecidableEq, Repr, Inhabited

/-- An element of the schedule that a channel has fetched and not passed (R406 to R412): the cycle at which it is scheduled, SHIFT left
out; the record's region and offset; the frame without its FCS repaired, whether its FCS is sent inverted and why, and its size in
staging. -/
structure ReplayItem where
  kind : ItemKind
  step : Nat
  cyc : Nat
  region : Nat := 0
  off : Nat := 0
  frame : Bytes := []
  poison : Bool := false
  checkBad : Bool := false
  staged : Bool := false
  checkLeft : Nat := 0
  size : Nat := 0
deriving DecidableEq, Repr, Inhabited

/-- Where the fetch of a program stands (R404 to R409): the step, the repeat and the record in it; the byte in the pattern; the beat at
which the repeat starts and the cycles at which the wire is free and the last frame has left it, by the schedule; the first record's
timestamp and the sum of the gaps; the LOOP counts; the block of the pattern that has been read, with its poisoned lines, and the
gap list. -/
structure ReplayPos where
  step : Nat := 0
  rep : Nat := 0
  k : Nat := 0
  off : Nat := 0
  start : Nat := 0
  wireFree : Nat := 0
  wireEnd : Nat := 0
  lastAt : Nat := 0
  first : Nat := 0
  gapSum : Nat := 0
  loops : AMap Nat := []
  bufOff : Nat := 0
  buf : Bytes := []
  bufBad : List Nat := []
  gaps : Bytes := []
  fetching : Bool := false
  ended : Bool := false
deriving DecidableEq, Repr, Inhabited

/-- A replay channel (R404 to R417). STATE has the encodings of R417. `due` holds the frames of the beat with the cycles at which they
are scheduled; `wireFree` is the cycle at which the wire is free; `stopAfter` is the cause of a stop that waits for them. -/
structure Channel where
  state : Nat := 0
  cause : Nat := 0
  policy : Nat := 0
  fcsMode : Nat := 0
  flags : Nat := 0
  lead : Nat := 131072
  filler : Bytes := []
  program : List Bytes := []
  domain : Nat := 0
  startBeat : Nat := 0
  startAt : Option Timed := none
  stopAt : List Timed := []
  fetch : ReplayPos := {}
  items : List ReplayItem := []
  due : List ReplayItem := []
  wireFree : Nat := 0
  curStep : Nat := 0
  shift : Nat := 0
  episode : Nat := 0
  slip : Nat := 0
  underruns : Nat := 0
  late : Nat := 0
  sent : Nat := 0
  poisoned : Nat := 0
  windowDrops : Nat := 0
  stopAfter : Option Nat := none
  sample : Bytes := []
deriving DecidableEq, Repr, Inhabited

/-- Capture and replay. `staging` holds the bytes of staged chunks by logical byte address; `drainNow` and `drainLast` count the bytes
that journal drain programmed in this window of 1,024 beats and in the last one (01_architecture R28). -/
structure Cap where
  rings : AMap Ring := []
  staging : Memory := []
  stagingPoison : List Nat := []
  chunks : List StagedChunk := []
  chunkLimit : Nat := 0
  lastRing : Nat := 0
  backlogHigh : Bool := false
  drainNow : Nat := 0
  drainLast : Nat := 0
  channels : AMap Channel := []
  stagingPerChannel : Nat := 0
deriving DecidableEq, Repr, Inhabited

end Sys2Proof
end

