-- ==== Sys2Proof/Types/Ecc.lean ====
section
/-! DEFINITION. State of data integrity and the DRAM controller (12_integrity). -/

namespace Sys2Proof

/-- An entry of the poison ledger (R459). -/
structure LedgerEntry where
  region : Nat
  line : Nat
  beat : Nat
  cause : Nat
deriving DecidableEq, Repr, Inhabited

/-- An entry of the scrub summary (R462). -/
structure ScrubEntry where
  address : Nat
  memory : Nat
  kind : Nat
  region : Nat
  detail : Nat := 0
deriving DecidableEq, Repr, Inhabited

/-- A scrub and its summary (R460, R461). `scan` names the LD of a Scan Media (R463); `overflowed` says that the ledger
overflowed meanwhile (R459). -/
structure Scrub where
  state : Nat := 0
  target : Nat := 0
  region : Nat := 0
  start : Nat := 0
  length : Nat := 0
  scanned : Nat := 0
  ceShelf : Nat := 0
  ceChest : Nat := 0
  ceDrawer : Nat := 0
  cabRetry : Nat := 0
  cabRecon : Nat := 0
  recovered : Nat := 0
  newly : Nat := 0
  already : Nat := 0
  entries : List ScrubEntry := []
  abortAt : Option Nat := none
  path : Option BcsPath := none
  scan : Option Nat := none
  ranges : List (Nat × Nat × Nat) := []
  overflowed : Bool := false
deriving DecidableEq, Repr, Inhabited

/-- A stack of the shelf (R466 to R468): band, temperature, half rate, and whether a first reading has been taken. -/
structure Stack where
  band : Nat := 0
  temp : Int := 0
  half : Bool := false
  ready : Bool := false
deriving DecidableEq, Repr, Inhabited

/-- A band or rate change in progress (R467, R468): the stack, the band it goes to, and when its pseudo-channel was quiesced. -/
structure BandChange where
  stack : Nat
  band : Nat
  old : Nat
  pc : Nat
  since : Nat
  rate : Bool := false
deriving DecidableEq, Repr, Inhabited

/-- Error counters, the error log, the poison ledger, the scrub and the DRAM controller (R475). `err` has the layout of
DCB.ECC_ERR; `repairs` counts the repair rows used by bank, `rowsAwaiting` the rows that await hard repair; `mapRebuild` gives the map
pages being rebuilt with the beat of each, `windowCe`, `thresholdDone` and `rowCe` count the corrected errors of the window of R449 by memory and by shelf row, `dirtyRecover` the pages under recovery with the lines that were lost; the counters are keyed by memory: 0 shelf, 1 drawer, 2 chest, 3 other SRAM. -/
structure Ecc where
  err : BitVec 10 := 0
  ce : AMap Nat := []
  ue : AMap Nat := []
  windowCe : AMap Nat := []
  window : Nat := 0
  thresholdDone : List Nat := []
  rowCe : AMap Nat := []
  poisonOut : Nat := 0
  logAddr : Nat := 0
  logHi : Word := 0
  logValid : Bool := false
  logRecovered : Bool := false
  logPort : Nat := 0
  logPc : Nat := 0
  logMemory : Nat := 0
  ledger : List LedgerEntry := []
  ledgerOverflow : Bool := true
  ledgerTime : Nat := 0
  scrub : Scrub := {}
  stack0 : Stack := {}
  stack1 : Stack := {}
  change : Option BandChange := none
  refreshes : AMap Nat := []
  owedRefreshes : List (Nat × Nat) := []
  repairs : AMap Nat := []
  rowsAwaiting : List (Nat × Nat) := []
  bankExhausted : Bool := false
  mapRebuild : AMap Nat := []
  rwmRebuild : Option Nat := none
  dirtyRecover : List (Nat × Nat × List Nat) := []
deriving DecidableEq, Repr, Inhabited

end Sys2Proof
end

