-- ==== Sys2Proof/Types/Gqp.lean ====
section
/-! DEFINITION. State of the queue engine: queue pairs, their rings, the commands in flight, notices, Transfer-Readys, the admin
queue registers and the arbiter (09_command_queues). -/

namespace Sys2Proof

/-- Where a piece of a command stands (R358, R367): its unit waits for admission, its Transfer-Ready is out, its bytes are on the
way to acknowledgement, acknowledged, or abandoned. -/
inductive PieceSt where
  | waiting
  | ready (tag : Nat)
  | staged
  | acked
  | gone
deriving DecidableEq, Repr, Inhabited

/-- A piece of a command that writes (03_persistence R73): its offset within the command's range, and its length. -/
structure Piece where
  index : Nat
  off : Nat
  len : Nat
  state : PieceSt := .waiting
deriving DecidableEq, Repr, Inhabited

/-- A command in flight (R341): its entry (R346) with the inline data and the data-pointer list (R347), whether it has started and has been executed, its pieces,
the status that it ends with once they are settled, the acknowledgements before its fetch (R375), and the source pieces that a partner has returned with their poisoned
lines; `waitsPeer` says that the partner has a part of a Drain To Cabinet to do (R375). -/
structure GqpCmd where
  cid : Nat
  entry : Bytes
  inline : Bytes := []
  list : Bytes := []
  started : Bool := false
  running : Bool := false
  pieces : List Piece := []
  status : Nat := 0
  result : Bytes := []
  ackMark : Nat := 0
  count : Nat := 0
  due : Option Nat := none
  waitChunks : List Nat := []
  waitsPeer : Bool := false
  src : AMap Bytes := []
  bad : List Nat := []
deriving DecidableEq, Repr, Inhabited

/-- A queue pair (R342, R350, R353): its attributes, its ring indices, and what is queued on it. `ring` holds the entries of a
capsule submission ring that are not fetched; `unread` the CIDs of entries written and not consumed, its number bounding R351. -/
structure QueuePair where
  transport : Nat := 0
  depth : Nat := 64
  cqDepth : Nat := 64
  cls : Nat := 0
  domain : Nat := 0
  noticeMask : BitVec 16 := 0
  headNum : Nat := 0
  sqBase : Nat := 0
  cqBase : Nat := 0
  vector : Nat := 0
  aggCount : Nat := 0
  aggBeats : Nat := 0
  qpn : Nat := 0
  rxSize : Nat := 0
  sqTail : Nat := 0
  sqHead : Nat := 0
  cqTail : Nat := 0
  cqHead : Nat := 0
  phase : Bool := true
  unread : Nat := 0
  cmds : List GqpCmd := []
  ring : List (Bytes × Bytes) := []
  notices : List Bytes := []
  unsignalled : Nat := 0
  firstUnsignalled : Nat := 0
  stopped : Bool := false
  deleting : Option Nat := none
  deletePath : Option BcsPath := none
  aborted : Nat := 0
  completed : Nat := 0
  failed : Nat := 0
deriving DecidableEq, Repr, Inhabited

/-- An outstanding Transfer-Ready (R358, R360). -/
structure TransferReady where
  key : Nat
  qid : Nat
  cid : Nat
  piece : Nat
  beat : Nat
deriving DecidableEq, Repr, Inhabited

/-- The admin queue registers (R354). -/
structure AdminRegs where
  owner : Nat := 0
  fatal : Bool := false
  rdy : Bool := false
  en : Bool := false
  enBeat : Nat := 0
  cqd : Nat := 0x3F
  sqd : Nat := 0x3F
  sqb : Nat := 0
  cqb : Nat := 0
  vector : Nat := 0
  aggBeats : Nat := 0
  aggCount : Nat := 0
deriving DecidableEq, Repr, Inhabited

/-- The queue engine. `ptr` and `credit` are keyed by class (R364). -/
structure Gqp where
  pairs : AMap QueuePair := []
  aq : AdminRegs := {}
  transfers : AMap TransferReady := []
  limitBeats : Nat := 0
  limitReported : Bool := false
  ptr : AMap Nat := []
  credit : AMap Nat := []
deriving DecidableEq, Repr, Inhabited

end Sys2Proof
end

