-- ==== Sys2Proof/Types/Ident.lean ====
section
/-! DEFINITION. What is fixed for one part on one board: ordering code, controller ID and the cabinet's geometry. -/

namespace Sys2Proof

/-- Identity of the part and geometry of its cabinet (00_scope R1, 04_tiers R131): H96 or H48, the 12-bit controller ID, LUNs per
channel, blocks per LUN, chunks per block. -/
structure Ident where
  h96 : Bool := true
  controllerId : Nat := 1
  lunsPerChannel : Nat := 32
  blocksPerLun : Nat := 2048
  pagesPerBlock : Nat := 2048
deriving DecidableEq, Repr, Inhabited

end Sys2Proof
end

