-- ==== Sys2Proof/Types/Mc.lean ====
section
/-! DEFINITION. State of the management complex: lockstep pairs, mailboxes, sideband, background commands and firmware images
(13_management). -/

namespace Sys2Proof

/-- A CXL mailbox (13_management R488). -/
structure Mailbox where
  doorbell : Bool := false
  dbIrqEn : Bool := false
  bgIrqEn : Bool := false
  payloadLen : Nat := 0
  opcode : Nat := 0
  vstatus : Nat := 0
  rc : Nat := 0
  bgOp : Bool := false
  bgVstatus : Nat := 0
  bgRc : Nat := 0
  bgPercent : Nat := 0
  bgOpcode : Nat := 0
  payload : Memory := []
deriving DecidableEq, Repr, Inhabited

/-- The sideband proxy (R490): STATE 0 idle, 1 running, 2 done, and its buffers. -/
structure Proxy where
  state : Nat := 0
  rc : Nat := 0
  input : Memory := []
  output : Bytes := []
deriving DecidableEq, Repr, Inhabited

/-- A result of a background command. -/
structure BgResult where
  rc : Nat
  vstatus : Nat := 0xFFFF
  out : Bytes := []
deriving DecidableEq, Repr, Inhabited

/-- A background command (R489): its path, and its result once it is finished. -/
structure BgCmd where
  path : BcsPath
  opcode : Nat
  result : Option BgResult := none
deriving DecidableEq, Repr, Inhabited

/-- A management reset in progress (R478, R509): cause, beat, and whether it waits for the NOR. -/
structure Restart where
  cause : Nat
  beat : Nat
  norWait : Bool := false
  toRom : Bool := false
deriving DecidableEq, Repr, Inhabited

/-- A firmware image slot (R506, 14_trust R515). -/
structure FwSlot where
  valid : Bool := false
  version : Nat := 0
  svn : Nat := 0
  image : Bytes := []
deriving DecidableEq, Repr, Inhabited

/-- A firmware transfer (R506, R507). -/
structure FwTransfer where
  slot : Nat
  next : Nat
  lastBeat : Nat
deriving DecidableEq, Repr, Inhabited

/-- A firmware activation that restarts the complex (R508); `rolled` once the previous image runs again. -/
structure FwActivation where
  slot : Nat
  previous : Nat
  beat : Nat
  rolled : Bool := false
deriving DecidableEq, Repr, Inhabited

/-- The management complex. A mailbox is keyed by LD index, or by 256 plus the head for the FM mailbox of a head. -/
structure Mc where
  active : Nat := 0
  failed0 : Bool := false
  failed1 : Bool := false
  spareUsable : Bool := true
  rom : Bool := false
  serving : Bool := false
  restarts : Nat := 0
  restart : Option Restart := none
  lastExpiry : Option Nat := none
  lastRefresh : Nat := 0
  mail : AMap Mailbox := []
  proxy : Proxy := {}
  sbAddr : Nat := 0x5A
  woke : Bool := false
  timeout : Bool := false
  nack : Bool := false
  pecErr : Bool := false
  xacts : Nat := 0
  pecErrs : Nat := 0
  nacks : Nat := 0
  bg : List BgCmd := []
  interrupted : List (BcsPath × Nat) := []
  fwA : FwSlot := { valid := true, version := 1 }
  fwB : FwSlot := {}
  fwActive : Nat := 0
  fwNext : Nat := 0
  fwRunning : Nat := 1
  transfer : Option FwTransfer := none
  activation : Option FwActivation := none
  alerts : Bytes := []
  irqPolicy : Bytes := []
  cleared : AMap Nat := []
deriving DecidableEq, Repr, Inhabited

end Sys2Proof
end

