-- ==== Sys2Proof/Types/Net.lean ====
section
/-! DEFINITION. State of the fabric ports, the RDMA queue pairs, the triggers and multipath placement (08_remote_access). -/

namespace Sys2Proof

/-- An Ethernet port (R287 to R293): its link, its speed code, its error bits (FLAP, ICRC, MISSQ, MP_DROP in bits 0 to 3), its
counters, its GIDs, and the QPs whose packet waits for a context. -/
structure EthPort where
  up : Bool := false
  speed : Nat := 0
  instrument : Bool := false
  err : BitVec 4 := 0
  rx : Word := 0
  drops : Word := 0
  gids : AMap Bytes := []
deriving DecidableEq, Repr, Inhabited

/-- States of a QP (R297). -/
inductive QpState where
  | reset
  | init
  | rtr
  | rts
  | err
deriving DecidableEq, Repr, Inhabited

/-- The encoding of STATE (13_management R503). -/
def QpState.code : QpState → Nat
  | .reset => 0
  | .init => 1
  | .rtr => 2
  | .rts => 3
  | .err => 4

/-- A ring that a QP names (R298): region, offset, base-2 logarithms of the slot size and of the slot count. -/
structure RingRef where
  region : Nat := 0
  offset : Nat := 0
  logSize : Nat := 0
  logCount : Nat := 0
deriving DecidableEq, Repr, Inhabited

/-- The attributes of a QP (R298), in the order of its QP block (13_management R503). -/
structure QpAttr where
  service : Nat := 0
  transport : Nat := 0
  port : Nat := 0
  sgid : Nat := 0
  destQpn : Nat := 0
  rqPsn : Nat := 0
  sqPsn : Nat := 0
  pmtu : Nat := 0
  ackTmo : Nat := 0
  retryCnt : Nat := 0
  rnrRetry : Nat := 0
  minRnrTmr : Nat := 0
  mpTmo : Nat := 0
  paths : Nat := 0
  logWindow : Nat := 0
  rdIn : Nat := 0
  rdOut : Nat := 0
  dscp : Nat := 0
  priority : Nat := 0
  pkey : Nat := 0
  vlan : Nat := 0
  sportBase : Nat := 0
  keyDomain : Nat := 0
  gqpDomain : Nat := 0
  dmac : Bytes := []
  dgid : Bytes := []
  recvRing : RingRef := {}
  cplRing : RingRef := {}
  dsq : RingRef := {}
deriving DecidableEq, Repr, Inhabited

/-- Kinds of a request message at a responder. -/
inductive RxKind where
  | write
  | send
  | read
  | atomic
  | flush
deriving DecidableEq, Repr, Inhabited

/-- A message that a responder has accepted and not yet answered: its PSN and packets, its immediate, its receive slot, the key it
passed, the pieces still to be acknowledged or returned, and what a READ or an atomic operation answers. -/
structure RxMsg where
  psn : Nat
  packets : Nat
  kind : RxKind
  length : Nat := 0
  imm : Option Nat := none
  isSend : Bool := false
  slot : Option Nat := none
  key : Option Nat := none
  left : Nat := 0
  data : AMap Bytes := []
  bad : List Nat := []
  region : Nat := 0
  off : Nat := 0
  original : Option (BitVec 64) := none
  beat : Nat := 0
  failed : Bool := false
deriving DecidableEq, Repr, Inhabited

/-- A message as it arrives for a QP: the rows of the transport. -/
inductive RdmaMsg where
  | write (req : RdmaReq) (data : Bytes) (imm : Option Nat)
  | send (req : RdmaReq) (data : Bytes) (imm : Option Nat)
  | read (req : RdmaReq) (length : Nat)
  | atomic (req : RdmaReq) (kind : Nat) (a b : BitVec 64)
  | flush (req : RdmaReq) (length : Nat)
deriving DecidableEq, Repr, Inhabited

/-- The result of an atomic operation kept for duplicates (R308). -/
structure AtomicResult where
  psn : Nat
  original : BitVec 64
deriving DecidableEq, Repr, Inhabited

/-- A work request on a send queue (R319): the 64 bytes read when it was fired, whether they could be read, the PSN and packets it
was sent with, its retries, and the beat at which it was sent last. `ackd` says that only its local write is left. On a capsule QP
`bytes` is the capsule, of the TYPE in `capsule` (09_command_queues R356). -/
structure SentWr where
  bytes : Bytes
  readable : Bool := true
  sent : Bool := false
  psn : Nat := 0
  packets : Nat := 0
  retries : Nat := 0
  rnrRetries : Nat := 0
  sentBeat : Nat := 0
  ackd : Bool := false
  capsule : Option Nat := none
deriving DecidableEq, Repr, Inhabited

/-- Work requests that an entry fired (R322). -/
structure FiredRun where
  entry : Nat
  qpn : Nat
  first : Nat
  count : Nat
deriving DecidableEq, Repr, Inhabited

/-- A multipath reassembly context (R330 to R332): what every packet must repeat, the packets placed, the pieces, and whether its
completion is due in MSN order. -/
structure MpCtx where
  msn : Nat
  msgLen : Nat
  va : Nat
  rkey : Nat
  imm : Option Nat
  placed : List Nat := []
  admitted : Nat := 0
  ackedPieces : List Nat := []
  lines : List LineWrite := []
  region : Nat := 0
  off : Nat := 0
  first : Nat := 0
  key : Nat := 0
  isRead : Bool := false
  done : Bool := false
deriving DecidableEq, Repr, Inhabited

/-- A QP (R296 to R301) with its responder, requester and multipath state. `credit` is the
number of SENDs that the host has let be outstanding since its last acknowledgement (09_command_queues R357). -/
structure Qp where
  attr : QpAttr := {}
  state : QpState := .reset
  onDie : Bool := true
  swapping : Bool := false
  lastUse : Nat := 0
  ePsn : Nat := 0
  msn : Nat := 0
  rx : List RxMsg := []
  atomics : List AtomicResult := []
  recvNext : Nat := 0
  cplOut : List Bool := []
  rnrUntil : Option Nat := none
  cplNext : Nat := 0
  cplHead : Nat := 0
  cplPhase : Bool := true
  sPsn : Nat := 0
  sends : List SentWr := []
  credit : Option Nat := none
  rateMbps : Nat := 0
  lastCnpRx : Option Nat := none
  lastCnpTx : Option Nat := none
  mp : List MpCtx := []
  cumMsn : Nat := 0xFFFFFF
  mpDone : Nat := 0
  mpStarted : Nat := 0
  mpLimit : Nat := 0
  mpAckDue : Bool := false
  counters : AMap Nat := []
deriving DecidableEq, Repr, Inhabited

/-- A trigger entry that is not free (R320). `match` conditions are in `mask` and `value`. -/
structure Trigger where
  kind : Nat
  rearm : Bool
  counter : Nat
  watch : Nat
  mask : Nat
  value : Nat
  threshold : Nat
  step : Nat
  sendQpn : Nat
  first : Nat
  count : Nat
deriving DecidableEq, Repr, Inhabited

/-- A Trigger Arm that takes effect at the next boundary (09_command_queues R366). -/
structure ArmWait where
  qid : Nat
  cid : Nat
  entry : Nat
  trigger : Option Trigger
  beat : Nat
deriving DecidableEq, Repr, Inhabited

/-- Ports, queue pairs and triggers. `fired` holds the runs that fired in this beat; `missQueue` the messages that wait for a
context, by port. -/
structure Net where
  ports : AMap EthPort := []
  portMode : Nat := 0
  qps : AMap Qp := []
  triggers : AMap Trigger := []
  counters : AMap Nat := []
  fired : List FiredRun := []
  arms : List ArmWait := []
  missQueue : AMap (List (Nat × RdmaMsg)) := []
  useClock : Nat := 0
deriving DecidableEq, Repr, Inhabited

end Sys2Proof
end

