-- ==== Sys2Proof/Types/Regions.lean ====
section
/-! DEFINITION. State of the regions: the region table, extent maps, changes in progress and pending boundary effects
(05_regions). -/

namespace Sys2Proof

/-- Protection of a region (05_regions R156, PROTECT). -/
inductive Protect where
  | none
  | encrypted
  | sealed
deriving DecidableEq, Repr, Inhabited

/-- Region states that are not FREE (R157). -/
inductive RegionState where
  | online
  | changing
  | offline
deriving DecidableEq, Repr, Inhabited

/-- A region descriptor (R156). `roReasons` has COMMAND in bit 0, SHED in bit 1, CHEST in bit 2, STALE in bit 3; the domain
masks have one bit per access domain. A region that is not listed in the table is FREE. -/
structure Region where
  state : RegionState := .online
  protect : Protect := .none
  isVolatile : Bool := false
  mirrored : Bool := false
  settee : Bool := false
  shed : Nat := 0
  seat : Nat := 0
  roReasons : BitVec 4 := 0
  size : Nat := 1
  mirrorGen : Nat := 0
  keySlot : Nat := 0
  created : Nat := 0
  label : Bytes := []
  readDomains : BitVec 256 := 0
  writeDomains : BitVec 256 := 0
deriving DecidableEq, Repr, Inhabited

/-- What a region change does (R172, R173). -/
inductive ChangeKind where
  | grow (size : Nat)
  | shrink (size : Nat)
  | delete
deriving DecidableEq, Repr, Inhabited

/-- The phase of a shrink or a deletion (R173): waiting for boundary D, waiting for the accesses in flight, journaling. -/
inductive ChangePhase where
  | waitBoundary
  | draining
  | journaling
deriving DecidableEq, Repr, Inhabited

/-- A change in progress on a region (R173). The path is none once a management reset has ended its command (13_management R492). -/
structure RegionChange where
  kind : ChangeKind
  path : Option BcsPath
  opcode : Nat
  boundary : Nat
  phase : ChangePhase
deriving DecidableEq, Repr, Inhabited

/-- A reason-bit change that takes effect at a boundary (R180). -/
structure RoChange where
  region : Nat
  bit : Nat
  value : Bool
  beat : Nat
deriving DecidableEq, Repr, Inhabited

/-- A domain-mask change that takes effect at a boundary (R178). -/
structure MaskChange where
  region : Nat
  read : BitVec 256
  write : BitVec 256
  beat : Nat
deriving DecidableEq, Repr, Inhabited

/-- The region table and what is changing in it. `extentMap` gives each region's logical extent numbers on this controller. -/
structure Regions where
  table : AMap Region := []
  extentMap : AMap (List Nat) := []
  changes : AMap RegionChange := []
  pendingRo : List RoChange := []
  pendingMasks : List MaskChange := []
  shedOrder : List Nat := []
  refused : AMap Nat := []
  capExtents : Nat := 0
deriving DecidableEq, Repr, Inhabited

end Sys2Proof
end

