-- ==== Sys2Proof/Types/Pair.lean ====
section
/-! DEFINITION. State of the twin pair: pair record, leases, mirroring, resync and the Mladtin Pairing Link (06_pair). -/

namespace Sys2Proof

/-- A message of the pairing link (06_pair R210). -/
structure MplMsg where
  vc : Nat
  opcode : Nat
  flags : Nat := 0
  mtag : Nat := 0
  region : Nat := 0
  operand : Nat := 0
  body : Bytes := []
deriving DecidableEq, Repr, Inhabited

/-- The pair record (R245, PAIR_RECORD). `retired` lists the controller IDs whose bit is set (R198). -/
structure PairRecord where
  pairId : Nat := 0
  id0 : Nat := 0
  id1 : Nat := 0
  mode : Nat := 0
  checkMode : Nat := 3
  keySlot : Nat := 0
  witness : Bool := false
  hash0 : Bytes := []
  hash1 : Bytes := []
  retired : List Nat := []
deriving DecidableEq, Repr, Inhabited

/-- An arming (R191): the identity hash named, and the beat at which it expires. -/
structure Arming where
  hash : Bytes
  expiry : Nat
deriving DecidableEq, Repr, Inhabited

/-- The role of this controller in a formation (R194, R197). -/
inductive FormRole where
  | initiator
  | joiner
  | survivor
deriving DecidableEq, Repr, Inhabited

/-- A formation in progress (R194): the step reached, the transcript, the partner's HELLO and the agreed secret. -/
structure Formation where
  role : FormRole
  step : Nat
  mode : Nat
  start : Nat
  hash : Bytes
  path : Option BcsPath
  transcript : Bytes := []
  partnerId : Nat := 0
  partnerKey : Bytes := []
  position : Nat := 0
  kemSecret : Bytes := []
  kPair : Bytes := []
deriving DecidableEq, Repr, Inhabited

/-- Mirror states (R233). -/
inductive MirrorSt where
  | current
  | sole
  | stale
  | resyncing
deriving DecidableEq, Repr, Inhabited

/-- The STATE encoding of R233. -/
def MirrorSt.code : MirrorSt → Nat
  | .current => 0
  | .sole => 1
  | .stale => 2
  | .resyncing => 3

/-- This controller's copy of a mirrored region: STATE, MIRROR_GEN and RESYNC_MARK (R233, R245). -/
structure MirrorCopy where
  state : MirrorSt
  gen : Nat
  mark : Nat := 0
  segments : List Nat := []
  bitmapValid : Bool := false
deriving DecidableEq, Repr, Inhabited

/-- A seal notice received and not yet acted on (R213). -/
structure SealNotice where
  region : Nat
  groupBeat : Nat
  runs : List SealRun
deriving DecidableEq, Repr, Inhabited

/-- A resync in progress (R235): the next offset to send or receive, and whether it is incremental. -/
structure Resync where
  region : Nat
  sender : Bool
  offset : Nat
  incremental : Bool
  beat : Nat
  lastMark : Nat
  budget : Nat := 0
  segments : List Nat := []
deriving DecidableEq, Repr, Inhabited

/-- A planned move of a seat, or of the chair (region 0) (R226): phase 0 waits for the admitted writes, 1 is being journaled, 2 is complete
in the target's chest. `ordinal` counts the moves of one command. -/
structure Move where
  region : Nat
  target : Nat
  boundary : Nat
  cause : Nat
  path : Option BcsPath
  phase : Nat := 0
  ordinal : Nat := 1
deriving DecidableEq, Repr, Inhabited

/-- The witness path (R191, R219). -/
structure WitnessPath where
  port : Nat
  addr : Bytes
  udp : Nat
deriving DecidableEq, Repr, Inhabited

/-- An access that is held (R217, R222): a CXL request, or one that the partner forwarded. -/
inductive HeldReq where
  | read (req : CxlReq)
  | write (req : CxlReq) (data : Line) (mask : Mask) (poison : Bool)
  | fwd (mtag region offset : Nat) (op : FwdOp)
deriving DecidableEq, Repr, Inhabited

/-- A chair-served command that waits for a chair (05_regions R168). -/
structure HeldBcs where
  path : BcsPath
  opcode : Nat
  input : Bytes
deriving DecidableEq, Repr, Inhabited

/-- Who waits for a forwarded request (01_architecture R25). -/
inductive FwdOrigin where
  | cxlRead (head tag region line : Nat)
  | cxlWrite (head tag region line : Nat)
  | gqpRead (qid cid piece : Nat)
  | gqpWrite (qid cid piece : Nat)
  | rdmaRead (qp psn piece : Nat)
  | rdmaWrite (qp psn piece : Nat)
  | rdmaAtomic (qp psn : Nat)
  | wrRead (qp psn : Nat)
  | wrWrite (qp psn : Nat)
  | mpWrite (qp msn piece : Nat)
  | mpRead (qp msn first : Nat)
  | bcs (path : BcsPath) (opcode : Nat)
  | replay (channel : Nat) (gaps : Bool)
  | bureau (job : Nat)
  | repair (drawer : Bool) (a index : Nat)
  | relay (mtag first : Nat)
  | control (waiter : CtlFrom) (dom : Nat) (entry data : Bytes)
  | drain (qid cid : Nat)
  | detach (path : BcsPath) (input : Bytes)
deriving DecidableEq, Repr, Inhabited

/-- The part here of a Drain To Cabinet that the partner runs (09_command_queues R375): its range, the acknowledgements before it, the
chunks that it waits for, and how many were written back for it. -/
structure PeerDrain where
  mtag : Nat
  region : Nat
  off : Nat
  len : Nat
  mark : Nat
  chunks : List Nat
  count : Nat
deriving DecidableEq, Repr, Inhabited

/-- Link states (R199). UP4 says which half carries the traffic. -/
inductive LinkSt where
  | down
  | train
  | init
  | up8
  | up4 (upper : Bool)
deriving DecidableEq, Repr, Inhabited

/-- The pairing link (R199 to R210). `losSince` gives the beat from which a lane shows loss of signal. -/
structure Mpl where
  state : LinkSt := .down
  laneErrors : AMap (List Nat) := []
  failedLanes : List Nat := []
  losSince : AMap Nat := []
  sessions : Nat := 0
  n0 : Bytes := []
  n1 : Bytes := []
  key0 : Bytes := []
  key1 : Bytes := []
  txBatch : Nat := 0
  rxBatch : Nat := 0
  lastGood : Option Nat := none
  kept : AMap (List Bytes) := []
  resend : List Nat := []
  nakCounts : AMap Nat := []
  resentBeats : List Nat := []
  resentTotal : Nat := 0
  resentReported : Bool := false
  queue : List MplMsg := []
  nextMtag : Nat := 0
  credits : AMap Nat := []
  owed : AMap Nat := []
  txOffset : AMap Nat := []
  ackOwed : Option Nat := none
deriving DecidableEq, Repr, Inhabited

/-- Results of one standby check (R230, Get Pair Health). -/
structure CheckCount where
  passed : Nat := 0
  failed : Nat := 0
deriving DecidableEq, Repr, Inhabited

/-- The twin pair. `paired` is PAIR_ID not zero; `position` is this controller's pair position; `taken` counts the regions of a takeover
under way. -/
structure Pair where
  record : PairRecord := {}
  position : Nat := 0
  arming : Option Arming := none
  formation : Option Formation := none
  chairHere : Bool := true
  chairEpoch : Nat := 0
  leaseEpoch : AMap Nat := []
  hEcho : Option Nat := none
  heard : Option Nat := none
  stopped : Bool := false
  takeover : Bool := false
  takeoverDone : Bool := false
  taken : Nat := 0
  partnerLost : Bool := false
  swapSuspended : Bool := false
  moveSinceSwitch : Bool := false
  witness : Option WitnessPath := none
  witnessBeat : Option Nat := none
  held : List HeldReq := []
  heldBcs : List HeldBcs := []
  msn : AMap Nat := []
  mirror : AMap MirrorCopy := []
  partnerMirror : AMap MirrorCopy := []
  seals : List SealNotice := []
  doneSent : Nat := 0
  doneOrigin : Nat := 0
  resync : Option Resync := none
  move : Option Move := none
  moveQueue : List Move := []
  fwd : AMap FwdOrigin := []
  drains : List PeerDrain := []
  joinWait : AMap Nat := []
  partnerCap : Nat := 0
  unavailable : List Nat := []
  resyncWaiting : List Nat := []
  compareRegion : Nat := 0
  compareOffset : Nat := 0
  compareBeat : Nat := 0
  checks : AMap CheckCount := []
  lastSwap : Nat := 0
  link : Mpl := {}
deriving DecidableEq, Repr, Inhabited

end Sys2Proof
end

