-- ==== Sys2Proof/Types/Cxl.lean ====
section
/-! DEFINITION. State of the CXL heads, the front caches, the attachments and the bureau (07_cxl_ports). -/

namespace Sys2Proof

/-- A front-cache granule (07_cxl_ports R271): 256 bytes of a region, four lines with valid, dirty and poison bits. -/
structure Granule where
  region : Nat
  index : Nat
  bank : Nat
  valid : BitVec 4 := 0
  dirty : BitVec 4 := 0
  poison : BitVec 4 := 0
  lines : AMap Line := []
  filling : Bool := false
deriving DecidableEq, Repr, Inhabited

/-- A miss register (R276): the granule, the requests merged, and the stale mark (R278). -/
structure MissReg where
  region : Nat
  index : Nat
  requests : List CxlReq
  stale : Bool := false
  allocate : Bool := true
deriving DecidableEq, Repr, Inhabited

/-- An entry of the victim buffer (R280, R281). -/
structure Victim where
  granule : Granule
  touched : Bool := false
  issued : Bool := false
  writes : List (Nat × Line × Mask × Bool) := []
deriving DecidableEq, Repr, Inhabited

/-- A head (R247 to R249, R268, R271 to R285). `granules` is in order of use, most recent first. -/
structure Head where
  up : Bool := false
  pcieOnly : Bool := false
  width : Nat := 0
  speed : Nat := 0
  flit : Nat := 0
  powerState : Nat := 0
  perstLow : Bool := true
  lds : Nat := 1
  granules : List Granule := []
  misses : AMap MissReg := []
  victims : AMap Victim := []
  bankOn : BitVec 6 := 0b111111
  bankClean : BitVec 6 := 0
  cleaned : AMap Nat := []
  hit : Nat := 0
  miss : Nat := 0
  merge : Nat := 0
  victimHits : Nat := 0
  eccDirty : Bool := false
  eccClean : Bool := false
  refused : Nat := 0
  devLoad : Nat := 0
  afterWrite : List CxlReq := []
  stalled : List CxlReq := []
  gpfPhase1 : Bool := false
deriving DecidableEq, Repr, Inhabited

/-- States of an attachment that is not FREE (R261). -/
inductive AttachSt where
  | offered
  | accepted
  | releasing
deriving DecidableEq, Repr, Inhabited

/-- The STATE encoding of R261. -/
def AttachSt.code : AttachSt → Nat
  | .offered => 1
  | .accepted => 2
  | .releasing => 3

/-- An attachment (R261) with what the controller keeps beside it: the beat from which it is served, the deadline of an offer or
a detach, and the Detach Extent command that waits. -/
structure Attachment where
  region : Nat
  rext : Nat
  target : Nat
  state : AttachSt
  dpa : Nat
  serveFrom : Nat := 0
  unmapAt : Option Nat := none
  deadline : Option Nat := none
  detach : Option BcsPath := none
  released : Bool := false
deriving DecidableEq, Repr, Inhabited

/-- A write of the controller's own that is not yet acknowledged (R260, R254, 12_integrity R459): what happens at its
acknowledgement. `format` counts the writes that are left. -/
inductive BureauJob where
  | attach (position entry : Nat) (path : Option BcsPath)
  | entryState
  | label (path : Option BcsPath)
  | format (region left : Nat) (path : Option BcsPath)
  | poison (region line : Nat) (inject : Bool) (path : Option BcsPath)
deriving DecidableEq, Repr, Inhabited

/-- CXL heads, attachments, and the values in force of the port parameters. -/
structure Cxl where
  heads : AMap Head := []
  gfam : Bool := false
  bifurcation : Nat := 0
  bureau : Nat := 0
  bureauLost : Bool := false
  att : AMap Attachment := []
  jobs : AMap BureauJob := []
  unmapped : AMap Nat := []
  nextJob : Nat := 0
  dirtyShutdowns : Nat := 0
  shutdownDirty : Nat := 0
deriving DecidableEq, Repr, Inhabited

end Sys2Proof
end

