-- ==== Sys2Proof/Types/Output.lean ====
section
/-! DEFINITION. What the block sends to the outside, as the model records it. -/

namespace Sys2Proof

/-- An effect that leaves the block. The list of outputs is the model's own record: newest first. -/
inductive Output where
  /-- A register read returns a value. -/
  | regRead (value : Word)
  /-- A sideband read returns bytes, or the transaction is NACKed or discarded. -/
  | sideband (data : Bytes)
  | sidebandNack
  /-- A BCS response: path, opcode, return code, VSTATUS, payload. -/
  | bcs (path : BcsPath) (opcode rc vstatus : Nat) (payload : Bytes)
  /-- A GQP completion entry or Completion capsule; a notice. -/
  | completion (qid cid status : Nat) (entry : Bytes)
  | notice (qid : Nat) (entry : Bytes)
  | msix (head vector : Nat)
  | hostData (qid cid addr : Nat) (data : Bytes)
  | capsule (qp psn kind : Nat) (body : Bytes)
  /-- CXL.mem responses: data with poison, completion, each with DevLoad; and event records to a target. -/
  | cxlData (head tag : Nat) (data : Line) (poison : Bool) (devLoad : Nat)
  | cxlCmp (head tag devLoad : Nat)
  | dcEvent (target : Nat) (kind : Nat) (dpa : Nat) (tag : Bytes)
  | gpfAck (head phase : Nat)
  /-- RDMA packets of a queue pair. -/
  | rdmaAck (qp psn credits msn : Nat)
  | rdmaNak (qp psn : Nat) (syndrome : Nat)
  | rdmaRead (qp psn : Nat) (data : Bytes)
  | rdmaAtomic (qp psn : Nat) (original : BitVec 64)
  | rdmaRequest (qp psn opcode : Nat) (body : Bytes)
  | cnp (qp : Nat)
  | mpPacket (qp : Nat) (body : Bytes)
  /-- Pairing link. -/
  | mplBatch (number : Nat) (flits : List Bytes)
  | mplInit (message : Bytes)
  | witness (port : Nat) (addr : Bytes) (udp : Nat) (datagram : Bytes)
  /-- Frames on an Ethernet port, and frames handed to software protocols. -/
  | frame (port : Nat) (bytes : Bytes)
  | launch (channel port : Nat) (bytes : Bytes) (badFcs : Bool) (cycle : Nat)
  /-- Pins and rails. -/
  | ppsOut (high : Bool)
  | rail (index : Nat) (on : Bool)
  | ready
deriving DecidableEq, Repr, Inhabited

end Sys2Proof
end

