-- ==== Sys2Proof/Types/Power.lean ====
section
/-! DEFINITION. State of the supervisor, the sequencer, the power-managed units, the start-up (16_power, 17_startup_service_life,
18_package_electrical) and of the configuration flash (15_config_flash_events). -/

namespace Sys2Proof

/-- Sequencer states (16_power R570). -/
inductive SeqState where
  | off
  | rising
  | up
  | falling
  | retryWait
  | lockout
deriving DecidableEq, Repr, Inhabited

/-- The STATE encoding of R570. -/
def SeqState.code : SeqState → Nat
  | .off => 0
  | .rising => 1
  | .up => 2
  | .falling => 3
  | .retryWait => 4
  | .lockout => 5

/-- Why a power-down runs: the encoding of event 0x0F04 byte 2 (R597). -/
inductive DownCause where
  | commanded
  | powerFail
  | retry
  | standby
  | thermal
deriving DecidableEq, Repr, Inhabited

/-- The encoding of R597. -/
def DownCause.code : DownCause → Nat
  | .commanded => 0
  | .powerFail => 1
  | .retry => 2
  | .standby => 3
  | .thermal => 4

/-- Device Standby (R591): not wanted, entry accepted, or entered. -/
inductive StandbySt where
  | none
  | entering
  | entered
deriving DecidableEq, Repr, Inhabited

/-- The sequencer, its pins and what it waits for (R569 to R579, R591 to R599, 18_package_electrical R627, R628). `step` is the
rail of the step under way and `gap` whether that step is done and its gap runs; `failMicros` and `failLow` are what event 0x0F01
reports of a failed step; `wanted` says that a power-up is to start; `riseAgain` that one follows the power-down under way; `waitInput` that the input must recover first. -/
structure Seq where
  vstby : Bool := true
  clk25 : Bool := true
  state : SeqState := .off
  attempt : Nat := 1
  failRail : Nat := 15
  step : Nat := 0
  gap : Bool := false
  en : BitVec 12 := 0
  pg : BitVec 12 := 0
  debounced : BitVec 12 := 0
  pgLost : Bool := false
  downFail : BitVec 12 := 0
  lockouts : Nat := 0
  downCause : DownCause := .commanded
  wanted : Bool := true
  failMicros : Nat := 0
  failLow : Nat := 0
  riseAgain : Bool := false
  waitInput : Bool := false
  inputOk : Bool := true
  resetLow : Bool := false
  coldPending : Bool := false
  standby : StandbySt := .none
  standbyBeat : Nat := 0
  wakePending : Option Nat := none
  wokenBy : Option Nat := none
  resetKind : Nat := 0
deriving DecidableEq, Repr, Inhabited

/-- A power-managed unit (R584 to R588): its state, the commanded state, the idle figure set, the I state that a command makes it enter
at the next boundary, the state that it left and the beat at which its entry latency ends, refused and aborted entries, and the last
refuser. -/
structure UnitPower where
  state : Nat := 0
  commanded : Option Nat := none
  idle : Option Nat := none
  toEnter : Option Nat := none
  entry : Option (Nat × Nat) := none
  count : Nat := 0
  refuser : Nat := 0
deriving DecidableEq, Repr, Inhabited

/-- The power block (R580 to R595). `tjMax` is none before the first reading. -/
structure Power where
  unitSel : Nat := 0
  units : AMap UnitPower := []
  padHeld : BitVec 10 := 0b1111111111
  tjMax : Option Int := none
  readings : AMap Int := []
  crit : Bool := false
  warn : Bool := false
  warnDone : Bool := false
  hotReadings : AMap Nat := []
  wdiLate : Bool := false
  wdiEarly : Bool := false
  wdiArmed : Bool := false
deriving DecidableEq, Repr, Inhabited

/-- The timed start-up (17_startup_service_life R602 to R606): the last phase completed, the phase it stopped in with the cause, and
what event 0x1001 reports. -/
structure StartUp where
  phase : Nat := 0
  stopped : Option (Nat × Nat) := none
  ready : Bool := false
  warm : Bool := false
  warmRan : Bool := false
  warmSince : Nat := 0
  unclean : Bool := false
  scanned : Bool := false
  erasesRepeated : Bool := false
deriving DecidableEq, Repr, Inhabited

/-- An option copy (15_config_flash_events R553). -/
structure OptionCopy where
  generation : Nat := 1
  level : Nat := 0
  lowerPending : Bool := false
  smbusAddr : Nat := 0x5A
  nextSlot : Nat := 0
  ctrlId : Nat := 1
  params : AMap Nat := []
deriving DecidableEq, Repr, Inhabited

/-- A counter-log entry (R548). CRC and MARK are computed. -/
structure CounterEntry where
  type : Nat
  scope : Nat := 0
  block : Nat := 0
  value : Nat := 0
  lseq : Nat
  data : Nat := 0
deriving DecidableEq, Repr, Inhabited

/-- What follows an option write (R554, R498, 14_trust R536, R538, 13_management R508). -/
inductive OptionThen where
  | answer (path : Option BcsPath) (opcode : Nat)
  | parameter (path : Option BcsPath) (id value : Nat)
  | levelRaised (path : Option BcsPath) (old : Nat)
  | lowering (path : Option BcsPath)
  | nextSlot (path : Option BcsPath) (slot : Nat)
deriving DecidableEq, Repr, Inhabited

/-- An operation of the configuration flash that waits or runs (R542, R545): an option write with what follows it, a page of a
firmware slot, or an erase of a block or of one of its sectors. -/
inductive NorOp where
  | optionWrite (copy : OptionCopy) (after : OptionThen)
  | fwProgram (slot offset : Nat)
  | erase (block : Nat) (sector : Option Nat)
deriving DecidableEq, Repr, Inhabited

/-- The configuration flash (R541 to R560): the running operation, the number of suspends of a running erase, the beat from which it runs
and whether it stands suspended; the whole hours of this uptime; what waits; the option copies by sector, the copy loaded at the last reset, the counter log, erase counts, the window log, and which pair of sectors of block 5 holds the SALT. -/
structure Nor where
  running : Option NorOp := none
  suspended : Bool := false
  suspends : Nat := 0
  ranSince : Nat := 0
  hoursUp : Nat := 0
  waiting : List NorOp := []
  options : AMap OptionCopy := [(0, {})]
  loaded : OptionCopy := {}
  newest : Nat := 0
  logBlock : Nat := 9
  logLeft : Nat := 2048
  lseq : Nat := 0
  snapshot : Nat := 0
  log : List CounterEntry := []
  eraseCounts : AMap Nat := []
  worn : List Nat := []
  firstIndex : AMap Nat := []
  windowBlock : Nat := 6
  windowUsed : Nat := 0
  saltSide : Nat := 0
  wearWaiting : List (Nat × Bytes) := []
deriving DecidableEq, Repr, Inhabited

end Sys2Proof
end

