-- ==== Sys2Proof/Types/Te.lean ====
section
/-! DEFINITION. State of the transform engine (11_transform_engine). -/

namespace Sys2Proof

/-- A transform command on its stream (R425, R427): the queue pair and command, the payload and AAD bytes still to pass the
engine (R442), its operands with their poisoned lines, and for Seal and Unseal the nonce and the key of its first work item (R428). -/
structure TeJob where
  qid : Nat
  cid : Nat
  todo : Nat
  aad : Nat := 0
  begun : Bool := false
  data : Bytes := []
  second : Bytes := []
  bad : List Nat := []
  bad2 : List Nat := []
  nonce : Bytes := []
  key : Bytes := []
deriving DecidableEq, Repr, Inhabited

/-- A slice fault that is not yet acted on at the boundary (R422). -/
structure SliceLoss where
  slice : Nat
  beat : Nat
deriving DecidableEq, Repr, Inhabited

/-- A key slot whose change takes effect at the next boundary (R428). -/
structure KeyChange where
  slot : Nat
  beat : Nat
deriving DecidableEq, Repr, Inhabited

/-- The transform engine: SLICE_OK, the active slices and the spare, the nonce counter with the highest reserved window (R434), the
error flags of DCB.TE_ERR, the latch of DCB.TE_NCTR_HI, the jobs by GQP stream, and the stream bound to each queue pair. -/
structure Te where
  sliceOk : BitVec 17 := BitVec.allOnes 17
  active : BitVec 17 := 0xFFFF
  spare : Option Nat := some 16
  losses : List SliceLoss := []
  nonce : Nat := 0
  window : Option Nat := none
  waitFrom : Option Nat := none
  katFail : Bool := false
  nctrWait : Bool := false
  tagFail : Bool := false
  sliceFault : Bool := false
  nctrHi : Word := 0
  jobs : AMap (List TeJob) := []
  bound : AMap Nat := []
  keyChanges : List KeyChange := []
deriving DecidableEq, Repr, Inhabited

end Sys2Proof
end

