-- ==== Sys2Proof/Types/Trust.lean ====
section
/-! DEFINITION. State of the key unit, identity, protection level, firmware and fuses (14_trust, 13_management R506 to R508). -/

namespace Sys2Proof

/-- A key slot (14_trust R525 to R527): its scope and type, the region it belongs to, the wrapped key, and the key as the key unit
holds it; `bad` when the wrapped key failed its check (R530). -/
structure KeySlot where
  scope : Nat
  type : Nat
  region : Nat := 0
  wrapped : Bytes := []
  key : Bytes := []
  bad : Bool := false
deriving DecidableEq, Repr, Inhabited

/-- A memory key entry that is not FREE (08_remote_access R302). `rights` has READ, WRITE, ATOMIC, FLUSH, MULTIPATH in bits 0
to 4. -/
structure MemKey where
  lenPages : Nat
  basePage : Nat
  region : Nat
  domain : Nat
  rights : BitVec 5
  revoking : Bool := false
deriving DecidableEq, Repr, Inhabited

/-- A revocation of a memory key in progress (08_remote_access R305). -/
structure Revocation where
  index : Nat
  boundary : Nat
  path : Option BcsPath
  drained : Nat := 0
deriving DecidableEq, Repr, Inhabited

/-- A signature that waits (14_trust R520): an attestation report for a path, with its nonce, or a formation message over T. -/
inductive SignReq where
  | report (path : BcsPath) (nonce : Bytes)
  | formation (message : Bytes)
deriving DecidableEq, Repr, Inhabited

/-- The signing part of the key unit (14_trust R518 to R520, R539): the next index, the first window that is not reserved, the
window floors, readiness, and the requests that wait, with the beat from which they wait for a window. -/
structure Signer where
  next : Nat := 0
  reserved : Nat := 0
  floors : List Nat := []
  ready : Bool := false
  waiting : List SignReq := []
  waitSince : Option Nat := none
deriving DecidableEq, Repr, Inhabited

/-- A sanitize that runs (14_trust R532): its kind, the step reached, the command's path, the regions deleted, the SEQ after the last
record before step 3, and the number of the checkpoint that it waits for. -/
structure SanitizeRun where
  kind : Nat
  step : Nat
  path : Option BcsPath
  deleted : Nat := 0
  fromSeq : Nat := 0
  ckpt : Nat := 0
deriving DecidableEq, Repr, Inhabited

/-- Key unit, memory keys, protection level and fuses (14_trust R513 to R539). `sanitize` is the sanitize state of R531, `sanitizeKind` the kind of
the newest mark, and `saltChanged` says that the SALT has changed since that mark was a start (R533); `level` is level 0
or 1 as loaded from the option area, `level2` the fuse; `jtag` is the JTAG instruction selected. -/
structure Trust where
  dus : Bytes := []
  salt : Bytes := []
  keys : AMap KeySlot := []
  memKeys : AMap MemKey := []
  memTags : AMap Nat := []
  revocations : List Revocation := []
  sanitize : Nat := 0
  sanitizeKind : Nat := 0
  saltChanged : Bool := false
  run : Option SanitizeRun := none
  rollback : Nat := 0
  level : Nat := 0
  level2 : Bool := false
  lowering : Bool := false
  signer : Signer := {}
  jtag : Nat := 0
  jtagBypass : Bool := true
deriving DecidableEq, Repr, Inhabited

end Sys2Proof
end

