-- ==== Sys2Proof/Machine/State.lean ====
section
/-! DEFINITION. The state of the SK7240, the reasons for which a step stops, and the state after reset. -/

namespace Sys2Proof.Machine

/-- Reasons for which the machine stops with a fault. -/
inductive Fault where
  /-- An access outside BAR 0 (13_management R485). Raised by the register commands. Safe: the machine stops. -/
  | outsideBar (offset : Nat)
deriving DecidableEq, Repr, Inhabited

/-- Reasons for which a command has no meaning. -/
inductive Refusal where
  /-- The command has no meaning in this model. Raised by Dispatch only. Safe: the machine stops. -/
  | notModelled (mnemonic : String)
deriving DecidableEq, Repr, Inhabited

/-- The state of the block. `out` (what left the block, newest first) and `freeCtr` (how many free values were drawn) are the
model's own fields; `pending` is the queue of commands that wait. -/
structure State where
  ident : Ident := {}
  tb : Timebase := {}
  slot : SlotSched := {}
  ev : EventUnit := {}
  pu : Persist := {}
  ti : Tiers := {}
  reg : Regions := {}
  pair : Pair := {}
  cxl : Cxl := {}
  te : Te := {}
  gqp : Gqp := {}
  net : Net := {}
  cap : Cap := {}
  ecc : Ecc := {}
  mc : Mc := {}
  trust : Trust := {}
  params : AMap Nat := []
  paramsDue : List (Nat × Nat) := []
  seq : Seq := {}
  pwr : Power := {}
  start : StartUp := {}
  nor : Nor := {}
  out : List Output := []
  freeCtr : Nat := 0
  pending : List Instr := []
deriving DecidableEq, Repr

/-- The machine right after reset: the supervisor has left its VSTBY reset and the rails are off. -/
def State.reset : State :=
  { slot := { copyA := defaultTable }, trust := { dus := Config.dus, salt := Config.salt }
    cxl := { heads := (List.range 16).map fun h => (h, {}) }
    ev := { cycles := 1 }
    nor := { log := [{ type := 4, value := 1, lseq := 1 }], lseq := 1, logLeft := 2047 }
    mc := { fwA := { valid := true, version := fld 8 4 Config.shippedImage, svn := fld 12 4 Config.shippedImage, image := Config.shippedImage }, fwRunning := 0 } }

end Sys2Proof.Machine
end

