-- ==== Sys2Proof/Machine/Ops.lean ====
section
/-! DEFINITION. Shared operations: outputs, free values, events (00_scope R7, 15_config_flash_events R561 to R566) and reports
that are limited to one in a window. -/

namespace Sys2Proof.Machine

/-- Send an output. -/
def emit (o : Output) (s : State) : State := { s with out := o :: s.out }

/-- The DevLoad that a head reports (07_cxl_ports R268). -/
def headLoad (h : Nat) (s : State) : Nat := ((mget h s.cxl.heads).map (·.devLoad)).getD 0

/-- A completion to a host (S2M NDR), with DevLoad (07_cxl_ports R268). -/
def sendCmp (h tag : Nat) (s : State) : State := emit (.cxlCmp h tag (headLoad h s)) s

/-- Data to a host (S2M DRS), with DevLoad (07_cxl_ports R268). -/
def sendData (h tag : Nat) (data : Line) (poison : Bool) (s : State) : State := emit (.cxlData h tag data poison (headLoad h s)) s

/-- Draw the next free value: a value that the specification leaves open. -/
def drawn (s : State) : BitVec 512 := Config.free s.freeCtr

/-- Count a draw. -/
def advance (s : State) : State := { s with freeCtr := s.freeCtr + 1 }

/-- `n` free bytes, n at most 64. -/
def freeBytes (n : Nat) (s : State) : Bytes := le n (drawn s).toNat

/-- The value of the beat field and of a 64-bit field that is not running (R7). -/
def allOnes64 : Nat := 2 ^ 64 - 1

/-- The EVT.STATUS bits that an event of a severity sets (13_management R486). -/
def severityBit : Severity → BitVec 8
  | .info => 0
  | .warning => 0x10
  | .error => 0x20
  | .fatal => 0x40

/-- Set EVT.STATUS bits, noting that they were set in this beat (R486). -/
def setEvt (b : BitVec 8) (e : EventUnit) : EventUnit :=
  { e with status := e.status ||| b, setThisBeat := e.setThisBeat ||| b }

/-- Set EVT.STATUS.BADWR (00_scope R6). -/
def badWrite (s : State) : State := { s with ev := setEvt 0x01 s.ev }

/-- The record of an event raised now (R7). -/
def mkEvent (code : Nat) (sev : Severity) (unit : Nat) (data : Bytes) (s : State) : Event :=
  { code := code, severity := sev, undisciplined := decide (s.tb.mode ≠ .locked), unit := unit, beat := s.tb.beat,
    tod := s.tb.tod, hours := s.ev.hours, cycles := s.ev.cycles, data := padTo 24 data }

/-- Put an event in the recorder's queue of 1,024 records; when it is full the record is lost and counted (R563, R486). -/
def queueEvent (e : Event) (u : EventUnit) : EventUnit :=
  if u.queue.length < 1024 then { u with queue := u.queue ++ [e] }
  else setEvt 0x80 { u with lost := satAdd 0xFFFFFFFF u.lost 1, lostUnreported := u.lostUnreported + 1 }

/-- Raise an event for a unit. -/
def raiseFor (unit code : Nat) (sev : Severity) (data : Bytes) (s : State) : State :=
  { s with ev := setEvt (severityBit sev) (queueEvent (mkEvent code sev unit data s) s.ev) }

/-- Raise an event for the device as a whole. -/
def raise (code : Nat) (sev : Severity) (data : Bytes) (s : State) : State := raiseFor 0xFFFF code sev data s

/-- Raise an event of the supervisor: it waits in the pending-event buffer of 16 (R566); the beat and the time of day are those of
R7 when they do not run. -/
def raiseSup (running : Bool) (code : Nat) (sev : Severity) (data : Bytes) (s : State) : State :=
  let e := mkEvent code sev 0xFFFF data s
  let e := if running then e else { e with beat := allOnes64, tod := allOnes64, undisciplined := true }
  if s.ev.supPending.length < 16 then
    { s with ev := { s.ev with supPending := s.ev.supPending ++ [{ e with relayed := true }] } }
  else { s with ev := { s.ev with supLost := s.ev.supLost + 1 } }

/-- The report kept for a code and a key. -/
def findReport (code key : Nat) (l : List Report) : Option Report :=
  l.find? fun r => r.code == code && r.key == key

/-- The report list with the entry of a code and a key replaced. -/
def putReport (r : Report) (l : List Report) : List Report :=
  r :: l.filter fun x => !(x.code == r.code && x.key == r.key)

/-- Raise an event at most once per key in 65,536 beats; `data` makes the Data field from the count since the last report. -/
def raiseLimited (code key : Nat) (sev : Severity) (data : Nat → Bytes) (s : State) : State :=
  match findReport code key s.ev.reports with
  | none =>
    raise code sev (data 1)
      { s with ev := { s.ev with reports := putReport ⟨code, key, s.tb.beat, 0⟩ s.ev.reports } }
  | some r =>
    if r.lastBeat + 65536 ≤ s.tb.beat then
      raise code sev (data (r.count + 1))
        { s with ev := { s.ev with reports := putReport ⟨code, key, s.tb.beat, 0⟩ s.ev.reports } }
    else { s with ev := { s.ev with reports := putReport { r with count := r.count + 1 } s.ev.reports } }

/-- Bytes as memory cells from address 0. -/
def cellsOf (b : Bytes) : Memory := b.zipIdx.filterMap fun x => if x.1 = 0 then none else some (x.2, x.1)

/-- The key of a path's mailbox (13_management R482, R488). -/
def mailKey : BcsPath → Option Nat
  | .primary l => some l
  | .fm h => some (256 + h)
  | _ => none

/-- The head of a mailbox. -/
def mailHead (k : Nat) : Nat := if k < 256 then k / 16 else k - 256

/-- A mailbox takes a response (R488): RC, VSTATUS, the output payload; the doorbell clears, with its interrupt when enabled. -/
def mailAnswer (rc vstatus : Nat) (out : Bytes) (m : Mailbox) : Mailbox :=
  { m with doorbell := false, rc := rc, vstatus := vstatus, payloadLen := out.length, payload := cellsOf out }

/-- Change the queue engine. -/
def modGqp (f : Gqp → Gqp) (s : State) : State := { s with gqp := f s.gqp }

/-- Change a queue pair. -/
def modQ (qid : Nat) (f : QueuePair → QueuePair) (s : State) : State :=
  modGqp (fun g => { g with pairs := mmod qid f g.pairs }) s

/-- A queue pair. -/
def queueOf (qid : Nat) (s : State) : Option QueuePair := mget qid s.gqp.pairs

/-- OPCODE of a command entry (R346). -/
def eOpcode (e : Bytes) : Nat := fld 0 1 e

/-- A command of a queue pair that has started and whose meaning has not run, or that runs when `running` is set. -/
def findCmd (running : Bool) (cid : Nat) (q : QueuePair) : Option GqpCmd :=
  q.cmds.find? fun c => c.cid == cid && c.started && c.running == running

/-- Remove the first started command with a CID. -/
def dropCmd (cid : Nat) : List GqpCmd → List GqpCmd
  | [] => []
  | c :: r => if c.cid == cid && c.started then r else c :: dropCmd cid r

/-- A completion entry (R349). -/
def completionEntry (qid cid status : Nat) (isNotice : Bool) (result : Bytes) (q : QueuePair) (s : State) : Bytes :=
  padTo 16 result ++ le 2 q.sqHead ++ le 2 qid ++ le 2 cid ++ le 2 status ++
    le 1 ((if q.transport = 0 then b2n q.phase else 0) + 2 * b2n isNotice) ++ zeros 3 ++ le 4 s.tb.beat

/-- Signal a queue pair's vector, when AGG_COUNT + 1 entries have been written since the last signal (R353). -/
def signalCount (qid : Nat) (s : State) : State :=
  match queueOf qid s with
  | none => s
  | some q =>
    if q.aggCount < q.unsignalled then emit (.msix q.headNum q.vector) (modQ qid (fun q => { q with unsignalled := 0 }) s) else s

/-- Write one entry to a completion ring (R350), counting it for R351 and R353. -/
def writeEntry (qid : Nat) (o : Bytes → Output) (entry : Bytes) (s : State) : State :=
  let s := emit (o entry) s
  signalCount qid (modQ qid (fun q =>
    let last := q.cqTail + 1 == q.cqDepth
    { q with
      cqTail := if last then 0 else q.cqTail + 1
      phase := if last then !q.phase else q.phase
      unread := q.unread + 1
      firstUnsignalled := if q.unsignalled = 0 then s.tb.beat else q.firstUnsignalled
      unsignalled := q.unsignalled + 1 }) s)

/-- BCS Tunnel ends (09_command_queues R376, 13_management R480, R491): the first OUT_LEN bytes of the output go to OUT_PTR, and the
completion carries the return code; 8002h where the output was cut, and status Internal Error where no complex is left. -/
def tunnelEnd (cid rc : Nat) (out : Bytes) (s : State) : State :=
  match queueOf 0 s with
  | none => s
  | some q =>
    match findCmd true cid q with
    | none => s
    | some c =>
      if eOpcode c.entry ≠ 0x7F then s
      else
        let outLen := fld 40 4 c.entry
        let data := out.take outLen
        let status := if s.mc.failed0 && s.mc.failed1 then 0x0205 else 0
        let code := if outLen < out.length then 0x8002 else rc
        let result := if status = 0 then le 2 code ++ zeros 2 ++ le 4 data.length else []
        let s := if data.isEmpty then s else emit (.hostData 0 cid (fld 32 8 c.entry) data) s
        let entry := completionEntry 0 cid status false result q s
        writeEntry 0 (.completion 0 cid status) entry (modQ 0 (fun q => { q with
          cmds := dropCmd cid q.cmds, completed := q.completed + 1, failed := if status = 0 then q.failed else q.failed + 1 }) s)

/-- Send a BCS response on the path of the command; VSTATUS is the offset of the failing field, or 0xFFFF (R488). -/
def answerV (path : BcsPath) (opcode rc vstatus : Nat) (out : Bytes) (s : State) : State :=
  let s := emit (.bcs path opcode rc vstatus out) s
  match path with
  | .sideband => { s with mc := { s.mc with proxy := { s.mc.proxy with state := 2, rc := rc, output := out } } }
  | .primary l =>
    let irq := (mgetD {} l s.mc.mail).dbIrqEn
    let s := { s with mc := { s.mc with mail := mmodD {} l (mailAnswer rc vstatus out) s.mc.mail } }
    if irq then emit (.msix (l / 16) 0) s else s
  | .fm h =>
    let irq := (mgetD {} (256 + h) s.mc.mail).dbIrqEn
    let s := { s with mc := { s.mc with mail := mmodD {} (256 + h) (mailAnswer rc vstatus out) s.mc.mail } }
    if irq then emit (.msix h 0) s else s
  | .admin cid => tunnelEnd cid rc out s
  | .forwarded mtag _ =>
    { s with pair := { s.pair with link := { s.pair.link with
        queue := s.pair.link.queue ++ [{ vc := 3, opcode := 0x31, mtag := mtag, operand := rc, body := out }] } } }

/-- Send a BCS response with VSTATUS 0xFFFF. -/
def answer (path : BcsPath) (opcode rc : Nat) (out : Bytes) (s : State) : State := answerV path opcode rc 0xFFFF out s

/-- Answer Invalid Input with the offset of the first failing field. -/
def invalid (path : BcsPath) (opcode off : Nat) (s : State) : State := answerV path opcode 0x0002 off [] s

/-- Answer Success. -/
def success (path : BcsPath) (opcode : Nat) (out : Bytes) (s : State) : State := answer path opcode 0 out s

/-- The body of a notice (09_command_queues R362). -/
def noticeBody (code region : Nat) (detail : Bytes) (s : State) : Bytes :=
  le 2 code ++ le 2 region ++ padTo 4 detail ++ le 8 s.tb.beat

/-- Queue a notice on one queue pair; the 65th is dropped, and reported at most once per queue pair in 65,536 beats (R362). -/
def noticeOn (qid code : Nat) (body : Bytes) (s : State) : State :=
  match s.gqp.pairs.find? fun e => e.1 == qid with
  | none => s
  | some e =>
    if e.2.notices.length < 64 then
      { s with gqp := { s.gqp with pairs := mput qid { e.2 with notices := e.2.notices ++ [body] } s.gqp.pairs } }
    else raiseLimited 0x0806 qid .warning (fun n => le 2 qid ++ le 2 code ++ le 4 n) s

/-- A notice to every queue pair whose NOTICE_MASK has the code's bit (R362). -/
def notice (code region : Nat) (detail : Bytes) (s : State) : State :=
  (s.gqp.pairs.filter fun e => e.2.noticeMask.getLsbD code).foldl
    (fun t e => noticeOn e.1 code (noticeBody code region detail s) t) s

/-- A parameter's value in force, or its default. -/
def param (id dflt : Nat) (s : State) : Nat := mgetD dflt id s.params

/-- Fold a state change over a list. -/
def each {α : Type} (l : List α) (f : α → State → State) (s : State) : State := l.foldl (fun s a => f a s) s

end Sys2Proof.Machine
end

