-- ==== Sys2Proof/Machine/Nor.lean ====
section
/-! DEFINITION. The configuration flash: the counter log, erases with their intents, the queue of operations, and the
wear-and-spares log (15_config_flash_events R541 to R560, 17_startup_service_life R612 to R614). -/

namespace Sys2Proof.Machine

/-- Change the configuration flash. -/
def modNor (f : Nor → Nor) (s : State) : State := { s with nor := f s.nor }

/-- Append a counter-log entry (R548). -/
def counterEntry (type scope block value data : Nat) (s : State) : State :=
  modNor (fun n => { n with
    log := n.log ++ [{ type := type, scope := scope, block := block, value := value, lseq := n.lseq + 1, data := data }]
    lseq := n.lseq + 1, logLeft := n.logLeft - 1 }) s

/-- The SCOPE byte of an erase (R548). -/
def eraseScope : Option Nat → Nat
  | none => 0
  | some n => 0x10 + n

/-- The erase count of a block (R546). -/
def eraseCount (block : Nat) (s : State) : Nat := mgetD 0 block s.nor.eraseCounts

/-- ERASE_INTENT (R546, R543): the count rises, and at 100,000 it is reported once for the block. -/
def eraseIntent (block : Nat) (sector : Option Nat) (s : State) : State :=
  let c := eraseCount block s + 1
  let s := modNor (fun n => { n with eraseCounts := mput block c n.eraseCounts }) (counterEntry 1 (eraseScope sector) block c 0 s)
  if 100000 ≤ c ∧ !s.nor.worn.contains block then
    raise 0x0E05 .warning (le 2 block ++ zeros 2 ++ le 4 c) (modNor (fun n => { n with worn := setInsert block n.worn }) s)
  else s

/-- Whether a block belongs to the recent area of the recorder (R541). -/
def recentBlock (b : Nat) : Bool := decide (31 ≤ b ∧ b ≤ 46)

/-- Whether a block belongs to the wear-and-spares log (R541). -/
def wearBlock (b : Nat) : Bool := decide (11 ≤ b ∧ b ≤ 26)

/-- ERASE_DONE (R546): for a block of the recent area it carries the index of the block's first slot (R562). -/
def eraseDone (block : Nat) (sector : Option Nat) (s : State) : State :=
  let first := if recentBlock block then s.ev.nextIndex else 0
  let s := counterEntry 2 (eraseScope sector) block 0 first s
  if recentBlock block then modNor (fun n => { n with firstIndex := mput block first n.firstIndex }) s else s

/-- The class of an operation (R545). -/
def norClass : NorOp → Nat
  | .optionWrite .. => 4
  | .fwProgram .. => 6
  | .erase .. => 7

/-- The sector that the next option write takes (R554). -/
def nextOption (s : State) : Nat := (s.nor.newest + 1) % 16

/-- Begin an operation: an erase writes its intent first (R546); the records of a block
of the recent area are gone with it (R562); an option write erases its sector (R554). -/
def beginOp (o : NorOp) (s : State) : State :=
  let s := match o with
    | .erase b sec =>
      let s := eraseIntent b sec s
      if recentBlock b then { s with ev := { s.ev with recent := s.ev.recent.filter fun e => decide (s.ev.nextIndex ≤ e.1 + 15360) } } else s
    | .optionWrite .. => modNor (fun n => { n with options := mdel (nextOption s) n.options }) (eraseIntent 4 (some (nextOption s)) s)
    | .fwProgram .. => s
  modNor (fun n => { n with running := some o, suspended := false, suspends := 0, ranSince := s.tb.beat }) s

/-- The waiting operation that goes next (R545): the lowest class, the oldest of it. -/
def nextOp (l : List NorOp) : Option NorOp :=
  l.foldl (fun a o =>
    match a with
    | none => some o
    | some p => if norClass o < norClass p then some o else some p) none

/-- Remove the first occurrence of an operation. -/
def dropOp (o : NorOp) : List NorOp → List NorOp
  | [] => []
  | p :: r => if p = o then r else p :: dropOp o r

/-- Issue the next waiting operation when the die is free. -/
def issueOp (s : State) : State :=
  if s.nor.running.isSome then s
  else
    match nextOp s.nor.waiting with
    | none => s
    | some o => beginOp o (modNor (fun n => { n with waiting := dropOp o n.waiting }) s)

/-- Ask for an operation. -/
def norSubmit (o : NorOp) (s : State) : State :=
  issueOp (modNor (fun n => { n with waiting := n.waiting ++ [o] }) s)

/-- Whether an erase of a block of an area waits or runs. -/
def erasing (area : Nat → Bool) (s : State) : Bool :=
  (s.nor.waiting ++ s.nor.running.toList).any fun o =>
    match o with
    | .erase b _ => area b
    | _ => false

/-- Whether the die can take one program now: it is idle, or its erase stands suspended (R544). -/
def dieFree (s : State) : Bool := s.nor.running.isNone || s.nor.suspended

/-- A program that ran while an erase was suspended is over: the erase goes on (R544). -/
def resumeErase (s : State) : State :=
  modNor (fun n => { n with suspended := false, ranSince := if n.suspended then s.tb.beat else n.ranSince }) s

/-- Append an entry to the wear-and-spares log (R612). At the end of a block the next one is erased (R560). -/
def writeWear (type : Nat) (data : Bytes) (s : State) : State :=
  let s := { s with ev := { s.ev with
      wear := s.ev.wear ++ [{ type := type, unit := 0xFFFF, cycles := s.ev.cycles, index := s.ev.wearIndex, beat := s.tb.beat,
                              hours := s.ev.hours, data := padTo 28 data }]
      wearIndex := s.ev.wearIndex + 1 } }
  if s.ev.wearIndex % 1024 = 0 then norSubmit (.erase (11 + s.ev.wearIndex / 1024 % 16) none) s else s

/-- Write an entry of the wear-and-spares log, or keep it while the log's next block is being erased (R560). -/
def wearLog (type : Nat) (data : Bytes) (s : State) : State :=
  if erasing wearBlock s || !s.nor.wearWaiting.isEmpty then modNor (fun n => { n with wearWaiting := n.wearWaiting ++ [(type, data)] }) s
  else writeWear type data s

/-- The 4,096 bytes of an option copy before its CRC (R553). -/
def optionBytes (c : OptionCopy) : Bytes :=
  padTo 64 (le 4 0x4F505430 ++ le 4 c.generation ++ le 1 c.level ++ le 1 (b2n c.lowerPending) ++ le 1 c.smbusAddr ++ le 1 c.nextSlot ++
    le 2 c.ctrlId) ++
  padTo 4024 (c.params.flatMap fun p => le 2 p.1 ++ zeros 6 ++ le 8 p.2)

/-- The newest complete option copy: the one with the highest generation (R555). -/
def newestOption (n : Nor) : Option (Nat × OptionCopy) :=
  n.options.foldl (fun a e =>
    match a with
    | none => some e
    | some b => if b.2.generation < e.2.generation then some e else some b) none

/-- The option fields as stored now. -/
def stored (s : State) : OptionCopy := (newestOption s.nor).elim { level := 1 } (·.2)

/-- Write a new option copy (R554). The generation is taken when it is written. -/
def writeOption (c : OptionCopy) (after : OptionThen) (s : State) : State := norSubmit (.optionWrite c after) s

/-- Operating hours and power cycles are kept in the counter log (R550). -/
def powerCycle (s : State) : State :=
  let s := { s with ev := { s.ev with cycles := s.ev.cycles + 1 } }
  counterEntry 4 0 0 s.ev.cycles 0 s

end Sys2Proof.Machine
end

