-- ==== Sys2Proof/Machine/Crc.lean ====
section
/-! DEFINITION. The check values: CRC-32C, CRC-32, CRC-64 and CRC-16 with the parameters of 11_transform_engine R438. -/

namespace Sys2Proof.Machine

/-- One bit step of a reflected CRC of `w` bits with reflected polynomial `p`. -/
def crcBitR {w : Nat} (p c : BitVec w) : BitVec w := if c.getLsbD 0 then (c >>> 1) ^^^ p else c >>> 1

/-- One byte step of a reflected CRC. -/
def crcByteR {w : Nat} (p c : BitVec w) (b : Byte) : BitVec w :=
  (List.range 8).foldl (fun c _ => crcBitR p c) (c ^^^ b.setWidth w)

/-- A reflected CRC over bytes. -/
def crcR {w : Nat} (p init xorout : BitVec w) (b : Bytes) : BitVec w := (b.foldl (crcByteR p) init) ^^^ xorout

/-- One bit step of a CRC of `w` bits that takes the high bit first. -/
def crcBitF {w : Nat} (p c : BitVec w) : BitVec w := if c.msb then (c <<< 1) ^^^ p else c <<< 1

/-- One byte step of a CRC that takes the high bit first. -/
def crcByteF {w : Nat} (p c : BitVec w) (b : Byte) : BitVec w :=
  (List.range 8).foldl (fun c _ => crcBitF p c) (c ^^^ ((b.setWidth w) <<< (w - 8)))

/-- A CRC over bytes, high bit first. -/
def crcF {w : Nat} (p init xorout : BitVec w) (b : Bytes) : BitVec w := (b.foldl (crcByteF p) init) ^^^ xorout

/-- CRC-32C (Castagnoli). -/
def crc32c (b : Bytes) : BitVec 32 := crcR 0x82F63B78#32 0xFFFFFFFF#32 0xFFFFFFFF#32 b

/-- CRC-32C as a number. -/
def crc32cN (b : Bytes) : Nat := (crc32c b).toNat

/-- CRC-32 (IEEE 802.3). -/
def crc32 (b : Bytes) : BitVec 32 := crcR 0xEDB88320#32 0xFFFFFFFF#32 0xFFFFFFFF#32 b

/-- CRC-64 (ECMA-182 polynomial). -/
def crc64 (b : Bytes) : BitVec 64 :=
  crcR 0xC96C5795D7870F42#64 0xFFFFFFFFFFFFFFFF#64 0xFFFFFFFFFFFFFFFF#64 b

/-- CRC-16 (T10-DIF polynomial). -/
def crc16 (b : Bytes) : BitVec 16 := crcF 0x8BB7#16 0#16 0#16 b

/-- The width in bytes of a CRC by its ALG code (R438). -/
def crcWidth (alg : Nat) : Nat := if alg = 2 then 8 else if alg = 3 then 2 else 4

/-- A CRC by its ALG code (R438). -/
def crcAlg (alg : Nat) (b : Bytes) : Nat :=
  match alg with
  | 0 => (crc32c b).toNat
  | 1 => (crc32 b).toNat
  | 2 => (crc64 b).toNat
  | _ => (crc16 b).toNat

/-- The fold bytes of a folded check (R439). -/
def foldBytes (kind value : Nat) : Bytes :=
  match kind with
  | 0 => []
  | 1 => le 1 value
  | _ => le 4 value

/-- Whether FOLD_VALUE fits FOLD_KIND (R439). -/
def foldOk (kind value : Nat) : Bool :=
  match kind with
  | 0 => value == 0
  | 1 => decide (value < 2 ^ 8)
  | 2 => decide (value < 2 ^ 32)
  | 3 => decide (value < 2 ^ 32)
  | _ => false

/-- A folded check value (R439). -/
def crcFolded (alg kind value : Nat) (b : Bytes) : Nat := crcAlg alg (b ++ foldBytes kind value)

end Sys2Proof.Machine
end

