-- ==== Sys2Proof/Machine/Crypto.lean ====
section
/-! DEFINITION. The standard algorithms that the specification names: AES-256, AES-XTS and AES-GCM (11_transform_engine R429,
R432), AES key wrap (14_trust R526) and SHAKE256 (06_pair R194). -/

namespace Sys2Proof.Machine

/-- Double in GF(2^8) with the AES polynomial. -/
def gfDouble (a : Byte) : Byte := if a.msb then (a <<< 1) ^^^ 0x1B#8 else a <<< 1

/-- Product in GF(2^8), the second factor taken over `n` bits. -/
def gfMulN : Nat → Byte → Byte → Byte
  | 0, _, _ => 0
  | n + 1, a, b => (if b.getLsbD 0 then a else 0) ^^^ gfMulN n (gfDouble a) (b >>> 1)

/-- Product in GF(2^8). -/
def gfMul (a b : Byte) : Byte := gfMulN 8 a b

/-- The power `n` in GF(2^8). -/
def gfPow (a : Byte) : Nat → Byte
  | 0 => 1
  | n + 1 => gfMul a (gfPow a n)

/-- The AES S-box. -/
def aesSub (a : Byte) : Byte :=
  let i := gfPow a 254
  i ^^^ i.rotateLeft 1 ^^^ i.rotateLeft 2 ^^^ i.rotateLeft 3 ^^^ i.rotateLeft 4 ^^^ 0x63#8

/-- The inverse S-box. -/
def aesSubInv (a : Byte) : Byte :=
  gfPow (a.rotateLeft 1 ^^^ a.rotateLeft 3 ^^^ a.rotateLeft 6 ^^^ 0x05#8) 254

/-- A byte at an index, zero outside. -/
def byteAt (b : Bytes) (i : Nat) : Byte := b.getD i 0

/-- One word of the AES-256 key schedule from the words so far, newest last. -/
def aesNextWord (w : List Bytes) (i : Nat) (rcon : Byte) : Bytes :=
  let t := w.getD (i - 1) []
  let u :=
    if i % 8 = 0 then
      xorBytes ([byteAt t 1, byteAt t 2, byteAt t 3, byteAt t 0].map aesSub) [rcon, 0, 0, 0]
    else if i % 8 = 4 then t.map aesSub
    else t
  xorBytes (w.getD (i - 8) []) u

/-- The key schedule from word `i` on, for `n` more words. -/
def aesExpand : Nat → Nat → Byte → List Bytes → List Bytes
  | 0, _, _, w => w
  | n + 1, i, rcon, w =>
    aesExpand n (i + 1) (if i % 8 = 0 then gfDouble rcon else rcon) (w ++ [aesNextWord w i rcon])

/-- The fifteen round keys of AES-256. -/
def aesKeys (key : Bytes) : List Bytes :=
  let w := aesExpand 52 8 1 (chunksOf 4 (padTo 32 key))
  (List.range 15).map fun r => (slice (r * 4) 4 (w.map fun x => x)).flatten
where
  slice (o n : Nat) (l : List Bytes) : List Bytes := (l.drop o).take n

/-- Row shift: the byte of column c, row r comes from column c + r. -/
def aesShift (s : Bytes) : Bytes := (List.range 16).map fun i => byteAt s ((i + 4 * (i % 4)) % 16)

/-- Inverse row shift. -/
def aesShiftInv (s : Bytes) : Bytes := (List.range 16).map fun i => byteAt s ((i + 16 - 4 * (i % 4)) % 16)

/-- Column mix with the given row of coefficients. -/
def aesMixWith (k : Bytes) (s : Bytes) : Bytes :=
  (List.range 16).map fun i =>
    let c := i / 4 * 4
    let r := i % 4
    (List.range 4).foldl (fun a j => a ^^^ gfMul (byteAt k ((j + 4 - r) % 4)) (byteAt s (c + j))) 0

/-- AES-256 of one block. -/
def aesEnc (key block : Bytes) : Bytes :=
  let ks := aesKeys key
  let s0 := xorBytes (padTo 16 block) (ks.getD 0 [])
  let s := (List.range 13).foldl
    (fun s r => xorBytes (aesMixWith [2, 3, 1, 1] (aesShift (s.map aesSub))) (ks.getD (r + 1) [])) s0
  xorBytes (aesShift (s.map aesSub)) (ks.getD 14 [])

/-- Inverse AES-256 of one block. -/
def aesDec (key block : Bytes) : Bytes :=
  let ks := aesKeys key
  let s0 := xorBytes (padTo 16 block) (ks.getD 14 [])
  let s := (List.range 13).foldl
    (fun s r => aesMixWith [14, 11, 13, 9] (xorBytes ((aesShiftInv s).map aesSubInv) (ks.getD (13 - r) []))) s0
  xorBytes ((aesShiftInv s).map aesSubInv) (ks.getD 0 [])

/-- Multiply an XTS tweak by alpha: bytes little-endian, polynomial 0x87. -/
def xtsNext (t : Bytes) : Bytes :=
  let v := leVal t * 2
  if v < 2 ^ 128 then le 16 v else le 16 (v - 2 ^ 128 ^^^ 0x87)

/-- XTS over whole blocks from a tweak. -/
def xtsBlocks (f : Bytes → Bytes) : Bytes → List Bytes → Bytes
  | _, [] => []
  | t, b :: r => xorBytes (f (xorBytes b t)) t ++ xtsBlocks f (xtsNext t) r

/-- AES-256-XTS encryption: 64 bytes of key, data halves first, then tweak half; a 16-byte tweak value. -/
def xtsEnc (key tweak data : Bytes) : Bytes :=
  xtsBlocks (aesEnc (key.take 32)) (aesEnc (key.drop 32) tweak) (chunksOf 16 data)

/-- AES-256-XTS decryption. -/
def xtsDec (key tweak data : Bytes) : Bytes :=
  xtsBlocks (aesDec (key.take 32)) (aesEnc (key.drop 32) tweak) (chunksOf 16 data)

/-- One step of the GHASH product: `v` halved in the reflected field. -/
def ghashHalf (v : BitVec 128) : BitVec 128 :=
  if v.getLsbD 0 then (v >>> 1) ^^^ (0xE1#128 <<< 120) else v >>> 1

/-- GHASH product over `n` bits of `x` from the high end. -/
def ghashMulN : Nat → BitVec 128 → BitVec 128 → BitVec 128
  | 0, _, _ => 0
  | n + 1, x, v => (if x.msb then v else 0) ^^^ ghashMulN n (x <<< 1) (ghashHalf v)

/-- GHASH over padded data. -/
def ghash (h : BitVec 128) (data : Bytes) : BitVec 128 :=
  (chunksOf 16 data).foldl (fun y b => ghashMulN 128 (y ^^^ BitVec.ofNat 128 (beVal (padTo 16 b))) h) 0

/-- Fill to whole 16-byte blocks with zeros. -/
def pad16 (b : Bytes) : Bytes := b ++ zeros ((16 - b.length % 16) % 16)

/-- The key stream of counter mode from counter `c`. -/
def gctr (key iv : Bytes) (c : Nat) (data : Bytes) : Bytes :=
  ((chunksOf 16 data).zipIdx.map fun p => xorBytes p.1 (aesEnc key (iv ++ be 4 (c + p.2)))).flatten

/-- The GCM tag over additional data and ciphertext. -/
def gcmTag (key iv aad cipher : Bytes) : Bytes :=
  let h := BitVec.ofNat 128 (beVal (aesEnc key (zeros 16)))
  let s := ghash h (pad16 aad ++ pad16 cipher ++ be 8 (aad.length * 8) ++ be 8 (cipher.length * 8))
  xorBytes (be 16 s.toNat) (aesEnc key (iv ++ be 4 1))

/-- AES-256-GCM: the ciphertext under a 96-bit nonce. -/
def gcmCrypt (key iv data : Bytes) : Bytes := gctr key iv 2 data

/-- One step of AES key wrap over register `a` and blocks `r`. -/
def kwStep (key : Bytes) (st : Bytes × List Bytes) (t : Nat) : Bytes × List Bytes :=
  match st.2 with
  | [] => st
  | b :: rest =>
    let e := aesEnc key (st.1 ++ b)
    (xorBytes (e.take 8) (be 8 (t + 1)), rest ++ [e.drop 8])

/-- AES key wrap (RFC 3394) of whole 8-byte blocks. -/
def keyWrap (key data : Bytes) : Bytes :=
  let bs := chunksOf 8 data
  let r := (List.range (6 * bs.length)).foldl (kwStep key) (List.replicate 8 0xA6#8, bs)
  r.1 ++ r.2.flatten

/-- One step of AES key unwrap. -/
def kuStep (key : Bytes) (st : Bytes × List Bytes) (t : Nat) : Bytes × List Bytes :=
  match st.2.reverse with
  | [] => st
  | b :: rest =>
    let d := aesDec key (xorBytes st.1 (be 8 t) ++ b)
    (d.take 8, d.drop 8 :: rest.reverse)

/-- AES key unwrap: the data when the integrity value is right. -/
def keyUnwrap (key wrapped : Bytes) : Option Bytes :=
  let bs := (chunksOf 8 wrapped)
  let n := bs.length - 1
  let r := (List.range (6 * n)).foldl (fun st i => kuStep key st (6 * n - i)) (bs.headD [], bs.drop 1)
  if r.1 = List.replicate 8 0xA6#8 then some r.2.flatten else none

/-- Rotation offsets of Keccak by x + 5 y. -/
def keccakRot : List Nat :=
  [0, 1, 62, 28, 27, 36, 44, 6, 55, 20, 3, 10, 43, 25, 39, 41, 45, 15, 21, 8, 18, 2, 61, 56, 14]

/-- Round constants of Keccak. -/
def keccakRc : List (BitVec 64) :=
  [0x0000000000000001#64, 0x0000000000008082#64, 0x800000000000808A#64, 0x8000000080008000#64,
   0x000000000000808B#64, 0x0000000080000001#64, 0x8000000080008081#64, 0x8000000000008009#64] ++
  [0x000000000000008A#64, 0x0000000000000088#64, 0x0000000080008009#64, 0x000000008000000A#64,
   0x000000008000808B#64, 0x800000000000008B#64, 0x8000000000008089#64, 0x8000000000008003#64] ++
  [0x8000000000008002#64, 0x8000000000000080#64, 0x000000000000800A#64, 0x800000008000000A#64,
   0x8000000080008081#64, 0x8000000000008080#64, 0x0000000080000001#64, 0x8000000080008008#64]

/-- A Keccak lane. -/
def lane (a : List (BitVec 64)) (x y : Nat) : BitVec 64 := a.getD (x % 5 + 5 * (y % 5)) 0

/-- One Keccak round. -/
def keccakRound (a : List (BitVec 64)) (rc : BitVec 64) : List (BitVec 64) :=
  let c := (List.range 5).map fun x => lane a x 0 ^^^ lane a x 1 ^^^ lane a x 2 ^^^ lane a x 3 ^^^ lane a x 4
  let d := (List.range 5).map fun x => c.getD ((x + 4) % 5) 0 ^^^ (c.getD ((x + 1) % 5) 0).rotateLeft 1
  let b := (List.range 25).map fun i => (a.getD i 0 ^^^ d.getD (i % 5) 0).rotateLeft (keccakRot.getD i 0)
  let p := (List.range 25).map fun i =>
    let x := i % 5
    let y := i / 5
    b.getD ((x + 3 * y) % 5 + 5 * x) 0
  let q := (List.range 25).map fun i =>
    let x := i % 5
    let y := i / 5
    lane p x y ^^^ (~~~ lane p (x + 1) y &&& lane p (x + 2) y)
  q.zipIdx.map fun v => if v.2 = 0 then v.1 ^^^ rc else v.1

/-- Keccak-f[1600]. -/
def keccakF (a : List (BitVec 64)) : List (BitVec 64) := keccakRc.foldl keccakRound a

/-- Absorb one 136-byte block. -/
def keccakAbsorb (a : List (BitVec 64)) (block : Bytes) : List (BitVec 64) :=
  keccakF ((List.range 25).map fun i => a.getD i 0 ^^^ BitVec.ofNat 64 (leVal (slice (i * 8) 8 block)))

/-- SHAKE256: `n` bytes of output, at most 136. -/
def shake256 (n : Nat) (msg : Bytes) : Bytes :=
  let q := 136 - msg.length % 136
  let pad := if q = 1 then [0x9F#8] else 0x1F#8 :: zeros (q - 2) ++ [0x80#8]
  let a := (chunksOf 136 (msg ++ pad)).foldl keccakAbsorb (List.replicate 25 0)
  ((a.flatMap fun l => le 8 l.toNat).take n)

/-- The bytes of an ASCII string. -/
def ascii (s : String) : Bytes := s.toList.map fun c => BitVec.ofNat 8 c.toNat

end Sys2Proof.Machine
end

