-- ==== Sys2Proof/Machine/Operands.lean ====
section
/-! DEFINITION. From an address to the place of its data: regions, extents, chunks, lines (01_architecture R18 to R25, 05_regions
R161, R162), which controller serves an address, and the cutting of bytes into line writes. -/

namespace Sys2Proof.Machine

/-- The descriptor of a region that is not FREE. -/
def regionOf (r : Nat) (s : State) : Option Region := mget r s.reg.table

/-- Change a region's descriptor. -/
def modRegion (r : Nat) (f : Region → Region) (s : State) : State :=
  { s with reg := { s.reg with table := mmod r f s.reg.table } }

/-- Whether the controller is paired. -/
def isPaired (s : State) : Bool := s.pair.record.pairId != 0

/-- Whether the pair is in settee mode (06_pair R191). -/
def isSettee (s : State) : Bool := isPaired s && s.pair.record.mode == 1

/-- The partner's controller ID. -/
def partnerId (s : State) : Nat := if s.pair.position = 0 then s.pair.record.id1 else s.pair.record.id0

/-- This controller's pair position; an unpaired controller uses position 0 (07_cxl_ports R255). -/
def myPosition (s : State) : Nat := if isPaired s then s.pair.position else 0

/-- The controller ID at a pair position. -/
def idAt (p : Nat) (s : State) : Nat :=
  if p = myPosition s then s.ident.controllerId else partnerId s

/-- Whether the link is in service (06_pair R199). -/
def linkUp (s : State) : Bool :=
  match s.pair.link.state with
  | .up8 => true
  | .up4 _ => true
  | _ => false

/-- Whether messages can be queued for the partner: the link is in service, or its session is being opened. -/
def linkOpen (s : State) : Bool := linkUp s || s.pair.link.state == .init

/-- Whether this controller serves an offset of a region: its seat is here, or in settee mode the segment's parity is its position
(01_architecture R24, R25). -/
def servesHere (d : Region) (off : Nat) (s : State) : Bool :=
  if d.settee then off / 2 ^ 21 % 2 == s.pair.position else d.seat == s.ident.controllerId

/-- The size of a region in bytes. -/
def regionBytes (d : Region) : Nat := d.size * 2 ^ 28

/-- A logical extent number of a region on this controller (05_regions R161). -/
def lenOf (r k : Nat) (s : State) : Option Nat := (mgetD [] r s.reg.extentMap)[k]?

/-- The logical chunk number of a region offset (01_architecture R20, 05_regions R162). -/
def lcnOf (r off : Nat) (s : State) : Option Nat :=
  match regionOf r s with
  | none => none
  | some d =>
    if d.settee then
      let t := off / 2 ^ 21 / 2
      (lenOf r (t / 128) s).map fun len => len * 4096 + t % 128 * 32 + off / 2 ^ 16 % 32
    else (lenOf r (off / 2 ^ 28) s).map fun len => len * 4096 + off % 2 ^ 28 / 2 ^ 16

/-- The logical line address (byte address over 64) of a line of a region. -/
def lineKey (r line : Nat) (s : State) : Option Nat :=
  (lcnOf r (line * 64) s).map fun l => l * 1024 + line % 1024

/-- The segment of a chunk (R20). -/
def segmentOf (lcn : Nat) : Nat := lcn / 32

/-- The 4 KiB page of a logical line within its segment (R111). -/
def pageOf (key : Nat) : Nat := key % 32768 / 64

/-- The lines that a write of `len` bytes at `off` spans (03_persistence R65). -/
def spanLines (off len : Nat) : Nat := if len = 0 then 0 else (off + len + 63) / 64 - off / 64

/-- The line write that covers the bytes `lo` to `hi - 1` of line `line`, the data given from byte `lo`. -/
def lineWriteOf (line lo hi : Nat) (data : Bytes) (poison : Bool) : LineWrite :=
  { line := line, mask := rangeMask lo hi, data := lineOf (padTo 64 (zeros lo ++ data)), poison := poison }

/-- Cut bytes written at an offset into line writes (03_persistence R65, R77). -/
def cutLines (off : Nat) (data : Bytes) : List LineWrite :=
  (List.range (spanLines off data.length)).map fun i =>
    let line := off / 64 + i
    let lo := if i = 0 then off % 64 else 0
    let start := if i = 0 then 0 else 64 * i - off % 64
    let n := min (64 - lo) (data.length - start)
    lineWriteOf line lo (lo + n) (slice start n data) false

/-- The bytes from `off`, `len` of them, of lines given by a reader of lines. -/
def joinLines (rd : Nat → Line) (off len : Nat) : Bytes :=
  slice (off % 64) len
    ((List.range (spanLines off len)).flatMap fun i => lineBytes (rd (off / 64 + i)))

/-- Cut a write of `len` bytes at the 1 MiB boundaries of its own byte offset (03_persistence R73), and in settee mode at 2 MiB
segment boundaries of the region (R74): the pieces as (offset in the data, length). -/
def pieces (settee : Bool) (off len : Nat) : List (Nat × Nat) :=
  let cuts := (List.range (len / 2 ^ 20 + 1)).map (· * 2 ^ 20)
  let seg := if settee then
      (List.range (len / 2 ^ 21 + 2)).map fun k => (off / 2 ^ 21 + k) * 2 ^ 21 - off
    else []
  let all := (cuts ++ seg).filter (· < len)
  let sorted := all.foldl (fun l k => setInsert k l) []
  let ends := sorted.drop 1 ++ [len]
  (sorted.zip ends).map fun p => (p.1, p.2 - p.1)

/-- The data key of a region, where its wrapped key passed its check (14_trust R530). -/
def regionKey (d : Region) (s : State) : Option Bytes :=
  match mget d.keySlot s.trust.keys with
  | some k => if k.bad then none else some k.key
  | none => none

/-- Whether any transform slice works (11_transform_engine R424). -/
def engineWorks (s : State) : Bool := s.te.active != 0

/-- The XTS tweak of data unit `u` of a chunk (R429). -/
def xtsTweak (region lcn u : Nat) : Bytes := le 16 (region * 2 ^ 40 + lcn * 16 + u)

/-- Encipher the 64 KiB image of a chunk of an encrypted region, unit by unit (R429). -/
def xtsChunk (enc : Bool) (key : Bytes) (region lcn : Nat) (data : Bytes) : Bytes :=
  ((chunksOf 4096 data).zipIdx.map fun p =>
    if enc then xtsEnc key (xtsTweak region lcn p.2) p.1 else xtsDec key (xtsTweak region lcn p.2) p.1).flatten

/-- The additional data of a sealed chunk (R435). -/
def sealAad (lcn region kind seq : Nat) : Bytes := le 5 lcn ++ le 2 region ++ le 1 kind ++ le 8 seq

/-- A line as a read finds it: its bytes and its poison mark. -/
structure LineRead where
  data : Line
  poison : Bool
deriving DecidableEq, Repr, Inhabited

/-- The plaintext line `i` of a programmed chunk (R429, R435); none when no key or no slice makes it readable. -/
def cabLine (d : Region) (r lcn addr i : Nat) (s : State) : Option Line :=
  match d.protect with
  | .none => some (memLine s.ti.cab (addr * 1024 + i))
  | .encrypted =>
    if engineWorks s then
      (regionKey d s).map fun k =>
        lineOf (slice (i % 64 * 64) 64 (xtsDec k (xtsTweak r lcn (i / 64)) (memReadN s.ti.cab (addr * 65536 + i / 64 * 4096) 4096)))
    else none
  | .sealed =>
    if engineWorks s then
      match regionKey d s, mget addr s.ti.chunkMeta with
      | some k, some m =>
        let c := memReadN s.ti.cab (addr * 65536) 65536
        let iv := le 12 m.nonce
        if beVal (gcmTag k iv (sealAad m.lcn m.region m.kind m.dataSeq) c) = m.tag
        then some (lineOf (slice (i * 64) 64 (gcmCrypt k iv c))) else none
      | _, _ => none
    else none

/-- The bytes under a poison mark, where the specification gives none. -/
def underPoison (r line : Nat) (x : LineRead) : LineRead := if x.poison then ⟨Config.poisonBytes r line, true⟩ else x

/-- A line as the shelf and the cabinet hold it (01_architecture R16): the shelf page where it is valid, else the cabinet by the map
state (04_tiers R121). None when the data is intact but cannot be reached (R17). -/
def tierLine (d : Region) (r line : Nat) (s : State) : Option LineRead :=
  match lineKey r line s with
  | none => none
  | some key =>
    let lcn := key / 1024
    let resident := match mget (segmentOf lcn) s.ti.segs with
      | some g => g.valid.testBit (pageOf key)
      | none => false
    if s.cap.chunks.any (fun c => c.lcn == lcn) then some (underPoison r line ⟨memLine s.cap.staging key, s.cap.stagingPoison.contains key⟩)
    else if resident then some (underPoison r line ⟨memLine s.ti.shelf key, s.ti.shelfPoison.contains key⟩)
    else
      match mget lcn s.ti.map with
      | none => some ⟨0, false⟩
      | some e =>
        if e.state = 0 then some ⟨0, false⟩
        else if e.state = 1 ∨ e.state = 3 then
          (cabLine d r lcn e.addr (key % 1024) s).map fun l =>
            underPoison r line ⟨l, match mget e.addr s.ti.chunkMeta with
              | some m => m.poison.contains (key % 1024)
              | none => false⟩
        else some (underPoison r line ⟨0, true⟩)

/-- The line write at a place that a recent-write map entry names. -/
def placeLine (p : Place) (s : State) : Option LineWrite :=
  match p with
  | .slot n => (mget n s.pu.slots).map fun d => ⟨d.line, d.mask, d.data, d.poison⟩
  | .chest seq i => ((s.pu.chest.find? fun r => r.seq == seq).bind fun r => r.lines[i]?).map fun l => l.lw

/-- A line with a write laid over it (12_integrity R457): a whole-line write sets the poison mark, a partial one keeps it. -/
def overlay (b : LineRead) (w : LineWrite) : LineRead :=
  { data := mergeLine w.mask b.data w.data
    poison := if w.mask = fullMask then w.poison else b.poison || w.poison }

/-- The copies that the recent-write map holds of a line, oldest first. -/
def copiesOf (r line : Nat) (s : State) : List LineWrite :=
  (s.pu.copies.filter fun c => c.region == r && c.line == line).filterMap fun c => placeLine c.place s

/-- A line's granule in the front cache of some head, for a volatile region (07_cxl_ports R273). -/
def fcLine (r line : Nat) (s : State) : Option LineRead :=
  (s.cxl.heads.findSome? fun h =>
    (h.2.granules ++ h.2.victims.map fun v => v.2.granule).findSome? fun g =>
      if g.region = r ∧ g.index = line / 4 ∧ g.valid.getLsbD (line % 4) then
        some ⟨mgetD 0 (line % 4) g.lines, g.poison.getLsbD (line % 4)⟩
      else none)

/-- A line of a region as a read returns it (01_architecture R16, R17): the newest copies of the recent-write map laid over the
shelf and the cabinet; for a volatile region the front cache that holds it first. -/
def readLine (r line : Nat) (s : State) : Option LineRead :=
  match regionOf r s with
  | none => none
  | some d =>
    if d.isVolatile then
      match fcLine r line s with
      | some l => some l
      | none => tierLine d r line s
    else
      let ws := copiesOf r line s
      match tierLine d r line s with
      | some b => some (ws.foldl overlay b)
      | none =>
        if ws.any fun w => w.mask == fullMask then some (ws.foldl overlay ⟨0, false⟩) else none

/-- Bytes of a region as they are held; a line that cannot be reached counts as zeros. -/
def readBytes (r off len : Nat) (s : State) : Bytes :=
  joinLines (fun l => match readLine r l s with
    | some x => x.data
    | none => 0) off len

/-- Zeros in place of the given lines of data that lies at an offset (09_command_queues R372, 08_remote_access R338). -/
def zeroLines (off : Nat) (bad : List Nat) (data : Bytes) : Bytes :=
  data.zipIdx.map fun x => if bad.contains ((off + x.2) / 64) then 0 else x.1

/-- The lines of a range that read as poisoned or cannot be reached. -/
def poisonedLines (r off len : Nat) (s : State) : List Nat :=
  ((List.range (spanLines off len)).map (· + off / 64)).filter fun l =>
    match readLine r l s with
    | some x => x.poison
    | none => true

/-- Whether a region is writable: ONLINE or CHANGING with no reason bit set (05_regions R157, R179). -/
def writable (d : Region) : Bool := d.state != .offline && d.roReasons == 0

/-- Bytes of a region as a read returns them: zeros in place of each poisoned line (09_command_queues R372). -/
def readZeroed (r off len : Nat) (s : State) : Bytes := zeroLines off (poisonedLines r off len s) (readBytes r off len s)

end Sys2Proof.Machine
end

