-- ==== Sys2Proof/Machine/Mpl.lean ====
section
/-! DEFINITION. Messages of the pairing link: their bodies and their queueing (06_pair R209, R210). -/

namespace Sys2Proof.Machine

/-- Queue a message for the partner, while the controller is paired and the link is open. -/
def sendMsg (m : MplMsg) (s : State) : State :=
  if isPaired s && linkOpen s then
    { s with pair := { s.pair with link := { s.pair.link with queue := s.pair.link.queue ++ [m] } } }
  else s

/-- Take the next message tag (R205). -/
def nextTag (s : State) : Nat := s.pair.link.nextMtag

/-- Count a message tag, 16 bits wide. -/
def bumpTag (s : State) : State :=
  { s with pair := { s.pair with link := { s.pair.link with nextMtag := (s.pair.link.nextMtag + 1) % 65536 } } }

/-- The poison bitmap of a list of lines, one bit per line (03_persistence R78). -/
def poisonBitmap (l : List LineWrite) : Bytes :=
  le ((l.length + 7) / 8) (l.zipIdx.foldl (fun a p => a + if p.1.poison then 2 ^ p.2 else 0) 0)

/-- MIRROR_WRITE (R210): a unit of a mirrored region; with ZERO, its length in lines in place of the data (09_command_queues R370). -/
def msgMirrorWrite (region msn : Nat) (zero : Bool) (lines : List LineWrite) (zeroOff zeroLines : Nat) : MplMsg :=
  let first := lines.headD ⟨0, fullMask, 0, false⟩
  let last := lines.getLastD first
  let poisoned := lines.any (·.poison)
  { vc := 1, opcode := 0x10, flags := b2n poisoned + 2 * b2n zero, region := region
    operand := if zero then zeroOff else first.line * 64
    body := le 8 msn ++ le 8 first.mask.toNat ++ le 8 last.mask.toNat ++
      (if zero then le 8 zeroLines
       else (lines.flatMap fun l => lineBytes l.data) ++ if poisoned then poisonBitmap lines else []) }

/-- MIRROR_ACCEPT. -/
def msgAccept (region msn : Nat) : MplMsg := { vc := 1, opcode := 0x11, region := region, operand := msn }

/-- MIRROR_ABORT. -/
def msgAbort (region msn : Nat) : MplMsg := { vc := 1, opcode := 0x12, region := region, operand := msn }

/-- MIRROR_SEAL with its run entries (R213). -/
def msgSeal (region beat : Nat) (runs : List SealRun) : MplMsg :=
  { vc := 1, opcode := 0x13, region := region, operand := beat
    body := runs.flatMap fun r => le 8 r.seq ++ le 6 r.firstMsn ++ le 2 r.count }

/-- MIRROR_DONE (R213). -/
def msgDone (seq : Nat) : MplMsg := { vc := 1, opcode := 0x16, operand := seq }

/-- META_DONE (R214). -/
def msgMetaDone (seq : Nat) : MplMsg := { vc := 1, opcode := 0x15, operand := seq }

/-- HEARTBEAT (R210, R216). -/
def msgHeartbeat (h chairEpoch leaseEpoch : Nat) : MplMsg :=
  { vc := 0, opcode := 0x01, operand := h, body := le 4 chairEpoch ++ le 4 leaseEpoch }

/-- HEARTBEAT_ECHO. -/
def msgEcho (h : Nat) : MplMsg := { vc := 0, opcode := 0x02, operand := h }

/-- TAKEN. -/
def msgTaken (epoch : Nat) : MplMsg := { vc := 0, opcode := 0x03, operand := epoch }

/-- The encoding of PROTECT (05_regions R156). -/
def protectCode : Protect → Nat
  | .none => 0
  | .encrypted => 1
  | .sealed => 2

/-- ATTR of a descriptor (R156, byte 3). -/
def attrByte (d : Region) : Nat :=
  protectCode d.protect + 4 * b2n d.isVolatile + 8 * b2n d.mirrored + 16 * b2n d.settee + 32 * (d.shed % 8)

/-- The encoding of STATE (R157). -/
def regionStateCode : RegionState → Nat
  | .online => 1
  | .changing => 2
  | .offline => 3

/-- The 124 bytes of a descriptor before its CRC (R156). -/
def descHead (id : Nat) (d : Region) : Bytes :=
  le 2 id ++ le 1 (regionStateCode d.state) ++ le 1 (attrByte d) ++
  le 2 (if d.settee then 0xFFF else d.seat) ++ le 2 d.roReasons.toNat ++ le 4 d.size ++ le 4 d.mirrorGen ++
  le 4 d.keySlot ++ zeros 4 ++ le 8 d.created ++ padTo 16 d.label ++ le 32 d.readDomains.toNat ++
  le 32 d.writeDomains.toNat ++ zeros 12


/-- The 128-byte descriptor (R156). -/
def descBytes (id : Nat) (d : Region) : Bytes := descHead id d ++ le 4 (crc32cN (descHead id d))

/-- A FREE descriptor: every field zero except ID and CRC (05_regions R173). -/
def freeDesc (id : Nat) : Bytes := le 2 id ++ zeros 122 ++ le 4 (crc32cN (le 2 id ++ zeros 122))

/-- A META item's header line: KIND, LINES, and the bytes from 4 on (05_regions R163). -/
def itemHead (kind lines : Nat) (rest : Bytes) : Bytes := padTo 64 (le 2 kind ++ le 2 lines ++ rest)

/-- Extent map entries, 16 to a line (05_regions R161, R164). -/
def extentLines (l : List Nat) : Bytes :=
  padTo ((l.length + 15) / 16 * 64) (l.flatMap fun n => le 4 (0x80000000 + n))

/-- A META item as a record and META_COPY carry it (05_regions R164, 06_pair R245, 14_trust R527). -/
def itemBytes (hash0 hash1 : Bytes) : MetaItem → Bytes
  | .regionDesc _ b => itemHead 0x0001 3 [] ++ padTo 128 b
  | .extentAssign r p f l => itemHead 0x0002 (1 + (l.length + 15) / 16) (le 2 r ++ le 1 p ++ zeros 1 ++ le 4 f ++ le 4 l.length) ++ extentLines l
  | .extentRelease r p f l => itemHead 0x0003 (1 + (l.length + 15) / 16) (le 2 r ++ le 1 p ++ zeros 1 ++ le 4 f ++ le 4 l.length) ++ extentLines l
  | .pairRecord pid a b mode chk slot wit ret =>
    itemHead 0x0101 10 (le 8 pid ++ le 2 a ++ le 2 b ++ le 1 mode ++ le 1 chk ++ le 4 slot ++ le 1 (b2n wit)) ++
      padTo 32 hash0 ++ padTo 32 hash1 ++ le 512 (ret.foldl (fun v i => v + 2 ^ i) 0)
  | .lease r h c e bt => itemHead 0x0102 1 (le 2 r ++ le 1 h ++ le 1 c ++ le 4 e ++ le 8 bt)
  | .mirrorState r p st g m => itemHead 0x0103 1 (le 2 r ++ le 1 p ++ le 1 st ++ le 4 g ++ le 8 m)
  | .keySlot n sc ty r w => itemHead 0x0201 3 (le 4 n ++ le 1 sc ++ le 1 ty ++ le 2 r ++ le 4 w.length) ++ padTo 128 w
  | .sanitizeMark ph k bt => itemHead 0x0202 1 (le 1 ph ++ le 1 k ++ zeros 2 ++ le 8 bt)

/-- META_COPY (06_pair R210, R214). -/
def msgMetaCopy (seq : Nat) (items : List MetaItem) (s : State) : MplMsg :=
  { vc := 1, opcode := 0x14, operand := seq
    body := (items.flatMap (itemBytes s.pair.record.hash0 s.pair.record.hash1)) ++ zeros 64 }

end Sys2Proof.Machine
end

