-- ==== Sys2Proof/Machine/Persist.lean ====
section
/-! DEFINITION. Operations of the persistence unit: drawer slots, admission, acknowledgement, the closing and sealing of journal
records, the chest writer and the power-fail drain (03_persistence). -/

namespace Sys2Proof.Machine

/-- Change the persistence unit. -/
def modPu (f : Persist → Persist) (s : State) : State := { s with pu := f s.pu }

/-- Line slots of one bank (R62). -/
def bankLines : Nat := 8192

/-- Slots that are not FREE, of a class (R64). -/
def usedBy (c : WClass) (s : State) : Nat := (s.pu.slots.filter fun e => e.2.cls == c).length

/-- Drawer lines that submitted MAP, META and CHECKPOINT records take (R83). -/
def controlUsed (s : State) : Nat :=
  ((s.pu.openGroup ++ s.pu.queue).map (·.drawerLines)).sum

/-- Lines of the drawer outside failing and disabled banks (R107). -/
def drawerLines (s : State) : Nat := bankLines * (16 - s.pu.banks.length)

/-- Whether `n` more lines of a class fit, within the floors of R64. -/
def drawerFits (c : WClass) (n : Nat) (s : State) : Bool :=
  let g := usedBy .general s + if c = .general then n else 0
  let m := usedBy .mirrorCopy s + if c = .mirrorCopy then n else 0
  let k := controlUsed s + if c = .control then n else 0
  decide (g + (m - 16384) + (k - 4096) + 20480 ≤ drawerLines s)

/-- The slot that the next line takes, and the bank after it (R63): round robin over the banks that are neither failing nor
disabled. -/
def pickSlot (slots : AMap DSlot) (banks : AMap BankState) : Nat → Nat → Option (Nat × Nat)
  | 0, _ => none
  | fuel + 1, b =>
    if mhas b banks then pickSlot slots banks fuel ((b + 1) % 16)
    else
      match firstFree (fun n => mhas n slots) bankLines (b * bankLines) with
      | some n => if n < (b + 1) * bankLines then some (n, (b + 1) % 16) else pickSlot slots banks fuel ((b + 1) % 16)
      | none => pickSlot slots banks fuel ((b + 1) % 16)

/-- Take a slot for one line of a unit; none when no bank has one. -/
def takeSlot (u : WUnit) (st : SlotState) (l : LineWrite) (p : Persist × List Nat) : Option (Persist × List Nat) :=
  (pickSlot p.1.slots p.1.banks 16 p.1.nextBank).map fun r =>
    ({ p.1 with
        slots := mput r.1
          { state := st, unit := u.id, cls := u.cls, src := u.src, region := u.region, line := l.line, mask := l.mask,
            poison := l.poison, data := l.data, msn := if u.mirrored then some u.msn else none } p.1.slots
        nextBank := r.2 }, p.2 ++ [r.1])

/-- Take slots for every line of a unit (R65). -/
def takeSlots (u : WUnit) (st : SlotState) (p : Persist) : Option (Persist × List Nat) :=
  u.lines.foldlM (fun a l => takeSlot u st l a) (p, [])

/-- Descriptor slots of a line in a LINESET (R79): a partial line takes two. -/
def descSlots (m : Mask) : Nat := if m = fullMask then 1 else 2

/-- Journal lines of a META item (05_regions R163, R164, 06_pair R245, 14_trust R527). -/
def metaItemLines : MetaItem → Nat
  | .regionDesc .. => 3
  | .extentAssign _ _ _ l => 1 + (l.length + 15) / 16
  | .extentRelease _ _ _ l => 1 + (l.length + 15) / 16
  | .pairRecord .. => 10
  | .lease .. => 1
  | .mirrorState .. => 1
  | .keySlot .. => 3
  | .sanitizeMark .. => 1

/-- Lines of a DATA record's body for `n` payload lines, the poison bitmap counted when `bitmap` (R77, R78). -/
def dataBody (n : Nat) (bitmap : Bool) : Nat := n + if bitmap then (n + 511) / 512 else 0

/-- Body lines of a record from its descriptor slots and payload lines (R77 to R80, 04_tiers R123, R129). -/
def bodyLines (k : RecKind) (descs payload : Nat) (poisoned : Bool) : Nat :=
  match k with
  | .data => dataBody payload poisoned
  | .lineset => (descs + 7) / 8 + payload
  | .map e => (e.length + 3) / 4
  | .metaRec items => (items.map metaItemLines).sum + 1
  | .checkpoint _ => 1
  | .drain .. => 1
  | .pad n => n - 2
  | .reserved _ => 0

/-- Journal lines of a record, header and trailer included. While it is queued its lines stand in drawer slots. -/
def recLines (p : Persist) (r : JRec) : Nat :=
  let q := r.slots.filterMap fun n => mget n p.slots
  let d := (q.map fun x => descSlots x.mask).sum + (r.lines.map fun x => descSlots x.lw.mask).sum
  let n := q.length + r.lines.length
  let bad := q.any (·.poison) || r.lines.any (·.lw.poison)
  bodyLines r.kind d n bad + 2

/-- Whether a unit becomes one LINESET entry: one line, not journaled capture (R72, R77). -/
def isEntry (u : WUnit) : Bool := u.lines.length == 1 && !u.capture && u.zeroChunks.isEmpty && u.zeroLines.isNone

/-- The most journal lines that an admitted unit can occupy (R90): its DATA record with a poison bitmap, its MAP record, and the
header, trailer and descriptor line of the LINESET that it may close. -/
def unitReserve (u : WUnit) : Nat :=
  (if u.lines.isEmpty then 0 else dataBody u.lines.length true + 2) +
    (if u.zeroChunks.isEmpty then 0 else (u.zeroChunks.length + 3) / 4 + 2) + 3

/-- Units that are admitted and not acknowledged. -/
def admittedUnits (s : State) : List WUnit := s.pu.units.filter fun u => u.phase == .reserved || u.phase == .staged

/-- The most lines that the open LINESET and the admitted entries can occupy (R79, R90). -/
def linesetReserve (s : State) (extra : List LineWrite) : Nat :=
  let q := s.pu.openSet.filterMap fun n => mget n s.pu.slots
  let e := ((admittedUnits s).filter isEntry).flatMap (·.lines)
  let n := q.length + e.length + extra.length
  if n = 0 then 0
  else
    ((q.map fun x => descSlots x.mask).sum + ((e ++ extra).map fun x => descSlots x.mask).sum + 7) / 8 + n +
      2 * ((n + 4095) / 4096)

/-- The pending journal lines with further lines and entries added (R90). -/
def pendingLines (s : State) (more : Nat) (extra : List LineWrite) : Nat :=
  ((s.pu.queue ++ s.pu.openGroup ++ s.pu.mirrorGroup).map (recLines s.pu)).sum +
    (((admittedUnits s).filter fun u => !isEntry u).map unitReserve).sum + linesetReserve s extra + 2 + more

/-- The ceiling of the pending journal lines (R90). -/
def pendingCeiling : Nat := 164093

/-- Whether the journal lines of a unit can be reserved (R90). -/
def journalFits (u : WUnit) (s : State) : Bool :=
  if isEntry u then decide (pendingLines s 0 u.lines ≤ pendingCeiling)
  else decide (pendingLines s (unitReserve u) [] ≤ pendingCeiling)

/-- Bytes of a unit that count as journaled ingest (R106). -/
def unitBytes (u : WUnit) : Nat := 64 * u.lines.length

/-- Whether the ingest limit of R106 lets a unit in this beat; a unit larger than the limit passes in a beat of its own. -/
def ingestFits (u : WUnit) (s : State) : Bool :=
  match s.pu.ingestLimit with
  | none => true
  | some l => decide (s.pu.ingestUsed + unitBytes u ≤ l) || s.pu.ingestUsed == 0

/-- Whether a waiting unit is at the head of its class (R89). -/
def headOfClass (u : WUnit) (s : State) : Bool :=
  s.pu.units.all fun v => !(v.phase == .waiting && v.cls == u.cls && decide (v.id < u.id))

/-- Whether a waiting unit can be admitted now (R64, R65, R89, R90, R106, 12_integrity R452). -/
def canAdmit (u : WUnit) (s : State) : Bool :=
  u.phase == .waiting && headOfClass u s && drawerFits u.cls u.lines.length s && journalFits u s && ingestFits u s &&
    s.pu.drain.isNone && s.ecc.rwmRebuild.isNone && (takeSlots u .staged s.pu).isSome

/-- The unit with a number. -/
def unitOf (n : Nat) (s : State) : Option WUnit := s.pu.units.find? fun u => u.id == n

/-- Replace a unit. -/
def putUnit (u : WUnit) (p : Persist) : Persist :=
  { p with units := p.units.map fun v => if v.id = u.id then u else v }

/-- Whether writes to a region are mirrored now: mirrored, seated here, both copies CURRENT, or the partner resyncing from here
(06_pair R212, R236). -/
def mirrorsNow (r : Nat) (s : State) : Bool :=
  match regionOf r s with
  | none => false
  | some d =>
    d.mirrored && isPaired s &&
      match mget r s.pair.mirror with
      | some m => m.state == .current
      | none => false

/-- A new unit in arrival order, waiting for admission (R89). A unit of a mirrored region takes its MSN (06_pair R212). -/
def newUnit (src : WSrc) (cls : WClass) (region : Nat) (lines : List LineWrite) (s : State) : WUnit :=
  { id := s.pu.nextUnit, src := src, cls := cls, region := region, lines := lines, arrived := s.tb.beat }

/-- Queue a unit for admission. -/
def submitUnit (u : WUnit) (s : State) : State :=
  modPu (fun p => { p with units := p.units ++ [{ u with id := p.nextUnit }], nextUnit := p.nextUnit + 1 }) s

/-- The next MSN of a region (06_pair R212). -/
def nextMsn (r : Nat) (s : State) : Nat := mgetD 0 r s.pair.msn

/-- Stage an admitted unit: its slots are STAGED, and for a mirrored region it takes its MSN and is sent to the partner (R62,
R70, 06_pair R212). A mirror copy is accepted. -/
def stageUnit (u : WUnit) (s : State) : State :=
  let own := u.cls == .general && mirrorsNow u.region s
  let copy := u.cls == .mirrorCopy
  let u := { u with phase := .staged, mirrored := own || u.mirrored, msn := if own then nextMsn u.region s else u.msn
                    accepted := copy || u.accepted }
  let s := modPu (fun p =>
    putUnit u { p with slots := p.slots.map fun e =>
      if e.2.unit = u.id then (e.1, { e.2 with state := .staged, msn := if own then some u.msn else e.2.msn }) else e }) s
  if own then
    let z := u.zeroLines
    let s := { s with pair := { s.pair with msn := mput u.region (u.msn + 1) s.pair.msn } }
    sendMsg (msgMirrorWrite u.region u.msn z.isSome u.lines (z.getD (0, 0)).1 (z.getD (0, 0)).2) s
  else if copy then
    match u.src with
    | .mirror m => sendMsg (msgAccept u.region m) s
    | _ => s
  else s

/-- Admit a unit (R65): reserve its slots. A unit whose bytes are all here is staged at once. -/
def admitUnit (u : WUnit) (arrived : Bool) (s : State) : State :=
  match takeSlots u .reserved s.pu with
  | none => s
  | some (p, slots) =>
    let u := { u with phase := .reserved, slots := slots }
    let s := { s with pu := putUnit u { p with ingestUsed := p.ingestUsed + unitBytes u } }
    if arrived then stageUnit u s else s

/-- Free drawer slots. -/
def freeSlots (l : List Nat) (p : Persist) : Persist := { p with slots := p.slots.filter fun e => !l.contains e.1 }

/-- Abandon a unit (R62): its slots become FREE; a mirrored unit that is on its way is aborted (06_pair R212). -/
def abandonUnit (u : WUnit) (s : State) : State :=
  let s := modPu (fun p =>
    freeSlots u.slots { p with units := p.units.filter fun v => v.id != u.id }) s
  if u.cls == .general && u.mirrored && u.phase == .staged then sendMsg (msgAbort u.region u.msn) s else s

/-- The record of the open LINESET (R79, R84). -/
def linesetRec (s : State) : JRec :=
  let q := s.pu.openSet.filterMap fun n => mget n s.pu.slots
  { kind := .lineset, slots := s.pu.openSet, lastAck := (q.map (·.ack)).foldl max 0, mirrored := q.any (·.msn.isSome) }

/-- Close the open LINESET (R84). -/
def closeSet (s : State) : State :=
  if s.pu.openSet.isEmpty then s
  else
    let r := linesetRec s
    modPu (fun p => { p with openGroup := p.openGroup ++ [r], openSet := [] }) s

/-- Close a record: the open LINESET closes first (R84). -/
def closeRec (r : JRec) (s : State) : State :=
  modPu (fun p => { p with openGroup := p.openGroup ++ [r] }) (closeSet s)

/-- Close a record that leaves the open LINESET open: a MAP record without SEQ_DELTA 0, a META or a CHECKPOINT record (R84). -/
def submitRec (r : JRec) (s : State) : State :=
  modPu (fun p => { p with openGroup := p.openGroup ++ [r] }) s

/-- Whether a control record can be submitted now (R83). -/
def canSubmit (r : JRec) (s : State) : Bool :=
  let n := recLines s.pu r
  drawerFits .control n s && decide (pendingLines s n [] ≤ pendingCeiling) && s.pu.drain.isNone

/-- A control record, with the drawer lines that it takes. -/
def ctlRec (k : RecKind) (s : State) : JRec :=
  let r : JRec := { kind := k }
  { r with slotClass := .control, drawerLines := recLines s.pu r, origin := s.ident.controllerId }

/-- Submit a control record, or keep it waiting for room (R83). -/
def submitCtl (r : JRec) (s : State) : State :=
  if canSubmit r s && s.pu.ctlWaiting.isEmpty then submitRec r s
  else modPu (fun p => { p with ctlWaiting := p.ctlWaiting ++ [r] }) s

/-- Journal META items, with what is to be done once the record is complete in the chests that must hold it (05_regions R169,
06_pair R214). `both` sends META_COPY to the partner. -/
def journalMeta (items : List MetaItem) (acts : List MetaAct) (both : Bool) (s : State) : State :=
  let id := s.pu.nextMeta
  let two := both && isPaired s && linkOpen s
  let w : MetaWait := { id := id, items := items, acts := acts, partnerDone := !two }
  submitCtl { ctlRec (.metaRec items) s with metaId := some id }
    (modPu (fun p => { p with metaWaits := p.metaWaits ++ [w], nextMeta := p.nextMeta + 1 }) s)

/-- The chunk of a region's line. -/
def chunkOfLine (r line : Nat) (s : State) : Option Nat := (lineKey r line s).map (· / 1024)

/-- Turn whole chunks to ZERO (09_command_queues R370): the map entry, the resident pages, the copies of older lines, and a
write-back in flight are gone. -/
def zeroChunk (lcn : Nat) (s : State) : State :=
  let ti := s.ti
  { s with
    pu := { s.pu with copies := s.pu.copies.filter fun c => chunkOfLine c.region c.line s != some lcn }
    ti := { ti with
      map := mdel lcn ti.map
      dirtyPages := setInsert (lcn / 8192) ti.dirtyPages
      shelf := memErase (lcn * 65536) 65536 ti.shelf
      shelfPoison := ti.shelfPoison.filter fun k => k / 1024 != lcn
      inFlight := ti.inFlight.filter fun w => w.lcn != lcn
      segs := mmod (segmentOf lcn) (fun g =>
        { g with dirty := if g.dirty.testBit (lcn % 32) then g.dirty - 2 ^ (lcn % 32) else g.dirty }) ti.segs } }

/-- The MAP record of a Write Zeroes piece (R370): entries ZERO with SEQ_DELTA 0. -/
def zeroRec (l : List Nat) (s : State) : JRec :=
  ctlRec (.map (l.map fun c => { lcn := c, state := 0, addr := 0, dataSeq := 0, servesUnit := true })) s

/-- Acknowledge a staged unit (R68, R70, R83, R84): its slots become HELD, its lines enter the recent-write map, and its record
closes or its entry joins the open LINESET. -/
def holdUnit (u : WUnit) (s : State) : State :=
  let n := s.pu.nextAck
  let s := u.zeroChunks.foldl (fun s c => zeroChunk c s) s
  let s := modPu (fun p =>
    { p with
      slots := p.slots.map fun e => if e.2.unit = u.id then (e.1, { e.2 with state := .held, ack := n }) else e
      copies := p.copies ++ (u.slots.zip u.lines).map fun x =>
        { region := u.region, line := x.2.line, ack := n, place := .slot x.1 }
      units := p.units.filter fun v => v.id != u.id
      nextAck := n + 1 }) s
  let z := if u.mirrored && u.lines.isEmpty then some (u.region, u.msn) else none
  let s := if u.zeroChunks.isEmpty then s else closeRec { zeroRec u.zeroChunks s with mirrored := z.isSome, zeroMsn := z } s
  if u.lines.isEmpty then s
  else if isEntry u then
    let s := modPu (fun p => { p with openSet := p.openSet ++ u.slots }) s
    if s.pu.openSet.length < 4096 then s else closeSet s
  else
    closeRec { kind := .data, region := u.region, slots := u.slots, lastAck := n, mirrored := u.mirrored, gen := u.gen,
               capture := u.capture, origin := s.ident.controllerId } s

/-- Usable log lines (R76, R105): 33,554,304 less 128 for each retired row. -/
def logLines (p : Persist) : Nat := 33554304 - 128 * p.rowsRetired.length

/-- The usable size of the chest in bytes (R105). -/
def chestBytes (p : Persist) : Nat := 2147483648 - 8192 * p.rowsRetired.length

/-- The anchor that start-up would use (R82). -/
def bestAnchor (p : Persist) : Option Anchor :=
  match p.anchorA, p.anchorB with
  | some a, some b => if a.generation < b.generation then some b else some a
  | some a, none => some a
  | none, b => b

/-- The log line from which the chest writer treats lines as in use, with its SEQ (R82). -/
def inUseFrom (p : Persist) : Nat × Nat :=
  match bestAnchor p with
  | some a => (a.line, a.seq)
  | none => (0, 1)

/-- Log lines in use: from the anchored position to the writer, and the whole of it when nothing has been reclaimed (R92). -/
def logUsed (p : Persist) : Nat :=
  let from' := inUseFrom p
  if p.chest.any fun r => decide (from'.2 ≤ r.seq) then
    let d := (p.writePos + logLines p - from'.1 % logLines p) % logLines p
    if d = 0 then logLines p else d
  else 0

/-- Free log lines (R92). -/
def logFree (p : Persist) : Nat := logLines p - logUsed p

/-- The log line at which a record of `n` lines would start behind `pos`, with the PAD lines before it (R76): none when it fits. -/
def padBefore (p : Persist) (pos n : Nat) : Nat := if pos + n ≤ logLines p then 0 else logLines p - pos

/-- The log line behind the records that are queued. -/
def tailPos (p : Persist) : Nat :=
  p.queue.foldl (fun pos r =>
    let n := recLines p r
    let gap := padBefore p pos n
    let start := if gap = 0 then pos else 0
    (start + n) % logLines p) p.writePos

/-- Seal one record (R81, R83): a PAD record first where it does not fit before the end of the log (R76), then its number. A gap
of one line is left unused. -/
def sealRec (beat : Nat) (r : JRec) (p : Persist) : Persist :=
  let n := recLines p r
  let gap := padBefore p (tailPos p) n
  let p := if 2 ≤ gap then
      { p with queue := p.queue ++ [{ kind := .pad gap, seq := p.nextSeq, originSeq := p.nextSeq, groupBeat := beat }]
               nextSeq := p.nextSeq + 1 }
    else p
  let q := p.nextSeq
  { p with
    queue := p.queue ++ [{ r with seq := q, groupBeat := beat, originSeq := if r.mirrorCopy then r.originSeq else q }]
    nextSeq := q + 1 }

/-- Runs of MSNs that follow one another (06_pair R213). -/
def msnRuns (seq : Nat) : List Nat → List SealRun
  | [] => []
  | m :: r =>
    match msnRuns seq r with
    | [] => [⟨seq, m, 1⟩]
    | x :: xs => if x.firstMsn = m + 1 ∧ x.count < 4096 then ⟨seq, m, x.count + 1⟩ :: xs else ⟨seq, m, 1⟩ :: x :: xs

/-- The MSNs of a record's units of a region, in the record's order. -/
def recMsns (p : Persist) (region : Nat) (r : JRec) : List Nat :=
  let l := r.slots.filterMap fun n => (mget n p.slots).bind fun d => if d.region = region then d.msn else none
  (match r.zeroMsn with
    | some z => if z.1 = region then [z.2] else []
    | none => []) ++ l.foldr (fun m a => if a.head? = some m then a else m :: a) []

/-- The regions with mirrored units in a list of records. -/
def sealedRegions (p : Persist) (l : List JRec) : List Nat :=
  (l.flatMap fun r => (r.zeroMsn.map (·.1)).toList ++ r.slots.filterMap fun n =>
    (mget n p.slots).bind fun d => if d.msn.isSome then some d.region else none).foldl (fun a r => setInsert r a) []

/-- META_COPY for the sealed META records that the partner must hold too (06_pair R214). -/
def sendCopies (sealed : List JRec) (s : State) : State :=
  sealed.foldl (fun s r =>
    match r.metaId with
    | none => s
    | some id =>
      let s := modPu (fun p => { p with metaWaits := p.metaWaits.map fun w => if w.id = id then { w with seq := r.seq } else w }) s
      match s.pu.metaWaits.find? fun w => w.id == id with
      | some w => if w.partnerDone then s else sendMsg (msgMetaCopy r.seq w.items s) s
      | none => s) s

/-- Seal the group of the ending beat (R83, R84): the open LINESET closes, the records take their numbers in closing order, the
mirror copies last, and the partner is told which units each record holds (06_pair R213). -/
def sealGroup (s : State) : State :=
  let s := closeSet s
  let own := s.pu.openGroup
  let before := s.pu.queue.length
  let p := (own ++ s.pu.mirrorGroup).foldl (fun p r => sealRec s.tb.beat r p) { s.pu with openGroup := [], mirrorGroup := [] }
  let sealed := (p.queue.drop before).filter fun r => !r.mirrorCopy
  let s := sendCopies sealed { s with pu := p }
  (sealedRegions p sealed).foldl (fun s r =>
    sendMsg (msgSeal r s.tb.beat (sealed.flatMap fun q => msnRuns q.seq (recMsns p r q))) s) s

/-- The content of a queued record as the chest takes it (R77, R79): its lines from the drawer slots. -/
def recContent (p : Persist) (r : JRec) : List RecLine :=
  r.slots.filterMap fun n => (mget n p.slots).map fun d => ⟨d.region, ⟨d.line, d.mask, d.data, d.poison⟩⟩

/-- Whether a record is a PAD. -/
def isPad : RecKind → Bool
  | .pad _ => true
  | _ => false

/-- Whether the head of the queue can be complete now (R85, R92): its number is next, its lines are within the writer's rate, and
the log has room. -/
def writerReady (seq : Nat) (p : Persist) : Bool :=
  match p.queue with
  | [] => false
  | r :: _ =>
    let n := recLines p r
    r.seq == seq && (decide (n ≤ p.writerDone + p.writerBudget) || isPad r.kind) && decide (n ≤ logFree p)

/-- The lines that the writer spends on a record: two for a PAD (R76). -/
def writerCost (p : Persist) (r : JRec) : Nat :=
  match r.kind with
  | .pad _ => 2
  | _ => recLines p r

/-- The copies of the recent-write map move from the drawer slots of a record to the record (R66). -/
def moveCopies (r : JRec) (l : List Copy) : List Copy :=
  l.map fun c =>
    match c.place with
    | .slot n => match r.slots.idxOf? n with
      | some i => { c with place := .chest r.seq i }
      | none => c
    | _ => c

/-- Write the record at the head of the queue to the chest, its valid mark last (R80, R85): its slots become FREE at the next
boundary. -/
def writeRec (p : Persist) : Persist :=
  match p.queue with
  | [] => p
  | r :: rest =>
    let n := recLines p r
    let gap := padBefore p p.writePos n
    let pos := if gap = 0 then p.writePos else 0
    let cost := writerCost p r
    { p with
      queue := rest
      chest := p.chest ++ [{ r with lines := recContent p r, pos := pos, complete := true }]
      copies := moveCopies r p.copies
      freeNext := p.freeNext ++ r.slots
      writePos := (pos + n) % logLines p
      writerBudget := p.writerBudget - (cost - p.writerDone)
      writerDone := 0 }

/-- SLOT_RELEASE (R85): the slots of records whose valid mark is written become FREE. -/
def releaseSlots (p : Persist) : Persist := { freeSlots p.freeNext p with freeNext := [] }

/-- The chest writer's share of a new beat (R85): what it did not use of the last goes on with the record under way. -/
def writerBeat (p : Persist) : Persist :=
  if p.queue.isEmpty then { p with writerDone := 0, writerBudget := 384 }
  else { p with writerDone := p.writerDone + p.writerBudget, writerBudget := 384 }

/-- Submit control records that waited, in order, while there is room (R83). -/
def submitWaiting : Nat → State → State
  | 0, s => s
  | n + 1, s =>
    match s.pu.ctlWaiting with
    | [] => s
    | r :: rest =>
      if canSubmit r s then submitWaiting n (submitRec r (modPu (fun p => { p with ctlWaiting := rest }) s)) else s

/-- Whether a write waits for admission. -/
def someWaits (s : State) : Bool := s.pu.units.any fun u => u.phase == .waiting

/-- Count the beat for the backpressure report (R93). -/
def countWait (s : State) : State :=
  modPu (fun p =>
    if someWaits s then { p with waitBeats := p.waitBeats + 1 } else { p with waitBeats := 0, waitReported := false }) s

end Sys2Proof.Machine
end

