-- ==== Sys2Proof/Machine/Tiers.lean ====
section
/-! DEFINITION. Operations of the shelf and the cabinet: segment slots, page loads, placement, map entries, stripes, chunk programs
and reclamation (04_tiers). -/

namespace Sys2Proof.Machine

/-- Change the tiers. -/
def modTi (f : Tiers → Tiers) (s : State) : State := { s with ti := f s.ti }

/-- The region that owns a logical chunk on this controller. -/
def ownerOf (lcn : Nat) (s : State) : Option Nat :=
  (s.reg.extentMap.find? fun e => e.2.contains (lcn / 4096)).map (·.1)

/-- The AGE bucket of now (R112). -/
def ageNow (s : State) : Nat := s.tb.beat / 65536

/-- Touch a slot (R112). -/
def touchSlot (now order : Nat) (g : SegSlot) : SegSlot :=
  if g.age = now then g else { g with age := now, bucketOrder := order }

/-- Touch a segment, where it has a slot. -/
def touch (seg : Nat) (s : State) : State :=
  modTi (fun t => { t with segs := mmod seg (touchSlot (ageNow s) t.touchCount) t.segs, touchCount := t.touchCount + 1 }) s

/-- Pages that the recent-write map takes (03_persistence R67): the entries of chest lines beyond those held on die. -/
def mapPages (s : State) : Nat :=
  let n := (s.pu.copies.filter fun c => match c.place with
    | .chest _ _ => true
    | _ => false).length - 262144
  if n = 0 then 0 else Config.pagesFor 0 n

/-- Pages of the memory-key table (08_remote_access R302): steps of 2 MiB as far as keys have been granted. -/
def keyPages (s : State) : Nat :=
  512 * (((s.trust.memKeys.map (·.1)) ++ s.trust.memTags.map (·.1)).foldl (fun a i => max a (i / 131072 + 1)) 0)

/-- Pages of the submission rings of capsule queue pairs (09_command_queues R357): 1 KiB for each entry. -/
def ringPages (s : State) : Nat :=
  ((s.gqp.pairs.filter fun e => e.2.transport == 1).map fun e => (e.2.depth + 3) / 4).sum

/-- Pages that hold the plaintext of an Unseal whose destination is a host buffer (09_command_queues R374). -/
def unsealPages (s : State) : Nat :=
  (s.gqp.pairs.map fun e =>
    ((e.2.cmds.filter fun c => c.running && fld 0 1 c.entry == 0x0B && fld 20 4 c.entry % 4096 == 0).map
      fun c => (fld 16 4 c.entry + 4095) / 4096).sum).sum

/-- Pages of the poison ledger (12_integrity R459). -/
def ledgerPages (s : State) : Nat := if s.ecc.ledger.isEmpty then 0 else Config.pagesFor 1 s.ecc.ledger.length

/-- The pages of the segment cache that are lent and pinned, each held twice (12_integrity R453). -/
def lentPages (s : State) : Nat := 2 * (mapPages s + keyPages s + ringPages s + unsealPages s + ledgerPages s)

/-- Slots of the segment cache: those set up, less the ones mapped out (R109, R118) and the ones whose pages are lent. -/
def slotCount (s : State) : Nat := s.ti.slotsTotal - s.ti.mappedOut.length - (lentPages s + 511) / 512

/-- Whether a slot can be taken (R114): unpinned, no dirty chunk, no fill. -/
def evictable (g : SegSlot) : Bool := g.pins == 0 && g.dirty == 0 && !g.filling

/-- Whether a slot comes before another in the eviction order (R114). -/
def olderSlot (a b : SegSlot) : Bool := decide (a.age < b.age) || (a.age == b.age && decide (a.bucketOrder < b.bucketOrder))

/-- The slot that R114 takes. -/
def victimSlot (l : AMap SegSlot) : Option (Nat × SegSlot) :=
  (l.filter fun e => evictable e.2).foldl (fun a e =>
    match a with
    | none => some e
    | some b => if olderSlot e.2 b.2 then some e else some b) none

/-- The chunks that a bitmap marks in a segment. -/
def chunksOfBits (seg bits : Nat) : List Nat := ((List.range 32).filter fun i => bits.testBit i).map fun i => seg * 32 + i

/-- Drop a segment from the shelf. -/
def dropSegment (seg : Nat) (t : Tiers) : Tiers :=
  { t with
    segs := mdel seg t.segs
    shelf := memErase (seg * 2097152) 2097152 t.shelf
    shelfPoison := t.shelfPoison.filter fun k => k / 32768 != seg }

/-- The lowest place of the partition that no slot takes and that is not mapped out. -/
def freePhys (t : Tiers) : Nat :=
  (firstFree (fun n => t.mappedOut.contains n || t.segs.any fun e => e.2.phys == n) (t.slotsTotal + 1) 0).getD 0

/-- A new slot descriptor for a segment. -/
def addSlot (seg now : Nat) (t : Tiers) : Tiers :=
  { t with
    segs := mput seg { age := now, bucketOrder := t.touchCount, phys := freePhys t } t.segs
    touchCount := t.touchCount + 1 }

/-- A slot for a segment (R114): its own, a free one, or the oldest that qualifies; the skipped dirty slots go to the head of the
write-back order. None when no slot qualifies (R116). -/
def ensureSlot (seg : Nat) (s : State) : Option State :=
  if mhas seg s.ti.segs then some s
  else if s.ti.segs.length < slotCount s then
    some (modTi (addSlot seg (ageNow s)) s)
  else
    match victimSlot s.ti.segs with
    | none => none
    | some v =>
      let skipped := s.ti.segs.filter fun e => e.2.dirty != 0 && olderSlot e.2 v.2
      some (modTi (fun t =>
        let t := addSlot seg (ageNow s) (dropSegment v.1 t)
        { t with
          wbHead := t.wbHead ++ (skipped.flatMap fun e => chunksOfBits e.1 e.2.dirty).filter fun c => !t.wbHead.contains c }) s)

/-- A request for the segment of a chunk waits for a slot (R116). -/
def waitSlot (lcn : Nat) (s : State) : State :=
  modTi (fun t => if t.slotWaiters.contains lcn then t else { t with slotWaiters := t.slotWaiters ++ [lcn] }) s

/-- The pages of a chunk within its segment. -/
def chunkPages (lcn : Nat) : List Nat := (List.range 16).map fun i => lcn % 32 * 16 + i

/-- Bits of a bitmap for a list of positions. -/
def bitsOn (l : List Nat) (b : Nat) : Nat := l.foldl (fun b i => if b.testBit i then b else b + 2 ^ i) b

/-- Clear one bit of a bitmap. -/
def bitOff (i b : Nat) : Nat := if b.testBit i then b - 2 ^ i else b

/-- The plaintext of a programmed chunk, as cells at their offset in the chunk; none when it cannot be read. -/
def plainChunk (d : Region) (r lcn addr : Nat) (s : State) : Option Memory :=
  match d.protect with
  | .none => some (memCut (addr * 65536) 65536 s.ti.cab)
  | _ =>
    let ls := (List.range 1024).map fun i => cabLine d r lcn addr i s
    if ls.all (·.isSome) then
      some (memWriteN 0 (ls.flatMap fun l => lineBytes (l.getD 0)) [])
    else none

/-- The content that a chunk fills with (R118, R121): bytes and poisoned lines; none when it cannot be read now. -/
def chunkFill (lcn : Nat) (s : State) : Option (Memory × List Nat) :=
  match mget lcn s.ti.map with
  | none => some ([], [])
  | some e =>
    if e.state = 0 then some ([], [])
    else if e.state = 1 ∨ e.state = 3 then
      match ownerOf lcn s with
      | none => some ([], [])
      | some r =>
        match regionOf r s with
        | none => some ([], [])
        | some d =>
          (plainChunk d r lcn e.addr s).map fun m => (m, ((mget e.addr s.ti.chunkMeta).map (·.poison)).getD [])
    else some ([], List.range 1024)

/-- Load pages of a segment that are not valid yet, from the content of one chunk (R117, R118). -/
def loadPages (lcn : Nat) (pages : List Nat) (c : Memory × List Nat) (t : Tiers) : Tiers :=
  let seg := segmentOf lcn
  match mget seg t.segs with
  | none => t
  | some g =>
    let new := pages.filter fun p => !g.valid.testBit p
    let isNew (off : Nat) : Bool := new.contains (lcn % 32 * 16 + off / 4096)
    { t with
      segs := mput seg { g with valid := bitsOn new g.valid } t.segs
      shelf := (c.1.filter fun x => isNew x.1).foldl (fun m x => memWrite (lcn * 65536 + x.1) x.2 m) t.shelf
      shelfPoison := (c.2.filter fun i => isNew (i * 64)).foldl (fun l i => setInsert (lcn * 1024 + i) l) t.shelfPoison }

/-- Load a whole chunk into its segment's slot. None when it cannot be read now. -/
def loadChunk (lcn : Nat) (s : State) : Option State :=
  (chunkFill lcn s).map fun c => modTi (loadPages lcn (chunkPages lcn) c) s

/-- Whether the page of a logical line is valid in the shelf. -/
def pageValid (key : Nat) (s : State) : Bool :=
  match mget (key / 32768) s.ti.segs with
  | some g => g.valid.testBit (pageOf key)
  | none => false

/-- Put one line write in the shelf (R119): the page is valid, the chunk turns dirty, its change is noted. -/
def shelfPut (key seq : Nat) (w : LineWrite) (s : State) : State :=
  let lcn := key / 1024
  let old : LineRead := ⟨memLine s.ti.shelf key, s.ti.shelfPoison.contains key⟩
  let new := overlay old w
  modTi (fun t => { t with
    shelf := memWriteLine key new.data t.shelf
    shelfPoison := setTo new.poison key t.shelfPoison
    segs := mmod (key / 32768) (fun g =>
      { g with
        dirty := bitsOn [lcn % 32] g.dirty
        changed := mput lcn s.tb.beat g.changed
        low := if g.dirty.testBit (lcn % 32) then g.low else mput lcn seq g.low
        placed := mput lcn (max seq (mgetD 0 lcn g.placed)) g.placed }) t.segs }) s

/-- A chunk whose every line a list of line keys covers is placed without a fill (R119). -/
def coversChunk (lcn : Nat) (ws : List (Nat × LineWrite)) : Bool :=
  (List.range 1024).all fun i => ws.any fun w => w.1 == lcn * 1024 + i && w.2.mask == fullMask

/-- Make a line's page ready for a placement: a slot, and the chunk's pages loaded, or marked valid when the writes cover the
chunk (R119). -/
def readyPage (ws : List (Nat × LineWrite)) (key : Nat) (s : State) : Option State :=
  match ensureSlot (key / 32768) s with
  | none => none
  | some s =>
    if pageValid key s then some s
    else if coversChunk (key / 1024) ws then
      some (modTi (loadPages (key / 1024) (chunkPages (key / 1024)) ([], [])) s)
    else loadChunk (key / 1024) s

/-- Place line writes in the shelf, with the SEQ of their record; none while a slot or a chunk is missing. -/
def placeLines (seq : Nat) (ws : List (Nat × LineWrite)) (s : State) : Option State :=
  (ws.foldlM (fun s w => readyPage ws w.1 s) s).map fun s =>
    ws.foldl (fun s w => touch (w.1 / 32768) (shelfPut w.1 seq w.2 s)) s

/-- Set a map entry (R123), noting its map page as dirty (R127). -/
def setMap (lcn : Nat) (e : MapEntry) (s : State) : State :=
  modTi (fun t => { t with
    map := if e.state = 0 then mdel lcn t.map else mput lcn e t.map
    dirtyPages := setInsert (lcn / 8192) t.dirtyPages }) s

/-- Journal a change of map entries, and apply it in the same step (R123). -/
def journalMap (l : List MapUpd) (s : State) : State :=
  let s := l.foldl (fun s u => setMap u.lcn { state := u.state, addr := u.addr, dataSeq := u.dataSeq } s) s
  modTi (fun t => { t with mapBytes := t.mapBytes + 64 * ((l.length + 3) / 4 + 2) }) (submitCtl (ctlRec (.map l) s) s)

/-- Whether a MAP record can be submitted now (R83): until then its change is not applied. -/
def mapFits (l : List MapUpd) (s : State) : Bool := canSubmit (ctlRec (.map l) s) s && s.pu.ctlWaiting.isEmpty

/-- LUN of a cabinet chunk address (01_architecture R23). -/
def addrLun (a : Nat) : Nat := a / 2 ^ 22 % 2048

/-- Channel of a cabinet chunk address. -/
def addrChannel (a : Nat) : Nat := addrLun a / 32

/-- LUN position on its channel. -/
def addrPosition (a : Nat) : Nat := addrLun a % 32

/-- Block of a cabinet chunk address. -/
def addrBlock (a : Nat) (s : State) : Nat := a % 2 ^ 22 / s.ident.pagesPerBlock

/-- Row, which is the page within the block (R132). -/
def addrRow (a : Nat) (s : State) : Nat := a % 2 ^ 22 % s.ident.pagesPerBlock

/-- The key of stripe (j, b). -/
def stripeKey (j b : Nat) : Nat := j * 2 ^ 22 + b

/-- The stripe of an address. -/
def addrStripe (a : Nat) (s : State) : Nat := stripeKey (addrPosition a) (addrBlock a s)

/-- The stripe with a key; one that is not listed is FREE. -/
def stripeAt (k : Nat) (s : State) : Stripe := mgetD {} k s.ti.stripes

/-- Change a stripe. -/
def modStripe (k : Nat) (f : Stripe → Stripe) (s : State) : State :=
  modTi (fun t => { t with stripes := mmodD {} k f t.stripes }) s

/-- Good members of a stripe, as channels in ascending order (R132). -/
def goodMembers (x : Stripe) : List Nat := (List.range 64).filter fun c => !x.bad.contains c

/-- The next good channel from `c` on, cyclically. -/
def nextGood (x : Stripe) (c : Nat) : Nat :=
  ((List.range 64).map fun i => (c + i) % 64).find? (fun k => !x.bad.contains k) |>.getD c

/-- The channels of P and Q in stripe block `b` (R132). -/
def parityOf (b : Nat) (x : Stripe) : Nat × Nat :=
  let p := nextGood x (b % 64)
  (p, nextGood x (p + 1))

/-- The data members of a stripe's row (R132). -/
def dataMembers (b : Nat) (x : Stripe) : List Nat :=
  (goodMembers x).filter fun c => c != (parityOf b x).1 && c != (parityOf b x).2

/-- Whether a row has all its data members programmed. -/
def rowFull (b : Nat) (x : Stripe) (r : Row) : Bool := (dataMembers b x).all fun c => r.members.contains c

/-- FREE stripes of a LUN position among the blocks of a LUN. -/
def freeStripes (j : Nat) (s : State) : List Nat :=
  (List.range s.ident.blocksPerLun).filter fun b => (stripeAt (stripeKey j b) s).state == .free

/-- The open stripe of a kind at a position (R134). -/
def openStripe (k : StripeState) (j : Nat) (s : State) : Option Nat :=
  (s.ti.stripes.find? fun e => e.1 / 2 ^ 22 == j && e.2.state == k).map (·.1)

/-- Whether a FREE stripe may be opened (R134, R146): no other stripe of its kind is open at the position, and no FREE stripe of the
position has a lower erase count. -/
def mayOpen (kind : StripeState) (j b : Nat) (s : State) : Bool :=
  (openStripe kind j s).isNone &&
    ((stripeAt (stripeKey j b) s).erases == 0 ||
      (freeStripes j s).all fun c => decide ((stripeAt (stripeKey j b) s).erases ≤ (stripeAt (stripeKey j c) s).erases))

/-- Whether an address can take a program of a kind now (R132 to R134): its stripe is open for the kind, or FREE and openable; the
member is good, holds data, and is not programmed. -/
def canProgram (kind : StripeState) (a : Nat) (s : State) : Bool :=
  let k := addrStripe a s
  let x := stripeAt k s
  let row := mgetD { first := 0 } (addrRow a s) x.rows
  decide (a < 2 ^ 33) && decide (addrPosition a < s.ident.lunsPerChannel) && decide (addrBlock a s < s.ident.blocksPerLun) &&
    (x.state == kind || (x.state == .free && mayOpen kind (addrPosition a) (addrBlock a s) s)) &&
    (dataMembers (addrBlock a s) x).contains (addrChannel a) && !row.members.contains (addrChannel a) && !row.closed &&
    !(mgetD {} (addrLun a) s.ti.luns).failed

/-- Addresses of the chunks of a stripe. -/
def inStripe (k a : Nat) (s : State) : Bool := addrStripe a s == k

/-- Erase a stripe's chunks (R133, R146): the erase count rises. -/
def eraseStripe (k : Nat) (s : State) : State :=
  let gone (a : Nat) : Bool := addrStripe a s == k
  let s := modTi (fun t => { t with
    cab := t.cab.filter fun c => !gone (c.1 / 65536)
    chunkMeta := t.chunkMeta.filter fun e => !gone e.1 }) s
  modStripe k (fun x => { x with erases := x.erases + 1, reads := 0, rows := [], relocations := [] }) s

/-- Open a FREE stripe for a kind; one that held data is erased just before (R146). -/
def openFor (kind : StripeState) (a : Nat) (s : State) : State :=
  let k := addrStripe a s
  let x := stripeAt k s
  if x.state = .free then
    modStripe k (fun x => { x with state := kind }) (if mhas k s.ti.stripes then eraseStripe k s else s)
  else s

/-- Note that a member of a row is programmed (R135). -/
def markProgrammed (a : Nat) (s : State) : State :=
  modStripe (addrStripe a s) (fun x =>
    { x with rows := mmodD { first := s.tb.beat } (addrRow a s) (fun r => { r with members := setInsert (addrChannel a) r.members }) x.rows }) s

/-- Whether the row of an address is closed. -/
def rowClosed (a : Nat) (s : State) : Bool :=
  (mgetD { first := 0 } (addrRow a s) (stripeAt (addrStripe a s) s).rows).closed

/-- The hardware nonce of the next sealed operation (11_transform_engine R433), as the 12-byte field spells it. -/
def hwNonce (s : State) : Bytes := be 4 s.ident.controllerId ++ be 8 s.te.nonce

/-- Whether the nonce counter stands in a reserved window (R434). -/
def nonceReady (s : State) : Bool :=
  match s.te.window with
  | some w => decide (s.te.nonce / 2 ^ 32 ≤ w)
  | none => false

/-- An operation waits for a nonce window (11_transform_engine R434, step 3). -/
def noteNonceWait (s : State) : State :=
  { s with te := { s.te with nctrWait := true, waitFrom := s.te.waitFrom.or (some s.tb.beat) } }

/-- Draw a nonce. -/
def bumpNonce (s : State) : State := { s with te := { s.te with nonce := s.te.nonce + 1 } }

/-- Whether a chunk of a region can be enciphered now. -/
def canEncipher (d : Region) (s : State) : Bool :=
  match d.protect with
  | .none => true
  | .encrypted => engineWorks s && (regionKey d s).isSome
  | .sealed => engineWorks s && (regionKey d s).isSome && nonceReady s

/-- Program an image of a chunk at an address (R125, R137, 11_transform_engine R429, R435). -/
def programImage (d : Region) (r lcn a through : Nat) (image : Memory) (poison : List Nat) (s : State) : State :=
  let erases := (stripeAt (addrStripe a s) s).erases
  let m : ChunkMeta := { lcn := lcn, region := r, dataSeq := if d.isVolatile then 0 else through, erases := erases, poison := poison }
  match d.protect, regionKey d s with
  | .encrypted, some k =>
    let c := xtsChunk true k r lcn (memReadN image 0 65536)
    modTi (fun t => { t with cab := memWriteN (a * 65536) c (memErase (a * 65536) 65536 t.cab), chunkMeta := mput a m t.chunkMeta }) s
  | .sealed, some k =>
    let iv := hwNonce s
    let c := gcmCrypt k iv (memReadN image 0 65536)
    let m := { m with nonce := leVal iv, tag := beVal (gcmTag k iv (sealAad lcn r 0 m.dataSeq) c) }
    bumpNonce (modTi (fun t =>
      { t with cab := memWriteN (a * 65536) c (memErase (a * 65536) 65536 t.cab), chunkMeta := mput a m t.chunkMeta }) s)
  | _, _ =>
    modTi (fun t => { t with cab := memPaste (a * 65536) 65536 image t.cab, chunkMeta := mput a m t.chunkMeta }) s

/-- Program the shelf image of a chunk. -/
def programChunk (d : Region) (r lcn a through : Nat) (s : State) : State :=
  programImage d r lcn a through (memCut (lcn * 65536) 65536 s.ti.shelf)
    ((s.ti.shelfPoison.filter fun k => k / 1024 == lcn).map (· % 1024)) s

/-- Program the image of a staged capture chunk (10_capture_replay R396). -/
def programStaged (d : Region) (r lcn a : Nat) (s : State) : State :=
  programImage d r lcn a (s.pu.nextSeq - 1) (memCut (lcn * 65536) 65536 s.cap.staging)
    ((s.cap.stagingPoison.filter fun k => k / 1024 == lcn).map (· % 1024)) s

/-- Copy a programmed chunk to another address, ciphertext unchanged and metadata kept (R144, 11_transform_engine R429). -/
def copyChunk (src dst : Nat) (s : State) : State :=
  modTi (fun t => { t with
    cab := memPaste (dst * 65536) 65536 (memCut (src * 65536) 65536 t.cab) t.cab
    chunkMeta := match mget src t.chunkMeta with
      | some m => mput dst { m with erases := (stripeAt (addrStripe dst s) s).erases } t.chunkMeta
      | none => t.chunkMeta }) s

/-- Whether a chunk's map entry names an address. -/
def namesAddr (lcn a : Nat) (s : State) : Bool :=
  match mget lcn s.ti.map with
  | some e => (e.state == 1 || e.state == 3) && e.addr == a
  | none => false

/-- The valid chunks of a stripe, as (LCN, address) (R144). -/
def validChunks (k : Nat) (s : State) : List (Nat × Nat) :=
  (s.ti.map.filter fun e => (e.2.state == 1 || e.2.state == 3) && addrStripe e.2.addr s == k).map fun e => (e.1, e.2.addr)

/-- A MAP record for a chunk that is not complete in the chest yet. -/
def mapPending (lcn : Nat) (s : State) : Bool :=
  (s.pu.ctlWaiting ++ s.pu.openGroup ++ s.pu.queue).any fun r =>
    match r.kind with
    | .map l => l.any fun u => u.lcn == lcn
    | _ => false

/-- The START_SEQ of the newest complete checkpoint (R129). -/
def ckptStartSeq (s : State) : Nat := s.ti.ckptStart

/-- Whether a record of the chest is reclaimable (R136). -/
def reclaimable (r : JRec) (s : State) : Bool :=
  match r.kind with
  | .data | .lineset =>
    r.placed && r.lines.all fun l =>
      match lineKey l.region l.lw.line s with
      | none => true
      | some k => match mget (k / 1024) s.ti.map with
        | some e => decide (r.seq ≤ e.dataSeq) && !mapPending (k / 1024) s
        | none => !(s.pu.copies.any fun c => c.place == .chest r.seq 0) && !mapPending (k / 1024) s &&
            !((mgetD {} (k / 32768) s.ti.segs).dirty.testBit (k / 1024 % 32))
  | .map _ | .metaRec _ | .checkpoint _ => decide (r.seq ≤ ckptStartSeq s)
  | _ => true

/-- RECLAIM_ADVANCE (03_persistence R86): past a continuous run of reclaimable records, never past the newest complete one. -/
def reclaimGo (s : State) : List JRec → Nat × Nat → Nat × Nat
  | [], p => p
  | [_], p => p
  | r :: q :: rest, p => if reclaimable r s then reclaimGo s (q :: rest) (q.pos, q.seq) else p

/-- Advance the reclaim position (R86). -/
def reclaimAdvance (s : State) : State :=
  let l := s.pu.chest.filter fun r => decide (s.pu.reclaimSeq ≤ r.seq)
  let p := reclaimGo s l (s.pu.reclaimLine, s.pu.reclaimSeq)
  modPu (fun u => { u with reclaimLine := p.1, reclaimSeq := p.2 }) s

/-- The META snapshot (05_regions R166): every region, the extents on this controller, the mirror states, the leases, and the sealed
changes that are not applied yet. -/
def metaSnapshot (s : State) : List MetaItem :=
  (s.reg.table.map fun e => MetaItem.regionDesc e.1 (descBytes e.1 { e.2 with roReasons := e.2.roReasons &&& 0b0111 })) ++
  (s.reg.extentMap.map fun e => MetaItem.extentAssign e.1 (myPosition s) 0 e.2) ++
  (if isPaired s || !s.pair.record.retired.isEmpty then
    [MetaItem.pairRecord s.pair.record.pairId s.pair.record.id0 s.pair.record.id1 s.pair.record.mode s.pair.record.checkMode
      s.pair.record.keySlot s.pair.record.witness s.pair.record.retired] else []) ++
  (if isPaired s then [MetaItem.lease 0 (if s.pair.chairHere then s.pair.position else 1 - s.pair.position) 0 s.pair.chairEpoch s.tb.beat]
    else []) ++
  (s.pair.mirror.map fun e => MetaItem.mirrorState e.1 (myPosition s) e.2.state.code e.2.gen e.2.mark) ++
  (s.pair.leaseEpoch.map fun e =>
    MetaItem.lease e.1 (if (regionOf e.1 s).any fun d => d.seat == s.ident.controllerId then myPosition s else 1 - myPosition s) 0 e.2 s.tb.beat) ++
  (s.trust.keys.map fun k => MetaItem.keySlot k.1 k.2.scope k.2.type k.2.region k.2.wrapped) ++
  (if s.trust.sanitize = 0 then [] else
    [MetaItem.sanitizeMark (if s.trust.sanitize = 1 then 0 else 1) s.trust.sanitizeKind s.tb.beat]) ++
  (s.pu.metaWaits.filter fun w => decide (0 < w.seq)).flatMap (·.items)

/-- Start a checkpoint (R127, R128): START_SEQ, the pages that step 2 writes (the dirty ones and the next sixteenth of all pages), and
its CHECKPOINT record. A trigger during a checkpoint starts the next one afterwards. -/
def startCkpt (s : State) : State :=
  match s.ti.ckpt with
  | some _ => modTi (fun t => { t with ckptAgain := true }) s
  | none =>
    let pages := (s.reg.capExtents + 1) / 2
    let share := (pages + 15) / 16
    let rot := (List.range share).map fun i => (s.ti.rotate + i) % max pages 1
    let c : CkptRun :=
      { number := s.ti.ckptNumber + 1, startSeq := s.pu.nextSeq - 1, beat := s.tb.beat
        pages := rot.foldl (fun l p => setInsert p l) s.ti.dirtyPages, image := s.ti.map, snapshot := metaSnapshot s }
    let s := modTi (fun t => { t with
      ckpt := some c, dirtyPages := [], rotate := (t.rotate + share) % max pages 1, mapBytes := 0, ckptNumber := c.number
      ckptBeat := s.tb.beat }) s
    submitCtl (ctlRec (.checkpoint { number := c.number, startSeq := c.startSeq, pages := pages }) s) s

end Sys2Proof.Machine
end

