-- ==== Sys2Proof/Machine/Regions.lean ====
section
/-! DEFINITION. Operations of the region table: descriptors, extents, reason bits, over-provisioning and shedding (05_regions). -/

namespace Sys2Proof.Machine

/-- Change the region state. -/
def modReg (f : Regions → Regions) (s : State) : State := { s with reg := f s.reg }

/-- Logical extents that regions hold on this controller. -/
def heldExtents (s : State) : List Nat := s.reg.extentMap.flatMap (·.2)

/-- Extents in the pool (05_regions R160). -/
def freeExtents (s : State) : Nat := s.reg.capExtents - (heldExtents s).length

/-- The first free logical extent number from a starting point on, and from 0 on after the last; the first operand bounds the search. -/
def freeFrom (held : List Nat) (cap : Nat) : Nat → Nat → Option Nat
  | 0, _ => none
  | fuel + 1, k => if held.contains (k % cap) then freeFrom held cap fuel (k + 1) else some (k % cap)

/-- `n` free logical extent numbers: which ones the specification leaves to the device (R160). -/
def pickExtents (cap : Nat) : Nat → List Nat → List Nat
  | 0, _ => []
  | n + 1, held =>
    match freeFrom held cap cap (Config.extentChoice held) with
    | some x => x :: pickExtents cap n (x :: held)
    | none => []

/-- Free extents for a region (R160). -/
def chooseExtents (n : Nat) (s : State) : List Nat := pickExtents s.reg.capExtents n (heldExtents s)

/-- Extents that a region of a size takes on one controller (R160). -/
def extentsHere (d : Region) (s : State) : Nat :=
  if d.settee then d.size / 2
  else if d.mirrored then d.size
  else if d.seat = s.ident.controllerId then d.size else 0

/-- The descriptor as META records carry it: without the STALE bit (R156). -/
def carried (d : Region) : Region := { d with roReasons := d.roReasons &&& 0b0111 }

/-- The REGION_DESC item of a region (R164). -/
def descItem (id : Nat) (d : Region) : MetaItem := .regionDesc id (descBytes id (carried d))

/-- The REGION_DESC item of a freed region (R173). -/
def freeItem (id : Nat) : MetaItem := .regionDesc id (freeDesc id)

/-- PROTECT from its encoding. -/
def protectOf (n : Nat) : Protect := if n = 1 then .encrypted else if n = 2 then .sealed else .none

/-- The descriptor that 128 bytes spell; none when STATE is FREE. A reserved STATE is taken as OFFLINE (R157). -/
def descOf (b : Bytes) : Option Region :=
  let st := fld 2 1 b
  if st = 0 then none
  else
    let a := fld 3 1 b
    some
      { state := if st = 1 then .online else if st = 2 then .changing else .offline
        protect := protectOf (a % 4), isVolatile := bitOf 2 a, mirrored := bitOf 3 a, settee := bitOf 4 a, shed := a / 32
        seat := fld 4 2 b, roReasons := BitVec.ofNat 4 (fld 6 2 b), size := fld 8 4 b, mirrorGen := fld 12 4 b
        keySlot := fld 16 4 b, created := fld 24 8 b, label := slice 32 16 b
        readDomains := BitVec.ofNat 256 (fld 48 32 b), writeDomains := BitVec.ofNat 256 (fld 80 32 b) }

/-- Take a descriptor into the table; the STALE bit stays this controller's own (R156). -/
def takeDesc (id : Nat) (b : Bytes) (s : State) : State :=
  match descOf b with
  | none => modReg (fun r => { r with table := mdel id r.table }) s
  | some d =>
    let stale := match regionOf id s with
      | some o => o.roReasons &&& 0b1000
      | none => 0
    modReg (fun r => { r with table := mput id { d with roReasons := (d.roReasons &&& 0b0111) ||| stale } r.table }) s

/-- Take an extent assignment for this controller (R164). -/
def takeAssign (region first : Nat) (l : List Nat) (s : State) : State :=
  modReg (fun r => { r with extentMap := mput region ((mgetD [] region r.extentMap).take first ++ l) r.extentMap }) s

/-- Release a region's extents from entry `first` on (R173, step 4): their map entries turn ZERO, their shelf data is gone, and the
numbers return to the pool. -/
def releaseFrom (region first : Nat) (s : State) : State :=
  let l := (mgetD [] region s.reg.extentMap).drop first
  let hit (lcn : Nat) : Bool := l.contains (lcn / 4096)
  let gone (c : Copy) : Bool :=
    match lineKey c.region c.line s with
    | some k => hit (k / 1024)
    | none => false
  let copies := s.pu.copies.filter fun c => !(c.region == region && gone c)
  let s := modTi (fun t => { t with
    map := t.map.filter fun e => !hit e.1
    shelf := t.shelf.filter fun c => !hit (c.1 / 65536)
    shelfPoison := t.shelfPoison.filter fun k => !hit (k / 1024)
    segs := t.segs.filter fun e => !hit (e.1 * 32)
    inFlight := t.inFlight.filter fun w => !hit w.lcn
    dirtyPages := l.foldl (fun d x => setInsert (x / 2) d) t.dirtyPages }) s
  modReg (fun r => { r with
    extentMap := if first = 0 then mdel region r.extentMap
      else mput region ((mgetD [] region r.extentMap).take first) r.extentMap }) (modPu (fun p => { p with copies := copies }) s)

/-- Set or clear a reason bit: it takes effect at the next beat boundary (R180). -/
def setReason (region bit : Nat) (v : Bool) (s : State) : State :=
  modReg (fun r => { r with pendingRo := r.pendingRo ++ [⟨region, bit, v, s.tb.beat + 1⟩] }) s

/-- A reason bitmap with one bit set or cleared. -/
def reasonBit (bit : Nat) (v : Bool) (b : BitVec 4) : BitVec 4 :=
  if v then b ||| BitVec.ofNat 4 (2 ^ bit) else b &&& ~~~ BitVec.ofNat 4 (2 ^ bit)

/-- The reason bits of a region with its pending changes applied. -/
def comingReasons (region : Nat) (d : Region) (s : State) : BitVec 4 :=
  (s.reg.pendingRo.filter fun c => c.region == region).foldl (fun b c => reasonBit c.bit c.value b) d.roReasons

/-- Raw capacity at manufacture in bytes, N (04_tiers R152). -/
def rawBytes (s : State) : Nat := 64 * s.ident.lunsPerChannel * s.ident.blocksPerLun * s.ident.pagesPerBlock * 65536

/-- Blocks that are not good members of a stripe in use: members left out, and all members of retired stripes (R132, R133). -/
def lostBlocks (s : State) : Nat :=
  (s.ti.stripes.map fun e => if e.2.state = .retired then 64 else e.2.bad.length).sum

/-- G of R152: the raw capacity of the good members of the stripes in use. -/
def goodBytes (s : State) : Nat := rawBytes s - lostBlocks s * s.ident.pagesPerBlock * 65536

/-- MAPPED chunks of a region. -/
def mappedChunks (r : Nat) (s : State) : Nat :=
  let l := mgetD [] r s.reg.extentMap
  (s.ti.map.filter fun e => e.2.state == 1 && l.contains (e.1 / 4096)).length

/-- The capacity that a region takes on this controller, in bytes. -/
def weight (r : Nat) (s : State) : Nat := (mgetD [] r s.reg.extentMap).length * 2 ^ 28

/-- What a region adds to D (R152): its capacity while writable, else 64 KiB for each MAPPED chunk. -/
def demand (r : Nat) (d : Region) (s : State) : Nat :=
  if comingReasons r d s = 0 then weight r s else mappedChunks r s * 65536

/-- D of R152. -/
def demandBytes (s : State) : Nat := (s.reg.table.map fun e => demand e.1 e.2 s).sum

/-- Whether OP with `extra` bytes added to D is below `pct` percent (R152). -/
def opBelow (pct extra : Nat) (s : State) : Bool :=
  decide (100 * goodBytes s < pct * rawBytes s + 100 * (demandBytes s + extra))

/-- OP in units of 0.001%. -/
def opMilli (s : State) : Nat := (goodBytes s - demandBytes s) * 100000 / max (rawBytes s) 1

/-- The unwritten capacity of a region on this controller (R182). -/
def unwritten (r : Nat) (s : State) : Nat := weight r s - mappedChunks r s * 65536

/-- Whether a region comes before another in the order of shedding (R182): lower class, more unwritten capacity, higher ID. -/
def shedsBefore (s : State) (a b : Nat × Region) : Bool :=
  decide (a.2.shed < b.2.shed) ||
    (a.2.shed == b.2.shed &&
      (decide (unwritten b.1 s < unwritten a.1 s) || (unwritten a.1 s == unwritten b.1 s && decide (b.1 < a.1))))

/-- The next region to shed: among the writable ones that weigh on this controller. -/
def nextShed (s : State) : Option (Nat × Region) :=
  (s.reg.table.filter fun e => comingReasons e.1 e.2 s == 0 && decide (0 < weight e.1 s)).foldl (fun a e =>
    match a with
    | none => some e
    | some b => if shedsBefore s e b then some e else some b) none

/-- REGION_SHED (R182): one region at a time while OP is below 2%. -/
def shedLoop : Nat → State → State
  | 0, s => s
  | n + 1, s =>
    if opBelow 2 0 s then
      match nextShed s with
      | none => s
      | some e => shedLoop n (modReg (fun r => { r with shedOrder := r.shedOrder ++ [e.1] }) (setReason e.1 1 true s))
    else s

/-- REGION_UNSHED (R184): in reverse order, while OP stays at or above 4% with the region's unwritten capacity added back. -/
def unshedLoop : Nat → State → State
  | 0, s => s
  | n + 1, s =>
    match s.reg.shedOrder.getLast? with
    | none => s
    | some r =>
      if opBelow 4 (unwritten r s) s then s
      else unshedLoop n (modReg (fun g => { g with shedOrder := g.shedOrder.dropLast }) (setReason r 1 false s))

/-- The band of OP: 0 below 2%, 1 below 4%, 2 otherwise. -/
def opBand (s : State) : Nat := if opBelow 2 0 s then 0 else if opBelow 4 0 s then 1 else 2

/-- Data of event 0x0309 (R154). -/
def opEventData (up : Bool) (s : State) : Bytes :=
  le 4 (opMilli s) ++ le 1 (b2n up) ++ zeros 3 ++ le 8 (goodBytes s) ++ le 8 (demandBytes s)

/-- Evaluate OP (R152): record it, report a crossing of 4% or 2%, and on the chair shed and unshed regions. -/
def evalOp (s : State) : State :=
  let now := opBand s
  let s := if now = s.ti.opBand then s else raise 0x0309 .warning (opEventData (decide (s.ti.opBand < now)) s) s
  let s := modTi (fun t => { t with
    opBand := now, opBeat := s.tb.beat, opN := rawBytes s, opG := goodBytes s, opD := demandBytes s, opValue := opMilli s }) s
  if s.pair.chairHere then
    if opBelow 2 0 s then shedLoop s.reg.table.length s else unshedLoop s.reg.shedOrder.length s
  else s

/-- Whether some region has SHED set on this controller (R185). -/
def anyShed (s : State) : Bool :=
  s.reg.table.any fun e => (comingReasons e.1 e.2 s).getLsbD 1 && decide (0 < weight e.1 s)

/-- A write to a read-only region is refused (R179, R180): counted, and reported at most once per region in 65,536 beats. -/
def refuseWrite (region path off : Nat) (s : State) : State :=
  raiseLimited 0x0406 region .warning
    (fun n => le 2 region ++ le 1 path ++ zeros 1 ++ le 4 n ++ le 8 off)
    (modReg (fun r => { r with refused := mmodD 0 region (· + 1) r.refused }) s)

/-- The controller can no longer take persistent writes (R186): CHEST on every region seated here. -/
def setChest (s : State) : State :=
  s.reg.table.foldl (fun s e => if e.2.seat = s.ident.controllerId ∧ !e.2.isVolatile then setReason e.1 2 true s else s) s

/-- Whether an access that touches bytes `off` to `off + len - 1` of a region falls in extents that a change removes from boundary
D (R173). -/
def removedFrom (r off len : Nat) (s : State) : Bool :=
  match mget r s.reg.changes with
  | none => false
  | some c =>
    decide (c.boundary ≤ s.tb.beat) &&
      match c.kind with
      | .delete => true
      | .shrink n => decide (n * 2 ^ 28 < off + len)
      | .grow _ => false

end Sys2Proof.Machine
end

