-- ==== Sys2Proof/Machine/Spares.lean ====
section
/-! DEFINITION. The wear-and-spares log and the states of the spares (17_startup_service_life R610 to R614). -/

namespace Sys2Proof.Machine

/-- Transform slices that work. -/
def goodSlices (s : State) : Nat := ((List.range 17).filter fun i => s.te.sliceOk.getLsbD i).length

/-- Active transform slices (11_transform_engine R420). -/
def activeSlices (s : State) : Nat := ((List.range 17).filter fun i => s.te.active.getLsbD i).length

/-- The cycle width of the transform engine (02_beat R48, 11_transform_engine R420). -/
def cycleWidth (s : State) : Nat := 16 * activeSlices s

/-- Lanes in service on the pairing link. -/
def lanesUp (s : State) : Nat :=
  match s.pair.link.state with
  | .up8 => 8
  | .up4 _ => 4
  | _ => 0

/-- Usable lockstep pairs of the management complex (13_management R478 to R480). -/
def usablePairs (s : State) : Nat :=
  b2n (!s.mc.failed0) + b2n (!s.mc.failed1) - b2n (!s.mc.spareUsable && !s.mc.failed0 && !s.mc.failed1)

/-- Spares left of a kind (R610). -/
def sparesLeft (kind : Nat) (s : State) : Nat :=
  match kind with
  | 0 => s.ti.opValue
  | 1 => s.pu.spareRows
  | 2 => ((List.range 4096).map Config.repairRows).sum - (s.ecc.repairs.map (·.2)).sum
  | 3 => 1 - s.pu.banks.length
  | 4 => goodSlices s - 16
  | 5 => usablePairs s - 1
  | 6 => if s.pair.link.failedLanes.isEmpty then 4 else 0
  | _ => 0

/-- The kind's own measure (R610). -/
def spareMeasure (kind : Nat) (s : State) : Nat :=
  match kind with
  | 0 => s.ti.opG / 2 ^ 30
  | 1 => chestBytes s.pu / 2 ^ 20
  | 2 => s.ti.mappedOut.length
  | 3 => drawerLines s
  | 4 => cycleWidth s
  | 5 => usablePairs s
  | 6 => lanesUp s
  | _ => 0

/-- The state that a kind of spare is in (R610). -/
def spareState (kind : Nat) (s : State) : Nat :=
  match kind with
  | 0 => 2 - s.ti.opBand
  | 1 => if chestBytes s.pu < 536870912 then 2 else if s.pu.spareRows = 0 then 1 else 0
  | 3 => if s.pu.bankLost then 2
         else if s.pu.banks.any (fun b => b.2 == .disabled) then 1 else 0
  | 2 => if s.ti.slotsTotal != 0 && decide (slotCount s < 1024) then 2 else if s.ecc.bankExhausted then 1 else 0
  | 4 => if goodSlices s = 0 then 2 else if goodSlices s ≤ 16 then 1 else 0
  | 5 => 2 - usablePairs s
  | 6 =>
    let low := s.pair.link.failedLanes.any fun l => decide (l < 4)
    let high := s.pair.link.failedLanes.any fun l => decide (4 ≤ l)
    if low && high then 2 else if low || high then 1 else 0
  | _ => 0

/-- Evaluate a kind (R611): a change of state writes a SPARES_STATE entry and records event 0x1003. -/
def noteSpare (kind : Nat) (s : State) : State :=
  let old := mgetD 0 kind s.ev.spares
  let new := spareState kind s
  if old = new then s
  else
    let d := le 1 kind ++ le 1 old ++ le 1 new ++ zeros 1 ++ le 4 (sparesLeft kind s) ++ le 4 (spareMeasure kind s)
    raise 0x1003 .warning (d.take 8) (wearLog 0x0001 d { s with ev := { s.ev with spares := mput kind new s.ev.spares } })

end Sys2Proof.Machine
end

