-- ==== Sys2Proof/Machine/Bcs.lean ====
section
/-! DEFINITION. The BCS executor's common part: who may send what, the order of checks, background commands, and the commands that the
chair serves (13_management R482 to R492, 05_regions R168). -/

namespace Sys2Proof.Machine

/-- Whether a path is privileged (R482). -/
def privileged : BcsPath → Bool
  | .sideband => true
  | .admin _ => true
  | .fm _ => true
  | .primary _ => false
  | .forwarded _ p => p

/-- The vendor commands of a scoped path (R482). -/
def scopedVendor (opcode : Nat) : Bool :=
  [0xC003, 0xC013, 0xC014, 0xC01A, 0xC030, 0xC031, 0xC040, 0xC042].contains opcode

/-- The commands for privileged paths only: vendor commands outside the scoped list, and the FM API (R482, R493). -/
def needsPrivilege (opcode : Nat) : Bool :=
  (decide (0xC000 ≤ opcode) && !scopedVendor opcode) || (decide (0x5400 ≤ opcode) && decide (opcode < 0x5800))

/-- The commands that ROM recovery serves, on the sideband only (R510). -/
def romServes (opcode : Nat) : Bool := [0xC040, 0x4200, 0x0200, 0x0201, 0x0202].contains opcode

/-- Whether no usable lockstep pair remains (R480). -/
def noPair (s : State) : Bool := s.mc.failed0 && s.mc.failed1

/-- Whether the complex serves: a usable pair runs its firmware or its ROM. -/
def complexServes (s : State) : Bool := s.mc.serving && !noPair s

/-- What comes before the checks of a command: no usable pair (R480); a complex that restarts, for which the command waits (R479); one that
a drain gates, which answers nothing (R501); one that does not serve, where the sideband answers Internal Error (R490); and ROM recovery
(R510). -/
def gated (path : BcsPath) (opcode : Nat) (input : Bytes) (body : State → State) (s : State) : State :=
  if noPair s then answer path opcode 0x0004 [] s
  else if !s.mc.serving then
    if s.mc.restart.isSome then { s with pair := { s.pair with heldBcs := s.pair.heldBcs ++ [⟨path, opcode, input⟩] } }
    else if path = .sideband ∧ !(s.pu.drain.isSome && s.seq.debounced.getLsbD 1) then answer path opcode 0x0004 [] s
    else s
  else if s.mc.rom && !(romServes opcode && path == .sideband) then answer path opcode 0x8004 [] s
  else body s

/-- The BCS check order (R491): `lenOk` is the length check; `body` checks the fields and runs the command. -/
def bcs (path : BcsPath) (opcode : Nat) (input : Bytes) (lenOk : Bool) (body : State → State) (s : State) : State :=
  gated path opcode input (fun s =>
    if needsPrivilege opcode && !privileged path then answer path opcode 0x8006 [] s
    else if !lenOk then answer path opcode 0x0016 [] s
    else body s) s

/-- An opcode that is not supported (R491, step 1). -/
def unsupported (path : BcsPath) (opcode : Nat) (input : Bytes) (s : State) : State :=
  gated path opcode input (answer path opcode 0x0003 []) s

/-- The mailbox that a path counts as (R489): equal paths, the admin queue as one. -/
def sameMailbox : BcsPath → BcsPath → Bool
  | .admin _, .admin _ => true
  | .forwarded _ _, .forwarded _ _ => false
  | a, b => a == b

/-- Whether a background command can start (R489): at most four, one per mailbox, one per opcode. -/
def bgFree (path : BcsPath) (opcode : Nat) (s : State) : Bool :=
  decide (s.mc.bg.length < 4) && s.mc.bg.all fun b => b.opcode != opcode && !sameMailbox b.path path

/-- Start a background command (R489): a CXL mailbox is answered Background Command Started; the others wait for the end. -/
def startBg (path : BcsPath) (opcode : Nat) (s : State) : State :=
  let s := { s with mc := { s.mc with bg := s.mc.bg ++ [{ path := path, opcode := opcode }] } }
  match mailKey path with
  | some k =>
    answer path opcode 0x0001 []
      { s with mc := { s.mc with mail := mmodD {} k (fun m =>
          { m with bgOp := true, bgOpcode := opcode, bgPercent := 0, bgRc := 0 }) s.mc.mail } }
  | none => s

/-- A background command's work is done: its result waits for delivery (BACKGROUND_COMMAND_COMPLETE). A command that does not run in
the background is answered. -/
def finishBg (path : BcsPath) (opcode rc vstatus : Nat) (out : Bytes) (s : State) : State :=
  if s.mc.bg.any fun b => b.opcode == opcode && b.path == path && b.result.isNone then
    { s with mc := { s.mc with bg := s.mc.bg.map fun b =>
        if b.opcode == opcode && b.path == path then { b with result := some ⟨rc, vstatus, out⟩ } else b } }
  else answerV path opcode rc vstatus out s

/-- The end of a command whose path is none once a management reset has ended it (R492). -/
def answerO (path : Option BcsPath) (opcode rc : Nat) (out : Bytes) (s : State) : State :=
  match path with
  | some p => finishBg p opcode rc 0xFFFF out s
  | none => s

/-- A command that runs in the background: Busy beyond the limits, else started with `body` (R489). -/
def inBackground (path : BcsPath) (opcode : Nat) (body : State → State) (s : State) : State :=
  if bgFree path opcode s then body (startBg path opcode s) else answer path opcode 0x0006 [] s

/-- Whether waiting for a chair is over (05_regions R168): 8,192 beats after the partner's latest heartbeat. -/
def chairBoundPassed (s : State) : Bool :=
  match s.pair.heard with
  | some r => decide (r + 8192 ≤ s.tb.beat)
  | none => true

/-- Forward a command to the partner over the link (R484). Detach Extent goes on here once the chair has answered (05_regions R167,
07_cxl_ports R263). -/
def forwardBcs (path : BcsPath) (opcode : Nat) (input : Bytes) (s : State) : State :=
  let t := nextTag s
  let s := sendMsg { vc := 2, opcode := 0x21, flags := 0, mtag := t, operand := opcode, body := input } s
  bumpTag { s with pair := { s.pair with fwd := mput t (if opcode = 0xC017 then .detach path input else .bcs path opcode) s.pair.fwd } }

/-- A command that the chair serves (R168): run here when the chair is here and acts, forwarded when the partner holds it, and else
it waits, or fails with Retry Required when the bound has passed. -/
def onChair (path : BcsPath) (opcode : Nat) (input : Bytes) (body : State → State) (s : State) : State :=
  let chairMoves := match s.pair.move with
    | some m => m.region == 0 && decide (m.boundary ≤ s.tb.beat)
    | none => false
  if !isPaired s || (s.pair.chairHere && !s.pair.stopped && !chairMoves) then body s
  else if !s.pair.chairHere && linkUp s && !s.pair.takeover then forwardBcs path opcode input s
  else if !s.pair.chairHere && chairBoundPassed s then answer path opcode 0x0005 [] s
  else { s with pair := { s.pair with heldBcs := s.pair.heldBcs ++ [⟨path, opcode, input⟩] } }

/-- Check that a list of (condition, offset) holds; the offset of the first that fails. -/
def firstBad : List (Bool × Nat) → Option Nat
  | [] => none
  | (ok, off) :: r => if ok then firstBad r else some off

/-- Run a body when every field is valid, else answer Invalid Input at the first failing field (R491, step 4). -/
def checked (path : BcsPath) (opcode : Nat) (fields : List (Bool × Nat)) (body : State → State) (s : State) : State :=
  match firstBad fields with
  | some off => invalid path opcode off s
  | none => body s

/-- Whether the bytes of a range are zero. -/
def zeroAt (off n : Nat) (b : Bytes) : Bool := allZero (slice off n b)

/-- BACKGROUND_COMMAND_COMPLETE (R489): the result of a finished background command is delivered: in MBX.BG_STATUS on a CXL mailbox,
as the response elsewhere. -/
def execBackgroundCommandComplete (opcode : Nat) (s : State) : Host.Outcome State Fault Refusal :=
  match s.mc.bg.find? fun b => b.opcode == opcode with
  | none => .next s
  | some b =>
    match b.result with
    | none => .next s
    | some r =>
      let s := { s with mc := { s.mc with bg := s.mc.bg.filter fun x => x.opcode != opcode } }
      match mailKey b.path with
      | some k =>
        let irq := (mgetD {} k s.mc.mail).bgIrqEn
        let s := { s with mc := { s.mc with mail := mmodD {} k (fun m =>
          { m with bgOp := false, bgOpcode := opcode, bgRc := r.rc, bgVstatus := r.vstatus, bgPercent := 100 }) s.mc.mail } }
        .next (if irq then emit (.msix (mailHead k) 0) s else s)
      | none => .next (answerV b.path opcode r.rc r.vstatus r.out s)

end Sys2Proof.Machine
end

