-- ==== Sys2Proof/Machine/Meta.lean ====
section
/-! DEFINITION. Applying META items and completing META changes (05_regions R163 to R169, 06_pair R214, R245, 14_trust R525 to
R530). -/

namespace Sys2Proof.Machine

/-- The storage root key (14_trust R525). -/
def srk (s : State) : Bytes := shake256 32 (s.trust.dus ++ ascii "SK7240-SRK" ++ s.trust.salt)

/-- K_pair, in slot 4,096 (R526). -/
def kPair (s : State) : Bytes := ((mget 4096 s.trust.keys).map (·.key)).getD []

/-- The pair wrapping key (R525). -/
def pwk (s : State) : Bytes := shake256 32 (kPair s ++ ascii "SK7240-PWK")

/-- The key that wraps a slot of a scope: 0 pair, 1 local (R526, R527). -/
def wrapKeyOf (scope : Nat) (s : State) : Bytes := if scope = 0 then pwk s else srk s

/-- Change the trust state. -/
def modTrust (f : Trust → Trust) (s : State) : State := { s with trust := f s.trust }

/-- Take a KEY_SLOT item (R527): TYPE 0 destroys the slot; else the key is unwrapped, and a failed check marks the slot (R530). -/
def takeKeySlot (slot scope type region : Nat) (wrapped : Bytes) (s : State) : State :=
  if type = 0 then modTrust (fun t => { t with keys := mdel slot t.keys }) s
  else
    match keyUnwrap (wrapKeyOf scope s) wrapped with
    | some k => modTrust (fun t => { t with keys := mput slot ⟨scope, type, region, wrapped, k, false⟩ t.keys }) s
    | none => modTrust (fun t => { t with keys := mput slot ⟨scope, type, region, wrapped, [], true⟩ t.keys }) s

/-- Mirror states from their encoding (06_pair R233); a reserved one is taken as STALE. -/
def mirrorOf (n : Nat) : MirrorSt := if n = 0 then .current else if n = 1 then .sole else if n = 3 then .resyncing else .stale

/-- Change the pair state. -/
def modPair (f : Pair → Pair) (s : State) : State := { s with pair := f s.pair }

/-- A copy's new state, generation and mark. The bitmap of R235 begins empty when the copy becomes SOLE. -/
def newCopyState (st : MirrorSt) (gen mark : Nat) (old : Option MirrorCopy) : MirrorCopy :=
  match old with
  | some c =>
    if st = .sole ∧ c.state ≠ .sole then ⟨st, gen, mark, [], true⟩ else { c with state := st, gen := gen, mark := mark }
  | none => ⟨st, gen, mark, [], st == .sole⟩

/-- Apply a META item. `seq` is the record's SEQ: a new region's descriptor takes it as CREATED (05_regions R156). -/
def applyItem (seq : Nat) (i : MetaItem) (s : State) : State :=
  match i with
  | .regionDesc id b =>
    let s := takeDesc id b s
    modRegion id (fun d => if d.created = 0 then { d with created := seq } else d) s
  | .extentAssign r p f l => if p = myPosition s then takeAssign r f l s else s
  | .extentRelease r p f _ => if p = myPosition s then releaseFrom r f s else s
  | .pairRecord pid a b mode chk slot wit ret =>
    modPair (fun p => { p with record := { p.record with
      pairId := pid, id0 := a, id1 := b, mode := mode, checkMode := chk, keySlot := slot, witness := wit, retired := ret } }) s
  | .lease r h _ e _ =>
    if r = 0 then modPair (fun p => { p with chairHere := h == p.position, chairEpoch := e }) s
    else
      modRegion r (fun d => { d with seat := idAt h s })
        (modPair (fun p => { p with leaseEpoch := mput r e p.leaseEpoch }) s)
  | .mirrorState r p st g m =>
    if p = myPosition s then
      let st := mirrorOf st
      let stale := st == .stale || st == .resyncing
      modRegion r (fun d => { d with mirrorGen := g, roReasons := reasonBit 3 stale d.roReasons })
        (modPair (fun q => { q with mirror := mput r (newCopyState st g m (mget r q.mirror)) q.mirror }) s)
    else modPair (fun q => { q with partnerMirror := mput r ⟨mirrorOf st, g, m, [], false⟩ q.partnerMirror }) s
  | .keySlot n sc ty r w => takeKeySlot n sc ty r w s
  | .sanitizeMark ph k _ => modTrust (fun t => { t with
      sanitize := if ph = 0 then 1 else 2 + k, sanitizeKind := k, saltChanged := if ph = 0 then false else t.saltChanged }) s

/-- Remove a region from the table with what hangs on it. -/
def dropRegion (r : Nat) (s : State) : State :=
  let s := modReg (fun g => { g with
    table := mdel r g.table, changes := mdel r g.changes, shedOrder := g.shedOrder.filter (· != r)
    pendingRo := g.pendingRo.filter fun c => c.region != r, pendingMasks := g.pendingMasks.filter fun c => c.region != r }) s
  modPair (fun p => { p with
    mirror := mdel r p.mirror, partnerMirror := mdel r p.partnerMirror, msn := mdel r p.msn, leaseEpoch := mdel r p.leaseEpoch
    unavailable := p.unavailable.filter (· != r) }) s

/-- Data of event 0x0401 (05_regions R188). -/
def createdData (id : Nat) (d : Region) : Bytes :=
  le 2 id ++ le 1 (attrByte d) ++ zeros 1 ++ le 4 d.size ++ le 2 d.seat


end Sys2Proof.Machine
end

