-- ==== Sys2Proof/Machine/Access.lean ====
section
/-! DEFINITION. A region access from any path: which controller serves it, what refuses a write, the forwarding to the partner, and
the write units of each path (01_architecture R12 to R25, 05_regions R173, R176 to R180, 06_pair R210, R222, R224). -/

namespace Sys2Proof.Machine

/-- Where an access to a region goes. -/
inductive Route where
  /-- This controller serves it. -/
  | here
  /-- The partner serves it: it is forwarded over the link (R25). -/
  | partner
  /-- It waits for a switch-over (R222), or for the link. -/
  | wait
  /-- A single region of a failed partner (R224). -/
  | unavailable
deriving DecidableEq, Repr, Inhabited

/-- Whether the seat of a region, or the chair (region 0), is on its way (06_pair R226): new accesses are held. -/
def moving (r : Nat) (s : State) : Bool :=
  match s.pair.move with
  | some m => m.region == r && decide (m.boundary ≤ s.tb.beat)
  | none => false

/-- The route of an access to a region offset. -/
def route (r off : Nat) (s : State) : Route :=
  match regionOf r s with
  | none => .unavailable
  | some d =>
    if d.mirrored && (s.pair.takeover || s.pair.stopped || moving r s) then .wait
    else if servesHere d off s then .here
    else if s.pair.unavailable.contains r then .unavailable
    else if linkUp s then .partner
    else .wait

/-- The state of this controller's copy of a region. -/
def ownCopy (r : Nat) (s : State) : MirrorCopy := mgetD ⟨.stale, 0, 0, [], false⟩ r s.pair.mirror

/-- What is known of the partner's copy of a region. -/
def otherCopyState (r : Nat) (s : State) : MirrorSt := (mgetD ⟨.stale, 0, 0, [], false⟩ r s.pair.partnerMirror).state

/-- Whether a region is CURRENT on both controllers. -/
def currentBoth (r : Nat) (s : State) : Bool := (ownCopy r s).state == .current && otherCopyState r s == .current

/-- Whether a byte range lies inside a region (R18). -/
def inRegion (d : Region) (off len : Nat) : Bool := decide (off + len ≤ regionBytes d)

/-- Whether two byte ranges share a byte. -/
def overlaps (a n b m : Nat) : Bool := decide (a < b + m) && decide (b < a + n) && decide (0 < n) && decide (0 < m)

/-- Whether a write touches a part of a configured capture ring (10_capture_replay R390). -/
def inRing (r off len : Nat) (s : State) : Bool :=
  s.cap.rings.any fun e =>
    match e.2.conf with
    | none => false
    | some c =>
      c.region == r && (overlaps off len c.control 64 || overlaps off len c.dataOff c.dataSize || overlaps off len c.idxOff c.idxSize)

/-- Whether a write from a host path is refused as to a read-only region (R179, 10_capture_replay R390). -/
def writeRefused (r : Nat) (d : Region) (off len : Nat) (s : State) : Bool := !writable d || inRing r off len s

/-- Whether an access domain may read a region (R176). -/
def mayRead (dom : Nat) (d : Region) : Bool := dom == 0 || d.readDomains.getLsbD dom

/-- Whether an access domain may write a region (R176). -/
def mayWrite (dom : Nat) (d : Region) : Bool := dom == 0 || d.writeDomains.getLsbD dom

/-- The body of a FWD_REQUEST for a read: path, operation, zeros, length. -/
def fwdReadBody (path len : Nat) : Bytes := le 1 path ++ le 1 0 ++ zeros 6 ++ le 8 len

/-- The body of a FWD_REQUEST for a write: path, operation, zeros, the lines with their masks, and their poison bitmap. -/
def fwdWriteBody (path : Nat) (l : List LineWrite) : Bytes :=
  le 1 path ++ le 1 1 ++ zeros 6 ++ le 8 l.length ++ (l.flatMap fun w => le 8 w.mask.toNat ++ lineBytes w.data) ++ poisonBitmap l

/-- Forward an access to the partner and note who waits (R25). -/
def forwardAccess (o : FwdOrigin) (r off : Nat) (body : Bytes) (s : State) : State :=
  let t := nextTag s
  let s := sendMsg { vc := 2, opcode := 0x20, mtag := t, region := r, operand := off, body := body } s
  bumpTag { s with pair := { s.pair with fwd := mput t o s.pair.fwd } }

/-- Forward a read. -/
def forwardRead (o : FwdOrigin) (path r off len : Nat) (s : State) : State :=
  forwardAccess o r off (fwdReadBody path len) s

/-- Forward a write. -/
def forwardWrite (o : FwdOrigin) (path r off : Nat) (l : List LineWrite) (s : State) : State :=
  forwardAccess o r off (fwdWriteBody path l) s

/-- The body of a FWD_REQUEST for a drain: path, operation, zeros, length. -/
def fwdDrainBody (path len : Nat) : Bytes := le 1 path ++ le 1 5 ++ zeros 6 ++ le 8 len

/-- Mark the lines of a write that are poisoned. -/
def markPoison (bad : List Nat) (l : List LineWrite) : List LineWrite :=
  l.map fun w => if bad.contains w.line then { w with poison := true } else w

/-- A write unit of a path, its bytes here (R65, R72). -/
def submitWrite (src : WSrc) (r off : Nat) (data : Bytes) (bad : List Nat) (s : State) : State :=
  submitUnit (newUnit src .general r (markPoison bad (cutLines off data)) s) s

/-- A write unit whose bytes come later: its lines have an empty mask (09_command_queues R358). -/
def submitEmpty (src : WSrc) (r off len : Nat) (s : State) : State :=
  submitUnit (newUnit src .general r
    ((cutLines off (zeros len)).map fun w => { w with mask := 0 }) s) s

/-- A drawer slot with the bytes of the line write that it was reserved for. -/
def fillSlot (l : List (Nat × LineWrite)) (e : Nat × DSlot) : Nat × DSlot :=
  match l.find? fun x => x.1 == e.1 with
  | some x => (e.1, { e.2 with mask := x.2.mask, data := x.2.data, poison := x.2.poison })
  | none => e

/-- Replace the lines of a unit by the bytes that have arrived, in its slots too. -/
def fillUnit (u : WUnit) (lines : List LineWrite) (s : State) : State :=
  modPu (fun p => putUnit { u with lines := lines } { p with slots := p.slots.map (fillSlot (u.slots.zip lines)) }) s

/-- Whether a unit writes a volatile region: it takes no drawer slot (R13). -/
def volatileUnit (u : WUnit) (s : State) : Bool :=
  match regionOf u.region s with
  | some d => d.isVolatile
  | none => false

/-- The line writes of a unit by logical line. -/
def keyedLines (u : WUnit) (s : State) : List (Nat × LineWrite) :=
  u.lines.filterMap fun w => (lineKey u.region w.line s).map fun k => (k, w)

/-- Keep the front caches in step with a volatile line that another path writes (07_cxl_ports R273): every head's copy of the line
takes the bytes. -/
def patchGranule (r : Nat) (w : LineWrite) (g : Granule) : Granule :=
  let i := w.line % 4
  if g.region = r ∧ g.index = w.line / 4 ∧ g.valid.getLsbD i then
    let x := overlay ⟨mgetD 0 i g.lines, g.poison.getLsbD i⟩ w
    { g with
      lines := mput i x.data g.lines
      poison := if x.poison then g.poison ||| BitVec.ofNat 4 (2 ^ i) else g.poison &&& ~~~ BitVec.ofNat 4 (2 ^ i) }
  else g

/-- Note in every segment of a byte range that it was read: a resident one is touched (04_tiers R112), a missing one is requested
(R114). -/
def wantRange (r off len : Nat) (s : State) : State :=
  let keys := (List.range (spanLines off len)).filterMap fun i => lcnOf r ((off / 64 + i) * 64) s
  let lcns := keys.foldl (fun l k => setInsert k l) []
  lcns.foldl (fun s l => if mhas (segmentOf l) s.ti.segs then touch (segmentOf l) s
    else if (mgetD { state := 0, addr := 0 } l s.ti.map).state = 0 then s else waitSlot l s) s

/-- A read of bytes that this controller serves: the bytes, its poisoned lines, and the state with the segments touched. -/
def readHere (r off len : Nat) (s : State) : Bytes × List Nat × State :=
  (readBytes r off len s, poisonedLines r off len s, wantRange r off len s)

/-- Poison bites (12_integrity R458): the lines are counted, and reported at most once per consumer kind in 65,536 beats. -/
def poisonBites (kind region : Nat) (bad : List Nat) (s : State) : State :=
  match bad.getLast? with
  | none => s
  | some l =>
    let s := { s with ecc := { s.ecc with poisonOut := satAdd 0xFFFFFFFF s.ecc.poisonOut bad.length } }
    raiseLimited 0x0B04 kind .warning
      (fun n => le 1 kind ++ zeros 1 ++ le 2 region ++ le 4 (n - 1 + bad.length) ++ le 8 (l * 64)) s

/-- Enter a line in the poison ledger (12_integrity R459). -/
def ledgerAdd (region line cause : Nat) (s : State) : State :=
  let e := s.ecc
  if e.ledger.any fun x => x.region == region && x.line == line then s
  else if e.ledger.length < 4096 then { s with ecc := { e with ledger := e.ledger ++ [⟨region, line, s.tb.beat, cause⟩] } }
  else { s with ecc := { e with ledgerOverflow := true, ledgerTime := s.tb.tod / 4, scrub := { e.scrub with overflowed := true } } }

/-- A whole-line write without poison takes its line out of the ledger; a line written with poison enters it (R457, R459). -/
def ledgerWrite (region : Nat) (w : LineWrite) (s : State) : State :=
  if w.poison then ledgerAdd region w.line 0 s
  else if w.mask = fullMask then
    { s with ecc := { s.ecc with ledger := s.ecc.ledger.filter fun x => !(x.region == region && x.line == w.line) } }
  else s

end Sys2Proof.Machine
end

