-- ==== Sys2Proof/Machine/Sends.lean ====
section
/-! DEFINITION. QPs by their index, and the capsules that the queue engine sends on them (08_remote_access R296, 09_command_queues R356,
R357). -/

namespace Sys2Proof.Machine

/-- Change the network state. -/
def modNet (f : Net → Net) (s : State) : State := { s with net := f s.net }

/-- A QP by index (R296). -/
def qpAt (i : Nat) (s : State) : Option Qp := mget i s.net.qps

/-- Change a QP. -/
def modQp (i : Nat) (f : Qp → Qp) (s : State) : State := modNet (fun n => { n with qps := mmod i f n.qps }) s

/-- The QPN of an index (R296). -/
def qpnOf (i : Nat) : Nat := 0x10000 + i

/-- Count on a QP (13_management R503): 0 packets received, 1 sent, 2 NAKs sent, 3 NAKs received, 4 retransmissions, 5 RNR NAKs
sent, 6 drops, 7 multipath messages completed. -/
def countQp (i k n : Nat) (s : State) : State := modQp i (fun q => { q with counters := mmodD 0 k (· + n) q.counters }) s

/-- 24-bit sequence numbers. -/
def psnMod : Nat := 2 ^ 24

/-- Path MTU in bytes from its IBTA code. -/
def mtuOf (code : Nat) : Nat := 128 * 2 ^ code

/-- The value of an AETH credit code. -/
def creditVal (c : Nat) : Nat := if c = 0 then 0 else if c = 1 then 1 else if c % 2 = 0 then 2 ^ (c / 2) else 3 * 2 ^ (c / 2 - 1)

/-- The AETH credit code of a count, rounded down (R314). -/
def creditCode (n : Nat) : Nat := ((List.range 31).filter fun c => decide (creditVal c ≤ n)).getLast?.getD 0

/-- Packets that a message of a length takes. -/
def packetsOf (len mtu : Nat) : Nat := max 1 ((len + mtu - 1) / mtu)

/-- The requests that an AETH credit code lets a requester have outstanding beyond the acknowledged ones; code 31 carries no count. -/
def creditLimit (code : Nat) : Option Nat := if 30 < code then none else some (creditVal code)

/-- Requests that are out and not acknowledged. -/
def outstanding (q : Qp) : Nat := (q.sends.filter fun w => w.sent).length

/-- Whether the host's end-to-end credits let another SEND go out (R357). -/
def creditFree (q : Qp) : Bool :=
  match q.credit with
  | none => true
  | some n => decide (outstanding q < n)

/-- Whether a capsule can be sent on a QP now: nothing waits before it, no RNR wait runs, and a credit is free. -/
def capsuleReady (q : Qp) : Bool :=
  q.state == .rts && q.rnrUntil.isNone && (q.sends.all fun w => w.sent) && creditFree q

/-- Send the first waiting capsule of a QP, which takes PSNs as any SEND does. -/
def sendNow (i kind : Nat) (bytes : Bytes) (q : Qp) (w : SentWr) (before after : List SentWr) (s : State) : State :=
  let packets := packetsOf bytes.length (mtuOf q.attr.pmtu)
  countQp i 1 packets (emit (.capsule (qpnOf i) q.sPsn kind bytes) (modQp i (fun q => { q with
    sPsn := (q.sPsn + packets) % psnMod
    sends := before ++ { w with sent := true, psn := q.sPsn, packets := packets, sentBeat := s.tb.beat } :: after }) s))

/-- Send a capsule on a QP (R356, R357): it goes out now, or waits in the order of the send queue. -/
def sendCapsule (qpn kind : Nat) (bytes : Bytes) (s : State) : State :=
  let i := qpn - 0x10000
  match qpAt i s with
  | none => s
  | some q =>
    let w : SentWr := { bytes := bytes, capsule := some kind }
    if capsuleReady q then sendNow i kind bytes q w q.sends [] s
    else modQp i (fun q => { q with sends := q.sends ++ [w] }) s

end Sys2Proof.Machine
end

