-- ==== Sys2Proof/Machine/Gqp.lean ====
section
/-! DEFINITION. Operations of the queue engine: command entries, completions, notices, pieces, deletion and the arbitration round
(09_command_queues). -/

namespace Sys2Proof.Machine

/-- PTR_KIND. -/
def ePtrKind (e : Bytes) : Nat := fld 1 1 e % 4

/-- ORDERED (R366). -/
def eOrdered (e : Bytes) : Bool := bitOf 2 (fld 1 1 e)

/-- CID. -/
def eCid (e : Bytes) : Nat := fld 2 2 e

/-- REGION. -/
def eRegion (e : Bytes) : Nat := fld 4 2 e

/-- OFFSET. -/
def eOffset (e : Bytes) : Nat := fld 8 8 e

/-- LENGTH. -/
def eLength (e : Bytes) : Nat := fld 16 4 e

/-- CDW5. -/
def eCdw5 (e : Bytes) : Nat := fld 20 4 e

/-- DPTR. -/
def eDptr (e : Bytes) : Nat := fld 24 8 e

/-- The second region of Copy, Compare, Seal and Unseal: CDW5 bits 11 to 0 (R369). -/
def eRegion2 (e : Bytes) : Nat := eCdw5 e % 4096

/-- CSPEC bytes 39:32: a second offset, a destination pointer, a bitmap pointer, an expected value (R369). -/
def eArg (e : Bytes) : Nat := fld 32 8 e

/-- Commands in flight on the controller (R341). -/
def inFlightTotal (s : State) : Nat := (s.gqp.pairs.map fun e => e.2.cmds.length).sum

/-- Change a started command. -/
def modCmd (qid cid : Nat) (f : GqpCmd → GqpCmd) (s : State) : State :=
  modQ qid (fun q => { q with cmds := q.cmds.map fun c => if c.cid == cid && c.started then f c else c }) s

/-- Whether the transport still reaches the host (R345, step 4). -/
def reachesHost (q : QueuePair) : Bool :=
  match q.deleting with
  | some c => c == 1
  | none => true

/-- Event 0x0801 data (R378). -/
def queueEventData (qid what : Nat) (q : QueuePair) : Bytes := le 2 qid ++ le 1 what ++ le 1 q.transport ++ le 4 q.aborted

/-- A queue pair that is being deleted and has no command in flight is gone (R345, step 5). -/
def finishDelete (qid : Nat) (s : State) : State :=
  match queueOf qid s with
  | none => s
  | some q =>
    match q.deleting with
    | none => s
    | some cause =>
      if q.cmds.isEmpty then
        let s := modGqp (fun g => { g with
          pairs := mdel qid g.pairs, transfers := g.transfers.filter fun t => t.2.qid != qid }) s
        let s := { s with te := { s.te with bound := mdel qid s.te.bound } }
        let s := raise 0x0801 .info (queueEventData qid cause q) s
        match q.deletePath with
        | some p => finishBg p 0xC0B1 0 0xFFFF (le 4 q.aborted) s
        | none => s
      else s

/-- Complete a command (R349, R350, R356): its entry is written or sent, and it is no longer in flight. -/
def complete (qid cid status : Nat) (result : Bytes) (s : State) : State :=
  match queueOf qid s with
  | none => s
  | some q =>
    let entry := completionEntry qid cid status false result q s
    let s := modQ qid (fun q => { q with
      cmds := dropCmd cid q.cmds
      completed := q.completed + 1
      failed := if status = 0 then q.failed else q.failed + 1
      aborted := if status = 3 then q.aborted + 1 else q.aborted }) s
    let s := modGqp (fun g => { g with transfers := g.transfers.filter fun t => !(t.2.qid == qid && t.2.cid == cid) }) s
    let s :=
      if !reachesHost q then s
      else if q.transport = 0 then writeEntry qid (.completion qid cid status) entry s
      else sendCapsule q.qpn 2 (le 1 2 ++ zeros 1 ++ le 2 1 ++ le 4 32 ++ entry) s
    finishDelete qid s

/-- Check that every byte of the command-specific field is zero outside the given ranges (R369). -/
def cspecZero (used : List (Nat × Nat)) (e : Bytes) : Bool :=
  (List.range 32).all fun i =>
    (used.any fun r => decide (r.1 ≤ 32 + i) && decide (32 + i < r.2)) || (e.getD (32 + i) 0) == 0

/-- The lengths of a data-pointer list (R347). -/
def listLengths (l : Bytes) : List Nat := (chunksOf 16 l).map fun e => fld 8 4 e

/-- The checks of FLAGS, REGION, DPL_COUNT and the data pointer (R346, R347). -/
def headerOk (q : QueuePair) (c : GqpCmd) : Bool :=
  let e := c.entry
  let k := ePtrKind e
  decide (fld 1 1 e < 8) && decide (eRegion e < 4096) &&
    (if k = 1 then decide (1 ≤ fld 6 2 e ∧ fld 6 2 e ≤ 4096) && decide (eDptr e % 16 = 0) else fld 6 2 e == 0) &&
    (if q.transport = 0 then decide (k < 2) else (k == 0 && eDptr e == 0) || k == 2) &&
    (if k = 1 then c.list.length == 16 * fld 6 2 e && (chunksOf 16 c.list).all fun x => fld 8 4 x != 0 && fld 12 4 x == 0
      else true)

/-- The check of the data pointer's length against the command's data (R348). -/
def dataFits (c : GqpCmd) (len : Nat) : Bool :=
  match ePtrKind c.entry with
  | 1 => decide (len ≤ (listLengths c.list).sum)
  | 2 => c.inline.length == len
  | _ => true

/-- The host data of a command: inline, or as it has been brought in. -/
def hostBytes (c : GqpCmd) (data : Bytes) (len : Nat) : Bytes :=
  if ePtrKind c.entry = 2 then padTo len c.inline else padTo len data

/-- Data written to a host buffer by a list (R347). -/
def scatter (qid cid : Nat) : List Bytes → Bytes → State → State
  | [], _, s => s
  | e :: r, data, s =>
    if data.isEmpty then s
    else scatter qid cid r (data.drop (fld 8 4 e)) (emit (.hostData qid cid (fld 0 8 e) (data.take (fld 8 4 e))) s)

/-- Send data to a host buffer: by the data pointer on a memory queue, in Read Data capsules on a capsule queue (R347, R361). -/
def sendOut (qid addr : Nat) (q : QueuePair) (c : GqpCmd) (data : Bytes) (s : State) : State :=
  if q.transport = 1 then
    let n := q.rxSize - 24
    (chunksOf n data).zipIdx.foldl (fun s x =>
      sendCapsule q.qpn 4 (le 1 4 ++ zeros 3 ++ le 4 (16 + x.1.length) ++ le 2 c.cid ++ zeros 2 ++ le 4 x.1.length ++
        le 8 (x.2 * n) ++ x.1) s) s
  else if ePtrKind c.entry = 1 then scatter qid c.cid (chunksOf 16 c.list) data s
  else emit (.hostData qid c.cid addr data) s

/-- The check of a region that a command reads or writes (R177, R179, R348, 05_regions R173): a status, or none when it passes. -/
def regionStatus (dom r off len : Nat) (wr : Bool) (s : State) : Option Nat :=
  match regionOf r s with
  | none => some 0x0002
  | some d =>
    if d.state = .offline then some 0x0002
    else if !(if wr then mayWrite dom d else mayRead dom d) then some 0x0002
    else if removedFrom r off len s then some 0x0002
    else if wr && writeRefused r d off len s then some 0x0101
    else if len = 0 ∨ !inRegion d off len then some 0x0002
    else none

/-- The pieces of a command's range (03_persistence R73, R74), from a base index on. -/
def pieceList (base r off len : Nat) (s : State) : List Piece :=
  let settee := match regionOf r s with
    | some d => d.settee
    | none => false
  (pieces settee off len).zipIdx.map fun x => { index := base + x.2, off := x.1.1, len := x.1.2 }

/-- Whether some piece of a range waits for a switch-over, or cannot be served (R222, R224). -/
def rangeRoute (r off len : Nat) (s : State) : Route :=
  let rs := (pieceList 0 r off len s).map fun p => route r (off + p.off) s
  if rs.contains .unavailable then .unavailable else if rs.contains .wait then .wait else .here

/-- Set the state of a piece. -/
def setPiece (i : Nat) (st : PieceSt) (c : GqpCmd) : GqpCmd :=
  { c with pieces := c.pieces.map fun p => if p.index = i then { p with state := st } else p }

/-- Whether every piece has been settled. -/
def settled (c : GqpCmd) : Bool := c.pieces.all fun p => p.state == .acked || p.state == .gone

/-- The result of a write that failed: the run of acknowledged bytes and its offset (R367). -/
def runResult (c : GqpCmd) : Bytes :=
  let l := c.pieces.filter fun p => p.state == .acked
  le 8 (l.map (·.len)).sum ++ le 8 ((l.map (·.off)).foldl min ((l.head?.map (·.off)).getD 0))

/-- Finish a Write or Write Zeroes whose pieces are settled (R367). -/
def finishWrite (qid : Nat) (c : GqpCmd) (s : State) : State :=
  if settled c then complete qid c.cid c.status (if c.status = 0 then [] else runResult c) s else s

/-- Units of a command. -/
def unitsOfCmd (qid cid : Nat) (s : State) : List WUnit :=
  s.pu.units.filter fun u =>
    match u.src with
    | .gqp q c _ => q == qid && c == cid
    | _ => false

/-- The piece that a unit of a command stages. -/
def unitPiece (u : WUnit) : Nat :=
  match u.src with
  | .gqp _ _ p => p
  | _ => 0

/-- A command fails from a piece on: that piece and every later one that is not acknowledged are abandoned (R345, R360, R367). -/
def failFrom (qid cid i status : Nat) (s : State) : State :=
  let s := ((unitsOfCmd qid cid s).filter fun u => decide (i ≤ unitPiece u) && u.phase != .held).foldl
    (fun s u => abandonUnit u s) s
  let s := modGqp (fun g => { g with
    transfers := g.transfers.filter fun t => !(t.2.qid == qid && t.2.cid == cid && decide (i ≤ t.2.piece)) }) s
  modCmd qid cid (fun c => { c with
    status := if c.status = 0 then status else c.status
    pieces := c.pieces.map fun p => if i ≤ p.index ∧ p.state ≠ .acked then { p with state := .gone } else p }) s

/-- A running command of a queue pair. -/
def runningCmd (qid cid : Nat) (s : State) : Option GqpCmd := (queueOf qid s).bind (findCmd true cid)

/-- Pieces of a capsule command that are on their way: at most two Transfer-Readys are outstanding (R358). -/
def onTheWay (c : GqpCmd) : Nat :=
  (c.pieces.filter fun p => p.state == .staged || (match p.state with
    | .ready _ => true
    | _ => false)).length

/-- Submit the next pieces of a capsule Write, two at a time (R358): a piece counts as staged from then until its Transfer-Ready. -/
def submitNext (qid : Nat) : Nat → GqpCmd → State → State
  | 0, _, s => s
  | n + 1, c, s =>
    if 2 ≤ onTheWay c then s
    else
      match c.pieces.find? fun p => p.state == .waiting with
      | none => s
      | some p =>
        let r := eRegion c.entry
        let off := eOffset c.entry + p.off
        let c' := setPiece p.index .staged c
        submitNext qid n c' (modCmd qid c.cid (setPiece p.index .staged) (submitEmpty (.gqp qid c.cid p.index) r off p.len s))

/-- Take the pieces of a Write whose bytes are here: each goes to the drawer, or to the partner (R25). -/
def launchPieces (qid : Nat) (c : GqpCmd) (r off : Nat) (data : Bytes) (s : State) : State :=
  c.pieces.foldl (fun s p =>
    let bytes := slice p.off p.len data
    let s := modCmd qid c.cid (setPiece p.index .staged) s
    if route r (off + p.off) s = .partner then
      forwardWrite (.gqpWrite qid c.cid p.index) 2 r (off + p.off) (cutLines (off + p.off) bytes) s
    else submitWrite (.gqp qid c.cid p.index) r (off + p.off) bytes [] s) s

/-- Lines of a destination that take a byte of a poisoned line of the source (12_integrity R457). -/
def movedPoison (bad : List Nat) (src dst len : Nat) : List Nat :=
  ((List.range (spanLines dst len)).map (· + dst / 64)).filter fun l =>
    bad.any fun b => decide (b * 64 + dst < l * 64 + 64 + src) && decide (l * 64 + src < b * 64 + 64 + dst)

/-- Write a piece of a Copy (R371). -/
def copyWrite (qid : Nat) (c : GqpCmd) (p : Piece) (data : Bytes) (bad : List Nat) (s : State) : State :=
  let dr := eRegion2 c.entry
  let dst := eArg c.entry + p.off
  let lines := movedPoison bad (eOffset c.entry + p.off) dst p.len
  let s := modCmd qid c.cid (fun c => { setPiece p.index .staged c with count := c.count + lines.length }) s
  if route dr dst s = .partner then
    forwardWrite (.gqpWrite qid c.cid p.index) 2 dr dst (markPoison lines (cutLines dst data)) s
  else submitWrite (.gqp qid c.cid p.index) dr dst data lines s

/-- Take the next piece of a Copy, or complete it (R371). `pieces` stands in the order of copying. -/
def copyNext (qid cid : Nat) (s : State) : State :=
  match runningCmd qid cid s with
  | none => s
  | some c =>
    match c.pieces.find? fun p => p.state != .acked && p.state != .gone with
    | none => complete qid cid c.status (if c.status = 0 then le 8 c.count else runResult c) s
    | some p =>
      if p.state ≠ .waiting then s
      else
        let r := eRegion c.entry
        let off := eOffset c.entry + p.off
        match route r off s with
        | .unavailable => complete qid cid 0x0102 (runResult c) (failFrom qid cid 0 0x0102 s)
        | .partner => forwardRead (.gqpRead qid cid p.index) 2 r off p.len (modCmd qid cid (setPiece p.index (.ready 0)) s)
        | _ =>
          let x := readHere r off p.len s
          copyWrite qid c p x.1 x.2.1 x.2.2

/-- Bitmap of the poisoned lines of a range, bit 0 for its first line (R372). -/
def lineBitmap (first : Nat) (bad : List Nat) : Nat :=
  bad.foldl (fun v l => if first ≤ l then v + 2 ^ (l - first) else v) 0

/-- The pieces of an operand, joined in order. -/
def joined (lo hi : Nat) (c : GqpCmd) : Bytes := ((c.src.filter fun e => decide (lo ≤ e.1 ∧ e.1 < hi)).map (·.2)).flatten

/-- The first piece index of a command's second operand. -/
def secondBase : Nat := 65536

/-- Finish a Read whose pieces are here (R372). -/
def finishRead (qid : Nat) (q : QueuePair) (c : GqpCmd) (s : State) : State :=
  let e := c.entry
  let first := eOffset e / 64
  let n := spanLines (eOffset e) (eLength e)
  let bad := c.bad.foldl (fun l k => setInsert k l) []
  let data := joined 0 secondBase c
  let s := sendOut qid (eDptr e) q c (if bad.isEmpty then data else zeroLines (eOffset e) bad data) s
  let s := if eArg e = 0 then s
    else emit (.hostData qid c.cid (eArg e) (le ((n + 7) / 8) (lineBitmap first bad))) s
  match bad.head? with
  | none => complete qid c.cid 0 [] s
  | some b =>
    complete qid c.cid 0x0201 (le 8 (b - first) ++ le 8 (lineBitmap b bad % 2 ^ 64)) (poisonBites 1 (eRegion e) bad s)

/-- The stream of a queue pair's transform commands (R373, 11_transform_engine R427). -/
def streamOf (qid : Nat) (s : State) : Option Nat := mget qid s.te.bound

/-- The bytes that pass the engine for a command (11_transform_engine R442), and the AAD bytes. -/
def engineBytes (e : Bytes) : Nat × Nat :=
  let aad := fld 44 4 e
  match eOpcode e with
  | 0x0A => (eLength e - aad, aad)
  | 0x0B => (eLength e - 16 - aad, aad)
  | _ => (eLength e, 0)

/-- Queue a transform command on its stream, its operands being here (11_transform_engine R427). -/
def enqueueJob (qid : Nat) (c : GqpCmd) (s : State) : State :=
  match streamOf qid s with
  | none => complete qid c.cid 0x0004 [] s
  | some st =>
    let n := engineBytes c.entry
    let bad := c.bad.filter (· < 2 ^ 62)
    let bad2 := (c.bad.filter (2 ^ 62 ≤ ·)).map (· - 2 ^ 62)
    let j : TeJob := { qid := qid, cid := c.cid, todo := n.1, aad := n.2, data := joined 0 secondBase c
                       second := joined secondBase (2 * secondBase) c, bad := bad, bad2 := bad2 }
    { s with te := { s.te with jobs := mput st (mgetD [] st s.te.jobs ++ [j]) s.te.jobs } }

/-- Go on with a command that reads, once its pieces are here. -/
def afterGather (qid cid : Nat) (s : State) : State :=
  match queueOf qid s, runningCmd qid cid s with
  | some q, some c =>
    if !settled c then s
    else if c.status ≠ 0 then complete qid cid c.status [] s
    else if eOpcode c.entry = 0x01 then finishRead qid q c s
    else enqueueJob qid c s
  | _, _ => s

/-- Bad lines are kept in one list: those of the second operand from 2^62 on. -/
def badMark (i : Nat) (bad : List Nat) : List Nat := if i < secondBase then bad else bad.map (· + 2 ^ 62)

/-- A piece of an operand has been read. -/
def takePiece (i : Nat) (data : Bytes) (bad : List Nat) (c : GqpCmd) : GqpCmd :=
  { setPiece i .acked c with src := mput i data c.src, bad := c.bad ++ badMark i bad }

/-- Read the pieces of an operand: here at once, on the partner by forwarding (R25). -/
def gatherOperand (qid : Nat) (c : GqpCmd) (r off : Nat) (l : List Piece) (s : State) : State :=
  l.foldl (fun s p =>
    if route r (off + p.off) s = .partner then
      forwardRead (.gqpRead qid c.cid p.index) 2 r (off + p.off) p.len (modCmd qid c.cid (setPiece p.index (.ready 0)) s)
    else
      let x := readHere r (off + p.off) p.len s
      modCmd qid c.cid (takePiece p.index x.1 x.2.1) x.2.2) s

/-- A read that was forwarded for a command returns (R25). -/
def gqpReadBack (qid cid i status : Nat) (data : Bytes) (bad : List Nat) (s : State) : State :=
  match runningCmd qid cid s with
  | none => s
  | some c =>
    match c.pieces.find? fun p => p.index == i with
    | none => s
    | some p =>
      if eOpcode c.entry = 0x04 then
        if status = 0 then copyWrite qid c p data bad s
        else copyNext qid cid (failFrom qid cid 0 status s)
      else if status = 0 then afterGather qid cid (modCmd qid cid (takePiece i data bad) s)
      else afterGather qid cid (modCmd qid cid (fun c => { setPiece i .gone c with status := status }) s)

/-- A piece that a command writes has been acknowledged, here or by the partner; or it failed there. -/
def gqpPieceDone (qid cid i status : Nat) (s : State) : State :=
  let s := modGqp (fun g => { g with
    transfers := g.transfers.filter fun t => !(t.2.qid == qid && t.2.cid == cid && t.2.piece == i) }) s
  let s := if status = 0 then modCmd qid cid (setPiece i .acked) s else failFrom qid cid i status s
  match queueOf qid s, runningCmd qid cid s with
  | some q, some c =>
    if eOpcode c.entry = 0x04 then copyNext qid cid s
    else if eOpcode c.entry = 0x0A ∨ eOpcode c.entry = 0x0B then
      if settled c then complete qid cid c.status (if c.status = 0 then c.result else []) s else s
    else if settled c then finishWrite qid c s
    else if q.transport = 1 ∧ ePtrKind c.entry = 0 then submitNext qid 2 c s
    else s
  | _, _ => s

/-- Whether the command may start as things stand (R88, R365, R366): `earlier` says whether an earlier command is in flight, `fence`
whether one of them is a Persist Fence. -/
def mayStart (earlier fence : Bool) (c : GqpCmd) : Bool := !(eOrdered c.entry && earlier) && !fence

/-- Commands at the head of the queue that may start at once. -/
def startable (earlier fence : Bool) : List GqpCmd → Nat
  | [] => 0
  | c :: r =>
    let f := fence || eOpcode c.entry == 0x06
    if c.started then startable true f r
    else if mayStart earlier fence c then 1 + startable true f r
    else 0

/-- Start the next `n` commands of a list. -/
def startList : Nat → List GqpCmd → List GqpCmd
  | 0, l => l
  | _, [] => []
  | n + 1, c :: r => if c.started then c :: startList (n + 1) r else { c with started := true } :: startList n r

/-- Whether a queue pair has a command that may start (R364, R365). -/
def queueReady (q : QueuePair) : Bool := decide (0 < startable false false q.cmds)

/-- The next ready queue pair of a class after a pointer, cyclically (R364). -/
def nextQueue (c : Nat) (g : Gqp) : Option (Nat × QueuePair) :=
  let l := g.pairs.filter fun e => e.2.cls == c && queueReady e.2
  match mget c g.ptr with
  | none => l.head?
  | some p => (l.find? fun e => decide (p < e.1)).or l.head?

/-- A turn of a queue pair (R364): up to `burst` commands start. -/
def turn (c burst budget : Nat) (g : Gqp) : Option (Gqp × Nat) :=
  (nextQueue c g).map fun e =>
    let n := min burst (min (startable false false e.2.cmds) budget)
    ({ g with pairs := mput e.1 { e.2 with cmds := startList n e.2.cmds } g.pairs, ptr := mput c e.1 g.ptr }, n)

/-- Class 0 is served strictly first (R363, R364). -/
def roundUrgent (burst : Nat) : Nat → Nat → Gqp → Gqp × Nat
  | 0, budget, g => (g, budget)
  | fuel + 1, budget, g =>
    if budget = 0 then (g, 0)
    else
      match turn 0 burst budget g with
      | none => (g, budget)
      | some (g, n) => roundUrgent burst fuel (budget - n) g

/-- Whether a class from 1 to 3 is ready. -/
def classReady (g : Gqp) (c : Nat) : Bool := (nextQueue c g).isSome

/-- The other classes by weighted round robin (R364). -/
def roundWeighted (burst : Nat) (weight : Nat → Nat) : Nat → Nat → Gqp → Gqp
  | 0, _, g => g
  | fuel + 1, budget, g =>
    let ready := [1, 2, 3].filter fun c => classReady g c
    if budget = 0 ∨ ready.isEmpty then g
    else
      let g := if ready.any fun c => mgetD 0 c g.credit != 0 then g
        else { g with credit := [(1, weight 1), (2, weight 2), (3, weight 3)] }
      match ready.find? fun c => mgetD 0 c g.credit != 0 with
      | none => g
      | some c =>
        match turn c burst budget g with
        | none => g
        | some (g, n) => roundWeighted burst weight fuel (budget - n) { g with credit := mmodD 0 c (· - 1) g.credit }

/-- ARBITRATION_ROUND (R364): up to 128 commands start. -/
def arbitrate (s : State) : State :=
  let burst := 2 ^ param 0x0801 2 s
  let weight (c : Nat) : Nat := if c = 1 then param 0x0802 8 s else if c = 2 then param 0x0803 4 s else param 0x0804 1 s
  let x := roundUrgent burst 128 128 s.gqp
  { s with gqp := roundWeighted burst weight 128 x.2 x.1 }

/-- Count the boundaries at which the in-flight limit holds (R365). -/
def countLimit (s : State) : State :=
  modGqp (fun g =>
    if 65536 ≤ inFlightTotal s then { g with limitBeats := g.limitBeats + 1 }
    else { g with limitBeats := 0, limitReported := false }) s

/-- Delete a queue pair (R345): cause 1 by command, 2 by link loss or PERST_N, 3 by QP error. A started command whose pieces are
abandoned ends with a status that is free, but for Success. -/
def deleteQueue (qid cause : Nat) (path : Option BcsPath) (s : State) : State :=
  match queueOf qid s with
  | none => s
  | some q =>
    if q.deleting.isSome then s
    else
      let s := modQ qid (fun q => { q with deleting := some cause, deletePath := path, ring := [], notices := [] }) s
      let s := (q.cmds.filter fun c => c.started && c.running && !c.pieces.isEmpty).foldl
        (fun s c =>
          if eOpcode c.entry = 0x02 ∨ eOpcode c.entry = 0x03 ∨ eOpcode c.entry = 0x04 then
            failFrom qid c.cid 0 (1 + (drawn s).toNat % 65535) (advance s) else s) s
      let s := modGqp (fun g => { g with transfers := g.transfers.filter fun t => t.2.qid != qid }) s
      let s := (q.cmds.filter fun c => !c.started).foldl
        (fun s c => complete qid c.cid 0x0003 [] (modQ qid (fun q => { q with
          cmds := q.cmds.map fun x => if x.cid == c.cid && !x.started then { x with started := true } else x }) s)) s
      let s := match queueOf qid s with
        | some q => (q.cmds.filter fun c => c.running && c.status != 0 && settled c).foldl
            (fun s c => complete qid c.cid c.status (runResult c) s) s
        | none => s
      finishDelete qid s

/-- Delete every memory queue pair of a head (R345); queue 0 stops when its owner's link goes down (R354). -/
def dropHeadQueues (head : Nat) (s : State) : State :=
  let s := (s.gqp.pairs.filter fun e => e.1 != 0 && e.2.transport == 0 && e.2.headNum == head).foldl
    (fun s e => deleteQueue e.1 2 none s) s
  if s.gqp.aq.en ∧ s.gqp.aq.owner = head then modGqp (fun g => { g with aq := { g.aq with en := false, fatal := false } }) s else s

/-- Delete the queue pairs that a QP carries, when it enters the error state (R345). -/
def dropQpQueues (qpn : Nat) (s : State) : State :=
  (s.gqp.pairs.filter fun e => e.2.transport == 1 && e.2.qpn == qpn).foldl (fun s e => deleteQueue e.1 3 none s) s

/-- Run a body on a command that has started and not run, of the opcodes that `ok` names. -/
def withCmd (qid cid : Nat) (ok : Bytes → Bool) (body : QueuePair → GqpCmd → State → State) (s : State) : State :=
  match queueOf qid s with
  | none => s
  | some q =>
    match findCmd false cid q with
    | none => s
    | some c => if ok c.entry then body q c s else s

/-- Fail a command with a status before any byte moves. -/
def refuseCmd (qid cid status : Nat) (s : State) : State := complete qid cid status [] s

/-- Note that a command runs, with its pieces. -/
def runCmd (qid cid : Nat) (l : List Piece) (s : State) : State :=
  modCmd qid cid (fun c => { c with running := true, pieces := l }) s

end Sys2Proof.Machine
end

