-- ==== Sys2Proof/Machine/Capture.lean ====
section
/-! DEFINITION. Operations of capture: filter rules, records, the ring and its parts, staging, and what a beat boundary does for a ring
(10_capture_replay R379 to R403). -/

namespace Sys2Proof.Machine

/-- Change capture and replay. -/
def modCap (f : Cap → Cap) (s : State) : State := { s with cap := f s.cap }

/-- The ring of a port; an instrument port has one from start-up on. -/
def ringOf (p : Nat) (s : State) : Ring := mgetD {} p s.cap.rings

/-- Change a ring. -/
def modRing (p : Nat) (f : Ring → Ring) (s : State) : State := modCap (fun c => { c with rings := mmodD {} p f c.rings }) s

/-- Whether a port has the instrument role (08_remote_access R289). -/
def isInstrument (p : Nat) (s : State) : Bool :=
  match mget p s.net.ports with
  | some e => e.instrument
  | none => false

/-- A ring enters a state, with event 0x0901 (R401, R419). -/
def enterRing (p st cause : Nat) (s : State) : State :=
  let r := ringOf p s
  if r.state = st then s
  else
    raise 0x0901 .info (le 1 p ++ le 1 st ++ le 1 cause ++ zeros 5 ++ le 8 r.write ++ le 8 r.durable)
      (modRing p (fun r => { r with state := st, cause := if st = 6 then cause else r.cause }) s)

/-- Whether a term of a rule matches a frame (R384): the offset, mask and value stand at `o` in the rule. -/
def termHits (rule : Bytes) (o v : Nat) (frame : Bytes) : Bool :=
  (List.range 16).all fun i =>
    ((frame.getD (fld o 2 rule + i) 0) &&& (rule.getD (o + 8 + i) 0)) == rule.getD (v + i) 0

/-- Whether a rule hits a frame (R383, R384). -/
def ruleHits (rule : Bytes) (f : InstrFrame) : Bool :=
  let fl := fld 1 1 rule
  let hi := fld 6 2 rule
  fld 0 1 rule != 0 && termHits rule 16 40 f.bytes && termHits rule 56 80 f.bytes && decide (fld 4 2 rule ≤ f.wireLen) &&
    (hi == 0 || decide (f.wireLen ≤ hi)) && !(bitOf 0 fl && f.fcsGood) && !(bitOf 1 fl && !f.fcsGood)

/-- What the rules decide for a frame (R385): the deciding action with its slice length, RULE_HITS, and whether a rule with TRIGGER
hit. -/
def runRules (dflt : Nat × Nat) (f : InstrFrame) : Nat → List Bytes → (Nat × Nat) × Nat × Bool
  | _, [] => (dflt, 0, false)
  | i, r :: rest =>
    if ruleHits r f then
      let t := bitOf 2 (fld 1 1 r)
      if fld 0 1 r = 4 then
        let x := runRules dflt f (i + 1) rest
        (x.1, x.2.1 + 2 ^ i, x.2.2 || t)
      else ((fld 0 1 r, fld 2 2 r), 2 ^ i, t)
    else runRules dflt f (i + 1) rest

/-- Padded size of a record (R391). -/
def recordSize (cap : Nat) : Nat := 32 + (cap + 31) / 32 * 32

/-- A record (R391): header with its CHECK, stored bytes, padding. -/
def recordBytes (ts wire cap port status dropped hits rseq : Nat) (stored : Bytes) : Bytes :=
  let h := le 8 ts ++ le 2 wire ++ le 2 cap ++ le 1 port ++ le 1 status ++ le 2 dropped ++ le 8 hits ++ le 4 rseq
  let c := if bitOf 7 status then crc32cN (h ++ stored) else crc32cN h
  h ++ le 4 c ++ padTo (recordSize cap - 32) stored

/-- The header of a pad record over `n` bytes (R392). -/
def padBytes (n : Nat) : Bytes := recordBytes 0 0 (n - 32) 0xFF 0 0 0 0 []

/-- Region offset of a logical offset of the data area. -/
def dataAt (c : RingConf) (x : Nat) : Nat := c.dataOff + x % c.dataSize

/-- Chunks of the ring's region that a logical range of the data area touches; the range does not wrap. -/
def ringChunks (c : RingConf) (x n : Nat) (s : State) : List Nat :=
  let o := dataAt c x
  (List.range ((o + n + 65535) / 65536 - o / 65536)).filterMap fun i => lcnOf c.region ((o / 65536 + i) * 65536) s

/-- The chunk whose staging a ring uses. -/
def stagedAt (lcn : Nat) (s : State) : Option StagedChunk := s.cap.chunks.find? fun c => c.lcn == lcn

/-- Whether a staged chunk takes no further byte of its pass (R396). -/
def chunkFull (c : StagedChunk) : Bool := decide (65536 ≤ c.filled)

/-- Bytes staged and not yet programmed (R398). -/
def chunkBacklog (c : StagedChunk) : Nat := c.filled - c.programmed

/-- The staged backlog of all rings. -/
def backlogAll (s : State) : Nat := (s.cap.chunks.map chunkBacklog).sum

/-- The staged backlog of a port's ring. -/
def backlogOf (p : Nat) (s : State) : Nat := ((s.cap.chunks.filter fun c => c.port == p).map chunkBacklog).sum

/-- S of R398: the staged share of 01_architecture R28 in bytes per beat, the journal drain rate taken over the last 1,024 beats. -/
def stagedShare (s : State) : Nat := min 56320 (58880 - s.cap.drainLast / 1024)

/-- Whether the staging has chunks for a logical range (R396, R400). -/
def stagingHas (c : RingConf) (x n : Nat) (s : State) : Bool :=
  let new := (ringChunks c x n s).filter fun l => (stagedAt l s).isNone
  decide (s.cap.chunks.length + new.length ≤ s.cap.chunkLimit)

/-- Take a chunk into the staging: it starts with the bytes that the region holds there, and older copies of its lines are gone from the
shelf and from the recent-write map. -/
def claimChunk (p r lcn start : Nat) (s : State) : State :=
  match stagedAt lcn s with
  | some c =>
    if chunkFull c then
      modCap (fun k => { k with chunks := k.chunks.map fun x =>
        if x.lcn = lcn then { x with filled := start, programmed := start, durable := start, first := s.tb.beat } else x }) s
    else s
  | none =>
    let keys := (List.range 1024).map (· + lcn * 1024)
    let rl (k : Nat) : LineRead :=
      match (List.range 4096).findSome? fun e =>
          if lenOf r e s = some (k / 4194304) then some (e * 4194304 + k % 4194304) else none with
      | some line => (readLine r line s).getD ⟨0, true⟩
      | none => ⟨0, true⟩
    let data := keys.foldl (fun m k => memWriteLine k (rl k).data m) s.cap.staging
    let bad := keys.filter fun k => (rl k).poison
    let s := modCap (fun c => { c with
      staging := data, stagingPoison := bad.foldl (fun l k => setInsert k l) c.stagingPoison
      chunks := c.chunks ++ [{ lcn := lcn, port := p, filled := start, programmed := start, durable := start, first := s.tb.beat }] }) s
    let s := modPu (fun u => { u with copies := u.copies.filter fun c => chunkOfLine c.region c.line s != some lcn }) s
    modTi (fun t => { t with
      shelf := memErase (lcn * 65536) 65536 t.shelf
      shelfPoison := t.shelfPoison.filter fun k => k / 1024 != lcn
      segs := mmod (segmentOf lcn) (fun g => { g with
        dirty := bitOff (lcn % 32) g.dirty, valid := (chunkPages lcn).foldl (fun b i => bitOff i b) g.valid }) t.segs }) s

/-- Make the staging's chunks ready for a logical range. -/
def claimRange (p : Nat) (c : RingConf) (x n : Nat) (s : State) : State :=
  (ringChunks c x n s).zipIdx.foldl (fun s l => claimChunk p c.region l.1 (if l.2 = 0 then dataAt c x % 65536 else 0) s) s

/-- A staged chunk is filled up to a byte; the first record that is not programmed gives its age (R396, R398). -/
def takeStaged (beat last : Nat) (y : StagedChunk) : StagedChunk :=
  { y with filled := max y.filled last, first := if y.filled ≤ y.programmed then beat else y.first }

/-- Put bytes in the staging at a logical offset (R396). -/
def stageBytes (c : RingConf) (x : Nat) (b : Bytes) (full : Nat) (s : State) : State :=
  let o := dataAt c x
  let s := b.zipIdx.foldl (fun s v =>
    match lcnOf c.region (o + v.2) s with
    | some l => modCap (fun k => { k with staging := memWrite (l * 65536 + (o + v.2) % 65536) v.1 k.staging }) s
    | none => s) s
  let whole (k : Nat) : Bool := decide (o ≤ k * 64) && decide (k * 64 + 64 ≤ o + b.length)
  let lines := ((List.range (spanLines o b.length)).map (· + o / 64)).filter whole
  let keys := lines.filterMap fun l => lineKey c.region l s
  (ringChunks c x full s).zipIdx.foldl (fun s l =>
    let last := min 65536 (o + full - (o / 65536 + l.2) * 65536)
    modCap (fun k => { k with chunks := k.chunks.map fun y => if y.lcn = l.1 then takeStaged s.tb.beat last y else y }) s)
    (modCap (fun k => { k with stagingPoison := k.stagingPoison.filter fun q => !keys.contains q }) s)

/-- Mark staged lines as poisoned (12_integrity R452). -/
def poisonStaged (c : RingConf) (bad : List Nat) (s : State) : State :=
  bad.foldl (fun s l => match lineKey c.region l s with
    | some k => modCap (fun x => { x with stagingPoison := setInsert k x.stagingPoison }) s
    | none => s) s

/-- Whether a journaled write of a ring waits for admission. -/
def captureWaits (p : Nat) (s : State) : Bool :=
  s.pu.units.any fun u => u.phase == .waiting && match u.src with
    | .capture q _ _ => q == p
    | _ => false

/-- Bytes that the receive buffer holds (R382): the records not yet handed over, and journaled writes that wait for admission. -/
def bufferUsed (p : Nat) (s : State) : Nat :=
  (((ringOf p s).buffer.map fun b => b.bytes.length).sum) +
    ((s.pu.units.filter fun u => u.phase == .waiting && match u.src with
      | .capture q 0 _ => q == p
      | _ => false).map unitBytes).sum

/-- A frame is lost (R400): counted in the ring and in event 0x0902. -/
def dropFrame (p cause : Nat) (s : State) : State :=
  raiseLimited 0x0902 p .warning (fun n => le 1 p ++ le 1 cause ++ zeros 2 ++ le 4 n)
    (modRing p (fun r => { r with dropped := r.dropped + 1, dropsBefore := satAdd 0xFFFF r.dropsBefore 1 }) s)

/-- Advance TAIL over whole records until a size fits (R393, WRAP). -/
def wrapTail (size dataSize : Nat) (r : Ring) : List RingRec → Ring
  | [] => { r with records := [] }
  | x :: rest =>
    if r.write + size ≤ r.tail + dataSize then { r with records := x :: rest }
    else wrapTail size dataSize { r with tail := x.off + x.size } rest

/-- Move TAIL: the index records below it name overwritten records (R394). -/
def setTail (t : Nat) (r : Ring) : Ring :=
  { r with
    tail := t, records := r.records.filter fun x => decide (t ≤ x.off), index := r.index.filter fun x => decide (t ≤ x.2)
    durable := max r.durable t }

/-- Whether the index area has room for one more record (R394). -/
def indexRoom (c : RingConf) (r : Ring) : Bool :=
  match r.index with
  | [] => true
  | x :: _ => decide (r.indexNext + 32 ≤ x.1 + c.idxSize)

/-- Store a record of a frame (R391 to R393), with a pad record before it where it does not fit before the end of the data area. -/
def storeRecord (p : Nat) (c : RingConf) (act : Nat) (hits cap : Nat) (f : InstrFrame) (s : State) : State :=
  let r := ringOf p s
  let size := recordSize cap
  let left := c.dataSize - r.write % c.dataSize
  let pad := if left < size then left else 0
  let off := r.write + pad
  let check := bitOf 0 c.flags
  let status := b2n (!f.fcsGood) + 2 * b2n (decide (f.wireLen < 64)) + 4 * b2n (decide (16384 < f.wireLen ∧ cap = 16384)) +
    8 * b2n (act == 3 && decide (cap < f.wireLen)) + 16 * b2n f.pcsError + 32 * b2n (r.dropsBefore != 0) +
    64 * b2n (decide (s.tb.mode ≠ .locked)) + 128 * b2n check
  let stored := padTo cap f.bytes
  let bytes := recordBytes f.timestamp (min f.wireLen 65535) cap p status r.dropsBefore hits (r.rseq % 2 ^ 32) stored
  let s := if c.cls = 1 then claimRange p c off size (if pad = 0 then s else claimRange p c r.write pad s) else s
  modRing p (fun r =>
    { r with
      write := off + size
      records := r.records ++ (if pad = 0 then [] else [{ off := r.write, size := pad, beat := s.tb.beat, rseq := none }]) ++
        [{ off := off, size := size, beat := s.tb.beat, rseq := some (r.rseq % 2 ^ 32) }]
      buffer := r.buffer ++ (if pad = 0 then [] else [{ off := r.write, bytes := padBytes pad, beat := s.tb.beat }]) ++
        [{ off := off, bytes := bytes, beat := s.tb.beat, checkLeft := if check then cap else 0 }]
      rseq := r.rseq + 1, stored := r.stored + 1, dropsBefore := 0
      beatFirst := r.beatFirst.or (some off), beatCount := r.beatCount + 1 }) s

/-- Room in a ring for a record with the pad record before it (R392, R393): the ring with TAIL moved on in WRAP mode; none when it is
full. -/
def makeRoom (c : RingConf) (size : Nat) (r : Ring) : Option Ring :=
  let left := c.dataSize - r.write % c.dataSize
  let need := size + if left < size then left else 0
  if r.write + need ≤ r.tail + c.dataSize then some r
  else if c.mode = 1 then
    let w := wrapTail need c.dataSize r r.records
    some (setTail w.tail w)
  else none

/-- A frame that the rules keep: it is stored, or lost for one of the causes of R400. -/
def keepFrame (p : Nat) (c : RingConf) (act hits cap : Nat) (trigger : Bool) (f : InstrFrame) (s : State) : State :=
  let r := ringOf p s
  let size := recordSize cap
  if r.state = 5 then dropFrame p 4 s
  else if (r.state ≠ 3 ∧ r.state ≠ 4) ∨ r.stopping then dropFrame p 5 s
  else if 262144 < bufferUsed p s + size then dropFrame p (if captureWaits p s then 1 else 0) s
  else if c.cls = 1 ∧ bitOf 1 c.flags ∧ 16384 * stagedShare s < backlogAll s then dropFrame p 3 s
  else
    match makeRoom c size r with
    | none => dropFrame p 4 (enterRing p 5 0 s)
    | some r' =>
      if c.cls = 1 ∧ !stagingHas c r.write (size + (if c.dataSize - r.write % c.dataSize < size then c.dataSize - r.write % c.dataSize else 0)) s
        then dropFrame p 2 s
      else
        let s := storeRecord p c act hits cap f (modRing p (fun _ => r') s)
        if r.state = 4 then modRing p (fun r => { r with postLeft := r.postLeft - 1, stopping := decide (r.postLeft ≤ 1) }) s
        else if trigger ∧ bitOf 2 c.flags then
          modRing p (fun r => { r with postLeft := c.post, stopping := c.post == 0 }) (enterRing p 4 0 s)
        else s

/-- INSTRUMENT_FRAME (R379 to R385, R388, R391 to R393, R400): a frame is filtered, and stored or dropped. -/
def execInstrumentFrame (port : Nat) (frame : InstrFrame) (s : State) : Host.Outcome State Fault Refusal :=
  let r := ringOf port s
  match r.conf with
  | none => .next s
  | some c =>
    if !isInstrument port s then .next s
    else
      let x := runRules (c.defaultAction, c.defaultSlice) frame 0 r.rules
      if x.1.1 = 2 then .next s
      else
        let cap := if x.1.1 = 3 then min (min frame.wireLen x.1.2) 16384 else min frame.wireLen 16384
        .next (keepFrame port c x.1.1 x.2.1 cap x.2.2 frame s)

/-- Cut a logical range of an area at the wrap of the area: (logical offset, length). -/
def wrapCuts (size x n : Nat) : List (Nat × Nat) :=
  let left := size - x % size
  if n ≤ left then [(x, n)] else [(x, left), (x + left, n - left)]

/-- Lines of the ring's region that records in error touch (12_integrity R452). -/
def poisonedOf (c : RingConf) (l : List BufRec) : List Nat :=
  (l.filter (·.poison)).flatMap fun b => (List.range (spanLines (dataAt c b.off) b.bytes.length)).map (· + dataAt c b.off / 64)

/-- Write a run of record bytes of a journaled ring (R395): one write, divided at each 1 MiB of its own bytes. -/
def journalRun (p : Nat) (c : RingConf) (bad : List Nat) (x : Nat) (b : Bytes) (s : State) : State :=
  (pieces false x b.length).foldl (fun s q =>
    (wrapCuts c.dataSize (x + q.1) q.2).foldl (fun s w =>
      let u := newUnit (.capture p 0 (w.1 + w.2)) .general c.region (markPoison bad (cutLines (dataAt c w.1) (slice (w.1 - x) w.2 b))) s
      submitUnit { u with capture := true } s) s) s

/-- The runs of bytes that records form: each record begins where the one before ends. -/
def joinRuns : List BufRec → List (Nat × Nat × Bytes)
  | [] => []
  | b :: r =>
    match joinRuns r with
    | (o, t, d) :: rest => if b.off + b.bytes.length = o ∧ b.beat = t then (b.off, t, b.bytes ++ d) :: rest else (b.off, b.beat, b.bytes) :: (o, t, d) :: rest
    | [] => [(b.off, b.beat, b.bytes)]

/-- Records at the head of the buffer that need no more checking. -/
def readyRecords (l : List BufRec) : List BufRec := l.takeWhile fun b => b.checkLeft == 0

/-- The region that a ring writes accepts its writes. -/
def ringWritable (c : RingConf) (s : State) : Bool :=
  match regionOf c.region s with
  | some d => writable d && d.seat == s.ident.controllerId && d.state == .online
  | none => false

/-- A ring's region has turned read-only: the records not yet written are refused with path 3, and the ring goes back to what it had
written (R402). -/
def refuseRecords (p : Nat) (c : RingConf) (s : State) : State :=
  match (ringOf p s).buffer with
  | [] => s
  | b :: _ =>
    refuseWrite c.region 3 (dataAt c b.off)
      (modRing p (fun r =>
        { r with
          buffer := [], write := b.off, records := r.records.filter fun x => decide (x.off < b.off)
          rseq := (((r.records.filter fun x => decide (b.off ≤ x.off)).filterMap (·.rseq)).head?).getD r.rseq
          beatFirst := none, beatCount := 0 }) s)

/-- Hand over the records that are ready at a boundary (R381, R395, R396). -/
def flushRing (p : Nat) (c : RingConf) (s : State) : State :=
  let l := readyRecords (ringOf p s).buffer
  if l.isEmpty then s
  else if !ringWritable c s then refuseRecords p c s
  else
    let s' := modRing p (fun r => { r with buffer := r.buffer.drop l.length }) s
    if c.cls = 0 then (joinRuns l).foldl (fun s x => journalRun p c (poisonedOf c l) x.1 x.2.2 s) s'
    else poisonStaged c (poisonedOf c l) (l.foldl (fun s b => stageBytes c b.off b.bytes (max b.bytes.length
        ((((ringOf p s).records.find? fun r => r.off == b.off).map (·.size)).getD 0)) s) s')

/-- The index record of the ending beat (R394). -/
def writeIndex (p : Nat) (c : RingConf) (s : State) : State :=
  let r := ringOf p s
  match r.beatFirst with
  | none => s
  | some first =>
    let h := le 8 s.tb.beat ++ le 8 s.tb.beatStart ++ le 8 first ++ le 4 r.beatCount
    let b := h ++ le 4 (crc32cN h)
    let s := modRing p (fun r => { r with
      beatFirst := none, beatCount := 0, index := r.index ++ [(r.indexNext, first)], indexNext := r.indexNext + 32 }) s
    let s := if ringWritable c s then
        submitWrite (.capture p 1 (r.indexNext + 32)) c.region (c.idxOff + r.indexNext % c.idxSize) b [] s
      else s
    let r := ringOf p s
    if c.mode = 0 ∧ !indexRoom c r ∧ (r.state = 3 ∨ r.state = 4) then enterRing p 5 0 s
    else if c.mode = 1 ∧ !indexRoom c r then modRing p (fun r => { r with index := r.index.drop 1 }) s
    else s

/-- Whether the bytes of a staged record are durable (R396). -/
def stagedDurable (c : RingConf) (x : RingRec) (s : State) : Bool :=
  let o := dataAt c x.off
  (ringChunks c x.off x.size s).zipIdx.all fun l =>
    match stagedAt l.1 s with
    | some y => decide (min 65536 (o + x.size - (o / 65536 + l.2) * 65536) ≤ y.durable)
    | none => true

/-- Note which records of a staged ring have become durable. -/
def noteDurable (c : RingConf) (s : State) (r : Ring) : Ring :=
  if c.cls = 1 then
    { r with records := r.records.map fun x =>
        if x.durable then x
        else { x with durable := !(r.buffer.any fun b => b.off == x.off) && stagedDurable c x s } }
  else r

/-- The end of the longest durable run of records from an offset (R397). -/
def durableRun : Nat → List RingRec → Nat
  | x, [] => x
  | x, r :: rest => if r.durable ∧ r.off = x then durableRun (r.off + r.size) rest else x

/-- RSEQ of the first record at or above DURABLE (R397). -/
def nextRseq (r : Ring) : Nat :=
  (((r.records.filter fun x => decide (r.durable ≤ x.off)).filterMap (·.rseq)).head?).getD (r.rseq % 2 ^ 32)

/-- The control block (R397). -/
def controlBytes (p : Nat) (c : RingConf) (r : Ring) : Bytes :=
  let h := le 4 1 ++ le 1 p ++ le 1 c.cls ++ le 1 c.mode ++ zeros 1 ++ le 8 r.epoch ++ le 8 r.tail ++ le 8 r.durable ++
    le 8 r.indexNext ++ le 4 (nextRseq r) ++ zeros 12 ++ le 4 (min r.dropped 0xFFFFFFFF)
  h ++ le 4 (crc32cN h)

/-- Write the control block (R397). -/
def writeControl (p : Nat) (c : RingConf) (s : State) : State :=
  let r := ringOf p s
  let s := modRing p (fun r => { r with written := (r.durable, r.tail, r.indexNext) }) s
  submitWrite (.capture p 2 0) c.region c.control (controlBytes p c r) [] s

/-- DURABLE at a boundary (R397), with the control block when something has changed. -/
def advanceDurable (p : Nat) (c : RingConf) (s : State) : State :=
  let s := modRing p (fun r => let r := noteDurable c s r; { r with durable := max r.durable (durableRun r.tail r.records) }) s
  let r := ringOf p s
  if (r.durable, r.tail, r.indexNext) ≠ r.written ∧ ringWritable c s then writeControl p c s else s

/-- Halt causes of R402. -/
def haltCause (c : RingConf) (s : State) : Option Nat :=
  match regionOf c.region s with
  | none => some 2
  | some d =>
    if d.state ≠ .online ∨ d.seat ≠ s.ident.controllerId ∨ d.roReasons.getLsbD 2 then some 2
    else if d.roReasons ≠ 0 then some 1 else none

/-- RING_HALT (R402): a running ring halts when its region no longer serves it. -/
def haltRing (p : Nat) (c : RingConf) (s : State) : State :=
  let r := ringOf p s
  if r.state = 3 ∨ r.state = 4 then
    match haltCause c s with
    | some k => enterRing p 6 k (modRing p (fun r => { r with stopping := false }) s)
    | none => s
  else s

/-- A ring that is stopping enters STOPPED once its records are written (R414). -/
def settleRing (p : Nat) (s : State) : State :=
  let r := ringOf p s
  if r.stopping ∧ r.buffer.isEmpty then enterRing p 1 0 (modRing p (fun r => { r with stopping := false }) s) else s

/-- STATUS data (R415). -/
def ringStatus (p : Nat) (r : Ring) (s : State) : Bytes :=
  le 1 r.state ++ le 1 ((r.conf.map (·.cls)).getD 0) ++ le 1 r.cause ++ le 1 ((r.conf.map (·.mode)).getD 0) ++
    le 4 r.rules.length ++ le 8 r.write ++ le 8 r.durable ++ le 8 r.tail ++ le 8 r.stored ++ le 8 r.dropped ++
    le 8 (backlogOf p s) ++ le 8 (s.tb.beat + 1)

/-- What a beat boundary does for a ring: hand over its records, write the index record, advance DURABLE and write the control block,
stop or halt, and sample its STATUS (R394 to R397, R402, R414). -/
def ringBoundary (p : Nat) (s : State) : State :=
  let s :=
    match (ringOf p s).conf with
    | none => s
    | some c => settleRing p (haltRing p c (advanceDurable p c (writeIndex p c (flushRing p c s))))
  modRing p (fun r => { r with sample := ringStatus p r s }) s

/-- A capture write has been acknowledged (R395): the records of its range are durable. -/
def captureAcked (p kind upTo : Nat) (s : State) : State :=
  if kind = 0 then
    modRing p (fun r => { r with records := r.records.map fun x => if x.off + x.size ≤ upTo then { x with durable := true } else x }) s
  else s

/-- The journal drain rate is taken over windows of 1,024 beats (01_architecture R28). -/
def drainWindow (s : State) : State :=
  if (s.tb.beat + 1) % 1024 = 0 then modCap (fun c => { c with drainLast := c.drainNow, drainNow := 0 }) s else s

end Sys2Proof.Machine
end

