-- ==== Sys2Proof/Machine/TierCmds.lean ====
section
/-! DEFINITION. Meanings of the shelf and cabinet commands (04_tiers). -/

namespace Sys2Proof.Machine

/-- A read or fill that finds its LUN busy may suspend the operation there (R140): a program twice, an erase eight times, with
200 µs (391 beats) of running time between suspends. -/
def suspendFor (a : Nat) (s : State) : State :=
  match mget (addrLun a) s.ti.lunOps with
  | none => s
  | some o =>
    if decide (o.suspends < (if o.erase then 8 else 2)) && decide (o.suspends = 0 ∨ o.resumedAt + 391 ≤ s.tb.beat) then
      modTi (fun t => { t with lunOps := mput (addrLun a) { o with suspends := o.suspends + 1, resumedAt := s.tb.beat } t.lunOps }) s
    else s

/-- The chunk that a request missed in a segment, or the segment's first. -/
def missedChunk (seg : Nat) (s : State) : Nat := ((s.ti.slotWaiters.find? fun l => segmentOf l == seg)).getD (seg * 32)

/-- SEGMENT_FILL (R117): the slot is pinned, and the chunks are read with the missed one first. -/
def startFill (seg missed : Nat) (s : State) : State :=
  let order := missed :: ((List.range 32).map fun i => seg * 32 + i).filter (· != missed)
  let s := match mget missed s.ti.map with
    | some e => if e.state = 1 ∨ e.state = 3 then suspendFor e.addr s else s
    | none => s
  modTi (fun t => { t with
    segs := mmod seg (fun g => touchSlot (ageNow s) t.touchCount { g with filling := true, pins := g.pins + 1 }) t.segs
    touchCount := t.touchCount + 1
    fills := t.fills ++ [{ segment := seg, chunks := order }] }) s

/-- SEGMENT_SLOT_REQUEST (R114 to R117): the segment gets a slot and its fill starts, or the request waits. -/
def execSegmentSlotRequest (segment : Nat) (s : State) : Host.Outcome State Fault Refusal :=
  if mhas segment s.ti.segs then .next s
  else
    let missed := missedChunk segment s
    match ensureSlot segment s with
    | none => .next (waitSlot missed s)
    | some s =>
      let s := modTi (fun t => { t with slotWaiters := t.slotWaiters.filter fun l => segmentOf l != segment }) s
      .next (startFill segment missed s)

/-- SLOT_WAIT_LIMIT (R116): a request has waited for a slot for more than 1,024 beats. -/
def execSlotWaitLimit (s : State) : Host.Outcome State Fault Refusal :=
  if decide (1024 < s.ti.slotWaitBeats) && !s.ti.slotWaitReported then
    let pinned := (s.ti.segs.filter fun e => e.2.pins != 0).length
    let dirty := (s.ti.segs.filter fun e => e.2.dirty != 0).length
    .next (raise 0x030A .warning (le 4 pinned ++ le 4 dirty) (modTi (fun t => { t with slotWaitReported := true }) s))
  else .next s

/-- PAGE_ARRIVAL (R117, R118): a page of a fill becomes valid with the content of its chunk; the fill ends with its last page. -/
def execPageArrival (segment page : Nat) (s : State) : Host.Outcome State Fault Refusal :=
  let lcn := segment * 32 + page / 16
  if 512 ≤ page ∨ !(s.ti.fills.any fun f => f.segment == segment) then .next s
  else
    match chunkFill lcn s with
    | none => .next s
    | some c =>
      let s := modTi (loadPages lcn [page] c) s
      if (mgetD {} segment s.ti.segs).valid = 2 ^ 512 - 1 then
        .next (modTi (fun t => { t with
          fills := t.fills.filter fun f => f.segment != segment
          segs := mmod segment (fun g => { g with filling := false, pins := g.pins - 1 }) t.segs }) s)
      else .next s

/-- The slot that stands at a place of the segment cache. -/
def slotAt (place : Nat) (s : State) : Option (Nat × SegSlot) := s.ti.segs.find? fun e => e.2.phys == place

/-- A page of the shelf fails (R118): its 2 MiB slot is mapped out. A slot in the segment cache is lost to it; one of another partition is
replaced from the segment cache. A segment with dirty chunks moves to another slot, its damaged lines being 12_integrity's matter. -/
def mapOut (slot partition : Nat) (s : State) : State :=
  if s.ti.mappedOut.contains slot ∨ 5 ≤ partition then s
  else
    let s := modTi (fun t => { t with mappedOut := setInsert slot t.mappedOut }) s
    let s := if partition ≠ 4 then s
      else
        match slotAt slot s with
        | none => s
        | some (seg, g) =>
          if g.dirty = 0 then modTi (dropSegment seg) s
          else modTi (fun t => { t with segs := mmod seg (fun g => { g with phys := freePhys t }) t.segs }) s
    let s := if slotCount s < s.ti.segs.length then
        match victimSlot s.ti.segs with
        | some v => modTi (dropSegment v.1) s
        | none => s
      else s
    noteSpare 2 (raise 0x030B .warning (le 4 slot ++ le 1 partition) s)

/-- SHELF_PAGE_FAILURE (R118). -/
def execShelfPageFailure (slot partition : Nat) (s : State) : Host.Outcome State Fault Refusal := .next (mapOut slot partition s)

/-- The lines of a chest record that the recent-write map still names, with their logical line keys. -/
def toPlace (r : JRec) (s : State) : List (Nat × LineWrite) :=
  r.lines.zipIdx.filterMap fun x =>
    if s.pu.copies.any fun c => c.place == .chest r.seq x.2 then
      (lineKey x.1.region x.1.lw.line s).map fun k => (k, x.1.lw)
    else none

/-- DRAIN_PLACEMENT (R119, 03_persistence R86, R103): the lowest record not yet placed goes to the shelf, its pages filled first where
they must be; its entries of the recent-write map retire. Without a slot or a chunk it waits. -/
def execDrainPlacement (seq : Nat) (s : State) : Host.Outcome State Fault Refusal :=
  match s.pu.chest.find? fun r => !r.placed with
  | none => .next s
  | some r =>
    if r.seq ≠ seq then .next s
    else
      let ws := toPlace r s
      match placeLines seq ws s with
      | none => .next (ws.foldl (fun s w => if mhas (w.1 / 32768) s.ti.segs then s else waitSlot (w.1 / 1024) s) s)
      | some s =>
        .next (modPu (fun p => { p with
          chest := p.chest.map fun q => if q.seq = seq then { q with placed := true } else q
          copies := p.copies.filter fun c =>
            match c.place with
            | .chest q _ => q != seq
            | _ => true }) s)

/-- CHECKPOINT_START (R128): 512 MiB of MAP records since the last START_SEQ, or 2^26 beats and a MAP record, or a trigger that came
during the last checkpoint. -/
def execCheckpointStart (s : State) : Host.Outcome State Fault Refusal :=
  if s.ti.ckpt.isSome then .next s
  else if decide (536870912 ≤ s.ti.mapBytes) || (decide (s.ti.ckptBeat + 67108864 ≤ s.tb.beat) && decide (0 < s.ti.mapBytes)) ||
      s.ti.ckptAgain then
    .next (startCkpt (modTi (fun t => { t with ckptAgain := false }) s))
  else .next s

/-- Entries of the pages that a checkpoint wrote replace those of the previous root (R127, step 3). -/
def patchImage (old new : AMap MapEntry) (pages : List Nat) : AMap MapEntry :=
  ((new.filter fun e => pages.contains (e.1 / 8192)).foldl (fun m e => mput e.1 e.2 m)
    (old.filter fun e => !pages.contains (e.1 / 8192)))

/-- CHECKPOINT_COMPLETE (R127, R129): the CHECKPOINT record is complete in the chest. Its root takes over, older MAP, META and
CHECKPOINT records become reclaimable, and a trigger that came meanwhile starts the next. -/
def execCheckpointComplete (s : State) : Host.Outcome State Fault Refusal :=
  match s.ti.ckpt with
  | none => .next s
  | some c =>
    if s.pu.chest.any fun r => match r.kind with
        | .checkpoint b => b.number == c.number
        | _ => false then
      let s := modTi (fun t => { t with
        ckpt := none, ckptStart := c.startSeq, ckptMap := patchImage t.ckptMap c.image c.pages, ckptMeta := c.snapshot }) s
      let s := raise 0x0301 .info
        (le 8 c.number ++ le 8 c.startSeq ++ le 4 c.pages.length ++ le 4 (s.tb.beat - c.beat)) s
      let s := reclaimAdvance s
      .next (if s.ti.ckptAgain then startCkpt (modTi (fun t => { t with ckptAgain := false }) s) else s)
    else .next s

/-- Close a row; a stripe whose last row closes is CLOSED (R134, R135). -/
def closeRow (k row : Nat) (s : State) : State :=
  let s := modStripe k (fun x => { x with rows := mmod row (fun r => { r with closed := true }) x.rows }) s
  let x := stripeAt k s
  if (List.range s.ident.pagesPerBlock).all fun i => (mgetD { first := 0 } i x.rows).closed then
    modTi (fun t => { t with stripeClock := t.stripeClock + 1 })
      (modStripe k (fun x => { x with state := .closed, closedOrder := s.ti.stripeClock }) s)
  else s

/-- ROW_CLOSE (R132, R135): every data member of the row is programmed, and P and Q after them. -/
def execRowClose (position block row : Nat) (s : State) : Host.Outcome State Fault Refusal :=
  let k := stripeKey position block
  let x := stripeAt k s
  match mget row x.rows with
  | none => .next s
  | some r => if rowFull block x r && !r.closed then .next (closeRow k row s) else .next s

/-- The address of a stripe's member in a row. -/
def memberAddr (channel position block row : Nat) (s : State) : Nat :=
  (channel * 32 + position) * 2 ^ 22 + block * s.ident.pagesPerBlock + row

/-- ROW_CLOSE_TIMEOUT (R135): 32,768 beats after its first program a row is filled with filler chunks and closed. -/
def execRowCloseTimeout (position block row : Nat) (s : State) : Host.Outcome State Fault Refusal :=
  let k := stripeKey position block
  let x := stripeAt k s
  match mget row x.rows with
  | none => .next s
  | some r =>
    if !r.closed && decide (r.first + 32768 ≤ s.tb.beat) then
      let rest := (dataMembers block x).filter fun c => !r.members.contains c
      let s := rest.foldl (fun s c =>
        let a := memberAddr c position block row s
        markProgrammed a (modTi (fun t => { t with chunkMeta := mput a { lcn := 0, kind := 1, erases := x.erases } t.chunkMeta }) s)) s
      .next (closeRow k row s)
    else .next s

/-- Unreclaimed log lines of the chest. -/
def unreclaimedLines (s : State) : Nat :=
  ((s.pu.chest.filter fun r => decide (s.pu.reclaimSeq ≤ r.seq)).map (recLines s.pu)).sum

/-- Whether a dirty chunk is held back for coalescing (R137): changed in the last 2,048 beats while the chest holds less than a
quarter of its size, and not moved to the head of the order. -/
def heldBack (lcn : Nat) (g : SegSlot) (s : State) : Bool :=
  !s.ti.wbHead.contains lcn && decide (s.tb.beat < mgetD 0 lcn g.changed + 2048) &&
    decide (4 * unreclaimedLines s < logLines s.pu)

/-- Dirty chunks that may be written back, with the lowest SEQ they hold. -/
def wbReady (s : State) : List (Nat × Nat) :=
  s.ti.segs.flatMap fun e =>
    ((chunksOfBits e.1 e.2.dirty).filter fun c => !heldBack c e.2 s && !(s.ti.inFlight.any fun w => w.lcn == c && !w.reloc)).map
      fun c => (c, mgetD 0 c e.2.low)

/-- Whether a chunk is next in the write-back order (R114, R137): the chunks moved to the head first, then ascending lowest SEQ. -/
def wbNext (lcn : Nat) (s : State) : Bool :=
  let ready := wbReady s
  let head := s.ti.wbHead.filter fun c => ready.any fun r => r.1 == c
  match head with
  | c :: _ => c == lcn
  | [] => ready.any fun r => r.1 == lcn && ready.all fun q => decide (r.2 ≤ q.2)

/-- The region of a chunk, where its descriptor exists. -/
def chunkRegion (lcn : Nat) (s : State) : Option (Nat × Region) :=
  (ownerOf lcn s).bind fun r => (regionOf r s).map fun d => (r, d)

/-- WRITE_BACK (R125, R132, R137, R145): the next dirty chunk is programmed at an address of an open data stripe. -/
def execWriteBack (lcn addr : Nat) (s : State) : Host.Outcome State Fault Refusal :=
  match chunkRegion lcn s, mget (segmentOf lcn) s.ti.segs with
  | some (r, d), some g =>
    if g.dirty.testBit (lcn % 32) && (d.isVolatile || wbNext lcn s) && !(s.ti.inFlight.any fun w => w.lcn == lcn && !w.reloc) &&
        canProgram .openData addr s && decide (2 ≤ (freeStripes (addrPosition addr) s).length) && canEncipher d s then
      let through := mgetD 0 lcn g.placed
      let from' := ((mget lcn s.ti.map).map (·.addr)).getD 0
      let s := openFor .openData addr s
      let s := markProgrammed addr (programChunk d r lcn addr through s)
      let s := { s with cap := { s.cap with drainNow := s.cap.drainNow + 65536 } }
      .next (modTi (fun t => { t with
        inFlight := t.inFlight ++ [{ lcn := lcn, addr := addr, fromAddr := from', through := through }]
        lunOps := mput (addrLun addr) { erase := false, resumedAt := s.tb.beat } t.lunOps
        wbHead := t.wbHead.filter (· != lcn)
        segs := mmod (segmentOf lcn) (fun g => { g with pins := g.pins + 1 }) t.segs }) s)
    else if g.dirty.testBit (lcn % 32) && decide (d.protect = .sealed) && !nonceReady s then .next (noteNonceWait s)
    else .next s
  | _, _ => .next s

/-- The address that a chunk's map entry names, zero for ZERO and LOST. -/
def entryAddr (lcn : Nat) (s : State) : Nat := ((mget lcn s.ti.map).map (·.addr)).getD 0

/-- A staged chunk's program has ended and its row has closed (10_capture_replay R396): its entry moves by a MAP record whose SEQ_DELTA
is 0, and its bytes are durable. A chunk that is durable whole leaves the staging. -/
def stagedComplete (w : CabWrite) (s : State) : State :=
  let u : MapUpd := { lcn := w.lcn, state := 1, addr := w.addr, dataSeq := s.pu.nextSeq, servesUnit := true }
  if !mapFits [u] s then s
  else
    let s := modTi (fun t => { t with
      inFlight := t.inFlight.filter fun x => !(x.lcn == w.lcn && x.staged), lunOps := mdel (addrLun w.addr) t.lunOps }) s
    let s := closeRec (ctlRec (.map [u]) s) (setMap w.lcn { state := 1, addr := w.addr, dataSeq := u.dataSeq } s)
    let done := decide (65536 ≤ w.through) && s.cap.chunks.any fun c => c.lcn == w.lcn && c.programmed == 65536
    { s with cap := { s.cap with
        chunks := (s.cap.chunks.map fun c => if c.lcn = w.lcn then { c with durable := max c.durable w.through } else c).filter
          fun c => !(done && c.lcn == w.lcn)
        staging := if done then memErase (w.lcn * 65536) 65536 s.cap.staging else s.cap.staging
        stagingPoison := if done then s.cap.stagingPoison.filter fun k => k / 1024 != w.lcn else s.cap.stagingPoison } }

/-- A write-back has ended and its row has closed (R136, R137, R138): the entry moves, by a MAP record for a persistent chunk, when it
still names the address the chunk came from; the chunk is clean when no line was placed since. -/
def writeBackDone (w : CabWrite) (d : Region) (s : State) : State :=
  let lcn := w.lcn
  let u : MapUpd := { lcn := lcn, state := if d.isVolatile then 3 else 1, addr := w.addr, dataSeq := w.through }
  if !d.isVolatile && !mapFits [u] s then s
  else
    let moved := entryAddr lcn s == w.fromAddr
    let s := modTi (fun t => { t with
      inFlight := t.inFlight.filter fun x => !(x.lcn == lcn && !x.reloc)
      lunOps := mdel (addrLun w.addr) t.lunOps
      segs := mmod (segmentOf lcn) (fun g =>
        { g with
          pins := g.pins - 1
          dirty := if moved && mgetD 0 lcn g.placed == w.through then bitOff (lcn % 32) g.dirty else g.dirty }) t.segs }) s
    if !moved then s
    else if d.isVolatile then modTi (fun t => { t with map := mput lcn { state := 3, addr := w.addr } t.map }) s
    else reclaimAdvance (journalMap [u] s)

/-- WRITE_BACK_COMPLETE (R136, R137, R138, 10_capture_replay R396): the row of a chunk that was programmed has closed. -/
def execWriteBackComplete (lcn : Nat) (s : State) : Host.Outcome State Fault Refusal :=
  match s.ti.inFlight.find? (fun w => w.lcn == lcn && !w.reloc), chunkRegion lcn s with
  | some w, some (_, d) =>
    if !rowClosed w.addr s then .next s else if w.staged then .next (stagedComplete w s) else .next (writeBackDone w d s)
  | _, _ => .next s

/-- RELOCATION_COMPLETE (R138, R144): a chunk that waits for relocation has been copied to an address of an OPEN_RELOC stripe and its
row has closed; its entry moves when it still names the old address, else the copy is discarded. -/
def execRelocationComplete (lcn addr : Nat) (s : State) : Host.Outcome State Fault Refusal :=
  match s.ti.inFlight.find? (fun w => w.lcn == lcn && w.reloc) with
  | none => .next s
  | some w =>
    let old := (mget lcn s.ti.map)
    let u : MapUpd := { lcn := lcn, state := 1, addr := addr, dataSeq := (old.map (·.dataSeq)).getD 0 }
    if !(canProgram .openReloc addr s && mapFits [u] s) then .next s
    else
      let s := openFor .openReloc addr s
      let s := markProgrammed addr (copyChunk w.fromAddr addr s)
      let s := modTi (fun t => { t with
        inFlight := t.inFlight.filter fun x => !(x.lcn == lcn && x.reloc)
        rebuilds := t.rebuilds.map fun r =>
          if r.lun == addrLun w.fromAddr then { r with relocated := r.relocated + 1 } else r }) s
      if namesAddr lcn w.fromAddr s then
        match old with
        | some e =>
          if e.state = 3 then .next (modTi (fun t => { t with map := mput lcn { e with addr := addr } t.map }) s)
          else .next (journalMap [u] s)
        | none => .next s
      else .next s

/-- Queue the valid chunks of a stripe for relocation. -/
def relocateStripe (k : Nat) (s : State) : State :=
  modTi (fun t => { t with
    inFlight := t.inFlight ++ ((validChunks k s).filter fun c => !(t.inFlight.any fun w => w.lcn == c.1 && w.reloc)).map
      fun c => { lcn := c.1, addr := 0, fromAddr := c.2, through := 0, reloc := true } }) s

/-- Retire a LUN-block (R133, R149): its member leaves the stripe, whose data moves; the retirement is logged. -/
def retireBlock (lun block cause : Nat) (s : State) : State :=
  let k := stripeKey (lun % 32) block
  let x := stripeAt k s
  if x.bad.contains (lun / 32) then s
  else
    let s := modStripe k (fun x => { x with bad := setInsert (lun / 32) x.bad }) s
    let s := modTi (fun t => { t with luns := mmodD {} lun (fun l => { l with retired := mput block ⟨s.tb.beat, cause, x.erases⟩ l.retired }) t.luns }) s
    let s := relocateStripe k s
    let s := if (goodMembers (stripeAt k s)).length < 16 then modStripe k (fun x => { x with state := .retired }) s else s
    let s := wearLog 0x0007 (le 2 lun ++ le 4 block ++ le 1 cause) s
    noteSpare 0 (evalOp (raise 0x0305 .info (le 2 lun ++ le 4 block ++ le 1 cause ++ zeros 1 ++ le 4 x.erases) s))

/-- A chunk is queued for relocation as wear management (R148); the third relocation of a block within one erase cycle retires
it (R149). -/
def relocateChunk (lcn : Nat) (s : State) : State :=
  match mget lcn s.ti.map with
  | none => s
  | some e =>
    let k := addrStripe e.addr s
    let n := mgetD 0 (addrChannel e.addr) (stripeAt k s).relocations + 1
    let s := modStripe k (fun x => { x with relocations := mput (addrChannel e.addr) n x.relocations }) s
    let s := if s.ti.inFlight.any fun w => w.lcn == lcn && w.reloc then s
      else modTi (fun t => { t with
        inFlight := t.inFlight ++ [{ lcn := lcn, addr := 0, fromAddr := e.addr, through := 0, reloc := true }] }) s
    if n = 3 then retireBlock (addrLun e.addr) (addrBlock e.addr s) 2 s else s

/-- Whether a chunk is resident and clean in the shelf, whole. -/
def cleanResident (lcn : Nat) (s : State) : Bool :=
  match mget (segmentOf lcn) s.ti.segs with
  | some g => (chunkPages lcn).all (fun p => g.valid.testBit p) && !g.dirty.testBit (lcn % 32)
  | none => false

/-- CHUNK_LOST (R139, step 4): rewritten from a clean shelf copy, or LOST by a MAP record. -/
def loseChunk (lcn : Nat) (e : MapEntry) (s : State) : State :=
  let region := (ownerOf lcn s).getD 0
  if cleanResident lcn s then
    raise 0x0B02 .warning (le 1 4 ++ le 1 2 ++ le 2 region ++ zeros 4 ++ le 8 e.addr)
      (modTi (fun t => { t with
        segs := mmod (segmentOf lcn) (fun g =>
          { g with dirty := bitsOn [lcn % 32] g.dirty, placed := mput lcn e.dataSeq g.placed, low := mput lcn e.dataSeq g.low }) t.segs
        wbHead := t.wbHead ++ [lcn] }) s)
  else
    raise 0x0308 .error (le 5 lcn ++ zeros 1 ++ le 2 region ++ le 8 e.addr)
      (journalMap [{ lcn := lcn, state := 2, addr := 0, dataSeq := e.dataSeq }] s)

/-- The region offset of a chunk of a region. -/
def chunkOffset (r lcn : Nat) (s : State) : Option Nat :=
  match regionOf r s with
  | none => none
  | some d => ((List.range (d.size * 4096)).find? fun k => lcnOf r (k * 65536) s == some lcn).map (· * 65536)

/-- A cabinet read of a running region scrub that needed more than its first step is counted, with an entry (12_integrity R461, R462). -/
def scrubCabinet (lcn : Nat) (outcome : ReadOutcome) (s : State) : State :=
  let x := s.ecc.scrub
  if x.state = 1 ∧ x.target = 0 then
    match chunkOffset x.region lcn s with
    | none => s
    | some off =>
      if x.start < off + 65536 ∧ off < x.start + x.length then
        let add (kind detail : Nat) (x : Scrub) : Scrub :=
          if x.entries.length < 256 then { x with entries := x.entries ++ [⟨off, 3, kind, x.region, detail⟩] } else x
        match outcome with
        | .retry l => { s with ecc := { s.ecc with scrub := add 3 l { x with cabRetry := x.cabRetry + 1 } } }
        | .reconstructed => { s with ecc := { s.ecc with scrub := add 4 0 { x with cabRecon := x.cabRecon + 1 } } }
        | .lost =>
          if cleanResident lcn s then { s with ecc := { s.ecc with scrub := add 1 0 { x with recovered := x.recovered + 1024 } } }
          else { s with ecc := { s.ecc with scrub := add 2 0 { x with newly := x.newly + 1024 } } }
        | .hard => s
      else s
  else s

/-- CHUNK_READ_COMPLETE (R139, R147, R148): the read is counted on its stripe; a read that needed step 3, or step 2 at or beyond the
retry level of parameter 0x0305, relocates the chunk; a lost chunk is recovered or made LOST. -/
def execChunkReadComplete (lcn : Nat) (outcome : ReadOutcome) (s : State) : Host.Outcome State Fault Refusal :=
  match mget lcn s.ti.map with
  | none => .next s
  | some e =>
    if !(e.state == 1 || e.state == 3) then .next s
    else
      let s := modStripe (addrStripe e.addr s) (fun x => { x with reads := satAdd 0xFFFFFFFF x.reads 1 }) s
      let s := scrubCabinet lcn outcome s
      match outcome with
      | .hard => .next s
      | .retry l => .next (if param 0x0305 4 s ≤ l then relocateChunk lcn s else s)
      | .reconstructed => .next (relocateChunk lcn s)
      | .lost => if cleanResident lcn s || mapFits [{ lcn := lcn, state := 2, addr := 0, dataSeq := 0 }] s
          then .next (loseChunk lcn e s) else .next s

/-- CLOSED stripes of a LUN position. -/
def closedStripes (j : Nat) (s : State) : List (Nat × Stripe) :=
  s.ti.stripes.filter fun e => e.1 / 2 ^ 22 == j && e.2.state == .closed

/-- The stripe among `l` that comes first by a measure, ties by the order of closing. -/
def leastStripe (f : Nat → Nat) (l : List (Nat × Stripe)) : Option (Nat × Stripe) :=
  l.foldl (fun a e =>
    match a with
    | none => some e
    | some b => if f e.1 < f b.1 ∨ (f e.1 = f b.1 ∧ e.2.closedOrder < b.2.closedOrder) then some e else some b) none

/-- Take a stripe's chunks away: relocate the valid ones, or free it when it holds none (R144). -/
def clearStripe (k : Nat) (s : State) : State :=
  if (validChunks k s).isEmpty then modStripe k (fun x => { x with state := .free }) s else relocateStripe k s

/-- GARBAGE_COLLECTION (R144): while fewer than 8 stripes of the position are FREE, the CLOSED stripe with the fewest valid chunks, the
one closed earliest among equals, is emptied; a victim that holds no valid chunk becomes FREE. -/
def execGarbageCollection (position : Nat) (s : State) : Host.Outcome State Fault Refusal :=
  if 8 ≤ (freeStripes position s).length then .next s
  else
    match leastStripe (fun k => (validChunks k s).length) (closedStripes position s) with
    | none => .next s
    | some v => .next (clearStripe v.1 s)

/-- FREE_STRIPE_EXHAUSTED (R145): no position has a free stripe. -/
def execFreeStripeExhausted (position : Nat) (s : State) : Host.Outcome State Fault Refusal :=
  if (List.range s.ident.lunsPerChannel).all fun j => (freeStripes j s).isEmpty then
    .next (raise 0x0304 .warning (le 1 position ++ zeros 3 ++ le 4 0) s)
  else .next s

/-- Erase counts of the stripes of a position. -/
def eraseSpread (j : Nat) (s : State) : Nat :=
  let l := (List.range s.ident.blocksPerLun).map fun b => (stripeAt (stripeKey j b) s).erases
  l.foldl max 0 - l.foldl min (l.headD 0)

/-- WEAR_LEVEL_RELOCATION (R146): when the erase counts of a position differ by more than parameter 0x0303, the CLOSED stripe with the
lowest erase count is emptied as a victim. -/
def execWearLevelRelocation (position : Nat) (s : State) : Host.Outcome State Fault Refusal :=
  if param 0x0303 1000 s < eraseSpread position s then
    match leastStripe (fun k => (stripeAt k s).erases) (closedStripes position s) with
    | none => .next s
    | some v => .next (clearStripe v.1 s)
  else .next s

/-- READ_DISTURB_REFRESH (R147): a stripe whose read count has reached parameter 0x0304 is emptied. -/
def execReadDisturbRefresh (position block : Nat) (s : State) : Host.Outcome State Fault Refusal :=
  let k := stripeKey position block
  if param 0x0304 1000000 s ≤ (stripeAt k s).reads ∧ (stripeAt k s).state = .closed then .next (clearStripe k s) else .next s

/-- Stripes with a member on a LUN that hold chunks. -/
def stripesOfLun (lun : Nat) (s : State) : List Nat :=
  (s.ti.stripes.filter fun e => e.1 / 2 ^ 22 == lun % 32 && e.2.state != .free && e.2.state != .retired &&
    !e.2.bad.contains (lun / 32)).map (·.1)

/-- Order stripes with two lost members before those with one (R150). -/
def worstFirst (l : List Nat) (s : State) : List Nat :=
  (l.filter fun k => decide (2 ≤ (stripeAt k s).bad.length)) ++ l.filter fun k => decide ((stripeAt k s).bad.length < 2)

/-- A LUN has failed (R149, R150): every stripe loses its member there, and the rebuild begins. -/
def failLun (lun : Nat) (s : State) : State :=
  if (mgetD {} lun s.ti.luns).failed then s
  else
    let l := stripesOfLun lun s
    let s := (List.range s.ident.blocksPerLun).foldl (fun s b =>
      modStripe (stripeKey (lun % 32) b) (fun x => { x with bad := setInsert (lun / 32) x.bad }) s) s
    let order := worstFirst l s
    let s := order.foldl (fun s k => relocateStripe k s) s
    let s := modTi (fun t => { t with
      luns := mmodD {} lun (fun x => { x with failed := true }) t.luns
      rebuilds := t.rebuilds ++ [{ lun := lun, stripes := order }] }) s
    let s := wearLog 0x0007 (le 2 lun ++ le 4 0xFFFFFFFF ++ le 1 0) s
    noteSpare 0 (evalOp (raise 0x0306 .error (le 2 lun ++ zeros 2 ++ le 4 l.length) s))

/-- NAND_STATUS_FAILURE (R149): a program or erase status failure retires the block; 64 retirements of a LUN within 2^21 beats fail
it. -/
def execNandStatusFailure (lun block : Nat) (erase : Bool) (s : State) : Host.Outcome State Fault Refusal :=
  let s := retireBlock lun block (b2n erase) s
  let recent := (mgetD {} lun s.ti.luns).retired.filter fun e => decide (s.tb.beat ≤ e.2.beat + 2097152)
  .next (if 64 ≤ recent.length then failLun lun s else s)

/-- LUN_FAILURE (R149, R150): a LUN stops responding. -/
def execLunFailure (lun : Nat) (s : State) : Host.Outcome State Fault Refusal := .next (failLun lun s)

/-- REBUILD_COMPLETE (R150): no chunk of the rebuilt stripes waits for relocation any more. -/
def execRebuildComplete (lun : Nat) (s : State) : Host.Outcome State Fault Refusal :=
  match s.ti.rebuilds.find? fun r => r.lun == lun with
  | none => .next s
  | some r =>
    if s.ti.inFlight.any fun w => w.reloc && r.stripes.contains (addrStripe w.fromAddr s) then .next s
    else
      .next (raise 0x0307 .info (le 2 lun ++ zeros 2 ++ le 4 r.relocated)
        (modTi (fun t => { t with rebuilds := t.rebuilds.filter fun x => x.lun != lun }) s))

/-- OP_EVALUATION (R152, 05_regions R182, R184): every 65,536 beats. -/
def execOpEvaluation (s : State) : Host.Outcome State Fault Refusal :=
  if s.ti.opBeat + 65536 ≤ s.tb.beat then .next (noteSpare 0 (evalOp s)) else .next s

end Sys2Proof.Machine
end

