-- ==== Sys2Proof/Machine/CaptureCmds.lean ====
section
/-! DEFINITION. Meanings of the capture commands: Capture Control, its timed actions, and the programs of staged chunks
(10_capture_replay R386 to R403, R414, R415). -/

namespace Sys2Proof.Machine

/-- A Capture Control or Replay Control command, from a queue or embedded in C060h and C061h (R414): who waits, the access domain, the
entry and the data in. -/
structure CtlAct where
  frm : CtlFrom
  dom : Nat
  entry : Bytes
  data : Bytes
deriving DecidableEq, Repr, Inhabited

/-- The action code: CDW5 byte 0. -/
def actCode (e : Bytes) : Nat := fld 20 1 e

/-- The port or channel index: CDW5 byte 1. -/
def actIndex (e : Bytes) : Nat := fld 21 1 e

/-- The bytes of data in (R414). -/
def actDataIn (e : Bytes) : Nat := if actCode e = 1 ∨ (eOpcode e = 0x10 ∧ actCode e = 2) then eLength e else 0

/-- The action has succeeded (R414): RESULT and the data out. -/
def ctlDone (f : CtlFrom) (result out : Bytes) (s : State) : State :=
  match f with
  | .bcs p op => success p op (padTo 16 result ++ out) s
  | .gqp qid cid =>
    match queueOf qid s with
    | none => s
    | some q =>
      match q.cmds.find? fun c => c.cid == cid && c.started with
      | none => s
      | some c => complete qid cid 0 result (if out.isEmpty then s else sendOut qid (eDptr c.entry) q c out s)
  | .nobody => s

/-- The action has failed with a GQP status; `off` is the failing field of the entry (R414). -/
def ctlFail (f : CtlFrom) (status off : Nat) (s : State) : State :=
  match f with
  | .bcs p op => if status = 2 then invalid p op off s else answer p op 0x0004 [] s
  | .gqp qid cid => complete qid cid status [] s
  | .nobody => s

/-- The action waits for a boundary: a queue command is noted as running. -/
def ctlWait (f : CtlFrom) (s : State) : State :=
  match f with
  | .bcs _ _ => s
  | .gqp qid cid => runCmd qid cid [] s
  | .nobody => s

/-- Run a body when every field is valid (R414). -/
def ctlChecked (a : CtlAct) (fields : List (Bool × Nat)) (body : State → State) (s : State) : State :=
  match firstBad fields with
  | some off => ctlFail a.frm 2 off s
  | none => body s

/-- Checks of the fields that an action does not name, and of LENGTH (R414). -/
def plainFields (e : Bytes) (region : Bool) (lenOk : Bool) (used : List (Nat × Nat)) : List (Bool × Nat) :=
  [(zeroAt 22 2 e, 22), (region || eRegion e == 0, 4), (region || eOffset e == 0, 8), (lenOk, 16), (cspecZero used e, 32)]

/-- The boundary that AT_BEAT names: 0 the next one, else a later beat (R414). -/
def atBeat (e : Bytes) (s : State) : Nat := if eArg e = 0 then s.tb.beat + 1 else eArg e

/-- Whether AT_BEAT is valid. -/
def atBeatOk (e : Bytes) (s : State) : Bool := eArg e == 0 || decide (s.tb.beat < eArg e)

/-- The ring configuration that 64 bytes spell (R387). -/
def ringConfOf (region control : Nat) (b : Bytes) : RingConf :=
  { region := region, control := control, cls := fld 0 1 b, mode := fld 1 1 b, flags := fld 2 1 b, defaultAction := fld 3 1 b
    defaultSlice := fld 4 2 b, dataOff := fld 8 8 b, dataSize := fld 16 8 b, idxOff := fld 24 8 b, idxSize := fld 32 8 b
    post := fld 40 4 b }

/-- The encodings of a ring configuration (R387). -/
def ringConfOk (b : Bytes) (c : RingConf) : Bool :=
  decide (c.cls < 2) && decide (c.mode < 2) && decide (c.flags < 16) && decide (1 ≤ c.defaultAction ∧ c.defaultAction ≤ 3) &&
    (if c.defaultAction = 3 then decide (1 ≤ c.defaultSlice ∧ c.defaultSlice ≤ 16384) else c.defaultSlice == 0) && zeroAt 6 2 b &&
    decide (c.dataOff % 2 ^ 21 = 0 ∧ c.dataSize % 2 ^ 21 = 0 ∧ 2 ^ 22 ≤ c.dataSize) &&
    decide (c.idxOff % 2 ^ 21 = 0 ∧ c.idxSize % 2 ^ 21 = 0 ∧ 2 ^ 21 ≤ c.idxSize) && (bitOf 2 c.flags || c.post == 0) && zeroAt 44 20 b

/-- The three parts of a ring. -/
def ringParts (c : RingConf) : List (Nat × Nat) := [(c.control, 64), (c.dataOff, c.dataSize), (c.idxOff, c.idxSize)]

/-- Whether parts of two rings share a byte. -/
def partsOverlap (a b : List (Nat × Nat)) : Bool := a.any fun x => b.any fun y => overlaps x.1 x.2 y.1 y.2

/-- Whether the three parts of a ring lie apart from one another and from every other configured ring (R389). -/
def partsApart (p : Nat) (c : RingConf) (s : State) : Bool :=
  !overlaps c.control 64 c.dataOff c.dataSize && !overlaps c.control 64 c.idxOff c.idxSize &&
    !overlaps c.dataOff c.dataSize c.idxOff c.idxSize &&
    s.cap.rings.all fun e =>
      match e.2.conf with
      | none => true
      | some d => e.1 == p || d.region != c.region || !partsOverlap (ringParts c) (ringParts d)

/-- Whether the region can hold the ring (R389). -/
def ringRegionOk (dom : Nat) (c : RingConf) (s : State) : Bool :=
  match regionOf c.region s with
  | none => false
  | some d =>
    d.state == .online && !d.isVolatile && d.roReasons == 0 && d.seat == s.ident.controllerId && mayWrite dom d &&
      !(c.cls == 1 && (d.mirrored || s.cap.chunkLimit == 0)) &&
      decide (c.control % 64 = 0) && (ringParts c).all fun x => inRegion d x.1 x.2

/-- The records that an adopted ring holds from TAIL up to DURABLE (R403), read from their headers. -/
def adoptRecords (c : RingConf) (s : State) : Nat → Nat → Nat → List RingRec
  | 0, _, _ => []
  | n + 1, x, top =>
    if top ≤ x then []
    else
      let h := readBytes c.region (dataAt c x) 32 s
      let pad := fld 12 1 h == 0xFF
      let size := if pad then 32 + fld 10 2 h else recordSize (fld 10 2 h)
      { off := x, size := size, beat := 0, rseq := if pad then none else some (fld 24 4 h), durable := true } ::
        adoptRecords c s n (x + size) top

/-- The ring that an existing control block gives (R403); none when the block does not fit the configuration. -/
def adoptRing (p : Nat) (c : RingConf) (s : State) : Option Ring :=
  let b := readBytes c.region c.control 64 s
  if (poisonedLines c.region c.control 64 s).isEmpty ∧ fld 60 4 b = crc32cN (b.take 60) ∧ fld 0 4 b = 1 ∧ fld 4 1 b = p ∧
      fld 5 1 b = c.cls ∧ fld 6 1 b = c.mode then
    some { conf := some c, state := 1, write := fld 24 8 b, tail := fld 16 8 b, durable := fld 24 8 b, indexNext := fld 32 8 b
           rseq := fld 40 4 b, stored := fld 40 4 b, epoch := fld 8 8 b, dropped := fld 56 4 b
           records := adoptRecords c s ((fld 24 8 b - fld 16 8 b) / 32) (fld 16 8 b) (fld 24 8 b)
           written := (fld 24 8 b, fld 16 8 b, fld 32 8 b) }
  else none

/-- A ring takes a configuration (R387, R403): it is STOPPED. -/
def takeConf (a : CtlAct) (p : Nat) (c : RingConf) (r : Ring) (fresh : Bool) (s : State) : State :=
  let old := ringOf p s
  let s := modRing p (fun _ => { r with state := old.state, rules := old.rules, newRules := old.newRules, sample := old.sample }) s
  let s := enterRing p 1 0 s
  let s := if fresh then writeControl p c s else s
  ctlDone a.frm (le 8 r.write) [] s

/-- CONFIGURE (R387, R389, R403). -/
def doCaptureConfigure (a : CtlAct) (s : State) : State :=
  let e := a.entry
  let p := actIndex e
  let c := ringConfOf (eRegion e) (eOffset e) a.data
  let st := (ringOf p s).state
  ctlChecked a
    ([(isInstrument p s && !(st == 2 || st == 3 || st == 4), 21)] ++ plainFields e true (eLength e == 64) [] ++
      [(ringConfOk a.data c, 64), (ringRegionOk a.dom c s, 4), (partsApart p c s, 64)])
    (fun s =>
      if bitOf 3 c.flags then
        match adoptRing p c s with
        | none => ctlFail a.frm 2 8 s
        | some r => takeConf a p c r false s
      else takeConf a p c { conf := some c, state := 1 } true s) s

/-- The fields of a filter rule (R383, R384). -/
def ruleOk (b : Bytes) : Bool :=
  let fl := fld 1 1 b
  let subset (m v : Nat) : Bool := (List.range 16).all fun i => ((b.getD (v + i) 0) &&& ~~~ (b.getD (m + i) 0)) == 0
  decide (fld 0 1 b ≤ 4) && decide (fl < 8) && !(bitOf 0 fl && bitOf 1 fl) &&
    (if fld 0 1 b = 3 then decide (1 ≤ fld 2 2 b ∧ fld 2 2 b ≤ 16384) else fld 2 2 b == 0) &&
    (fld 6 2 b == 0 || decide (fld 4 2 b ≤ fld 6 2 b)) && zeroAt 8 8 b && decide (fld 16 2 b ≤ 496) && zeroAt 18 6 b &&
    decide (fld 56 2 b ≤ 496) && zeroAt 58 6 b && subset 24 40 && subset 64 80

/-- Add a timed rule set, START or STOP to a ring. -/
def waitRing (p : Nat) (a : CtlAct) (f : Ring → Ring) (s : State) : State := ctlWait a.frm (modRing p f s)

/-- SET_RULES (R383, R386, R414). -/
def doSetRules (a : CtlAct) (s : State) : State :=
  let e := a.entry
  let p := actIndex e
  let l := chunksOf 96 a.data
  let n := eLength e / 96
  ctlChecked a
    ([(isInstrument p s && (ringOf p s).state != 0, 21)] ++
      plainFields e false (decide (eLength e % 96 = 0 ∧ 1 ≤ n ∧ n ≤ 64)) [(32, 40)] ++ [(atBeatOk e s, 32), (l.all ruleOk, 64)])
    (fun s => waitRing p a (fun r => { r with newRules := r.newRules ++ [(l, ⟨atBeat e s, a.frm⟩)] }) s) s

/-- START (R414): the ring is ARMED until its beat. -/
def doCaptureStart (a : CtlAct) (s : State) : State :=
  let e := a.entry
  let p := actIndex e
  let st := (ringOf p s).state
  ctlChecked a
    ([(isInstrument p s && st != 0 && st != 3 && st != 4, 21)] ++ plainFields e false (eLength e == 0) [(32, 41)] ++
      [(atBeatOk e s, 32), (decide (fld 40 1 e < 2), 40)])
    (fun s => enterRing p 2 0 (waitRing p a (fun r => { r with startAt := r.startAt ++ [(fld 40 1 e == 1, ⟨atBeat e s, a.frm⟩)] }) s)) s

/-- STOP (R414). -/
def doCaptureStop (a : CtlAct) (s : State) : State :=
  let e := a.entry
  let p := actIndex e
  ctlChecked a
    ([(isInstrument p s && (ringOf p s).state != 0, 21)] ++ plainFields e false (eLength e == 0) [(32, 40)] ++ [(atBeatOk e s, 32)])
    (fun s => waitRing p a (fun r => { r with stopAt := r.stopAt ++ [⟨atBeat e s, a.frm⟩] }) s) s

/-- STATUS (R415): the sample of the last boundary. -/
def doCaptureStatus (a : CtlAct) (s : State) : State :=
  let e := a.entry
  let p := actIndex e
  ctlChecked a ([(isInstrument p s, 21)] ++ plainFields e false (eLength e == 64) [])
    (fun s => ctlDone a.frm [] (padTo 64 (ringOf p s).sample) s) s

/-- RELEASE (R393, R414): TAIL moves at the next boundary. -/
def doRelease (a : CtlAct) (s : State) : State :=
  let e := a.entry
  let p := actIndex e
  let r := ringOf p s
  let t := fld 40 8 e
  let stopOnFull := match r.conf with
    | some c => c.mode == 0
    | none => false
  ctlChecked a
    ([(isInstrument p s && stopOnFull, 21)] ++ plainFields e false (eLength e == 0) [(40, 48)] ++
      [(decide (t % 32 = 0 ∧ r.tail ≤ t ∧ t ≤ r.durable), 40)])
    (fun s => waitRing p a (fun r => { r with releaseTo := r.releaseTo ++ [(t, ⟨s.tb.beat + 1, a.frm⟩)] }) s) s

/-- The action that a queue command carries, run when its pointer and its data fit (R346, R348, R414). -/
def runAct (opcode code qid cid : Nat) (data : Bytes) (body : CtlAct → State → State) (s : State) : State :=
  withCmd qid cid (fun e => eOpcode e == opcode && actCode e == code) (fun q c s =>
    let e := c.entry
    if !headerOk q c || (ePtrKind e == 2 && actDataIn e == 0) || !dataFits c (eLength e) then refuseCmd qid cid 2 s
    else body ⟨.gqp qid cid, q.domain, e, hostBytes c data (actDataIn e)⟩ s) s

/-- CAPTURE_CONFIGURE (R387, R389, R403, R414). -/
def execCaptureConfigure (qid cid : Nat) (data : Bytes) (s : State) : Host.Outcome State Fault Refusal :=
  .next (runAct 0x10 1 qid cid data doCaptureConfigure s)

/-- SET_RULES (R383, R386, R414). -/
def execSetRules (qid cid : Nat) (data : Bytes) (s : State) : Host.Outcome State Fault Refusal :=
  .next (runAct 0x10 2 qid cid data doSetRules s)

/-- CAPTURE_START (R414). -/
def execCaptureStart (qid cid : Nat) (s : State) : Host.Outcome State Fault Refusal := .next (runAct 0x10 3 qid cid [] doCaptureStart s)

/-- CAPTURE_STOP (R414). -/
def execCaptureStop (qid cid : Nat) (s : State) : Host.Outcome State Fault Refusal := .next (runAct 0x10 4 qid cid [] doCaptureStop s)

/-- CAPTURE_STATUS (R415). -/
def execCaptureStatus (qid cid : Nat) (s : State) : Host.Outcome State Fault Refusal := .next (runAct 0x10 5 qid cid [] doCaptureStatus s)

/-- RELEASE (R393, R414). -/
def execRelease (qid cid : Nat) (s : State) : Host.Outcome State Fault Refusal := .next (runAct 0x10 6 qid cid [] doRelease s)

/-- A capture action by its code (R414); other codes are Invalid Field. -/
def captureAct (a : CtlAct) (s : State) : State :=
  match actCode a.entry with
  | 1 => doCaptureConfigure a s
  | 2 => doSetRules a s
  | 3 => doCaptureStart a s
  | 4 => doCaptureStop a s
  | 5 => doCaptureStatus a s
  | 6 => doRelease a s
  | _ => ctlFail a.frm 2 20 s

/-- CAPTURE_CONTROL (C060h, R414): the embedded entry runs as from access domain 0. -/
def execCaptureControl (path : BcsPath) (input : Bytes) (s : State) : Host.Outcome State Fault Refusal :=
  let e := input.take 64
  .next (bcs path 0xC060 input (decide (64 ≤ input.length) && input.length == 64 + actDataIn e) (fun s =>
    if eOpcode e ≠ 0x10 then invalid path 0xC060 0 s else captureAct ⟨.bcs path 0xC060, 0, e, input.drop 64⟩ s) s)

/-- RULE_SET_ACTIVATION (R386): the rule sets that are due replace the old one, in order. -/
def execRuleSetActivation (port : Nat) (s : State) : Host.Outcome State Fault Refusal :=
  match (ringOf port s).newRules.find? fun x => decide (x.2.beat ≤ s.tb.beat) with
  | none => .next s
  | some x =>
    let s := modRing port (fun r => { r with rules := x.1, newRules := r.newRules.erase x }) s
    .next (ctlDone x.2.waiter (le 8 x.2.beat) []
      (raise 0x0904 .info (le 1 port ++ le 1 x.1.length ++ zeros 6 ++ le 8 x.2.beat) s))

/-- The ring emptied by a START with RESET (R414). -/
def resetRing (beat : Nat) (r : Ring) : Ring :=
  { r with
    tail := r.write, durable := r.write, records := [], buffer := [], index := [], rseq := 0, epoch := beat, stored := 0, dropped := 0
    dropsBefore := 0, beatFirst := none, beatCount := 0 }

/-- RING_START_BEAT (R381, R401, R414): the ring captures from its start beat on. -/
def execRingStartBeat (port : Nat) (s : State) : Host.Outcome State Fault Refusal :=
  match (ringOf port s).startAt.find? fun x => decide (x.2.beat ≤ s.tb.beat) with
  | none => .next s
  | some x =>
    let s := modRing port (fun r =>
      let r := { r with startAt := r.startAt.erase x, cause := 0, stopping := false }
      if x.1 then resetRing x.2.beat r else r) s
    .next (ctlDone x.2.waiter (le 8 x.2.beat) [] (enterRing port 3 0 s))

/-- RING_STOP_BEAT (R381, R401, R414): a capturing or full ring stops, and is STOPPED once its records are written. -/
def execRingStopBeat (port : Nat) (s : State) : Host.Outcome State Fault Refusal :=
  match (ringOf port s).stopAt.find? fun x => decide (x.beat ≤ s.tb.beat) with
  | none => .next s
  | some x =>
    let st := (ringOf port s).state
    let s := modRing port (fun r => { r with
      stopAt := r.stopAt.erase x, stopping := r.stopping || decide (st = 3 ∨ st = 4 ∨ st = 5) }) s
    .next (ctlDone x.waiter (le 8 x.beat) [] (settleRing port s))

/-- TAIL_RELEASE (R393, R414): space is freed, and a FULL ring returns to RUNNING. -/
def execTailRelease (port : Nat) (s : State) : Host.Outcome State Fault Refusal :=
  match (ringOf port s).releaseTo.find? fun x => decide (x.2.beat ≤ s.tb.beat) with
  | none => .next s
  | some x =>
    let s := modRing port (fun r => setTail (max x.1 r.tail) { r with releaseTo := r.releaseTo.erase x }) s
    let s := if (ringOf port s).state = 5 ∧ !(ringOf port s).stopping then enterRing port 3 0 s else s
    .next (ctlDone x.2.waiter (le 8 (ringOf port s).tail) [] s)

/-- Whether a staged chunk of a ring is to be programmed now: full, or not full 16,384 beats after the first record that has not been
programmed (R396, R398). -/
def programDue (full : Bool) (c : StagedChunk) (s : State) : Bool :=
  decide (c.programmed < c.filled) && !(s.ti.inFlight.any fun w => w.lcn == c.lcn && w.staged) &&
    (if full then chunkFull c else !chunkFull c && decide (c.first + 16384 ≤ s.tb.beat))

/-- Whether a chunk is ready for its program. -/
def programReady (c : StagedChunk) (s : State) : Bool := programDue true c s || programDue false c s

/-- The ring whose turn it is among those with a chunk ready, in round robin (R396). -/
def turnOfRing (s : State) : Option Nat :=
  (((List.range 16).map fun i => (s.cap.lastRing + 1 + i) % 16).find? fun p =>
    s.cap.chunks.any fun c => c.port == p && programReady c s)

/-- Program a staged chunk (R396): it takes an address of an open data stripe. -/
def programCapture (full : Bool) (p lcn addr : Nat) (s : State) : State :=
  match stagedAt lcn s, chunkRegion lcn s with
  | some c, some (r, d) =>
    if c.port == p && programDue full c s && turnOfRing s == some p && canProgram .openData addr s &&
        decide (2 ≤ (freeStripes (addrPosition addr) s).length) then
      if !canEncipher d s then if d.protect = .sealed ∧ !nonceReady s then noteNonceWait s else s
      else
        let old := entryAddr lcn s
        let s := markProgrammed addr (programStaged d r lcn addr (openFor .openData addr s))
        let s := modTi (fun t => { t with
          inFlight := t.inFlight ++ [{ lcn := lcn, addr := addr, fromAddr := old, through := c.filled, staged := true }]
          lunOps := mput (addrLun addr) { erase := false, resumedAt := s.tb.beat } t.lunOps }) s
        modCap (fun k => { k with
          lastRing := p, chunks := k.chunks.map fun x => if x.lcn = lcn then { x with programmed := c.filled } else x }) s
    else s
  | _, _ => s

/-- STAGED_CHUNK_PROGRAM (R396): a full staged chunk is programmed. -/
def execStagedChunkProgram (port chunk addr : Nat) (s : State) : Host.Outcome State Fault Refusal :=
  .next (programCapture true port chunk addr s)

/-- STAGED_CHUNK_TIMEOUT (R396): a chunk that is not full 16,384 beats after its first record is programmed partly full. -/
def execStagedChunkTimeout (port chunk addr : Nat) (s : State) : Host.Outcome State Fault Refusal :=
  .next (programCapture false port chunk addr s)

/-- STAGED_BACKLOG_EXCEEDED (R399): the backlog stands above 16,384 times S; reported again only after it has fallen back. -/
def execStagedBacklogExceeded (s : State) : Host.Outcome State Fault Refusal :=
  if decide (16384 * stagedShare s < backlogAll s) && !s.cap.backlogHigh then
    .next (raise 0x0903 .warning (le 8 (backlogAll s) ++ le 4 (stagedShare s)) (modCap (fun c => { c with backlogHigh := true }) s))
  else .next s

/-- The report of the backlog is armed again once the backlog has fallen back (R399). -/
def settleBacklog (s : State) : State :=
  if backlogAll s ≤ 16384 * stagedShare s then modCap (fun c => { c with backlogHigh := false }) s else s

end Sys2Proof.Machine
end

