-- ==== Sys2Proof/Machine/Replay.lean ====
section
/-! DEFINITION. Operations of replay: steps, the fetch of a program's records, the frames they give, the schedule, underruns and stops
(10_capture_replay R404 to R413). -/

namespace Sys2Proof.Machine

/-- A replay channel. -/
def channelOf (c : Nat) (s : State) : Channel := mgetD {} c s.cap.channels

/-- Change a channel. -/
def modChan (c : Nat) (f : Channel → Channel) (s : State) : State := modCap (fun k => { k with channels := mmodD {} c f k.channels }) s

/-- Change where the fetch stands. -/
def modPos (c : Nat) (f : ReplayPos → ReplayPos) (s : State) : State := modChan c (fun x => { x with fetch := f x.fetch }) s

/-- A channel enters a state, with event 0x0905 (R413, R419). -/
def enterChannel (c st cause : Nat) (s : State) : State :=
  let x := channelOf c s
  if x.state = st then s
  else
    raise 0x0905 .info (le 1 c ++ le 1 st ++ le 1 cause ++ zeros 1 ++ le 4 x.curStep ++ le 8 s.tb.beat)
      (modChan c (fun x => { x with state := st }) s)

/-- A channel stops (R413): nothing more is sent; DONE for cause 1, STOPPED for every other. A START that waits is completed as
aborted. -/
def stopChannel (c cause : Nat) (s : State) : State :=
  let x := channelOf c s
  let s := modChan c (fun x => { x with
    cause := cause, items := [], due := [], stopAfter := none, startAt := none, fetch := { x.fetch with ended := true } }) s
  let s := enterChannel c (if cause = 1 then 6 else 7) cause s
  match x.startAt with
  | some t => ctlFail t.waiter 3 0 s
  | none => s

/-- Whether a channel is at work: ARMED, RUNNING or UNDERRUN. -/
def channelBusy (x : Channel) : Bool := x.state == 3 || x.state == 4 || x.state == 5

/-- KIND of a step (R404). -/
def sKind (b : Bytes) : Nat := fld 0 1 b

/-- TIMING. -/
def sTiming (b : Bytes) : Nat := fld 1 1 b

/-- REGION. -/
def sRegion (b : Bytes) : Nat := fld 2 2 b

/-- REPEAT. -/
def sRepeat (b : Bytes) : Nat := fld 4 4 b

/-- OFFSET. -/
def sOffset (b : Bytes) : Nat := fld 8 8 b

/-- LENGTH, or TARGET of a LOOP. -/
def sLength (b : Bytes) : Nat := fld 16 4 b

/-- WINDOW. -/
def sWindow (b : Bytes) : Nat := fld 20 4 b

/-- PERIOD. -/
def sPeriod (b : Bytes) : Nat := fld 24 4 b

/-- Whether a step at an index keeps to R404. -/
def stepOk (i : Nat) (b : Bytes) : Bool :=
  if sKind b = 1 then
    decide (sTiming b < 3) && decide (sRegion b < 4096) && sRepeat b != 0 && decide (sOffset b % 32 = 0) &&
      decide (sLength b % 32 = 0 ∧ 32 ≤ sLength b) && (if sTiming b = 0 then sPeriod b == 0 else sPeriod b != 0) && zeroAt 28 4 b
  else if sKind b = 2 then zeroAt 1 3 b && zeroAt 8 8 b && decide (sLength b < i) && zeroAt 20 12 b
  else if sKind b = 3 then zeroAt 1 31 b
  else false

/-- Core cycles that bytes take on the wire of a port (R408): 1,024 cycles carry 64 bytes for each Gb/s. -/
def wireCycles (port n : Nat) (s : State) : Nat :=
  let perBeat := 50 * 2 ^ (mgetD {} port s.net.ports).speed * 64
  (n * 1024 + perBeat - 1) / max perBeat 1

/-- The bytes of the gap list that a step needs (R406). -/
def gapBytes (b : Bytes) : Nat := if sTiming b = 2 then 4 * sPeriod b else 0

/-- Entry j of the gap list. -/
def gapAt (p : ReplayPos) (b : Bytes) (j : Nat) : Nat := fld (4 * (j % max (sPeriod b) 1)) 4 p.gaps

/-- The launch offset of the record at the fetch position (R406). -/
def launchOffset (p : ReplayPos) (b : Bytes) (ts : Nat) : Nat :=
  if sTiming b = 1 then p.k * sPeriod b
  else if sTiming b = 2 then p.gapSum
  else if p.k = 0 then 0 else (ts - p.first) / 2

/-- The position at the start of the repeat or the step that follows (R407): WINDOW beats later, or the first beat that begins once the
last frame has left the wire. -/
def nextStart (p : ReplayPos) (b : Bytes) : Nat :=
  if sWindow b = 0 then max p.start ((p.wireEnd + 1023) / 1024) else p.start + sWindow b

/-- The position at the start of a repeat. -/
def restart (p : ReplayPos) (start : Nat) : ReplayPos :=
  { p with k := 0, off := 0, start := start, lastAt := start * 1024, wireEnd := start * 1024, first := 0, gapSum := 0 }

/-- The position at the start of a step. -/
def enterStep (p : ReplayPos) (i start : Nat) : ReplayPos :=
  { restart p start with step := i, rep := 0, bufOff := 0, buf := [], bufBad := [], gaps := [] }

/-- Whether all repeats of a step are served from one staged copy (R409). -/
def oneCopy (b : Bytes) (s : State) : Bool := decide (2 * sLength b ≤ s.cap.stagingPerChannel)

/-- Go on to where the next record or the end stands: past the end of a pattern, through LOOP steps (R404). `n` bounds the moves of one
fetch. -/
def settlePos (prog : List Bytes) (s : State) : Nat → ReplayPos → ReplayPos
  | 0, p => p
  | n + 1, p =>
    match prog[p.step]? with
    | none => p
    | some b =>
      if sKind b = 2 then
        let done := mgetD 0 p.step p.loops
        if sRepeat b ≠ 0 ∧ sRepeat b ≤ done then
          settlePos prog s n (enterStep { p with loops := mdel p.step p.loops } (p.step + 1) p.start)
        else settlePos prog s n (enterStep { p with loops := mput p.step (done + 1) p.loops } (sLength b) p.start)
      else if sKind b = 1 ∧ sLength b < p.off + 32 then
        if p.rep + 1 < sRepeat b then
          let q := { restart p (nextStart p b) with rep := p.rep + 1 }
          settlePos prog s n (if oneCopy b s then q else { q with bufOff := 0, buf := [], bufBad := [] })
        else settlePos prog s n (enterStep p (p.step + 1) (nextStart p b))
      else p

/-- Whether the fetch has come to the end of the program. -/
def atEnd (prog : List Bytes) (p : ReplayPos) : Bool :=
  match prog[p.step]? with
  | none => true
  | some b => sKind b == 3

/-- The wire bytes of a frame (R405): the stored frame with its FCS replaced, kept, or added, and short frames padded. The result ends
with the FCS; the second part says whether the FCS is to be computed. -/
def frameOf (x : Channel) (h stored : Bytes) : Bytes × Bool :=
  let cut := bitOf 3 (fld 13 1 h) || bitOf 2 (fld 13 1 h)
  let body :=
    if cut then (if bitOf 0 x.flags then stored ++ zeros (fld 8 2 h - 4 - stored.length) else stored)
    else stored.take (stored.length - 4)
  if !cut ∧ x.fcsMode = 1 then
    if stored.length < 64 then (padTo 60 body, true) else (stored, false)
  else (if body.length < 60 then padTo 60 body else body, true)

/-- The FCS of a frame, in the order in which its bytes are sent. -/
def fcsOf (body : Bytes) : Bytes := le 4 (crc32 body).toNat

/-- A frame as it goes on the wire (R405, R412): for a bad record the FCS is computed over the bytes as sent and inverted. -/
def wireFrame (f : Bytes × Bool) (invert : Bool) : Bytes :=
  if invert then
    let body := if f.2 then f.1 else f.1.take (f.1.length - 4)
    body ++ (fcsOf body).map (~~~ ·)
  else if f.2 then f.1 ++ fcsOf f.1 else f.1

/-- Add an element to a channel's schedule and move its fetch position on. -/
def pushItem (c : Nat) (i : ReplayItem) (p : ReplayPos) (s : State) : State :=
  modChan c (fun x => { x with items := x.items ++ [i], fetch := p }) s

/-- The item for a record that is sent: frame, schedule and staging (R405 to R407, R410, R412). -/
def recordItem (x : Channel) (b : Bytes) (p : ReplayPos) (h stored : Bytes) (bad : Bool) (s : State) : ReplayItem :=
  let l := launchOffset p b (fld 0 8 h)
  let verify := bitOf 1 x.flags && bitOf 7 (fld 13 1 h)
  let checkBad := verify && crc32cN (h.take 28 ++ stored) != fld 28 4 h
  let out := sWindow b != 0 && decide (sWindow b * 1024 ≤ l)
  let copied := oneCopy b s && p.rep != 0
  { kind := if out then .dropped else .frame
    step := p.step
    cyc := if out then (p.start + sWindow b) * 1024 - 1 else p.start * 1024 + l
    region := sRegion b, off := sOffset b + p.off, frame := wireFrame (frameOf x h stored) (bad || checkBad)
    poison := bad, checkBad := checkBad, staged := copied, checkLeft := if verify && !copied then stored.length else 0
    size := if copied then 0 else recordSize stored.length }

/-- The position behind a record (R406, R408). -/
def afterRecord (c : Nat) (p : ReplayPos) (b : Bytes) (i : ReplayItem) (ts size : Nat) (s : State) : ReplayPos :=
  let go := if i.kind = .frame then max i.cyc p.wireFree else p.wireFree
  let sent := i.kind == .frame
  { p with
    k := p.k + 1, off := p.off + size, first := if p.k = 0 then ts else p.first
    gapSum := if sTiming b = 2 then p.gapSum + gapAt p b p.k else p.gapSum
    lastAt := if sent then i.cyc else p.lastAt
    wireFree := if sent then go + wireCycles c (i.frame.length + 20) s else p.wireFree
    wireEnd := if sent then go + wireCycles c (i.frame.length + 8) s else p.wireEnd }

/-- Bytes of the staging in use (R409). -/
def stagingUsed (x : Channel) : Nat := (x.items.map (·.size)).sum

/-- Take the record at the fetch position, which has been read (R405, R409, R412). -/
def takeRecord (c : Nat) (b : Bytes) (s : State) : State :=
  let x := channelOf c s
  let p := x.fetch
  let at' := p.off - p.bufOff
  let h := slice at' 32 p.buf
  let cap := fld 10 2 h
  let lineBad (o n : Nat) : Bool := p.bufBad.any fun l =>
    decide (l * 64 < sOffset b + o + n) && decide (sOffset b + o < l * 64 + 64)
  let headBad := lineBad p.off 32
  let checkOk := if bitOf 7 (fld 13 1 h) then true else crc32cN (h.take 28) == fld 28 4 h
  let unreadable := headBad || !checkOk
  let bad (cyc : Nat) : State :=
    pushItem c { kind := .bad, step := p.step, cyc := cyc, region := sRegion b, off := sOffset b + p.off } { p with ended := true } s
  if unreadable then bad p.lastAt
  else if fld 12 1 h = 0xFF then
    modPos c (fun p => { p with off := if sLength b < p.off + 32 + cap then sLength b else p.off + 32 + cap }) s
  else if sLength b < p.off + 32 + cap then bad (p.start * 1024 + launchOffset p b (fld 0 8 h))
  else
    let stored := slice (at' + 32) cap p.buf
    let i := recordItem x b p h stored (lineBad (p.off + 32) cap && cap != 0) s
    if s.cap.stagingPerChannel < stagingUsed x + i.size then s
    else pushItem c i (afterRecord c p b i (fld 0 8 h) (recordSize cap) s) s

/-- Whether a fetch may read a range of a pattern's region (R413): ONLINE, readable by the channel's domain, within the region. -/
def patternOk (dom r off len : Nat) (s : State) : Bool :=
  match regionOf r s with
  | none => false
  | some d => d.state == .online && mayRead dom d && inRegion d off len && !removedFrom r off len s

/-- The bytes of a step's pattern, or of its gap list, have been read. -/
def fetchBack (c : Nat) (gaps : Bool) (status : Nat) (data : Bytes) (bad : List Nat) (s : State) : State :=
  if !channelBusy (channelOf c s) then s
  else if status ≠ 0 ∨ (gaps ∧ !bad.isEmpty) then stopChannel c 4 s
  else
    modPos c (fun p =>
      if gaps then { p with gaps := p.gaps ++ data, bufBad := p.bufBad ++ bad, fetching := false }
      else { p with buf := p.buf ++ data, bufBad := p.bufBad ++ bad, fetching := false }) s

/-- Read a range of a step's region: here at once, or over the link (R409, 01_architecture R25). -/
def fetchRange (c : Nat) (gaps : Bool) (r off len : Nat) (s : State) : State :=
  if !patternOk (channelOf c s).domain r off len s then stopChannel c 4 s
  else
    match route r off s with
    | .unavailable => stopChannel c 4 s
    | .wait => s
    | .partner => forwardRead (.replay c gaps) 3 r off len (modPos c (fun p => { p with fetching := true }) s)
    | .here =>
      let x := readHere r off len s
      fetchBack c gaps 0 x.1 x.2.1 x.2.2

/-- Bytes of the pattern that are read and lie behind the fetch position. -/
def bufferedHere (p : ReplayPos) (n : Nat) : Bool := decide (p.bufOff ≤ p.off) && decide (p.off + n ≤ p.bufOff + p.buf.length)

/-- What the record at the fetch position needs read: its header, then all of it within the pattern. -/
def recordNeed (p : ReplayPos) (b : Bytes) : Nat :=
  if bufferedHere p 32 then min (32 + fld (p.off - p.bufOff + 10) 2 p.buf) (sLength b - p.off) else 32

/-- Read the next block of the pattern (R409): up to 1 MiB; a step that is not kept whole forgets what it has passed. -/
def fetchBlock (c : Nat) (b : Bytes) (s : State) : State :=
  let p := (channelOf c s).fetch
  let s := if oneCopy b s then s
    else modPos c (fun p => { p with bufOff := p.off, buf := p.buf.drop (p.off - p.bufOff) }) s
  let p := if oneCopy b s then p else (channelOf c s).fetch
  let from' := p.bufOff + p.buf.length
  fetchRange c false (sRegion b) (sOffset b + from') (min (2 ^ 20) (sLength b - from')) s

/-- One fetch of a channel (R409): it settles the position, ends the schedule at the end of the program, reads what the next record
needs, and takes the record. -/
def fetchNext (c : Nat) (s : State) : State :=
  let x := channelOf c s
  let p := settlePos x.program s (4 * x.program.length + 4) x.fetch
  let s := modPos c (fun _ => p) s
  match x.program[p.step]? with
  | none => pushItem c { kind := .finish, step := p.step, cyc := p.start * 1024 } { p with ended := true } s
  | some b =>
    if sKind b = 3 then pushItem c { kind := .finish, step := p.step, cyc := p.start * 1024 } { p with ended := true } s
    else if sKind b ≠ 1 then s
    else if p.gaps.length < gapBytes b then
      fetchRange c true (sRegion b) (sOffset b + sLength b + p.gaps.length) (min (2 ^ 20) (gapBytes b - p.gaps.length)) s
    else if bufferedHere p (recordNeed p b) ∧ bufferedHere p 32 then
      let s := takeRecord c b s
      modPos c (fun q => settlePos x.program s (4 * x.program.length + 4) q) s
    else fetchBlock c b s

/-- The beat in which an element is due (R411). -/
def dueBeat (x : Channel) (i : ReplayItem) : Nat := i.cyc / 1024 + x.shift

/-- Whether the channel may fetch (R409): not earlier than LEAD beats before the beat of the next record. -/
def mayFetch (x : Channel) (s : State) : Bool :=
  channelBusy x && !x.fetch.ended && !x.fetch.fetching &&
    decide (max x.fetch.start (x.fetch.lastAt / 1024) + x.shift ≤ s.tb.beat + x.lead)

/-- Whether a frame that is not fetched could be due in a beat (R411). -/
def unfetchedDue (x : Channel) (beat : Nat) : Bool :=
  !x.fetch.ended && !atEnd x.program x.fetch &&
    match x.program[x.fetch.step]? with
    | some b => decide ((if sTiming b = 1 then x.fetch.start * 1024 + x.fetch.k * sPeriod b else max (x.fetch.start * 1024) x.fetch.lastAt) / 1024 +
        x.shift ≤ beat)
    | none => false

/-- An underrun beat under UNDERRUN_POLICY 1 (R411): the filler frame back to back, as many as leave the wire within the beat. -/
def sendFiller (c : Nat) (s : State) : State :=
  let x := channelOf c s
  let now := s.tb.beat * 1024
  let first := max now x.wireFree
  let n := ((List.range 1024).filter fun k => decide (first + wireCycles c ((k + 1) * (x.filler.length + 4 + 20) - 12) s ≤ now + 1024) && decide (first < now + 1024)).length
  let frame := x.filler ++ fcsOf x.filler
  let s := (List.range n).foldl (fun s k =>
    emit (.launch c c frame false (first - now + wireCycles c (k * (frame.length + 20)) s)) s) s
  modChan c (fun x => { x with wireFree := if n = 0 then x.wireFree else first + wireCycles c (n * (frame.length + 20)) s }) s

/-- An underrun beat (R411). -/
def underrun (c : Nat) (s : State) : State :=
  let x := channelOf c s
  let s := modChan c (fun x => { x with shift := x.shift + 1, slip := x.slip + 1, episode := x.episode + 1 }) s
  let s := if x.state = 5 then s
    else
      let s := enterChannel c 5 0 (modChan c (fun x => { x with underruns := x.underruns + 1 }) s)
      raise 0x0906 .warning (le 1 c ++ le 1 0 ++ zeros 2 ++ le 4 x.curStep ++ zeros 8 ++ le 8 (x.slip + 1)) s
  if x.policy = 2 then stopChannel c 2 s else if x.policy = 1 then sendFiller c s else s

/-- Elements of a beat that go out, up to a bad record or the end; with the stop that follows them. -/
def splitDue : List ReplayItem → List ReplayItem × Option Nat
  | [] => ([], none)
  | i :: r =>
    match i.kind with
    | .bad => ([], some 3)
    | .finish => ([], some 1)
    | .dropped => splitDue r
    | .frame => let x := splitDue r; (i :: x.1, x.2)

/-- Frames of a beat that WINDOW keeps from being sent (R407): counted, with event 0x0908. -/
def countWindow (c : Nat) (l : List ReplayItem) (s : State) : State :=
  (l.filter fun i => i.kind == .dropped).foldl (fun s i =>
    raiseLimited 0x0908 c .warning (fun n => le 1 c ++ zeros 3 ++ le 4 i.step ++ le 4 n)
      (modChan c (fun x => { x with windowDrops := x.windowDrops + 1 }) s)) s

/-- A stop that waited for the frames of its beat takes place. -/
def stopIfDone (c : Nat) (s : State) : State :=
  match (channelOf c s).stopAfter with
  | some k => if (channelOf c s).due.isEmpty then stopChannel c k s else s
  | none => s

/-- REPLAY_STEP_ISSUE (R411 to R413): the check at a boundary of every element whose due beat is the new beat. -/
def issueStep (c : Nat) (s : State) : State :=
  let x := channelOf c s
  if x.state ≠ 4 ∧ x.state ≠ 5 then s
  else
    let l := x.items.takeWhile fun i => decide (dueBeat x i ≤ s.tb.beat)
    let late := (x.items.length == l.length) && !(l.any fun i => i.kind == .bad || i.kind == .finish) && unfetchedDue x s.tb.beat
    if l.any (fun i => i.kind == .frame && !i.staged) || late then underrun c s
    else if l.isEmpty then s
    else
      let d := splitDue l
      let s := countWindow c l s
      let s := modChan c (fun x => { x with
        items := x.items.drop l.length, due := x.due ++ d.1.map fun i => { i with cyc := i.cyc + x.shift * 1024 }
        stopAfter := x.stopAfter.or d.2, curStep := ((l.getLast?.map (·.step)).getD x.curStep) }) s
      let s := if x.state = 5 ∧ !d.1.isEmpty then
          raise 0x0906 .warning (le 1 c ++ le 1 1 ++ zeros 2 ++ le 4 ((channelOf c s).curStep) ++ le 4 x.episode ++ zeros 4 ++ le 8 x.slip)
            (modChan c (fun x => { x with episode := 0 }) (enterChannel c 4 0 s))
        else s
      stopIfDone c s

/-- STATUS data (R417). -/
def channelStatus (x : Channel) (s : State) : Bytes :=
  le 1 x.state ++ le 1 x.cause ++ zeros 2 ++ le 4 x.curStep ++ le 8 x.startBeat ++ le 8 x.slip ++ le 4 x.underruns ++
    le 4 (min x.late 0xFFFFFFFF) ++ le 8 x.sent ++ le 8 x.poisoned ++ le 8 x.windowDrops ++ le 8 s.tb.beat

/-- What a beat boundary does for a channel, the beat counter being that of the new beat: the issue of the beat's frames, and the sample of
its STATUS. -/
def channelBoundary (c : Nat) (s : State) : State :=
  let s := modChan c (fun x => { x with sample := channelStatus x s }) s
  issueStep c s

end Sys2Proof.Machine
end

