-- ==== Sys2Proof/Machine/Dram.lean ====
section
/-! DEFINITION. Meanings of the DRAM controller's commands and of scrub (12_integrity R460 to R470). -/

namespace Sys2Proof.Machine

/-- Change the integrity state. -/
def modEcc (f : Ecc → Ecc) (s : State) : State := { s with ecc := f s.ecc }

/-- A stack of the shelf. -/
def stackOf (i : Nat) (s : State) : Stack := if i = 0 then s.ecc.stack0 else s.ecc.stack1

/-- Change a stack. -/
def modStack (i : Nat) (f : Stack → Stack) (s : State) : State :=
  modEcc (fun e => if i = 0 then { e with stack0 := f e.stack0 } else { e with stack1 := f e.stack1 }) s

/-- The band that a first reading selects (R466). -/
def firstBand (t : Int) : Nat := if t < -10 then 0 else if t < 30 then 1 else if t < 70 then 2 else 3

/-- Where a band is entered from below, and where the band below it is returned to (R466). -/
def bandUp (b : Nat) : Int := if b = 0 then -10 else if b = 1 then 30 else 70

/-- The return threshold of the band below `b`. -/
def bandDown (b : Nat) : Int := if b = 1 then -15 else if b = 2 then 25 else 65

/-- The band after a reading, one threshold at a time (R466). -/
def bandOf (t : Int) : Nat → Nat → Nat
  | 0, b => b
  | n + 1, b =>
    if b < 3 ∧ bandUp b ≤ t then bandOf t n (b + 1)
    else if 0 < b ∧ t ≤ bandDown b then bandOf t n (b - 1)
    else b

/-- The change that a stack's temperature asks for: to full rate from half rate (R468), or to another band (R466). -/
def wantedChange (i : Nat) (s : State) : Option BandChange :=
  let x := stackOf i s
  if x.half then
    if 0 ≤ x.temp then some { stack := i, band := 1, old := x.band, pc := 32 * i, since := s.tb.beat + 1, rate := true } else none
  else
    let b := bandOf x.temp 3 x.band
    if b = x.band then none else some { stack := i, band := b, old := x.band, pc := 32 * i, since := s.tb.beat + 1 }

/-- A pseudo-channel leaves its idle state before it is quiesced (16_power R586). -/
def wakePc (pc : Nat) (s : State) : State :=
  { s with pwr := { s.pwr with units := mmod (0x300 + pc) (fun u => { u with state := 0, entry := none }) s.pwr.units } }

/-- Start the next change, stack 0 first, while none is in progress (R467, R468). -/
def startChangeNext (s : State) : State :=
  if s.ecc.change.isSome then s
  else
    match (wantedChange 0 s).or (wantedChange 1 s) with
    | none => s
    | some c =>
      let pcs := if c.rate then (List.range 32).map (· + c.pc) else [c.pc]
      pcs.foldl (fun s p => wakePc p s) (modEcc (fun e => { e with change := some c }) s)

/-- A reading of a stack's sensor (R466 to R468); the first one selects the band and the rate. -/
def stackReading (stack : Nat) (celsius : Int) (s : State) : State :=
  if 2 ≤ stack then s
  else
    let first := !(stackOf stack s).ready
    let s := modStack stack (fun x => { x with temp := celsius }) s
    if first then
      let half := decide (celsius < -10)
      let s := modStack stack (fun x => { x with band := firstBand celsius, half := half, ready := true }) s
      if half then raise 0x0B09 .info (le 1 stack ++ le 1 0 ++ leInt 1 celsius) s else s
    else startChangeNext s

/-- STACK_TEMPERATURE_READING (R466 to R468). -/
def execStackTemperatureReading (stack : Nat) (celsius : Int) (s : State) : Host.Outcome State Fault Refusal :=
  .next (stackReading stack celsius s)

/-- Refreshes that fell due on a quiesced pseudo-channel are issued as it resumes (R467, R470). -/
def issueOwed (pcs : List Nat) (s : State) : State :=
  let l := s.ecc.owedRefreshes.filter fun r => pcs.contains r.1
  modEcc (fun e => { e with
    owedRefreshes := e.owedRefreshes.filter fun r => !pcs.contains r.1
    refreshes := l.foldl (fun m r => mmodD 0 (r.1 * 64 + r.2) (· + 1) m) e.refreshes }) s

/-- BAND_CHANGE_QUIESCE (R467): four beats on, the pseudo-channel resumes with the new delays, and the next one is quiesced; after the
stack's last one its change is complete. -/
def execBandChangeQuiesce (s : State) : Host.Outcome State Fault Refusal :=
  match s.ecc.change with
  | none => .next s
  | some c =>
    if c.rate ∨ s.tb.beat < c.since + 4 then .next s
    else
      let s := issueOwed [c.pc] s
      if c.pc % 32 < 31 then .next (wakePc (c.pc + 1) (modEcc (fun e => { e with change := some { c with pc := c.pc + 1, since := s.tb.beat } }) s))
      else
        let s := modStack c.stack (fun x => { x with band := c.band }) (modEcc (fun e => { e with change := none }) s)
        .next (startChangeNext (raise 0x0B08 .info (le 1 c.stack ++ le 1 c.old ++ le 1 c.band ++ leInt 1 (stackOf c.stack s).temp) s))

/-- FULL_RATE_CHANGE (R468): after 64 beats the stack runs at full rate with band 1. -/
def execFullRateChange (stack : Nat) (s : State) : Host.Outcome State Fault Refusal :=
  match s.ecc.change with
  | none => .next s
  | some c =>
    if !c.rate ∨ c.stack ≠ stack ∨ s.tb.beat < c.since + 64 then .next s
    else
      let s := issueOwed ((List.range 32).map (· + 32 * stack)) s
      let s := modStack stack (fun x => { x with band := 1, half := false }) (modEcc (fun e => { e with change := none }) s)
      .next (startChangeNext (raise 0x0B09 .info (le 1 stack ++ le 1 1 ++ leInt 1 (stackOf stack s).temp) s))

/-- Whether a pseudo-channel is quiesced now (R467, R468). -/
def quiesced (pc : Nat) (s : State) : Bool :=
  match s.ecc.change with
  | none => false
  | some c => decide (c.since ≤ s.tb.beat) && if c.rate then pc / 32 == c.stack else pc == c.pc

/-- REFRESH_DUE (R467, R470): a per-bank refresh is issued before every port's requests, or kept until its pseudo-channel resumes. -/
def execRefreshDue (channel bank : Nat) (s : State) : Host.Outcome State Fault Refusal :=
  if 64 ≤ channel ∨ 64 ≤ bank then .next s
  else if quiesced channel s then .next (modEcc (fun e => { e with owedRefreshes := e.owedRefreshes ++ [(channel, bank)] }) s)
  else .next (modEcc (fun e => { e with refreshes := mmodD 0 (channel * 64 + bank) (· + 1) e.refreshes }) s)

/-- Bytes of the shelf: its partitions and the segment cache (04_tiers R109). -/
def shelfBytes (s : State) : Nat := (if s.ident.h96 then 96 else 48) * 2 ^ 30

/-- Whether a scrub's range keeps to its target (R460). -/
def scrubRangeOk (target region start len : Nat) (s : State) : Bool :=
  match target with
  | 0 => match regionOf region s with
    | some d => decide (start % 64 = 0 ∧ len % 64 = 0 ∧ 0 < len) && inRegion d start len && d.state == .online
    | none => false
  | 1 => decide (start % 64 = 0 ∧ len % 64 = 0 ∧ 0 < len ∧ start + len ≤ shelfBytes s)
  | _ => decide (0 < len ∧ start + len ≤ logLines s.pu)

/-- START_SCRUB (C074h, R460, R463). -/
def execStartScrub (path : BcsPath) (input : Bytes) (s : State) : Host.Outcome State Fault Refusal :=
  .next (bcs path 0xC074 input (input.length == 24) (fun s =>
    let t := fld 0 1 input
    let r := fld 2 2 input
    checked path 0xC074
      [(decide (t < 3), 0), (decide (fld 1 1 input < 2), 1), (t == 0 || r == 0, 2), (zeroAt 4 4 input, 4),
       (scrubRangeOk t r (fld 8 8 input) (fld 16 8 input) s, 8)] (fun s =>
        let x := s.ecc.scrub
        if x.state = 1 then
          if bitOf 0 (fld 1 1 input) ∧ x.scan.isNone then
            success path 0xC074 [] (modEcc (fun e => { e with scrub := { e.scrub with abortAt := some (s.tb.beat + 1) } }) s)
          else answer path 0xC074 0x0006 [] s
        else
          success path 0xC074 []
            (modEcc (fun e => { e with scrub := { state := 1, target := t, region := r, start := fld 8 8 input, length := fld 16 8 input } }) s))
      s) s)

/-- A summary entry (R462). -/
def scrubEntryBytes (e : ScrubEntry) : Bytes :=
  le 8 e.address ++ le 1 e.memory ++ le 1 e.kind ++ le 2 e.region ++ le 4 e.detail

/-- The summary (R461). -/
def scrubSummary (x : Scrub) : Bytes :=
  le 1 x.state ++ le 1 x.target ++ le 2 x.region ++ le 2 x.entries.length ++ zeros 2 ++ le 8 x.start ++ le 8 x.length ++ le 8 x.scanned ++
    le 4 x.ceShelf ++ le 4 x.ceChest ++ le 4 x.ceDrawer ++ le 4 x.cabRetry ++ le 4 x.cabRecon ++ le 4 x.recovered ++ le 4 x.newly ++
    le 4 x.already ++ x.entries.flatMap scrubEntryBytes

/-- GET_SCRUB_SUMMARY (C075h, R461). -/
def execGetScrubSummary (path : BcsPath) (input : Bytes) (s : State) : Host.Outcome State Fault Refusal :=
  .next (bcs path 0xC075 input (input.length == 0) (fun s => success path 0xC075 (scrubSummary s.ecc.scrub) s) s)

/-- Lines of a running scrub's ranges. -/
def scrubLines (x : Scrub) : Nat :=
  if x.scan.isSome then (x.ranges.map fun r => r.2.2 / 64).sum else if x.target = 2 then x.length else x.length / 64

/-- Poisoned lines that a scrub meets (R461): in a region as a read finds them, in the shelf by its marks, in the chest by its records. -/
def scrubPoisoned (x : Scrub) (s : State) : Nat :=
  if x.scan.isSome then (x.ranges.map fun r => (poisonedLines r.1 r.2.1 r.2.2 s).length).sum
  else match x.target with
    | 0 => (poisonedLines x.region x.start x.length s).length
    | 1 =>
      (s.ti.shelfPoison.filter fun k =>
        match mget (k / 32768) s.ti.segs with
        | some g => let a := g.phys * 2 ^ 21 + k % 32768 * 64; decide (x.start ≤ a ∧ a < x.start + x.length)
        | none => false).length
    | _ => (s.pu.chest.map fun r =>
        (r.lines.zipIdx.filter fun l => l.1.lw.poison && decide (x.start ≤ r.pos + 1 + l.2 ∧ r.pos + 1 + l.2 < x.start + x.length)).length).sum

/-- Whether the regions of a scrub are ONLINE (R460). -/
def scrubOnline (x : Scrub) (s : State) : Bool :=
  let ok (r : Nat) : Bool := match regionOf r s with
    | some d => d.state == .online
    | none => false
  if x.scan.isSome then x.ranges.all fun r => ok r.1 else x.target != 0 || ok x.region

/-- Whether a Scan Media covers every accepted extent of its LD (R459). -/
def scanCovers (x : Scrub) (s : State) : Bool :=
  s.cxl.att.all fun e => some e.2.target != x.scan || e.2.state != .accepted || x.ranges.contains (e.2.region, e.2.rext * 2 ^ 28, 2 ^ 28)

end Sys2Proof.Machine
end

