-- ==== Sys2Proof/Machine/GqpCmds.lean ====
section
/-! DEFINITION. Meanings of the queue rows: doorbells, the admin queue, fetch, the memory and transform commands, Transfer-Ready,
notices and the queue-pair BCS commands (09_command_queues). -/

namespace Sys2Proof.Machine

/-- Whether a head exists under the bifurcation in force (07_cxl_ports R247). -/
def headExists (h : Nat) (s : State) : Bool :=
  let b := s.cxl.bifurcation / 4 ^ (h / 4) % 4
  decide (h < 16) && (h % 4 == 0 || (b == 1 && h % 4 == 2) || b == 2)

/-- A doorbell write that is ignored (R352). -/
def ignoreDoorbell (qid kind head value : Nat) (s : State) : State :=
  raiseLimited 0x0802 qid .warning (fun _ => le 2 qid ++ le 1 kind ++ le 1 head ++ le 4 value) s

/-- Whether a doorbell names a memory queue pair through its own head (R352). -/
def doorbellReaches (head : Nat) (q : QueuePair) : Bool := q.transport == 0 && q.headNum == head

/-- A write of GQP.SQ_TAIL (R350, R352, R355): the tail moves on over entries that the controller may fetch. -/
def sqTail (head qid : Nat) (value : Word) (s : State) : State :=
  let v := value.toNat % 65536
  let s := if 65536 ≤ value.toNat then badWrite s else s
  match queueOf qid s with
  | none => ignoreDoorbell qid 0 head v s
  | some q =>
    let pending := (q.sqTail + q.depth - q.sqHead) % q.depth
    let step := (v + q.depth - q.sqTail) % q.depth
    if doorbellReaches head q && decide (v < q.depth) && decide (pending + step < q.depth) then
      modQ qid (fun q => { q with sqTail := v }) s
    else ignoreDoorbell qid 0 head v s

/-- A write of GQP.CQ_HEAD (R350, R352, R355): the entries up to the new head are consumed. -/
def cqHead (head qid : Nat) (value : Word) (s : State) : State :=
  let v := value.toNat % 65536
  let s := if 65536 ≤ value.toNat then badWrite s else s
  match queueOf qid s with
  | none => ignoreDoorbell qid 1 head v s
  | some q =>
    let step := (v + q.cqDepth - q.cqHead) % q.cqDepth
    if doorbellReaches head q && decide (v < q.cqDepth) && decide (step ≤ q.unread) then
      modQ qid (fun q => { q with cqHead := v, unread := q.unread - step }) s
    else ignoreDoorbell qid 1 head v s

/-- SQ_TAIL_DOORBELL (R350, R352). -/
def execSqTailDoorbell (head qid : Nat) (value : Word) (s : State) : Host.Outcome State Fault Refusal := .next (sqTail head qid value s)

/-- CQ_HEAD_DOORBELL (R350, R352). -/
def execCqHeadDoorbell (head qid : Nat) (value : Word) (s : State) : Host.Outcome State Fault Refusal := .next (cqHead head qid value s)

/-- Queue 0 as its registers set it up (R354). -/
def adminQueue (head : Nat) (a : AdminRegs) : QueuePair :=
  { depth := a.sqd + 1, cqDepth := a.cqd + 1, noticeMask := 0xFFFE, headNum := head, sqBase := a.sqb, cqBase := a.cqb
    vector := a.vector, aggCount := a.aggCount, aggBeats := a.aggBeats }

/-- Queue 0 is enabled through the writing head (R354). -/
def aqEnable (head : Nat) (s : State) : State :=
  let a := s.gqp.aq
  if a.en then (if a.owner = head then s else badWrite s)
  else
    modGqp (fun g =>
      { g with
        aq := { g.aq with en := true, owner := head, enBeat := s.tb.beat }
        pairs := if mhas 0 g.pairs then g.pairs else mput 0 (adminQueue head g.aq) g.pairs }) s

/-- Queue 0 stops fetching, and FATAL clears (R354). -/
def aqDisable (head : Nat) (s : State) : State :=
  if s.gqp.aq.en ∧ s.gqp.aq.owner ≠ head then badWrite s
  else modGqp (fun g => { g with aq := { g.aq with en := false, fatal := false } }) s

/-- AQ_ENABLE (R354). -/
def execAqEnable (head : Nat) (s : State) : Host.Outcome State Fault Refusal := .next (aqEnable head s)

/-- AQ_DISABLE (R354). -/
def execAqDisable (head : Nat) (s : State) : Host.Outcome State Fault Refusal := .next (aqDisable head s)

/-- AQ_READY (R354): RDY rises after EN, and clears when no queue-0 command is in flight. -/
def execAqReady (s : State) : Host.Outcome State Fault Refusal :=
  let a := s.gqp.aq
  if a.en then .next (modGqp (fun g => { g with aq := { g.aq with rdy := true } }) s)
  else
    match queueOf 0 s with
    | none => .next (modGqp (fun g => { g with aq := { g.aq with rdy := false } }) s)
    | some q =>
      if q.cmds.isEmpty then
        .next (modGqp (fun g => { g with aq := { g.aq with rdy := false }, pairs := mdel 0 g.pairs }) s)
      else .next s

/-- Whether the queue engine may fetch from a queue pair (R345, R351, R354, R365, R641). -/
def canFetch (qid : Nat) (q : QueuePair) (s : State) : Bool :=
  !q.stopped && q.deleting.isNone && decide (inFlightTotal s < 65536) &&
    (if qid = 0 then s.gqp.aq.en && s.gqp.aq.rdy else true) &&
    (if q.transport = 0 then
      q.sqHead != q.sqTail && decide (q.cmds.length + q.unread + q.notices.length + 1 < q.cqDepth)
    else !q.ring.isEmpty)

/-- COMMAND_FETCH (R351): the next entry of a submission ring, with the data-pointer list that it names. -/
def execCommandFetch (qid : Nat) (entry list : Bytes) (s : State) : Host.Outcome State Fault Refusal :=
  match queueOf qid s with
  | none => .next s
  | some q =>
    if canFetch qid q s then
      let src := if q.transport = 0 then (padTo 64 entry, []) else q.ring.headD ([], [])
      let c : GqpCmd := { cid := eCid src.1, entry := src.1, inline := src.2, list := list, ackMark := s.pu.nextAck }
      .next (modQ qid (fun q => { q with
        cmds := q.cmds ++ [c], ring := q.ring.drop 1
        sqHead := if q.transport = 0 then (q.sqHead + 1) % q.depth else q.sqHead }) s)
    else .next s

/-- IN_FLIGHT_LIMIT_HELD (R365): the limit has held at 1,024 consecutive boundaries. -/
def execInFlightLimitHeld (s : State) : Host.Outcome State Fault Refusal :=
  if decide (1024 ≤ s.gqp.limitBeats) && !s.gqp.limitReported then
    .next (raise 0x0805 .warning (le 4 (inFlightTotal s)) (modGqp (fun g => { g with limitReported := true }) s))
  else .next s

/-- Answer a command that a write-protected region refuses: counted with path 2 (05_regions R179, R188). -/
def refuseWith (qid : Nat) (c : GqpCmd) (region off status : Nat) (s : State) : State :=
  refuseCmd qid c.cid status (if status = 0x0101 then refuseWrite region 2 off s else s)

/-- WRITE (R358, R367): the data moves in pieces, each one atomic write unit. -/
def execWrite (qid cid : Nat) (data : Bytes) (s : State) : Host.Outcome State Fault Refusal :=
  .next (withCmd qid cid (fun e => eOpcode e == 0x02) (fun q c s =>
    let e := c.entry
    let r := eRegion e
    let fields := headerOk q c && eCdw5 e == 0 && cspecZero [] e && decide (c.inline.length ≤ 952)
    match (if fields then regionStatus q.domain r (eOffset e) (eLength e) true s else some 2) with
    | some st => refuseWith qid c r (eOffset e) st s
    | none =>
      if !dataFits c (eLength e) then refuseCmd qid cid 2 s
      else
        match rangeRoute r (eOffset e) (eLength e) s with
        | .unavailable => refuseCmd qid cid 0x0102 s
        | .wait => s
        | _ =>
          let l := pieceList 0 r (eOffset e) (eLength e) s
          let s := runCmd qid cid l s
          let c := { c with running := true, pieces := l }
          if q.transport = 1 ∧ ePtrKind e = 0 then submitNext qid 2 c s
          else launchPieces qid c r (eOffset e) (hostBytes c data (eLength e)) s) s)

/-- The pieces of a Write Zeroes: at each 1 MiB boundary of region offset (R370). -/
def zeroPieces (off len : Nat) : List Piece :=
  let cuts := (List.range (len / 2 ^ 20 + 2)).map fun k => (off / 2 ^ 20 + 1 + k) * 2 ^ 20 - off
  let starts := 0 :: cuts.filter (· < len)
  (starts.zip (starts.drop 1 ++ [len])).zipIdx.map fun x => { index := x.2, off := x.1.1, len := x.1.2 - x.1.1 }

/-- The whole chunks in a byte range, as the first and the one after the last. -/
def wholeChunks (lo hi : Nat) : Nat × Nat := ((lo + 65535) / 65536, hi / 65536)

/-- The unit of a Write Zeroes piece (R370): whole chunks turn ZERO, the rest is written as zero lines. -/
def zeroUnit (qid cid r lo len : Nat) (p : Piece) (s : State) : WUnit :=
  let k := wholeChunks lo (lo + len)
  let lines := if k.1 < k.2 then cutLines lo (zeros (k.1 * 65536 - lo)) ++ cutLines (k.2 * 65536) (zeros (lo + len - k.2 * 65536))
    else cutLines lo (zeros len)
  let chunks := (List.range (k.2 - k.1)).filterMap fun i => lcnOf r ((k.1 + i) * 65536) s
  { newUnit (.gqp qid cid p.index) .general r lines s with
    zeroChunks := chunks, zeroLines := some (lo / 64 * 64, spanLines lo len) }

/-- WRITE_ZEROES (R370). -/
def execWriteZeroes (qid cid : Nat) (s : State) : Host.Outcome State Fault Refusal :=
  .next (withCmd qid cid (fun e => eOpcode e == 0x03) (fun q c s =>
    let e := c.entry
    let r := eRegion e
    match (if headerOk q c && ePtrKind e == 0 && eCdw5 e == 0 && cspecZero [] e
        then regionStatus q.domain r (eOffset e) (eLength e) true s else some 2) with
    | some st => refuseWith qid c r (eOffset e) st s
    | none =>
      match rangeRoute r (eOffset e) (eLength e) s with
      | .unavailable => refuseCmd qid cid 0x0102 s
      | .wait => s
      | _ =>
        let l := zeroPieces (eOffset e) (eLength e)
        l.foldl (fun s p =>
          let lo := eOffset e + p.off
          let s := modCmd qid cid (setPiece p.index .staged) s
          if route r lo s = .partner then forwardWrite (.gqpWrite qid cid p.index) 2 r lo (cutLines lo (zeros p.len)) s
          else submitUnit (zeroUnit qid cid r lo p.len p s) s) (runCmd qid cid l s)) s)

/-- The pieces of a Copy, cut where either range is cut (03_persistence R73, R74). -/
def copyPieces (r1 o1 r2 o2 len : Nat) (s : State) : List Piece :=
  let cuts := ((pieceList 0 r1 o1 len s).map (·.off) ++ (pieceList 0 r2 o2 len s).map (·.off)).foldl (fun l k => setInsert k l) []
  (cuts.zip (cuts.drop 1 ++ [len])).zipIdx.map fun x => { index := x.2, off := x.1.1, len := x.1.2 - x.1.1 }

/-- COPY (R371): pieces in ascending order, or in descending order when the ranges overlap and the destination lies above. -/
def execCopy (qid cid : Nat) (s : State) : Host.Outcome State Fault Refusal :=
  .next (withCmd qid cid (fun e => eOpcode e == 0x04) (fun q c s =>
    let e := c.entry
    let r := eRegion e
    let r2 := eRegion2 e
    let n := eLength e
    let fields := headerOk q c && ePtrKind e == 0 && r2 != 0 && decide (eCdw5 e < 4096) && cspecZero [(32, 40)] e
    match (if fields then regionStatus q.domain r (eOffset e) n false s else some 2) with
    | some st => refuseCmd qid cid st s
    | none =>
      match regionStatus q.domain r2 (eArg e) n true s with
      | some st => refuseWith qid c r2 (eArg e) st s
      | none =>
        if rangeRoute r (eOffset e) n s = .unavailable ∨ rangeRoute r2 (eArg e) n s = .unavailable then refuseCmd qid cid 0x0102 s
        else if rangeRoute r (eOffset e) n s = .wait ∨ rangeRoute r2 (eArg e) n s = .wait then s
        else
          let l := copyPieces r (eOffset e) r2 (eArg e) n s
          let down := r == r2 && decide (eOffset e < eArg e) && decide (eArg e < eOffset e + n)
          copyNext qid cid (runCmd qid cid (if down then l.reverse else l) s)) s)

/-- The pieces of a source operand; region 0 is the host buffer, which takes none (R369). -/
def sourcePieces (base r off len : Nat) (s : State) : List Piece := if r = 0 then [] else pieceList base r off len s

/-- A status that keeps a source operand from being read; the host buffer has none. -/
def sourceStatus (dom r off len : Nat) (s : State) : Option Nat :=
  if r = 0 then (if len = 0 then some 2 else none) else regionStatus dom r off len false s

/-- Whether a source operand waits. -/
def sourceRoute (r off len : Nat) (s : State) : Route := if r = 0 then .here else rangeRoute r off len s

/-- Take a source operand: from the host's bytes, or by reading its pieces. -/
def takeSource (qid : Nat) (c : GqpCmd) (base r off : Nat) (host : Bytes) (l : List Piece) (s : State) : State :=
  if r = 0 then modCmd qid c.cid (fun c => { c with src := mput base host c.src }) s else gatherOperand qid c r off l s

/-- Start a transform command on one source (R373). -/
def startTransform (qid : Nat) (c : GqpCmd) (data : Bytes) (len : Nat) (s : State) : State :=
  let e := c.entry
  let r := eRegion e
  if (streamOf qid s).isNone then refuseCmd qid c.cid 0x0004 s
  else if !engineWorks s then refuseCmd qid c.cid 0x0205 s
  else
    match sourceRoute r (eOffset e) len s with
    | .unavailable => refuseCmd qid c.cid 0x0102 s
    | .wait => s
    | _ =>
      let l := sourcePieces 0 r (eOffset e) len s
      afterGather qid c.cid (takeSource qid c 0 r (eOffset e) (hostBytes c data len) l (runCmd qid c.cid l s))

/-- COMPARE (R373, 11_transform_engine R443). -/
def execCompare (qid cid : Nat) (data : Bytes) (s : State) : Host.Outcome State Fault Refusal :=
  .next (withCmd qid cid (fun e => eOpcode e == 0x05) (fun q c s =>
    let e := c.entry
    let r := eRegion e
    let r2 := eRegion2 e
    let n := eLength e
    let fields := headerOk q c && decide (eCdw5 e < 4096) && cspecZero (if r2 = 0 then [] else [(32, 40)]) e
    match (if fields then sourceStatus q.domain r (eOffset e) n s else some 2) with
    | some st => refuseCmd qid cid st s
    | none =>
      match sourceStatus q.domain r2 (eArg e) n s with
      | some st => refuseCmd qid cid st s
      | none =>
        if !dataFits c (if r = 0 ∨ r2 = 0 then n else 0) then refuseCmd qid cid 2 s
        else if (streamOf qid s).isNone then refuseCmd qid cid 0x0004 s
        else if !engineWorks s then refuseCmd qid cid 0x0205 s
        else if sourceRoute r (eOffset e) n s = .unavailable ∨ sourceRoute r2 (eArg e) n s = .unavailable then refuseCmd qid cid 0x0102 s
        else if sourceRoute r (eOffset e) n s = .wait ∨ sourceRoute r2 (eArg e) n s = .wait then s
        else
          let l1 := sourcePieces 0 r (eOffset e) n s
          let l2 := sourcePieces secondBase r2 (eArg e) n s
          let host := hostBytes c data n
          let s := takeSource qid c 0 r (eOffset e) host l1 (runCmd qid cid (l1 ++ l2) s)
          afterGather qid cid (takeSource qid c secondBase r2 (eArg e) host l2 s)) s)

/-- Whether CRC parameters are defined (R369, 11_transform_engine R439): FOLD_VALUE fits its kind. -/
def checkFields (e : Bytes) : Bool :=
  let w := eCdw5 e
  decide (w % 256 < 4 ∧ w / 256 % 256 < 2 ∧ w / 65536 < 4) && foldOk (w / 65536) (fld 40 8 e) && cspecZero [(32, 48)] e

/-- CHECK_VALUE (R373, 11_transform_engine R438, R439). -/
def execCheckValue (qid cid : Nat) (data : Bytes) (s : State) : Host.Outcome State Fault Refusal :=
  .next (withCmd qid cid (fun e => eOpcode e == 0x08) (fun q c s =>
    let e := c.entry
    match (if headerOk q c && checkFields e then sourceStatus q.domain (eRegion e) (eOffset e) (eLength e) s else some 2) with
    | some st => refuseCmd qid cid st s
    | none =>
      if !dataFits c (if eRegion e = 0 then eLength e else 0) then refuseCmd qid cid 2 s
      else startTransform qid c data (eLength e) s) s)

/-- Whether the pattern of a Scan Pattern is defined (R369, 11_transform_engine R444). -/
def patternFields (e : Bytes) : Bool :=
  let n := eCdw5 e
  let pat := slice 32 16 e
  let msk := slice 48 16 e
  decide (1 ≤ n ∧ n ≤ 16) && decide (n ≤ eLength e) && allZero (pat.drop n) && allZero (msk.drop n) &&
    (List.zipWith (fun p m => p &&& ~~~ m) pat msk).all (· == 0)

/-- SCAN_PATTERN (R373, 11_transform_engine R444). -/
def execScanPattern (qid cid : Nat) (data : Bytes) (s : State) : Host.Outcome State Fault Refusal :=
  .next (withCmd qid cid (fun e => eOpcode e == 0x09) (fun q c s =>
    let e := c.entry
    match (if headerOk q c && patternFields e then sourceStatus q.domain (eRegion e) (eOffset e) (eLength e) s else some 2) with
    | some st => refuseCmd qid cid st s
    | none =>
      if !dataFits c (if eRegion e = 0 then eLength e else 0) then refuseCmd qid cid 2 s
      else startTransform qid c data (eLength e) s) s)

/-- KEY_SLOT of Seal and Unseal. -/
def eKeySlot (e : Bytes) : Nat := fld 40 4 e

/-- The command key of a region (14_trust R525, R529): none when its slot cannot be used by the domain. -/
def commandKey (wr : Bool) (dom slot : Nat) (s : State) : Option Bytes :=
  match regionOf slot s with
  | none => none
  | some d =>
    if d.state = .online ∧ d.protect ≠ .none ∧ (if wr then mayWrite dom d else mayRead dom d) then
      (regionKey d s).map fun k => shake256 32 (ascii "SK7240-CMDKEY" ++ k ++ le 8 d.created)
    else none

/-- The destination check of Seal and Unseal: region 0 is the host buffer at DST_PTR (R369, R374). -/
def destStatus (dom r off len : Nat) (s : State) : Option Nat := if r = 0 then none else regionStatus dom r off len true s

/-- Seal and Unseal share their checks (R369, R374). -/
def startSeal (sealing : Bool) (qid : Nat) (data : Bytes) (q : QueuePair) (c : GqpCmd) (s : State) : State :=
  let e := c.entry
  let n := eLength e
  let outLen := if sealing then n + 16 else n - 16
  let aad := fld 44 4 e
  let lenOk := if sealing then decide (1 ≤ n ∧ n ≤ 2 ^ 20 ∧ aad ≤ n) else decide (17 ≤ n ∧ n ≤ 2 ^ 20 + 16 ∧ aad + 16 ≤ n)
  let fields := headerOk q c && decide (eCdw5 e < 4096) && cspecZero (if sealing then [(32, 48)] else [(32, 60)]) e &&
    (commandKey sealing q.domain (eKeySlot e) s).isSome
  match (if fields then sourceStatus q.domain (eRegion e) (eOffset e) n s else some 2) with
  | some st => refuseCmd qid c.cid st s
  | none =>
    if !lenOk then refuseCmd qid c.cid 2 s
    else
      match destStatus q.domain (eRegion2 e) (eArg e) outLen s with
      | some st => refuseWith qid c (eRegion2 e) (eArg e) st s
      | none =>
        if !dataFits c (if eRegion e = 0 then n else 0) then refuseCmd qid c.cid 2 s
        else startTransform qid c data n s

/-- SEAL (R374, 11_transform_engine R437). -/
def execSeal (qid cid : Nat) (data : Bytes) (s : State) : Host.Outcome State Fault Refusal :=
  .next (withCmd qid cid (fun e => eOpcode e == 0x0A) (fun q c s => startSeal true qid data q c s) s)

/-- UNSEAL (R374, 11_transform_engine R437). -/
def execUnseal (qid cid : Nat) (data : Bytes) (s : State) : Host.Outcome State Fault Refusal :=
  .next (withCmd qid cid (fun e => eOpcode e == 0x0B) (fun q c s => startSeal false qid data q c s) s)

/-- Logical chunks of a byte range of a region that this controller holds current: those it serves, and its copy of a mirrored region
that is CURRENT on both controllers (R375). -/
def rangeChunks (r off len : Nat) (s : State) : List Nat :=
  ((List.range ((off + len + 65535) / 65536 - off / 65536)).filterMap fun i =>
    match regionOf r s with
    | some d => if servesHere d ((off / 65536 + i) * 65536) s || (d.mirrored && currentBoth r s) then lcnOf r ((off / 65536 + i) * 65536) s else none
    | none => none)

/-- Whether a chunk is on its way to the cabinet: dirty, programmed in an open row, or its entry not yet in the chest (R375). -/
def chunkPending (lcn : Nat) (s : State) : Bool :=
  (mgetD {} (segmentOf lcn) s.ti.segs).dirty.testBit (lcn % 32) || (s.ti.inFlight.any fun w => w.lcn == lcn && !w.reloc) ||
    mapPending lcn s

/-- Whether a covered line is not yet placed in the shelf (R375). -/
def linesPending (r off len mark : Nat) (s : State) : Bool :=
  s.pu.copies.any fun c =>
    c.region == r && decide (c.ack < mark) && decide (off < c.line * 64 + 64) && decide (c.line * 64 < off + len)

/-- The chunks of a drain that are not in the cabinet yet, or take a line that is not placed. -/
def drainBusy (r : Nat) (l : List Nat) (s : State) : List Nat :=
  l.filter fun k => chunkPending k s || s.pu.copies.any fun c => c.region == r && chunkOfLine c.region c.line s == some k

/-- Chunks move to the head of the write-back order (R375, 04_tiers R137). -/
def drainFirst (busy : List Nat) (s : State) : State :=
  modTi (fun t => { t with wbHead := t.wbHead ++ busy.filter fun k => !t.wbHead.contains k }) s

/-- Whether the partner has a part in a drain (R375, 01_architecture R25): the region is CURRENT on both controllers, or the partner serves some
of the range. -/
def drainPeer (r off len : Nat) (s : State) : Bool :=
  linkUp s && ((match regionOf r s with
    | some d => d.mirrored && currentBoth r s
    | none => false) || (pieceList 0 r off len s).any fun p => route r (off + p.off) s == .partner)

/-- DRAIN_TO_CABINET (R375): the covered dirty chunks move to the head of the write-back order, and the partner is told of its part. -/
def execDrainToCabinet (qid cid : Nat) (s : State) : Host.Outcome State Fault Refusal :=
  .next (withCmd qid cid (fun e => eOpcode e == 0x07) (fun q c s =>
    let e := c.entry
    let r := eRegion e
    match (if headerOk q c && ePtrKind e == 0 && eCdw5 e == 0 && cspecZero [] e
        then regionStatus q.domain r (eOffset e) (eLength e) false s else some 2) with
    | some st => refuseCmd qid cid st s
    | none =>
      match rangeRoute r (eOffset e) (eLength e) s with
      | .unavailable => refuseCmd qid cid 0x0102 s
      | .wait => s
      | _ =>
        let l := rangeChunks r (eOffset e) (eLength e) s
        let busy := drainBusy r l s
        let peer := drainPeer r (eOffset e) (eLength e) s
        let s := drainFirst busy s
        let s := if peer then forwardAccess (.drain qid cid) r (eOffset e) (fwdDrainBody 2 (eLength e)) s else s
        modCmd qid cid (fun c => { c with running := true, count := busy.length, waitChunks := l, waitsPeer := peer }) s) s)

/-- Whether a drain has nothing left to do here: every covered line is placed, and every covered chunk durable with its MAP record
complete (R375). -/
def drainDone (r off len mark : Nat) (chunks : List Nat) (s : State) : Bool :=
  !linesPending r off len mark s && chunks.all fun k => !chunkPending k s

/-- DRAIN_TO_CABINET_COMPLETE (R375): this controller's part is done, and the partner's where it has one. -/
def execDrainToCabinetComplete (qid cid : Nat) (s : State) : Host.Outcome State Fault Refusal :=
  match runningCmd qid cid s with
  | none => .next s
  | some c =>
    let e := c.entry
    if eOpcode e = 0x07 ∧ !c.waitsPeer ∧ drainDone (eRegion e) (eOffset e) (eLength e) c.ackMark c.waitChunks s then
      .next (complete qid cid c.status (if c.status = 0 then le 8 c.count else []) s)
    else .next s

/-- The partner's part of a drain is done, or has failed (R375). Without the link a mirrored region is CURRENT on one controller only, and
nothing is left to wait for. -/
def drainBack (qid cid status : Nat) (data : Bytes) (s : State) : State :=
  modCmd qid cid (fun c =>
    let mirrored := (regionOf (eRegion c.entry) s).any fun d => d.mirrored
    { c with
      waitsPeer := false
      status := if mirrored then c.status else status
      count := if mirrored then c.count else c.count + leVal (data.take 8) }) s

/-- Begin the part here of a drain that the partner runs (R375). -/
def startPeerDrain (mtag r off len : Nat) (s : State) : State :=
  let l := rangeChunks r off len s
  let busy := drainBusy r l s
  modPair (fun p => { p with drains := p.drains ++ [⟨mtag, r, off, len, s.pu.nextAck, l, busy.length⟩] }) (drainFirst busy s)

/-- PERSIST_FENCE (03_persistence R87): the acknowledgements before its fetch that SCOPE selects. -/
def execPersistFence (qid cid : Nat) (s : State) : Host.Outcome State Fault Refusal :=
  .next (withCmd qid cid (fun e => eOpcode e == 0x06) (fun q c s =>
    let e := c.entry
    let scope := eCdw5 e
    let fields := headerOk q c && ePtrKind e == 0 && decide (scope < 3) && cspecZero [] e &&
      (scope == 1 || (eRegion e == 0)) && eOffset e == 0
    let bad := if !fields then some 2
      else if scope = 1 then
        match regionOf (eRegion e) s with
        | none => some 2
        | some d => if d.state = .offline ∨ !mayRead q.domain d then some 2 else none
      else none
    match bad with
    | some st => refuseCmd qid cid st s
    | none =>
      if eLength e ≠ 0 then refuseCmd qid cid 2 s
      else
        modPu (fun p => { p with fences := p.fences ++ [⟨qid, cid, scope, eRegion e, c.ackMark, s.tb.beat⟩] })
          (runCmd qid cid [] s)) s)

/-- Whether a HELD slot is covered by a fence (03_persistence R87). -/
def fenceCovers (f : Fence) (d : DSlot) : Bool :=
  d.state == .held && decide (d.ack < f.mark) && d.cls != .mirrorCopy &&
    match f.scope with
    | 0 => (match d.src with
      | .gqp q _ _ => q == f.qid
      | _ => false)
    | 1 => d.region == f.region
    | _ => true

/-- Whether a record in the chest is covered by a fence. -/
def fenceRecord (f : Fence) (r : JRec) : Bool :=
  decide (r.lastAck < f.mark) && !r.mirrorCopy && !r.lines.isEmpty && (f.scope != 1 || r.lines.any fun l => l.region == f.region)

/-- Whether a fence still waits (03_persistence R87, 06_pair R213): a covered line outside the chest, or a mirrored record that the
partner has not confirmed. -/
def fenceWaits (f : Fence) (s : State) : Bool :=
  (s.pu.slots.any fun e => fenceCovers f e.2 && !s.pu.freeNext.contains e.1) ||
    (s.pu.chest.any fun r => r.mirrored && fenceRecord f r && decide (s.pair.doneOrigin < r.originSeq) &&
      r.lines.any fun l => mirrorsNow l.region s)

/-- PERSIST_FENCE_COMPLETE (03_persistence R87, R88): RESULT is the SEQ of the last covered record. Where no record is covered the
specification states no number: it is a free value. -/
def execPersistFenceComplete (qid cid : Nat) (s : State) : Host.Outcome State Fault Refusal :=
  match s.pu.fences.find? fun f => f.qid == qid && f.cid == cid with
  | none => .next s
  | some f =>
    if fenceWaits f s then .next s
    else
      let t := modPu (fun p => { p with fences := p.fences.filter fun x => !(x.qid == qid && x.cid == cid) }) s
      match ((s.pu.chest.filter (fenceRecord f)).map (·.seq)).getLast? with
      | some n => .next (complete qid cid 0 (le 8 n) t)
      | none => .next (complete qid cid 0 (freeBytes 8 s) (advance t))

/-- The unit of a piece that is admitted and waits for its bytes. -/
def reservedPiece (qid cid i : Nat) (s : State) : Option WUnit :=
  (unitsOfCmd qid cid s).find? fun u => unitPiece u == i && u.phase == .reserved

/-- TRANSFER_READY_SEND (R358): for the next piece that is admitted; none during a switch-over (06_pair R222). The low half of the
staging key is a random value, which is free. -/
def execTransferReadySend (qid cid : Nat) (s : State) : Host.Outcome State Fault Refusal :=
  match queueOf qid s, runningCmd qid cid s with
  | some q, some c =>
    let r := eRegion c.entry
    match c.pieces.find? fun p => p.state == .staged && decide (eOpcode c.entry = 0x02 ∧ ePtrKind c.entry = 0 ∧ q.transport = 1) &&
        ((reservedPiece qid cid p.index s).isSome || route r (eOffset c.entry + p.off) s == .partner) with
    | none => .next s
    | some p =>
      if route r (eOffset c.entry + p.off) s = .wait then .next s
      else
        match firstFree (fun n => mhas n s.gqp.transfers) 16384 0 with
        | none => .next s
        | some tag =>
          if 16384 ≤ tag then .next s
          else
            let key := tag * 65536 + (drawn s).toNat % 65536
            let body := le 2 cid ++ le 2 tag ++ le 4 key ++ le 8 p.off ++ le 4 p.len ++ zeros 4
            let s := modGqp (fun g => { g with transfers := mput tag ⟨key, qid, cid, p.index, s.tb.beat⟩ g.transfers }) (advance s)
            .next (sendCapsule q.qpn 3 (le 1 3 ++ zeros 3 ++ le 4 24 ++ body) (modCmd qid cid (setPiece p.index (.ready tag)) s))
  | _, _ => .next s

/-- A command whose pieces may all be settled after a failure ends (R360, R367). -/
def endIfSettled (qid cid : Nat) (s : State) : State :=
  match runningCmd qid cid s with
  | none => s
  | some c => if eOpcode c.entry = 0x04 then copyNext qid cid s else finishWrite qid c s

/-- TRANSFER_TIMEOUT (R360): no complete WRITE with immediate within 2^21 beats of the Transfer-Ready. -/
def execTransferTimeout (tag : Nat) (s : State) : Host.Outcome State Fault Refusal :=
  match mget tag s.gqp.transfers with
  | none => .next s
  | some t =>
    if t.beat + 2097152 ≤ s.tb.beat then
      let s := raise 0x0804 .warning (le 2 t.qid ++ le 2 t.cid ++ le 2 tag) s
      .next (endIfSettled t.qid t.cid (failFrom t.qid t.cid t.piece 0x0302 s))
    else .next s

/-- NOTICE (R362): the first waiting notice is written while the queue pair has room, or sent as a capsule. -/
def execNotice (qid : Nat) (s : State) : Host.Outcome State Fault Refusal :=
  match queueOf qid s with
  | none => .next s
  | some q =>
    match q.notices with
    | [] => .next s
    | b :: rest =>
      if q.transport = 1 then
        match qpAt (q.qpn - 0x10000) s with
        | none => .next s
        | some p =>
          if capsuleReady p then
            .next (sendCapsule q.qpn 5 (le 1 5 ++ zeros 3 ++ le 4 16 ++ b) (modQ qid (fun q => { q with notices := rest }) s))
          else .next s
      else if decide (q.cmds.length + q.unread + 1 < q.cqDepth) && !q.stopped then
        let entry := completionEntry qid 0xFFFF 0 true b q s
        .next (writeEntry qid (.notice qid) entry (modQ qid (fun q => { q with notices := rest }) s))
      else .next s

/-- INTERRUPT_AGGREGATION_EXPIRY (R353): AGG_BEATS beats after the first unsignalled entry; 0 acts as 1. -/
def execInterruptAggregationExpiry (qid : Nat) (s : State) : Host.Outcome State Fault Refusal :=
  match queueOf qid s with
  | none => .next s
  | some q =>
    if 0 < q.unsignalled ∧ q.firstUnsignalled + max 1 q.aggBeats ≤ s.tb.beat then
      .next (emit (.msix q.headNum q.vector) (modQ qid (fun q => { q with unsignalled := 0 }) s))
    else .next s

/-- HOST_MEMORY_FAILURE (R354, R377, R641): kinds 0 and 1 stop the queue pair, kinds 2 to 4 fail the command. -/
def execHostMemoryFailure (qid cid kind address : Nat) (s : State) : Host.Outcome State Fault Refusal :=
  match queueOf qid s with
  | none => .next s
  | some q =>
    if q.transport ≠ 0 then .next s
    else
      let s := raise 0x0803 .error
        (le 2 qid ++ le 2 (if kind = 0 then 0xFFFF else cid) ++ le 1 kind ++ zeros 3 ++ le 8 address) s
      if kind < 2 then
        let s := modQ qid (fun q => { q with stopped := true }) s
        .next (if qid = 0 then modGqp (fun g => { g with aq := { g.aq with fatal := true } }) s else s)
      else
        match findCmd false cid q, findCmd true cid q with
        | some _, _ => .next (refuseCmd qid cid 0x0301 s)
        | none, some _ => .next (endIfSettled qid cid (failFrom qid cid 0 0x0301 s))
        | none, none => .next s

/-- The 48-byte block of a queue pair (13_management R503). -/
def queueBlock (qid : Nat) (q : QueuePair) : Bytes :=
  le 2 qid ++ le 1 q.transport ++ le 1 q.cls ++ le 1 q.domain ++ le 1 q.headNum ++ le 2 q.noticeMask.toNat ++ le 4 q.depth ++
    le 2 q.vector ++ le 1 q.aggCount ++ zeros 1 ++ le 2 q.aggBeats ++ zeros 2 ++ le 4 q.qpn ++ le 4 q.rxSize ++ zeros 4 ++
    le 8 q.sqBase ++ le 8 q.cqBase

/-- Whether a number is a power of two. -/
def isPow2 (n : Nat) : Bool := n != 0 && 2 ^ n.log2 == n

/-- A QP by its QPN (08_remote_access R296). -/
def qpOf (qpn : Nat) (s : State) : Option Qp := if qpn < 0x10000 then none else mget (qpn - 0x10000) s.net.qps

/-- Whether QPN names a CAPSULE QP in RESET or INIT, of the domain, that carries no queue pair (R342 to R344). -/
def capsuleQpOk (qpn dom : Nat) (s : State) : Bool :=
  match qpOf qpn s with
  | none => false
  | some p => p.attr.service == 1 && (p.state == .reset || p.state == .init) && p.attr.gqpDomain == dom &&
      !(s.gqp.pairs.any fun e => e.2.transport == 1 && e.2.qpn == qpn)

/-- CREATE_QUEUE_PAIR (C0B0h, R342 to R344, 13_management R503). -/
def execCreateQueuePair (path : BcsPath) (input : Bytes) (s : State) : Host.Outcome State Fault Refusal :=
  .next (bcs path 0xC0B0 input (input.length == 48) (fun s =>
    let f (o n : Nat) : Nat := fld o n input
    let qid := f 0 2
    let mem := f 2 1 == 0
    checked path 0xC0B0
      [(decide (1 ≤ qid ∧ qid < 16384) && (queueOf qid s).isNone, 0), (decide (f 2 1 < 2), 2), (decide (f 3 1 < 4), 3),
       (mem || (match qpOf (f 20 4) s with
         | some p => p.attr.gqpDomain == f 4 1
         | none => true), 4),
       (if mem then headExists (f 5 1) s else f 5 1 == 0, 5), (f 6 2 % 2 == 0, 6), (decide (2 ≤ f 8 4 ∧ f 8 4 ≤ 65536), 8),
       (if mem then decide (f 12 2 < 2048) else f 12 2 == 0, 12), (mem || f 14 1 == 0, 14), (f 15 1 == 0, 15),
       (mem || f 16 2 == 0, 16), (f 18 2 == 0, 18), (if mem then f 20 4 == 0 else capsuleQpOk (f 20 4) (f 4 1) s, 20),
       (if mem then f 24 4 == 0 else isPow2 (f 24 4) && decide (4096 ≤ f 24 4 ∧ f 24 4 ≤ 1048576), 24), (f 28 4 == 0, 28),
       (if mem then f 32 8 % 4096 == 0 else f 32 8 == 0, 32), (if mem then f 40 8 % 4096 == 0 else f 40 8 == 0, 40)]
      (fun s =>
        let q : QueuePair :=
          { transport := f 2 1, cls := f 3 1, domain := f 4 1, headNum := f 5 1, noticeMask := BitVec.ofNat 16 (f 6 2)
            depth := f 8 4, cqDepth := f 8 4, vector := f 12 2, aggCount := f 14 1, aggBeats := f 16 2, qpn := f 20 4
            rxSize := f 24 4, sqBase := f 32 8, cqBase := f 40 8 }
        success path 0xC0B0 []
          (raise 0x0801 .info (queueEventData qid 0 q) (modGqp (fun g => { g with pairs := mput qid q g.pairs }) s))) s) s)

/-- DELETE_QUEUE_PAIR (C0B1h, R345, 13_management R503): a background command, complete when no command of the queue pair is in
flight. -/
def execDeleteQueuePair (path : BcsPath) (input : Bytes) (s : State) : Host.Outcome State Fault Refusal :=
  .next (bcs path 0xC0B1 input (input.length == 2) (fun s =>
    let qid := fld 0 2 input
    match queueOf qid s with
    | none => invalid path 0xC0B1 0 s
    | some q =>
      if qid = 0 ∨ q.deleting.isSome then invalid path 0xC0B1 0 s
      else inBackground path 0xC0B1 (deleteQueue qid 1 (some path)) s) s)

/-- QUERY_QUEUE_PAIR (C0B2h, 13_management R503). -/
def execQueryQueuePair (path : BcsPath) (input : Bytes) (s : State) : Host.Outcome State Fault Refusal :=
  .next (bcs path 0xC0B2 input (input.length == 2) (fun s =>
    let qid := fld 0 2 input
    match queueOf qid s with
    | none => invalid path 0xC0B2 0 s
    | some q =>
      success path 0xC0B2 (queueBlock qid q ++ le 2 q.sqHead ++ le 2 q.sqTail ++ le 2 q.cqTail ++ le 2 q.cqHead ++
        le 4 q.cmds.length ++ le 1 (b2n q.stopped) ++ zeros 3 ++ le 8 q.completed ++ le 8 q.failed) s) s)

end Sys2Proof.Machine
end

