-- ==== Sys2Proof/Machine/Signing.lean ====
section
/-! DEFINITION. The identity key: signing windows, signatures and what waits for them (14_trust R518 to R521). -/

namespace Sys2Proof.Machine

/-- The identity hash (14_trust R518). -/
def identityHash : Bytes := shake256 32 Config.identityKey

/-- Change the signing part of the key unit. -/
def modSigner (f : Signer → Signer) (s : State) : State := modTrust (fun t => { t with signer := f t.signer }) s

/-- Whether a signature can be made now (R519, R520): the unit is ready, and the next index lies in a reserved window. -/
def canSign (s : State) : Bool := s.trust.signer.ready && decide (s.trust.signer.next / 4096 < s.trust.signer.reserved)

/-- The next signature over a message (R518, R519): its index is used up. -/
def signature (msg : Bytes) (s : State) : Bytes := Config.sign Config.identitySeed s.trust.signer.next msg

/-- Use up an index (R519). When it was the last of its window and the next window is not reserved, signing waits from now on. -/
def useIndex (s : State) : State :=
  modSigner (fun g =>
    { g with
      next := g.next + 1
      waitSince := if (g.next + 1) / 4096 < g.reserved then g.waitSince else g.waitSince.or (some s.tb.beat) }) s

/-- Whether a window is to be reserved now (R519): the first one that is not reserved, when the next index has passed three quarters of
the window before it or stands at its end. -/
def windowDue (w : Nat) (s : State) : Bool :=
  w == s.trust.signer.reserved && decide (w * 4096 ≤ s.trust.signer.next + 1024)

/-- Whether a block belongs to the window log (R541, R557). -/
def windowLogBlock (b : Nat) : Bool := decide (6 ≤ b ∧ b ≤ 8)

/-- Whether a window record can be written now (R544, R545, R558): the die can take a program, and no block of the window log is being
erased. -/
def windowLogFree (s : State) : Bool := dieFree s && !erasing windowLogBlock s

/-- A window record is written (R557): it may end the suspension of an erase (R544), and a full block is followed by the erase of the
next one (R558). -/
def windowRecord (s : State) : State :=
  let s := resumeErase (modNor (fun n => { n with windowUsed := n.windowUsed + 1 }) s)
  if 2048 ≤ s.nor.windowUsed then norSubmit (.erase (6 + (s.nor.windowBlock - 5) % 3) none) s else s

end Sys2Proof.Machine
end

