-- ==== Sys2Proof/Machine/Transform.lean ====
section
/-! DEFINITION. The transform engine: the cycles of the slot table, the jobs of the GQP streams and what they deliver, slice faults and
nonce windows (02_beat R39 to R48, 09_command_queues R373, R374, 11_transform_engine R420 to R444). -/

namespace Sys2Proof.Machine

/-- Change the transform engine. -/
def modTe (f : Te → Te) (s : State) : State := { s with te := f s.te }

/-- The first differing byte of two operands. -/
def firstDiff : Bytes → Bytes → Nat → Option Nat
  | a :: r, b :: q, n => if a = b then firstDiff r q (n + 1) else some n
  | _, _, _ => none

/-- The first poisoned line of an operand, counted from its first line. -/
def firstBadLine (off : Nat) (bad : List Nat) : Option Nat :=
  match bad with
  | [] => none
  | b :: r => some (r.foldl min b - off / 64)

/-- Result of Compare (R373, R443): poison at the first position where it stands comes before a difference there. -/
def compareResult (o1 o2 : Nat) (j : TeJob) : Nat × Bytes :=
  let b1 := firstBadLine o1 j.bad
  let b2 := firstBadLine o2 j.bad2
  let diff := firstDiff j.data j.second 0
  let first := match b1, b2 with
    | some a, some b => some (min a b)
    | some a, none => some a
    | none, b => b
  let poisoned (f : Nat) : Nat × Bytes := (0x0201, le 8 f ++ le 1 (b2n (b1 == some f) + 2 * b2n (b2 == some f)))
  match first, diff with
  | some f, some d => if f ≤ (o1 % 64 + d) / 64 then poisoned f else (0x0202, le 8 d)
  | some f, none => poisoned f
  | none, some d => (0x0202, le 8 d)
  | none, none => (0, [])

/-- Whether PATTERN under MASK matches at the head of the bytes (R444). -/
def patternAt (pat msk b : Bytes) : Bool :=
  decide (pat.length ≤ b.length) && ((List.zipWith (fun x m => x &&& m) b msk) == pat)

/-- The offsets at which a pattern matches (R444). -/
def matchOffsets (pat msk : Bytes) : Bytes → Nat → List Nat
  | [], _ => []
  | b :: r, n => if patternAt pat msk (b :: r) then n :: matchOffsets pat msk r (n + 1) else matchOffsets pat msk r (n + 1)

/-- Result of Scan Pattern (R444, 09_command_queues R368). -/
def scanResult (e data : Bytes) : Bytes :=
  let n := eCdw5 e
  let l := matchOffsets ((slice 32 16 e).take n) ((slice 48 16 e).take n) data 0
  le 8 (l.headD (2 ^ 64 - 1)) ++ le 8 l.length

/-- Result of Check Value (R438, R439, 09_command_queues R373). -/
def checkResult (e data : Bytes) : Nat × Bytes :=
  let w := eCdw5 e
  let v := crcFolded (w % 256) (w / 65536) (fld 40 8 e) data
  if w / 256 % 256 = 1 ∧ v ≠ eArg e then (0x0203, le 8 v) else (0, le 8 v)

/-- The output of Seal (R437): the AAD, the ciphertext, the tag. -/
def sealOutput (aadLen : Nat) (j : TeJob) : Bytes :=
  let aad := j.data.take aadLen
  let c := gcmCrypt j.key j.nonce (j.data.drop aadLen)
  aad ++ c ++ gcmTag j.key j.nonce aad c

/-- The output of Unseal (R437), when the tag verifies. -/
def unsealOutput (aadLen : Nat) (j : TeJob) : Option Bytes :=
  let n := j.data.length - 16
  let aad := j.data.take aadLen
  let c := slice aadLen (n - aadLen) j.data
  if gcmTag j.key j.nonce aad c = j.data.drop n then some (aad ++ gcmCrypt j.key j.nonce c) else none

/-- Deliver the output of Seal or Unseal (R374): to the host buffer at DST_PTR, or as a write to the destination region, with the
result that the completion carries. -/
def deliver (qid : Nat) (q : QueuePair) (c : GqpCmd) (out result : Bytes) (s : State) : State :=
  let e := c.entry
  let r := eRegion2 e
  if r = 0 then
    let s := if q.transport = 1 then sendOut qid 0 q c out s else emit (.hostData qid c.cid (eArg e) out) s
    complete qid c.cid 0 result s
  else
    match regionStatus q.domain r (eArg e) out.length true s with
    | some st => complete qid c.cid (if st = 0x0101 then st else 0x0102) []
        (if st = 0x0101 then refuseWrite r 2 (eArg e) s else s)
    | none =>
      let l := pieceList 0 r (eArg e) out.length s
      let c' := { c with pieces := l, result := result, src := [] }
      launchPieces qid c' r (eArg e) out (modCmd qid c.cid (fun _ => c') s)

/-- A transform command whose last work item is done: its status and its output (R373, R374). -/
def finishJob (j : TeJob) (s : State) : State :=
  match queueOf j.qid s, runningCmd j.qid j.cid s with
  | some q, some c =>
    let e := c.entry
    let op := eOpcode e
    if op = 0x05 then
      let r := compareResult (eOffset e) (if eRegion2 e = 0 then 0 else eArg e) j
      let s := if r.1 = 0x0201 then
          (if j.bad.isEmpty then poisonBites 2 (eRegion2 e) (j.bad2.take 1) s else poisonBites 2 (eRegion e) (j.bad.take 1) s)
        else s
      complete j.qid j.cid r.1 r.2 s
    else
      match firstBadLine (eOffset e) j.bad with
      | some f => complete j.qid j.cid 0x0201 (le 8 f) (poisonBites 2 (eRegion e) j.bad s)
      | none =>
        if op = 0x08 then
          let r := checkResult e j.data
          complete j.qid j.cid r.1 r.2 s
        else if op = 0x09 then complete j.qid j.cid 0 (scanResult e j.data) s
        else if op = 0x0A then deliver j.qid q c (sealOutput (fld 44 4 e) j) j.nonce s
        else
          match unsealOutput (fld 44 4 e) j with
          | some out => deliver j.qid q c out [] s
          | none =>
            complete j.qid j.cid 0x0204 []
              (raiseLimited 0x0A06 j.qid .warning (fun n => le 2 j.qid ++ le 4 (eKeySlot e) ++ zeros 2 ++ le 4 n) s)
  | _, _ => s

/-- The jobs of a stream. -/
def jobsOf (st : Nat) (s : State) : List TeJob := mgetD [] st s.te.jobs

/-- Replace the jobs of a stream. -/
def setJobs (st : Nat) (l : List TeJob) (s : State) : State :=
  modTe (fun t => { t with jobs := if l.isEmpty then mdel st t.jobs else mput st l t.jobs }) s

/-- The key and the nonce of the first work item (R428, R434): none when the key slot cannot be used any more. -/
def beginJob (j : TeJob) (e : Bytes) (dom : Nat) (s : State) : Option (TeJob × State) :=
  let op := eOpcode e
  if op = 0x0A then
    (commandKey true dom (eKeySlot e) s).map fun k => ({ j with begun := true, key := k, nonce := hwNonce s }, bumpNonce s)
  else if op = 0x0B then
    (commandKey false dom (eKeySlot e) s).map fun k => ({ j with begun := true, key := k, nonce := slice 48 12 e }, s)
  else some ({ j with begun := true }, s)

/-- One work item of a job (R442): W bytes of payload with up to 32 bytes of AAD beside them, or W bytes of AAD. -/
def jobCycle (w : Nat) (j : TeJob) : TeJob :=
  if 0 < j.todo then { j with todo := j.todo - w, aad := j.aad - 32 } else { j with aad := j.aad - w }

/-- Serve a GQP stream for one cycle (R427). -/
def serveGqp (st : Nat) (s : State) : State :=
  match jobsOf st s with
  | [] => s
  | j :: rest =>
    match queueOf j.qid s, runningCmd j.qid j.cid s with
    | some q, some c =>
      if !j.begun ∧ eOpcode c.entry = 0x0A ∧ !nonceReady s then noteNonceWait s
      else
        match (if j.begun then some (j, s) else beginJob j c.entry q.domain s) with
        | none => complete j.qid j.cid 0x0002 [] (setJobs st rest s)
        | some (j, s) =>
          let j := jobCycle (cycleWidth s) j
          if j.todo = 0 ∧ j.aad = 0 then finishJob j (setJobs st rest s) else setJobs st (j :: rest) s
    | _, _ => setJobs st rest s

/-- A capture stream has work: the first record of the buffer that is not checked (10_capture_replay R391, R418). -/
def captureWork (p : Nat) (s : State) : Bool :=
  match mget p s.cap.rings with
  | some r => r.buffer.any fun b => b.checkLeft != 0
  | none => false

/-- One cycle of check work on the first record that has any. -/
def checkBuffer (w : Nat) : List BufRec → List BufRec
  | [] => []
  | b :: r => if b.checkLeft = 0 then b :: checkBuffer w r else { b with checkLeft := b.checkLeft - w } :: r

/-- A replay stream has work (10_capture_replay R410). -/
def replayWork (c : Nat) (s : State) : Bool :=
  match mget c s.cap.channels with
  | some x => x.items.any fun i => i.checkLeft != 0
  | none => false

/-- One cycle of check work on the first replay record that has any. -/
def checkItems (w : Nat) : List ReplayItem → List ReplayItem
  | [] => []
  | i :: r => if i.checkLeft = 0 then i :: checkItems w r else { i with checkLeft := i.checkLeft - w } :: r

/-- Whether a stream has a work item ready (02_beat R42). -/
def streamReady (st : Nat) (s : State) : Bool :=
  if 0x40 ≤ st then !(jobsOf st s).isEmpty
  else if 0x30 ≤ st then replayWork (st - 0x30) s
  else if 0x20 ≤ st then captureWork (st - 0x20) s
  else false

/-- Give a stream one cycle. -/
def serveStream (st : Nat) (s : State) : State :=
  if 0x40 ≤ st then serveGqp st s
  else if 0x30 ≤ st then
    { s with cap := { s.cap with channels := mmod (st - 0x30) (fun c => { c with items := checkItems (cycleWidth s) c.items }) s.cap.channels } }
  else { s with cap := { s.cap with rings := mmod (st - 0x20) (fun r => { r with buffer := checkBuffer (cycleWidth s) r.buffer }) s.cap.rings } }

/-- The active copy of the slot table. -/
def activeTable (s : State) : AMap (BitVec 16) := if s.slot.activeB then s.slot.copyB else s.slot.copyA

/-- The stream that a cycle is granted to (02_beat R39). -/
def grantedStream (c : Nat) (s : State) : Option Nat :=
  let e := mgetD 0 c (activeTable s)
  if e.msb then some (e.toNat % 256) else none

/-- The next ready stream after the round-robin pointer (02_beat R42). -/
def nextReady (s : State) : Option Nat :=
  (((List.range 256).map fun i => (s.slot.rrPointer + 1 + i) % 256).find? fun st => streamReady st s)

/-- TRANSFORM_CYCLE (02_beat R34, R41, R42): the next cycle of the beat serves its granted stream when that is ready, else the next
ready stream in round-robin order. -/
def execTransformCycle (s : State) : Host.Outcome State Fault Refusal :=
  let c := s.slot.cycle
  if 1024 ≤ c ∨ s.te.active = 0 then .next s
  else
    let t := { s with slot := { s.slot with cycle := c + 1 } }
    match grantedStream c s with
    | some g =>
      if streamReady g s then .next (serveStream g t)
      else match nextReady s with
        | some st => .next (serveStream st { t with slot := { t.slot with rrPointer := st } })
        | none => .next t
    | none =>
      match nextReady s with
      | some st => .next (serveStream st { t with slot := { t.slot with rrPointer := st } })
      | none => .next t

/-- Count the backlog of every stream at a boundary (02_beat R47). -/
def countBacklog (s : State) : State :=
  let l := (List.range 256).filter fun st => streamReady st s
  { s with slot := { s.slot with
      backlog := l.map fun st => (st, satAdd 0xFFFFFFFF (mgetD 0 st s.slot.backlog) 1)
      backlogReported := s.slot.backlogReported.filter fun st => l.contains st, cycle := 0 } }

/-- BACKLOG_LIMIT (02_beat R47): a stream's backlog counter has reached 1,024. -/
def execBacklogLimit (stream : Nat) (s : State) : Host.Outcome State Fault Refusal :=
  if 1024 ≤ mgetD 0 stream s.slot.backlog ∧ !s.slot.backlogReported.contains stream then
    .next (raise 0x0102 .warning (le 1 stream ++ zeros 3 ++ le 4 1024)
      { s with tb := { s.tb with slotOvr := true }, slot := { s.slot with backlogReported := stream :: s.slot.backlogReported } })
  else .next s

/-- Every transform command on a stream fails when no slice is left (R424). -/
def failJobs (s : State) : State :=
  let l := s.te.jobs.flatMap (·.2)
  l.foldl (fun s j => complete j.qid j.cid 0x0205 [] s) (modTe (fun t => { t with jobs := [] }) s)

/-- SLICE_FAULT (R422, R424): an active slice reports a fault and is removed; with no slice left, transform commands fail and the
pairing link goes down. -/
def execSliceFault (slice : Nat) (s : State) : Host.Outcome State Fault Refusal :=
  if !s.te.active.getLsbD slice ∨ 17 ≤ slice then .next s
  else
    let off : BitVec 17 := ~~~ BitVec.ofNat 17 (2 ^ slice)
    let s := modTe (fun t => { t with
      sliceOk := t.sliceOk &&& off, active := t.active &&& off, sliceFault := true
      losses := t.losses ++ [⟨slice, s.tb.beat⟩] }) s
    if s.te.active = 0 ∧ s.te.spare.isNone then
      let s := raise 0x0A07 .fatal (le 3 s.te.sliceOk.toNat) s
      .next (failJobs { s with pair := { s.pair with link := { s.pair.link with
        state := if s.pair.link.state = .down then .down else .train } } })
    else .next s

/-- SPARE_SLICE_ACTIVATION (R422, 02_beat R48): at the boundary after the fault the spare takes the slice's place, or the loss is
reported with the new cycle width. -/
def execSpareSliceActivation (s : State) : Host.Outcome State Fault Refusal :=
  match s.te.losses with
  | [] => .next s
  | l :: rest =>
    if s.tb.beat ≤ l.beat then .next s
    else
      let s := modTe (fun t => { t with losses := rest }) s
      match s.te.spare with
      | some sp =>
        let s := modTe (fun t => { t with spare := none, active := t.active ||| BitVec.ofNat 17 (2 ^ sp) }) s
        .next (noteSpare 4 (wearLog 0x0005 (le 1 l.slice ++ le 1 1)
          (raise 0x0A01 .warning (le 1 l.slice ++ le 1 sp ++ zeros 6 ++ le 8 s.tb.beat) s)))
      | none =>
        let s := raise 0x0A02 .error (le 1 l.slice ++ le 1 (activeSlices s)) s
        .next (noteSpare 4 (wearLog 0x0005 (le 1 l.slice ++ le 1 1) (raise 0x0105 .warning (le 2 (cycleWidth s)) s)))

/-- NONCE_WINDOW_RESERVATION (R434): the next window is reserved once its record is complete in the configuration flash. It is due for
the first window, and when the counter has passed three quarters of the highest reserved one. Sealed programs and Seals then go on. -/
def execNonceWindowReservation (window : Nat) (s : State) : Host.Outcome State Fault Refusal :=
  let due := match s.te.window with
    | none => window == 0
    | some w => window == w + 1 && decide (w * 2 ^ 32 + 3 * 2 ^ 30 ≤ s.te.nonce)
  if !due || !windowLogFree s then .next s
  else
    let s := raise 0x0A04 .info (le 8 (window * 2 ^ 32)) (modTe (fun t => { t with window := some window }) (windowRecord s))
    match s.te.waitFrom with
    | none => .next s
    | some b =>
      .next (raise 0x0A05 .warning (le 4 (s.tb.beat - b) ++ zeros 4 ++ le 8 s.te.nonce)
        (modTe (fun t => { t with waitFrom := none }) s))

/-- KEY_SLOT_CHANGE_EFFECT (R428): at the boundary a destroyed or replaced key is gone for later operations. Operations that began
before hold their own key. -/
def execKeySlotChangeEffect (slot : Nat) (s : State) : Host.Outcome State Fault Refusal :=
  .next (modTe (fun t => { t with
    keyChanges := t.keyChanges.filter fun k => !(k.slot == slot && decide (k.beat ≤ s.tb.beat)) }) s)

end Sys2Proof.Machine
end

