-- ==== Sys2Proof/Machine/Timebase.lean ====
section
/-! DEFINITION. Meanings of the beat counter, timebase and slot-table rows (02_beat). -/

namespace Sys2Proof.Machine

/-- Change the timebase. -/
def modTb (f : Timebase → Timebase) (s : State) : State := { s with tb := f s.tb }

/-- A read of DCB.BEAT_LO latches bits 63 to 32 (R33). -/
def latchBeat (s : State) : State := modTb (fun t => { t with beatHi := BitVec.ofNat 32 (t.beat / 2 ^ 32) }) s

/-- A read of DCB.TOD_LO latches bits 63 to 32 (R58). -/
def latchTod (s : State) : State := modTb (fun t => { t with todHi := BitVec.ofNat 32 (t.tod / 2 ^ 32) }) s

/-- A read of DCB.TE_NCTR_LO latches bits 63 to 32 (11_transform_engine R445). -/
def latchNonce (s : State) : State := modTe (fun t => { t with nctrHi := BitVec.ofNat 32 (t.nonce / 2 ^ 32) }) s

/-- A read of DCB.UE_LOG_LO latches bits 63 to 32 (12_integrity R475). -/
def latchUeLog (s : State) : State := { s with ecc := { s.ecc with logHi := BitVec.ofNat 32 (s.ecc.logAddr / 2 ^ 32) } }

/-- BEAT_LO_READ (R33). -/
def execBeatLoRead (s : State) : Host.Outcome State Fault Refusal := .next (emit (.regRead (BitVec.ofNat 32 s.tb.beat)) (latchBeat s))

/-- TOD_LO_READ (R58). -/
def execTodLoRead (s : State) : Host.Outcome State Fault Refusal := .next (emit (.regRead (BitVec.ofNat 32 s.tb.tod)) (latchTod s))

/-- TE_NCTR_LO_READ (11_transform_engine R445). -/
def execTeNctrLoRead (s : State) : Host.Outcome State Fault Refusal := .next (emit (.regRead (BitVec.ofNat 32 s.te.nonce)) (latchNonce s))

/-- UE_LOG_LO_READ (12_integrity R475). -/
def execUeLogLoRead (s : State) : Host.Outcome State Fault Refusal := .next (emit (.regRead (BitVec.ofNat 32 s.ecc.logAddr)) (latchUeLog s))

/-- PPS_OUT is held low while it is not enabled or the timebase is FREE (R57). -/
def holdPps (s : State) : State :=
  if s.tb.ppsOut && (!s.tb.ppsOutEn || s.tb.mode == .free) then emit (.ppsOut false) (modTb (fun t => { t with ppsOut := false }) s) else s

/-- Enter a timebase state (R52, R54): a change is recorded. -/
def enterMode (m : TbMode) (s : State) : State :=
  if s.tb.mode = m then s
  else
    holdPps <| raise 0x0101 .info (le 1 s.tb.mode.code ++ le 1 m.code ++ zeros 6 ++ leInt 8 s.tb.lastOffset)
      (modTb (fun t => { t with mode := m, stepDone := false, goodSince := none }) s)

/-- Units of 250 ps in a second. -/
def unitsPerSecond : Nat := 4000000000

/-- The offset above which time of day is stepped: 1 ms (R52). -/
def stepLimit : Int := 4000000

/-- TIME_STEP (R52): time of day is stepped by an offset. -/
def stepTime (off : Int) (s : State) : State :=
  raise 0x0106 .info (leInt 8 off)
    (modTb (fun t => { t with tod := ((t.tod + off : Int) % (2 ^ 64 : Int)).toNat, stepped := true, stepDone := true }) s)

/-- A slewed offset: the discipline changes the frequency within 200 ppm (R49). How far it changes it is not stated: it is a free
value within that bound. -/
def slew (s : State) : State :=
  advance (modTb (fun t => { t with freqAdj := (((drawn s).toNat % 3435973 : Nat) : Int) - 1717986 }) s)

/-- Take an offset from the selected source (R52, R53): the offset is the source's time less time of day. -/
def takeOffset (off : Int) (s : State) : State :=
  let s := modTb (fun t => { t with lastOffset := off }) s
  let s := if s.tb.mode = .free ∨ s.tb.mode = .holdover then enterMode .acquire s else s
  let small := decide (-400 ≤ off ∧ off ≤ 400)
  let s := modTb (fun t => { t with goodSince := if small then t.goodSince.or (some t.beat) else none }) s
  if s.tb.mode = .acquire ∧ !s.tb.stepDone ∧ (stepLimit < off ∨ off < -stepLimit) then stepTime off s else slew s

/-- Whether the PTP source can be used: the port is a fabric port with its link up (R51). -/
def ptpUsable (port : Nat) (s : State) : Bool :=
  (s.tb.srcSel == 1 || s.tb.srcSel == 3) && s.tb.ptpPort == port &&
    match mget port s.net.ports with
    | some p => p.up && !p.instrument
    | none => false

/-- PTP_MESSAGE (R51 to R53): the offset that the message gives disciplines time of day. -/
def execPtpMessage (port : Nat) (_sync : Bool) (offset : Int) (s : State) : Host.Outcome State Fault Refusal :=
  if ptpUsable port s then .next (takeOffset offset s) else .next s

/-- The source is lost (R53). -/
def loseSource (pps : Bool) (s : State) : State :=
  let s := modTb (fun t => { t with srcLost := true, ppsMiss := t.ppsMiss || pps }) s
  let s := if pps then raise 0x0107 .warning (le 8 s.tb.lastGoodEdge) (modTb (fun t => { t with lastEdgeBeat := none }) s) else s
  if s.tb.mode = .locked then enterMode .holdover s else if s.tb.mode = .acquire then enterMode .free s else s

/-- Whether an edge at beat `b` is within 1 s and 1 ms of the previous one (R53). -/
def edgeInWindow (b last : Nat) : Bool := decide (last + 1951172 ≤ b ∧ b ≤ last + 1955078)

/-- PPS_IN_EDGE (R53, R56): an active edge disciplines the phase; one out of its window counts as a loss. -/
def execPpsInEdge (rising : Bool) (offset : Int) (s : State) : Host.Outcome State Fault Refusal :=
  if rising = s.tb.ppsInPol ∨ !(s.tb.srcSel = 2 ∨ s.tb.srcSel = 3) then .next s
  else
    let ok := match s.tb.lastEdgeBeat with
      | none => true
      | some l => edgeInWindow s.tb.beat l
    let s := if ok then s else loseSource true s
    .next (takeOffset offset
      (modTb (fun t => { t with lastEdgeBeat := some t.beat, lastGoodEdge := t.tod }) s))

/-- TIMEBASE_SOURCE_LOST (R53): four Sync intervals without a Sync, or no PPS_IN edge in its window. -/
def execTimebaseSourceLost (pps : Bool) (s : State) : Host.Outcome State Fault Refusal :=
  let selected := if pps then decide (s.tb.srcSel = 2 ∨ s.tb.srcSel = 3) else decide (s.tb.srcSel = 1 ∨ s.tb.srcSel = 3)
  let due := if pps then
      match s.tb.lastEdgeBeat with
      | some l => decide (l + 1955078 < s.tb.beat)
      | none => false
    else true
  if selected && due && (s.tb.mode == .locked || s.tb.mode == .acquire) then .next (loseSource pps s) else .next s

/-- TIMEBASE_LOCKED (R52): the offset has stayed within 100 ns for 16 seconds, 31,250,000 beats. -/
def execTimebaseLocked (s : State) : Host.Outcome State Fault Refusal :=
  match s.tb.goodSince with
  | none => .next s
  | some b =>
    if s.tb.mode = .acquire ∧ b + 31250000 ≤ s.tb.beat then .next (enterMode .locked s) else .next s

/-- PPS_OUT_RISE (R57): time of day crosses a whole second in this beat. -/
def execPpsOutRise (s : State) : Host.Outcome State Fault Refusal :=
  let t := s.tb
  let crosses := t.tod % unitsPerSecond == 0 || decide (t.tod / unitsPerSecond < (t.tod + 2047) / unitsPerSecond)
  if t.ppsOutEn && t.mode != .free && !t.ppsOut && crosses then
    .next (emit (.ppsOut true) (modTb (fun t => { t with ppsOut := true, ppsRise := (t.tod + 2047) / unitsPerSecond }) s))
  else .next s

/-- PPS_OUT_FALL (R57): 100 ms after its rise, or when PPS_OUT is held low. -/
def execPpsOutFall (s : State) : Host.Outcome State Fault Refusal :=
  let t := s.tb
  if t.ppsOut && (!t.ppsOutEn || t.mode == .free || decide (t.ppsRise * unitsPerSecond + 400000000 ≤ t.tod)) then
    .next (emit (.ppsOut false) (modTb (fun t => { t with ppsOut := false }) s))
  else .next s

/-- Advance time of day over one beat (R49): 1,024 cycles of 2.0 units, with the frequency correction in units of 2^-32. -/
def advanceTod (t : Timebase) : Timebase :=
  let total := (t.todFrac : Int) + 1024 * (8589934592 + t.freqAdj)
  { t with tod := (t.tod + (total / 4294967296).toNat) % 2 ^ 64, todFrac := (total % 4294967296).toNat }

/-- The boundary of the timebase (R32, R38): the counter rises, and the beat-start time is latched. -/
def beatTick (s : State) : State :=
  modTb (fun t => let t := advanceTod t; { t with beat := t.beat + 1, beatStart := t.tod }) s

/-- The image of a slot table copy (R39). -/
def tableImage (m : AMap (BitVec 16)) : Bytes := (List.range 1024).flatMap fun i => le 2 (mgetD 0 i m).toNat

/-- GET_SLOT_TABLE (C090h, 13_management R502). -/
def execGetSlotTable (path : BcsPath) (input : Bytes) (s : State) : Host.Outcome State Fault Refusal :=
  .next (bcs path 0xC090 input (input.length == 1) (fun s =>
    let c := fld 0 1 input
    checked path 0xC090 [(decide (c < 2), 0)] (fun s =>
      success path 0xC090 (le 1 c ++ le 1 (b2n ((c == 1) == s.slot.activeB)) ++ zeros 6 ++
        tableImage (if c = 0 then s.slot.copyA else s.slot.copyB)) s) s) s)

/-- Write entries from an index on. -/
def putEntries : Nat → List Bytes → AMap (BitVec 16) → AMap (BitVec 16)
  | _, [], m => m
  | i, e :: r, m => putEntries (i + 1) r (if leVal e = 0 then mdel i m else mput i (BitVec.ofNat 16 (leVal e)) m)

/-- SET_SLOT_TABLE (C091h, 13_management R502): entries of the pending copy. -/
def execSetSlotTable (path : BcsPath) (input : Bytes) (s : State) : Host.Outcome State Fault Refusal :=
  let n := fld 2 2 input
  .next (bcs path 0xC091 input (decide (8 ≤ input.length) && input.length == 8 + 2 * n) (fun s =>
    let first := fld 0 2 input
    checked path 0xC091
      [(decide (first + n ≤ 1024), 0), (decide (1 ≤ n ∧ n ≤ 1024), 2), (zeroAt 4 4 input, 4)] (fun s =>
        let l := chunksOf 2 (input.drop 8)
        success path 0xC091 []
          { s with slot := if s.slot.activeB then { s.slot with copyA := putEntries first l s.slot.copyA }
              else { s.slot with copyB := putEntries first l s.slot.copyB } }) s) s)

/-- Whether a stream is enabled (13_management R502). -/
def streamEnabled (st : Nat) (s : State) : Bool :=
  if st = 0 then false
  else if st ≤ 0x12 then true
  else if st < 0x20 then false
  else if st < 0x40 then
    match mget (st % 16) s.net.ports with
    | some p => p.instrument
    | none => false
  else s.te.bound.any fun b => b.2 == st

/-- Whether an entry may be activated (R44). -/
def entryOk (e : BitVec 16) (s : State) : Bool :=
  let n := e.toNat
  n / 256 % 128 == 0 && (if e.msb then streamEnabled (n % 256) s else n % 256 == 0)

/-- ACTIVATE_SLOT_TABLE (C092h, R43, R44): the copies swap at the next boundary, and the command completes there. -/
def execActivateSlotTable (path : BcsPath) (input : Bytes) (s : State) : Host.Outcome State Fault Refusal :=
  .next (bcs path 0xC092 input (input.length == 0) (fun s =>
    if s.slot.activation.isSome then answer path 0xC092 0x0006 [] s
    else
      let copy := if s.slot.activeB then 0 else 1
      match (if s.slot.activeB then s.slot.copyA else s.slot.copyB).find? fun e => !entryOk e.2 s with
      | some e => invalid path 0xC092 0 (raise 0x0104 .error (le 1 copy ++ zeros 1 ++ le 2 e.1) s)
      | none => { s with slot := { s.slot with activation := some ⟨path, s.tb.beat + 1⟩ } }) s)

/-- SLOT_TABLE_SWAP (R43): the pending copy is active from the boundary on. -/
def execSlotTableSwap (s : State) : Host.Outcome State Fault Refusal :=
  match s.slot.activation with
  | none => .next s
  | some a =>
    if a.beat ≤ s.tb.beat then
      let s := { s with slot := { s.slot with activeB := !s.slot.activeB, activation := none } }
      let copy := b2n s.slot.activeB
      .next (answer a.path 0xC092 0 (le 8 s.tb.beat ++ le 1 copy)
        (raise 0x0103 .info (le 1 copy ++ zeros 7 ++ le 8 s.tb.beat) s))
    else .next s

end Sys2Proof.Machine
end

