-- ==== Sys2Proof/Machine/Net.lean ====
section
/-! DEFINITION. Operations of the RDMA transport: key checks, the receive and completion rings, triggers, answers in PSN order, the
send queue, the error state and multipath placement (08_remote_access). -/

namespace Sys2Proof.Machine

/-- A frame dropped on a port (R293). -/
def dropOn (port : Nat) (s : State) : State := modNet (fun n => { n with ports := mmod port (fun p => { p with drops := p.drops + 1 }) n.ports }) s

/-- Set error bits of a port (R293). -/
def portErr (port : Nat) (b : BitVec 4) (s : State) : State :=
  modNet (fun n => { n with ports := mmod port (fun p => { p with err := p.err ||| b }) n.ports }) s

/-- Messages accepted that will take a completion entry. -/
def entriesDue (q : Qp) : Nat := (q.rx.filter fun m => m.imm.isSome || m.isSend).length

/-- Free completion entries (R314). -/
def cplFree (q : Qp) : Nat :=
  if q.attr.cplRing.region = 0 then 0 else 2 ^ q.attr.cplRing.logCount - q.cplOut.length - entriesDue q

/-- Free receive slots (R314). -/
def slotsFree (q : Qp) : Nat :=
  if q.attr.recvRing.region = 0 then 0
  else 2 ^ q.attr.recvRing.logCount - (q.cplOut.filter id).length - (q.rx.filter fun m => m.slot.isSome).length

/-- Read HEAD of the completion ring and free the entries before it (R313, R314). -/
def refreshHead (i : Nat) (s : State) : State :=
  match qpAt i s with
  | none => s
  | some q =>
    let c := q.attr.cplRing
    if c.region = 0 then s
    else
      let n := 2 ^ c.logCount
      let head := leVal (readBytes c.region c.offset 4 s)
      let freed := (head + n - q.cplHead) % n
      if head < n ∧ freed ≤ q.cplOut.length then modQp i (fun q => { q with cplHead := head, cplOut := q.cplOut.drop freed }) s else s

/-- The free entries of a capsule queue pair's submission ring (09_command_queues R357). -/
def capsuleFree (i : Nat) (s : State) : Nat :=
  match s.gqp.pairs.find? fun e => e.2.transport == 1 && e.2.qpn == qpnOf i with
  | some e => e.2.depth - 1 - e.2.ring.length
  | none => 0

/-- Credits that an AETH reports (R314, 09_command_queues R357). -/
def creditsOf (i : Nat) (s : State) : Nat :=
  match qpAt i s with
  | some q => creditCode (if q.attr.service = 1 then capsuleFree i s else slotsFree q)
  | none => 0

/-- TRIGGER_MATCH (R321): an entry with an immediate was posted on a QP. -/
def matchTriggers (i imm : Nat) (s : State) : State :=
  let hits := s.net.triggers.filter fun e =>
    (e.2.kind == 1 || e.2.kind == 2) && e.2.watch == qpnOf i && Nat.land imm e.2.mask == e.2.value
  hits.foldl (fun s e =>
    if e.2.kind = 2 then modNet (fun n => { n with counters := mmodD 0 e.2.counter (fun c => (c + 1) % 2 ^ 32) n.counters }) s
    else modNet (fun n => { n with
      fired := n.fired ++ [⟨e.1, e.2.sendQpn, e.2.first, e.2.count⟩]
      triggers := if e.2.rearm then n.triggers else mdel e.1 n.triggers }) s) s

/-- Post a completion entry (R313): one write to the ring; an entry with an immediate is matched by the triggers. -/
def postCpl (i kind : Nat) (error : Bool) (imm : Option Nat) (status length slot msn : Nat) (usesSlot : Bool) (s : State) : State :=
  match qpAt i s with
  | none => s
  | some q =>
    let c := q.attr.cplRing
    if c.region = 0 then s
    else
      let e := le 4 (imm.getD 0) ++ le 1 kind ++ le 1 (b2n q.cplPhase + 2 * b2n imm.isSome + 4 * b2n error) ++ le 1 status ++ zeros 1 ++
        le 4 length ++ le 4 slot ++ le 3 msn ++ zeros 1 ++ le 8 s.tb.beat ++ zeros 4
      let s := submitWrite .background c.region (c.offset + 64 + 32 * q.cplNext) e [] s
      let last := q.cplNext + 1 == 2 ^ c.logCount
      let s := modQp i (fun q => { q with
        cplNext := if last then 0 else q.cplNext + 1, cplPhase := if last then !q.cplPhase else q.cplPhase
        cplOut := q.cplOut ++ [usesSlot] }) s
      match imm with
      | some v => if kind = 0x10 then s else matchTriggers i v s
      | none => s

/-- Read bytes of a work request. -/
def wrOp (b : Bytes) : Nat := fld 0 1 b

/-- A work request ends (R319, R321, R323): its completion when SIGNALED, and its counter on success. The specification numbers the
messages of a responder; MSN of a triggered request's entry is a free value. -/
def endWr (i status : Nat) (w : SentWr) (s : State) : State :=
  let flags := if w.capsule.isSome then 0 else fld 1 1 w.bytes
  let s := if bitOf 0 flags then
      postCpl i 0x10 (status != 0) none status (fld 16 4 w.bytes) (fld 52 4 w.bytes) ((drawn s).toNat % psnMod) false (advance s)
    else s
  if bitOf 3 flags ∧ status = 0 then
    modNet (fun n => { n with counters := mmodD 0 (fld 4 2 w.bytes % 1024) (fun c => (c + 1) % 2 ^ 32) n.counters }) s
  else s

/-- Units of a QP that are not acknowledged: those of its messages. -/
def qpUnits (i : Nat) (s : State) : List WUnit :=
  s.pu.units.filter fun u =>
    match u.src with
    | .rdma q _ _ => q == i
    | .multipath q _ _ => q == i
    | _ => false

/-- A QP enters the error state (R324): its work is flushed, the triggers that send on it are freed, its units that are not
acknowledged are abandoned, its contexts are discarded. `cause` and `status` go into event 0x0702. -/
def qpFail (i cause status psn : Nat) (s : State) : State :=
  match qpAt i s with
  | none => s
  | some q =>
    if q.state = .err then s
    else
      let s := raise 0x0702 .warning (le 3 (qpnOf i) ++ le 1 cause ++ le 1 status ++ le 3 psn) s
      let s := q.sends.foldl (fun s w => endWr i 0x81 w s) s
      let s := (qpUnits i s).foldl (fun s u => abandonUnit u s) s
      let s := modQp i (fun q => { q with state := .err, sends := [], rx := [], mp := [], rnrUntil := none, mpAckDue := false }) s
      let s := modNet (fun n => { n with triggers := n.triggers.filter fun t => t.2.sendQpn != qpnOf i }) s
      dropQpQueues (qpnOf i) s

/-- Answer with a NAK that moves the QP to the error state (R316). -/
def nakFail (i psn syndrome : Nat) (s : State) : State :=
  qpFail i 3 syndrome psn (countQp i 2 1 (emit (.rdmaNak i psn syndrome) s))

/-- Answer with an RNR NAK of a timer code (R306). -/
def rnrNak (i psn code : Nat) (s : State) : State := countQp i 5 1 (emit (.rdmaNak i psn (0x20 + code)) s)

/-- A key that passed its checks: the region, and the offset of the access. -/
structure KeyHit where
  index : Nat
  region : Nat
  off : Nat
deriving DecidableEq, Repr, Inhabited

/-- The key check (R303): the right is bit 0 READ, 1 WRITE, 2 ATOMIC, 3 FLUSH, 4 MULTIPATH; more than one may be needed. -/
def keyCheck (q : Qp) (rkey : Nat) (rights : List Nat) (va len : Nat) (wr : Bool) (s : State) : Option KeyHit :=
  let i := rkey / 4096
  match mget i s.trust.memKeys with
  | none => none
  | some k =>
    let off := k.basePage * 4096 + va
    match regionOf k.region s with
    | none => none
    | some d =>
      if !k.revoking && (mgetD 0 i s.trust.memTags) == rkey % 4096 && k.domain == q.attr.keyDomain &&
          (rights.all fun r => k.rights.getLsbD r) && decide (va + len ≤ k.lenPages * 4096) && d.state != .offline &&
          !removedFrom k.region off len s && inRegion d off len && (!wr || !writeRefused k.region d off len s) then
        some (KeyHit.mk i k.region off)
      else none

/-- A write that the last check of R303 refuses is also counted as refused (05_regions R179, R188). -/
def noteRefused (rkey va len : Nat) (s : State) : State :=
  match mget (rkey / 4096) s.trust.memKeys with
  | none => s
  | some k =>
    match regionOf k.region s with
    | none => s
    | some d =>
      let off := k.basePage * 4096 + va
      if writeRefused k.region d off len s then refuseWrite k.region 1 off s else s

/-- A CNP for a packet marked ECN-CE, at most one per QP in 32 beats (R315). -/
def sendCnp (i : Nat) (s : State) : State :=
  match qpAt i s with
  | none => s
  | some q =>
    match q.lastCnpTx with
    | some b => if s.tb.beat < b + 32 then s else emit (.cnp i) (modQp i (fun q => { q with lastCnpTx := some s.tb.beat }) s)
    | none => emit (.cnp i) (modQp i (fun q => { q with lastCnpTx := some s.tb.beat }) s)

/-- Answer a message that is complete (R307 to R310, R313). -/
def answerRx (i : Nat) (m : RxMsg) (s : State) : State :=
  match qpAt i s with
  | none => s
  | some q =>
    let last := (m.psn + m.packets - 1) % psnMod
    let s := modQp i (fun q => { q with msn := (q.msn + 1) % psnMod }) s
    let msn := (q.msn + 1) % psnMod
    let post (s : State) : State :=
      if m.isSend then postCpl i (if m.imm.isSome then 1 else 0) false m.imm 0 m.length (m.slot.getD 0xFFFFFFFF) msn m.slot.isSome s
      else if m.imm.isSome then postCpl i 2 false m.imm 0 m.length 0xFFFFFFFF msn false s else s
    match m.kind with
    | .read =>
      let mtu := mtuOf q.attr.pmtu
      let bytes := (m.data.map (·.2)).flatten
      match (m.bad.foldl (fun l k => setInsert k l) []).head? with
      | none => emit (.rdmaRead i m.psn bytes) s
      | some b =>
        let good := (b * 64 - m.off) / mtu
        let s := emit (.rdmaRead i m.psn (bytes.take (good * mtu))) s
        nakFail i ((m.psn + good) % psnMod) 0x63 (poisonBites 3 m.region m.bad s)
    | .atomic =>
      let o := m.original.getD 0
      emit (.rdmaAtomic i m.psn o) (modQp i (fun q => { q with
        atomics := (q.atomics ++ [AtomicResult.mk m.psn o]).drop (q.atomics.length + 1 - max 1 q.attr.rdIn) }) s)
    | _ => post (emit (.rdmaAck i last (creditsOf i s) msn) s)

/-- Answer the messages at the head of a QP that are complete, in PSN order. -/
def flushRx (i : Nat) : Nat → State → State
  | 0, s => s
  | n + 1, s =>
    match qpAt i s with
    | none => s
    | some q =>
      match q.rx with
      | [] => s
      | m :: rest =>
        if m.left = 0 then flushRx i n (answerRx i m (modQp i (fun q => { q with rx := rest }) s)) else s

/-- Answer what can be answered. -/
def flushAll (i : Nat) (s : State) : State :=
  match qpAt i s with
  | some q => flushRx i q.rx.length s
  | none => s

/-- Accept a message: the expected PSN moves past it. -/
def acceptRx (i : Nat) (m : RxMsg) (s : State) : State :=
  flushAll i (countQp i 0 m.packets (modQp i (fun q => { q with
    ePsn := (m.psn + m.packets) % psnMod, rx := q.rx ++ [{ m with beat := s.tb.beat }] }) s))

/-- A piece of an accepted message has been acknowledged or returned. -/
def rxPieceDone (i psn : Nat) (s : State) : State :=
  flushAll i (modQp i (fun q => { q with rx := q.rx.map fun m => if m.psn = psn then { m with left := m.left - 1 } else m }) s)

/-- The route of a whole range (R222, R224). -/
def spanRoute (r off len : Nat) (s : State) : Route := rangeRoute r off (max len 1) s

/-- Submit the pieces of a write from a QP: the first one that is served here must be admitted at once (R306). None when it cannot. -/
def takeWrite (i psn r off : Nat) (data : Bytes) (s : State) : Option State :=
  let settee := match regionOf r s with
    | some d => d.settee
    | none => false
  (pieces settee off data.length).zipIdx.foldlM (fun s p =>
    let o := off + p.1.1
    let bytes := slice p.1.1 p.1.2 data
    if route r o s = .partner then some (forwardWrite (.rdmaWrite i psn p.2) 1 r o (cutLines o bytes) s)
    else
      let s := submitWrite (.rdma i psn p.2) r o bytes [] s
      match s.pu.units.getLast? with
      | none => some s
      | some u =>
        if p.2 ≠ 0 ∨ volatileUnit u s then some s
        else if canAdmit u s then some (admitUnit u true s) else none) s

/-- A WRITE at a responder QP (R303, R306, R307). -/
def runWrite (i : Nat) (q : Qp) (req : RdmaReq) (data : Bytes) (imm : Option Nat) (s : State) : State :=
  let m : RxMsg := { psn := req.psn, packets := max 1 req.packets, kind := .write, length := data.length, imm := imm }
  if 2 ^ 31 < data.length then nakFail i req.psn 0x61 s
  else if imm.isSome && cplFree q == 0 then rnrNak i req.psn q.attr.minRnrTmr s
  else if data.isEmpty then acceptRx i m s
  else
    match keyCheck q req.rkey [1] req.va data.length true s with
    | none => nakFail i req.psn 0x62 (noteRefused req.rkey req.va data.length s)
    | some k =>
      match spanRoute k.region k.off data.length s with
      | .unavailable => nakFail i req.psn 0x63 s
      | .wait => rnrNak i req.psn 16 s
      | _ =>
        let n := (pieceList 0 k.region k.off data.length s).length
        match takeWrite i req.psn k.region k.off data s with
        | none => rnrNak i req.psn q.attr.minRnrTmr s
        | some s => acceptRx i { m with left := n, key := some k.index, region := k.region, off := k.off } s

/-- A SEND at a MEMORY QP (R312 to R314): it takes the next receive slot and a completion entry. -/
def runSend (i : Nat) (q : Qp) (req : RdmaReq) (data : Bytes) (imm : Option Nat) (s : State) : State :=
  let r := q.attr.recvRing
  if 2 ^ r.logSize < data.length then nakFail i req.psn 0x61 s
  else if slotsFree q = 0 ∨ cplFree q = 0 then rnrNak i req.psn q.attr.minRnrTmr s
  else
    let slot := q.recvNext
    let off := r.offset + slot * 2 ^ r.logSize
    let m : RxMsg := { psn := req.psn, packets := max 1 req.packets, kind := .send, length := data.length, imm := imm, isSend := true
                       slot := some slot, region := r.region, off := off }
    let next (s : State) : State := modQp i (fun q => { q with recvNext := (slot + 1) % 2 ^ r.logCount }) s
    if data.isEmpty then acceptRx i m (next s)
    else
      match spanRoute r.region off data.length s with
      | .unavailable => nakFail i req.psn 0x63 s
      | .wait => rnrNak i req.psn 16 s
      | _ =>
        match takeWrite i req.psn r.region off data s with
        | none => rnrNak i req.psn q.attr.minRnrTmr s
        | some s => acceptRx i { m with left := 1 } (next s)

/-- A READ at a responder QP (R310). `fresh` is false for a duplicate, which is served again without a new PSN. -/
def runRead (i : Nat) (q : Qp) (req : RdmaReq) (len : Nat) (fresh : Bool) (s : State) : State :=
  let m : RxMsg := { psn := req.psn, packets := max 1 req.packets, kind := .read, length := len }
  let take (m : RxMsg) (s : State) : State := if fresh then acceptRx i m s else answerRx i m (modQp i (fun q => { q with msn := q.msn }) s)
  if 2 ^ 31 < len then nakFail i req.psn 0x61 s
  else if len = 0 then take m s
  else
    match keyCheck q req.rkey [0] req.va len false s with
    | none => nakFail i req.psn 0x62 s
    | some k =>
      match spanRoute k.region k.off len s with
      | .unavailable => nakFail i req.psn 0x63 s
      | .wait => rnrNak i req.psn 16 s
      | _ =>
        let l := pieceList 0 k.region k.off len s
        let m := { m with region := k.region, off := k.off, key := some k.index }
        if l.all fun p => route k.region (k.off + p.off) s == .here then
          let x := readHere k.region k.off len s
          take { m with data := [(0, x.1)], bad := x.2.1 } x.2.2
        else
          let s := acceptRx i { m with left := l.length } s
          l.foldl (fun s p =>
            let o := k.off + p.off
            if route k.region o s = .partner then forwardRead (.rdmaRead i req.psn p.index) 1 k.region o p.len s
            else
              let x := readHere k.region o p.len s
              rxPieceDone i req.psn (modQp i (fun q => { q with rx := q.rx.map fun m =>
                if m.psn = req.psn then { m with data := mput p.index x.1 m.data, bad := m.bad ++ x.2.1 } else m }) x.2.2)) s

/-- A line with the writes laid over it that wait for their acknowledgement, in their order: what an atomic operation reads (R308). -/
def pendingLine (r line : Nat) (s : State) : Option LineRead :=
  let ws := s.pu.units.flatMap fun u => if u.region = r then u.lines.filter fun w => w.line == line else []
  (readLine r line s).map fun b => ws.foldl overlay b

/-- The value that an atomic operation stores: 0 Compare-and-Swap, 1 Fetch-and-Add, 2 ATOMIC WRITE; none when it stores nothing. -/
def atomicValue (kind : Nat) (old a b : BitVec 64) : Option (BitVec 64) :=
  if kind = 0 then (if old = a then some b else none) else if kind = 1 then some (old + a) else some a

/-- The 8 bytes at an offset of a line. -/
def wordAt (l : Line) (o : Nat) : BitVec 64 := BitVec.ofNat 64 (leVal (slice o 8 (lineBytes l)))

/-- An atomic operation at a responder QP (R308). -/
def runAtomic (i : Nat) (q : Qp) (req : RdmaReq) (kind : Nat) (a b : BitVec 64) (s : State) : State :=
  let m : RxMsg := { psn := req.psn, packets := max 1 req.packets, kind := if kind = 2 then .write else .atomic, length := 8 }
  if req.va % 8 ≠ 0 then nakFail i req.psn 0x61 s
  else
    match keyCheck q req.rkey [2] req.va 8 true s with
    | none => nakFail i req.psn 0x62 (noteRefused req.rkey req.va 8 s)
    | some k =>
      if k.off % 8 ≠ 0 then nakFail i req.psn 0x61 s
      else
        let m := { m with key := some k.index, region := k.region, off := k.off }
        match route k.region k.off s with
        | .unavailable => nakFail i req.psn 0x63 s
        | .wait => rnrNak i req.psn 16 s
        | .partner =>
          acceptRx i { m with left := 1 } (forwardAccess (.rdmaAtomic i req.psn) k.region k.off
            (le 1 1 ++ le 1 (2 + kind) ++ zeros 6 ++ le 8 a.toNat ++ le 8 b.toNat) s)
        | .here =>
          match pendingLine k.region (k.off / 64) s with
          | none => nakFail i req.psn 0x63 s
          | some l =>
            if l.poison && kind != 2 then nakFail i req.psn 0x63 (poisonBites 4 k.region [k.off / 64] s)
            else
              let old := wordAt l.data (k.off % 64)
              match atomicValue kind old a b with
              | none => acceptRx i { m with original := some old } s
              | some v =>
                match takeWrite i req.psn k.region k.off (le 8 v.toNat) s with
                | none => rnrNak i req.psn q.attr.minRnrTmr s
                | some s => acceptRx i { m with left := 1, original := some old } s

/-- A FLUSH at a responder QP (R309): the writes of the QP before it are answered first, so its answer follows at once. -/
def runFlush (i : Nat) (q : Qp) (req : RdmaReq) (len : Nat) (s : State) : State :=
  let m : RxMsg := { psn := req.psn, packets := max 1 req.packets, kind := .flush, length := len }
  match keyCheck q req.rkey [3] req.va len false s with
  | none => nakFail i req.psn 0x62 s
  | some k =>
    match spanRoute k.region k.off len s with
    | .unavailable => nakFail i req.psn 0x63 s
    | .wait => rnrNak i req.psn 16 s
    | _ => acceptRx i m s

/-- The header of a request message. -/
def msgReq : RdmaMsg → RdmaReq
  | .write r _ _ => r
  | .send r _ _ => r
  | .read r _ => r
  | .atomic r _ _ _ => r
  | .flush r _ => r

/-- A duplicate request (R308): a READ is served again, an atomic operation is answered from its result, others are acknowledged. -/
def runDuplicate (i : Nat) (q : Qp) (msg : RdmaMsg) (s : State) : State :=
  match msg with
  | .read req len => runRead i q req len false s
  | .atomic req kind _ _ =>
    if kind = 2 then emit (.rdmaAck i ((q.ePsn + psnMod - 1) % psnMod) (creditsOf i s) q.msn) s
    else
      match q.atomics.find? fun a => a.psn == req.psn with
      | some a => emit (.rdmaAtomic i a.psn a.original) s
      | none => s
  | _ => emit (.rdmaAck i ((q.ePsn + psnMod - 1) % psnMod) (creditsOf i s) q.msn) s

/-- Accept a capsule on a CAPSULE QP (09_command_queues R356, R357): a Command capsule takes an entry of the submission ring; any
other type is answered with NAK invalid request. -/
def takeCapsule (i psn packets : Nat) (b : Bytes) (s : State) : State :=
  match s.gqp.pairs.find? fun e => e.2.transport == 1 && e.2.qpn == qpnOf i, qpAt i s with
  | some e, some q =>
    let body := fld 4 4 b
    if fld 0 1 b ≠ 1 ∨ body < 64 ∨ b.length ≠ 8 + body then nakFail i psn 0x61 s
    else if capsuleFree i s = 0 then rnrNak i psn q.attr.minRnrTmr s
    else
      let s := modQ e.1 (fun p => { p with ring := p.ring ++ [(slice 8 64 b, b.drop 72)] }) s
      acceptRx i { psn := psn, packets := max 1 packets, kind := .send, length := b.length } s
  | _, _ => nakFail i psn 0x61 s

/-- The outstanding Transfer-Ready that a staging key names on a QP (09_command_queues R359). -/
def transferFor (i key : Nat) (s : State) : Option (Nat × TransferReady) :=
  s.gqp.transfers.find? fun t => t.2.key == key && (match queueOf t.2.qid s with
    | some q => q.transport == 1 && q.qpn == qpnOf i
    | none => false)

/-- A WRITE with immediate for a piece (09_command_queues R359, R360): its bytes are placed, or the piece fails. -/
def takePieceWrite (i psn packets key imm va : Nat) (data : Bytes) (s : State) : State :=
  match transferFor i key s with
  | none => nakFail i psn 0x62 s
  | some (tag, t) =>
    match queueOf t.qid s, runningCmd t.qid t.cid s with
    | some _, some c =>
      match c.pieces.find? fun p => p.index == t.piece with
      | none => nakFail i psn 0x62 s
      | some p =>
        if imm ≠ tag ∨ p.len < va + data.length ∨ va ≠ 0 then nakFail i psn 0x62 s
        else
          let m : RxMsg := { psn := psn, packets := max 1 packets, kind := .write, length := data.length }
          let r := eRegion c.entry
          let off := eOffset c.entry + p.off
          if data.length < p.len then
            acceptRx i m (endIfSettled t.qid t.cid (failFrom t.qid t.cid t.piece 0x0303 s))
          else
            let s := modCmd t.qid t.cid (setPiece p.index .staged) s
            match reservedPiece t.qid t.cid p.index s with
            | some u =>
              let s := fillUnit u (cutLines off data) s
              acceptRx i m (match unitOf u.id s with
                | some u => stageUnit u s
                | none => s)
            | none => acceptRx i m (forwardWrite (.gqpWrite t.qid t.cid p.index) 2 r off (cutLines off data) s)
    | _, _ => nakFail i psn 0x62 s

/-- Run a message on a QP whose context is on die: the PSN comes first. -/
def runMsg (i : Nat) (msg : RdmaMsg) (s : State) : State :=
  match qpAt i s with
  | none => s
  | some q =>
    let req := msgReq msg
    if q.state ≠ .rtr ∧ q.state ≠ .rts then countQp i 6 1 (dropOn q.attr.port s)
    else
      let s := if req.ecn then sendCnp i s else s
      let s := modNet (fun n => { n with useClock := n.useClock + 1 }) (modQp i (fun q => { q with lastUse := s.net.useClock }) s)
      let s := if slotsFree q < 4 then refreshHead i s else s
      let q := (qpAt i s).getD q
      let ahead := (req.psn + psnMod - q.ePsn) % psnMod
      if 2 ^ 23 ≤ ahead then runDuplicate i q msg s
      else if ahead ≠ 0 then countQp i 2 1 (emit (.rdmaNak i q.ePsn 0x60) s)
      else if q.attr.transport = 1 then nakFail i req.psn 0x61 s
      else
        match msg with
        | .write req data imm =>
          if q.attr.service = 1 then takePieceWrite i req.psn req.packets req.rkey (imm.getD 65536) req.va data s
          else runWrite i q req data imm s
        | .send req data imm =>
          if q.attr.service = 1 then takeCapsule i req.psn req.packets data s else runSend i q req data imm s
        | .read req len => runRead i q req len true s
        | .atomic req kind a b => runAtomic i q req kind a b s
        | .flush req len => runFlush i q req len s

/-- The messages that wait for contexts on a port (R301). -/
def waitingOn (port : Nat) (s : State) : List (Nat × RdmaMsg) := mgetD [] port s.net.missQueue

/-- A message arrives for a QP (R296, R301): one in RESET, or that does not exist, is dropped; one whose context is spilled waits. -/
def arrive (i : Nat) (msg : RdmaMsg) (s : State) : State :=
  match qpAt i s with
  | none => s
  | some q =>
    if q.state = .reset then countQp i 6 1 (dropOn q.attr.port s)
    else if q.onDie then runMsg i msg s
    else if (waitingOn q.attr.port s).length < 256 then
      modQp i (fun q => { q with swapping := true })
        (modNet (fun n => { n with missQueue := mput q.attr.port (waitingOn q.attr.port s ++ [(i, msg)]) n.missQueue }) s)
    else
      raiseLimited 0x0705 q.attr.port .warning (fun n => le 1 q.attr.port ++ zeros 3 ++ le 4 n)
        (countQp i 6 1 (portErr q.attr.port 0b0100 (dropOn q.attr.port s)))

/-- TRIGGER_APPEND (R322): the runs that fired in the ending beat join their send queues, in ascending entry index; their work requests
are read now (R319). -/
def appendRun (f : FiredRun) (s : State) : State :=
  let i := f.qpn - 0x10000
  match qpAt i s with
  | none => s
  | some q =>
    let r := q.attr.dsq
    let depth := 2 ^ r.logCount
    let n := if f.count = 0 then 65536 else f.count
    let l := (List.range n).map fun k =>
      let off := r.offset + (f.first + k) % depth * 64
      ({ bytes := readBytes r.region off 64 s, readable := (poisonedLines r.region off 64 s).isEmpty } : SentWr)
    if q.state = .err then s else modQp i (fun q => { q with sends := q.sends ++ l }) s

/-- Insert a fired run by entry index. -/
def insertRun (f : FiredRun) : List FiredRun → List FiredRun
  | [] => [f]
  | g :: r => if f.entry < g.entry then f :: g :: r else g :: insertRun f r

/-- TRIGGER_APPEND for every run of the ending beat. -/
def triggerAppend (s : State) : State :=
  let l := s.net.fired.foldl (fun l f => insertRun f l) []
  l.foldl (fun s f => appendRun f s) (modNet (fun n => { n with fired := [] }) s)

/-- Whether a request is a READ or an atomic operation, which waits for its own response (R318). -/
def waitsAnswer (w : SentWr) : Bool := w.capsule.isNone && [5, 6, 7].contains (wrOp w.bytes)

/-- READ and atomic requests that are outstanding (R318). -/
def rdOutstanding (q : Qp) : Nat := (q.sends.filter fun w => w.sent && !w.ackd && waitsAnswer w).length

/-- Local error of a work request (R323): a KIND 0x10 entry with ERROR, and the QP fails. -/
def localError (i status : Nat) (w : SentWr) (s : State) : State :=
  let s := postCpl i 0x10 true none status (fld 16 4 w.bytes) (fld 52 4 w.bytes) ((drawn s).toNat % psnMod) false (advance s)
  qpFail i 5 status 0 (modQp i (fun q => { q with sends := q.sends.filter (· != w) }) s)

/-- Replace the first work request that has not been sent. -/
def markSent (f : SentWr → SentWr) : List SentWr → List SentWr
  | [] => []
  | w :: r => if w.sent then w :: markSent f r else f w :: r

/-- Send the next work request (R318, R319, R323). -/
def issueWr (i : Nat) (q : Qp) (w : SentWr) (s : State) : State :=
  let b := w.bytes
  let op := wrOp b
  let len := fld 16 4 b
  let r := fld 2 2 b
  let off := fld 8 8 b
  let reads := decide (1 ≤ op ∧ op ≤ 4)
  let writes := decide (5 ≤ op ∧ op ≤ 7)
  let n := if writes ∧ op ≠ 5 then 8 else len
  let rangeOk := match regionOf r s with
    | none => false
    | some d => d.state != .offline && inRegion d off n &&
        (if writes then mayWrite q.attr.gqpDomain d && !writeRefused r d off n s else mayRead q.attr.gqpDomain d)
  let mtu := mtuOf q.attr.pmtu
  let packets := if op = 5 then packetsOf len mtu else if reads then packetsOf len mtu else 1
  let go (body : Bytes) (s : State) : State :=
    countQp i 1 packets (emit (.rdmaRequest i q.sPsn op (b ++ body))
      (modQp i (fun q => { q with
        sPsn := (q.sPsn + packets) % psnMod
        sends := markSent (fun w => { w with sent := true, psn := q.sPsn, packets := packets, sentBeat := s.tb.beat }) q.sends }) s))
  if !w.readable ∨ op = 0 ∨ 9 < op ∨ 2 ^ 31 < len then localError i 0x80 w s
  else if (reads && len != 0 || writes) && !rangeOk then localError i 0x80 w s
  else if reads ∧ len ≠ 0 then
    match route r off s with
    | .here =>
      let x := readHere r off len s
      match (x.2.1).head? with
      | none => go x.1 x.2.2
      | some l =>
        let good := (l * 64 - off) / mtu
        localError i 0x82 w (poisonBites 6 r x.2.1
          (if 0 < good then emit (.rdmaRequest i q.sPsn op (b ++ x.1.take (good * mtu))) x.2.2 else x.2.2))
    | .partner => forwardRead (.wrRead i q.sPsn) 1 r off len (modQp i (fun q => { q with
        sPsn := (q.sPsn + packets) % psnMod
        sends := markSent (fun w => { w with sent := true, psn := q.sPsn, packets := packets, sentBeat := s.tb.beat }) q.sends }) s)
    | .wait => s
    | .unavailable => localError i 0x80 w s
  else go [] s

/-- Whether a 24-bit number is at or before another. -/
def psnAtMost (a b : Nat) : Bool := decide ((b + psnMod - a) % psnMod < 2 ^ 23)

/-- The last PSN of a work request. -/
def wrLast (w : SentWr) : Nat := (w.psn + w.packets - 1) % psnMod

/-- Complete the work requests at the head of the send queue that an acknowledgement covers: a READ or an atomic operation waits for
its own response (R317, R318). -/
def completeAcked (i psn : Nat) : Nat → State → State
  | 0, s => s
  | n + 1, s =>
    match qpAt i s with
    | none => s
    | some q =>
      match q.sends with
      | [] => s
      | w :: rest =>
        if w.sent && psnAtMost (wrLast w) psn && !(waitsAnswer w) then
          completeAcked i psn n (endWr i 0 w (modQp i (fun q => { q with sends := rest }) s))
        else s

/-- Remove a work request by its PSN. -/
def takeWr (i psn : Nat) (s : State) : Option SentWr := (qpAt i s).bind fun q => q.sends.find? fun w => w.sent && w.psn == psn

/-- A work request whose local write is done ends (R318). -/
def finishWr (i psn : Nat) (s : State) : State :=
  match takeWr i psn s with
  | none => s
  | some w => endWr i 0 w (modQp i (fun q => { q with sends := q.sends.filter fun x => !(x.sent && x.psn == psn) }) s)

/-- The answer of a READ or an atomic operation is written to its local range before the request completes (R318). -/
def storeResponse (i psn : Nat) (data : Bytes) (s : State) : State :=
  match takeWr i psn s with
  | none => s
  | some w =>
    let r := fld 2 2 w.bytes
    let off := fld 8 8 w.bytes
    let s := modQp i (fun q => { q with sends := q.sends.map fun x => if x.sent && x.psn == psn then { x with ackd := true } else x }) s
    if data.isEmpty then finishWr i psn s
    else if route r off s = .partner then forwardWrite (.wrWrite i psn) 1 r off (cutLines off data) s
    else submitWrite (.workRequest i psn) r off data [] s

/-- The RNR timer of a code in beats (IBTA). -/
def rnrBeats (code : Nat) : Nat :=
  let units := ([65536, 1, 2, 3, 4, 6, 8, 12, 16, 24, 32, 48, 64, 96, 128, 192, 256, 384, 512, 768, 1024, 1536, 2048, 3072, 4096, 6144,
    8192, 12288, 16384, 24576, 32768, 49152] : List Nat).getD code 65536
  units * 1953125 / 100000 + 1

/-- Send again from a PSN on: the requests are not sent any more, and the next issue sends them. -/
def resendFrom (i psn : Nat) (s : State) : State :=
  match qpAt i s with
  | none => s
  | some q =>
    let l := q.sends.filter fun w => w.sent && !w.ackd && psnAtMost psn (wrLast w)
    let first := (l.head?.map (·.psn)).getD q.sPsn
    countQp i 4 l.length (modQp i (fun q => { q with
      sPsn := first
      sends := q.sends.map fun w => if l.contains w then { w with sent := false } else w }) s)

/-- Multipath contexts in use on the controller (R330). -/
def mpContexts (s : State) : Nat := (s.net.qps.map fun q => (q.2.mp.filter fun c => !c.isRead && !c.done).length).sum

/-- The MPAETH of an MP_ACK (R334). -/
def mpaeth (q : Qp) : Bytes :=
  let o := (q.mp.filter fun c => !c.isRead && !c.done).foldl (fun a c => match a with
    | none => some c
    | some x => if (c.msn + psnMod - q.cumMsn) % psnMod < (x.msn + psnMod - q.cumMsn) % psnMod then some c else some x) (none : Option MpCtx)
  match o with
  | none => be 3 q.cumMsn ++ be 1 0 ++ be 6 q.mpLimit ++ zeros 22
  | some c =>
    let n := (c.msgLen + 4095) / 4096
    let miss := ((List.range n).find? fun k => !c.placed.contains k).getD n
    let base := miss / 64 * 64
    let map := (List.range 64).foldl (fun v k => if c.placed.contains (base + k) then v + 2 ^ k else v) 0
    be 3 q.cumMsn ++ be 1 1 ++ be 6 q.mpLimit ++ be 3 c.msn ++ zeros 1 ++ be 2 base ++ be 8 map ++ zeros 8

/-- Send an MP_ACK. -/
def mpAck (i : Nat) (s : State) : State :=
  match qpAt i s with
  | none => s
  | some q => emit (.mpPacket i (le 1 0xC4 ++ mpaeth q)) (modQp i (fun q => { q with mpAckDue := false }) s)

/-- Send an MP_NAK (R339), which moves the QP to the error state. -/
def mpNak (i msn syndrome cause : Nat) (s : State) : State :=
  qpFail i cause syndrome msn (countQp i 2 1 (emit (.mpPacket i (le 1 0xC5 ++ be 3 msn ++ le 1 syndrome ++ zeros 4)) s))

/-- MP_ACK_SEND (R334): at a boundary, for every QP whose SACK bits or credit limit changed. -/
def mpAckSend (s : State) : State :=
  (s.net.qps.filter fun q => q.2.mpAckDue).foldl (fun s q => mpAck q.1 s) s

/-- Raise the credit limit (R335): only while no write waits for admission and a context is free. -/
def raiseCredit (i : Nat) (s : State) : State :=
  match qpAt i s with
  | none => s
  | some q =>
    let l := (q.mpDone + 2 ^ q.attr.logWindow) % 2 ^ 48
    if l ≠ q.mpLimit ∧ !someWaits s ∧ mpContexts s < 4096 ∧ !s.pair.takeover then
      modQp i (fun q => { q with mpLimit := l, mpAckDue := true }) s
    else s

/-- Reads at the head of the MSN order are passed (R338). -/
def passReads (i : Nat) : Nat → State → State
  | 0, s => s
  | n + 1, s =>
    match qpAt i s with
    | none => s
    | some q =>
      let next := (q.cumMsn + 1) % psnMod
      match q.mp.find? fun c => c.msn == next && c.isRead && c.done with
      | none => s
      | some _ => passReads i n (mpAck i (modQp i (fun q => { q with cumMsn := next, mp := q.mp.filter fun c => c.msn != next }) s))

/-- Whether a write message is complete: every piece acknowledged (R332). -/
def mpComplete (c : MpCtx) : Bool := decide (c.ackedPieces.length = (c.msgLen + 2 ^ 20 - 1) / 2 ^ 20) && decide (c.admitted ≠ 0)

/-- The path of a trigger's arming for one queue pair's domain (R320, R323): none when a field is refused. -/
def triggerOf (dom : Nat) (b : Bytes) (s : State) : Option Trigger :=
  let kind := fld 0 1 b
  let send := fld 24 3 b
  match qpOf send s with
  | none => none
  | some q =>
    let depth := if q.attr.dsq.region = 0 then 0 else 2 ^ q.attr.dsq.logCount
    let count := if fld 30 2 b = 0 then 65536 else fld 30 2 b
    if decide (1 ≤ kind ∧ kind ≤ 3) && decide (fld 1 1 b < 2) && decide (fld 2 2 b < 1024) && fld 7 1 b == 0 && fld 27 1 b == 0 &&
        (qpOf (fld 4 3 b) s).isSome && q.attr.gqpDomain == dom && decide (fld 28 2 b + count ≤ depth) then
      some { kind := kind, rearm := fld 1 1 b == 1, counter := fld 2 2 b, watch := fld 4 3 b, mask := fld 8 4 b, value := fld 12 4 b
             threshold := fld 16 4 b, step := fld 20 4 b, sendQpn := send, first := fld 28 2 b, count := fld 30 2 b }
    else none

end Sys2Proof.Machine
end

