-- ==== Sys2Proof/Machine/Cxl.lean ====
section
/-! DEFINITION. Operations of the CXL heads: attachments and the bureau, the front cache and its coherence, reads and writes (07_cxl_ports
R247 to R285). -/

namespace Sys2Proof.Machine

/-- Change the CXL state. -/
def modCxl (f : Cxl → Cxl) (s : State) : State := { s with cxl := f s.cxl }

/-- Change a head. -/
def modHead (h : Nat) (f : Head → Head) (s : State) : State := modCxl (fun c => { c with heads := mmod h f c.heads }) s

/-- A head. -/
def headOf (h : Nat) (s : State) : Head := mgetD {} h s.cxl.heads

/-- Whether a head serves CXL.mem: its link is up and it is no PCIe endpoint only (R249). -/
def servesMem (h : Nat) (s : State) : Bool :=
  match mget h s.cxl.heads with
  | some x => x.up && !x.pcieOnly
  | none => false

/-- The target that a requester is: an LD index, or in G-FAM the source fabric ID (R251, R252). -/
def targetOf (q : CxlReq) (s : State) : Nat := if s.cxl.gfam then q.requester else q.head * 16 + q.requester

/-- Whether a target exists (R251, R252). -/
def targetExists (t : Nat) (s : State) : Bool :=
  if s.cxl.gfam then decide (t < 4096)
  else
    match mget (t / 16) s.cxl.heads with
    | some h => decide (t % 16 < h.lds)
    | none => false

/-- The attachment that serves a DPA of a target (R263, R265). -/
def attachmentAt (t dpa : Nat) (s : State) : Option (Nat × Attachment) :=
  s.cxl.att.find? fun e =>
    let a := e.2
    a.target == t && (a.state == .accepted || a.state == .releasing) && decide (a.serveFrom ≤ s.tb.beat) &&
      (match a.unmapAt with
        | some b => decide (s.tb.beat < b)
        | none => true) && decide (a.dpa ≤ dpa ∧ dpa < a.dpa + 2 ^ 28)

/-- The region offset of a DPA in an attachment. -/
def offsetIn (a : Attachment) (dpa : Nat) : Nat := a.rext * 2 ^ 28 + (dpa - a.dpa)

/-- An access to an unmapped DPA is counted, and reported at most once per LD in 65,536 beats (R265, R286). -/
def noteUnmapped (q : CxlReq) (wr : Bool) (s : State) : State :=
  let t := targetOf q s
  raiseLimited 0x0603 t .warning
    (fun n => le 1 q.head ++ le 1 (t % 256) ++ le 1 (b2n wr) ++ zeros 1 ++ le 4 n ++ le 8 q.dpa)
    (modCxl (fun c => { c with unmapped := mmodD 0 t (· + 1) c.unmapped }) s)

/-- A single region of a failed partner is reported once (06_pair R224). -/
def noteUnavailable (r : Nat) (s : State) : State :=
  match findReport 0x050F r s.ev.reports with
  | some _ => s
  | none =>
    let s := raise 0x050F .error (le 2 r ++ le 1 3 ++ zeros 5 ++ le 4 0xFFFFFFFF) s
    { s with ev := { s.ev with reports := putReport (Report.mk 0x050F r s.tb.beat 0) s.ev.reports } }

/-! The front cache -/

/-- A head's granule of a region. -/
def granuleOf (r i : Nat) (h : Head) : Option Granule := h.granules.find? fun g => g.region == r && g.index == i

/-- Whether a granule is the one of a region and index. -/
def isGranule (r i : Nat) (g : Granule) : Bool := g.region == r && g.index == i

/-- The victim-buffer entry of a granule. -/
def victimOf (r i : Nat) (h : Head) : Option (Nat × Victim) := h.victims.find? fun v => isGranule r i v.2.granule

/-- Put a granule first in the order of use (R275). -/
def useGranule (g : Granule) (h : Head) : Head :=
  { h with granules := g :: h.granules.filter fun x => !isGranule g.region g.index x }

/-- Bit i of a 4-bit map. -/
def lineBit (i : Nat) : BitVec 4 := BitVec.ofNat 4 (2 ^ (i % 4))

/-- A granule takes a line (R271): data, poison and, for a volatile region, dirty. -/
def setLine (i : Nat) (d : Line) (poison dirty : Bool) (g : Granule) : Granule :=
  { g with
    valid := g.valid ||| lineBit i
    dirty := if dirty then g.dirty ||| lineBit i else g.dirty
    poison := if poison then g.poison ||| lineBit i else g.poison &&& ~~~ lineBit i
    lines := mput (i % 4) d g.lines }

/-- A line of a granule becomes invalid (R277). -/
def clearLine (i : Nat) (g : Granule) : Granule :=
  { g with valid := g.valid &&& ~~~ lineBit i, dirty := g.dirty &&& ~~~ lineBit i, poison := g.poison &&& ~~~ lineBit i, lines := mdel (i % 4) g.lines }

/-- Whether line i of a granule is valid. -/
def lineValid (i : Nat) (g : Granule) : Bool := g.valid.getLsbD (i % 4)

/-- Line i of a granule. -/
def granuleLine (i : Nat) (g : Granule) : LineRead := ⟨mgetD 0 (i % 4) g.lines, g.poison.getLsbD (i % 4)⟩

/-- Banks that take allocations: powered and not being emptied (R282). -/
def openBanks (h : Head) : List Nat := (List.range 6).filter fun b => h.bankOn.getLsbD b && !h.bankClean.getLsbD b

/-- The first bank with a FREE granule (R275). -/
def freeBank (h : Head) : Option Nat := (openBanks h).find? fun b => decide ((h.granules.filter fun g => g.bank == b).length < 8)

/-- The least recently used granule that has no fill in progress, in an open bank (R275). -/
def lruGranule (h : Head) : Option Granule := h.granules.reverse.find? fun g => !g.filling && (openBanks h).contains g.bank

/-- Lowest free entry of the victim buffer (R280). -/
def freeVictim (h : Head) : Option Nat := (List.range 4).find? fun n => !mhas n h.victims

/-- Evict a granule (R280): a clean one is handed off as it enters the victim buffer, a dirty one stays until its write-back is accepted.
None when the buffer is full. -/
def evict (g : Granule) (h : Head) : Option Head :=
  let rest := h.granules.filter fun x => !isGranule g.region g.index x
  if g.dirty = 0 then some { h with granules := rest }
  else (freeVictim h).map fun n => { h with granules := rest, victims := mput n { granule := g, issued := true } h.victims }

/-- A place for a new granule (R275): a FREE one, or the one evicted for it. None when no bank takes allocations; the second part is
false when an eviction has to wait. -/
def makePlace (h : Head) : Option (Nat × Head) × Bool :=
  match freeBank h with
  | some b => (some (b, h), true)
  | none =>
    match lruGranule h with
    | none => (none, true)
    | some g =>
      match evict g h with
      | some h' => (some (g.bank, h'), true)
      | none => (none, false)

/-- A read returns to its host (R265): the poisoned lines that bite are counted (12_integrity R458). -/
def answerRead (q : CxlReq) (l : LineRead) (region line : Nat) (s : State) : State :=
  let s := sendData q.head q.tag l.data l.poison s
  if l.poison then poisonBites 0 region [line] s else s

/-- A read answered with poison that no region gives (R265). -/
def answerPoison (q : CxlReq) (s : State) : State := advance (sendData q.head q.tag (drawn s) true s)

/-- Whether a write of a head to a line of a region awaits its acknowledgement (R267). -/
def writePending (head r line : Nat) (s : State) : Bool :=
  (s.pu.units.any fun u => u.region == r && (u.lines.any fun w => w.line == line) && match u.src with
    | .cxl h _ _ => h == head
    | _ => false) || s.pair.fwd.any fun e => match e.2 with
    | .cxlWrite h _ x l => h == head && x == r && l == line
    | _ => false

/-- Whether every line of a granule can be read from below the front cache without waiting for a fill (04_tiers R114, R121). -/
def belowReady (r i : Nat) (s : State) : Bool :=
  (List.range 4).all fun k =>
    let line := i * 4 + k
    match lineKey r line s with
    | none => true
    | some key =>
      pageValid key s || (s.cap.chunks.any fun c => c.lcn == key / 1024) ||
        (match mget (key / 1024) s.ti.map with
          | none => true
          | some e => e.state == 0 || e.state == 2) ||
        ((copiesOf r line s).any fun w => w.mask == fullMask) ||
        (match regionOf r s with
          | some d => (tierLine d r line s).isNone
          | none => true)

/-- A free miss register of a head (R276). -/
def freeMiss (h : Head) : Option Nat := (List.range 16).find? fun n => !mhas n h.misses

/-- The register of a granule that takes further requests (R276, R278). -/
def openMiss (r i : Nat) (h : Head) : Option (Nat × MissReg) :=
  h.misses.find? fun m => m.2.region == r && m.2.index == i && !m.2.stale

/-- A read waits for a register or for an eviction (R276, R280). -/
def stallRead (q : CxlReq) (s : State) : State := modHead q.head (fun h => { h with stalled := h.stalled ++ [q] }) s

/-- A read miss (R274 to R276). -/
def missRead (q : CxlReq) (r line : Nat) (s : State) : State :=
  let h := headOf q.head s
  let i := line / 4
  match openMiss r i h with
  | some (n, m) =>
    if m.requests.length < 16 then
      modHead q.head (fun h => { h with
        misses := mput n { m with requests := m.requests ++ [q] } h.misses, merge := (h.merge + 1) % 2 ^ 32 }) s
    else stallRead q s
  | none =>
    match freeMiss h with
    | none => stallRead q s
    | some n =>
      let primary (alloc : Bool) (h : Head) : Head :=
        { h with misses := mput n { region := r, index := i, requests := [q], allocate := alloc } h.misses, miss := (h.miss + 1) % 2 ^ 32 }
      match granuleOf r i h, victimOf r i h with
      | some g, _ => wantRange r (i * 256) 256 (modHead q.head (fun h => primary true (useGranule { g with filling := true } h)) s)
      | none, some _ => wantRange r (i * 256) 256 (modHead q.head (primary false) s)
      | none, none =>
        match makePlace h with
        | (some (b, h'), _) =>
          wantRange r (i * 256) 256 (modHead q.head (fun _ =>
            primary true (useGranule { region := r, index := i, bank := b, filling := true } h')) s)
        | (none, true) => wantRange r (i * 256) 256 (modHead q.head (primary false) s)
        | (none, false) => stallRead q s

/-- The line of a volatile region in another head's front cache or victim buffer (R273). -/
def otherCopy (me r line : Nat) (s : State) : Option LineRead :=
  s.cxl.heads.findSome? fun e =>
    if e.1 = me then none
    else ((e.2.granules ++ e.2.victims.map fun v => v.2.granule).find? fun g => isGranule r (line / 4) g && lineValid line g).map (granuleLine line)

/-- A read served through the front cache (R274, R276, R281). -/
def cacheRead (q : CxlReq) (r : Nat) (d : Region) (line : Nat) (s : State) : State :=
  let h := headOf q.head s
  let hit (h : Head) : Head := { h with hit := (h.hit + 1) % 2 ^ 32 }
  match granuleOf r (line / 4) h with
  | some g =>
    if lineValid line g then answerRead q (granuleLine line g) r line (modHead q.head (fun h => hit (useGranule g h)) s)
    else missRead q r line s
  | none =>
    match victimOf r (line / 4) h with
    | some (n, v) =>
      if lineValid line v.granule then
        answerRead q (granuleLine line v.granule) r line (modHead q.head (fun h =>
          { hit h with victimHits := (h.victimHits + 1) % 2 ^ 32, victims := mput n { v with touched := true } h.victims }) s)
      else missRead q r line s
    | none =>
      if d.isVolatile then
        match otherCopy q.head r line s with
        | some l => answerRead q l r line s
        | none => missRead q r line s
      else missRead q r line s

/-- A read that a region serves here, once no earlier write of its head to the line is open (R267). -/
def readServed (q : CxlReq) (r : Nat) (d : Region) (off : Nat) (s : State) : State :=
  if writePending q.head r (off / 64) s then modHead q.head (fun h => { h with afterWrite := h.afterWrite ++ [q] }) s
  else cacheRead q r d (off / 64) s

/-- A CXL.mem read (R265). -/
def cxlRead (q : CxlReq) (s : State) : State :=
  match attachmentAt (targetOf q s) q.dpa s with
  | none => answerPoison q (noteUnmapped q false s)
  | some (_, a) =>
    let off := offsetIn a q.dpa
    match regionOf a.region s with
    | none => answerPoison q s
    | some d =>
      match route a.region off s with
      | .unavailable => answerPoison q (noteUnavailable a.region s)
      | .wait => modPair (fun p => { p with held := p.held ++ [.read q] }) s
      | .partner =>
        if writePending q.head a.region (off / 64) s then modHead q.head (fun h => { h with afterWrite := h.afterWrite ++ [q] }) s
        else forwardRead (.cxlRead q.head q.tag a.region (off / 64)) 0 a.region (off / 64 * 64) 64 s
      | .here => readServed q a.region d off s

/-- A line written to a volatile granule (R273): valid and dirty, whole or over its valid bytes. -/
def dirtyLine (w : LineWrite) (g : Granule) : Granule :=
  let old : LineRead := if lineValid w.line g then granuleLine w.line g else ⟨0, false⟩
  let new := overlay old w
  setLine w.line new.data new.poison true g

/-- Whether a granule can take a write: a whole line, or a part of a valid one (R274). -/
def takesWrite (w : LineWrite) (g : Granule) : Bool := w.mask == fullMask || lineValid w.line g

/-- A write past the cache: a unit of the persistence unit or of the shelf path (R274). -/
def writePast (q : CxlReq) (r : Nat) (w : LineWrite) (s : State) : State :=
  submitUnit (newUnit (.cxl q.head q.requester q.tag) .general r [w] s) s

/-- The head, with its granule of a volatile region, that another head's write meets (R273). -/
def otherHolder (me r i : Nat) (s : State) : Option (Nat × Head) :=
  s.cxl.heads.find? fun e => e.1 != me && e.2.granules.any fun g => isGranule r i g

/-- A write to a volatile line (R273, R274, R281): accepted by the front cache that holds the granule, or past the cache. -/
def volatileWrite (q : CxlReq) (r : Nat) (w : LineWrite) (s : State) : State :=
  let h := headOf q.head s
  let i := w.line / 4
  let done (s : State) : State := sendCmp q.head q.tag s
  match granuleOf r i h with
  | some g =>
    if takesWrite w g then done (modHead q.head (fun h => useGranule (dirtyLine w g) h) s) else writePast q r w s
  | none =>
    match victimOf r i h with
    | some (n, v) =>
      if v.issued then
        modHead q.head (fun h => { h with
          victimHits := (h.victimHits + 1) % 2 ^ 32
          victims := mput n { v with touched := true, writes := v.writes ++ [(q.tag, w.data, w.mask, w.poison)] } h.victims }) s
      else
        done (modHead q.head (fun h => { h with
          victimHits := (h.victimHits + 1) % 2 ^ 32, victims := mput n { v with touched := true, granule := dirtyLine w v.granule } h.victims }) s)
    | none =>
      match otherHolder q.head r i s with
      | some (k, o) =>
        match granuleOf r i o with
        | some g =>
          let swap (x : Granule) : Granule := if isGranule r i x then dirtyLine w g else x
          if takesWrite w g then done (modHead k (fun h => { h with granules := h.granules.map swap }) s) else writePast q r w s
        | none => writePast q r w s
      | none =>
        if w.mask ≠ fullMask then writePast q r w s
        else
          match makePlace h with
          | (some (b, h'), _) => done (modHead q.head (fun _ => useGranule (dirtyLine w { region := r, index := i, bank := b }) h') s)
          | (none, _) => writePast q r w s

/-- A CXL.mem write (R265, R266, R272). -/
def cxlWrite (q : CxlReq) (data : Line) (mask : Mask) (poison : Bool) (s : State) : State :=
  match attachmentAt (targetOf q s) q.dpa s with
  | none => sendCmp q.head q.tag (noteUnmapped q true s)
  | some (_, a) =>
    let off := offsetIn a q.dpa
    let w : LineWrite := { line := off / 64, mask := mask, data := data, poison := poison }
    match regionOf a.region s with
    | none => sendCmp q.head q.tag s
    | some d =>
      match route a.region off s with
      | .unavailable =>
        sendCmp q.head q.tag (noteUnavailable a.region (modHead q.head (fun h => { h with refused := h.refused + 1 }) s))
      | .wait => modPair (fun p => { p with held := p.held ++ [.write q data mask poison] }) s
      | .partner => forwardWrite (.cxlWrite q.head q.tag a.region (off / 64)) 0 a.region (off / 64 * 64) [w] s
      | .here =>
        if writeRefused a.region d (off / 64 * 64) 64 s then
          sendCmp q.head q.tag (refuseWrite a.region 0 off (modHead q.head (fun h => { h with refused := h.refused + 1 }) s))
        else if d.isVolatile then volatileWrite q a.region w s
        else writePast q a.region w s

/-- FWD_RESPONSE (06_pair R210): a status of the queue protocol's, the data, and the poison bitmap when lines are poisoned; `first` is the
region line of the first byte. -/
def fwdAnswer (mtag status first : Nat) (data : Bytes) (bad : List Nat) (s : State) : State :=
  sendMsg { vc := 3, opcode := 0x30, flags := b2n (!bad.isEmpty), mtag := mtag, operand := status
            body := data ++ if bad.isEmpty then []
              else le ((data.length / 64 + 8) / 8) (bad.foldl (fun v l => v + 2 ^ (l - first)) 0) } s

/-- Bytes that a forwarded access covers, and whether it writes. -/
def fwdSpan : FwdOp → Nat × Bool
  | .read n => (n, false)
  | .drain n => (n, false)
  | .write l => (64 * l.length, true)
  | .atomic .. => (8, true)

/-- A forwarded access that is not served here goes back over the link, and its answer is relayed (01_architecture R25, 06_pair R217,
R226). -/
def relayFwd (mtag r off : Nat) (op : FwdOp) (s : State) : State :=
  let body := match op with
    | .read n => fwdReadBody 4 n
    | .drain n => fwdDrainBody 4 n
    | .write l => fwdWriteBody 4 l
    | .atomic k a b => le 1 4 ++ le 1 (2 + k) ++ zeros 6 ++ le 8 a.toNat ++ le 8 b.toNat
  forwardAccess (.relay mtag (off / 64)) r off body s

/-- A forwarded atomic operation (06_pair R210, 08_remote_access R308): its result is answered at the acknowledgement of its write. -/
def fwdAtomic (mtag r off kind : Nat) (a b : BitVec 64) (s : State) : State :=
  match pendingLine r (off / 64) s with
  | none => fwdAnswer mtag 0x0102 0 [] [] s
  | some l =>
    if l.poison && kind != 2 then fwdAnswer mtag 0x0102 0 [] [] (poisonBites 4 r [off / 64] s)
    else
      let old := wordAt l.data (off % 64)
      match atomicValue kind old a b with
      | none => fwdAnswer mtag 0 0 (le 8 old.toNat) [] s
      | some v => submitUnit { newUnit (.forwarded mtag) .general r (cutLines off (le 8 v.toNat)) s with reply := le 8 old.toNat } s

/-- Serve a forwarded access (01_architecture R25): writability is judged here (06_pair R234). The path that a refusal reports is in the
message's body, which the row does not carry. -/
def serveFwd (mtag r off : Nat) (op : FwdOp) (s : State) : State :=
  match op with
  | .drain n =>
    match regionOf r s with
    | none => fwdAnswer mtag 0x0002 0 [] [] s
    | some d => if d.state = .offline ∨ !inRegion d off n then fwdAnswer mtag 0x0002 0 [] [] s else startPeerDrain mtag r off n s
  | _ =>
  let n := fwdSpan op
  match regionOf r s with
  | none => fwdAnswer mtag 0x0002 0 [] [] s
  | some d =>
    match route r off s with
    | .unavailable => fwdAnswer mtag 0x0102 0 [] [] s
    | .wait => { s with pair := { s.pair with held := s.pair.held ++ [.fwd mtag r off op] } }
    | .partner => relayFwd mtag r off op s
    | .here =>
      if d.state = .offline ∨ !inRegion d off n.1 ∨ n.1 = 0 ∨ removedFrom r off n.1 s then fwdAnswer mtag 0x0002 0 [] [] s
      else if n.2 && writeRefused r d off n.1 s then
        fwdAnswer mtag 0x0101 0 [] [] (refuseWrite r ((drawn s).toNat % 3) off (advance s))
      else
        match op with
        | .read k =>
          let x := readHere r off k s
          fwdAnswer mtag 0 (off / 64) x.1 x.2.1 x.2.2
        | .write l => submitUnit (newUnit (.forwarded mtag) .general r l s) s
        | .atomic k a b => fwdAtomic mtag r off k a b s
        | .drain _ => s

/-- The parts of the partner's drains that are done here are answered (09_command_queues R375). -/
def answerDrains (s : State) : State :=
  let done := s.pair.drains.filter fun x => drainDone x.region x.off x.len x.mark x.chunks s
  done.foldl (fun s x => fwdAnswer x.mtag 0 0 (le 8 x.count) [] s)
    (modPair (fun p => { p with drains := p.drains.filter fun x => !done.contains x }) s)

/-- A request that was held is served (06_pair R222). -/
def serveHeld (r : HeldReq) (s : State) : State :=
  match r with
  | .fwd t r off op => serveFwd t r off op s
  | .read q => if servesMem q.head s then cxlRead q s else s
  | .write q d m p => if servesMem q.head s then cxlWrite q d m p s else s

/-- Serve the requests that were held, in order of arrival. -/
def releaseHeld (s : State) : State :=
  let l := s.pair.held
  l.foldl (fun s r => serveHeld r s) (modPair (fun p => { p with held := [] }) s)

/-- The writing head's copy takes an acknowledged persistent line (R272, R274, R281). -/
def writerTakes (r : Nat) (w : LineWrite) (h : Head) : Head :=
  let i := w.line / 4
  let put (g : Granule) : Granule :=
    if takesWrite w g then
      let x := overlay (granuleLine w.line g) w
      setLine w.line x.data x.poison false g
    else g
  match granuleOf r i h with
  | some g => useGranule (put g) h
  | none =>
    match victimOf r i h with
    | some (n, v) => { h with victims := mput n { v with touched := true, granule := put v.granule } h.victims }
    | none =>
      if w.mask ≠ fullMask then h
      else
        match makePlace h with
        | (some (b, h'), _) => useGranule (setLine w.line w.data w.poison false { region := r, index := i, bank := b }) h'
        | _ => h

/-- Another head's copy of a persistent line becomes invalid, and its miss register for the granule is stale (R277, R278). -/
def othersDrop (r : Nat) (w : LineWrite) (h : Head) : Head :=
  let i := w.line / 4
  { h with
    granules := h.granules.map fun g => if isGranule r i g then clearLine w.line g else g
    victims := h.victims.map fun v => if isGranule r i v.2.granule then (v.1, { v.2 with granule := clearLine w.line v.2.granule }) else v
    misses := h.misses.map fun m => if m.2.region = r ∧ m.2.index = i then (m.1, { m.2 with stale := true }) else m }

/-- A persistent line has been acknowledged (R277): `writer` is the head that wrote it, if one did. -/
def cacheAck (writer : Option Nat) (r : Nat) (w : LineWrite) (s : State) : State :=
  let f (e : Nat × Head) : Nat × Head := if writer = some e.1 then (e.1, writerTakes r w e.2) else (e.1, othersDrop r w e.2)
  modCxl (fun c => { c with heads := c.heads.map f }) s

/-- Reads that waited for a write are served, those still behind one wait on (R267). -/
def releaseReads (head : Nat) (s : State) : State :=
  let l := (headOf head s).afterWrite
  l.foldl (fun s q => cxlRead q s) (modHead head (fun h => { h with afterWrite := [] }) s)

/-- Stalled reads are tried again (R276, R280). -/
def retryStalled (head : Nat) (s : State) : State :=
  let l := (headOf head s).stalled
  l.foldl (fun s q => cxlRead q s) (modHead head (fun h => { h with stalled := [] }) s)

/-- Evict what a bank that is being emptied still holds (R282). -/
def cleanHead (h : Head) : Head :=
  (h.granules.filter fun g => h.bankClean.getLsbD g.bank && !g.filling).foldl (fun h g =>
    match evict g h with
    | some x => if g.dirty = 0 then x else { x with cleaned := mmodD 0 g.bank (· + 1) x.cleaned }
    | none => h) h

/-- Write the dirty lines of a granule to the shelf (R273). None while the shelf has no slot. -/
def cleanGranule (g : Granule) (s : State) : Option State :=
  let ws := (List.range 4).filterMap fun k =>
    if g.dirty.getLsbD k then
      (lineKey g.region (g.index * 4 + k) s).map fun key =>
        (key, { line := g.index * 4 + k, mask := fullMask, data := mgetD 0 k g.lines, poison := g.poison.getLsbD k : LineWrite })
    else none
  placeLines 0 ws s

/-- Writes that waited for a victim's handoff (R281). -/
def applyWaiting (base : Nat) (g : Granule) (l : List (Nat × Line × Mask × Bool)) (h : Nat) (s : State) : Granule × State :=
  l.foldl (fun x w =>
    (dirtyLine { line := base, mask := w.2.2.1, data := w.2.1, poison := w.2.2.2 } x.1, sendCmp h w.1 x.2)) (g, s)

/-- Empty a head's front cache with the loss of its link (R284): dirty lines are written back, open requests are discarded, writes not
acknowledged are abandoned. The second part counts dirty granules. -/
def emptyHead (h : Nat) (s : State) : State × Nat :=
  let x := headOf h s
  let gs := (x.granules ++ x.victims.map fun v => v.2.granule).filter fun g => g.dirty != 0
  let s := gs.foldl (fun s g => (cleanGranule g s).getD s) s
  let s := (s.pu.units.filter fun u => match u.src with
    | .cxl k _ _ => k == h
    | _ => false).foldl (fun s u => abandonUnit u s) s
  let s := modHead h (fun x => { x with granules := [], misses := [], victims := [], afterWrite := [], stalled := [], gpfPhase1 := false }) s
  let s := modPair (fun p => { p with held := p.held.filter fun r => match r with
    | .read q => q.head != h
    | .write q _ _ _ => q.head != h
    | .fwd .. => true }) s
  (s, gs.length)

/-- The link of a head goes down (R284, 09_command_queues R345). -/
def headDown (h cause : Nat) (s : State) : State :=
  if (headOf h s).up then
    let x := emptyHead h s
    let s := modHead h (fun y => { y with up := false, pcieOnly := false, width := 0, speed := 0 }) x.1
    dropHeadQueues h (raise 0x0602 .warning (le 1 h ++ le 1 cause ++ zeros 2 ++ le 4 x.2) s)
  else s

/-- DevLoad of a head (R268), with the class of one that a waiting write gives. -/
def devLoadOf (h : Nat) (s : State) : Nat :=
  let x := headOf h s
  let busy := x.misses.length
  let holds := s.pair.held.any fun r => match r with
    | .read q => q.head == h
    | .write q _ _ _ => q.head == h
    | .fwd .. => false
  let waits := s.pu.units.any fun u => u.phase == .waiting && match u.src with
    | .cxl k _ _ => k == h
    | _ => false
  let persistentWaits := s.pu.units.any fun u => u.phase == .waiting && !volatileUnit u s
  if holds || waits || decide (16 ≤ busy) then 3
  else if persistentWaits || decide (12 ≤ busy) then 2
  else if decide (4 ≤ busy) || decide (drawerLines s < 2 * (s.pu.slots.filter fun e => e.2.state == .held).length) then 1
  else 0

/-- DevLoad at a boundary (R268). -/
def noteDevLoad (s : State) : State :=
  s.cxl.heads.foldl (fun t e => modHead e.1 (fun h => { h with devLoad := devLoadOf e.1 s }) t) s

/-! Attachments and the bureau -/

/-- The bytes of an attachment entry (R261). -/
def attachBytes (a : Attachment) (state : Nat) : Bytes :=
  le 2 a.region ++ le 4 a.rext ++ le 2 a.target ++ le 1 state ++ zeros 3 ++ le 4 (a.dpa / 2 ^ 28)

/-- The attachment that an entry spells; none when STATE is FREE or reserved (R261). -/
def attachOf (b : Bytes) : Option Attachment :=
  let mk (st : AttachSt) : Attachment :=
    { region := fld 0 2 b, rext := fld 2 4 b, target := fld 6 2 b, state := st, dpa := fld 12 4 b * 2 ^ 28 }
  match fld 8 1 b with
  | 1 => some (mk .offered)
  | 2 => some (mk .accepted)
  | 3 => some (mk .releasing)
  | _ => none

/-- Offset of an attachment entry in the bureau (R255). -/
def entryOffset (p n : Nat) : Nat := 0x08000000 + p * 0x01000000 + n * 16

/-- Offset of an LD's label storage (R255). -/
def labelOffset (p i : Nat) : Nat := 0x00100000 + p * 0x02000000 + i * 0x00020000

/-- Number a bureau job. -/
def addJob (j : BureauJob) (s : State) : Nat × State :=
  (s.cxl.nextJob, modCxl (fun c => { c with jobs := mput c.nextJob j c.jobs, nextJob := c.nextJob + 1 }) s)

/-- Write bytes of the bureau for a job (R254): here, or on the controller where its region is seated. -/
def bureauWrite (job off : Nat) (b : Bytes) (s : State) : State :=
  match route s.cxl.bureau off s with
  | .partner => forwardWrite (.bureau job) 4 s.cxl.bureau off (cutLines off b) s
  | _ => submitWrite (.bureau job) s.cxl.bureau off b [] s

/-- Data of event 0x0604 (R286). -/
def attachEvent (a : Attachment) (state : Nat) : Bytes :=
  le 2 a.region ++ le 4 a.rext ++ le 2 a.target ++ le 1 state ++ zeros 7 ++ le 8 a.dpa

/-- Whether an attachment has a bureau entry: one of a volatile region has one too, while a bureau is designated (R259). -/
def inBureau (s : State) : Bool := s.cxl.bureau != 0

/-- An attachment of this controller changes state (R260): its entry is written, with event 0x0604. -/
def setAttachment (n : Nat) (a : Attachment) (free : Bool) (s : State) : State :=
  let st := if free then 0 else a.state.code
  let s := raise 0x0604 .info (attachEvent a st) s
  let s := modCxl (fun c => { c with att := mput n a c.att }) s
  if inBureau s then
    let x := addJob .entryState s
    bureauWrite x.1 (entryOffset (myPosition s) n) (attachBytes a st) x.2
  else s

/-- The 16-byte tag of an extent (R262). -/
def extentTag (a : Attachment) (s : State) : Bytes :=
  match regionOf a.region s with
  | some d => le 2 a.region ++ le 4 a.rext ++ le 1 (attrByte d) ++ zeros 1 ++ le 8 d.created
  | none => le 2 a.region ++ le 4 a.rext ++ zeros 10

/-- Send a Dynamic Capacity Event Record to a target (R260, R263): 0 add, 1 release, 2 forced release. An offer's deadline runs from
then. -/
def sendDcEvent (kind : Nat) (a : Attachment) (s : State) : State := emit (.dcEvent a.target kind a.dpa (extentTag a s)) s

/-- An attachment becomes FREE (R263): accesses are answered as unmapped from the next boundary, and a Detach Extent that waits
completes. -/
def freeAttachment (n : Nat) (a : Attachment) (s : State) : State :=
  let s := setAttachment n { a with state := .releasing, unmapAt := some (s.tb.beat + 1), deadline := none, detach := none, released := false } true s
  match a.detach with
  | some p => finishBg p 0xC017 0 0xFFFF [] s
  | none => s

/-- Entries that are FREE and past their boundary are gone. -/
def purgeAttachments (s : State) : State :=
  modCxl (fun c => { c with att := c.att.filter fun e =>
    match e.2.unmapAt with
    | some b => decide (s.tb.beat < b)
    | none => true }) s

/-- Whether an access of a target to an attachment is in flight (R263). -/
def attachBusy (a : Attachment) (s : State) : Bool :=
  let mine (q : CxlReq) : Bool := targetOf q s == a.target && decide (a.dpa ≤ q.dpa ∧ q.dpa < a.dpa + 2 ^ 28)
  (s.cxl.heads.any fun h => (h.2.misses.any fun m => m.2.requests.any mine) || h.2.afterWrite.any mine || h.2.stalled.any mine) ||
    (s.pair.held.any fun r => match r with
      | .read q => mine q
      | .write q _ _ _ => mine q
      | .fwd .. => false) ||
    (s.pu.units.any fun u => u.region == a.region && (u.lines.any fun w => w.line / 2 ^ 22 == a.rext) && match u.src with
      | .cxl h rq _ => targetOf ⟨h, rq, 0, 0⟩ s == a.target
      | _ => false)

/-- Releases whose accesses have completed take effect (R263). -/
def settleAttachments (s : State) : State :=
  (s.cxl.att.filter fun e => e.2.released && e.2.unmapAt.isNone && !attachBusy e.2 s).foldl (fun s e => freeAttachment e.1 e.2 s) s

end Sys2Proof.Machine
end

