-- ==== Sys2Proof/Machine/Pair.lean ====
section
/-! DEFINITION. Operations of the twin pair: leases, mirror copies, switch-over, formation and the pairing link (06_pair). -/

namespace Sys2Proof.Machine

/-- Change the link. -/
def modLink (f : Mpl → Mpl) (s : State) : State := modPair (fun p => { p with link := f p.link }) s

/-- The partner's pair position. -/
def otherPosition (s : State) : Nat := 1 - s.pair.position

/-- Mirrored regions. -/
def mirroredRegions (s : State) : List (Nat × Region) := s.reg.table.filter fun e => e.2.mirrored

/-- Whether the seat of a region is here. -/
def seatedHere (d : Region) (s : State) : Bool := d.seat == s.ident.controllerId

/-- Whether scheduled role swaps may run again (06_pair R227): every mirrored region is CURRENT on both sides, and a move has completed. -/
def swapsAgain (s : State) : Bool := s.pair.moveSinceSwitch && (mirroredRegions s).all fun e => currentBoth e.1 s

/-- The MIRROR_STATE item of this controller's copy. -/
def ownStateItem (r : Nat) (st : MirrorSt) (gen mark : Nat) (s : State) : MetaItem :=
  .mirrorState r (myPosition s) st.code gen mark

/-- Data of event 0x050B (R246). -/
def mirrorEvent (r : Nat) (st : MirrorSt) (gen : Nat) : Bytes := le 2 r ++ zeros 2 ++ le 4 gen ++ le 1 st.code

/-- The PAIR_RECORD item as it stands. -/
def pairItem (p : PairRecord) : MetaItem :=
  .pairRecord p.pairId p.id0 p.id1 p.mode p.checkMode p.keySlot p.witness p.retired

/-- This controller's copy of a region becomes STALE (R217, R234): journaled, reported, and STALE set in its own reason bits. -/
def becomeStale (r : Nat) (s : State) : State :=
  let c := ownCopy r s
  let i := ownStateItem r .stale c.gen c.mark s
  journalMeta [i] [] false (raise 0x050B .warning (mirrorEvent r .stale c.gen) (applyItem 0 i s))

/-- The held chair commands are forwarded to the partner that holds the chair (R217, 05_regions R168). -/
def forwardHeldBcs (s : State) : State :=
  let l := s.pair.heldBcs
  if s.mc.restart.isSome then s
  else l.foldl (fun s h => forwardBcs h.path h.opcode h.input s) (modPair (fun p => { p with heldBcs := [] }) s)

/-- The write units of a region that are admitted and not acknowledged. -/
def unitsOfRegion (r : Nat) (s : State) : List WUnit :=
  s.pu.units.filter fun u => u.region == r && u.cls == .general && (u.phase == .reserved || u.phase == .staged)

/-- TAKEN (R217): the holder yields. The partner took every mirrored region seated here, and the chair. -/
def yieldAll (epoch : Nat) (s : State) : State :=
  let l := (mirroredRegions s).filter fun e => seatedHere e.2 s
  let s := l.foldl (fun s e =>
    let s := (unitsOfRegion e.1 s).foldl (fun s u => abandonUnit u s) s
    modRegion e.1 (fun d => { d with seat := partnerId s }) (becomeStale e.1 s)) s
  let s := modPair (fun p => { p with chairHere := false, chairEpoch := epoch, stopped := false }) s
  forwardHeldBcs (releaseHeld s)

/-- Whether a write unit is an accepted mirror copy that has not been sealed. -/
def isAccepted (u : WUnit) : Bool := u.cls == .mirrorCopy && u.accepted

/-- The MSN of a mirror copy. -/
def copyMsn (u : WUnit) : Nat :=
  match u.src with
  | .mirror m => m
  | _ => 0

/-- The ORIGIN_SEQ of an unknown-origin copy (R213). -/
def unknownOrigin : Nat := 2 ^ 64 - 1

/-- Seal accepted copies as one record (R213): their slots become HELD, their lines enter the recent-write map, and the record joins
those that are sealed after the group. -/
def sealCopies (origin : Nat) (us : List WUnit) (s : State) : State :=
  match us with
  | [] => s
  | u :: _ =>
    let s := us.foldl (fun s u =>
      modPu (fun p =>
        { p with
          slots := p.slots.map fun e => if e.2.unit = u.id then (e.1, { e.2 with state := .held, ack := p.nextAck }) else e
          copies := p.copies ++ (u.slots.zip u.lines).map fun x =>
            { region := u.region, line := x.2.line, ack := p.nextAck, place := .slot x.1 }
          units := p.units.filter fun v => v.id != u.id
          nextAck := p.nextAck + 1 }) s) s
    let slots := us.flatMap (·.slots)
    if slots.isEmpty then s
    else
      let kind := if us.length = 1 ∧ !isEntry u then RecKind.data else .lineset
      let r : JRec := { kind := kind, region := if us.length = 1 then u.region else 0, slots := slots, slotClass := .mirrorCopy
                        mirrorCopy := true, originSeq := origin, origin := partnerId s, lastAck := s.pu.nextAck - 1, gen := u.gen }
      modPu (fun p => { p with mirrorGroup := p.mirrorGroup ++ [r] }) s

/-- Insert a unit in MSN order. -/
def insertMsn (u : WUnit) : List WUnit → List WUnit
  | [] => [u]
  | v :: r => if copyMsn u < copyMsn v then u :: v :: r else v :: insertMsn u r

/-- Seal every accepted copy as an unknown-origin copy, in ascending MSN (R213, R221). -/
def sealUnknown (s : State) : State :=
  let l := (s.pu.units.filter isAccepted).foldl (fun l u => insertMsn u l) []
  modPair (fun p => { p with seals := [] }) (l.foldl (fun s u => sealCopies unknownOrigin [u] s) s)

/-- The units that a run of a seal notice names, in order. -/
def runUnits (region : Nat) (r : SealRun) (s : State) : List WUnit :=
  (List.range r.count).filterMap fun i =>
    s.pu.units.find? fun u => isAccepted u && u.region == region && copyMsn u % 2 ^ 48 == (r.firstMsn + i) % 2 ^ 48

/-- The SEQs of the seal notices, ascending. -/
def noticeSeqs (l : List SealNotice) : List Nat :=
  (l.flatMap fun n => n.runs.map (·.seq)).foldl (fun a q => setInsert q a) []

/-- Act on the seal notices at a boundary (R213): one record for each listed SEQ, in ascending ORIGIN_SEQ. -/
def sealNoticed (s : State) : State :=
  let l := s.pair.seals
  let s := (noticeSeqs l).foldl (fun s q =>
    sealCopies q (l.flatMap fun n => (n.runs.filter fun r => r.seq == q).flatMap fun r => runUnits n.region r s) s) s
  modPair (fun p => { p with seals := [] }) s

/-- The value that MIRROR_DONE reports (R213): the highest ORIGIN_SEQ such that every copy record sealed under one at or below it is
complete in this chest. -/
def doneValue (s : State) : Nat :=
  let open' := ((s.pu.mirrorGroup ++ s.pu.queue).filter fun r => r.mirrorCopy && r.originSeq != unknownOrigin).map (·.originSeq)
  let done := (s.pu.chest.filter fun r => r.mirrorCopy && r.complete && r.originSeq != unknownOrigin).map (·.originSeq)
  (done.filter fun q => open'.all fun o => decide (q < o)).foldl max s.pair.doneSent

/-- Send MIRROR_DONE where the value has changed (R213). -/
def sendDone (s : State) : State :=
  let v := doneValue s
  if v = s.pair.doneSent ∨ !linkUp s then s else sendMsg (msgDone v) (modPair (fun p => { p with doneSent := v }) s)

/-- Whether the partner shows itself alive although the link is not in service (R220): a witness heartbeat in the last 4,608 beats, or
without a witness path a signal on some lane. -/
def partnerAlive (s : State) : Bool :=
  match s.pair.witness with
  | some _ =>
    match s.pair.witnessBeat with
    | some b => decide (s.tb.beat ≤ b + 4608)
    | none => false
  | none => !(List.range 8).all fun l =>
      match mget l s.pair.link.losSince with
      | some b => decide (b + 64 ≤ s.tb.beat)
      | none => false

/-- The items of a takeover (R221, step 3). -/
def takeoverItems (s : State) : List MetaItem :=
  let p := s.pair.position
  [MetaItem.lease 0 p 2 (s.pair.chairEpoch + 1) s.tb.beat] ++
  ((mirroredRegions s).filter fun e => !seatedHere e.2 s).map (fun e =>
    MetaItem.lease e.1 p 2 (mgetD 0 e.1 s.pair.leaseEpoch + 1) s.tb.beat) ++
  (mirroredRegions s).map fun e => ownStateItem e.1 .sole ((ownCopy e.1 s).gen + 1) 0 s

/-- Begin a takeover (R221, steps 1 to 3). `cause` is that of event 0x0507. -/
def startTakeover (cause : Nat) (s : State) : State :=
  let s := sealUnknown (modPair (fun p => { p with takeover := true, takeoverDone := false, swapSuspended := true
                                                   moveSinceSwitch := false, partnerLost := cause == 0 }) s)
  let s := modPair (fun p => { p with taken := ((mirroredRegions s).filter fun e => !seatedHere e.2 s).length }) s
  let items := takeoverItems s
  journalMeta items (items.map MetaAct.item ++ [.takeover]) false s

/-- The single regions that are seated on the partner (R224). -/
def partnerSingles (s : State) : List Nat :=
  (s.reg.table.filter fun e => !e.2.mirrored && !e.2.settee && !seatedHere e.2 s).map (·.1)

/-- The other side of a split link (R225): it stops acting and its copies turn STALE. -/
def yieldSplit (s : State) : State :=
  let s := modPair (fun p => { p with unavailable := partnerSingles s }) s
  let l := (mirroredRegions s).filter fun e => (ownCopy e.1 s).state != .stale
  let byte1 := if s.pair.witness.isSome then 0 else 1
  raise 0x050A .error (le 1 0 ++ le 1 byte1)
    (l.foldl (fun s e => becomeStale e.1 s) (modPair (fun p => { p with stopped := true }) s))

/-- A region becomes OFFLINE (05_regions R157), with its event and notice. -/
def takeOffline (r : Nat) (s : State) : State :=
  match regionOf r s with
  | none => s
  | some d =>
    if d.state = .offline then s
    else
      notice 0x0001 r (le 2 d.roReasons.toNat ++ le 1 3)
        (raise 0x0407 .info (le 2 r ++ le 1 3) (modRegion r (fun d => { d with state := .offline }) s))

/-- A region becomes ONLINE again. -/
def takeOnline (r : Nat) (s : State) : State :=
  match regionOf r s with
  | none => s
  | some d =>
    if d.state = .offline then
      notice 0x0001 r (le 2 d.roReasons.toNat ++ le 1 1)
        (raise 0x0407 .info (le 2 r ++ le 1 1) (modRegion r (fun d => { d with state := .online }) s))
    else s

/-- Data of event 0x050F (R246). -/
def lostEvent (r cause own other : Nat) : Bytes := le 2 r ++ le 1 cause ++ zeros 1 ++ le 4 own ++ le 4 other

/-! ### Moves -/

/-- Start the next move of the queue (R226, step 1): boundary D is the next one. -/
def nextMove (s : State) : State :=
  if s.pair.move.isSome then s
  else
    match s.pair.moveQueue with
    | [] => s
    | m :: rest => modPair (fun p => { p with move := some { m with boundary := s.tb.beat + 1 }, moveQueue := rest }) s

/-- Queue a move. -/
def addMove (m : Move) (s : State) : State := nextMove (modPair (fun p => { p with moveQueue := p.moveQueue ++ [m] }) s)

/-- The LEASE item of a move. -/
def moveItem (m : Move) (s : State) : MetaItem :=
  let e := if m.region = 0 then s.pair.chairEpoch else mgetD 0 m.region s.pair.leaseEpoch
  .lease m.region m.target m.cause (e + 1) s.tb.beat

/-- At a boundary: once every admitted write of the region is acknowledged, the LEASE item is journaled in both chests (R226, steps 2
and 3). -/
def settleMove (s : State) : State :=
  match s.pair.move with
  | none => s
  | some m =>
    if m.phase = 0 ∧ m.boundary ≤ s.tb.beat ∧ (unitsOfRegion m.region s).isEmpty then
      let i := moveItem m s
      journalMeta [i] [.item i, .moveDone m.region] true (modPair (fun p => { p with move := some { m with phase := 1 } }) s)
    else s

/-- Ask the partner to take the mirrored regions seated here once no persistent write can be taken (R228, 05_regions R186). -/
def askPartner (s : State) : State :=
  if s.pu.writesRefused && isPaired s && linkUp s then
    ((mirroredRegions s).filter fun e => seatedHere e.2 s && currentBoth e.1 s && !(s.pair.moveQueue.any fun m => m.region == e.1) &&
        !(s.pair.move.any fun m => m.region == e.1)).foldl
      (fun s e => addMove { region := e.1, target := otherPosition s, boundary := 0, cause := 5, path := none } s) s
  else s

/-! ### Resync -/

/-- Segments marked for an incremental resync, as region segments (R235). -/
def markedSegments (r : Nat) (s : State) : List Nat := (ownCopy r s).segments

/-- Whether a resync to the partner is incremental (R235). -/
def isIncremental (r partnerGen : Nat) (same : Bool) (s : State) : Bool :=
  let c := ownCopy r s
  same && partnerGen + 1 == c.gen && c.bitmapValid

/-- Start a resync of a region to the partner (R234, R235): MIRROR_GEN rises, this side is CURRENT and the other RESYNCING. -/
def startResync (r : Nat) (incremental : Bool) (s : State) : State :=
  match regionOf r s with
  | none => s
  | some d =>
    let c := ownCopy r s
    let g := c.gen + 1
    let segs := if incremental then c.segments else []
    let bytes := if incremental then segs.length * 2 ^ 21 else regionBytes d
    let items := [ownStateItem r .current g 0 s, .mirrorState r (otherPosition s) MirrorSt.resyncing.code g 0]
    let x : Resync :=
      { region := r, sender := true, offset := 0, incremental := incremental, beat := s.tb.beat, lastMark := s.tb.beat, segments := segs }
    let s := modPair (fun p => { p with resync := some x }) s
    journalMeta items (items.map MetaAct.item) true
      (raise 0x050C .info (le 2 r ++ le 1 (b2n incremental) ++ zeros 5 ++ le 8 bytes)
        (raise 0x050B .warning (mirrorEvent r .current g) s))

/-- Resume a resync whose sender this side is (R238). -/
def resumeResync (r : Nat) (mark : Nat) (s : State) : State :=
  let x : Resync := { region := r, sender := true, offset := mark, incremental := false, beat := s.tb.beat, lastMark := s.tb.beat }
  modPair (fun p => { p with resync := some x }) s

/-- The next region that waits for its resync (R235): ascending region ID. -/
def nextResync (s : State) : State :=
  if s.pair.resync.isSome then s
  else
    match s.pair.resyncWaiting with
    | [] => s
    | r :: rest =>
      let c := mgetD ⟨.stale, 0, 0, [], false⟩ r s.pair.partnerMirror
      let s := modPair (fun p => { p with resyncWaiting := rest }) s
      if (ownCopy r s).state = .current then resumeResync r c.mark s
      else startResync r (isIncremental r c.gen c.bitmapValid s) s

/-- Whether the chunk at a region offset is ZERO and nothing lies over it. -/
def chunkIsZero (r off : Nat) (s : State) : Bool :=
  match lcnOf r off s with
  | none => true
  | some lcn =>
    (mgetD { state := 0, addr := 0 } lcn s.ti.map).state = 0 && !(s.pu.copies.any fun c => chunkOfLine c.region c.line s == some lcn) &&
      !(chunkPages lcn).any fun p => (mget (segmentOf lcn) s.ti.segs).any fun g => g.valid.testBit p

/-- RESYNC_CHUNK (R210, R235, R236). -/
def msgResync (r off : Nat) (s : State) : MplMsg :=
  let z := chunkIsZero r off s
  let bad := poisonedLines r off 65536 s
  { vc := 3, opcode := 0x32, flags := b2n (!bad.isEmpty), region := r, operand := off
    body := le 8 (s.pu.nextSeq - 1) ++ le 8 (b2n z) ++
      (if z then []
       else readBytes r off 65536 s ++
        if bad.isEmpty then [] else le 128 (bad.foldl (fun v l => v + 2 ^ (l % 1024)) 0)) }

/-- The next offset from `off` on that a resync sends: every chunk, or those of marked segments. -/
def nextChunk (x : Resync) (size : Nat) : Option Nat :=
  if x.incremental then
    let l := (x.segments.flatMap fun g => (List.range 32).map fun i => g * 2 ^ 21 + i * 65536).filter fun o => decide (x.offset ≤ o ∧ o < size)
    l.foldl (fun a o => match a with
      | none => some o
      | some b => some (min b o)) none
  else if x.offset < size then some x.offset else none

/-- The sender's share of a beat (R237): chunks go out at the resync write rate. -/
def resyncBeat (s : State) : State :=
  match s.pair.resync with
  | none => s
  | some x =>
    if !x.sender || !linkUp s then s
    else
      match regionOf x.region s with
      | none => s
      | some d =>
        let b := min 131072 (x.budget + param 0x0501 17 s * 256)
        match nextChunk x (regionBytes d) with
        | none => modPair (fun p => { p with resync := some { x with offset := regionBytes d } }) s
        | some o =>
          if b < 65536 then modPair (fun p => { p with resync := some { x with budget := b } }) s
          else
            sendMsg (msgResync x.region o s)
              (modPair (fun p => { p with resync := some { x with budget := b - 65536, offset := o + 65536 } }) s)

/-! ### Formation -/

/-- HELLO (R194): kind, what the sender's checks found (bit 0 paired, bit 1 holds a region, bit 2 not armed for the receiver), controller ID,
ordering code, mode, the position meant for the receiver plus one (0: by controller ID), firmware version, identity public key, 32
random bytes. The layout is the model's. -/
def helloBytes (found mode place : Nat) (random : Bytes) (s : State) : Bytes :=
  le 1 1 ++ le 1 found ++ le 2 s.ident.controllerId ++ le 1 (if s.ident.h96 then 0 else 1) ++ le 1 mode ++ le 1 place ++ zeros 1 ++
    le 4 s.mc.fwRunning ++ padTo 68 Config.identityKey ++ random

/-- The transcript hash T (R194). -/
def transcriptHash (f : Formation) : Bytes := shake256 32 f.transcript

/-- Send a formation message and enter it in the transcript. -/
def sendFormation (f : Formation) (b : Bytes) (s : State) : Formation × State :=
  ({ f with transcript := f.transcript ++ b }, emit (.mplInit b) s)

/-- Store a formation. -/
def setFormation (f : Option Formation) (s : State) : State := modPair (fun p => { p with formation := f }) s

/-- A formation fails (R195): everything is discarded, event 0x0502 is recorded, and the command is answered. -/
def failFormation (reason rc : Nat) (s : State) : State :=
  match s.pair.formation with
  | none => s
  | some f =>
    let s := raise 0x0502 .error (le 1 reason ++ zeros 1 ++ le 2 f.partnerId) (setFormation none s)
    match f.path with
    | none => s
    | some p => finishBg p (if f.role = .survivor then 0xC006 else 0xC000) rc 0xFFFF [] s

/-- Sign T and send a formation message with the signature behind its body; it waits while the key unit cannot sign (R520). -/
def signAndSend (body : Bytes) (s : State) : State :=
  match s.pair.formation with
  | none => s
  | some f =>
    if canSign s then
      let m := body ++ signature (transcriptHash f) s
      let x := sendFormation f m (useIndex s)
      setFormation (some x.1) x.2
    else modSigner (fun g => { g with waiting := g.waiting ++ [.formation body] }) s

/-- Position 0 generates its key pair and sends the encapsulation key (R194, step 3). -/
def sendKey (s : State) : State :=
  match s.pair.formation with
  | none => s
  | some f =>
    let k := Config.kemKeyGen (freeBytes 64 s)
    let s := advance (setFormation (some { f with step := 3, kemSecret := k.2 }) s)
    signAndSend (le 4 2 ++ le 4 k.1.length ++ k.1) s

/-- K_pair and PAIR_ID (R194, step 5). -/
def pairSecrets (f : Formation) (shared : Bytes) : Bytes × Nat :=
  (shake256 32 (ascii "SK7240-PAIR" ++ shared ++ transcriptHash f), leVal (shake256 8 (ascii "SK7240-PAIRID" ++ transcriptHash f)))

/-- The items that a controller journals at formation (R194, step 6, R198). -/
def formationItems (f : Formation) (pid : Nat) (key : Bytes) (s : State) : List MetaItem :=
  let me := s.ident.controllerId
  let r := s.pair.record
  let retired := if f.role = .survivor then setInsert (partnerId s) r.retired else r.retired
  let pid := if f.role = .survivor then r.pairId else pid
  let ids := if f.position = 0 then (me, f.partnerId) else (f.partnerId, me)
  [.keySlot 4096 1 3 0 (keyWrap (srk s) key), .pairRecord pid ids.1 ids.2 (f.mode % 2) 3 4096 r.witness retired,
   .lease 0 (if f.role = .joiner then 1 - f.position else f.position) 0 (s.pair.chairEpoch + 1) s.tb.beat]

/-- Both sides have K_pair: it is wrapped and the pair record is journaled (R194, step 6). -/
def journalFormation (shared : Bytes) (s : State) : State :=
  match s.pair.formation with
  | none => s
  | some f =>
    let x := pairSecrets f shared
    let items := formationItems f x.2 x.1 s
    let s := modPair (fun p => { p with position := f.position }) (setFormation (some { f with step := 6, kPair := x.1 }) s)
    journalMeta items (items.map MetaAct.item ++ [.formed]) false s

/-- Rewrap the key slots of a scope's regions under the key that now wraps them (14_trust R528). -/
def rewrapItems (scope : Nat) (keep : Nat → Bool) (s : State) : List MetaItem :=
  (s.trust.keys.filter fun e => e.1 != 4096 && !e.2.bad && keep e.2.region).map fun e =>
    .keySlot e.1 scope e.2.type e.2.region (keyWrap (wrapKeyOf scope s) e.2.key)

end Sys2Proof.Machine
end

