-- ==== Sys2Proof/Machine/PersistCmds.lean ====
section
/-! DEFINITION. Meanings of the persistence commands: admission, anchors, backpressure report, chest rows and drawer banks
(03_persistence). -/

namespace Sys2Proof.Machine

/-- A unit whose bytes come after its admission: a piece of a capsule Write (09_command_queues R358). -/
def bytesLater (u : WUnit) : Bool := u.lines.any (fun l => l.mask == 0)

/-- A unit of a volatile region goes on without drawer slots (01_architecture R13). -/
def admitVolatile (u : WUnit) (s : State) : State :=
  if u.phase = .waiting then modPu (putUnit { u with phase := if bytesLater u then .reserved else .staged }) s else s

/-- WRITE_ADMISSION (R64, R65, R89, R90): the waiting unit at the head of its class takes its slots; one of a volatile region is
passed on to the shelf path. -/
def execWriteAdmission (unit : Nat) (s : State) : Host.Outcome State Fault Refusal :=
  match unitOf unit s with
  | none => .next s
  | some u => if volatileUnit u s then .next (admitVolatile u s) else if canAdmit u s then .next (admitUnit u (!bytesLater u) s) else .next s

/-- ANCHOR_UPDATE (R82): the older anchor takes the reclaim position, at most once every 1,024 beats and only when it has moved. -/
def execAnchorUpdate (s : State) : Host.Outcome State Fault Refusal :=
  let p := s.pu
  let moved := match bestAnchor p with
    | some a => a.seq != p.reclaimSeq
    | none => p.reclaimSeq != 1
  if moved && decide (p.lastAnchorBeat + 1024 ≤ s.tb.beat) && p.drain.isNone then
    let gen := match bestAnchor p with
      | some a => a.generation + 1
      | none => 1
    let a : Anchor := { line := p.reclaimLine, seq := p.reclaimSeq, generation := gen }
    let newestIsA := match p.anchorA, p.anchorB with
      | some x, some y => decide (y.generation < x.generation)
      | some _, none => true
      | none, _ => false
    .next (modPu (fun p =>
      { p with
        anchorA := if newestIsA then p.anchorA else some a
        anchorB := if newestIsA then some a else p.anchorB
        lastAnchorBeat := s.tb.beat
        chest := p.chest.filter fun r => decide (p.reclaimSeq ≤ r.seq) }) s)
  else .next s

/-- Data of event 0x0201 (R108). -/
def backpressureData (s : State) : Bytes :=
  le 4 (drawerLines s - s.pu.slots.length) ++ le 4 (logFree s.pu)

/-- ADMISSION_WAIT_LIMIT (R93): a write has waited at every boundary of 1,024 consecutive beats. -/
def execAdmissionWaitLimit (s : State) : Host.Outcome State Fault Refusal :=
  if decide (1024 ≤ s.pu.waitBeats) && !s.pu.waitReported then
    .next (raise 0x0201 .warning (backpressureData s) (modPu (fun p => { p with waitReported := true }) s))
  else .next s

/-- The ingest limit for a usable size U (R106). -/
def ingestLimitOf (u : Nat) : Nat := 24576 * u / 1610612736

/-- Retire a chest row (R105), with the limits of R106. -/
def retireRow (row : Nat) (s : State) : State :=
  let before := chestBytes s.pu
  let s := modPu (fun p => { p with rowsRetired := setInsert row p.rowsRetired }) s
  let u := chestBytes s.pu
  let s := raise 0x0204 .warning (le 4 row ++ zeros 4 ++ le 8 u) s
  let s :=
    if u < 1610612736 then
      let s := modPu (fun p => { p with ingestLimit := some (ingestLimitOf u) }) s
      if before < 1610612736 then s else raise 0x0205 .warning (le 8 u ++ le 4 (ingestLimitOf u)) s
    else s
  if u < 536870912 && !s.pu.writesRefused then
    setChest (raise 0x0206 .error (le 1 0 ++ zeros 7 ++ le 8 u) (modPu (fun p => { p with writesRefused := true }) s))
  else s

/-- CHEST_VERIFY_FAILURE (R104, R105): the row is remapped to a spare row, or retired when none remains. -/
def execChestVerifyFailure (row : Nat) (s : State) : Host.Outcome State Fault Refusal :=
  if 0 < s.pu.spareRows then
    let s := modPu (fun p => { p with spareRows := p.spareRows - 1, rowRemaps := setInsert row p.rowRemaps }) s
    .next (noteSpare 1 (wearLog 0x0004 (le 4 row ++ le 4 0 ++ le 4 (chestBytes s.pu / 2 ^ 20))
      (raise 0x0203 .info (le 4 row ++ le 4 s.pu.spareRows) s)))
  else if s.pu.rowsRetired.contains row then .next s
  else
    let s := retireRow row s
    .next (noteSpare 1 (wearLog 0x0004 (le 4 row ++ le 4 1 ++ le 4 (chestBytes s.pu / 2 ^ 20)) s))

/-- A drawer slot in error (12_integrity R452): the line is poisoned. -/
def poisonSlot (n : Nat) (p : Persist) : Persist := { p with slots := mmod n (fun d => { d with poison := true }) p.slots }

/-- DRAWER_BANK_ERROR (R107): the controller stops allocating in the bank, and the line is poisoned. A second failing bank counts as
a chest below 512 MiB. -/
def execDrawerBankError (bank slot : Nat) (s : State) : Host.Outcome State Fault Refusal :=
  if 16 ≤ bank then .next s
  else
    let s := modPu (poisonSlot slot) s
    if mhas bank s.pu.banks then .next s
    else
      let second := !s.pu.banks.isEmpty
      if second then
        if s.pu.bankLost then .next s
        else
          .next (noteSpare 3 (setChest (raise 0x0206 .error (le 1 1 ++ le 1 bank ++ zeros 6 ++ le 8 (chestBytes s.pu))
            (modPu (fun p => { p with writesRefused := true, bankLost := true }) s))))
      else .next (modPu (fun p => { p with banks := mput bank .failing p.banks }) s)

/-- DRAWER_BANK_DISABLE (R107): once a failing bank holds no HELD slot, it is disabled. -/
def execDrawerBankDisable (bank : Nat) (s : State) : Host.Outcome State Fault Refusal :=
  let held := s.pu.slots.any fun e => e.1 / bankLines == bank
  if mget bank s.pu.banks = some .failing ∧ !held then
    let s := modPu (fun p => { p with banks := mput bank .disabled p.banks }) s
    .next (noteSpare 3 (wearLog 0x0003 (le 1 bank ++ le 1 (16 - s.pu.banks.length))
      (raise 0x0202 .error (le 1 bank ++ le 1 (16 - s.pu.banks.length)) s)))
  else .next s

end Sys2Proof.Machine
end

