-- ==== Sys2Proof/Machine/Integrity.lean ====
section
/-! DEFINITION. Operations on uncorrectable errors: the error log, poisoning, and recovery from other copies (12_integrity R449 to R459,
R474 to R476). -/

namespace Sys2Proof.Machine

/-- The UE bit of a memory in DCB.ECC_ERR (R475). -/
def ueBit (mem : Nat) : BitVec 10 := BitVec.ofNat 10 (2 ^ (2 * mem + 1))

/-- An uncorrectable error is counted, and latched when the error log is empty (R450, R475). The DRAM port that met it is not given by
the specification for a damaged place. -/
def noteUe (mem addr : Nat) (s : State) : State :=
  let s := modEcc (fun e => { e with err := e.err ||| ueBit mem, ue := mmodD 0 mem (fun n => satAdd 0xFFFFFFFF n 1) e.ue }) s
  if s.ecc.logValid then s
  else
    let port := (drawn s).toNat % 8
    modEcc (fun e => { e with
      logValid := true, logAddr := addr, logRecovered := false, logMemory := mem
      logPort := if mem = 0 then port else 0, logPc := if mem = 0 then Config.dramBank addr / 64 % 64 else 0 }) (advance s)

/-- The MEMORY code of a summary entry (R462) for a memory of R475. -/
def scrubMemory (mem : Nat) : Nat := if mem = 0 then 2 else mem - 1

/-- The ADDRESS of the summary entry for a damaged line (R462), where the running scrub reads that line: `addr` is its place in the
memory, `line` its line of the region where it has one. -/
def scrubAddress (mem region : Nat) (line : Option Nat) (addr : Nat) (s : State) : Option Nat :=
  let x := s.ecc.scrub
  if x.state ≠ 1 then none
  else if x.target = 1 then (if mem = 0 ∧ x.start ≤ addr ∧ addr < x.start + x.length then some addr else none)
  else if x.target = 2 then (if mem = 2 ∧ x.start ≤ addr / 64 ∧ addr / 64 < x.start + x.length then some addr else none)
  else
    match line with
    | none => none
    | some l =>
      let ranges := if x.scan.isSome then x.ranges else [(x.region, x.start, x.length)]
      if ranges.any fun r => r.1 == region && decide (r.2.1 ≤ l * 64 ∧ l * 64 < r.2.1 + r.2.2) then some (l * 64) else none

/-- DETAIL of a summary entry: the pseudo-channel, bank and row of a shelf line, otherwise zero (R462). -/
def scrubDetail (mem addr : Nat) : Nat :=
  if mem = 0 then Config.dramBank addr % 4096 / 64 + Config.dramBank addr % 64 * 64 + Config.dramRow addr % 65536 * 4096 else 0

/-- Add an entry to the summary, which holds up to 256 (R461). -/
def addEntry (e : ScrubEntry) (x : Scrub) : Scrub :=
  if x.entries.length < 256 then { x with entries := x.entries ++ [e] } else x

/-- A line that the running scrub found recovered (KIND 1) or newly poisoned (KIND 2) is counted and entered (R461, R462). -/
def scrubNote (kind mem region : Nat) (line : Option Nat) (addr : Nat) (s : State) : State :=
  match scrubAddress mem region line addr s with
  | none => s
  | some a =>
    let n : ScrubEntry := ⟨a, scrubMemory mem, kind, region, scrubDetail mem addr⟩
    let count (x : Scrub) : Scrub := if kind = 1 then { x with recovered := x.recovered + 1 } else { x with newly := x.newly + 1 }
    modEcc (fun e => { e with scrub := addEntry n (count e.scrub) }) s

/-- An error in a memory was recovered from a copy: event 0x0B02 (R476), and UE_INFO.RECOVERED when the log holds this error (R475). -/
def recoveredEvent (mem copy region : Nat) (line : Option Nat) (addr : Nat) (s : State) : State :=
  let s := scrubNote 1 mem region line addr s
  let s := modEcc (fun e =>
    if e.logValid && e.logMemory == mem && e.logAddr == addr then { e with logRecovered := true } else e) s
  raise 0x0B02 .warning (le 1 mem ++ le 1 copy ++ le 2 region ++ zeros 4 ++ le 8 addr) s

/-- Lines of a region, each with its place in the memory that lost it, are poisoned because no copy was good (R452, R459): event
0x0B03, the ledger, and the counts of a running scrub (R461, R462). -/
def noteLost (mem region : Nat) (lines : List (Nat × Nat)) (s : State) : State :=
  match lines.head? with
  | none => s
  | some first =>
    let s := lines.foldl (fun s l => scrubNote 2 mem region (some l.1) l.2 (ledgerAdd region l.1 2 s))
      (modEcc (fun e => { e with err := e.err ||| 0x100 }) s)
    raise 0x0B03 .error (le 2 region ++ le 4 lines.length ++ zeros 2 ++ le 8 (first.1 * 64)) s

/-- The region line of a logical line key on this controller (01_architecture R18 to R20). -/
def lineOfKey (key : Nat) (s : State) : Option (Nat × Nat) :=
  (ownerOf (key / 1024) s).bind fun r =>
    (chunkOffset r (key / 1024) s).map fun off => (r, off / 64 + key % 1024)

/-- The shelf byte address of a page of a segment (R475). -/
def pageAddr (seg page : Nat) (s : State) : Nat := (((mget seg s.ti.segs).map (·.phys)).getD 0) * 2 ^ 21 + page * 4096

/-- The shelf byte address of a line by its logical key. -/
def keyAddr (key : Nat) (s : State) : Nat := pageAddr (key / 32768) (key % 32768 / 64) s + key % 64 * 64

/-- Lines given by their logical keys, each with its place in the shelf, are reported as lost, by the region that owns the first. -/
def noteLostKeys (place : Nat → Nat) (keys : List Nat) (s : State) : State :=
  let l := keys.filterMap fun k => (lineOfKey k s).map fun y => (y.1, y.2, place k)
  match l.head? with
  | none => s
  | some x => noteLost 0 x.1 ((l.filter fun y => y.1 == x.1).map (·.2)) s

/-- Poison a line of a chest record (R456). -/
def poisonRecLine (seq index : Nat) (p : Persist) : Persist :=
  { p with chest := p.chest.map fun r =>
      if r.seq = seq then
        { r with payloadBad := true, lines := r.lines.zipIdx.map fun x => if x.2 = index then { x.1 with lw := { x.1.lw with poison := true } } else x.1 }
      else r }

/-- The chest log address of a line of a record (R475): the header line comes first (03_persistence R77). -/
def chestAddr (seq index : Nat) (s : State) : Nat :=
  match s.pu.chest.find? fun r => r.seq == seq with
  | some r => (r.pos + 1 + index) * 64
  | none => 0

/-- Whether the partner can give a line (R455): mirrored, CURRENT on both, and the link in service. -/
def partnerHas (region : Nat) (s : State) : Bool :=
  match regionOf region s with
  | some d => d.mirrored && currentBoth region s && linkUp s
  | none => false

/-- Read a line from the partner for a drawer slot, or for a line of a chest record (R455). -/
def askCopy (drawer : Bool) (a index region line : Nat) (s : State) : State :=
  forwardRead (.repair drawer a index) 4 region (line * 64) 64 s

/-- The partner's answer to a repair is final (R455). -/
def repairBack (drawer : Bool) (a index status : Nat) (data : Bytes) (bad : Bool) (s : State) : State :=
  let lost := status != 0 || bad
  if drawer then
    match mget a s.pu.slots with
    | none => s
    | some d =>
      if lost then noteLost 1 d.region [(d.line, a * 64)] (modPu (poisonSlot a) s)
      else
        recoveredEvent 1 4 d.region (some d.line) (a * 64)
          (modPu (fun p => { p with slots := mput a { d with data := lineOf data } p.slots }) s)
  else
    match (s.pu.chest.find? fun r => r.seq == a).bind fun r => r.lines[index]? with
    | none => s
    | some l =>
      if lost then noteLost 2 l.region [(l.lw.line, chestAddr a index s)] (modPu (poisonRecLine a index) s)
      else
        recoveredEvent 2 4 l.region (some l.lw.line) (chestAddr a index s)
          (modPu (fun p => { p with chest := p.chest.map fun r =>
            if r.seq = a then
              { r with lines := r.lines.zipIdx.map fun x => if x.2 = index then { x.1 with lw := { x.1.lw with data := lineOf data } } else x.1 }
            else r }) s)

/-- The line keys of a page. -/
def pageKeys (seg page : Nat) : List Nat := (List.range 64).map fun i => seg * 32768 + page * 64 + i

/-- Repair of a shelf row that gave an uncorrectable error (R474): a repair row of its bank is used, or the slot is mapped out. -/
def repairRow (addr : Nat) (s : State) : State :=
  let b := Config.dramBank addr % 4096
  let row := Config.dramRow addr
  let ev (n : Nat) : Bytes := le 1 n ++ le 1 (b / 64) ++ le 1 (b % 64) ++ zeros 1 ++ le 4 row
  let log (n : Nat) : Bytes := le 1 (b / 64 / 32) ++ le 1 (b / 64) ++ le 1 (b % 64) ++ zeros 1 ++ le 4 row ++ le 1 n
  if mgetD 0 b s.ecc.repairs < Config.repairRows b then
    let s := modEcc (fun e => { e with repairs := mmodD 0 b (· + 1) e.repairs, rowsAwaiting := e.rowsAwaiting ++ [(b, row)] }) s
    noteSpare 2 (raise 0x0B07 .warning (ev 0) (wearLog 0x0002 (log 0) s))
  else
    let s := modEcc (fun e => { e with bankExhausted := true }) s
    mapOut (addr / 2 ^ 21) 4 (raise 0x0B07 .warning (ev 1) (wearLog 0x0002 (log 2) s))

/-- The window of R449 that holds this beat is opened, when it is not the one that the counts are of. -/
def openWindow (s : State) : State :=
  if s.ecc.window = s.tb.beat / 2 ^ 26 then s
  else modEcc (fun e => { e with window := s.tb.beat / 2 ^ 26, windowCe := [], thresholdDone := [], rowCe := [] }) s

/-- One corrected read of a memory (R448, R449): it is counted, and event 0x0B01 is recorded when the count of the window reaches the
threshold. -/
def noteCe (mem : Nat) (s : State) : State :=
  let s := openWindow s
  let s := modEcc (fun e => { e with
    err := e.err ||| BitVec.ofNat 10 (2 ^ (2 * mem))
    ce := mmodD 0 mem (fun n => satAdd 0xFFFFFFFF n 1) e.ce
    windowCe := mmodD 0 mem (· + 1) e.windowCe }) s
  let n := mgetD 0 mem s.ecc.windowCe
  if param 0x0B04 4096 s ≤ n && !s.ecc.thresholdDone.contains mem then
    raise 0x0B01 .warning (le 1 mem ++ zeros 3 ++ le 4 n)
      (modEcc (fun e => { e with err := e.err ||| 0x200, thresholdDone := e.thresholdDone ++ [mem] }) s)
  else s

/-- `n` corrected reads of a memory. -/
def noteCes (mem : Nat) : Nat → State → State
  | 0, s => s
  | n + 1, s => noteCes mem n (noteCe mem s)

/-- A corrected read of the shelf: its row is repaired at the 16th of one window (R474). -/
def noteShelfCe (addr : Nat) (s : State) : State :=
  let s := noteCe 0 s
  let k := Config.dramBank addr % 4096 * 65536 + Config.dramRow addr % 65536
  let s := modEcc (fun e => { e with rowCe := mmodD 0 k (· + 1) e.rowCe }) s
  if mgetD 0 k s.ecc.rowCe = 16 then repairRow addr s else s

/-- The corrected errors that a read meets (R448). -/
def noteCorrected (c : Corrected) (s : State) : State :=
  noteCes 3 c.sram (noteCes 2 c.chest (noteCes 1 c.drawer (c.shelf.foldl (fun s a => noteShelfCe a s) s)))

/-- A corrected error that the running scrub found, where it lies in its range: it counts as any corrected read does, and in the
summary (R448, R461, R462). -/
def noteFind (f : ScrubFind) (s : State) : State :=
  let x := s.ecc.scrub
  let mem := match f.memory with
    | 0 => 1
    | 1 => 2
    | _ => 0
  let line := if x.target = 0 then some (f.address / 64) else none
  let addr := if x.target = 0 then ((lineKey f.region (f.address / 64) s).map fun k => keyAddr k s).getD 0 else f.address
  match scrubAddress mem f.region line addr s with
  | none => s
  | some a =>
    let s := if mem = 0 then noteShelfCe addr s else noteCe mem s
    let n : ScrubEntry := ⟨a, f.memory, 0, f.region, scrubDetail mem addr⟩
    let count (x : Scrub) : Scrub :=
      match f.memory with
      | 0 => { x with ceDrawer := x.ceDrawer + 1 }
      | 1 => { x with ceChest := x.ceChest + 1 }
      | _ => { x with ceShelf := x.ceShelf + 1 }
    modEcc (fun e => { e with scrub := addEntry n (count e.scrub) }) s

/-- The cabinet's copy of a line of a dirty page, or zeros, with what the failed cabinet reads lost (R454, step 2). -/
def cabinetCopy (d : Region) (r key : Nat) (lost : Bool) (s : State) : LineRead :=
  match mget (key / 1024) s.ti.map with
  | none => ⟨0, false⟩
  | some e =>
    if e.state = 0 then ⟨0, false⟩
    else if lost || e.state = 2 then ⟨0, true⟩
    else
      match cabLine d r (key / 1024) e.addr (key % 1024) s with
      | none => ⟨0, true⟩
      | some l => ⟨l, ((mget e.addr s.ti.chunkMeta).map fun m => m.poison.contains (key % 1024)).getD false⟩

/-- The placed lines of the chest for a line key, of records above the chunk's DATA_SEQ, oldest first (R454, step 3). -/
def chestCopies (key : Nat) (s : State) : List LineWrite :=
  let from' := ((mget (key / 1024) s.ti.map).map (·.dataSeq)).getD 0
  (s.pu.chest.filter fun r => r.placed && decide (from' < r.seq)).flatMap fun r =>
    (r.lines.filter fun l => lineKey l.region l.lw.line s == some key).map (·.lw)

/-- Rebuild one line of a dirty page (R454). -/
def rebuildLine (lost : List Nat) (key : Nat) (s : State) : State :=
  match ownerOf (key / 1024) s with
  | none => s
  | some r =>
    match regionOf r s with
    | none => s
    | some d =>
      let x := (chestCopies key s).foldl overlay (cabinetCopy d r key (lost.contains (key % 64)) s)
      modTi (fun t => { t with shelf := memWriteLine key x.data t.shelf, shelfPoison := setTo x.poison key t.shelfPoison }) s

/-- A map entry as a MAP update gives it (04_tiers R123). -/
def updEntry (u : MapUpd) (m : AMap MapEntry) : AMap MapEntry :=
  if u.state = 0 then mdel u.lcn m else mput u.lcn { state := u.state, addr := u.addr, dataSeq := u.dataSeq } m

/-- What a record does to a map page (04_tiers R130, step 3, 05_regions R173). -/
def recOnMap (page pos : Nat) (m : AMap MapEntry) (r : JRec) : AMap MapEntry :=
  match r.kind with
  | .map l => (l.filter fun u => u.lcn / 8192 == page).foldl (fun m u => updEntry u m) m
  | .metaRec items => items.foldl (fun m i =>
      match i with
      | .extentRelease _ p _ lens => if p = pos then m.filter fun e => !(e.1 / 8192 == page && lens.contains (e.1 / 4096)) else m
      | _ => m) m
  | _ => m

/-- The records above the newest checkpoint's START_SEQ, in SEQ order, with those that are on their way to the chest. -/
def recsAfterCkpt (s : State) : List JRec :=
  (s.pu.chest.filter fun r => decide (ckptStartSeq s < r.seq)) ++ s.pu.queue ++ s.pu.openGroup ++ s.pu.ctlWaiting

/-- A map page from the newest checkpoint and the MAP records above it (R452). -/
def rebuildPage (page : Nat) (s : State) : State :=
  let base := s.ti.ckptMap.filter fun e => e.1 / 8192 == page
  let new := (recsAfterCkpt s).foldl (recOnMap page (myPosition s)) base
  modTi (fun t => { t with map := new.foldl (fun m e => mput e.1 e.2 m) (t.map.filter fun e => e.1 / 8192 != page) }) s

end Sys2Proof.Machine
end

