-- ==== Sys2Proof/Machine/CxlCmds.lean ====
section
/-! DEFINITION. Meanings of the CXL rows, of Attach and Detach Extent, and of the memory keys (07_cxl_ports, 08_remote_access R302 to
R305). -/

namespace Sys2Proof.Machine

/-- HEAD_LINK_UP (R248, R249, R264): the head serves, and the offers to its targets are sent again. -/
def execHeadLinkUp (head width speed flit : Nat) (s : State) : Host.Outcome State Fault Refusal :=
  if decide (s.start.phase < 7) || !headExists head s || (headOf head s).up || (headOf head s).perstLow then .next s
  else
    let s := modHead head (fun h => { h with up := true, pcieOnly := speed == 0, width := width, speed := speed, flit := flit, powerState := 0 }) s
    let s := raise 0x0601 .info (le 1 head ++ le 1 width ++ le 1 speed ++ le 1 flit) s
    let again := s.cxl.att.filter fun e => e.2.state == .offered && e.2.unmapAt.isNone && (s.cxl.gfam || e.2.target / 16 == head)
    .next (again.foldl (fun s e =>
      sendDcEvent 0 e.2 (modCxl (fun c => { c with att := mput e.1 { e.2 with deadline := some (s.tb.beat + 2 ^ 26) } c.att }) s)) s)

/-- HEAD_LINK_DOWN (R284, 09_command_queues R345). -/
def execHeadLinkDown (head cause : Nat) (s : State) : Host.Outcome State Fault Refusal := .next (headDown head cause s)

/-- PERST_N_ASSERT (R284): the head's link goes down with cause 0. -/
def execPerstNAssert (head : Nat) (s : State) : Host.Outcome State Fault Refusal :=
  if mhas head s.cxl.heads then .next (modHead head (fun h => { h with perstLow := true }) (headDown head 0 s)) else .next s

/-- CXL_MEM_WRITE (R265, R266, R272 to R274). -/
def execCxlMemWrite (req : CxlReq) (data : Line) (mask : Mask) (poison : Bool) (s : State) : Host.Outcome State Fault Refusal :=
  if servesMem req.head s then .next (cxlWrite req data mask poison s) else .next s

/-- The granule takes the lines of a fill that it does not hold (R274). -/
def fillGranule (i : Nat) (l : List LineRead) (g : Granule) : Granule :=
  let g := l.zipIdx.foldl (fun g x => if lineValid x.2 g then g else setLine x.2 x.1.data x.1.poison false g) g
  { g with filling := false, index := i }

/-- MISS_FILL_RETURN (R274, R276, R278): the granule's lines arrive; the merged requests are answered, and the register is free. -/
def execMissFillReturn (head register : Nat) (s : State) : Host.Outcome State Fault Refusal :=
  let h := headOf head s
  match mget register h.misses with
  | none => .next s
  | some m =>
    if !belowReady m.region m.index s then .next (wantRange m.region (m.index * 256) 256 s)
    else
      let lines := (List.range 4).map fun k => (readLine m.region (m.index * 4 + k) s).getD ⟨0, true⟩
      let fill (g : Granule) : Granule :=
        if isGranule m.region m.index g && g.filling then (if m.stale || !m.allocate then { g with filling := false } else fillGranule m.index lines g) else g
      let s := modHead head (fun h => { h with
        misses := mdel register h.misses
        granules := (h.granules.map fill).filter fun g => !(isGranule m.region m.index g && m.stale && g.valid == 0) }) s
      let s := m.requests.foldl (fun s q =>
        match attachmentAt (targetOf q s) q.dpa s with
        | none => answerPoison q s
        | some (_, a) =>
          let line := offsetIn a q.dpa / 64
          answerRead q (lines.getD (line % 4) ⟨0, true⟩) m.region line s) s
      .next (retryStalled head (modHead head cleanHead s))

/-- VICTIM_HANDOFF (R280, R281): the write-back of a victim's dirty lines is accepted; a victim that a request touched is loaded into a
new granule. -/
def execVictimHandoff (head entry : Nat) (s : State) : Host.Outcome State Fault Refusal :=
  let h := headOf head s
  match mget entry h.victims with
  | none => .next s
  | some v =>
    match cleanGranule v.granule s with
    | none => .next s
    | some s =>
      let s := modHead head (fun h => { h with victims := mdel entry h.victims }) s
      let s :=
        if v.touched then
          let g := { v.granule with dirty := 0, filling := false }
          let x := applyWaiting (g.index * 4) g [] head s
          match makePlace (headOf head x.2) with
          | (some (b, h'), _) =>
            let y := v.writes.foldl (fun y w => (y.1, y.2 ++ [w])) (0, ([] : List (Nat × Line × Mask × Bool)))
            let z := applyWaiting (g.index * 4) { x.1 with bank := b } y.2 head x.2
            modHead head (fun _ => useGranule z.1 h') z.2
          | _ =>
            let z := applyWaiting (g.index * 4) g v.writes head x.2
            (cleanGranule z.1 z.2).getD z.2
        else s
      .next (retryStalled head (modHead head cleanHead s))

/-- A front-cache granule in error (R283): a clean one is invalidated and fetched again, the dirty lines of another are poisoned and
written back. -/
def cacheError (head granule : Nat) (s : State) : State :=
  match (headOf head s).granules[granule]? with
  | none => s
  | some g =>
    let dirty := g.dirty != 0
    let ev (s : State) : State :=
      raise 0x0607 .error (le 1 head ++ le 1 g.bank ++ le 1 (b2n dirty) ++ zeros 1 ++ le 2 g.region ++ zeros 2 ++ le 8 (g.index * 256)) s
    let drop (s : State) : State := modHead head (fun h => { h with granules := h.granules.filter fun x => !isGranule g.region g.index x }) s
    if dirty then
      let bad := { g with poison := g.poison ||| g.dirty }
      let n := ((List.range 4).filter fun k => g.dirty.getLsbD k)
      let s := (cleanGranule bad s).getD s
      let s := n.foldl (fun s k => ledgerAdd g.region (g.index * 4 + k) 2 s) s
      ev (drop (modHead head (fun h => { h with eccDirty := true }) s))
    else ev (drop (modHead head (fun h => { h with eccClean := true }) s))

/-- FRONT_CACHE_ECC_ERROR (R283). -/
def execFrontCacheEccError (head granule : Nat) (s : State) : Host.Outcome State Fault Refusal := .next (cacheError head granule s)

/-- FRONT_CACHE_BANK_EMPTY (R282): a bank that is being emptied and holds no granule powers down. -/
def execFrontCacheBankEmpty (head bank : Nat) (s : State) : Host.Outcome State Fault Refusal :=
  let s := modHead head cleanHead s
  let h := headOf head s
  let holds := (h.granules.any fun g => g.bank == bank) || h.victims.any fun v => v.2.granule.bank == bank
  if h.bankClean.getLsbD bank && !holds then
    let n := mgetD 0 bank h.cleaned
    .next (raise 0x0606 .info (le 1 head ++ le 1 bank ++ le 1 0 ++ zeros 1 ++ le 4 n)
      (modHead head (fun h => { h with
        bankOn := h.bankOn &&& ~~~ BitVec.ofNat 6 (2 ^ bank), bankClean := h.bankClean &&& ~~~ BitVec.ofNat 6 (2 ^ bank)
        cleaned := mdel bank h.cleaned }) s))
  else .next s

/-- An offer that the host does not take (R260, step 4). -/
def refuseOffer (n : Nat) (a : Attachment) (why : Nat) (s : State) : State :=
  raise 0x0605 .warning (le 2 a.region ++ le 4 a.rext ++ le 2 a.target ++ le 1 why) (freeAttachment n a s)

/-- ADD_DYNAMIC_CAPACITY_RESPONSE (R260): accepted extents are served from the next boundary; an offer that the last response leaves out is
FREE. -/
def execAddDynamicCapacityResponse (target : Nat) (accepted : List Nat) (more : Bool) (s : State) : Host.Outcome State Fault Refusal :=
  let l := s.cxl.att.filter fun e => e.2.target == target && e.2.state == .offered && e.2.unmapAt.isNone && e.2.deadline.isSome
  .next (l.foldl (fun s e =>
    if accepted.contains e.2.dpa then
      setAttachment e.1 { e.2 with state := .accepted, serveFrom := s.tb.beat + 1, deadline := none } false s
    else if more then s else refuseOffer e.1 e.2 0 s) s)

/-- OFFER_TIMEOUT (R260): the host has not answered in 2^26 beats. -/
def execOfferTimeout (entry : Nat) (s : State) : Host.Outcome State Fault Refusal :=
  match mget entry s.cxl.att with
  | none => .next s
  | some a =>
    match a.deadline with
    | some b => if a.state = .offered ∧ b ≤ s.tb.beat then .next (refuseOffer entry a 1 s) else .next s
    | none => .next s

/-- RELEASE_DYNAMIC_CAPACITY (R263): RELEASING, and FREE once the accesses accepted before have completed. -/
def execReleaseDynamicCapacity (target : Nat) (dpas : List Nat) (s : State) : Host.Outcome State Fault Refusal :=
  let l := s.cxl.att.filter fun e =>
    e.2.target == target && dpas.contains e.2.dpa && (e.2.state == .accepted || e.2.state == .releasing) && e.2.unmapAt.isNone
  .next (settleAttachments (l.foldl (fun s e =>
    let a := { e.2 with state := .releasing, released := true, deadline := none }
    if e.2.state = .releasing then modCxl (fun c => { c with att := mput e.1 a c.att }) s else setAttachment e.1 a false s) s))

/-- DETACH_TIMEOUT (R263): Detach Extent fails, and the entry is ACCEPTED again. -/
def execDetachTimeout (entry : Nat) (s : State) : Host.Outcome State Fault Refusal :=
  match mget entry s.cxl.att with
  | none => .next s
  | some a =>
    match a.detach, a.deadline with
    | some p, some b =>
      if a.state = .releasing ∧ !a.released ∧ b ≤ s.tb.beat then
        .next (finishBg p 0xC017 0x0005 0xFFFF [] (setAttachment entry { a with state := .accepted, detach := none, deadline := none } false s))
      else .next s
    | _, _ => .next s

/-- GPF_PHASE1 (R269): only acknowledged. -/
def execGpfPhase1 (head : Nat) (s : State) : Host.Outcome State Fault Refusal :=
  if servesMem head s then .next (emit (.gpfAck head 1) (modHead head (fun h => { h with gpfPhase1 := true }) s)) else .next s

/-- GPF_PHASE2 (R269): every acknowledged write is already in the persistence domain. The duration is not given beyond its bound. -/
def execGpfPhase2 (head : Nat) (s : State) : Host.Outcome State Fault Refusal :=
  if servesMem head s then
    .next (emit (.gpfAck head 2) (raise 0x0609 .info (le 1 head ++ zeros 3 ++ le 4 ((drawn s).toNat % 4001))
      (advance (modHead head (fun h => { h with gpfPhase1 := false }) s))))
  else .next s

/-- The attachment table of a position: this controller's own, or the partner's as the bureau holds it (R255). -/
def tableAt (p : Nat) (s : State) : AMap Attachment :=
  if p = myPosition s then s.cxl.att
  else (List.range 1048576).filterMap fun n => (attachOf (readBytes s.cxl.bureau (entryOffset p n) 16 s)).map fun a => (n, a)

/-- The DC region base for a region (R258). -/
def dcBase (d : Region) : Nat := if d.isVolatile then 2 ^ 50 else 0

/-- A DPA for an extent of a target (R259): the extent's own in G-FAM, else the lowest free one. -/
def pickDpa (l : AMap Attachment) (d : Region) (r rext target : Nat) (s : State) : Option Nat :=
  match (if s.cxl.gfam then l.find? fun e => e.2.region == r && e.2.rext == rext else none) with
  | some e => some e.2.dpa
  | none =>
    (firstFree (fun k => l.any fun e => (s.cxl.gfam || e.2.target == target) && e.2.dpa == dcBase d + k * 2 ^ 28) (l.length + 1) 0).map
      fun k => dcBase d + k * 2 ^ 28

/-- Whether a DPA may be used (R259). -/
def dpaOk (l : AMap Attachment) (d : Region) (r rext target dpa : Nat) (s : State) : Bool :=
  decide (dpa % 2 ^ 28 = 0 ∧ dcBase d ≤ dpa ∧ dpa < dcBase d + 2 ^ 50) &&
    l.all fun e =>
      let same := e.2.region == r && e.2.rext == rext
      !(e.2.dpa == dpa && (e.2.target == target || s.cxl.gfam) && !same) &&
        !(e.2.dpa == dpa && e.2.target == target && !same) && !(s.cxl.gfam && same && e.2.dpa != dpa)

/-- The effect of Attach Extent (R260, step 1). -/
def attachEffect (path : BcsPath) (p : Nat) (l : AMap Attachment) (a : Attachment) (s : State) : State :=
  let n := (firstFree (fun n => mhas n l) 1048576 0).getD 0
  if !inBureau s then
    let s := raise 0x0604 .info (attachEvent a 1) s
    let s := modCxl (fun c => { c with att := mput n { a with deadline := some (s.tb.beat + 2 ^ 26) } c.att }) s
    success path 0xC016 (le 8 a.dpa) (sendDcEvent 0 a s)
  else
    let s := if p = myPosition s then modCxl (fun c => { c with att := mput n a c.att }) (raise 0x0604 .info (attachEvent a 1) s) else s
    let x := addJob (.attach p n (some path)) s
    bureauWrite x.1 (entryOffset p n) (attachBytes a 1) x.2

/-- Attach Extent (R259, R260): the target is one of the controller that received the command. -/
def attachExtent (path : BcsPath) (input : Bytes) (s : State) : State :=
  bcs path 0xC016 input (input.length == 16) (fun s =>
    onChair path 0xC016 input (fun s =>
      let p := match path with
        | .forwarded _ _ => 1 - myPosition s
        | _ => myPosition s
      let r := fld 0 2 input
      let rext := fld 2 4 input
      let t := fld 6 2 input
      let l := tableAt p s
      let onTarget := l.filter fun e => e.2.region == r && e.2.rext == rext && e.2.unmapAt.isNone
      match regionOf r s with
      | none => invalid path 0xC016 0 s
      | some d =>
        checked path 0xC016
          [(d.state == .online && s.cxl.bureau != r, 0), (decide (rext < d.size), 2), (p != myPosition s || targetExists t s, 6),
           (fld 8 8 input == 0 || dpaOk l d r rext t (fld 8 8 input) s, 8), (d.isVolatile || inBureau s, 0)] (fun s =>
            if onTarget.any (fun e => e.2.target == t) || decide (16 ≤ onTarget.length) then answer path 0xC016 0x0006 [] s
            else if 262144 ≤ (l.filter fun e => e.2.target == t).length ∨ 1048576 ≤ l.length then answer path 0xC016 0x8001 [] s
            else
              match (if fld 8 8 input = 0 then pickDpa l d r rext t s else some (fld 8 8 input)) with
              | none => answer path 0xC016 0x8001 [] s
              | some dpa => attachEffect path p l { region := r, rext := rext, target := t, state := .offered, dpa := dpa } s) s) s) s

/-- ATTACH_EXTENT (C016h, R259, R260). -/
def execAttachExtent (path : BcsPath) (input : Bytes) (s : State) : Host.Outcome State Fault Refusal := .next (attachExtent path input s)

/-- The entry that Detach Extent names (R263). -/
def detachNamed (input : Bytes) (a : Attachment) : Bool :=
  a.region == fld 0 2 input && a.rext == fld 2 4 input && a.target == fld 6 2 input && a.unmapAt.isNone

/-- Whether Detach Extent may act on an entry: ACCEPTED, or RELEASING by force. -/
def detachable (input : Bytes) (a : Attachment) : Bool := a.state == .accepted || (fld 8 1 input == 1 && a.state == .releasing)

/-- Detach Extent on the controller that carries the target (R263). -/
def detachHere (path : BcsPath) (input : Bytes) (s : State) : State :=
  match s.cxl.att.find? fun e => detachNamed input e.2 with
  | none => invalid path 0xC017 0 s
  | some (n, a) =>
    checked path 0xC017 [(decide (fld 8 1 input < 2), 8), (detachable input a, 0)] (fun s =>
      inBackground path 0xC017 (fun s =>
        if fld 8 1 input = 1 then
          setAttachment n { a with state := .releasing, released := true, detach := some path, deadline := none } false (sendDcEvent 2 a s)
        else
          setAttachment n { a with state := .releasing, detach := some path, deadline := some (s.tb.beat + 2 ^ 26) } false (sendDcEvent 1 a s)) s)
      s

/-- The chair's part of a Detach Extent for a target of its partner (05_regions R167, R168): it checks the entry in the partner's table,
which the bureau holds, and the partner goes on when it answers Success. -/
def detachAllowed (path : BcsPath) (input : Bytes) (s : State) : State :=
  let l := tableAt (1 - myPosition s) s
  if inBureau s && !(l.any fun e => detachNamed input e.2 && detachable input e.2) then invalid path 0xC017 0 s
  else checked path 0xC017 [(decide (fld 8 1 input < 2), 8)] (success path 0xC017 []) s

/-- Detach Extent (R263), which the chair serves (05_regions R167). -/
def detachExtent (path : BcsPath) (input : Bytes) (s : State) : State :=
  bcs path 0xC017 input (input.length == 9) (fun s =>
    onChair path 0xC017 input (fun s =>
      match path with
      | .forwarded _ _ => detachAllowed path input s
      | _ => detachHere path input s) s) s

/-- DETACH_EXTENT (C017h, R263). -/
def execDetachExtent (path : BcsPath) (input : Bytes) (s : State) : Host.Outcome State Fault Refusal := .next (detachExtent path input s)

/-- A bureau write has been acknowledged (R254, R260). -/
def bureauAcked (job : Nat) (s : State) : State :=
  match mget job s.cxl.jobs with
  | none => s
  | some j =>
    let s := modCxl (fun c => { c with jobs := mdel job c.jobs }) s
    match j with
    | .entryState => s
    | .label path => answerO path 0x4103 0 [] s
    | .attach p n path =>
      let a := (attachOf (readBytes s.cxl.bureau (entryOffset p n) 16 s))
      let s := answerO path 0xC016 0 (le 8 ((a.map (·.dpa)).getD 0)) s
      match mget n s.cxl.att with
      | some x =>
        if p = myPosition s ∧ x.state = .offered then
          sendDcEvent 0 x (modCxl (fun c => { c with att := mput n { x with deadline := some (s.tb.beat + 2 ^ 26) } c.att }) s)
        else s
      | none => s
    | .format region left path =>
      if 1 < left then modCxl (fun c => { c with jobs := mput job (.format region (left - 1) path) c.jobs }) s
      else
        answerO path 0xC023 0 [] (raise 0x0608 .error (le 1 0 ++ zeros 1 ++ le 2 region) (modCxl (fun c => { c with bureau := region, bureauLost := false }) s))
    | .poison region line inject path =>
      let s := if inject then
          { s with ecc := { s.ecc with ledger := s.ecc.ledger.map fun e =>
              if e.region = region ∧ e.line = line then { e with cause := 1 } else e } }
        else s
      answerO path (if inject then 0x4301 else 0x4302) 0 [] s

/-- Entries of this controller's attachment table that a mirrored write of the partner carries (R255, R260): new offers are sent. -/
def bureauSeen (lines : List LineWrite) (s : State) : State :=
  lines.foldl (fun s w =>
    (List.range 4).foldl (fun s k =>
      let off := w.line * 64 + k * 16
      let lo := entryOffset (myPosition s) 0
      if off < lo ∨ lo + 16 * 1048576 ≤ off ∨ !(w.mask.getLsbD (k * 16)) then s
      else
        let n := (off - lo) / 16
        match attachOf (slice (k * 16) 16 (lineBytes w.data)), mget n s.cxl.att with
        | some a, none =>
          let s := raise 0x0604 .info (attachEvent a a.state.code) s
          sendDcEvent 0 a (modCxl (fun c => { c with att := mput n { a with deadline := some (s.tb.beat + 2 ^ 26) } c.att }) s)
        | _, _ => s) s) s

/-- Whether the bureau can be read: its region is ONLINE, or CHANGING (R257). -/
def bureauReadable (s : State) : Bool := (regionOf s.cxl.bureau s).any fun d => d.state != .offline

/-- Read the attachment table from the bureau (R264): OFFERED and ACCEPTED entries are taken, RELEASING ones become FREE. When the bureau
cannot be read no attachment is restored, and event 0x0608 is recorded (R257). -/
def restoreAttachments (s : State) : State :=
  if !inBureau s then s
  else if !bureauReadable s then
    raise 0x0608 .error (le 1 1 ++ zeros 1 ++ le 2 s.cxl.bureau) (modCxl (fun c => { c with bureauLost := true, att := [] }) s)
  else
    (List.range 1048576).foldl (fun s n =>
      match attachOf (readBytes s.cxl.bureau (entryOffset (myPosition s) n) 16 s) with
      | none => s
      | some a =>
        let s := modCxl (fun c => { c with att := mput n a c.att }) s
        if a.state = .releasing then freeAttachment n a s else s) (modCxl (fun c => { c with bureauLost := false }) s)

/-- GRANT_MEMORY_KEY (C018h, R302, R304). -/
def execGrantMemoryKey (path : BcsPath) (input : Bytes) (s : State) : Host.Outcome State Fault Refusal :=
  .next (bcs path 0xC018 input (input.length == 24) (fun s =>
    let r := fld 0 2 input
    let base := fld 8 8 input
    let len := fld 16 8 input
    match regionOf r s with
    | none => invalid path 0xC018 0 s
    | some d =>
      checked path 0xC018
        [(s.cxl.bureau != r, 0), (decide (fld 4 1 input < 32), 4), (zeroAt 5 3 input, 5), (decide (base % 4096 = 0), 8),
         (decide (len % 4096 = 0 ∧ 0 < len ∧ base + len ≤ regionBytes d), 16)] (fun s =>
          match firstFree (fun n => mhas n s.trust.memKeys) 1048576 0 with
          | none => answer path 0xC018 0x8001 [] s
          | some n =>
            if 1048576 ≤ n then answer path 0xC018 0x8001 [] s
            else
              let e : MemKey :=
                { lenPages := len / 4096, basePage := base / 4096, region := r, domain := fld 2 2 input
                  rights := BitVec.ofNat 5 (fld 4 1 input) }
              success path 0xC018 (le 4 (n * 4096 + mgetD 0 n s.trust.memTags))
                (modTrust (fun t => { t with memKeys := mput n e t.memKeys }) s)) s) s)

/-- REVOKE_MEMORY_KEY (C019h, R305): it takes effect at the next boundary D. -/
def execRevokeMemoryKey (path : BcsPath) (input : Bytes) (s : State) : Host.Outcome State Fault Refusal :=
  .next (bcs path 0xC019 input (input.length == 4) (fun s =>
    let k := fld 0 4 input
    let n := k / 4096
    match mget n s.trust.memKeys with
    | none => invalid path 0xC019 0 s
    | some e =>
      if mgetD 0 n s.trust.memTags ≠ k % 4096 ∨ e.revoking ∨ s.trust.revocations.any (fun r => r.index == n) then invalid path 0xC019 0 s
      else
        inBackground path 0xC019 (fun s =>
          modTrust (fun t => { t with revocations := t.revocations ++ [{ index := n, boundary := s.tb.beat + 1, path := some path }] }) s) s) s)

end Sys2Proof.Machine
end

