-- ==== Sys2Proof/Machine/PairCmds.lean ====
section
/-! DEFINITION. Meanings of the pair commands and of the formation messages (06_pair R191 to R198, R216 to R232, R241). -/

namespace Sys2Proof.Machine

/-- Whether the controller holds a region (R193). -/
def holdsRegion (s : State) : Bool := !s.reg.table.isEmpty

/-- Begin a formation on the side that was commanded: HELLO goes out (R194, step 1). -/
def beginFormation (role : FormRole) (mode : Nat) (hash : Bytes) (place : Nat) (path : BcsPath) (s : State) : State :=
  let f : Formation := { role := role, step := 1, mode := mode, start := s.tb.beat, hash := hash, path := some path }
  let x := sendFormation f (helloBytes 0 mode place (freeBytes 32 s) s) (advance s)
  setFormation (some x.1) x.2

/-- FORM_PAIR (C000h, R193): the checks that this side can make come first; the others follow at the joining controller's HELLO. -/
def execFormPair (path : BcsPath) (input : Bytes) (s : State) : Host.Outcome State Fault Refusal :=
  .next (bcs path 0xC000 input (input.length == 33) (fun s =>
    let mode := fld 32 1 input
    checked path 0xC000 [(decide (mode ≤ 1), 32)] (fun s =>
      if !linkUp s || isPaired s || s.pair.formation.isSome then answer path 0xC000 0x0006 [] s
      else inBackground path 0xC000 (beginFormation .initiator mode (slice 0 32 input) 0 path) s) s) s)

/-- ARM_PAIR_JOIN (C001h, R191). -/
def execArmPairJoin (path : BcsPath) (input : Bytes) (s : State) : Host.Outcome State Fault Refusal :=
  .next (bcs path 0xC001 input (input.length == 32) (fun s =>
    success path 0xC001 [] (modPair (fun p => { p with arming := some ⟨input, s.tb.beat + 2 ^ 30⟩ }) s)) s)

/-- ARMING_EXPIRY (R191). -/
def execArmingExpiry (s : State) : Host.Outcome State Fault Refusal :=
  match s.pair.arming with
  | some a => .next (if a.expiry ≤ s.tb.beat then modPair (fun p => { p with arming := none }) s else s)
  | none => .next s

/-- Whether a command that a holder or the chair forwarded runs here, although the chair is not here. -/
def fromPartner : BcsPath → Bool
  | .forwarded .. => true
  | _ => false

/-- A pair command of the chair (R191): one that the partner forwarded runs here. -/
def chairOrForwarded (path : BcsPath) (opcode : Nat) (input : Bytes) (body : State → State) (s : State) : State :=
  if fromPartner path then body s else onChair path opcode input body s

/-- The items of a dissolution on this controller (R196, R198, 14_trust R528): the partner's regions go, the kept ones are rewrapped under
the local key, K_pair is destroyed, and the former partner's ID is retired. -/
def dissolveItems (s : State) : List MetaItem :=
  let gone := (s.reg.table.filter fun e => !seatedHere e.2 s).map (·.1)
  let kept := (s.trust.keys.filter fun e => e.1 != 4096 && !e.2.bad && !gone.contains e.2.region).map fun e =>
    MetaItem.keySlot e.1 1 e.2.type e.2.region (keyWrap (srk s) e.2.key)
  gone.map freeItem ++ kept ++
    [pairItem { s.pair.record with pairId := 0, retired := setInsert (partnerId s) s.pair.record.retired }, .keySlot 4096 1 0 0 []]

/-- Dissolve (R196). -/
def dissolve (path : BcsPath) (force : Bool) (s : State) : State :=
  let gone := (s.reg.table.filter fun e => !seatedHere e.2 s).map (·.1)
  let items := dissolveItems s
  journalMeta items
    (gone.map MetaAct.removeRegion ++ items.map MetaAct.item ++
      [.event 0x0510 .info (le 1 (b2n (force && !linkUp s)) ++ zeros 1 ++ le 2 (partnerId s)), .dissolved, .answer path 0xC002 0 []]) false s

/-- DISSOLVE_PAIR (C002h, R196). The partner, when it is reached, dissolves as well. -/
def execDissolvePair (path : BcsPath) (input : Bytes) (s : State) : Host.Outcome State Fault Refusal :=
  .next (bcs path 0xC002 input (input.length == 1) (fun s =>
    let force := bitOf 0 (fld 0 1 input)
    checked path 0xC002 [(decide (fld 0 1 input < 2), 0)] (fun s =>
      chairOrForwarded path 0xC002 input (fun s =>
        if !isPaired s then invalid path 0xC002 0 s
        else if !(mirroredRegions s).isEmpty || (isSettee s && holdsRegion s) || (!linkUp s && !force) then answer path 0xC002 0x0006 [] s
        else
          let s := if fromPartner path || !linkUp s then s
            else bumpTag (sendMsg { vc := 2, opcode := 0x21, mtag := nextTag s, operand := 0xC002, body := input } s)
          dissolve path force s) s) s) s)

/-- The link state's encoding (13_management R495, C003h byte 10). -/
def linkCode : LinkSt → Nat
  | .down => 0
  | .train => 1
  | .init => 2
  | .up8 => 3
  | .up4 _ => 4

/-- The epoch of this controller's lease set: the highest epoch of a lease that it holds. -/
def leaseSetEpoch (s : State) : Nat :=
  ((s.pair.leaseEpoch.filter fun e => (regionOf e.1 s).any fun d => seatedHere d s).map (·.2)).foldl max
    (if s.pair.chairHere then s.pair.chairEpoch else 0)

/-- GET_PAIR_STATUS (C003h, 13_management R495). -/
def execGetPairStatus (path : BcsPath) (input : Bytes) (s : State) : Host.Outcome State Fault Refusal :=
  .next (bcs path 0xC003 input input.isEmpty (fun s =>
    let p := s.pair
    let l := mirroredRegions s
    let chair := if p.chairHere then myPosition s else 1 - myPosition s
    success path 0xC003
      (le 8 p.record.pairId ++ le 1 p.record.mode ++ le 1 (if isPaired s then p.position else 0xFF) ++ le 1 (linkCode p.link.state) ++
        le 1 chair ++ le 2 (if isPaired s then partnerId s else 0) ++ le 2 l.length ++ le 4 p.chairEpoch ++ le 4 (leaseSetEpoch s) ++
        l.flatMap fun e => le 2 e.1 ++ le 1 (if seatedHere e.2 s then myPosition s else 1 - myPosition s) ++
          le 1 (ownCopy e.1 s).state.code ++ le 4 (ownCopy e.1 s).gen) s) s)

/-- Whether a region's copy at a position is CURRENT (R226). -/
def currentAt (pos r : Nat) (s : State) : Bool :=
  if pos = myPosition s then (ownCopy r s).state == .current else otherCopyState r s == .current

/-- MOVE_SEAT (C004h, R226): the regions that are not at the target yet move, one after the other. A region seated on the partner is moved by
the partner, to which the chair forwards the command. A forwarded command carries the cause in byte 3. -/
def execMoveSeat (path : BcsPath) (input : Bytes) (s : State) : Host.Outcome State Fault Refusal :=
  .next (bcs path 0xC004 input (input.length == 3 || (fromPartner path && input.length == 4)) (fun s =>
    chairOrForwarded path 0xC004 input (fun s =>
      let r := fld 0 2 input
      let target := fld 2 1 input
      let cause := if input.length = 4 then fld 3 1 input else 1
      let named := if r = 0xFFFF then mirroredRegions s else (mirroredRegions s).filter fun e => e.1 == r
      let l := named.filter fun e => e.2.seat != idAt target s
      checked path 0xC004
        [(isPaired s, 0), (r == 0xFFFF || (regionOf r s).any (·.mirrored), 0), (decide (target ≤ 1), 2)] (fun s =>
          if l.any fun e => !currentAt target e.1 s then answer path 0xC004 0x0006 [] s
          else if l.isEmpty then success path 0xC004 (le 2 0) s
          else if (l.any fun e => !seatedHere e.2 s) then
            if linkUp s then forwardBcs path 0xC004 (input.take 3 ++ le 1 cause) s else answer path 0xC004 0x0005 [] s
          else
            l.zipIdx.foldl (fun s e =>
              addMove { region := e.1.1, target := target, boundary := 0, cause := cause, path := some path, ordinal := e.2 + 1 } s) s) s) s) s)

/-- MOVE_CHAIR (C005h, R226). -/
def execMoveChair (path : BcsPath) (input : Bytes) (s : State) : Host.Outcome State Fault Refusal :=
  .next (bcs path 0xC005 input input.isEmpty (fun s =>
    if !isPaired s then invalid path 0xC005 0 s
    else onChair path 0xC005 input (fun s =>
      if !linkUp s then answer path 0xC005 0x0005 [] s
      else addMove { region := 0, target := otherPosition s, boundary := 0, cause := 1, path := some path } s) s) s)

/-- Whether the partner still answers on the link (R197): an echo within the lease. -/
def partnerAnswers (s : State) : Bool :=
  linkUp s && match s.pair.hEcho with
    | some h => decide (s.tb.beat < h + 4096)
    | none => false

/-- ADMIT_REPLACEMENT (C006h, R197). -/
def execAdmitReplacement (path : BcsPath) (input : Bytes) (s : State) : Host.Outcome State Fault Refusal :=
  .next (bcs path 0xC006 input (input.length == 32) (fun s =>
    if !isPaired s then invalid path 0xC006 0 s
    else if isSettee s || partnerAnswers s || !linkUp s || s.pair.formation.isSome then answer path 0xC006 0x0006 [] s
    else beginFormation .survivor s.pair.record.mode (slice 0 32 input) (otherPosition s + 1) path s) s)

/-- SET_STANDBY_CHECKS (C007h, R229): the pair record takes the mode in both chests. -/
def execSetStandbyChecks (path : BcsPath) (input : Bytes) (s : State) : Host.Outcome State Fault Refusal :=
  .next (bcs path 0xC007 input (input.length == 1) (fun s =>
    let m := fld 0 1 input
    onChair path 0xC007 input (fun s =>
      checked path 0xC007 [(decide (1 ≤ m ∧ m ≤ 3), 0)] (fun s =>
        let i := pairItem { s.pair.record with checkMode := m }
        journalMeta [i] [.item i, .answer path 0xC007 0 []] true s) s) s) s)

/-- GET_PAIR_HEALTH (C008h, 13_management R495). -/
def execGetPairHealth (path : BcsPath) (input : Bytes) (s : State) : Host.Outcome State Fault Refusal :=
  .next (bcs path 0xC008 input input.isEmpty (fun s =>
    success path 0xC008 ((List.range 5).flatMap fun t =>
      let c := mgetD {} t s.pair.checks
      le 8 (c.passed + c.failed) ++ le 4 c.failed ++ zeros 4) s) s)

/-- FORCE_SEAT (C009h, R241): the named controller's copy becomes SOLE with MIRROR_GEN one higher, and is served. -/
def execForceSeat (path : BcsPath) (input : Bytes) (s : State) : Host.Outcome State Fault Refusal :=
  .next (bcs path 0xC009 input (input.length == 3) (fun s =>
    let r := fld 0 2 input
    let off := match regionOf r s with
      | some d => d.mirrored && d.state == .offline
      | none => false
    checked path 0xC009 [(off, 0), (fld 2 1 input == 1, 2)] (fun s =>
      match regionOf r s with
      | none => s
      | some d =>
        let g := (ownCopy r s).gen + 1
        let e := mgetD 0 r s.pair.leaseEpoch + 1
        let d' := { d with state := .online, seat := s.ident.controllerId, mirrorGen := g }
        let items := [ownStateItem r .sole g 0 s, .lease r (myPosition s) 3 e s.tb.beat, descItem r d']
        journalMeta items
          (items.map MetaAct.item ++
            [.event 0x050B .warning (mirrorEvent r .sole g), .event 0x0407 .info (le 2 r ++ le 1 1),
             .event 0x0508 .info (le 2 r ++ le 1 (myPosition s) ++ le 1 3 ++ le 4 e), .answer path 0xC009 0 (le 4 g)]) false s) s) s)

/-- SET_WITNESS_PATH (C00Ah, R191, R219). -/
def execSetWitnessPath (path : BcsPath) (input : Bytes) (s : State) : Host.Outcome State Fault Refusal :=
  .next (bcs path 0xC00A input (input.length == 24) (fun s =>
    let port := fld 0 1 input
    checked path 0xC00A [(port == 0xFF || mhas port s.net.ports, 0), (zeroAt 1 3 input, 1), (zeroAt 22 2 input, 22)] (fun s =>
      let w := if port = 0xFF then none else some ⟨port, slice 4 16 input, fld 20 2 input⟩
      let i := pairItem { s.pair.record with witness := w.isSome }
      journalMeta [i] [.item i, .answer path 0xC00A 0 []] false (modPair (fun p => { p with witness := w, witnessBeat := none }) s)) s) s)

/-! ### Formation messages -/

/-- Whether HELLO names the partner's board as acceptable (R193, R197): none, or the event reason and return code of the first failing
check. `found` is what the joining controller's own checks found. -/
def refusalOf (role : FormRole) (mode : Nat) (hello : Bytes) (s : State) : Option (Option Nat × Nat) :=
  let found := fld 1 1 hello
  let id := fld 2 2 hello
  let clash := id == s.ident.controllerId || (role == .survivor && id == partnerId s)
  if bitOf 0 found then some (none, 0x0006)
  else if fld 4 1 hello ≠ (if s.ident.h96 then 0 else 1) then some (some 1, 0x0002)
  else if clash || s.pair.record.retired.contains id then some (some 7, 0x0002)
  else if bitOf 1 found || (role == .initiator && mode == 1 && holdsRegion s) then some (some 2, 0x0006)
  else if bitOf 2 found then some (some 3, 0x0002)
  else none

/-- The joining controller's answer to a HELLO (R193, R194): it checks what only it can see, and joins when nothing refuses. -/
def joinHello (message : Bytes) (s : State) : State :=
  let id := fld 2 2 message
  let key := slice 12 68 message
  let place := fld 6 1 message
  let armed := match s.pair.arming with
    | some a => a.hash == shake256 32 key && decide (s.tb.beat < a.expiry)
    | none => false
  let found := b2n (isPaired s) + 2 * b2n (holdsRegion s) + 4 * b2n (!armed)
  let clash := fld 4 1 message != (if s.ident.h96 then 0 else 1) || id == s.ident.controllerId
  if found ≠ 0 ∨ clash then
    let s := emit (.mplInit (helloBytes found (fld 5 1 message) 0 (freeBytes 32 s) s)) (advance s)
    if isPaired s then s
    else
      let reason := if fld 4 1 message != (if s.ident.h96 then 0 else 1) then 1 else if id == s.ident.controllerId then 7
        else if holdsRegion s then 2 else 3
      raise 0x0502 .error (le 1 reason ++ zeros 1 ++ le 2 id) s
  else
    let pos := if place ≠ 0 then place - 1 else if s.ident.controllerId < id then 0 else 1
    let f : Formation :=
      { role := .joiner, step := 2, mode := fld 5 1 message, start := s.tb.beat, hash := shake256 32 key, path := none
        transcript := message, partnerId := id, partnerKey := key, position := pos }
    let x := sendFormation f (helloBytes 0 (fld 5 1 message) 0 (freeBytes 32 s) s) (advance s)
    let s := setFormation (some x.1) (modPair (fun p => { p with arming := none }) x.2)
    if pos = 0 then sendKey s else s

/-- HELLO (R194, steps 1 and 2). -/
def execHello (message : Bytes) (s : State) : Host.Outcome State Fault Refusal :=
  if fld 0 1 message ≠ 1 ∨ message.length ≠ 112 then .next s
  else
    match s.pair.formation with
    | none => .next (joinHello message s)
    | some f =>
      if f.role = .joiner ∨ f.step ≠ 1 then .next s
      else
        let id := fld 2 2 message
        let key := slice 12 68 message
        let f := { f with partnerId := id }
        let s := setFormation (some f) s
        match refusalOf f.role f.mode message s with
        | some (none, rc) =>
          .next (finishBg (f.path.getD .sideband) (if f.role = .survivor then 0xC006 else 0xC000) rc 0xFFFF [] (setFormation none s))
        | some (some reason, rc) => .next (failFormation reason rc s)
        | none =>
          if shake256 32 key ≠ f.hash then .next (failFormation 0 0x0002 s)
          else
            let pos := if f.role = .survivor then s.pair.position else if s.ident.controllerId < id then 0 else 1
            let s := setFormation (some { f with step := 2, partnerKey := key, position := pos, transcript := f.transcript ++ message }) s
            .next (if pos = 0 then sendKey s else s)

/-- The body and the signature of a signed formation message: kind, length, body, signature. -/
def splitSigned (m : Bytes) : Bytes × Bytes := (slice 8 (fld 4 4 m) m, m.drop (8 + fld 4 4 m))

/-- ENCAPSULATION_KEY (R194, steps 3 to 5): position 1 verifies, encapsulates, and sends the signed ciphertext. -/
def execEncapsulationKey (message : Bytes) (s : State) : Host.Outcome State Fault Refusal :=
  match s.pair.formation with
  | none => .next s
  | some f =>
    if fld 0 1 message ≠ 2 ∨ f.position ≠ 1 ∨ f.step ≠ 2 then .next s
    else if !Config.verify f.partnerKey (transcriptHash f) (splitSigned message).2 then .next (failFormation 4 0x0002 s)
    else
      let c := Config.kemEncaps (splitSigned message).1 (freeBytes 32 s)
      let f := { f with step := 4, transcript := f.transcript ++ message, kemSecret := c.2 }
      let s := signAndSend (le 4 3 ++ le 4 c.1.length ++ c.1) (advance (setFormation (some f) s))
      .next (if canSign s || s.trust.signer.waiting.isEmpty then journalFormation c.2 s else s)

/-- KEM_CIPHERTEXT (R194, steps 5 and 6): position 0 verifies and decapsulates, and K_pair is journaled. -/
def execKemCiphertext (message : Bytes) (s : State) : Host.Outcome State Fault Refusal :=
  match s.pair.formation with
  | none => .next s
  | some f =>
    if fld 0 1 message ≠ 3 ∨ f.position ≠ 0 ∨ f.step ≠ 3 then .next s
    else if !Config.verify f.partnerKey (transcriptHash f) (splitSigned message).2 then .next (failFormation 4 0x0002 s)
    else
      let s := setFormation (some { f with step := 5, transcript := f.transcript ++ message }) s
      .next (journalFormation (Config.kemDecaps f.kemSecret (splitSigned message).1) s)

/-- FORMATION_TIMEOUT (R195). -/
def execFormationTimeout (s : State) : Host.Outcome State Fault Refusal :=
  match s.pair.formation with
  | none => .next s
  | some f => .next (if f.start + 2 ^ 21 ≤ s.tb.beat then failFormation 6 0x0005 s else s)

/-! ### Heartbeats and leases -/

/-- HEARTBEAT (R216, R221): echoed in the beat of receipt, or answered with TAKEN once a takeover has begun. -/
def execHeartbeat (h _chairEpoch _leaseEpoch : Nat) (s : State) : Host.Outcome State Fault Refusal :=
  if !isPaired s then .next s
  else if s.pair.takeover || s.pair.takeoverDone then .next (sendMsg (msgTaken s.pair.chairEpoch) s)
  else .next (sendMsg (msgEcho h) (modPair (fun p => { p with heard := some s.tb.beat, partnerLost := false }) s))

/-- WITNESS_HEARTBEAT (R219): a valid datagram shows that the partner is alive. -/
def execWitnessHeartbeat (port : Nat) (datagram : Bytes) (s : State) : Host.Outcome State Fault Refusal :=
  match s.pair.witness with
  | none => .next s
  | some w =>
    let key := shake256 32 (kPair s ++ ascii "WIT")
    let id := fld 8 2 datagram
    let iv := be 4 id ++ be 8 (fld 12 8 datagram)
    let ok := port == w.port && isPaired s && datagram.length == 64 && fld 0 8 datagram == s.pair.record.pairId && id == partnerId s &&
      gcmTag key iv (datagram.take 48) [] == datagram.drop 48
    .next (if ok then modPair (fun p => { p with witnessBeat := some s.tb.beat }) s else s)

/-- The witness datagram of this controller at beat `h` (R219). -/
def witnessDatagram (h : Nat) (s : State) : Bytes :=
  let head := padTo 48 (le 8 s.pair.record.pairId ++ le 2 s.ident.controllerId ++ le 1 (linkCode s.pair.link.state) ++ zeros 1 ++ le 8 h ++
    le 4 s.pair.chairEpoch)
  head ++ gcmTag (shake256 32 (kPair s ++ ascii "WIT")) (be 4 s.ident.controllerId ++ be 8 h) head []

/-- HEARTBEAT_SEND (R216, R219): at each beat h with h mod 1,024 = 0, over the link and the witness path. -/
def heartbeatSend (s : State) : State :=
  let h := s.tb.beat
  if h % 1024 ≠ 0 ∨ !isPaired s then s
  else
    let s := if linkUp s then sendMsg (msgHeartbeat h s.pair.chairEpoch (leaseSetEpoch s)) s else s
    match s.pair.witness with
    | some w => emit (.witness w.port w.addr w.udp (witnessDatagram h s)) s
    | none => s

/-- LEASE_STOP_POINT (R217, R225): at h_e + 3,584 the holder stops acting; on a split link the side without the chair also yields. -/
def execLeaseStopPoint (s : State) : Host.Outcome State Fault Refusal :=
  match s.pair.hEcho with
  | none => .next s
  | some h =>
    if !isPaired s || s.pair.stopped || s.pair.takeover || s.pair.takeoverDone || decide (s.tb.beat < h + 3584) then .next s
    else
      let s := modPair (fun p => { p with stopped := true }) s
      .next (if !linkUp s && !s.pair.chairHere && partnerAlive s then yieldSplit s else s)

/-- TAKEOVER_DEADLINE (R218, R220, R221, R225): at r + 4,608 with the link out of service, the partner is judged dead and taken over, or
the link is split: then the holder of the chair takes over. -/
def execTakeoverDeadline (s : State) : Host.Outcome State Fault Refusal :=
  match s.pair.heard with
  | none => .next s
  | some r =>
    if !isPaired s || linkUp s || s.pair.takeover || s.pair.takeoverDone || decide (s.tb.beat < r + 4608) then .next s
    else if partnerAlive s then
      if s.pair.chairHere then
        .next (startTakeover 1 (raise 0x050A .error (le 1 1 ++ le 1 (if s.pair.witness.isSome then 0 else 1)) s))
      else .next (yieldSplit s)
    else .next (startTakeover 0 s)

/-! ### Standby checks -/

/-- Whether the self-tests run (R230). -/
def testsRun (s : State) : Bool := s.pair.record.checkMode == 1 || s.pair.record.checkMode == 3

/-- Count the result of a test (R230). -/
def countCheck (t : Nat) (ok : Bool) (s : State) : State :=
  modPair (fun p => { p with checks := mmodD {} t (fun c =>
    if ok then { c with passed := c.passed + 1 } else { c with failed := c.failed + 1 }) p.checks }) s

/-- STANDBY_SELF_TEST (R230): tests 1 to 4 of the table; a failure takes the spare out of use. -/
def execStandbySelfTest (test detail : Nat) (passed : Bool) (s : State) : Host.Outcome State Fault Refusal :=
  if !testsRun s ∨ test = 0 ∨ 4 < test then .next s
  else
    let s := countCheck test passed s
    if passed then .next s
    else
      let s := raise 0x0511 .error (le 1 test ++ zeros 7 ++ le 8 detail) s
      if test = 1 then
        .next (noteSpare 4 { s with te := { s.te with
          sliceOk := match s.te.spare with
            | some i => s.te.sliceOk &&& ~~~ BitVec.ofNat 17 (2 ^ i)
            | none => s.te.sliceOk
          spare := none } })
      else if test = 2 then .next (noteSpare 5 { s with mc := { s.mc with spareUsable := false } })
      else if test = 3 then .next (noteSpare 1 (modPu (fun p => { p with spareRows := p.spareRows - 1 }) s))
      else .next s

/-- The next chunk of the shared cursor (R231): ascending region and offset over the mirrored regions CURRENT on both sides. -/
def compareNext (s : State) : Option (Nat × Nat) :=
  let l := (mirroredRegions s).filter fun e => currentBoth e.1 s
  let here := l.find? fun e => e.1 == s.pair.compareRegion && decide (s.pair.compareOffset < regionBytes e.2)
  match here with
  | some e => some (e.1, s.pair.compareOffset)
  | none =>
    match l.find? fun e => decide (s.pair.compareRegion < e.1) with
    | some e => some (e.1, 0)
    | none => l.head?.map fun e => (e.1, 0)

/-- Whether both sides have placed what was mirrored of a region (R231). -/
def allPlaced (r : Nat) (s : State) : Bool :=
  !(s.pu.copies.any fun c => c.region == r) && !(s.pu.units.any fun u => u.region == r)

/-- MIRROR_COMPARE (R231): at each compare interval the cursor advances, and the mirror holder sends its CRC. -/
def execMirrorCompare (s : State) : Host.Outcome State Fault Refusal :=
  if !testsRun s || !isPaired s || !linkUp s || decide (s.tb.beat < s.pair.compareBeat + param 0x0503 256 s) then .next s
  else
    match compareNext s with
    | none => .next s
    | some (r, off) =>
      if !allPlaced r s then .next s
      else
        let s := modPair (fun p => { p with compareRegion := r, compareOffset := off + 65536, compareBeat := s.tb.beat }) s
        match regionOf r s with
        | none => .next s
        | some d =>
          if seatedHere d s then .next s
          else
            .next (sendMsg { vc := 3, opcode := 0x33, region := r, operand := off, body := le 8 (crc64 (readZeroed r off 65536 s)).toNat } s)

/-- MPL_COMPARE (R231): the seated controller compares, and on a mismatch sends its chunk. -/
def execMplCompare (region offset : Nat) (crc : BitVec 64) (s : State) : Host.Outcome State Fault Refusal :=
  match regionOf region s with
  | none => .next s
  | some d =>
    if !isPaired s || !d.mirrored || !seatedHere d s then .next s
    else if crc64 (readZeroed region offset 65536 s) = crc then .next (countCheck 0 true s)
    else
      .next (sendMsg (msgResync region offset s)
        (raise 0x050E .warning (le 2 region ++ zeros 6 ++ le 8 offset) (countCheck 0 false s)))

/-- ROLE_SWAP (R232, R227, 17_startup_service_life R608): once a period the chair moves every mirrored region that is CURRENT on both sides to
its other controller, then the chair. -/
def execRoleSwap (s : State) : Host.Outcome State Fault Refusal :=
  let p := s.pair
  let mode := p.record.checkMode == 2 || p.record.checkMode == 3
  if !isPaired s || !p.chairHere || !linkUp s || !mode || (p.swapSuspended && !swapsAgain s) || s.mc.activation.isSome ||
      decide (s.tb.beat < p.lastSwap + param 0x0504 2514 s * 2 ^ 26) then .next s
  else
    let s := modPair (fun p => { p with lastSwap := s.tb.beat, swapSuspended := false }) s
    let s := ((mirroredRegions s).filter fun e => currentBoth e.1 s).foldl (fun s e =>
      if seatedHere e.2 s then addMove { region := e.1, target := otherPosition s, boundary := 0, cause := 4, path := none } s
      else bumpTag (sendMsg { vc := 2, opcode := 0x21, mtag := nextTag s, operand := 0xC004, body := le 2 e.1 ++ le 1 (myPosition s) ++ le 1 4 } s)) s
    .next (addMove { region := 0, target := otherPosition s, boundary := 0, cause := 4, path := none } s)

end Sys2Proof.Machine
end

