-- ==== Sys2Proof/Machine/MirrorCmds.lean ====
section
/-! DEFINITION. Meanings of the mirror, META, resync and join messages (06_pair R212 to R215, R233 to R242). -/

namespace Sys2Proof.Machine

/-- Queue a unit and admit it at once when it can be. -/
def submitNow (u : WUnit) (s : State) : State :=
  let id := s.pu.nextUnit
  let s := submitUnit u s
  match unitOf id s with
  | some u => if canAdmit u s then admitUnit u true s else s
  | none => s

/-- MIRROR_WRITE (R212, R242): the mirror holder takes the unit into its mirror floor and accepts it. For a region that is seated here it is a
copy that comes back in a roll-forward, and is journaled as a new write. A ZERO unit is taken as zero lines (09_command_queues R370). -/
def execMirrorWrite (region msn : Nat) (zero : Bool) (lines : List LineWrite) (s : State) : Host.Outcome State Fault Refusal :=
  match regionOf region s with
  | none => .next s
  | some d =>
    let l := if zero then lines.map fun w => { w with data := 0, poison := false } else lines
    if !isPaired s || !d.mirrored || s.pair.takeover || l.isEmpty then .next s
    else if seatedHere d s then .next (submitNow (newUnit .background .general region l s) s)
    else
      let s := submitNow { newUnit (.mirror msn) .mirrorCopy region l s with gen := (ownCopy region s).gen } s
      .next (if region = s.cxl.bureau then bureauSeen l s else s)

/-- MIRROR_ACCEPT (R212): the partner has accepted a unit; it is acknowledged in the order of acceptance. -/
def execMirrorAccept (region msn : Nat) (s : State) : Host.Outcome State Fault Refusal :=
  .next (modPu (fun p =>
    { p with
      units := p.units.map fun u =>
        if u.region = region ∧ u.mirrored ∧ u.msn = msn ∧ u.phase = .staged ∧ !u.accepted then { u with accepted := true, acceptNo := p.nextAccept }
        else u
      nextAccept := p.nextAccept + 1 }) s)

/-- MIRROR_ABORT (R212): the holder drops the copy, accepted or not, unless it is sealed already. -/
def execMirrorAbort (region msn : Nat) (s : State) : Host.Outcome State Fault Refusal :=
  match s.pu.units.find? fun u => u.cls == .mirrorCopy && u.region == region && copyMsn u == msn with
  | none => .next s
  | some u => .next (abandonUnit u s)

/-- MIRROR_SEAL (R213): the notice is acted on at the next boundary. -/
def execMirrorSeal (region groupBeat : Nat) (runs : List SealRun) (s : State) : Host.Outcome State Fault Refusal :=
  .next (if isPaired s then modPair (fun p => { p with seals := p.seals ++ [⟨region, groupBeat, runs⟩] }) s else s)

/-- MIRROR_DONE (R213): mirrored records up to the SEQ are complete in the partner's chest. -/
def execMirrorDone (seq : Nat) (s : State) : Host.Outcome State Fault Refusal :=
  .next (modPair (fun p => { p with doneOrigin := max p.doneOrigin seq }) s)

/-- The KEY_SLOT items of a copied META record that are of local scope concern the sender alone (14_trust R527). -/
def copiedItem : MetaItem → Bool
  | .keySlot _ sc ty _ _ => sc == 0 || ty == 0
  | .sanitizeMark .. => false
  | _ => true

/-- META_COPY (R214): the body is journaled as an own META record; META_DONE follows when it is complete. A copied wrapped key restores a slot
that failed its check (14_trust R530). -/
def execMetaCopy (seq : Nat) (items : List MetaItem) (s : State) : Host.Outcome State Fault Refusal :=
  if !isPaired s then .next s
  else
    let l := items.filter copiedItem
    .next (journalMeta l (l.map MetaAct.item ++ [.metaDone seq]) false s)

/-- The line that a resync chunk leaves behind (R236): live copies above SRC_SEQ that are already placed win over it. -/
def resyncLine (region srcSeq : Nat) (w : LineWrite) (s : State) : LineWrite :=
  let live := (s.pu.chest.filter fun r => r.mirrorCopy && r.placed && decide (srcSeq < r.originSeq)).flatMap fun r =>
    r.lines.filter fun l => l.region == region && l.lw.line == w.line
  let x := live.foldl (fun b l => overlay b l.lw) ⟨w.data, w.poison⟩
  { w with data := x.data, poison := x.poison }

/-- Place a resync chunk in the segment cache (R236); none while it has no slot. -/
def placeResync (u : WUnit) (s : State) : Option State :=
  let ws := (u.lines.map fun w => resyncLine u.region (u.originSeq.getD 0) w s).filterMap fun w => (lineKey u.region w.line s).map fun k => (k, w)
  placeLines 0 ws s

/-- Where the receiver of a resync stands. -/
def noteChunk (region offset : Nat) (s : State) : State :=
  let x : Resync := match s.pair.resync with
    | some x => if x.region = region ∧ !x.sender then { x with offset := max x.offset (offset + 65536) }
                else { region := region, sender := false, offset := offset + 65536, incremental := false, beat := s.tb.beat, lastMark := s.tb.beat }
    | none => { region := region, sender := false, offset := offset + 65536, incremental := false, beat := s.tb.beat, lastMark := s.tb.beat }
  modPair (fun p => { p with resync := some x }) s

/-- RESYNC_CHUNK (R236): the receiver writes the chunk through its segment cache without journaling it. It also repairs a chunk that failed
a compare (R231). -/
def execResyncChunk (region offset srcSeq : Nat) (zero : Bool) (data : Bytes) (poison : List Nat) (s : State) : Host.Outcome State Fault Refusal :=
  match regionOf region s with
  | none => .next s
  | some d =>
    if !isPaired s || seatedHere d s || offset % 65536 != 0 || decide (regionBytes d < offset + 65536) then .next s
    else
      let lines := markPoison poison (cutLines offset (if zero then zeros 65536 else padTo 65536 data))
      let u := { newUnit .resync .general region lines s with originSeq := some srcSeq, phase := .staged }
      let s := if (ownCopy region s).state = .resyncing then noteChunk region offset s else s
      match placeResync u s with
      | some s => .next s
      | none =>
        let want := match lcnOf region offset s with
          | some l => waitSlot l s
          | none => s
        .next (submitUnit u want)

/-- The region offset of a chunk of this controller. -/
def offsetOfChunk (region lcn : Nat) (s : State) : Option Nat :=
  ((mgetD [] region s.reg.extentMap).idxOf? (lcn / 4096)).map fun k => k * 2 ^ 28 + lcn % 4096 * 65536

/-- The first region offset that the cabinet does not hold yet: below it every received chunk has been written back. -/
def safeMark (region offset : Nat) (s : State) : Nat :=
  let dirty := s.ti.segs.flatMap fun e => (chunksOfBits e.1 e.2.dirty).filterMap fun l => offsetOfChunk region l s
  (dirty ++ s.ti.inFlight.filterMap fun w => offsetOfChunk region w.lcn s).foldl min offset

/-- RESYNC_MARK (R236): every 2^20 beats the receiver journals the offset from which a restart goes on. -/
def execResyncMark (region : Nat) (s : State) : Host.Outcome State Fault Refusal :=
  match s.pair.resync with
  | none => .next s
  | some x =>
    if x.region ≠ region ∨ x.sender ∨ s.tb.beat < x.lastMark + 2 ^ 20 then .next s
    else
      let c := ownCopy region s
      let i := ownStateItem region c.state c.gen (safeMark region x.offset s) s
      .next (journalMeta [i] [.item i] false (modPair (fun p => { p with resync := some { x with lastMark := s.tb.beat } }) s))

/-- RESYNC_COMPLETE (R234): every chunk has been sent; the RESYNCING side becomes CURRENT. -/
def execResyncComplete (region : Nat) (s : State) : Host.Outcome State Fault Refusal :=
  match s.pair.resync, regionOf region s with
  | some x, some d =>
    if x.region ≠ region ∨ (x.sender ∧ (nextChunk x (regionBytes d)).isSome) ∨ (!x.sender ∧ (s.pu.units.any fun u => u.src == .resync)) then .next s
    else
      let c := ownCopy region s
      let dur := (s.tb.beat - x.beat) / 65536
      let s := modPair (fun p => { p with resync := none }) s
      let done := raise 0x050D .info (le 2 region ++ zeros 2 ++ le 4 c.gen ++ le 4 dur)
      if x.sender then
        let s := modPair (fun p => { p with partnerMirror := mput region ⟨.current, c.gen, 0, [], false⟩ p.partnerMirror }) s
        .next (nextResync (done s))
      else
        let i := ownStateItem region .current c.gen 0 s
        .next (done (raise 0x050B .warning (mirrorEvent region .current c.gen) (journalMeta [i] [.item i] false (applyItem 0 i s))))
  | _, _ => .next s

/-- The unknown-origin copies of a region, in their own SEQ order (R242). -/
def unknownCopies (r : Nat) (s : State) : List (List LineWrite) :=
  (s.pu.chest.filter fun x => x.mirrorCopy && x.originSeq == unknownOrigin && x.lines.any fun l => l.region == r).map fun x =>
    (x.lines.filter fun l => l.region == r).map (·.lw)

/-- Roll-forward of a region that is CURRENT on both sides (R242): the holder sends its unknown-origin copies back; the seated controller journals
them as new writes before it serves. -/
def rollForward (v : JoinView) (d : Region) (s : State) : State :=
  if seatedHere d s then
    let s := v.unknown.foldl (fun s l => if l.isEmpty then s else submitNow (newUnit .background .general v.region l s) s) s
    if v.unknown.isEmpty then s else raise 0x0512 .warning (le 2 v.region ++ zeros 2 ++ le 4 v.unknown.length) s
  else
    (unknownCopies v.region s).zipIdx.foldl (fun s x => sendMsg (msgMirrorWrite v.region x.2 false x.1 0 0) s) s

/-- This side's copy turns STALE when it is not already (R234). -/
def staleAtJoin (r : Nat) (s : State) : State := if (ownCopy r s).state = .stale then s else becomeStale r s

/-- One region at the join (R238). -/
def joinRegion (v : JoinView) (s : State) : State :=
  match regionOf v.region s with
  | none => s
  | some d =>
    if !d.mirrored then s
    else
      let c := ownCopy v.region s
      let st := mirrorOf v.state
      let old := mgetD ⟨.stale, 0, 0, [], false⟩ v.region s.pair.partnerMirror
      let s := modPair (fun p => { p with partnerMirror := mput v.region { old with state := st, gen := v.gen, bitmapValid := v.identitySame } p.partnerMirror
                                          joinWait := mdel v.region p.joinWait }) s
      let later (s : State) : State := modPair (fun p => { p with resyncWaiting := setInsert v.region p.resyncWaiting }) s
      match c.state, st with
      | .sole, .sole => raise 0x050F .error (lostEvent v.region 1 c.gen v.gen) (takeOffline v.region s)
      | .current, .current =>
        if c.gen = v.gen then takeOnline v.region (rollForward v d s)
        else if c.gen < v.gen then staleAtJoin v.region s
        else later (takeOnline v.region s)
      | .sole, _ => later (takeOnline v.region s)
      | .current, .resyncing => later (takeOnline v.region s)
      | .current, .stale => if v.gen ≤ c.gen then later (takeOnline v.region s) else s
      | .current, .sole => staleAtJoin v.region s
      | .resyncing, .resyncing => takeOffline v.region s
      | .stale, .stale => takeOffline v.region s
      | .resyncing, .stale => s
      | .stale, _ => takeOnline v.region s
      | .resyncing, _ => takeOnline v.region s

/-- The single regions of the partner are served again (R224), and in settee mode every region (R243). -/
def rejoin (s : State) : State :=
  let s := if isSettee s then s.reg.table.foldl (fun s e => if e.2.settee then takeOnline e.1 s else s) s else s
  let s := { s with ev := { s.ev with reports := s.ev.reports.filter fun r => r.code != 0x050F } }
  modPair (fun p => { p with takeoverDone := false, stopped := false, partnerLost := false, unavailable := [], hEcho := some s.tb.beat }) s

/-- PAIR_JOIN (R238): the link is in service again, and the two sides compare their copies. -/
def execPairJoin (views : List JoinView) (s : State) : Host.Outcome State Fault Refusal :=
  if !isPaired s || !linkUp s then .next s
  else
    let s := views.foldl (fun s v => joinRegion v s) (rejoin s)
    let s := if s.cxl.bureauLost && bureauReadable s then restoreAttachments s else s
    .next (nextResync (releaseHeld s))

/-- JOIN_WAIT_TIMEOUT (R240): the region stays OFFLINE. -/
def execJoinWaitTimeout (region : Nat) (s : State) : Host.Outcome State Fault Refusal :=
  match mget region s.pair.joinWait with
  | none => .next s
  | some b =>
    if s.tb.beat < b then .next s
    else
      .next (raise 0x050F .error (lostEvent region 2 (ownCopy region s).gen 0xFFFFFFFF)
        (modPair (fun p => { p with joinWait := mdel region p.joinWait }) s))

end Sys2Proof.Machine
end

