-- ==== Sys2Proof/Machine/NetCmds.lean ====
section
/-! DEFINITION. Meanings of the rows of the fabric ports, the RDMA transport and the triggers (08_remote_access), and of the capsule
transport's arrivals (09_command_queues R356 to R360). -/

namespace Sys2Proof.Machine

/-- The port rate in Mb/s of a SPEED code (R293). -/
def rateOf (speed : Nat) : Nat := if speed = 0 then 0 else 100000 * 2 ^ (speed - 1)

/-- The rate of a QP's port. -/
def qpPortRate (q : Qp) (s : State) : Nat := rateOf ((mgetD {} q.attr.port s.net.ports).speed)

/-- ETH_LINK_CHANGE (R293, R340): a port's link comes into service or goes down; an instrument port's replay channel stops with
cause 5 (10_capture_replay R413). -/
def execEthLinkChange (port : Nat) (up : Bool) (speed : Nat) (s : State) : Host.Outcome State Fault Refusal :=
  match mget port s.net.ports with
  | none => .next s
  | some p =>
    if p.up = up ∨ (up ∧ s.start.phase < 7) then .next s
    else
      let sp := if up then speed else 0
      let s := modNet (fun n => { n with ports := mput port { p with
        up := up, speed := sp, err := if up then p.err else p.err ||| 0b0001 } n.ports }) s
      let s := if !up && p.instrument && channelBusy (channelOf port s) then stopChannel port 5 s else s
      .next (raise 0x0701 .info (le 1 port ++ le 1 (b2n up) ++ le 1 sp) s)

/-- Whether a port's GID index is set (R300). -/
def gidSet (p : EthPort) (i : Nat) : Bool := mhas i p.gids

/-- FABRIC_FRAME (R292): a frame on a fabric port goes to its owner, is answered, or is dropped and counted. -/
def execFabricFrame (port length : Nat) (kind : FrameKind) (s : State) : Host.Outcome State Fault Refusal :=
  match mget port s.net.ports with
  | none => .next s
  | some p =>
    if p.instrument ∨ !p.up then .next s
    else
      let s := modNet (fun n => { n with ports := mmod port (fun p => { p with rx := p.rx + 1 }) n.ports }) s
      if 9216 < length then .next (dropOn port s)
      else
        match kind with
        | .fcsError => .next (dropOn port s)
        | .roce g ok q =>
          if !gidSet p g then .next (dropOn port s)
          else if !ok then .next (portErr port 0b0010 (dropOn port s))
          else
            match qpOf q s with
            | none => .next (dropOn port s)
            | some x => .next (if x.state = .reset then dropOn port s else s)
        | .ptp => .next (if ptpUsable port s then s else dropOn port s)
        | .witness => .next (if (s.pair.witness.map (·.port)) = some port then s else dropOn port s)
        | .arpOrNd g => .next (if gidSet p g then emit (.frame port (mgetD [] g p.gids)) s else dropOn port s)
        | .other => .next (dropOn port s)

/-- RDMA_WRITE (R306, R307). -/
def execRdmaWrite (req : RdmaReq) (data : Bytes) (s : State) : Host.Outcome State Fault Refusal :=
  .next (arrive req.qp (.write req data none) s)

/-- RDMA_WRITE_WITH_IMMEDIATE (R307, R313). -/
def execRdmaWriteWithImmediate (req : RdmaReq) (data : Bytes) (immediate : Nat) (s : State) : Host.Outcome State Fault Refusal :=
  .next (arrive req.qp (.write req data (some immediate)) s)

/-- SEND (R312). -/
def execSend (req : RdmaReq) (data : Bytes) (s : State) : Host.Outcome State Fault Refusal :=
  .next (arrive req.qp (.send req data none) s)

/-- SEND_WITH_IMMEDIATE (R312, R313). -/
def execSendWithImmediate (req : RdmaReq) (data : Bytes) (immediate : Nat) (s : State) : Host.Outcome State Fault Refusal :=
  .next (arrive req.qp (.send req data (some immediate)) s)

/-- RDMA_READ (R310). -/
def execRdmaRead (req : RdmaReq) (length : Nat) (s : State) : Host.Outcome State Fault Refusal :=
  .next (arrive req.qp (.read req length) s)

/-- COMPARE_AND_SWAP (R308). -/
def execCompareAndSwap (req : RdmaReq) (compareValue swapValue : BitVec 64) (s : State) : Host.Outcome State Fault Refusal :=
  .next (arrive req.qp (.atomic req 0 compareValue swapValue) s)

/-- FETCH_AND_ADD (R308). -/
def execFetchAndAdd (req : RdmaReq) (addend : BitVec 64) (s : State) : Host.Outcome State Fault Refusal :=
  .next (arrive req.qp (.atomic req 1 addend 0) s)

/-- ATOMIC_WRITE (R308). -/
def execAtomicWrite (req : RdmaReq) (value : BitVec 64) (s : State) : Host.Outcome State Fault Refusal :=
  .next (arrive req.qp (.atomic req 2 value 0) s)

/-- FLUSH (R309). -/
def execFlush (req : RdmaReq) (length : Nat) (s : State) : Host.Outcome State Fault Refusal :=
  .next (arrive req.qp (.flush req length) s)

/-- Whether a QP sends requests. -/
def sending (i : Nat) (s : State) : Bool :=
  match qpAt i s with
  | some q => q.state == .rts
  | none => false

/-- ACK (R317): the requests up to a PSN are acknowledged; the credit code of its AETH bounds the SENDs that may be outstanding from
then on (09_command_queues R357). -/
def execAck (qp psn credits : Nat) (s : State) : Host.Outcome State Fault Refusal :=
  match qpAt qp s with
  | none => .next s
  | some q => if sending qp s then .next (modQp qp (fun q => { q with credit := creditLimit credits }) (completeAcked qp psn q.sends.length s)) else .next s

/-- NAK (R317, R323): a sequence error is sent again; any other syndrome fails the request and the QP. -/
def execNak (qp psn syndrome : Nat) (s : State) : Host.Outcome State Fault Refusal :=
  match qpAt qp s with
  | none => .next s
  | some q =>
    if !sending qp s then .next s
    else
      let s := countQp qp 3 1 s
      if syndrome = 0x60 then .next (resendFrom qp psn s)
      else
        match q.sends.find? fun w => w.sent && psnAtMost w.psn psn && psnAtMost psn (wrLast w) with
        | none => .next (qpFail qp 2 syndrome psn s)
        | some w =>
          let s := if w.capsule.isSome then s else postCpl qp 0x10 true none syndrome (fld 16 4 w.bytes) (fld 52 4 w.bytes) ((drawn s).toNat % psnMod) false (advance s)
          .next (qpFail qp 2 syndrome psn (modQp qp (fun q => { q with sends := q.sends.filter (· != w) }) s))

/-- RNR_NAK (R317): the request waits the time of the timer code, at most RNR_RETRY times; 7 is no limit. -/
def execRnrNak (qp psn timer : Nat) (s : State) : Host.Outcome State Fault Refusal :=
  match qpAt qp s with
  | none => .next s
  | some q =>
    if !sending qp s then .next s
    else
      let n := ((q.sends.find? fun w => w.sent && psnAtMost w.psn psn && psnAtMost psn (wrLast w)).map (·.rnrRetries)).getD 0
      if q.attr.rnrRetry ≠ 7 ∧ q.attr.rnrRetry ≤ n then .next (qpFail qp 1 0 psn s)
      else
        let s := resendFrom qp psn s
        .next (modQp qp (fun q => { q with
          rnrUntil := some (s.tb.beat + rnrBeats timer)
          sends := q.sends.map fun w => if w.psn = psn then { w with rnrRetries := w.rnrRetries + 1 } else w }) s)

/-- READ_RESPONSE (R318): the data is written to the local range before the request completes. -/
def execReadResponse (qp psn : Nat) (data : Bytes) (s : State) : Host.Outcome State Fault Refusal :=
  match takeWr qp psn s with
  | none => .next s
  | some w => if w.capsule.isNone ∧ wrOp w.bytes = 5 ∧ !w.ackd then .next (storeResponse qp psn (data.take (fld 16 4 w.bytes)) s) else .next s

/-- ATOMIC_ACKNOWLEDGE (R318): the original value is written to the local range before the request completes. -/
def execAtomicAcknowledge (qp psn : Nat) (original : BitVec 64) (s : State) : Host.Outcome State Fault Refusal :=
  match takeWr qp psn s with
  | none => .next s
  | some w =>
    if w.capsule.isNone ∧ (wrOp w.bytes = 6 ∨ wrOp w.bytes = 7) ∧ !w.ackd then .next (storeResponse qp psn (le 8 original.toNat) s) else .next s

/-- CNP (R315): a triggered requester halves its rate, to no less than 1 Gb/s. -/
def execCnp (qp : Nat) (s : State) : Host.Outcome State Fault Refusal :=
  match qpAt qp s with
  | none => .next s
  | some q =>
    if q.state = .rts then
      .next (modQp qp (fun q => { q with rateMbps := max 1000 (q.rateMbps / 2), lastCnpRx := some s.tb.beat }) s)
    else .next s

/-- RATE_INCREASE (R315): 64 beats without a CNP raise the rate by 1/32 of the port rate, up to it. -/
def execRateIncrease (qp : Nat) (s : State) : Host.Outcome State Fault Refusal :=
  match qpAt qp s with
  | none => .next s
  | some q =>
    match q.lastCnpRx with
    | none => .next s
    | some b =>
      if b + 64 ≤ s.tb.beat then
        let full := qpPortRate q s
        let r := min full (q.rateMbps + full / 32)
        .next (modQp qp (fun q => { q with rateMbps := r, lastCnpRx := if r = full then none else some s.tb.beat }) s)
      else .next s

/-- The base timeout of an ACK_TMO in beats (R317). -/
def ackBase (n : Nat) : Nat := 8 * 2 ^ n

/-- ACK_TIMEOUT (R317): the oldest request is sent again, or the QP fails after RETRY_CNT retransmissions. -/
def execAckTimeout (qp : Nat) (s : State) : Host.Outcome State Fault Refusal :=
  match qpAt qp s with
  | none => .next s
  | some q =>
    match q.sends.find? fun w => w.sent && !w.ackd with
    | none => .next s
    | some w =>
      if q.state = .rts ∧ q.attr.ackTmo ≠ 0 ∧ w.sentBeat + ackBase q.attr.ackTmo * 2 ^ min w.retries 4 ≤ s.tb.beat then
        if q.attr.retryCnt ≤ w.retries then .next (qpFail qp 0 0 w.psn s)
        else
          let s := modQp qp (fun q => { q with sends := q.sends.map fun x => if x == w then { x with retries := x.retries + 1 } else x }) s
          .next (resendFrom qp w.psn s)
      else .next s

/-- RNR_TIMER_EXPIRY (R317): the wait is over, and the request is sent again. -/
def execRnrTimerExpiry (qp : Nat) (s : State) : Host.Outcome State Fault Refusal :=
  match qpAt qp s with
  | none => .next s
  | some q =>
    match q.rnrUntil with
    | none => .next s
    | some b => if b ≤ s.tb.beat then .next (modQp qp (fun q => { q with rnrUntil := none }) s) else .next s

/-- The least recently used QP on die, other than one. -/
def lruQp (i : Nat) (s : State) : Option Nat :=
  ((s.net.qps.filter fun q => q.1 != i && q.2.onDie).foldl (fun a q => match a with
    | none => some (q.1, q.2.lastUse)
    | some b => if q.2.lastUse < b.2 then some (q.1, q.2.lastUse) else some b) none).map (·.1)

/-- CONTEXT_SWAP_COMPLETE (R301): the context is on die, in place of the least recently used one, and the messages that waited run. -/
def execContextSwapComplete (qp : Nat) (s : State) : Host.Outcome State Fault Refusal :=
  match qpAt qp s with
  | none => .next s
  | some q =>
    if !q.swapping then .next s
    else
      let full := 4096 ≤ (s.net.qps.filter fun x => x.2.onDie).length
      let s := match (if full then lruQp qp s else none) with
        | some v => modQp v (fun q => { q with onDie := false }) s
        | none => s
      let l := (waitingOn q.attr.port s).filter fun m => m.1 == qp
      let s := modNet (fun n => { n with missQueue := mput q.attr.port ((waitingOn q.attr.port s).filter fun m => m.1 != qp) n.missQueue })
        (modQp qp (fun q => { q with onDie := true, swapping := false, lastUse := s.net.useClock }) s)
      .next (l.foldl (fun s m => runMsg m.1 m.2 s) s)

/-- Messages under way that name a key (R305). -/
def keyUsers (index : Nat) (s : State) : Nat :=
  (s.net.qps.map fun q => (q.2.rx.filter fun m => m.key == some index).length +
    (q.2.mp.filter fun c => !c.done && c.key == index).length).sum

/-- KEY_REVOCATION (R305): at boundary D the entry is REVOKING; the messages that passed the check before D are counted. -/
def execKeyRevocation (index : Nat) (s : State) : Host.Outcome State Fault Refusal :=
  match s.trust.revocations.find? fun r => r.index == index with
  | none => .next s
  | some r =>
    if r.boundary ≤ s.tb.beat then
      .next (modTrust (fun t => { t with
        memKeys := mmod index (fun k => { k with revoking := true }) t.memKeys
        revocations := t.revocations.map fun x =>
          if x.index = index then { x with drained := max x.drained (keyUsers index s) } else x }) s)
    else .next s

/-- A memory key entry becomes FREE and its TAG rises by one (R305). -/
def freeKey (index : Nat) (s : State) : State :=
  modTrust (fun t => { t with
    memKeys := mdel index t.memKeys, memTags := mput index ((mgetD 0 index t.memTags + 1) % 4096) t.memTags }) s

/-- A revocation of a key is done (R305): its event, and its command completes. -/
def endRevocation (r : Revocation) (k : MemKey) (s : State) : State :=
  let tag := mgetD 0 r.index s.trust.memTags
  let s := freeKey r.index (modTrust (fun t => { t with revocations := t.revocations.filter fun x => x.index != r.index }) s)
  let s := raise 0x0703 .info
    (le 4 (r.index * 4096 + tag) ++ le 2 k.region ++ zeros 2 ++ le 8 r.boundary ++ le 4 r.drained) s
  match r.path with
  | some p => finishBg p 0xC019 0 0xFFFF (le 4 r.drained) s
  | none => s

/-- REVOCATION_COMPLETE (R305): the messages accepted before D are done; the entry is FREE, and its TAG rises by one. -/
def execRevocationComplete (index : Nat) (s : State) : Host.Outcome State Fault Refusal :=
  match s.trust.revocations.find? fun r => r.index == index, mget index s.trust.memKeys with
  | some r, some k =>
    if k.revoking ∧ r.boundary ≤ s.tb.beat ∧ keyUsers index s = 0 then .next (endRevocation r k s) else .next s
  | _, _ => .next s

/-- COUNTER_FIRE (R321): an entry whose counter has reached THRESHOLD fires; with REARM the threshold rises by STEP. -/
def execCounterFire (entry : Nat) (s : State) : Host.Outcome State Fault Refusal :=
  match mget entry s.net.triggers with
  | none => .next s
  | some t =>
    if t.kind = 3 ∧ t.threshold ≤ mgetD 0 t.counter s.net.counters ∧ !(s.net.fired.any fun f => f.entry == entry) then
      .next (modNet (fun n => { n with
        fired := n.fired ++ [⟨entry, t.sendQpn, t.first, t.count⟩]
        triggers := if t.rearm then mput entry { t with threshold := (t.threshold + t.step) % 2 ^ 32 } n.triggers
          else mdel entry n.triggers }) s)
    else .next s

/-- WORK_REQUEST_ISSUE (R318): the next request of the send queue goes out when FENCE, the limit on READ and atomic requests and an RNR
wait let it; on a capsule QP it is the next capsule, when a credit of the host is free (09_command_queues R357). -/
def execWorkRequestIssue (qp : Nat) (s : State) : Host.Outcome State Fault Refusal :=
  match qpAt qp s with
  | none => .next s
  | some q =>
    match q.sends.find? fun w => !w.sent with
    | none => .next s
    | some w =>
      let rd := waitsAnswer w
      match w.capsule with
      | some kind =>
        if q.state = .rts ∧ q.rnrUntil.isNone ∧ creditFree q then
          .next (sendNow qp kind w.bytes q w (q.sends.takeWhile fun x => x.sent) ((q.sends.dropWhile fun x => x.sent).drop 1) s)
        else .next s
      | none =>
      if q.state ≠ .rts then .next (localError qp 0x80 w s)
      else if q.rnrUntil.isSome ∨ (bitOf 1 (fld 1 1 w.bytes) ∧ 0 < rdOutstanding q) ∨ (rd ∧ q.attr.rdOut ≤ rdOutstanding q) then .next s
      else .next (issueWr qp q w s)

/-- QP_ERROR (R297, R324): a QP enters the error state. -/
def execQpError (qp cause status : Nat) (s : State) : Host.Outcome State Fault Refusal :=
  match qpAt qp s with
  | none => .next s
  | some q => if q.state = .rtr ∨ q.state = .rts then .next (qpFail qp cause status 0 s) else .next s

/-- The attributes that a QP block spells (13_management R503). -/
def attrOf (b : Bytes) : QpAttr :=
  let f (o n : Nat) : Nat := fld o n b
  { service := f 0 1, transport := f 1 1, port := f 2 1, sgid := f 3 1, destQpn := f 4 4, rqPsn := f 8 4, sqPsn := f 12 4, pmtu := f 16 1
    ackTmo := f 17 1, retryCnt := f 18 1, rnrRetry := f 19 1, minRnrTmr := f 20 1, mpTmo := f 21 1, paths := f 22 1, logWindow := f 23 1
    rdIn := f 24 1, rdOut := f 25 1, dscp := f 26 1, priority := f 27 1, pkey := f 28 2, vlan := f 30 2, sportBase := f 32 2
    keyDomain := f 34 2, gqpDomain := f 36 1, dmac := slice 40 6 b, dgid := slice 48 16 b
    recvRing := ⟨f 64 2, f 72 8, f 66 1, f 67 1⟩, cplRing := ⟨f 80 2, f 88 8, 0, f 82 1⟩, dsq := ⟨f 96 2, f 104 8, 0, f 98 1⟩ }

/-- The QP block of a QP (13_management R503). -/
def qpBlock (q : Qp) : Bytes :=
  let a := q.attr
  le 1 a.service ++ le 1 a.transport ++ le 1 a.port ++ le 1 a.sgid ++ le 4 a.destQpn ++ le 4 a.rqPsn ++ le 4 a.sqPsn ++ le 1 a.pmtu ++
    le 1 a.ackTmo ++ le 1 a.retryCnt ++ le 1 a.rnrRetry ++ le 1 a.minRnrTmr ++ le 1 a.mpTmo ++ le 1 a.paths ++ le 1 a.logWindow ++
    le 1 a.rdIn ++ le 1 a.rdOut ++ le 1 a.dscp ++ le 1 a.priority ++ le 2 a.pkey ++ le 2 a.vlan ++ le 2 a.sportBase ++
    le 2 a.keyDomain ++ le 1 a.gqpDomain ++ le 1 q.state.code ++ zeros 2 ++ padTo 6 a.dmac ++ zeros 2 ++ padTo 16 a.dgid ++
    le 2 a.recvRing.region ++ le 1 a.recvRing.logSize ++ le 1 a.recvRing.logCount ++ zeros 4 ++ le 8 a.recvRing.offset ++
    le 2 a.cplRing.region ++ le 1 a.cplRing.logCount ++ zeros 5 ++ le 8 a.cplRing.offset ++
    le 2 a.dsq.region ++ le 1 a.dsq.logCount ++ zeros 5 ++ le 8 a.dsq.offset ++ zeros 16

/-- Bytes that a QP block leaves zero (13_management R503). -/
def blockZeros (b : Bytes) : Bool :=
  zeroAt 38 2 b && zeroAt 46 2 b && zeroAt 68 4 b && zeroAt 83 5 b && zeroAt 99 5 b && zeroAt 112 16 b

/-- Whether a ring may be named (R299); region 0 names none. -/
def ringOk (r : RingRef) (bytes dom : Nat) (wr : Bool) (s : State) : Bool :=
  if r.region = 0 then r.offset == 0 && r.logSize == 0 && r.logCount == 0
  else
    match regionOf r.region s with
    | none => false
    | some d => d.state == .online && d.seat == s.ident.controllerId && !d.settee && r.offset % 64 == 0 &&
        inRegion d r.offset bytes && (if wr then mayWrite dom d else mayRead dom d)

/-- The range checks of a QP block, with the offset of each field (R298, R299). -/
def attrChecks (base : Nat) (b : Bytes) (a : QpAttr) (s : State) : List (Bool × Nat) :=
  let fabric := match mget a.port s.net.ports with
    | some p => !p.instrument
    | none => false
  let mp := a.transport == 1
  [(decide (a.service < 2), base), (decide (a.transport < 2) && (!mp || a.service == 0), base + 1), (fabric, base + 2), (decide (a.sgid < 16), base + 3),
   (decide (a.destQpn < psnMod), base + 4), (decide (a.rqPsn < psnMod), base + 8), (decide (a.sqPsn < psnMod), base + 12),
   (decide (1 ≤ a.pmtu ∧ a.pmtu ≤ 5) && (!mp || a.pmtu == 5), base + 16), (decide (a.ackTmo < 32), base + 17),
   (decide (a.retryCnt < 8), base + 18), (decide (a.rnrRetry < 8), base + 19), (decide (a.minRnrTmr < 32), base + 20),
   (decide (a.mpTmo < 32) && (!mp || a.mpTmo != 0), base + 21), (decide (a.paths ≤ 8) && (!mp || a.paths != 0), base + 22),
   (if mp then decide (20 ≤ a.logWindow ∧ a.logWindow ≤ 26) else decide (a.logWindow ≤ 26), base + 23),
   (decide (1 ≤ a.rdIn ∧ a.rdIn ≤ 16), base + 24), (decide (1 ≤ a.rdOut ∧ a.rdOut ≤ 16), base + 25), (decide (a.dscp < 64), base + 26),
   (decide (a.priority < 8), base + 27), (decide (a.vlan < 4096) || a.vlan == 0xFFFF, base + 30),
   (a.sportBase % 8 == 0 && decide (49152 ≤ a.sportBase ∧ a.sportBase ≤ 65528), base + 32), (blockZeros b, base + 38),
   (ringOk a.recvRing (2 ^ (a.recvRing.logSize + a.recvRing.logCount)) a.gqpDomain true s &&
     (a.recvRing.region == 0 || decide (8 ≤ a.recvRing.logSize ∧ a.recvRing.logSize ≤ 20 ∧ a.recvRing.logCount ≤ 16)), base + 64),
   (ringOk a.cplRing (64 + 32 * 2 ^ a.cplRing.logCount) a.gqpDomain true s &&
     (a.cplRing.region == 0 || decide (4 ≤ a.cplRing.logCount ∧ a.cplRing.logCount ≤ 16)), base + 80),
   (ringOk a.dsq (64 * 2 ^ a.dsq.logCount) a.gqpDomain false s && decide (a.dsq.logCount ≤ 16), base + 96)]

/-- CREATE_QP (C0A0h, R298 to R300, 13_management R503): the lowest free index, in RESET. -/
def execCreateQp (path : BcsPath) (input : Bytes) (s : State) : Host.Outcome State Fault Refusal :=
  .next (bcs path 0xC0A0 input (input.length == 128) (fun s =>
    let a := attrOf input
    checked path 0xC0A0 (attrChecks 0 input a s) (fun s =>
      match firstFree (fun n => mhas n s.net.qps) 65536 0 with
      | none => answer path 0xC0A0 0x8001 [] s
      | some i =>
        if 65536 ≤ i then answer path 0xC0A0 0x8001 [] s
        else
          let onDie := decide ((s.net.qps.filter fun x => x.2.onDie).length < 4096)
          success path 0xC0A0 (le 4 (qpnOf i)) (modNet (fun n => { n with qps := mput i { attr := a, onDie := onDie } n.qps }) s)) s) s)

/-- The attributes with the fields of a transition taken from the new ones (R298). -/
def mergeAttr (old new : QpAttr) (frm dst : QpState) : QpAttr :=
  match frm, dst with
  | .reset, .init => { old with port := new.port, recvRing := new.recvRing, cplRing := new.cplRing, dsq := new.dsq }
  | .init, .rtr =>
    { old with
      sgid := new.sgid, dgid := new.dgid, dmac := new.dmac, vlan := new.vlan, dscp := new.dscp, priority := new.priority
      destQpn := new.destQpn, rqPsn := new.rqPsn, pmtu := new.pmtu, pkey := new.pkey, sportBase := new.sportBase, paths := new.paths
      minRnrTmr := new.minRnrTmr, mpTmo := new.mpTmo, logWindow := new.logWindow, rdIn := new.rdIn, rdOut := new.rdOut }
  | .rtr, .rts =>
    { old with
      sqPsn := new.sqPsn, ackTmo := new.ackTmo, retryCnt := new.retryCnt, rnrRetry := new.rnrRetry, rdIn := new.rdIn, rdOut := new.rdOut }
  | _, _ => old

/-- A QP state from its code. -/
def qpStateOf (n : Nat) : QpState :=
  if n = 0 then .reset else if n = 1 then .init else if n = 2 then .rtr else if n = 3 then .rts else .err

/-- Whether R297 lists a transition. -/
def transitionOk (frm dst : QpState) : Bool :=
  dst == .reset || dst == .err || (frm == .reset && dst == .init) || (frm == .init && dst == .rtr) || (frm == .rtr && dst == .rts)

/-- A QP enters a state by Modify QP (R297, R335). -/
def enterQpState (i : Nat) (a : QpAttr) (dst : QpState) (s : State) : State :=
  match dst with
  | .err => qpFail i 6 0 0 s
  | .reset =>
    let s := (qpUnits i s).foldl (fun s u => abandonUnit u s) s
    modQp i (fun q => { attr := a, onDie := q.onDie, lastUse := q.lastUse }) s
  | .init => modQp i (fun q => { q with attr := a, state := .init }) s
  | .rtr => modQp i (fun q => { q with attr := a, state := .rtr, ePsn := a.rqPsn }) s
  | .rts =>
    let s := modQp i (fun q => { q with
      attr := a, state := .rts, sPsn := a.sqPsn, rateMbps := qpPortRate { q with attr := a } s
      mpLimit := if a.transport = 1 then 2 ^ a.logWindow else q.mpLimit }) s
    if a.transport = 1 then mpAck i s else s

/-- MODIFY_QP (C0A1h, R297, R298, 13_management R503). -/
def execModifyQp (path : BcsPath) (input : Bytes) (s : State) : Host.Outcome State Fault Refusal :=
  .next (bcs path 0xC0A1 input (input.length == 136) (fun s =>
    match qpOf (fld 0 4 input) s with
    | none => invalid path 0xC0A1 0 s
    | some q =>
      let i := fld 0 4 input - 0x10000
      let dst := qpStateOf (fld 4 1 input)
      let b := input.drop 8
      let a := attrOf b
      let reset := dst == .reset || dst == .err
      checked path 0xC0A1
        ([(decide (fld 4 1 input < 5) && transitionOk q.state dst, 4), (zeroAt 5 3 input, 5)] ++
          (if reset then [] else attrChecks 8 b a s) ++ [(mergeAttr q.attr a q.state dst == a || reset && a == q.attr, 8)])
        (fun s => success path 0xC0A1 [] (enterQpState i a dst s)) s) s)

/-- QUERY_QP (C0A2h, 13_management R503). -/
def execQueryQp (path : BcsPath) (input : Bytes) (s : State) : Host.Outcome State Fault Refusal :=
  .next (bcs path 0xC0A2 input (input.length == 4) (fun s =>
    match qpOf (fld 0 4 input) s with
    | none => invalid path 0xC0A2 0 s
    | some q => success path 0xC0A2 (qpBlock q ++ (List.range 8).flatMap fun k => le 8 (mgetD 0 k q.counters)) s) s)

/-- DESTROY_QP (C0A3h, R300): only in RESET or ERR. -/
def execDestroyQp (path : BcsPath) (input : Bytes) (s : State) : Host.Outcome State Fault Refusal :=
  .next (bcs path 0xC0A3 input (input.length == 4) (fun s =>
    match qpOf (fld 0 4 input) s with
    | none => invalid path 0xC0A3 0 s
    | some q =>
      if q.state = .reset ∨ q.state = .err then
        success path 0xC0A3 [] (modNet (fun n => { n with qps := mdel (fld 0 4 input - 0x10000) n.qps }) s)
      else invalid path 0xC0A3 0 s) s)

/-- SET_GID (C0A4h, R300, 13_management R503). -/
def execSetGid (path : BcsPath) (input : Bytes) (s : State) : Host.Outcome State Fault Refusal :=
  .next (bcs path 0xC0A4 input (input.length == 20) (fun s =>
    let port := fld 0 1 input
    let i := fld 1 1 input
    let g := slice 4 16 input
    let fabric := match mget port s.net.ports with
      | some p => !p.instrument
      | none => false
    checked path 0xC0A4 [(fabric, 0), (decide (i < 16), 1), (zeroAt 2 2 input, 2)] (fun s =>
      success path 0xC0A4 [] (modNet (fun n => { n with ports := mmod port (fun p =>
        { p with gids := if allZero g then mdel i p.gids else mput i g p.gids }) n.ports }) s)) s) s)

/-- GET_PORT_STATUS (C0A5h, 13_management R503). -/
def execGetPortStatus (path : BcsPath) (input : Bytes) (s : State) : Host.Outcome State Fault Refusal :=
  .next (bcs path 0xC0A5 input (input.length == 1) (fun s =>
    let port := fld 0 1 input
    match mget port s.net.ports with
    | none => invalid path 0xC0A5 0 s
    | some p =>
      let lanes := 8 / 2 ^ (s.net.portMode / 4 ^ (port / 8) % 4)
      success path 0xC0A5
        (le 1 (b2n p.up) ++ le 1 p.speed ++ le 1 (b2n p.instrument) ++ le 1 lanes ++
          le 4 (s.net.qps.filter fun q => q.2.attr.port == port).length ++
          (List.range 16).flatMap fun i => padTo 16 (mgetD [] i p.gids)) s) s)

/-- TRIGGER_COUNTER (C0A6h, R322, 13_management R503). -/
def execTriggerCounter (path : BcsPath) (input : Bytes) (s : State) : Host.Outcome State Fault Refusal :=
  .next (bcs path 0xC0A6 input (input.length == 12) (fun s =>
    let c := fld 0 2 input
    checked path 0xC0A6 [(decide (c < 1024), 0), (decide (fld 2 1 input < 2), 2), (zeroAt 3 5 input, 3)] (fun s =>
      let old := mgetD 0 c s.net.counters
      let s := if fld 2 1 input = 1 then modNet (fun n => { n with counters := mput c (fld 8 4 input) n.counters }) s else s
      success path 0xC0A6 (le 4 old) s) s) s)

/-- Whether a multipath packet is invalid (R328): `payload` is its length, none for a read request. -/
def mpInvalid (q : Qp) (h : Mpeth) (payload : Option Nat) : Bool :=
  h.msgLen == 0 || decide (2 ^ 24 < h.msgLen) || h.va % 64 != 0 || h.pktOffset % 4096 != 0 || decide (h.msgLen ≤ h.pktOffset) ||
    (match payload with
      | some n => n != min 4096 (h.msgLen - h.pktOffset) || h.pktCount != 0
      | none => false) ||
    decide (q.attr.paths ≤ h.path) || h.reservedBits ||
    match q.mp.find? fun c => c.msn == h.msn with
    | some c => c.msgLen != h.msgLen || c.va != h.va || c.rkey != h.rkey || c.imm != (if h.immFlag then some h.immediate else none)
    | none => false

/-- Change the context of a message. -/
def modCtx (i msn : Nat) (f : MpCtx → MpCtx) (s : State) : State :=
  modQp i (fun q => { q with mp := q.mp.map fun c => if c.msn = msn then f c else c }) s

/-- The unit of a piece of a multipath message. -/
def mpUnit (i msn k : Nat) (s : State) : Option WUnit := s.pu.units.find? fun u => u.src == .multipath i msn k

/-- Admit the pieces of a message up to piece `k`, in order (R331): none when one cannot be admitted at once. -/
def mpAdmit (i : Nat) (c : MpCtx) (k : Nat) (s : State) : Option State :=
  ((List.range (k + 1)).filter fun j => decide (c.admitted ≤ j)).foldlM (fun s j =>
    let off := c.off + j * 2 ^ 20
    let len := min (2 ^ 20) (c.msgLen - j * 2 ^ 20)
    if route c.region off s = .partner then some s
    else
      let s := submitEmpty (.multipath i c.msn j) c.region off len s
      match s.pu.units.getLast? with
      | none => some s
      | some u =>
        if volatileUnit u s then some (modPu (putUnit { u with phase := .reserved }) s)
        else if canAdmit u s then some (admitUnit u false s) else none) s

/-- Replace the lines of a list that new ones cover. -/
def replaceLines (new old : List LineWrite) : List LineWrite :=
  old.map fun w => (new.find? fun x => x.line == w.line).getD w

/-- The packets of a piece. -/
def piecePackets (c : MpCtx) (k : Nat) : List Nat :=
  (List.range (min (k * 256 + 256) ((c.msgLen + 4095) / 4096))).filter (k * 256 ≤ ·)

/-- Release a piece that has all its packets (R332): its unit is staged, or it goes to the partner. -/
def mpRelease (i : Nat) (c : MpCtx) (k : Nat) (s : State) : State :=
  match mpUnit i c.msn k s with
  | some u => stageUnit u s
  | none => forwardWrite (.mpWrite i c.msn k) 1 c.region (c.off + k * 2 ^ 20)
      (c.lines.filter fun w => decide ((c.off + k * 2 ^ 20) / 64 ≤ w.line ∧ w.line < (c.off + (k + 1) * 2 ^ 20 + 63) / 64)) s

/-- The lines that a packet's payload covers, with its poison (R327). -/
def mpLines (off : Nat) (h : Mpeth) (payload : Bytes) : List LineWrite :=
  (cutLines (off + h.pktOffset) payload).zipIdx.map fun x =>
    if h.poisonFlag && h.linePoison.getLsbD x.2 then { x.1 with poison := true } else x.1

/-- Place a packet of a message that has its context (R331). -/
def mpPlace (i : Nat) (c : MpCtx) (h : Mpeth) (payload : Bytes) (port : Nat) (s : State) : State :=
  let n := h.pktOffset / 4096
  let k := n / 256
  let dropped (s : State) : State :=
    raiseLimited 0x0704 port .warning (fun m => le 1 port ++ le 1 1 ++ zeros 2 ++ le 4 m) (portErr port 0b1000 (dropOn port (countQp i 6 1 s)))
  if c.placed.contains n then s
  else
    match mpAdmit i c k s with
    | none => dropped s
    | some s =>
      let new := mpLines c.off h payload
      let s := match mpUnit i c.msn k s with
        | some u => fillUnit u (replaceLines new u.lines) s
        | none => s
      let c := { c with admitted := max c.admitted (k + 1), placed := setInsert n c.placed
                        lines := if (mpUnit i c.msn k s).isNone then c.lines ++ new else c.lines }
      let s := modQp i (fun q => { q with mpAckDue := true }) (modCtx i c.msn (fun _ => c) s)
      if (piecePackets c k).all fun m => c.placed.contains m then mpRelease i c k s else s

/-- A multipath write packet (R328 to R331, R336). -/
def mpWritePacket (h : Mpeth) (payload : Bytes) (s : State) : State :=
  let i := h.qp
  match qpAt i s with
  | none => s
  | some q =>
    let port := q.attr.port
    let ahead := (h.msn + psnMod - q.cumMsn) % psnMod
    if q.attr.transport ≠ 1 ∨ (q.state ≠ .rtr ∧ q.state ≠ .rts) then countQp i 6 1 (dropOn port s)
    else if ahead = 0 ∨ 2 ^ 23 ≤ ahead then mpAck i s
    else if 1024 < ahead ∨ mpInvalid q h (some payload.length) then mpNak i h.msn 0x01 3 s
    else
      match q.mp.find? fun c => c.msn == h.msn with
      | some c => mpPlace i c h payload port s
      | none =>
        if q.mpLimit < q.mpStarted + h.msgLen then mpNak i h.msn 0x01 3 s
        else
          match keyCheck q h.rkey [1, 4] h.va h.msgLen true s with
          | none => mpNak i h.msn 0x02 3 (noteRefused h.rkey h.va h.msgLen s)
          | some k =>
            match spanRoute k.region k.off h.msgLen s with
            | .unavailable => mpNak i h.msn 0x03 3 s
            | .wait => countQp i 6 1 (portErr port 0b1000 (dropOn port s))
            | _ =>
              if 4096 ≤ mpContexts s then
                raiseLimited 0x0704 port .warning (fun m => le 1 port ++ le 1 0 ++ zeros 2 ++ le 4 m)
                  (portErr port 0b1000 (dropOn port (countQp i 6 1 s)))
              else
                let c : MpCtx := { msn := h.msn, msgLen := h.msgLen, va := h.va, rkey := h.rkey, region := k.region, off := k.off
                                   imm := if h.immFlag then some h.immediate else none, first := s.tb.beat, key := k.index }
                let s := modQp i (fun q => { q with mp := q.mp ++ [c], mpStarted := q.mpStarted + h.msgLen }) s
                mpPlace i c h payload port s

/-- MP_WRITE (R331). -/
def execMpWrite (h : Mpeth) (payload : Bytes) (s : State) : Host.Outcome State Fault Refusal := .next (mpWritePacket h payload s)

/-- MP_WRITE_IMM (R331): a packet of a message with an immediate. -/
def execMpWriteImm (h : Mpeth) (payload : Bytes) (s : State) : Host.Outcome State Fault Refusal :=
  .next (mpWritePacket { h with immFlag := true } payload s)

/-- MP_MESSAGE_COMPLETE (R332, R333): the last piece is acknowledged and every earlier message is complete; CUM_MSN advances, the
immediate is delivered, and an MP_ACK goes out at once. -/
def execMpMessageComplete (qp msn : Nat) (s : State) : Host.Outcome State Fault Refusal :=
  match qpAt qp s with
  | none => .next s
  | some q =>
    match q.mp.find? fun c => c.msn == msn with
    | none => .next s
    | some c =>
      if c.isRead ∨ !mpComplete c ∨ msn ≠ (q.cumMsn + 1) % psnMod ∨ (c.imm.isSome ∧ cplFree q = 0) then .next s
      else
        let s := countQp qp 7 1 (modQp qp (fun q => { q with
          cumMsn := msn, mp := q.mp.filter fun x => x.msn != msn, mpDone := q.mpDone + c.msgLen }) s)
        let s := match c.imm with
          | some v => postCpl qp 3 false (some v) 0 c.msgLen 0xFFFFFFFF msn false s
          | none => s
        .next (passReads qp q.mp.length (mpAck qp (raiseCredit qp s)))

/-- An MPETH as it is sent (R327). -/
def mpethBytes (msn flags len va rkey off poison : Nat) : Bytes :=
  be 3 msn ++ be 1 flags ++ be 4 len ++ be 8 va ++ be 4 rkey ++ be 4 off ++ be 4 0 ++ be 8 poison ++ be 4 0

/-- Send the MP_READ_RESP packets of a read (R338): `bad` lists poisoned lines, counted from the message's first line. -/
def mpRespond (i : Nat) (q : Qp) (msn len va rkey first : Nat) (data : Bytes) (bad : List Nat) (s : State) : State :=
  ((chunksOf 4096 (if bad.isEmpty then data else zeroLines first bad data)).zipIdx.foldl (fun s x =>
    let j := first / 4096 + x.2
    let lines := bad.filter fun b => b / 64 == j
    let mask := lines.foldl (fun v b => v + 2 ^ (b % 64)) 0
    let flags := (if lines.isEmpty then 0 else 64) + j % max 1 q.attr.paths * 8
    emit (.mpPacket i (le 1 0xC3 ++ mpethBytes msn flags len va rkey (j * 4096) mask ++ x.1)) s) s)

/-- Event 0x0706 for poisoned lines that were sent (R340). -/
def mpPoisonSent (i region off : Nat) (bad : List Nat) (s : State) : State :=
  match bad.getLast? with
  | none => s
  | some b => raiseLimited 0x0706 i .warning (fun _ => le 3 (qpnOf i) ++ zeros 1 ++ le 2 region ++ zeros 2 ++ le 8 (off + b * 64))
      (poisonBites 5 region (bad.map fun b => off / 64 + b) s)

/-- A read is answered: CUM_MSN may pass it (R338). -/
def mpReadDone (i msn : Nat) (s : State) : State :=
  match qpAt i s with
  | none => s
  | some q => passReads i (q.mp.length + 1) (modCtx i msn (fun c => { c with done := true }) s)

/-- MP_READ_REQ (R338): checked like a write, with the READ right; it takes no reassembly context. A request for packets of a read that
CUM_MSN has passed is served again. -/
def execMpReadReq (h : Mpeth) (s : State) : Host.Outcome State Fault Refusal :=
  let i := h.qp
  match qpAt i s with
  | none => .next s
  | some q =>
    let ahead := (h.msn + psnMod - q.cumMsn) % psnMod
    let old := ahead = 0 ∨ 2 ^ 23 ≤ ahead
    if q.attr.transport ≠ 1 ∨ (q.state ≠ .rtr ∧ q.state ≠ .rts) then .next (countQp i 6 1 (dropOn q.attr.port s))
    else if (1024 < ahead ∧ ¬ old) ∨ mpInvalid q h none then .next (mpNak i h.msn 0x01 3 s)
    else
      match keyCheck q h.rkey [0, 4] h.va h.msgLen false s with
      | none => .next (mpNak i h.msn 0x02 3 s)
      | some k =>
        let n := if h.pktCount = 0 then h.msgLen - h.pktOffset else min (h.pktCount * 4096) (h.msgLen - h.pktOffset)
        let off := k.off + h.pktOffset
        let c : MpCtx := { msn := h.msn, msgLen := h.msgLen, va := h.va, rkey := h.rkey, imm := none, region := k.region, off := k.off
                           first := s.tb.beat, isRead := true, key := k.index }
        let s := if old ∨ (q.mp.any fun x => x.msn == h.msn) then s else modQp i (fun q => { q with mp := q.mp ++ [c] }) s
        match spanRoute k.region off n s with
        | .unavailable => .next (mpNak i h.msn 0x03 3 s)
        | .wait => .next (countQp i 6 1 (dropOn q.attr.port s))
        | _ =>
          if route k.region off s = .partner then .next (forwardRead (.mpRead i h.msn h.pktOffset) 1 k.region off n s)
          else
            let x := readHere k.region off n s
            let bad := x.2.1.map fun l => l - k.off / 64
            let s := mpRespond i q h.msn h.msgLen h.va h.rkey h.pktOffset x.1 bad x.2.2
            .next (mpReadDone i h.msn (mpPoisonSent i k.region k.off bad s))

/-- MP_REASSEMBLY_TIMEOUT (R337). -/
def execMpReassemblyTimeout (qp msn : Nat) (s : State) : Host.Outcome State Fault Refusal :=
  match qpAt qp s with
  | none => .next s
  | some q =>
    match q.mp.find? fun c => c.msn == msn && !c.isRead with
    | none => .next s
    | some c =>
      if c.first + 8 * 2 ^ q.attr.mpTmo ≤ s.tb.beat then .next (mpNak qp msn 0x04 4 s) else .next s

/-- COMMAND_CAPSULE (09_command_queues R356, R357). -/
def execCommandCapsule (qp psn : Nat) (capsule : Bytes) (s : State) : Host.Outcome State Fault Refusal :=
  let req : RdmaReq := { qp := qp, psn := psn, packets := 1, rkey := 0, va := 0, ecn := false }
  .next (arrive qp (.send req capsule none) s)

/-- PIECE_DELIVERY (09_command_queues R359, R360): the WRITE with immediate of a Transfer-Ready. -/
def execPieceDelivery (qp stagingKey immediate va : Nat) (data : Bytes) (s : State) : Host.Outcome State Fault Refusal :=
  match qpAt qp s with
  | none => .next s
  | some q =>
    let req : RdmaReq :=
      { qp := qp, psn := q.ePsn, packets := packetsOf data.length (mtuOf q.attr.pmtu), rkey := stagingKey, va := va, ecn := false }
    .next (arrive qp (.write req data (some immediate)) s)

/-- TRIGGER_ARM (R320, R323, 09_command_queues R366): it takes effect at the next boundary. -/
def execTriggerArm (qid cid : Nat) (s : State) : Host.Outcome State Fault Refusal :=
  .next (withCmd qid cid (fun e => eOpcode e == 0x12) (fun q c s =>
    let e := c.entry
    let w := eCdw5 e
    let clear := bitOf 15 w
    let t := triggerOf q.domain (slice 32 32 e) s
    let fields := headerOk q c && ePtrKind e == 0 && eRegion e == 0 && eOffset e == 0 && decide (w < 65536) && !bitOf 14 w &&
      (if clear then allZero (slice 32 32 e) else t.isSome)
    if !fields ∨ eLength e ≠ 0 then refuseCmd qid cid 2 s
    else
      modNet (fun n => { n with arms := n.arms ++ [⟨qid, cid, w % 16384, if clear then none else t, s.tb.beat + 1⟩] })
        (runCmd qid cid [] s)) s)

/-- TRIGGER_ARM_EFFECT (09_command_queues R366): at the boundary the entry is written or cleared, and the command completes. -/
def execTriggerArmEffect (entry : Nat) (s : State) : Host.Outcome State Fault Refusal :=
  match s.net.arms.find? fun a => a.entry == entry && decide (a.beat ≤ s.tb.beat) with
  | none => .next s
  | some a =>
    let s := modNet (fun n => { n with
      arms := n.arms.filter (· != a)
      triggers := match a.trigger with
        | some t => mput entry t n.triggers
        | none => mdel entry n.triggers }) s
    .next (complete a.qid a.cid 0 [] s)

end Sys2Proof.Machine
end

