-- ==== Sys2Proof/Machine/ReplayCmds.lean ====
section
/-! DEFINITION. Meanings of the replay commands: Replay Control, its timed actions, prefetch, staging and launch (10_capture_replay R404
to R417). -/

namespace Sys2Proof.Machine

/-- A range of region data that an action reads: given back by the partner, read here, or still to come. -/
inductive Got where
  | data (b : Bytes) (bad : List Nat)
  | fails (status : Nat)
  | later
deriving DecidableEq, Repr, Inhabited

/-- Read a range for an action (R414): `back` is what the partner returned, with its status. -/
def actRead (a : CtlAct) (r off len : Nat) (back : Option (Nat × Bytes × List Nat)) (s : State) : Got :=
  match back with
  | some (st, b, bad) => if st = 0 then .data b bad else .fails st
  | none =>
    match regionStatus a.dom r off len false s with
    | some st => .fails st
    | none =>
      match rangeRoute r off len s with
      | .unavailable => .fails 0x0102
      | .wait => .later
      | _ => if route r off s = .here then .data (readBytes r off len s) (poisonedLines r off len s) else .later

/-- Forward the read of an action to the partner, or let it wait. -/
def actForward (a : CtlAct) (r off len : Nat) (s : State) : State :=
  if route r off s = .partner then forwardRead (.control a.frm a.dom a.entry a.data) 3 r off len (ctlWait a.frm s) else s

/-- Staging that a channel has (R409). -/
def stagingOk (s : State) : Bool := decide (2 ^ 24 ≤ s.cap.stagingPerChannel)

/-- A channel takes a configuration (R416): it is IDLE. -/
def takeChannel (a : CtlAct) (c : Nat) (filler : Bytes) (s : State) : State :=
  let b := a.data
  let old := channelOf c s
  let new : Channel := {
    state := old.state, policy := fld 0 1 b, fcsMode := fld 1 1 b, flags := fld 2 1 b
    lead := if fld 4 4 b = 0 then 131072 else fld 4 4 b, filler := filler, sample := old.sample }
  let s := modChan c (fun _ => new) s
  ctlDone a.frm [] [] (enterChannel c 1 0 s)

/-- CONFIGURE of a channel (R414, R416). -/
def doReplayConfigure (back : Option (Nat × Bytes × List Nat)) (a : CtlAct) (s : State) : State :=
  let e := a.entry
  let c := actIndex e
  let b := a.data
  let n := fld 8 2 b
  ctlChecked a
    ([(isInstrument c s && stagingOk s && !channelBusy (channelOf c s), 21)] ++ plainFields e true (eLength e == 64) [] ++
      [(eOffset e == 0, 8), (decide (fld 0 1 b < 3), 64), (decide (fld 1 1 b < 2), 65), (decide (fld 2 1 b < 4), 66), (zeroAt 3 1 b, 67),
       (fld 4 4 b == 0 || decide (1024 ≤ fld 4 4 b ∧ fld 4 4 b ≤ 2 ^ 21), 68),
       (decide (n = 0 ∧ fld 0 1 b ≠ 1) || decide (64 ≤ n ∧ n ≤ 2048), 72), (zeroAt 10 6 b, 74), (n != 0 || fld 16 8 b == 0, 80),
       (zeroAt 24 40 b, 88), (decide (n = 0 ↔ eRegion e = 0), 4)])
    (fun s =>
      if n = 0 then takeChannel a c [] s
      else
        match actRead a (eRegion e) (fld 16 8 b) (n - 4) back s with
        | .fails st => ctlFail a.frm st 4 s
        | .later => actForward a (eRegion e) (fld 16 8 b) (n - 4) s
        | .data d bad =>
          if bad.isEmpty then takeChannel a c d s
          else ctlFail a.frm 0x0205 4 (poisonBites 8 (eRegion e) bad s)) s

/-- LOAD (R404, R414): the program is checked and copied. -/
def doLoad (back : Option (Nat × Bytes × List Nat)) (a : CtlAct) (s : State) : State :=
  let e := a.entry
  let c := actIndex e
  let n := eLength e
  ctlChecked a
    ([(isInstrument c s && (channelOf c s).state != 0 && !channelBusy (channelOf c s), 21)] ++
      plainFields e true (decide (n % 32 = 0 ∧ 32 ≤ n ∧ n ≤ 2097152)) [])
    (fun s =>
      match actRead a (eRegion e) (eOffset e) n back s with
      | .fails st => ctlFail a.frm st 4 s
      | .later => actForward a (eRegion e) (eOffset e) n s
      | .data d bad =>
        let steps := chunksOf 32 d
        if !bad.isEmpty then ctlFail a.frm 0x0205 4 (poisonBites 8 (eRegion e) bad s)
        else if (steps.zipIdx.all fun x => stepOk x.2 x.1) then
          ctlDone a.frm (le 4 steps.length) [] (enterChannel c 2 0 (modChan c (fun x => { x with program := steps }) s))
        else ctlFail a.frm 2 8 s) s

/-- Whether the domain may read every pattern region of a program (R414). -/
def programReadable (dom : Nat) (prog : List Bytes) (s : State) : Bool :=
  prog.all fun b => sKind b != 1 || match regionOf (sRegion b) s with
    | some d => mayRead dom d
    | none => false

/-- START of a channel (R414, R417): it is ARMED, and prefetch begins. -/
def doReplayStart (a : CtlAct) (s : State) : State :=
  let e := a.entry
  let c := actIndex e
  let x := channelOf c s
  ctlChecked a
    ([(isInstrument c s && (x.state == 2 || x.state == 6 || x.state == 7) && !x.program.isEmpty && programReadable a.dom x.program s, 21)] ++
      plainFields e false (eLength e == 0) [(32, 40)] ++ [(atBeatOk e s, 32)])
    (fun s =>
      let b := atBeat e s
      let s := modChan c (fun x => { x with
        domain := a.dom, startBeat := b, startAt := some ⟨b, a.frm⟩, fetch := restart {} b, items := [], due := [], curStep := 0
        shift := 0, episode := 0, slip := 0, underruns := 0, late := 0, sent := 0, poisoned := 0, windowDrops := 0, stopAfter := none
        cause := 0 }) s
      ctlWait a.frm (enterChannel c 3 0 s)) s

/-- STOP of a channel (R414). -/
def doReplayStop (a : CtlAct) (s : State) : State :=
  let e := a.entry
  let c := actIndex e
  ctlChecked a
    ([(isInstrument c s && (channelOf c s).state != 0, 21)] ++ plainFields e false (eLength e == 0) [(32, 40)] ++ [(atBeatOk e s, 32)])
    (fun s => ctlWait a.frm (modChan c (fun x => { x with stopAt := x.stopAt ++ [⟨atBeat e s, a.frm⟩] }) s)) s

/-- STATUS of a channel (R417): the sample of the last boundary. -/
def doReplayStatus (a : CtlAct) (s : State) : State :=
  let e := a.entry
  let c := actIndex e
  ctlChecked a ([(isInstrument c s, 21)] ++ plainFields e false (eLength e == 64) [])
    (fun s => ctlDone a.frm [] (padTo 64 (channelOf c s).sample) s) s

/-- REPLAY_CONFIGURE (R414, R416). -/
def execReplayConfigure (qid cid : Nat) (data : Bytes) (s : State) : Host.Outcome State Fault Refusal :=
  .next (runAct 0x11 1 qid cid data (doReplayConfigure none) s)

/-- LOAD (R404, R414): its LENGTH is that of the program in the region, no data moves from the host. -/
def execLoad (qid cid : Nat) (s : State) : Host.Outcome State Fault Refusal :=
  .next (withCmd qid cid (fun e => eOpcode e == 0x11 && actCode e == 2) (fun q c s =>
    if !headerOk q c || ePtrKind c.entry == 2 then refuseCmd qid cid 2 s
    else doLoad none ⟨.gqp qid cid, q.domain, c.entry, []⟩ s) s)

/-- REPLAY_START (R414). -/
def execReplayStart (qid cid : Nat) (s : State) : Host.Outcome State Fault Refusal := .next (runAct 0x11 3 qid cid [] doReplayStart s)

/-- REPLAY_STOP (R414). -/
def execReplayStop (qid cid : Nat) (s : State) : Host.Outcome State Fault Refusal := .next (runAct 0x11 4 qid cid [] doReplayStop s)

/-- REPLAY_STATUS (R417). -/
def execReplayStatus (qid cid : Nat) (s : State) : Host.Outcome State Fault Refusal := .next (runAct 0x11 5 qid cid [] doReplayStatus s)

/-- A replay action by its code (R414); other codes are Invalid Field. -/
def replayAct (back : Option (Nat × Bytes × List Nat)) (a : CtlAct) (s : State) : State :=
  match actCode a.entry with
  | 1 => doReplayConfigure back a s
  | 2 => doLoad back a s
  | 3 => doReplayStart a s
  | 4 => doReplayStop a s
  | 5 => doReplayStatus a s
  | _ => ctlFail a.frm 2 20 s

/-- REPLAY_CONTROL (C061h, R414): the embedded entry runs as from access domain 0. -/
def execReplayControl (path : BcsPath) (input : Bytes) (s : State) : Host.Outcome State Fault Refusal :=
  let e := input.take 64
  .next (bcs path 0xC061 input (decide (64 ≤ input.length) && input.length == 64 + actDataIn e) (fun s =>
    if eOpcode e ≠ 0x11 then invalid path 0xC061 0 s else replayAct none ⟨.bcs path 0xC061, 0, e, input.drop 64⟩ s) s)

/-- CHANNEL_START_BEAT (R414, R417): the channel runs from its start beat on, and its first frames are checked at once. -/
def execChannelStartBeat (channel : Nat) (s : State) : Host.Outcome State Fault Refusal :=
  let x := channelOf channel s
  match x.startAt with
  | none => .next s
  | some t =>
    if t.beat ≤ s.tb.beat ∧ x.state = 3 then
      let s := modChan channel (fun x => { x with startAt := none }) s
      .next (issueStep channel (ctlDone t.waiter (le 8 t.beat) [] (enterChannel channel 4 0 s)))
    else .next s

/-- CHANNEL_STOP_BEAT (R413, R414): a channel at work stops with cause 0; any other is unchanged. -/
def execChannelStopBeat (channel : Nat) (s : State) : Host.Outcome State Fault Refusal :=
  match (channelOf channel s).stopAt.find? fun t => decide (t.beat ≤ s.tb.beat) with
  | none => .next s
  | some t =>
    let s := modChan channel (fun x => { x with stopAt := x.stopAt.erase t }) s
    let s := if channelBusy (channelOf channel s) then stopChannel channel 0 s else s
    .next (ctlDone t.waiter (le 8 t.beat) [] s)

/-- REPLAY_PREFETCH (R409): the channel's next fetch, within LEAD beats and while its staging has room. -/
def execReplayPrefetch (channel : Nat) (s : State) : Host.Outcome State Fault Refusal :=
  if mayFetch (channelOf channel s) s then .next (fetchNext channel s) else .next s

/-- The first frame of a schedule that is not staged becomes staged once its check is done (R410). -/
def stageFirst : List ReplayItem → List ReplayItem
  | [] => []
  | i :: r => if i.kind = .frame ∧ !i.staged then (if i.checkLeft = 0 then { i with staged := true } else i) :: r else i :: stageFirst r

/-- RECORD_STAGED (R410). -/
def execRecordStaged (channel : Nat) (s : State) : Host.Outcome State Fault Refusal :=
  if mhas channel s.cap.channels then .next (modChan channel (fun x => { x with items := stageFirst x.items }) s) else .next s

/-- FRAME_LAUNCH (R405, R408, R412): the next frame of the beat enters the PCS at its scheduled cycle, or once the wire is free. -/
def execFrameLaunch (channel : Nat) (cycle : Nat) (s : State) : Host.Outcome State Fault Refusal :=
  let x := channelOf channel s
  match x.due with
  | [] => .next s
  | i :: rest =>
    let go := max i.cyc x.wireFree
    if s.tb.beat * 1024 + cycle ≠ go then .next s
    else
      let bad := i.poison || i.checkBad
      let s := emit (.launch channel channel i.frame bad cycle) s
      let s := modChan channel (fun x => { x with
        due := rest, wireFree := go + wireCycles channel (i.frame.length + 20) s, sent := x.sent + 1
        late := if i.cyc < go then x.late + 1 else x.late, poisoned := if bad then x.poisoned + 1 else x.poisoned }) s
      let s := if bad then
          raiseLimited 0x0907 channel .warning (fun n =>
            le 1 channel ++ le 1 (b2n (!i.poison)) ++ zeros 2 ++ le 2 i.region ++ zeros 2 ++ le 4 n ++ zeros 4 ++ le 8 i.off) s
        else s
      let s := if i.poison then poisonBites 7 i.region [i.off / 64] s else s
      .next (stopIfDone channel s)

end Sys2Proof.Machine
end

