-- ==== Sys2Proof/Machine/Acks.lean ====
section
/-! DEFINITION. Completion of META changes and of chest records, acknowledgement of write units, and the answers that the partner returns
(03_persistence R62 to R74, R83 to R85, 05_regions R169, 06_pair R210, R212, R214). -/

namespace Sys2Proof.Machine

/-- What a formation leaves behind on a survivor: extents on the replacement for each mirrored region, numbered from the first (R197). -/
def replacementAssigns (pos : Nat) : Nat → List (Nat × Region) → List MetaItem
  | _, [] => []
  | n, (r, d) :: rest => .extentAssign r pos 0 ((List.range d.size).map (· + n)) :: replacementAssigns pos (n + d.size) rest

/-- The items that the initiator or the survivor sends to the joining controller (06_pair R194, step 7, R197, 14_trust R528). -/
def tableItems (f : Formation) (gone : List Nat) (s : State) : List MetaItem :=
  let kept := s.reg.table.filter fun e => !gone.contains e.1
  let mirrored := if f.role = .survivor then mirroredRegions s else []
  rewrapItems 0 (fun r => !gone.contains r) s ++ [pairItem s.pair.record] ++ gone.map freeItem ++
    kept.map (fun e => descItem e.1 e.2) ++ replacementAssigns (otherPosition s) 0 mirrored ++
    mirrored.map fun e => .mirrorState e.1 (otherPosition s) MirrorSt.stale.code 0 0

/-- The pair record is journaled on this side (06_pair R194, steps 6 to 8): the pair exists, event 0x0501 is recorded, the link opens a
session, and the initiator or the survivor copies its region table. -/
def formed (s : State) : State :=
  match s.pair.formation with
  | none => s
  | some f =>
    let gone := if f.role = .survivor then (s.reg.table.filter fun e => !e.2.mirrored && s.pair.record.retired.contains e.2.seat).map (·.1)
      else []
    let mine := identityHash
    let s := modPair (fun p => { p with
      formation := none, hEcho := some s.tb.beat, heard := some s.tb.beat, stopped := false, takeover := false, takeoverDone := false
      partnerLost := false
      record := { p.record with hash0 := if f.position = 0 then mine else f.hash, hash1 := if f.position = 0 then f.hash else mine } }) s
    let s := modLink (fun l => { l with state := .init, queue := [] }) s
    let s := raise 0x0501 .info (le 8 s.pair.record.pairId ++ le 2 f.partnerId ++ le 1 s.pair.record.mode ++ le 1 f.position) s
    if f.role = .joiner then s
    else
      let items := tableItems f gone s
      let reply := match f.path with
        | none => []
        | some p =>
          if f.role = .survivor then [MetaAct.answer p 0xC006 0 []]
          else [MetaAct.answer p 0xC000 0 (le 8 s.pair.record.pairId ++ le 1 f.position)]
      journalMeta items (items.map MetaAct.item ++ gone.map MetaAct.removeRegion ++ reply) true s

/-- The pair is dissolved (06_pair R196, R198): this controller is alone, holds the chair, and keeps the retired-ID map. -/
def unpair (s : State) : State :=
  modPair (fun p =>
    { arming := p.arming, chairEpoch := p.chairEpoch, lastSwap := p.lastSwap, checks := p.checks
      record := { p.record with pairId := 0, hash0 := [], hash1 := [] }
      link := { p.link with queue := [], key0 := [], key1 := [] } }) s

/-- One consequence of a complete META change. `seq` is the SEQ of its record. -/
def metaAct (seq : Nat) (a : MetaAct) (s : State) : State :=
  match a with
  | .answer p op rc out => finishBg p op rc 0xFFFF out s
  | .answerSeq p op => finishBg p op 0 0xFFFF (le 8 seq) s
  | .attrs r shed label command masks =>
    let s := modRegion r (fun d => { d with shed := shed.getD d.shed, label := label.getD d.label }) s
    let s := match command with
      | some v => setReason r 0 v s
      | none => s
    match masks with
    | some m => modReg (fun g => { g with pendingMasks := g.pendingMasks ++ [⟨r, m.1, m.2, s.tb.beat + 1⟩] }) s
    | none => s
  | .item i => applyItem seq i s
  | .event code sev data => raise code sev data s
  | .checkpoint => startCkpt s
  | .releaseExtents r first => releaseFrom r first s
  | .destroyKey slot =>
    modTrust (fun t => { t with keys := mdel slot t.keys })
      { s with te := { s.te with keyChanges := s.te.keyChanges ++ [⟨slot, s.tb.beat + 1⟩] } }
  | .removeRegion r => dropRegion r s
  | .moveDone r => modPair (fun p => { p with move := p.move.map fun m => if m.region = r then { m with phase := 2 } else m }) s
  | .metaDone q => sendMsg (msgMetaDone q) s
  | .takeover => modPair (fun p => { p with takeoverDone := true }) s
  | .dissolved => unpair s
  | .formed => formed s

/-- Run what META changes have left once they are complete in every chest that must hold them (05_regions R169). -/
def settleMeta (id : Nat) (s : State) : State :=
  match s.pu.metaWaits.find? fun w => w.id == id with
  | none => s
  | some w =>
    if w.localDone && w.partnerDone then
      w.acts.foldl (fun s a => metaAct w.seq a s) (modPu (fun p => { p with metaWaits := p.metaWaits.filter fun x => x.id != id }) s)
    else s

/-- JOURNAL_RECORD_COMPLETE (R80, R83, R85): the record at the head of the queue is in the chest with its valid mark. During the chest's
warm-up nothing is written there (17_startup_service_life R606). -/
def execJournalRecordComplete (seq : Nat) (s : State) : Host.Outcome State Fault Refusal :=
  match s.pu.queue with
  | [] => .next s
  | r :: _ =>
    if s.start.warm || !writerReady seq s.pu then .next s
    else
      let n := writerCost s.pu r
      let s := modPu (fun p => { writeRec p with drain := p.drain.map fun d => { d with lines := d.lines + n } }) s
      match r.metaId with
      | none => .next s
      | some id =>
        .next (settleMeta id (modPu (fun p => { p with metaWaits := p.metaWaits.map fun w =>
          if w.id = id then { w with localDone := true, seq := r.seq } else w }) s))

/-- META_DONE (06_pair R214): the copied record is complete in the partner's chest. -/
def execMetaDone (seq : Nat) (s : State) : Host.Outcome State Fault Refusal :=
  match s.pu.metaWaits.find? fun w => w.seq == seq && !w.partnerDone with
  | none => .next s
  | some w =>
    .next (settleMeta w.id (modPu (fun p => { p with metaWaits := p.metaWaits.map fun x =>
      if x.id = w.id then { x with partnerDone := true } else x }) s))

/-! ### Acknowledgement -/

/-- The stream in which writes are acknowledged in order (R73, 07_cxl_ports R267): the pieces of one message or command, and the writes of one
head to one line. -/
def ackStream (u : WUnit) : Option (Nat × Nat × Nat) :=
  match u.src with
  | .rdma q p _ => some (0, q, p)
  | .gqp q c _ => some (1, q, c)
  | .multipath q m _ => some (2, q, m)
  | .capture p _ _ => some (3, p, 0)
  | .cxl h _ _ => some (4, h, u.region * 2 ^ 48 + (u.lines.headD ⟨0, 0, 0, false⟩).line)
  | _ => none

/-- Whether an earlier unit of the same stream is still to be acknowledged. -/
def behindStream (u : WUnit) (s : State) : Bool :=
  match ackStream u with
  | none => false
  | some k => s.pu.units.any fun v => decide (v.id < u.id) && ackStream v == some k

/-- Whether a mirrored unit's turn has come (06_pair R212): accepted, and no accepted unit waits from before. -/
def acceptTurn (u : WUnit) (s : State) : Bool :=
  u.accepted && !(s.pu.units.any fun v => v.mirrored && v.accepted && v.phase == .staged && v.cls == .general && decide (v.acceptNo < u.acceptNo))

/-- Whether a unit's region is one whose writes this controller may acknowledge now (06_pair R217, R221): a mirrored region only while the
lease acts. -/
def leaseActs (u : WUnit) (s : State) : Bool :=
  match regionOf u.region s with
  | some d => !d.mirrored || !(s.pair.stopped || s.pair.takeover)
  | none => true

/-- Whether a unit is due for its acknowledgement (R68, R69, R95). -/
def ackDue (u : WUnit) (s : State) : Bool :=
  u.phase == .staged && u.cls != .mirrorCopy && s.pu.drain.isNone && leaseActs u s && !behindStream u s &&
    (!u.mirrored || (ownCopy u.region s).state != .current || acceptTurn u s)

/-- While a copy is SOLE, the segments that are written are marked for the resync (06_pair R235). -/
def markSegments (u : WUnit) (s : State) : State :=
  if (ownCopy u.region s).state = .sole then
    modPair (fun p => { p with mirror := mmod u.region (fun c =>
      { c with segments := u.lines.foldl (fun l w => setInsert (w.line / 2 ^ 15) l) c.segments }) p.mirror }) s
  else s

/-- The front caches follow an acknowledged volatile write (07_cxl_ports R273). -/
def patchHeads (r : Nat) (l : List LineWrite) (s : State) : State :=
  modCxl (fun c => { c with heads := c.heads.map fun e => (e.1, { e.2 with
    granules := e.2.granules.map fun g => l.foldl (fun g w => patchGranule r w g) g
    victims := e.2.victims.map fun v => (v.1, { v.2 with granule := l.foldl (fun g w => patchGranule r w g) v.2.granule }) }) }) s

/-- Who is told of an acknowledgement. -/
def ackReaction (u : WUnit) (s : State) : State :=
  match u.src with
  | .cxl h _ tag => releaseReads h (sendCmp h tag s)
  | .rdma q psn _ => rxPieceDone q psn s
  | .gqp q c i => gqpPieceDone q c i 0 s
  | .multipath q m i => modCtx q m (fun c => { c with ackedPieces := setInsert i c.ackedPieces }) s
  | .workRequest q psn => finishWr q psn s
  | .forwarded t => fwdAnswer t 0 0 u.reply [] s
  | .capture p k n => captureAcked p k n s
  | .bureau j => bureauAcked j s
  | _ => s

/-- A volatile write reaches the shelf (01_architecture R13); none while a segment has no slot. -/
def ackVolatile (u : WUnit) (s : State) : Option State :=
  let s := u.zeroChunks.foldl (fun s c => zeroChunk c s) s
  (placeLines 0 (keyedLines u s) s).map fun s =>
    patchHeads u.region u.lines (modPu (fun p => { p with units := p.units.filter fun v => v.id != u.id }) s)

/-- A persistent write becomes durable and visible (R66, R68, R70, R72, 12_integrity R457, 07_cxl_ports R272, R277). -/
def ackPersistent (u : WUnit) (s : State) : State :=
  let head := match u.src with
    | .cxl h _ _ => some h
    | _ => none
  let s := holdUnit u (markSegments u s)
  u.lines.foldl (fun s w => cacheAck head u.region w (ledgerWrite u.region w s)) s

/-- WRITE_ACKNOWLEDGE (R62, R66, R68 to R73). -/
def execWriteAcknowledge (unit : Nat) (s : State) : Host.Outcome State Fault Refusal :=
  match unitOf unit s with
  | none => .next s
  | some u =>
    if u.src = .resync then
      match placeResync u s with
      | some s => .next (modPu (fun p => { p with units := p.units.filter fun v => v.id != u.id }) s)
      | none => .next s
    else if !ackDue u s then .next s
    else if volatileUnit u s then
      match ackVolatile u s with
      | some s => .next (ackReaction u s)
      | none => .next ((keyedLines u s).foldl (fun s w => if mhas (w.1 / 32768) s.ti.segs then s else waitSlot (w.1 / 1024) s) s)
    else .next (ackReaction u (ackPersistent u s))

/-! ### The partner's answers -/

/-- What a status of a forwarded RDMA write answers its requester. -/
def nakOf (status : Nat) : Nat := if status = 0x0101 ∨ status = 0x0002 then 0x62 else 0x63

/-- A forwarded CXL read returns (01_architecture R25). -/
def cxlReadBack (head tag region line status : Nat) (data : Bytes) (bad : List Nat) (s : State) : State :=
  if !servesMem head s then s
  else if status ≠ 0 then advance (sendData head tag (drawn s) true s)
  else sendData head tag (lineOf data) (!bad.isEmpty) (poisonBites 0 region (if bad.isEmpty then [] else [line]) s)

/-- A forwarded READ or atomic operation of a QP returns. -/
def rdmaReadBack (qp psn piece status : Nat) (data : Bytes) (bad : List Nat) (s : State) : State :=
  if status ≠ 0 then nakFail qp psn 0x63 s
  else
    rxPieceDone qp psn (modQp qp (fun q => { q with rx := q.rx.map fun m =>
      if m.psn = psn then { m with data := mput piece data m.data, bad := m.bad ++ bad } else m }) s)

/-- The local data of a work request returns from the partner (08_remote_access R323). -/
def wrReadBack (qp psn status : Nat) (data : Bytes) (bad : List Nat) (s : State) : State :=
  match takeWr qp psn s with
  | none => s
  | some w =>
    if status ≠ 0 then localError qp 0x80 w s
    else if bad.isEmpty then
      countQp qp 1 w.packets (emit (.rdmaRequest qp psn (wrOp w.bytes) (w.bytes ++ data)) s)
    else localError qp 0x82 w (poisonBites 6 (fld 2 2 w.bytes) bad s)

/-- A part of a multipath read returns. -/
def mpReadBack (qp msn first status : Nat) (data : Bytes) (bad : List Nat) (s : State) : State :=
  match qpAt qp s with
  | none => s
  | some q =>
    match q.mp.find? fun c => c.msn == msn with
    | none => s
    | some c =>
      if status ≠ 0 then mpNak qp msn 0x03 3 s
      else
        let rel := bad.map fun l => l - c.off / 64
        let s := mpRespond qp q msn c.msgLen c.va c.rkey first data rel s
        mpReadDone qp msn (mpPoisonSent qp c.region c.off rel s)

/-- An answer, or a failure, reaches whoever waits for a forwarded request. -/
def fwdBack (o : FwdOrigin) (status : Nat) (poison : List Nat) (data : Bytes) (s : State) : State :=
  match o with
  | .cxlRead h t r l => (cxlReadBack h t r l status data poison s)
  | .cxlWrite h t _ _ =>
    if servesMem h s then
      let s := if status = 0 then s else modHead h (fun x => { x with refused := x.refused + 1 }) s
      (releaseReads h (sendCmp h t s))
    else s
  | .gqpRead q c i => (gqpReadBack q c i status data poison s)
  | .gqpWrite q c i => (gqpPieceDone q c i status s)
  | .rdmaRead q p i => (rdmaReadBack q p i status data poison s)
  | .rdmaWrite q p _ => (if status = 0 then rxPieceDone q p s else nakFail q p (nakOf status) s)
  | .rdmaAtomic q p =>
    if status ≠ 0 then (nakFail q p (nakOf status) s)
    else
      (rxPieceDone q p (modQp q (fun x => { x with rx := x.rx.map fun m =>
        if m.psn = p then { m with original := some (BitVec.ofNat 64 (leVal (data.take 8))) } else m }) s))
  | .wrRead q p => (wrReadBack q p status data poison s)
  | .wrWrite q p =>
    match takeWr q p s with
    | none => s
    | some w => (if status = 0 then finishWr q p s else localError q 0x80 w s)
  | .mpWrite q m i =>
    (if status = 0 then modCtx q m (fun c => { c with ackedPieces := setInsert i c.ackedPieces }) s else mpNak q m 0x03 3 s)
  | .mpRead q m f => (mpReadBack q m f status data poison s)
  | .bcs p op => (finishBg p op 0x0004 0xFFFF [] s)
  | .detach p _ => (finishBg p 0xC017 0x0004 0xFFFF [] s)
  | .drain q c => (drainBack q c status data s)
  | .replay c g => (fetchBack c g status data poison s)
  | .bureau j =>
    if status = 0 then (bureauAcked j s)
    else
      let job := mget j s.cxl.jobs
      let s := modCxl (fun c => { c with jobs := mdel j c.jobs }) s
      match job with
      | some (.attach _ _ p) => (answerO p 0xC016 0x0004 [] s)
      | some (.label p) => (answerO p 0x4103 0x0004 [] s)
      | some (.format _ _ p) => (answerO p 0xC023 0x0004 [] s)
      | some (.poison _ _ i p) => (answerO p (if i then 0x4301 else 0x4302) 0x0004 [] s)
      | _ => s
  | .repair drawer a i => (repairBack drawer a i status data (!poison.isEmpty) s)
  | .relay t f => (fwdAnswer t status f data poison s)
  | .control w dom e d => (replayAct (some (status, data, poison)) ⟨w, dom, e, d⟩ s)

/-- FWD_RESPONSE (01_architecture R25, 06_pair R210): the answer reaches whoever waits for it. `poison` lists the poisoned region lines. -/
def execFwdResponse (mtag status : Nat) (poison : List Nat) (data : Bytes) (s : State) : Host.Outcome State Fault Refusal :=
  match mget mtag s.pair.fwd with
  | none => .next s
  | some o => .next (fwdBack o status poison data (modPair (fun p => { p with fwd := mdel mtag p.fwd }) s))

/-- FWD_REQUEST (01_architecture R25): the partner asks for an access that this controller serves. -/
def execFwdRequest (mtag region offset : Nat) (op : FwdOp) (s : State) : Host.Outcome State Fault Refusal :=
  .next (if isPaired s then serveFwd mtag region offset op s else s)

/-- BCS_RESPONSE (13_management R484): the partner's executor has answered. -/
def execBcsResponse (mtag rc : Nat) (output : Bytes) (s : State) : Host.Outcome State Fault Refusal :=
  match mget mtag s.pair.fwd with
  | some (.bcs p op) => .next (finishBg p op rc 0xFFFF output (modPair (fun q => { q with fwd := mdel mtag q.fwd }) s))
  | some (.detach p input) =>
    let s := modPair (fun q => { q with fwd := mdel mtag q.fwd }) s
    .next (if rc = 0 then detachHere p input s else finishBg p 0xC017 rc 0xFFFF output s)
  | _ => .next s

end Sys2Proof.Machine
end

