-- ==== Sys2Proof/Machine/RegionCmds.lean ====
section
/-! DEFINITION. Meanings of the region commands and of the boundary effects on regions (05_regions, 13_management R496). -/

namespace Sys2Proof.Machine

/-- Whether ATTR is a combination that R158 allows. -/
def attrOk (a : Nat) (s : State) : Bool :=
  let prot := a % 4
  let vol := bitOf 2 a
  let mir := bitOf 3 a
  let set := bitOf 4 a
  decide (prot < 3) && (!mir || (!vol && isPaired s && !isSettee s)) && (!(prot == 2) || !vol) && (set == isSettee s)

/-- Extents that regions take on the partner, by the region table. -/
def partnerHeld (s : State) : Nat :=
  (s.reg.table.map fun e =>
    if e.2.settee then e.2.size / 2 else if e.2.mirrored then e.2.size
    else if e.2.seat = s.ident.controllerId then 0 else e.2.size).sum

/-- The partner's free extents, as far as the region table tells them. -/
def partnerFree (s : State) : Nat := s.pair.partnerCap - partnerHeld s

/-- The seat of a new region (R170): 0 the chair's choice, which is the controller with more free extents and the chair when equal. -/
def newSeat (pref : Nat) (s : State) : Nat :=
  if pref = 1 ∨ !isPaired s then s.ident.controllerId
  else if pref = 2 then partnerId s
  else if freeExtents s < partnerFree s then partnerId s else s.ident.controllerId

/-- Extents that a region of `n` extents needs on this controller and on the partner. -/
def needs (d : Region) (n : Nat) (s : State) : Nat × Nat :=
  let d := { d with size := n }
  if d.settee then (n / 2, n / 2) else if d.mirrored then (n, n)
  else if d.seat = s.ident.controllerId then (n, 0) else (0, n)

/-- Whether `n` extents more of a region are refused for capacity (R170, R185, 04_tiers R153). -/
def noCapacity (d : Region) (n : Nat) (s : State) : Bool :=
  let k := needs d n s
  (d.settee && n % 2 == 1) || decide (freeExtents s < k.1) || decide (0 < k.2 ∧ partnerFree s < k.2) ||
    (decide (0 < k.1) && (opBelow 4 0 s || opBelow 4 (k.1 * 2 ^ 28) s || anyShed s))

/-- Whether a NAND channel group or an HBM stack is commanded off: then nothing takes extents here (16_power R587). -/
def commandedOff (s : State) : Bool :=
  s.pwr.units.any fun u => (decide (0x200 ≤ u.1 ∧ u.1 < 0x208) || u.1 == 0x400 || u.1 == 0x401) && u.2.commanded == some 1

/-- Refuse for capacity (R170), with event 0x0408. -/
def refuseCapacity (path : BcsPath) (opcode id n : Nat) (s : State) : State :=
  answer path opcode 0x8001 []
    (raise 0x0408 .warning (le 2 id ++ le 1 (opcode % 256) ++ zeros 1 ++ le 4 n ++ le 4 (opMilli s)) s)

/-- The wrapped data key of a new region (14_trust R525 to R527): its item, from a free random value. -/
def newKeyItems (id : Nat) (d : Region) (s : State) : List MetaItem :=
  let scope := if isPaired s then 0 else 1
  match d.protect with
  | .none => []
  | .encrypted => [.keySlot id scope 1 id (keyWrap (wrapKeyOf scope s) (freeBytes 64 s))]
  | .sealed => [.keySlot id scope 2 id (keyWrap (wrapKeyOf scope s) (freeBytes 32 s))]

/-- The descriptor of a new region (R171). -/
def newRegion (a size seat id : Nat) (label : Bytes) : Region :=
  { protect := protectOf (a % 4), isVolatile := bitOf 2 a, mirrored := bitOf 3 a, settee := bitOf 4 a, shed := a / 32
    seat := seat, size := size, mirrorGen := if bitOf 3 a then 1 else 0, keySlot := if a % 4 = 0 then 0 else id, label := label }

/-- The effect of Create Region once it is accepted: its META record, then ONLINE with every chunk ZERO (R171). -/
def createEffect (path : BcsPath) (id : Nat) (d : Region) (s : State) : State :=
  let l := chooseExtents (extentsHere d s) s
  let both := d.mirrored || d.settee || d.seat != s.ident.controllerId
  let items := [descItem id d] ++ (if l.isEmpty then [] else [.extentAssign id (myPosition s) 0 l]) ++ newKeyItems id d s ++
    (if d.mirrored then [.mirrorState id 0 0 1 0, .mirrorState id 1 0 1 0] else [])
  let acts := items.map MetaAct.item ++
    [.event 0x0401 .info (createdData id d), .checkpoint, .answerSeq path 0xC010]
  journalMeta items acts (both || isPaired s) (advance s)

/-- CREATE_REGION (C010h, R170, R171). -/
def execCreateRegion (path : BcsPath) (input : Bytes) (s : State) : Host.Outcome State Fault Refusal :=
  .next (bcs path 0xC010 input (input.length == 24) (fun s =>
    onChair path 0xC010 input (fun s =>
      let id := fld 0 2 input
      let a := fld 2 1 input
      let pref := fld 3 1 input
      let size := fld 4 4 input
      checked path 0xC010
        [(decide (1 ≤ id ∧ id ≤ 4095), 0), (attrOk a s, 2), (decide (pref ≤ 2 ∧ (pref = 2 → isPaired s)), 3), (size != 0, 4),
         ((regionOf id s).isNone, 0)]
        (fun s =>
          let seat := if isSettee s then 0xFFF else newSeat pref s
          let d := newRegion a size seat id (slice 8 16 input)
          if commandedOff s && decide (0 < (needs d size s).1) then answer path 0xC010 0x0006 [] s
          else if noCapacity d size s then refuseCapacity path 0xC010 id size s else createEffect path id d s) s) s) s)

/-- Whether an extent of a region from `first` on is attached, on this controller or, as the bureau says, on the partner. -/
def attachedFrom (r first : Nat) (s : State) : Bool :=
  let named (a : Attachment) : Bool := a.region == r && decide (first ≤ a.rext)
  (s.cxl.att.any fun e => named e.2) ||
    (isPaired s && inBureau s && (tableAt (1 - myPosition s) s).any fun e => named e.2)

/-- Memory keys that lie over a region's bytes from `lo` on. -/
def keysOver (r lo : Nat) (s : State) : List Nat :=
  (s.trust.memKeys.filter fun e => e.2.region == r && decide (lo < (e.2.basePage + e.2.lenPages) * 4096)).map (·.1)

/-- Whether a region's seat is out of the chair's reach (R640). -/
def outOfReach (d : Region) (s : State) : Bool :=
  isPaired s && !linkUp s && !d.mirrored && !d.settee && d.seat != s.ident.controllerId

/-- Start a shrink or a deletion (R173, step 1): CHANGING, with boundary D the next one. -/
def startChange (path : BcsPath) (opcode r : Nat) (d : Region) (k : ChangeKind) (s : State) : State :=
  let d' := { d with state := .changing }
  let s := modReg (fun g => { g with
    table := mput r d' g.table
    changes := mput r { kind := k, path := some path, opcode := opcode, boundary := s.tb.beat + 1, phase := .waitBoundary } g.changes }) s
  journalMeta [descItem r d'] [] true s

/-- DELETE_REGION (C011h, R173). -/
def execDeleteRegion (path : BcsPath) (input : Bytes) (s : State) : Host.Outcome State Fault Refusal :=
  .next (bcs path 0xC011 input (input.length == 2) (fun s =>
    onChair path 0xC011 input (fun s =>
      let id := fld 0 2 input
      match regionOf id s with
      | none => invalid path 0xC011 0 s
      | some d =>
        if attachedFrom id 0 s || s.cxl.bureau == id || outOfReach d s || mhas id s.reg.changes then answer path 0xC011 0x0006 [] s
        else inBackground path 0xC011 (startChange path 0xC011 id d .delete) s) s) s)

/-- Growth (R172): the extents are appended, and the command completes with its META record. -/
def growEffect (path : BcsPath) (id n : Nat) (d : Region) (s : State) : State :=
  let d' := { d with size := n }
  let have' := (mgetD [] id s.reg.extentMap).length
  let held := heldExtents s
  let l := pickExtents s.reg.capExtents (extentsHere d' s - have') held
  let items := [descItem id d'] ++ if l.isEmpty then [] else [MetaItem.extentAssign id (myPosition s) have' l]
  journalMeta items
    (items.map MetaAct.item ++
      [.event 0x0403 .info (le 2 id ++ zeros 2 ++ le 4 d.size ++ le 4 n), .checkpoint, .answer path 0xC012 0 []]) true s

/-- RESIZE_REGION (C012h, R172, R173). -/
def execResizeRegion (path : BcsPath) (input : Bytes) (s : State) : Host.Outcome State Fault Refusal :=
  .next (bcs path 0xC012 input (input.length == 8) (fun s =>
    onChair path 0xC012 input (fun s =>
      let id := fld 0 2 input
      let n := fld 4 4 input
      match regionOf id s with
      | none => invalid path 0xC012 0 s
      | some d =>
        checked path 0xC012 [(d.state != .offline, 0), (zeroAt 2 2 input, 2), (n != 0, 4)] (fun s =>
          if mhas id s.reg.changes then answer path 0xC012 0x0006 [] s
          else if n = d.size then inBackground path 0xC012 (finishBg path 0xC012 0 0xFFFF []) s
          else if d.size < n then
            if commandedOff s && decide (0 < (needs d (n - d.size) s).1) then answer path 0xC012 0x0006 [] s
            else if noCapacity d (n - d.size) s then refuseCapacity path 0xC012 id (n - d.size) s
            else inBackground path 0xC012 (growEffect path id n d) s
          else if attachedFrom id n s || !(keysOver id (n * 2 ^ 28) s).isEmpty || outOfReach d s || (s.cxl.bureau == id && n == 0)
            then answer path 0xC012 0x0006 [] s
          else if d.settee && n % 2 == 1 then refuseCapacity path 0xC012 id n s
          else inBackground path 0xC012 (startChange path 0xC012 id d (.shrink n)) s) s) s) s)

/-- The extent map entries of a region, as C013h returns them (R161, 13_management R496). -/
def mapBytes (id first : Nat) (s : State) : Bytes :=
  (((mgetD [] id s.reg.extentMap).drop first).take 16352).flatMap fun n => le 4 (0x80000000 + n)

/-- GET_REGION (C013h, R156, 13_management R496). -/
def execGetRegion (path : BcsPath) (input : Bytes) (s : State) : Host.Outcome State Fault Refusal :=
  .next (bcs path 0xC013 input (input.length == 8) (fun s =>
    let id := fld 0 2 input
    checked path 0xC013
      [(decide (1 ≤ id ∧ id ≤ 4095), 0), (decide (fld 2 1 input ≤ 1), 2), (zeroAt 3 1 input, 3)]
      (fun s =>
        match regionOf id s with
        | none => success path 0xC013 (freeDesc id) s
        | some d => success path 0xC013 (descBytes id d ++ if fld 2 1 input = 1 then mapBytes id (fld 4 4 input) s else []) s) s) s)

/-- LIST_REGIONS (C014h, 13_management R496). -/
def execListRegions (path : BcsPath) (input : Bytes) (s : State) : Host.Outcome State Fault Refusal :=
  .next (bcs path 0xC014 input (input.length == 2) (fun s =>
    let l := s.reg.table.filter fun e => decide (fld 0 2 input ≤ e.1)
    success path 0xC014
      (le 2 l.length ++ le 2 0 ++
        l.flatMap fun e => le 2 e.1 ++ le 1 (regionStateCode e.2.state) ++ le 1 (attrByte e.2) ++ le 4 e.2.size) s) s)

/-- SET_REGION_ATTRIBUTES (C015h, R159, R178, R181). -/
def execSetRegionAttributes (path : BcsPath) (input : Bytes) (s : State) : Host.Outcome State Fault Refusal :=
  .next (bcs path 0xC015 input (input.length == 88) (fun s =>
    onChair path 0xC015 input (fun s =>
      let id := fld 0 2 input
      let v := fld 2 1 input
      match regionOf id s with
      | none => invalid path 0xC015 0 s
      | some d =>
        checked path 0xC015
          [(decide (v < 16), 2), (decide (fld 3 1 input < 8 ∧ (bitOf 0 v ∨ fld 3 1 input = 0)), 3),
           (decide (fld 4 1 input < 2 ∧ (bitOf 2 v ∨ fld 4 1 input = 0)), 4), (zeroAt 5 3 input, 5),
           (bitOf 1 v || zeroAt 8 16 input, 8), (bitOf 3 v || zeroAt 24 64 input, 24)]
          (fun s =>
            let d' := { d with
              shed := if bitOf 0 v then fld 3 1 input else d.shed
              label := if bitOf 1 v then slice 8 16 input else d.label
              roReasons := if bitOf 2 v then reasonBit 0 (fld 4 1 input == 1) d.roReasons else d.roReasons
              readDomains := if bitOf 3 v then BitVec.ofNat 256 (fld 24 32 input) else d.readDomains
              writeDomains := if bitOf 3 v then BitVec.ofNat 256 (fld 56 32 input) else d.writeDomains }
            journalMeta [descItem id d']
              [.attrs id (if bitOf 0 v then some d'.shed else none) (if bitOf 1 v then some d'.label else none)
                (if bitOf 2 v then some (fld 4 1 input == 1) else none)
                (if bitOf 3 v then some (d'.readDomains, d'.writeDomains) else none), .answer path 0xC015 0 []] true s) s) s) s)

/-- The data allowance (04_tiers R143). -/
def dataAllowance (s : State) : Nat :=
  if 32 ≤ s.ident.lunsPerChannel then 115000000000
  else min 115000000000 (Config.programRate s.ident.lunsPerChannel * 3 / 4)

/-- This controller's entry of Get Capacity (R187, 13_management R496). -/
def capacityEntry (s : State) : Bytes :=
  let weighs := s.reg.table.filter fun e => decide (0 < weight e.1 s)
  le 4 s.reg.capExtents ++ le 4 (freeExtents s) ++ le 2 weighs.length ++
    le 2 (weighs.filter fun e => e.2.roReasons.getLsbD 1).length ++ le 4 s.ti.opValue ++ le 8 s.ti.opN ++ le 8 s.ti.opG ++
    le 8 s.ti.opD ++ le 8 (dataAllowance s) ++ le 1 (myPosition s) ++ le 1 1 ++ zeros 14

/-- The entry of Get Capacity for the other position (R187): what the controller has of its partner's quantities, and whether that is
current, is free; an unpaired controller has no current data. -/
def otherCapacityEntry (p : Nat) (s : State) : Bytes :=
  freeBytes 48 s ++ le 1 p ++ le 1 (if isPaired s then (drawn s).toNat / 2 ^ 384 % 2 else 0) ++ zeros 14

/-- GET_CAPACITY (C01Ah, R187): the entry of this controller is valid; the partner's is a free value. -/
def execGetCapacity (path : BcsPath) (input : Bytes) (s : State) : Host.Outcome State Fault Refusal :=
  .next (bcs path 0xC01A input (input.length == 0) (fun s =>
    success path 0xC01A
      (if myPosition s = 0 then capacityEntry s ++ otherCapacityEntry 1 s else otherCapacityEntry 0 s ++ capacityEntry s) (advance s)) s)

/-- The first byte that a change removes. -/
def changeFrom (k : ChangeKind) : Nat :=
  match k with
  | .shrink n => n * 2 ^ 28
  | _ => 0

/-- REGION_CHANGE_BOUNDARY (R173, step 2): from D the extents take no new access, and the keys over them are revoked. -/
def execRegionChangeBoundary (region : Nat) (s : State) : Host.Outcome State Fault Refusal :=
  match mget region s.reg.changes with
  | none => .next s
  | some c =>
    if c.phase = .waitBoundary ∧ c.boundary ≤ s.tb.beat then
      let ks := keysOver region (changeFrom c.kind) s
      let s := modTrust (fun t => { t with
        memKeys := t.memKeys.map fun e => if ks.contains e.1 then (e.1, { e.2 with revoking := true }) else e
        revocations := t.revocations ++ (ks.filter fun k => !(t.revocations.any fun r => r.index == k)).map
          fun k => { index := k, boundary := s.tb.beat, path := none } }) s
      .next (modReg (fun g => { g with changes := mput region { c with phase := .draining } g.changes }) s)
    else .next s

/-- Whether an access that touches a region's bytes from `lo` on is in flight. -/
def accessInFlight (r lo : Nat) (s : State) : Bool :=
  s.pu.units.any fun u => u.region == r && u.lines.any fun l => decide (lo < l.line * 64 + 64)

/-- REGION_CHANGE_DRAINED (R173, steps 3 to 6): no access to the extents is in flight; they are released, and the change is
journaled. -/
def execRegionChangeDrained (region : Nat) (s : State) : Host.Outcome State Fault Refusal :=
  match mget region s.reg.changes, regionOf region s with
  | some c, some d =>
    if c.phase = .draining ∧ !accessInFlight region (changeFrom c.kind) s then
      let s := modReg (fun g => { g with changes := mput region { c with phase := .journaling } g.changes }) s
      match c.kind with
      | .delete =>
        let l := mgetD [] region s.reg.extentMap
        let items := [MetaItem.extentRelease region (myPosition s) 0 l] ++
          (if d.keySlot = 0 then [] else [.keySlot region (if isPaired s then 0 else 1) 0 region []]) ++ [freeItem region]
        .next (journalMeta items
          ([.releaseExtents region 0, .destroyKey d.keySlot, .removeRegion region,
           .event 0x0402 .info (le 2 region ++ zeros 2 ++ le 4 l.length), .checkpoint] ++ (c.path.toList.map fun p => .answer p c.opcode 0 [])) true s)
      | .shrink n =>
        let keep := extentsHere { d with size := n } s
        let l := (mgetD [] region s.reg.extentMap).drop keep
        let d' := { d with size := n, state := .online }
        .next (journalMeta [.extentRelease region (myPosition s) keep l, descItem region d']
          ([.releaseExtents region keep, .item (descItem region d'),
           .event 0x0403 .info (le 2 region ++ zeros 2 ++ le 4 d.size ++ le 4 n), .checkpoint] ++ (c.path.toList.map fun p => .answer p c.opcode 0 [])) true s)
      | .grow _ => .next s
    else .next s
  | _, _ => .next s

/-- READ_ONLY_TAKES_EFFECT (R180): the reason bits that are due change; a region that turns read-only or writable is reported. -/
def execReadOnlyTakesEffect (region : Nat) (s : State) : Host.Outcome State Fault Refusal :=
  let due := s.reg.pendingRo.filter fun c => c.region == region && decide (c.beat ≤ s.tb.beat)
  match regionOf region s with
  | none => .next s
  | some d =>
    if due.isEmpty then .next s
    else
      let new := due.foldl (fun b c => reasonBit c.bit c.value b) d.roReasons
      let s := modReg (fun g => { g with
        pendingRo := g.pendingRo.filter fun c => !(c.region == region && decide (c.beat ≤ s.tb.beat))
        table := mput region { d with roReasons := new } g.table }) s
      let s := if new = d.roReasons then s else
        journalMeta [descItem region { d with roReasons := new }] [] true
          (notice 0x0001 region (le 2 new.toNat ++ le 1 (regionStateCode d.state)) s)
      if d.roReasons = 0 ∧ new ≠ 0 then
        .next (raise 0x0404 .warning (le 2 region ++ le 2 new.toNat ++ le 4 (opMilli s)) s)
      else if d.roReasons ≠ 0 ∧ new = 0 then .next (raise 0x0405 .info (le 2 region ++ zeros 2 ++ le 4 (opMilli s)) s)
      else .next s

/-- DOMAIN_MASK_TAKES_EFFECT (R178): the newest domain masks that are due take effect. -/
def execDomainMaskTakesEffect (region : Nat) (s : State) : Host.Outcome State Fault Refusal :=
  match ((s.reg.pendingMasks.filter fun c => c.region == region && decide (c.beat ≤ s.tb.beat)).getLast?) with
  | none => .next s
  | some c =>
    .next (modRegion region (fun d => { d with readDomains := c.read, writeDomains := c.write })
      (modReg (fun g => { g with
        pendingMasks := g.pendingMasks.filter fun c => !(c.region == region && decide (c.beat ≤ s.tb.beat)) }) s))

end Sys2Proof.Machine
end

