-- ==== Sys2Proof/Machine/Link.lean ====
section
/-! DEFINITION. The pairing link itself: lanes, sessions, batches and flits (06_pair R199 to R210). -/

namespace Sys2Proof.Machine

/-- Fail the forwarded requests that have no answer when the link leaves service (13_management R484): commands get Retry Required, and
accesses fail as unavailable. -/
def failForwarded (s : State) : State :=
  let l := s.pair.fwd
  let cmds := l.filterMap fun e => match e.2 with
    | .bcs p op => some (p, op)
    | .detach p _ => some (p, 0xC017)
    | _ => none
  let s := modPair (fun p => { p with fwd := [] }) s
  let s := l.foldl (fun s e => match e.2 with
    | .bcs p op => finishBg p op 0x0005 0xFFFF [] s
    | .detach p _ => finishBg p 0xC017 0x0005 0xFFFF [] s
    | o => fwdBack o 0x0102 [] [] s) s
  match cmds.getLast? with
  | none => s
  | some x => raise 0x0C08 .warning (le 2 cmds.length ++ le 2 x.2) s

/-- A planned move does not survive the link (06_pair R226): its LEASE item is not applied, and its command gets Retry Required. -/
def dropMoves (s : State) : State :=
  let l := s.pair.move.toList ++ s.pair.moveQueue
  let s := modPu (fun p => { p with metaWaits := p.metaWaits.filter fun w => !(w.acts.any fun a => match a with
    | .moveDone _ => true
    | _ => false) }) (modPair (fun p => { p with move := none, moveQueue := [] }) s)
  l.foldl (fun s m => match m.path with
    | some p => answer p (if m.region = 0 then 0xC005 else 0xC004) 0x0005 [] s
    | none => s) s

/-- META changes that waited for the partner's chest go on without it: it is absent from now on (05_regions R640). -/
def forgetPartner (s : State) : State :=
  let ids := (s.pu.metaWaits.filter fun w => !w.partnerDone).map (·.id)
  ids.foldl (fun s id => settleMeta id s)
    (modPu (fun p => { p with metaWaits := p.metaWaits.map fun w => { w with partnerDone := true } }) s)

/-- The link leaves service (R199). -/
def leaveService (to' : LinkSt) (s : State) : State :=
  let s := modLink (fun l => { l with state := to', queue := [], kept := [], resend := [], nakCounts := [], txOffset := [], ackOwed := none }) s
  let s := modPair (fun p => { p with resync := none, resyncWaiting := [], drains := [] }) s
  releaseHeld (failFormation 5 0x0005 (forgetPartner (dropMoves (failForwarded s))))

/-- The link goes down (R200): event 0x0504 with its cause. -/
def linkDown (cause : Nat) (to' : LinkSt) (s : State) : State :=
  leaveService to' (raise 0x0504 .warning (le 1 cause ++ zeros 7 ++ le 8 (s.pair.link.lastGood.getD 0)) s)

/-- The mask of the failed lanes. -/
def laneMask (l : Mpl) : Nat := l.failedLanes.foldl (fun v i => v + 2 ^ i) 0

/-- Whether a half of the lanes has no failed lane (R200): the upper half is lanes 4 to 7. -/
def halfGood (upper : Bool) (l : Mpl) : Bool := l.failedLanes.all fun i => decide (4 ≤ i) != upper

/-- The half in use after a lane has failed (R200). -/
def retrain (s : State) : State :=
  let l := s.pair.link
  let go (upper : Bool) (s : State) : State :=
    if l.state = .up4 upper then s
    else
      noteSpare 6 (wearLog 0x0008 (le 1 (laneMask l)) (raise 0x0505 .warning (le 1 (laneMask l))
        (modLink (fun l => { l with state := .up4 upper }) s)))
  if halfGood false l then go false s
  else if halfGood true l then go true s
  else linkDown (if l.losSince.length = 8 then 0 else 1) .down (noteSpare 6 s)

/-- LANE_FAULT (R200): a lane loses lock, or one of its flits fails its check; the 17th in 2^21 beats is a failure. -/
def execLaneFault (lane : Nat) (lostLock : Bool) (s : State) : Host.Outcome State Fault Refusal :=
  if 8 ≤ lane then .next s
  else
    let s := if lostLock then modLink (fun l => { l with losSince := mput lane ((mget lane l.losSince).getD s.tb.beat) l.losSince }) s
      else
        let e := ((mgetD [] lane s.pair.link.laneErrors).filter fun b => decide (s.tb.beat < b + 2 ^ 21)) ++ [s.tb.beat]
        modLink (fun l => { l with laneErrors := mput lane e l.laneErrors }) s
    if !linkUp s ∨ (!lostLock ∧ (mgetD [] lane s.pair.link.laneErrors).length ≤ 16) then .next s
    else .next (retrain (modLink (fun l => { l with failedLanes := setInsert lane l.failedLanes }) s))

/-- The session key of a direction (R201). -/
def sessionKey (kpair n0 n1 : Bytes) (d : Nat) : Bytes := (shake256 32 (kpair ++ ascii "MPL" ++ n0 ++ n1 ++ le 1 d)).take 32

/-- Credits at link-up (R209). -/
def firstCredits : AMap Nat := [(0, 64), (1, 4096), (2, 2048), (3, 2048)]

/-- The state of the link in a new session (R201, R209). -/
def newSession (mine theirs kpair : Bytes) (position : Nat) (paired : Bool) (l : Mpl) : Mpl :=
  let n0 := if position = 0 then mine else theirs
  let n1 := if position = 0 then theirs else mine
  let fresh := l.state == .down
  let failed := if fresh then [] else l.failedLanes
  { l with
    state := if failed.isEmpty then .up8 else .up4 (failed.all fun i => decide (i < 4))
    failedLanes := failed, laneErrors := if fresh then [] else l.laneErrors, losSince := if fresh then [] else l.losSince
    sessions := l.sessions + 1, n0 := n0, n1 := n1
    key0 := if paired then sessionKey kpair n0 n1 0 else [], key1 := if paired then sessionKey kpair n0 n1 1 else []
    txBatch := 0, rxBatch := 0, lastGood := none, kept := [], resend := [], nakCounts := [], resentBeats := [], resentTotal := 0
    resentReported := false, credits := firstCredits, owed := [], txOffset := [], ackOwed := none }

/-- MPL_LINK_IN_SERVICE (R199 to R201): trained, with the partner's session nonce; a new session begins, and event 0x0503 is recorded. The
own nonce is random. -/
def execMplLinkInService (nonce : Bytes) (s : State) : Host.Outcome State Fault Refusal :=
  if linkUp s ∨ s.seq.state ≠ .up then .next s
  else
    let mine := freeBytes 16 s
    let s := emit (.mplInit mine) (advance s)
    let k := kPair s
    let pos := s.pair.position
    let paired := isPaired s
    let s := modLink (newSession mine (padTo 16 nonce) k pos paired) s
    .next (noteSpare 6 (raise 0x0503 .info (le 1 (lanesUp s) ++ zeros 3 ++ le 4 s.pair.link.sessions) s))

/-! ### Batches -/

/-- A flit (R205, R207): header, payload of 240 bytes, and the check over both with the alive counter. -/
def flitBytes (header payload : Bytes) (alive : Nat) : Bytes :=
  let b := header ++ padTo 240 payload
  b ++ le 8 (crcFolded 2 1 (alive % 256) b)

/-- A flit header (R205). -/
def flitHeader (type vc : Nat) (som eom : Bool) (len index mtag crvc credits : Nat) : Bytes :=
  le 8 (type + 16 * vc + 64 * b2n som + 128 * b2n eom + 2 ^ 8 * len + 2 ^ 16 * index + 2 ^ 24 * mtag + 2 ^ 40 * crvc + 2 ^ 48 * credits)

/-- The bytes of a message: its 16-byte header and its body (R210). -/
def msgBytes (m : MplMsg) : Bytes :=
  le 1 m.opcode ++ le 1 m.flags ++ le 2 m.region ++ le 4 m.body.length ++ le 8 m.operand ++ m.body

/-- A DATA flit before it is ciphered. -/
structure DataFlit where
  vc : Nat
  som : Bool
  eom : Bool
  mtag : Nat
  payload : Bytes
deriving DecidableEq, Repr, Inhabited

/-- Remove the first message of a virtual channel. -/
def dropFirst (vc : Nat) : List MplMsg → List MplMsg
  | [] => []
  | m :: r => if m.vc = vc then r else m :: dropFirst vc r

/-- The next DATA flit: the virtual channel of the highest priority that has a message and a credit (R209). -/
def takeFlit (l : Mpl) : Option (DataFlit × Mpl) :=
  match (List.range 4).find? fun v => decide (0 < mgetD 0 v l.credits) && l.queue.any fun m => m.vc == v with
  | none => none
  | some v =>
    match l.queue.find? fun m => m.vc == v with
    | none => none
    | some m =>
      let off := mgetD 0 v l.txOffset
      let b := msgBytes m
      let last := decide (b.length ≤ off + 240)
      some (⟨v, off == 0, last, m.mtag, slice off 240 b⟩,
        { l with
          credits := mmodD 0 v (· - 1) l.credits
          queue := if last then dropFirst v l.queue else l.queue
          txOffset := mput v (if last then 0 else off + 240) l.txOffset })

/-- The DATA flits of a batch, at most `n`. -/
def takeFlits : Nat → Mpl → List DataFlit × Mpl
  | 0, l => ([], l)
  | n + 1, l =>
    match takeFlit l with
    | none => ([], l)
    | some (f, l) =>
      let r := takeFlits n l
      (f :: r.1, r.2)

/-- Flit slots of a batch (R202). -/
def batchSlots (l : Mpl) : Nat :=
  match l.state with
  | .up4 _ => 106
  | _ => 212

/-- The header of slot `i`: the first four slots return the credits of the four virtual channels. -/
def slotHeader (owed : AMap Nat) (type vc : Nat) (som eom : Bool) (len i mtag : Nat) : Bytes :=
  flitHeader type vc som eom len i mtag (i % 4) (if i < 4 then mgetD 0 i owed % 65536 else 0)

/-- The nonce of a batch (R203). -/
def batchNonce (id number : Nat) : Bytes := be 4 id ++ be 8 number

/-- The flits of a batch (R202, R203, R205 to R207). -/
def batchFlits (key : Bytes) (id number slots : Nat) (owed : AMap Nat) (d : List DataFlit) : List Bytes :=
  let heads := d.zipIdx.map fun x => slotHeader owed 3 x.1.vc x.1.som x.1.eom x.1.payload.length x.2 x.1.mtag
  let plain := d.flatMap fun f => padTo 240 f.payload
  let iv := batchNonce id number
  let c := gcmCrypt key iv plain
  let tag := gcmTag key iv heads.flatten c
  let data := (heads.zip (chunksOf 240 c)).map fun x => flitBytes x.1 x.2 number
  let idle := (List.range slots).filterMap fun i =>
    if i < d.length ∨ (!d.isEmpty ∧ i + 1 = slots) then none else some (flitBytes (slotHeader owed 0 0 false false 0 i 0) [] number)
  data ++ idle ++ if d.isEmpty then [] else [flitBytes (slotHeader owed 4 0 false false 16 (slots - 1) 0) tag number]

/-- The session key of a position. -/
def keyOf (position : Nat) (l : Mpl) : Bytes := if position = 0 then l.key0 else l.key1

/-- MPL_BATCH_SEND (R202, R208): the next batch to retransmit, or a new one. The last 8 batches are kept. -/
def sendBatch (s : State) : State :=
  if !linkUp s then s
  else
    let l := s.pair.link
    match l.resend with
    | n :: rest => emit (.mplBatch n ((mget n l.kept).getD [])) (modLink (fun l => { l with resend := rest }) s)
    | [] =>
      let acks : List MplMsg := match l.ackOwed with
        | some n => [{ vc := 0, opcode := 0x04, operand := n }]
        | none => []
      let l := { l with queue := acks ++ l.queue, ackOwed := none }
      let slots := batchSlots l
      let x := takeFlits (slots - 1) l
      let n := l.txBatch
      let b := batchFlits (keyOf s.pair.position l) s.ident.controllerId n slots l.owed x.1
      emit (.mplBatch n b)
        (modLink (fun _ => { x.2 with txBatch := n + 1, owed := [], kept := (mput n b x.2.kept).filter fun e => decide (n < e.1 + 8) }) s)

/-- Bits of a flit header. -/
def headerBits (hi lo : Nat) (flit : Bytes) : Nat := bitsOf hi lo (fld 0 8 flit)

/-- The opcodes that a message may carry (R210). -/
def knownOpcode (n : Nat) : Bool :=
  [0x01, 0x02, 0x03, 0x04, 0x05, 0x10, 0x11, 0x12, 0x13, 0x14, 0x15, 0x16, 0x20, 0x21, 0x30, 0x31, 0x32, 0x33].contains n

/-- Whether a batch is good (R206 to R208): every check, the slot order, the types, and the tag. -/
def batchGood (key : Bytes) (id number : Nat) (flits : List Bytes) : Bool :=
  let d := flits.filter fun f => headerBits 3 0 f == 3
  let c := d.flatMap fun f => slice 8 240 f
  (flits.zipIdx.all fun x =>
    x.1.length == 256 && fld 248 8 x.1 == crcFolded 2 1 (number % 256) (x.1.take 248) && headerBits 23 16 x.1 == x.2 % 256 &&
      decide (headerBits 3 0 x.1 < 5)) &&
    (d.isEmpty ||
      match flits.getLast? with
      | some f => headerBits 3 0 f == 4 && slice 8 16 f == gcmTag key (batchNonce id number) (d.flatMap fun f => f.take 8) c
      | none => false)

/-- The plaintext payloads of a good batch's DATA flits with their headers. -/
def batchData (key : Bytes) (id number : Nat) (flits : List Bytes) : List (Bytes × Bytes) :=
  let d := flits.filter fun f => headerBits 3 0 f == 3
  d.zip (chunksOf 240 (gcmCrypt key (batchNonce id number) (d.flatMap fun f => slice 8 240 f)))

/-- BATCH_RECEIVE (R203 to R210): a bad batch is discarded whole and NAKed; a good one is acknowledged, its credits count, and the flits that
it takes are owed back. What its messages do is the rows of the messages. A message with a reserved opcode retrains the link. -/
def execBatchReceive (number : Nat) (flits : List Bytes) (s : State) : Host.Outcome State Fault Refusal :=
  let l := s.pair.link
  if !linkUp s then .next s
  else if number < l.rxBatch then .next (modLink (fun l => { l with ackOwed := l.lastGood }) s)
  else if l.rxBatch < number then .next s
  else
    let key := keyOf (1 - s.pair.position) l
    let id := partnerId s
    if !batchGood key id number flits then
      .next (modLink (fun l => { l with queue := { vc := 0, opcode := 0x05, operand := number } :: l.queue }) s)
    else
      let d := batchData key id number flits
      let credits := flits.foldl (fun m f => if headerBits 63 48 f = 0 then m else mmodD 0 (headerBits 41 40 f) (· + headerBits 63 48 f) m) l.credits
      let owed := d.foldl (fun m x => mmodD 0 (headerBits 5 4 x.1) (· + 1) m) l.owed
      let s := modLink (fun l => { l with rxBatch := number + 1, lastGood := some number, ackOwed := some number, credits := credits, owed := owed }) s
      if d.any fun x => headerBits 6 6 x.1 == 1 && !knownOpcode (fld 0 1 x.2) then .next (leaveService .train s) else .next s

/-- BATCH_ACK (R208): batches up to the number have arrived. -/
def execBatchAck (number : Nat) (s : State) : Host.Outcome State Fault Refusal :=
  .next (modLink (fun l => { l with
    kept := l.kept.filter fun e => decide (number < e.1), nakCounts := l.nakCounts.filter fun e => decide (number < e.1) }) s)

/-- Count retransmitted batches (R208): event 0x0506 at 16 within 65,536 beats. -/
def countResent (n : Nat) (s : State) : State :=
  let recent := (s.pair.link.resentBeats.filter fun b => decide (s.tb.beat < b + 65536)) ++ List.replicate n s.tb.beat
  let s := modLink (fun l => { l with resentBeats := recent, resentTotal := l.resentTotal + n
                                      resentReported := l.resentReported && decide (16 ≤ recent.length) }) s
  if 16 ≤ recent.length ∧ !s.pair.link.resentReported then
    raise 0x0506 .warning (le 4 s.pair.link.resentTotal) (modLink (fun l => { l with resentReported := true }) s)
  else s

/-- BATCH_NAK (R208): the batch and every one after it go out again; a third NAK of one batch, or a batch that is no longer kept, retrains
the link. -/
def execBatchNak (number : Nat) (s : State) : Host.Outcome State Fault Refusal :=
  if !linkUp s then .next s
  else
    let n := mgetD 0 number s.pair.link.nakCounts + 1
    let s := modLink (fun l => { l with nakCounts := mput number n l.nakCounts }) s
    if 3 ≤ n ∨ !mhas number s.pair.link.kept then .next (linkDown 2 .train s)
    else
      let again := (s.pair.link.kept.filter fun e => decide (number ≤ e.1)).map (·.1)
      .next (countResent again.length (modLink (fun l => { l with resend := again }) s))

end Sys2Proof.Machine
end

