-- ==== Sys2Proof/Machine/Complex.lean ====
section
/-! DEFINITION. The lockstep complex: management resets, what they interrupt, lockstep failures, the watchdog, ROM recovery and firmware
activation (13_management R477 to R481, R489, R492, R506 to R511). -/

namespace Sys2Proof.Machine

/-- Change the management complex. -/
def modMc (f : Mc → Mc) (s : State) : State := { s with mc := f s.mc }

/-- The opcode that an option write serves, with its path. -/
def optionPath : OptionThen → Option (BcsPath × Nat)
  | .answer p op => p.map fun p => (p, op)
  | .parameter p _ _ => p.map fun p => (p, 0xC023)
  | .levelRaised p _ => p.map fun p => (p, 0xC051)
  | .lowering p => p.map fun p => (p, 0xC051)
  | .nextSlot p _ => p.map fun p => (p, 0x0202)

/-- An option write whose command has been ended: its effect stays. -/
def optionOrphan : OptionThen → OptionThen
  | .answer _ op => .answer none op
  | .parameter _ i v => .parameter none i v
  | .levelRaised _ o => .levelRaised none o
  | .lowering _ => .lowering none
  | .nextSlot _ n => .nextSlot none n

/-- A flash operation whose command has been ended. -/
def norOrphan : NorOp → NorOp
  | .optionWrite c a => .optionWrite c (optionOrphan a)
  | o => o

/-- The command of a flash operation. -/
def norPath : NorOp → Option (BcsPath × Nat)
  | .optionWrite _ a => optionPath a
  | _ => none

/-- The command that a bureau job serves. -/
def jobPath : BureauJob → Option (BcsPath × Nat)
  | .attach _ _ p => p.map fun p => (p, 0xC016)
  | .entryState => none
  | .label p => p.map fun p => (p, 0x4103)
  | .format _ _ p => p.map fun p => (p, 0xC023)
  | .poison _ _ inject p => p.map fun p => (p, if inject then 0x4301 else 0x4302)

/-- A bureau job whose command has been ended. -/
def jobOrphan : BureauJob → BureauJob
  | .attach a b _ => .attach a b none
  | .entryState => .entryState
  | .label _ => .label none
  | .format a b _ => .format a b none
  | .poison a b c _ => .poison a b c none

/-- The command that a consequence of a META change answers. -/
def actPath : MetaAct → Option (BcsPath × Nat)
  | .answer p op _ _ => some (p, op)
  | .answerSeq p op => some (p, op)
  | _ => none

/-- The BCS command that waits for a timed action. -/
def ctlPath : CtlFrom → Option (BcsPath × Nat)
  | .bcs p op => some (p, op)
  | _ => none

/-- A timed action whose BCS command has been ended. -/
def timedOrphan (t : Timed) : Timed :=
  match t.waiter with
  | .bcs _ _ => { t with waiter := .nobody }
  | _ => t

/-- Timed actions of a ring. -/
def ringTimed (r : Ring) : List Timed := r.newRules.map (·.2) ++ r.startAt.map (·.2) ++ r.stopAt ++ r.releaseTo.map (·.2)

/-- Timed actions of a channel. -/
def channelTimed (c : Channel) : List Timed := c.startAt.toList ++ c.stopAt

/-- The commands in progress that a management reset interrupts, those in the background apart (R492). -/
def inProgress (s : State) : List (BcsPath × Nat) :=
  (s.pu.metaWaits.flatMap fun w => w.acts.filterMap actPath) ++ (s.pair.heldBcs.map fun h => (h.path, h.opcode)) ++
  (s.reg.changes.filterMap fun e => e.2.path.map fun p => (p, e.2.opcode)) ++
  (s.trust.revocations.filterMap fun r => r.path.map fun p => (p, 0xC019)) ++
  ((s.pair.move.toList ++ s.pair.moveQueue).filterMap fun m => m.path.map fun p => (p, if m.region = 0 then 0xC005 else 0xC004)) ++
  (s.pair.formation.toList.filterMap fun f => f.path.map fun p => (p, if f.role = .survivor then 0xC006 else 0xC000)) ++
  ((s.nor.running.toList ++ s.nor.waiting).filterMap norPath) ++
  (s.trust.signer.waiting.filterMap fun r => match r with
    | .report p _ => some (p, 0xC042)
    | .formation _ => none) ++
  (s.cxl.att.filterMap fun a => a.2.detach.map fun p => (p, 0xC017)) ++ (s.cxl.jobs.filterMap fun j => jobPath j.2) ++
  (s.trust.run.toList.filterMap fun r => r.path.map fun p => (p, 0xC052)) ++
  (s.gqp.pairs.filterMap fun q => q.2.deletePath.map fun p => (p, 0xC0B1)) ++
  (s.pair.fwd.filterMap fun f => match f.2 with
    | .bcs p op => some (p, op)
    | .detach p _ => some (p, 0xC017)
    | _ => none) ++
  ((s.cap.rings.flatMap fun r => ringTimed r.2) ++ s.cap.channels.flatMap fun c => channelTimed c.2).filterMap fun t => ctlPath t.waiter

/-- Each element once. -/
def distinct {α : Type} [BEq α] (l : List α) : List α := l.foldl (fun a x => if a.contains x then a else a ++ [x]) []

/-- The commands leave what they started behind: it goes on without them (R492). -/
def orphan (s : State) : State :=
  let s := modPu (fun p => { p with metaWaits := p.metaWaits.map fun w => { w with acts := w.acts.filter fun a => (actPath a).isNone } }) s
  let s := modPair (fun p => { p with
    heldBcs := [], move := p.move.map fun m => { m with path := none }, moveQueue := p.moveQueue.map fun m => { m with path := none }
    formation := p.formation.map fun f => { f with path := none }
    fwd := p.fwd.filter fun f => match f.2 with
      | .bcs _ _ => false
      | .detach _ _ => false
      | _ => true }) s
  let s := modReg (fun g => { g with changes := g.changes.map fun e => (e.1, { e.2 with path := none }) }) s
  let s := modTrust (fun t => { t with
    revocations := t.revocations.map fun r => { r with path := none }
    run := t.run.map fun r => { r with path := none }
    signer := { t.signer with waiting := t.signer.waiting.filter fun r => match r with
      | .report .. => false
      | .formation _ => true } }) s
  let s := modNor (fun n => { n with running := n.running.map norOrphan, waiting := n.waiting.map norOrphan }) s
  let s := modCxl (fun c => { c with
    att := c.att.map fun a => (a.1, { a.2 with detach := none }), jobs := c.jobs.map fun j => (j.1, jobOrphan j.2) }) s
  let s := modGqp (fun g => { g with pairs := g.pairs.map fun q => (q.1, { q.2 with deletePath := none }) }) s
  modCap (fun c => { c with
    rings := c.rings.map fun e => (e.1, { e.2 with
      newRules := e.2.newRules.map fun x => (x.1, timedOrphan x.2), startAt := e.2.startAt.map fun x => (x.1, timedOrphan x.2)
      stopAt := e.2.stopAt.map timedOrphan, releaseTo := e.2.releaseTo.map fun x => (x.1, timedOrphan x.2) })
    channels := c.channels.map fun e => (e.1, { e.2 with
      startAt := e.2.startAt.map timedOrphan, stopAt := e.2.stopAt.map timedOrphan }) }) s

/-- What a management reset interrupts is noted, to be completed with Retry Required (R492); an online activation goes on (R508). -/
def interrupt (s : State) : State :=
  let bg := s.mc.bg.filter fun b => b.opcode != 0x0202 && b.result.isNone
  let l := (distinct (inProgress s)).filter fun x => x.2 != 0x0202 && !(bg.any fun b => b.path == x.1 && b.opcode == x.2)
  orphan (modMc (fun m => { m with interrupted := m.interrupted ++ l }) s)

/-- The image slot with an index: 0 A, 1 B (R506). -/
def fwSlot (n : Nat) (s : State) : FwSlot := if n = 0 then s.mc.fwA else s.mc.fwB

/-- Change an image slot. -/
def modSlot (n : Nat) (f : FwSlot → FwSlot) (s : State) : State :=
  modMc (fun m => if n = 0 then { m with fwA := f m.fwA } else { m with fwB := f m.fwB }) s

/-- A transfer ends without an image (R507): the slot is left invalid, with event 0x0C05. -/
def dropTransfer (what : Nat) (s : State) : State :=
  match s.mc.transfer with
  | none => s
  | some t =>
    raise 0x0C05 .info (le 1 t.slot ++ le 1 what ++ zeros 2 ++ le 4 (fwSlot t.slot s).version)
      (modSlot t.slot (fun x => { x with valid := false }) (modMc (fun m => { m with transfer := none }) s))

/-- What a reset does to the key unit (14_trust R519, step 4, R520, R539): the next index starts the window after every reserved one, and
not below the highest window floor. -/
def resetSigner (s : State) : State :=
  modSigner (fun g =>
    let w := max g.reserved (g.floors.foldl max 0)
    { g with next := w * 4096, reserved := w, ready := false, waitSince := none }) s

/-- A management reset (R478, R479): the complex restarts from ROM, once the NOR is ready. -/
def startRestart (cause : Nat) (toRom : Bool) (s : State) : State :=
  let s := resetSigner (dropTransfer 2 (interrupt s))
  modMc (fun m => { m with
    serving := false, restarts := satAdd 0xFFFF m.restarts 1
    restart := some { cause := cause, beat := s.tb.beat, norWait := s.nor.running.isSome && !s.nor.suspended, toRom := toRom } }) s

/-- No usable pair is left (R480): nothing serves any more; what was in progress ends with Internal Error. -/
def noComplex (cause : Nat) (s : State) : State :=
  let s := dropTransfer 2 (interrupt s)
  let l := s.mc.interrupted
  let s := raise 0x0C04 .fatal (le 1 cause) (modMc (fun m => { m with
    serving := false, restart := none, interrupted := []
    bg := m.bg.map fun b => if b.result.isNone then { b with result := some ⟨4, 0xFFFF, []⟩ } else b }) s)
  l.foldl (fun s x => answer x.1 x.2 0x0004 [] s) s

/-- A lockstep pair fails (R478): the spare becomes active when it is usable. -/
def lockstepFailure (sramError : Bool) (s : State) : State :=
  if noPair s then s
  else
    let cause := if sramError then 3 else 2
    let failed := s.mc.active
    let spare := s.mc.spareUsable && !(if failed = 0 then s.mc.failed1 else s.mc.failed0)
    let s := modMc (fun m => { m with
      failed0 := m.failed0 || failed == 0 || !spare, failed1 := m.failed1 || failed == 1 || !spare, spareUsable := false
      active := if spare then 1 - failed else failed }) s
    let s := noteSpare 5 (wearLog 0x0006 (le 1 failed ++ le 1 cause) (raise 0x0C03 .error (le 1 failed ++ le 1 (usablePairs s)) s))
    if spare then startRestart cause false s else noComplex cause s

/-- LOCKSTEP_MISMATCH (R478, 12_integrity R452). -/
def execLockstepMismatch (sramError : Bool) (s : State) : Host.Outcome State Fault Refusal :=
  .next (if s.seq.state = .up then lockstepFailure sramError s else s)

/-- An expiry of the internal watchdog (cause 0) or a WDI violation (cause 1) (R509, R510). -/
def watchdogReset (cause : Nat) (s : State) : State :=
  if noPair s ∨ s.mc.restart.isSome then s
  else
    let before := s.mc.lastExpiry
    let near := match before with
      | some b => decide (s.tb.beat < b + 19531250)
      | none => false
    let s := modMc (fun m => { m with lastExpiry := some s.tb.beat }) s
    let s := if near then raise 0x0C02 .error (le 1 0 ++ zeros 7 ++ le 8 (before.getD 0)) s else s
    startRestart cause near s

/-- WATCHDOG_EXPIRY (R509): firmware has not refreshed the internal watchdog in 2^22 beats. -/
def execWatchdogExpiry (s : State) : Host.Outcome State Fault Refusal :=
  .next (if s.seq.state = .up && s.mc.serving then watchdogReset 0 s else s)

/-- The end of an online activation (R508): its event and its result. -/
def endActivation (s : State) : State :=
  match s.mc.activation with
  | none => s
  | some a =>
    let v := (fwSlot a.slot s).version
    let s := raise 0x0C06 .info (le 1 a.slot ++ le 1 (if a.rolled then 2 else 0) ++ zeros 2 ++ le 4 v) (modMc (fun m => { m with activation := none }) s)
    match s.mc.bg.find? fun b => b.opcode == 0x0202 && b.result.isNone with
    | none => s
    | some b => finishBg b.path 0x0202 (if a.rolled then 0x000C else 0) 0xFFFF [] s

/-- Whether a restart of the complex can complete: one runs, and it does not wait for the configuration flash (R511). -/
def restartReady (s : State) : Bool :=
  match s.mc.restart with
  | none => false
  | some r => !(r.norWait && s.nor.running.isSome && !s.nor.suspended)

/-- The complex serves again, completes what was interrupted, and reports the reset (R478, R492, R509 to R511). -/
def restarted (s : State) : State :=
  match s.mc.restart with
  | none => s
  | some r =>
      let l := s.mc.interrupted
      let bg := s.mc.bg.filter fun b => b.opcode != 0x0202 && b.result.isNone
      let left := s.mc.rom && !r.toRom
      let slot := match s.mc.activation with
        | some a => if a.rolled then a.previous else a.slot
        | none => s.mc.fwActive
      let s := modMc (fun m => { m with
        serving := true, restart := none, rom := r.toRom, interrupted := [], lastRefresh := s.tb.beat, fwActive := slot
        fwRunning := if r.toRom then 0 else (fwSlot slot s).version
        bg := m.bg.map fun b => if b.opcode != 0x0202 && b.result.isNone then { b with result := some ⟨5, 0xFFFF, []⟩ } else b }) s
      let s := { s with pwr := { s.pwr with wdiArmed := false } }
      let s := raise 0x0C01 .warning
        (le 1 r.cause ++ le 1 s.mc.active ++ zeros 2 ++ le 4 (s.tb.beat - r.beat) ++ le 1 (b2n r.norWait)) s
      let s := if left then raise 0x0C02 .error (le 1 1 ++ zeros 7 ++ le 8 (s.mc.lastExpiry.getD 0)) s else s
      let s := if s.ev.lostUnreported = 0 then s
        else raise 0x0C07 .warning (le 4 s.ev.lostUnreported) { s with ev := { s.ev with lostUnreported := 0 } }
      let n := l.length + bg.length
      let last := ((bg.map (·.opcode)).getLast?).getD ((l.map (·.2)).getLastD 0)
      let s := l.foldl (fun s x => answer x.1 x.2 0x0005 [] s) s
      let s := if n = 0 then s else raise 0x0C08 .warning (le 2 n ++ le 2 last) s
      endActivation s

/-- ACTIVATION_SELF_CHECK_TIMEOUT (R508): the new image has not completed its self-check; the complex restarts on the previous one. -/
def execActivationSelfCheckTimeout (s : State) : Host.Outcome State Fault Refusal :=
  match s.mc.activation, s.mc.restart with
  | some a, some r =>
    if a.rolled ∨ r.cause ≠ 4 ∨ s.tb.beat < r.beat + 2 ^ 22 then .next s
    else .next (startRestart 4 false (modMc (fun m => { m with activation := some { a with rolled := true } }) s))
  | _, _ => .next s

/-- FW_TRANSFER_TIMEOUT (R507): 2^27 beats without a part. -/
def execFwTransferTimeout (s : State) : Host.Outcome State Fault Refusal :=
  match s.mc.transfer with
  | none => .next s
  | some t => .next (if t.lastBeat + 2 ^ 27 ≤ s.tb.beat then dropTransfer 2 s else s)

end Sys2Proof.Machine
end

