-- ==== Sys2Proof/Machine/IntegrityCmds.lean ====
section
/-! DEFINITION. Uncorrectable errors by damaged place, and the ends of the recoveries that take time (12_integrity R450 to R459,
R474). -/

namespace Sys2Proof.Machine

/-- A drawer slot in error (R452): for a mirrored region that is CURRENT on both controllers the partner is asked, else the line is
poisoned. -/
def slotError (slot : Nat) (s : State) : State :=
  match mget slot s.pu.slots with
  | none => s
  | some d =>
    if d.state != .held then s
    else
      let s := noteUe 1 (slot * 64) s
      if partnerHas d.region s then askCopy true slot 0 d.region d.line s
      else noteLost 1 d.region [(d.line, slot * 64)] (modPu (poisonSlot slot) s)

/-- Whether a record's drawer slot still holds a line of it (R452, R85). -/
def slotStillHeld (r : JRec) (l : RecLine) (s : State) : Bool :=
  r.slots.any fun n => match mget n s.pu.slots with
    | some d => d.state == .held && d.region == l.region && d.line == l.lw.line && d.mask == l.lw.mask
    | none => false

/-- A chest journal line in error (R452): the drawer slot, the shelf, and the partner are tried in this order. -/
def chestError (seq index : Nat) (s : State) : State :=
  match s.pu.chest.find? fun r => r.seq == seq with
  | none => s
  | some r =>
    match r.lines[index]? with
    | none => s
    | some l =>
      let a := chestAddr seq index s
      let s := noteUe 2 a s
      if slotStillHeld r l s then recoveredEvent 2 0 l.region (some l.lw.line) a s
      else if r.placed then recoveredEvent 2 2 l.region (some l.lw.line) a s
      else if partnerHas l.region s then askCopy false seq index l.region l.lw.line s
      else noteLost 2 l.region [(l.lw.line, a)] (modPu (poisonRecLine seq index) s)

/-- The first line of a page in its region. -/
def pageLine (seg page : Nat) (s : State) : Option Nat := (lineOfKey (seg * 32768 + page * 64) s).map (·.2)

/-- The region of a segment. -/
def regionOfSegment (seg : Nat) (s : State) : Nat := (ownerOf (seg * 32) s).getD 0

/-- A page of a clean chunk in error (R452): VALID is cleared and the page is filled again from the cabinet. -/
def cleanPageError (seg page : Nat) (s : State) : State :=
  if !mhas seg s.ti.segs || 512 ≤ page then s
  else
    let a := pageAddr seg page s
    let s := noteUe 0 a s
    let base := (seg * 512 + page) * 4096
    let s := modTi (fun t => { t with
      segs := mmod seg (fun g => { g with valid := bitOff page g.valid }) t.segs
      shelf := memErase base 4096 t.shelf
      shelfPoison := t.shelfPoison.filter fun k => k / 64 != seg * 512 + page }) s
    let s := if s.ti.fills.any fun f => f.segment == seg then s else startFill seg (seg * 32 + page / 16) s
    repairRow a (recoveredEvent 0 3 (regionOfSegment seg s) (pageLine seg page s) a s)

/-- A page of a dirty chunk in error (R454, steps 1 to 3): the segment is pinned, and the page is built again from the cabinet and the
chest; what neither restored is poisoned. -/
def dirtyPageError (seg page : Nat) (lines : List Nat) (s : State) : State :=
  if !mhas seg s.ti.segs || 512 ≤ page || s.ecc.dirtyRecover.any fun x => x.1 == seg && x.2.1 == page then s
  else
    let a := pageAddr seg page s
    let s := noteUe 0 a s
    let s := modTi (fun t => { t with segs := mmod seg (fun g => { g with pins := g.pins + 1 }) t.segs }) s
    let s := (pageKeys seg page).foldl (fun s k => rebuildLine lines k s) s
    let lost := (pageKeys seg page).filter fun k => lines.contains (k % 64) && s.ti.shelfPoison.contains k
    repairRow a (modEcc (fun e => { e with dirtyRecover := e.dirtyRecover ++ [(seg, page, lost)] }) s)

/-- A page of a volatile region in error (R452): the lines that it covers are poisoned. -/
def volatilePageError (seg page : Nat) (lines : List Nat) (s : State) : State :=
  if !mhas seg s.ti.segs || 512 ≤ page then s
  else
    let a := pageAddr seg page s
    let keys := (pageKeys seg page).filter fun k => lines.contains (k % 64)
    let s := noteUe 0 a s
    let s := modTi (fun t => { t with shelfPoison := keys.foldl (fun l k => setTo true k l) t.shelfPoison }) s
    repairRow a (noteLostKeys (fun k => keyAddr k s) keys s)

/-- An address of a lent page or of a partition: the specification gives no place for them. -/
def lentAddr (s : State) : Nat := (drawn s).toNat % 2 ^ 35 / 64 * 64

/-- A lent page in error (R453): the other copy is used and the bad one rewritten from it; with both bad the entries are lost. -/
def lentError (bothBad : Bool) (lose : State → State) (s : State) : State :=
  let a := lentAddr s
  let s := noteUe 0 a (advance s)
  repairRow a (if bothBad then lose s else recoveredEvent 0 5 0 none a s)

/-- A key entry is lost (R453): it becomes FREE with its TAG raised by one; a revocation of it is done. -/
def loseKey (index : Nat) (s : State) : State :=
  match mget index s.trust.memKeys with
  | none => s
  | some k =>
    let s := match s.trust.revocations.find? fun r => r.index == index with
      | some r => endRevocation r k s
      | none => freeKey index s
    raise 0x0B06 .error (le 1 1 ++ zeros 3 ++ le 4 index) s

/-- A capsule command is lost (R453): it is dropped as if it had never arrived. Which entry of the ring stood there is free. -/
def loseCapsule (qid : Nat) (s : State) : State :=
  raise 0x0B06 .error (le 1 2 ++ zeros 3 ++ le 4 qid)
    (modQ qid (fun q => { q with ring := q.ring.eraseIdx ((drawn s).toNat % max 1 q.ring.length) }) (advance s))

/-- A map page in error (R452): it is rebuilt, and lookups in it wait. -/
def mapPageError (page : Nat) (s : State) : State :=
  let a := lentAddr s
  let s := noteUe 0 a (advance s)
  let s := if mhas page s.ecc.mapRebuild then s else modEcc (fun e => { e with mapRebuild := mput page s.tb.beat e.mapRebuild }) s
  repairRow a s

/-- A QP context in error (R452): the QP enters the error state. -/
def contextError (qp : Nat) (s : State) : State :=
  let s := noteUe 3 0 s
  match qpAt qp s with
  | none => s
  | some _ => raise 0x0B06 .error (le 4 0 ++ le 4 (qpnOf qp)) (qpFail qp 5 0 0 s)

/-- A record in replay staging in error (R452): it is fetched again, and is unstaged until then. -/
def stagingError (c record : Nat) (s : State) : State :=
  let a := lentAddr s
  let s := noteUe 0 a (advance s)
  repairRow a (modChan c (fun x => { x with
    items := x.items.zipIdx.map fun i => if i.2 = record then { i.1 with staged := false } else i.1 }) s)

/-- A line in capture staging in error (R452, 10_capture_replay R402): it is poisoned. -/
def captureError (line : Nat) (s : State) : State :=
  let a := lentAddr s
  let s := noteUe 0 a (advance s)
  repairRow a (noteLostKeys (fun _ => a) [line] (modCap (fun c => { c with stagingPoison := setTo true line c.stagingPoison }) s))

/-- A transform job runs again from its start: its input is still held (R452). -/
def restartJob (s : State) (j : TeJob) : TeJob :=
  match runningCmd j.qid j.cid s with
  | some c => { j with todo := (engineBytes c.entry).1, aad := (engineBytes c.entry).2 }
  | none => j

/-- A transform context in error (R452): the operation of the stream runs again from its start. -/
def transformError (stream : Nat) (s : State) : State :=
  let s := noteUe 3 0 s
  match jobsOf stream s with
  | [] => s
  | j :: l => setJobs stream (restartJob s j :: l) s

/-- The recent-write map in error (R452): admission stops until it is rebuilt. -/
def recentMapError (s : State) : State :=
  modEcc (fun e => { e with rwmRebuild := some (e.rwmRebuild.getD s.tb.beat) }) (noteUe 3 0 s)

/-- An MPL receive buffer in error (R452): the batch is NAKed (06_pair R208). -/
def mplBufferError (batch : Nat) (s : State) : State :=
  let s := noteUe 3 0 s
  if linkUp s && s.pair.link.rxBatch == batch then
    modLink (fun l => { l with queue := { vc := 0, opcode := 0x05, operand := batch } :: l.queue }) s
  else s

/-- A capture receive buffer in error (R452): the record is written with its lines poisoned. -/
def captureBufferError (port : Nat) (s : State) : State :=
  modRing port (fun r => match r.buffer with
    | [] => r
    | b :: l => { r with buffer := { b with poison := true } :: l }) (noteUe 3 0 s)

/-- An uncorrectable error at a damaged place (R452). -/
def damage (p : DamagedPlace) (s : State) : State :=
  match p with
  | .drawerHeld slot => slotError slot s
  | .chestLine seq index => chestError seq index s
  | .segClean seg page => cleanPageError seg page s
  | .segDirty seg page lines => dirtyPageError seg page lines s
  | .segVolatile seg page lines => volatilePageError seg page lines s
  | .mapPage page => mapPageError page s
  | .lentKeys bad index => lentError bad (loseKey index) s
  | .lentCapsule bad qid => lentError bad (loseCapsule qid) s
  | .lentOther bad => lentError bad id s
  | .qpContext qp => contextError qp s
  | .replayStaging c record => stagingError c record s
  | .replayProgram c => stopChannel c 3 (noteUe 0 (lentAddr s) (advance s))
  | .captureStaging _ line => captureError line s
  | .frontCache head granule => cacheError head granule (noteUe 3 0 s)
  | .recentWriteMap => recentMapError s
  | .transformContext stream => transformError stream s
  | .mplReceiveBuffer batch => mplBufferError batch s
  | .ethReceiveBuffer port => dropOn port (noteUe 3 0 s)
  | .captureReceiveBuffer port => captureBufferError port s
  | .managementSram => lockstepFailure true (noteUe 3 0 s)

/-- UNCORRECTABLE_ERROR (R450 to R456). -/
def execUncorrectableError (place : DamagedPlace) (s : State) : Host.Outcome State Fault Refusal := .next (damage place s)

/-- DIRTY_PAGE_RECOVERY (R454, steps 4 and 5): the pin is released; event 0x0B02 when no line was poisoned, 0x0B03 otherwise. -/
def execDirtyPageRecovery (segment page : Nat) (s : State) : Host.Outcome State Fault Refusal :=
  match s.ecc.dirtyRecover.find? fun x => x.1 == segment && x.2.1 == page with
  | none => .next s
  | some x =>
    let s := modEcc (fun e => { e with dirtyRecover := e.dirtyRecover.filter fun y => !(y.1 == segment && y.2.1 == page) }) s
    let s := modTi (fun t => { t with segs := mmod segment (fun g => { g with pins := g.pins - 1 }) t.segs }) s
    if x.2.2.isEmpty then
      let copy := if (pageKeys segment page).any fun k => !(chestCopies k s).isEmpty then 1 else 3
      .next (recoveredEvent 0 copy (regionOfSegment segment s) (pageLine segment page s) (pageAddr segment page s) s)
    else .next (noteLostKeys (fun k => keyAddr k s) x.2.2 s)

/-- RECENT_WRITE_MAP_REBUILD (R452): the map is rebuilt and admission goes on; event 0x0B0C. -/
def execRecentWriteMapRebuild (s : State) : Host.Outcome State Fault Refusal :=
  match s.ecc.rwmRebuild with
  | none => .next s
  | some b =>
    let s := modEcc (fun e => { e with rwmRebuild := none }) s
    .next (raise 0x0B0C .warning (le 4 s.pu.copies.length ++ le 4 (s.tb.beat - b)) s)

/-- MAP_PAGE_REBUILD (R452): the page is rebuilt from the newest checkpoint and the MAP records above it; event 0x0B05. -/
def execMapPageRebuild (page : Nat) (s : State) : Host.Outcome State Fault Refusal :=
  match mget page s.ecc.mapRebuild with
  | none => .next s
  | some b =>
    let s := modEcc (fun e => { e with mapRebuild := mdel page e.mapRebuild }) (rebuildPage page s)
    .next (raise 0x0B05 .warning (le 4 page ++ le 4 (s.tb.beat - b)) s)

/-- SCRUB_END (R460, R461, R463): the scrub has read its range, is aborted at its boundary, or its region has left ONLINE. The
corrected errors that it met count. -/
def execScrubEnd (corrected : List ScrubFind) (s : State) : Host.Outcome State Fault Refusal :=
  let x := s.ecc.scrub
  if x.state ≠ 1 then .next s
  else
    let due := match x.abortAt with
      | some b => decide (b ≤ s.tb.beat)
      | none => false
    if x.abortAt.isSome ∧ !due then .next s
    else
      let s := corrected.foldl (fun s f => noteFind f s) s
      let x := s.ecc.scrub
      let st := if due then 3 else if scrubOnline x s then 2 else 4
      let total := scrubLines x
      let part := (drawn s).toNat % (total + 1)
      let already := scrubPoisoned x s - x.newly
      let x := { x with
        state := st, abortAt := none, scanned := if st = 2 then total else part
        already := if st = 2 then already else min already part }
      let s := if st = 2 then s else advance s
      let s := modEcc (fun e => { e with scrub := x }) s
      let s := raise 0x0B0A .info (le 1 st ++ le 1 x.target ++ zeros 2 ++ le 4 x.newly ++ le 4 x.recovered) s
      match x.path, x.scan with
      | some p, some _ =>
        let s := if st = 2 ∧ !x.overflowed ∧ scanCovers x s then modEcc (fun e => { e with ledgerOverflow := false }) s else s
        .next (finishBg p 0x4304 0 0xFFFF [] s)
      | _, _ => .next s

end Sys2Proof.Machine
end

