-- ==== Sys2Proof/Machine/Params.lean ====
section
/-! DEFINITION. Device parameters: their table, the values stored and in force, the sizes that the next start-up sets, and the
commands C022h to C024h (13_management R497, R498, 04_tiers R109, R110, 08_remote_access R287 to R290). -/

namespace Sys2Proof.Machine

/-- When a parameter takes effect: at once, at the next beat boundary, at the next start-up, or as the bureau's writes are
acknowledged. -/
inductive ParamWhen where
  | now
  | boundary
  | startUp
  | bureau
deriving DecidableEq, Repr, Inhabited

/-- A device parameter: its ID, its range and its default (R497). -/
structure ParamInfo where
  id : Nat
  lo : Nat
  hi : Nat
  dflt : Nat
  takes : ParamWhen
deriving DecidableEq, Repr, Inhabited

/-- The parameters of chapters 4 to 8. The ranges of 0x0303 to 0x0305 are a DESIGN CHOICE: the specification gives none. -/
def paramsA : List ParamInfo :=
  [⟨0x0301, 0, 2 ^ 35, 2 ^ 32, .startUp⟩, ⟨0x0302, 0, 2 ^ 35, 2 ^ 32, .startUp⟩,
   ⟨0x0303, 0, 2 ^ 32 - 1, 1000, .now⟩, ⟨0x0304, 0, 2 ^ 32 - 1, 1000000, .now⟩, ⟨0x0305, 0, 2 ^ 32 - 1, 4, .now⟩,
   ⟨0x0501, 2, 180, 17, .now⟩, ⟨0x0502, 1, 65535, 512, .now⟩, ⟨0x0503, 64, 2 ^ 24, 256, .now⟩, ⟨0x0504, 1, 65535, 2514, .now⟩,
   ⟨0x0601, 0, 1, 0, .startUp⟩, ⟨0x0602, 0, 0xAA, 0, .startUp⟩, ⟨0x0603, 0, 4095, 0, .bureau⟩,
   ⟨0x0701, 0, 0xF, 0, .startUp⟩, ⟨0x0702, 0, 0xFFFF, 0, .startUp⟩,
   ⟨0x0801, 0, 7, 2, .boundary⟩, ⟨0x0802, 1, 256, 8, .boundary⟩, ⟨0x0803, 1, 256, 4, .boundary⟩, ⟨0x0804, 1, 256, 1, .boundary⟩]

/-- The parameters of chapters 12 to 16. -/
def paramsB : List ParamInfo :=
  [⟨0x0B01, 6, 14, 10, .boundary⟩, ⟨0x0B02, 1, 2, 1, .boundary⟩, ⟨0x0B03, 0, 0x77777777, 0x03446257, .boundary⟩,
   ⟨0x0B04, 1, 2 ^ 24, 4096, .boundary⟩,
   ⟨0x0E01, 0x08, 0x77, 0x5A, .startUp⟩, ⟨0x0E02, 1, 0xFFE, 1, .startUp⟩,
   ⟨0x0F01, 500, 1000, 800, .boundary⟩, ⟨0x0F02, 0, 10000, 0, .boundary⟩, ⟨0x0F03, 85, 110, 105, .boundary⟩]

/-- Every device parameter, in ascending order of ID. -/
def paramTable : List ParamInfo := paramsA ++ paramsB

/-- The table's row of a parameter. -/
def paramInfo (id : Nat) : Option ParamInfo := paramTable.find? fun p => p.id == id

/-- The option fields as they stand once every option write that has been asked for is complete. -/
def comingOption (s : State) : OptionCopy :=
  (s.nor.running.toList ++ s.nor.waiting).foldl (fun c o =>
    match o with
    | .optionWrite x _ => x
    | _ => c) (stored s)

/-- A parameter's value in an option copy (15_config_flash_events R553, R554, R556). -/
def optionValue (c : OptionCopy) (p : ParamInfo) : Nat :=
  if p.id = 0x0E01 then c.smbusAddr
  else if p.id = 0x0E02 then c.ctrlId
  else mgetD p.dflt p.id c.params

/-- An option copy with a parameter's value: an entry is held only while the value differs from the default (R554). -/
def setOption (c : OptionCopy) (p : ParamInfo) (v : Nat) : OptionCopy :=
  if p.id = 0x0E01 then { c with smbusAddr := v }
  else if p.id = 0x0E02 then { c with ctrlId := v }
  else { c with params := if v = p.dflt then mdel p.id c.params else mput p.id v c.params }

/-- Lanes of each port that an octet's mode gives (08_remote_access R287). -/
def portLanes (mode port : Nat) : Nat := 8 / 2 ^ (mode / 4 ^ (port / 8) % 4)

/-- Whether a port mode produces a port index (R288). -/
def portExists (mode port : Nat) : Bool := decide (port < 16) && port % 8 % portLanes mode port == 0

/-- The bits of the ports that a mode produces. -/
def portBits (mode : Nat) : Nat := ((List.range 16).filter fun p => portExists mode p).foldl (fun b p => b + 2 ^ p) 0

/-- The instrument bits that count under a port mode (R290). -/
def instrumentBits (mode bits : Nat) : Nat := bits &&& portBits mode

/-- Segments of the shelf (00_scope R1). -/
def shelfSegments (s : State) : Nat := if s.ident.h96 then 49152 else 24576

/-- Segments of the MAP partition (04_tiers R109): 6 bytes for each chunk of the logical capacity. -/
def mapSegments (extents : Nat) : Nat := (extents * 4096 * 6 + 2 ^ 21 - 1) / 2 ^ 21

/-- Bytes of the REPLAY and CAPTURE partitions that a start-up with an option copy sets (R110). -/
def partitionBytes (c : OptionCopy) : Nat × Nat :=
  if instrumentBits (mgetD 0 0x0701 c.params) (mgetD 0 0x0702 c.params) = 0 then (0, 0)
  else (mgetD (2 ^ 32) 0x0301 c.params, mgetD (2 ^ 32) 0x0302 c.params)

/-- Segments left for the segment cache at the logical capacity of `extents` (R109, R118). -/
def cacheSegments (c : OptionCopy) (extents : Nat) (s : State) : Nat :=
  let p := partitionBytes c
  shelfSegments s - mapSegments extents - 32 - p.1 / 2 ^ 21 - p.2 / 2 ^ 21 - s.ti.mappedOut.length

/-- A parameter's value in force (R497, R110). -/
def inForce (p : ParamInfo) (s : State) : Nat :=
  match p.id with
  | 0x0301 => s.ti.partReplay * 2 ^ 21
  | 0x0302 => s.ti.partCapture * 2 ^ 21
  | 0x0601 => b2n s.cxl.gfam
  | 0x0602 => s.cxl.bifurcation
  | 0x0603 => s.cxl.bureau
  | 0x0701 => s.net.portMode
  | 0x0702 => (s.net.ports.filter fun e => e.2.instrument).foldl (fun b e => b + 2 ^ e.1) 0
  | 0x0E01 => s.mc.sbAddr
  | 0x0E02 => s.ident.controllerId
  | _ => param p.id p.dflt s

/-- The value that the next start-up brings into force (R110, R498). -/
def nextValue (p : ParamInfo) (s : State) : Nat :=
  match p.id with
  | 0x0301 => (partitionBytes (stored s)).1
  | 0x0302 => (partitionBytes (stored s)).2
  | _ => optionValue (stored s) p

/-- PENDING of Get Parameter (R498). -/
def paramPending (p : ParamInfo) (s : State) : Bool := p.takes == .startUp && nextValue p s != inForce p s

/-- Whether a value is one of a parameter's values (R498, and the rule of each parameter). -/
def valueOk (p : ParamInfo) (v : Nat) (s : State) : Bool :=
  let c := comingOption s
  decide (p.lo ≤ v) && decide (v ≤ p.hi) &&
    match p.id with
    | 0x0301 => v % 2 ^ 21 == 0 && decide (1024 ≤ cacheSegments (setOption c p v) s.reg.capExtents s)
    | 0x0302 => v % 2 ^ 21 == 0 && decide (1024 ≤ cacheSegments (setOption c p v) s.reg.capExtents s)
    | 0x0602 => (List.range 4).all fun i => v / 4 ^ i % 4 != 3
    | 0x0603 => v == 0 || (match regionOf v s with
      | some d => d.state == .online && !d.isVolatile && (d.mirrored || !isPaired s || isSettee s)
      | none => false)
    | 0x0701 => decide (1024 ≤ cacheSegments (setOption c p v) s.reg.capExtents s)
    | 0x0702 => instrumentBits (mgetD 0 0x0701 c.params) v == v && decide (1024 ≤ cacheSegments (setOption c p v) s.reg.capExtents s)
    | 0x0B03 => (List.range 8).all fun i => v / 16 ^ i % 16 < 8
    | 0x0E01 => !([0x0C, 0x28, 0x37, 0x61].contains v)
    | 0x0F01 => v % 10 == 0
    | 0x0F02 => v == 0 || decide (100 ≤ v)
    | _ => true

/-- Whether an extent is attached on either controller (07_cxl_ports R254). -/
def anyAttached (s : State) : Bool :=
  !s.cxl.att.isEmpty || (isPaired s && inBureau s && !(tableAt (1 - myPosition s) s).isEmpty)

/-- Whether a write of a parameter is refused with Busy (07_cxl_ports R253, R254, 15_config_flash_events R556). -/
def paramBusy (id : Nat) (s : State) : Bool :=
  match id with
  | 0x0601 => !s.cxl.att.isEmpty
  | 0x0603 => anyAttached s
  | 0x0E02 => isPaired s
  | _ => false

/-- A write of zeros, or of bytes, to a region that is to hold the bureau. -/
def formatWrite (job r off : Nat) (data : Bytes) (zeroLen : Nat) (s : State) : State :=
  if route r off s = .partner then
    forwardWrite (.bureau job) 4 r off (if zeroLen = 0 then cutLines off data else cutLines off (zeros zeroLen)) s
  else if zeroLen = 0 then submitWrite (.bureau job) r off data [] s
  else submitUnit { zeroUnit 0 0 r off zeroLen ⟨0, 0, 0, .waiting⟩ s with src := .bureau job } s

/-- The chair writes an empty bureau into a region (07_cxl_ports R254, R255): its first 160 MiB. The parameter takes effect when the
last of the 161 writes is acknowledged. -/
def formatBureau (r : Nat) (s : State) : State :=
  let x := addJob (.format r 161 none) s
  let head := padTo 65536 (le 4 1 ++ le 8 s.pair.record.pairId)
  let s := formatWrite x.1 r 0 head 0 x.2
  let s := formatWrite x.1 r 65536 [] (2 ^ 20 - 65536) s
  (List.range 159).foldl (fun s i => formatWrite x.1 r ((i + 1) * 2 ^ 20) [] (2 ^ 20) s) s

/-- A stored parameter value takes effect as its rule gives (R498). -/
def takeParam (p : ParamInfo) (v : Nat) (s : State) : State :=
  match p.takes with
  | .now => { s with params := mput p.id v s.params }
  | .boundary => { s with paramsDue := s.paramsDue.filter (fun x => x.1 != p.id) ++ [(p.id, v)] }
  | .startUp => s
  | .bureau => if v = 0 then modCxl (fun c => { c with bureau := 0 }) s else s

/-- The parameters that take effect at this beat boundary; the threshold of 0x0B04 does so at the next window of 2^26 beats
(12_integrity R449). -/
def paramsAtBoundary (s : State) : State :=
  let due := s.paramsDue.filter fun x => x.1 != 0x0B04 || s.tb.beat % 2 ^ 26 == 0
  { s with params := due.foldl (fun m x => mput x.1 x.2 m) s.params
           paramsDue := s.paramsDue.filter fun x => !due.contains x }

/-- GET_PARAMETER (C022h, R497). -/
def execGetParameter (path : BcsPath) (input : Bytes) (s : State) : Host.Outcome State Fault Refusal :=
  .next (bcs path 0xC022 input (input.length == 2) (fun s =>
    match paramInfo (fld 0 2 input) with
    | none => invalid path 0xC022 0 s
    | some p =>
      success path 0xC022 (le 2 p.id ++ le 1 (b2n (paramPending p s)) ++ zeros 5 ++ le 8 (inForce p s) ++
        le 8 (optionValue (stored s) p)) s) s)

/-- SET_PARAMETER (C023h, R497, R498): the value is stored in the option area, and the command completes when that is done. -/
def execSetParameter (path : BcsPath) (input : Bytes) (s : State) : Host.Outcome State Fault Refusal :=
  .next (bcs path 0xC023 input (input.length == 16) (fun s =>
    match paramInfo (fld 0 2 input) with
    | none => invalid path 0xC023 0 s
    | some p =>
      let v := fld 8 8 input
      checked path 0xC023 [(zeroAt 2 6 input, 2), (valueOk p v s, 8)] (fun s =>
        if paramBusy p.id s then answer path 0xC023 0x0006 [] s
        else
          let s := if p.id = 0x0603 ∧ v ≠ 0 ∧ (!isPaired s || s.pair.chairHere) then formatBureau v s else s
          writeOption (setOption (comingOption s) p v) (.parameter (some path) p.id v) s) s) s)

/-- An entry of List Parameters (R497). -/
def paramEntry (p : ParamInfo) : Bytes :=
  le 2 p.id ++ le 1 (b2n (p.takes == .startUp)) ++ zeros 5 ++ le 8 p.lo ++ le 8 p.hi ++ le 8 p.dflt

/-- LIST_PARAMETERS (C024h, R497). -/
def execListParameters (path : BcsPath) (input : Bytes) (s : State) : Host.Outcome State Fault Refusal :=
  .next (bcs path 0xC024 input (input.length == 2) (fun s =>
    let l := paramTable.filter fun p => decide (fld 0 2 input ≤ p.id)
    success path 0xC024 (le 2 l.length ++ le 2 0 ++ l.flatMap paramEntry) s) s)

end Sys2Proof.Machine
end

