-- ==== Sys2Proof/Machine/Standard.lean ====
section
/-! DEFINITION. The standard CXL mailbox commands (13_management R493, 07_cxl_ports R250 to R263, R270, 12_integrity R459, R463). Their
payloads are PRESUMED: the specification names the commands by their CXL opcodes, and the layouts are those of CXL 3.1. -/

namespace Sys2Proof.Machine

/-- The LD that a command on a path speaks of: its own on a primary mailbox; on an FM mailbox the first of the head, elsewhere LD 0. -/
def ldOf : BcsPath → Nat
  | .primary l => l
  | .fm h => h * 16
  | _ => 0

/-- The LD index of label storage: in G-FAM only 0 is used (R255). -/
def lsaIndex (path : BcsPath) (s : State) : Nat := if s.cxl.gfam then 0 else ldOf path

/-- The vendor opcodes of R495 to R503. -/
def vendorOpcodes : List Nat :=
  (List.range 11).map (0xC000 + ·) ++ (List.range 11).map (0xC010 + ·) ++ (List.range 6).map (0xC020 + ·) ++ [0xC030, 0xC031] ++
  [0xC040, 0xC041, 0xC042, 0xC050, 0xC051, 0xC052, 0xC060, 0xC061] ++ (List.range 6).map (0xC070 + ·) ++ [0xC080, 0xC081, 0xC082] ++
  (List.range 4).map (0xC090 + ·) ++ (List.range 7).map (0xC0A0 + ·) ++ [0xC0B0, 0xC0B1, 0xC0B2]

/-- The standard opcodes that are served (R493). -/
def standardOpcodes : List Nat :=
  [0x0001, 0x0002, 0x0100, 0x0101, 0x0102, 0x0103, 0x0200, 0x0201, 0x0202, 0x0300, 0x0301, 0x0400, 0x0401, 0x4000, 0x4100] ++
  [0x4102, 0x4103, 0x4200, 0x4201, 0x4202, 0x4203, 0x4204, 0x4300, 0x4301, 0x4302, 0x4303, 0x4304, 0x4305] ++
  [0x4800, 0x4801, 0x4802, 0x4803, 0x5400, 0x5401, 0x5402]

/-- IDENTIFY (0001h). -/
def execIdentify (path : BcsPath) (input : Bytes) (s : State) : Host.Outcome State Fault Refusal :=
  .next (bcs path 0x0001 input (input.length == 0) (fun s =>
    success path 0x0001 (le 2 0x1F3C ++ le 2 0x7240 ++ le 4 (Config.fixed 0) ++ le 8 Config.serial ++ le 1 16 ++ le 1 3) s) s)

/-- BACKGROUND_OPERATION_STATUS (0002h): what MBX.BG_STATUS holds for the path's mailbox (R488). -/
def execBackgroundOperationStatus (path : BcsPath) (input : Bytes) (s : State) : Host.Outcome State Fault Refusal :=
  .next (bcs path 0x0002 input (input.length == 0) (fun s =>
    let m : Mailbox := match mailKey path with
      | some k => mgetD {} k s.mc.mail
      | none =>
        match s.mc.bg.find? fun b => sameMailbox b.path path with
        | some b => { bgOp := true, bgOpcode := b.opcode }
        | none => {}
    success path 0x0002 (le 1 (b2n m.bgOp + 2 * m.bgPercent) ++ zeros 1 ++ le 2 m.bgOpcode ++ le 2 m.bgRc ++ le 2 m.bgVstatus) s) s)

/-- The bytes of an event record (00_scope R7). -/
def eventBytes (e : Event) : Bytes :=
  let b := le 2 e.code ++ le 1 e.severity.code ++ le 1 (b2n e.relayed + 2 * b2n e.undisciplined) ++ le 2 e.unit ++ zeros 2 ++
    le 8 e.beat ++ le 8 e.tod ++ le 4 e.hours ++ le 4 e.cycles ++ padTo 24 e.data
  b ++ le 4 (crc32cN b) ++ le 4 0xA5C33C5A

/-- The records of a CXL event log that are not cleared (R493): severity warning is log 1, error log 2, fatal log 3. -/
def logRecords (log : Nat) (s : State) : List (Nat × Event) :=
  if log = 0 ∨ 4 ≤ log then []
  else s.ev.recent.filter fun e => e.2.severity.code == log && decide (mgetD 0 log s.mc.cleared ≤ e.1)

/-- The handle of a record in a CXL log; it is never zero. -/
def eventHandle (index : Nat) : Nat := index % 65535 + 1

/-- A CXL event record: its header, then the record of R7. -/
def cxlRecord (log : Nat) (e : Nat × Event) : Bytes :=
  le 16 (Config.fixed 1) ++ le 1 128 ++ le 3 log ++ le 2 (eventHandle e.1) ++ zeros 2 ++ le 8 (e.2.tod / 4) ++ zeros 16 ++
    padTo 80 (eventBytes e.2)

/-- GET_EVENT_RECORDS (0100h). -/
def execGetEventRecords (path : BcsPath) (input : Bytes) (s : State) : Host.Outcome State Fault Refusal :=
  .next (bcs path 0x0100 input (input.length == 1) (fun s =>
    let log := fld 0 1 input
    checked path 0x0100 [(decide (log < 5), 0)] (fun s =>
      let l := logRecords log s
      let n := l.take 511
      success path 0x0100 (le 1 (2 * b2n (decide (511 < l.length))) ++ zeros 19 ++ le 2 n.length ++ zeros 10 ++
        n.flatMap (cxlRecord log)) s) s) s)

/-- CLEAR_EVENT_RECORDS (0101h): the named records, which must be the oldest, or every record. -/
def execClearEventRecords (path : BcsPath) (input : Bytes) (s : State) : Host.Outcome State Fault Refusal :=
  .next (bcs path 0x0101 input (decide (6 ≤ input.length) && input.length == 6 + 2 * fld 2 1 input) (fun s =>
    let log := fld 0 1 input
    let l := logRecords log s
    let all := bitOf 0 (fld 1 1 input)
    let n := fld 2 1 input
    let handles := (List.range n).map fun i => fld (6 + 2 * i) 2 input
    checked path 0x0101 [(decide (log < 5), 0), (zeroAt 3 3 input, 3), (all || (l.take n).map (fun e => eventHandle e.1) == handles, 6)] (fun s =>
      let gone := if all then l else l.take n
      let s := match gone.getLast? with
        | some e => { s with mc := { s.mc with cleared := mput log (e.1 + 1) s.mc.cleared } }
        | none => s
      success path 0x0101 [] s) s) s)

/-- GET_EVENT_INTERRUPT_POLICY (0102h). -/
def execGetEventInterruptPolicy (path : BcsPath) (input : Bytes) (s : State) : Host.Outcome State Fault Refusal :=
  .next (bcs path 0x0102 input (input.length == 0) (fun s => success path 0x0102 (padTo 5 s.mc.irqPolicy) s) s)

/-- SET_EVENT_INTERRUPT_POLICY (0103h). -/
def execSetEventInterruptPolicy (path : BcsPath) (input : Bytes) (s : State) : Host.Outcome State Fault Refusal :=
  .next (bcs path 0x0103 input (input.length == 4 || input.length == 5) (fun s =>
    success path 0x0103 [] { s with mc := { s.mc with irqPolicy := input ++ (padTo 5 s.mc.irqPolicy).drop input.length } }) s)

/-- GET_TIMESTAMP (0300h): the time of day in nanoseconds (02_beat R49). -/
def execGetTimestamp (path : BcsPath) (input : Bytes) (s : State) : Host.Outcome State Fault Refusal :=
  .next (bcs path 0x0300 input (input.length == 0) (fun s => success path 0x0300 (le 8 (s.tb.tod / 4)) s) s)

/-- SET_TIMESTAMP (0301h): the time of day is set (02_beat R50), unless the timebase is LOCKED (R493). -/
def execSetTimestamp (path : BcsPath) (input : Bytes) (s : State) : Host.Outcome State Fault Refusal :=
  .next (bcs path 0x0301 input (input.length == 8) (fun s =>
    let s := if s.tb.mode = .locked then s else modTb (fun t => { t with tod := fld 0 8 input * 4 % 2 ^ 64, todFrac := 0 }) s
    success path 0x0301 [] s) s)

/-- The UUIDs of the CEL and of the Vendor Debug log. -/
def celUuid : Nat := 0x0DA9C0B5BF414B788F7996B1623B3F17
def debugUuid : Nat := 0x5E1819D911A9400C811FD60719403D86

/-- The commands that run in the background (R489). -/
def backgroundOpcodes : List Nat := [0xC000, 0xC011, 0xC012, 0xC017, 0xC019, 0xC052, 0xC0B1, 0x0201, 0x0202, 0x4304]

/-- The Command Effects Log: each opcode with its effects, of which the specification gives the background bit. -/
def celBytes : Bytes :=
  (standardOpcodes ++ vendorOpcodes).flatMap fun o =>
    let e := Config.fixed (0x10000 + o) % 65536
    le 2 o ++ le 2 (e - e / 64 % 2 * 64 + 64 * b2n (backgroundOpcodes.contains o))

/-- The read-out protection level (14_trust R535). -/
def roLevel (s : State) : Nat := if s.trust.level2 then 2 else s.trust.level

/-- GET_SUPPORTED_LOGS (0400h): the CEL and the Vendor Debug log (R493). -/
def execGetSupportedLogs (path : BcsPath) (input : Bytes) (s : State) : Host.Outcome State Fault Refusal :=
  .next (bcs path 0x0400 input (input.length == 0) (fun s =>
    success path 0x0400 (le 2 2 ++ zeros 6 ++ be 16 celUuid ++ le 4 celBytes.length ++ be 16 debugUuid ++
      le 4 (Config.debugLog (roLevel s)).length) s) s)

/-- GET_LOG (0401h). -/
def execGetLog (path : BcsPath) (input : Bytes) (s : State) : Host.Outcome State Fault Refusal :=
  .next (bcs path 0x0401 input (input.length == 24) (fun s =>
    let id := beVal (slice 0 16 input)
    let log := if id = celUuid then celBytes else Config.debugLog (roLevel s)
    let off := fld 16 4 input
    let n := fld 20 4 input
    checked path 0x0401 [(id == celUuid || id == debugUuid, 0), (decide (off ≤ log.length), 16), (decide (off + n ≤ log.length ∧ n ≤ 65536), 20)] (fun s =>
      success path 0x0401 (slice off n log) s) s) s)

/-- IDENTIFY_MEMORY_DEVICE (4000h): no static capacity (R250). -/
def execIdentifyMemoryDevice (path : BcsPath) (input : Bytes) (s : State) : Host.Outcome State Fault Refusal :=
  .next (bcs path 0x4000 input (input.length == 0) (fun s =>
    success path 0x4000 (le 16 (Config.fixed 2) ++ zeros 32 ++ le 8 (Config.fixed 3) ++ le 4 (if inBureau s then 131072 else 0) ++ le 3 4096 ++
      le 4 (Config.fixed 4) ++ le 2 (Config.fixed 5)) s) s)

/-- GET_PARTITION_INFO (4100h): no capacity to partition (R250). -/
def execGetPartitionInfo (path : BcsPath) (input : Bytes) (s : State) : Host.Outcome State Fault Refusal :=
  .next (bcs path 0x4100 input (input.length == 0) (fun s => success path 0x4100 (zeros 32) s) s)

/-- SET_PARTITION_INFO (4101h): Unsupported (R493). -/
def execSetPartitionInfo (path : BcsPath) (input : Bytes) (s : State) : Host.Outcome State Fault Refusal := .next (unsupported path 0x4101 input s)

/-- GET_LSA (4102h, R255): label storage of 128 KiB while a bureau is designated, else none. -/
def execGetLsa (path : BcsPath) (input : Bytes) (s : State) : Host.Outcome State Fault Refusal :=
  .next (bcs path 0x4102 input (input.length == 8) (fun s =>
    let off := fld 0 4 input
    let n := fld 4 4 input
    let size := if inBureau s then 131072 else 0
    checked path 0x4102 [(decide (off ≤ size), 0), (decide (off + n ≤ size ∧ n ≤ 65536), 4)] (fun s =>
      let a := labelOffset (myPosition s) (lsaIndex path s) + off
      if n = 0 then success path 0x4102 [] s
      else if !bureauReadable s || !(poisonedLines s.cxl.bureau a n s).isEmpty then answer path 0x4102 0x8005 [] s
      else success path 0x4102 (readBytes s.cxl.bureau a n s) s) s) s)

/-- SET_LSA (4103h, R255): the label storage is written in the bureau. -/
def execSetLsa (path : BcsPath) (input : Bytes) (s : State) : Host.Outcome State Fault Refusal :=
  .next (bcs path 0x4103 input (decide (8 ≤ input.length)) (fun s =>
    let off := fld 0 4 input
    let b := input.drop 8
    let size := if inBureau s then 131072 else 0
    checked path 0x4103 [(decide (off + b.length ≤ size), 0), (zeroAt 4 4 input, 4)] (fun s =>
      if b.isEmpty then success path 0x4103 [] s
      else if !bureauReadable s then answer path 0x4103 0x8005 [] s
      else
        let x := addJob (.label (some path)) s
        bureauWrite x.1 (labelOffset (myPosition s) (lsaIndex path s) + off) b x.2) s) s)

/-- GET_HEALTH_INFO (4200h, R270): the dirty shutdown count; the other fields are not stated. -/
def execGetHealthInfo (path : BcsPath) (input : Bytes) (s : State) : Host.Outcome State Fault Refusal :=
  .next (bcs path 0x4200 input (input.length == 0) (fun s =>
    success path 0x4200 (freeBytes 6 s ++ le 4 s.cxl.dirtyShutdowns ++ (freeBytes 14 s).drop 6) (advance s)) s)

/-- GET_ALERT_CONFIGURATION (4201h): the thresholds that Set Alert Configuration stored; the critical ones are not stated. -/
def execGetAlertConfiguration (path : BcsPath) (input : Bytes) (s : State) : Host.Outcome State Fault Refusal :=
  .next (bcs path 0x4201 input (input.length == 0) (fun s =>
    let a := padTo 12 s.mc.alerts
    success path 0x4201 (le 1 (fld 1 1 a) ++ le 1 0x1F ++ le 1 (Config.fixed 6) ++ slice 2 1 a ++ le 4 (Config.fixed 7) ++ slice 4 8 a) s) s)

/-- SET_ALERT_CONFIGURATION (4202h): each threshold whose VALID bit is set is stored, and enabled as its ENABLE bit says. -/
def execSetAlertConfiguration (path : BcsPath) (input : Bytes) (s : State) : Host.Outcome State Fault Refusal :=
  .next (bcs path 0x4202 input (input.length == 12) (fun s =>
    let valid := fld 0 1 input
    checked path 0x4202 [(decide (valid < 32), 0), (decide (fld 1 1 input < 32), 1), (zeroAt 3 1 input, 3)] (fun s =>
      let old := padTo 12 s.mc.alerts
      let pick (i off n : Nat) : Bytes := slice off n (if bitOf i valid then input else old)
      let en := (fld 1 1 old &&& (31 - valid)) ||| (fld 1 1 input &&& valid)
      success path 0x4202 [] { s with mc := { s.mc with
        alerts := zeros 1 ++ le 1 en ++ pick 0 2 1 ++ zeros 1 ++ pick 1 4 2 ++ pick 2 6 2 ++ pick 3 8 2 ++ pick 4 10 2 } }) s) s)

/-- GET_SHUTDOWN_STATE (4203h, R270). -/
def execGetShutdownState (path : BcsPath) (input : Bytes) (s : State) : Host.Outcome State Fault Refusal :=
  .next (bcs path 0x4203 input (input.length == 0) (fun s => success path 0x4203 (le 1 s.cxl.shutdownDirty) s) s)

/-- SET_SHUTDOWN_STATE (4204h, R270): it is stored. -/
def execSetShutdownState (path : BcsPath) (input : Bytes) (s : State) : Host.Outcome State Fault Refusal :=
  .next (bcs path 0x4204 input (input.length == 1) (fun s =>
    checked path 0x4204 [(decide (fld 0 1 input < 2), 0)] (fun s =>
      success path 0x4204 [] (modCxl (fun c => { c with shutdownDirty := fld 0 1 input }) s)) s) s)

/-- The accepted extent of a target that holds a DPA (R459). -/
def acceptedAt (t dpa : Nat) (s : State) : Option Attachment :=
  (s.cxl.att.find? fun e => e.2.target == t && e.2.state == .accepted && decide (e.2.dpa ≤ dpa ∧ dpa < e.2.dpa + 2 ^ 28)).map (·.2)

/-- The DPA at which a target sees a region line, where one of its accepted extents holds it. -/
def dpaOfLine (t region line : Nat) (s : State) : Option Nat :=
  (s.cxl.att.find? fun e =>
    e.2.target == t && e.2.state == .accepted && e.2.region == region && e.2.rext == line / 2 ^ 22).map fun e => e.2.dpa + line % 2 ^ 22 * 64

/-- The source of a poison record by the ledger's cause (R459): External, Injected or Internal. -/
def poisonSource (cause : Nat) : Nat := if cause = 0 then 1 else if cause = 1 then 3 else 2

/-- A media error record: a DPA with its source, and one line. -/
def mediaRecord (x : Nat × Nat) : Bytes := le 8 (x.1 + x.2) ++ le 4 1 ++ zeros 4

/-- GET_POISON_LIST (4300h, R459). -/
def execGetPoisonList (path : BcsPath) (input : Bytes) (s : State) : Host.Outcome State Fault Refusal :=
  .next (bcs path 0x4300 input (input.length == 16) (fun s =>
    let lo := fld 0 8 input
    let hi := lo + fld 8 8 input * 64
    checked path 0x4300 [(lo % 64 == 0, 0)] (fun s =>
      let l := s.ecc.ledger.filterMap fun e => (dpaOfLine (ldOf path) e.region e.line s).bind fun a =>
        if lo ≤ a ∧ a < hi then some (a, poisonSource e.cause) else none
      let l := l.foldl (fun m x => mput x.1 x.2 m) ([] : AMap Nat)
      let n := l.take 4094
      let fl := b2n (decide (4094 < l.length)) + 2 * b2n s.ecc.ledgerOverflow +
        4 * b2n (s.ecc.scrub.state == 1 && s.ecc.scrub.scan == some (ldOf path))
      success path 0x4300 (le 1 fl ++ zeros 1 ++ le 8 (if s.ecc.ledgerOverflow then s.ecc.ledgerTime else 0) ++ le 2 n.length ++
        zeros 20 ++ n.flatMap mediaRecord) s) s) s)

/-- Write one line of an accepted extent for Inject Poison or Clear Poison (R459): an atomic write unit as any other. -/
def poisonWrite (path : BcsPath) (opcode dpa : Nat) (data : Line) (inject : Bool) (s : State) : State :=
  match acceptedAt (ldOf path) dpa s with
  | none => answer path opcode 0x000F [] s
  | some a =>
    match regionOf a.region s with
    | none => answer path opcode 0x000F [] s
    | some d =>
      let off := a.rext * 2 ^ 28 + (dpa - a.dpa)
      if writeRefused a.region d off 64 s then answer path opcode 0x0004 [] s
      else
        let x := addJob (.poison a.region (off / 64) inject (some path)) s
        let w : LineWrite := ⟨off / 64, fullMask, data, inject⟩
        match route a.region off x.2 with
        | .partner => forwardWrite (.bureau x.1) 4 a.region off [w] x.2
        | _ => submitUnit (newUnit (.bureau x.1) .general a.region [w] x.2) x.2

/-- INJECT_POISON (4301h, R459). -/
def execInjectPoison (path : BcsPath) (input : Bytes) (s : State) : Host.Outcome State Fault Refusal :=
  .next (bcs path 0x4301 input (input.length == 8) (fun s =>
    checked path 0x4301 [(fld 0 8 input % 64 == 0, 0)] (fun s => poisonWrite path 0x4301 (fld 0 8 input) 0 true s) s) s)

/-- CLEAR_POISON (4302h, R459): the 64 bytes supplied are written as a whole line. -/
def execClearPoison (path : BcsPath) (input : Bytes) (s : State) : Host.Outcome State Fault Refusal :=
  .next (bcs path 0x4302 input (input.length == 72) (fun s =>
    checked path 0x4302 [(fld 0 8 input % 64 == 0, 0)] (fun s =>
      poisonWrite path 0x4302 (fld 0 8 input) (lineOf (slice 8 64 input)) false s) s) s)

/-- GET_SCAN_MEDIA_CAPABILITIES (4303h): the time that a scan takes is not stated. -/
def execGetScanMediaCapabilities (path : BcsPath) (input : Bytes) (s : State) : Host.Outcome State Fault Refusal :=
  .next (bcs path 0x4303 input (input.length == 16) (fun s =>
    checked path 0x4303 [(fld 0 8 input % 64 == 0, 0)] (fun s => success path 0x4303 (freeBytes 4 s) (advance s)) s) s)

/-- The ranges of the accepted extents of a target that lie in a DPA range (R463): region, offset, length. -/
def scanRanges (t lo hi : Nat) (s : State) : List (Nat × Nat × Nat) :=
  (s.cxl.att.filter fun e => e.2.target == t && e.2.state == .accepted && decide (e.2.dpa < hi ∧ lo < e.2.dpa + 2 ^ 28)).map fun e =>
    let a := max lo e.2.dpa
    let b := min hi (e.2.dpa + 2 ^ 28)
    (e.2.region, e.2.rext * 2 ^ 28 + (a - e.2.dpa), b - a)

/-- SCAN_MEDIA (4304h, R463): a scrub of the LD's accepted extents, in the background. -/
def execScanMedia (path : BcsPath) (input : Bytes) (s : State) : Host.Outcome State Fault Refusal :=
  .next (bcs path 0x4304 input (input.length == 17) (fun s =>
    let lo := fld 0 8 input
    let hi := lo + fld 8 8 input * 64
    checked path 0x4304 [(lo % 64 == 0, 0), (decide (lo < hi), 8), (decide (fld 16 1 input < 2), 16)] (fun s =>
      if s.ecc.scrub.state = 1 then answer path 0x4304 0x0006 [] s
      else
        inBackground path 0x4304 (modEcc (fun e => { e with
          scrub := { state := 1, path := some path, scan := some (ldOf path), ranges := scanRanges (ldOf path) lo hi s } })) s) s) s)

/-- GET_SCAN_MEDIA_RESULTS (4305h, R463): one record for each line that is newly poisoned or already poisoned. -/
def execGetScanMediaResults (path : BcsPath) (input : Bytes) (s : State) : Host.Outcome State Fault Refusal :=
  .next (bcs path 0x4305 input (input.length == 0) (fun s =>
    let x := s.ecc.scrub
    let t := ldOf path
    let l := if x.scan = some t ∧ x.state ≠ 1 then
        x.ranges.flatMap fun r => (poisonedLines r.1 r.2.1 r.2.2 s).filterMap fun line =>
          (dpaOfLine t r.1 line s).map fun a =>
            (a, match s.ecc.ledger.find? fun e => e.region == r.1 && e.line == line with
              | some e => poisonSource e.cause
              | none => 2)
      else []
    let n := l.take 4094
    success path 0x4305 (zeros 16 ++ le 1 (b2n (decide (4094 < l.length)) + 2 * b2n (x.state == 3 || x.state == 4)) ++ zeros 1 ++
      le 2 n.length ++ zeros 12 ++ n.flatMap mediaRecord) s) s)

/-- A DC region's configuration (R258): base, decode length in units of 256 MiB, length, block size, handle and flags. -/
def dcRegionBytes (i : Nat) : Bytes :=
  le 8 (i * 2 ^ 50) ++ le 8 (2 ^ 22) ++ le 8 (2 ^ 50) ++ le 8 (2 ^ 28) ++ le 4 (Config.fixed (8 + i)) ++ le 1 (if i = 0 then 3 else 2) ++ zeros 3

/-- The attachments of a target. -/
def attachmentsOf (t : Nat) (s : State) : List Attachment := (s.cxl.att.filter fun e => e.2.target == t).map (·.2)

/-- GET_DYNAMIC_CAPACITY_CONFIGURATION (4800h, R253, R258): the two DC regions. -/
def execGetDynamicCapacityConfiguration (path : BcsPath) (input : Bytes) (s : State) : Host.Outcome State Fault Refusal :=
  .next (bcs path 0x4800 input (input.length == 2) (fun s =>
    let start := fld 1 1 input
    let n := min (fld 0 1 input) (2 - start)
    checked path 0x4800 [(decide (start < 2), 1)] (fun s =>
      success path 0x4800 (le 1 2 ++ le 1 n ++ zeros 6 ++ ((List.range n).flatMap fun i => dcRegionBytes (start + i)) ++
        le 4 262144 ++ le 4 (262144 - (attachmentsOf (ldOf path) s).length) ++ le 8 (Config.fixed 10)) s) s) s)

/-- An extent as the host sees it: DPA, length, tag, and Shared Extent Sequence zero (R260, R262). -/
def extentBytes (a : Attachment) (s : State) : Bytes := le 8 a.dpa ++ le 8 (2 ^ 28) ++ extentTag a s ++ zeros 8

/-- GET_DYNAMIC_CAPACITY_EXTENT_LIST (4801h, R264): the accepted extents of the LD. The list's generation number is not stated. -/
def execGetDynamicCapacityExtentList (path : BcsPath) (input : Bytes) (s : State) : Host.Outcome State Fault Refusal :=
  .next (bcs path 0x4801 input (input.length == 8) (fun s =>
    let l := (attachmentsOf (ldOf path) s).filter fun a => a.state != .offered
    let start := fld 4 4 input
    let n := (l.drop start).take (min 1638 (fld 0 4 input))
    checked path 0x4801 [(decide (start ≤ l.length), 4)] (fun s =>
      success path 0x4801 (le 4 n.length ++ le 4 l.length ++ freeBytes 4 s ++ zeros 4 ++ n.flatMap fun a => extentBytes a s) (advance s)) s) s)

/-- CXL_SANITIZE (4400h): Unsupported (R493). -/
def execCxlSanitize (path : BcsPath) (input : Bytes) (s : State) : Host.Outcome State Fault Refusal := .next (unsupported path 0x4400 input s)

/-- SECURE_ERASE (4401h): Unsupported (R493). -/
def execSecureErase (path : BcsPath) (input : Bytes) (s : State) : Host.Outcome State Fault Refusal := .next (unsupported path 0x4401 input s)

/-- The head whose LDs an FM command on a path speaks of. -/
def fmHead : BcsPath → Nat
  | .fm h => h
  | _ => 0

/-- GET_LD_INFO (5400h, R251): the device's capacity and the LDs of the head. -/
def execGetLdInfo (path : BcsPath) (input : Bytes) (s : State) : Host.Outcome State Fault Refusal :=
  .next (bcs path 0x5400 input (input.length == 0) (fun s =>
    success path 0x5400 (le 8 (s.reg.capExtents * 2 ^ 28) ++ le 2 (headOf (fmHead path) s).lds ++ le 1 (Config.fixed 11)) s) s)

/-- GET_LD_ALLOCATIONS (5401h): no LD has a static allocation (R250). -/
def execGetLdAllocations (path : BcsPath) (input : Bytes) (s : State) : Host.Outcome State Fault Refusal :=
  .next (bcs path 0x5401 input (input.length == 2) (fun s =>
    let lds := (headOf (fmHead path) s).lds
    let start := fld 0 1 input
    let n := min (fld 1 1 input) (lds - start)
    checked path 0x5401 [(decide (start < lds), 0)] (fun s =>
      success path 0x5401 (le 1 lds ++ le 1 0 ++ le 1 start ++ le 1 n ++ zeros (16 * n)) s) s) s)

/-- SET_LD_ALLOCATIONS (5402h, R251): a head carries 1 to 16 LDs, those up to the last that the list names; allocations are zero. -/
def execSetLdAllocations (path : BcsPath) (input : Bytes) (s : State) : Host.Outcome State Fault Refusal :=
  .next (bcs path 0x5402 input (decide (4 ≤ input.length) && input.length == 4 + 16 * fld 0 1 input) (fun s =>
    let n := fld 0 1 input
    let start := fld 1 1 input
    checked path 0x5402
      [(decide (0 < n), 0), (decide (start + n ≤ 16) && mhas (fmHead path) s.cxl.heads && !s.cxl.gfam, 1), (zeroAt 2 2 input, 2),
       (allZero (input.drop 4), 4)] (fun s =>
        success path 0x5402 (le 1 n ++ le 1 start ++ zeros 2 ++ zeros (16 * n)) (modHead (fmHead path) (fun h => { h with lds := start + n }) s)) s) s)

/-- Dynamic capacity of the device, and the hosts it can serve (R251, R252, R258). -/
def dcdInfo (s : State) : Bytes :=
  le 1 (if s.cxl.gfam then 255 else min 255 ((s.cxl.heads.map fun h => h.2.lds).sum)) ++ le 1 2 ++ zeros 2 ++ le 2 (Config.fixed 12) ++ zeros 2 ++
    le 2 (Config.fixed 13) ++ le 1 0 ++ zeros 1 ++ le 8 (s.reg.capExtents * 2 ^ 28) ++ le 8 (2 ^ 28) ++ le 8 (2 ^ 28) ++ zeros 48

/-- The first extent of an Initiate Dynamic Capacity Add (5604h) as an Attach Extent payload: its tag names the region and the region
extent (R262). -/
def addAsAttach (input : Bytes) : Bytes :=
  slice 48 2 input ++ slice 50 4 input ++ slice 0 2 input ++ slice 32 8 input

/-- The extents of a host in the DPA range that an Initiate Dynamic Capacity Release (5605h) names first. -/
def releaseTarget (input : Bytes) (s : State) : Option Attachment :=
  acceptedAt (fld 0 2 input) (fld 32 8 input) s

/-- DCD_MANAGEMENT_COMMAND (56xxh, R250): the FM API's dynamic capacity commands, on privileged paths. Initiate Add and Initiate Release
act as Attach Extent and Detach Extent on the extent that they name. -/
def execDcdManagementCommand (path : BcsPath) (opcode : Nat) (input : Bytes) (s : State) : Host.Outcome State Fault Refusal :=
  match opcode with
  | 0x5600 => .next (bcs path 0x5600 input (input.length == 0) (fun s => success path 0x5600 (dcdInfo s) s) s)
  | 0x5601 => .next (bcs path 0x5601 input (input.length == 4) (fun s =>
      let start := fld 3 1 input
      let n := min (fld 2 1 input) (2 - start)
      checked path 0x5601 [(targetExists (fld 0 2 input) s, 0), (decide (start < 2), 3)] (fun s =>
        success path 0x5601 (slice 0 2 input ++ le 1 2 ++ le 1 n ++ ((List.range n).flatMap fun i => dcRegionBytes (start + i)) ++
          le 4 262144 ++ le 4 (262144 - (attachmentsOf (fld 0 2 input) s).length) ++ le 8 (Config.fixed 10)) s) s) s)
  | 0x5603 => .next (bcs path 0x5603 input (input.length == 12) (fun s =>
      let l := attachmentsOf (fld 0 2 input) s
      let start := fld 8 4 input
      let n := (l.drop start).take (min 1638 (fld 4 4 input))
      checked path 0x5603 [(targetExists (fld 0 2 input) s, 0), (zeroAt 2 2 input, 2), (decide (start ≤ l.length), 8)] (fun s =>
        success path 0x5603 (slice 0 2 input ++ zeros 2 ++ slice 8 4 input ++ le 4 n.length ++ le 4 l.length ++ freeBytes 4 s ++ zeros 4 ++
          n.flatMap fun a => extentBytes a s) (advance s)) s) s)
  | 0x5604 => .next (attachExtent path (addAsAttach input) s)
  | 0x5605 =>
    match releaseTarget input s with
    | some a => .next (detachExtent path (le 2 a.region ++ le 4 a.rext ++ le 2 a.target ++ le 1 (fld 2 1 input / 16 % 2)) s)
    | none => .next (bcs path 0x5605 input true (answer path 0x5605 0x000F []) s)
  | _ => .next (unsupported path opcode input s)

end Sys2Proof.Machine
end

