-- ==== Sys2Proof/Machine/Vendor.lean ====
section
/-! DEFINITION. Vendor commands of the event recorder, of wear and spares, and of transform streams (13_management R499 to R502), and the
read of EVT.NEWEST_LO (R486). -/

namespace Sys2Proof.Machine

/-- The newest record index written, or zero (R486). -/
def newestIndex (s : State) : Nat := s.ev.nextIndex - 1

/-- A read of EVT.NEWEST_LO latches bits 63 to 32 (R486). -/
def latchNewest (s : State) : State := { s with ev := { s.ev with newestHi := BitVec.ofNat 32 (newestIndex s / 2 ^ 32) } }

/-- NEWEST_LO_READ (R486). -/
def execNewestLoRead (s : State) : Host.Outcome State Fault Refusal :=
  .next (emit (.regRead (BitVec.ofNat 32 (newestIndex s))) (latchNewest s))

/-- READ_EVENTS (C030h, R499): records of an area from an index on. -/
def execReadEvents (path : BcsPath) (input : Bytes) (s : State) : Host.Outcome State Fault Refusal :=
  .next (bcs path 0xC030 input (input.length == 12) (fun s =>
    let start := fld 4 4 input
    let n := fld 8 4 input
    checked path 0xC030 [(decide (fld 0 1 input < 2), 0), (zeroAt 1 3 input, 1), (decide (1 ≤ n ∧ n ≤ 1023), 8)] (fun s =>
      let area := if fld 0 1 input = 0 then s.ev.first else s.ev.recent
      let l := (area.filter fun e => decide (start ≤ e.1)).take n
      let next := match l.getLast? with
        | some e => e.1 + 1
        | none => start
      success path 0xC030 (le 4 l.length ++ le 4 next ++ zeros 8 ++ l.flatMap fun e => eventBytes e.2) s) s) s)

/-- GET_RECORDER_STATUS (C031h, R499). -/
def execGetRecorderStatus (path : BcsPath) (input : Bytes) (s : State) : Host.Outcome State Fault Refusal :=
  .next (bcs path 0xC031 input (input.length == 0) (fun s =>
    let oldest := match s.ev.recent.head? with
      | some e => e.1
      | none => 0
    success path 0xC031 (le 4 s.ev.first.length ++ le 4 oldest ++ le 4 (newestIndex s) ++ le 4 s.ev.abandonedCount ++ le 8 s.ev.nextIndex) s) s)

/-- Spares at manufacture of a kind (17_startup_service_life R610); the over-provisioning is the one of 04_tiers R152. -/
def sparesMade (kind : Nat) : Nat :=
  match kind with
  | 0 => 12500
  | 1 => 32768
  | 2 => ((List.range 4096).map Config.repairRows).sum
  | 3 => 1
  | 4 => 1
  | 5 => 1
  | 6 => 4
  | _ => 0

/-- GET_SPARES_INVENTORY (C070h, R500). -/
def execGetSparesInventory (path : BcsPath) (input : Bytes) (s : State) : Host.Outcome State Fault Refusal :=
  .next (bcs path 0xC070 input (input.length == 0) (fun s =>
    success path 0xC070 ((List.range 7).flatMap fun k =>
      le 1 k ++ le 1 (spareState k s) ++ zeros 2 ++ le 4 (sparesMade k) ++ le 4 (sparesLeft k s) ++ le 4 (spareMeasure k s)) s) s)

/-- The state of a LUN-block and its retire cause (R500): in a failed LUN, retired, factory bad, or good. -/
def blockState (lun block : Nat) (s : State) : Nat × Nat × Nat :=
  let l := mgetD {} lun s.ti.luns
  let x := stripeAt (stripeKey (lun % 32) block) s
  match mget block l.retired with
  | some r => (r.erases, if l.failed then 3 else 2, r.cause)
  | none => if l.failed then (x.erases, 3, 0) else if x.bad.contains (lun / 32) then (Config.fixed (2 ^ 40 + lun * 2 ^ 22 + block), 1, 0) else (x.erases, 0, 0)

/-- Whether a LUN is on the board. -/
def lunExists (lun : Nat) (s : State) : Bool := decide (lun < 2048 ∧ lun % 32 < s.ident.lunsPerChannel)

/-- GET_ERASE_COUNTS (C071h, R500). -/
def execGetEraseCounts (path : BcsPath) (input : Bytes) (s : State) : Host.Outcome State Fault Refusal :=
  .next (bcs path 0xC071 input (input.length == 10) (fun s =>
    let lun := fld 0 2 input
    let first := fld 2 4 input
    let n := fld 6 4 input
    checked path 0xC071
      [(lunExists lun s, 0), (decide (first < s.ident.blocksPerLun), 2),
       (decide (1 ≤ n ∧ n ≤ 8190 ∧ first + n ≤ s.ident.blocksPerLun), 6)] (fun s =>
        success path 0xC071 ((List.range n).flatMap fun i =>
          let b := blockState lun (first + i) s
          le 4 b.1 ++ le 1 b.2.1 ++ le 1 b.2.2 ++ zeros 2) s) s) s)

/-- STATE of C072h (R500). -/
def stripeCode : StripeState → Nat
  | .free => 0
  | .openData => 1
  | .openReloc => 2
  | .openSystem => 3
  | .closed => 4
  | .retired => 5

/-- GET_STRIPE_STATE (C072h, R500). -/
def execGetStripeState (path : BcsPath) (input : Bytes) (s : State) : Host.Outcome State Fault Refusal :=
  .next (bcs path 0xC072 input (input.length == 10) (fun s =>
    let j := fld 0 2 input
    let first := fld 2 4 input
    let n := fld 6 4 input
    checked path 0xC072
      [(decide (j < s.ident.lunsPerChannel), 0), (decide (first < s.ident.blocksPerLun), 2),
       (decide (1 ≤ n ∧ n ≤ 4095 ∧ first + n ≤ s.ident.blocksPerLun), 6)] (fun s =>
        success path 0xC072 ((List.range n).flatMap fun i =>
          let k := stripeKey j (first + i)
          let x := stripeAt k s
          le 1 (stripeCode x.state) ++ le 1 (goodMembers x).length ++ zeros 2 ++ le 4 (validChunks k s).length ++ le 4 x.erases ++
            le 4 x.reads) s) s) s)

/-- The bytes of a wear-and-spares log entry (17_startup_service_life R612). -/
def wearBytes (e : WearEntry) : Bytes :=
  let b := le 2 e.type ++ le 2 e.unit ++ le 4 e.cycles ++ le 8 e.index ++ le 8 e.beat ++ le 4 e.hours ++ padTo 28 e.data
  b ++ le 4 (crc32cN b) ++ le 4 0x5AA5C33C

/-- READ_WEAR_LOG (C073h, R500, R612): entries from an index on, as many as fit the payload. -/
def execReadWearLog (path : BcsPath) (input : Bytes) (s : State) : Host.Outcome State Fault Refusal :=
  .next (bcs path 0xC073 input (input.length == 8) (fun s =>
    let start := fld 0 4 input
    let l := (s.ev.wear.filter fun e => decide (start ≤ e.index % 2 ^ 32)).take (min 1023 (fld 4 4 input))
    let next := match l.getLast? with
      | some e => e.index + 1
      | none => start
    success path 0xC073 (le 4 l.length ++ le 4 next ++ l.flatMap wearBytes) s) s)

/-- BIND_TRANSFORM_STREAM (C093h, R502): a queue pair is bound to at most one stream; a new binding replaces the old one. -/
def execBindTransformStream (path : BcsPath) (input : Bytes) (s : State) : Host.Outcome State Fault Refusal :=
  .next (bcs path 0xC093 input (input.length == 4) (fun s =>
    let st := fld 0 1 input
    let un := fld 1 1 input == 1
    let qid := fld 2 2 input
    checked path 0xC093
      [(decide (0x40 ≤ st), 0), (decide (fld 1 1 input < 2), 1), ((queueOf qid s).isSome, 2),
       (!un || mget qid s.te.bound == some st, 2)] (fun s =>
        success path 0xC093 []
          (modTe (fun t => { t with bound := if un then mdel qid t.bound else mput qid st t.bound }) s)) s) s)

end Sys2Proof.Machine
end

