-- ==== Sys2Proof/Machine/TrustCmds.lean ====
section
/-! DEFINITION. Identity, attestation, signing windows, protection levels and sanitize (14_trust R513 to R539). -/

namespace Sys2Proof.Machine

/-- GET_IDENTITY_KEY (C041h, R522): the public key, then the certificate. -/
def execGetIdentityKey (path : BcsPath) (input : Bytes) (s : State) : Host.Outcome State Fault Refusal :=
  .next (bcs path 0xC041 input (input.length == 0) (fun s =>
    let key := padTo 68 Config.identityKey
    success path 0xC041 (le 4 68 ++ key ++ le 1 1 ++ le 1 (if s.ident.h96 then 0 else 1) ++ le 2 Config.stepping ++ le 8 Config.serial ++
      le 4 Config.certDate ++ key ++ padTo 68 Config.certIssuer ++ zeros 8 ++ padTo 9893 Config.certSignature) s) s)

/-- The 4,096 bytes of an option copy (15_config_flash_events R553). -/
def optionImage (c : OptionCopy) : Bytes := optionBytes c ++ le 4 (crc32cN (optionBytes c)) ++ le 4 0x6F70A55A

/-- The identity hash of the partner, or zeros. -/
def partnerHash (s : State) : Bytes :=
  padTo 32 (if !isPaired s then [] else if s.pair.position = 0 then s.pair.record.hash1 else s.pair.record.hash0)

/-- The body of an attestation report (R523), formed now. -/
def reportBody (nonce : Bytes) (s : State) : Bytes :=
  let f := fwSlot s.mc.fwActive s
  padTo 256 (le 4 1 ++ le 2 s.ident.controllerId ++ le 1 (if s.ident.h96 then 0 else 1) ++ le 1 (roLevel s) ++ le 8 Config.serial ++
    identityHash ++ padTo 32 nonce ++ le 8 s.tb.beat ++ le 8 s.tb.tod ++ le 4 f.version ++ le 1 f.svn ++ le 1 s.trust.rollback ++
    le 1 s.mc.fwActive ++ le 1 s.trust.sanitize ++ shake256 32 (f.image.take 136) ++ shake256 32 (optionImage s.nor.loaded) ++
    le 8 s.pair.record.pairId ++ partnerHash s ++ le 1 (b2n (decide (s.tb.mode ≠ .locked))))

/-- Sign what waits, in order of arrival, one signature each (R520). -/
def serveSigner : Nat → State → State
  | 0, s => s
  | n + 1, s =>
    match s.trust.signer.waiting with
    | [] => s
    | r :: rest =>
      if !canSign s then s
      else
        let s := modSigner (fun g => { g with waiting := rest }) s
        match r with
        | .report path nonce =>
          let b := reportBody nonce s
          serveSigner n (success path 0xC042 (b ++ padTo 9893 (signature b s)) (useIndex s))
        | .formation body =>
          match s.pair.formation with
          | none => serveSigner n s
          | some f =>
            let s := signAndSend body s
            serveSigner n (if fld 0 1 body = 3 then journalFormation f.kemSecret s else s)

/-- GET_ATTESTATION_REPORT (C042h, R523, R524): it waits for the key unit and for its turn. -/
def execGetAttestationReport (path : BcsPath) (input : Bytes) (s : State) : Host.Outcome State Fault Refusal :=
  .next (bcs path 0xC042 input (input.length == 32) (fun s =>
    let s := modSigner (fun g => { g with waiting := g.waiting ++ [.report path input] }) s
    serveSigner s.trust.signer.waiting.length s) s)

/-- SIGNING_WINDOW_RESERVATION (R519): a window is reserved once its record is complete; what waited for it is signed. -/
def execSigningWindowReservation (window : Nat) (s : State) : Host.Outcome State Fault Refusal :=
  if !windowDue window s || !windowLogFree s then .next s
  else
    let since := s.trust.signer.waitSince
    let s := windowRecord (modSigner (fun g => { g with reserved := window + 1, waitSince := none }) s)
    let s := raise 0x0D04 .info (le 4 window) s
    let s := match since with
      | some b => raise 0x0D05 .warning (le 4 (s.tb.beat - b) ++ le 4 window) s
      | none => s
    .next (serveSigner s.trust.signer.waiting.length s)

/-- KEY_UNIT_READY (R520). -/
def execKeyUnitReady (s : State) : Host.Outcome State Fault Refusal :=
  if !s.mc.serving || s.mc.rom || s.trust.signer.ready then .next s
  else
    let s := modSigner (fun g => { g with ready := true }) s
    .next (serveSigner s.trust.signer.waiting.length s)

/-- ROLLBACK_FUSE_UPDATE (R517): the running image has completed its self-check, and its SVN is above the ROLLBACK count. -/
def execRollbackFuseUpdate (s : State) : Host.Outcome State Fault Refusal :=
  let svn := (fwSlot s.mc.fwActive s).svn
  if !s.mc.serving || s.mc.rom || s.mc.activation.isSome || decide (svn ≤ s.trust.rollback) then .next s
  else .next (raise 0x0D03 .info (le 1 s.trust.rollback ++ le 1 svn) (modTrust (fun t => { t with rollback := svn }) s))

/-- GET_PROTECTION_LEVEL (C050h, R499). -/
def execGetProtectionLevel (path : BcsPath) (input : Bytes) (s : State) : Host.Outcome State Fault Refusal :=
  .next (bcs path 0xC050 input (input.length == 0) (fun s => success path 0xC050 (le 1 (roLevel s) ++ le 1 s.trust.sanitize) s) s)

/-- A lowering begins (R538, step 1): a window-floor record, unless this lowering has written it, and LOWER_PENDING. -/
def startLowering (path : BcsPath) (s : State) : State :=
  let s := if (stored s).lowerPending then s else modSigner (fun g => { g with floors := g.floors ++ [g.reserved] }) s
  writeOption { comingOption s with lowerPending := true } (.lowering (some path)) (modTrust (fun t => { t with lowering := true }) s)

/-- SET_PROTECTION_LEVEL (C051h, R535 to R538). -/
def execSetProtectionLevel (path : BcsPath) (input : Bytes) (s : State) : Host.Outcome State Fault Refusal :=
  .next (bcs path 0xC051 input (input.length == 2) (fun s =>
    let n := fld 0 1 input
    let now := roLevel s
    checked path 0xC051 [(decide (n ≤ 2), 0), (fld 1 1 input == 1, 1)] (fun s =>
      if n = now then success path 0xC051 [] s
      else if now = 2 then answer path 0xC051 0x8003 [] s
      else if n = 2 then
        success path 0xC051 [] (raise 0x0D06 .info (le 1 now ++ le 1 2 ++ le 1 0) (modTrust (fun t => { t with level2 := true }) s))
      else if n = 1 then writeOption { comingOption s with level := 1 } (.levelRaised (some path) now) s
      else if isPaired s || !s.cxl.att.isEmpty || s.trust.run.isSome || s.trust.lowering then answer path 0xC051 0x0006 [] s
      else if 64 ≤ s.trust.signer.floors.length then answer path 0xC051 0x8001 [] s
      else startLowering path s) s) s)

/-- The regions that weigh on the controller (04_tiers R152). -/
def weighing (s : State) : List Nat := (s.reg.table.filter fun e => decide (0 < weight e.1 s)).map (·.1)

/-- Whether a ring or a channel keeps a sanitize back (R531). -/
def captureBusy (s : State) : Bool :=
  s.cap.rings.any (fun r => r.2.conf.isSome) || s.cap.channels.any fun c => decide (1 < c.2.state)

/-- SANITIZE (C052h, R531, R532, step 1). -/
def execSanitize (path : BcsPath) (input : Bytes) (s : State) : Host.Outcome State Fault Refusal :=
  .next (bcs path 0xC052 input (input.length == 2) (fun s =>
    let k := fld 0 1 input
    checked path 0xC052 [(decide (k ≤ 1), 0), (fld 1 1 input == 1, 1)] (fun s =>
      if (weighing s).any (fun r => attachedFrom r 0 s) || captureBusy s || s.trust.run.isSome || s.trust.lowering then
        answer path 0xC052 0x0006 [] s
      else
        inBackground path 0xC052 (fun s =>
          let m : MetaItem := .sanitizeMark 0 k s.tb.beat
          journalMeta [m] [.item m, .event 0x0D07 .info (le 1 0 ++ le 1 k)] false
            (modTrust (fun t => { t with run := some { kind := k, step := 1, path := some path } }) s)) s) s) s)

/-- Change the running sanitize. -/
def modRun (f : SanitizeRun → SanitizeRun) (s : State) : State := modTrust (fun t => { t with run := t.run.map f }) s

/-- A new SALT (R532, step 3): K_pair is wrapped again under the new SRK, and the old copies are erased. -/
def newSalt (s : State) : State :=
  let s := advance (modTrust (fun t => { t with salt := freeBytes 32 s, saltChanged := true }) s)
  let s := modTrust (fun t => { t with keys := t.keys.filter fun k => k.1 == 4096 || k.2.scope == 0 }) s
  let old := s.nor.saltSide
  let s := modNor (fun n => { n with saltSide := 1 - old }) s
  let s := norSubmit (.erase 5 (some (2 * old + 1))) (norSubmit (.erase 5 (some (2 * old))) s)
  match mget 4096 s.trust.keys with
  | some k =>
    let i : MetaItem := .keySlot 4096 1 3 0 (keyWrap (srk s) k.key)
    journalMeta [i] [.item i] false s
  | none => s

/-- Deletion of the regions that weigh on the controller (R532, step 2): the chair deletes them here, or is asked to. -/
def sanitizeDeletes (s : State) : State :=
  let l := (weighing s).filter fun r => !mhas r s.reg.changes
  if !isPaired s || s.pair.chairHere then
    let s := l.foldl (fun s r =>
      match regionOf r s with
      | some d =>
        let s := startChange .sideband 0xC011 r d .delete s
        modReg (fun g => { g with changes := mmod r (fun c => { c with path := none }) g.changes }) s
      | none => s) s
    modRun (fun r => { r with deleted := r.deleted + l.length }) s
  else
    match l with
    | [] => s
    | r :: _ =>
      if s.tb.beat % 1024 = 0 then
        sendMsg { vc := 2, opcode := 0x21, flags := 0, mtag := nextTag s, operand := 0xC011, body := le 2 r } (bumpTag s)
      else s

/-- The bureau designation is cleared (R532, step 2). -/
def clearBureau (s : State) : State :=
  if s.cxl.bureau = 0 ∧ !mhas 0x0603 (comingOption s).params then s
  else
    let c := comingOption s
    writeOption { c with params := mdel 0x0603 c.params } (.answer none 0xC052) (modCxl (fun c => { c with bureau := 0 }) s)

/-- Every stripe of the cabinet is erased and FREE (R532, step 6). -/
def eraseCabinet (s : State) : State :=
  modTi (fun t => { t with
    cab := [], chunkMeta := []
    stripes := t.stripes.map fun e =>
      (e.1, if e.2.state = .retired then e.2
        else { e.2 with state := .free, erases := e.2.erases + 1, reads := 0, rows := [], relocations := [] }) }) s

/-- Start a map checkpoint that the sanitize waits for. -/
def sanitizeCkpt (s : State) : State :=
  startCkpt (modRun (fun r => { r with ckpt := s.ti.ckptNumber + 1 }) s)

/-- Whether that checkpoint is complete. -/
def ckptReached (r : SanitizeRun) (s : State) : Bool := decide (r.ckpt ≤ s.ti.ckptNumber) && s.ti.ckpt.isNone

/-- The next step of a running sanitize (R532), taken at a beat boundary when the step before is done. -/
def sanitizeBeat (s : State) : State :=
  match s.trust.run with
  | none => s
  | some r =>
    match r.step with
    | 1 => if s.trust.sanitize = 1 then clearBureau (modRun (fun r => { r with step := 2 }) s) else s
    | 2 =>
      if (weighing s).isEmpty then
        let s := if s.trust.saltChanged then s else newSalt s
        sanitizeCkpt (modRun (fun r => { r with step := 4, fromSeq := s.pu.nextSeq }) s)
      else sanitizeDeletes s
    | 4 =>
      if ckptReached r s then
        let s := modPu (fun p => { p with chest := p.chest.filter fun x => decide (r.fromSeq ≤ x.seq) || decide (p.reclaimSeq ≤ x.seq) }) s
        let s := modCap (fun c => { c with staging := [], stagingPoison := [], chunks := [] })
          (modTi (fun t => { t with shelf := [], shelfPoison := [], segs := [], fills := [], slotWaiters := [] }) s)
        if r.kind = 1 then sanitizeCkpt (modRun (fun r => { r with step := 6 }) (eraseCabinet s))
        else modRun (fun r => { r with step := 7 }) s
      else s
    | 6 => if ckptReached r s then modRun (fun r => { r with step := 7 }) s else s
    | 7 =>
      let m : MetaItem := .sanitizeMark 1 r.kind s.tb.beat
      journalMeta [m]
        ([.item m, .event 0x0D07 .info (le 1 1 ++ le 1 r.kind ++ zeros 2 ++ le 4 r.deleted)] ++ (r.path.toList.map fun p => .answer p 0xC052 0 []))
        false (modTrust (fun t => { t with run := none }) s)
    | _ => s

end Sys2Proof.Machine
end

