-- ==== Sys2Proof/Machine/Firmware.lean ====
section
/-! DEFINITION. Firmware images: their verification, transfer and activation (14_trust R514 to R516, 13_management R506 to R508). -/

namespace Sys2Proof.Machine

/-- The first check of R515 that an image fails, with its cause code. `mark` says whether the valid mark is checked. -/
def imageFault (mark : Bool) (x : FwSlot) (s : State) : Option Nat :=
  let b := x.image
  let body := b.drop 4096
  let len := fld 16 4 b
  if mark && !x.valid then some 0
  else if !(fld 0 4 b == 0x37424B53 && fld 4 4 b == 1 && len % 4096 == 0 && decide (4096 ≤ len ∧ len ≤ 3584 * 1024) &&
      zeroAt 21 11 b && zeroAt 132 4 b) then some 1
  else if !bitOf (if s.ident.h96 then 0 else 1) (fld 20 1 b) then some 2
  else if shake256 32 (slice 64 68 b) ≠ Config.rootHash then some 3
  else if !Config.verify (slice 64 68 b) (b.take 136) (slice 136 2820 b) then some 4
  else if fld 12 4 b < s.trust.rollback then some 5
  else if shake256 32 (body.take len) ≠ slice 32 32 b then some 6
  else none

/-- Events 0x0D01 and 0x0D02 of a verification (14_trust R515, R540): `place` is 0 at boot, 1 at Transfer FW End, 2 at activation. -/
def verifyEvent (slot place : Nat) (fault : Option Nat) (s : State) : State :=
  let b := (fwSlot slot s).image
  match fault with
  | none => raise 0x0D01 .info (le 1 slot ++ le 1 place ++ zeros 2 ++ le 4 (fld 8 4 b) ++ le 1 (fld 12 4 b)) s
  | some c => raise 0x0D02 .error (le 1 slot ++ le 1 place ++ le 1 c ++ zeros 1 ++ le 4 (if c = 1 then 0 else fld 8 4 b)) s

/-- The version that a slot reports: zero for an empty one (13_management R504). -/
def slotVersion (x : FwSlot) : Nat := if x.valid then x.version else 0

/-- Whether an image runs from a slot. -/
def slotRuns (slot : Nat) (s : State) : Bool := !s.mc.rom && s.mc.fwActive == slot

/-- GET_FW_INFO (0200h, R506): two slots, the active one, and the version of each. -/
def execGetFwInfo (path : BcsPath) (input : Bytes) (s : State) : Host.Outcome State Fault Refusal :=
  .next (bcs path 0x0200 input (input.length == 0) (fun s =>
    success path 0x0200 (le 1 2 ++ le 1 ((if s.mc.rom then 0 else s.mc.fwActive + 1) + 8 * (s.mc.fwNext + 1)) ++ le 1 1 ++ zeros 13 ++
      padTo 16 (le 4 (slotVersion s.mc.fwA)) ++ padTo 16 (le 4 (slotVersion s.mc.fwB)) ++ zeros 32) s) s)

/-- The first block of a firmware slot (15_config_flash_events R541). -/
def slotBlock (slot : Nat) : Nat := 64 * (slot + 1)

/-- A part of an image is taken (R506, 15_config_flash_events R559): each block is erased before its first program. -/
def takePart (slot off : Nat) (b : Bytes) (s : State) : State :=
  let blocks := (List.range 64).filter fun k => decide (off ≤ k * 65536 ∧ k * 65536 < off + b.length)
  let s := blocks.foldl (fun s k => if k = 63 then s else norSubmit (.erase (slotBlock slot + k) none) s) s
  let s := if b.isEmpty then s else norSubmit (.fwProgram slot off) s
  modSlot slot (fun x => let i := x.image.take off ++ b; { x with image := i, version := fld 8 4 i, svn := fld 12 4 i })
    (modMc (fun m => { m with transfer := m.transfer.map fun t => { t with next := off + b.length, lastBeat := s.tb.beat } }) s)

/-- A transfer starts (R506): the slot's last block is erased first, so that it shows no valid mark (15_config_flash_events R559). -/
def startTransfer (slot : Nat) (s : State) : State :=
  norSubmit (.erase (slotBlock slot + 63) none)
    (modSlot slot (fun _ => {}) (modMc (fun m => { m with transfer := some { slot := slot, next := 0, lastBeat := s.tb.beat } }) s))

/-- The End action (R507): the whole image is verified, and only then is the valid mark written. -/
def endTransfer (path : BcsPath) (slot : Nat) (s : State) : State :=
  let fault := imageFault false (fwSlot slot s) s
  let v := (fwSlot slot s).version
  let s := verifyEvent slot 1 fault (modMc (fun m => { m with transfer := none }) s)
  let s := raise 0x0C05 .info (le 1 slot ++ le 1 (b2n fault.isSome) ++ zeros 2 ++ le 4 v) s
  if fault.isSome then finishBg path 0x0201 0x000A 0xFFFF [] s
  else finishBg path 0x0201 0 0xFFFF [] (norSubmit (.fwProgram slot 0x003FFFC0) (modSlot slot (fun x => { x with valid := true }) s))

/-- A part that continues a transfer: Continue and End, and Full after its start (R506). -/
def transferPart (path : BcsPath) (off : Nat) (b : Bytes) (last : Bool) (s : State) : State :=
  match s.mc.transfer with
  | none => finishBg path 0x0201 0x0009 0xFFFF [] s
  | some t =>
    if t.next ≠ off then finishBg path 0x0201 0x0009 0xFFFF [] s
    else
      let s := takePart t.slot off b s
      if last then endTransfer path t.slot s else finishBg path 0x0201 0 0xFFFF [] s

/-- TRANSFER_FW (0201h, R506, R507): action 0 full, 1 initiate, 2 continue, 3 end, 4 abort; slots count from 1; the offset is in units of
128 bytes. The payload is PRESUMED, as in CXL 3.1. -/
def execTransferFw (path : BcsPath) (input : Bytes) (s : State) : Host.Outcome State Fault Refusal :=
  .next (bcs path 0x0201 input (decide (128 ≤ input.length)) (fun s =>
    let act := fld 0 1 input
    let slot := fld 1 1 input - 1
    let off := fld 4 4 input * 128
    let b := input.drop 128
    let starts := act == 0 || act == 1
    checked path 0x0201
      [(decide (act < 5), 0), (zeroAt 2 2 input, 2), (decide (off + b.length ≤ 4096 + 3584 * 1024) && (!starts || off == 0), 4),
       (zeroAt 8 120 input, 8)] (fun s =>
        if starts && (fld 1 1 input == 0 || decide (2 < fld 1 1 input) || slotRuns slot s) then answer path 0x0201 0x000B [] s
        else if starts && s.mc.transfer.isSome then answer path 0x0201 0x0008 [] s
        else
          inBackground path 0x0201 (fun s =>
            if act = 4 then
              if s.mc.transfer.isSome then finishBg path 0x0201 0 0xFFFF [] (dropTransfer 2 s) else finishBg path 0x0201 0x0009 0xFFFF [] s
            else
              transferPart path off b (act == 0 || act == 3) (if starts then startTransfer slot s else s)) s) s) s)

/-- ACTIVATE_FW (0202h, R508, 14_trust R516, 17_startup_service_life R608): action 0 online, 1 at the next cold reset; slots count from 1. -/
def execActivateFw (path : BcsPath) (input : Bytes) (s : State) : Host.Outcome State Fault Refusal :=
  .next (bcs path 0x0202 input (input.length == 2) (fun s =>
    let act := fld 0 1 input
    let n := fld 1 1 input
    checked path 0x0202 [(decide (act < 2), 0)] (fun s =>
      if n = 0 ∨ 2 < n ∨ !(fwSlot (n - 1) s).valid then answer path 0x0202 0x000B [] s
      else if act = 0 ∧ isPaired s ∧ s.pair.chairHere ∧ linkUp s then answer path 0x0202 0x0006 [] s
      else
        inBackground path 0x0202 (fun s =>
          let slot := n - 1
          if act = 1 then writeOption { comingOption s with nextSlot := slot } (.nextSlot (some path) slot) s
          else
            let fault := imageFault true (fwSlot slot s) s
            let s := verifyEvent slot 2 fault s
            if fault.isSome then finishBg path 0x0202 0x000A 0xFFFF [] s
            else
              startRestart 4 false
                (modMc (fun m => { m with activation := some { slot := slot, previous := m.fwActive, beat := s.tb.beat } }) s)) s) s) s)

end Sys2Proof.Machine
end

