-- ==== Sys2Proof/Machine/Power.lean ====
section
/-! DEFINITION. Power: what a drain gates and what loss of VCORE clears, the rail sequencer, power-fail sensing, the watchdog window and the
thermal protection (16_power R569 to R582, R591 to R596, 03_persistence R94 to R98, 17_startup_service_life R598 to R601,
18_package_electrical R627 to R631). -/

namespace Sys2Proof.Machine

/-- Change the sequencer. -/
def modSeq (f : Seq → Seq) (s : State) : State := { s with seq := f s.seq }

/-- Change the power block. -/
def modPwr (f : Power → Power) (s : State) : State := { s with pwr := f s.pwr }

/-- Whether VCORE is at power-good: the core runs, and with it the beat. -/
def vcoreUp (s : State) : Bool := s.seq.debounced.getLsbD 1

/-- An event of the supervisor (16_power R597). -/
def raiseSeq (code : Nat) (sev : Severity) (data : Bytes) (s : State) : State := raiseSup (vcoreUp s) code sev data s

/-! ### What is lost -/

/-- A head with nothing but its pin and its LDs. -/
def bareHead (h : Head) : Head := { perstLow := h.perstLow, lds := h.lds }

/-- The pair as the journal keeps it (06_pair R245), with what the operator set. -/
def barePair (p : Pair) : Pair :=
  { record := p.record, position := p.position, chairHere := p.chairHere, chairEpoch := p.chairEpoch, leaseEpoch := p.leaseEpoch
    witness := p.witness, msn := p.msn, partnerCap := p.partnerCap, stopped := p.record.pairId != 0
    mirror := p.mirror.map fun e => (e.1, { e.2 with segments := [], bitmapValid := false }), partnerMirror := p.partnerMirror }

/-- What a reset that removes VCORE clears outside the persistence unit, the tiers and the beat (R600): queue pairs, bindings, memory keys,
slot tables, rings, channels, the ledger, and registers. At a drain these units are gated, and never come back before the reset
(03_persistence R95). -/
def clearUnits (s : State) : State :=
  let bad := s.mc.transfer.map (·.slot)
  let s := resetSigner { s with
    slot := { copyA := defaultTable }
    pair := barePair s.pair
    cxl := { s.cxl with heads := s.cxl.heads.map (fun e => (e.1, bareHead e.2)), att := [], jobs := [], unmapped := [] }
    te := { window := s.te.window, nonce := match s.te.window with
      | some w => (w + 1) * 2 ^ 32
      | none => 0 }
    gqp := {}, net := {}, cap := {}
    ecc := { repairs := s.ecc.repairs, rowsAwaiting := s.ecc.rowsAwaiting, bankExhausted := s.ecc.bankExhausted }
    mc := { s.mc with
      active := 0, failed0 := false, failed1 := false, spareUsable := true, rom := false, serving := false, restarts := 0, restart := none
      lastExpiry := none, mail := [], bg := [], interrupted := [], transfer := none, activation := none, fwRunning := 0 }
    trust := { s.trust with memKeys := [], memTags := [], revocations := [], run := none, jtag := 0, jtagBypass := true } }
  match bad with
  | some n => modSlot n (fun x => { x with valid := false }) s
  | none => s

/-- The stripes with a program under way when power was lost: nothing further is programmed there (04_tiers R141). -/
def closeInterrupted (s : State) : State :=
  s.ti.inFlight.foldl (fun s w => modStripe (addrStripe w.addr s) (fun x =>
    if x.state = .openData ∨ x.state = .openReloc then { x with state := .closed, closedOrder := s.ti.stripeClock } else x) s) s

/-- Loss of VCORE (R600): the drawer, the shelf and the beat are gone; the chest, the cabinet and the configuration flash stay. -/
def loseVcore (s : State) : State :=
  let s := closeInterrupted (clearUnits s)
  let p := s.pu
  let t := s.ti
  { s with
    tb := {}
    params := [], paramsDue := []
    start := {}
    mc := { s.mc with proxy := { s.mc.proxy with state := if s.mc.proxy.state = 1 then 0 else s.mc.proxy.state } }
    pwr := { padHeld := s.pwr.padHeld }
    ev := { s.ev with
      status := 0, setThisBeat := 0, irq := [], newestHi := 0, lost := 0, lostUnreported := 0, queue := [], running := false, reports := [] }
    reg := { s.reg with changes := [], pendingRo := [], pendingMasks := [], refused := [] }
    pu :=
      { banks := p.banks, nextAck := p.nextAck, nextAccept := p.nextAccept, nextUnit := p.nextUnit, nextMeta := p.nextMeta
        chest := p.chest, nextSeq := (p.chest.getLast?.map (·.seq + 1)).getD p.nextSeq, writePos := p.writePos
        reclaimLine := p.reclaimLine, reclaimSeq := p.reclaimSeq, anchorA := p.anchorA, anchorB := p.anchorB
        rowsRetired := p.rowsRetired, rowRemaps := p.rowRemaps, spareRows := p.spareRows, ingestLimit := p.ingestLimit
        writesRefused := p.writesRefused, bankLost := p.bankLost }
    ti :=
      { slotsTotal := t.slotsTotal, partMap := t.partMap, partReplay := t.partReplay, partCapture := t.partCapture, mappedOut := t.mappedOut
        opBand := t.opBand, cab := t.cab, chunkMeta := t.chunkMeta, stripes := t.stripes, stripeClock := t.stripeClock, luns := t.luns
        ckptNumber := t.ckptNumber, ckptStart := t.ckptStart, ckptMap := t.ckptMap, ckptMeta := t.ckptMeta, rotate := t.rotate
        opN := t.opN, opG := t.opG, opD := t.opD, opValue := t.opValue } }

/-- Whether an operation is an erase. -/
def isErase : NorOp → Bool
  | .erase .. => true
  | _ => false

/-- Operations of the configuration flash that loss of VCORE ends: a running erase is repeated by the ROM (15_config_flash_events R547). -/
def norLost (s : State) : State :=
  modNor (fun n => { n with
    waiting := n.waiting.filter isErase, running := n.running.filter isErase, suspended := false, suspends := 0, hoursUp := 0 }) s

/-! ### The drain -/

/-- Whether an admitted unit is kept at a drain: an accepted copy of the mirror holder (06_pair R213). -/
def keptAtDrain (u : WUnit) : Bool := isAccepted u

/-- DRAIN_START (03_persistence R95): unacknowledged writes are abandoned; what is HELD, and the accepted copies, are sealed as final records;
every other unit is gated, and the chest's banks are on (16_power R586). A drain that runs already goes on (R94). -/
def startDrain (trigger : Nat) (s : State) : State :=
  if s.pu.drain.isSome then s
  else
    let s := raiseSeq 0x0207 .info (le 1 trigger ++ zeros 7 ++ le 8 s.tb.beat) s
    let s := (s.pu.units.filter fun u => !keptAtDrain u).foldl (fun s u => abandonUnit u s) s
    let s := sealGroup (sealUnknown (closeSet s))
    let first := match s.pu.queue with
      | [] => s.pu.nextSeq
      | r :: _ => r.seq
    let s := modPu (fun p => { p with
      drain := some { t0 := s.tb.beat, trigger := trigger, firstSeq := first }, ctlWaiting := [], metaWaits := [], fences := [] }) s
    clearUnits (modPwr (fun p => { p with units := p.units.map fun e =>
      if 0x600 ≤ e.1 ∧ e.1 < 0x610 then (e.1, { e.2 with state := 0, toEnter := none, entry := none }) else e }) s)

/-- Start the drain of a power-down while the sequencer is UP: its trigger, the power-down's cause, the reset kind, and whether a power-up
follows. -/
def drainDown (trigger : Nat) (cause : DownCause) (kind : Nat) (again : Bool) (s : State) : State :=
  if s.seq.state ≠ .up ∨ s.pu.drain.isSome then s
  else startDrain trigger (modSeq (fun q => { q with downCause := cause, resetKind := kind, riseAgain := again }) s)

/-! ### The sequence -/

/-- The pad groups that a rail's removal latches (16_power R589): the HBM interfaces with VHBM_Q, the ONFI groups with VNAND_Q. -/
def padsOf (rail : Nat) : BitVec 10 := if rail = 7 then 0b1100000000 else if rail = 10 then 0b0011111111 else 0

/-- Drive an enable low (R574); with rail 1, VCORE is lost. -/
def dropRail (n : Nat) (s : State) : State :=
  let beat := s.tb.beat
  let s := emit (.rail n false) (modPwr (fun p => { p with padHeld := p.padHeld ||| padsOf n })
    (modSeq (fun q => { q with en := q.en &&& ~~~ BitVec.ofNat 12 (2 ^ n), step := n }) s))
  if n = 1 then
    let s := norLost (loseVcore s)
    modSeq (fun q => { q with debounced := q.debounced &&& ~~~ 2, standbyBeat := if q.standby = .entering then beat else q.standbyBeat }) s
  else s

/-- Drive an enable high, at the start of a step (R572). -/
def raiseRail (n : Nat) (s : State) : State :=
  emit (.rail n true) (modSeq (fun q => { q with en := q.en ||| BitVec.ofNat 12 (2 ^ n), step := n, gap := false }) s)

/-- The highest rail below `n` that is enabled. -/
def enabledBelow (en : BitVec 12) : Nat → Option Nat
  | 0 => none
  | n + 1 => if en.getLsbD n then some n else enabledBelow en n

/-- LOCKOUT (R573, R582): counted, logged and reported. -/
def lockOut (thermal : Bool) (s : State) : State :=
  let s := modSeq (fun q => { q with state := .lockout, lockouts := q.lockouts + 1 }) s
  let s := wearLog 0x0009 (le 4 s.seq.lockouts) s
  raiseSeq 0x0F02 .error (le 1 (b2n thermal) ++ le 1 (if s.seq.failRail = 15 then 0xFF else s.seq.failRail)) s

/-- A sideband transaction is NACKed (13_management R487, R490): flagged and counted. -/
def nackCode (s : State) : State :=
  emit .sidebandNack { s with mc := { s.mc with nack := true, nacks := satAdd 0xFFFFFFFF s.mc.nacks 1 } }

/-- A wake from Device Standby (R592): a power-up follows. -/
def wake (source : Nat) (s : State) : State :=
  let s := if source = 2 then { s with mc := { s.mc with woke := true } } else s
  modSeq (fun q => { q with standby := .none, wakePending := none, wokenBy := some source, wanted := true }) s

/-- The end of a power-down (R574): the state that its cause requires. -/
def downDone (s : State) : State :=
  let q := s.seq
  match q.downCause with
  | .retry =>
    let s := raiseSeq 0x0F01 .warning (le 1 q.attempt ++ le 1 q.failRail ++ zeros 2 ++ le 4 q.failMicros ++ le 4 q.failLow) s
    if q.attempt = 4 then lockOut false s else modSeq (fun q => { q with state := .retryWait }) s
  | .thermal => lockOut true s
  | .standby =>
    let s := raiseSeq 0x0F08 .info (zeros 8 ++ le 8 q.standbyBeat) (modSeq (fun q => { q with state := .off, standby := .entered }) s)
    match q.wakePending with
    | some k => wake k s
    | none => s
  | .powerFail => modSeq (fun q => { q with state := .off, wanted := q.inputOk, waitInput := !q.inputOk }) s
  | .commanded => modSeq (fun q => { q with state := .off, wanted := q.riseAgain, riseAgain := false }) s

/-- Go on with the power-down below rail `n` (R574). -/
def downFrom (n : Nat) (s : State) : State :=
  match enabledBelow s.seq.en n with
  | some k => dropRail k s
  | none => downDone s

/-- Begin a power-down from the highest enabled rail (R574). -/
def startDown (s : State) : State := downFrom 12 (modSeq (fun q => { q with state := .falling, gap := false }) s)

/-- Every rail with its enable low and no power left on it. -/
def railsGone (q : Seq) : Seq := { q with en := 0, pg := 0, debounced := 0, step := 0, gap := false }

/-- Load the option area (15_config_flash_events R555, 14_trust R535): the fields that the start-up takes from it. Without a complete copy
the defaults hold, and level 1; the number of copies that event 0x0E01 gives is left open. -/
def loadOptions (s : State) : State :=
  let c := match newestOption s.nor with
    | some x => x.2
    | none => { level := 1 }
  let s := if (newestOption s.nor).isSome then s else advance (raiseSeq 0x0E01 .error (freeBytes 1 s) s)
  { s with
    nor := { s.nor with loaded := c }
    trust := { s.trust with level := c.level, lowering := c.lowerPending }
    mc := { s.mc with fwNext := c.nextSlot, sbAddr := c.smbusAddr }
    ident := { s.ident with controllerId := c.ctrlId } }

/-- Whether a power-up may begin (R571, R599, R627). -/
def mayRise (s : State) : Bool :=
  let q := s.seq
  q.vstby && q.clk25 && q.state == .off && q.wanted && !q.resetLow && !q.waitInput && q.standby == .none

/-- POWER_UP_START (R571, R572, R555): the option area is loaded, and step 0 begins. -/
def powerUp (s : State) : State :=
  if mayRise s then
    raiseRail 0 (modSeq (fun q => { q with state := .rising, wanted := false, debounced := 0, pg := 0 }) (loadOptions s))
  else s

/-- POWER_UP_START (R571). -/
def execPowerUpStart (s : State) : Host.Outcome State Fault Refusal := .next (powerUp s)

/-- RAIL_DEBOUNCE_COMPLETE (R572, 02_beat R32): the gap follows, and after step 11 the state UP. A cold reset that waited starts then
(17_startup_service_life R599). -/
def execRailDebounceComplete (rail : Nat) (s : State) : Host.Outcome State Fault Refusal :=
  if s.seq.state ≠ .rising ∨ s.seq.step ≠ rail ∨ s.seq.gap ∨ 12 ≤ rail then .next s
  else
    let b := BitVec.ofNat 12 (2 ^ rail)
    let s := modSeq (fun q => { q with pg := q.pg ||| b, debounced := q.debounced ||| b, gap := decide (rail < 11) }) s
    if rail < 11 then .next s
    else
      let s := modSeq (fun q => { q with state := .up, attempt := 1 }) s
      .next (if s.seq.coldPending then drainDown 2 .commanded 2 true (modSeq (fun q => { q with coldPending := false }) s) else s)

/-- STEP_GAP_END (R572): the next step starts. -/
def execStepGapEnd (s : State) : Host.Outcome State Fault Refusal :=
  .next (if s.seq.state = .rising && s.seq.gap && decide (s.seq.step < 11) then raiseRail (s.seq.step + 1) s else s)

/-- A step has failed (R573): its rail goes low, then the rails enabled before it. -/
def failStep (micros low : Nat) (s : State) : State :=
  let n := s.seq.step
  let s := modSeq (fun q => { q with
    state := .falling, downCause := .retry, failRail := n, failMicros := micros, failLow := low, gap := false, coldPending := false }) s
  if s.seq.en.getLsbD n then dropRail n s else downFrom n s

/-- STEP_TIMEOUT (R573). -/
def execStepTimeout (microseconds lowSamples : Nat) (s : State) : Host.Outcome State Fault Refusal :=
  .next (if s.seq.state = .rising && !s.seq.gap then failStep microseconds lowSamples s else s)

/-- RETRY_WAIT_END (R573): the next attempt begins. -/
def execRetryWaitEnd (s : State) : Host.Outcome State Fault Refusal :=
  if s.seq.state ≠ .retryWait then .next s
  else .next (powerUp (modSeq (fun q => { q with state := .off, attempt := q.attempt + 1, wanted := true }) s))

/-- A rail that fails on the way down (R575). -/
def downFailed (rail how : Nat) (s : State) : State :=
  raiseSeq 0x0F04 .error (le 1 rail ++ le 1 how ++ le 1 s.seq.downCause.code)
    (modSeq (fun q => { q with downFail := q.downFail ||| BitVec.ofNat 12 (2 ^ rail) }) s)

/-- RAIL_LOW (R574, R575): 16 low samples end a down step. A rail that falls before its enable is removed has failed, unless a power-fail
trigger started the power-down. While a drain runs after power-good loss, the collapse of a rail that the drain needs ends it (R576). -/
def execRailLow (rail : Nat) (s : State) : Host.Outcome State Fault Refusal :=
  if 12 ≤ rail then .next s
  else
    let b := BitVec.ofNat 12 (2 ^ rail)
    let q := s.seq
    if q.state = .up ∧ q.pgLost ∧ s.pu.drain.isSome ∧ rail ≤ 4 then
      .next (startDown (modSeq (fun q => { q with pg := q.pg &&& ~~~ b }) s))
    else if q.state ≠ .falling then .next s
    else
      let s := modSeq (fun q => { q with pg := q.pg &&& ~~~ b }) s
      if q.en.getLsbD rail then .next (if q.downCause = .powerFail then s else downFailed rail 1 s)
      else if rail = q.step then .next (downFrom rail (modSeq (fun q => { q with debounced := q.debounced &&& ~~~ b }) s))
      else .next s

/-- FALL_TIMEOUT (R574, R575): the rail is still high 10 ms after its enable fell. -/
def execFallTimeout (rail : Nat) (s : State) : Host.Outcome State Fault Refusal :=
  let q := s.seq
  if q.state = .falling ∧ rail = q.step ∧ !q.en.getLsbD rail ∧ rail < 12 then
    .next (downFrom rail (modSeq (fun q => { q with debounced := q.debounced &&& ~~~ BitVec.ofNat 12 (2 ^ rail) }) (downFailed rail 0 s)))
  else .next s

/-- POWER_GOOD_LOSS (R576): a drain as at a VIN_SENSE trip in UP; in RISING the step fails. The time of event 0x0F01 is left open when a
step fails so. -/
def execPowerGoodLoss (rail : Nat) (s : State) : Host.Outcome State Fault Refusal :=
  let q := s.seq
  if 12 ≤ rail ∨ !q.debounced.getLsbD rail ∨ (q.state ≠ .up ∧ q.state ≠ .rising) then .next s
  else
    let b := BitVec.ofNat 12 (2 ^ rail)
    let s := modSeq (fun q => { q with pgLost := true, pg := q.pg &&& ~~~ b }) s
    let s := raiseSeq 0x0F05 .error (le 1 rail ++ zeros 7 ++ le 8 s.tb.beat) s
    if q.state = .up then .next (drainDown 1 .powerFail 1 false s)
    else .next (failStep ((drawn s).toNat % 2 ^ 32) ((drawn s).toNat / 2 ^ 32 % 2 ^ 32) (advance s))

/-! ### Triggers -/

/-- PFAIL_N_ASSERT (R577, R579): ignored unless the sequencer is UP. -/
def execPfailNAssert (s : State) : Host.Outcome State Fault Refusal :=
  .next (drainDown 0 .powerFail 1 false (modSeq (fun q => { q with inputOk := false }) s))

/-- VIN_SENSE_TRIP (R577). -/
def execVinSenseTrip (s : State) : Host.Outcome State Fault Refusal :=
  .next (drainDown 1 .powerFail 1 false (modSeq (fun q => { q with inputOk := false }) s))

/-- SYS_REFCLK_LOSS (18_package_electrical R628): as a VIN_SENSE trip. -/
def execSysRefclkLoss (s : State) : Host.Outcome State Fault Refusal := .next (drainDown 1 .powerFail 1 false s)

/-- INPUT_RECOVERED (R571, R579): 10 ms with neither trigger; a power-up that waited for it may begin. -/
def execInputRecovered (s : State) : Host.Outcome State Fault Refusal :=
  .next (modSeq (fun q => { q with inputOk := true, wanted := q.wanted || q.waitInput, waitInput := false }) s)

/-- DRAIN_COMPLETE (03_persistence R95): every record is written; the DRAIN record follows, event 0x0208, and the power-down. The lines
written count the DRAIN record's own. -/
def execDrainComplete (s : State) : Host.Outcome State Fault Refusal :=
  match s.pu.drain with
  | none => .next s
  | some d =>
    if !s.pu.queue.isEmpty || s.seq.state != .up then .next s
    else
      let lines := d.lines + 3
      let p := sealRec s.tb.beat { kind := .drain d.t0 d.trigger lines d.firstSeq } s.pu
      let p := (List.range p.queue.length).foldl (fun p _ => writeRec p) p
      let s := { s with pu := { p with drain := some { d with done := true } } }
      let s := raiseSeq 0x0208 .info (le 4 lines ++ le 4 (s.tb.beat - d.t0) ++ le 8 (s.pu.nextSeq - 1)) s
      .next (startDown s)

/-- RESET_N_ASSERT (17_startup_service_life R599, 18_package_electrical R630, R631). -/
def execResetNAssert (s : State) : Host.Outcome State Fault Refusal :=
  let s := modSeq (fun q => { q with resetLow := true, coldPending := q.coldPending || q.state == .rising }) s
  .next (drainDown 2 .commanded 2 true s)

/-- RESET_N_DEASSERT (R592, R599): a power-up that waited may begin; in Device Standby it is a wake. -/
def execResetNDeassert (s : State) : Host.Outcome State Fault Refusal :=
  let low := s.seq.resetLow
  let s := modSeq (fun q => { q with resetLow := false }) s
  .next (if low && s.seq.standby == .entered then wake 3 s else s)

/-- WAKE_N_LOW (R592, R594): an edge in the last four cycles before the detector changes is lost; a level that is still held is honoured
once entry completes. -/
def execWakeNLow (edge inLostWindow : Bool) (s : State) : Host.Outcome State Fault Refusal :=
  let source := if edge then 0 else 1
  match s.seq.standby with
  | .none => .next s
  | .entered => .next (wake source s)
  | .entering =>
    if edge && inLostWindow then .next s
    else .next (modSeq (fun q => { q with wakePending := some (q.wakePending.getD source) }) s)

/-- SMBUS_ADDRESS_MATCH (R592 to R594): it wakes the controller from Device Standby, aborts an entry before its step 2, and is not
acknowledged in the last four cycles of the entry. -/
def execSmbusAddressMatch (beforeStep2 inLostWindow : Bool) (s : State) : Host.Outcome State Fault Refusal :=
  match s.seq.standby with
  | .none => .next s
  | .entered => .next (wake 2 s)
  | .entering =>
    if beforeStep2 && s.pu.drain.isNone && s.seq.state == .up then .next (modSeq (fun q => { q with standby := .none, wakePending := none }) s)
    else if inLostWindow then .next (nackCode s)
    else .next (modSeq (fun q => { q with wakePending := some (q.wakePending.getD 2) }) s)

/-- Device Standby step 2 (R591): the drain follows the answer of C025h, at the next beat boundary. -/
def standbyBeat (s : State) : State :=
  if s.seq.standby = .entering then drainDown 2 .standby 3 false s else s

/-! ### VSTBY and the supervisor's clock -/

/-- The lockouts since manufacture (R596, R614): from the newest LOCKOUT or BLOCK_HEAD entry of the wear-and-spares log. -/
def loggedLockouts (s : State) : Nat :=
  s.ev.wear.foldl (fun n e => if e.type = 0x0009 ∨ e.type = 0x0010 then fld 0 4 e.data else n) 0

/-- A record write under way is abandoned when VSTBY collapses (15_config_flash_events R565): its slot holds no valid mark. -/
def abandonSlot (s : State) : State :=
  if s.ev.running && !s.ev.queue.isEmpty && dieFree s then
    { s with ev := { s.ev with abandoned := s.ev.abandoned ++ [s.ev.nextIndex], abandonedCount := s.ev.abandonedCount + 1
                               nextIndex := s.ev.nextIndex + 1 } }
  else s

/-- The supervisor is reset (18_package_electrical R627, R628): every enable goes low at once, with no drain. -/
def supervisorReset (s : State) : State :=
  let on := (List.range 12).filter fun n => s.seq.en.getLsbD n
  let s := norLost (loseVcore (abandonSlot s))
  let s := on.foldl (fun s n => emit (.rail n false) s) s
  let s := modNor (fun n => { n with wearWaiting := [] }) { s with ev := { s.ev with supPending := [], supLost := 0 } }
  modPwr (fun p => { p with padHeld := 0b1111111111 }) (modSeq (fun q => { railsGone q with
    state := if q.state = .lockout then .lockout else .off, wanted := false, riseAgain := false, waitInput := false, coldPending := false
    standby := .none, wakePending := none, wokenBy := none, resetKind := 0 }) s)

/-- VSTBY_COLLAPSE (18_package_electrical R627). -/
def execVstbyCollapse (s : State) : Host.Outcome State Fault Refusal :=
  let clear (m : Mc) : Mc :=
    { m with proxy := {}, woke := false, timeout := false, nack := false, pecErr := false, xacts := 0, pecErrs := 0, nacks := 0 }
  .next (if s.seq.vstby then modSeq (fun q => { q with vstby := false }) (modMc clear (supervisorReset s)) else s)

/-- CLK25_IN_LOSS (18_package_electrical R628). -/
def execClk25InLoss (s : State) : Host.Outcome State Fault Refusal :=
  .next (if s.seq.vstby && s.seq.clk25 then modSeq (fun q => { q with clk25 := false }) (supervisorReset s) else s)

/-- VSTBY_APPLIED (18_package_electrical R627, 16_power R590, R596, 15_config_flash_events R550): the supervisor leaves its reset with
VSTBY and CLK25_IN. A new application of VSTBY ends a LOCKOUT, and resets the SEQ block but for the lockout count. -/
def execVstbyApplied (s : State) : Host.Outcome State Fault Refusal :=
  let q := s.seq
  if q.vstby && q.clk25 then .next s
  else
    let locked := q.state == .lockout
    let s := if q.vstby then modSeq (fun q => { q with clk25 := true, wanted := !locked }) s
      else { s with seq := { lockouts := loggedLockouts s, resetLow := q.resetLow, inputOk := q.inputOk } }
    let s := if locked && !q.vstby then raiseSeq 0x0F03 .info (le 1 1) s else s
    let s := if q.vstby then s else powerCycle s
    .next (loadOptions (modPwr (fun p => { p with padHeld := 0b1111111111 }) s))

/-! ### Sequencer commands -/

/-- Whether the supervisor executes a command itself (13_management R490): on the sideband, whatever the complex does. -/
def supervised (path : BcsPath) (opcode len : Nat) (input : Bytes) (body : State → State) (s : State) : State :=
  if path = .sideband then (if input.length = len then body s else answer path opcode 0x0016 [] s)
  else bcs path opcode input (input.length == len) body s

/-- GET_SEQUENCER_STATUS (C080h, 13_management R501). -/
def execGetSequencerStatus (path : BcsPath) (input : Bytes) (s : State) : Host.Outcome State Fault Refusal :=
  .next (supervised path 0xC080 0 input (fun s =>
    let q := s.seq
    success path 0xC080 (le 1 q.state.code ++ le 1 q.attempt ++ le 1 (if q.failRail = 15 then 0xFF else q.failRail) ++ zeros 1 ++
      le 2 q.en.toNat ++ le 2 q.pg.toNat ++ le 4 q.lockouts) s) s)

/-- CLEAR_LOCKOUT (C081h, R573, R501). -/
def execClearLockout (path : BcsPath) (input : Bytes) (s : State) : Host.Outcome State Fault Refusal :=
  .next (supervised path 0xC081 0 input (fun s =>
    if s.seq.state ≠ .lockout then answer path 0xC081 0x0002 [] s
    else success path 0xC081 [] (raiseSeq 0x0F03 .info (le 1 0) (modSeq (fun q => { q with state := .off, attempt := 1, wanted := true }) s))) s)

/-- POWER_DOWN (C082h, R501, R94): answered before the drain starts. -/
def execPowerDown (path : BcsPath) (input : Bytes) (s : State) : Host.Outcome State Fault Refusal :=
  .next (bcs path 0xC082 input (input.length == 1) (fun s =>
    let f := fld 0 1 input
    checked path 0xC082 [(decide (f < 2), 0)] (fun s =>
      if s.seq.state ≠ .up ∨ s.pu.drain.isSome then answer path 0xC082 0x0004 [] s
      else drainDown 2 .commanded (if f = 1 then 2 else 3) (f == 1) (success path 0xC082 [] s)) s) s)

/-! ### The watchdog window and the temperature -/

/-- A WDI violation (R580): its flag, event 0x0F06, and a management reset with cause 1. -/
def wdiViolation (late : Bool) (micros : Nat) (s : State) : State :=
  let s := modPwr (fun p => { p with wdiLate := p.wdiLate || late, wdiEarly := p.wdiEarly || !late, wdiArmed := false }) s
  watchdogReset 1 (raise 0x0F06 .warning (le 1 (b2n late) ++ zeros 3 ++ le 4 micros) s)

/-- Whether the window runs (R580): the parameter is set, and the complex serves. -/
def wdiRuns (s : State) : Bool := decide (param 0x0F02 0 s ≠ 0) && s.mc.serving && s.mc.restart.isNone

/-- WDI_EDGE (R580): an edge must follow the previous one by at least M over 8. -/
def execWdiEdge (microsSinceLast : Nat) (s : State) : Host.Outcome State Fault Refusal :=
  if !wdiRuns s then .next s
  else if s.pwr.wdiArmed && decide (microsSinceLast * 8 < param 0x0F02 0 s * 1000) then .next (wdiViolation false microsSinceLast s)
  else .next (modPwr (fun p => { p with wdiArmed := true }) s)

/-- WDI_WINDOW_EXPIRY (R580): no edge within M ms. -/
def execWdiWindowExpiry (microsSinceLast : Nat) (s : State) : Host.Outcome State Fault Refusal :=
  .next (if wdiRuns s && decide (param 0x0F02 0 s * 1000 ≤ microsSinceLast) then wdiViolation true microsSinceLast s else s)

/-- The highest of the latest readings. -/
def hottest : AMap Int → Int
  | [] => -128
  | [e] => e.2
  | e :: r => max e.2 (hottest r)

/-- The low byte of a temperature. -/
def celsiusByte (t : Int) : Bytes := le 1 (t % 256).toNat

/-- THERMAL_READING (R581, R582): the warning at the threshold, once until it has fallen by 5 degrees; the shutdown at 120 °C in two
consecutive readings. -/
def execThermalReading (sensor : Nat) (celsius : Int) (s : State) : Host.Outcome State Fault Refusal :=
  if 10 ≤ sensor ∨ s.seq.state ≠ .up ∨ s.pu.drain.isSome then .next s
  else
    let readings := mput sensor celsius s.pwr.readings
    let t := hottest readings
    let limit : Int := param 0x0F03 105 s
    let hot := if 120 ≤ celsius then mgetD 0 sensor s.pwr.hotReadings + 1 else 0
    let s := modPwr (fun p => { p with
      readings := readings, tjMax := some t, hotReadings := mput sensor hot p.hotReadings
      warnDone := p.warnDone && !decide (t ≤ limit - 5) }) s
    let s := if limit ≤ t ∧ !s.pwr.warnDone then
        raise 0x0F0A .warning (le 1 0 ++ le 1 sensor ++ celsiusByte celsius) (modPwr (fun p => { p with warn := true, warnDone := true }) s)
      else s
    if 2 ≤ hot then
      .next (drainDown 2 .thermal 3 false
        (raise 0x0F0A .warning (le 1 1 ++ le 1 sensor ++ celsiusByte celsius) (modPwr (fun p => { p with crit := true }) s)))
    else .next s

end Sys2Proof.Machine
end

