-- ==== Sys2Proof/Machine/Units.lean ====
section
/-! DEFINITION. Power-managed units: their states and descriptors, idle and commanded entries, pad hold, Device Standby, and Identify
Controller (16_power R583 to R591, 13_management R497, R504, R505). -/

namespace Sys2Proof.Machine

/-- A state of a unit (R584, R505): FLAGS, body bias, SRAM assist, entry, exit and idle figures in beats, and power in mW. -/
structure UnitState where
  flags : Nat
  bias : Nat
  assist : Nat
  entry : Nat
  exit : Nat
  idle : Nat
  power : Nat
deriving DecidableEq, Repr, Inhabited

/-- Kinds of units (R583). -/
inductive UnitKind where
  | channel
  | channelGroup
  | pseudoChannel
  | stack
  | slice
  | chestBank
  | head
  | cacheBank
  | device
deriving DecidableEq, Repr, Inhabited

/-- The kind of a unit that exists (R583): heads and their front-cache banks as the bifurcation gives them. The agents appear only as
refusers. -/
def unitKind (u : Nat) (s : State) : Option UnitKind :=
  if 0x100 ≤ u ∧ u < 0x140 then some .channel
  else if 0x200 ≤ u ∧ u < 0x208 then some .channelGroup
  else if 0x300 ≤ u ∧ u < 0x340 then some .pseudoChannel
  else if 0x400 ≤ u ∧ u < 0x402 then some .stack
  else if 0x500 ≤ u ∧ u < 0x511 then some .slice
  else if 0x600 ≤ u ∧ u < 0x610 then some .chestBank
  else if 0x700 ≤ u ∧ u < 0x710 ∧ headExists (u - 0x700) s then some .head
  else if 0x800 ≤ u ∧ u < 0x880 ∧ (u - 0x800) % 8 < 6 ∧ headExists ((u - 0x800) / 8) s then some .cacheBank
  else if u = 0xFFFF then some .device
  else none

/-- The states of a kind of unit (R584). The flags are 1 COMMAND_ONLY, 2 IDLE, 4 PAD_HOLD, 8 RETAINS. -/
def unitStates : UnitKind → List UnitState
  | .channel => [⟨8, 0, 0, 0, 0, 0, 420⟩, ⟨10, 0, 0, 1, 2, 64, 140⟩, ⟨10, 1, 1, 8, 40, 65536, 18⟩]
  | .channelGroup => [⟨8, 0, 0, 0, 0, 0, 0⟩, ⟨5, 2, 2, 64, 4096, 0, 2⟩]
  | .pseudoChannel => [⟨8, 0, 0, 0, 0, 0, 360⟩, ⟨10, 0, 0, 1, 1, 16, 120⟩, ⟨10, 1, 0, 2, 4, 8192, 25⟩]
  | .stack => [⟨8, 0, 0, 0, 0, 0, 0⟩, ⟨5, 2, 2, 64, 2048, 0, 15⟩]
  | .slice => [⟨8, 0, 0, 0, 0, 0, 650⟩, ⟨10, 0, 0, 1, 1, 64, 160⟩, ⟨10, 1, 1, 4, 8, 16384, 30⟩]
  | .chestBank => [⟨8, 0, 0, 0, 0, 0, 220⟩, ⟨10, 0, 0, 1, 1, 256, 8⟩]
  | .head => [⟨8, 0, 0, 0, 0, 0, 2600⟩, ⟨8, 0, 0, 1, 2, 0, 1500⟩, ⟨8, 1, 1, 4, 64, 0, 220⟩]
  | .cacheBank => [⟨8, 0, 0, 0, 0, 0, 35⟩, ⟨1, 2, 2, 16, 1, 0, 1⟩]
  | .device => []

/-- The states of a unit; none for a unit that does not exist. -/
def statesOf (u : Nat) (s : State) : List UnitState := ((unitKind u s).map unitStates).getD []

/-- Lanes of a head (07_cxl_ports R247). -/
def headLanes (h : Nat) (s : State) : Nat :=
  let b := s.cxl.bifurcation / 4 ^ (h / 4) % 4
  if b = 0 then 16 else if b = 1 then 8 else 4

/-- The power of a state: a narrower head draws in proportion to its lanes (R584). -/
def statePower (u : Nat) (x : UnitState) (s : State) : Nat :=
  if unitKind u s = some .head then x.power * headLanes (u - 0x700) s / 16 else x.power

/-- A power-state descriptor (13_management R505). -/
def descriptor (u n : Nat) (x : UnitState) (s : State) : Bytes :=
  le 2 u ++ le 1 n ++ le 1 x.flags ++ le 1 x.bias ++ le 1 x.assist ++ zeros 2 ++ le 4 x.entry ++ le 4 x.exit ++ le 4 x.idle ++
    le 4 (statePower u x s) ++ zeros 8

/-- Every unit ID with states, in ascending order (R583). -/
def unitIds (s : State) : List Nat := (List.range 0x880).filter fun u => (unitKind u s).isSome

/-- Every descriptor, by unit and state. -/
def descriptors (s : State) : List Bytes :=
  (unitIds s).flatMap fun u => (statesOf u s).zipIdx.map fun x => descriptor u x.2 x.1 s

/-! ### What a unit is in -/

/-- A unit's record. -/
def unitOfPower (u : Nat) (s : State) : UnitPower := mgetD {} u s.pwr.units

/-- Change a unit's record. -/
def modUnit (u : Nat) (f : UnitPower → UnitPower) (s : State) : State := modPwr (fun p => { p with units := mmodD {} u f p.units }) s

/-- The slice of a unit that is the spare (R586). -/
def isSpare (u : Nat) (s : State) : Bool := s.te.spare.map (· + 0x500) == some u

/-- The current state of a unit (R595): a head follows its host, a front-cache bank is off once it is empty, and the spare slice stays in
Retention (R586). -/
def unitStateNow (u : Nat) (s : State) : Nat :=
  match unitKind u s with
  | some .head => (mgetD {} (u - 0x700) s.cxl.heads).powerState
  | some .cacheBank => b2n (!(mgetD {} ((u - 0x800) / 8) s.cxl.heads).bankOn.getLsbD ((u - 0x800) % 8))
  | _ => if isSpare u s then 2 else (unitOfPower u s).state

/-- The I states of a unit, as (number, idle figure) under the figure set for the deepest (R585); none when the figure is 0. -/
def idleFigures (u : Nat) (s : State) : List (Nat × Nat) :=
  let l := (statesOf u s).zipIdx.filter fun x => bitOf 1 x.1.flags
  let deepest := ((unitOfPower u s).idle).getD ((l.getLast?.map (·.1.idle)).getD 0)
  if deepest = 0 then [] else l.zipIdx.map fun x => (x.1.2, if x.2 + 1 = l.length then deepest else min x.1.1.idle deepest)

/-- The idle figure that Get Unit Power reports: that of the deepest I state. -/
def idleFigure (u : Nat) (s : State) : Nat :=
  (unitOfPower u s).idle.getD ((((statesOf u s).filter fun x => bitOf 1 x.flags).getLast?.map (·.idle)).getD 0)

/-- The units that enter and leave I states with a unit (R586): all active slices together. -/
def together (u : Nat) (s : State) : List Nat :=
  if unitKind u s = some .slice then
    if isSpare u s then [] else ((List.range 17).filter fun i => s.te.active.getLsbD i).map (· + 0x500)
  else [u]

/-- A unit begins to enter a state: its entry latency runs. -/
def enterState (n u : Nat) (s : State) : State :=
  let latency := ((statesOf u s)[n]?.map (·.entry)).getD 0
  modUnit u (fun x => { x with entry := some (x.state, s.tb.beat + latency), state := n, toEnter := none }) s

/-- IDLE_TIMER_ENTRY (R585): the count of a unit reaches the next figure; it enters the deepest I state with that figure. -/
def execIdleTimerEntry (unit : Nat) (s : State) : Host.Outcome State Fault Refusal :=
  let x := unitOfPower unit s
  let l := (idleFigures unit s).filter fun f => decide (x.state < f.1)
  let held := match x.commanded with
    | some c => c == 0 || ((statesOf unit s)[c]?.map fun y => bitOf 0 y.flags).getD false
    | none => false
  match l with
  | [] => .next s
  | f :: r =>
    let low := r.foldl (fun m g => min m g.2) f.2
    let n := (l.filter fun g => g.2 == low).foldl (fun m g => max m g.1) 0
    if held || !vcoreUp s then .next s else .next ((together unit s).foldl (fun s u => enterState n u s) s)

/-- A refused or aborted entry (R588): counted, with its refuser, and reported at most once per unit in 65,536 beats. -/
def countEntry (u n : Nat) (aborted : Bool) (refuser : Nat) (s : State) : State :=
  let s := modUnit u (fun x => { x with count := satAdd 0xFFFFFFFF x.count 1, refuser := refuser }) s
  raiseLimited 0x0F07 u .info
    (fun _ => le 2 u ++ le 1 n ++ le 1 (b2n aborted) ++ le 2 refuser ++ zeros 2 ++ le 4 (unitOfPower u s).count) s

/-- Whether a state of a unit is an I state. -/
def isIdleState (u n : Nat) (s : State) : Bool := ((statesOf u s)[n]?.map fun x => bitOf 1 x.flags).getD false

/-- UNIT_WORK_ARRIVAL (R585, R588): during the entry latency the entry is aborted; a unit in an I state wakes. -/
def execUnitWorkArrival (unit agent : Nat) (s : State) : Host.Outcome State Fault Refusal :=
  .next ((together unit s).foldl (fun s u =>
    let x := unitOfPower u s
    match x.entry with
    | some e =>
      if s.tb.beat < e.2 then countEntry u x.state true agent (modUnit u (fun x => { x with state := e.1, entry := none }) s)
      else if isIdleState u x.state s then modUnit u (fun x => { x with state := 0, entry := none }) s
      else s
    | none => if isIdleState u x.state s then modUnit u (fun x => { x with state := 0 }) s else s) s)

/-- The commanded I states that take effect at a beat boundary (R587). -/
def unitsBeat (s : State) : State :=
  (s.pwr.units.filterMap fun e => e.2.toEnter.map fun n => (e.1, n)).foldl (fun s x => enterState x.2 x.1 s) s

/-! ### Commanded states -/

/-- The agent that refuses a C state (R587), where one does. -/
def refuserOf (u : Nat) (s : State) : Option Nat :=
  match unitKind u s with
  | some .cacheBank => none
  | k =>
    if s.reg.extentMap.any (fun e => !e.2.isEmpty) || s.trust.run.isSome || s.trust.sanitize == 1 || !s.ti.rebuilds.isEmpty then some 0x1001
    else if k = some .stack then
      if 0 < lentPages s then some 0x1001
      else if s.cap.rings.any (fun r => r.2.conf.isSome) then some 0x1004
      else if s.cap.channels.any (fun c => c.2.state != 0) then some 0x1005
      else none
    else none

/-- A front-cache bank is commanded off or on (07_cxl_ports R282). -/
def commandBank (u : Nat) (off : Bool) (s : State) : State :=
  let b := (u - 0x800) % 8
  let bit := BitVec.ofNat 6 (2 ^ b)
  modHead ((u - 0x800) / 8) (fun h =>
    if off then (if h.bankOn.getLsbD b then { h with bankClean := h.bankClean ||| bit } else h)
    else { h with bankOn := h.bankOn ||| bit, bankClean := h.bankClean &&& ~~~ bit, cleaned := mdel b h.cleaned }) s

/-- Set Unit Power's commanded state (R587): 0xFF releases, and 0 holds the unit on. -/
def commandState (u n : Nat) (s : State) : State :=
  let s := modUnit u (fun x => { x with commanded := if n = 0xFF then none else some n }) s
  if n = 0 ∨ n = 0xFF then
    let s := modUnit u (fun x => { x with state := 0, toEnter := none, entry := none }) s
    if unitKind u s = some .cacheBank then commandBank u false s else s
  else if isIdleState u n s then modUnit u (fun x => { x with toEnter := some n }) s
  else if unitKind u s = some .cacheBank then commandBank u true s
  else s

/-- GET_UNIT_POWER (C020h, 13_management R497). -/
def execGetUnitPower (path : BcsPath) (input : Bytes) (s : State) : Host.Outcome State Fault Refusal :=
  .next (bcs path 0xC020 input (input.length == 2) (fun s =>
    let u := fld 0 2 input
    checked path 0xC020 [((unitKind u s).isSome, 0)] (fun s =>
      let x := unitOfPower u s
      success path 0xC020 (le 2 u ++ le 1 (unitStateNow u s) ++ le 1 (x.commanded.getD 0xFF) ++ le 4 (idleFigure u s) ++ le 4 x.count ++
        le 2 x.refuser ++ zeros 2) s) s) s)

/-- SET_UNIT_POWER (C021h, 13_management R497, R587). -/
def execSetUnitPower (path : BcsPath) (input : Bytes) (s : State) : Host.Outcome State Fault Refusal :=
  .next (bcs path 0xC021 input (input.length == 8) (fun s =>
    let u := fld 0 2 input
    let n := fld 2 1 input
    let idle := fld 4 4 input
    let ok := n == 0xFF || (unitKind u s != some .head && decide (n < (statesOf u s).length))
    checked path 0xC021 [((unitKind u s).isSome, 0), (ok, 2), (zeroAt 3 1 input, 3)] (fun s =>
      let deep := n != 0xFF && ((statesOf u s)[n]?.map fun x => bitOf 0 x.flags).getD false
      match (if deep then refuserOf u s else none) with
      | some r => answer path 0xC021 0x0006 [] (countEntry u n false r s)
      | none =>
        let s := if idle = 0xFFFFFFFF then s else modUnit u (fun x => { x with idle := some idle }) s
        success path 0xC021 [] (commandState u n s)) s) s)

/-- The pad groups of a unit (R589). -/
def unitPads (u : Nat) : BitVec 10 :=
  if 0x200 ≤ u ∧ u < 0x208 then BitVec.ofNat 10 (2 ^ (u - 0x200))
  else if 0x400 ≤ u ∧ u < 0x402 then BitVec.ofNat 10 (2 ^ (u - 0x400 + 8))
  else 0

/-- COMMANDED_STATE_ENTRY (R587, R589): a unit enters its commanded C state once nothing refuses it; its pads are held. -/
def execCommandedStateEntry (unit : Nat) (s : State) : Host.Outcome State Fault Refusal :=
  let x := unitOfPower unit s
  match x.commanded with
  | none => .next s
  | some n =>
    let deep := ((statesOf unit s)[n]?.map fun x => bitOf 0 x.flags).getD false
    if !deep || x.state == n || (refuserOf unit s).isSome || unitKind unit s == some .cacheBank then .next s
    else .next (modPwr (fun p => { p with padHeld := p.padHeld ||| unitPads unit }) (enterState n unit s))

/-- Whether the domain of a pad group is on (R590): its rails are up and its unit is not in a C state. -/
def domainOn (g : Nat) (s : State) : Bool :=
  let u := if g < 8 then 0x200 + g else 0x400 + (g - 8)
  s.seq.state == .up && (unitOfPower u s).state == 0

/-- Release pad groups (R590): a release of a group whose domain is off is ignored, with BADWR. -/
def releasePads (groups : BitVec 10) (s : State) : State :=
  let asked := (List.range 10).filter fun g => groups.getLsbD g
  let s := if asked.all fun g => domainOn g s then s else badWrite s
  let done := asked.filter fun g => domainOn g s && s.pwr.padHeld.getLsbD g
  if done.isEmpty then s
  else
    let m := BitVec.ofNat 10 (done.foldl (fun a g => a + 2 ^ g) 0)
    raise 0x0F0B .info (le 2 m.toNat) (modPwr (fun p => { p with padHeld := p.padHeld &&& ~~~ m }) s)

/-- PAD_HOLD_RELEASE (R589, R590). -/
def execPadHoldRelease (groups : BitVec 10) (s : State) : Host.Outcome State Fault Refusal := .next (releasePads groups s)

/-- HEAD_LINK_POWER_STATE_CHANGE (R586): the host's link control moves a head between L0, L0p and L1. -/
def execHeadLinkPowerStateChange (head state : Nat) (s : State) : Host.Outcome State Fault Refusal :=
  .next (if state < 3 && (headOf head s).up then modHead head (fun h => { h with powerState := state }) s else s)

/-- PERST_N_DEASSERT (18_package_electrical R630): the head's reset ends; its link may train. -/
def execPerstNDeassert (head : Nat) (s : State) : Host.Outcome State Fault Refusal :=
  .next (modHead head (fun h => { h with perstLow := false }) s)

/-! ### Device Standby and Identify -/

/-- The agent that refuses Device Standby (R591), where one does. -/
def standbyRefuser (s : State) : Option Nat :=
  let seated := s.reg.table.any fun e => e.2.mirrored && e.2.seat == s.ident.controllerId
  if isPaired s && (s.pair.chairHere || seated) then some 0x1006
  else if s.cap.rings.any fun r => decide (2 ≤ r.2.state ∧ r.2.state ≤ 4) then some 0x1004
  else if s.cap.channels.any fun c => decide (3 ≤ c.2.state ∧ c.2.state ≤ 5) then some 0x1005
  else if s.pair.resync.isSome then some 0x1006
  else if !s.mc.bg.isEmpty || s.mc.transfer.isSome || s.trust.run.isSome then some 0x1007
  else none

/-- ENTER_DEVICE_STANDBY (C025h, R591): answered first; the drain follows. The state byte of a refusal's event is left open. -/
def execEnterDeviceStandby (path : BcsPath) (input : Bytes) (s : State) : Host.Outcome State Fault Refusal :=
  .next (bcs path 0xC025 input (input.length == 0) (fun s =>
    match standbyRefuser s with
    | some r => answer path 0xC025 0x0006 [] (countEntry 0xFFFF ((drawn s).toNat % 256) false r (advance s))
    | none => modSeq (fun q => { q with standby := .entering, wakePending := none }) (success path 0xC025 [] s)) s)

/-- Number of ones. -/
def ones (w : Nat) (n : Nat) : Nat := ((List.range w).filter fun i => n.testBit i).length

/-- Bytes 255:64 of Identify Controller (13_management R504), with `n` descriptors from `first`. -/
def identifyRest (first n : Nat) (s : State) : Bytes :=
  let heads := ((List.range 16).filter fun h => headExists h s).foldl (fun b h => b + 2 ^ h) 0
  let instr := (s.net.ports.filter fun e => e.2.instrument).foldl (fun b e => b + 2 ^ e.1) 0
  padTo 192
    (le 8 (s.reg.capExtents * 2 ^ 28) ++ le 8 (rawBytes s) ++ le 8 ((shelfSegments s - s.ti.mappedOut.length) * 2 ^ 21) ++
     le 8 ((s.ti.slotsTotal - s.ti.mappedOut.length) * 2 ^ 21) ++ le 4 (chestBytes s.pu) ++ le 4 (drawerLines s) ++ le 8 (dataAllowance s) ++
     le 1 s.ident.lunsPerChannel ++ le 1 (ones 17 s.te.active.toNat) ++ le 1 (usablePairs s) ++ le 1 (linkCode s.pair.link.state) ++
     le 2 heads ++ le 2 (portBits s.net.portMode) ++ le 2 instr ++ le 2 (descriptors s).length ++ le 2 first ++ le 2 n)

/-- Bytes 63:0 of Identify Controller (13_management R504). -/
def identifyHead (s : State) : Bytes :=
  le 1 1 ++ le 1 (b2n (!s.ident.h96)) ++ le 2 s.ident.controllerId ++ le 1 (if isPaired s then s.pair.position else 0xFF) ++
    le 1 (b2n s.cxl.gfam) ++ le 2 Config.stepping ++ le 8 Config.serial ++ padTo 32 identityHash ++ le 4 s.mc.fwRunning ++
    le 4 (slotVersion s.mc.fwA) ++ le 4 (slotVersion s.mc.fwB) ++ le 1 s.mc.fwActive ++ le 1 s.mc.fwNext ++ le 1 (b2n s.mc.rom) ++
    le 1 (roLevel s)

/-- IDENTIFY_CONTROLLER (C040h, 13_management R504, R505). In ROM recovery bytes 255:64 are zero and no descriptor follows. -/
def execIdentifyController (path : BcsPath) (input : Bytes) (s : State) : Host.Outcome State Fault Refusal :=
  .next (bcs path 0xC040 input (input.length == 2) (fun s =>
    if s.mc.rom then success path 0xC040 (identifyHead s ++ zeros 192) s
    else
      let first := fld 0 2 input
      let l := ((descriptors s).drop first).take 2040
      success path 0xC040 (identifyHead s ++ identifyRest first l.length s ++ l.flatten) s) s)

end Sys2Proof.Machine
end

