-- ==== Sys2Proof/Machine/NorCmds.lean ====
section
/-! DEFINITION. The configuration flash at work: the end of an operation, suspension, the counter log, and the event recorder
(15_config_flash_events R541 to R568, 17_startup_service_life R612 to R614). -/

namespace Sys2Proof.Machine

/-- The block, kind and address that event 0x0E06 reports of a failed operation (R543, R568). -/
def failureData (o : NorOp) (s : State) : Bytes :=
  match o with
  | .optionWrite .. => le 2 4 ++ le 1 0 ++ zeros 1 ++ le 4 (0x40000 + nextOption s * 4096)
  | .fwProgram slot off => le 2 (slotBlock slot + off / 65536) ++ le 1 0 ++ zeros 1 ++ le 4 (slotBlock slot * 65536 + off)
  | .erase b none => le 2 b ++ le 1 2 ++ zeros 1 ++ le 4 (b * 65536)
  | .erase b (some n) => le 2 b ++ le 1 1 ++ zeros 1 ++ le 4 (b * 65536 + n * 4096)

/-- An operation has failed (R543): event 0x0E06; its command ends with Internal Error, and a firmware page is not in the slot. -/
def norFailed (o : NorOp) (s : State) : State :=
  let s := raise 0x0E06 .error (failureData o s) s
  match o with
  | .optionWrite _ a =>
    let s := match a with
      | .lowering _ => modTrust (fun t => { t with lowering := false }) s
      | _ => s
    match optionPath a with
    | some x => finishBg x.1 x.2 0x0004 0xFFFF [] s
    | none => s
  | .fwProgram slot off => modSlot slot (fun x => { x with image := x.image.take off, valid := x.valid && decide (off ≠ 0x003FFFC0) }) s
  | .erase .. => s

/-- What follows an option write (R554). -/
def optionTaken (a : OptionThen) (s : State) : State :=
  match a with
  | .answer p op => answerO p op 0 [] s
  | .parameter p id v =>
    let s := match paramInfo id with
      | some i => takeParam i v s
      | none => s
    answerO p 0xC023 0 [] s
  | .levelRaised p old => answerO p 0xC051 0 [] (raise 0x0D06 .info (le 1 old ++ le 1 1 ++ le 1 0) (modTrust (fun t => { t with level := 1 }) s))
  | .lowering p =>
    let s := answerO p 0xC051 0 [] (newSalt s)
    drainDown 2 .commanded 2 true (raise 0x0D06 .info (le 1 1 ++ le 1 0 ++ le 1 1) s)
  | .nextSlot p slot =>
    let s := modMc (fun m => { m with fwNext := slot }) s
    answerO p 0x0202 0 [] (raise 0x0C06 .info (le 1 slot ++ le 1 1 ++ zeros 2 ++ le 4 (fwSlot slot s).version) s)

/-- The first entries of a block of the wear-and-spares log (R614): BLOCK_HEAD, and an HBM_ROW entry for each row that awaits hard repair. -/
def blockHead (s : State) : State :=
  let spares := (List.range 7).flatMap fun k => le 2 (min 0xFFFF (sparesLeft k s))
  let s := writeWear 0x0010 (le 4 s.seq.lockouts ++ spares ++ le 1 s.ecc.rowsAwaiting.length) s
  s.ecc.rowsAwaiting.foldl (fun s r =>
    writeWear 0x0002 (le 1 (r.1 / 2048) ++ le 1 (r.1 / 64) ++ le 1 (r.1 % 64) ++ zeros 1 ++ le 4 r.2 ++ le 1 0) s) s

/-- The entries that waited for the log's next block are written. -/
def flushWear (s : State) : State :=
  let l := s.nor.wearWaiting
  l.foldl (fun s x => wearLog x.1 x.2 s) (modNor (fun n => { n with wearWaiting := [] }) s)

/-- What the end of an erase brings (R558, R560, R562). -/
def eraseFollows (b : Nat) (s : State) : State :=
  if wearBlock b then
    flushWear (blockHead { s with ev := { s.ev with wear := s.ev.wear.filter fun e => decide (s.ev.wearIndex ≤ e.index + 15360) } })
  else if windowLogBlock b then modNor (fun n => { n with windowBlock := b, windowUsed := 2 }) s
  else s

/-- An option copy is complete (R554): its generation is one above that of the copy that it replaces. -/
def storeOption (c : OptionCopy) (s : State) : State :=
  let g := ((newestOption s.nor).map (·.2.generation)).getD 0
  let n := nextOption s
  modNor (fun x => { x with options := mput n { c with generation := g + 1 } x.options, newest := n }) (eraseDone 4 (some n) s)

/-- The running operation is over, and the next one is issued (R545). -/
def norNext (s : State) : State := issueOp (modNor (fun n => { n with running := none, suspended := false, suspends := 0 }) s)

/-- NOR_OPERATION_COMPLETE (R543, R546, R554, R614). A suspended erase does not complete. -/
def execNorOperationComplete (failed : Bool) (s : State) : Host.Outcome State Fault Refusal :=
  match s.nor.running with
  | none => .next s
  | some o =>
    if s.nor.suspended || !s.ev.running then .next s
    else if failed then .next (norNext (norFailed o s))
    else
      match o with
      | .optionWrite c a => .next (norNext (optionTaken a (storeOption c s)))
      | .fwProgram .. => .next (norNext s)
      | .erase b sec => .next (eraseFollows b (norNext (eraseDone b sec s)))

/-- ERASE_SUSPEND (R544): at most 64 times, with 2 ms of erasing between two. -/
def execEraseSuspend (s : State) : Host.Outcome State Fault Refusal :=
  match s.nor.running with
  | some (.erase ..) =>
    if s.nor.suspended || decide (64 ≤ s.nor.suspends) || (decide (0 < s.nor.suspends) && decide (s.tb.beat < s.nor.ranSince + 3907)) then .next s
    else .next (modNor (fun n => { n with suspended := true, suspends := n.suspends + 1 }) s)
  | _ => .next s

/-- COUNTER_LOG_COMPACTION (R549): with fewer than 160 entries left, the other block is erased and takes a snapshot and its body. -/
def execCounterLogCompaction (s : State) : Host.Outcome State Fault Refusal :=
  if 160 ≤ s.nor.logLeft ∨ s.nor.running.isSome ∨ !s.ev.running then .next s
  else
    let b := 19 - s.nor.logBlock
    let s := eraseIntent b none s
    let g := s.nor.snapshot + 1
    let s := modNor (fun n => { n with
      logBlock := b, snapshot := g, lseq := n.lseq + 1, logLeft := 2048 - 178
      log := [{ type := 5, value := g, lseq := n.lseq + 1, data := 177 }] }) s
    .next (raise 0x0E07 .info (le 1 b ++ zeros 3 ++ le 4 g) s)

/-- HOUR_ENTRY (R550): a whole hour of continuous uptime. -/
def execHourEntry (s : State) : Host.Outcome State Fault Refusal :=
  if !vcoreUp s || !dieFree s || decide (s.tb.beat < 7031250000 * (s.nor.hoursUp + 1)) then .next s
  else
    let s := { s with ev := { s.ev with hours := s.ev.hours + 1 } }
    .next (resumeErase (modNor (fun n => { n with hoursUp := n.hoursUp + 1 }) (counterEntry 3 0 0 s.ev.hours 0 s)))

/-- Events lost from the recorder's queue are reported once it has room (R563, R568). -/
def reportLost (s : State) : State :=
  if s.ev.lostUnreported = 0 ∨ 1024 ≤ s.ev.queue.length then s
  else raise 0x0E04 .warning (le 4 s.ev.lostUnreported) { s with ev := { s.ev with lostUnreported := 0 } }

/-- EVENT_RECORD_WRITE (R561, R562): the oldest queued record takes the next slot of the recent area, and of the first area while it has
one. At the end of a block the next one is erased. Events wait during a management reset (13_management R511). -/
def execEventRecordWrite (s : State) : Host.Outcome State Fault Refusal :=
  match s.ev.queue with
  | [] => .next s
  | e :: r =>
    if !s.ev.running || !dieFree s || erasing recentBlock s || s.mc.restart.isSome || noPair s then .next s
    else
      let i := s.ev.nextIndex
      let s := { s with ev := { s.ev with
        queue := r, recent := mput i e s.ev.recent, first := if i < s.ev.firstBase + 4096 then mput i e s.ev.first else s.ev.first, nextIndex := i + 1 } }
      let s := reportLost (resumeErase s)
      .next (if (i + 1) % 1024 = 0 then norSubmit (.erase (31 + (i + 1) / 1024 % 16) none) s else s)

/-- PENDING_EVENT_RELAY (R566): the supervisor's events go to the recorder in order, and what was lost is reported. -/
def execPendingEventRelay (s : State) : Host.Outcome State Fault Refusal :=
  if !s.ev.running then .next s
  else
    let u := s.ev.supPending.foldl (fun u e => setEvt (severityBit e.severity) (queueEvent e u)) s.ev
    let s := { s with ev := { u with supPending := [], supLost := 0 } }
    let n := u.supLost
    .next (if n = 0 then s else raise 0x0E08 .warning (le 4 n) s)

end Sys2Proof.Machine
end

