-- ==== Sys2Proof/Machine/StartUp.lean ====
section
/-! DEFINITION. The timed start-up: its phases, a pending lowering, journal replay, the map load, cold start, and readiness
(17_startup_service_life R602 to R607, 03_persistence R100 to R103, 04_tiers R124, R130, 14_trust R516, R530, R533, R538). -/

namespace Sys2Proof.Machine

/-- Change the start-up. -/
def modStart (f : StartUp → StartUp) (s : State) : State := { s with start := f s.start }

/-- Whether the phase after `n` can run now (R602): the rails are up, no drain runs, phase `n` is complete, and start-up has not stopped. -/
def phaseDue (n : Nat) (s : State) : Bool :=
  s.seq.state == .up && s.pu.drain.isNone && s.start.phase == n && s.start.stopped.isNone

/-- Whether the complex runs its firmware. -/
def firmwareRuns (s : State) : Bool := complexServes s && !s.mc.rom && s.mc.restart.isNone

/-- Start-up stops (R605): event 0x1002. -/
def stopStart (phase cause : Nat) (s : State) : State :=
  raise 0x1002 .fatal (le 1 phase ++ le 1 cause) (modStart (fun x => { x with stopped := some (phase, cause) }) s)

/-! ### Phase 2: ROM -/

/-- The erases with an intent and no later completion (15_config_flash_events R547), as (block, SCOPE). -/
def openErases (l : List CounterEntry) : List (Nat × Nat) :=
  l.foldl (fun a e =>
    if e.type = 1 then a.filter (fun x => x != (e.block, e.scope)) ++ [(e.block, e.scope)]
    else if e.type = 2 then a.filter fun x => x != (e.block, e.scope)
    else a) []

/-- Repeat an erase that was interrupted (R547): a new intent, the erase, its completion, and event 0x0E02. -/
def repeatErase (x : Nat × Nat) (s : State) : State :=
  let sec := if x.2 = 0 then none else some (x.2 - 0x10)
  let s := eraseDone x.1 sec (eraseIntent x.1 sec s)
  let s := modStart (fun y => { y with erasesRepeated := true }) s
  eraseFollows x.1 (raise 0x0E02 .warning (le 2 x.1 ++ le 1 x.2 ++ zeros 1 ++ le 4 (eraseCount x.1 s)) s)

/-- The ROM's work on the configuration flash (R547, R564): interrupted erases are repeated, and the recorder starts; abandoned records of its
newest block are reported. -/
def romFlash (s : State) : State :=
  let l := openErases s.nor.log
  let s := modNor (fun n => { n with running := none, suspended := false, suspends := 0 }) s
  let s := l.foldl (fun s x => repeatErase x s) s
  let found := (s.ev.abandoned.filter fun i => i / 1024 == (s.ev.nextIndex - 1) / 1024).length
  let s := if found = 0 then s else raise 0x0E03 .warning (le 4 found) s
  issueOp { s with ev := { s.ev with running := true } }

/-- Erase a block of the configuration flash, with its counter-log entries. -/
def eraseNow (b : Nat) (s : State) : State := eraseDone b none (eraseIntent b none s)

/-- A pending lowering (14_trust R538, steps 3 to 6): the chest, the shelf, the cabinet and the flash are erased, and the option area takes its
defaults. The chest then has the anchor that it had at manufacture, and the SALT is new. -/
def lowerLevel (s : State) : State :=
  let s := { s with
    pu := { rowsRetired := s.pu.rowsRetired, rowRemaps := s.pu.rowRemaps, spareRows := s.pu.spareRows, banks := s.pu.banks
            ingestLimit := s.pu.ingestLimit, writesRefused := s.pu.writesRefused, bankLost := s.pu.bankLost }
    reg := { capExtents := s.reg.capExtents }, pair := {}
    cxl := { s.cxl with bureau := 0, att := [] } }
  let s := eraseCabinet s
  let s := modTi (fun t => { t with
    shelf := [], shelfPoison := [], segs := [], map := [], ckptNumber := 0, ckptStart := 0, ckptMap := [], ckptMeta := [], rotate := 0 }) s
  let blocks := (List.range 5).map (· + 4) ++ (List.range 20).map (· + 27) ++ (List.range 128).map (· + 64)
  let s := blocks.foldl (fun s b => eraseNow b s) s
  let s := modMc (fun m => { m with fwA := {}, fwB := {} }) s
  let s := { s with
    ev := { s.ev with recent := [], first := [], firstBase := s.ev.nextIndex, abandoned := [] }
    te := { s.te with window := none, nonce := 0 }
    nor := { s.nor with options := [(0, {})], newest := 0, windowBlock := 6, windowUsed := 0, saltSide := 0, waiting := [] } }
  let s := advance (modTrust (fun t => { t with
    salt := freeBytes 32 s, keys := [], sanitize := 0, sanitizeKind := 0, saltChanged := false, lowering := false
    signer := { floors := t.signer.floors } }) s)
  raise 0x0D06 .info (le 1 1 ++ le 1 0 ++ le 1 0) (resetSigner (loadOptions s))

/-- Verification at start-up (14_trust R516): NEXT_SLOT first, then the other slot; none boots into ROM recovery. -/
def bootImage (s : State) : State :=
  let a := s.mc.fwNext
  let boot (slot : Nat) (s : State) : State :=
    modMc (fun m => { m with fwActive := slot, fwRunning := (fwSlot slot s).version, serving := true, rom := false, lastRefresh := s.tb.beat }) s
  let fa := imageFault true (fwSlot a s) s
  let s := verifyEvent a 0 fa s
  if fa.isNone then boot a s
  else
    let fb := imageFault true (fwSlot (1 - a) s) s
    let s := verifyEvent (1 - a) 0 fb s
    if fb.isNone then boot (1 - a) s
    else raise 0x0C02 .error (le 1 0 ++ zeros 7 ++ freeBytes 8 s) (modMc (fun m => { m with serving := true, rom := true, fwRunning := 0 }) (advance s))

/-- START_UP_ROM_PHASE (R602, phase 2). -/
def execStartUpRomPhase (s : State) : Host.Outcome State Fault Refusal :=
  if !phaseDue 0 s then .next s
  else
    let s := romFlash s
    let s := if s.trust.lowering then lowerLevel s else s
    .next (modStart (fun x => { x with phase := 2 }) (bootImage s))

/-! ### Phase 3: firmware -/

/-- The known-answer test of the slices (11_transform_engine R421): the 16 lowest good ones are active, and the highest of the rest is the
spare. -/
def testSlices (failed : BitVec 17) (s : State) : State :=
  let ok := (List.range 17).filter fun i => !failed.getLsbD i
  let act := ok.take 16
  let spare := (ok.drop 16).getLast?
  let s := modTe (fun t => { t with
    sliceOk := ~~~ failed, active := BitVec.ofNat 17 (act.foldl (fun a i => a + 2 ^ i) 0), spare := spare, losses := [] }) s
  if failed = 0 then s
  else
    let s := raise 0x0A08 .error (le 3 failed.toNat ++ le 1 act.length ++ le 1 (b2n spare.isSome)) s
    let s := ((List.range 17).filter fun i => failed.getLsbD i).foldl (fun s i => wearLog 0x0005 (le 1 i ++ le 1 0) s) s
    let s := noteSpare 4 s
    if act.isEmpty then raise 0x0A07 .fatal (le 3 (~~~ failed).toNat) s else s

/-- Hard repair of every row that awaits it (12_integrity R474, R614). -/
def hardRepair (s : State) : State :=
  let l := s.ecc.rowsAwaiting
  l.foldl (fun s r =>
    wearLog 0x0002 (le 1 (r.1 / 2048) ++ le 1 (r.1 / 64) ++ le 1 (r.1 % 64) ++ zeros 1 ++ le 4 r.2 ++ le 1 1) s)
    (modEcc (fun e => { e with rowsAwaiting := [] }) s)

/-- The logical capacity in extents (01_architecture R29): seven eighths of the raw NAND, and no more than the part allows. -/
def logicalExtents (s : State) : Nat := min (rawBytes s * 7 / 8 / 2 ^ 28) ((if s.ident.h96 then 448 else 224) * 2 ^ 12)

/-- The Ethernet ports of a port mode with their roles (08_remote_access R287 to R290), and the bits of 0x0702 that name no port. -/
def setPorts (s : State) : State :=
  let c := s.nor.loaded
  let mode := mgetD 0 0x0701 c.params
  let bits := mgetD 0 0x0702 c.params
  let good := instrumentBits mode bits
  let s := { s with net := { s.net with
    portMode := mode
    ports := ((List.range 16).filter fun p => portExists mode p).map fun p => (p, { instrument := good.testBit p }) } }
  if good = bits then s
  else
    let o := comingOption s
    let o := { o with params := if good = 0 then mdel 0x0702 o.params else mput 0x0702 good o.params }
    writeOption o (.answer none 0xC023) (raise 0x0707 .warning (le 2 (bits - good) ++ le 2 good ++ le 1 mode) s)

/-- The shelf partitions (04_tiers R109, R110), and the share of each replay channel (10_capture_replay R409). -/
def setPartitions (s : State) : State :=
  let c := s.nor.loaded
  let n := logicalExtents s
  let p := partitionBytes c
  let ports := (s.net.ports.filter fun e => e.2.instrument).length
  let replay := p.1 / 2 ^ 21
  { s with
    reg := { s.reg with capExtents := n }
    ti := { s.ti with
      partMap := mapSegments n, partReplay := replay, partCapture := p.2 / 2 ^ 21
      slotsTotal := cacheSegments c n s + s.ti.mappedOut.length }
    cap := { s.cap with
      chunkLimit := p.2 / 2 ^ 21 * 32
      stagingPerChannel := if ports = 0 then 0 else (replay - ports) / ports * 2 ^ 21 } }

/-- Whether the partitions fit in the usable shelf (R605). -/
def partitionsFit (s : State) : Bool :=
  decide (s.ti.partMap + 32 + s.ti.partReplay + s.ti.partCapture + s.ti.mappedOut.length ≤ shelfSegments s)

/-- The set that a pseudo-channel uses in place of set `n` (12_integrity R469), by its invalid sets: the valid one of the nearest band,
the colder on a tie; the half-rate set has the place of band 0, and is itself the last choice. None when no set is valid. -/
def insteadOf (bad : List Nat) (n : Nat) : Option Nat :=
  let order := match n with
    | 0 => [1, 2, 3, 4]
    | 1 => [0, 2, 3, 4]
    | 2 => [1, 3, 0, 4]
    | 3 => [2, 1, 0, 4]
    | _ => [0, 1, 2, 3]
  order.find? fun k => !bad.contains k

/-- The invalid delay sets of a pseudo-channel, among those that failed in both copies: set k of pseudo-channel p is entry 5 p + k of the
calibration area (15_config_flash_events R552). -/
def setsOf (bad : List Nat) (pc : Nat) : List Nat := (List.range 5).filter fun k => bad.contains (pc * 5 + k)

/-- The delay sets are loaded (12_integrity R469): event 0x0B0B for each invalid one. -/
def loadSets (bad : List Nat) (s : State) : State :=
  (List.range 64).foldl (fun s pc =>
    (setsOf bad pc).foldl (fun s n =>
      raise 0x0B0B .error (le 1 pc ++ le 1 n ++ le 1 ((insteadOf (setsOf bad pc) n).getD 0xFF)) s) s) s

/-- Whether every pseudo-channel has a valid set. Each slot of the shelf has granules on all of them (R464), so that without this no
slot is usable (R469). -/
def setsUsable (bad : List Nat) : Bool := (List.range 64).all fun pc => decide ((setsOf bad pc).length < 5)

/-- START_UP_FIRMWARE_PHASE (R602, phase 3, R606): the slice test, the stacks, the delay sets, the ports and the partitions; below −20 °C
the warm-up starts. The milliseconds of event 0x1004 are left open. -/
def execStartUpFirmwarePhase (stack0 stack1 chestTemp : Int) (failedSlices : BitVec 17) (badSets : List Nat) (s : State) : Host.Outcome State Fault Refusal :=
  if !phaseDue 2 s || !firmwareRuns s then .next s
  else
    let c := s.nor.loaded
    let s := testSlices failedSlices s
    let s := hardRepair s
    let s := releasePads 0b1100000000 s
    let s := loadSets badSets (stackReading 1 stack1 (stackReading 0 stack0 s))
    let s := { s with
      params := c.params
      cxl := { s.cxl with gfam := mgetD 0 0x0601 c.params == 1, bifurcation := mgetD 0 0x0602 c.params, bureau := mgetD 0 0x0603 c.params }
      ecc := { s.ecc with ledgerOverflow := true, ledgerTime := s.tb.tod } }
    let s := setPartitions (setPorts s)
    if !setsUsable badSets then .next (stopStart 3 0 (modTi (fun t => { t with slotsTotal := 0 }) s))
    else if !partitionsFit s then .next (stopStart 3 0 s)
    else
      let s := modStart (fun x => { x with phase := 3 }) s
      if chestTemp < -20 then
        let s := modStart (fun x => { x with warm := true, warmRan := true, warmSince := s.tb.beat }) s
        .next (advance (raise 0x1004 .info (le 1 0 ++ celsiusByte chestTemp ++ zeros 2 ++ freeBytes 4 s) s))
      else .next s

/-! ### Phase 4: journal -/

/-- The records that replay reads (03_persistence R100): those from the anchored reclaim position on, in order. -/
def replayed (s : State) : List JRec := s.pu.chest.filter fun r => decide ((inUseFrom s.pu).2 ≤ r.seq)

/-- Whether a record is a DRAIN record. -/
def isDrain : RecKind → Bool
  | .drain .. => true
  | _ => false

/-- START_UP_JOURNAL_PHASE (R602, phase 4, 03_persistence R100 to R103, 07_cxl_ports R270): the chest is scanned; an unclean stop and records
with an uncorrectable payload are reported. -/
def execStartUpJournalPhase (beats : Nat) (s : State) : Host.Outcome State Fault Refusal :=
  if !phaseDue 3 s || !firmwareRuns s then .next s
  else
    match bestAnchor s.pu with
    | none => .next (stopStart 4 1 s)
    | some a =>
      let l := replayed s
      let s := modPu (fun p => { p with
        reclaimLine := a.line, reclaimSeq := a.seq
        chest := p.chest.map fun r => if a.seq ≤ r.seq then { r with placed := false } else { r with placed := true } }) s
      let s := (l.filter (·.payloadBad)).foldl (fun s r =>
        raise 0x020B .error (le 8 r.seq ++ le 4 (r.lines.filter (·.lw.poison)).length) s) s
      let first := (l.head?.map (·.seq)).getD 0
      let last := (l.getLast?.map (·.seq)).getD 0
      let s := raise 0x020A .info (le 8 first ++ le 8 last ++ le 4 beats) s
      let s := match l.getLast? with
        | none => s
        | some r =>
          if isDrain r.kind then s
          else
            raise 0x0209 .error (le 8 r.seq ++ le 4 r.pos)
              (modStart (fun x => { x with unclean := true }) (modCxl (fun c => { c with dirtyShutdowns := c.dirtyShutdowns + 1 }) s))
      let s := match s.seq.wokenBy with
        | none => s
        | some k => raise 0x0F09 .info (le 1 k) (modSeq (fun q => { q with wokenBy := none }) s)
      .next (modStart (fun x => { x with phase := 4 }) s)

/-! ### Phase 5: map -/

/-- A line of a replayed record enters the recent-write map (04_tiers R124): it replaces the older entries of its line when it has every
byte, and lies over them when it has not. -/
def enterLine (seq index : Nat) (l : RecLine) (s : State) : State :=
  modPu (fun p => { p with
    copies := (if l.lw.mask = fullMask then p.copies.filter fun c => !(c.region == l.region && c.line == l.lw.line) else p.copies) ++
      [{ region := l.region, line := l.lw.line, ack := p.nextAck, place := .chest seq index }]
    nextAck := p.nextAck + 1 }) s

/-- The SEQ of the record in which a copy stands. -/
def copySeq (c : Copy) : Nat :=
  match c.place with
  | .chest q _ => q
  | .slot _ => 0

/-- Remove the entries of a chunk whose record's SEQ is at or below `d`. -/
def dropChunk (lcn d : Nat) (s : State) : State :=
  modPu (fun p => { p with copies := p.copies.filter fun c => !(decide (copySeq c ≤ d) && chunkOfLine c.region c.line s == some lcn) }) s

/-- What one replayed record does to the recent-write map (04_tiers R124). -/
def enterRec (r : JRec) (s : State) : State :=
  match r.kind with
  | .data => r.lines.zipIdx.foldl (fun s x => enterLine r.seq x.2 x.1 s) s
  | .lineset => r.lines.zipIdx.foldl (fun s x => enterLine r.seq x.2 x.1 s) s
  | .map l => l.foldl (fun s u => dropChunk u.lcn (if u.servesUnit then r.seq else u.dataSeq) s) s
  | .metaRec items => items.foldl (fun s i =>
      match i with
      | .extentRelease _ p _ lens =>
        if p = myPosition s then
          modPu (fun q => { q with copies := q.copies.filter fun c => !((chunkOfLine c.region c.line s).any fun k => lens.contains (k / 4096)) }) s
        else s
      | _ => s) s
  | _ => s

/-- What one record above START_SEQ does to the map and to the tables (04_tiers R130, step 3, 05_regions R165). -/
def applyRec (r : JRec) (s : State) : State :=
  match r.kind with
  | .map l => l.foldl (fun s u => modTi (fun t => { t with
      map := updEntry u t.map, dirtyPages := setInsert (u.lcn / 8192) t.dirtyPages }) s) s
  | .metaRec items => items.foldl (fun s i => applyItem r.seq i s) s
  | _ => s

/-- The map as the metadata of the programmed chunks give it (04_tiers R130): of the copies of a chunk, the one with the highest DATA_SEQ. -/
def scanMap (s : State) : AMap MapEntry :=
  s.ti.chunkMeta.foldl (fun m e =>
    let x := e.2
    if x.kind ≠ 0 then m
    else
      match mget x.lcn m with
      | some o => if o.dataSeq < x.dataSeq then mput x.lcn { state := 1, addr := e.1, dataSeq := x.dataSeq } m else m
      | none => mput x.lcn { state := 1, addr := e.1, dataSeq := x.dataSeq } m) []

/-- Map entries of volatile regions are ZERO after a start-up (R130, step 4). -/
def zeroVolatile (s : State) : State :=
  let l := (s.reg.table.filter fun e => e.2.isVolatile).flatMap fun e => mgetD [] e.1 s.reg.extentMap
  modTi (fun t => { t with map := t.map.filter fun e => !l.contains (e.1 / 4096) }) s

/-- Regions that this controller can serve are OFFLINE until phase 6 (05_regions R157); a change in progress stays CHANGING. -/
def awaitOnline (s : State) : State :=
  modReg (fun g => { g with table := g.table.map fun e =>
    if e.2.state = .online ∧ (e.2.mirrored ∨ e.2.settee ∨ e.2.seat = s.ident.controllerId) then (e.1, { e.2 with state := .offline }) else e }) s

/-- The map load (04_tiers R130) over a base map, with the tables from the snapshot and the records above START_SEQ. -/
def loadMap (base : AMap MapEntry) (s : State) : State :=
  let changed := s.trust.saltChanged
  let s := modTi (fun t => { t with map := base, dirtyPages := [] }) s
  let s := modReg (fun g => { g with table := [], extentMap := [] }) s
  let s := modTrust (fun t => { t with keys := [] }) (modPair (fun p => { p with mirror := [], leaseEpoch := [] }) s)
  let s := s.ti.ckptMeta.foldl (fun s i => applyItem 0 i s) s
  let s := (s.pu.chest.filter fun r => decide (ckptStartSeq s < r.seq)).foldl (fun s r => applyRec r s) s
  let s := modTrust (fun t => { t with saltChanged := changed }) (zeroVolatile s)
  let s := (replayed s).foldl (fun s r => enterRec r s) (modPu (fun p => { p with copies := [] }) s)
  modTi (fun t => { t with ckptBeat := s.tb.beat, opBeat := s.tb.beat }) (awaitOnline s)

/-- A sanitize that a reset interrupted goes on from its step 2 (14_trust R533). -/
def resumeSanitize (s : State) : State :=
  if s.trust.sanitize = 1 then
    raise 0x0D07 .info (le 1 2 ++ le 1 s.trust.sanitizeKind)
      (modTrust (fun t => { t with run := some { kind := t.sanitizeKind, step := 2, path := none } }) s)
  else s

/-- START_UP_MAP_PHASE (R602, phase 5, 04_tiers R124, R130, R131). -/
def execStartUpMapPhase (geometryOk readable : Bool) (beats : Nat) (s : State) : Host.Outcome State Fault Refusal :=
  if !phaseDue 4 s || !firmwareRuns s then .next s
  else
    let s := releasePads 0b0011111111 s
    if !geometryOk then .next (stopStart 5 2 (raise 0x0306 .error (le 2 0xFFFF) s))
    else
      let s := if readable then s
        else raise 0x0302 .error (le 8 s.ti.ckptNumber) (modStart (fun x => { x with scanned := true }) s)
      let n := (s.pu.chest.filter fun r => decide (ckptStartSeq s < r.seq) && (match r.kind with
        | .map _ => true
        | _ => false)).length
      let s := loadMap (if readable then s.ti.ckptMap else scanMap s) s
      let s := raise 0x0303 .info (le 8 n ++ le 4 beats) s
      .next (modStart (fun x => { x with phase := 5 }) (resumeSanitize s))

/-! ### Phases 6 and 7 -/

/-- The SEQ of the newest item of a key slot that the chest holds; none when only the checkpoint's snapshot has it. -/
def keyItemSeq (slot : Nat) (s : State) : Option Nat :=
  ((s.pu.chest.filter fun r => match r.kind with
    | .metaRec items => items.any fun i => match i with
      | .keySlot n _ _ _ _ => n == slot
      | _ => false
    | _ => false).getLast?).map (·.seq)

/-- A wrapped key has failed its check (14_trust R530): event 0x0D08. The SEQ of an item that only the snapshot holds is left open. -/
def badKey (slot : Nat) (s : State) : State :=
  match mget slot s.trust.keys with
  | none => s
  | some k =>
    let s := modTrust (fun t => { t with keys := mput slot { k with key := [], bad := true } t.keys }) s
    let seq := match keyItemSeq slot s with
      | some q => le 8 q
      | none => freeBytes 8 s
    advance (raise 0x0D08 .error (le 4 slot ++ le 1 1 ++ zeros 3 ++ seq) s)

/-- Unwrap the key slots (14_trust R530), K_pair first; `badSlots` lists those that fail their check. -/
def unwrapKeys (badSlots : List Nat) (s : State) : State :=
  let l := (s.trust.keys.filter fun k => k.1 == 4096) ++ s.trust.keys.filter fun k => k.1 != 4096
  let s := l.foldl (fun s k => takeKeySlot k.1 k.2.scope k.2.type k.2.region k.2.wrapped s) s
  let fails := (s.trust.keys.filter fun k => k.2.bad || badSlots.contains k.1).map (·.1)
  fails.foldl (fun s n => badKey n s) s

/-- A region takes its state at the end of phase 6 (R603, 06_pair R240, R243). -/
def bringOnline (r : Nat) (d : Region) (s : State) : State :=
  if d.settee then s
  else if d.mirrored then
    if (ownCopy r s).state = .sole then takeOnline r s
    else modPair (fun p => { p with joinWait := mput r (s.tb.beat + param 0x0502 512 s * 2 ^ 16) p.joinWait }) s
  else if d.seat = s.ident.controllerId then takeOnline r s
  else s

/-- START_UP_REGIONS_PHASE (R602, phase 6, R603, 14_trust R530, 07_cxl_ports R257, R264). During the warm-up it waits (R606). -/
def execStartUpRegionsPhase (badSlots : List Nat) (s : State) : Host.Outcome State Fault Refusal :=
  if !phaseDue 5 s || !firmwareRuns s || s.start.warm then .next s
  else
    let s := unwrapKeys badSlots s
    let s := s.reg.table.foldl (fun s e => bringOnline e.1 e.2 s) s
    .next (modStart (fun x => { x with phase := 6 }) (restoreAttachments s))

/-- START_UP_LINKS_PHASE (R602, phase 7, R604, R607): every head and port trains, and the controller is ready. -/
def execStartUpLinksPhase (milliseconds : Nat) (s : State) : Host.Outcome State Fault Refusal :=
  if !phaseDue 6 s || !firmwareRuns s then .next s
  else
    let x := s.start
    let flags := b2n x.warmRan + 2 * b2n x.unclean + 4 * b2n x.scanned + 8 * b2n x.erasesRepeated
    let s := emit .ready (modStart (fun x => { x with phase := 7, ready := true }) s)
    .next (raise 0x1001 .info (le 4 milliseconds ++ le 1 s.seq.resetKind ++ le 1 flags) s)

/-- WARM_UP_END (R606): the chest has reached −20 °C. -/
def execWarmUpEnd (chestTemp : Int) (milliseconds : Nat) (s : State) : Host.Outcome State Fault Refusal :=
  if !s.start.warm || decide (chestTemp < -20) || s.start.stopped.isSome then .next s
  else
    .next (raise 0x1004 .info (le 1 1 ++ celsiusByte chestTemp ++ zeros 2 ++ le 4 milliseconds) (modStart (fun x => { x with warm := false }) s))

/-- WARM_UP_TIMEOUT (R606): 20 s on, start-up stops. -/
def execWarmUpTimeout (s : State) : Host.Outcome State Fault Refusal :=
  if !s.start.warm || s.start.stopped.isSome || decide (s.tb.beat < s.start.warmSince + 39062500) then .next s
  else .next (stopStart (s.start.phase + 1) 3 s)

end Sys2Proof.Machine
end

