-- ==== Sys2Proof/Machine/Executor.lean ====
section
/-! DEFINITION. The BCS executor: a command by its opcode, the commands that waited, BCS Tunnel, forwarded commands, the echoes, yields and
completions of leases, moves and switch-overs that set waiting commands going, and the JTAG instruction (13_management R482 to R493,
06_pair R216 to R227, 05_regions R168, 14_trust R534). -/

namespace Sys2Proof.Machine

/-- The state that a meaning leaves. -/
def outState (o : Host.Outcome State Fault Refusal) (s : State) : State :=
  match o with
  | .next t => t
  | _ => s

/-- The meaning of a BCS command on a path with its input. -/
abbrev BcsMeaning := BcsPath → Bytes → State → Host.Outcome State Fault Refusal

/-- The standard memory-device commands and the FM API (R493). -/
def standardTable : List (Nat × BcsMeaning) :=
  [(0x0001, execIdentify), (0x0002, execBackgroundOperationStatus), (0x0100, execGetEventRecords), (0x0101, execClearEventRecords),
   (0x0102, execGetEventInterruptPolicy), (0x0103, execSetEventInterruptPolicy), (0x0200, execGetFwInfo), (0x0201, execTransferFw),
   (0x0202, execActivateFw), (0x0300, execGetTimestamp), (0x0301, execSetTimestamp), (0x0400, execGetSupportedLogs), (0x0401, execGetLog),
   (0x4000, execIdentifyMemoryDevice), (0x4100, execGetPartitionInfo), (0x4101, execSetPartitionInfo), (0x4102, execGetLsa),
   (0x4103, execSetLsa), (0x4200, execGetHealthInfo), (0x4201, execGetAlertConfiguration), (0x4202, execSetAlertConfiguration),
   (0x4203, execGetShutdownState), (0x4204, execSetShutdownState), (0x4300, execGetPoisonList), (0x4301, execInjectPoison),
   (0x4302, execClearPoison), (0x4303, execGetScanMediaCapabilities), (0x4304, execScanMedia), (0x4305, execGetScanMediaResults),
   (0x4400, execCxlSanitize), (0x4401, execSecureErase), (0x4800, execGetDynamicCapacityConfiguration),
   (0x4801, execGetDynamicCapacityExtentList), (0x5400, execGetLdInfo), (0x5401, execGetLdAllocations), (0x5402, execSetLdAllocations)]

/-- The vendor commands of the pair, the regions, power and parameters (R495 to R498). -/
def vendorTable1 : List (Nat × BcsMeaning) :=
  [(0xC000, execFormPair), (0xC001, execArmPairJoin), (0xC002, execDissolvePair), (0xC003, execGetPairStatus), (0xC004, execMoveSeat),
   (0xC005, execMoveChair), (0xC006, execAdmitReplacement), (0xC007, execSetStandbyChecks), (0xC008, execGetPairHealth),
   (0xC009, execForceSeat), (0xC00A, execSetWitnessPath), (0xC010, execCreateRegion), (0xC011, execDeleteRegion),
   (0xC012, execResizeRegion), (0xC013, execGetRegion), (0xC014, execListRegions), (0xC015, execSetRegionAttributes),
   (0xC016, execAttachExtent), (0xC017, execDetachExtent), (0xC018, execGrantMemoryKey), (0xC019, execRevokeMemoryKey),
   (0xC01A, execGetCapacity), (0xC020, execGetUnitPower), (0xC021, execSetUnitPower), (0xC022, execGetParameter),
   (0xC023, execSetParameter), (0xC024, execListParameters), (0xC025, execEnterDeviceStandby)]

/-- The other vendor commands (R499 to R505). -/
def vendorTable2 : List (Nat × BcsMeaning) :=
  [(0xC030, execReadEvents), (0xC031, execGetRecorderStatus), (0xC040, execIdentifyController), (0xC041, execGetIdentityKey),
   (0xC042, execGetAttestationReport), (0xC050, execGetProtectionLevel), (0xC051, execSetProtectionLevel), (0xC052, execSanitize),
   (0xC060, execCaptureControl), (0xC061, execReplayControl), (0xC070, execGetSparesInventory), (0xC071, execGetEraseCounts),
   (0xC072, execGetStripeState), (0xC073, execReadWearLog), (0xC074, execStartScrub), (0xC075, execGetScrubSummary),
   (0xC080, execGetSequencerStatus), (0xC081, execClearLockout), (0xC082, execPowerDown), (0xC090, execGetSlotTable),
   (0xC091, execSetSlotTable), (0xC092, execActivateSlotTable), (0xC093, execBindTransformStream), (0xC0A0, execCreateQp),
   (0xC0A1, execModifyQp), (0xC0A2, execQueryQp), (0xC0A3, execDestroyQp), (0xC0A4, execSetGid), (0xC0A5, execGetPortStatus),
   (0xC0A6, execTriggerCounter), (0xC0B0, execCreateQueuePair), (0xC0B1, execDeleteQueuePair), (0xC0B2, execQueryQueuePair)]

/-- Run a BCS command (R483): at its turn, by its opcode; an unknown one is Unsupported (R491). -/
def runBcs (path : BcsPath) (opcode : Nat) (input : Bytes) (s : State) : State :=
  match (standardTable ++ vendorTable1 ++ vendorTable2).find? fun e => e.1 == opcode with
  | some e => outState (e.2 path input s) s
  | none =>
    if 0x5600 ≤ opcode ∧ opcode ≤ 0x5605 then outState (execDcdManagementCommand path opcode input s) s
    else unsupported path opcode input s

/-- The commands that waited run, in order of receipt (05_regions R168, R479); what still has to wait waits again. -/
def runHeld (s : State) : State :=
  if s.mc.serving then
    let l := s.pair.heldBcs
    l.foldl (fun s h => runBcs h.path h.opcode h.input s) (modPair (fun p => { p with heldBcs := [] }) s)
  else s

/-- COMPLEX_RESTART_COMPLETE (R478, R492, R509 to R511): what arrived during the restart runs now. -/
def execComplexRestartComplete (s : State) : Host.Outcome State Fault Refusal :=
  .next (if restartReady s then
    let l := s.pair.heldBcs
    let s := restarted (modPair (fun p => { p with heldBcs := [] }) s)
    l.foldl (fun s h => runBcs h.path h.opcode h.input s) s
  else s)

/-- FWD_BCS (R484): a command that the partner forwarded runs here at its turn. -/
def execFwdBcs (mtag opcode : Nat) (privileged : Bool) (input : Bytes) (s : State) : Host.Outcome State Fault Refusal :=
  .next (if isPaired s then runBcs (.forwarded mtag privileged) opcode input s else s)

/-- BCS_TUNNEL (09_command_queues R368, R369, R376): GQP opcode 0x7F of queue 0. -/
def execBcsTunnel (cid : Nat) (input : Bytes) (s : State) : Host.Outcome State Fault Refusal :=
  .next (withCmd 0 cid (fun e => eOpcode e == 0x7F) (fun q c s =>
    let e := c.entry
    let n := eLength e
    let fields := headerOk q c && eRegion e == 0 && eOffset e == 0 && decide (eCdw5 e < 65536) && cspecZero [(32, 44)] e &&
      decide (fld 40 4 e ≤ 65536) && (q.transport == 0 || eArg e == 0)
    if !fields || decide (65536 < n) || !dataFits c n then refuseCmd 0 cid 2 s
    else runBcs (.admin cid) (eCdw5 e) (hostBytes c input n) (runCmd 0 cid [] s)) s)

/-- HEARTBEAT_ECHO (06_pair R217): the lease set is valid until h_e + 4,096, and a holder that had stopped acts again. -/
def execHeartbeatEcho (h : Nat) (s : State) : Host.Outcome State Fault Refusal :=
  let newer := match s.pair.hEcho with
    | some e => decide (e < h)
    | none => true
  if !isPaired s || !newer || decide (s.tb.beat < h) then .next s
  else
    let was := s.pair.stopped
    let stays := decide (h + 3584 ≤ s.tb.beat)
    let s := modPair (fun p => { p with hEcho := some h, stopped := p.stopped && stays }) s
    .next (if was && !stays then runHeld (releaseHeld s) else s)

/-- TAKEN (06_pair R217): the holder yields at once. -/
def execTaken (chairEpoch : Nat) (s : State) : Host.Outcome State Fault Refusal :=
  .next (if isPaired s then yieldAll chairEpoch s else s)

/-- A mirrored region that moved has CHEST cleared where it is seated on the partner now (05_regions R186). -/
def clearChest (r : Nat) (s : State) : State :=
  match regionOf r s with
  | none => s
  | some d => if d.roReasons.getLsbD 2 && !seatedHere d s then setReason r 2 false s else s

/-- SEAT_MOVE_COMPLETE (06_pair R226, step 4): the LEASE item is complete in the target's chest. Region 0 is the chair. -/
def execSeatMoveComplete (region : Nat) (s : State) : Host.Outcome State Fault Refusal :=
  match s.pair.move with
  | none => .next s
  | some m =>
    if m.region ≠ region ∨ m.phase ≠ 2 then .next s
    else
      let byCommand := m.cause == 1
      let s := modPair (fun p => { p with move := none, moveSinceSwitch := p.moveSinceSwitch || byCommand }) s
      let s := if region = 0 then raise 0x0509 .info (le 1 m.target ++ le 1 m.cause ++ zeros 2 ++ le 4 s.pair.chairEpoch) s
        else clearChest region (raise 0x0508 .info
          (le 2 region ++ le 1 m.target ++ le 1 m.cause ++ le 4 (mgetD 0 region s.pair.leaseEpoch)) s)
      let more := s.pair.moveQueue.any fun x => x.path == m.path && x.region != 0
      let s := match m.path with
        | none => s
        | some p =>
          if region = 0 then success p 0xC005 (le 4 s.pair.chairEpoch) s
          else if more then s
          else success p 0xC004 (le 2 m.ordinal) s
      let s := releaseHeld s
      .next (nextMove (if region = 0 then forwardHeldBcs s else s))

/-- SWITCH_OVER_COMPLETE (06_pair R221 to R225, R243): the takeover's META record is complete. -/
def execSwitchOverComplete (s : State) : Host.Outcome State Fault Refusal :=
  if !(s.pair.takeover && s.pair.takeoverDone) then .next s
  else
    let dead := s.pair.partnerLost
    let singles := partnerSingles s
    let gap := s.tb.beat - s.pair.heard.getD 0
    let s := modPair (fun p => { p with takeover := false, unavailable := singles }) s
    let s := raise 0x0507 .warning (le 2 (partnerId s) ++ le 4 gap ++ le 4 s.pair.taken ++ le 1 (b2n (!dead))) s
    let s := (mirroredRegions s).foldl (fun s e =>
      raise 0x050B .warning (mirrorEvent e.1 .sole (ownCopy e.1 s).gen) s) s
    let s := if dead then
        let s := singles.foldl (fun s r => noteUnavailable r s) s
        if isSettee s then s.reg.table.foldl (fun s e => takeOffline e.1 s) s else s
      else s
    .next (runHeld (releaseHeld s))

/-- SWITCH_OVER_BOUND (05_regions R168): at 8,192 beats after r, the chair-served commands that still wait fail with Retry Required when this
controller holds no chair and has no link to one that does. -/
def execSwitchOverBound (s : State) : Host.Outcome State Fault Refusal :=
  if !isPaired s || s.pair.chairHere || linkUp s || !chairBoundPassed s || !s.mc.serving then .next s
  else
    let l := s.pair.heldBcs
    .next (l.foldl (fun s h => answer h.path h.opcode 0x0005 [] s) (modPair (fun p => { p with heldBcs := [] }) s))

/-- JTAG_INSTRUCTION (14_trust R534): the instructions are 0 BYPASS, 1 IDCODE, 2 SAMPLE/PRELOAD, 3 EXTEST, and from 4 on every other
instruction of the TAP. At levels 1 and 2 every other instruction selects BYPASS. -/
def execJtagInstruction (instruction : Nat) (s : State) : Host.Outcome State Fault Refusal :=
  let allowed := decide (instruction < 4) || roLevel s == 0
  .next (modTrust (fun t => { t with jtag := if allowed then instruction else 0, jtagBypass := !allowed || instruction == 0 }) s)

end Sys2Proof.Machine
end

