-- ==== Sys2Proof/Machine/Flags.lean ====
section
/-! DEFINITION. The field rules of register writes (00_scope R4 to R6). -/

namespace Sys2Proof.Machine

/-- Bits `hi` to `lo` of a 32-bit register value. -/
def wf (hi lo : Nat) (v : Word) : Nat := bitsOf hi lo v.toNat

/-- One bit of a 32-bit register value. -/
def wbit (i : Nat) (v : Word) : Bool := v.getLsbD i

/-- An RW1C bit after a write (R4): a written 1 clears it. -/
def rw1c (old written : Bool) : Bool := old && !written

/-- An RW1C bit when hardware sets it in the same cycle (R5): the set wins. -/
def rw1cSet (old written hwSet : Bool) : Bool := hwSet || rw1c old written

/-- Whether a write carries a nonzero value in a RSVD field (R6), the field being the bits set in `rsvd`. -/
def badRsvd (rsvd v : Word) : Bool := (v &&& rsvd) != 0

/-- A field after a write (R6): the written value where it is defined for the field, else the old one. -/
def fieldOr {α : Type} (defined : Bool) (new old : α) : α := if defined then new else old

end Sys2Proof.Machine
end

