-- ==== Sys2Proof/Machine/Registers.lean ====
section
/-! DEFINITION. The register blocks of BAR 0: what a read returns and what a write does, by the access codes of 00_scope R4 to R6
(02_beat R33, R58, 07_cxl_ports R285, 08_remote_access R293, 09_command_queues R354, R355, 11_transform_engine R445, 12_integrity R475,
13_management R481, R485 to R488, 16_power R595, R596). -/

namespace Sys2Proof.Machine

/-- The head of a function. -/
def srcHead : MmioSrc → Nat
  | .ld i => i / 16
  | .fm h => h

/-- The mailbox of a function. -/
def srcMail : MmioSrc → Nat
  | .ld i => i
  | .fm h => 256 + h

/-- The BCS path of a function's mailbox (R482). -/
def srcPath : MmioSrc → BcsPath
  | .ld i => .primary i
  | .fm h => .fm h

/-- The offset of the mailbox capability in the device register block, which the specification leaves to the capabilities array. -/
def mbxBase : Nat := 0x1000

/-- Whether a block of BAR 0 is powered (R490): the SEQ and SBI blocks always are, the others with VCORE. -/
def blockPowered (off : Nat) (s : State) : Bool := (decide (0x38000 ≤ off) && decide (off < 0x40000)) || vcoreUp s

/-- Bits given as a list, bit 0 first. -/
def packBits : List Bool → Nat
  | [] => 0
  | b :: r => b2n b + 2 * packBits r

/-- A signed temperature as eight bits. -/
def signedByte (t : Int) : Nat := (t % 256).toNat

/-! ### Reads -/

/-- The DCB registers below 0x0400. -/
def dcbLow (o : Nat) (s : State) : Option Nat :=
  let ctr (k : Nat) (m : AMap Nat) : Option Nat := some (mgetD 0 k m)
  match o with
  | 0x40 => some s.tb.beat
  | 0x44 => some s.tb.beatHi.toNat
  | 0x48 => some s.tb.tod
  | 0x4C => some s.tb.todHi.toNat
  | 0x50 => some (s.tb.mode.code + 2 ^ 4 * packBits [s.tb.stepped, s.tb.srcLost, s.tb.slotOvr, s.tb.ppsMiss])
  | 0x54 => some (s.tb.srcSel + 2 ^ 4 * s.tb.ptpPort + 2 ^ 8 * packBits [s.tb.ppsOutEn, s.tb.ppsInPol])
  | 0x80 => some (s.te.sliceOk.toNat + 2 ^ 17 * b2n s.te.spare.isSome + 2 ^ 21 * ones 17 s.te.active.toNat)
  | 0x84 => some (packBits [s.te.sliceFault, s.te.tagFail, s.te.nctrWait, s.te.katFail])
  | 0x88 => some s.te.nonce
  | 0x8C => some s.te.nctrHi.toNat
  | 0xC0 => some s.ecc.err.toNat
  | 0xC4 => ctr 0 s.ecc.ce
  | 0xC8 => ctr 0 s.ecc.ue
  | 0xCC => ctr 1 s.ecc.ce
  | 0xD0 => ctr 1 s.ecc.ue
  | 0xD4 => ctr 2 s.ecc.ce
  | 0xD8 => ctr 2 s.ecc.ue
  | 0xDC => ctr 3 s.ecc.ce
  | 0xE0 => ctr 3 s.ecc.ue
  | 0xE4 => some s.ecc.poisonOut
  | 0xE8 => some s.ecc.logAddr
  | 0xEC => some s.ecc.logHi.toNat
  | 0xF0 => some (s.ecc.logMemory % 4 + 2 ^ 8 * (s.ecc.logPc % 256) + 2 ^ 16 * (s.ecc.logPort % 8) + 2 ^ 19 * b2n s.ecc.logRecovered +
      2 ^ 31 * b2n s.ecc.logValid)
  | 0xF4 => some (s.ecc.stack0.band % 4 + 4 * (s.ecc.stack1.band % 4) + 2 ^ 8 * packBits [s.ecc.stack0.half, s.ecc.stack1.half] +
      match s.ecc.change with
      | some c => 2 ^ 16 * (c.pc % 64) + 2 ^ 22
      | none => 0)
  | 0xF8 => some (signedByte s.ecc.stack0.temp + 2 ^ 8 * signedByte s.ecc.stack1.temp)
  | 0x100 => some (s.mc.active + 2 * packBits [s.mc.spareUsable, noPair s, s.mc.rom] + 2 ^ 16 * s.mc.restarts)
  | _ => none

/-- The front-cache registers of a head (07_cxl_ports R285), zero for a head that does not exist. -/
def fcReg (h o : Nat) (s : State) : Option Nat :=
  let x := mgetD {} h s.cxl.heads
  let on := headExists h s
  match o with
  | 0x00 => some (if on then x.bankOn.toNat + 2 ^ 8 * x.bankClean.toNat else 0)
  | 0x04 => some x.hit
  | 0x08 => some x.miss
  | 0x0C => some x.merge
  | 0x10 => some x.victimHits
  | 0x14 => some (packBits [x.eccClean, x.eccDirty])
  | _ => none

/-- The registers of an Ethernet port (08_remote_access R293). -/
def ethReg (p o : Nat) (s : State) : Option Nat :=
  let x := mgetD {} p s.net.ports
  match o with
  | 0x0 => some (b2n x.up + 2 ^ 4 * b2n x.instrument + 2 ^ 5 * x.speed)
  | 0x4 => some x.err.toNat
  | 0x8 => some x.rx.toNat
  | _ => some x.drops.toNat

/-- The DCB block. -/
def dcbReg (o : Nat) (s : State) : Option Nat :=
  if o < 0x400 then dcbLow o s
  else if o < 0x600 then fcReg ((o - 0x400) / 0x20) ((o - 0x400) % 0x20) s
  else if o < 0x700 then ethReg ((o - 0x600) / 0x10) ((o - 0x600) % 0x10) s
  else none

/-- The EVT block as a head sees it (R486). -/
def evtReg (head o : Nat) (s : State) : Option Nat :=
  let q := mgetD {} head s.ev.irq
  match o with
  | 0x00 => some s.ev.status.toNat
  | 0x04 => some (b2n q.badwrEnable + 2 ^ 4 * q.enable.toNat)
  | 0x08 => some q.vector.toNat
  | 0x10 => some (newestIndex s)
  | 0x14 => some s.ev.newestHi.toNat
  | 0x18 => some s.ev.lost
  | _ => none

/-- The PWR block (16_power R595). -/
def pwrReg (o : Nat) (s : State) : Option Nat :=
  let u := s.pwr.unitSel
  let x := unitOfPower u s
  let known := (unitKind u s).isSome
  match o with
  | 0x00 => some u
  | 0x04 => some (if known then unitStateNow u s + 2 ^ 16 * x.commanded.getD 0xFF else 0xFF00FF)
  | 0x08 => some (if known then x.count else 0)
  | 0x0C => some (if known then x.refuser else 0)
  | 0x10 => some s.pwr.padHeld.toNat
  | 0x14 => some 0
  | 0x18 => some (packBits [s.pwr.warn, s.pwr.crit] + 2 ^ 16 * signedByte (s.pwr.tjMax.getD 0))
  | 0x1C => some (packBits [s.pwr.wdiEarly, s.pwr.wdiLate])
  | _ => none

/-- The SEQ block (16_power R596). -/
def seqReg (o : Nat) (s : State) : Option Nat :=
  match o with
  | 0x00 => some (s.seq.state.code + 2 ^ 16 * s.seq.attempt + 2 ^ 24 * s.seq.failRail)
  | 0x04 => some s.seq.en.toNat
  | 0x08 => some s.seq.pg.toNat
  | 0x0C => some (s.seq.downFail.toNat + 2 ^ 16 * b2n s.seq.pgLost)
  | 0x10 => some s.seq.lockouts
  | _ => none

/-- The SBI block (R487). -/
def sbiReg (o : Nat) (s : State) : Option Nat :=
  match o with
  | 0x00 => some (s.mc.sbAddr % 128 + 2 ^ 7)
  | 0x04 => some (packBits [s.mc.pecErr, s.mc.nack, s.mc.timeout, s.mc.woke])
  | 0x08 => some s.mc.xacts
  | 0x0C => some s.mc.pecErrs
  | 0x10 => some s.mc.nacks
  | _ => none

/-- The GQP block (09_command_queues R354, R355). -/
def gqpReg (o : Nat) (s : State) : Option Nat :=
  let a := s.gqp.aq
  if 0x1000 ≤ o ∧ o < 0x21000 then
    let q := queueOf ((o - 0x1000) / 8) s
    some (if o % 8 = 0 then (q.map (·.sqTail)).getD 0 else (q.map (·.cqHead)).getD 0)
  else
    match o with
    | 0x00 => some 0xFFFF3FFF
    | 0x08 => some (packBits [a.en, a.rdy, a.fatal] + 2 ^ 8 * a.owner)
    | 0x0C => some (a.sqd + 2 ^ 16 * a.cqd)
    | 0x10 => some a.sqb
    | 0x14 => some (a.sqb / 2 ^ 32)
    | 0x18 => some a.cqb
    | 0x1C => some (a.cqb / 2 ^ 32)
    | 0x20 => some a.vector
    | 0x24 => some (a.aggCount + 2 ^ 16 * a.aggBeats)
    | _ => none

/-- The MBX block of a function (R488), at offsets from the mailbox capability. -/
def mbxReg (k o : Nat) (s : State) : Option Nat :=
  let m := mgetD {} k s.mc.mail
  match o with
  | 0x00 => some (0x10 + 2 ^ 5 * 3 + 2 ^ 11 * 1)
  | 0x04 => some (packBits [m.doorbell, m.dbIrqEn, m.bgIrqEn])
  | 0x08 => some (m.opcode + 2 ^ 16 * m.payloadLen)
  | 0x0C => some (m.payloadLen / 2 ^ 16)
  | 0x10 => some (b2n m.bgOp)
  | 0x14 => some (m.rc + 2 ^ 16 * m.vstatus)
  | 0x18 => some (m.bgOpcode + 2 ^ 16 * m.bgPercent)
  | 0x1C => some (m.bgRc + 2 ^ 16 * m.bgVstatus)
  | _ => if 0x20 ≤ o ∧ o < 0x10020 then some (leVal (memReadN m.payload (o - 0x20) 4)) else none

/-- The register at an offset of BAR 0 (R485), as a function sees it; none where the specification gives no register. -/
def regAt (src : MmioSrc) (off : Nat) (s : State) : Option Nat :=
  if off % 4 ≠ 0 then none
  else if off < 0x20000 then (if mbxBase ≤ off then mbxReg (srcMail src) (off - mbxBase) s else none)
  else if off < 0x30000 then dcbReg (off - 0x20000) s
  else if off < 0x34000 then evtReg (srcHead src) (off - 0x30000) s
  else if off < 0x38000 then pwrReg (off - 0x34000) s
  else if off < 0x3C000 then seqReg (off - 0x38000) s
  else if off < 0x40000 then sbiReg (off - 0x3C000) s
  else gqpReg (off - 0x40000) s

/-- What a read of a low half latches (R33, R58, R445, R475, R486). -/
def readLatch (off : Nat) (s : State) : State :=
  match off with
  | 0x20040 => latchBeat s
  | 0x20048 => latchTod s
  | 0x20088 => latchNonce s
  | 0x200E8 => latchUeLog s
  | 0x30010 => latchNewest s
  | _ => s

/-- A register read: its value and the state after it. A block that is powered down reads as ones (R490); what an offset without a
register reads as is left open. -/
def readReg (src : MmioSrc) (off : Nat) (s : State) : Word × State :=
  if !blockPowered off s then (0xFFFFFFFF, s)
  else
    match regAt src off s with
    | some v => (BitVec.ofNat 32 v, readLatch off s)
    | none => (BitVec.ofNat 32 (drawn s).toNat, advance s)

/-! ### Writes -/

/-- The RSVD bits of a DCB register. -/
def dcbRsvd (o : Nat) : Word :=
  if o < 0x400 then
    match o with
    | 0x50 => 0xFFFFFF08
    | 0x54 => 0xFFFFFC0C
    | 0x80 => 0xFC1C0000
    | 0x84 => 0xFFFFFFF0
    | 0xC0 => 0xFFFFFC00
    | 0xF0 => 0x7FF000FC
    | 0xF4 => 0xFF80FCF0
    | 0xF8 => 0xFFFF0000
    | 0x100 => 0x0000FFF0
    | _ => 0
  else if o < 0x600 then (if o % 0x20 = 0 then 0xFFFFC0C0 else if o % 0x20 = 0x14 then 0xFFFFFFFC else 0)
  else if o < 0x700 then (if o % 0x10 = 0 then 0xFFFFFF0E else if o % 0x10 = 4 then 0xFFFFFFF0 else 0)
  else 0

/-- The RSVD bits of a register of the PWR, SEQ and SBI blocks, by its offset in BAR 0. -/
def powerRsvd (off : Nat) : Word :=
  match off with
  | 0x34000 => 0xFFFF0000
  | 0x34004 => 0xFF00FF00
  | 0x3400C => 0xFFFF0000
  | 0x34010 => 0xFFFFFC00
  | 0x34014 => 0xFFFFFC00
  | 0x34018 => 0xFF00FFFC
  | 0x3401C => 0xFFFFFFFC
  | 0x38000 => 0xF0F8FFF8
  | 0x38004 => 0xFFFFF000
  | 0x38008 => 0xFFFFF000
  | 0x3800C => 0xFFFEF000
  | 0x3C000 => 0xFFFFFF00
  | 0x3C004 => 0xFFFFFFF0
  | _ => 0

/-- The RSVD bits of a register of the EVT, GQP and MBX blocks, by its offset in BAR 0. A doorbell's are left to its own write. -/
def otherRsvd (off : Nat) : Word :=
  match off with
  | 0x30000 => 0xFFFFFF0E
  | 0x30004 => 0xFFFFFF0E
  | 0x30008 => 0xFFFFF800
  | 0x40008 => 0xFFFFF0F8
  | 0x40010 => 0x00000FFF
  | 0x40018 => 0x00000FFF
  | 0x40020 => 0xFFFFF800
  | 0x40024 => 0x0000FF00
  | 0x1000 => 0xFF800000
  | 0x1004 => 0xFFFFFFF8
  | 0x100C => 0xFFFFFFE0
  | 0x1010 => 0xFFFFFFFE
  | 0x1018 => 0xFF800000
  | _ => 0

/-- The RSVD bits of a register (R4, R6). -/
def rsvdOf (off : Nat) : Word :=
  if 0x20000 ≤ off ∧ off < 0x30000 then dcbRsvd (off - 0x20000) else if 0x34000 ≤ off ∧ off < 0x40000 then powerRsvd off else otherRsvd off

/-- A write of DCB.TB_CTRL (02_beat R50, R52, R57, R58): with no source selected the timebase is FREE. -/
def writeTbCtrl (v : Word) (s : State) : State :=
  let s := modTb (fun t => { t with
    ppsInPol := wbit 9 v, ppsOutEn := wbit 8 v, ptpPort := wf 7 4 v, srcSel := wf 1 0 v
    goodSince := if t.srcSel = wf 1 0 v ∧ t.ptpPort = wf 7 4 v then t.goodSince else none
    lastEdgeBeat := if t.srcSel = wf 1 0 v then t.lastEdgeBeat else none }) s
  holdPps (if wf 1 0 v = 0 then enterMode .free s else s)

/-- Writes of the DCB block: the RW1C flags and the timebase control. -/
def dcbWrite (o : Nat) (v : Word) (s : State) : State :=
  if 0x400 ≤ o ∧ o < 0x600 then
    if o % 0x20 = 0x14 ∧ headExists ((o - 0x400) / 0x20) s then
      modHead ((o - 0x400) / 0x20) (fun h => { h with eccClean := rw1c h.eccClean (wbit 0 v), eccDirty := rw1c h.eccDirty (wbit 1 v) }) s
    else s
  else if 0x600 ≤ o ∧ o < 0x700 then
    if o % 0x10 = 4 then
      { s with net := { s.net with ports := mmod ((o - 0x600) / 0x10) (fun p => { p with err := p.err &&& ~~~ v.setWidth 4 }) s.net.ports } }
    else s
  else
    match o with
    | 0x50 => modTb (fun t => { t with
        stepped := rw1c t.stepped (wbit 4 v), srcLost := rw1c t.srcLost (wbit 5 v), slotOvr := rw1c t.slotOvr (wbit 6 v)
        ppsMiss := rw1c t.ppsMiss (wbit 7 v) }) s
    | 0x54 => writeTbCtrl v s
    | 0x84 => modTe (fun t => { t with
        sliceFault := rw1c t.sliceFault (wbit 0 v), tagFail := rw1c t.tagFail (wbit 1 v), nctrWait := rw1c t.nctrWait (wbit 2 v)
        katFail := rw1c t.katFail (wbit 3 v) }) s
    | 0xC0 => { s with ecc := { s.ecc with err := s.ecc.err &&& ~~~ v.setWidth 10 } }
    | 0xF0 =>
      if wbit 31 v then
        { s with ecc := { s.ecc with logValid := false, logAddr := 0, logRecovered := false, logPort := 0, logPc := 0, logMemory := 0 } }
      else s
    | _ => s

/-- Writes of the EVT block (R486). -/
def evtWrite (head o : Nat) (v : Word) (s : State) : State :=
  match o with
  | 0x00 => { s with ev := { s.ev with status := s.ev.status &&& ~~~ v.setWidth 8 } }
  | 0x04 => { s with ev := { s.ev with irq := mmodD {} head (fun q =>
      { q with enable := BitVec.ofNat 4 (wf 7 4 v), badwrEnable := wbit 0 v }) s.ev.irq } }
  | 0x08 => { s with ev := { s.ev with irq := mmodD {} head (fun q => { q with vector := v.setWidth 11 }) s.ev.irq } }
  | _ => s

/-- Writes of the PWR block (16_power R590, R595). -/
def pwrWrite (o : Nat) (v : Word) (s : State) : State :=
  match o with
  | 0x00 => modPwr (fun p => { p with unitSel := wf 15 0 v }) s
  | 0x14 => releasePads (v.setWidth 10) s
  | 0x18 => modPwr (fun p => { p with warn := rw1c p.warn (wbit 0 v), crit := rw1c p.crit (wbit 1 v) }) s
  | 0x1C => modPwr (fun p => { p with wdiEarly := rw1c p.wdiEarly (wbit 0 v), wdiLate := rw1c p.wdiLate (wbit 1 v) }) s
  | _ => s

/-- Writes of the SEQ block (16_power R596). -/
def seqWrite (o : Nat) (v : Word) (s : State) : State :=
  if o = 0x0C then modSeq (fun q => { q with downFail := q.downFail &&& ~~~ v.setWidth 12, pgLost := rw1c q.pgLost (wbit 16 v) }) s else s

/-- Writes of the SBI block (R487). -/
def sbiWrite (o : Nat) (v : Word) (s : State) : State :=
  if o = 0x04 then
    modMc (fun m => { m with
      pecErr := rw1c m.pecErr (wbit 0 v), nack := rw1c m.nack (wbit 1 v), timeout := rw1c m.timeout (wbit 2 v)
      woke := rw1c m.woke (wbit 3 v) }) s
  else s

/-- A change of the admin queue registers that queue 0 itself follows while it exists. -/
def modAq (f : AdminRegs → AdminRegs) (s : State) : State :=
  modQ 0 (fun q => let a := f s.gqp.aq; { q with vector := a.vector, aggCount := a.aggCount, aggBeats := a.aggBeats })
    (modGqp (fun g => { g with aq := f g.aq }) s)

/-- A ring depth minus one, 1 to 0xFFFF; 0 is not defined (R6, R354). -/
def writeDepth (v : Word) (s : State) : State :=
  let s := if wf 15 0 v = 0 ∨ wf 31 16 v = 0 then badWrite s else s
  modAq (fun a => { a with
    sqd := fieldOr (wf 15 0 v != 0) (wf 15 0 v) a.sqd, cqd := fieldOr (wf 31 16 v != 0) (wf 31 16 v) a.cqd }) s

/-- Writes of the admin queue registers (09_command_queues R354): while EN is 1, one through another head, or one of the depth and the
bases, is ignored with BADWR. -/
def aqWrite (head o : Nat) (v : Word) (s : State) : State :=
  let a := s.gqp.aq
  if a.en && (a.owner != head || [0x0C, 0x10, 0x14, 0x18, 0x1C].contains o) then badWrite s
  else
    match o with
    | 0x08 => if wbit 0 v then aqEnable head s else aqDisable head s
    | 0x0C => writeDepth v s
    | 0x10 => modAq (fun a => { a with sqb := a.sqb / 2 ^ 32 * 2 ^ 32 + wf 31 12 v * 4096 }) s
    | 0x14 => modAq (fun a => { a with sqb := v.toNat * 2 ^ 32 + a.sqb % 2 ^ 32 }) s
    | 0x18 => modAq (fun a => { a with cqb := a.cqb / 2 ^ 32 * 2 ^ 32 + wf 31 12 v * 4096 }) s
    | 0x1C => modAq (fun a => { a with cqb := v.toNat * 2 ^ 32 + a.cqb % 2 ^ 32 }) s
    | 0x20 => modAq (fun a => { a with vector := wf 10 0 v }) s
    | 0x24 => modAq (fun a => { a with aggBeats := wf 31 16 v, aggCount := wf 7 0 v }) s
    | _ => s

/-- Writes of the GQP block (R354, R355). -/
def gqpWrite (head o : Nat) (v : Word) (s : State) : State :=
  if 0x1000 ≤ o ∧ o < 0x21000 then
    if o % 8 = 0 then sqTail head ((o - 0x1000) / 8) v s else cqHead head ((o - 0x1000) / 8) v s
  else aqWrite head o v s

/-- Change a function's mailbox. -/
def modMail (k : Nat) (f : Mailbox → Mailbox) (s : State) : State := modMc (fun m => { m with mail := mmodD {} k f m.mail }) s

/-- A write of MBX.CTRL (R488): DOORBELL submits the command that MBX.CMD and MBX.PAYLOAD hold. -/
def writeMbxCtrl (src : MmioSrc) (v : Word) (s : State) : State :=
  let k := srcMail src
  let before := mgetD {} k s.mc.mail
  let s := modMail k (fun m => { m with bgIrqEn := wbit 2 v, dbIrqEn := wbit 1 v }) s
  if wbit 0 v && !before.doorbell then
    runBcs (srcPath src) before.opcode (memReadN before.payload 0 before.payloadLen) (modMail k (fun m => { m with doorbell := true }) s)
  else s

/-- Writes of the MBX block (R488): while DOORBELL is 1, MBX.CMD and MBX.PAYLOAD do not change, and BADWR is set. -/
def mbxWrite (src : MmioSrc) (o : Nat) (v : Word) (s : State) : State :=
  let k := srcMail src
  let busy := (mgetD {} k s.mc.mail).doorbell
  if o = 0x04 then writeMbxCtrl src v s
  else if o = 0x08 ∨ o = 0x0C ∨ (0x20 ≤ o ∧ o < 0x10020) then
    if busy then badWrite s
    else
      modMail k (fun m =>
        if o = 0x08 then { m with opcode := wf 15 0 v, payloadLen := m.payloadLen / 2 ^ 16 * 2 ^ 16 + wf 31 16 v }
        else if o = 0x0C then { m with payloadLen := wf 4 0 v * 2 ^ 16 + m.payloadLen % 2 ^ 16 }
        else { m with payload := memWriteN (o - 0x20) (le 4 v.toNat) m.payload }) s
  else s

/-- The fields of a write, each by its access code (R4); RO fields and offsets without a register ignore it. -/
def writeFields (src : MmioSrc) (off : Nat) (v : Word) (s : State) : State :=
  if off % 4 ≠ 0 then s
  else if off < 0x20000 then (if mbxBase ≤ off then mbxWrite src (off - mbxBase) v s else s)
  else if off < 0x30000 then dcbWrite (off - 0x20000) v s
  else if off < 0x34000 then evtWrite (srcHead src) (off - 0x30000) v s
  else if off < 0x38000 then pwrWrite (off - 0x34000) v s
  else if off < 0x3C000 then seqWrite (off - 0x38000) v s
  else if off < 0x40000 then sbiWrite (off - 0x3C000) v s
  else gqpWrite (srcHead src) (off - 0x40000) v s

/-- A register write (R4 to R6): a nonzero value in a RSVD field sets BADWR, and the other fields take effect. A block that is powered
down drops the write (R490). -/
def writeReg (src : MmioSrc) (off : Nat) (v : Word) (s : State) : State :=
  if !blockPowered off s then s
  else writeFields src off v (if badRsvd (rsvdOf off) v then badWrite s else s)

/-- MMIO_REGISTER_WRITE (00_scope R4 to R6). An offset outside BAR 0 (R485) faults. -/
def execMmioRegisterWrite (src : MmioSrc) (offset : Nat) (value : Word) (s : State) : Host.Outcome State Fault Refusal :=
  if 0x80000 ≤ offset then .fault (.outsideBar offset) else .next (writeReg src offset value s)

end Sys2Proof.Machine
end

