-- ==== Sys2Proof/Machine/Sideband.lean ====
section
/-! DEFINITION. The SMBus sideband: register transactions and the BCS proxy (13_management R487, R490, 16_power R593,
18_package_electrical R632). -/

namespace Sys2Proof.Machine

/-- The function whose registers the sideband reaches where heads have their own: head 0's. -/
def sidebandSrc : MmioSrc := .ld 0

/-- Change the sideband proxy. -/
def modProxy (f : Proxy → Proxy) (s : State) : State := modMc (fun m => { m with proxy := f m.proxy }) s

/-- Whether the controller is in Device Standby (16_power R591). -/
def inStandby (s : State) : Bool := s.seq.standby == .entered

/-- What BCS Status reports as STATE 4 (R490): no usable pair, or a complex that does not serve because VCORE is down, until it serves after
the power-up. -/
def noComplexState (s : State) : Bool :=
  noPair s || (!s.mc.serving && s.mc.restart.isNone && !inStandby s && !(s.pu.drain.isSome && vcoreUp s))

/-- STATE of BCS Status (R490): ROM recovery shows in place of idle and done. -/
def proxyState (s : State) : Nat :=
  if noComplexState s then 4 else if s.mc.proxy.state = 1 then 1 else if s.mc.rom then 3 else s.mc.proxy.state

/-- A transaction (R490, 16_power R593): NACKed at its command byte, discarded for a bad PEC, or completed. The supervisor's reset and loss
of VSTBY leave nothing that answers. -/
def transaction (nack pecOk : Bool) (body : State → State) (s : State) : State :=
  if !(s.seq.vstby && s.seq.clk25) then s
  else if nack then nackCode s
  else if !pecOk then modMc (fun m => { m with pecErr := true, pecErrs := satAdd 0xFFFFFFFF m.pecErrs 1 }) s
  else body (modMc (fun m => { m with xacts := satAdd 0xFFFFFFFF m.xacts 1 }) s)

/-- REGISTER_WRITE (R490). An address outside BAR 0 (R485) faults. -/
def execRegisterWrite (address : Nat) (value : Word) (pecOk : Bool) (s : State) : Host.Outcome State Fault Refusal :=
  if 0x80000 ≤ address then .fault (.outsideBar address)
  else .next (transaction false pecOk (writeReg sidebandSrc address value) s)

/-- REGISTER_READ (R490). An address outside BAR 0 (R485) faults. -/
def execRegisterRead (address : Nat) (pecOk : Bool) (s : State) : Host.Outcome State Fault Refusal :=
  if 0x80000 ≤ address then .fault (.outsideBar address)
  else
    .next (transaction false pecOk (fun s =>
      let x := readReg sidebandSrc address s
      emit (.sideband (le 4 x.1.toNat)) x.2) s)

/-- BCS_LOAD (R490): input bytes at an offset; discarded in STATE 4, NACKed in STATE 1 and in Device Standby. -/
def execBcsLoad (offset : Nat) (data : Bytes) (pecOk : Bool) (s : State) : Host.Outcome State Fault Refusal :=
  .next (transaction (inStandby s || proxyState s == 1) pecOk (fun s =>
    if proxyState s = 4 then s else modProxy (fun p => { p with input := memWriteN offset data p.input }) s) s)

/-- Whether the supervisor executes an opcode itself (R490). -/
def supervisorOpcode (opcode : Nat) : Bool := opcode == 0xC080 || opcode == 0xC081

/-- BCS_EXECUTE (R490): the loaded input runs as a command; NACKed in STATE 1, and in Device Standby unless the supervisor executes it. -/
def execBcsExecute (opcode length : Nat) (pecOk : Bool) (s : State) : Host.Outcome State Fault Refusal :=
  .next (transaction ((inStandby s && !supervisorOpcode opcode) || proxyState s == 1) pecOk (fun s =>
    let input := memReadN s.mc.proxy.input 0 length
    runBcs .sideband opcode input (modProxy (fun p => { p with state := 1, rc := 0, output := [] }) s)) s)

/-- BCS_STATUS (R490): STATE, the return code and the output length. -/
def execBcsStatus (pecOk : Bool) (s : State) : Host.Outcome State Fault Refusal :=
  .next (transaction false pecOk (fun s =>
    emit (.sideband (le 1 (proxyState s) ++ zeros 1 ++ le 2 s.mc.proxy.rc ++ le 4 s.mc.proxy.output.length)) s) s)

/-- BCS_FETCH (R490): at most 240 output bytes from an offset. -/
def execBcsFetch (offset : Nat) (pecOk : Bool) (s : State) : Host.Outcome State Fault Refusal :=
  .next (transaction false pecOk (fun s => emit (.sideband ((s.mc.proxy.output.drop offset).take 240)) s) s)

/-- SMBUS_TIMEOUT (18_package_electrical R632): the transaction is abandoned, and the flag is set. -/
def execSmbusTimeout (s : State) : Host.Outcome State Fault Refusal := .next (modMc (fun m => { m with timeout := true }) s)

end Sys2Proof.Machine
end

