-- ==== Sys2Proof/Machine/Boundary.lean ====
section
/-! DEFINITION. BEAT_BOUNDARY (02_beat R36): what every unit does at cycle 0 of a beat, on the state at the end of the ending beat. -/

namespace Sys2Proof.Machine

/-- EVENT_INTERRUPT (13_management R486): each head whose enabled EVT.STATUS bits were set in the ending beat has its vector signalled. -/
def eventInterrupt (s : State) : State :=
  let b := s.ev.setThisBeat
  let hit (q : HeadIrq) : Bool := (b.extractLsb' 4 4 &&& q.enable) != 0 || (b.getLsbD 0 && q.badwrEnable)
  let s' := (s.ev.irq.filter fun e => hit e.2).foldl (fun t e => emit (.msix e.1 e.2.vector.toNat) t) s
  { s' with ev := { s'.ev with setThisBeat := 0 } }

/-- The opcodes that fail with Invalid Opcode (09_command_queues R368). -/
def invalidOpcode (qid op : Nat) : Bool :=
  op == 0 || (decide (0x0C ≤ op) && decide (op < 0x10)) || (decide (0x13 ≤ op) && decide (op < 0x7F)) || decide (0x80 ≤ op) ||
    (op == 0x7F && qid != 0)

/-- The status with which a command that has just started fails for its opcode, or for the action of a Capture or Replay Control that no row
takes (R368, 10_capture_replay R414). -/
def startStatus (qid : Nat) (e : Bytes) : Option Nat :=
  if invalidOpcode qid (eOpcode e) then some 0x0001
  else if eOpcode e = 0x10 ∧ (actCode e = 0 ∨ 6 < actCode e) then some 0x0002
  else if eOpcode e = 0x11 ∧ (actCode e = 0 ∨ 5 < actCode e) then some 0x0002
  else none

/-- The commands of the round that fail at once are completed. -/
def rejectStarted (s : State) : State :=
  s.gqp.pairs.foldl (fun s q =>
    (q.2.cmds.filter fun c => c.started && !c.running).foldl (fun s c =>
      match startStatus q.1 c.entry with
      | some st => refuseCmd q.1 c.cid st s
      | none => s) s) s

/-- Count the beats for which a request has waited for a segment-cache slot (04_tiers R116). -/
def countSlotWait (s : State) : State :=
  let waits := match s.ti.slotWaiters with
    | [] => false
    | l :: _ => (ensureSlot (segmentOf l) s).isNone
  modTi (fun t =>
    if waits then { t with slotWaitBeats := t.slotWaitBeats + 1 } else { t with slotWaitBeats := 0, slotWaitReported := false }) s

/-- At boundary D of a seat's move the old holder's front caches drop the region (07_cxl_ports R279). -/
def dropMoved (s : State) : State :=
  match s.pair.move with
  | none => s
  | some m =>
    if m.boundary = s.tb.beat ∧ m.region ≠ 0 then
      modCxl (fun c => { c with heads := c.heads.map fun e => (e.1, { e.2 with
        granules := e.2.granules.filter fun g => g.region != m.region
        misses := e.2.misses.map fun x => (x.1, if x.2.region = m.region then { x.2 with stale := true } else x.2) }) }) s
    else s

/-- What acts on the ending beat before the counter rises: the batch goes out, the group is sealed, capture writes its records, and the
triggers and multipath acknowledgements of the beat are sent. -/
def endBeat (s : State) : State :=
  let s := sendBatch (eventInterrupt s)
  let s := modPu releaseSlots s
  let s := sealGroup (sealNoticed s)
  let s := s.cap.rings.foldl (fun s r => ringBoundary r.1 s) s
  let s := settleBacklog (drainWindow s)
  let s := triggerAppend s
  mpAckSend (s.net.qps.foldl (fun s q => raiseCredit q.1 s) s)

/-- The counts and slow processes that the boundary moves on. -/
def countBeat (s : State) : State :=
  let s := countBacklog (countLimit (countSlotWait (countWait s)))
  let s := purgeAttachments (settleAttachments (noteDevLoad s))
  standbyBeat (unitsBeat (sanitizeBeat s))

/-- What the new beat begins with: parameters, the pair's messages, the chest writer, admission of control records, the arbitration round and
the frames due in the beat. -/
def newBeat (s : State) : State :=
  let s := paramsAtBoundary s
  let s := sendDone (heartbeatSend s)
  let s := resyncBeat (answerDrains (askPartner (settleMove (dropMoved s))))
  let s := modPu (fun p => { writerBeat p with ingestUsed := 0 }) s
  let s := submitWaiting s.pu.ctlWaiting.length s
  let s := rejectStarted (arbitrate s)
  let s := s.cap.channels.foldl (fun s c => channelBoundary c.1 s) s
  countBeat s

/-- BEAT_BOUNDARY (02_beat R32, R36): nothing while VCORE is down. During a drain only the beat, the drawer slots and the chest writer go on
(03_persistence R95). -/
def execBeatBoundary (s : State) : Host.Outcome State Fault Refusal :=
  if !vcoreUp s then .next s
  else if s.pu.drain.isSome then .next (modPu (fun p => writerBeat (releaseSlots p)) (beatTick s))
  else .next (newBeat (beatTick (endBeat s)))

end Sys2Proof.Machine
end

