-- ==== Sys2Proof/Machine/Reads.lean ====
section
/-! DEFINITION. The reads of memory data that carry the corrected errors they meet (07_cxl_ports R265, 09_command_queues R372,
12_integrity R448). -/

namespace Sys2Proof.Machine

/-- CXL_MEM_READ (R265, R267, R274, R276, R281), with the corrected errors that it meets (12_integrity R448). -/
def execCxlMemRead (req : CxlReq) (corrected : Corrected) (s : State) : Host.Outcome State Fault Refusal :=
  if servesMem req.head s then .next (noteCorrected corrected (cxlRead req s)) else .next s

/-- READ (R372), with the corrected errors that it meets (12_integrity R448). -/
def execRead (qid cid : Nat) (corrected : Corrected) (s : State) : Host.Outcome State Fault Refusal :=
  .next (withCmd qid cid (fun e => eOpcode e == 0x01) (fun q c s =>
    let e := c.entry
    let r := eRegion e
    let fields := headerOk q c && ePtrKind e != 2 && eCdw5 e == 0 && cspecZero [(32, 40)] e && (q.transport == 0 || eArg e == 0)
    match (if fields then regionStatus q.domain r (eOffset e) (eLength e) false s else some 2) with
    | some st => refuseCmd qid cid st s
    | none =>
      if !dataFits c (eLength e) then refuseCmd qid cid 2 s
      else
        match rangeRoute r (eOffset e) (eLength e) s with
        | .unavailable => refuseCmd qid cid 0x0102 s
        | .wait => s
        | _ =>
          let l := pieceList 0 r (eOffset e) (eLength e) s
          let s := gatherOperand qid c r (eOffset e) l (runCmd qid cid l s)
          noteCorrected corrected (afterGather qid cid s)) s)

end Sys2Proof.Machine
end

