-- ==== Sys2Proof/Machine/Dispatch.lean ====
section
/-! DEFINITION. The dispatch of commands to their meanings: one arm per row of the opcode table. -/

namespace Sys2Proof.Machine

/-- The effect of a command on everything but the queue. -/
def exec (i : Instr) (s : State) : Host.Outcome State Fault Refusal :=
  match i with
  | .mmioRegisterWrite src offset value => Sys2Proof.Machine.execMmioRegisterWrite src offset value s
  | .beatBoundary => Sys2Proof.Machine.execBeatBoundary s
  | .beatLoRead => Sys2Proof.Machine.execBeatLoRead s
  | .todLoRead => Sys2Proof.Machine.execTodLoRead s
  | .teNctrLoRead => Sys2Proof.Machine.execTeNctrLoRead s
  | .ueLogLoRead => Sys2Proof.Machine.execUeLogLoRead s
  | .newestLoRead => Sys2Proof.Machine.execNewestLoRead s
  | .transformCycle => Sys2Proof.Machine.execTransformCycle s
  | .backlogLimit stream => Sys2Proof.Machine.execBacklogLimit stream s
  | .getSlotTable path input => Sys2Proof.Machine.execGetSlotTable path input s
  | .setSlotTable path input => Sys2Proof.Machine.execSetSlotTable path input s
  | .activateSlotTable path input => Sys2Proof.Machine.execActivateSlotTable path input s
  | .slotTableSwap => Sys2Proof.Machine.execSlotTableSwap s
  | .ptpMessage port sync offset => Sys2Proof.Machine.execPtpMessage port sync offset s
  | .ppsInEdge rising offset => Sys2Proof.Machine.execPpsInEdge rising offset s
  | .timebaseSourceLost pps => Sys2Proof.Machine.execTimebaseSourceLost pps s
  | .timebaseLocked => Sys2Proof.Machine.execTimebaseLocked s
  | .ppsOutRise => Sys2Proof.Machine.execPpsOutRise s
  | .ppsOutFall => Sys2Proof.Machine.execPpsOutFall s
  | .writeAdmission unit => Sys2Proof.Machine.execWriteAdmission unit s
  | .writeAcknowledge unit => Sys2Proof.Machine.execWriteAcknowledge unit s
  | .journalRecordComplete seq => Sys2Proof.Machine.execJournalRecordComplete seq s
  | .anchorUpdate => Sys2Proof.Machine.execAnchorUpdate s
  | .persistFence qid cid => Sys2Proof.Machine.execPersistFence qid cid s
  | .persistFenceComplete qid cid => Sys2Proof.Machine.execPersistFenceComplete qid cid s
  | .admissionWaitLimit => Sys2Proof.Machine.execAdmissionWaitLimit s
  | .drainComplete => Sys2Proof.Machine.execDrainComplete s
  | .chestVerifyFailure row => Sys2Proof.Machine.execChestVerifyFailure row s
  | .drawerBankError bank slot => Sys2Proof.Machine.execDrawerBankError bank slot s
  | .drawerBankDisable bank => Sys2Proof.Machine.execDrawerBankDisable bank s
  | .segmentSlotRequest segment => Sys2Proof.Machine.execSegmentSlotRequest segment s
  | .slotWaitLimit => Sys2Proof.Machine.execSlotWaitLimit s
  | .pageArrival segment page => Sys2Proof.Machine.execPageArrival segment page s
  | .shelfPageFailure slot partition => Sys2Proof.Machine.execShelfPageFailure slot partition s
  | .drainPlacement seq => Sys2Proof.Machine.execDrainPlacement seq s
  | .checkpointStart => Sys2Proof.Machine.execCheckpointStart s
  | .checkpointComplete => Sys2Proof.Machine.execCheckpointComplete s
  | .rowClose position block row => Sys2Proof.Machine.execRowClose position block row s
  | .rowCloseTimeout position block row => Sys2Proof.Machine.execRowCloseTimeout position block row s
  | .writeBack lcn addr => Sys2Proof.Machine.execWriteBack lcn addr s
  | .writeBackComplete lcn => Sys2Proof.Machine.execWriteBackComplete lcn s
  | .relocationComplete lcn addr => Sys2Proof.Machine.execRelocationComplete lcn addr s
  | .chunkReadComplete lcn outcome => Sys2Proof.Machine.execChunkReadComplete lcn outcome s
  | .garbageCollection position => Sys2Proof.Machine.execGarbageCollection position s
  | .freeStripeExhausted position => Sys2Proof.Machine.execFreeStripeExhausted position s
  | .wearLevelRelocation position => Sys2Proof.Machine.execWearLevelRelocation position s
  | .readDisturbRefresh position block => Sys2Proof.Machine.execReadDisturbRefresh position block s
  | .nandStatusFailure lun block erase => Sys2Proof.Machine.execNandStatusFailure lun block erase s
  | .lunFailure lun => Sys2Proof.Machine.execLunFailure lun s
  | .rebuildComplete lun => Sys2Proof.Machine.execRebuildComplete lun s
  | .opEvaluation => Sys2Proof.Machine.execOpEvaluation s
  | .createRegion path input => Sys2Proof.Machine.execCreateRegion path input s
  | .deleteRegion path input => Sys2Proof.Machine.execDeleteRegion path input s
  | .resizeRegion path input => Sys2Proof.Machine.execResizeRegion path input s
  | .getRegion path input => Sys2Proof.Machine.execGetRegion path input s
  | .listRegions path input => Sys2Proof.Machine.execListRegions path input s
  | .setRegionAttributes path input => Sys2Proof.Machine.execSetRegionAttributes path input s
  | .attachExtent path input => Sys2Proof.Machine.execAttachExtent path input s
  | .detachExtent path input => Sys2Proof.Machine.execDetachExtent path input s
  | .grantMemoryKey path input => Sys2Proof.Machine.execGrantMemoryKey path input s
  | .revokeMemoryKey path input => Sys2Proof.Machine.execRevokeMemoryKey path input s
  | .getCapacity path input => Sys2Proof.Machine.execGetCapacity path input s
  | .regionChangeBoundary region => Sys2Proof.Machine.execRegionChangeBoundary region s
  | .regionChangeDrained region => Sys2Proof.Machine.execRegionChangeDrained region s
  | .readOnlyTakesEffect region => Sys2Proof.Machine.execReadOnlyTakesEffect region s
  | .domainMaskTakesEffect region => Sys2Proof.Machine.execDomainMaskTakesEffect region s
  | .formPair path input => Sys2Proof.Machine.execFormPair path input s
  | .armPairJoin path input => Sys2Proof.Machine.execArmPairJoin path input s
  | .armingExpiry => Sys2Proof.Machine.execArmingExpiry s
  | .dissolvePair path input => Sys2Proof.Machine.execDissolvePair path input s
  | .getPairStatus path input => Sys2Proof.Machine.execGetPairStatus path input s
  | .moveSeat path input => Sys2Proof.Machine.execMoveSeat path input s
  | .moveChair path input => Sys2Proof.Machine.execMoveChair path input s
  | .admitReplacement path input => Sys2Proof.Machine.execAdmitReplacement path input s
  | .setStandbyChecks path input => Sys2Proof.Machine.execSetStandbyChecks path input s
  | .getPairHealth path input => Sys2Proof.Machine.execGetPairHealth path input s
  | .forceSeat path input => Sys2Proof.Machine.execForceSeat path input s
  | .setWitnessPath path input => Sys2Proof.Machine.execSetWitnessPath path input s
  | .hello message => Sys2Proof.Machine.execHello message s
  | .encapsulationKey message => Sys2Proof.Machine.execEncapsulationKey message s
  | .kemCiphertext message => Sys2Proof.Machine.execKemCiphertext message s
  | .formationTimeout => Sys2Proof.Machine.execFormationTimeout s
  | .laneFault lane lostLock => Sys2Proof.Machine.execLaneFault lane lostLock s
  | .mplLinkInService nonce => Sys2Proof.Machine.execMplLinkInService nonce s
  | .batchReceive number flits => Sys2Proof.Machine.execBatchReceive number flits s
  | .batchAck number => Sys2Proof.Machine.execBatchAck number s
  | .batchNak number => Sys2Proof.Machine.execBatchNak number s
  | .heartbeat h chairEpoch leaseEpoch => Sys2Proof.Machine.execHeartbeat h chairEpoch leaseEpoch s
  | .heartbeatEcho h => Sys2Proof.Machine.execHeartbeatEcho h s
  | .taken chairEpoch => Sys2Proof.Machine.execTaken chairEpoch s
  | .witnessHeartbeat port datagram => Sys2Proof.Machine.execWitnessHeartbeat port datagram s
  | .leaseStopPoint => Sys2Proof.Machine.execLeaseStopPoint s
  | .takeoverDeadline => Sys2Proof.Machine.execTakeoverDeadline s
  | .switchOverComplete => Sys2Proof.Machine.execSwitchOverComplete s
  | .mirrorWrite region msn zero lines => Sys2Proof.Machine.execMirrorWrite region msn zero lines s
  | .mirrorAccept region msn => Sys2Proof.Machine.execMirrorAccept region msn s
  | .mirrorAbort region msn => Sys2Proof.Machine.execMirrorAbort region msn s
  | .mirrorSeal region groupBeat runs => Sys2Proof.Machine.execMirrorSeal region groupBeat runs s
  | .mirrorDone seq => Sys2Proof.Machine.execMirrorDone seq s
  | .metaCopy seq items => Sys2Proof.Machine.execMetaCopy seq items s
  | .metaDone seq => Sys2Proof.Machine.execMetaDone seq s
  | .fwdRequest mtag region offset op => Sys2Proof.Machine.execFwdRequest mtag region offset op s
  | .fwdBcs mtag opcode privileged input => Sys2Proof.Machine.execFwdBcs mtag opcode privileged input s
  | .fwdResponse mtag status poison data => Sys2Proof.Machine.execFwdResponse mtag status poison data s
  | .bcsResponse mtag rc output => Sys2Proof.Machine.execBcsResponse mtag rc output s
  | .resyncChunk region offset srcSeq zero data poison => Sys2Proof.Machine.execResyncChunk region offset srcSeq zero data poison s
  | .mplCompare region offset crc => Sys2Proof.Machine.execMplCompare region offset crc s
  | .seatMoveComplete region => Sys2Proof.Machine.execSeatMoveComplete region s
  | .mirrorCompare => Sys2Proof.Machine.execMirrorCompare s
  | .roleSwap => Sys2Proof.Machine.execRoleSwap s
  | .standbySelfTest test detail passed => Sys2Proof.Machine.execStandbySelfTest test detail passed s
  | .pairJoin views => Sys2Proof.Machine.execPairJoin views s
  | .resyncMark region => Sys2Proof.Machine.execResyncMark region s
  | .resyncComplete region => Sys2Proof.Machine.execResyncComplete region s
  | .joinWaitTimeout region => Sys2Proof.Machine.execJoinWaitTimeout region s
  | .headLinkUp head width speed flit => Sys2Proof.Machine.execHeadLinkUp head width speed flit s
  | .headLinkDown head cause => Sys2Proof.Machine.execHeadLinkDown head cause s
  | .perstNAssert head => Sys2Proof.Machine.execPerstNAssert head s
  | .cxlMemRead req corrected => Sys2Proof.Machine.execCxlMemRead req corrected s
  | .cxlMemWrite req data mask poison => Sys2Proof.Machine.execCxlMemWrite req data mask poison s
  | .missFillReturn head register => Sys2Proof.Machine.execMissFillReturn head register s
  | .victimHandoff head entry => Sys2Proof.Machine.execVictimHandoff head entry s
  | .frontCacheEccError head granule => Sys2Proof.Machine.execFrontCacheEccError head granule s
  | .frontCacheBankEmpty head bank => Sys2Proof.Machine.execFrontCacheBankEmpty head bank s
  | .addDynamicCapacityResponse target accepted more => Sys2Proof.Machine.execAddDynamicCapacityResponse target accepted more s
  | .offerTimeout entry => Sys2Proof.Machine.execOfferTimeout entry s
  | .releaseDynamicCapacity target dpas => Sys2Proof.Machine.execReleaseDynamicCapacity target dpas s
  | .detachTimeout entry => Sys2Proof.Machine.execDetachTimeout entry s
  | .gpfPhase1 head => Sys2Proof.Machine.execGpfPhase1 head s
  | .gpfPhase2 head => Sys2Proof.Machine.execGpfPhase2 head s
  | .identify path input => Sys2Proof.Machine.execIdentify path input s
  | .backgroundOperationStatus path input => Sys2Proof.Machine.execBackgroundOperationStatus path input s
  | .getEventRecords path input => Sys2Proof.Machine.execGetEventRecords path input s
  | .clearEventRecords path input => Sys2Proof.Machine.execClearEventRecords path input s
  | .getEventInterruptPolicy path input => Sys2Proof.Machine.execGetEventInterruptPolicy path input s
  | .setEventInterruptPolicy path input => Sys2Proof.Machine.execSetEventInterruptPolicy path input s
  | .getFwInfo path input => Sys2Proof.Machine.execGetFwInfo path input s
  | .transferFw path input => Sys2Proof.Machine.execTransferFw path input s
  | .activateFw path input => Sys2Proof.Machine.execActivateFw path input s
  | .getTimestamp path input => Sys2Proof.Machine.execGetTimestamp path input s
  | .setTimestamp path input => Sys2Proof.Machine.execSetTimestamp path input s
  | .getSupportedLogs path input => Sys2Proof.Machine.execGetSupportedLogs path input s
  | .getLog path input => Sys2Proof.Machine.execGetLog path input s
  | .identifyMemoryDevice path input => Sys2Proof.Machine.execIdentifyMemoryDevice path input s
  | .getPartitionInfo path input => Sys2Proof.Machine.execGetPartitionInfo path input s
  | .setPartitionInfo path input => Sys2Proof.Machine.execSetPartitionInfo path input s
  | .getLsa path input => Sys2Proof.Machine.execGetLsa path input s
  | .setLsa path input => Sys2Proof.Machine.execSetLsa path input s
  | .getHealthInfo path input => Sys2Proof.Machine.execGetHealthInfo path input s
  | .getAlertConfiguration path input => Sys2Proof.Machine.execGetAlertConfiguration path input s
  | .setAlertConfiguration path input => Sys2Proof.Machine.execSetAlertConfiguration path input s
  | .getShutdownState path input => Sys2Proof.Machine.execGetShutdownState path input s
  | .setShutdownState path input => Sys2Proof.Machine.execSetShutdownState path input s
  | .getPoisonList path input => Sys2Proof.Machine.execGetPoisonList path input s
  | .injectPoison path input => Sys2Proof.Machine.execInjectPoison path input s
  | .clearPoison path input => Sys2Proof.Machine.execClearPoison path input s
  | .getScanMediaCapabilities path input => Sys2Proof.Machine.execGetScanMediaCapabilities path input s
  | .scanMedia path input => Sys2Proof.Machine.execScanMedia path input s
  | .getScanMediaResults path input => Sys2Proof.Machine.execGetScanMediaResults path input s
  | .getDynamicCapacityConfiguration path input => Sys2Proof.Machine.execGetDynamicCapacityConfiguration path input s
  | .getDynamicCapacityExtentList path input => Sys2Proof.Machine.execGetDynamicCapacityExtentList path input s
  | .cxlSanitize path input => Sys2Proof.Machine.execCxlSanitize path input s
  | .secureErase path input => Sys2Proof.Machine.execSecureErase path input s
  | .getLdInfo path input => Sys2Proof.Machine.execGetLdInfo path input s
  | .getLdAllocations path input => Sys2Proof.Machine.execGetLdAllocations path input s
  | .setLdAllocations path input => Sys2Proof.Machine.execSetLdAllocations path input s
  | .ethLinkChange port up speed => Sys2Proof.Machine.execEthLinkChange port up speed s
  | .fabricFrame port length kind => Sys2Proof.Machine.execFabricFrame port length kind s
  | .rdmaWrite req data => Sys2Proof.Machine.execRdmaWrite req data s
  | .rdmaWriteWithImmediate req data immediate => Sys2Proof.Machine.execRdmaWriteWithImmediate req data immediate s
  | .send req data => Sys2Proof.Machine.execSend req data s
  | .sendWithImmediate req data immediate => Sys2Proof.Machine.execSendWithImmediate req data immediate s
  | .rdmaRead req length => Sys2Proof.Machine.execRdmaRead req length s
  | .compareAndSwap req compareValue swapValue => Sys2Proof.Machine.execCompareAndSwap req compareValue swapValue s
  | .fetchAndAdd req addend => Sys2Proof.Machine.execFetchAndAdd req addend s
  | .atomicWrite req value => Sys2Proof.Machine.execAtomicWrite req value s
  | .flush req length => Sys2Proof.Machine.execFlush req length s
  | .ack qp psn credits => Sys2Proof.Machine.execAck qp psn credits s
  | .nak qp psn syndrome => Sys2Proof.Machine.execNak qp psn syndrome s
  | .rnrNak qp psn timer => Sys2Proof.Machine.execRnrNak qp psn timer s
  | .readResponse qp psn data => Sys2Proof.Machine.execReadResponse qp psn data s
  | .atomicAcknowledge qp psn original => Sys2Proof.Machine.execAtomicAcknowledge qp psn original s
  | .cnp qp => Sys2Proof.Machine.execCnp qp s
  | .rateIncrease qp => Sys2Proof.Machine.execRateIncrease qp s
  | .ackTimeout qp => Sys2Proof.Machine.execAckTimeout qp s
  | .rnrTimerExpiry qp => Sys2Proof.Machine.execRnrTimerExpiry qp s
  | .contextSwapComplete qp => Sys2Proof.Machine.execContextSwapComplete qp s
  | .keyRevocation index => Sys2Proof.Machine.execKeyRevocation index s
  | .revocationComplete index => Sys2Proof.Machine.execRevocationComplete index s
  | .counterFire entry => Sys2Proof.Machine.execCounterFire entry s
  | .workRequestIssue qp => Sys2Proof.Machine.execWorkRequestIssue qp s
  | .qpError qp cause status => Sys2Proof.Machine.execQpError qp cause status s
  | .createQp path input => Sys2Proof.Machine.execCreateQp path input s
  | .modifyQp path input => Sys2Proof.Machine.execModifyQp path input s
  | .queryQp path input => Sys2Proof.Machine.execQueryQp path input s
  | .destroyQp path input => Sys2Proof.Machine.execDestroyQp path input s
  | .setGid path input => Sys2Proof.Machine.execSetGid path input s
  | .getPortStatus path input => Sys2Proof.Machine.execGetPortStatus path input s
  | .triggerCounter path input => Sys2Proof.Machine.execTriggerCounter path input s
  | .mpWrite h payload => Sys2Proof.Machine.execMpWrite h payload s
  | .mpWriteImm h payload => Sys2Proof.Machine.execMpWriteImm h payload s
  | .mpMessageComplete qp msn => Sys2Proof.Machine.execMpMessageComplete qp msn s
  | .mpReadReq h => Sys2Proof.Machine.execMpReadReq h s
  | .mpReassemblyTimeout qp msn => Sys2Proof.Machine.execMpReassemblyTimeout qp msn s
  | .sqTailDoorbell head qid value => Sys2Proof.Machine.execSqTailDoorbell head qid value s
  | .cqHeadDoorbell head qid value => Sys2Proof.Machine.execCqHeadDoorbell head qid value s
  | .aqEnable head => Sys2Proof.Machine.execAqEnable head s
  | .aqDisable head => Sys2Proof.Machine.execAqDisable head s
  | .aqReady => Sys2Proof.Machine.execAqReady s
  | .commandFetch qid entry list => Sys2Proof.Machine.execCommandFetch qid entry list s
  | .inFlightLimitHeld => Sys2Proof.Machine.execInFlightLimitHeld s
  | .read qid cid corrected => Sys2Proof.Machine.execRead qid cid corrected s
  | .write qid cid data => Sys2Proof.Machine.execWrite qid cid data s
  | .writeZeroes qid cid => Sys2Proof.Machine.execWriteZeroes qid cid s
  | .copy qid cid => Sys2Proof.Machine.execCopy qid cid s
  | .compare qid cid data => Sys2Proof.Machine.execCompare qid cid data s
  | .drainToCabinet qid cid => Sys2Proof.Machine.execDrainToCabinet qid cid s
  | .drainToCabinetComplete qid cid => Sys2Proof.Machine.execDrainToCabinetComplete qid cid s
  | .checkValue qid cid data => Sys2Proof.Machine.execCheckValue qid cid data s
  | .scanPattern qid cid data => Sys2Proof.Machine.execScanPattern qid cid data s
  | .sealData qid cid data => Sys2Proof.Machine.execSeal qid cid data s
  | .unsealData qid cid data => Sys2Proof.Machine.execUnseal qid cid data s
  | .triggerArm qid cid => Sys2Proof.Machine.execTriggerArm qid cid s
  | .triggerArmEffect entry => Sys2Proof.Machine.execTriggerArmEffect entry s
  | .bcsTunnel cid input => Sys2Proof.Machine.execBcsTunnel cid input s
  | .createQueuePair path input => Sys2Proof.Machine.execCreateQueuePair path input s
  | .deleteQueuePair path input => Sys2Proof.Machine.execDeleteQueuePair path input s
  | .queryQueuePair path input => Sys2Proof.Machine.execQueryQueuePair path input s
  | .commandCapsule qp psn capsule => Sys2Proof.Machine.execCommandCapsule qp psn capsule s
  | .transferReadySend qid cid => Sys2Proof.Machine.execTransferReadySend qid cid s
  | .pieceDelivery qp stagingKey immediate va data => Sys2Proof.Machine.execPieceDelivery qp stagingKey immediate va data s
  | .transferTimeout tag => Sys2Proof.Machine.execTransferTimeout tag s
  | .notice qid => Sys2Proof.Machine.execNotice qid s
  | .interruptAggregationExpiry qid => Sys2Proof.Machine.execInterruptAggregationExpiry qid s
  | .hostMemoryFailure qid cid kind address => Sys2Proof.Machine.execHostMemoryFailure qid cid kind address s
  | .instrumentFrame port frame => Sys2Proof.Machine.execInstrumentFrame port frame s
  | .stagedChunkProgram port chunk addr => Sys2Proof.Machine.execStagedChunkProgram port chunk addr s
  | .stagedChunkTimeout port chunk addr => Sys2Proof.Machine.execStagedChunkTimeout port chunk addr s
  | .stagedBacklogExceeded => Sys2Proof.Machine.execStagedBacklogExceeded s
  | .captureConfigure qid cid data => Sys2Proof.Machine.execCaptureConfigure qid cid data s
  | .setRules qid cid data => Sys2Proof.Machine.execSetRules qid cid data s
  | .ruleSetActivation port => Sys2Proof.Machine.execRuleSetActivation port s
  | .captureStart qid cid => Sys2Proof.Machine.execCaptureStart qid cid s
  | .ringStartBeat port => Sys2Proof.Machine.execRingStartBeat port s
  | .captureStop qid cid => Sys2Proof.Machine.execCaptureStop qid cid s
  | .ringStopBeat port => Sys2Proof.Machine.execRingStopBeat port s
  | .captureStatus qid cid => Sys2Proof.Machine.execCaptureStatus qid cid s
  | .release qid cid => Sys2Proof.Machine.execRelease qid cid s
  | .tailRelease port => Sys2Proof.Machine.execTailRelease port s
  | .replayConfigure qid cid data => Sys2Proof.Machine.execReplayConfigure qid cid data s
  | .load qid cid => Sys2Proof.Machine.execLoad qid cid s
  | .replayStart qid cid => Sys2Proof.Machine.execReplayStart qid cid s
  | .channelStartBeat channel => Sys2Proof.Machine.execChannelStartBeat channel s
  | .replayStop qid cid => Sys2Proof.Machine.execReplayStop qid cid s
  | .channelStopBeat channel => Sys2Proof.Machine.execChannelStopBeat channel s
  | .replayStatus qid cid => Sys2Proof.Machine.execReplayStatus qid cid s
  | .captureControl path input => Sys2Proof.Machine.execCaptureControl path input s
  | .replayControl path input => Sys2Proof.Machine.execReplayControl path input s
  | .replayPrefetch channel => Sys2Proof.Machine.execReplayPrefetch channel s
  | .recordStaged channel => Sys2Proof.Machine.execRecordStaged channel s
  | .frameLaunch channel cycle => Sys2Proof.Machine.execFrameLaunch channel cycle s
  | .sliceFault slice => Sys2Proof.Machine.execSliceFault slice s
  | .spareSliceActivation => Sys2Proof.Machine.execSpareSliceActivation s
  | .nonceWindowReservation window => Sys2Proof.Machine.execNonceWindowReservation window s
  | .keySlotChangeEffect slot => Sys2Proof.Machine.execKeySlotChangeEffect slot s
  | .uncorrectableError place => Sys2Proof.Machine.execUncorrectableError place s
  | .dirtyPageRecovery segment page => Sys2Proof.Machine.execDirtyPageRecovery segment page s
  | .recentWriteMapRebuild => Sys2Proof.Machine.execRecentWriteMapRebuild s
  | .mapPageRebuild page => Sys2Proof.Machine.execMapPageRebuild page s
  | .startScrub path input => Sys2Proof.Machine.execStartScrub path input s
  | .getScrubSummary path input => Sys2Proof.Machine.execGetScrubSummary path input s
  | .scrubEnd corrected => Sys2Proof.Machine.execScrubEnd corrected s
  | .stackTemperatureReading stack celsius => Sys2Proof.Machine.execStackTemperatureReading stack celsius s
  | .bandChangeQuiesce => Sys2Proof.Machine.execBandChangeQuiesce s
  | .fullRateChange stack => Sys2Proof.Machine.execFullRateChange stack s
  | .refreshDue channel bank => Sys2Proof.Machine.execRefreshDue channel bank s
  | .lockstepMismatch sramError => Sys2Proof.Machine.execLockstepMismatch sramError s
  | .watchdogExpiry => Sys2Proof.Machine.execWatchdogExpiry s
  | .complexRestartComplete => Sys2Proof.Machine.execComplexRestartComplete s
  | .backgroundCommandComplete opcode => Sys2Proof.Machine.execBackgroundCommandComplete opcode s
  | .fwTransferTimeout => Sys2Proof.Machine.execFwTransferTimeout s
  | .activationSelfCheckTimeout => Sys2Proof.Machine.execActivationSelfCheckTimeout s
  | .registerWrite address value pecOk => Sys2Proof.Machine.execRegisterWrite address value pecOk s
  | .registerRead address pecOk => Sys2Proof.Machine.execRegisterRead address pecOk s
  | .bcsLoad offset data pecOk => Sys2Proof.Machine.execBcsLoad offset data pecOk s
  | .bcsExecute opcode length pecOk => Sys2Proof.Machine.execBcsExecute opcode length pecOk s
  | .bcsStatus pecOk => Sys2Proof.Machine.execBcsStatus pecOk s
  | .bcsFetch offset pecOk => Sys2Proof.Machine.execBcsFetch offset pecOk s
  | .smbusAddressMatch beforeStep2 inLostWindow => Sys2Proof.Machine.execSmbusAddressMatch beforeStep2 inLostWindow s
  | .smbusTimeout => Sys2Proof.Machine.execSmbusTimeout s
  | .getUnitPower path input => Sys2Proof.Machine.execGetUnitPower path input s
  | .setUnitPower path input => Sys2Proof.Machine.execSetUnitPower path input s
  | .getParameter path input => Sys2Proof.Machine.execGetParameter path input s
  | .setParameter path input => Sys2Proof.Machine.execSetParameter path input s
  | .listParameters path input => Sys2Proof.Machine.execListParameters path input s
  | .enterDeviceStandby path input => Sys2Proof.Machine.execEnterDeviceStandby path input s
  | .readEvents path input => Sys2Proof.Machine.execReadEvents path input s
  | .getRecorderStatus path input => Sys2Proof.Machine.execGetRecorderStatus path input s
  | .identifyController path input => Sys2Proof.Machine.execIdentifyController path input s
  | .getIdentityKey path input => Sys2Proof.Machine.execGetIdentityKey path input s
  | .getAttestationReport path input => Sys2Proof.Machine.execGetAttestationReport path input s
  | .getProtectionLevel path input => Sys2Proof.Machine.execGetProtectionLevel path input s
  | .setProtectionLevel path input => Sys2Proof.Machine.execSetProtectionLevel path input s
  | .sanitize path input => Sys2Proof.Machine.execSanitize path input s
  | .getSparesInventory path input => Sys2Proof.Machine.execGetSparesInventory path input s
  | .getEraseCounts path input => Sys2Proof.Machine.execGetEraseCounts path input s
  | .getStripeState path input => Sys2Proof.Machine.execGetStripeState path input s
  | .readWearLog path input => Sys2Proof.Machine.execReadWearLog path input s
  | .getSequencerStatus path input => Sys2Proof.Machine.execGetSequencerStatus path input s
  | .clearLockout path input => Sys2Proof.Machine.execClearLockout path input s
  | .powerDown path input => Sys2Proof.Machine.execPowerDown path input s
  | .bindTransformStream path input => Sys2Proof.Machine.execBindTransformStream path input s
  | .rollbackFuseUpdate => Sys2Proof.Machine.execRollbackFuseUpdate s
  | .signingWindowReservation window => Sys2Proof.Machine.execSigningWindowReservation window s
  | .keyUnitReady => Sys2Proof.Machine.execKeyUnitReady s
  | .norOperationComplete failed => Sys2Proof.Machine.execNorOperationComplete failed s
  | .eraseSuspend => Sys2Proof.Machine.execEraseSuspend s
  | .counterLogCompaction => Sys2Proof.Machine.execCounterLogCompaction s
  | .hourEntry => Sys2Proof.Machine.execHourEntry s
  | .eventRecordWrite => Sys2Proof.Machine.execEventRecordWrite s
  | .pendingEventRelay => Sys2Proof.Machine.execPendingEventRelay s
  | .vstbyApplied => Sys2Proof.Machine.execVstbyApplied s
  | .vstbyCollapse => Sys2Proof.Machine.execVstbyCollapse s
  | .powerUpStart => Sys2Proof.Machine.execPowerUpStart s
  | .railDebounceComplete rail => Sys2Proof.Machine.execRailDebounceComplete rail s
  | .stepGapEnd => Sys2Proof.Machine.execStepGapEnd s
  | .stepTimeout microseconds lowSamples => Sys2Proof.Machine.execStepTimeout microseconds lowSamples s
  | .retryWaitEnd => Sys2Proof.Machine.execRetryWaitEnd s
  | .railLow rail => Sys2Proof.Machine.execRailLow rail s
  | .fallTimeout rail => Sys2Proof.Machine.execFallTimeout rail s
  | .powerGoodLoss rail => Sys2Proof.Machine.execPowerGoodLoss rail s
  | .pfailNAssert => Sys2Proof.Machine.execPfailNAssert s
  | .vinSenseTrip => Sys2Proof.Machine.execVinSenseTrip s
  | .inputRecovered => Sys2Proof.Machine.execInputRecovered s
  | .wdiEdge microsSinceLast => Sys2Proof.Machine.execWdiEdge microsSinceLast s
  | .wdiWindowExpiry microsSinceLast => Sys2Proof.Machine.execWdiWindowExpiry microsSinceLast s
  | .thermalReading sensor celsius => Sys2Proof.Machine.execThermalReading sensor celsius s
  | .idleTimerEntry unit => Sys2Proof.Machine.execIdleTimerEntry unit s
  | .unitWorkArrival unit agent => Sys2Proof.Machine.execUnitWorkArrival unit agent s
  | .commandedStateEntry unit => Sys2Proof.Machine.execCommandedStateEntry unit s
  | .padHoldRelease groups => Sys2Proof.Machine.execPadHoldRelease groups s
  | .wakeNLow edge inLostWindow => Sys2Proof.Machine.execWakeNLow edge inLostWindow s
  | .resetNAssert => Sys2Proof.Machine.execResetNAssert s
  | .resetNDeassert => Sys2Proof.Machine.execResetNDeassert s
  | .sysRefclkLoss => Sys2Proof.Machine.execSysRefclkLoss s
  | .startUpRomPhase => Sys2Proof.Machine.execStartUpRomPhase s
  | .startUpFirmwarePhase stack0 stack1 chestTemp failedSlices badSets => Sys2Proof.Machine.execStartUpFirmwarePhase stack0 stack1 chestTemp failedSlices badSets s
  | .startUpJournalPhase beats => Sys2Proof.Machine.execStartUpJournalPhase beats s
  | .startUpMapPhase geometryOk readable beats => Sys2Proof.Machine.execStartUpMapPhase geometryOk readable beats s
  | .startUpRegionsPhase badSlots => Sys2Proof.Machine.execStartUpRegionsPhase badSlots s
  | .startUpLinksPhase milliseconds => Sys2Proof.Machine.execStartUpLinksPhase milliseconds s
  | .warmUpEnd chestTemp milliseconds => Sys2Proof.Machine.execWarmUpEnd chestTemp milliseconds s
  | .warmUpTimeout => Sys2Proof.Machine.execWarmUpTimeout s
  | .switchOverBound => Sys2Proof.Machine.execSwitchOverBound s
  | .clk25InLoss => Sys2Proof.Machine.execClk25InLoss s
  | .perstNDeassert head => Sys2Proof.Machine.execPerstNDeassert head s
  | .headLinkPowerStateChange head state => Sys2Proof.Machine.execHeadLinkPowerStateChange head state s
  | .jtagInstruction instruction => Sys2Proof.Machine.execJtagInstruction instruction s
  | .dcdManagementCommand path opcode input => Sys2Proof.Machine.execDcdManagementCommand path opcode input s

end Sys2Proof.Machine
end

