-- ==== Sys2Proof/WellFormed.lean ====
section
/-! DEFINITION. Which commands are well-formed: every operand lies in the range that the spec's layouts give its field. -/

namespace Sys2Proof

/-- The command identifier, head, LD or message tag that a path carries (09_command_queues R359, 07_cxl_ports R251, R269,
06_pair R205). -/
def BcsPath.wf : BcsPath → Bool
  | .sideband => true
  | .admin cid => decide (cid < 65536)
  | .fm head => decide (head < 16)
  | .primary ld => decide (ld < 256)
  | .forwarded mtag _ => decide (mtag < 65536)

/-- The function of a register access: an LD or the FM-owned LD of a head (07_cxl_ports R251). -/
def MmioSrc.wf : MmioSrc → Bool
  | .ld index => decide (index < 256)
  | .fm head => decide (head < 16)

/-- A head of 07_cxl_ports R248, a 64-byte line of the DPA space, a 16-bit tag. -/
def CxlReq.wf (r : CxlReq) : Bool :=
  decide (r.head < 16) && decide (r.requester < 4096) && decide (r.tag < 65536) && decide (r.dpa < 4503599627370496)

/-- The retry levels of 04_tiers R139 fit one byte. -/
def ReadOutcome.wf : ReadOutcome → Bool
  | .retry level => decide (level < 256)
  | .hard => true
  | .reconstructed => true
  | .lost => true

/-- A GID index of R301's sixteen entries; a 24-bit QPN. -/
def FrameKind.wf : FrameKind → Bool
  | .roce dgidIndex _ destQpn => decide (dgidIndex ≤ 16) && decide (destQpn < 16777216)
  | .arpOrNd gidIndex => decide (gidIndex ≤ 16)
  | .fcsError => true
  | .ptp => true
  | .witness => true
  | .other => true

/-- A QP index (08_remote_access R296), a 24-bit PSN, a 32-bit key and a 64-bit address. -/
def RdmaReq.wf (r : RdmaReq) : Bool :=
  decide (r.qp < 65536) && decide (r.psn < 16777216) && decide (r.packets < 16777216) && decide (r.rkey < 4294967296) &&
    decide (r.va < 18446744073709551616)

/-- The field widths of 08_remote_access R327. -/
def Mpeth.wf (h : Mpeth) : Bool :=
  decide (h.qp < 65536) && decide (h.msn < 16777216) && decide (h.path < 8) && decide (h.msgLen < 4294967296) &&
    decide (h.va < 18446744073709551616) && decide (h.rkey < 4294967296) && decide (h.pktOffset < 4294967296) &&
    decide (h.immediate < 4294967296) && decide (h.pktCount < 4294967296)

/-- The stored bytes lie within the wire length and the timestamp has 64 bits (10_capture_replay R380, R391). -/
def InstrFrame.wf (f : InstrFrame) : Bool :=
  decide (f.bytes.length ≤ f.wireLen) && decide (f.wireLen < 4294967296) && decide (f.timestamp < 18446744073709551616)

/-- A line of a unit of at most 1 MiB (06_pair R210). -/
def LineWrite.wf (w : LineWrite) : Bool := decide (w.line < 18446744073709551616)

/-- The widths of 06_pair R213. -/
def SealRun.wf (r : SealRun) : Bool :=
  decide (r.seq < 18446744073709551616) && decide (r.firstMsn < 18446744073709551616) && decide (r.count < 4294967296)

/-- The region of 06_pair R238 and its mirror state. -/
def JoinView.wf (v : JoinView) : Bool := decide (v.region < 4096) && decide (v.state < 4) && v.unknown.all fun u => u.all LineWrite.wf

/-- The access of a FWD_REQUEST. -/
def FwdOp.wf : FwdOp → Bool
  | .read bytes => decide (bytes < 4294967296)
  | .drain bytes => decide (bytes < 4294967296)
  | .write lines => lines.all LineWrite.wf
  | .atomic kind _ _ => decide (kind < 256)

/-- The addresses lie in the 96 GiB of the largest shelf (01_architecture R4). -/
def Corrected.wf (c : Corrected) : Bool := c.shelf.all fun a => decide (a < 103079215104)

/-- MEMORY 0 to 2, a region, and a 64-bit address (12_integrity R462). -/
def ScrubFind.wf (f : ScrubFind) : Bool := decide (f.memory < 3) && decide (f.region < 4096) && decide (f.address < 18446744073709551616)

/-- The place lies inside the memory it names (12_integrity R452). -/
def DamagedPlace.wf : DamagedPlace → Bool
  | .drawerHeld slot => decide (slot < 131072)
  | .chestLine seq _ => decide (seq < 18446744073709551616)
  | .segClean segment page => decide (segment < 268435456) && decide (page < 512)
  | .segDirty segment page lines => decide (segment < 268435456) && decide (page < 512) && lines.all fun i => decide (i < 64)
  | .segVolatile segment page lines => decide (segment < 268435456) && decide (page < 512) && lines.all fun i => decide (i < 64)
  | .mapPage page => decide (page < 1048576)
  | .lentKeys _ index => decide (index < 1048576)
  | .lentCapsule _ qid => decide (qid < 16384)
  | .lentOther _ => true
  | .qpContext qp => decide (qp < 65536)
  | .replayStaging channel _ => decide (channel < 16)
  | .replayProgram channel => decide (channel < 16)
  | .captureStaging port _ => decide (port < 16)
  | .frontCache head granule => decide (head < 16) && decide (granule < 9007199254740992)
  | .recentWriteMap => true
  | .transformContext stream => decide (stream < 256)
  | .mplReceiveBuffer _ => true
  | .ethReceiveBuffer port => decide (port < 16)
  | .captureReceiveBuffer port => decide (port < 16)
  | .managementSram => true

/-- The regions and key slots that a META item names exist (05_regions R163). -/
def MetaItem.wf : MetaItem → Bool
  | .regionDesc id _ => decide (id < 4096)
  | .extentAssign region position _ _ => decide (region < 4096) && decide (position < 2)
  | .extentRelease region position _ _ => decide (region < 4096) && decide (position < 2)
  | .pairRecord _ _ _ _ _ slot _ retired => decide (slot < 4096) && retired.all fun i => decide (i < 4096)
  | .lease region holder _ epoch _ => decide (region < 65536) && decide (holder < 2) && decide (epoch < 4294967296)
  | .mirrorState region position state _ _ => decide (region < 4096) && decide (position < 2) && decide (state < 4)
  | .keySlot slot _ _ region _ => decide (slot < 4096) && decide (region < 4096)
  | .sanitizeMark _ _ _ => true

/-- The well-formed commands. -/
def Instr.wf : Instr → Bool
  | .mmioRegisterWrite src offset _ => src.wf && decide (offset < 524288)
  | .beatBoundary => true
  | .beatLoRead => true
  | .todLoRead => true
  | .teNctrLoRead => true
  | .ueLogLoRead => true
  | .newestLoRead => true
  | .transformCycle => true
  | .backlogLimit stream => decide (stream < 256)
  | .getSlotTable path input => path.wf && decide (input.length ≤ 65536)
  | .setSlotTable path input => path.wf && decide (input.length ≤ 65536)
  | .activateSlotTable path input => path.wf && decide (input.length ≤ 65536)
  | .slotTableSwap => true
  | .ptpMessage port _ _ => decide (port < 16)
  | .ppsInEdge _ _ => true
  | .timebaseSourceLost _ => true
  | .timebaseLocked => true
  | .ppsOutRise => true
  | .ppsOutFall => true
  | .writeAdmission unit => decide (unit < 18446744073709551616)
  | .writeAcknowledge unit => decide (unit < 18446744073709551616)
  | .journalRecordComplete seq => decide (seq < 18446744073709551616)
  | .anchorUpdate => true
  | .persistFence qid cid => decide (qid < 16384) && decide (cid < 65536)
  | .persistFenceComplete qid cid => decide (qid < 16384) && decide (cid < 65536)
  | .admissionWaitLimit => true
  | .drainComplete => true
  | .chestVerifyFailure row => decide (row < 4194304)
  | .drawerBankError bank slot => decide (bank < 16) && decide (slot < 8192)
  | .drawerBankDisable bank => decide (bank < 16)
  | .segmentSlotRequest segment => decide (segment < 268435456)
  | .slotWaitLimit => true
  | .pageArrival segment page => decide (segment < 268435456) && decide (page < 512)
  | .shelfPageFailure slot partition => decide (slot < 49152) && decide (partition < 5)
  | .drainPlacement seq => decide (seq < 18446744073709551616)
  | .checkpointStart => true
  | .checkpointComplete => true
  | .rowClose position block row => decide (position < 32) && decide (block < 4194304) && decide (row < 4194304)
  | .rowCloseTimeout position block row => decide (position < 32) && decide (block < 4194304) && decide (row < 4194304)
  | .writeBack lcn addr => decide (lcn < 8589934592) && decide (addr < 17592186044416)
  | .writeBackComplete lcn => decide (lcn < 8589934592)
  | .relocationComplete lcn addr => decide (lcn < 8589934592) && decide (addr < 17592186044416)
  | .chunkReadComplete lcn outcome => decide (lcn < 8589934592) && outcome.wf
  | .garbageCollection position => decide (position < 32)
  | .freeStripeExhausted position => decide (position < 32)
  | .wearLevelRelocation position => decide (position < 32)
  | .readDisturbRefresh position block => decide (position < 32) && decide (block < 4194304)
  | .nandStatusFailure lun block _ => decide (lun < 2048) && decide (block < 4194304)
  | .lunFailure lun => decide (lun < 2048)
  | .rebuildComplete lun => decide (lun < 2048)
  | .opEvaluation => true
  | .createRegion path input => path.wf && decide (input.length ≤ 65536)
  | .deleteRegion path input => path.wf && decide (input.length ≤ 65536)
  | .resizeRegion path input => path.wf && decide (input.length ≤ 65536)
  | .getRegion path input => path.wf && decide (input.length ≤ 65536)
  | .listRegions path input => path.wf && decide (input.length ≤ 65536)
  | .setRegionAttributes path input => path.wf && decide (input.length ≤ 65536)
  | .attachExtent path input => path.wf && decide (input.length ≤ 65536)
  | .detachExtent path input => path.wf && decide (input.length ≤ 65536)
  | .grantMemoryKey path input => path.wf && decide (input.length ≤ 65536)
  | .revokeMemoryKey path input => path.wf && decide (input.length ≤ 65536)
  | .getCapacity path input => path.wf && decide (input.length ≤ 65536)
  | .regionChangeBoundary region => decide (region < 4096)
  | .regionChangeDrained region => decide (region < 4096)
  | .readOnlyTakesEffect region => decide (region < 4096)
  | .domainMaskTakesEffect region => decide (region < 4096)
  | .formPair path input => path.wf && decide (input.length ≤ 65536)
  | .armPairJoin path input => path.wf && decide (input.length ≤ 65536)
  | .armingExpiry => true
  | .dissolvePair path input => path.wf && decide (input.length ≤ 65536)
  | .getPairStatus path input => path.wf && decide (input.length ≤ 65536)
  | .moveSeat path input => path.wf && decide (input.length ≤ 65536)
  | .moveChair path input => path.wf && decide (input.length ≤ 65536)
  | .admitReplacement path input => path.wf && decide (input.length ≤ 65536)
  | .setStandbyChecks path input => path.wf && decide (input.length ≤ 65536)
  | .getPairHealth path input => path.wf && decide (input.length ≤ 65536)
  | .forceSeat path input => path.wf && decide (input.length ≤ 65536)
  | .setWitnessPath path input => path.wf && decide (input.length ≤ 65536)
  | .hello message => decide (message.length ≤ 65536)
  | .encapsulationKey message => decide (message.length ≤ 65536)
  | .kemCiphertext message => decide (message.length ≤ 65536)
  | .formationTimeout => true
  | .laneFault lane _ => decide (lane < 8)
  | .mplLinkInService nonce => decide (nonce.length = 8)
  | .batchReceive number _ => decide (number < 18446744073709551616)
  | .batchAck number => decide (number < 18446744073709551616)
  | .batchNak number => decide (number < 18446744073709551616)
  | .heartbeat h chairEpoch leaseEpoch => decide (h < 18446744073709551616) && decide (chairEpoch < 4294967296) && decide (leaseEpoch < 4294967296)
  | .heartbeatEcho h => decide (h < 18446744073709551616)
  | .taken chairEpoch => decide (chairEpoch < 4294967296)
  | .witnessHeartbeat port datagram => decide (port < 16) && decide (datagram.length ≤ 65536)
  | .leaseStopPoint => true
  | .takeoverDeadline => true
  | .switchOverComplete => true
  | .mirrorWrite region msn _ lines => decide (region < 4096) && decide (msn < 18446744073709551616) && lines.all LineWrite.wf
  | .mirrorAccept region msn => decide (region < 4096) && decide (msn < 18446744073709551616)
  | .mirrorAbort region msn => decide (region < 4096) && decide (msn < 18446744073709551616)
  | .mirrorSeal region groupBeat runs => decide (region < 4096) && decide (groupBeat < 18446744073709551616) && runs.all SealRun.wf
  | .mirrorDone seq => decide (seq < 18446744073709551616)
  | .metaCopy seq items => decide (seq < 18446744073709551616) && items.all MetaItem.wf
  | .metaDone seq => decide (seq < 18446744073709551616)
  | .fwdRequest mtag region offset op => decide (mtag < 65536) && decide (region < 4096) && decide (offset < 18446744073709551616) && op.wf
  | .fwdBcs mtag opcode _ input => decide (mtag < 65536) && decide (opcode < 65536) && decide (input.length ≤ 65536)
  | .fwdResponse mtag status poison _ => decide (mtag < 65536) && decide (status < 65536) && (poison.all fun i => decide (i < 1024))
  | .bcsResponse mtag rc _ => decide (mtag < 65536) && decide (rc < 65536)
  | .resyncChunk region offset srcSeq _ _ poison => decide (region < 4096) && decide (offset < 18446744073709551616) && decide (srcSeq < 18446744073709551616) && (poison.all fun i => decide (i < 1024))
  | .mplCompare region offset _ => decide (region < 4096) && decide (offset < 18446744073709551616)
  | .seatMoveComplete region => decide (region < 4096)
  | .mirrorCompare => true
  | .roleSwap => true
  | .standbySelfTest test detail _ => decide (test < 256) && decide (detail < 4294967296)
  | .pairJoin views => views.all JoinView.wf
  | .resyncMark region => decide (region < 4096)
  | .resyncComplete region => decide (region < 4096)
  | .joinWaitTimeout region => decide (region < 4096)
  | .headLinkUp head width speed flit => decide (head < 16) && decide (width < 17) && decide (speed < 4) && decide (flit < 4)
  | .headLinkDown head cause => decide (head < 16) && decide (cause < 256)
  | .perstNAssert head => decide (head < 16)
  | .cxlMemRead req corrected => req.wf && corrected.wf
  | .cxlMemWrite req _ _ _ => req.wf
  | .missFillReturn head register => decide (head < 16) && decide (register < 16)
  | .victimHandoff head entry => decide (head < 16) && decide (entry < 16)
  | .frontCacheEccError head granule => decide (head < 16) && decide (granule < 9007199254740992)
  | .frontCacheBankEmpty head bank => decide (head < 16) && decide (bank < 6)
  | .addDynamicCapacityResponse target _ _ => decide (target < 256)
  | .offerTimeout entry => decide (entry < 1048576)
  | .releaseDynamicCapacity target _ => decide (target < 256)
  | .detachTimeout entry => decide (entry < 1048576)
  | .gpfPhase1 head => decide (head < 16)
  | .gpfPhase2 head => decide (head < 16)
  | .identify path input => path.wf && decide (input.length ≤ 65536)
  | .backgroundOperationStatus path input => path.wf && decide (input.length ≤ 65536)
  | .getEventRecords path input => path.wf && decide (input.length ≤ 65536)
  | .clearEventRecords path input => path.wf && decide (input.length ≤ 65536)
  | .getEventInterruptPolicy path input => path.wf && decide (input.length ≤ 65536)
  | .setEventInterruptPolicy path input => path.wf && decide (input.length ≤ 65536)
  | .getFwInfo path input => path.wf && decide (input.length ≤ 65536)
  | .transferFw path input => path.wf && decide (input.length ≤ 65536)
  | .activateFw path input => path.wf && decide (input.length ≤ 65536)
  | .getTimestamp path input => path.wf && decide (input.length ≤ 65536)
  | .setTimestamp path input => path.wf && decide (input.length ≤ 65536)
  | .getSupportedLogs path input => path.wf && decide (input.length ≤ 65536)
  | .getLog path input => path.wf && decide (input.length ≤ 65536)
  | .identifyMemoryDevice path input => path.wf && decide (input.length ≤ 65536)
  | .getPartitionInfo path input => path.wf && decide (input.length ≤ 65536)
  | .setPartitionInfo path input => path.wf && decide (input.length ≤ 65536)
  | .getLsa path input => path.wf && decide (input.length ≤ 65536)
  | .setLsa path input => path.wf && decide (input.length ≤ 65536)
  | .getHealthInfo path input => path.wf && decide (input.length ≤ 65536)
  | .getAlertConfiguration path input => path.wf && decide (input.length ≤ 65536)
  | .setAlertConfiguration path input => path.wf && decide (input.length ≤ 65536)
  | .getShutdownState path input => path.wf && decide (input.length ≤ 65536)
  | .setShutdownState path input => path.wf && decide (input.length ≤ 65536)
  | .getPoisonList path input => path.wf && decide (input.length ≤ 65536)
  | .injectPoison path input => path.wf && decide (input.length ≤ 65536)
  | .clearPoison path input => path.wf && decide (input.length ≤ 65536)
  | .getScanMediaCapabilities path input => path.wf && decide (input.length ≤ 65536)
  | .scanMedia path input => path.wf && decide (input.length ≤ 65536)
  | .getScanMediaResults path input => path.wf && decide (input.length ≤ 65536)
  | .getDynamicCapacityConfiguration path input => path.wf && decide (input.length ≤ 65536)
  | .getDynamicCapacityExtentList path input => path.wf && decide (input.length ≤ 65536)
  | .cxlSanitize path input => path.wf && decide (input.length ≤ 65536)
  | .secureErase path input => path.wf && decide (input.length ≤ 65536)
  | .getLdInfo path input => path.wf && decide (input.length ≤ 65536)
  | .getLdAllocations path input => path.wf && decide (input.length ≤ 65536)
  | .setLdAllocations path input => path.wf && decide (input.length ≤ 65536)
  | .ethLinkChange port _ speed => decide (port < 16) && decide (speed < 4)
  | .fabricFrame port length kind => decide (port < 16) && decide (length < 4294967296) && kind.wf
  | .rdmaWrite req _ => req.wf
  | .rdmaWriteWithImmediate req _ immediate => req.wf && decide (immediate < 4294967296)
  | .send req _ => req.wf
  | .sendWithImmediate req _ immediate => req.wf && decide (immediate < 4294967296)
  | .rdmaRead req length => req.wf && decide (length < 4294967296)
  | .compareAndSwap req _ _ => req.wf
  | .fetchAndAdd req _ => req.wf
  | .atomicWrite req _ => req.wf
  | .flush req length => req.wf && decide (length < 4294967296)
  | .ack qp psn credits => decide (qp < 65536) && decide (psn < 16777216) && decide (credits < 32)
  | .nak qp psn syndrome => decide (qp < 65536) && decide (psn < 16777216) && decide (syndrome < 256)
  | .rnrNak qp psn timer => decide (qp < 65536) && decide (psn < 16777216) && decide (timer < 32)
  | .readResponse qp psn _ => decide (qp < 65536) && decide (psn < 16777216)
  | .atomicAcknowledge qp psn _ => decide (qp < 65536) && decide (psn < 16777216)
  | .cnp qp => decide (qp < 65536)
  | .rateIncrease qp => decide (qp < 65536)
  | .ackTimeout qp => decide (qp < 65536)
  | .rnrTimerExpiry qp => decide (qp < 65536)
  | .contextSwapComplete qp => decide (qp < 65536)
  | .keyRevocation index => decide (index < 1048576)
  | .revocationComplete index => decide (index < 1048576)
  | .counterFire entry => decide (entry < 16384)
  | .workRequestIssue qp => decide (qp < 65536)
  | .qpError qp cause status => decide (qp < 65536) && decide (cause < 256) && decide (status < 65536)
  | .createQp path input => path.wf && decide (input.length ≤ 65536)
  | .modifyQp path input => path.wf && decide (input.length ≤ 65536)
  | .queryQp path input => path.wf && decide (input.length ≤ 65536)
  | .destroyQp path input => path.wf && decide (input.length ≤ 65536)
  | .setGid path input => path.wf && decide (input.length ≤ 65536)
  | .getPortStatus path input => path.wf && decide (input.length ≤ 65536)
  | .triggerCounter path input => path.wf && decide (input.length ≤ 65536)
  | .mpWrite h _ => h.wf
  | .mpWriteImm h _ => h.wf
  | .mpMessageComplete qp msn => decide (qp < 65536) && decide (msn < 16777216)
  | .mpReadReq h => h.wf
  | .mpReassemblyTimeout qp msn => decide (qp < 65536) && decide (msn < 16777216)
  | .sqTailDoorbell head qid _ => decide (head < 16) && decide (qid < 16384)
  | .cqHeadDoorbell head qid _ => decide (head < 16) && decide (qid < 16384)
  | .aqEnable head => decide (head < 16)
  | .aqDisable head => decide (head < 16)
  | .aqReady => true
  | .commandFetch qid entry _ => decide (qid < 16384) && decide (entry.length = 64)
  | .inFlightLimitHeld => true
  | .read qid cid corrected => decide (qid < 16384) && decide (cid < 65536) && corrected.wf
  | .write qid cid _ => decide (qid < 16384) && decide (cid < 65536)
  | .writeZeroes qid cid => decide (qid < 16384) && decide (cid < 65536)
  | .copy qid cid => decide (qid < 16384) && decide (cid < 65536)
  | .compare qid cid _ => decide (qid < 16384) && decide (cid < 65536)
  | .drainToCabinet qid cid => decide (qid < 16384) && decide (cid < 65536)
  | .drainToCabinetComplete qid cid => decide (qid < 16384) && decide (cid < 65536)
  | .checkValue qid cid _ => decide (qid < 16384) && decide (cid < 65536)
  | .scanPattern qid cid _ => decide (qid < 16384) && decide (cid < 65536)
  | .sealData qid cid _ => decide (qid < 16384) && decide (cid < 65536)
  | .unsealData qid cid _ => decide (qid < 16384) && decide (cid < 65536)
  | .triggerArm qid cid => decide (qid < 16384) && decide (cid < 65536)
  | .triggerArmEffect entry => decide (entry < 16384)
  | .bcsTunnel cid input => decide (cid < 65536) && decide (input.length ≤ 65536)
  | .createQueuePair path input => path.wf && decide (input.length ≤ 65536)
  | .deleteQueuePair path input => path.wf && decide (input.length ≤ 65536)
  | .queryQueuePair path input => path.wf && decide (input.length ≤ 65536)
  | .commandCapsule qp psn _ => decide (qp < 65536) && decide (psn < 16777216)
  | .transferReadySend qid cid => decide (qid < 16384) && decide (cid < 65536)
  | .pieceDelivery qp stagingKey immediate va _ => decide (qp < 65536) && decide (stagingKey < 4294967296) && decide (immediate < 4294967296) && decide (va < 18446744073709551616)
  | .transferTimeout tag => decide (tag < 16384)
  | .notice qid => decide (qid < 16384)
  | .interruptAggregationExpiry qid => decide (qid < 16384)
  | .hostMemoryFailure qid cid kind address => decide (qid < 16384) && decide (cid < 65536) && decide (kind < 256) && decide (address < 18446744073709551616)
  | .instrumentFrame port frame => decide (port < 16) && frame.wf
  | .stagedChunkProgram port chunk addr => decide (port < 16) && decide (chunk < 4294967296) && decide (addr < 17592186044416)
  | .stagedChunkTimeout port chunk addr => decide (port < 16) && decide (chunk < 4294967296) && decide (addr < 17592186044416)
  | .stagedBacklogExceeded => true
  | .captureConfigure qid cid _ => decide (qid < 16384) && decide (cid < 65536)
  | .setRules qid cid _ => decide (qid < 16384) && decide (cid < 65536)
  | .ruleSetActivation port => decide (port < 16)
  | .captureStart qid cid => decide (qid < 16384) && decide (cid < 65536)
  | .ringStartBeat port => decide (port < 16)
  | .captureStop qid cid => decide (qid < 16384) && decide (cid < 65536)
  | .ringStopBeat port => decide (port < 16)
  | .captureStatus qid cid => decide (qid < 16384) && decide (cid < 65536)
  | .release qid cid => decide (qid < 16384) && decide (cid < 65536)
  | .tailRelease port => decide (port < 16)
  | .replayConfigure qid cid _ => decide (qid < 16384) && decide (cid < 65536)
  | .load qid cid => decide (qid < 16384) && decide (cid < 65536)
  | .replayStart qid cid => decide (qid < 16384) && decide (cid < 65536)
  | .channelStartBeat channel => decide (channel < 16)
  | .replayStop qid cid => decide (qid < 16384) && decide (cid < 65536)
  | .channelStopBeat channel => decide (channel < 16)
  | .replayStatus qid cid => decide (qid < 16384) && decide (cid < 65536)
  | .captureControl path input => path.wf && decide (input.length ≤ 65536)
  | .replayControl path input => path.wf && decide (input.length ≤ 65536)
  | .replayPrefetch channel => decide (channel < 16)
  | .recordStaged channel => decide (channel < 16)
  | .frameLaunch channel cycle => decide (channel < 16) && decide (cycle < 18446744073709551616)
  | .sliceFault slice => decide (slice < 17)
  | .spareSliceActivation => true
  | .nonceWindowReservation window => decide (window < 18446744073709551616)
  | .keySlotChangeEffect slot => decide (slot < 4096)
  | .uncorrectableError place => place.wf
  | .dirtyPageRecovery segment page => decide (segment < 268435456) && decide (page < 512)
  | .recentWriteMapRebuild => true
  | .mapPageRebuild page => decide (page < 1048576)
  | .startScrub path input => path.wf && decide (input.length ≤ 65536)
  | .getScrubSummary path input => path.wf && decide (input.length ≤ 65536)
  | .scrubEnd corrected => corrected.all ScrubFind.wf
  | .stackTemperatureReading stack celsius => decide (stack < 2) && decide (-128 ≤ celsius ∧ celsius < 128)
  | .bandChangeQuiesce => true
  | .fullRateChange stack => decide (stack < 2)
  | .refreshDue channel bank => decide (channel < 64) && decide (bank < 64)
  | .lockstepMismatch _ => true
  | .watchdogExpiry => true
  | .complexRestartComplete => true
  | .backgroundCommandComplete opcode => decide (opcode < 65536)
  | .fwTransferTimeout => true
  | .activationSelfCheckTimeout => true
  | .registerWrite address _ _ => decide (address < 524288)
  | .registerRead address _ => decide (address < 524288)
  | .bcsLoad offset _ _ => decide (offset < 65536)
  | .bcsExecute opcode length _ => decide (opcode < 65536) && decide (length < 4294967296)
  | .bcsStatus _ => true
  | .bcsFetch offset _ => decide (offset < 65536)
  | .smbusAddressMatch _ _ => true
  | .smbusTimeout => true
  | .getUnitPower path input => path.wf && decide (input.length ≤ 65536)
  | .setUnitPower path input => path.wf && decide (input.length ≤ 65536)
  | .getParameter path input => path.wf && decide (input.length ≤ 65536)
  | .setParameter path input => path.wf && decide (input.length ≤ 65536)
  | .listParameters path input => path.wf && decide (input.length ≤ 65536)
  | .enterDeviceStandby path input => path.wf && decide (input.length ≤ 65536)
  | .readEvents path input => path.wf && decide (input.length ≤ 65536)
  | .getRecorderStatus path input => path.wf && decide (input.length ≤ 65536)
  | .identifyController path input => path.wf && decide (input.length ≤ 65536)
  | .getIdentityKey path input => path.wf && decide (input.length ≤ 65536)
  | .getAttestationReport path input => path.wf && decide (input.length ≤ 65536)
  | .getProtectionLevel path input => path.wf && decide (input.length ≤ 65536)
  | .setProtectionLevel path input => path.wf && decide (input.length ≤ 65536)
  | .sanitize path input => path.wf && decide (input.length ≤ 65536)
  | .getSparesInventory path input => path.wf && decide (input.length ≤ 65536)
  | .getEraseCounts path input => path.wf && decide (input.length ≤ 65536)
  | .getStripeState path input => path.wf && decide (input.length ≤ 65536)
  | .readWearLog path input => path.wf && decide (input.length ≤ 65536)
  | .getSequencerStatus path input => path.wf && decide (input.length ≤ 65536)
  | .clearLockout path input => path.wf && decide (input.length ≤ 65536)
  | .powerDown path input => path.wf && decide (input.length ≤ 65536)
  | .bindTransformStream path input => path.wf && decide (input.length ≤ 65536)
  | .rollbackFuseUpdate => true
  | .signingWindowReservation window => decide (window < 18446744073709551616)
  | .keyUnitReady => true
  | .norOperationComplete _ => true
  | .eraseSuspend => true
  | .counterLogCompaction => true
  | .hourEntry => true
  | .eventRecordWrite => true
  | .pendingEventRelay => true
  | .vstbyApplied => true
  | .vstbyCollapse => true
  | .powerUpStart => true
  | .railDebounceComplete rail => decide (rail < 12)
  | .stepGapEnd => true
  | .stepTimeout microseconds lowSamples => decide (microseconds < 4294967296) && decide (lowSamples < 4294967296)
  | .retryWaitEnd => true
  | .railLow rail => decide (rail < 12)
  | .fallTimeout rail => decide (rail < 12)
  | .powerGoodLoss rail => decide (rail < 12)
  | .pfailNAssert => true
  | .vinSenseTrip => true
  | .inputRecovered => true
  | .wdiEdge microsSinceLast => decide (microsSinceLast < 4294967296)
  | .wdiWindowExpiry microsSinceLast => decide (microsSinceLast < 4294967296)
  | .thermalReading sensor celsius => decide (sensor < 10) && decide (-128 ≤ celsius ∧ celsius < 128)
  | .idleTimerEntry unit => decide (unit < 65536)
  | .unitWorkArrival unit agent => decide (unit < 65536) && decide (agent < 65536)
  | .commandedStateEntry unit => decide (unit < 65536)
  | .padHoldRelease _ => true
  | .wakeNLow _ _ => true
  | .resetNAssert => true
  | .resetNDeassert => true
  | .sysRefclkLoss => true
  | .startUpRomPhase => true
  | .startUpFirmwarePhase stack0 stack1 chestTemp _ badSets => decide (-128 ≤ stack0 ∧ stack0 < 128) && decide (-128 ≤ stack1 ∧ stack1 < 128) && decide (-128 ≤ chestTemp ∧ chestTemp < 128) && (badSets.all fun i => decide (i < 320))
  | .startUpJournalPhase beats => decide (beats < 18446744073709551616)
  | .startUpMapPhase _ _ beats => decide (beats < 18446744073709551616)
  | .startUpRegionsPhase badSlots => (badSlots.all fun i => decide (i < 4096))
  | .startUpLinksPhase milliseconds => decide (milliseconds < 4294967296)
  | .warmUpEnd chestTemp milliseconds => decide (-128 ≤ chestTemp ∧ chestTemp < 128) && decide (milliseconds < 4294967296)
  | .warmUpTimeout => true
  | .switchOverBound => true
  | .clk25InLoss => true
  | .perstNDeassert head => decide (head < 16)
  | .headLinkPowerStateChange head state => decide (head < 16) && decide (state < 16)
  | .jtagInstruction instruction => decide (instruction < 256)
  | .dcdManagementCommand path opcode input => path.wf && decide (opcode < 65536) && decide (input.length ≤ 65536)

/-- A queue of well-formed commands. -/
def wfQueue (q : List Instr) : Bool := q.all Instr.wf

end Sys2Proof
end

