-- ==== Sys2Proof/Safety.lean ====
section
/-! DEFINITION. What counts as a safe run, in the terms that the statements use: the byte memories keep their canonical form, the
waiting commands are well-formed, and a step answers a next state. -/

namespace Sys2Proof.Machine

/-- The byte memories of the management complex are canonical: mailbox payloads and the proxy's input buffer. -/
def mcCanonical (m : Mc) : Bool := (m.mail.all fun e => Memory.wf e.2.payload) && Memory.wf m.proxy.input

/-- Every byte memory of the block is in canonical form: the shelf, the cabinet, the staged capture chunks, the mailbox payloads and
the proxy's input buffer. -/
def canonical (s : State) : Bool :=
  Memory.wf s.ti.shelf && Memory.wf s.ti.cab && Memory.wf s.cap.staging && mcCanonical s.mc

/-- The invariant of a safe run: canonical memories, and a queue of well-formed commands. -/
def safeState (s : State) : Bool := canonical s && wfQueue s.pending

/-- A BCS command on a path is taken up by the executor: the complex serves and runs its firmware, and the path may send the opcode
(13_management R482, R491). -/
def bcsOpen (path : BcsPath) (opcode : Nat) (s : State) : Bool :=
  s.mc.serving && !noPair s && !s.mc.rom && (privileged path || !needsPrivilege opcode)

/-- A response to a BCS command left the block. -/
abbrev answered (path : BcsPath) (opcode rc : Nat) (payload : Bytes) (t : State) : Prop :=
  Output.bcs path opcode rc 0xFFFF payload ∈ t.out

/-- An event with this code stands in the recorder's queue. -/
abbrev recorded (code : Nat) (t : State) : Prop := ∃ e ∈ t.ev.queue, e.code = code

/-- The code and the severity of the newest event in the recorder's queue. -/
def newestEvent (t : State) : Option (Nat × Severity) := t.ev.queue.getLast?.map fun e => (e.code, e.severity)

/-- The recorder's queue has room for one more event (15_config_flash_events R563). -/
def eventRoom (s : State) : Bool := decide (s.ev.queue.length < 1024)

/-- The BCS command that an instruction is: its path, its opcode and its input (13_management R493 to R505). DCD management, whose opcode is
an operand, is not among them. -/
def bcsRow : Instr → Option (BcsPath × Nat × Bytes)
  | .getSlotTable path input => some (path, 0xC090, input)
  | .setSlotTable path input => some (path, 0xC091, input)
  | .activateSlotTable path input => some (path, 0xC092, input)
  | .createRegion path input => some (path, 0xC010, input)
  | .deleteRegion path input => some (path, 0xC011, input)
  | .resizeRegion path input => some (path, 0xC012, input)
  | .getRegion path input => some (path, 0xC013, input)
  | .listRegions path input => some (path, 0xC014, input)
  | .setRegionAttributes path input => some (path, 0xC015, input)
  | .attachExtent path input => some (path, 0xC016, input)
  | .detachExtent path input => some (path, 0xC017, input)
  | .grantMemoryKey path input => some (path, 0xC018, input)
  | .revokeMemoryKey path input => some (path, 0xC019, input)
  | .getCapacity path input => some (path, 0xC01A, input)
  | .formPair path input => some (path, 0xC000, input)
  | .armPairJoin path input => some (path, 0xC001, input)
  | .dissolvePair path input => some (path, 0xC002, input)
  | .getPairStatus path input => some (path, 0xC003, input)
  | .moveSeat path input => some (path, 0xC004, input)
  | .moveChair path input => some (path, 0xC005, input)
  | .admitReplacement path input => some (path, 0xC006, input)
  | .setStandbyChecks path input => some (path, 0xC007, input)
  | .getPairHealth path input => some (path, 0xC008, input)
  | .forceSeat path input => some (path, 0xC009, input)
  | .setWitnessPath path input => some (path, 0xC00A, input)
  | .identify path input => some (path, 0x0001, input)
  | .backgroundOperationStatus path input => some (path, 0x0002, input)
  | .getEventRecords path input => some (path, 0x0100, input)
  | .clearEventRecords path input => some (path, 0x0101, input)
  | .getEventInterruptPolicy path input => some (path, 0x0102, input)
  | .setEventInterruptPolicy path input => some (path, 0x0103, input)
  | .getFwInfo path input => some (path, 0x0200, input)
  | .transferFw path input => some (path, 0x0201, input)
  | .activateFw path input => some (path, 0x0202, input)
  | .getTimestamp path input => some (path, 0x0300, input)
  | .setTimestamp path input => some (path, 0x0301, input)
  | .getSupportedLogs path input => some (path, 0x0400, input)
  | .getLog path input => some (path, 0x0401, input)
  | .identifyMemoryDevice path input => some (path, 0x4000, input)
  | .getPartitionInfo path input => some (path, 0x4100, input)
  | .setPartitionInfo path input => some (path, 0x4101, input)
  | .getLsa path input => some (path, 0x4102, input)
  | .setLsa path input => some (path, 0x4103, input)
  | .getHealthInfo path input => some (path, 0x4200, input)
  | .getAlertConfiguration path input => some (path, 0x4201, input)
  | .setAlertConfiguration path input => some (path, 0x4202, input)
  | .getShutdownState path input => some (path, 0x4203, input)
  | .setShutdownState path input => some (path, 0x4204, input)
  | .getPoisonList path input => some (path, 0x4300, input)
  | .injectPoison path input => some (path, 0x4301, input)
  | .clearPoison path input => some (path, 0x4302, input)
  | .getScanMediaCapabilities path input => some (path, 0x4303, input)
  | .scanMedia path input => some (path, 0x4304, input)
  | .getScanMediaResults path input => some (path, 0x4305, input)
  | .getDynamicCapacityConfiguration path input => some (path, 0x4800, input)
  | .getDynamicCapacityExtentList path input => some (path, 0x4801, input)
  | .cxlSanitize path input => some (path, 0x4400, input)
  | .secureErase path input => some (path, 0x4401, input)
  | .getLdInfo path input => some (path, 0x5400, input)
  | .getLdAllocations path input => some (path, 0x5401, input)
  | .setLdAllocations path input => some (path, 0x5402, input)
  | .createQp path input => some (path, 0xC0A0, input)
  | .modifyQp path input => some (path, 0xC0A1, input)
  | .queryQp path input => some (path, 0xC0A2, input)
  | .destroyQp path input => some (path, 0xC0A3, input)
  | .setGid path input => some (path, 0xC0A4, input)
  | .getPortStatus path input => some (path, 0xC0A5, input)
  | .triggerCounter path input => some (path, 0xC0A6, input)
  | .createQueuePair path input => some (path, 0xC0B0, input)
  | .deleteQueuePair path input => some (path, 0xC0B1, input)
  | .queryQueuePair path input => some (path, 0xC0B2, input)
  | .captureControl path input => some (path, 0xC060, input)
  | .replayControl path input => some (path, 0xC061, input)
  | .startScrub path input => some (path, 0xC074, input)
  | .getScrubSummary path input => some (path, 0xC075, input)
  | .getUnitPower path input => some (path, 0xC020, input)
  | .setUnitPower path input => some (path, 0xC021, input)
  | .getParameter path input => some (path, 0xC022, input)
  | .setParameter path input => some (path, 0xC023, input)
  | .listParameters path input => some (path, 0xC024, input)
  | .enterDeviceStandby path input => some (path, 0xC025, input)
  | .readEvents path input => some (path, 0xC030, input)
  | .getRecorderStatus path input => some (path, 0xC031, input)
  | .identifyController path input => some (path, 0xC040, input)
  | .getIdentityKey path input => some (path, 0xC041, input)
  | .getAttestationReport path input => some (path, 0xC042, input)
  | .getProtectionLevel path input => some (path, 0xC050, input)
  | .setProtectionLevel path input => some (path, 0xC051, input)
  | .sanitize path input => some (path, 0xC052, input)
  | .getSparesInventory path input => some (path, 0xC070, input)
  | .getEraseCounts path input => some (path, 0xC071, input)
  | .getStripeState path input => some (path, 0xC072, input)
  | .readWearLog path input => some (path, 0xC073, input)
  | .getSequencerStatus path input => some (path, 0xC080, input)
  | .clearLockout path input => some (path, 0xC081, input)
  | .powerDown path input => some (path, 0xC082, input)
  | .bindTransformStream path input => some (path, 0xC093, input)
  | _ => none

/-- The offset of a register command that lies outside BAR 0 (13_management R485). -/
def outsideOf : Instr → Option Nat
  | .mmioRegisterWrite _ offset _ => if 0x80000 ≤ offset then some offset else none
  | .registerWrite address _ _ => if 0x80000 ≤ address then some address else none
  | .registerRead address _ => if 0x80000 ≤ address then some address else none
  | _ => none

/-- The buffers of the event unit hold no more than they can (15_config_flash_events R563, R566). -/
def boundedEvents (s : State) : Bool := decide (s.ev.queue.length ≤ 1024) && decide (s.ev.supPending.length ≤ 16)

/-- The newest write unit is admitted as soon as it is submitted (03_persistence R65, R89, R90). -/
def admitsLast (s : State) : Bool :=
  match s.pu.units.getLast? with
  | some u => canAdmit u s && (takeSlots u .reserved s.pu).isSome && !volatileUnit u s
  | none => false

/-- A region that this controller serves alone: neither settee nor mirrored nor volatile, its seat here (01_architecture R25). -/
def plainHere (r : Nat) (s : State) : Bool :=
  match regionOf r s with
  | some d => !d.settee && !d.mirrored && !d.isVolatile && d.seat == s.ident.controllerId
  | none => false

/-- A reliable QP takes a request as its next one: its context is on die, it is in RTR or RTS with nothing unanswered, the PSN is the
expected one and the packet is not marked, and its completion ring need not be read again (08_remote_access R297, R301, R306, R314). -/
def qpTakes (q : Qp) (req : RdmaReq) : Bool :=
  (q.state == .rtr || q.state == .rts) && q.onDie && q.rx.isEmpty && q.attr.transport == 0 && decide (req.psn = q.ePsn ∧ q.ePsn < psnMod) &&
    !req.ecn && (decide (4 ≤ slotsFree q) || q.attr.cplRing.region == 0)

/-- The state of a QP. -/
def qpState (i : Nat) (s : State) : Option QpState := (qpAt i s).map (·.state)

end Sys2Proof.Machine
end

