-- ==== Sys2Proof/Certificates/Slice0/Obligations.lean ====
section
/-! DEFINITION. The statements for the provers. -/

open Sys2Proof Sys2Proof.Machine

/-- For every command c and every state s, a step of s with c put at the front of its queue is exec of c on s: the queue's rest stays, and the outcome is exec's. This is the model's own convention (log entry 3). -/
def Obligations.StepRunsFrontCommand : Prop :=
    ∀ (c : Instr) (s : State),
      step { s with pending := c :: s.pending } = exec c s

/-- With no command waiting a step leaves the state as it is, and a word put in front changes nothing, because the table gives no row any bits (the model's convention, log entries 3 and 5). -/
def Obligations.EmptyQueueIdles : Prop :=
    (∀ (s : State),
      s.pending = [] →
      step s = .next s) ∧
    (∀ (s : State) (nbits w : Nat),
      s.withFetchWord nbits w = s)

/-- At reset the beat counter, time of day and their latches are zero, the timebase is FREE, no time source is selected and no flag is set, EVT.STATUS is zero, the sequencer is OFF, copy A is active and holds the default table that R45's procedure builds, and copy B is all open, no command waits, and every byte memory is canonical. -/
def Obligations.ResetValues : Prop :=
    State.reset.tb.beat = 0 ∧ State.reset.tb.beatHi = 0 ∧ State.reset.tb.tod = 0 ∧ State.reset.tb.todHi = 0 ∧ State.reset.tb.mode = .free ∧
      State.reset.tb.srcSel = 0 ∧ State.reset.tb.ptpPort = 0 ∧ State.reset.tb.ppsOutEn = false ∧ State.reset.tb.srcLost = false ∧
      State.reset.tb.stepped = false ∧ State.reset.tb.slotOvr = false ∧ State.reset.tb.ppsMiss = false ∧ State.reset.ev.status = 0 ∧
      State.reset.seq.state = .off ∧ State.reset.slot.activeB = false ∧ State.reset.slot.copyB = [] ∧ State.reset.pending = [] ∧
      State.reset.slot.copyA = defaultTable ∧ canonical State.reset = true

/-- For every state: a read of DCB.BEAT_LO returns bits 31 to 0 of the beat counter and latches bits 63 to 32 in DCB.BEAT_HI; TOD_LO, TE_NCTR_LO, UE_LOG_LO and EVT.NEWEST_LO do the same with time of day, the nonce counter, the error address and the newest record index. Nothing else of the state changes. -/
def Obligations.LowHalfReadsLatch : Prop :=
    (∀ (s : State),
      ∃ t, exec (.beatLoRead) s = .next t ∧ t = { s with
        tb := { s.tb with beatHi := BitVec.ofNat 32 (s.tb.beat / 2 ^ 32) }, out := .regRead (BitVec.ofNat 32 s.tb.beat) :: s.out }) ∧
    (∀ (s : State),
      ∃ t, exec (.todLoRead) s = .next t ∧ t = { s with
        tb := { s.tb with todHi := BitVec.ofNat 32 (s.tb.tod / 2 ^ 32) }, out := .regRead (BitVec.ofNat 32 s.tb.tod) :: s.out }) ∧
    (∀ (s : State),
      ∃ t, exec (.teNctrLoRead) s = .next t ∧ t = { s with
        te := { s.te with nctrHi := BitVec.ofNat 32 (s.te.nonce / 2 ^ 32) }, out := .regRead (BitVec.ofNat 32 s.te.nonce) :: s.out }) ∧
    (∀ (s : State),
      ∃ t, exec (.ueLogLoRead) s = .next t ∧ t = { s with
        ecc := { s.ecc with logHi := BitVec.ofNat 32 (s.ecc.logAddr / 2 ^ 32) }, out := .regRead (BitVec.ofNat 32 s.ecc.logAddr) :: s.out }) ∧
    (∀ (s : State),
      ∃ t, exec (.newestLoRead) s = .next t ∧ t = { s with
        ev := { s.ev with newestHi := BitVec.ofNat 32 (newestIndex s / 2 ^ 32) },
        out := .regRead (BitVec.ofNat 32 (newestIndex s)) :: s.out })

/-- With VCORE up: a write of DCB.TB_CTRL without RSVD bits sets PPS_IN_POL, PPS_OUT_EN, PTP_PORT and SRC_SEL; a write of TB_CTRL with a nonzero RSVD field sets EVT.STATUS.BADWR; a 1 written to an RW1C field of EVT.STATUS clears it and nothing else of the state changes; a write of PWR.UNIT_SEL changes that field alone; SEQ.DOWN_FAIL's RW1C bits clear with VCORE down too. A block that is not powered drops the write. An offset outside BAR 0 faults (log entry of the model). A sideband register write with a good PEC writes the register as head 0's function does and counts the transaction, and one with a bad PEC is discarded. -/
def Obligations.RegisterWritesByAccessCode : Prop :=
    (∀ (src : MmioSrc) (v : Word) (s : State),
      vcoreUp s = true →
      v &&& 0xFFFFFC0C#32 = 0#32 →
      ∃ t, exec (.mmioRegisterWrite src 0x20054 v) s = .next t ∧ t.tb.ppsInPol = wbit 9 v ∧ t.tb.ppsOutEn = wbit 8 v ∧
        t.tb.ptpPort = wf 7 4 v ∧ t.tb.srcSel = wf 1 0 v ∧ t.tb.beat = s.tb.beat ∧ t.tb.tod = s.tb.tod ∧ t.ti = s.ti ∧ t.reg = s.reg) ∧
    (∀ (src : MmioSrc) (v : Word) (s : State),
      vcoreUp s = true →
      v &&& 0xFFFFFC0C#32 ≠ 0#32 →
      ∃ t, exec (.mmioRegisterWrite src 0x20054 v) s = .next t ∧ t.ev.status.getLsbD 0 = true ∧ t.tb.srcSel = wf 1 0 v) ∧
    (∀ (src : MmioSrc) (v : Word) (s : State),
      vcoreUp s = true →
      v &&& 0xFFFFFF0E#32 = 0#32 →
      ∃ t, exec (.mmioRegisterWrite src 0x30000 v) s = .next t ∧ t = { s with ev := { s.ev with status := s.ev.status &&& ~~~ v.setWidth 8 } }) ∧
    (∀ (src : MmioSrc) (v : Word) (s : State),
      vcoreUp s = true →
      v &&& 0xFFFF0000#32 = 0#32 →
      ∃ t, exec (.mmioRegisterWrite src 0x34000 v) s = .next t ∧ t = { s with pwr := { s.pwr with unitSel := wf 15 0 v } }) ∧
    (∀ (src : MmioSrc) (v : Word) (s : State),
      v &&& 0xFFFEF000#32 = 0#32 →
      ∃ t, exec (.mmioRegisterWrite src 0x3800C v) s = .next t ∧ t = { s with
        seq := { s.seq with downFail := s.seq.downFail &&& ~~~ v.setWidth 12, pgLost := s.seq.pgLost && !wbit 16 v } }) ∧
    (∀ (src : MmioSrc) (off : Nat) (v : Word) (s : State),
      off < 0x38000 →
      vcoreUp s = false →
      ∃ t, exec (.mmioRegisterWrite src off v) s = .next t ∧ t = s) ∧
    (∀ (src : MmioSrc) (off : Nat) (v : Word) (s : State),
      0x80000 ≤ off →
      exec (.mmioRegisterWrite src off v) s = .fault (.outsideBar off)) ∧
    (∀ (v : Word) (s : State),
      s.seq.vstby = true →
      s.seq.clk25 = true →
      vcoreUp s = true →
      v &&& 0xFFFF0000#32 = 0#32 →
      ∃ t, exec (.registerWrite 0x34000 v true) s = .next t ∧ t = { s with
        pwr := { s.pwr with unitSel := wf 15 0 v }, mc := { s.mc with xacts := min 0xFFFFFFFF (s.mc.xacts + 1) } }) ∧
    (∀ (s : State),
      s.seq.vstby = true →
      s.seq.clk25 = true →
      vcoreUp s = true →
      ∃ t, exec (.registerRead 0x20040 true) s = .next t ∧ t.out = .sideband (le 4 (BitVec.ofNat 32 s.tb.beat).toNat) :: s.out ∧
        t.tb.beatHi = BitVec.ofNat 32 (s.tb.beat / 2 ^ 32) ∧ t.mc.xacts = min 0xFFFFFFFF (s.mc.xacts + 1)) ∧
    (∀ (s : State) (a : Nat) (v : Word),
      a < 0x80000 →
      s.seq.vstby = true →
      s.seq.clk25 = true →
      exec (.registerWrite a v false) s = .next { s with
        mc := { s.mc with pecErr := true, pecErrs := min 0xFFFFFFFF (s.mc.pecErrs + 1) } })

/-- While the supervisor is supplied and clocked: BCS Load with a good PEC writes the proxy's input buffer at the offset in STATE 0, 2 or 3, and is NACKed in STATE 1; BCS Execute clears the output, and runs the opcode with the loaded input on the sideband path (shown for an opcode that no table row names, which ends Unsupported in STATE 2); BCS Status returns STATE, the return code and the output length; BCS Fetch returns at most 240 bytes of the output from the offset; a timeout sets SBI.STATUS.TIMEOUT and nothing else. -/
def Obligations.SidebandProxy : Prop :=
    (∀ (off : Nat) (data : Bytes) (s : State),
      s.seq.vstby = true →
      s.seq.clk25 = true →
      s.mc.serving = true →
      noPair s = false →
      s.mc.proxy.state = 0 →
      s.seq.standby ≠ .entered →
      ∃ t, exec (.bcsLoad off data true) s = .next t ∧ t.mc.proxy.input = memWriteN off data s.mc.proxy.input ∧
        t.mc.proxy.output = s.mc.proxy.output ∧ t.mc.proxy.state = 0 ∧ t.mc.mail = s.mc.mail ∧ t.out = s.out) ∧
    (∀ (off : Nat) (data : Bytes) (s : State),
      s.seq.vstby = true →
      s.seq.clk25 = true →
      proxyState s = 1 →
      exec (.bcsLoad off data true) s = .next { s with
        out := .sidebandNack :: s.out, mc := { s.mc with nack := true, nacks := min 0xFFFFFFFF (s.mc.nacks + 1) } }) ∧
    (∀ (s : State),
      s.seq.vstby = true →
      s.seq.clk25 = true →
      s.mc.serving = true →
      noPair s = false →
      s.mc.rom = false →
      s.mc.proxy.state ≠ 1 →
      s.seq.standby ≠ .entered →
      ∃ t, exec (.bcsExecute 0xC0FF 0 true) s = .next t ∧ t.mc.proxy.state = 2 ∧ t.mc.proxy.rc = 0x0003 ∧ t.mc.proxy.output = [] ∧
        t.mc.xacts = min 0xFFFFFFFF (s.mc.xacts + 1) ∧ t.ti = s.ti ∧ t.reg = s.reg) ∧
    (∀ (s : State),
      s.seq.vstby = true →
      s.seq.clk25 = true →
      ∃ t, exec (.bcsStatus true) s = .next t ∧ t.out =
        .sideband (le 1 (proxyState s) ++ zeros 1 ++ le 2 s.mc.proxy.rc ++ le 4 s.mc.proxy.output.length) :: s.out) ∧
    (∀ (off : Nat) (s : State),
      s.seq.vstby = true →
      s.seq.clk25 = true →
      ∃ t, exec (.bcsFetch off true) s = .next t ∧ t.out = .sideband ((s.mc.proxy.output.drop off).take 240) :: s.out ∧
        t.mc.proxy = s.mc.proxy) ∧
    (∀ (s : State),
      ∃ t, exec (.smbusTimeout) s = .next t ∧ t = { s with mc := { s.mc with timeout := true } })

/-- A PTP message on the selected fabric port with its link up takes the timebase from FREE to ACQUIRE and, when the offset exceeds 1 ms, steps time of day once by it and sets STEPPED; in LOCKED it leaves time of day alone (the offset is slewed within 200 ppm). An active PPS_IN edge in its window keeps the flags and is taken as the last good edge. A source lost while LOCKED sets SRC_LOST and enters HOLDOVER, while ACQUIRE enters FREE. After 16 s (31,250,000 beats) of offsets within 100 ns the timebase is LOCKED. PPS_OUT rises in the beat in which time of day crosses a second and falls 100 ms later. Only the timebase, the event unit, the output list and the free-value counter change. -/
def Obligations.TimebaseFollowsItsSource : Prop :=
    (∀ (port : Nat) (sync : Bool) (off : Int) (s : State),
      ptpUsable port s = true →
      s.tb.mode = .free →
      4000000 < off →
      ∃ t, exec (.ptpMessage port sync off) s = .next t ∧ t.tb.mode = .acquire ∧ t.tb.stepped = true ∧
        t.tb.tod = ((s.tb.tod + off : Int) % (2 ^ 64 : Int)).toNat ∧ t.tb.beat = s.tb.beat ∧ t.tb.lastOffset = off ∧ t.ti = s.ti ∧ t.reg = s.reg) ∧
    (∀ (port : Nat) (sync : Bool) (off : Int) (s : State),
      ptpUsable port s = true →
      s.tb.mode = .locked →
      ∃ t, exec (.ptpMessage port sync off) s = .next t ∧ t.tb.mode = .locked ∧ t.tb.tod = s.tb.tod ∧ t.tb.stepped = s.tb.stepped ∧
        t.freeCtr = s.freeCtr + 1 ∧ -1717986 ≤ t.tb.freqAdj ∧ t.tb.freqAdj ≤ 1717986) ∧
    (∀ (off : Int) (s : State),
      s.tb.srcSel = 2 →
      s.tb.ppsInPol = false →
      s.tb.mode = .locked →
      s.tb.lastEdgeBeat = some (s.tb.beat - 1953125) →
      1953125 ≤ s.tb.beat →
      ∃ t, exec (.ppsInEdge true off) s = .next t ∧ t.tb.lastEdgeBeat = some s.tb.beat ∧ t.tb.lastGoodEdge = s.tb.tod ∧
        t.tb.mode = .locked ∧ t.tb.ppsMiss = s.tb.ppsMiss ∧ t.tb.srcLost = s.tb.srcLost ∧ t.ev = s.ev) ∧
    (∀ (s : State),
      s.tb.srcSel = 1 →
      s.tb.mode = .locked →
      ∃ t, exec (.timebaseSourceLost false) s = .next t ∧ t.tb.mode = .holdover ∧ t.tb.srcLost = true ∧ t.tb.freqAdj = s.tb.freqAdj ∧ t.tb.tod = s.tb.tod) ∧
    (∀ (s : State),
      s.tb.srcSel = 1 →
      s.tb.mode = .acquire →
      ∃ t, exec (.timebaseSourceLost false) s = .next t ∧ t.tb.mode = .free ∧ t.tb.srcLost = true) ∧
    (∀ (b : Nat) (s : State),
      s.tb.mode = .acquire →
      s.tb.goodSince = some b →
      b + 31250000 ≤ s.tb.beat →
      ∃ t, exec (.timebaseLocked) s = .next t ∧ t.tb.mode = .locked ∧ t.tb.tod = s.tb.tod ∧ t.tb.beat = s.tb.beat) ∧
    (∀ (s : State),
      s.tb.ppsOutEn = true →
      s.tb.mode ≠ .free →
      s.tb.ppsOut = false →
      s.tb.tod % 4000000000 = 0 →
      ∃ t, exec (.ppsOutRise) s = .next t ∧ t.tb.ppsOut = true ∧ t.out = .ppsOut true :: s.out ∧ t.tb.beat = s.tb.beat) ∧
    (∀ (s : State),
      s.tb.ppsOut = true →
      s.tb.ppsRise * 4000000000 + 400000000 ≤ s.tb.tod →
      ∃ t, exec (.ppsOutFall) s = .next t ∧ t.tb.ppsOut = false ∧ t.out = .ppsOut false :: s.out)

/-- Taken up with valid fields: Get Slot Table returns the copy asked for with its image; Set Slot Table writes entries of the pending copy and never of the active one; Activate Slot Table with a pending copy whose entries are all valid completes only at the swap, and refuses with Invalid Input and event 0x0104, leaving both copies and the active one as they are, when an entry is not; the swap makes the pending copy active, and answers with the beat and the copy. An input of the wrong length is answered Invalid Payload Length. -/
def Obligations.SlotTableCommands : Prop :=
    (∀ (path : BcsPath) (input : Bytes) (s : State),
      bcsOpen path 0xC090 s = true →
      input.length = 1 →
      fld 0 1 input < 2 →
      ∃ t, exec (.getSlotTable path input) s = .next t ∧ answered path 0xC090 0 (le 1 (fld 0 1 input) ++
        le 1 (b2n ((fld 0 1 input == 1) == s.slot.activeB)) ++ zeros 6 ++ tableImage (if fld 0 1 input = 0 then s.slot.copyA else s.slot.copyB)) t) ∧
    (∀ (path : BcsPath) (input : Bytes) (s : State),
      bcsOpen path 0xC090 s = true →
      input.length ≠ 1 →
      ∃ t, exec (.getSlotTable path input) s = .next t ∧ answered path 0xC090 0x0016 [] t) ∧
    (∀ (path : BcsPath) (input : Bytes) (s : State),
      bcsOpen path 0xC091 s = true →
      input.length = 8 + 2 * fld 2 2 input →
      1 ≤ fld 2 2 input →
      fld 0 2 input + fld 2 2 input ≤ 1024 →
      zeroAt 4 4 input = true →
      s.slot.activeB = false →
      ∃ t, exec (.setSlotTable path input) s = .next t ∧ answered path 0xC091 0 [] t ∧ t.slot = { s.slot with
        copyB := putEntries (fld 0 2 input) (chunksOf 2 (input.drop 8)) s.slot.copyB }) ∧
    (∀ (path : BcsPath) (input : Bytes) (s : State),
      bcsOpen path 0xC092 s = true →
      input.length = 0 →
      s.slot.activation = none →
      s.slot.activeB = false →
      (s.slot.copyB.all (fun e => entryOk e.2 s) = true) →
      ∃ t, exec (.activateSlotTable path input) s = .next t ∧ t = { s with slot := { s.slot with activation := some ⟨path, s.tb.beat + 1⟩ } }) ∧
    (∀ (path : BcsPath) (input : Bytes) (e : Nat × BitVec 16) (s : State),
      bcsOpen path 0xC092 s = true →
      input.length = 0 →
      s.slot.activation = none →
      s.slot.activeB = false →
      (s.slot.copyB.find? (fun e => !entryOk e.2 s) = some e) →
      ∃ t, exec (.activateSlotTable path input) s = .next t ∧ t.slot = s.slot ∧ .bcs path 0xC092 0x0002 0 [] ∈ t.out) ∧
    (∀ (a : SlotActivation) (s : State),
      s.slot.activation = some a →
      a.beat ≤ s.tb.beat →
      ∃ t, exec (.slotTableSwap) s = .next t ∧ t.slot = { s.slot with activeB := !s.slot.activeB, activation := none } ∧
        answered a.path 0xC092 0 (le 8 s.tb.beat ++ le 1 (b2n (!s.slot.activeB))) t)

/-- With VCORE up, a beat boundary adds exactly one to the beat counter whatever else it does, and latches time of day as the beat-start time; during a power-fail drain it changes nothing but the timebase and the persistence unit, freeing the slots of written records; without VCORE it changes nothing. -/
def Obligations.BoundaryStartsTheNextBeat : Prop :=
    (∀ (s : State),
      vcoreUp s = true →
      ∃ t, exec (.beatBoundary) s = .next t ∧ t.tb.beat = s.tb.beat + 1) ∧
    (∀ (d : DrainRun) (s : State),
      vcoreUp s = true →
      s.pu.drain = some d →
      ∃ t, exec (.beatBoundary) s = .next t ∧ t = { s with
        tb := { advanceTod s.tb with beat := s.tb.beat + 1, beatStart := (advanceTod s.tb).tod }, pu := writerBeat (releaseSlots s.pu) }) ∧
    (∀ (s : State),
      vcoreUp s = false →
      ∃ t, exec (.beatBoundary) s = .next t ∧ t = s)

/-- A waiting write that may be admitted and whose bytes are here leaves the waiting phase: it is STAGED with one drawer slot per line. A write of a volatile region is passed on without slots. A staged write that is due is acknowledged: no unit with its number remains, every drawer slot it took is HELD, and the acknowledgement counter rises by one. Memory of the cabinet is unchanged by both. -/
def Obligations.WritesAreAdmittedAndAcknowledged : Prop :=
    (∀ (n : Nat) (u : WUnit) (s : State),
      unitOf n s = some u →
      volatileUnit u s = false →
      canAdmit u s = true →
      bytesLater u = false →
      ∃ t, exec (.writeAdmission n) s = .next t ∧ ((unitOf n t).map fun v => (v.phase, v.slots.length)) = some (.staged, u.lines.length) ∧
        t.ti = s.ti ∧ t.reg = s.reg) ∧
    (∀ (n : Nat) (u : WUnit) (s : State),
      unitOf n s = some u →
      volatileUnit u s = true →
      u.phase = .waiting →
      bytesLater u = false →
      ∃ t, exec (.writeAdmission n) s = .next t ∧ t = { s with pu := putUnit { u with phase := .staged } s.pu }) ∧
    (∀ (n : Nat) (u : WUnit) (s : State),
      unitOf n s = some u →
      u.src = .background →
      ackDue u s = true →
      volatileUnit u s = false →
      ∃ t, exec (.writeAcknowledge n) s = .next t ∧ unitOf n t = none ∧ t.pu.nextAck = s.pu.nextAck + 1 ∧
        (∀ e ∈ t.pu.slots, e.2.unit = u.id → e.2.state = .held) ∧ t.ti.cab = s.ti.cab)

/-- The record at the head of the queue, when the writer is ready for its number and no warm-up runs, becomes the newest record of the chest with its valid mark; its drawer slots wait for the boundary and the rest of the queue stays in order. An anchor update that is due leaves the reclaim position as the best anchor with the next generation, and keeps the records from there on; one that is not due changes nothing. -/
def Obligations.ChestTakesRecordsInOrder : Prop :=
    (∀ (q : Nat) (r : JRec) (rest : List JRec) (s : State),
      s.pu.queue = r :: rest →
      s.start.warm = false →
      writerReady q s.pu = true →
      r.metaId = none →
      ∃ t, exec (.journalRecordComplete q) s = .next t ∧ t.pu.queue = rest ∧ t.pu.freeNext = s.pu.freeNext ++ r.slots ∧
        (t.pu.chest.getLast?.map fun x => (x.seq, x.complete, x.kind)) = some (r.seq, true, r.kind) ∧ t.pu.slots = s.pu.slots ∧
        t.ti = s.ti ∧ t.reg = s.reg ∧ t.out = s.out) ∧
    (∀ (a : Anchor) (s : State),
      bestAnchor s.pu = some a →
      a.seq ≠ s.pu.reclaimSeq →
      s.pu.lastAnchorBeat + 1024 ≤ s.tb.beat →
      s.pu.drain = none →
      ∃ t, exec (.anchorUpdate) s = .next t ∧ bestAnchor t.pu = some ⟨s.pu.reclaimLine, s.pu.reclaimSeq, a.generation + 1⟩ ∧
        t.pu.lastAnchorBeat = s.tb.beat ∧ t.pu.chest = s.pu.chest.filter (fun r => decide (s.pu.reclaimSeq ≤ r.seq)) ∧ t.pu.queue = s.pu.queue) ∧
    (∀ (a : Anchor) (s : State),
      bestAnchor s.pu = some a →
      a.seq = s.pu.reclaimSeq →
      ∃ t, exec (.anchorUpdate) s = .next t ∧ t = s)

/-- A write that waited at 1,024 boundaries is reported once with event 0x0201. A chest row that fails verification takes a spare row while one remains, with event 0x0203, and is retired from the log otherwise, with event 0x0204. The first failing drawer bank is marked failing, its line poisoned, and it takes no more lines; a second one makes the chest refuse writes with event 0x0206. A failing bank with no slot in use is disabled with event 0x0202. The cabinet, the shelf and the regions' extents are unchanged. -/
def Obligations.PersistenceFaultsAreContained : Prop :=
    (∀ (s : State),
      1024 ≤ s.pu.waitBeats →
      s.pu.waitReported = false →
      eventRoom s = true →
      ∃ t, exec (.admissionWaitLimit) s = .next t ∧ t.pu = { s.pu with waitReported := true } ∧ newestEvent t = some (0x0201, .warning) ∧ t.ti = s.ti) ∧
    (∀ (row : Nat) (s : State),
      0 < s.pu.spareRows →
      eventRoom s = true →
      ∃ t, exec (.chestVerifyFailure row) s = .next t ∧ t.pu.spareRows = s.pu.spareRows - 1 ∧ row ∈ t.pu.rowRemaps ∧
        t.pu.rowsRetired = s.pu.rowsRetired ∧ recorded 0x0203 t ∧ t.ti = s.ti ∧ t.reg = s.reg) ∧
    (∀ (row : Nat) (s : State),
      s.pu.spareRows = 0 →
      row ∉ s.pu.rowsRetired →
      eventRoom s = true →
      ∃ t, exec (.chestVerifyFailure row) s = .next t ∧ row ∈ t.pu.rowsRetired ∧ recorded 0x0204 t ∧ t.ti = s.ti) ∧
    (∀ (bank slot : Nat) (s : State),
      bank < 16 →
      s.pu.banks = [] →
      ∃ t, exec (.drawerBankError bank slot) s = .next t ∧ t = { s with pu := { s.pu with
        slots := mmod slot (fun d => { d with poison := true }) s.pu.slots, banks := [(bank, .failing)] } }) ∧
    (∀ (bank slot : Nat) (s : State),
      bank < 16 →
      mhas bank s.pu.banks = false →
      s.pu.banks ≠ [] →
      s.pu.bankLost = false →
      eventRoom s = true →
      ∃ t, exec (.drawerBankError bank slot) s = .next t ∧ t.pu.writesRefused = true ∧ t.pu.bankLost = true ∧ recorded 0x0206 t ∧ t.ti = s.ti) ∧
    (∀ (bank : Nat) (s : State),
      mget bank s.pu.banks = some .failing →
      (s.pu.slots.all (fun e => e.1 / 8192 != bank) = true) →
      eventRoom s = true →
      ∃ t, exec (.drawerBankDisable bank) s = .next t ∧ mget bank t.pu.banks = some .disabled ∧ recorded 0x0202 t ∧ t.pu.slots = s.pu.slots ∧ t.ti = s.ti)

/-- A request for a segment that has no slot takes one while the cache has room, and its fill starts; without a slot it waits. After more than 1,024 beats of waiting event 0x030A is recorded once. A page that arrives for a fill of a ZERO chunk becomes valid. A page failure maps its slot out with event 0x030B. The lowest record that is not placed is placed when its lines can be: it is marked, and no entry of the recent-write map names it any more. None of these touches the cabinet. -/
def Obligations.ShelfServesSegments : Prop :=
    (∀ (seg : Nat) (s : State),
      mhas seg s.ti.segs = false →
      s.ti.segs.length < slotCount s →
      ∃ t, exec (.segmentSlotRequest seg) s = .next t ∧ ((mget seg t.ti.segs).map fun g => (g.filling, g.pins)) = some (true, 1) ∧
        t.ti.slotWaiters = s.ti.slotWaiters.filter (fun l => segmentOf l != seg) ∧ (t.ti.fills.getLast?.map (·.segment)) = some seg ∧
        t.ti.cab = s.ti.cab ∧ t.ti.shelf = s.ti.shelf ∧ t.reg = s.reg ∧ t.pu = s.pu) ∧
    (∀ (seg : Nat) (s : State),
      mhas seg s.ti.segs = false →
      ensureSlot seg s = none →
      ∃ t, exec (.segmentSlotRequest seg) s = .next t ∧ t = waitSlot (missedChunk seg s) s) ∧
    (∀ (s : State),
      1024 < s.ti.slotWaitBeats →
      s.ti.slotWaitReported = false →
      eventRoom s = true →
      ∃ t, exec (.slotWaitLimit) s = .next t ∧ t.ti = { s.ti with slotWaitReported := true } ∧ newestEvent t = some (0x030A, .warning) ∧ t.pu = s.pu) ∧
    (∀ (seg page : Nat) (g : SegSlot) (s : State),
      page < 512 →
      (s.ti.fills.any (fun f => f.segment == seg) = true) →
      mget seg s.ti.segs = some g →
      mget (seg * 32 + page / 16) s.ti.map = none →
      ∃ t, exec (.pageArrival seg page) s = .next t ∧ ((mget seg t.ti.segs).map fun g => g.valid.testBit page) = some true ∧
        t.ti.cab = s.ti.cab ∧ t.ti.map = s.ti.map ∧ t.pu = s.pu) ∧
    (∀ (slot : Nat) (s : State),
      slot ∉ s.ti.mappedOut →
      s.ti.segs = [] →
      eventRoom s = true →
      ∃ t, exec (.shelfPageFailure slot 0) s = .next t ∧ slot ∈ t.ti.mappedOut ∧ recorded 0x030B t ∧ t.ti.cab = s.ti.cab) ∧
    (∀ (q : Nat) (r : JRec) (s : State),
      (s.pu.chest.find? (fun r => !r.placed) = some r) →
      r.seq = q →
      (placeLines q (toPlace r s) s).isSome = true →
      ∃ t, exec (.drainPlacement q) s = .next t ∧ (∀ x ∈ t.pu.chest, x.seq = q → x.placed = true) ∧
        t.pu.copies.all (fun c => match c.place with | .chest n _ => n != q | _ => true) = true ∧ t.ti.cab = s.ti.cab)

/-- With no checkpoint running, 512 MiB of MAP records (or 2^26 beats with a MAP record) start one, numbered one above the last. Once its CHECKPOINT record is complete in the chest it ends with event 0x0301: its root and START_SEQ take over. -/
def Obligations.CheckpointsRunToTheEnd : Prop :=
    (∀ (s : State),
      s.ti.ckpt = none →
      536870912 ≤ s.ti.mapBytes →
      ∃ t, exec (.checkpointStart) s = .next t ∧ (t.ti.ckpt.map (·.number)) = some (s.ti.ckptNumber + 1) ∧ t.ti.map = s.ti.map ∧ t.ti.shelf = s.ti.shelf) ∧
    (∀ (c : CkptRun) (r : JRec) (s : State),
      s.ti.ckpt = some c →
      s.ti.ckptAgain = false →
      r ∈ s.pu.chest →
      r.kind = .checkpoint ⟨c.number, c.startSeq, c.pages.length⟩ →
      eventRoom s = true →
      ∃ t, exec (.checkpointComplete) s = .next t ∧ t.ti.ckpt = none ∧ t.ti.ckptStart = c.startSeq ∧ t.ti.ckptMeta = c.snapshot ∧ recorded 0x0301 t ∧
        t.ti.shelf = s.ti.shelf)

/-- A dirty chunk whose turn it is, at an address that can take it, is programmed there: the chunk's metadata names it, it is in flight, and its slot is pinned once more. A row whose data members are all programmed closes, and one left open for 32,768 beats is filled and closed. When the row of a volatile chunk in flight has closed, its map entry moves to the new address. A chunk waiting for relocation is copied, and its entry moves. A hard read is counted on its stripe and changes nothing else. -/
def Obligations.CabinetProgramsAndRows : Prop :=
    (∀ (lcn addr r : Nat) (d : Region) (g : SegSlot) (s : State),
      chunkRegion lcn s = some (r, d) →
      mget (segmentOf lcn) s.ti.segs = some g →
      g.dirty.testBit (lcn % 32) = true →
      d.isVolatile = true →
      d.protect = .none →
      s.ti.inFlight = [] →
      canProgram .openData addr s = true →
      2 ≤ (freeStripes (addrPosition addr) s).length →
      ∃ t, exec (.writeBack lcn addr) s = .next t ∧ (t.ti.inFlight.map fun w => (w.lcn, w.addr, w.reloc)) = [(lcn, addr, false)] ∧
        ((mget addr t.ti.chunkMeta).map fun m => (m.lcn, m.region)) = some (lcn, r) ∧
        ((mget (segmentOf lcn) t.ti.segs).map (·.pins)) = some (g.pins + 1) ∧ t.ti.shelf = s.ti.shelf ∧ t.ti.map = s.ti.map ∧ t.pu = s.pu) ∧
    (∀ (p b row : Nat) (r : Row) (s : State),
      mget row (stripeAt (stripeKey p b) s).rows = some r →
      r.closed = false →
      rowFull b (stripeAt (stripeKey p b) s) r = true →
      ∃ t, exec (.rowClose p b row) s = .next t ∧ ((mget row (stripeAt (stripeKey p b) t).rows).map (·.closed)) = some true ∧ t.ti.cab = s.ti.cab ∧
        t.ti.map = s.ti.map ∧ t.pu = s.pu) ∧
    (∀ (p b row : Nat) (r : Row) (s : State),
      mget row (stripeAt (stripeKey p b) s).rows = some r →
      r.closed = false →
      r.first + 32768 ≤ s.tb.beat →
      ∃ t, exec (.rowCloseTimeout p b row) s = .next t ∧ ((mget row (stripeAt (stripeKey p b) t).rows).map (·.closed)) = some true ∧ t.ti.cab = s.ti.cab ∧
        t.ti.map = s.ti.map ∧ t.pu = s.pu) ∧
    (∀ (lcn r : Nat) (w : CabWrite) (d : Region) (s : State),
      (s.ti.inFlight.find? (fun x => x.lcn == lcn && !x.reloc) = some w) →
      w.lcn = lcn →
      w.staged = false →
      chunkRegion lcn s = some (r, d) →
      d.isVolatile = true →
      rowClosed w.addr s = true →
      entryAddr lcn s = w.fromAddr →
      ∃ t, exec (.writeBackComplete lcn) s = .next t ∧ mget lcn t.ti.map = some { state := 3, addr := w.addr } ∧
        t.ti.inFlight = s.ti.inFlight.filter (fun x => !(x.lcn == lcn && !x.reloc)) ∧ t.ti.shelf = s.ti.shelf ∧ t.ti.cab = s.ti.cab) ∧
    (∀ (lcn addr : Nat) (w : CabWrite) (e : MapEntry) (s : State),
      (s.ti.inFlight.find? (fun x => x.lcn == lcn && x.reloc) = some w) →
      mget lcn s.ti.map = some e →
      e.state = 3 →
      e.addr = w.fromAddr →
      canProgram .openReloc addr s = true →
      mapFits [{ lcn := lcn, state := 1, addr := addr, dataSeq := e.dataSeq }] s = true →
      ∃ t, exec (.relocationComplete lcn addr) s = .next t ∧ mget lcn t.ti.map = some { e with addr := addr } ∧
        t.ti.inFlight = s.ti.inFlight.filter (fun x => !(x.lcn == lcn && x.reloc)) ∧ t.ti.shelf = s.ti.shelf) ∧
    (∀ (lcn : Nat) (e : MapEntry) (s : State),
      mget lcn s.ti.map = some e →
      e.state = 1 →
      s.ecc.scrub.state = 0 →
      ∃ t, exec (.chunkReadComplete lcn .hard) s = .next t ∧ (stripeAt (addrStripe e.addr s) t).reads = min 0xFFFFFFFF ((stripeAt (addrStripe e.addr s) s).reads + 1) ∧
        t.ti.map = s.ti.map ∧ t.ti.cab = s.ti.cab ∧ t.ti.shelf = s.ti.shelf ∧ t.pu = s.pu ∧ t.reg = s.reg ∧ t.ev = s.ev)

/-- With fewer than 8 free stripes the closed stripe with the fewest valid chunks becomes FREE when it holds none. With no free stripe anywhere event 0x0304 is recorded. A spread of erase counts above the threshold empties the least worn closed stripe, and a stripe at its read limit is emptied too. A status failure retires the block with event 0x0305. A LUN that fails is marked, its rebuild begins and event 0x0306 is recorded; the rebuild ends with event 0x0307 once nothing of it waits. Over-provisioning is evaluated every 65,536 beats. -/
def Obligations.CabinetWearAndFailures : Prop :=
    (∀ (p : Nat) (v : Nat × Stripe) (s : State),
      (freeStripes p s).length < 8 →
      (leastStripe (fun k => (validChunks k s).length) (closedStripes p s) = some v) →
      validChunks v.1 s = [] →
      ∃ t, exec (.garbageCollection p) s = .next t ∧ (stripeAt v.1 t).state = .free ∧ t.ti.map = s.ti.map ∧ t.ti.cab = s.ti.cab ∧ t.pu = s.pu) ∧
    (∀ (p : Nat) (s : State),
      ((List.range s.ident.lunsPerChannel).all (fun j => (freeStripes j s).isEmpty) = true) →
      eventRoom s = true →
      ∃ t, exec (.freeStripeExhausted p) s = .next t ∧ newestEvent t = some (0x0304, .warning) ∧ t.ti = s.ti ∧ t.pu = s.pu) ∧
    (∀ (p : Nat) (v : Nat × Stripe) (s : State),
      param 0x0303 1000 s < eraseSpread p s →
      (leastStripe (fun k => (stripeAt k s).erases) (closedStripes p s) = some v) →
      validChunks v.1 s = [] →
      ∃ t, exec (.wearLevelRelocation p) s = .next t ∧ (stripeAt v.1 t).state = .free ∧ t.ti.map = s.ti.map ∧ t.ti.cab = s.ti.cab) ∧
    (∀ (p b : Nat) (s : State),
      param 0x0304 1000000 s ≤ (stripeAt (stripeKey p b) s).reads →
      (stripeAt (stripeKey p b) s).state = .closed →
      validChunks (stripeKey p b) s = [] →
      ∃ t, exec (.readDisturbRefresh p b) s = .next t ∧ (stripeAt (stripeKey p b) t).state = .free ∧ t.ti.map = s.ti.map ∧ t.ti.cab = s.ti.cab) ∧
    (∀ (lun b : Nat) (s : State),
      lun / 32 ∉ (stripeAt (stripeKey (lun % 32) b) s).bad →
      (mgetD {} lun s.ti.luns).retired = [] →
      eventRoom s = true →
      ∃ t, exec (.nandStatusFailure lun b false) s = .next t ∧ lun / 32 ∈ (stripeAt (stripeKey (lun % 32) b) t).bad ∧
        mhas b (mgetD {} lun t.ti.luns).retired = true ∧ recorded 0x0305 t ∧ t.ti.cab = s.ti.cab ∧ t.ti.map = s.ti.map) ∧
    (∀ (lun : Nat) (s : State),
      (mgetD {} lun s.ti.luns).failed = false →
      eventRoom s = true →
      ∃ t, exec (.lunFailure lun) s = .next t ∧ (mgetD {} lun t.ti.luns).failed = true ∧ (t.ti.rebuilds.getLast?.map (·.lun)) = some lun ∧
        recorded 0x0306 t ∧ t.ti.map = s.ti.map ∧ t.ti.cab = s.ti.cab) ∧
    (∀ (lun : Nat) (r : Rebuild) (s : State),
      (s.ti.rebuilds.find? (fun r => r.lun == lun) = some r) →
      s.ti.inFlight = [] →
      eventRoom s = true →
      ∃ t, exec (.rebuildComplete lun) s = .next t ∧ t.ti = { s.ti with rebuilds := s.ti.rebuilds.filter fun x => x.lun != lun } ∧
        newestEvent t = some (0x0307, .info)) ∧
    (∀ (s : State),
      s.ti.opBeat + 65536 ≤ s.tb.beat →
      ∃ t, exec (.opEvaluation) s = .next t ∧ t.ti.opBeat = s.tb.beat ∧ t.ti.cab = s.ti.cab ∧ t.ti.map = s.ti.map ∧ t.pu = s.pu)

/-- Unpaired and taken up with valid input: Create Region journals the new region's descriptor in a META change whose completion answers the command, and the region table does not change before; with no capacity it answers 8001h and the region table stays. Delete Region and a shrink put the region in CHANGING with the next boundary as D; a growth and Set Region Attributes journal the new descriptor. A region that does not exist is refused with Invalid Input. -/
def Obligations.RegionCommandsTakeTheirCourse : Prop :=
    (∀ (path : BcsPath) (input : Bytes) (s : State),
      bcsOpen path 0xC010 s = true →
      input.length = 24 →
      isPaired s = false →
      (1 ≤ fld 0 2 input ∧ fld 0 2 input ≤ 4095) →
      attrOk (fld 2 1 input) s = true →
      fld 3 1 input ≤ 1 →
      fld 4 4 input ≠ 0 →
      regionOf (fld 0 2 input) s = none →
      commandedOff s = false →
      noCapacity (newRegion (fld 2 1 input) s.ident.controllerId s.ident.controllerId (fld 0 2 input) (slice 8 16 input)) (fld 4 4 input) s = false →
      isSettee s = false →
      ∃ t, exec (.createRegion path input) s = .next t ∧ t.reg = s.reg ∧ t.pu.metaWaits.length = s.pu.metaWaits.length + 1 ∧
        ((t.pu.metaWaits.getLast?.bind fun w => w.items.head?)) = some (descItem (fld 0 2 input)
          (newRegion (fld 2 1 input) (fld 4 4 input) s.ident.controllerId (fld 0 2 input) (slice 8 16 input))) ∧
        ((t.pu.metaWaits.getLast?.bind fun w => w.acts.getLast?)) = some (.answerSeq path 0xC010) ∧ t.out = s.out ∧ t.ti = s.ti) ∧
    (∀ (path : BcsPath) (input : Bytes) (s : State),
      bcsOpen path 0xC011 s = true →
      input.length = 2 →
      isPaired s = false →
      (regionOf (fld 0 2 input) s).isSome = true →
      attachedFrom (fld 0 2 input) 0 s = false →
      s.cxl.bureau ≠ fld 0 2 input →
      mhas (fld 0 2 input) s.reg.changes = false →
      bgFree path 0xC011 s = true →
      ∃ t, exec (.deleteRegion path input) s = .next t ∧ ((regionOf (fld 0 2 input) t).map (·.state)) = some .changing ∧
        ((mget (fld 0 2 input) t.reg.changes).map fun c => (c.kind, c.boundary, c.phase)) = some (.delete, s.tb.beat + 1, .waitBoundary) ∧
        t.reg.extentMap = s.reg.extentMap ∧ t.ti = s.ti) ∧
    (∀ (path : BcsPath) (input : Bytes) (s : State),
      bcsOpen path 0xC012 s = true →
      input.length = 8 →
      isPaired s = false →
      (((regionOf (fld 0 2 input) s).map fun d => (d.state, d.settee)) = some (.online, false)) →
      zeroAt 2 2 input = true →
      0 < fld 4 4 input →
      (((regionOf (fld 0 2 input) s).map fun d => decide (fld 4 4 input < d.size)) = some true) →
      attachedFrom (fld 0 2 input) (fld 4 4 input) s = false →
      keysOver (fld 0 2 input) (fld 4 4 input * 2 ^ 28) s = [] →
      mhas (fld 0 2 input) s.reg.changes = false →
      bgFree path 0xC012 s = true →
      ∃ t, exec (.resizeRegion path input) s = .next t ∧ ((regionOf (fld 0 2 input) t).map (·.state)) = some .changing ∧
        ((mget (fld 0 2 input) t.reg.changes).map fun c => (c.kind, c.boundary)) = some (.shrink (fld 4 4 input), s.tb.beat + 1) ∧ t.ti = s.ti) ∧
    (∀ (path : BcsPath) (input : Bytes) (d : Region) (s : State),
      bcsOpen path 0xC015 s = true →
      input.length = 88 →
      isPaired s = false →
      regionOf (fld 0 2 input) s = some d →
      fld 2 1 input = 1 →
      fld 3 1 input < 8 →
      fld 4 1 input = 0 →
      zeroAt 5 3 input = true →
      zeroAt 8 16 input = true →
      zeroAt 24 64 input = true →
      ∃ t, exec (.setRegionAttributes path input) s = .next t ∧ t.reg = s.reg ∧ ((t.pu.metaWaits.getLast?.map fun w => (w.items, w.acts))) =
        some ([descItem (fld 0 2 input) { d with shed := fld 3 1 input }],
          [.attrs (fld 0 2 input) (some (fld 3 1 input)) none none none, .answer path 0xC015 0 []])) ∧
    (∀ (path : BcsPath) (input : Bytes) (s : State),
      bcsOpen path 0xC011 s = true →
      input.length = 2 →
      isPaired s = false →
      regionOf (fld 0 2 input) s = none →
      ∃ t, exec (.deleteRegion path input) s = .next t ∧ .bcs path 0xC011 0x0002 0 [] ∈ t.out ∧ t.reg = s.reg ∧ t.ti = s.ti ∧ t.pu = s.pu)

/-- Get Region returns the descriptor of the region, with its extent map when asked, and the free descriptor of one that does not exist; List Regions the identifiers, states, attributes and sizes from an ID on; Get Capacity this controller's figures in the entry of its position. They change no region and no memory. -/
def Obligations.RegionQueriesAnswer : Prop :=
    (∀ (path : BcsPath) (input : Bytes) (s : State),
      bcsOpen path 0xC013 s = true →
      input.length = 8 →
      (1 ≤ fld 0 2 input ∧ fld 0 2 input ≤ 4095) →
      fld 2 1 input = 0 →
      zeroAt 3 1 input = true →
      ∃ t, exec (.getRegion path input) s = .next t ∧ answered path 0xC013 0 (match regionOf (fld 0 2 input) s with
          | some d => descBytes (fld 0 2 input) d ++ []
          | none => freeDesc (fld 0 2 input)) t ∧ t.reg = s.reg ∧ t.ti = s.ti ∧ t.pu = s.pu) ∧
    (∀ (path : BcsPath) (input : Bytes) (s : State),
      bcsOpen path 0xC014 s = true →
      input.length = 2 →
      ∃ t, exec (.listRegions path input) s = .next t ∧ answered path 0xC014 0 (le 2 (s.reg.table.filter fun e => decide (fld 0 2 input ≤ e.1)).length ++ le 2 0 ++
          (s.reg.table.filter fun e => decide (fld 0 2 input ≤ e.1)).flatMap fun e =>
            le 2 e.1 ++ le 1 (regionStateCode e.2.state) ++ le 1 (attrByte e.2) ++ le 4 e.2.size) t ∧ t.reg = s.reg ∧ t.ti = s.ti ∧ t.pu = s.pu) ∧
    (∀ (path : BcsPath) (input : Bytes) (s : State),
      bcsOpen path 0xC01A s = true →
      input.length = 0 →
      myPosition s = 0 →
      ∃ t, exec (.getCapacity path input) s = .next t ∧ answered path 0xC01A 0 (capacityEntry s ++ otherCapacityEntry 1 s) t ∧ t.reg = s.reg ∧ t.ti = s.ti)

/-- At its boundary a change passes to draining and the keys over the removed bytes are being revoked; once no access to those bytes is in flight, its META change is journaled and it waits for that. A reason bit that is due takes effect on the region, and one that is not due does not; domain masks that are due replace the region's masks. -/
def Obligations.RegionChangesTakeEffectAtBoundaries : Prop :=
    (∀ (r : Nat) (c : RegionChange) (s : State),
      mget r s.reg.changes = some c →
      c.phase = .waitBoundary →
      c.boundary ≤ s.tb.beat →
      ∃ t, exec (.regionChangeBoundary r) s = .next t ∧ (mget r t.reg.changes) = some { c with phase := .draining } ∧ t.reg.table = s.reg.table ∧
        t.reg.extentMap = s.reg.extentMap ∧ t.ti = s.ti ∧ t.pu = s.pu) ∧
    (∀ (r : Nat) (c : RegionChange) (d : Region) (s : State),
      mget r s.reg.changes = some c →
      regionOf r s = some d →
      c.phase = .draining →
      c.kind = .delete →
      accessInFlight r 0 s = false →
      ∃ t, exec (.regionChangeDrained r) s = .next t ∧ (mget r t.reg.changes) = some { c with phase := .journaling } ∧ t.reg.table = s.reg.table ∧
        t.pu.metaWaits.length = s.pu.metaWaits.length + 1 ∧ ((t.pu.metaWaits.getLast?.bind fun w => w.items.getLast?)) = some (freeItem r) ∧ t.ti = s.ti) ∧
    (∀ (r : Nat) (d : Region) (s : State),
      regionOf r s = some d →
      s.reg.pendingRo = [⟨r, 0, true, s.tb.beat⟩] →
      d.roReasons = 0 →
      eventRoom s = true →
      ∃ t, exec (.readOnlyTakesEffect r) s = .next t ∧ ((regionOf r t).map (·.roReasons)) = some 1 ∧ t.reg.pendingRo = [] ∧ recorded 0x0404 t ∧ t.ti = s.ti) ∧
    (∀ (r b : Nat) (v : Bool) (n : Nat) (s : State),
      s.reg.pendingRo = [⟨r, b, v, n⟩] →
      s.tb.beat < n →
      ∃ t, exec (.readOnlyTakesEffect r) s = .next t ∧ t = s) ∧
    (∀ (r : Nat) (d : Region) (m : MaskChange) (s : State),
      regionOf r s = some d →
      s.reg.pendingMasks = [m] →
      m.region = r →
      m.beat ≤ s.tb.beat →
      ∃ t, exec (.domainMaskTakesEffect r) s = .next t ∧ regionOf r t = some { d with readDomains := m.read, writeDomains := m.write } ∧ t.reg.pendingMasks = [] ∧
        t.ti = s.ti ∧ t.pu = s.pu)

/-- A write of SQ_TAIL or CQ_HEAD that its queue pair allows through its own head moves the index, a CQ_HEAD write frees the entries it passes; a doorbell of a queue pair that does not exist is ignored and recorded as event 0802h. AQ_ENABLE on an idle admin queue makes queue 0 exist with the sizes in its registers, AQ_DISABLE by the owner stops it and clears FATAL, and RDY follows EN, the disabled queue 0 being gone once it has no command in flight. A fetch from a memory ring appends the command and moves the head. The in-flight limit held for 1,024 boundaries is reported once. None of them touches the regions, the tiers or the persistence unit. -/
def Obligations.DoorbellsFetchAndTheAdminQueue : Prop :=
    (∀ (head qid : Nat) (value : Word) (q : QueuePair) (s : State),
      queueOf qid s = some q →
      value.toNat < 65536 →
      doorbellReaches head q = true →
      value.toNat < q.depth →
      (q.sqTail + q.depth - q.sqHead) % q.depth + (value.toNat + q.depth - q.sqTail) % q.depth < q.depth →
      ∃ t, exec (.sqTailDoorbell head qid value) s = .next t ∧ queueOf qid t = some { q with sqTail := value.toNat } ∧ t.ev = s.ev ∧ t.ti = s.ti ∧ t.pu = s.pu ∧ t.reg = s.reg) ∧
    (∀ (head qid : Nat) (value : Word) (s : State),
      queueOf qid s = none →
      value.toNat < 65536 →
      findReport 0x0802 qid s.ev.reports = none →
      eventRoom s = true →
      ∃ t, exec (.sqTailDoorbell head qid value) s = .next t ∧ newestEvent t = some (0x0802, .warning) ∧ t.gqp = s.gqp ∧ t.ti = s.ti ∧ t.pu = s.pu ∧ t.reg = s.reg) ∧
    (∀ (head qid : Nat) (value : Word) (q : QueuePair) (s : State),
      queueOf qid s = some q →
      value.toNat < 65536 →
      doorbellReaches head q = true →
      value.toNat < q.cqDepth →
      (value.toNat + q.cqDepth - q.cqHead) % q.cqDepth ≤ q.unread →
      ∃ t, exec (.cqHeadDoorbell head qid value) s = .next t ∧ queueOf qid t = some { q with cqHead := value.toNat, unread := q.unread - (value.toNat + q.cqDepth - q.cqHead) % q.cqDepth } ∧
        t.ev = s.ev ∧ t.ti = s.ti ∧ t.pu = s.pu ∧ t.reg = s.reg) ∧
    (∀ (head : Nat) (s : State),
      s.gqp.aq.en = false →
      queueOf 0 s = none →
      ∃ t, exec (.aqEnable head) s = .next t ∧ t.gqp.aq.en = true ∧ t.gqp.aq.owner = head ∧ t.gqp.aq.rdy = s.gqp.aq.rdy ∧ queueOf 0 t = some (adminQueue head s.gqp.aq) ∧
        t.ev = s.ev ∧ t.ti = s.ti ∧ t.pu = s.pu ∧ t.reg = s.reg) ∧
    (∀ (head : Nat) (s : State),
      s.gqp.aq.en = true →
      s.gqp.aq.owner = head →
      ∃ t, exec (.aqDisable head) s = .next t ∧ t.gqp.aq.en = false ∧ t.gqp.aq.fatal = false ∧ t.gqp.aq.rdy = s.gqp.aq.rdy ∧ t.gqp.pairs = s.gqp.pairs ∧ t.ev = s.ev ∧ t.ti = s.ti) ∧
    (∀ (s : State),
      s.gqp.aq.en = true →
      ∃ t, exec (.aqReady) s = .next t ∧ t.gqp.aq.rdy = true ∧ t.gqp.aq.en = true ∧ t.gqp.pairs = s.gqp.pairs ∧ t.ev = s.ev ∧ t.ti = s.ti) ∧
    (∀ (q : QueuePair) (s : State),
      s.gqp.aq.en = false →
      queueOf 0 s = some q →
      q.cmds = [] →
      ∃ t, exec (.aqReady) s = .next t ∧ t.gqp.aq.rdy = false ∧ queueOf 0 t = none ∧ t.ev = s.ev ∧ t.ti = s.ti) ∧
    (∀ (qid : Nat) (entry list : Bytes) (q : QueuePair) (s : State),
      queueOf qid s = some q →
      canFetch qid q s = true →
      q.transport = 0 →
      entry.length = 64 →
      ∃ t, exec (.commandFetch qid entry list) s = .next t ∧ ((queueOf qid t).map fun x => (x.cmds, x.sqHead, x.sqTail)) =
        some (q.cmds ++ [{ cid := fld 2 2 (padTo 64 entry), entry := padTo 64 entry, list := list, ackMark := s.pu.nextAck }], (q.sqHead + 1) % q.depth, q.sqTail) ∧
        t.ev = s.ev ∧ t.out = s.out ∧ t.ti = s.ti ∧ t.pu = s.pu) ∧
    (∀ (s : State),
      1024 ≤ s.gqp.limitBeats →
      s.gqp.limitReported = false →
      eventRoom s = true →
      ∃ t, exec (.inFlightLimitHeld) s = .next t ∧ newestEvent t = some (0x0805, .warning) ∧ t.gqp.limitReported = true ∧ t.gqp.pairs = s.gqp.pairs ∧ t.ti = s.ti)

/-- A started command of a memory queue pair with valid fields, on a region that this controller serves: Read completes with Success, its bytes at the data pointer as the region reads; Write and Write Zeroes run, their pieces submitted to admission as write units in arrival order; Copy runs and submits its first piece; Drain to Cabinet runs, its completion following once every covered line is placed and every chunk durable, with the number of chunks that had to move, and once the partner has answered where it has a part. None of them changes a region's descriptor. -/
def Obligations.MemoryCommandsRun : Prop :=
    (∀ (qid cid : Nat) (q : QueuePair) (c : GqpCmd) (d : Region) (s : State),
      queueOf qid s = some q →
      q.cmds = [c] →
      (c.cid = cid ∧ c.started = true ∧ c.running = false ∧ c.status = 0 ∧ c.src = [] ∧ c.bad = []) →
      (q.transport = 0 ∧ q.deleting = none) →
      eOpcode c.entry = 0x01 →
      (headerOk q c = true ∧ ePtrKind c.entry = 0 ∧ eCdw5 c.entry = 0 ∧ cspecZero [] c.entry = true) →
      regionStatus q.domain (eRegion c.entry) (eOffset c.entry) (eLength c.entry) false s = none →
      regionOf (eRegion c.entry) s = some d →
      (d.settee = false ∧ d.mirrored = false ∧ d.seat = s.ident.controllerId) →
      eLength c.entry ≤ 4096 →
      poisonedLines (eRegion c.entry) (eOffset c.entry) (eLength c.entry) s = [] →
      ∃ t, exec (.read qid cid {}) s = .next t ∧ .hostData qid cid (eDptr c.entry) (readBytes (eRegion c.entry) (eOffset c.entry) (eLength c.entry) s) ∈ t.out ∧
        .completion qid cid 0 (completionEntry qid cid 0 false [] q s) ∈ t.out ∧ ((queueOf qid t).map (·.cmds)) = some [] ∧ t.reg = s.reg) ∧
    (∀ (qid cid : Nat) (data : Bytes) (q : QueuePair) (c : GqpCmd) (d : Region) (s : State),
      queueOf qid s = some q →
      findCmd false cid q = some c →
      q.transport = 0 →
      eOpcode c.entry = 0x02 →
      (headerOk q c = true ∧ ePtrKind c.entry = 0 ∧ eCdw5 c.entry = 0 ∧ cspecZero [] c.entry = true ∧ c.inline = []) →
      regionStatus q.domain (eRegion c.entry) (eOffset c.entry) (eLength c.entry) true s = none →
      regionOf (eRegion c.entry) s = some d →
      (d.settee = false ∧ d.mirrored = false ∧ d.seat = s.ident.controllerId) →
      (eLength c.entry ≤ 4096 ∧ data.length = eLength c.entry) →
      ∃ t, exec (.write qid cid data) s = .next t ∧ (runningCmd qid cid t).isSome = true ∧ t.pu.units = s.pu.units ++ [{ newUnit (.gqp qid cid 0) .general (eRegion c.entry)
          (cutLines (eOffset c.entry) data) s with id := s.pu.nextUnit }] ∧ t.reg = s.reg ∧ t.ti = s.ti ∧ t.ev = s.ev) ∧
    (∀ (qid cid : Nat) (q : QueuePair) (c : GqpCmd) (d : Region) (s : State),
      queueOf qid s = some q →
      findCmd false cid q = some c →
      q.transport = 0 →
      eOpcode c.entry = 0x03 →
      (headerOk q c = true ∧ ePtrKind c.entry = 0 ∧ eCdw5 c.entry = 0 ∧ cspecZero [] c.entry = true) →
      regionStatus q.domain (eRegion c.entry) (eOffset c.entry) (eLength c.entry) true s = none →
      regionOf (eRegion c.entry) s = some d →
      (d.settee = false ∧ d.mirrored = false ∧ d.seat = s.ident.controllerId) →
      (eOffset c.entry % 2 ^ 20 = 0 ∧ eLength c.entry = 65536) →
      ∃ t, exec (.writeZeroes qid cid) s = .next t ∧ (runningCmd qid cid t).isSome = true ∧ ((t.pu.units.getLast?.map fun u => (u.region, u.lines, u.zeroChunks))) =
        some (eRegion c.entry, [], [eOffset c.entry / 65536].filterMap fun k => lcnOf (eRegion c.entry) (k * 65536) s) ∧
        t.pu.units.length = s.pu.units.length + 1 ∧ t.reg = s.reg ∧ t.ti = s.ti ∧ t.ev = s.ev) ∧
    (∀ (qid cid : Nat) (q : QueuePair) (c : GqpCmd) (d : Region) (s : State),
      queueOf qid s = some q →
      q.cmds = [c] →
      (c.cid = cid ∧ c.started = true ∧ c.running = false ∧ c.status = 0) →
      q.transport = 0 →
      eOpcode c.entry = 0x04 →
      (headerOk q c = true ∧ ePtrKind c.entry = 0 ∧ eCdw5 c.entry = eRegion c.entry ∧ eRegion c.entry ≠ 0 ∧ cspecZero [(32, 40)] c.entry = true) →
      regionStatus q.domain (eRegion c.entry) (eOffset c.entry) (eLength c.entry) false s = none →
      regionStatus q.domain (eRegion c.entry) (eArg c.entry) (eLength c.entry) true s = none →
      regionOf (eRegion c.entry) s = some d →
      (d.settee = false ∧ d.mirrored = false ∧ d.seat = s.ident.controllerId) →
      eLength c.entry ≤ 4096 →
      poisonedLines (eRegion c.entry) (eOffset c.entry) (eLength c.entry) s = [] →
      ∃ t, exec (.copy qid cid) s = .next t ∧ (runningCmd qid cid t).isSome = true ∧ ((t.pu.units.getLast?.map fun u => (u.src, u.region, u.lines))) =
        some (.gqp qid cid 0, eRegion c.entry, cutLines (eArg c.entry) (readBytes (eRegion c.entry) (eOffset c.entry) (eLength c.entry) s)) ∧
        t.pu.units.length = s.pu.units.length + 1 ∧ t.reg = s.reg) ∧
    (∀ (qid cid : Nat) (q : QueuePair) (c : GqpCmd) (d : Region) (s : State),
      queueOf qid s = some q →
      findCmd false cid q = some c →
      eOpcode c.entry = 0x07 →
      (headerOk q c = true ∧ ePtrKind c.entry = 0 ∧ eCdw5 c.entry = 0 ∧ cspecZero [] c.entry = true) →
      regionStatus q.domain (eRegion c.entry) (eOffset c.entry) (eLength c.entry) false s = none →
      rangeRoute (eRegion c.entry) (eOffset c.entry) (eLength c.entry) s = .here →
      ∃ t, exec (.drainToCabinet qid cid) s = .next t ∧ ((runningCmd qid cid t).map (·.waitsPeer)) = some (drainPeer (eRegion c.entry) (eOffset c.entry) (eLength c.entry) s) ∧ (∀ k ∈ rangeChunks (eRegion c.entry) (eOffset c.entry) (eLength c.entry) s,
          chunkPending k s = true → k ∈ t.ti.wbHead) ∧ t.reg = s.reg ∧ t.pu = s.pu ∧ t.ev = s.ev ∧ t.out = s.out) ∧
    (∀ (qid cid : Nat) (q : QueuePair) (c : GqpCmd) (s : State),
      queueOf qid s = some q →
      runningCmd qid cid s = some c →
      (q.transport = 0 ∧ q.deleting = none) →
      (eOpcode c.entry = 0x07 ∧ c.waitsPeer = false ∧ c.status = 0) →
      linesPending (eRegion c.entry) (eOffset c.entry) (eLength c.entry) c.ackMark s = false →
      ((c.waitChunks.all fun k => !chunkPending k s) = true) →
      ∃ t, exec (.drainToCabinetComplete qid cid) s = .next t ∧ .completion qid cid 0 (completionEntry qid cid 0 false (le 8 c.count) q s) ∈ t.out ∧ t.reg = s.reg ∧ t.pu = s.pu ∧ t.ti = s.ti) ∧
    (∀ (qid cid mtag : Nat) (c : GqpCmd) (data : Bytes) (s : State),
      runningCmd qid cid s = some c →
      mget mtag s.pair.fwd = some (.drain qid cid) →
      ∃ t, exec (.fwdResponse mtag 0 [] data) s = .next t ∧ ((runningCmd qid cid t).map (·.waitsPeer)) = some false ∧ mget mtag t.pair.fwd = none ∧ t.reg = s.reg ∧ t.pu = s.pu ∧ t.ti = s.ti ∧ t.out = s.out)

/-- A valid Persist Fence runs and is noted with its scope, its region and the acknowledgements before its fetch. Its completion event changes nothing while a covered line stands outside the chest or a covered mirrored record is not confirmed by the partner; else the fence is gone and the command completes with Success, its RESULT the SEQ of the last covered record. (Where no record is covered the specification states no number: assumption log, free value.) -/
def Obligations.PersistFencesWaitAndComplete : Prop :=
    (∀ (qid cid : Nat) (q : QueuePair) (c : GqpCmd) (s : State),
      queueOf qid s = some q →
      findCmd false cid q = some c →
      eOpcode c.entry = 0x06 →
      (headerOk q c = true ∧ ePtrKind c.entry = 0 ∧ eCdw5 c.entry = 0 ∧ cspecZero [] c.entry = true) →
      (eRegion c.entry = 0 ∧ eOffset c.entry = 0 ∧ eLength c.entry = 0) →
      ∃ t, exec (.persistFence qid cid) s = .next t ∧ t.pu.fences = s.pu.fences ++ [⟨qid, cid, 0, 0, c.ackMark, s.tb.beat⟩] ∧ (runningCmd qid cid t).isSome = true ∧
        t.out = s.out ∧ t.ti = s.ti ∧ t.reg = s.reg ∧ t.ev = s.ev) ∧
    (∀ (qid cid : Nat) (f : Fence) (s : State),
      ((s.pu.fences.find? fun f => f.qid == qid && f.cid == cid) = some f) →
      fenceWaits f s = true →
      exec (.persistFenceComplete qid cid) s = .next s) ∧
    (∀ (qid cid : Nat) (f : Fence) (q : QueuePair) (n : Nat) (s : State),
      ((s.pu.fences.find? fun f => f.qid == qid && f.cid == cid) = some f) →
      fenceWaits f s = false →
      queueOf qid s = some q →
      (q.transport = 0 ∧ q.deleting = none) →
      ((s.pu.chest.filter (fenceRecord f)).map (·.seq)).getLast? = some n →
      ∃ t, exec (.persistFenceComplete qid cid) s = .next t ∧ .completion qid cid 0 (completionEntry qid cid 0 false (le 8 n) q s) ∈ t.out ∧
        (t.pu.fences.find? fun f => f.qid == qid && f.cid == cid) = none ∧ t.pu.chest = s.pu.chest ∧ t.ti = s.ti ∧ t.reg = s.reg)

/-- A started Compare, Check Value, Scan Pattern, Seal or Unseal with valid fields and its operands in the host buffer, on a queue pair bound to a stream, with a working slice: its job joins the end of the stream's jobs, its bytes to pass the engine counted. The granted cycle that passes the last bytes of the only job of a stream completes the command: Compare of equal operands and Check Value with Success, Scan Pattern with the first offset and the number of matches. A stream whose backlog reaches 1,024 beats is reported once, and SLOT_OVR is set. -/
def Obligations.TransformCommandsQueueAndComplete : Prop :=
    (∀ (qid cid st : Nat) (data : Bytes) (q : QueuePair) (c : GqpCmd) (s : State),
      queueOf qid s = some q →
      q.cmds = [c] →
      (c.cid = cid ∧ c.started = true ∧ c.running = false ∧ c.status = 0 ∧ c.src = [] ∧ c.bad = []) →
      eOpcode c.entry = 0x08 →
      (headerOk q c = true ∧ ePtrKind c.entry = 0 ∧ checkFields c.entry = true) →
      (eRegion c.entry = 0 ∧ 0 < eLength c.entry ∧ data.length = eLength c.entry) →
      streamOf qid s = some st →
      engineWorks s = true →
      ∃ t, exec (.checkValue qid cid data) s = .next t ∧ jobsOf st t = jobsOf st s ++ [{ qid := qid, cid := cid, todo := eLength c.entry, data := data }] ∧
        (runningCmd qid cid t).isSome = true ∧ t.out = s.out ∧ t.ti = s.ti ∧ t.pu = s.pu ∧ t.reg = s.reg ∧ t.ev = s.ev) ∧
    (∀ (qid cid st : Nat) (data : Bytes) (q : QueuePair) (c : GqpCmd) (s : State),
      queueOf qid s = some q →
      q.cmds = [c] →
      (c.cid = cid ∧ c.started = true ∧ c.running = false ∧ c.status = 0 ∧ c.src = [] ∧ c.bad = []) →
      eOpcode c.entry = 0x09 →
      (headerOk q c = true ∧ ePtrKind c.entry = 0 ∧ patternFields c.entry = true) →
      (eRegion c.entry = 0 ∧ 0 < eLength c.entry ∧ data.length = eLength c.entry) →
      streamOf qid s = some st →
      engineWorks s = true →
      ∃ t, exec (.scanPattern qid cid data) s = .next t ∧ jobsOf st t = jobsOf st s ++ [{ qid := qid, cid := cid, todo := eLength c.entry, data := data }] ∧
        (runningCmd qid cid t).isSome = true ∧ t.out = s.out ∧ t.ti = s.ti ∧ t.pu = s.pu ∧ t.reg = s.reg ∧ t.ev = s.ev) ∧
    (∀ (qid cid st : Nat) (data : Bytes) (q : QueuePair) (c : GqpCmd) (s : State),
      queueOf qid s = some q →
      q.cmds = [c] →
      (c.cid = cid ∧ c.started = true ∧ c.running = false ∧ c.status = 0 ∧ c.src = [] ∧ c.bad = []) →
      eOpcode c.entry = 0x05 →
      (headerOk q c = true ∧ ePtrKind c.entry = 0 ∧ eCdw5 c.entry = 0 ∧ cspecZero [] c.entry = true) →
      (eRegion c.entry = 0 ∧ 0 < eLength c.entry ∧ data.length = eLength c.entry) →
      streamOf qid s = some st →
      engineWorks s = true →
      ∃ t, exec (.compare qid cid data) s = .next t ∧ jobsOf st t = jobsOf st s ++ [{ qid := qid, cid := cid, todo := eLength c.entry, data := data, second := data }] ∧
        (runningCmd qid cid t).isSome = true ∧ t.out = s.out ∧ t.ti = s.ti ∧ t.pu = s.pu ∧ t.reg = s.reg ∧ t.ev = s.ev) ∧
    (∀ (qid cid st : Nat) (data : Bytes) (q : QueuePair) (c : GqpCmd) (s : State),
      queueOf qid s = some q →
      q.cmds = [c] →
      (c.cid = cid ∧ c.started = true ∧ c.running = false ∧ c.status = 0 ∧ c.src = [] ∧ c.bad = []) →
      eOpcode c.entry = 0x0A →
      (headerOk q c = true ∧ ePtrKind c.entry = 0 ∧ eCdw5 c.entry = 0 ∧ cspecZero [(32, 48)] c.entry = true) →
      (commandKey true q.domain (eKeySlot c.entry) s).isSome = true →
      (eRegion c.entry = 0 ∧ 0 < eLength c.entry ∧ eLength c.entry ≤ 2 ^ 20 ∧ fld 44 4 c.entry ≤ eLength c.entry ∧ data.length = eLength c.entry) →
      streamOf qid s = some st →
      engineWorks s = true →
      ∃ t, exec (.sealData qid cid data) s = .next t ∧ jobsOf st t = jobsOf st s ++ [{ qid := qid, cid := cid, todo := eLength c.entry - fld 44 4 c.entry, aad := fld 44 4 c.entry, data := data }] ∧
        (runningCmd qid cid t).isSome = true ∧ t.te.nonce = s.te.nonce ∧ t.out = s.out ∧ t.ti = s.ti ∧ t.pu = s.pu ∧ t.reg = s.reg ∧ t.ev = s.ev) ∧
    (∀ (qid cid st : Nat) (data : Bytes) (q : QueuePair) (c : GqpCmd) (s : State),
      queueOf qid s = some q →
      q.cmds = [c] →
      (c.cid = cid ∧ c.started = true ∧ c.running = false ∧ c.status = 0 ∧ c.src = [] ∧ c.bad = []) →
      eOpcode c.entry = 0x0B →
      (headerOk q c = true ∧ ePtrKind c.entry = 0 ∧ eCdw5 c.entry = 0 ∧ cspecZero [(32, 60)] c.entry = true) →
      (commandKey false q.domain (eKeySlot c.entry) s).isSome = true →
      (eRegion c.entry = 0 ∧ 17 ≤ eLength c.entry ∧ eLength c.entry ≤ 2 ^ 20 + 16 ∧ fld 44 4 c.entry + 16 ≤ eLength c.entry ∧ data.length = eLength c.entry) →
      streamOf qid s = some st →
      engineWorks s = true →
      ∃ t, exec (.unsealData qid cid data) s = .next t ∧ jobsOf st t = jobsOf st s ++ [{ qid := qid, cid := cid, todo := eLength c.entry - 16 - fld 44 4 c.entry, aad := fld 44 4 c.entry, data := data }] ∧
        (runningCmd qid cid t).isSome = true ∧ t.te.nonce = s.te.nonce ∧ t.out = s.out ∧ t.ti = s.ti ∧ t.pu = s.pu ∧ t.reg = s.reg ∧ t.ev = s.ev) ∧
    (∀ (st : Nat) (j : TeJob) (q : QueuePair) (c : GqpCmd) (s : State),
      s.slot.cycle < 1024 →
      s.te.active ≠ 0 →
      grantedStream s.slot.cycle s = some st →
      0x40 ≤ st →
      jobsOf st s = [j] →
      queueOf j.qid s = some q →
      runningCmd j.qid j.cid s = some c →
      (q.transport = 0 ∧ q.deleting = none) →
      (eOpcode c.entry = 0x09 ∨ (eOpcode c.entry = 0x05 ∧ j.data = j.second)) →
      (j.todo ≤ cycleWidth s ∧ 0 < j.todo ∧ j.aad ≤ 32 ∧ j.bad = [] ∧ j.bad2 = []) →
      ∃ t, exec (.transformCycle) s = .next t ∧ .completion j.qid j.cid 0 (completionEntry j.qid j.cid 0 false (if eOpcode c.entry = 0x09 then scanResult c.entry j.data else []) q s) ∈ t.out ∧
        jobsOf st t = [] ∧ t.slot.cycle = s.slot.cycle + 1 ∧ t.slot.rrPointer = s.slot.rrPointer ∧ t.ti = s.ti ∧ t.pu = s.pu ∧ t.reg = s.reg) ∧
    (∀ (s : State),
      s.te.active = 0 →
      exec (.transformCycle) s = .next s) ∧
    (∀ (stream : Nat) (s : State),
      1024 ≤ mgetD 0 stream s.slot.backlog →
      s.slot.backlogReported.contains stream = false →
      eventRoom s = true →
      ∃ t, exec (.backlogLimit stream) s = .next t ∧ newestEvent t = some (0x0102, .warning) ∧ t.tb.slotOvr = true ∧ t.slot.backlogReported = stream :: s.slot.backlogReported ∧
        t.slot.backlog = s.slot.backlog ∧ t.te = s.te ∧ t.ti = s.ti ∧ t.pu = s.pu)

/-- A fault of an active slice removes it from the active set and from SLICE_OK and notes the loss; when it was the last and no spare is left, event 0A07h is recorded and every queued transform command fails with Internal Error. At the next boundary the spare becomes active and event 0A01h is recorded; with no spare the loss and the new cycle width are recorded. The first nonce window, or the next one when three quarters of the highest are used, is reserved with event 0A04h and the counter does not move; another window is not reserved. At its boundary a key slot's change is in effect and is no longer waiting. -/
def Obligations.EngineSlicesAndNonceWindows : Prop :=
    (∀ (slice : Nat) (s : State),
      slice < 17 →
      s.te.active.getLsbD slice = true →
      (s.te.active &&& ~~~ BitVec.ofNat 17 (2 ^ slice)) ≠ 0 →
      ∃ t, exec (.sliceFault slice) s = .next t ∧ t.te.active = (s.te.active &&& ~~~ BitVec.ofNat 17 (2 ^ slice)) ∧ t.te.sliceOk = (s.te.sliceOk &&& ~~~ BitVec.ofNat 17 (2 ^ slice)) ∧
        t.te.sliceFault = true ∧ t.te.losses = s.te.losses ++ [⟨slice, s.tb.beat⟩] ∧ t.te.spare = s.te.spare ∧ t.te.jobs = s.te.jobs ∧ t.ev = s.ev ∧ t.ti = s.ti) ∧
    (∀ (slice : Nat) (s : State),
      slice < 17 →
      s.te.active = BitVec.ofNat 17 (2 ^ slice) →
      s.te.spare = none →
      s.te.jobs = [] →
      eventRoom s = true →
      ∃ t, exec (.sliceFault slice) s = .next t ∧ t.te.active = 0 ∧ newestEvent t = some (0x0A07, .fatal) ∧ linkUp t = false ∧ t.ti = s.ti) ∧
    (∀ (l : SliceLoss) (sp : Nat) (s : State),
      s.te.losses = [l] →
      l.beat < s.tb.beat →
      s.te.spare = some sp →
      s.ev.queue.length < 1000 →
      ∃ t, exec (.spareSliceActivation) s = .next t ∧ t.te.active = (s.te.active ||| BitVec.ofNat 17 (2 ^ sp)) ∧ t.te.spare = none ∧ t.te.losses = [] ∧ recorded 0x0A01 t ∧ t.ti = s.ti ∧ t.pu = s.pu) ∧
    (∀ (l : SliceLoss) (s : State),
      s.te.losses = [l] →
      l.beat < s.tb.beat →
      s.te.spare = none →
      s.ev.queue.length < 1000 →
      ∃ t, exec (.spareSliceActivation) s = .next t ∧ t.te.active = s.te.active ∧ t.te.losses = [] ∧ recorded 0x0A02 t ∧ recorded 0x0105 t ∧ t.ti = s.ti ∧ t.pu = s.pu) ∧
    (∀ (window : Nat) (s : State),
      ((s.te.window = none ∧ window = 0) ∨ (s.te.window = some (window - 1) ∧ 0 < window ∧ (window - 1) * 2 ^ 32 + 3 * 2 ^ 30 ≤ s.te.nonce)) →
      windowLogFree s = true →
      s.te.waitFrom = none →
      eventRoom s = true →
      ∃ t, exec (.nonceWindowReservation window) s = .next t ∧ t.te.window = some window ∧ t.te.nonce = s.te.nonce ∧ recorded 0x0A04 t ∧ t.ti = s.ti ∧ t.pu = s.pu) ∧
    (∀ (window : Nat) (s : State),
      s.te.window = none →
      window ≠ 0 →
      exec (.nonceWindowReservation window) s = .next s) ∧
    (∀ (slot : Nat) (s : State),
      ∃ t, exec (.keySlotChangeEffect slot) s = .next t ∧ (∀ k ∈ t.te.keyChanges, k.slot = slot → s.tb.beat < k.beat) ∧ (∀ k ∈ s.te.keyChanges, k.slot ≠ slot → k ∈ t.te.keyChanges) ∧
        t.trust = s.trust ∧ t.te.jobs = s.te.jobs ∧ t.ev = s.ev ∧ t.ti = s.ti ∧ t.pu = s.pu)

/-- A Command capsule on a CAPSULE QP joins the submission ring and is acknowledged; for a piece that is admitted and waits for its bytes, Transfer-Ready goes out and its tag is outstanding; the WRITE with immediate that names it brings the piece's bytes to its unit. A Transfer-Ready that is older than 2^21 beats is reported as event 0804h and is no longer outstanding. A waiting notice is written to its ring, or sent when the host has left a credit, in order. The aggregation time signals the vector and clears the count. A host-memory failure of kind 0 or 1 stops the queue pair, of kind 2 to 4 fails the command with status 0301h; both record event 0803h. BCS Tunnel runs its command on the admin path, and the completion carries the answer. -/
def Obligations.CapsulesTransfersAndNotices : Prop :=
    (∀ (qp psn : Nat) (capsule : Bytes) (e : Nat × QueuePair) (q : Qp) (s : State),
      qpAt qp s = some q →
      qpTakes q { qp := qp, psn := psn, packets := 1, rkey := 0, va := 0, ecn := false } = true →
      q.attr.service = 1 →
      ((s.gqp.pairs.find? fun e => e.2.transport == 1 && e.2.qpn == qpnOf qp) = some e) →
      e.2.ring.length + 1 < e.2.depth →
      queueOf e.1 s = some e.2 →
      (fld 0 1 capsule = 1 ∧ 64 ≤ fld 4 4 capsule ∧ capsule.length = 8 + fld 4 4 capsule) →
      ∃ t, exec (.commandCapsule qp psn capsule) s = .next t ∧ ((queueOf e.1 t).map (·.ring)) = some (e.2.ring ++ [(slice 8 64 capsule, capsule.drop 72)]) ∧
        ((qpAt qp t).map (·.ePsn)) = some ((psn + 1) % psnMod) ∧ t.out.length = s.out.length + 1 ∧ t.ti = s.ti ∧ t.pu = s.pu ∧ t.reg = s.reg) ∧
    (∀ (qid cid : Nat) (q : QueuePair) (c : GqpCmd) (p : Piece) (u : WUnit) (x : Qp) (s : State),
      queueOf qid s = some q →
      runningCmd qid cid s = some c →
      (qpAt (q.qpn - 0x10000) s = some x ∧ capsuleReady x = true) →
      (q.transport = 1 ∧ eOpcode c.entry = 0x02 ∧ ePtrKind c.entry = 0) →
      c.pieces = [p] →
      p.state = .staged →
      plainHere (eRegion c.entry) s = true →
      reservedPiece qid cid p.index s = some u →
      s.gqp.transfers = [] →
      ∃ t, exec (.transferReadySend qid cid) s = .next t ∧ ((mget 0 t.gqp.transfers).map fun x => (x.qid, x.cid, x.piece, x.beat)) = some (qid, cid, p.index, s.tb.beat) ∧
        t.out.length = s.out.length + 1 ∧ t.ti = s.ti ∧ t.pu = s.pu ∧ t.reg = s.reg) ∧
    (∀ (qp key imm : Nat) (data : Bytes) (x : Qp) (q : QueuePair) (c : GqpCmd) (p : Piece) (tr : TransferReady) (u : WUnit) (s : State),
      qpAt qp s = some x →
      qpTakes x { qp := qp, psn := x.ePsn, packets := 1, rkey := 0, va := 0, ecn := false } = true →
      x.attr.service = 1 →
      s.gqp.transfers = [(imm, tr)] →
      tr.key = key →
      queueOf tr.qid s = some q →
      (q.transport = 1 ∧ q.qpn = qpnOf qp) →
      q.cmds = [c] →
      (c.cid = tr.cid ∧ c.started = true ∧ c.running = true) →
      c.pieces = [p] →
      (p.index = tr.piece ∧ p.len = data.length ∧ 0 < data.length) →
      s.pu.units = [u] →
      (u.src = .gqp tr.qid tr.cid p.index ∧ u.phase = .reserved ∧ u.cls = .general ∧ u.slots = []) →
      plainHere u.region s = true →
      ∃ t, exec (.pieceDelivery qp key imm 0 data) s = .next t ∧ (t.pu.units.map fun v => (v.src, v.lines, v.phase)) = [(u.src, cutLines (eOffset c.entry + p.off) data, .staged)] ∧
        ((runningCmd tr.qid tr.cid t).map fun y => y.pieces.map (·.state)) = some [.staged] ∧ t.ti = s.ti ∧ t.reg = s.reg) ∧
    (∀ (tag : Nat) (tr : TransferReady) (s : State),
      mget tag s.gqp.transfers = some tr →
      tr.beat + 2097152 ≤ s.tb.beat →
      runningCmd tr.qid tr.cid s = none →
      eventRoom s = true →
      ∃ t, exec (.transferTimeout tag) s = .next t ∧ recorded 0x0804 t ∧ ((t.gqp.transfers.find? fun x => x.2.qid == tr.qid && x.2.cid == tr.cid && x.2.piece == tr.piece)) = none ∧ t.ti = s.ti) ∧
    (∀ (qid : Nat) (q : QueuePair) (b : Bytes) (rest : List Bytes) (s : State),
      queueOf qid s = some q →
      q.notices = b :: rest →
      (q.transport = 0 ∧ q.stopped = false) →
      q.cmds.length + q.unread + 1 < q.cqDepth →
      ∃ t, exec (.notice qid) s = .next t ∧ .notice qid (completionEntry qid 0xFFFF 0 true b q s) ∈ t.out ∧ ((queueOf qid t).map fun x => (x.notices, x.unread)) = some (rest, q.unread + 1) ∧
        t.ti = s.ti ∧ t.pu = s.pu ∧ t.reg = s.reg ∧ t.ev = s.ev) ∧
    (∀ (qid : Nat) (q : QueuePair) (b : Bytes) (rest : List Bytes) (x : Qp) (s : State),
      queueOf qid s = some q →
      q.notices = b :: rest →
      (q.transport = 1 ∧ 0x10000 ≤ q.qpn) →
      (qpAt (q.qpn - 0x10000) s = some x ∧ capsuleReady x = true) →
      ∃ t, exec (.notice qid) s = .next t ∧ .capsule q.qpn x.sPsn 5 (le 1 5 ++ zeros 3 ++ le 4 16 ++ b) ∈ t.out ∧ ((queueOf qid t).map (·.notices)) = some rest ∧
        t.ti = s.ti ∧ t.pu = s.pu ∧ t.reg = s.reg ∧ t.ev = s.ev) ∧
    (∀ (qid : Nat) (q : QueuePair) (x : Qp) (s : State),
      queueOf qid s = some q →
      (q.transport = 1 ∧ q.notices ≠ []) →
      (qpAt (q.qpn - 0x10000) s = some x ∧ creditFree x = false) →
      ∃ t, exec (.notice qid) s = .next t ∧ t = s) ∧
    (∀ (qid : Nat) (q : QueuePair) (s : State),
      queueOf qid s = some q →
      0 < q.unsignalled →
      q.firstUnsignalled + max 1 q.aggBeats ≤ s.tb.beat →
      ∃ t, exec (.interruptAggregationExpiry qid) s = .next t ∧ t.out = .msix q.headNum q.vector :: s.out ∧ queueOf qid t = some { q with unsignalled := 0 } ∧
        t.ti = s.ti ∧ t.pu = s.pu ∧ t.reg = s.reg ∧ t.ev = s.ev) ∧
    (∀ (qid cid kind address : Nat) (q : QueuePair) (s : State),
      queueOf qid s = some q →
      q.transport = 0 →
      kind < 2 →
      eventRoom s = true →
      ∃ t, exec (.hostMemoryFailure qid cid kind address) s = .next t ∧ queueOf qid t = some { q with stopped := true } ∧ recorded 0x0803 t ∧ (qid = 0 → t.gqp.aq.fatal = true) ∧ t.ti = s.ti ∧ t.pu = s.pu) ∧
    (∀ (qid cid kind address : Nat) (q : QueuePair) (c : GqpCmd) (s : State),
      queueOf qid s = some q →
      (q.transport = 0 ∧ q.deleting = none) →
      2 ≤ kind →
      findCmd false cid q = some c →
      eventRoom s = true →
      ∃ t, exec (.hostMemoryFailure qid cid kind address) s = .next t ∧ .completion qid cid 0x0301 (completionEntry qid cid 0x0301 false [] q s) ∈ t.out ∧ recorded 0x0803 t ∧ t.ti = s.ti ∧ t.pu = s.pu) ∧
    (∀ (cid : Nat) (input : Bytes) (q : QueuePair) (c : GqpCmd) (s : State),
      queueOf 0 s = some q →
      findCmd false cid q = some c →
      q.transport = 0 →
      eOpcode c.entry = 0x7F →
      (headerOk q c = true ∧ eRegion c.entry = 0 ∧ eOffset c.entry = 0 ∧ cspecZero [(32, 44)] c.entry = true ∧ fld 40 4 c.entry ≤ 65536) →
      (eCdw5 c.entry = 0x0300 ∧ eLength c.entry = 0 ∧ ePtrKind c.entry = 0) →
      bcsOpen (.admin cid) 0x0300 s = true →
      ∃ t, exec (.bcsTunnel cid input) s = .next t ∧ .bcs (.admin cid) 0x0300 0 0xFFFF (le 8 s.tb.tod) ∈ t.out ∧ t.ti = s.ti ∧ t.pu = s.pu ∧ t.reg = s.reg)

/-- Taken up with valid input: Create QP makes the lowest free index a QP in RESET with the attributes of its block and returns its number, and answers 8001h when all 65,536 exist; Modify QP from RESET to INIT moves the state; Query QP returns the block and the counters; Destroy QP removes a QP in RESET or ERR. Create Queue Pair makes the queue pair and records event 0801h; Query Queue Pair returns its block and its indices; Delete Queue Pair of one with no command in flight removes it and hands back the count of aborted commands. Set GID and Trigger Counter change one entry, Get Port Status none. -/
def Obligations.QpAndQueuePairCommands : Prop :=
    (∀ (path : BcsPath) (input : Bytes) (s : State),
      bcsOpen path 0xC0A0 s = true →
      input.length = 128 →
      firstBad (attrChecks 0 input (attrOf input) s) = none →
      s.net.qps = [] →
      ∃ t, exec (.createQp path input) s = .next t ∧ answered path 0xC0A0 0 (le 4 0x10000) t ∧ qpAt 0 t = some { attr := attrOf input } ∧ t.ti = s.ti ∧ t.reg = s.reg) ∧
    (∀ (path : BcsPath) (input : Bytes) (q : Qp) (s : State),
      bcsOpen path 0xC0A1 s = true →
      input.length = 136 →
      qpOf (fld 0 4 input) s = some q →
      q.state = .reset →
      fld 4 1 input = 1 →
      zeroAt 5 3 input = true →
      firstBad (attrChecks 8 (input.drop 8) (attrOf (input.drop 8)) s) = none →
      q.attr = attrOf (input.drop 8) →
      ∃ t, exec (.modifyQp path input) s = .next t ∧ answered path 0xC0A1 0 [] t ∧ qpOf (fld 0 4 input) t = some { q with state := .init } ∧ t.ti = s.ti ∧ t.reg = s.reg ∧ t.pu = s.pu) ∧
    (∀ (path : BcsPath) (input : Bytes) (q : Qp) (s : State),
      bcsOpen path 0xC0A2 s = true →
      input.length = 4 →
      qpOf (fld 0 4 input) s = some q →
      ∃ t, exec (.queryQp path input) s = .next t ∧ answered path 0xC0A2 0 (qpBlock q ++ (List.range 8).flatMap fun k => le 8 (mgetD 0 k q.counters)) t ∧ t.ti = s.ti ∧ t.reg = s.reg ∧ t.pu = s.pu ∧ t.net = s.net) ∧
    (∀ (path : BcsPath) (input : Bytes) (q : Qp) (s : State),
      bcsOpen path 0xC0A3 s = true →
      input.length = 4 →
      qpOf (fld 0 4 input) s = some q →
      (q.state = .reset ∨ q.state = .err) →
      ∃ t, exec (.destroyQp path input) s = .next t ∧ answered path 0xC0A3 0 [] t ∧ qpOf (fld 0 4 input) t = none ∧ t.net.ports = s.net.ports ∧ t.net.triggers = s.net.triggers ∧ t.ti = s.ti ∧ t.reg = s.reg) ∧
    (∀ (path : BcsPath) (input : Bytes) (s : State),
      bcsOpen path 0xC0B0 s = true →
      input.length = 48 →
      (1 ≤ fld 0 2 input ∧ fld 0 2 input < 16384) →
      queueOf (fld 0 2 input) s = none →
      (fld 2 1 input = 0 ∧ fld 3 1 input < 4 ∧ headExists (fld 5 1 input) s = true ∧ fld 6 2 input % 2 = 0) →
      (2 ≤ fld 8 4 input ∧ fld 8 4 input ≤ 65536 ∧ fld 12 2 input < 2048) →
      (fld 15 1 input = 0 ∧ fld 18 2 input = 0 ∧ fld 20 4 input = 0 ∧ fld 24 4 input = 0 ∧ fld 28 4 input = 0) →
      (fld 32 8 input % 4096 = 0 ∧ fld 40 8 input % 4096 = 0) →
      eventRoom s = true →
      ∃ t, exec (.createQueuePair path input) s = .next t ∧ answered path 0xC0B0 0 [] t ∧ ((queueOf (fld 0 2 input) t).map fun q => (q.transport, q.cls, q.depth)) =
        some (0, fld 3 1 input, fld 8 4 input) ∧ ((queueOf (fld 0 2 input) t).map fun q => (q.cmds, q.sqHead, q.sqTail, q.phase)) = some ([], 0, 0, true) ∧ recorded 0x0801 t ∧ t.ti = s.ti ∧ t.reg = s.reg ∧ t.pu = s.pu) ∧
    (∀ (path : BcsPath) (input : Bytes) (q : QueuePair) (s : State),
      bcsOpen path 0xC0B1 s = true →
      input.length = 2 →
      queueOf (fld 0 2 input) s = some q →
      fld 0 2 input ≠ 0 →
      (q.deleting = none ∧ q.cmds = []) →
      bgFree path 0xC0B1 s = true →
      eventRoom s = true →
      ∃ t, exec (.deleteQueuePair path input) s = .next t ∧ queueOf (fld 0 2 input) t = none ∧ recorded 0x0801 t ∧
        (t.mc.bg.any fun b => b.opcode == 0xC0B1 && b.result == some ⟨0, 0xFFFF, le 4 q.aborted⟩) = true ∧ t.ti = s.ti ∧ t.reg = s.reg ∧ t.pu = s.pu) ∧
    (∀ (path : BcsPath) (input : Bytes) (q : QueuePair) (s : State),
      bcsOpen path 0xC0B2 s = true →
      input.length = 2 →
      queueOf (fld 0 2 input) s = some q →
      ∃ t, exec (.queryQueuePair path input) s = .next t ∧ answered path 0xC0B2 0 (queueBlock (fld 0 2 input) q ++ le 2 q.sqHead ++ le 2 q.sqTail ++ le 2 q.cqTail ++ le 2 q.cqHead ++
        le 4 q.cmds.length ++ le 1 (b2n q.stopped) ++ zeros 3 ++ le 8 q.completed ++ le 8 q.failed) t ∧ t.ti = s.ti ∧ t.reg = s.reg ∧ t.pu = s.pu) ∧
    (∀ (path : BcsPath) (input : Bytes) (p : EthPort) (s : State),
      bcsOpen path 0xC0A4 s = true →
      input.length = 20 →
      mget (fld 0 1 input) s.net.ports = some p →
      p.instrument = false →
      fld 1 1 input < 16 →
      zeroAt 2 2 input = true →
      allZero (slice 4 16 input) = false →
      ∃ t, exec (.setGid path input) s = .next t ∧ answered path 0xC0A4 0 [] t ∧ ((mget (fld 0 1 input) t.net.ports).map fun x => mget (fld 1 1 input) x.gids) = some (some (slice 4 16 input)) ∧
        t.net.qps = s.net.qps ∧ t.ti = s.ti ∧ t.reg = s.reg) ∧
    (∀ (path : BcsPath) (input : Bytes) (p : EthPort) (s : State),
      bcsOpen path 0xC0A5 s = true →
      input.length = 1 →
      mget (fld 0 1 input) s.net.ports = some p →
      ∃ t, exec (.getPortStatus path input) s = .next t ∧ answered path 0xC0A5 0 (le 1 (b2n p.up) ++ le 1 p.speed ++ le 1 (b2n p.instrument) ++
        le 1 (8 / 2 ^ (s.net.portMode / 4 ^ (fld 0 1 input / 8) % 4)) ++ le 4 (s.net.qps.filter fun q => q.2.attr.port == fld 0 1 input).length ++
        (List.range 16).flatMap fun i => padTo 16 (mgetD [] i p.gids)) t ∧ t.net = s.net ∧ t.ti = s.ti ∧ t.reg = s.reg) ∧
    (∀ (path : BcsPath) (input : Bytes) (s : State),
      bcsOpen path 0xC0A6 s = true →
      input.length = 12 →
      fld 0 2 input < 1024 →
      fld 2 1 input = 1 →
      zeroAt 3 5 input = true →
      ∃ t, exec (.triggerCounter path input) s = .next t ∧ answered path 0xC0A6 0 (le 4 (mgetD 0 (fld 0 2 input) s.net.counters)) t ∧ mget (fld 0 2 input) t.net.counters = some (fld 8 4 input) ∧
        t.net.qps = s.net.qps ∧ t.net.triggers = s.net.triggers ∧ t.ti = s.ti ∧ t.reg = s.reg)

/-- At a reliable QP that takes the request as its next one, with a key that passes its checks on a region served here: a WRITE (with or without immediate) and a SEND stage one write unit with their bytes, the expected PSN moves past the message, and its answer waits for the acknowledgement; a READ is answered with the bytes as the region reads; Compare-and-Swap that does not match and FLUSH are answered at once, the former with the original value and storing nothing; Compare-and-Swap that matches, Fetch-and-Add and ATOMIC WRITE stage the new eight bytes. A key that fails its check is answered with NAK 62h, and the QP enters the error state. -/
def Obligations.RequestsAtAResponderQp : Prop :=
    (∀ (req : RdmaReq) (data : Bytes) (q : Qp) (k : KeyHit) (s : State),
      qpAt req.qp s = some q →
      (qpTakes q req = true ∧ q.attr.service = 0) →
      (0 < data.length ∧ data.length ≤ 4096) →
      keyCheck q req.rkey [1] req.va data.length true s = some k →
      plainHere k.region s = true →
      admitsLast (submitWrite (.rdma req.qp req.psn 0) k.region k.off data [] s) = true →
      ∃ t, exec (.rdmaWrite req data) s = .next t ∧ ((t.pu.units.getLast?.map fun u => (u.src, u.lines, u.phase))) = some (.rdma req.qp req.psn 0, cutLines k.off data, .staged) ∧
        ((qpAt req.qp t).map fun x => (x.ePsn, x.rx.map (·.left))) = some ((req.psn + max 1 req.packets) % psnMod, [1]) ∧ t.out = s.out ∧ t.ti = s.ti ∧ t.reg = s.reg) ∧
    (∀ (req : RdmaReq) (data : Bytes) (imm : Nat) (q : Qp) (k : KeyHit) (s : State),
      qpAt req.qp s = some q →
      (qpTakes q req = true ∧ q.attr.service = 0 ∧ cplFree q ≠ 0) →
      (0 < data.length ∧ data.length ≤ 4096) →
      keyCheck q req.rkey [1] req.va data.length true s = some k →
      plainHere k.region s = true →
      admitsLast (submitWrite (.rdma req.qp req.psn 0) k.region k.off data [] s) = true →
      ∃ t, exec (.rdmaWriteWithImmediate req data imm) s = .next t ∧ ((t.pu.units.getLast?.map fun u => (u.src, u.lines, u.phase))) = some (.rdma req.qp req.psn 0, cutLines k.off data, .staged) ∧
        ((qpAt req.qp t).map fun x => (x.ePsn, x.rx.map fun m => (m.left, m.imm))) = some ((req.psn + max 1 req.packets) % psnMod, [(1, some imm)]) ∧ t.out = s.out ∧ t.ti = s.ti ∧ t.reg = s.reg) ∧
    (∀ (req : RdmaReq) (data : Bytes) (q : Qp) (s : State),
      qpAt req.qp s = some q →
      (qpTakes q req = true ∧ q.attr.service = 0 ∧ cplFree q ≠ 0 ∧ slotsFree q ≠ 0) →
      (0 < data.length ∧ data.length ≤ 2 ^ q.attr.recvRing.logSize ∧ data.length ≤ 4096) →
      plainHere q.attr.recvRing.region s = true →
      admitsLast (submitWrite (.rdma req.qp req.psn 0) q.attr.recvRing.region (q.attr.recvRing.offset + q.recvNext * 2 ^ q.attr.recvRing.logSize) data [] s) = true →
      ∃ t, exec (.send req data) s = .next t ∧ ((t.pu.units.getLast?.map fun u => (u.src, u.lines, u.phase))) =
          some (.rdma req.qp req.psn 0, cutLines (q.attr.recvRing.offset + q.recvNext * 2 ^ q.attr.recvRing.logSize) data, .staged) ∧
        ((qpAt req.qp t).map fun x => (x.ePsn, x.recvNext, x.rx.map (·.slot))) =
          some ((req.psn + max 1 req.packets) % psnMod, (q.recvNext + 1) % 2 ^ q.attr.recvRing.logCount, [some q.recvNext]) ∧ t.out = s.out ∧ t.ti = s.ti ∧ t.reg = s.reg) ∧
    (∀ (req : RdmaReq) (data : Bytes) (imm : Nat) (q : Qp) (s : State),
      qpAt req.qp s = some q →
      (qpTakes q req = true ∧ q.attr.service = 0 ∧ cplFree q ≠ 0 ∧ slotsFree q ≠ 0) →
      (0 < data.length ∧ data.length ≤ 2 ^ q.attr.recvRing.logSize ∧ data.length ≤ 4096) →
      plainHere q.attr.recvRing.region s = true →
      admitsLast (submitWrite (.rdma req.qp req.psn 0) q.attr.recvRing.region (q.attr.recvRing.offset + q.recvNext * 2 ^ q.attr.recvRing.logSize) data [] s) = true →
      ∃ t, exec (.sendWithImmediate req data imm) s = .next t ∧ ((t.pu.units.getLast?.map fun u => (u.src, u.lines, u.phase))) =
          some (.rdma req.qp req.psn 0, cutLines (q.attr.recvRing.offset + q.recvNext * 2 ^ q.attr.recvRing.logSize) data, .staged) ∧
        ((qpAt req.qp t).map fun x => (x.ePsn, x.recvNext, x.rx.map (·.imm))) =
          some ((req.psn + max 1 req.packets) % psnMod, (q.recvNext + 1) % 2 ^ q.attr.recvRing.logCount, [some imm]) ∧ t.out = s.out ∧ t.ti = s.ti ∧ t.reg = s.reg) ∧
    (∀ (req : RdmaReq) (len : Nat) (q : Qp) (k : KeyHit) (s : State),
      qpAt req.qp s = some q →
      (qpTakes q req = true ∧ q.attr.service = 0) →
      (0 < len ∧ len ≤ 4096) →
      keyCheck q req.rkey [0] req.va len false s = some k →
      plainHere k.region s = true →
      poisonedLines k.region k.off len s = [] →
      ∃ t, exec (.rdmaRead req len) s = .next t ∧ .rdmaRead req.qp req.psn (readBytes k.region k.off len s) ∈ t.out ∧
        ((qpAt req.qp t).map fun x => (x.ePsn, x.rx)) = some ((req.psn + max 1 req.packets) % psnMod, []) ∧ t.pu = s.pu ∧ t.reg = s.reg) ∧
    (∀ (req : RdmaReq) (a b : BitVec 64) (q : Qp) (k : KeyHit) (l : LineRead) (s : State),
      qpAt req.qp s = some q →
      (qpTakes q req = true ∧ q.attr.service = 0) →
      req.va % 8 = 0 →
      keyCheck q req.rkey [2] req.va 8 true s = some k →
      k.off % 8 = 0 →
      plainHere k.region s = true →
      pendingLine k.region (k.off / 64) s = some l →
      (l.poison = false ∧ wordAt l.data (k.off % 64) ≠ a) →
      ∃ t, exec (.compareAndSwap req a b) s = .next t ∧ .rdmaAtomic req.qp req.psn (wordAt l.data (k.off % 64)) ∈ t.out ∧ t.pu = s.pu ∧ t.ti = s.ti ∧ t.reg = s.reg) ∧
    (∀ (req : RdmaReq) (a b : BitVec 64) (q : Qp) (k : KeyHit) (l : LineRead) (s : State),
      qpAt req.qp s = some q →
      (qpTakes q req = true ∧ q.attr.service = 0) →
      req.va % 8 = 0 →
      keyCheck q req.rkey [2] req.va 8 true s = some k →
      k.off % 8 = 0 →
      plainHere k.region s = true →
      pendingLine k.region (k.off / 64) s = some l →
      (l.poison = false ∧ wordAt l.data (k.off % 64) = a) →
      admitsLast (submitWrite (.rdma req.qp req.psn 0) k.region k.off (le 8 b.toNat) [] s) = true →
      ∃ t, exec (.compareAndSwap req a b) s = .next t ∧ ((t.pu.units.getLast?.map fun u => (u.lines, u.phase))) = some (cutLines k.off (le 8 b.toNat), .staged) ∧ t.out = s.out ∧ t.ti = s.ti ∧ t.reg = s.reg) ∧
    (∀ (req : RdmaReq) (a : BitVec 64) (q : Qp) (k : KeyHit) (l : LineRead) (s : State),
      qpAt req.qp s = some q →
      (qpTakes q req = true ∧ q.attr.service = 0) →
      req.va % 8 = 0 →
      keyCheck q req.rkey [2] req.va 8 true s = some k →
      k.off % 8 = 0 →
      plainHere k.region s = true →
      pendingLine k.region (k.off / 64) s = some l →
      l.poison = false →
      admitsLast (submitWrite (.rdma req.qp req.psn 0) k.region k.off (le 8 (wordAt l.data (k.off % 64) + a).toNat) [] s) = true →
      ∃ t, exec (.fetchAndAdd req a) s = .next t ∧ ((t.pu.units.getLast?.map fun u => (u.lines, u.phase))) = some (cutLines k.off (le 8 (wordAt l.data (k.off % 64) + a).toNat), .staged) ∧
        ((qpAt req.qp t).map fun x => x.rx.map (·.original)) = some [some (wordAt l.data (k.off % 64))] ∧ t.out = s.out ∧ t.ti = s.ti ∧ t.reg = s.reg) ∧
    (∀ (req : RdmaReq) (v : BitVec 64) (q : Qp) (k : KeyHit) (l : LineRead) (s : State),
      qpAt req.qp s = some q →
      (qpTakes q req = true ∧ q.attr.service = 0) →
      req.va % 8 = 0 →
      keyCheck q req.rkey [2] req.va 8 true s = some k →
      k.off % 8 = 0 →
      plainHere k.region s = true →
      pendingLine k.region (k.off / 64) s = some l →
      admitsLast (submitWrite (.rdma req.qp req.psn 0) k.region k.off (le 8 v.toNat) [] s) = true →
      ∃ t, exec (.atomicWrite req v) s = .next t ∧ ((t.pu.units.getLast?.map fun u => (u.lines, u.phase))) = some (cutLines k.off (le 8 v.toNat), .staged) ∧ t.out = s.out ∧ t.ti = s.ti ∧ t.reg = s.reg) ∧
    (∀ (req : RdmaReq) (len : Nat) (q : Qp) (k : KeyHit) (s : State),
      qpAt req.qp s = some q →
      (qpTakes q req = true ∧ q.attr.service = 0) →
      (0 < len ∧ len ≤ 4096) →
      keyCheck q req.rkey [3] req.va len false s = some k →
      plainHere k.region s = true →
      ∃ t, exec (.flush req len) s = .next t ∧ t.out.length = s.out.length + 1 ∧ ((qpAt req.qp t).map fun x => (x.ePsn, x.rx)) = some ((req.psn + max 1 req.packets) % psnMod, []) ∧
        t.pu = s.pu ∧ t.ti = s.ti ∧ t.reg = s.reg) ∧
    (∀ (req : RdmaReq) (len : Nat) (q : Qp) (s : State),
      qpAt req.qp s = some q →
      (qpTakes q req = true ∧ q.attr.service = 0) →
      (0 < len ∧ len ≤ 2 ^ 31) →
      keyCheck q req.rkey [0] req.va len false s = none →
      ∃ t, exec (.rdmaRead req len) s = .next t ∧ .rdmaNak req.qp req.psn 0x62 ∈ t.out ∧ qpState req.qp t = some .err ∧ t.ti = s.ti ∧ t.reg = s.reg)

/-- A QP in RTS sends its next work request, which is then marked sent, a capsule when the host has left a credit; an ACK that covers it ends it; a NAK for a sequence error or a timeout with retries left makes it due to be sent again, and an exhausted retry count or another NAK puts the QP in the error state. An RNR NAK makes the QP wait the time of the timer code, and its expiry ends the wait. A response to a READ or an atomic request submits a write of its bytes to the request's local range. A CNP halves the rate down to 1,000 Mb/s and 64 beats without one raise it by 1/32 of the port rate, up to it. A context that has arrived is on die. QP_ERROR moves a QP in RTR or RTS to the error state and clears its work. -/
def Obligations.TheRequesterSideOfAQp : Prop :=
    (∀ (qp : Nat) (q : Qp) (w : SentWr) (s : State),
      qpAt qp s = some q →
      (q.state = .rts ∧ q.sends = [w] ∧ w.sent = false ∧ w.readable = true ∧ q.rnrUntil = none ∧ rdOutstanding q = 0) →
      (wrOp w.bytes = 1 ∧ fld 16 4 w.bytes = 0 ∧ w.capsule = none) →
      ∃ t, exec (.workRequestIssue qp) s = .next t ∧ .rdmaRequest qp q.sPsn 1 w.bytes ∈ t.out ∧ ((qpAt qp t).map fun x => (x.sPsn, x.sends.map (·.sent))) = some ((q.sPsn + 1) % psnMod, [true]) ∧
        t.ti = s.ti ∧ t.pu = s.pu ∧ t.reg = s.reg) ∧
    (∀ (qp kind : Nat) (q : Qp) (w : SentWr) (s : State),
      qpAt qp s = some q →
      (q.state = .rts ∧ q.sends = [w] ∧ w.sent = false ∧ w.capsule = some kind ∧ q.rnrUntil = none ∧ q.credit ≠ some 0) →
      ∃ t, exec (.workRequestIssue qp) s = .next t ∧ .capsule (qpnOf qp) q.sPsn kind w.bytes ∈ t.out ∧
        ((qpAt qp t).map fun x => (x.sPsn, x.sends.map (·.sent))) = some ((q.sPsn + packetsOf w.bytes.length (mtuOf q.attr.pmtu)) % psnMod, [true]) ∧
        t.ti = s.ti ∧ t.pu = s.pu ∧ t.reg = s.reg) ∧
    (∀ (qp psn credits : Nat) (q : Qp) (w : SentWr) (s : State),
      qpAt qp s = some q →
      (q.state = .rts ∧ q.sends = [w] ∧ w.sent = true ∧ psnAtMost (wrLast w) psn = true) →
      (wrOp w.bytes = 1 ∧ fld 1 1 w.bytes = 0) →
      ∃ t, exec (.ack qp psn credits) s = .next t ∧ ((qpAt qp t).map fun x => (x.sends, x.credit)) = some ([], creditLimit credits) ∧ qpState qp t = some .rts ∧ t.out = s.out ∧ t.ti = s.ti ∧ t.pu = s.pu ∧ t.reg = s.reg) ∧
    (∀ (qp psn : Nat) (q : Qp) (w : SentWr) (s : State),
      qpAt qp s = some q →
      (q.state = .rts ∧ q.sends = [w] ∧ w.sent = true ∧ w.ackd = false ∧ psnAtMost psn (wrLast w) = true) →
      ∃ t, exec (.nak qp psn 0x60) s = .next t ∧ ((qpAt qp t).map fun x => (x.sPsn, x.sends.map (·.sent))) = some (w.psn, [false]) ∧ qpState qp t = some .rts ∧ t.out = s.out ∧ t.ti = s.ti ∧ t.pu = s.pu ∧ t.reg = s.reg) ∧
    (∀ (qp psn syndrome : Nat) (q : Qp) (s : State),
      qpAt qp s = some q →
      (q.state = .rts ∧ q.sends = []) →
      syndrome ≠ 0x60 →
      eventRoom s = true →
      ((s.gqp.pairs.filter fun e => e.2.transport == 1 && e.2.qpn == qpnOf qp) = []) →
      ∃ t, exec (.nak qp psn syndrome) s = .next t ∧ qpState qp t = some .err ∧ recorded 0x0702 t ∧ t.ti = s.ti ∧ t.reg = s.reg) ∧
    (∀ (qp psn timer : Nat) (q : Qp) (w : SentWr) (s : State),
      qpAt qp s = some q →
      (q.state = .rts ∧ q.sends = [w] ∧ w.sent = true ∧ w.ackd = false) →
      (psnAtMost w.psn psn = true ∧ psnAtMost psn (wrLast w) = true) →
      (q.attr.rnrRetry = 7 ∨ w.rnrRetries < q.attr.rnrRetry) →
      ∃ t, exec (.rnrNak qp psn timer) s = .next t ∧ ((qpAt qp t).map fun x => (x.rnrUntil, x.sends.map (·.sent))) = some (some (s.tb.beat + rnrBeats timer), [false]) ∧ qpState qp t = some .rts ∧
        t.out = s.out ∧ t.ti = s.ti ∧ t.pu = s.pu ∧ t.reg = s.reg) ∧
    (∀ (qp b : Nat) (q : Qp) (s : State),
      qpAt qp s = some q →
      q.rnrUntil = some b →
      b ≤ s.tb.beat →
      ∃ t, exec (.rnrTimerExpiry qp) s = .next t ∧ qpAt qp t = some { q with rnrUntil := none } ∧ t.out = s.out ∧ t.ti = s.ti ∧ t.pu = s.pu ∧ t.reg = s.reg ∧ t.ev = s.ev) ∧
    (∀ (qp psn : Nat) (data : Bytes) (q : Qp) (w : SentWr) (s : State),
      qpAt qp s = some q →
      q.sends = [w] →
      (w.sent = true ∧ w.psn = psn ∧ w.ackd = false ∧ w.capsule = none ∧ wrOp w.bytes = 5) →
      (0 < data.length ∧ data.length ≤ fld 16 4 w.bytes) →
      plainHere (fld 2 2 w.bytes) s = true →
      ∃ t, exec (.readResponse qp psn data) s = .next t ∧ ((t.pu.units.getLast?.map fun u => (u.src, u.region, u.lines))) = some (.workRequest qp psn, fld 2 2 w.bytes, cutLines (fld 8 8 w.bytes) data) ∧
        ((qpAt qp t).map fun x => x.sends.map (·.ackd)) = some [true] ∧ t.out = s.out ∧ t.ti = s.ti ∧ t.reg = s.reg) ∧
    (∀ (qp psn : Nat) (v : BitVec 64) (q : Qp) (w : SentWr) (s : State),
      qpAt qp s = some q →
      q.sends = [w] →
      (w.sent = true ∧ w.psn = psn ∧ w.ackd = false ∧ w.capsule = none ∧ (wrOp w.bytes = 6 ∨ wrOp w.bytes = 7)) →
      plainHere (fld 2 2 w.bytes) s = true →
      ∃ t, exec (.atomicAcknowledge qp psn v) s = .next t ∧ ((t.pu.units.getLast?.map fun u => (u.src, u.region, u.lines))) = some (.workRequest qp psn, fld 2 2 w.bytes, cutLines (fld 8 8 w.bytes) (le 8 v.toNat)) ∧
        ((qpAt qp t).map fun x => x.sends.map (·.ackd)) = some [true] ∧ t.out = s.out ∧ t.ti = s.ti ∧ t.reg = s.reg) ∧
    (∀ (qp : Nat) (q : Qp) (s : State),
      qpAt qp s = some q →
      q.state = .rts →
      ∃ t, exec (.cnp qp) s = .next t ∧ qpAt qp t = some { q with rateMbps := max 1000 (q.rateMbps / 2), lastCnpRx := some s.tb.beat } ∧ t.out = s.out ∧ t.ti = s.ti ∧ t.pu = s.pu ∧ t.reg = s.reg ∧ t.ev = s.ev) ∧
    (∀ (qp b : Nat) (q : Qp) (s : State),
      qpAt qp s = some q →
      q.lastCnpRx = some b →
      b + 64 ≤ s.tb.beat →
      ∃ t, exec (.rateIncrease qp) s = .next t ∧ ((qpAt qp t).map (·.rateMbps)) = some (min (qpPortRate q s) (q.rateMbps + qpPortRate q s / 32)) ∧ t.out = s.out ∧ t.ti = s.ti ∧ t.pu = s.pu ∧ t.reg = s.reg ∧ t.ev = s.ev) ∧
    (∀ (qp : Nat) (q : Qp) (w : SentWr) (s : State),
      qpAt qp s = some q →
      (q.state = .rts ∧ q.sends = [w] ∧ w.sent = true ∧ w.ackd = false ∧ q.attr.ackTmo ≠ 0 ∧ psnAtMost w.psn (wrLast w) = true) →
      w.sentBeat + ackBase q.attr.ackTmo * 2 ^ min w.retries 4 ≤ s.tb.beat →
      w.retries < q.attr.retryCnt →
      ∃ t, exec (.ackTimeout qp) s = .next t ∧ ((qpAt qp t).map fun x => x.sends.map fun y => (y.sent, y.retries)) = some [(false, w.retries + 1)] ∧ qpState qp t = some .rts ∧ t.out = s.out ∧ t.ti = s.ti ∧ t.pu = s.pu ∧ t.reg = s.reg) ∧
    (∀ (qp : Nat) (q : Qp) (s : State),
      qpAt qp s = some q →
      q.swapping = true →
      ((s.net.qps.filter fun x => x.2.onDie).length < 4096) →
      waitingOn q.attr.port s = [] →
      ∃ t, exec (.contextSwapComplete qp) s = .next t ∧ qpAt qp t = some { q with onDie := true, swapping := false, lastUse := s.net.useClock } ∧ t.out = s.out ∧ t.ti = s.ti ∧ t.pu = s.pu ∧ t.reg = s.reg ∧ t.ev = s.ev) ∧
    (∀ (qp cause status : Nat) (q : Qp) (s : State),
      qpAt qp s = some q →
      (q.state = .rtr ∨ q.state = .rts) →
      eventRoom s = true →
      ∃ t, exec (.qpError qp cause status) s = .next t ∧ ((qpAt qp t).map fun x => (x.state, x.sends, x.rx, x.mp)) = some (.err, [], [], []) ∧ recorded 0x0702 t ∧ t.reg = s.reg)

/-- At boundary D a revoked key is REVOKING; once no message under way names it, the entry is FREE, its TAG has risen by one and event 0703h is recorded. An entry whose counter has reached its threshold fires once, and with REARM its threshold rises by STEP. A Trigger Arm is noted, and at its boundary the entry is written and the command completes. A change of a port's link sets its state and is recorded as event 0701h; a frame that is too long, or has a bad FCS, is dropped and counted; an ARP or ND frame for a GID that is set is answered. -/
def Obligations.KeysTriggersPortsAndFrames : Prop :=
    (∀ (index : Nat) (r : Revocation) (k : MemKey) (s : State),
      ((s.trust.revocations.find? fun r => r.index == index) = some r) →
      mget index s.trust.memKeys = some k →
      r.boundary ≤ s.tb.beat →
      ∃ t, exec (.keyRevocation index) s = .next t ∧ mget index t.trust.memKeys = some { k with revoking := true } ∧ t.trust.memTags = s.trust.memTags ∧ t.net = s.net ∧ t.ti = s.ti ∧ t.pu = s.pu ∧ t.reg = s.reg) ∧
    (∀ (index : Nat) (r : Revocation) (k : MemKey) (s : State),
      ((s.trust.revocations.find? fun r => r.index == index) = some r) →
      mget index s.trust.memKeys = some k →
      k.revoking = true →
      r.boundary ≤ s.tb.beat →
      keyUsers index s = 0 →
      eventRoom s = true →
      ∃ t, exec (.revocationComplete index) s = .next t ∧ mget index t.trust.memKeys = none ∧ mget index t.trust.memTags = some ((mgetD 0 index s.trust.memTags + 1) % 4096) ∧ recorded 0x0703 t ∧ t.net = s.net ∧ t.ti = s.ti ∧ t.reg = s.reg) ∧
    (∀ (entry : Nat) (g : Trigger) (s : State),
      mget entry s.net.triggers = some g →
      (g.kind = 3 ∧ g.threshold ≤ mgetD 0 g.counter s.net.counters) →
      ((s.net.fired.any fun f => f.entry == entry) = false) →
      ∃ t, exec (.counterFire entry) s = .next t ∧ t.net.fired = s.net.fired ++ [⟨entry, g.sendQpn, g.first, g.count⟩] ∧
        mget entry t.net.triggers = (if g.rearm then some { g with threshold := (g.threshold + g.step) % 2 ^ 32 } else none) ∧ t.net.counters = s.net.counters ∧ t.net.qps = s.net.qps ∧ t.ti = s.ti) ∧
    (∀ (qid cid : Nat) (q : QueuePair) (c : GqpCmd) (g : Trigger) (s : State),
      queueOf qid s = some q →
      findCmd false cid q = some c →
      eOpcode c.entry = 0x12 →
      (headerOk q c = true ∧ ePtrKind c.entry = 0 ∧ eRegion c.entry = 0 ∧ eOffset c.entry = 0 ∧ eLength c.entry = 0) →
      eCdw5 c.entry < 1024 →
      triggerOf q.domain (slice 32 32 c.entry) s = some g →
      ∃ t, exec (.triggerArm qid cid) s = .next t ∧ t.net.arms = s.net.arms ++ [⟨qid, cid, eCdw5 c.entry, some g, s.tb.beat + 1⟩] ∧ (runningCmd qid cid t).isSome = true ∧ t.net.triggers = s.net.triggers ∧ t.out = s.out ∧ t.ti = s.ti) ∧
    (∀ (entry : Nat) (a : ArmWait) (g : Trigger) (q : QueuePair) (s : State),
      ((s.net.arms.find? fun a => a.entry == entry && decide (a.beat ≤ s.tb.beat)) = some a) →
      a.trigger = some g →
      queueOf a.qid s = some q →
      (q.transport = 0 ∧ q.deleting = none) →
      ∃ t, exec (.triggerArmEffect entry) s = .next t ∧ mget entry t.net.triggers = some g ∧ .completion a.qid a.cid 0 (completionEntry a.qid a.cid 0 false [] q s) ∈ t.out ∧ t.net.qps = s.net.qps ∧ t.ti = s.ti ∧ t.pu = s.pu) ∧
    (∀ (port speed : Nat) (p : EthPort) (s : State),
      mget port s.net.ports = some p →
      (p.up = false ∧ 7 ≤ s.start.phase) →
      eventRoom s = true →
      ∃ t, exec (.ethLinkChange port true speed) s = .next t ∧ mget port t.net.ports = some { p with up := true, speed := speed } ∧ newestEvent t = some (0x0701, .info) ∧ t.net.qps = s.net.qps ∧ t.ti = s.ti ∧ t.pu = s.pu) ∧
    (∀ (port length : Nat) (p : EthPort) (s : State),
      mget port s.net.ports = some p →
      (p.up = true ∧ p.instrument = false) →
      ∃ t, exec (.fabricFrame port length .fcsError) s = .next t ∧ mget port t.net.ports = some { p with rx := p.rx + 1, drops := p.drops + 1 } ∧ t.net.qps = s.net.qps ∧ t.out = s.out ∧ t.ti = s.ti ∧ t.pu = s.pu) ∧
    (∀ (port length g : Nat) (p : EthPort) (s : State),
      mget port s.net.ports = some p →
      (p.up = true ∧ p.instrument = false) →
      length ≤ 9216 →
      mhas g p.gids = true →
      ∃ t, exec (.fabricFrame port length (.arpOrNd g)) s = .next t ∧ t.out = .frame port (mgetD [] g p.gids) :: s.out ∧ mget port t.net.ports = some { p with rx := p.rx + 1 } ∧ t.net.qps = s.net.qps ∧ t.ti = s.ti ∧ t.pu = s.pu)

/-- At a multipath QP in RTR or RTS: the first packet of a write message whose checks pass opens its context, its piece is admitted and the packet is placed, whether or not the message has an immediate; an invalid packet is answered with MP_NAK and the QP enters the error state. A message that is complete and next in MSN order is passed: CUM_MSN advances and an MP_ACK goes out. A read of up to 4,096 bytes is answered with one packet and passed. A message that stays incomplete beyond the QP's time puts the QP in the error state. -/
def Obligations.MultipathPlacement : Prop :=
    (∀ (h : Mpeth) (payload : Bytes) (q : Qp) (k : KeyHit) (s : State),
      qpAt h.qp s = some q →
      (q.attr.transport = 1 ∧ (q.state = .rtr ∨ q.state = .rts) ∧ q.mp = []) →
      (h.msn + psnMod - q.cumMsn) % psnMod = 1 →
      mpInvalid q h (some payload.length) = false →
      q.mpStarted + h.msgLen ≤ q.mpLimit →
      (h.pktOffset = 0 ∧ 4096 < h.msgLen ∧ h.msgLen ≤ 2 ^ 20 ∧ h.immFlag = false) →
      keyCheck q h.rkey [1, 4] h.va h.msgLen true s = some k →
      plainHere k.region s = true →
      mpContexts s < 4096 →
      admitsLast (submitEmpty (.multipath h.qp h.msn 0) k.region k.off h.msgLen s) = true →
      ∃ t, exec (.mpWrite h payload) s = .next t ∧ ((qpAt h.qp t).map fun x => x.mp.map fun c => (c.msn, c.placed)) = some [(h.msn, [0])] ∧ ((qpAt h.qp t).map fun x => x.mp.map fun c => (c.admitted, c.imm)) = some [(1, none)] ∧
        ((t.pu.units.getLast?.map fun u => (u.src, u.phase))) = some (.multipath h.qp h.msn 0, .reserved) ∧ t.out = s.out ∧ t.ti = s.ti ∧ t.reg = s.reg) ∧
    (∀ (h : Mpeth) (payload : Bytes) (q : Qp) (k : KeyHit) (s : State),
      qpAt h.qp s = some q →
      (q.attr.transport = 1 ∧ (q.state = .rtr ∨ q.state = .rts) ∧ q.mp = []) →
      (h.msn + psnMod - q.cumMsn) % psnMod = 1 →
      mpInvalid q h (some payload.length) = false →
      q.mpStarted + h.msgLen ≤ q.mpLimit →
      (h.pktOffset = 0 ∧ 4096 < h.msgLen ∧ h.msgLen ≤ 2 ^ 20) →
      keyCheck q h.rkey [1, 4] h.va h.msgLen true s = some k →
      plainHere k.region s = true →
      mpContexts s < 4096 →
      admitsLast (submitEmpty (.multipath h.qp h.msn 0) k.region k.off h.msgLen s) = true →
      ∃ t, exec (.mpWriteImm h payload) s = .next t ∧ ((qpAt h.qp t).map fun x => x.mp.map fun c => (c.msn, c.placed)) = some [(h.msn, [0])] ∧ ((qpAt h.qp t).map fun x => x.mp.map fun c => (c.admitted, c.imm)) = some [(1, some h.immediate)] ∧
        ((t.pu.units.getLast?.map fun u => (u.src, u.phase))) = some (.multipath h.qp h.msn 0, .reserved) ∧ t.out = s.out ∧ t.ti = s.ti ∧ t.reg = s.reg) ∧
    (∀ (h : Mpeth) (payload : Bytes) (q : Qp) (s : State),
      qpAt h.qp s = some q →
      (q.attr.transport = 1 ∧ (q.state = .rtr ∨ q.state = .rts)) →
      (h.msn + psnMod - q.cumMsn) % psnMod = 1 →
      mpInvalid q h (some payload.length) = true →
      ∃ t, exec (.mpWrite h payload) s = .next t ∧ qpState h.qp t = some .err ∧ .mpPacket h.qp (le 1 0xC5 ++ be 3 h.msn ++ le 1 1 ++ zeros 4) ∈ t.out ∧ t.ti = s.ti ∧ t.reg = s.reg) ∧
    (∀ (qp msn : Nat) (q : Qp) (c : MpCtx) (s : State),
      qpAt qp s = some q →
      q.mp = [c] →
      (c.msn = msn ∧ c.isRead = false ∧ mpComplete c = true ∧ c.imm = none) →
      msn = (q.cumMsn + 1) % psnMod →
      ∃ t, exec (.mpMessageComplete qp msn) s = .next t ∧ ((qpAt qp t).map fun x => (x.cumMsn, x.mp, x.mpDone)) = some (msn, [], q.mpDone + c.msgLen) ∧ t.out.length = s.out.length + 1 ∧ t.ti = s.ti ∧ t.pu = s.pu ∧ t.reg = s.reg) ∧
    (∀ (h : Mpeth) (q : Qp) (k : KeyHit) (s : State),
      qpAt h.qp s = some q →
      (q.attr.transport = 1 ∧ (q.state = .rtr ∨ q.state = .rts) ∧ q.mp = []) →
      (h.msn = (q.cumMsn + 1) % psnMod ∧ q.cumMsn < psnMod) →
      mpInvalid q h none = false →
      (h.pktOffset = 0 ∧ h.pktCount = 0 ∧ h.msgLen ≤ 4096) →
      keyCheck q h.rkey [0, 4] h.va h.msgLen false s = some k →
      plainHere k.region s = true →
      poisonedLines k.region k.off h.msgLen s = [] →
      ∃ t, exec (.mpReadReq h) s = .next t ∧ ((qpAt h.qp t).map fun x => (x.cumMsn, x.mp)) = some (h.msn, []) ∧ t.out.length = s.out.length + 2 ∧ t.pu = s.pu ∧ t.reg = s.reg) ∧
    (∀ (qp msn : Nat) (q : Qp) (c : MpCtx) (s : State),
      qpAt qp s = some q →
      ((q.mp.find? fun c => c.msn == msn && !c.isRead) = some c) →
      c.first + 8 * 2 ^ q.attr.mpTmo ≤ s.tb.beat →
      ∃ t, exec (.mpReassemblyTimeout qp msn) s = .next t ∧ qpState qp t = some .err ∧ .mpPacket qp (le 1 0xC5 ++ be 3 msn ++ le 1 4 ++ zeros 4) ∈ t.out ∧ t.ti = s.ti ∧ t.reg = s.reg)

/-- A head that exists, with PERST# high and start-up in its last phase, serves from HEAD_LINK_UP on and records event 0601h. HEAD_LINK_DOWN and PERST_N_ASSERT empty the head's front cache and its queues of requests. GPF phase 1 and phase 2 are acknowledged, the latter recorded as event 0609h. An ECC error in a clean granule drops it and records event 0607h; a bank that is being emptied and holds no granule powers down with event 0606h. A link power state is noted and answers nothing. -/
def Obligations.HeadLinksAndGlobalPersistentFlush : Prop :=
    (∀ (head width speed flit : Nat) (h : Head) (s : State),
      mget head s.cxl.heads = some h →
      7 ≤ s.start.phase →
      headExists head s = true →
      (h.up = false ∧ h.perstLow = false) →
      s.ev.queue.length < 1000 →
      ∃ t, exec (.headLinkUp head width speed flit) s = .next t ∧ ((mget head t.cxl.heads).map fun x => (x.up, x.width, x.speed, x.flit)) = some (true, width, speed, flit) ∧
        ((mget head t.cxl.heads).map fun x => (x.pcieOnly, x.perstLow)) = some (speed == 0, false) ∧ recorded 0x0601 t ∧ t.ti = s.ti ∧ t.pu = s.pu ∧ t.reg = s.reg) ∧
    (∀ (head cause : Nat) (h : Head) (s : State),
      mget head s.cxl.heads = some h →
      h.up = true →
      ∃ t, exec (.headLinkDown head cause) s = .next t ∧ ((mget head t.cxl.heads).map fun x => (x.up, x.granules, x.stalled)) = some (false, [], []) ∧ ((mget head t.cxl.heads).map (·.misses)) = some [] ∧ t.reg = s.reg) ∧
    (∀ (head : Nat) (h : Head) (s : State),
      mget head s.cxl.heads = some h →
      ∃ t, exec (.perstNAssert head) s = .next t ∧ ((mget head t.cxl.heads).map fun x => (x.up, x.perstLow)) = some (false, true) ∧ t.reg = s.reg) ∧
    (∀ (head : Nat) (h : Head) (s : State),
      mget head s.cxl.heads = some h →
      h.perstLow = true →
      ∃ t, exec (.perstNDeassert head) s = .next t ∧ ((mget head t.cxl.heads).map fun x => (x.up, x.perstLow)) = some (h.up, false) ∧ t.ti = s.ti ∧ t.pu = s.pu ∧ t.reg = s.reg) ∧
    (∀ (head state : Nat) (h : Head) (s : State),
      mget head s.cxl.heads = some h →
      (h.up = true ∧ state < 3) →
      ∃ t, exec (.headLinkPowerStateChange head state) s = .next t ∧ ((mget head t.cxl.heads).map fun x => (x.up, x.powerState)) = some (true, state) ∧ t.out = s.out ∧ t.ti = s.ti ∧ t.pu = s.pu ∧ t.reg = s.reg) ∧
    (∀ (head : Nat) (h : Head) (s : State),
      mget head s.cxl.heads = some h →
      (h.up = true ∧ h.pcieOnly = false) →
      ∃ t, exec (.gpfPhase1 head) s = .next t ∧ t.out = .gpfAck head 1 :: s.out ∧ mget head t.cxl.heads = some { h with gpfPhase1 := true } ∧ t.ti = s.ti ∧ t.pu = s.pu ∧ t.ev = s.ev ∧ t.reg = s.reg) ∧
    (∀ (head : Nat) (h : Head) (s : State),
      mget head s.cxl.heads = some h →
      (h.up = true ∧ h.pcieOnly = false) →
      eventRoom s = true →
      ∃ t, exec (.gpfPhase2 head) s = .next t ∧ t.out = .gpfAck head 2 :: s.out ∧ mget head t.cxl.heads = some { h with gpfPhase1 := false } ∧ newestEvent t = some (0x0609, .info) ∧ t.ti = s.ti ∧ t.pu = s.pu ∧ t.reg = s.reg) ∧
    (∀ (head granule : Nat) (h : Head) (g : Granule) (s : State),
      mget head s.cxl.heads = some h →
      h.granules[granule]? = some g →
      g.dirty = 0 →
      eventRoom s = true →
      ∃ t, exec (.frontCacheEccError head granule) s = .next t ∧ ((mget head t.cxl.heads).map fun x => (x.eccClean, x.granules)) = some (true, h.granules.filter fun x => !isGranule g.region g.index x) ∧
        newestEvent t = some (0x0607, .error) ∧ t.ti = s.ti ∧ t.pu = s.pu ∧ t.reg = s.reg) ∧
    (∀ (head bank : Nat) (h : Head) (s : State),
      mget head s.cxl.heads = some h →
      (h.granules = [] ∧ h.victims = []) →
      h.bankClean.getLsbD bank = true →
      eventRoom s = true →
      ∃ t, exec (.frontCacheBankEmpty head bank) s = .next t ∧ ((mget head t.cxl.heads).map fun x => (x.bankOn.getLsbD bank, x.bankClean.getLsbD bank)) = some (false, false) ∧ newestEvent t = some (0x0606, .info) ∧
        t.ti = s.ti ∧ t.pu = s.pu ∧ t.reg = s.reg)

/-- On a head that serves CXL.mem: a read of a DPA that no attachment maps returns poison and is counted; a read that hits a valid line of a granule returns it with its poison mark; a read that misses an empty front cache takes a miss register and answers nothing yet; when the lines below are ready the fill answers the merged requests and frees the register. A write to a writable persistent region served here becomes one write unit of one line whose completion waits for the acknowledgement; a write that no attachment maps completes and stores nothing. A victim without dirty lines is handed off. -/
def Obligations.CxlMemoryAccesses : Prop :=
    (∀ (req : CxlReq) (s : State),
      servesMem req.head s = true →
      attachmentAt (targetOf req s) req.dpa s = none →
      ∃ t, exec (.cxlMemRead req {}) s = .next t ∧ (∃ d, .cxlData req.head req.tag d true (headLoad req.head s) ∈ t.out) ∧ mgetD 0 (targetOf req s) t.cxl.unmapped = mgetD 0 (targetOf req s) s.cxl.unmapped + 1 ∧ t.ti = s.ti ∧ t.pu = s.pu ∧ t.reg = s.reg) ∧
    (∀ (req : CxlReq) (n : Nat) (a : Attachment) (d : Region) (h : Head) (g : Granule) (s : State),
      servesMem req.head s = true →
      attachmentAt (targetOf req s) req.dpa s = some (n, a) →
      regionOf a.region s = some d →
      route a.region (offsetIn a req.dpa) s = .here →
      writePending req.head a.region (offsetIn a req.dpa / 64) s = false →
      mget req.head s.cxl.heads = some h →
      granuleOf a.region (offsetIn a req.dpa / 64 / 4) h = some g →
      lineValid (offsetIn a req.dpa / 64) g = true →
      ∃ t, exec (.cxlMemRead req {}) s = .next t ∧ .cxlData req.head req.tag (mgetD 0 (offsetIn a req.dpa / 64 % 4) g.lines) (g.poison.getLsbD (offsetIn a req.dpa / 64 % 4)) h.devLoad ∈ t.out ∧
        ((mget req.head t.cxl.heads).map (·.hit)) = some ((h.hit + 1) % 2 ^ 32) ∧ t.ti = s.ti ∧ t.pu = s.pu ∧ t.reg = s.reg) ∧
    (∀ (req : CxlReq) (n : Nat) (a : Attachment) (d : Region) (h : Head) (s : State),
      servesMem req.head s = true →
      attachmentAt (targetOf req s) req.dpa s = some (n, a) →
      regionOf a.region s = some d →
      d.isVolatile = false →
      route a.region (offsetIn a req.dpa) s = .here →
      writePending req.head a.region (offsetIn a req.dpa / 64) s = false →
      mget req.head s.cxl.heads = some h →
      (h.granules = [] ∧ h.misses = [] ∧ h.victims = [] ∧ h.bankOn = 0b111111 ∧ h.bankClean = 0) →
      ∃ t, exec (.cxlMemRead req {}) s = .next t ∧ t.out = s.out ∧ ((mget req.head t.cxl.heads).map (·.misses)) = some [(0, { region := a.region, index := offsetIn a req.dpa / 64 / 4, requests := [req] })] ∧
        ((mget req.head t.cxl.heads).map (·.miss)) = some ((h.miss + 1) % 2 ^ 32) ∧ t.pu = s.pu ∧ t.reg = s.reg) ∧
    (∀ (req : CxlReq) (data : Line) (mask : Mask) (poison : Bool) (n : Nat) (a : Attachment) (d : Region) (s : State),
      servesMem req.head s = true →
      attachmentAt (targetOf req s) req.dpa s = some (n, a) →
      regionOf a.region s = some d →
      d.isVolatile = false →
      route a.region (offsetIn a req.dpa) s = .here →
      writeRefused a.region d (offsetIn a req.dpa / 64 * 64) 64 s = false →
      ∃ t, exec (.cxlMemWrite req data mask poison) s = .next t ∧ t.out = s.out ∧ t.pu.units.length = s.pu.units.length + 1 ∧ ((t.pu.units.getLast?.map fun u => (u.src, u.region, u.lines))) =
        some (.cxl req.head req.requester req.tag, a.region, [⟨offsetIn a req.dpa / 64, mask, data, poison⟩]) ∧ t.cxl = s.cxl ∧ t.ti = s.ti ∧ t.reg = s.reg) ∧
    (∀ (req : CxlReq) (data : Line) (mask : Mask) (poison : Bool) (s : State),
      servesMem req.head s = true →
      attachmentAt (targetOf req s) req.dpa s = none →
      ∃ t, exec (.cxlMemWrite req data mask poison) s = .next t ∧ t.out = .cxlCmp req.head req.tag (headLoad req.head s) :: s.out ∧ t.pu = s.pu ∧ t.ti = s.ti ∧ t.reg = s.reg) ∧
    (∀ (head register n : Nat) (h : Head) (m : MissReg) (q : CxlReq) (a : Attachment) (l : LineRead) (s : State),
      mget head s.cxl.heads = some h →
      mget register h.misses = some m →
      (h.stalled = [] ∧ h.bankClean = 0) →
      belowReady m.region m.index s = true →
      m.requests = [q] →
      attachmentAt (targetOf q s) q.dpa s = some (n, a) →
      offsetIn a q.dpa / 64 / 4 = m.index →
      readLine m.region (m.index * 4 + offsetIn a q.dpa / 64 % 4) s = some l →
      ∃ t, exec (.missFillReturn head register) s = .next t ∧ (∃ n, .cxlData q.head q.tag l.data l.poison n ∈ t.out) ∧ ((mget head t.cxl.heads).map fun x => mget register x.misses) = some none ∧ t.ti = s.ti ∧ t.pu = s.pu ∧ t.reg = s.reg) ∧
    (∀ (head entry : Nat) (h : Head) (v : Victim) (s : State),
      mget head s.cxl.heads = some h →
      mget entry h.victims = some v →
      (v.touched = false ∧ v.granule.dirty = 0) →
      (h.stalled = [] ∧ h.bankClean = 0) →
      ∃ t, exec (.victimHandoff head entry) s = .next t ∧ ((mget head t.cxl.heads).map fun x => mget entry x.victims) = some none ∧ t.out = s.out ∧ t.ti = s.ti ∧ t.pu = s.pu ∧ t.reg = s.reg)

/-- With no bureau designated, Attach Extent of a volatile region makes an OFFERED entry, answers its DPA, sends the add record to the target and sets the deadline. An accepted offer is served from the next boundary; one that the last response leaves out, or that waits 2^26 beats, becomes FREE with event 0605h. Detach Extent of an accepted entry puts it in RELEASING with a deadline, and on a controller that is not the chair it goes to the chair first (how the two share it is the model's choice, assumption log 67); a release by the host without accesses in flight unmaps it at the next boundary; a detach that times out ends with Retry Required and the entry is ACCEPTED again. Grant Memory Key takes the lowest free entry and returns its key; Revoke Memory Key takes effect at the next boundary. -/
def Obligations.DynamicCapacityAndMemoryKeys : Prop :=
    (∀ (path : BcsPath) (input : Bytes) (d : Region) (s : State),
      bcsOpen path 0xC016 s = true →
      input.length = 16 →
      isPaired s = false →
      regionOf (fld 0 2 input) s = some d →
      (d.state = .online ∧ d.isVolatile = true ∧ fld 2 4 input < d.size) →
      (s.cxl.bureau = 0 ∧ fld 0 2 input ≠ 0) →
      ((match path with | .forwarded _ _ => false | _ => true) = true) →
      targetExists (fld 6 2 input) s = true →
      fld 8 8 input = 2 ^ 50 →
      s.cxl.att = [] →
      ∃ t, exec (.attachExtent path input) s = .next t ∧ answered path 0xC016 0 (le 8 (2 ^ 50)) t ∧ t.cxl.att = [(0, { region := fld 0 2 input, rext := fld 2 4 input, target := fld 6 2 input, state := .offered, dpa := 2 ^ 50, deadline := some (s.tb.beat + 2 ^ 26) })] ∧ t.reg = s.reg ∧ t.ti = s.ti ∧ t.pu = s.pu) ∧
    (∀ (target n : Nat) (a : Attachment) (more : Bool) (s : State),
      s.cxl.att = [(n, a)] →
      (a.target = target ∧ a.state = .offered ∧ a.unmapAt = none ∧ a.deadline.isSome = true) →
      s.cxl.bureau = 0 →
      ∃ t, exec (.addDynamicCapacityResponse target [a.dpa] more) s = .next t ∧ mget n t.cxl.att = some { a with state := .accepted, serveFrom := s.tb.beat + 1, deadline := none } ∧ t.reg = s.reg ∧ t.ti = s.ti ∧ t.pu = s.pu) ∧
    (∀ (entry b : Nat) (a : Attachment) (s : State),
      mget entry s.cxl.att = some a →
      (a.state = .offered ∧ a.deadline = some b ∧ a.detach = none) →
      b ≤ s.tb.beat →
      s.cxl.bureau = 0 →
      eventRoom s = true →
      ∃ t, exec (.offerTimeout entry) s = .next t ∧ ((mget entry t.cxl.att).map (·.unmapAt)) = some (some (s.tb.beat + 1)) ∧ newestEvent t = some (0x0605, .warning) ∧ t.reg = s.reg ∧ t.ti = s.ti ∧ t.pu = s.pu) ∧
    (∀ (path : BcsPath) (input : Bytes) (n : Nat) (a : Attachment) (s : State),
      bcsOpen path 0xC017 s = true →
      input.length = 9 →
      fld 8 1 input = 0 →
      (isPaired s = false ∧ (match path with | .forwarded _ _ => false | _ => true) = true) →
      s.cxl.att = [(n, a)] →
      (a.region = fld 0 2 input ∧ a.rext = fld 2 4 input ∧ a.target = fld 6 2 input ∧ a.unmapAt = none ∧ a.state = .accepted) →
      s.cxl.bureau = 0 →
      bgFree path 0xC017 s = true →
      ∃ t, exec (.detachExtent path input) s = .next t ∧ mget n t.cxl.att = some { a with state := .releasing, detach := some path, deadline := some (s.tb.beat + 2 ^ 26) } ∧
        .dcEvent a.target 1 a.dpa (extentTag a s) ∈ t.out ∧ t.reg = s.reg ∧ t.ti = s.ti ∧ t.pu = s.pu) ∧
    (∀ (path : BcsPath) (input : Bytes) (s : State),
      bcsOpen path 0xC017 s = true →
      input.length = 9 →
      (isPaired s = true ∧ s.pair.chairHere = false ∧ linkUp s = true ∧ s.pair.takeover = false ∧ s.pair.fwd = []) →
      ∃ t, exec (.detachExtent path input) s = .next t ∧ t.pair.fwd.map (·.2) = [.detach path input] ∧ t.pair.link.queue.length = s.pair.link.queue.length + 1 ∧ t.cxl = s.cxl ∧ t.reg = s.reg ∧ t.ti = s.ti ∧ t.pu = s.pu ∧ t.out = s.out) ∧
    (∀ (mtag n : Nat) (path : BcsPath) (input output : Bytes) (a : Attachment) (s : State),
      mget mtag s.pair.fwd = some (.detach path input) →
      fld 8 1 input = 0 →
      s.cxl.att = [(n, a)] →
      (a.region = fld 0 2 input ∧ a.rext = fld 2 4 input ∧ a.target = fld 6 2 input ∧ a.unmapAt = none ∧ a.state = .accepted) →
      s.cxl.bureau = 0 →
      bgFree path 0xC017 s = true →
      ∃ t, exec (.bcsResponse mtag 0 output) s = .next t ∧ mget n t.cxl.att = some { a with state := .releasing, detach := some path, deadline := some (s.tb.beat + 2 ^ 26) } ∧
        .dcEvent a.target 1 a.dpa (extentTag a s) ∈ t.out ∧ t.reg = s.reg ∧ t.ti = s.ti ∧ t.pu = s.pu) ∧
    (∀ (target n : Nat) (a : Attachment) (s : State),
      s.cxl.att = [(n, a)] →
      (a.target = target ∧ a.state = .accepted ∧ a.unmapAt = none ∧ a.detach = none) →
      s.cxl.bureau = 0 →
      attachBusy { a with state := .releasing, released := true, deadline := none } s = false →
      ∃ t, exec (.releaseDynamicCapacity target [a.dpa]) s = .next t ∧ ((mget n t.cxl.att).map (·.unmapAt)) = some (some (s.tb.beat + 1)) ∧ t.reg = s.reg ∧ t.ti = s.ti ∧ t.pu = s.pu) ∧
    (∀ (entry b : Nat) (p : BcsPath) (a : Attachment) (s : State),
      mget entry s.cxl.att = some a →
      (a.state = .releasing ∧ a.released = false ∧ a.detach = some p ∧ a.deadline = some b) →
      b ≤ s.tb.beat →
      s.cxl.bureau = 0 →
      s.mc.bg = [{ path := p, opcode := 0xC017 }] →
      ∃ t, exec (.detachTimeout entry) s = .next t ∧ mget entry t.cxl.att = some { a with state := .accepted, detach := none, deadline := none } ∧
        (t.mc.bg.map (·.result)) = [some ⟨0x0005, 0xFFFF, []⟩] ∧ t.reg = s.reg ∧ t.ti = s.ti ∧ t.pu = s.pu) ∧
    (∀ (path : BcsPath) (input : Bytes) (d : Region) (s : State),
      bcsOpen path 0xC018 s = true →
      input.length = 24 →
      regionOf (fld 0 2 input) s = some d →
      s.cxl.bureau ≠ fld 0 2 input →
      (fld 4 1 input < 32 ∧ zeroAt 5 3 input = true) →
      (fld 8 8 input % 4096 = 0 ∧ fld 16 8 input % 4096 = 0 ∧ 0 < fld 16 8 input ∧ fld 8 8 input + fld 16 8 input ≤ regionBytes d) →
      s.trust.memKeys = [] →
      ∃ t, exec (.grantMemoryKey path input) s = .next t ∧ answered path 0xC018 0 (le 4 (mgetD 0 0 s.trust.memTags)) t ∧ t.trust.memKeys = [(0, { lenPages := fld 16 8 input / 4096, basePage := fld 8 8 input / 4096, region := fld 0 2 input, domain := fld 2 2 input, rights := BitVec.ofNat 5 (fld 4 1 input) })] ∧ t.reg = s.reg ∧ t.ti = s.ti ∧ t.pu = s.pu) ∧
    (∀ (path : BcsPath) (input : Bytes) (k : MemKey) (s : State),
      bcsOpen path 0xC019 s = true →
      input.length = 4 →
      mget (fld 0 4 input / 4096) s.trust.memKeys = some k →
      (mgetD 0 (fld 0 4 input / 4096) s.trust.memTags = fld 0 4 input % 4096 ∧ k.revoking = false) →
      s.trust.revocations = [] →
      bgFree path 0xC019 s = true →
      ∃ t, exec (.revokeMemoryKey path input) s = .next t ∧ t.trust.revocations = [{ index := fld 0 4 input / 4096, boundary := s.tb.beat + 1, path := some path }] ∧ t.trust.memKeys = s.trust.memKeys ∧ t.reg = s.reg ∧ t.ti = s.ti ∧ t.pu = s.pu)

/-- Each query that is taken up with valid input answers Success and leaves regions, tiers, persistence unit and CXL state as they were: Identify the vendor and device identity; Background Operation Status the mailbox's; Get Event Records the records of the log; Get Event Interrupt Policy and Get Alert Configuration what was stored; Get Timestamp the time of day in nanoseconds; Get Supported Logs and Get Log; Identify Memory Device and Get Partition Info no static capacity; Get Health Info and Get Shutdown State with the stored counts; Get Poison List, Scan Media's capabilities and results; the dynamic capacity configuration and extent list; LD information and allocations. Fields that the specification leaves to the part are configuration constants or free values. -/
def Obligations.StandardMailboxQueries : Prop :=
    (∀ (path : BcsPath) (input : Bytes) (s : State),
      bcsOpen path 0x0001 s = true →
      input.length = 0 →
      ∃ t, exec (.identify path input) s = .next t ∧ answered path 0x0001 0 (le 2 0x1F3C ++ le 2 0x7240 ++ le 4 (Config.fixed 0) ++ le 8 Config.serial ++ le 1 16 ++ le 1 3) t ∧ t.cxl = s.cxl ∧ t.reg = s.reg ∧ t.ti = s.ti ∧ t.pu = s.pu) ∧
    (∀ (l : Nat) (input : Bytes) (m : Mailbox) (s : State),
      bcsOpen (.primary l) 0x0002 s = true →
      input.length = 0 →
      mget l s.mc.mail = some m →
      ∃ t, exec (.backgroundOperationStatus (.primary l) input) s = .next t ∧ answered (.primary l) 0x0002 0 (le 1 (b2n m.bgOp + 2 * m.bgPercent) ++ zeros 1 ++ le 2 m.bgOpcode ++ le 2 m.bgRc ++ le 2 m.bgVstatus) t ∧
        t.cxl = s.cxl ∧ t.reg = s.reg ∧ t.ti = s.ti ∧ t.pu = s.pu) ∧
    (∀ (path : BcsPath) (input : Bytes) (s : State),
      bcsOpen path 0x0100 s = true →
      input.length = 1 →
      fld 0 1 input < 5 →
      ∃ t, exec (.getEventRecords path input) s = .next t ∧ answered path 0x0100 0 (le 1 (2 * b2n (decide (511 < (logRecords (fld 0 1 input) s).length))) ++ zeros 19 ++
        le 2 ((logRecords (fld 0 1 input) s).take 511).length ++ zeros 10 ++ ((logRecords (fld 0 1 input) s).take 511).flatMap (cxlRecord (fld 0 1 input))) t ∧
        t.cxl = s.cxl ∧ t.reg = s.reg ∧ t.ti = s.ti ∧ t.pu = s.pu ∧ t.ev = s.ev) ∧
    (∀ (path : BcsPath) (input : Bytes) (s : State),
      bcsOpen path 0x0102 s = true →
      input.length = 0 →
      ∃ t, exec (.getEventInterruptPolicy path input) s = .next t ∧ answered path 0x0102 0 (padTo 5 s.mc.irqPolicy) t ∧ t.cxl = s.cxl ∧ t.reg = s.reg ∧ t.ti = s.ti ∧ t.pu = s.pu) ∧
    (∀ (path : BcsPath) (input : Bytes) (s : State),
      bcsOpen path 0x0300 s = true →
      input.length = 0 →
      ∃ t, exec (.getTimestamp path input) s = .next t ∧ answered path 0x0300 0 (le 8 (s.tb.tod / 4)) t ∧ t.tb = s.tb ∧ t.cxl = s.cxl ∧ t.reg = s.reg ∧ t.ti = s.ti ∧ t.pu = s.pu) ∧
    (∀ (path : BcsPath) (input : Bytes) (s : State),
      bcsOpen path 0x0400 s = true →
      input.length = 0 →
      ∃ t, exec (.getSupportedLogs path input) s = .next t ∧ answered path 0x0400 0 (le 2 2 ++ zeros 6 ++ be 16 celUuid ++ le 4 celBytes.length ++ be 16 debugUuid ++
        le 4 (Config.debugLog (roLevel s)).length) t ∧ t.cxl = s.cxl ∧ t.reg = s.reg ∧ t.ti = s.ti ∧ t.pu = s.pu) ∧
    (∀ (path : BcsPath) (input : Bytes) (s : State),
      bcsOpen path 0x0401 s = true →
      input.length = 24 →
      beVal (slice 0 16 input) = celUuid →
      (fld 16 4 input + fld 20 4 input ≤ celBytes.length ∧ fld 20 4 input ≤ 65536) →
      ∃ t, exec (.getLog path input) s = .next t ∧ answered path 0x0401 0 (slice (fld 16 4 input) (fld 20 4 input) celBytes) t ∧ t.cxl = s.cxl ∧ t.reg = s.reg ∧ t.ti = s.ti ∧ t.pu = s.pu) ∧
    (∀ (path : BcsPath) (input : Bytes) (s : State),
      bcsOpen path 0x4000 s = true →
      input.length = 0 →
      s.cxl.bureau = 0 →
      ∃ t, exec (.identifyMemoryDevice path input) s = .next t ∧ answered path 0x4000 0 (le 16 (Config.fixed 2) ++ zeros 32 ++ le 8 (Config.fixed 3) ++ le 4 0 ++ le 3 4096 ++
        le 4 (Config.fixed 4) ++ le 2 (Config.fixed 5)) t ∧ t.cxl = s.cxl ∧ t.reg = s.reg ∧ t.ti = s.ti ∧ t.pu = s.pu) ∧
    (∀ (path : BcsPath) (input : Bytes) (s : State),
      bcsOpen path 0x4100 s = true →
      input.length = 0 →
      ∃ t, exec (.getPartitionInfo path input) s = .next t ∧ answered path 0x4100 0 (zeros 32) t ∧ t.cxl = s.cxl ∧ t.reg = s.reg ∧ t.ti = s.ti ∧ t.pu = s.pu) ∧
    (∀ (path : BcsPath) (input : Bytes) (s : State),
      bcsOpen path 0x4200 s = true →
      input.length = 0 →
      ∃ t, exec (.getHealthInfo path input) s = .next t ∧ (∃ a b : Bytes, a.length = 6 ∧ b.length = 8 ∧ answered path 0x4200 0 (a ++ le 4 s.cxl.dirtyShutdowns ++ b) t) ∧ t.cxl = s.cxl ∧ t.reg = s.reg ∧ t.ti = s.ti ∧ t.pu = s.pu) ∧
    (∀ (path : BcsPath) (input : Bytes) (s : State),
      bcsOpen path 0x4201 s = true →
      input.length = 0 →
      ∃ t, exec (.getAlertConfiguration path input) s = .next t ∧ answered path 0x4201 0 (le 1 (fld 1 1 (padTo 12 s.mc.alerts)) ++ le 1 0x1F ++ le 1 (Config.fixed 6) ++ slice 2 1 (padTo 12 s.mc.alerts) ++
        le 4 (Config.fixed 7) ++ slice 4 8 (padTo 12 s.mc.alerts)) t ∧ t.cxl = s.cxl ∧ t.reg = s.reg ∧ t.ti = s.ti ∧ t.pu = s.pu) ∧
    (∀ (path : BcsPath) (input : Bytes) (s : State),
      bcsOpen path 0x4203 s = true →
      input.length = 0 →
      ∃ t, exec (.getShutdownState path input) s = .next t ∧ answered path 0x4203 0 (le 1 s.cxl.shutdownDirty) t ∧ t.cxl = s.cxl ∧ t.reg = s.reg ∧ t.ti = s.ti ∧ t.pu = s.pu) ∧
    (∀ (path : BcsPath) (input : Bytes) (s : State),
      bcsOpen path 0x4300 s = true →
      input.length = 16 →
      fld 0 8 input % 64 = 0 →
      (s.ecc.ledger = [] ∧ s.ecc.ledgerOverflow = false ∧ s.ecc.scrub.state = 0) →
      ∃ t, exec (.getPoisonList path input) s = .next t ∧ answered path 0x4300 0 (zeros 32) t ∧ t.cxl = s.cxl ∧ t.reg = s.reg ∧ t.ti = s.ti ∧ t.pu = s.pu ∧ t.ecc = s.ecc) ∧
    (∀ (path : BcsPath) (input : Bytes) (s : State),
      bcsOpen path 0x4303 s = true →
      input.length = 16 →
      fld 0 8 input % 64 = 0 →
      ∃ t, exec (.getScanMediaCapabilities path input) s = .next t ∧ (∃ a : Bytes, a.length = 4 ∧ answered path 0x4303 0 a t) ∧ t.cxl = s.cxl ∧ t.reg = s.reg ∧ t.ti = s.ti ∧ t.pu = s.pu) ∧
    (∀ (path : BcsPath) (input : Bytes) (s : State),
      bcsOpen path 0x4305 s = true →
      input.length = 0 →
      (s.ecc.scrub.scan = none ∧ s.ecc.scrub.state = 0) →
      ∃ t, exec (.getScanMediaResults path input) s = .next t ∧ answered path 0x4305 0 (zeros 32) t ∧ t.cxl = s.cxl ∧ t.reg = s.reg ∧ t.ti = s.ti ∧ t.pu = s.pu ∧ t.ecc = s.ecc) ∧
    (∀ (path : BcsPath) (input : Bytes) (s : State),
      bcsOpen path 0x4800 s = true →
      input.length = 2 →
      (fld 1 1 input = 0 ∧ fld 0 1 input = 2) →
      ∃ t, exec (.getDynamicCapacityConfiguration path input) s = .next t ∧ answered path 0x4800 0 (le 1 2 ++ le 1 2 ++ zeros 6 ++ (dcRegionBytes 0 ++ dcRegionBytes 1) ++
        le 4 262144 ++ le 4 (262144 - (attachmentsOf (ldOf path) s).length) ++ le 8 (Config.fixed 10)) t ∧ t.cxl = s.cxl ∧ t.reg = s.reg ∧ t.ti = s.ti ∧ t.pu = s.pu) ∧
    (∀ (path : BcsPath) (input : Bytes) (s : State),
      bcsOpen path 0x4801 s = true →
      input.length = 8 →
      (s.cxl.att = [] ∧ fld 4 4 input = 0) →
      ∃ t, exec (.getDynamicCapacityExtentList path input) s = .next t ∧ (∃ gen : Bytes, gen.length = 4 ∧ answered path 0x4801 0 (le 4 0 ++ le 4 0 ++ gen ++ zeros 4) t) ∧ t.cxl = s.cxl ∧ t.reg = s.reg ∧ t.ti = s.ti ∧ t.pu = s.pu) ∧
    (∀ (path : BcsPath) (input : Bytes) (s : State),
      bcsOpen path 0x5400 s = true →
      input.length = 0 →
      ∃ t, exec (.getLdInfo path input) s = .next t ∧ answered path 0x5400 0 (le 8 (s.reg.capExtents * 2 ^ 28) ++ le 2 (headOf (fmHead path) s).lds ++ le 1 (Config.fixed 11)) t ∧ t.cxl = s.cxl ∧ t.reg = s.reg ∧ t.ti = s.ti ∧ t.pu = s.pu) ∧
    (∀ (path : BcsPath) (input : Bytes) (s : State),
      bcsOpen path 0x5401 s = true →
      input.length = 2 →
      fld 0 1 input < (headOf (fmHead path) s).lds →
      ∃ t, exec (.getLdAllocations path input) s = .next t ∧ answered path 0x5401 0 (le 1 (headOf (fmHead path) s).lds ++ le 1 0 ++ le 1 (fld 0 1 input) ++
        le 1 (min (fld 1 1 input) ((headOf (fmHead path) s).lds - fld 0 1 input)) ++ zeros (16 * min (fld 1 1 input) ((headOf (fmHead path) s).lds - fld 0 1 input))) t ∧
        t.cxl = s.cxl ∧ t.reg = s.reg ∧ t.ti = s.ti ∧ t.pu = s.pu) ∧
    (∀ (path : BcsPath) (input : Bytes) (s : State),
      bcsOpen path 0x4102 s = true →
      input.length = 8 →
      (s.cxl.bureau ≠ 0 ∧ fld 0 4 input + fld 4 4 input ≤ 131072 ∧ fld 4 4 input ≤ 65536 ∧ 0 < fld 4 4 input) →
      bureauReadable s = true →
      poisonedLines s.cxl.bureau (labelOffset (myPosition s) (lsaIndex path s) + fld 0 4 input) (fld 4 4 input) s = [] →
      ∃ t, exec (.getLsa path input) s = .next t ∧ answered path 0x4102 0 (readBytes s.cxl.bureau (labelOffset (myPosition s) (lsaIndex path s) + fld 0 4 input) (fld 4 4 input) s) t ∧
        t.cxl = s.cxl ∧ t.reg = s.reg ∧ t.ti = s.ti ∧ t.pu = s.pu)

/-- Clear Event Records of all clears the log; Set Event Interrupt Policy, Set Alert Configuration and Set Shutdown State store what they are given; Set Timestamp sets the time of day unless the timebase is LOCKED; Set LSA and Clear and Inject Poison submit one write unit of the bureau or of the line; Scan Media starts a scrub in the background; Set LD Allocations sets the number of LDs of the head; a DCD management command answers the device's dynamic capacity. Set Partition Info, Sanitize and Secure Erase of the CXL set are answered Unsupported (0003h). -/
def Obligations.StandardMailboxChanges : Prop :=
    (∀ (path : BcsPath) (input : Bytes) (s : State),
      bcsOpen path 0x0101 s = true →
      input.length = 6 →
      (fld 0 1 input < 5 ∧ fld 1 1 input = 1 ∧ fld 2 1 input = 0 ∧ zeroAt 3 3 input = true) →
      ∃ t, exec (.clearEventRecords path input) s = .next t ∧ answered path 0x0101 0 [] t ∧ t.ev.recent = s.ev.recent ∧ t.cxl = s.cxl ∧ t.reg = s.reg ∧ t.ti = s.ti ∧ t.pu = s.pu) ∧
    (∀ (path : BcsPath) (input : Bytes) (s : State),
      bcsOpen path 0x0103 s = true →
      input.length = 5 →
      ∃ t, exec (.setEventInterruptPolicy path input) s = .next t ∧ answered path 0x0103 0 [] t ∧ t.mc.irqPolicy = input ∧ t.cxl = s.cxl ∧ t.reg = s.reg ∧ t.ti = s.ti ∧ t.pu = s.pu) ∧
    (∀ (path : BcsPath) (input : Bytes) (s : State),
      bcsOpen path 0x0301 s = true →
      input.length = 8 →
      s.tb.mode ≠ .locked →
      ∃ t, exec (.setTimestamp path input) s = .next t ∧ answered path 0x0301 0 [] t ∧ t.tb.tod = fld 0 8 input * 4 % 2 ^ 64 ∧ t.tb.beat = s.tb.beat ∧ t.cxl = s.cxl ∧ t.reg = s.reg ∧ t.ti = s.ti ∧ t.pu = s.pu) ∧
    (∀ (path : BcsPath) (input : Bytes) (s : State),
      bcsOpen path 0x0301 s = true →
      input.length = 8 →
      s.tb.mode = .locked →
      ∃ t, exec (.setTimestamp path input) s = .next t ∧ answered path 0x0301 0 [] t ∧ t.tb = s.tb) ∧
    (∀ (path : BcsPath) (input : Bytes) (s : State),
      bcsOpen path 0x4202 s = true →
      input.length = 12 →
      (fld 0 1 input = 31 ∧ fld 1 1 input < 32 ∧ zeroAt 3 1 input = true) →
      ∃ t, exec (.setAlertConfiguration path input) s = .next t ∧ answered path 0x4202 0 [] t ∧ slice 2 1 t.mc.alerts = slice 2 1 input ∧ slice 4 8 t.mc.alerts = slice 4 8 input ∧
        t.cxl = s.cxl ∧ t.reg = s.reg ∧ t.ti = s.ti ∧ t.pu = s.pu) ∧
    (∀ (path : BcsPath) (input : Bytes) (s : State),
      bcsOpen path 0x4204 s = true →
      input.length = 1 →
      fld 0 1 input < 2 →
      ∃ t, exec (.setShutdownState path input) s = .next t ∧ answered path 0x4204 0 [] t ∧ t.cxl = { s.cxl with shutdownDirty := fld 0 1 input } ∧ t.reg = s.reg ∧ t.ti = s.ti ∧ t.pu = s.pu) ∧
    (∀ (path : BcsPath) (input : Bytes) (d : Region) (s : State),
      bcsOpen path 0x4103 s = true →
      8 < input.length →
      (s.cxl.bureau ≠ 0 ∧ regionOf s.cxl.bureau s = some d) →
      (d.state = .online ∧ plainHere s.cxl.bureau s = true) →
      (fld 0 4 input + (input.length - 8) ≤ 131072 ∧ zeroAt 4 4 input = true) →
      ∃ t, exec (.setLsa path input) s = .next t ∧ ((t.pu.units.getLast?.map fun u => (u.src, u.region, u.lines))) = some (.bureau s.cxl.nextJob, s.cxl.bureau,
          cutLines (labelOffset (myPosition s) (lsaIndex path s) + fld 0 4 input) (input.drop 8)) ∧ mget s.cxl.nextJob t.cxl.jobs = some (.label (some path)) ∧ t.out = s.out ∧ t.reg = s.reg ∧ t.ti = s.ti) ∧
    (∀ (path : BcsPath) (input : Bytes) (a : Attachment) (d : Region) (s : State),
      bcsOpen path 0x4301 s = true →
      input.length = 8 →
      fld 0 8 input % 64 = 0 →
      acceptedAt (ldOf path) (fld 0 8 input) s = some a →
      regionOf a.region s = some d →
      plainHere a.region s = true →
      writeRefused a.region d (a.rext * 2 ^ 28 + (fld 0 8 input - a.dpa)) 64 s = false →
      ∃ t, exec (.injectPoison path input) s = .next t ∧ ((t.pu.units.getLast?.map fun u => (u.region, u.lines))) = some (a.region, [⟨(a.rext * 2 ^ 28 + (fld 0 8 input - a.dpa)) / 64, fullMask, 0, true⟩]) ∧
        t.pu.units.length = s.pu.units.length + 1 ∧ t.out = s.out ∧ t.reg = s.reg ∧ t.ti = s.ti) ∧
    (∀ (path : BcsPath) (input : Bytes) (a : Attachment) (d : Region) (s : State),
      bcsOpen path 0x4302 s = true →
      input.length = 72 →
      fld 0 8 input % 64 = 0 →
      acceptedAt (ldOf path) (fld 0 8 input) s = some a →
      regionOf a.region s = some d →
      plainHere a.region s = true →
      writeRefused a.region d (a.rext * 2 ^ 28 + (fld 0 8 input - a.dpa)) 64 s = false →
      ∃ t, exec (.clearPoison path input) s = .next t ∧ ((t.pu.units.getLast?.map fun u => (u.region, u.lines))) = some (a.region, [⟨(a.rext * 2 ^ 28 + (fld 0 8 input - a.dpa)) / 64, fullMask, lineOf (slice 8 64 input), false⟩]) ∧
        t.pu.units.length = s.pu.units.length + 1 ∧ t.out = s.out ∧ t.reg = s.reg ∧ t.ti = s.ti) ∧
    (∀ (path : BcsPath) (input : Bytes) (s : State),
      bcsOpen path 0x4304 s = true →
      input.length = 17 →
      (fld 0 8 input % 64 = 0 ∧ 0 < fld 8 8 input ∧ fld 16 1 input < 2) →
      s.ecc.scrub.state ≠ 1 →
      bgFree path 0x4304 s = true →
      ∃ t, exec (.scanMedia path input) s = .next t ∧ t.ecc.scrub.state = 1 ∧ t.ecc.scrub.path = some path ∧ t.ecc.scrub.ranges = scanRanges (ldOf path) (fld 0 8 input) (fld 0 8 input + fld 8 8 input * 64) s ∧
        (t.mc.bg.any fun b => b.opcode == 0x4304) = true ∧ t.cxl = s.cxl ∧ t.reg = s.reg ∧ t.ti = s.ti ∧ t.pu = s.pu) ∧
    (∀ (head : Nat) (input : Bytes) (h : Head) (s : State),
      bcsOpen (.fm head) 0x5402 s = true →
      input.length = 4 + 16 * fld 0 1 input →
      (0 < fld 0 1 input ∧ fld 1 1 input + fld 0 1 input ≤ 16 ∧ zeroAt 2 2 input = true ∧ allZero (input.drop 4) = true) →
      mget head s.cxl.heads = some h →
      s.cxl.gfam = false →
      ∃ t, exec (.setLdAllocations (.fm head) input) s = .next t ∧ mget head t.cxl.heads = some { h with lds := fld 1 1 input + fld 0 1 input } ∧
        answered (.fm head) 0x5402 0 (le 1 (fld 0 1 input) ++ le 1 (fld 1 1 input) ++ zeros 2 ++ zeros (16 * fld 0 1 input)) t ∧ t.reg = s.reg ∧ t.ti = s.ti ∧ t.pu = s.pu) ∧
    (∀ (path : BcsPath) (input : Bytes) (s : State),
      bcsOpen path 0x5600 s = true →
      input.length = 0 →
      ∃ t, exec (.dcdManagementCommand path 0x5600 input) s = .next t ∧ answered path 0x5600 0 (dcdInfo s) t ∧ t.cxl = s.cxl ∧ t.reg = s.reg ∧ t.ti = s.ti ∧ t.pu = s.pu) ∧
    (∀ (path : BcsPath) (input : Bytes) (s : State),
      bcsOpen path 0x4101 s = true →
      ∃ t, exec (.setPartitionInfo path input) s = .next t ∧ answered path 0x4101 0x0003 [] t ∧ t.cxl = s.cxl ∧ t.reg = s.reg ∧ t.ti = s.ti ∧ t.pu = s.pu) ∧
    (∀ (path : BcsPath) (input : Bytes) (s : State),
      bcsOpen path 0x4400 s = true →
      ∃ t, exec (.cxlSanitize path input) s = .next t ∧ answered path 0x4400 0x0003 [] t ∧ t.cxl = s.cxl ∧ t.reg = s.reg ∧ t.ti = s.ti ∧ t.pu = s.pu) ∧
    (∀ (path : BcsPath) (input : Bytes) (s : State),
      bcsOpen path 0x4401 s = true →
      ∃ t, exec (.secureErase path input) s = .next t ∧ answered path 0x4401 0x0003 [] t ∧ t.cxl = s.cxl ∧ t.reg = s.reg ∧ t.ti = s.ti ∧ t.pu = s.pu)

/-- Arm Pair Join stores the hash with an expiry 2^30 beats on, at which Arming Expiry removes it. Get Pair Status and Get Pair Health answer from the pair record, the leases, the copies and the check counts. Form Pair on an unpaired controller with the link in service starts a formation and sends HELLO; Formation Timeout ends it 2^21 beats later with event 0x0502. Admit Replacement does the same for a pair whose partner no longer answers. Set Standby Checks and Set Witness Path journal the pair record. Move Chair and Move Seat start a planned move at the next boundary, Move Seat of nothing answers a count of 0. Dissolve Pair without mirrored regions journals a pair record with no pair and the partner's ID retired. Force Seat makes the own copy of an OFFLINE mirrored region SOLE one generation higher. -/
def Obligations.PairCommandsAtThisController : Prop :=
    (∀ (path : BcsPath) (input : Bytes) (s : State),
      bcsOpen path 0xC001 s = true →
      input.length = 32 →
      ∃ t, exec (.armPairJoin path input) s = .next t ∧ t.pair.arming = some ⟨input, s.tb.beat + 2 ^ 30⟩ ∧ answered path 0xC001 0 [] t ∧ t.reg = s.reg ∧ t.ti = s.ti ∧ t.pu = s.pu ∧ t.cxl = s.cxl) ∧
    (∀ (a : Arming) (s : State),
      s.pair.arming = some a →
      ∃ t, exec (.armingExpiry) s = .next t ∧ t.pair.arming = (if a.expiry ≤ s.tb.beat then none else some a) ∧ t.pair.record = s.pair.record ∧ t.out = s.out ∧ t.reg = s.reg ∧ t.ti = s.ti ∧ t.pu = s.pu) ∧
    (∀ (path : BcsPath) (input : Bytes) (s : State),
      bcsOpen path 0xC003 s = true →
      input.length = 0 →
      (isPaired s = false ∧ s.pair.chairHere = true ∧ s.reg.table = []) →
      ∃ t, exec (.getPairStatus path input) s = .next t ∧ answered path 0xC003 0 (le 8 0 ++ le 1 s.pair.record.mode ++ [0xFF] ++ le 1 (linkCode s.pair.link.state) ++ [0, 0, 0, 0, 0] ++ le 4 s.pair.chairEpoch ++ le 4 (leaseSetEpoch s)) t ∧
        t.pair.record = s.pair.record ∧ t.pair.mirror = s.pair.mirror ∧ t.reg = s.reg ∧ t.ti = s.ti ∧ t.pu = s.pu) ∧
    (∀ (path : BcsPath) (input : Bytes) (s : State),
      bcsOpen path 0xC008 s = true →
      input.length = 0 →
      ∃ t, exec (.getPairHealth path input) s = .next t ∧ answered path 0xC008 0 ((List.range 5).flatMap fun i => le 8 ((mgetD {} i s.pair.checks).passed + (mgetD {} i s.pair.checks).failed) ++ le 4 (mgetD {} i s.pair.checks).failed ++ zeros 4) t ∧
        t.pair.record = s.pair.record ∧ t.pair.mirror = s.pair.mirror ∧ t.reg = s.reg ∧ t.ti = s.ti ∧ t.pu = s.pu) ∧
    (∀ (input : Bytes) (s : State),
      bcsOpen .sideband 0xC000 s = true →
      (input.length = 33 ∧ fld 32 1 input ≤ 1) →
      (linkUp s = true ∧ isPaired s = false ∧ s.pair.formation = none ∧ s.mc.bg = []) →
      ∃ t, exec (.formPair .sideband input) s = .next t ∧ t.pair.formation.map (fun f => (f.role, f.step, f.mode, f.start)) = some (.initiator, 1, fld 32 1 input, s.tb.beat) ∧
        t.pair.formation.map (·.hash) = some (input.take 32) ∧ t.out = Output.mplInit (helloBytes 0 (fld 32 1 input) 0 (freeBytes 32 s) s) :: s.out ∧
        t.mc.bg = [{ path := .sideband, opcode := 0xC000 }] ∧ t.pair.record = s.pair.record ∧ t.reg = s.reg ∧ t.ti = s.ti ∧ t.pu = s.pu) ∧
    (∀ (f : Formation) (s : State),
      s.pair.formation = some f →
      (f.start + 2 ^ 21 ≤ s.tb.beat ∧ eventRoom s = true) →
      ∃ t, exec (.formationTimeout) s = .next t ∧ t.pair.formation = none ∧ recorded 0x0502 t ∧ t.pair.record = s.pair.record ∧ t.reg = s.reg ∧ t.ti = s.ti ∧ t.pu = s.pu) ∧
    (∀ (input : Bytes) (s : State),
      bcsOpen .sideband 0xC006 s = true →
      (input.length = 32 ∧ isPaired s = true ∧ s.pair.record.mode = 0 ∧ linkUp s = true) →
      (s.pair.hEcho.all (fun h => decide (h + 4096 ≤ s.tb.beat)) = true ∧ s.pair.formation = none) →
      ∃ t, exec (.admitReplacement .sideband input) s = .next t ∧ t.pair.formation.map (fun f => (f.role, f.step, f.mode, f.hash)) = some (.survivor, 1, 0, input.take 32) ∧
        t.out = Output.mplInit (helloBytes 0 0 (otherPosition s + 1) (freeBytes 32 s) s) :: s.out ∧ t.pair.record = s.pair.record ∧ t.reg = s.reg ∧ t.ti = s.ti ∧ t.pu = s.pu) ∧
    (∀ (path : BcsPath) (input : Bytes) (s : State),
      bcsOpen path 0xC007 s = true →
      (input.length = 1 ∧ 1 ≤ fld 0 1 input ∧ fld 0 1 input ≤ 3) →
      (s.pair.chairHere = true ∧ s.pair.stopped = false ∧ s.pair.move = none) →
      ∃ t, exec (.setStandbyChecks path input) s = .next t ∧ t.pu.metaWaits.getLast?.map (·.items) = some [pairItem { s.pair.record with checkMode := fld 0 1 input }] ∧ t.pu.metaWaits.length = s.pu.metaWaits.length + 1 ∧
        t.pair.record = s.pair.record ∧ t.reg = s.reg ∧ t.ti = s.ti ∧ t.out = s.out) ∧
    (∀ (path : BcsPath) (input : Bytes) (s : State),
      bcsOpen path 0xC00A s = true →
      (input.length = 24 ∧ (fld 0 1 input = 0xFF ∨ mhas (fld 0 1 input) s.net.ports = true)) →
      (zeroAt 1 3 input = true ∧ zeroAt 22 2 input = true) →
      ∃ t, exec (.setWitnessPath path input) s = .next t ∧ t.pair.witness = (if fld 0 1 input = 0xFF then none else some ⟨fld 0 1 input, slice 4 16 input, fld 20 2 input⟩) ∧
        t.pu.metaWaits.getLast?.map (·.items) = some [pairItem { s.pair.record with witness := decide (fld 0 1 input ≠ 0xFF) }] ∧ t.reg = s.reg ∧ t.ti = s.ti ∧ t.out = s.out) ∧
    (∀ (path : BcsPath) (input : Bytes) (s : State),
      bcsOpen path 0xC005 s = true →
      (input.length = 0 ∧ isPaired s = true ∧ s.pair.chairHere = true ∧ s.pair.stopped = false ∧ s.pair.move = none ∧ s.pair.moveQueue = [] ∧ linkUp s = true) →
      ∃ t, exec (.moveChair path input) s = .next t ∧ t.pair.move = some { region := 0, target := otherPosition s, boundary := s.tb.beat + 1, cause := 1, path := some path } ∧ t.pair.chairHere = true ∧
        t.out = s.out ∧ t.reg = s.reg ∧ t.ti = s.ti ∧ t.pu = s.pu) ∧
    (∀ (path : BcsPath) (input : Bytes) (r : Nat) (d : Region) (s : State),
      bcsOpen path 0xC004 s = true →
      (input.length = 3 ∧ fld 0 2 input = r ∧ fld 2 1 input = otherPosition s ∧ r ≠ 0xFFFF) →
      (s.reg.table = [(r, d)] ∧ d.mirrored = true ∧ d.seat = s.ident.controllerId ∧ s.ident.controllerId ≠ partnerId s ∧ s.pair.position ≤ 1 ∧ otherCopyState r s = .current) →
      (isPaired s = true ∧ s.pair.chairHere = true ∧ s.pair.stopped = false ∧ s.pair.move = none ∧ s.pair.moveQueue = []) →
      ∃ t, exec (.moveSeat path input) s = .next t ∧ t.pair.move = some { region := r, target := otherPosition s, boundary := s.tb.beat + 1, cause := 1, path := some path } ∧
        t.out = s.out ∧ t.reg = s.reg ∧ t.ti = s.ti ∧ t.pu = s.pu) ∧
    (∀ (path : BcsPath) (input : Bytes) (s : State),
      bcsOpen path 0xC004 s = true →
      (input.length = 3 ∧ fld 0 2 input = 0xFFFF ∧ fld 2 1 input ≤ 1) →
      (isPaired s = true ∧ s.pair.chairHere = true ∧ s.pair.stopped = false ∧ s.pair.move = none ∧ s.reg.table = []) →
      ∃ t, exec (.moveSeat path input) s = .next t ∧ answered path 0xC004 0 (le 2 0) t ∧ t.pair.record = s.pair.record ∧ t.pair.mirror = s.pair.mirror ∧ t.reg = s.reg ∧ t.ti = s.ti ∧ t.pu = s.pu) ∧
    (∀ (path : BcsPath) (input : Bytes) (s : State),
      bcsOpen path 0xC002 s = true →
      (input.length = 1 ∧ fld 0 1 input = 1) →
      (isPaired s = true ∧ s.pair.chairHere = true ∧ s.pair.stopped = false ∧ s.pair.move = none ∧ s.reg.table = [] ∧ s.trust.keys = [] ∧ linkUp s = false) →
      ∃ t, exec (.dissolvePair path input) s = .next t ∧ t.pu.metaWaits.getLast?.map (·.items) = some [pairItem { s.pair.record with pairId := 0, retired := setInsert (partnerId s) s.pair.record.retired }, .keySlot 4096 1 0 0 []] ∧
        t.pair = s.pair ∧ t.out = s.out ∧ t.reg = s.reg ∧ t.ti = s.ti) ∧
    (∀ (path : BcsPath) (input : Bytes) (r : Nat) (d : Region) (s : State),
      bcsOpen path 0xC009 s = true →
      (input.length = 3 ∧ fld 0 2 input = r ∧ fld 2 1 input = 1) →
      (regionOf r s = some d ∧ d.mirrored = true ∧ d.state = .offline) →
      ∃ t, exec (.forceSeat path input) s = .next t ∧ (t.pu.metaWaits.getLast?.bind (·.items.head?)) = some (.mirrorState r (myPosition s) 1 ((ownCopy r s).gen + 1) 0) ∧
        t.pair = s.pair ∧ t.reg = s.reg ∧ t.ti = s.ti ∧ t.out = s.out)

/-- A trained link opens a session: the own nonce goes out, both batch counters start at 0 with the first credits, and event 0x0503 is recorded. The first failed lane leaves the half without it in use, with event 0x0505. A good batch with the next number is acknowledged and counted, and one already received is acknowledged again; a NAK of a kept batch sends it and every later one again; an ACK forgets what has arrived. HELLO from the board that this controller is armed for starts a formation as the joining side and answers with HELLO; the encapsulation key and the ciphertext are verified against the partner's key: a signature that fails ends the formation with event 0x0502, and one that holds leads to the pair record being journaled. -/
def Obligations.LinkSessionsBatchesAndFormation : Prop :=
    (∀ (nonce : Bytes) (s : State),
      (linkUp s = false ∧ s.seq.state = .up ∧ eventRoom s = true) →
      ∃ t, exec (.mplLinkInService nonce) s = .next t ∧ linkUp t = true ∧ t.pair.link.sessions = s.pair.link.sessions + 1 ∧ t.pair.link.txBatch = 0 ∧ t.pair.link.rxBatch = 0 ∧ t.pair.link.credits = firstCredits ∧
        t.out = Output.mplInit (freeBytes 16 s) :: s.out ∧ t.freeCtr = s.freeCtr + 1 ∧ recorded 0x0503 t ∧ t.pair.record = s.pair.record ∧ t.reg = s.reg ∧ t.ti = s.ti ∧ t.pu = s.pu) ∧
    (∀ (lane : Nat) (s : State),
      (lane < 8 ∧ s.pair.link.state = .up8 ∧ s.pair.link.failedLanes = [] ∧ eventRoom s = true) →
      ∃ t, exec (.laneFault lane true) s = .next t ∧ t.pair.link.state = .up4 (decide (lane < 4)) ∧ t.pair.link.failedLanes = [lane] ∧ recorded 0x0505 t ∧ t.pair.record = s.pair.record ∧ t.out = s.out ∧ t.reg = s.reg ∧ t.ti = s.ti ∧ t.pu = s.pu) ∧
    (∀ (lane : Nat) (s : State),
      (lane < 8 ∧ (((mgetD [] lane s.pair.link.laneErrors).filter fun b => decide (s.tb.beat < b + 2 ^ 21)).length < 16)) →
      ∃ t, exec (.laneFault lane false) s = .next t ∧ t = modLink (fun l => { l with laneErrors := mput lane (((mgetD [] lane s.pair.link.laneErrors).filter fun b => decide (s.tb.beat < b + 2 ^ 21)) ++ [s.tb.beat]) l.laneErrors }) s) ∧
    (∀ (number : Nat) (flits : List Bytes) (s : State),
      (linkUp s = true ∧ number = s.pair.link.rxBatch) →
      batchGood (keyOf (1 - s.pair.position) s.pair.link) (partnerId s) number flits = true →
      (∀ f ∈ flits, headerBits 3 0 f ≠ 3) →
      ∃ t, exec (.batchReceive number flits) s = .next t ∧ t.pair.link.rxBatch = number + 1 ∧ t.pair.link.lastGood = some number ∧ t.pair.link.ackOwed = some number ∧ t.pair.link.queue = s.pair.link.queue ∧
        t.pair.record = s.pair.record ∧ t.out = s.out ∧ t.reg = s.reg ∧ t.ti = s.ti ∧ t.pu = s.pu) ∧
    (∀ (number : Nat) (flits : List Bytes) (s : State),
      (linkUp s = true ∧ number < s.pair.link.rxBatch) →
      ∃ t, exec (.batchReceive number flits) s = .next t ∧ t = modLink (fun l => { l with ackOwed := l.lastGood }) s) ∧
    (∀ (number : Nat) (s : State),
      ∃ t, exec (.batchAck number) s = .next t ∧ (∀ e ∈ t.pair.link.kept, e ∈ s.pair.link.kept ∧ number < e.1) ∧ (∀ e ∈ s.pair.link.kept, number < e.1 → e ∈ t.pair.link.kept) ∧ t.pair.record = s.pair.record ∧ t.out = s.out ∧ t.reg = s.reg ∧ t.ti = s.ti ∧ t.pu = s.pu) ∧
    (∀ (number : Nat) (b : List Bytes) (s : State),
      (linkUp s = true ∧ s.pair.link.kept = [(number, b)] ∧ s.pair.link.nakCounts = [] ∧ s.pair.link.resentBeats = []) →
      ∃ t, exec (.batchNak number) s = .next t ∧ t.pair.link.resend = [number] ∧ t.pair.link.resentTotal = s.pair.link.resentTotal + 1 ∧ t.pair.link.kept = s.pair.link.kept ∧ linkUp t = true ∧ t.out = s.out ∧ t.reg = s.reg ∧ t.ti = s.ti ∧ t.pu = s.pu) ∧
    (∀ (message : Bytes) (a : Arming) (s : State),
      (message.length = 112 ∧ fld 0 1 message = 1 ∧ fld 6 1 message = 2) →
      (s.pair.formation = none ∧ isPaired s = false ∧ s.reg.table = [] ∧ s.pair.arming = some a) →
      (a.hash = shake256 32 (slice 12 68 message) ∧ s.tb.beat < a.expiry) →
      (fld 4 1 message = (if s.ident.h96 then 0 else 1) ∧ fld 2 2 message ≠ s.ident.controllerId) →
      ∃ t, exec (.hello message) s = .next t ∧ t.pair.formation.map (fun f => (f.role, f.step, f.position, f.partnerId)) = some (.joiner, 2, 1, fld 2 2 message) ∧ t.pair.arming = none ∧
        t.out = Output.mplInit (helloBytes 0 (fld 5 1 message) 0 (freeBytes 32 s) s) :: s.out ∧ t.freeCtr = s.freeCtr + 1 ∧ t.pair.record = s.pair.record ∧ t.reg = s.reg ∧ t.ti = s.ti ∧ t.pu = s.pu) ∧
    (∀ (message : Bytes) (f : Formation) (s : State),
      (s.pair.formation = some f ∧ f.position = 1 ∧ f.step = 2 ∧ fld 0 1 message = 2 ∧ eventRoom s = true) →
      canSign s = true →
      ∃ t, exec (.encapsulationKey message) s = .next t ∧ (Config.verify f.partnerKey (transcriptHash f) (splitSigned message).2 = false → t.pair.formation = none ∧ recorded 0x0502 t ∧ t.pu = s.pu) ∧
        (Config.verify f.partnerKey (transcriptHash f) (splitSigned message).2 = true → t.pair.formation.map (·.step) = some 6 ∧ t.pu.metaWaits.length = s.pu.metaWaits.length + 1) ∧
        t.pair.record = s.pair.record ∧ t.reg = s.reg ∧ t.ti = s.ti) ∧
    (∀ (message : Bytes) (f : Formation) (s : State),
      (s.pair.formation = some f ∧ f.position = 0 ∧ f.step = 3 ∧ fld 0 1 message = 3 ∧ eventRoom s = true) →
      ∃ t, exec (.kemCiphertext message) s = .next t ∧ (Config.verify f.partnerKey (transcriptHash f) (splitSigned message).2 = false → t.pair.formation = none ∧ recorded 0x0502 t ∧ t.pu = s.pu) ∧
        (Config.verify f.partnerKey (transcriptHash f) (splitSigned message).2 = true → t.pair.formation.map (·.step) = some 6 ∧ t.pu.metaWaits.length = s.pu.metaWaits.length + 1 ∧ t.out = s.out) ∧
        t.pair.record = s.pair.record ∧ t.reg = s.reg ∧ t.ti = s.ti)

/-- A heartbeat is echoed, or answered with TAKEN while a takeover runs. An echo extends the lease to h + 4,096 and lets a stopped holder act again. TAKEN makes every mirrored region and the chair the partner's. A valid witness datagram is noted. At h + 3,584 the holder stops. At r + 4,608 without the link a dead partner is taken over, the items being journaled in this chest; the completion of that record ends the switch-over with event 0x0507. The bound of a wait for the chair fails the held commands with Retry Required. A seat move whose LEASE item is complete is over, with event 0x0508 or 0x0509. The role swap begins with the chair. Self-tests, and the compares of both sides, are counted. -/
def Obligations.HeartbeatsLeasesAndSwitchOver : Prop :=
    (∀ (h ce le : Nat) (s : State),
      (isPaired s = true ∧ linkUp s = true ∧ s.pair.takeover = false ∧ s.pair.takeoverDone = false) →
      ∃ t, exec (.heartbeat h ce le) s = .next t ∧ t.pair.link.queue = s.pair.link.queue ++ [msgEcho h] ∧ t.pair.heard = some s.tb.beat ∧ t.pair.partnerLost = false ∧ t.pair.record = s.pair.record ∧ t.out = s.out ∧ t.reg = s.reg ∧ t.ti = s.ti ∧ t.pu = s.pu) ∧
    (∀ (h ce le : Nat) (s : State),
      (isPaired s = true ∧ linkUp s = true ∧ s.pair.takeover = true) →
      ∃ t, exec (.heartbeat h ce le) s = .next t ∧ t.pair.link.queue = s.pair.link.queue ++ [msgTaken s.pair.chairEpoch] ∧ t.pair.heard = s.pair.heard ∧ t.out = s.out ∧ t.reg = s.reg ∧ t.ti = s.ti ∧ t.pu = s.pu) ∧
    (∀ (h : Nat) (s : State),
      (isPaired s = true ∧ (s.pair.hEcho.all fun e => decide (e < h)) = true ∧ h ≤ s.tb.beat ∧ s.pair.held = [] ∧ s.pair.heldBcs = []) →
      ∃ t, exec (.heartbeatEcho h) s = .next t ∧ t.pair.hEcho = some h ∧ t.pair.stopped = (s.pair.stopped && decide (h + 3584 ≤ s.tb.beat)) ∧ t.pair.record = s.pair.record ∧ t.out = s.out ∧ t.reg = s.reg ∧ t.ti = s.ti ∧ t.pu = s.pu) ∧
    (∀ (epoch r : Nat) (d : Region) (s : State),
      (isPaired s = true ∧ s.reg.table = [(r, d)] ∧ d.mirrored = true ∧ d.seat = s.ident.controllerId ∧ s.pu.units = [] ∧ s.pair.held = [] ∧ s.pair.heldBcs = []) →
      ∃ t, exec (.taken epoch) s = .next t ∧ t.pair.chairHere = false ∧ t.pair.chairEpoch = epoch ∧ t.pair.stopped = false ∧ (regionOf r t).map (·.seat) = some (partnerId s) ∧ (ownCopy r t).state = .stale ∧ t.out = s.out) ∧
    (∀ (port : Nat) (head : Bytes) (w : WitnessPath) (s : State),
      (s.pair.witness = some w ∧ port = w.port ∧ isPaired s = true ∧ head.length = 48) →
      (fld 0 8 head = s.pair.record.pairId ∧ fld 8 2 head = partnerId s) →
      (gcmTag (shake256 32 (kPair s ++ ascii "WIT")) (be 4 (fld 8 2 head) ++ be 8 (fld 12 8 head)) head []).length = 16 →
      ∃ t, exec (.witnessHeartbeat port (head ++ gcmTag (shake256 32 (kPair s ++ ascii "WIT")) (be 4 (fld 8 2 head) ++ be 8 (fld 12 8 head)) head [])) s = .next t ∧ t = modPair (fun p => { p with witnessBeat := some s.tb.beat }) s) ∧
    (∀ (h : Nat) (s : State),
      (s.pair.hEcho = some h ∧ isPaired s = true ∧ h + 3584 ≤ s.tb.beat ∧ s.pair.stopped = false ∧ s.pair.takeover = false ∧ s.pair.takeoverDone = false ∧ (linkUp s || s.pair.chairHere) = true) →
      ∃ t, exec (.leaseStopPoint) s = .next t ∧ t = modPair (fun p => { p with stopped := true }) s) ∧
    (∀ (r : Nat) (s : State),
      (s.pair.heard = some r ∧ isPaired s = true ∧ linkUp s = false ∧ r + 4608 ≤ s.tb.beat ∧ s.pair.takeover = false ∧ s.pair.takeoverDone = false ∧ partnerAlive s = false ∧ s.pu.units = []) →
      ∃ t, exec (.takeoverDeadline) s = .next t ∧ t.pair.takeover = true ∧ t.pair.takeoverDone = false ∧ t.pair.partnerLost = true ∧ t.pu.metaWaits.getLast?.map (·.items) = some (takeoverItems s) ∧ t.out = s.out ∧ t.reg = s.reg ∧ t.ti = s.ti) ∧
    (∀ (s : State),
      (s.pair.takeover = true ∧ s.pair.takeoverDone = true ∧ s.pair.partnerLost = false ∧ s.pair.held = [] ∧ s.pair.heldBcs = [] ∧ eventRoom s = true) →
      ∃ t, exec (.switchOverComplete) s = .next t ∧ t.pair.takeover = false ∧ t.pair.unavailable = partnerSingles s ∧ recorded 0x0507 t ∧ t.pair.record = s.pair.record ∧ t.out = s.out ∧ t.reg = s.reg ∧ t.ti = s.ti ∧ t.pu = s.pu) ∧
    (∀ (h : HeldBcs) (s : State),
      (isPaired s = true ∧ s.pair.chairHere = false ∧ linkUp s = false ∧ chairBoundPassed s = true ∧ s.mc.serving = true ∧ s.pair.heldBcs = [h]) →
      ∃ t, exec (.switchOverBound) s = .next t ∧ answered h.path h.opcode 0x0005 [] t ∧ t.pair.heldBcs = [] ∧ t.pair.record = s.pair.record ∧ t.reg = s.reg ∧ t.ti = s.ti ∧ t.pu = s.pu) ∧
    (∀ (region : Nat) (m : Move) (d : Region) (s : State),
      (s.pair.move = some m ∧ m.region = region ∧ region ≠ 0 ∧ m.phase = 2 ∧ m.path = none ∧ s.pair.moveQueue = [] ∧ s.pair.held = [] ∧ eventRoom s = true) →
      (regionOf region s = some d ∧ d.roReasons.getLsbD 2 = false) →
      ∃ t, exec (.seatMoveComplete region) s = .next t ∧ t.pair.move = none ∧ recorded 0x0508 t ∧ t.pair.record = s.pair.record ∧ t.out = s.out ∧ t.reg = s.reg ∧ t.ti = s.ti ∧ t.pu = s.pu) ∧
    (∀ (path : BcsPath) (m : Move) (s : State),
      (s.pair.move = some m ∧ m.region = 0 ∧ m.phase = 2 ∧ m.path = some path ∧ s.pair.moveQueue = [] ∧ s.pair.held = [] ∧ s.pair.heldBcs = [] ∧ eventRoom s = true) →
      ∃ t, exec (.seatMoveComplete 0) s = .next t ∧ t.pair.move = none ∧ recorded 0x0509 t ∧ answered path 0xC005 0 (le 4 s.pair.chairEpoch) t ∧ t.pair.record = s.pair.record ∧ t.reg = s.reg ∧ t.ti = s.ti ∧ t.pu = s.pu) ∧
    (∀ (s : State),
      (isPaired s = true ∧ s.pair.chairHere = true ∧ linkUp s = true ∧ 2 ≤ s.pair.record.checkMode ∧ s.pair.record.checkMode ≤ 3 ∧ s.pair.swapSuspended = false ∧ s.mc.activation = none) →
      (s.pair.lastSwap + param 0x0504 2514 s * 2 ^ 26 ≤ s.tb.beat ∧ s.reg.table = [] ∧ s.pair.move = none ∧ s.pair.moveQueue = []) →
      ∃ t, exec (.roleSwap) s = .next t ∧ t.pair.move = some { region := 0, target := otherPosition s, boundary := s.tb.beat + 1, cause := 4, path := none } ∧ t.pair.lastSwap = s.tb.beat ∧ t.pair.record = s.pair.record ∧ t.out = s.out ∧ t.reg = s.reg ∧ t.ti = s.ti ∧ t.pu = s.pu) ∧
    (∀ (test detail : Nat) (s : State),
      (testsRun s = true ∧ 1 ≤ test ∧ test ≤ 4) →
      ∃ t, exec (.standbySelfTest test detail true) s = .next t ∧ t = countCheck test true s) ∧
    (∀ (detail : Nat) (s : State),
      (testsRun s = true ∧ eventRoom s = true) →
      ∃ t, exec (.standbySelfTest 4 detail false) s = .next t ∧ t.pair.checks = (countCheck 4 false s).pair.checks ∧ recorded 0x0511 t ∧ t.pair.record = s.pair.record ∧ t.out = s.out ∧ t.reg = s.reg ∧ t.ti = s.ti ∧ t.pu = s.pu) ∧
    (∀ (r off : Nat) (d : Region) (s : State),
      (testsRun s = true ∧ isPaired s = true ∧ linkUp s = true ∧ s.pair.compareBeat + param 0x0503 256 s ≤ s.tb.beat) →
      (compareNext s = some (r, off) ∧ allPlaced r s = true ∧ regionOf r s = some d ∧ d.seat ≠ s.ident.controllerId) →
      ∃ t, exec (.mirrorCompare) s = .next t ∧ t.pair.link.queue = s.pair.link.queue ++ [{ vc := 3, opcode := 0x33, region := r, operand := off, body := le 8 (crc64 (readZeroed r off 65536 s)).toNat }] ∧
        t.pair.compareRegion = r ∧ t.pair.compareOffset = off + 65536 ∧ t.pair.compareBeat = s.tb.beat ∧ t.pair.record = s.pair.record ∧ t.out = s.out ∧ t.reg = s.reg ∧ t.ti = s.ti ∧ t.pu = s.pu) ∧
    (∀ (r off : Nat) (crc : BitVec 64) (d : Region) (s : State),
      (regionOf r s = some d ∧ isPaired s = true ∧ d.mirrored = true ∧ d.seat = s.ident.controllerId) →
      ∃ t, exec (.mplCompare r off crc) s = .next t ∧ t.pair.checks = (countCheck 0 (decide (crc64 (readZeroed r off 65536 s) = crc)) s).pair.checks ∧ t.pair.record = s.pair.record ∧ t.out = s.out ∧ t.reg = s.reg ∧ t.ti = s.ti ∧ t.pu = s.pu)

/-- The mirror holder takes a mirrored write as a unit of its mirror floor, which it accepts when it is admitted. An acceptance gives the staged unit its place in the order of acceptance, an abort frees the copy, a seal notice waits for the boundary, MIRROR_DONE raises the record mark. META_COPY is journaled here and META_DONE releases what waited for it. A resync chunk moves the receiver on; its mark is journaled; the end of the resync makes the copies CURRENT with event 0x050D. A join ends the stop of the lease and starts the resync of a STALE partner copy; a region whose wait ends is reported with 0x050F. A forwarded access is served and answered, and an answer reaches whoever waits, once. -/
def Obligations.MirrorMetaResyncAndForwarding : Prop :=
    (∀ (region msn : Nat) (lines : List LineWrite) (d : Region) (s : State),
      (regionOf region s = some d ∧ isPaired s = true ∧ linkUp s = true ∧ d.mirrored = true ∧ d.seat ≠ s.ident.controllerId ∧ s.pair.takeover = false ∧ lines ≠ [] ∧ region ≠ s.cxl.bureau ∧ s.pu.units = []) →
      ∃ t, exec (.mirrorWrite region msn false lines) s = .next t ∧ (unitOf s.pu.nextUnit t).map (fun u => (u.src, u.cls, u.region)) = some (.mirror msn, .mirrorCopy, region) ∧
        (unitOf s.pu.nextUnit t).map (·.lines) = some lines ∧ ((unitOf s.pu.nextUnit t).map (·.accepted) = some true → t.pair.link.queue = s.pair.link.queue ++ [msgAccept region msn]) ∧
        t.pair.record = s.pair.record ∧ t.out = s.out ∧ t.reg = s.reg ∧ t.ti = s.ti) ∧
    (∀ (region msn : Nat) (u : WUnit) (s : State),
      (s.pu.units = [u] ∧ u.region = region ∧ u.mirrored = true ∧ u.msn = msn ∧ u.phase = .staged ∧ u.accepted = false) →
      ∃ t, exec (.mirrorAccept region msn) s = .next t ∧ t.pu.units = [{ u with accepted := true, acceptNo := s.pu.nextAccept }] ∧ t.pu.nextAccept = s.pu.nextAccept + 1 ∧ t.pair = s.pair ∧ t.out = s.out ∧ t.reg = s.reg ∧ t.ti = s.ti) ∧
    (∀ (region msn : Nat) (u : WUnit) (s : State),
      (s.pu.units = [u] ∧ u.cls = .mirrorCopy ∧ u.region = region ∧ u.src = .mirror msn) →
      ∃ t, exec (.mirrorAbort region msn) s = .next t ∧ t.pu.units = [] ∧ t.pu.slots = s.pu.slots.filter (fun e => !u.slots.contains e.1) ∧ t.pair = s.pair ∧ t.out = s.out ∧ t.reg = s.reg ∧ t.ti = s.ti) ∧
    (∀ (region beat : Nat) (runs : List SealRun) (s : State),
      isPaired s = true →
      ∃ t, exec (.mirrorSeal region beat runs) s = .next t ∧ t = modPair (fun p => { p with seals := p.seals ++ [⟨region, beat, runs⟩] }) s) ∧
    (∀ (seq : Nat) (s : State),
      ∃ t, exec (.mirrorDone seq) s = .next t ∧ t = modPair (fun p => { p with doneOrigin := max s.pair.doneOrigin seq }) s) ∧
    (∀ (seq : Nat) (items : List MetaItem) (s : State),
      isPaired s = true →
      ∃ t, exec (.metaCopy seq items) s = .next t ∧ t.pu.metaWaits.getLast?.map (·.items) = some (items.filter copiedItem) ∧ t.pu.metaWaits.getLast?.map (·.acts) = some ((items.filter copiedItem).map MetaAct.item ++ [.metaDone seq]) ∧
        t.pair = s.pair ∧ t.out = s.out ∧ t.reg = s.reg ∧ t.ti = s.ti) ∧
    (∀ (path : BcsPath) (op seq rc : Nat) (out : Bytes) (w : MetaWait) (s : State),
      (s.pu.metaWaits = [w] ∧ w.seq = seq ∧ w.partnerDone = false ∧ w.localDone = true ∧ w.acts = [.answer path op rc out] ∧ s.mc.bg = []) →
      ∃ t, exec (.metaDone seq) s = .next t ∧ t.pu.metaWaits = [] ∧ answered path op rc out t ∧ t.pair.record = s.pair.record ∧ t.reg = s.reg ∧ t.ti = s.ti) ∧
    (∀ (r off src : Nat) (data : Bytes) (d : Region) (s : State),
      (regionOf r s = some d ∧ isPaired s = true ∧ d.seat ≠ s.ident.controllerId ∧ off % 65536 = 0 ∧ off + 65536 ≤ regionBytes d ∧ (ownCopy r s).state = .resyncing ∧ s.pair.resync = none) →
      ∃ t, exec (.resyncChunk r off src true data []) s = .next t ∧ t.pair.resync.map (fun x => (x.region, x.sender, x.offset)) = some (r, false, off + 65536) ∧ t.pair.record = s.pair.record ∧ t.out = s.out ∧ t.reg = s.reg) ∧
    (∀ (r : Nat) (x : Resync) (s : State),
      (s.pair.resync = some x ∧ x.region = r ∧ x.sender = false ∧ x.lastMark + 2 ^ 20 ≤ s.tb.beat) →
      ∃ t, exec (.resyncMark r) s = .next t ∧ t.pu.metaWaits.getLast?.map (·.items) = some [ownStateItem r (ownCopy r s).state (ownCopy r s).gen (safeMark r x.offset s) s] ∧ t.pair.resync = some { x with lastMark := s.tb.beat } ∧ t.out = s.out ∧ t.reg = s.reg ∧ t.ti = s.ti) ∧
    (∀ (r : Nat) (x : Resync) (d : Region) (s : State),
      (s.pair.resync = some x ∧ x.region = r ∧ x.sender = true ∧ regionOf r s = some d ∧ nextChunk x (regionBytes d) = none ∧ s.pair.resyncWaiting = [] ∧ eventRoom s = true) →
      ∃ t, exec (.resyncComplete r) s = .next t ∧ t.pair.resync = none ∧ otherCopyState r t = .current ∧ recorded 0x050D t ∧ t.pair.record = s.pair.record ∧ t.out = s.out ∧ t.reg = s.reg ∧ t.ti = s.ti ∧ t.pu = s.pu) ∧
    (∀ (v : JoinView) (d : Region) (s : State),
      (isPaired s = true ∧ linkUp s = true ∧ s.pair.record.mode = 0 ∧ s.cxl.bureauLost = false ∧ s.pair.held = [] ∧ s.pair.resyncWaiting = [] ∧ s.pair.resync = none) →
      (regionOf v.region s = some d ∧ d.mirrored = true ∧ d.state = .online ∧ (ownCopy v.region s).state = .current ∧ v.state = 2 ∧ v.gen ≤ (ownCopy v.region s).gen) →
      ∃ t, exec (.pairJoin [v]) s = .next t ∧ t.pair.resync.map (fun x => (x.region, x.sender, x.beat)) = some (v.region, true, s.tb.beat) ∧ t.pair.stopped = false ∧ t.pair.unavailable = [] ∧ t.pair.hEcho = some s.tb.beat ∧ otherCopyState v.region t = .stale ∧
        t.pair.record = s.pair.record ∧ t.out = s.out ∧ t.reg = s.reg ∧ t.ti = s.ti ∧ t.pu = s.pu) ∧
    (∀ (r b : Nat) (s : State),
      (mget r s.pair.joinWait = some b ∧ b ≤ s.tb.beat ∧ eventRoom s = true) →
      ∃ t, exec (.joinWaitTimeout r) s = .next t ∧ mget r t.pair.joinWait = none ∧ recorded 0x050F t ∧ t.pair.record = s.pair.record ∧ t.out = s.out ∧ t.reg = s.reg ∧ t.ti = s.ti ∧ t.pu = s.pu) ∧
    (∀ (mtag r off : Nat) (op : FwdOp) (s : State),
      (isPaired s = true ∧ linkUp s = true ∧ regionOf r s = none) →
      ∃ t, exec (.fwdRequest mtag r off op) s = .next t ∧ t.pair.link.queue = s.pair.link.queue ++ [{ vc := 3, opcode := 0x30, mtag := mtag, operand := 0x0002 }] ∧ t.pair.record = s.pair.record ∧ t.out = s.out ∧ t.reg = s.reg ∧ t.ti = s.ti ∧ t.pu = s.pu) ∧
    (∀ (mtag r off n : Nat) (d : Region) (s : State),
      (isPaired s = true ∧ regionOf r s = some d ∧ d.state ≠ .offline ∧ inRegion d off n = true ∧ rangeChunks r off n s = []) →
      ∃ t, exec (.fwdRequest mtag r off (.drain n)) s = .next t ∧ t.pair.drains = s.pair.drains ++ [⟨mtag, r, off, n, s.pu.nextAck, [], 0⟩] ∧ t.pair.record = s.pair.record ∧ t.out = s.out ∧ t.reg = s.reg ∧ t.pu = s.pu) ∧
    (∀ (mtag r off : Nat) (lines : List LineWrite) (d : Region) (s : State),
      (isPaired s = true ∧ linkUp s = true ∧ regionOf r s = some d ∧ plainHere r s = true ∧ route r off s = .here ∧ d.state ≠ .offline ∧ inRegion d off (64 * lines.length) = true ∧ lines ≠ []) →
      (removedFrom r off (64 * lines.length) s = false ∧ writeRefused r d off (64 * lines.length) s = false) →
      ∃ t, exec (.fwdRequest mtag r off (.write lines)) s = .next t ∧ t.pu.units = s.pu.units ++ [{ newUnit (.forwarded mtag) .general r lines s with id := s.pu.nextUnit }] ∧ t.pair = s.pair ∧ t.out = s.out ∧ t.reg = s.reg ∧ t.ti = s.ti) ∧
    (∀ (mtag : Nat) (input : Bytes) (s : State),
      (isPaired s = true ∧ bcsOpen (.forwarded mtag true) 0xC001 s = true ∧ input.length = 32) →
      ∃ t, exec (.fwdBcs mtag 0xC001 true input) s = .next t ∧ answered (.forwarded mtag true) 0xC001 0 [] t ∧ t.pair.arming = some ⟨input, s.tb.beat + 2 ^ 30⟩ ∧ t.reg = s.reg ∧ t.ti = s.ti ∧ t.pu = s.pu) ∧
    (∀ (mtag head tag r line : Nat) (data : Bytes) (s : State),
      (mget mtag s.pair.fwd = some (.cxlRead head tag r line) ∧ servesMem head s = true) →
      ∃ t, exec (.fwdResponse mtag 0 [] data) s = .next t ∧ t.out = Output.cxlData head tag (lineOf data) false (headLoad head s) :: s.out ∧ mget mtag t.pair.fwd = none ∧ t.pair.record = s.pair.record ∧ t.reg = s.reg ∧ t.ti = s.ti ∧ t.pu = s.pu) ∧
    (∀ (path : BcsPath) (mtag op rc : Nat) (output : Bytes) (s : State),
      (mget mtag s.pair.fwd = some (.bcs path op) ∧ s.mc.bg = []) →
      ∃ t, exec (.bcsResponse mtag rc output) s = .next t ∧ answered path op rc output t ∧ mget mtag t.pair.fwd = none ∧ t.pair.record = s.pair.record ∧ t.reg = s.reg ∧ t.ti = s.ti ∧ t.pu = s.pu)

/-- When VSTBY and CLK25_IN return the supervisor leaves its reset with the option area loaded and a power-up wanted. A power-up starts with rail 0; a debounced rail sets its power-good and starts the gap, after rail 11 the state UP; the gap's end drives the next enable. A step that times out takes its rail low and goes on down as a retry; after the wait the next attempt begins. A rail that is low after its enable ends its down step; one still high at the timeout has failed; a rail that falls early has failed. Loss of power-good in UP starts the drain. Get Sequencer Status answers the state; Clear Lockout leaves LOCKOUT with a power-up wanted. -/
def Obligations.SequencerRailsUpAndDown : Prop :=
    (∀ (s : State),
      (s.seq.vstby = false ∧ s.seq.state ≠ .lockout) →
      ∃ t, exec (.vstbyApplied) s = .next t ∧ t.seq.vstby = true ∧ t.seq.clk25 = true ∧ t.seq.state = .off ∧ t.seq.wanted = true ∧ t.seq.en = 0 ∧ t.seq.lockouts = loggedLockouts s ∧ t.pwr.padHeld = 0b1111111111#10 ∧ t.ti.cab = s.ti.cab ∧ t.pu.chest = s.pu.chest ∧ t.reg = s.reg) ∧
    (∀ (s : State),
      mayRise s = true →
      ∃ t, exec (.powerUpStart) s = .next t ∧ t.seq.state = .rising ∧ t.seq.step = 0 ∧ t.seq.en = (s.seq.en ||| 1#12) ∧ t.seq.debounced = 0 ∧ t.out = Output.rail 0 true :: s.out ∧ t.ti = s.ti ∧ t.pu = s.pu ∧ t.reg = s.reg) ∧
    (∀ (rail : Nat) (s : State),
      (s.seq.state = .rising ∧ s.seq.step = rail ∧ s.seq.gap = false ∧ rail < 11) →
      ∃ t, exec (.railDebounceComplete rail) s = .next t ∧ t.seq = { s.seq with pg := s.seq.pg ||| BitVec.ofNat 12 (2 ^ rail), debounced := s.seq.debounced ||| BitVec.ofNat 12 (2 ^ rail), gap := true } ∧ t.out = s.out ∧ t.ti = s.ti ∧ t.pu = s.pu ∧ t.reg = s.reg) ∧
    (∀ (s : State),
      (s.seq.state = .rising ∧ s.seq.step = 11 ∧ s.seq.gap = false ∧ s.seq.coldPending = false) →
      ∃ t, exec (.railDebounceComplete 11) s = .next t ∧ t.seq.state = .up ∧ t.seq.attempt = 1 ∧ t.seq.pg = (s.seq.pg ||| 0x800#12) ∧ t.out = s.out ∧ t.ti = s.ti ∧ t.pu = s.pu ∧ t.reg = s.reg) ∧
    (∀ (s : State),
      (s.seq.state = .rising ∧ s.seq.gap = true ∧ s.seq.step < 11) →
      ∃ t, exec (.stepGapEnd) s = .next t ∧ t.seq = { s.seq with en := s.seq.en ||| BitVec.ofNat 12 (2 ^ (s.seq.step + 1)), step := s.seq.step + 1, gap := false } ∧ t.out = Output.rail (s.seq.step + 1) true :: s.out ∧ t.ti = s.ti ∧ t.pu = s.pu ∧ t.reg = s.reg) ∧
    (∀ (micros low : Nat) (s : State),
      (s.seq.state = .rising ∧ s.seq.gap = false ∧ s.seq.step ≠ 1 ∧ s.seq.en.getLsbD s.seq.step = true) →
      ∃ t, exec (.stepTimeout micros low) s = .next t ∧ t.seq.state = .falling ∧ t.seq.downCause = .retry ∧ t.seq.failRail = s.seq.step ∧ t.seq.failMicros = micros ∧ t.seq.failLow = low ∧
        t.seq.en = (s.seq.en &&& ~~~ BitVec.ofNat 12 (2 ^ s.seq.step)) ∧ t.out = Output.rail s.seq.step false :: s.out ∧ t.ti = s.ti ∧ t.pu = s.pu ∧ t.reg = s.reg) ∧
    (∀ (s : State),
      (s.seq.state = .retryWait ∧ s.seq.vstby = true ∧ s.seq.clk25 = true ∧ s.seq.resetLow = false ∧ s.seq.waitInput = false ∧ s.seq.standby = .none) →
      ∃ t, exec (.retryWaitEnd) s = .next t ∧ t.seq.state = .rising ∧ t.seq.attempt = s.seq.attempt + 1 ∧ t.seq.step = 0 ∧ t.out = Output.rail 0 true :: s.out ∧ t.ti = s.ti ∧ t.pu = s.pu ∧ t.reg = s.reg) ∧
    (∀ (rail k : Nat) (s : State),
      (s.seq.state = .falling ∧ s.seq.step = rail ∧ rail < 12 ∧ s.seq.en.getLsbD rail = false ∧ enabledBelow s.seq.en rail = some k ∧ k ≠ 1) →
      ∃ t, exec (.railLow rail) s = .next t ∧ t.seq.state = .falling ∧ t.seq.step = k ∧ t.seq.en = (s.seq.en &&& ~~~ BitVec.ofNat 12 (2 ^ k)) ∧ t.seq.pg = (s.seq.pg &&& ~~~ BitVec.ofNat 12 (2 ^ rail)) ∧
        t.out = Output.rail k false :: s.out ∧ t.ti = s.ti ∧ t.pu = s.pu ∧ t.reg = s.reg) ∧
    (∀ (s : State),
      (s.seq.state = .falling ∧ s.seq.step = 0 ∧ s.seq.en = 0 ∧ s.seq.downCause = .commanded) →
      ∃ t, exec (.railLow 0) s = .next t ∧ t.seq.state = .off ∧ t.seq.wanted = s.seq.riseAgain ∧ t.seq.riseAgain = false ∧ t.out = s.out ∧ t.ti = s.ti ∧ t.pu = s.pu ∧ t.reg = s.reg) ∧
    (∀ (rail k : Nat) (s : State),
      (s.seq.state = .falling ∧ s.seq.step = rail ∧ rail < 12 ∧ s.seq.en.getLsbD rail = false ∧ enabledBelow s.seq.en rail = some k ∧ k ≠ 1) →
      ∃ t, exec (.fallTimeout rail) s = .next t ∧ t.seq.state = .falling ∧ t.seq.step = k ∧ t.seq.downFail = (s.seq.downFail ||| BitVec.ofNat 12 (2 ^ rail)) ∧ t.out = Output.rail k false :: s.out ∧ t.ti = s.ti ∧ t.pu = s.pu ∧ t.reg = s.reg) ∧
    (∀ (rail : Nat) (s : State),
      (rail < 12 ∧ s.seq.debounced.getLsbD rail = true ∧ s.seq.state = .up ∧ s.pu.drain = none) →
      ∃ t, exec (.powerGoodLoss rail) s = .next t ∧ t.seq.pgLost = true ∧ t.seq.downCause = .powerFail ∧ t.pu.drain.map (fun d => (d.t0, d.trigger)) = some (s.tb.beat, 1) ∧ t.seq.state = .up ∧ t.pu.chest = s.pu.chest ∧ t.ti = s.ti ∧ t.reg = s.reg ∧ t.tb = s.tb) ∧
    (∀ (input : Bytes) (s : State),
      input.length = 0 →
      ∃ t, exec (.getSequencerStatus .sideband input) s = .next t ∧ t.ti = s.ti ∧ t.pu = s.pu ∧ t.reg = s.reg ∧ t.seq = s.seq ∧
        answered .sideband 0xC080 0 (le 1 s.seq.state.code ++ le 1 s.seq.attempt ++ le 1 (if s.seq.failRail = 15 then 0xFF else s.seq.failRail) ++ zeros 1 ++ le 2 s.seq.en.toNat ++ le 2 s.seq.pg.toNat ++ le 4 s.seq.lockouts) t) ∧
    (∀ (input : Bytes) (s : State),
      (input.length = 0 ∧ s.seq.state = .lockout) →
      ∃ t, exec (.clearLockout .sideband input) s = .next t ∧ answered .sideband 0xC081 0 [] t ∧ t.seq = { s.seq with state := .off, attempt := 1, wanted := true } ∧ t.ti = s.ti ∧ t.pu = s.pu ∧ t.reg = s.reg)

/-- PFAIL#, a VIN_SENSE trip, loss of SYS_REFCLK, RESET# in UP and the Power Down command start the drain, each with its trigger and what follows the power-down; chest, shelf and regions stay as they were. When every record is written the drain ends with the DRAIN record and event 0x0208, and the highest rail is driven low. RESET# releases a power-up that waited; RESET#, WAKE# and the own SMBus address wake the controller from Device Standby; an input that has recovered lets a power-up start. Collapse of VSTBY and loss of CLK25_IN drive every enable low with no drain and lose what VCORE holds; the chest and the cabinet keep their contents. -/
def Obligations.DrainTriggersWakesAndTheSupervisor : Prop :=
    (∀ (s : State),
      (s.seq.state = .up ∧ s.pu.drain = none) →
      ∃ t, exec (.pfailNAssert) s = .next t ∧ t.pu.drain.map (fun d => (d.t0, d.trigger)) = some (s.tb.beat, 0) ∧ t.seq.downCause = .powerFail ∧ t.seq.inputOk = false ∧ t.seq.riseAgain = false ∧ t.seq.state = .up ∧ t.pu.chest = s.pu.chest ∧ t.ti = s.ti ∧ t.reg = s.reg ∧ t.tb = s.tb) ∧
    (∀ (s : State),
      (s.seq.state = .up ∧ s.pu.drain = none) →
      ∃ t, exec (.vinSenseTrip) s = .next t ∧ t.pu.drain.map (fun d => (d.t0, d.trigger)) = some (s.tb.beat, 1) ∧ t.seq.downCause = .powerFail ∧ t.seq.inputOk = false ∧ t.seq.state = .up ∧ t.pu.chest = s.pu.chest ∧ t.ti = s.ti ∧ t.reg = s.reg ∧ t.tb = s.tb) ∧
    (∀ (s : State),
      (s.seq.state = .up ∧ s.pu.drain = none) →
      ∃ t, exec (.sysRefclkLoss) s = .next t ∧ t.pu.drain.map (fun d => (d.t0, d.trigger)) = some (s.tb.beat, 1) ∧ t.seq.downCause = .powerFail ∧ t.seq.inputOk = s.seq.inputOk ∧ t.pu.chest = s.pu.chest ∧ t.ti = s.ti ∧ t.reg = s.reg ∧ t.tb = s.tb) ∧
    (∀ (s : State),
      (s.seq.state = .up ∧ s.pu.drain = none) →
      ∃ t, exec (.resetNAssert) s = .next t ∧ t.pu.drain.map (fun d => (d.t0, d.trigger)) = some (s.tb.beat, 2) ∧ t.seq.downCause = .commanded ∧ t.seq.resetKind = 2 ∧ t.seq.riseAgain = true ∧ t.seq.resetLow = true ∧ t.pu.chest = s.pu.chest ∧ t.ti = s.ti ∧ t.reg = s.reg) ∧
    (∀ (s : State),
      s.seq.state = .rising →
      ∃ t, exec (.resetNAssert) s = .next t ∧ t.seq = { s.seq with resetLow := true, coldPending := true } ∧ t.pu = s.pu ∧ t.ti = s.ti ∧ t.reg = s.reg ∧ t.out = s.out) ∧
    (∀ (path : BcsPath) (input : Bytes) (s : State),
      bcsOpen path 0xC082 s = true →
      (input.length = 1 ∧ fld 0 1 input < 2 ∧ s.seq.state = .up ∧ s.pu.drain = none) →
      ∃ t, exec (.powerDown path input) s = .next t ∧ answered path 0xC082 0 [] t ∧ t.pu.drain.map (fun d => (d.t0, d.trigger)) = some (s.tb.beat, 2) ∧ t.seq.downCause = .commanded ∧ t.seq.riseAgain = decide (fld 0 1 input = 1) ∧
        t.pu.chest = s.pu.chest ∧ t.ti = s.ti ∧ t.reg = s.reg) ∧
    (∀ (d : DrainRun) (s : State),
      (s.pu.drain = some d ∧ s.pu.queue = [] ∧ s.seq.state = .up ∧ s.seq.en.getLsbD 11 = true) →
      ∃ t, exec (.drainComplete) s = .next t ∧ t.seq.state = .falling ∧ t.seq.step = 11 ∧ t.out = Output.rail 11 false :: s.out ∧ t.pu.drain = some { d with done := true } ∧
        t.pu.chest.getLast?.map (·.kind) = some (.drain d.t0 d.trigger (d.lines + 3) d.firstSeq) ∧ t.ti = s.ti ∧ t.reg = s.reg ∧ t.tb = s.tb) ∧
    (∀ (s : State),
      s.seq.standby = .none →
      ∃ t, exec (.resetNDeassert) s = .next t ∧ t.seq = { s.seq with resetLow := false } ∧ t.pu = s.pu ∧ t.ti = s.ti ∧ t.reg = s.reg ∧ t.out = s.out) ∧
    (∀ (s : State),
      (s.seq.standby = .entered ∧ s.seq.resetLow = true) →
      ∃ t, exec (.resetNDeassert) s = .next t ∧ t.seq = { s.seq with resetLow := false, standby := .none, wakePending := none, wokenBy := some 3, wanted := true } ∧ t.pu = s.pu ∧ t.ti = s.ti ∧ t.reg = s.reg ∧ t.out = s.out) ∧
    (∀ (edge lost : Bool) (s : State),
      s.seq.standby = .entered →
      ∃ t, exec (.wakeNLow edge lost) s = .next t ∧ t.seq = { s.seq with standby := .none, wakePending := none, wokenBy := some (if edge then 0 else 1), wanted := true } ∧ t.pu = s.pu ∧ t.ti = s.ti ∧ t.reg = s.reg ∧ t.out = s.out) ∧
    (∀ (b lost : Bool) (s : State),
      s.seq.standby = .entered →
      ∃ t, exec (.smbusAddressMatch b lost) s = .next t ∧ t.seq = { s.seq with standby := .none, wakePending := none, wokenBy := some 2, wanted := true } ∧ t.mc.woke = true ∧ t.pu = s.pu ∧ t.ti = s.ti ∧ t.reg = s.reg ∧ t.out = s.out) ∧
    (∀ (s : State),
      s.seq.standby = .entering →
      ∃ t, exec (.smbusAddressMatch false true) s = .next t ∧ t.seq = s.seq ∧ t.mc.nack = true ∧ t.out = Output.sidebandNack :: s.out ∧ t.pu = s.pu ∧ t.ti = s.ti ∧ t.reg = s.reg) ∧
    (∀ (s : State),
      ∃ t, exec (.inputRecovered) s = .next t ∧ t.seq = { s.seq with inputOk := true, wanted := s.seq.wanted || s.seq.waitInput, waitInput := false } ∧ t.pu = s.pu ∧ t.ti = s.ti ∧ t.reg = s.reg ∧ t.out = s.out) ∧
    (∀ (s : State),
      s.seq.vstby = true →
      ∃ t, exec (.vstbyCollapse) s = .next t ∧ t.seq.vstby = false ∧ t.seq.en = 0 ∧ t.seq.pg = 0 ∧ t.pu.drain = none ∧ t.pu.slots = [] ∧ t.ti.shelf = [] ∧ t.gqp = {} ∧ t.pu.chest = s.pu.chest ∧ t.ti.cab = s.ti.cab ∧ t.reg.table = s.reg.table) ∧
    (∀ (s : State),
      (s.seq.vstby = true ∧ s.seq.clk25 = true) →
      ∃ t, exec (.clk25InLoss) s = .next t ∧ t.seq.clk25 = false ∧ t.seq.en = 0 ∧ t.seq.pg = 0 ∧ t.pu.drain = none ∧ t.pu.slots = [] ∧ t.ti.shelf = [] ∧ t.gqp = {} ∧ t.pu.chest = s.pu.chest ∧ t.ti.cab = s.ti.cab ∧ t.reg.table = s.reg.table)

/-- While the window runs an edge that is not early arms it and changes nothing else, an edge too early or none within M ms is a violation that is flagged, recorded as event 0x0F06 and followed by a management reset; outside its time the expiry changes nothing. A temperature reading is stored with the maximum over the sensors; at the threshold the warning is set with event 0x0F0A, and a second consecutive reading of a sensor at 120 °C starts the thermal shutdown's drain. -/
def Obligations.WatchdogWindowAndTemperature : Prop :=
    (∀ (m : Nat) (s : State),
      (wdiRuns s = true ∧ (s.pwr.wdiArmed = false ∨ param 0x0F02 0 s * 1000 ≤ m * 8)) →
      ∃ t, exec (.wdiEdge m) s = .next t ∧ t = modPwr (fun p => { p with wdiArmed := true }) s) ∧
    (∀ (m : Nat) (s : State),
      (wdiRuns s = true ∧ s.pwr.wdiArmed = true ∧ m * 8 < param 0x0F02 0 s * 1000 ∧ eventRoom s = true) →
      ∃ t, exec (.wdiEdge m) s = .next t ∧ t.pwr.wdiEarly = true ∧ t.pwr.wdiArmed = false ∧ recorded 0x0F06 t ∧ t.pu = s.pu ∧ t.ti = s.ti ∧ t.reg = s.reg ∧ t.tb = s.tb) ∧
    (∀ (m : Nat) (s : State),
      (wdiRuns s = true ∧ param 0x0F02 0 s * 1000 ≤ m ∧ eventRoom s = true) →
      ∃ t, exec (.wdiWindowExpiry m) s = .next t ∧ t.pwr.wdiLate = true ∧ t.pwr.wdiArmed = false ∧ recorded 0x0F06 t ∧ t.pu = s.pu ∧ t.ti = s.ti ∧ t.reg = s.reg ∧ t.tb = s.tb) ∧
    (∀ (sensor : Nat) (celsius : Int) (s : State),
      (sensor < 10 ∧ s.seq.state = .up ∧ s.pu.drain = none ∧ celsius < 120) →
      hottest (mput sensor celsius s.pwr.readings) < (param 0x0F03 105 s : Int) →
      ∃ t, exec (.thermalReading sensor celsius) s = .next t ∧ t.pwr.readings = mput sensor celsius s.pwr.readings ∧ t.pwr.tjMax = some (hottest (mput sensor celsius s.pwr.readings)) ∧ t.pwr.warn = s.pwr.warn ∧ t.pwr.crit = s.pwr.crit ∧
        t.seq = s.seq ∧ t.ev = s.ev ∧ t.out = s.out ∧ t.pu = s.pu ∧ t.ti = s.ti ∧ t.reg = s.reg) ∧
    (∀ (sensor : Nat) (celsius : Int) (s : State),
      (sensor < 10 ∧ s.seq.state = .up ∧ s.pu.drain = none ∧ 120 ≤ celsius ∧ 1 ≤ mgetD 0 sensor s.pwr.hotReadings) →
      ∃ t, exec (.thermalReading sensor celsius) s = .next t ∧ t.pwr.crit = true ∧ t.pu.drain.map (fun d => (d.t0, d.trigger)) = some (s.tb.beat, 2) ∧ t.seq.downCause = .thermal ∧ t.pu.chest = s.pu.chest ∧ t.ti = s.ti ∧ t.reg = s.reg)

/-- A lockstep failure with a usable spare makes the spare active and restarts the complex, with event 0x0C03; a watchdog expiry restarts it with cause 0; journal, tiers and regions stay. The end of the restart lets the complex serve again with event 0x0C01. An online activation whose image does not complete its self-check goes back to the previous one; a transfer without a part for 2^27 beats is dropped, its slot invalid. A background result is delivered and its command leaves the list. Get FW Info answers the slots; Transfer FW Initiate starts a transfer; Activate FW for the next reset writes an option copy. -/
def Obligations.ComplexRestartsAndFirmware : Prop :=
    (∀ (sram : Bool) (s : State),
      (s.seq.state = .up ∧ s.mc.active = 0 ∧ s.mc.failed0 = false ∧ s.mc.failed1 = false ∧ s.mc.spareUsable = true ∧ s.mc.transfer = none ∧ eventRoom s = true) →
      ∃ t, exec (.lockstepMismatch sram) s = .next t ∧ t.mc.serving = false ∧ t.mc.active = 1 ∧ t.mc.failed0 = true ∧ t.mc.spareUsable = false ∧ t.mc.restart.map (fun r => (r.cause, r.beat)) = some (if sram then 3 else 2, s.tb.beat) ∧ recorded 0x0C03 t ∧
        t.pu.chest = s.pu.chest ∧ t.ti = s.ti ∧ t.reg.table = s.reg.table ∧ t.out = s.out) ∧
    (∀ (s : State),
      (s.seq.state = .up ∧ s.mc.serving = true ∧ noPair s = false ∧ s.mc.restart = none ∧ s.mc.lastExpiry = none ∧ s.mc.transfer = none) →
      ∃ t, exec (.watchdogExpiry) s = .next t ∧ t.mc.serving = false ∧ t.mc.restart.map (fun r => (r.cause, r.beat, r.toRom)) = some (0, s.tb.beat, false) ∧ t.mc.lastExpiry = some s.tb.beat ∧ t.mc.active = s.mc.active ∧
        t.pu.chest = s.pu.chest ∧ t.ti = s.ti ∧ t.reg.table = s.reg.table ∧ t.out = s.out) ∧
    (∀ (r : Restart) (s : State),
      (s.mc.restart = some r ∧ r.norWait = false ∧ s.mc.interrupted = [] ∧ s.mc.bg = [] ∧ s.mc.activation = none ∧ s.pair.heldBcs = [] ∧ eventRoom s = true) →
      ∃ t, exec (.complexRestartComplete) s = .next t ∧ t.mc.serving = true ∧ t.mc.restart = none ∧ t.mc.rom = r.toRom ∧ t.mc.lastRefresh = s.tb.beat ∧ recorded 0x0C01 t ∧ t.pu = s.pu ∧ t.ti = s.ti ∧ t.reg = s.reg ∧ t.out = s.out) ∧
    (∀ (a : FwActivation) (r : Restart) (s : State),
      (s.mc.activation = some a ∧ a.rolled = false ∧ s.mc.restart = some r ∧ r.cause = 4 ∧ r.beat + 2 ^ 22 ≤ s.tb.beat ∧ s.mc.transfer = none) →
      ∃ t, exec (.activationSelfCheckTimeout) s = .next t ∧ t.mc.activation = some { a with rolled := true } ∧ t.mc.restart.map (fun r => (r.cause, r.beat)) = some (4, s.tb.beat) ∧ t.mc.serving = false ∧ t.pu.chest = s.pu.chest ∧ t.ti = s.ti ∧ t.reg.table = s.reg.table ∧ t.out = s.out) ∧
    (∀ (x : FwTransfer) (s : State),
      (s.mc.transfer = some x ∧ x.lastBeat + 2 ^ 27 ≤ s.tb.beat ∧ eventRoom s = true) →
      ∃ t, exec (.fwTransferTimeout) s = .next t ∧ t.mc.transfer = none ∧ (fwSlot x.slot t).valid = false ∧ recorded 0x0C05 t ∧ t.pu = s.pu ∧ t.ti = s.ti ∧ t.reg = s.reg ∧ t.out = s.out) ∧
    (∀ (b : BgCmd) (r : BgResult) (s : State),
      (s.mc.bg = [b] ∧ b.result = some r ∧ mailKey b.path = none) →
      ∃ t, exec (.backgroundCommandComplete b.opcode) s = .next t ∧ Output.bcs b.path b.opcode r.rc r.vstatus r.out ∈ t.out ∧ t.mc.bg = [] ∧ t.pu = s.pu ∧ t.ti = s.ti ∧ t.reg = s.reg ∧ t.cxl = s.cxl) ∧
    (∀ (path : BcsPath) (input : Bytes) (s : State),
      bcsOpen path 0x0200 s = true →
      input.length = 0 →
      ∃ t, exec (.getFwInfo path input) s = .next t ∧ answered path 0x0200 0 (le 1 2 ++ le 1 (s.mc.fwActive + 1 + 8 * (s.mc.fwNext + 1)) ++ le 1 1 ++ zeros 13 ++ padTo 16 (le 4 (slotVersion s.mc.fwA)) ++ padTo 16 (le 4 (slotVersion s.mc.fwB)) ++ zeros 32) t ∧
        t.reg = s.reg ∧ t.ti = s.ti ∧ t.pu = s.pu) ∧
    (∀ (input : Bytes) (s : State),
      (bcsOpen .sideband 0x0201 s = true ∧ input.length = 128 ∧ fld 0 1 input = 1 ∧ 1 ≤ fld 1 1 input ∧ fld 1 1 input ≤ 2 ∧ zeroAt 2 2 input = true ∧ fld 4 4 input = 0 ∧ zeroAt 8 120 input = true) →
      (slotRuns (fld 1 1 input - 1) s = false ∧ s.mc.transfer = none ∧ s.mc.bg = []) →
      ∃ t, exec (.transferFw .sideband input) s = .next t ∧ t.mc.transfer.map (fun x => (x.slot, x.next)) = some (fld 1 1 input - 1, 0) ∧ t.mc.bg = [{ path := .sideband, opcode := 0x0201, result := some ⟨0, 0xFFFF, []⟩ }] ∧
        (fwSlot (fld 1 1 input - 1) t).valid = false ∧ t.reg = s.reg ∧ t.ti = s.ti ∧ t.pu = s.pu ∧ t.out = s.out) ∧
    (∀ (input : Bytes) (s : State),
      (bcsOpen .sideband 0x0202 s = true ∧ input.length = 2 ∧ fld 0 1 input = 1 ∧ 1 ≤ fld 1 1 input ∧ fld 1 1 input ≤ 2 ∧ (fwSlot (fld 1 1 input - 1) s).valid = true ∧ s.mc.bg = []) →
      ∃ t, exec (.activateFw .sideband input) s = .next t ∧ t.mc.bg = [{ path := .sideband, opcode := 0x0202 }] ∧ NorOp.optionWrite { comingOption s with nextSlot := fld 1 1 input - 1 } (.nextSlot (some .sideband) (fld 1 1 input - 1)) ∈ t.nor.running.toList ++ t.nor.waiting ∧
        t.mc.fwNext = s.mc.fwNext ∧ t.reg = s.reg ∧ t.ti = s.ti ∧ t.pu = s.pu ∧ t.out = s.out)

/-- The end of an option write stores the copy with the next generation; a failed operation is reported with event 0x0E06. A running erase can be suspended. The counter log is compacted into the other block; an hour of uptime is counted. The oldest queued event takes the next record index; the supervisor's pending events are queued. The queries of the recorder, of spares, erase counts, stripes and the wear log answer from the recorded state and change nothing else; Bind Transform Stream binds a queue pair to a stream, or unbinds it. -/
def Obligations.FlashRecorderAndWearLog : Prop :=
    (∀ (c : OptionCopy) (op : Nat) (s : State),
      (s.nor.running = some (.optionWrite c (.answer none op)) ∧ s.nor.suspended = false ∧ s.nor.waiting = [] ∧ s.ev.running = true) →
      ∃ t, exec (.norOperationComplete false) s = .next t ∧ t.nor.running = none ∧ mget (nextOption s) t.nor.options = some { c with generation := ((newestOption s.nor).map (·.2.generation)).getD 0 + 1 } ∧ t.nor.newest = nextOption s ∧
        t.out = s.out ∧ t.pu = s.pu ∧ t.ti = s.ti ∧ t.reg = s.reg) ∧
    (∀ (slot off : Nat) (s : State),
      (s.nor.running = some (.fwProgram slot off) ∧ s.nor.suspended = false ∧ s.nor.waiting = [] ∧ s.ev.running = true ∧ eventRoom s = true) →
      ∃ t, exec (.norOperationComplete true) s = .next t ∧ t.nor.running = none ∧ recorded 0x0E06 t ∧ (fwSlot slot t).image = (fwSlot slot s).image.take off ∧ t.out = s.out ∧ t.pu = s.pu ∧ t.ti = s.ti ∧ t.reg = s.reg) ∧
    (∀ (b : Nat) (sec : Option Nat) (s : State),
      (s.nor.running = some (.erase b sec) ∧ s.nor.suspended = false ∧ s.nor.suspends < 64 ∧ (s.nor.suspends = 0 ∨ s.nor.ranSince + 3907 ≤ s.tb.beat)) →
      ∃ t, exec (.eraseSuspend) s = .next t ∧ t.nor = { s.nor with suspended := true, suspends := s.nor.suspends + 1 } ∧ t.out = s.out ∧ t.ev = s.ev ∧ t.pu = s.pu ∧ t.ti = s.ti ∧ t.reg = s.reg) ∧
    (∀ (s : State),
      (s.nor.logLeft < 160 ∧ s.nor.running = none ∧ s.ev.running = true ∧ s.ev.queue.length < 1023) →
      ∃ t, exec (.counterLogCompaction) s = .next t ∧ t.nor.logBlock = 19 - s.nor.logBlock ∧ t.nor.snapshot = s.nor.snapshot + 1 ∧ t.nor.logLeft = 1870 ∧ recorded 0x0E07 t ∧ t.out = s.out ∧ t.pu = s.pu ∧ t.ti = s.ti ∧ t.reg = s.reg) ∧
    (∀ (s : State),
      (vcoreUp s = true ∧ dieFree s = true ∧ 7031250000 * (s.nor.hoursUp + 1) ≤ s.tb.beat) →
      ∃ t, exec (.hourEntry) s = .next t ∧ t.ev.hours = s.ev.hours + 1 ∧ t.nor.hoursUp = s.nor.hoursUp + 1 ∧ t.out = s.out ∧ t.pu = s.pu ∧ t.ti = s.ti ∧ t.reg = s.reg) ∧
    (∀ (e : Event) (r : List Event) (s : State),
      (s.ev.queue = e :: r ∧ s.ev.running = true ∧ dieFree s = true ∧ erasing recentBlock s = false ∧ s.mc.restart = none ∧ noPair s = false ∧ s.ev.lostUnreported = 0 ∧ (s.ev.nextIndex + 1) % 1024 ≠ 0) →
      ∃ t, exec (.eventRecordWrite) s = .next t ∧ t.ev.queue = r ∧ mget s.ev.nextIndex t.ev.recent = some e ∧ t.ev.nextIndex = s.ev.nextIndex + 1 ∧ t.out = s.out ∧ t.pu = s.pu ∧ t.ti = s.ti ∧ t.reg = s.reg) ∧
    (∀ (e : Event) (s : State),
      (s.ev.running = true ∧ s.ev.supPending = [e] ∧ s.ev.supLost = 0 ∧ eventRoom s = true) →
      ∃ t, exec (.pendingEventRelay) s = .next t ∧ t.ev.supPending = [] ∧ t.ev.queue = s.ev.queue ++ [e] ∧ t.out = s.out ∧ t.pu = s.pu ∧ t.ti = s.ti ∧ t.reg = s.reg) ∧
    (∀ (path : BcsPath) (input : Bytes) (e : Event) (s : State),
      bcsOpen path 0xC030 s = true →
      (input.length = 12 ∧ fld 0 1 input = 1 ∧ zeroAt 1 3 input = true ∧ fld 8 4 input = 1) →
      (s.ev.recent.filter (fun x => decide (fld 4 4 input ≤ x.1)) = [(fld 4 4 input, e)]) →
      ∃ t, exec (.readEvents path input) s = .next t ∧ answered path 0xC030 0 (le 4 1 ++ le 4 (fld 4 4 input + 1) ++ zeros 8 ++ eventBytes e) t ∧ t.ev = s.ev ∧ t.reg = s.reg ∧ t.ti = s.ti ∧ t.pu = s.pu) ∧
    (∀ (path : BcsPath) (input : Bytes) (s : State),
      bcsOpen path 0xC031 s = true →
      input.length = 0 →
      ∃ t, exec (.getRecorderStatus path input) s = .next t ∧ answered path 0xC031 0 (le 4 s.ev.first.length ++ le 4 ((s.ev.recent.head?.map (·.1)).getD 0) ++ le 4 (newestIndex s) ++ le 4 s.ev.abandonedCount ++ le 8 s.ev.nextIndex) t ∧ t.ev = s.ev ∧ t.reg = s.reg ∧ t.ti = s.ti ∧ t.pu = s.pu) ∧
    (∀ (path : BcsPath) (input : Bytes) (s : State),
      bcsOpen path 0xC070 s = true →
      input.length = 0 →
      ∃ t, exec (.getSparesInventory path input) s = .next t ∧ answered path 0xC070 0 ((List.range 7).flatMap fun k => le 1 k ++ le 1 (spareState k s) ++ zeros 2 ++ le 4 (sparesMade k) ++ le 4 (sparesLeft k s) ++ le 4 (spareMeasure k s)) t ∧ t.ev = s.ev ∧ t.reg = s.reg ∧ t.ti = s.ti ∧ t.pu = s.pu) ∧
    (∀ (path : BcsPath) (input : Bytes) (s : State),
      bcsOpen path 0xC071 s = true →
      (input.length = 10 ∧ lunExists (fld 0 2 input) s = true ∧ fld 2 4 input + fld 6 4 input ≤ s.ident.blocksPerLun ∧ 1 ≤ fld 6 4 input ∧ fld 6 4 input ≤ 8190) →
      ∃ t, exec (.getEraseCounts path input) s = .next t ∧ answered path 0xC071 0 ((List.range (fld 6 4 input)).flatMap fun i => le 4 (blockState (fld 0 2 input) (fld 2 4 input + i) s).1 ++ le 1 (blockState (fld 0 2 input) (fld 2 4 input + i) s).2.1 ++ le 1 (blockState (fld 0 2 input) (fld 2 4 input + i) s).2.2 ++ zeros 2) t ∧
        t.ev = s.ev ∧ t.reg = s.reg ∧ t.ti = s.ti ∧ t.pu = s.pu) ∧
    (∀ (path : BcsPath) (input : Bytes) (s : State),
      bcsOpen path 0xC072 s = true →
      (input.length = 10 ∧ fld 0 2 input < s.ident.lunsPerChannel ∧ fld 2 4 input < s.ident.blocksPerLun ∧ fld 6 4 input = 1) →
      ∃ t, exec (.getStripeState path input) s = .next t ∧ answered path 0xC072 0 (le 1 (stripeCode (stripeAt (stripeKey (fld 0 2 input) (fld 2 4 input)) s).state) ++ le 1 (goodMembers (stripeAt (stripeKey (fld 0 2 input) (fld 2 4 input)) s)).length ++ zeros 2 ++
        le 4 (validChunks (stripeKey (fld 0 2 input) (fld 2 4 input)) s).length ++ le 4 (stripeAt (stripeKey (fld 0 2 input) (fld 2 4 input)) s).erases ++ le 4 (stripeAt (stripeKey (fld 0 2 input) (fld 2 4 input)) s).reads) t ∧
        t.ev = s.ev ∧ t.reg = s.reg ∧ t.ti = s.ti ∧ t.pu = s.pu) ∧
    (∀ (path : BcsPath) (input : Bytes) (s : State),
      bcsOpen path 0xC073 s = true →
      (input.length = 8 ∧ s.ev.wear = []) →
      ∃ t, exec (.readWearLog path input) s = .next t ∧ answered path 0xC073 0 (le 4 0 ++ le 4 (fld 0 4 input)) t ∧ t.ev = s.ev ∧ t.reg = s.reg ∧ t.ti = s.ti ∧ t.pu = s.pu) ∧
    (∀ (path : BcsPath) (input : Bytes) (s : State),
      bcsOpen path 0xC093 s = true →
      (input.length = 4 ∧ 0x40 ≤ fld 0 1 input ∧ fld 1 1 input = 0 ∧ (queueOf (fld 2 2 input) s).isSome = true) →
      ∃ t, exec (.bindTransformStream path input) s = .next t ∧ answered path 0xC093 0 [] t ∧ streamOf (fld 2 2 input) t = some (fld 0 1 input) ∧ t.te.jobs = s.te.jobs ∧ t.ev = s.ev ∧ t.reg = s.reg ∧ t.ti = s.ti ∧ t.pu = s.pu)

/-- Get Identity Key answers the key and the certificate; Get Attestation Report, while the key unit can sign, answers the report with its signature and uses up one index. A due signing window is reserved with event 0x0D04. The key unit becomes ready. The ROLLBACK count rises to the SVN of the running image, with event 0x0D03. Get Protection Level answers the level; Set Protection Level 2 burns the fuse with event 0x0D06, and the present level is accepted without a change. Sanitize with nothing attached starts in the background and journals its start mark. At level 1 and 2 a JTAG instruction past the first four selects BYPASS. -/
def Obligations.TrustSigningAndProtection : Prop :=
    (∀ (path : BcsPath) (input : Bytes) (s : State),
      bcsOpen path 0xC041 s = true →
      input.length = 0 →
      ∃ t, exec (.getIdentityKey path input) s = .next t ∧ answered path 0xC041 0 (le 4 68 ++ padTo 68 Config.identityKey ++ le 1 1 ++ le 1 (if s.ident.h96 then 0 else 1) ++ le 2 Config.stepping ++ le 8 Config.serial ++ le 4 Config.certDate ++ padTo 68 Config.identityKey ++ padTo 68 Config.certIssuer ++ zeros 8 ++ padTo 9893 Config.certSignature) t ∧
        t.trust = s.trust ∧ t.reg = s.reg ∧ t.ti = s.ti ∧ t.pu = s.pu) ∧
    (∀ (path : BcsPath) (input : Bytes) (s : State),
      bcsOpen path 0xC042 s = true →
      (input.length = 32 ∧ canSign s = true ∧ s.trust.signer.waiting = []) →
      ∃ t, exec (.getAttestationReport path input) s = .next t ∧ answered path 0xC042 0 (reportBody input s ++ padTo 9893 (signature (reportBody input s) s)) t ∧ t.trust.signer.next = s.trust.signer.next + 1 ∧ t.trust.signer.waiting = [] ∧ t.reg = s.reg ∧ t.ti = s.ti ∧ t.pu = s.pu) ∧
    (∀ (window : Nat) (s : State),
      (windowDue window s = true ∧ windowLogFree s = true ∧ s.trust.signer.waiting = [] ∧ s.ev.queue.length < 1023) →
      ∃ t, exec (.signingWindowReservation window) s = .next t ∧ t.trust.signer.reserved = window + 1 ∧ t.trust.signer.waitSince = none ∧ t.trust.signer.next = s.trust.signer.next ∧ recorded 0x0D04 t ∧ t.out = s.out ∧ t.pu = s.pu ∧ t.ti = s.ti ∧ t.reg = s.reg) ∧
    (∀ (s : State),
      (s.mc.serving = true ∧ s.mc.rom = false ∧ s.trust.signer.ready = false ∧ s.trust.signer.waiting = []) →
      ∃ t, exec (.keyUnitReady) s = .next t ∧ t = modSigner (fun g => { g with ready := true }) s) ∧
    (∀ (s : State),
      (s.mc.serving = true ∧ s.mc.rom = false ∧ s.mc.activation = none ∧ s.trust.rollback < (fwSlot s.mc.fwActive s).svn ∧ eventRoom s = true) →
      ∃ t, exec (.rollbackFuseUpdate) s = .next t ∧ t.trust.rollback = (fwSlot s.mc.fwActive s).svn ∧ recorded 0x0D03 t ∧ t.out = s.out ∧ t.pu = s.pu ∧ t.ti = s.ti ∧ t.reg = s.reg) ∧
    (∀ (path : BcsPath) (input : Bytes) (s : State),
      bcsOpen path 0xC050 s = true →
      input.length = 0 →
      ∃ t, exec (.getProtectionLevel path input) s = .next t ∧ answered path 0xC050 0 (le 1 (roLevel s) ++ le 1 s.trust.sanitize) t ∧ t.trust = s.trust ∧ t.reg = s.reg ∧ t.ti = s.ti ∧ t.pu = s.pu) ∧
    (∀ (path : BcsPath) (input : Bytes) (s : State),
      bcsOpen path 0xC051 s = true →
      (input.length = 2 ∧ fld 0 1 input = 2 ∧ fld 1 1 input = 1 ∧ roLevel s ≠ 2 ∧ eventRoom s = true) →
      ∃ t, exec (.setProtectionLevel path input) s = .next t ∧ answered path 0xC051 0 [] t ∧ roLevel t = 2 ∧ recorded 0x0D06 t ∧ t.reg = s.reg ∧ t.ti = s.ti ∧ t.pu = s.pu) ∧
    (∀ (path : BcsPath) (input : Bytes) (s : State),
      bcsOpen path 0xC051 s = true →
      (input.length = 2 ∧ fld 0 1 input = roLevel s ∧ fld 1 1 input = 1 ∧ s.trust.level ≤ 1) →
      ∃ t, exec (.setProtectionLevel path input) s = .next t ∧ answered path 0xC051 0 [] t ∧ t.trust = s.trust ∧ t.ev = s.ev ∧ t.reg = s.reg ∧ t.ti = s.ti ∧ t.pu = s.pu) ∧
    (∀ (input : Bytes) (s : State),
      (bcsOpen .sideband 0xC052 s = true ∧ input.length = 2 ∧ fld 0 1 input ≤ 1 ∧ fld 1 1 input = 1) →
      (s.reg.table = [] ∧ s.cap.rings = [] ∧ s.cap.channels = [] ∧ s.trust.run = none ∧ s.trust.lowering = false ∧ s.mc.bg = []) →
      ∃ t, exec (.sanitize .sideband input) s = .next t ∧ t.trust.run = some { kind := fld 0 1 input, step := 1, path := some .sideband } ∧ t.mc.bg = [{ path := .sideband, opcode := 0xC052 }] ∧ t.pu.metaWaits.getLast?.map (·.items) = some [.sanitizeMark 0 (fld 0 1 input) s.tb.beat] ∧
        t.out = s.out ∧ t.reg = s.reg ∧ t.ti = s.ti) ∧
    (∀ (i : Nat) (s : State),
      (4 ≤ i ∧ roLevel s ≠ 0) →
      ∃ t, exec (.jtagInstruction i) s = .next t ∧ t = modTrust (fun r => { r with jtag := 0, jtagBypass := true }) s) ∧
    (∀ (i : Nat) (s : State),
      (i < 4 ∨ roLevel s = 0) →
      ∃ t, exec (.jtagInstruction i) s = .next t ∧ t = modTrust (fun r => { r with jtag := i, jtagBypass := decide (i = 0) }) s)

/-- Get Unit Power, Get Parameter, List Parameters and Identify Controller answer from the state of units and option copies and change nothing else. Set Unit Power 0xFF releases a unit to its on state. Set Parameter writes a new option copy with the value. Enter Device Standby is answered before the drain. At its figure an idle unit enters its I state, and work wakes it; a commanded C state is entered with its pads held once nothing refuses; a pad group whose domain is on is released with event 0x0F0B. -/
def Obligations.UnitPowerParametersAndIdentity : Prop :=
    (∀ (path : BcsPath) (input : Bytes) (s : State),
      bcsOpen path 0xC020 s = true →
      (input.length = 2 ∧ (unitKind (fld 0 2 input) s).isSome = true) →
      ∃ t, exec (.getUnitPower path input) s = .next t ∧ answered path 0xC020 0 (le 2 (fld 0 2 input) ++ le 1 (unitStateNow (fld 0 2 input) s) ++ le 1 ((unitOfPower (fld 0 2 input) s).commanded.getD 0xFF) ++ le 4 (idleFigure (fld 0 2 input) s) ++ le 4 (unitOfPower (fld 0 2 input) s).count ++ le 2 (unitOfPower (fld 0 2 input) s).refuser ++ zeros 2) t ∧
        t.pwr = s.pwr ∧ t.reg = s.reg ∧ t.ti = s.ti ∧ t.pu = s.pu) ∧
    (∀ (path : BcsPath) (input : Bytes) (u : Nat) (s : State),
      bcsOpen path 0xC021 s = true →
      (input.length = 8 ∧ fld 0 2 input = u ∧ fld 2 1 input = 0xFF ∧ fld 4 4 input = 0xFFFFFFFF ∧ zeroAt 3 1 input = true ∧ (unitKind u s).isSome = true ∧ unitKind u s ≠ some .cacheBank) →
      ∃ t, exec (.setUnitPower path input) s = .next t ∧ answered path 0xC021 0 [] t ∧ unitOfPower u t = { unitOfPower u s with commanded := none, state := 0, toEnter := none, entry := none } ∧ t.reg = s.reg ∧ t.ti = s.ti ∧ t.pu = s.pu) ∧
    (∀ (path : BcsPath) (input : Bytes) (p : ParamInfo) (s : State),
      bcsOpen path 0xC022 s = true →
      (input.length = 2 ∧ paramInfo (fld 0 2 input) = some p) →
      ∃ t, exec (.getParameter path input) s = .next t ∧ answered path 0xC022 0 (le 2 p.id ++ le 1 (b2n (paramPending p s)) ++ zeros 5 ++ le 8 (inForce p s) ++ le 8 (optionValue (stored s) p)) t ∧ t.params = s.params ∧ t.nor = s.nor ∧ t.reg = s.reg ∧ t.ti = s.ti ∧ t.pu = s.pu) ∧
    (∀ (path : BcsPath) (input : Bytes) (p : ParamInfo) (s : State),
      bcsOpen path 0xC023 s = true →
      (input.length = 16 ∧ paramInfo (fld 0 2 input) = some p ∧ p.id ≠ 0x0603 ∧ zeroAt 2 6 input = true ∧ valueOk p (fld 8 8 input) s = true ∧ paramBusy p.id s = false) →
      ∃ t, exec (.setParameter path input) s = .next t ∧ NorOp.optionWrite (setOption (comingOption s) p (fld 8 8 input)) (.parameter (some path) p.id (fld 8 8 input)) ∈ t.nor.running.toList ++ t.nor.waiting ∧ t.params = s.params ∧ t.out = s.out ∧ t.reg = s.reg ∧ t.ti = s.ti ∧ t.pu = s.pu) ∧
    (∀ (path : BcsPath) (input : Bytes) (s : State),
      bcsOpen path 0xC024 s = true →
      input.length = 2 →
      ∃ t, exec (.listParameters path input) s = .next t ∧ answered path 0xC024 0 (le 2 (paramTable.filter fun p => decide (fld 0 2 input ≤ p.id)).length ++ le 2 0 ++ (paramTable.filter fun p => decide (fld 0 2 input ≤ p.id)).flatMap paramEntry) t ∧ t.params = s.params ∧ t.reg = s.reg ∧ t.ti = s.ti ∧ t.pu = s.pu) ∧
    (∀ (path : BcsPath) (input : Bytes) (s : State),
      bcsOpen path 0xC025 s = true →
      (input.length = 0 ∧ standbyRefuser s = none) →
      ∃ t, exec (.enterDeviceStandby path input) s = .next t ∧ answered path 0xC025 0 [] t ∧ t.seq = { s.seq with standby := .entering, wakePending := none } ∧ t.reg = s.reg ∧ t.ti = s.ti ∧ t.pu = s.pu) ∧
    (∀ (unit n f : Nat) (s : State),
      (unitKind unit s ≠ some .slice ∧ (idleFigures unit s).filter (fun g => decide ((unitOfPower unit s).state < g.1)) = [(n, f)] ∧ (unitOfPower unit s).commanded = none ∧ vcoreUp s = true) →
      ∃ t, exec (.idleTimerEntry unit) s = .next t ∧ t = enterState n unit s) ∧
    (∀ (unit agent : Nat) (s : State),
      (unitKind unit s ≠ some .slice ∧ (unitOfPower unit s).entry = none ∧ isIdleState unit (unitOfPower unit s).state s = true) →
      ∃ t, exec (.unitWorkArrival unit agent) s = .next t ∧ t = modUnit unit (fun x => { x with state := 0 }) s) ∧
    (∀ (unit n : Nat) (s : State),
      ((unitOfPower unit s).commanded = some n ∧ ((statesOf unit s)[n]?.map fun x => bitOf 0 x.flags) = some true ∧ (unitOfPower unit s).state ≠ n ∧ refuserOf unit s = none ∧ unitKind unit s ≠ some .cacheBank) →
      ∃ t, exec (.commandedStateEntry unit) s = .next t ∧ t = modPwr (fun p => { p with padHeld := p.padHeld ||| unitPads unit }) (enterState n unit s)) ∧
    (∀ (g : Nat) (s : State),
      (g < 10 ∧ domainOn g s = true ∧ s.pwr.padHeld.getLsbD g = true ∧ eventRoom s = true) →
      ∃ t, exec (.padHoldRelease (BitVec.ofNat 10 (2 ^ g))) s = .next t ∧ t.pwr = { s.pwr with padHeld := s.pwr.padHeld &&& ~~~ BitVec.ofNat 10 (2 ^ g) } ∧ recorded 0x0F0B t ∧ t.out = s.out ∧ t.reg = s.reg ∧ t.ti = s.ti ∧ t.pu = s.pu) ∧
    (∀ (path : BcsPath) (input : Bytes) (s : State),
      bcsOpen path 0xC040 s = true →
      input.length = 2 →
      ∃ t, exec (.identifyController path input) s = .next t ∧ answered path 0xC040 0 (identifyHead s ++ identifyRest (fld 0 2 input) (((descriptors s).drop (fld 0 2 input)).take 2040).length s ++ (((descriptors s).drop (fld 0 2 input)).take 2040).flatten) t ∧ t.reg = s.reg ∧ t.ti = s.ti ∧ t.pu = s.pu)

/-- Each phase runs when the one before is complete and start-up has not stopped. The ROM phase starts the event recorder and boots the image of NEXT_SLOT, else the other, else ROM recovery. The firmware phase takes the parameters of the option area, tests the slices and, where the partitions fit, completes. The journal phase takes the reclaim position of the newest anchor and records event 0x020A. The map phase loads the map of the newest checkpoint and the tables. The regions phase brings the regions of this controller ONLINE. The links phase makes the controller ready with event 0x1001. The warm-up ends with event 0x1004, or stops the start-up after 20 s with 0x1002. -/
def Obligations.StartUpPhases : Prop :=
    (∀ (s : State),
      (phaseDue 0 s = true ∧ s.trust.lowering = false ∧ s.nor.log = [] ∧ s.ev.abandoned = [] ∧ s.nor.waiting = []) →
      ∃ t, exec (.startUpRomPhase) s = .next t ∧ t.start.phase = 2 ∧ t.ev.running = true ∧ t.nor.running = none ∧ t.mc.serving = true ∧ t.pu = s.pu ∧ t.ti = s.ti ∧ t.reg = s.reg ∧ t.out = s.out ∧
        t.mc.rom = ((imageFault true (fwSlot s.mc.fwNext s) s).isSome && (imageFault true (fwSlot (1 - s.mc.fwNext) s) s).isSome)) ∧
    (∀ (a b c : Int) (failed : BitVec 17) (sets : List Nat) (s : State),
      setsUsable sets = true →
      (phaseDue 2 s = true ∧ firmwareRuns s = true ∧ s.nor.loaded.params = [] ∧ s.ti.mappedOut = [] ∧ -20 ≤ c) →
      ∃ t, exec (.startUpFirmwarePhase a b c failed sets) s = .next t ∧ t.start.phase = 3 ∧ t.start.warm = s.start.warm ∧ t.params = [] ∧ t.te.sliceOk = ~~~ failed ∧ t.ecc.rowsAwaiting = [] ∧ t.reg.capExtents = logicalExtents s ∧ t.reg.table = s.reg.table ∧ t.pu = s.pu ∧ t.out = s.out) ∧
    (∀ (a b c : Int) (failed : BitVec 17) (sets : List Nat) (s : State),
      setsUsable sets = false →
      (phaseDue 2 s = true ∧ firmwareRuns s = true) →
      ∃ t, exec (.startUpFirmwarePhase a b c failed sets) s = .next t ∧ t.start.stopped = some (3, 0) ∧ t.ti.slotsTotal = 0 ∧ t.reg.table = s.reg.table ∧ t.pu = s.pu ∧ t.out = s.out) ∧
    (∀ (a : Anchor) (beats : Nat) (s : State),
      (phaseDue 3 s = true ∧ firmwareRuns s = true ∧ bestAnchor s.pu = some a ∧ (s.pu.chest.all fun r => !r.payloadBad) = true ∧ eventRoom s = true) →
      ∃ t, exec (.startUpJournalPhase beats) s = .next t ∧ t.start.phase = 4 ∧ t.pu.reclaimLine = a.line ∧ t.pu.reclaimSeq = a.seq ∧ recorded 0x020A t ∧ t.ti = s.ti ∧ t.reg = s.reg ∧ t.out = s.out) ∧
    (∀ (beats : Nat) (s : State),
      (phaseDue 4 s = true ∧ firmwareRuns s = true ∧ s.pu.chest = [] ∧ s.ti.ckptMeta = [] ∧ s.trust.sanitize ≠ 1) →
      ∃ t, exec (.startUpMapPhase true true beats) s = .next t ∧ t.start.phase = 5 ∧ t.ti.map = s.ti.ckptMap ∧ t.reg.table = [] ∧ t.pu.copies = [] ∧ t.trust.keys = [] ∧ t.ti.cab = s.ti.cab ∧ t.out = s.out) ∧
    (∀ (beats : Nat) (s : State),
      (phaseDue 4 s = true ∧ firmwareRuns s = true) →
      ∃ t, exec (.startUpMapPhase false true beats) s = .next t ∧ t.start.phase = 4 ∧ t.start.stopped = some (5, 2) ∧ t.ti = s.ti ∧ t.pu = s.pu ∧ t.reg = s.reg ∧ t.out = s.out) ∧
    (∀ (r : Nat) (d : Region) (s : State),
      (phaseDue 5 s = true ∧ firmwareRuns s = true ∧ s.start.warm = false ∧ s.trust.keys = [] ∧ s.cxl.bureau = 0) →
      (s.reg.table = [(r, d)] ∧ d.settee = false ∧ d.mirrored = false ∧ d.seat = s.ident.controllerId ∧ d.state = .offline) →
      ∃ t, exec (.startUpRegionsPhase []) s = .next t ∧ t.start.phase = 6 ∧ regionOf r t = some { d with state := .online } ∧ t.ti = s.ti ∧ t.pu = s.pu ∧ t.out = s.out) ∧
    (∀ (ms : Nat) (s : State),
      (phaseDue 6 s = true ∧ firmwareRuns s = true ∧ eventRoom s = true) →
      ∃ t, exec (.startUpLinksPhase ms) s = .next t ∧ t.start.phase = 7 ∧ t.start.ready = true ∧ recorded 0x1001 t ∧ t.out = Output.ready :: s.out ∧ t.ti = s.ti ∧ t.pu = s.pu ∧ t.reg = s.reg) ∧
    (∀ (c : Int) (ms : Nat) (s : State),
      (s.start.warm = true ∧ -20 ≤ c ∧ s.start.stopped = none ∧ eventRoom s = true) →
      ∃ t, exec (.warmUpEnd c ms) s = .next t ∧ t.start = { s.start with warm := false } ∧ recorded 0x1004 t ∧ t.ti = s.ti ∧ t.pu = s.pu ∧ t.reg = s.reg ∧ t.out = s.out) ∧
    (∀ (s : State),
      (s.start.warm = true ∧ s.start.stopped = none ∧ s.start.warmSince + 39062500 ≤ s.tb.beat ∧ eventRoom s = true) →
      ∃ t, exec (.warmUpTimeout) s = .next t ∧ t.start = { s.start with stopped := some (s.start.phase + 1, 3) } ∧ recorded 0x1002 t ∧ t.ti = s.ti ∧ t.pu = s.pu ∧ t.reg = s.reg ∧ t.out = s.out)

/-- An error in the recent-write map stops admission until it is rebuilt, with event 0x0B0C; an error in a link receive buffer NAKs its batch; a map page is rebuilt with event 0x0B05, and a dirty page that lost nothing is recovered, its pin released. Start Scrub starts a scrub, Get Scrub Summary answers its summary, and its end completes it with event 0x0B0A, with the corrected errors that it found. A corrected error that a read meets is counted, and the count that reaches the threshold of the window gives event 0x0B01 once. The first reading of a stack selects its band; a band change goes on to the next pseudo-channel after four beats, a change to full rate is complete after 64. A refresh that is due is issued on a channel that is not quiesced, and kept on one that is. -/
def Obligations.ErrorsScrubsAndRefresh : Prop :=
    (∀ (s : State),
      ∃ t, exec (.uncorrectableError .recentWriteMap) s = .next t ∧ t.ecc.rwmRebuild = some (s.ecc.rwmRebuild.getD s.tb.beat) ∧ t.pu = s.pu ∧ t.ti = s.ti ∧ t.reg = s.reg ∧ t.out = s.out) ∧
    (∀ (b : Nat) (s : State),
      (linkUp s = true ∧ s.pair.link.rxBatch = b) →
      ∃ t, exec (.uncorrectableError (.mplReceiveBuffer b)) s = .next t ∧ t.pair.link.queue = { vc := 0, opcode := 0x05, operand := b } :: s.pair.link.queue ∧ t.pu = s.pu ∧ t.ti = s.ti ∧ t.reg = s.reg ∧ t.out = s.out) ∧
    (∀ (b : Nat) (s : State),
      (s.ecc.rwmRebuild = some b ∧ eventRoom s = true) →
      ∃ t, exec (.recentWriteMapRebuild) s = .next t ∧ t.ecc.rwmRebuild = none ∧ recorded 0x0B0C t ∧ t.pu = s.pu ∧ t.ti = s.ti ∧ t.reg = s.reg ∧ t.out = s.out) ∧
    (∀ (page b : Nat) (s : State),
      (mget page s.ecc.mapRebuild = some b ∧ eventRoom s = true) →
      ∃ t, exec (.mapPageRebuild page) s = .next t ∧ mget page t.ecc.mapRebuild = none ∧ recorded 0x0B05 t ∧ t.pu = s.pu ∧ t.reg = s.reg ∧ t.out = s.out) ∧
    (∀ (seg page : Nat) (s : State),
      s.ecc.dirtyRecover = [(seg, page, [])] →
      ∃ t, exec (.dirtyPageRecovery seg page) s = .next t ∧ t.ecc.dirtyRecover = [] ∧ (mget seg t.ti.segs).map (·.pins) = (mget seg s.ti.segs).map (fun g => g.pins - 1) ∧ t.ti.shelf = s.ti.shelf ∧ t.ti.shelfPoison = s.ti.shelfPoison ∧ t.pu = s.pu ∧ t.reg = s.reg ∧ t.out = s.out) ∧
    (∀ (path : BcsPath) (input : Bytes) (s : State),
      bcsOpen path 0xC074 s = true →
      (input.length = 24 ∧ fld 0 1 input < 3 ∧ fld 1 1 input = 0 ∧ zeroAt 4 4 input = true ∧ (fld 0 1 input = 0 ∨ fld 2 2 input = 0) ∧ scrubRangeOk (fld 0 1 input) (fld 2 2 input) (fld 8 8 input) (fld 16 8 input) s = true) →
      s.ecc.scrub.state ≠ 1 →
      ∃ t, exec (.startScrub path input) s = .next t ∧ answered path 0xC074 0 [] t ∧ t.ecc.scrub = { state := 1, target := fld 0 1 input, region := fld 2 2 input, start := fld 8 8 input, length := fld 16 8 input } ∧ t.pu = s.pu ∧ t.ti = s.ti ∧ t.reg = s.reg) ∧
    (∀ (path : BcsPath) (input : Bytes) (s : State),
      bcsOpen path 0xC075 s = true →
      input.length = 0 →
      ∃ t, exec (.getScrubSummary path input) s = .next t ∧ answered path 0xC075 0 (scrubSummary s.ecc.scrub) t ∧ t.ecc = s.ecc ∧ t.pu = s.pu ∧ t.ti = s.ti ∧ t.reg = s.reg) ∧
    (∀ (s : State),
      (s.ecc.scrub.state = 1 ∧ s.ecc.scrub.abortAt = none ∧ s.ecc.scrub.scan = none ∧ scrubOnline s.ecc.scrub s = true ∧ eventRoom s = true) →
      ∃ t, exec (.scrubEnd []) s = .next t ∧ t.ecc.scrub.state = 2 ∧ t.ecc.scrub.scanned = scrubLines s.ecc.scrub ∧ recorded 0x0B0A t ∧ t.freeCtr = s.freeCtr ∧ t.pu = s.pu ∧ t.ti = s.ti ∧ t.reg = s.reg ∧ t.out = s.out) ∧
    (∀ (line : Nat) (s : State),
      (s.ecc.scrub.state = 1 ∧ s.ecc.scrub.abortAt = none ∧ s.ecc.scrub.scan = none ∧ s.ecc.scrub.target = 2 ∧ eventRoom s = true) →
      (s.ecc.scrub.start ≤ line ∧ line < s.ecc.scrub.start + s.ecc.scrub.length ∧ s.ecc.scrub.entries.length < 256) →
      ∃ t, exec (.scrubEnd [⟨1, 0, line * 64⟩]) s = .next t ∧ t.ecc.scrub.state = 2 ∧ t.ecc.scrub.ceChest = s.ecc.scrub.ceChest + 1 ∧ t.ecc.scrub.entries = s.ecc.scrub.entries ++ [⟨line * 64, 1, 0, 0, 0⟩] ∧
        mgetD 0 2 t.ecc.ce = satAdd 0xFFFFFFFF (mgetD 0 2 s.ecc.ce) 1 ∧ t.pu = s.pu ∧ t.ti = s.ti ∧ t.reg = s.reg ∧ t.out = s.out) ∧
    (∀ (req : CxlReq) (s : State),
      (servesMem req.head s = true ∧ attachmentAt (targetOf req s) req.dpa s = none) →
      (s.ecc.window = s.tb.beat / 2 ^ 26 ∧ mgetD 0 1 s.ecc.windowCe + 1 < param 0x0B04 4096 s) →
      ∃ t, exec (.cxlMemRead req ⟨[], 1, 0, 0⟩) s = .next t ∧ mgetD 0 1 t.ecc.ce = satAdd 0xFFFFFFFF (mgetD 0 1 s.ecc.ce) 1 ∧ mgetD 0 1 t.ecc.windowCe = mgetD 0 1 s.ecc.windowCe + 1 ∧ t.ecc.err = s.ecc.err ||| 4 ∧
        t.ev = s.ev ∧ t.pu = s.pu ∧ t.ti = s.ti ∧ t.reg = s.reg) ∧
    (∀ (req : CxlReq) (s : State),
      (servesMem req.head s = true ∧ attachmentAt (targetOf req s) req.dpa s = none ∧ eventRoom s = true) →
      (s.ecc.window = s.tb.beat / 2 ^ 26 ∧ mgetD 0 1 s.ecc.windowCe + 1 = param 0x0B04 4096 s ∧ s.ecc.thresholdDone = []) →
      ∃ t, exec (.cxlMemRead req ⟨[], 1, 0, 0⟩) s = .next t ∧ recorded 0x0B01 t ∧ t.ecc.err = s.ecc.err ||| 0x204 ∧ t.ecc.thresholdDone = [1] ∧ t.pu = s.pu ∧ t.ti = s.ti ∧ t.reg = s.reg) ∧
    (∀ (stack : Nat) (c : Int) (s : State),
      (stack < 2 ∧ (stackOf stack s).ready = false ∧ -10 ≤ c) →
      ∃ t, exec (.stackTemperatureReading stack c) s = .next t ∧ (stackOf stack t).temp = c ∧ (stackOf stack t).band = firstBand c ∧ (stackOf stack t).half = false ∧ (stackOf stack t).ready = true ∧ t.ev = s.ev ∧ t.pu = s.pu ∧ t.ti = s.ti ∧ t.reg = s.reg ∧ t.out = s.out) ∧
    (∀ (c : BandChange) (s : State),
      (s.ecc.change = some c ∧ c.rate = false ∧ c.since + 4 ≤ s.tb.beat ∧ c.pc % 32 < 31) →
      ∃ t, exec (.bandChangeQuiesce) s = .next t ∧ t.ecc.change = some { c with pc := c.pc + 1, since := s.tb.beat } ∧ t.ecc.owedRefreshes = s.ecc.owedRefreshes.filter (fun r => !([c.pc].contains r.1)) ∧ t.pu = s.pu ∧ t.ti = s.ti ∧ t.reg = s.reg ∧ t.out = s.out) ∧
    (∀ (c : BandChange) (s : State),
      (s.ecc.change = some c ∧ c.rate = true ∧ c.stack < 2 ∧ c.since + 64 ≤ s.tb.beat ∧ eventRoom s = true) →
      ∃ t, exec (.fullRateChange c.stack) s = .next t ∧ (stackOf c.stack t).band = 1 ∧ (stackOf c.stack t).half = false ∧ recorded 0x0B09 t ∧ t.pu = s.pu ∧ t.ti = s.ti ∧ t.reg = s.reg ∧ t.out = s.out) ∧
    (∀ (ch bank : Nat) (s : State),
      (ch < 64 ∧ bank < 64) →
      ∃ t, exec (.refreshDue ch bank) s = .next t ∧ (quiesced ch s = false → mgetD 0 (ch * 64 + bank) t.ecc.refreshes = mgetD 0 (ch * 64 + bank) s.ecc.refreshes + 1) ∧ (quiesced ch s = true → t.ecc.owedRefreshes = s.ecc.owedRefreshes ++ [(ch, bank)] ∧ t.ecc.refreshes = s.ecc.refreshes) ∧
        t.ev = s.ev ∧ t.pu = s.pu ∧ t.ti = s.ti ∧ t.reg = s.reg ∧ t.out = s.out)

/-- A started Capture Control command of a memory queue pair with valid fields, on an instrument port: CONFIGURE makes the ring STOPPED with the configuration and an empty ring, and completes with Success; SET_RULES waits for its beat with the rule set; START makes the ring ARMED and waits for its start beat, STOP waits for its beat, RELEASE waits for the next boundary with the new TAIL, each command running until then; STATUS completes with the sample of the last boundary. The same START as BCS command C060h, sent by a path that may send it, arms the ring and waits for its beat too. -/
def Obligations.CaptureControlActions : Prop :=
    (∀ (qid cid : Nat) (data : Bytes) (q : QueuePair) (c : GqpCmd) (s : State),
      queueOf qid s = some q →
      q.cmds = [c] →
      (c.cid = cid ∧ c.started = true ∧ c.running = false ∧ c.status = 0 ∧ c.src = [] ∧ c.bad = []) →
      (q.transport = 0 ∧ q.deleting = none) →
      (eOpcode c.entry = 0x10 ∧ actCode c.entry = 1 ∧ headerOk q c = true ∧ ePtrKind c.entry = 0 ∧ zeroAt 22 2 c.entry = true) →
      isInstrument (actIndex c.entry) s = true →
      ((ringOf (actIndex c.entry) s).state ≠ 2 ∧ (ringOf (actIndex c.entry) s).state ≠ 3 ∧ (ringOf (actIndex c.entry) s).state ≠ 4) →
      (eLength c.entry = 64 ∧ data.length = 64 ∧ cspecZero [] c.entry = true) →
      ringConfOk data (ringConfOf (eRegion c.entry) (eOffset c.entry) data) = true →
      bitOf 3 (fld 2 1 data) = false →
      ringRegionOk q.domain (ringConfOf (eRegion c.entry) (eOffset c.entry) data) s = true →
      partsApart (actIndex c.entry) (ringConfOf (eRegion c.entry) (eOffset c.entry) data) s = true →
      ∃ t, exec (.captureConfigure qid cid data) s = .next t ∧ (ringOf (actIndex c.entry) t).conf = some (ringConfOf (eRegion c.entry) (eOffset c.entry) data) ∧
        (ringOf (actIndex c.entry) t).state = 1 ∧ ((ringOf (actIndex c.entry) t).write, (ringOf (actIndex c.entry) t).tail, (ringOf (actIndex c.entry) t).durable, (ringOf (actIndex c.entry) t).records) = (0, 0, 0, []) ∧ (ringOf (actIndex c.entry) t).rules = (ringOf (actIndex c.entry) s).rules ∧
        .completion qid cid 0 (completionEntry qid cid 0 false (le 8 0) q s) ∈ t.out ∧ t.reg = s.reg) ∧
    (∀ (qid cid : Nat) (data : Bytes) (q : QueuePair) (c : GqpCmd) (s : State),
      queueOf qid s = some q →
      q.cmds = [c] →
      (c.cid = cid ∧ c.started = true ∧ c.running = false ∧ c.status = 0 ∧ c.src = [] ∧ c.bad = []) →
      (q.transport = 0 ∧ q.deleting = none) →
      (eOpcode c.entry = 0x10 ∧ actCode c.entry = 2 ∧ headerOk q c = true ∧ ePtrKind c.entry = 0 ∧ zeroAt 22 2 c.entry = true) →
      isInstrument (actIndex c.entry) s = true →
      (eRegion c.entry = 0 ∧ eOffset c.entry = 0) →
      (ringOf (actIndex c.entry) s).state ≠ 0 →
      (eLength c.entry % 96 = 0 ∧ 96 ≤ eLength c.entry ∧ eLength c.entry ≤ 6144 ∧ data.length = eLength c.entry) →
      (cspecZero [(32, 40)] c.entry = true ∧ atBeatOk c.entry s = true) →
      (chunksOf 96 data).all ruleOk = true →
      ∃ t, exec (.setRules qid cid data) s = .next t ∧ (ringOf (actIndex c.entry) t).newRules = (ringOf (actIndex c.entry) s).newRules ++ [(chunksOf 96 data, ⟨atBeat c.entry s, .gqp qid cid⟩)] ∧
        (ringOf (actIndex c.entry) t).rules = (ringOf (actIndex c.entry) s).rules ∧ (ringOf (actIndex c.entry) t).state = (ringOf (actIndex c.entry) s).state ∧ (runningCmd qid cid t).isSome = true ∧ t.out = s.out ∧ t.reg = s.reg ∧ t.ti = s.ti ∧ t.pu = s.pu) ∧
    (∀ (qid cid : Nat) (q : QueuePair) (c : GqpCmd) (s : State),
      queueOf qid s = some q →
      q.cmds = [c] →
      (c.cid = cid ∧ c.started = true ∧ c.running = false ∧ c.status = 0 ∧ c.src = [] ∧ c.bad = []) →
      (q.transport = 0 ∧ q.deleting = none) →
      (eOpcode c.entry = 0x10 ∧ actCode c.entry = 3 ∧ headerOk q c = true ∧ ePtrKind c.entry = 0 ∧ zeroAt 22 2 c.entry = true) →
      isInstrument (actIndex c.entry) s = true →
      (eRegion c.entry = 0 ∧ eOffset c.entry = 0 ∧ eLength c.entry = 0) →
      ((ringOf (actIndex c.entry) s).state ≠ 0 ∧ (ringOf (actIndex c.entry) s).state ≠ 3 ∧ (ringOf (actIndex c.entry) s).state ≠ 4) →
      (cspecZero [(32, 41)] c.entry = true ∧ atBeatOk c.entry s = true ∧ fld 40 1 c.entry < 2) →
      ∃ t, exec (.captureStart qid cid) s = .next t ∧ (ringOf (actIndex c.entry) t).state = 2 ∧ (ringOf (actIndex c.entry) t).startAt = (ringOf (actIndex c.entry) s).startAt ++ [(fld 40 1 c.entry == 1, ⟨atBeat c.entry s, .gqp qid cid⟩)] ∧
        (ringOf (actIndex c.entry) t).conf = (ringOf (actIndex c.entry) s).conf ∧ (ringOf (actIndex c.entry) t).records = (ringOf (actIndex c.entry) s).records ∧ (runningCmd qid cid t).isSome = true ∧ t.reg = s.reg ∧ t.ti = s.ti ∧ t.pu = s.pu) ∧
    (∀ (qid cid : Nat) (q : QueuePair) (c : GqpCmd) (s : State),
      queueOf qid s = some q →
      q.cmds = [c] →
      (c.cid = cid ∧ c.started = true ∧ c.running = false ∧ c.status = 0 ∧ c.src = [] ∧ c.bad = []) →
      (q.transport = 0 ∧ q.deleting = none) →
      (eOpcode c.entry = 0x10 ∧ actCode c.entry = 4 ∧ headerOk q c = true ∧ ePtrKind c.entry = 0 ∧ zeroAt 22 2 c.entry = true) →
      isInstrument (actIndex c.entry) s = true →
      (eRegion c.entry = 0 ∧ eOffset c.entry = 0 ∧ eLength c.entry = 0) →
      (ringOf (actIndex c.entry) s).state ≠ 0 →
      (cspecZero [(32, 40)] c.entry = true ∧ atBeatOk c.entry s = true) →
      ∃ t, exec (.captureStop qid cid) s = .next t ∧ (ringOf (actIndex c.entry) t) = { (ringOf (actIndex c.entry) s) with stopAt := (ringOf (actIndex c.entry) s).stopAt ++ [⟨atBeat c.entry s, .gqp qid cid⟩] } ∧
        (runningCmd qid cid t).isSome = true ∧ t.out = s.out ∧ t.ev = s.ev ∧ t.reg = s.reg ∧ t.ti = s.ti ∧ t.pu = s.pu) ∧
    (∀ (qid cid : Nat) (q : QueuePair) (c : GqpCmd) (s : State),
      queueOf qid s = some q →
      q.cmds = [c] →
      (c.cid = cid ∧ c.started = true ∧ c.running = false ∧ c.status = 0 ∧ c.src = [] ∧ c.bad = []) →
      (q.transport = 0 ∧ q.deleting = none) →
      (eOpcode c.entry = 0x10 ∧ actCode c.entry = 5 ∧ headerOk q c = true ∧ ePtrKind c.entry = 0 ∧ zeroAt 22 2 c.entry = true) →
      isInstrument (actIndex c.entry) s = true →
      (eRegion c.entry = 0 ∧ eOffset c.entry = 0 ∧ eLength c.entry = 64 ∧ cspecZero [] c.entry = true) →
      ∃ t, exec (.captureStatus qid cid) s = .next t ∧ .hostData qid cid (eDptr c.entry) (padTo 64 (ringOf (actIndex c.entry) s).sample) ∈ t.out ∧
        .completion qid cid 0 (completionEntry qid cid 0 false [] q s) ∈ t.out ∧ t.cap = s.cap ∧ t.reg = s.reg ∧ t.ti = s.ti ∧ t.pu = s.pu) ∧
    (∀ (qid cid : Nat) (q : QueuePair) (c : GqpCmd) (conf : RingConf) (s : State),
      queueOf qid s = some q →
      q.cmds = [c] →
      (c.cid = cid ∧ c.started = true ∧ c.running = false ∧ c.status = 0 ∧ c.src = [] ∧ c.bad = []) →
      (q.transport = 0 ∧ q.deleting = none) →
      (eOpcode c.entry = 0x10 ∧ actCode c.entry = 6 ∧ headerOk q c = true ∧ ePtrKind c.entry = 0 ∧ zeroAt 22 2 c.entry = true) →
      isInstrument (actIndex c.entry) s = true →
      (eRegion c.entry = 0 ∧ eOffset c.entry = 0 ∧ eLength c.entry = 0 ∧ cspecZero [(40, 48)] c.entry = true) →
      ((ringOf (actIndex c.entry) s).conf = some conf ∧ conf.mode = 0) →
      (fld 40 8 c.entry % 32 = 0 ∧ (ringOf (actIndex c.entry) s).tail ≤ fld 40 8 c.entry ∧ fld 40 8 c.entry ≤ (ringOf (actIndex c.entry) s).durable) →
      ∃ t, exec (.release qid cid) s = .next t ∧ (ringOf (actIndex c.entry) t) = { (ringOf (actIndex c.entry) s) with releaseTo := (ringOf (actIndex c.entry) s).releaseTo ++ [(fld 40 8 c.entry, ⟨s.tb.beat + 1, .gqp qid cid⟩)] } ∧
        (runningCmd qid cid t).isSome = true ∧ t.out = s.out ∧ t.ev = s.ev ∧ t.reg = s.reg ∧ t.ti = s.ti ∧ t.pu = s.pu) ∧
    (∀ (path : BcsPath) (input : Bytes) (s : State),
      bcsOpen path 0xC060 s = true →
      (input.length = 64 ∧ eOpcode input = 0x10 ∧ actCode input = 3 ∧ zeroAt 22 2 input = true ∧ eRegion input = 0 ∧ eOffset input = 0 ∧ eLength input = 0) →
      isInstrument (actIndex input) s = true →
      ((ringOf (actIndex input) s).state = 1 ∧ cspecZero [(32, 41)] input = true ∧ atBeatOk input s = true ∧ fld 40 1 input < 2) →
      ∃ t, exec (.captureControl path input) s = .next t ∧ (ringOf (actIndex input) t).state = 2 ∧
        (ringOf (actIndex input) t).startAt = (ringOf (actIndex input) s).startAt ++ [(fld 40 1 input == 1, ⟨atBeat input s, .bcs path 0xC060⟩)] ∧ t.reg = s.reg ∧ t.ti = s.ti ∧ t.pu = s.pu)

/-- A frame on a running instrument port is stored as one record when the default action keeps it and the receive buffer and the ring have room, with the next RSEQ, and dropped without a trace when it discards it. At its beat a rule set replaces the old one with event 0x0904, START makes the ring RUNNING, STOP makes a ring with nothing left to write STOPPED, RELEASE moves TAIL. A backlog above its bound is reported once, as 0x0903. A staged chunk that is full, or whose first record is 16,384 beats old, is programmed at an address of an open data stripe when its ring has its turn. -/
def Obligations.CaptureRingAndStaging : Prop :=
    (∀ (p : Nat) (f : InstrFrame) (c : RingConf) (s : State),
      ((ringOf p s).conf = some c ∧ (ringOf p s).rules = [] ∧ isInstrument p s = true) →
      ((ringOf p s).state = 3 ∧ (ringOf p s).stopping = false ∧ c.cls = 0 ∧ c.defaultAction = 1 ∧ f.wireLen ≤ 16384) →
      bufferUsed p s + recordSize f.wireLen ≤ 262144 →
      (ringOf p s).write % c.dataSize + recordSize f.wireLen ≤ c.dataSize →
      (ringOf p s).write + recordSize f.wireLen ≤ (ringOf p s).tail + c.dataSize →
      ∃ t, exec (.instrumentFrame p f) s = .next t ∧ (ringOf p t).write = (ringOf p s).write + recordSize f.wireLen ∧
        (ringOf p t).stored = (ringOf p s).stored + 1 ∧ (ringOf p t).rseq = (ringOf p s).rseq + 1 ∧
        (ringOf p t).records = (ringOf p s).records ++ [{ off := (ringOf p s).write, size := recordSize f.wireLen, beat := s.tb.beat, rseq := some ((ringOf p s).rseq % 2 ^ 32) }] ∧
        (ringOf p t).state = 3 ∧ (ringOf p t).dropped = (ringOf p s).dropped ∧ t.out = s.out ∧ t.ev = s.ev ∧ t.reg = s.reg ∧ t.ti = s.ti ∧ t.pu = s.pu) ∧
    (∀ (p : Nat) (f : InstrFrame) (c : RingConf) (s : State),
      ((ringOf p s).conf = some c ∧ (ringOf p s).rules = [] ∧ c.defaultAction = 2) →
      Machine.exec (.instrumentFrame p f) s = .next s) ∧
    (∀ (p : Nat) (x : List Bytes × Timed) (s : State),
      ((ringOf p s).newRules = [x] ∧ x.2.beat ≤ s.tb.beat ∧ x.2.waiter = .nobody) →
      eventRoom s = true →
      ∃ t, exec (.ruleSetActivation p) s = .next t ∧ (ringOf p t).rules = x.1 ∧ (ringOf p t).newRules = [] ∧ recorded 0x0904 t ∧
        (ringOf p t).state = (ringOf p s).state ∧ (ringOf p t).records = (ringOf p s).records ∧ t.reg = s.reg ∧ t.ti = s.ti ∧ t.pu = s.pu) ∧
    (∀ (p : Nat) (x : Timed) (s : State),
      ((ringOf p s).startAt = [(false, x)] ∧ x.beat ≤ s.tb.beat ∧ x.waiter = .nobody ∧ (ringOf p s).state ≠ 3) →
      ∃ t, exec (.ringStartBeat p) s = .next t ∧ (ringOf p t).state = 3 ∧ (ringOf p t).startAt = [] ∧ (ringOf p t).cause = 0 ∧ (ringOf p t).stopping = false ∧
        (ringOf p t).write = (ringOf p s).write ∧ (ringOf p t).records = (ringOf p s).records ∧ t.reg = s.reg ∧ t.ti = s.ti ∧ t.pu = s.pu) ∧
    (∀ (p : Nat) (x : Timed) (s : State),
      ((ringOf p s).startAt = [(true, x)] ∧ x.beat ≤ s.tb.beat ∧ x.waiter = .nobody ∧ (ringOf p s).state ≠ 3) →
      ∃ t, exec (.ringStartBeat p) s = .next t ∧ (ringOf p t).state = 3 ∧ (ringOf p t).epoch = x.beat ∧ (ringOf p t).tail = (ringOf p s).write ∧
        (ringOf p t).durable = (ringOf p s).write ∧ (ringOf p t).records = [] ∧ ((ringOf p t).rseq, (ringOf p t).stored, (ringOf p t).dropped) = (0, 0, 0) ∧
        t.reg = s.reg ∧ t.ti = s.ti ∧ t.pu = s.pu) ∧
    (∀ (p : Nat) (x : Timed) (s : State),
      ((ringOf p s).stopAt = [x] ∧ x.beat ≤ s.tb.beat ∧ x.waiter = .nobody ∧ (ringOf p s).state = 3 ∧ (ringOf p s).buffer = []) →
      ∃ t, exec (.ringStopBeat p) s = .next t ∧ (ringOf p t).state = 1 ∧ (ringOf p t).stopAt = [] ∧ (ringOf p t).stopping = false ∧
        (ringOf p t).write = (ringOf p s).write ∧ (ringOf p t).records = (ringOf p s).records ∧ t.reg = s.reg ∧ t.ti = s.ti ∧ t.pu = s.pu) ∧
    (∀ (p : Nat) (x : Timed) (off : Nat) (s : State),
      ((ringOf p s).releaseTo = [(off, x)] ∧ x.beat ≤ s.tb.beat ∧ x.waiter = .nobody ∧ (ringOf p s).tail ≤ off ∧ off ≤ (ringOf p s).durable) →
      ((ringOf p s).state = 5 ∧ (ringOf p s).stopping = false) →
      ∃ t, exec (.tailRelease p) s = .next t ∧ (ringOf p t).tail = off ∧ (ringOf p t).state = 3 ∧ (ringOf p t).releaseTo = [] ∧
        (ringOf p t).durable = (ringOf p s).durable ∧ (ringOf p t).write = (ringOf p s).write ∧ t.reg = s.reg ∧ t.ti = s.ti ∧ t.pu = s.pu) ∧
    (∀ (s : State),
      16384 * stagedShare s < backlogAll s →
      s.cap.backlogHigh = false →
      eventRoom s = true →
      ∃ t, exec (.stagedBacklogExceeded) s = .next t ∧ recorded 0x0903 t ∧ t.cap = { s.cap with backlogHigh := true } ∧ t.reg = s.reg ∧ t.ti = s.ti ∧ t.pu = s.pu) ∧
    (∀ (p lcn addr r : Nat) (c : StagedChunk) (d : Region) (s : State),
      (stagedAt lcn s = some c ∧ c.lcn = lcn ∧ c.port = p) →
      chunkRegion lcn s = some (r, d) →
      programDue true c s = true →
      turnOfRing s = some p →
      canProgram .openData addr s = true →
      2 ≤ (freeStripes (addrPosition addr) s).length →
      canEncipher d s = true →
      ∃ t, exec (.stagedChunkProgram p lcn addr) s = .next t ∧ t.ti.inFlight.getLast? = some { lcn := lcn, addr := addr, fromAddr := entryAddr lcn s, through := c.filled, staged := true } ∧
        t.cap.lastRing = p ∧ (stagedAt lcn t).map (·.programmed) = some c.filled ∧ t.reg = s.reg ∧ t.pu = s.pu) ∧
    (∀ (p lcn addr r : Nat) (c : StagedChunk) (d : Region) (s : State),
      (stagedAt lcn s = some c ∧ c.lcn = lcn ∧ c.port = p) →
      chunkRegion lcn s = some (r, d) →
      (c.filled < 65536 ∧ c.first + 16384 ≤ s.tb.beat ∧ programDue false c s = true) →
      turnOfRing s = some p →
      canProgram .openData addr s = true →
      2 ≤ (freeStripes (addrPosition addr) s).length →
      canEncipher d s = true →
      ∃ t, exec (.stagedChunkTimeout p lcn addr) s = .next t ∧ t.ti.inFlight.getLast? = some { lcn := lcn, addr := addr, fromAddr := entryAddr lcn s, through := c.filled, staged := true } ∧
        t.cap.lastRing = p ∧ (stagedAt lcn t).map (·.programmed) = some c.filled ∧ t.reg = s.reg ∧ t.pu = s.pu)

/-- A started Replay Control command of a memory queue pair with valid fields, on an instrument port with staging: CONFIGURE makes the channel IDLE with the given policy and LEAD (131,072 where it is 0) and completes; LOAD copies a program whose steps keep to R404, makes the channel LOADED and completes with the number of steps; START makes it ARMED, its counters cleared and its schedule starting at the start beat, and waits for that beat; STOP waits for its beat; STATUS completes with the sample of the last boundary. The STATUS of BCS command C061h is answered with it. -/
def Obligations.ReplayControlActions : Prop :=
    (∀ (qid cid : Nat) (data : Bytes) (q : QueuePair) (c : GqpCmd) (s : State),
      queueOf qid s = some q →
      q.cmds = [c] →
      (c.cid = cid ∧ c.started = true ∧ c.running = false ∧ c.status = 0 ∧ c.src = [] ∧ c.bad = []) →
      (q.transport = 0 ∧ q.deleting = none) →
      (eOpcode c.entry = 0x11 ∧ actCode c.entry = 1 ∧ headerOk q c = true ∧ ePtrKind c.entry = 0 ∧ zeroAt 22 2 c.entry = true) →
      isInstrument (actIndex c.entry) s = true →
      (eRegion c.entry = 0 ∧ eOffset c.entry = 0 ∧ eLength c.entry = 64 ∧ cspecZero [] c.entry = true) →
      (stagingOk s = true ∧ channelBusy (channelOf (actIndex c.entry) s) = false) →
      (data.length = 64 ∧ (fld 0 1 data = 0 ∨ fld 0 1 data = 2) ∧ fld 1 1 data < 2 ∧ fld 2 1 data < 4 ∧ zeroAt 3 1 data = true) →
      (fld 4 4 data = 0 ∨ (1024 ≤ fld 4 4 data ∧ fld 4 4 data ≤ 2 ^ 21)) →
      zeroAt 8 56 data = true →
      ∃ t, exec (.replayConfigure qid cid data) s = .next t ∧ (channelOf (actIndex c.entry) t).state = 1 ∧ ((channelOf (actIndex c.entry) t).policy, (channelOf (actIndex c.entry) t).fcsMode, (channelOf (actIndex c.entry) t).flags) = (fld 0 1 data, fld 1 1 data, fld 2 1 data) ∧
        (channelOf (actIndex c.entry) t).lead = (if fld 4 4 data = 0 then 131072 else fld 4 4 data) ∧ (channelOf (actIndex c.entry) t).program = [] ∧
        .completion qid cid 0 (completionEntry qid cid 0 false [] q s) ∈ t.out ∧ t.reg = s.reg ∧ t.ti = s.ti ∧ t.pu = s.pu) ∧
    (∀ (qid cid : Nat) (q : QueuePair) (c : GqpCmd) (d : Region) (s : State),
      queueOf qid s = some q →
      q.cmds = [c] →
      (c.cid = cid ∧ c.started = true ∧ c.running = false ∧ c.status = 0 ∧ c.src = [] ∧ c.bad = []) →
      (q.transport = 0 ∧ q.deleting = none) →
      (eOpcode c.entry = 0x11 ∧ actCode c.entry = 2 ∧ headerOk q c = true ∧ ePtrKind c.entry = 0 ∧ zeroAt 22 2 c.entry = true) →
      isInstrument (actIndex c.entry) s = true →
      (eLength c.entry % 32 = 0 ∧ 32 ≤ eLength c.entry ∧ eLength c.entry ≤ 4096 ∧ cspecZero [] c.entry = true) →
      ((channelOf (actIndex c.entry) s).state ≠ 0 ∧ channelBusy (channelOf (actIndex c.entry) s) = false) →
      regionStatus q.domain (eRegion c.entry) (eOffset c.entry) (eLength c.entry) false s = none →
      regionOf (eRegion c.entry) s = some d →
      (d.settee = false ∧ d.mirrored = false ∧ d.seat = s.ident.controllerId) →
      poisonedLines (eRegion c.entry) (eOffset c.entry) (eLength c.entry) s = [] →
      (((chunksOf 32 (readBytes (eRegion c.entry) (eOffset c.entry) (eLength c.entry) s)).zipIdx.all fun x => stepOk x.2 x.1) = true) →
      ∃ t, exec (.load qid cid) s = .next t ∧ (channelOf (actIndex c.entry) t).state = 2 ∧ (channelOf (actIndex c.entry) t).program = chunksOf 32 (readBytes (eRegion c.entry) (eOffset c.entry) (eLength c.entry) s) ∧
        .completion qid cid 0 (completionEntry qid cid 0 false (le 4 (chunksOf 32 (readBytes (eRegion c.entry) (eOffset c.entry) (eLength c.entry) s)).length) q s) ∈ t.out ∧ t.reg = s.reg ∧ t.ti = s.ti ∧ t.pu = s.pu) ∧
    (∀ (qid cid : Nat) (q : QueuePair) (c : GqpCmd) (s : State),
      queueOf qid s = some q →
      q.cmds = [c] →
      (c.cid = cid ∧ c.started = true ∧ c.running = false ∧ c.status = 0 ∧ c.src = [] ∧ c.bad = []) →
      (q.transport = 0 ∧ q.deleting = none) →
      (eOpcode c.entry = 0x11 ∧ actCode c.entry = 3 ∧ headerOk q c = true ∧ ePtrKind c.entry = 0 ∧ zeroAt 22 2 c.entry = true) →
      isInstrument (actIndex c.entry) s = true →
      (eRegion c.entry = 0 ∧ eOffset c.entry = 0 ∧ eLength c.entry = 0 ∧ cspecZero [(32, 40)] c.entry = true ∧ atBeatOk c.entry s = true) →
      ((channelOf (actIndex c.entry) s).state = 2 ∨ (channelOf (actIndex c.entry) s).state = 6 ∨ (channelOf (actIndex c.entry) s).state = 7) →
      ((channelOf (actIndex c.entry) s).program ≠ [] ∧ programReadable q.domain (channelOf (actIndex c.entry) s).program s = true) →
      ∃ t, exec (.replayStart qid cid) s = .next t ∧ (channelOf (actIndex c.entry) t).state = 3 ∧ (channelOf (actIndex c.entry) t).startAt = some ⟨atBeat c.entry s, .gqp qid cid⟩ ∧ (channelOf (actIndex c.entry) t).program = (channelOf (actIndex c.entry) s).program ∧
        ((channelOf (actIndex c.entry) t).startBeat, (channelOf (actIndex c.entry) t).sent, (channelOf (actIndex c.entry) t).slip, (channelOf (actIndex c.entry) t).shift) = (atBeat c.entry s, 0, 0, 0) ∧ (channelOf (actIndex c.entry) t).items = [] ∧ (runningCmd qid cid t).isSome = true ∧ t.reg = s.reg ∧ t.ti = s.ti ∧ t.pu = s.pu) ∧
    (∀ (qid cid : Nat) (q : QueuePair) (c : GqpCmd) (s : State),
      queueOf qid s = some q →
      q.cmds = [c] →
      (c.cid = cid ∧ c.started = true ∧ c.running = false ∧ c.status = 0 ∧ c.src = [] ∧ c.bad = []) →
      (q.transport = 0 ∧ q.deleting = none) →
      (eOpcode c.entry = 0x11 ∧ actCode c.entry = 4 ∧ headerOk q c = true ∧ ePtrKind c.entry = 0 ∧ zeroAt 22 2 c.entry = true) →
      isInstrument (actIndex c.entry) s = true →
      (eRegion c.entry = 0 ∧ eOffset c.entry = 0 ∧ eLength c.entry = 0 ∧ cspecZero [(32, 40)] c.entry = true ∧ atBeatOk c.entry s = true) →
      (channelOf (actIndex c.entry) s).state ≠ 0 →
      ∃ t, exec (.replayStop qid cid) s = .next t ∧ (channelOf (actIndex c.entry) t) = { (channelOf (actIndex c.entry) s) with stopAt := (channelOf (actIndex c.entry) s).stopAt ++ [⟨atBeat c.entry s, .gqp qid cid⟩] } ∧
        (runningCmd qid cid t).isSome = true ∧ t.out = s.out ∧ t.ev = s.ev ∧ t.reg = s.reg ∧ t.ti = s.ti ∧ t.pu = s.pu) ∧
    (∀ (qid cid : Nat) (q : QueuePair) (c : GqpCmd) (s : State),
      queueOf qid s = some q →
      q.cmds = [c] →
      (c.cid = cid ∧ c.started = true ∧ c.running = false ∧ c.status = 0 ∧ c.src = [] ∧ c.bad = []) →
      (q.transport = 0 ∧ q.deleting = none) →
      (eOpcode c.entry = 0x11 ∧ actCode c.entry = 5 ∧ headerOk q c = true ∧ ePtrKind c.entry = 0 ∧ zeroAt 22 2 c.entry = true) →
      isInstrument (actIndex c.entry) s = true →
      (eRegion c.entry = 0 ∧ eOffset c.entry = 0 ∧ eLength c.entry = 64 ∧ cspecZero [] c.entry = true) →
      ∃ t, exec (.replayStatus qid cid) s = .next t ∧ .hostData qid cid (eDptr c.entry) (padTo 64 (channelOf (actIndex c.entry) s).sample) ∈ t.out ∧
        .completion qid cid 0 (completionEntry qid cid 0 false [] q s) ∈ t.out ∧ t.cap = s.cap ∧ t.reg = s.reg ∧ t.ti = s.ti ∧ t.pu = s.pu) ∧
    (∀ (path : BcsPath) (input : Bytes) (s : State),
      bcsOpen path 0xC061 s = true →
      (input.length = 64 ∧ eOpcode input = 0x11 ∧ actCode input = 5 ∧ zeroAt 22 2 input = true ∧ eRegion input = 0 ∧ eOffset input = 0 ∧ eLength input = 64) →
      (isInstrument (actIndex input) s = true ∧ cspecZero [] input = true) →
      ∃ t, exec (.replayControl path input) s = .next t ∧ answered path 0xC061 0 (zeros 16 ++ padTo 64 (channelOf (actIndex input) s).sample) t ∧ t.cap = s.cap ∧ t.reg = s.reg ∧ t.ti = s.ti ∧ t.pu = s.pu)

/-- An ARMED channel whose start beat has come is RUNNING, reported as 0x0905. A busy channel whose stop beat has come is STOPPED with cause 0 and nothing left to send. A fetch at the end of the program ends the schedule. The first frame that is not staged and fully checked becomes staged. The next frame of the beat is launched at its scheduled cycle, or once the wire is free, and counted; the wire is then busy for the frame and 20 bytes more. -/
def Obligations.ReplayChannelBeatsAndFrames : Prop :=
    (∀ (ch : Nat) (x : Timed) (s : State),
      ((channelOf ch s).startAt = some x ∧ x.beat ≤ s.tb.beat ∧ x.waiter = .nobody ∧ (channelOf ch s).state = 3) →
      ((channelOf ch s).items = [] ∧ (channelOf ch s).fetch.ended = true ∧ eventRoom s = true) →
      ∃ t, exec (.channelStartBeat ch) s = .next t ∧ (channelOf ch t).state = 4 ∧ (channelOf ch t).startAt = none ∧ recorded 0x0905 t ∧
        (channelOf ch t).sent = (channelOf ch s).sent ∧ t.reg = s.reg ∧ t.ti = s.ti ∧ t.pu = s.pu) ∧
    (∀ (ch : Nat) (x : Timed) (s : State),
      ((channelOf ch s).stopAt = [x] ∧ x.beat ≤ s.tb.beat ∧ x.waiter = .nobody ∧ channelBusy (channelOf ch s) = true ∧ (channelOf ch s).startAt = none) →
      eventRoom s = true →
      ∃ t, exec (.channelStopBeat ch) s = .next t ∧ (channelOf ch t).state = 7 ∧ (channelOf ch t).cause = 0 ∧ (channelOf ch t).stopAt = [] ∧ (channelOf ch t).items = [] ∧
        (channelOf ch t).due = [] ∧ recorded 0x0905 t ∧ t.reg = s.reg ∧ t.ti = s.ti ∧ t.pu = s.pu) ∧
    (∀ (ch : Nat) (s : State),
      mayFetch (channelOf ch s) s = true →
      atEnd (channelOf ch s).program (channelOf ch s).fetch = true →
      ∃ t, exec (.replayPrefetch ch) s = .next t ∧ (channelOf ch t).items = (channelOf ch s).items ++ [{ kind := .finish, step := (channelOf ch s).fetch.step, cyc := (channelOf ch s).fetch.start * 1024 }] ∧
        (channelOf ch t).fetch.ended = true ∧ (channelOf ch t).state = (channelOf ch s).state ∧ t.out = s.out ∧ t.ev = s.ev ∧ t.reg = s.reg ∧ t.ti = s.ti ∧ t.pu = s.pu) ∧
    (∀ (ch : Nat) (i : ReplayItem) (rest : List ReplayItem) (s : State),
      ((channelOf ch s).items = i :: rest ∧ i.kind = .frame ∧ i.staged = false ∧ i.checkLeft = 0) →
      mhas ch s.cap.channels = true →
      ∃ t, exec (.recordStaged ch) s = .next t ∧ channelOf ch t = { channelOf ch s with items := { i with staged := true } :: rest } ∧ t.out = s.out ∧ t.ev = s.ev ∧ t.reg = s.reg ∧ t.ti = s.ti ∧ t.pu = s.pu) ∧
    (∀ (ch cycle : Nat) (i : ReplayItem) (rest : List ReplayItem) (s : State),
      ((channelOf ch s).due = i :: rest ∧ i.poison = false ∧ i.checkBad = false ∧ (channelOf ch s).stopAfter = none) →
      s.tb.beat * 1024 + cycle = max i.cyc (channelOf ch s).wireFree →
      ∃ t, exec (.frameLaunch ch cycle) s = .next t ∧ t.out = .launch ch ch i.frame false cycle :: s.out ∧ (channelOf ch t).due = rest ∧ (channelOf ch t).sent = (channelOf ch s).sent + 1 ∧
        (channelOf ch t).wireFree = max i.cyc (channelOf ch s).wireFree + wireCycles ch (i.frame.length + 20) s ∧
        (channelOf ch t).late = (channelOf ch s).late + (if i.cyc < (channelOf ch s).wireFree then 1 else 0) ∧ t.ev = s.ev ∧ t.reg = s.reg ∧ t.ti = s.ti ∧ t.pu = s.pu)

/-- For every state with VCORE up in which the sideband answers: a read of DCB.BEAT_LO returns bits 31 to 0 of the beat counter and latches bits 63 to 32, a read of DCB.BEAT_HI after it returns the latched half, and the two halves together are the beat counter modulo 2^64. A read of DCB.BEAT_HI alone returns what the last read of DCB.BEAT_LO latched. -/
def Obligations.LowHalfLatchesForTheHighHalf : Prop :=
    (∀ (s : State),
      (blockPowered 0x20044 s = true ∧ s.seq.vstby = true ∧ s.seq.clk25 = true) →
      ∃ t u, Machine.exec .beatLoRead s = .next t ∧ Machine.exec (.registerRead 0x20044 true) t = .next u ∧
      t.out = .regRead (BitVec.ofNat 32 s.tb.beat) :: s.out ∧ u.out = .sideband (le 4 t.tb.beatHi.toNat) :: t.out ∧
      t.tb.beatHi.toNat * 2 ^ 32 + (BitVec.ofNat 32 s.tb.beat).toNat = s.tb.beat % 2 ^ 64 ∧ u.tb = t.tb) ∧
    (∀ (s : State),
      (blockPowered 0x20044 s = true ∧ s.seq.vstby = true ∧ s.seq.clk25 = true) →
      ∃ t, exec (.registerRead 0x20044 true) s = .next t ∧ t.out = .sideband (le 4 s.tb.beatHi.toNat) :: s.out ∧ t.tb = s.tb ∧ t.ti = s.ti ∧ t.reg = s.reg)

/-- When the staged backlog stands above 16,384 times S and has not been reported since it last stood at or below that, the controller records event 0x0903 with the backlog and S. While it has been reported and not fallen back, the command changes nothing. The report is armed again exactly when the backlog stands at or below 16,384 times S. -/
def Obligations.BacklogIsReportedOnce : Prop :=
    (∀ (s : State),
      (16384 * stagedShare s < backlogAll s ∧ s.cap.backlogHigh = false ∧ eventRoom s = true) →
      ∃ t, exec (.stagedBacklogExceeded) s = .next t ∧ newestEvent t = some (0x0903, .warning) ∧ t.cap.backlogHigh = true ∧ t.cap.chunks = s.cap.chunks) ∧
    (∀ (s : State),
      (s.cap.backlogHigh = true ∨ backlogAll s ≤ 16384 * stagedShare s) →
      Machine.exec .stagedBacklogExceeded s = .next s) ∧
    (∀ (s : State),
      (settleBacklog s).cap.backlogHigh = (s.cap.backlogHigh && decide (16384 * stagedShare s < backlogAll s)))

/-- For every state with the link up and the batch that is expected next: when the batch holds a DATA flit, and its last flit is no TAG flit with the AES-256-GCM tag of its DATA flits, the whole batch is discarded and NAKed. Nothing of the state changes but the link's queue of messages to send, which the NAK heads. -/
def Obligations.NoByteBeforeTheTag : Prop :=
    ∀ (number : Nat) (flits : List Bytes) (s : State),
      (linkUp s = true ∧ number = s.pair.link.rxBatch) →
      ((flits.any fun f => headerBits 3 0 f == 3) = true) →
      ((flits.getLast?.any fun f => headerBits 3 0 f == 4 && slice 8 16 f == gcmTag (keyOf (1 - s.pair.position) s.pair.link) (batchNonce (partnerId s) number) ((flits.filter fun f => headerBits 3 0 f == 3).flatMap fun f => f.take 8) ((flits.filter fun f => headerBits 3 0 f == 3).flatMap fun f => slice 8 240 f)) = false) →
      ∃ t, exec (.batchReceive number flits) s = .next t ∧ t = modLink (fun l => { l with queue := { vc := 0, opcode := 0x05, operand := number } :: l.queue }) s

/-- For every state s, whether a run reaches it or not: when a step answers a next state, that state's queue is s's queue without its front command, what has left the block is what had left it and more, and no draw of a free value is taken back. When moreover every byte memory of s is in canonical form (the form in which the model holds memory), the next state's are. When the recorder's queue of 1,024 records and the supervisor's buffer of 16 hold no more than that, they hold no more than that after the step. -/
def Obligations.EveryStepKeepsMemoriesAndBuffers : Prop :=
    ∀ (s t : State),
      step s = .next t →
      t.pending = s.pending.tail ∧ s.out <:+ t.out ∧ s.freeCtr ≤ t.freeCtr ∧ (canonical s = true → canonical t = true) ∧
      (boundedEvents s = true → boundedEvents t = true)

/-- The invariant that every step keeps holds after reset: every byte memory is in canonical form and the event buffers are empty. -/
def Obligations.ResetIsCanonicalAndBounded : Prop :=
    canonical State.reset = true ∧ boundedEvents State.reset = true ∧ State.reset.pending = []

/-- For every state s and every step that answers a next state: the device unique secret is the same; the ROLLBACK fuse count is no lower; a blown LEVEL2 fuse stays blown; the window-floor records written so far stand, in order, at the head of those after the step; the numbers of power cycles and of hours, the next record index of the event recorder and the next index of the wear log are no lower. Resets, losses of power, the sanitize and the lowering of the protection level are no exception. -/
def Obligations.FusesSecretAndCountsStand : Prop :=
    ∀ (s t : State),
      step s = .next t →
      t.trust.dus = s.trust.dus ∧ s.trust.rollback ≤ t.trust.rollback ∧ (s.trust.level2 = true → t.trust.level2 = true) ∧
      s.trust.signer.floors <+: t.trust.signer.floors ∧ s.ev.cycles ≤ t.ev.cycles ∧ s.ev.hours ≤ t.ev.hours ∧
      s.ev.nextIndex ≤ t.ev.nextIndex ∧ s.ev.wearIndex ≤ t.ev.wearIndex

/-- For every command and every state: when the command is no register access at an offset of 0x80000 or above, its outcome is a next state; no fault and no refusal ends a run on any data. A register access at such an offset faults by its name, with the offset. -/
def Obligations.EveryCommandCompletes : Prop :=
    (∀ (c : Instr) (s : State),
      outsideOf c = none →
      ∃ t, Machine.exec c s = .next t) ∧
    (∀ (c : Instr) (offset : Nat) (s : State),
      outsideOf c = some offset →
      Machine.exec c s = .fault (.outsideBar offset))

/-- For every BCS command of the executor's table, on every path and with every input, other than the two that the supervisor executes itself on the sideband (C080h and C081h): with no usable lockstep pair it is answered Internal Error; during a restart of the complex it waits, and nothing else changes; in ROM recovery it is answered Recovery Mode unless it is one that ROM recovery serves, on the sideband; and, where firmware serves, a command that needs privilege is answered Not Privileged on a path without it. In each case the answer is all that happens. -/
def Obligations.TheExecutorGatesEveryCommand : Prop :=
    (∀ (c : Instr) (path : BcsPath) (opcode : Nat) (input : Bytes) (s : State),
      bcsRow c = some (path, opcode, input) →
      (path = .sideband → opcode ≠ 0xC080 ∧ opcode ≠ 0xC081) →
      noPair s = true →
      Machine.exec c s = .next (answer path opcode 0x0004 [] s)) ∧
    (∀ (c : Instr) (path : BcsPath) (opcode : Nat) (input : Bytes) (s : State),
      bcsRow c = some (path, opcode, input) →
      (path = .sideband → opcode ≠ 0xC080 ∧ opcode ≠ 0xC081) →
      (noPair s = false ∧ s.mc.serving = false ∧ s.mc.restart.isSome = true) →
      Machine.exec c s = .next { s with pair := { s.pair with heldBcs := s.pair.heldBcs ++ [⟨path, opcode, input⟩] } }) ∧
    (∀ (c : Instr) (path : BcsPath) (opcode : Nat) (input : Bytes) (s : State),
      bcsRow c = some (path, opcode, input) →
      (path = .sideband → opcode ≠ 0xC080 ∧ opcode ≠ 0xC081) →
      (noPair s = false ∧ s.mc.serving = true ∧ s.mc.rom = true ∧ (romServes opcode = false ∨ path ≠ .sideband)) →
      Machine.exec c s = .next (answer path opcode 0x8004 [] s)) ∧
    (∀ (c : Instr) (path : BcsPath) (opcode : Nat) (input : Bytes) (s : State),
      bcsRow c = some (path, opcode, input) →
      (noPair s = false ∧ s.mc.serving = true ∧ s.mc.rom = false ∧ needsPrivilege opcode = true ∧ privileged path = false) →
      Machine.exec c s = .next (answer path opcode 0x8006 [] s))
end

