-- ==== Sys2Proof/Laws/State.lean ====
section
/-! SUPPORT. The state after each elementary update, field by field: what the update changes, and that it leaves every other field. -/

namespace Sys2Proof.Machine

/-! ### `modTb` -/

@[simp] theorem modTb_ident (f : Timebase → Timebase) (s : State) : (modTb f s).ident = s.ident := rfl
@[simp] theorem modTb_tb (f : Timebase → Timebase) (s : State) : (modTb f s).tb = f s.tb := rfl
@[simp] theorem modTb_slot (f : Timebase → Timebase) (s : State) : (modTb f s).slot = s.slot := rfl
@[simp] theorem modTb_ev (f : Timebase → Timebase) (s : State) : (modTb f s).ev = s.ev := rfl
@[simp] theorem modTb_pu (f : Timebase → Timebase) (s : State) : (modTb f s).pu = s.pu := rfl
@[simp] theorem modTb_ti (f : Timebase → Timebase) (s : State) : (modTb f s).ti = s.ti := rfl
@[simp] theorem modTb_reg (f : Timebase → Timebase) (s : State) : (modTb f s).reg = s.reg := rfl
@[simp] theorem modTb_pair (f : Timebase → Timebase) (s : State) : (modTb f s).pair = s.pair := rfl
@[simp] theorem modTb_cxl (f : Timebase → Timebase) (s : State) : (modTb f s).cxl = s.cxl := rfl
@[simp] theorem modTb_te (f : Timebase → Timebase) (s : State) : (modTb f s).te = s.te := rfl
@[simp] theorem modTb_gqp (f : Timebase → Timebase) (s : State) : (modTb f s).gqp = s.gqp := rfl
@[simp] theorem modTb_net (f : Timebase → Timebase) (s : State) : (modTb f s).net = s.net := rfl
@[simp] theorem modTb_cap (f : Timebase → Timebase) (s : State) : (modTb f s).cap = s.cap := rfl
@[simp] theorem modTb_ecc (f : Timebase → Timebase) (s : State) : (modTb f s).ecc = s.ecc := rfl
@[simp] theorem modTb_mc (f : Timebase → Timebase) (s : State) : (modTb f s).mc = s.mc := rfl
@[simp] theorem modTb_trust (f : Timebase → Timebase) (s : State) : (modTb f s).trust = s.trust := rfl
@[simp] theorem modTb_params (f : Timebase → Timebase) (s : State) : (modTb f s).params = s.params := rfl
@[simp] theorem modTb_paramsDue (f : Timebase → Timebase) (s : State) : (modTb f s).paramsDue = s.paramsDue := rfl
@[simp] theorem modTb_seq (f : Timebase → Timebase) (s : State) : (modTb f s).seq = s.seq := rfl
@[simp] theorem modTb_pwr (f : Timebase → Timebase) (s : State) : (modTb f s).pwr = s.pwr := rfl
@[simp] theorem modTb_start (f : Timebase → Timebase) (s : State) : (modTb f s).start = s.start := rfl
@[simp] theorem modTb_nor (f : Timebase → Timebase) (s : State) : (modTb f s).nor = s.nor := rfl
@[simp] theorem modTb_out (f : Timebase → Timebase) (s : State) : (modTb f s).out = s.out := rfl
@[simp] theorem modTb_freeCtr (f : Timebase → Timebase) (s : State) : (modTb f s).freeCtr = s.freeCtr := rfl
@[simp] theorem modTb_pending (f : Timebase → Timebase) (s : State) : (modTb f s).pending = s.pending := rfl

/-! ### `modPu` -/

@[simp] theorem modPu_ident (f : Persist → Persist) (s : State) : (modPu f s).ident = s.ident := rfl
@[simp] theorem modPu_tb (f : Persist → Persist) (s : State) : (modPu f s).tb = s.tb := rfl
@[simp] theorem modPu_slot (f : Persist → Persist) (s : State) : (modPu f s).slot = s.slot := rfl
@[simp] theorem modPu_ev (f : Persist → Persist) (s : State) : (modPu f s).ev = s.ev := rfl
@[simp] theorem modPu_pu (f : Persist → Persist) (s : State) : (modPu f s).pu = f s.pu := rfl
@[simp] theorem modPu_ti (f : Persist → Persist) (s : State) : (modPu f s).ti = s.ti := rfl
@[simp] theorem modPu_reg (f : Persist → Persist) (s : State) : (modPu f s).reg = s.reg := rfl
@[simp] theorem modPu_pair (f : Persist → Persist) (s : State) : (modPu f s).pair = s.pair := rfl
@[simp] theorem modPu_cxl (f : Persist → Persist) (s : State) : (modPu f s).cxl = s.cxl := rfl
@[simp] theorem modPu_te (f : Persist → Persist) (s : State) : (modPu f s).te = s.te := rfl
@[simp] theorem modPu_gqp (f : Persist → Persist) (s : State) : (modPu f s).gqp = s.gqp := rfl
@[simp] theorem modPu_net (f : Persist → Persist) (s : State) : (modPu f s).net = s.net := rfl
@[simp] theorem modPu_cap (f : Persist → Persist) (s : State) : (modPu f s).cap = s.cap := rfl
@[simp] theorem modPu_ecc (f : Persist → Persist) (s : State) : (modPu f s).ecc = s.ecc := rfl
@[simp] theorem modPu_mc (f : Persist → Persist) (s : State) : (modPu f s).mc = s.mc := rfl
@[simp] theorem modPu_trust (f : Persist → Persist) (s : State) : (modPu f s).trust = s.trust := rfl
@[simp] theorem modPu_params (f : Persist → Persist) (s : State) : (modPu f s).params = s.params := rfl
@[simp] theorem modPu_paramsDue (f : Persist → Persist) (s : State) : (modPu f s).paramsDue = s.paramsDue := rfl
@[simp] theorem modPu_seq (f : Persist → Persist) (s : State) : (modPu f s).seq = s.seq := rfl
@[simp] theorem modPu_pwr (f : Persist → Persist) (s : State) : (modPu f s).pwr = s.pwr := rfl
@[simp] theorem modPu_start (f : Persist → Persist) (s : State) : (modPu f s).start = s.start := rfl
@[simp] theorem modPu_nor (f : Persist → Persist) (s : State) : (modPu f s).nor = s.nor := rfl
@[simp] theorem modPu_out (f : Persist → Persist) (s : State) : (modPu f s).out = s.out := rfl
@[simp] theorem modPu_freeCtr (f : Persist → Persist) (s : State) : (modPu f s).freeCtr = s.freeCtr := rfl
@[simp] theorem modPu_pending (f : Persist → Persist) (s : State) : (modPu f s).pending = s.pending := rfl

/-! ### `modTi` -/

@[simp] theorem modTi_ident (f : Tiers → Tiers) (s : State) : (modTi f s).ident = s.ident := rfl
@[simp] theorem modTi_tb (f : Tiers → Tiers) (s : State) : (modTi f s).tb = s.tb := rfl
@[simp] theorem modTi_slot (f : Tiers → Tiers) (s : State) : (modTi f s).slot = s.slot := rfl
@[simp] theorem modTi_ev (f : Tiers → Tiers) (s : State) : (modTi f s).ev = s.ev := rfl
@[simp] theorem modTi_pu (f : Tiers → Tiers) (s : State) : (modTi f s).pu = s.pu := rfl
@[simp] theorem modTi_ti (f : Tiers → Tiers) (s : State) : (modTi f s).ti = f s.ti := rfl
@[simp] theorem modTi_reg (f : Tiers → Tiers) (s : State) : (modTi f s).reg = s.reg := rfl
@[simp] theorem modTi_pair (f : Tiers → Tiers) (s : State) : (modTi f s).pair = s.pair := rfl
@[simp] theorem modTi_cxl (f : Tiers → Tiers) (s : State) : (modTi f s).cxl = s.cxl := rfl
@[simp] theorem modTi_te (f : Tiers → Tiers) (s : State) : (modTi f s).te = s.te := rfl
@[simp] theorem modTi_gqp (f : Tiers → Tiers) (s : State) : (modTi f s).gqp = s.gqp := rfl
@[simp] theorem modTi_net (f : Tiers → Tiers) (s : State) : (modTi f s).net = s.net := rfl
@[simp] theorem modTi_cap (f : Tiers → Tiers) (s : State) : (modTi f s).cap = s.cap := rfl
@[simp] theorem modTi_ecc (f : Tiers → Tiers) (s : State) : (modTi f s).ecc = s.ecc := rfl
@[simp] theorem modTi_mc (f : Tiers → Tiers) (s : State) : (modTi f s).mc = s.mc := rfl
@[simp] theorem modTi_trust (f : Tiers → Tiers) (s : State) : (modTi f s).trust = s.trust := rfl
@[simp] theorem modTi_params (f : Tiers → Tiers) (s : State) : (modTi f s).params = s.params := rfl
@[simp] theorem modTi_paramsDue (f : Tiers → Tiers) (s : State) : (modTi f s).paramsDue = s.paramsDue := rfl
@[simp] theorem modTi_seq (f : Tiers → Tiers) (s : State) : (modTi f s).seq = s.seq := rfl
@[simp] theorem modTi_pwr (f : Tiers → Tiers) (s : State) : (modTi f s).pwr = s.pwr := rfl
@[simp] theorem modTi_start (f : Tiers → Tiers) (s : State) : (modTi f s).start = s.start := rfl
@[simp] theorem modTi_nor (f : Tiers → Tiers) (s : State) : (modTi f s).nor = s.nor := rfl
@[simp] theorem modTi_out (f : Tiers → Tiers) (s : State) : (modTi f s).out = s.out := rfl
@[simp] theorem modTi_freeCtr (f : Tiers → Tiers) (s : State) : (modTi f s).freeCtr = s.freeCtr := rfl
@[simp] theorem modTi_pending (f : Tiers → Tiers) (s : State) : (modTi f s).pending = s.pending := rfl

/-! ### `modReg` -/

@[simp] theorem modReg_ident (f : Regions → Regions) (s : State) : (modReg f s).ident = s.ident := rfl
@[simp] theorem modReg_tb (f : Regions → Regions) (s : State) : (modReg f s).tb = s.tb := rfl
@[simp] theorem modReg_slot (f : Regions → Regions) (s : State) : (modReg f s).slot = s.slot := rfl
@[simp] theorem modReg_ev (f : Regions → Regions) (s : State) : (modReg f s).ev = s.ev := rfl
@[simp] theorem modReg_pu (f : Regions → Regions) (s : State) : (modReg f s).pu = s.pu := rfl
@[simp] theorem modReg_ti (f : Regions → Regions) (s : State) : (modReg f s).ti = s.ti := rfl
@[simp] theorem modReg_reg (f : Regions → Regions) (s : State) : (modReg f s).reg = f s.reg := rfl
@[simp] theorem modReg_pair (f : Regions → Regions) (s : State) : (modReg f s).pair = s.pair := rfl
@[simp] theorem modReg_cxl (f : Regions → Regions) (s : State) : (modReg f s).cxl = s.cxl := rfl
@[simp] theorem modReg_te (f : Regions → Regions) (s : State) : (modReg f s).te = s.te := rfl
@[simp] theorem modReg_gqp (f : Regions → Regions) (s : State) : (modReg f s).gqp = s.gqp := rfl
@[simp] theorem modReg_net (f : Regions → Regions) (s : State) : (modReg f s).net = s.net := rfl
@[simp] theorem modReg_cap (f : Regions → Regions) (s : State) : (modReg f s).cap = s.cap := rfl
@[simp] theorem modReg_ecc (f : Regions → Regions) (s : State) : (modReg f s).ecc = s.ecc := rfl
@[simp] theorem modReg_mc (f : Regions → Regions) (s : State) : (modReg f s).mc = s.mc := rfl
@[simp] theorem modReg_trust (f : Regions → Regions) (s : State) : (modReg f s).trust = s.trust := rfl
@[simp] theorem modReg_params (f : Regions → Regions) (s : State) : (modReg f s).params = s.params := rfl
@[simp] theorem modReg_paramsDue (f : Regions → Regions) (s : State) : (modReg f s).paramsDue = s.paramsDue := rfl
@[simp] theorem modReg_seq (f : Regions → Regions) (s : State) : (modReg f s).seq = s.seq := rfl
@[simp] theorem modReg_pwr (f : Regions → Regions) (s : State) : (modReg f s).pwr = s.pwr := rfl
@[simp] theorem modReg_start (f : Regions → Regions) (s : State) : (modReg f s).start = s.start := rfl
@[simp] theorem modReg_nor (f : Regions → Regions) (s : State) : (modReg f s).nor = s.nor := rfl
@[simp] theorem modReg_out (f : Regions → Regions) (s : State) : (modReg f s).out = s.out := rfl
@[simp] theorem modReg_freeCtr (f : Regions → Regions) (s : State) : (modReg f s).freeCtr = s.freeCtr := rfl
@[simp] theorem modReg_pending (f : Regions → Regions) (s : State) : (modReg f s).pending = s.pending := rfl

/-! ### `modPair` -/

@[simp] theorem modPair_ident (f : Pair → Pair) (s : State) : (modPair f s).ident = s.ident := rfl
@[simp] theorem modPair_tb (f : Pair → Pair) (s : State) : (modPair f s).tb = s.tb := rfl
@[simp] theorem modPair_slot (f : Pair → Pair) (s : State) : (modPair f s).slot = s.slot := rfl
@[simp] theorem modPair_ev (f : Pair → Pair) (s : State) : (modPair f s).ev = s.ev := rfl
@[simp] theorem modPair_pu (f : Pair → Pair) (s : State) : (modPair f s).pu = s.pu := rfl
@[simp] theorem modPair_ti (f : Pair → Pair) (s : State) : (modPair f s).ti = s.ti := rfl
@[simp] theorem modPair_reg (f : Pair → Pair) (s : State) : (modPair f s).reg = s.reg := rfl
@[simp] theorem modPair_pair (f : Pair → Pair) (s : State) : (modPair f s).pair = f s.pair := rfl
@[simp] theorem modPair_cxl (f : Pair → Pair) (s : State) : (modPair f s).cxl = s.cxl := rfl
@[simp] theorem modPair_te (f : Pair → Pair) (s : State) : (modPair f s).te = s.te := rfl
@[simp] theorem modPair_gqp (f : Pair → Pair) (s : State) : (modPair f s).gqp = s.gqp := rfl
@[simp] theorem modPair_net (f : Pair → Pair) (s : State) : (modPair f s).net = s.net := rfl
@[simp] theorem modPair_cap (f : Pair → Pair) (s : State) : (modPair f s).cap = s.cap := rfl
@[simp] theorem modPair_ecc (f : Pair → Pair) (s : State) : (modPair f s).ecc = s.ecc := rfl
@[simp] theorem modPair_mc (f : Pair → Pair) (s : State) : (modPair f s).mc = s.mc := rfl
@[simp] theorem modPair_trust (f : Pair → Pair) (s : State) : (modPair f s).trust = s.trust := rfl
@[simp] theorem modPair_params (f : Pair → Pair) (s : State) : (modPair f s).params = s.params := rfl
@[simp] theorem modPair_paramsDue (f : Pair → Pair) (s : State) : (modPair f s).paramsDue = s.paramsDue := rfl
@[simp] theorem modPair_seq (f : Pair → Pair) (s : State) : (modPair f s).seq = s.seq := rfl
@[simp] theorem modPair_pwr (f : Pair → Pair) (s : State) : (modPair f s).pwr = s.pwr := rfl
@[simp] theorem modPair_start (f : Pair → Pair) (s : State) : (modPair f s).start = s.start := rfl
@[simp] theorem modPair_nor (f : Pair → Pair) (s : State) : (modPair f s).nor = s.nor := rfl
@[simp] theorem modPair_out (f : Pair → Pair) (s : State) : (modPair f s).out = s.out := rfl
@[simp] theorem modPair_freeCtr (f : Pair → Pair) (s : State) : (modPair f s).freeCtr = s.freeCtr := rfl
@[simp] theorem modPair_pending (f : Pair → Pair) (s : State) : (modPair f s).pending = s.pending := rfl

/-! ### `modCxl` -/

@[simp] theorem modCxl_ident (f : Cxl → Cxl) (s : State) : (modCxl f s).ident = s.ident := rfl
@[simp] theorem modCxl_tb (f : Cxl → Cxl) (s : State) : (modCxl f s).tb = s.tb := rfl
@[simp] theorem modCxl_slot (f : Cxl → Cxl) (s : State) : (modCxl f s).slot = s.slot := rfl
@[simp] theorem modCxl_ev (f : Cxl → Cxl) (s : State) : (modCxl f s).ev = s.ev := rfl
@[simp] theorem modCxl_pu (f : Cxl → Cxl) (s : State) : (modCxl f s).pu = s.pu := rfl
@[simp] theorem modCxl_ti (f : Cxl → Cxl) (s : State) : (modCxl f s).ti = s.ti := rfl
@[simp] theorem modCxl_reg (f : Cxl → Cxl) (s : State) : (modCxl f s).reg = s.reg := rfl
@[simp] theorem modCxl_pair (f : Cxl → Cxl) (s : State) : (modCxl f s).pair = s.pair := rfl
@[simp] theorem modCxl_cxl (f : Cxl → Cxl) (s : State) : (modCxl f s).cxl = f s.cxl := rfl
@[simp] theorem modCxl_te (f : Cxl → Cxl) (s : State) : (modCxl f s).te = s.te := rfl
@[simp] theorem modCxl_gqp (f : Cxl → Cxl) (s : State) : (modCxl f s).gqp = s.gqp := rfl
@[simp] theorem modCxl_net (f : Cxl → Cxl) (s : State) : (modCxl f s).net = s.net := rfl
@[simp] theorem modCxl_cap (f : Cxl → Cxl) (s : State) : (modCxl f s).cap = s.cap := rfl
@[simp] theorem modCxl_ecc (f : Cxl → Cxl) (s : State) : (modCxl f s).ecc = s.ecc := rfl
@[simp] theorem modCxl_mc (f : Cxl → Cxl) (s : State) : (modCxl f s).mc = s.mc := rfl
@[simp] theorem modCxl_trust (f : Cxl → Cxl) (s : State) : (modCxl f s).trust = s.trust := rfl
@[simp] theorem modCxl_params (f : Cxl → Cxl) (s : State) : (modCxl f s).params = s.params := rfl
@[simp] theorem modCxl_paramsDue (f : Cxl → Cxl) (s : State) : (modCxl f s).paramsDue = s.paramsDue := rfl
@[simp] theorem modCxl_seq (f : Cxl → Cxl) (s : State) : (modCxl f s).seq = s.seq := rfl
@[simp] theorem modCxl_pwr (f : Cxl → Cxl) (s : State) : (modCxl f s).pwr = s.pwr := rfl
@[simp] theorem modCxl_start (f : Cxl → Cxl) (s : State) : (modCxl f s).start = s.start := rfl
@[simp] theorem modCxl_nor (f : Cxl → Cxl) (s : State) : (modCxl f s).nor = s.nor := rfl
@[simp] theorem modCxl_out (f : Cxl → Cxl) (s : State) : (modCxl f s).out = s.out := rfl
@[simp] theorem modCxl_freeCtr (f : Cxl → Cxl) (s : State) : (modCxl f s).freeCtr = s.freeCtr := rfl
@[simp] theorem modCxl_pending (f : Cxl → Cxl) (s : State) : (modCxl f s).pending = s.pending := rfl

/-! ### `modTe` -/

@[simp] theorem modTe_ident (f : Te → Te) (s : State) : (modTe f s).ident = s.ident := rfl
@[simp] theorem modTe_tb (f : Te → Te) (s : State) : (modTe f s).tb = s.tb := rfl
@[simp] theorem modTe_slot (f : Te → Te) (s : State) : (modTe f s).slot = s.slot := rfl
@[simp] theorem modTe_ev (f : Te → Te) (s : State) : (modTe f s).ev = s.ev := rfl
@[simp] theorem modTe_pu (f : Te → Te) (s : State) : (modTe f s).pu = s.pu := rfl
@[simp] theorem modTe_ti (f : Te → Te) (s : State) : (modTe f s).ti = s.ti := rfl
@[simp] theorem modTe_reg (f : Te → Te) (s : State) : (modTe f s).reg = s.reg := rfl
@[simp] theorem modTe_pair (f : Te → Te) (s : State) : (modTe f s).pair = s.pair := rfl
@[simp] theorem modTe_cxl (f : Te → Te) (s : State) : (modTe f s).cxl = s.cxl := rfl
@[simp] theorem modTe_te (f : Te → Te) (s : State) : (modTe f s).te = f s.te := rfl
@[simp] theorem modTe_gqp (f : Te → Te) (s : State) : (modTe f s).gqp = s.gqp := rfl
@[simp] theorem modTe_net (f : Te → Te) (s : State) : (modTe f s).net = s.net := rfl
@[simp] theorem modTe_cap (f : Te → Te) (s : State) : (modTe f s).cap = s.cap := rfl
@[simp] theorem modTe_ecc (f : Te → Te) (s : State) : (modTe f s).ecc = s.ecc := rfl
@[simp] theorem modTe_mc (f : Te → Te) (s : State) : (modTe f s).mc = s.mc := rfl
@[simp] theorem modTe_trust (f : Te → Te) (s : State) : (modTe f s).trust = s.trust := rfl
@[simp] theorem modTe_params (f : Te → Te) (s : State) : (modTe f s).params = s.params := rfl
@[simp] theorem modTe_paramsDue (f : Te → Te) (s : State) : (modTe f s).paramsDue = s.paramsDue := rfl
@[simp] theorem modTe_seq (f : Te → Te) (s : State) : (modTe f s).seq = s.seq := rfl
@[simp] theorem modTe_pwr (f : Te → Te) (s : State) : (modTe f s).pwr = s.pwr := rfl
@[simp] theorem modTe_start (f : Te → Te) (s : State) : (modTe f s).start = s.start := rfl
@[simp] theorem modTe_nor (f : Te → Te) (s : State) : (modTe f s).nor = s.nor := rfl
@[simp] theorem modTe_out (f : Te → Te) (s : State) : (modTe f s).out = s.out := rfl
@[simp] theorem modTe_freeCtr (f : Te → Te) (s : State) : (modTe f s).freeCtr = s.freeCtr := rfl
@[simp] theorem modTe_pending (f : Te → Te) (s : State) : (modTe f s).pending = s.pending := rfl

/-! ### `modGqp` -/

@[simp] theorem modGqp_ident (f : Gqp → Gqp) (s : State) : (modGqp f s).ident = s.ident := rfl
@[simp] theorem modGqp_tb (f : Gqp → Gqp) (s : State) : (modGqp f s).tb = s.tb := rfl
@[simp] theorem modGqp_slot (f : Gqp → Gqp) (s : State) : (modGqp f s).slot = s.slot := rfl
@[simp] theorem modGqp_ev (f : Gqp → Gqp) (s : State) : (modGqp f s).ev = s.ev := rfl
@[simp] theorem modGqp_pu (f : Gqp → Gqp) (s : State) : (modGqp f s).pu = s.pu := rfl
@[simp] theorem modGqp_ti (f : Gqp → Gqp) (s : State) : (modGqp f s).ti = s.ti := rfl
@[simp] theorem modGqp_reg (f : Gqp → Gqp) (s : State) : (modGqp f s).reg = s.reg := rfl
@[simp] theorem modGqp_pair (f : Gqp → Gqp) (s : State) : (modGqp f s).pair = s.pair := rfl
@[simp] theorem modGqp_cxl (f : Gqp → Gqp) (s : State) : (modGqp f s).cxl = s.cxl := rfl
@[simp] theorem modGqp_te (f : Gqp → Gqp) (s : State) : (modGqp f s).te = s.te := rfl
@[simp] theorem modGqp_gqp (f : Gqp → Gqp) (s : State) : (modGqp f s).gqp = f s.gqp := rfl
@[simp] theorem modGqp_net (f : Gqp → Gqp) (s : State) : (modGqp f s).net = s.net := rfl
@[simp] theorem modGqp_cap (f : Gqp → Gqp) (s : State) : (modGqp f s).cap = s.cap := rfl
@[simp] theorem modGqp_ecc (f : Gqp → Gqp) (s : State) : (modGqp f s).ecc = s.ecc := rfl
@[simp] theorem modGqp_mc (f : Gqp → Gqp) (s : State) : (modGqp f s).mc = s.mc := rfl
@[simp] theorem modGqp_trust (f : Gqp → Gqp) (s : State) : (modGqp f s).trust = s.trust := rfl
@[simp] theorem modGqp_params (f : Gqp → Gqp) (s : State) : (modGqp f s).params = s.params := rfl
@[simp] theorem modGqp_paramsDue (f : Gqp → Gqp) (s : State) : (modGqp f s).paramsDue = s.paramsDue := rfl
@[simp] theorem modGqp_seq (f : Gqp → Gqp) (s : State) : (modGqp f s).seq = s.seq := rfl
@[simp] theorem modGqp_pwr (f : Gqp → Gqp) (s : State) : (modGqp f s).pwr = s.pwr := rfl
@[simp] theorem modGqp_start (f : Gqp → Gqp) (s : State) : (modGqp f s).start = s.start := rfl
@[simp] theorem modGqp_nor (f : Gqp → Gqp) (s : State) : (modGqp f s).nor = s.nor := rfl
@[simp] theorem modGqp_out (f : Gqp → Gqp) (s : State) : (modGqp f s).out = s.out := rfl
@[simp] theorem modGqp_freeCtr (f : Gqp → Gqp) (s : State) : (modGqp f s).freeCtr = s.freeCtr := rfl
@[simp] theorem modGqp_pending (f : Gqp → Gqp) (s : State) : (modGqp f s).pending = s.pending := rfl

/-! ### `modNet` -/

@[simp] theorem modNet_ident (f : Net → Net) (s : State) : (modNet f s).ident = s.ident := rfl
@[simp] theorem modNet_tb (f : Net → Net) (s : State) : (modNet f s).tb = s.tb := rfl
@[simp] theorem modNet_slot (f : Net → Net) (s : State) : (modNet f s).slot = s.slot := rfl
@[simp] theorem modNet_ev (f : Net → Net) (s : State) : (modNet f s).ev = s.ev := rfl
@[simp] theorem modNet_pu (f : Net → Net) (s : State) : (modNet f s).pu = s.pu := rfl
@[simp] theorem modNet_ti (f : Net → Net) (s : State) : (modNet f s).ti = s.ti := rfl
@[simp] theorem modNet_reg (f : Net → Net) (s : State) : (modNet f s).reg = s.reg := rfl
@[simp] theorem modNet_pair (f : Net → Net) (s : State) : (modNet f s).pair = s.pair := rfl
@[simp] theorem modNet_cxl (f : Net → Net) (s : State) : (modNet f s).cxl = s.cxl := rfl
@[simp] theorem modNet_te (f : Net → Net) (s : State) : (modNet f s).te = s.te := rfl
@[simp] theorem modNet_gqp (f : Net → Net) (s : State) : (modNet f s).gqp = s.gqp := rfl
@[simp] theorem modNet_net (f : Net → Net) (s : State) : (modNet f s).net = f s.net := rfl
@[simp] theorem modNet_cap (f : Net → Net) (s : State) : (modNet f s).cap = s.cap := rfl
@[simp] theorem modNet_ecc (f : Net → Net) (s : State) : (modNet f s).ecc = s.ecc := rfl
@[simp] theorem modNet_mc (f : Net → Net) (s : State) : (modNet f s).mc = s.mc := rfl
@[simp] theorem modNet_trust (f : Net → Net) (s : State) : (modNet f s).trust = s.trust := rfl
@[simp] theorem modNet_params (f : Net → Net) (s : State) : (modNet f s).params = s.params := rfl
@[simp] theorem modNet_paramsDue (f : Net → Net) (s : State) : (modNet f s).paramsDue = s.paramsDue := rfl
@[simp] theorem modNet_seq (f : Net → Net) (s : State) : (modNet f s).seq = s.seq := rfl
@[simp] theorem modNet_pwr (f : Net → Net) (s : State) : (modNet f s).pwr = s.pwr := rfl
@[simp] theorem modNet_start (f : Net → Net) (s : State) : (modNet f s).start = s.start := rfl
@[simp] theorem modNet_nor (f : Net → Net) (s : State) : (modNet f s).nor = s.nor := rfl
@[simp] theorem modNet_out (f : Net → Net) (s : State) : (modNet f s).out = s.out := rfl
@[simp] theorem modNet_freeCtr (f : Net → Net) (s : State) : (modNet f s).freeCtr = s.freeCtr := rfl
@[simp] theorem modNet_pending (f : Net → Net) (s : State) : (modNet f s).pending = s.pending := rfl

/-! ### `modCap` -/

@[simp] theorem modCap_ident (f : Cap → Cap) (s : State) : (modCap f s).ident = s.ident := rfl
@[simp] theorem modCap_tb (f : Cap → Cap) (s : State) : (modCap f s).tb = s.tb := rfl
@[simp] theorem modCap_slot (f : Cap → Cap) (s : State) : (modCap f s).slot = s.slot := rfl
@[simp] theorem modCap_ev (f : Cap → Cap) (s : State) : (modCap f s).ev = s.ev := rfl
@[simp] theorem modCap_pu (f : Cap → Cap) (s : State) : (modCap f s).pu = s.pu := rfl
@[simp] theorem modCap_ti (f : Cap → Cap) (s : State) : (modCap f s).ti = s.ti := rfl
@[simp] theorem modCap_reg (f : Cap → Cap) (s : State) : (modCap f s).reg = s.reg := rfl
@[simp] theorem modCap_pair (f : Cap → Cap) (s : State) : (modCap f s).pair = s.pair := rfl
@[simp] theorem modCap_cxl (f : Cap → Cap) (s : State) : (modCap f s).cxl = s.cxl := rfl
@[simp] theorem modCap_te (f : Cap → Cap) (s : State) : (modCap f s).te = s.te := rfl
@[simp] theorem modCap_gqp (f : Cap → Cap) (s : State) : (modCap f s).gqp = s.gqp := rfl
@[simp] theorem modCap_net (f : Cap → Cap) (s : State) : (modCap f s).net = s.net := rfl
@[simp] theorem modCap_cap (f : Cap → Cap) (s : State) : (modCap f s).cap = f s.cap := rfl
@[simp] theorem modCap_ecc (f : Cap → Cap) (s : State) : (modCap f s).ecc = s.ecc := rfl
@[simp] theorem modCap_mc (f : Cap → Cap) (s : State) : (modCap f s).mc = s.mc := rfl
@[simp] theorem modCap_trust (f : Cap → Cap) (s : State) : (modCap f s).trust = s.trust := rfl
@[simp] theorem modCap_params (f : Cap → Cap) (s : State) : (modCap f s).params = s.params := rfl
@[simp] theorem modCap_paramsDue (f : Cap → Cap) (s : State) : (modCap f s).paramsDue = s.paramsDue := rfl
@[simp] theorem modCap_seq (f : Cap → Cap) (s : State) : (modCap f s).seq = s.seq := rfl
@[simp] theorem modCap_pwr (f : Cap → Cap) (s : State) : (modCap f s).pwr = s.pwr := rfl
@[simp] theorem modCap_start (f : Cap → Cap) (s : State) : (modCap f s).start = s.start := rfl
@[simp] theorem modCap_nor (f : Cap → Cap) (s : State) : (modCap f s).nor = s.nor := rfl
@[simp] theorem modCap_out (f : Cap → Cap) (s : State) : (modCap f s).out = s.out := rfl
@[simp] theorem modCap_freeCtr (f : Cap → Cap) (s : State) : (modCap f s).freeCtr = s.freeCtr := rfl
@[simp] theorem modCap_pending (f : Cap → Cap) (s : State) : (modCap f s).pending = s.pending := rfl

/-! ### `modEcc` -/

@[simp] theorem modEcc_ident (f : Ecc → Ecc) (s : State) : (modEcc f s).ident = s.ident := rfl
@[simp] theorem modEcc_tb (f : Ecc → Ecc) (s : State) : (modEcc f s).tb = s.tb := rfl
@[simp] theorem modEcc_slot (f : Ecc → Ecc) (s : State) : (modEcc f s).slot = s.slot := rfl
@[simp] theorem modEcc_ev (f : Ecc → Ecc) (s : State) : (modEcc f s).ev = s.ev := rfl
@[simp] theorem modEcc_pu (f : Ecc → Ecc) (s : State) : (modEcc f s).pu = s.pu := rfl
@[simp] theorem modEcc_ti (f : Ecc → Ecc) (s : State) : (modEcc f s).ti = s.ti := rfl
@[simp] theorem modEcc_reg (f : Ecc → Ecc) (s : State) : (modEcc f s).reg = s.reg := rfl
@[simp] theorem modEcc_pair (f : Ecc → Ecc) (s : State) : (modEcc f s).pair = s.pair := rfl
@[simp] theorem modEcc_cxl (f : Ecc → Ecc) (s : State) : (modEcc f s).cxl = s.cxl := rfl
@[simp] theorem modEcc_te (f : Ecc → Ecc) (s : State) : (modEcc f s).te = s.te := rfl
@[simp] theorem modEcc_gqp (f : Ecc → Ecc) (s : State) : (modEcc f s).gqp = s.gqp := rfl
@[simp] theorem modEcc_net (f : Ecc → Ecc) (s : State) : (modEcc f s).net = s.net := rfl
@[simp] theorem modEcc_cap (f : Ecc → Ecc) (s : State) : (modEcc f s).cap = s.cap := rfl
@[simp] theorem modEcc_ecc (f : Ecc → Ecc) (s : State) : (modEcc f s).ecc = f s.ecc := rfl
@[simp] theorem modEcc_mc (f : Ecc → Ecc) (s : State) : (modEcc f s).mc = s.mc := rfl
@[simp] theorem modEcc_trust (f : Ecc → Ecc) (s : State) : (modEcc f s).trust = s.trust := rfl
@[simp] theorem modEcc_params (f : Ecc → Ecc) (s : State) : (modEcc f s).params = s.params := rfl
@[simp] theorem modEcc_paramsDue (f : Ecc → Ecc) (s : State) : (modEcc f s).paramsDue = s.paramsDue := rfl
@[simp] theorem modEcc_seq (f : Ecc → Ecc) (s : State) : (modEcc f s).seq = s.seq := rfl
@[simp] theorem modEcc_pwr (f : Ecc → Ecc) (s : State) : (modEcc f s).pwr = s.pwr := rfl
@[simp] theorem modEcc_start (f : Ecc → Ecc) (s : State) : (modEcc f s).start = s.start := rfl
@[simp] theorem modEcc_nor (f : Ecc → Ecc) (s : State) : (modEcc f s).nor = s.nor := rfl
@[simp] theorem modEcc_out (f : Ecc → Ecc) (s : State) : (modEcc f s).out = s.out := rfl
@[simp] theorem modEcc_freeCtr (f : Ecc → Ecc) (s : State) : (modEcc f s).freeCtr = s.freeCtr := rfl
@[simp] theorem modEcc_pending (f : Ecc → Ecc) (s : State) : (modEcc f s).pending = s.pending := rfl

/-! ### `modMc` -/

@[simp] theorem modMc_ident (f : Mc → Mc) (s : State) : (modMc f s).ident = s.ident := rfl
@[simp] theorem modMc_tb (f : Mc → Mc) (s : State) : (modMc f s).tb = s.tb := rfl
@[simp] theorem modMc_slot (f : Mc → Mc) (s : State) : (modMc f s).slot = s.slot := rfl
@[simp] theorem modMc_ev (f : Mc → Mc) (s : State) : (modMc f s).ev = s.ev := rfl
@[simp] theorem modMc_pu (f : Mc → Mc) (s : State) : (modMc f s).pu = s.pu := rfl
@[simp] theorem modMc_ti (f : Mc → Mc) (s : State) : (modMc f s).ti = s.ti := rfl
@[simp] theorem modMc_reg (f : Mc → Mc) (s : State) : (modMc f s).reg = s.reg := rfl
@[simp] theorem modMc_pair (f : Mc → Mc) (s : State) : (modMc f s).pair = s.pair := rfl
@[simp] theorem modMc_cxl (f : Mc → Mc) (s : State) : (modMc f s).cxl = s.cxl := rfl
@[simp] theorem modMc_te (f : Mc → Mc) (s : State) : (modMc f s).te = s.te := rfl
@[simp] theorem modMc_gqp (f : Mc → Mc) (s : State) : (modMc f s).gqp = s.gqp := rfl
@[simp] theorem modMc_net (f : Mc → Mc) (s : State) : (modMc f s).net = s.net := rfl
@[simp] theorem modMc_cap (f : Mc → Mc) (s : State) : (modMc f s).cap = s.cap := rfl
@[simp] theorem modMc_ecc (f : Mc → Mc) (s : State) : (modMc f s).ecc = s.ecc := rfl
@[simp] theorem modMc_mc (f : Mc → Mc) (s : State) : (modMc f s).mc = f s.mc := rfl
@[simp] theorem modMc_trust (f : Mc → Mc) (s : State) : (modMc f s).trust = s.trust := rfl
@[simp] theorem modMc_params (f : Mc → Mc) (s : State) : (modMc f s).params = s.params := rfl
@[simp] theorem modMc_paramsDue (f : Mc → Mc) (s : State) : (modMc f s).paramsDue = s.paramsDue := rfl
@[simp] theorem modMc_seq (f : Mc → Mc) (s : State) : (modMc f s).seq = s.seq := rfl
@[simp] theorem modMc_pwr (f : Mc → Mc) (s : State) : (modMc f s).pwr = s.pwr := rfl
@[simp] theorem modMc_start (f : Mc → Mc) (s : State) : (modMc f s).start = s.start := rfl
@[simp] theorem modMc_nor (f : Mc → Mc) (s : State) : (modMc f s).nor = s.nor := rfl
@[simp] theorem modMc_out (f : Mc → Mc) (s : State) : (modMc f s).out = s.out := rfl
@[simp] theorem modMc_freeCtr (f : Mc → Mc) (s : State) : (modMc f s).freeCtr = s.freeCtr := rfl
@[simp] theorem modMc_pending (f : Mc → Mc) (s : State) : (modMc f s).pending = s.pending := rfl

/-! ### `modTrust` -/

@[simp] theorem modTrust_ident (f : Trust → Trust) (s : State) : (modTrust f s).ident = s.ident := rfl
@[simp] theorem modTrust_tb (f : Trust → Trust) (s : State) : (modTrust f s).tb = s.tb := rfl
@[simp] theorem modTrust_slot (f : Trust → Trust) (s : State) : (modTrust f s).slot = s.slot := rfl
@[simp] theorem modTrust_ev (f : Trust → Trust) (s : State) : (modTrust f s).ev = s.ev := rfl
@[simp] theorem modTrust_pu (f : Trust → Trust) (s : State) : (modTrust f s).pu = s.pu := rfl
@[simp] theorem modTrust_ti (f : Trust → Trust) (s : State) : (modTrust f s).ti = s.ti := rfl
@[simp] theorem modTrust_reg (f : Trust → Trust) (s : State) : (modTrust f s).reg = s.reg := rfl
@[simp] theorem modTrust_pair (f : Trust → Trust) (s : State) : (modTrust f s).pair = s.pair := rfl
@[simp] theorem modTrust_cxl (f : Trust → Trust) (s : State) : (modTrust f s).cxl = s.cxl := rfl
@[simp] theorem modTrust_te (f : Trust → Trust) (s : State) : (modTrust f s).te = s.te := rfl
@[simp] theorem modTrust_gqp (f : Trust → Trust) (s : State) : (modTrust f s).gqp = s.gqp := rfl
@[simp] theorem modTrust_net (f : Trust → Trust) (s : State) : (modTrust f s).net = s.net := rfl
@[simp] theorem modTrust_cap (f : Trust → Trust) (s : State) : (modTrust f s).cap = s.cap := rfl
@[simp] theorem modTrust_ecc (f : Trust → Trust) (s : State) : (modTrust f s).ecc = s.ecc := rfl
@[simp] theorem modTrust_mc (f : Trust → Trust) (s : State) : (modTrust f s).mc = s.mc := rfl
@[simp] theorem modTrust_trust (f : Trust → Trust) (s : State) : (modTrust f s).trust = f s.trust := rfl
@[simp] theorem modTrust_params (f : Trust → Trust) (s : State) : (modTrust f s).params = s.params := rfl
@[simp] theorem modTrust_paramsDue (f : Trust → Trust) (s : State) : (modTrust f s).paramsDue = s.paramsDue := rfl
@[simp] theorem modTrust_seq (f : Trust → Trust) (s : State) : (modTrust f s).seq = s.seq := rfl
@[simp] theorem modTrust_pwr (f : Trust → Trust) (s : State) : (modTrust f s).pwr = s.pwr := rfl
@[simp] theorem modTrust_start (f : Trust → Trust) (s : State) : (modTrust f s).start = s.start := rfl
@[simp] theorem modTrust_nor (f : Trust → Trust) (s : State) : (modTrust f s).nor = s.nor := rfl
@[simp] theorem modTrust_out (f : Trust → Trust) (s : State) : (modTrust f s).out = s.out := rfl
@[simp] theorem modTrust_freeCtr (f : Trust → Trust) (s : State) : (modTrust f s).freeCtr = s.freeCtr := rfl
@[simp] theorem modTrust_pending (f : Trust → Trust) (s : State) : (modTrust f s).pending = s.pending := rfl

/-! ### `modSeq` -/

@[simp] theorem modSeq_ident (f : Seq → Seq) (s : State) : (modSeq f s).ident = s.ident := rfl
@[simp] theorem modSeq_tb (f : Seq → Seq) (s : State) : (modSeq f s).tb = s.tb := rfl
@[simp] theorem modSeq_slot (f : Seq → Seq) (s : State) : (modSeq f s).slot = s.slot := rfl
@[simp] theorem modSeq_ev (f : Seq → Seq) (s : State) : (modSeq f s).ev = s.ev := rfl
@[simp] theorem modSeq_pu (f : Seq → Seq) (s : State) : (modSeq f s).pu = s.pu := rfl
@[simp] theorem modSeq_ti (f : Seq → Seq) (s : State) : (modSeq f s).ti = s.ti := rfl
@[simp] theorem modSeq_reg (f : Seq → Seq) (s : State) : (modSeq f s).reg = s.reg := rfl
@[simp] theorem modSeq_pair (f : Seq → Seq) (s : State) : (modSeq f s).pair = s.pair := rfl
@[simp] theorem modSeq_cxl (f : Seq → Seq) (s : State) : (modSeq f s).cxl = s.cxl := rfl
@[simp] theorem modSeq_te (f : Seq → Seq) (s : State) : (modSeq f s).te = s.te := rfl
@[simp] theorem modSeq_gqp (f : Seq → Seq) (s : State) : (modSeq f s).gqp = s.gqp := rfl
@[simp] theorem modSeq_net (f : Seq → Seq) (s : State) : (modSeq f s).net = s.net := rfl
@[simp] theorem modSeq_cap (f : Seq → Seq) (s : State) : (modSeq f s).cap = s.cap := rfl
@[simp] theorem modSeq_ecc (f : Seq → Seq) (s : State) : (modSeq f s).ecc = s.ecc := rfl
@[simp] theorem modSeq_mc (f : Seq → Seq) (s : State) : (modSeq f s).mc = s.mc := rfl
@[simp] theorem modSeq_trust (f : Seq → Seq) (s : State) : (modSeq f s).trust = s.trust := rfl
@[simp] theorem modSeq_params (f : Seq → Seq) (s : State) : (modSeq f s).params = s.params := rfl
@[simp] theorem modSeq_paramsDue (f : Seq → Seq) (s : State) : (modSeq f s).paramsDue = s.paramsDue := rfl
@[simp] theorem modSeq_seq (f : Seq → Seq) (s : State) : (modSeq f s).seq = f s.seq := rfl
@[simp] theorem modSeq_pwr (f : Seq → Seq) (s : State) : (modSeq f s).pwr = s.pwr := rfl
@[simp] theorem modSeq_start (f : Seq → Seq) (s : State) : (modSeq f s).start = s.start := rfl
@[simp] theorem modSeq_nor (f : Seq → Seq) (s : State) : (modSeq f s).nor = s.nor := rfl
@[simp] theorem modSeq_out (f : Seq → Seq) (s : State) : (modSeq f s).out = s.out := rfl
@[simp] theorem modSeq_freeCtr (f : Seq → Seq) (s : State) : (modSeq f s).freeCtr = s.freeCtr := rfl
@[simp] theorem modSeq_pending (f : Seq → Seq) (s : State) : (modSeq f s).pending = s.pending := rfl

/-! ### `modPwr` -/

@[simp] theorem modPwr_ident (f : Power → Power) (s : State) : (modPwr f s).ident = s.ident := rfl
@[simp] theorem modPwr_tb (f : Power → Power) (s : State) : (modPwr f s).tb = s.tb := rfl
@[simp] theorem modPwr_slot (f : Power → Power) (s : State) : (modPwr f s).slot = s.slot := rfl
@[simp] theorem modPwr_ev (f : Power → Power) (s : State) : (modPwr f s).ev = s.ev := rfl
@[simp] theorem modPwr_pu (f : Power → Power) (s : State) : (modPwr f s).pu = s.pu := rfl
@[simp] theorem modPwr_ti (f : Power → Power) (s : State) : (modPwr f s).ti = s.ti := rfl
@[simp] theorem modPwr_reg (f : Power → Power) (s : State) : (modPwr f s).reg = s.reg := rfl
@[simp] theorem modPwr_pair (f : Power → Power) (s : State) : (modPwr f s).pair = s.pair := rfl
@[simp] theorem modPwr_cxl (f : Power → Power) (s : State) : (modPwr f s).cxl = s.cxl := rfl
@[simp] theorem modPwr_te (f : Power → Power) (s : State) : (modPwr f s).te = s.te := rfl
@[simp] theorem modPwr_gqp (f : Power → Power) (s : State) : (modPwr f s).gqp = s.gqp := rfl
@[simp] theorem modPwr_net (f : Power → Power) (s : State) : (modPwr f s).net = s.net := rfl
@[simp] theorem modPwr_cap (f : Power → Power) (s : State) : (modPwr f s).cap = s.cap := rfl
@[simp] theorem modPwr_ecc (f : Power → Power) (s : State) : (modPwr f s).ecc = s.ecc := rfl
@[simp] theorem modPwr_mc (f : Power → Power) (s : State) : (modPwr f s).mc = s.mc := rfl
@[simp] theorem modPwr_trust (f : Power → Power) (s : State) : (modPwr f s).trust = s.trust := rfl
@[simp] theorem modPwr_params (f : Power → Power) (s : State) : (modPwr f s).params = s.params := rfl
@[simp] theorem modPwr_paramsDue (f : Power → Power) (s : State) : (modPwr f s).paramsDue = s.paramsDue := rfl
@[simp] theorem modPwr_seq (f : Power → Power) (s : State) : (modPwr f s).seq = s.seq := rfl
@[simp] theorem modPwr_pwr (f : Power → Power) (s : State) : (modPwr f s).pwr = f s.pwr := rfl
@[simp] theorem modPwr_start (f : Power → Power) (s : State) : (modPwr f s).start = s.start := rfl
@[simp] theorem modPwr_nor (f : Power → Power) (s : State) : (modPwr f s).nor = s.nor := rfl
@[simp] theorem modPwr_out (f : Power → Power) (s : State) : (modPwr f s).out = s.out := rfl
@[simp] theorem modPwr_freeCtr (f : Power → Power) (s : State) : (modPwr f s).freeCtr = s.freeCtr := rfl
@[simp] theorem modPwr_pending (f : Power → Power) (s : State) : (modPwr f s).pending = s.pending := rfl

/-! ### `modStart` -/

@[simp] theorem modStart_ident (f : StartUp → StartUp) (s : State) : (modStart f s).ident = s.ident := rfl
@[simp] theorem modStart_tb (f : StartUp → StartUp) (s : State) : (modStart f s).tb = s.tb := rfl
@[simp] theorem modStart_slot (f : StartUp → StartUp) (s : State) : (modStart f s).slot = s.slot := rfl
@[simp] theorem modStart_ev (f : StartUp → StartUp) (s : State) : (modStart f s).ev = s.ev := rfl
@[simp] theorem modStart_pu (f : StartUp → StartUp) (s : State) : (modStart f s).pu = s.pu := rfl
@[simp] theorem modStart_ti (f : StartUp → StartUp) (s : State) : (modStart f s).ti = s.ti := rfl
@[simp] theorem modStart_reg (f : StartUp → StartUp) (s : State) : (modStart f s).reg = s.reg := rfl
@[simp] theorem modStart_pair (f : StartUp → StartUp) (s : State) : (modStart f s).pair = s.pair := rfl
@[simp] theorem modStart_cxl (f : StartUp → StartUp) (s : State) : (modStart f s).cxl = s.cxl := rfl
@[simp] theorem modStart_te (f : StartUp → StartUp) (s : State) : (modStart f s).te = s.te := rfl
@[simp] theorem modStart_gqp (f : StartUp → StartUp) (s : State) : (modStart f s).gqp = s.gqp := rfl
@[simp] theorem modStart_net (f : StartUp → StartUp) (s : State) : (modStart f s).net = s.net := rfl
@[simp] theorem modStart_cap (f : StartUp → StartUp) (s : State) : (modStart f s).cap = s.cap := rfl
@[simp] theorem modStart_ecc (f : StartUp → StartUp) (s : State) : (modStart f s).ecc = s.ecc := rfl
@[simp] theorem modStart_mc (f : StartUp → StartUp) (s : State) : (modStart f s).mc = s.mc := rfl
@[simp] theorem modStart_trust (f : StartUp → StartUp) (s : State) : (modStart f s).trust = s.trust := rfl
@[simp] theorem modStart_params (f : StartUp → StartUp) (s : State) : (modStart f s).params = s.params := rfl
@[simp] theorem modStart_paramsDue (f : StartUp → StartUp) (s : State) : (modStart f s).paramsDue = s.paramsDue := rfl
@[simp] theorem modStart_seq (f : StartUp → StartUp) (s : State) : (modStart f s).seq = s.seq := rfl
@[simp] theorem modStart_pwr (f : StartUp → StartUp) (s : State) : (modStart f s).pwr = s.pwr := rfl
@[simp] theorem modStart_start (f : StartUp → StartUp) (s : State) : (modStart f s).start = f s.start := rfl
@[simp] theorem modStart_nor (f : StartUp → StartUp) (s : State) : (modStart f s).nor = s.nor := rfl
@[simp] theorem modStart_out (f : StartUp → StartUp) (s : State) : (modStart f s).out = s.out := rfl
@[simp] theorem modStart_freeCtr (f : StartUp → StartUp) (s : State) : (modStart f s).freeCtr = s.freeCtr := rfl
@[simp] theorem modStart_pending (f : StartUp → StartUp) (s : State) : (modStart f s).pending = s.pending := rfl

/-! ### `modNor` -/

@[simp] theorem modNor_ident (f : Nor → Nor) (s : State) : (modNor f s).ident = s.ident := rfl
@[simp] theorem modNor_tb (f : Nor → Nor) (s : State) : (modNor f s).tb = s.tb := rfl
@[simp] theorem modNor_slot (f : Nor → Nor) (s : State) : (modNor f s).slot = s.slot := rfl
@[simp] theorem modNor_ev (f : Nor → Nor) (s : State) : (modNor f s).ev = s.ev := rfl
@[simp] theorem modNor_pu (f : Nor → Nor) (s : State) : (modNor f s).pu = s.pu := rfl
@[simp] theorem modNor_ti (f : Nor → Nor) (s : State) : (modNor f s).ti = s.ti := rfl
@[simp] theorem modNor_reg (f : Nor → Nor) (s : State) : (modNor f s).reg = s.reg := rfl
@[simp] theorem modNor_pair (f : Nor → Nor) (s : State) : (modNor f s).pair = s.pair := rfl
@[simp] theorem modNor_cxl (f : Nor → Nor) (s : State) : (modNor f s).cxl = s.cxl := rfl
@[simp] theorem modNor_te (f : Nor → Nor) (s : State) : (modNor f s).te = s.te := rfl
@[simp] theorem modNor_gqp (f : Nor → Nor) (s : State) : (modNor f s).gqp = s.gqp := rfl
@[simp] theorem modNor_net (f : Nor → Nor) (s : State) : (modNor f s).net = s.net := rfl
@[simp] theorem modNor_cap (f : Nor → Nor) (s : State) : (modNor f s).cap = s.cap := rfl
@[simp] theorem modNor_ecc (f : Nor → Nor) (s : State) : (modNor f s).ecc = s.ecc := rfl
@[simp] theorem modNor_mc (f : Nor → Nor) (s : State) : (modNor f s).mc = s.mc := rfl
@[simp] theorem modNor_trust (f : Nor → Nor) (s : State) : (modNor f s).trust = s.trust := rfl
@[simp] theorem modNor_params (f : Nor → Nor) (s : State) : (modNor f s).params = s.params := rfl
@[simp] theorem modNor_paramsDue (f : Nor → Nor) (s : State) : (modNor f s).paramsDue = s.paramsDue := rfl
@[simp] theorem modNor_seq (f : Nor → Nor) (s : State) : (modNor f s).seq = s.seq := rfl
@[simp] theorem modNor_pwr (f : Nor → Nor) (s : State) : (modNor f s).pwr = s.pwr := rfl
@[simp] theorem modNor_start (f : Nor → Nor) (s : State) : (modNor f s).start = s.start := rfl
@[simp] theorem modNor_nor (f : Nor → Nor) (s : State) : (modNor f s).nor = f s.nor := rfl
@[simp] theorem modNor_out (f : Nor → Nor) (s : State) : (modNor f s).out = s.out := rfl
@[simp] theorem modNor_freeCtr (f : Nor → Nor) (s : State) : (modNor f s).freeCtr = s.freeCtr := rfl
@[simp] theorem modNor_pending (f : Nor → Nor) (s : State) : (modNor f s).pending = s.pending := rfl

/-! ### `emit` -/

@[simp] theorem emit_ident (o : Output) (s : State) : (emit o s).ident = s.ident := rfl
@[simp] theorem emit_tb (o : Output) (s : State) : (emit o s).tb = s.tb := rfl
@[simp] theorem emit_slot (o : Output) (s : State) : (emit o s).slot = s.slot := rfl
@[simp] theorem emit_ev (o : Output) (s : State) : (emit o s).ev = s.ev := rfl
@[simp] theorem emit_pu (o : Output) (s : State) : (emit o s).pu = s.pu := rfl
@[simp] theorem emit_ti (o : Output) (s : State) : (emit o s).ti = s.ti := rfl
@[simp] theorem emit_reg (o : Output) (s : State) : (emit o s).reg = s.reg := rfl
@[simp] theorem emit_pair (o : Output) (s : State) : (emit o s).pair = s.pair := rfl
@[simp] theorem emit_cxl (o : Output) (s : State) : (emit o s).cxl = s.cxl := rfl
@[simp] theorem emit_te (o : Output) (s : State) : (emit o s).te = s.te := rfl
@[simp] theorem emit_gqp (o : Output) (s : State) : (emit o s).gqp = s.gqp := rfl
@[simp] theorem emit_net (o : Output) (s : State) : (emit o s).net = s.net := rfl
@[simp] theorem emit_cap (o : Output) (s : State) : (emit o s).cap = s.cap := rfl
@[simp] theorem emit_ecc (o : Output) (s : State) : (emit o s).ecc = s.ecc := rfl
@[simp] theorem emit_mc (o : Output) (s : State) : (emit o s).mc = s.mc := rfl
@[simp] theorem emit_trust (o : Output) (s : State) : (emit o s).trust = s.trust := rfl
@[simp] theorem emit_params (o : Output) (s : State) : (emit o s).params = s.params := rfl
@[simp] theorem emit_paramsDue (o : Output) (s : State) : (emit o s).paramsDue = s.paramsDue := rfl
@[simp] theorem emit_seq (o : Output) (s : State) : (emit o s).seq = s.seq := rfl
@[simp] theorem emit_pwr (o : Output) (s : State) : (emit o s).pwr = s.pwr := rfl
@[simp] theorem emit_start (o : Output) (s : State) : (emit o s).start = s.start := rfl
@[simp] theorem emit_nor (o : Output) (s : State) : (emit o s).nor = s.nor := rfl
@[simp] theorem emit_out (o : Output) (s : State) : (emit o s).out = o :: s.out := rfl
@[simp] theorem emit_freeCtr (o : Output) (s : State) : (emit o s).freeCtr = s.freeCtr := rfl
@[simp] theorem emit_pending (o : Output) (s : State) : (emit o s).pending = s.pending := rfl

/-! ### `advance` -/

@[simp] theorem advance_ident  (s : State) : (advance s).ident = s.ident := rfl
@[simp] theorem advance_tb  (s : State) : (advance s).tb = s.tb := rfl
@[simp] theorem advance_slot  (s : State) : (advance s).slot = s.slot := rfl
@[simp] theorem advance_ev  (s : State) : (advance s).ev = s.ev := rfl
@[simp] theorem advance_pu  (s : State) : (advance s).pu = s.pu := rfl
@[simp] theorem advance_ti  (s : State) : (advance s).ti = s.ti := rfl
@[simp] theorem advance_reg  (s : State) : (advance s).reg = s.reg := rfl
@[simp] theorem advance_pair  (s : State) : (advance s).pair = s.pair := rfl
@[simp] theorem advance_cxl  (s : State) : (advance s).cxl = s.cxl := rfl
@[simp] theorem advance_te  (s : State) : (advance s).te = s.te := rfl
@[simp] theorem advance_gqp  (s : State) : (advance s).gqp = s.gqp := rfl
@[simp] theorem advance_net  (s : State) : (advance s).net = s.net := rfl
@[simp] theorem advance_cap  (s : State) : (advance s).cap = s.cap := rfl
@[simp] theorem advance_ecc  (s : State) : (advance s).ecc = s.ecc := rfl
@[simp] theorem advance_mc  (s : State) : (advance s).mc = s.mc := rfl
@[simp] theorem advance_trust  (s : State) : (advance s).trust = s.trust := rfl
@[simp] theorem advance_params  (s : State) : (advance s).params = s.params := rfl
@[simp] theorem advance_paramsDue  (s : State) : (advance s).paramsDue = s.paramsDue := rfl
@[simp] theorem advance_seq  (s : State) : (advance s).seq = s.seq := rfl
@[simp] theorem advance_pwr  (s : State) : (advance s).pwr = s.pwr := rfl
@[simp] theorem advance_start  (s : State) : (advance s).start = s.start := rfl
@[simp] theorem advance_nor  (s : State) : (advance s).nor = s.nor := rfl
@[simp] theorem advance_out  (s : State) : (advance s).out = s.out := rfl
@[simp] theorem advance_freeCtr  (s : State) : (advance s).freeCtr = s.freeCtr + 1 := rfl
@[simp] theorem advance_pending  (s : State) : (advance s).pending = s.pending := rfl

/-! ### `badWrite` -/

@[simp] theorem badWrite_ident  (s : State) : (badWrite s).ident = s.ident := rfl
@[simp] theorem badWrite_tb  (s : State) : (badWrite s).tb = s.tb := rfl
@[simp] theorem badWrite_slot  (s : State) : (badWrite s).slot = s.slot := rfl
@[simp] theorem badWrite_ev  (s : State) : (badWrite s).ev = setEvt 0x01 s.ev := rfl
@[simp] theorem badWrite_pu  (s : State) : (badWrite s).pu = s.pu := rfl
@[simp] theorem badWrite_ti  (s : State) : (badWrite s).ti = s.ti := rfl
@[simp] theorem badWrite_reg  (s : State) : (badWrite s).reg = s.reg := rfl
@[simp] theorem badWrite_pair  (s : State) : (badWrite s).pair = s.pair := rfl
@[simp] theorem badWrite_cxl  (s : State) : (badWrite s).cxl = s.cxl := rfl
@[simp] theorem badWrite_te  (s : State) : (badWrite s).te = s.te := rfl
@[simp] theorem badWrite_gqp  (s : State) : (badWrite s).gqp = s.gqp := rfl
@[simp] theorem badWrite_net  (s : State) : (badWrite s).net = s.net := rfl
@[simp] theorem badWrite_cap  (s : State) : (badWrite s).cap = s.cap := rfl
@[simp] theorem badWrite_ecc  (s : State) : (badWrite s).ecc = s.ecc := rfl
@[simp] theorem badWrite_mc  (s : State) : (badWrite s).mc = s.mc := rfl
@[simp] theorem badWrite_trust  (s : State) : (badWrite s).trust = s.trust := rfl
@[simp] theorem badWrite_params  (s : State) : (badWrite s).params = s.params := rfl
@[simp] theorem badWrite_paramsDue  (s : State) : (badWrite s).paramsDue = s.paramsDue := rfl
@[simp] theorem badWrite_seq  (s : State) : (badWrite s).seq = s.seq := rfl
@[simp] theorem badWrite_pwr  (s : State) : (badWrite s).pwr = s.pwr := rfl
@[simp] theorem badWrite_start  (s : State) : (badWrite s).start = s.start := rfl
@[simp] theorem badWrite_nor  (s : State) : (badWrite s).nor = s.nor := rfl
@[simp] theorem badWrite_out  (s : State) : (badWrite s).out = s.out := rfl
@[simp] theorem badWrite_freeCtr  (s : State) : (badWrite s).freeCtr = s.freeCtr := rfl
@[simp] theorem badWrite_pending  (s : State) : (badWrite s).pending = s.pending := rfl

/-! ### `raiseFor` -/

@[simp] theorem raiseFor_ident (unit code : Nat) (sev : Severity) (data : Bytes) (s : State) : (raiseFor unit code sev data s).ident = s.ident := rfl
@[simp] theorem raiseFor_tb (unit code : Nat) (sev : Severity) (data : Bytes) (s : State) : (raiseFor unit code sev data s).tb = s.tb := rfl
@[simp] theorem raiseFor_slot (unit code : Nat) (sev : Severity) (data : Bytes) (s : State) : (raiseFor unit code sev data s).slot = s.slot := rfl
@[simp] theorem raiseFor_ev (unit code : Nat) (sev : Severity) (data : Bytes) (s : State) : (raiseFor unit code sev data s).ev = setEvt (severityBit sev) (queueEvent (mkEvent code sev unit data s) s.ev) := rfl
@[simp] theorem raiseFor_pu (unit code : Nat) (sev : Severity) (data : Bytes) (s : State) : (raiseFor unit code sev data s).pu = s.pu := rfl
@[simp] theorem raiseFor_ti (unit code : Nat) (sev : Severity) (data : Bytes) (s : State) : (raiseFor unit code sev data s).ti = s.ti := rfl
@[simp] theorem raiseFor_reg (unit code : Nat) (sev : Severity) (data : Bytes) (s : State) : (raiseFor unit code sev data s).reg = s.reg := rfl
@[simp] theorem raiseFor_pair (unit code : Nat) (sev : Severity) (data : Bytes) (s : State) : (raiseFor unit code sev data s).pair = s.pair := rfl
@[simp] theorem raiseFor_cxl (unit code : Nat) (sev : Severity) (data : Bytes) (s : State) : (raiseFor unit code sev data s).cxl = s.cxl := rfl
@[simp] theorem raiseFor_te (unit code : Nat) (sev : Severity) (data : Bytes) (s : State) : (raiseFor unit code sev data s).te = s.te := rfl
@[simp] theorem raiseFor_gqp (unit code : Nat) (sev : Severity) (data : Bytes) (s : State) : (raiseFor unit code sev data s).gqp = s.gqp := rfl
@[simp] theorem raiseFor_net (unit code : Nat) (sev : Severity) (data : Bytes) (s : State) : (raiseFor unit code sev data s).net = s.net := rfl
@[simp] theorem raiseFor_cap (unit code : Nat) (sev : Severity) (data : Bytes) (s : State) : (raiseFor unit code sev data s).cap = s.cap := rfl
@[simp] theorem raiseFor_ecc (unit code : Nat) (sev : Severity) (data : Bytes) (s : State) : (raiseFor unit code sev data s).ecc = s.ecc := rfl
@[simp] theorem raiseFor_mc (unit code : Nat) (sev : Severity) (data : Bytes) (s : State) : (raiseFor unit code sev data s).mc = s.mc := rfl
@[simp] theorem raiseFor_trust (unit code : Nat) (sev : Severity) (data : Bytes) (s : State) : (raiseFor unit code sev data s).trust = s.trust := rfl
@[simp] theorem raiseFor_params (unit code : Nat) (sev : Severity) (data : Bytes) (s : State) : (raiseFor unit code sev data s).params = s.params := rfl
@[simp] theorem raiseFor_paramsDue (unit code : Nat) (sev : Severity) (data : Bytes) (s : State) : (raiseFor unit code sev data s).paramsDue = s.paramsDue := rfl
@[simp] theorem raiseFor_seq (unit code : Nat) (sev : Severity) (data : Bytes) (s : State) : (raiseFor unit code sev data s).seq = s.seq := rfl
@[simp] theorem raiseFor_pwr (unit code : Nat) (sev : Severity) (data : Bytes) (s : State) : (raiseFor unit code sev data s).pwr = s.pwr := rfl
@[simp] theorem raiseFor_start (unit code : Nat) (sev : Severity) (data : Bytes) (s : State) : (raiseFor unit code sev data s).start = s.start := rfl
@[simp] theorem raiseFor_nor (unit code : Nat) (sev : Severity) (data : Bytes) (s : State) : (raiseFor unit code sev data s).nor = s.nor := rfl
@[simp] theorem raiseFor_out (unit code : Nat) (sev : Severity) (data : Bytes) (s : State) : (raiseFor unit code sev data s).out = s.out := rfl
@[simp] theorem raiseFor_freeCtr (unit code : Nat) (sev : Severity) (data : Bytes) (s : State) : (raiseFor unit code sev data s).freeCtr = s.freeCtr := rfl
@[simp] theorem raiseFor_pending (unit code : Nat) (sev : Severity) (data : Bytes) (s : State) : (raiseFor unit code sev data s).pending = s.pending := rfl

/-! ### `raise` -/

@[simp] theorem raise_ident (code : Nat) (sev : Severity) (data : Bytes) (s : State) : (raise code sev data s).ident = s.ident := rfl
@[simp] theorem raise_tb (code : Nat) (sev : Severity) (data : Bytes) (s : State) : (raise code sev data s).tb = s.tb := rfl
@[simp] theorem raise_slot (code : Nat) (sev : Severity) (data : Bytes) (s : State) : (raise code sev data s).slot = s.slot := rfl
@[simp] theorem raise_ev (code : Nat) (sev : Severity) (data : Bytes) (s : State) : (raise code sev data s).ev = setEvt (severityBit sev) (queueEvent (mkEvent code sev 0xFFFF data s) s.ev) := rfl
@[simp] theorem raise_pu (code : Nat) (sev : Severity) (data : Bytes) (s : State) : (raise code sev data s).pu = s.pu := rfl
@[simp] theorem raise_ti (code : Nat) (sev : Severity) (data : Bytes) (s : State) : (raise code sev data s).ti = s.ti := rfl
@[simp] theorem raise_reg (code : Nat) (sev : Severity) (data : Bytes) (s : State) : (raise code sev data s).reg = s.reg := rfl
@[simp] theorem raise_pair (code : Nat) (sev : Severity) (data : Bytes) (s : State) : (raise code sev data s).pair = s.pair := rfl
@[simp] theorem raise_cxl (code : Nat) (sev : Severity) (data : Bytes) (s : State) : (raise code sev data s).cxl = s.cxl := rfl
@[simp] theorem raise_te (code : Nat) (sev : Severity) (data : Bytes) (s : State) : (raise code sev data s).te = s.te := rfl
@[simp] theorem raise_gqp (code : Nat) (sev : Severity) (data : Bytes) (s : State) : (raise code sev data s).gqp = s.gqp := rfl
@[simp] theorem raise_net (code : Nat) (sev : Severity) (data : Bytes) (s : State) : (raise code sev data s).net = s.net := rfl
@[simp] theorem raise_cap (code : Nat) (sev : Severity) (data : Bytes) (s : State) : (raise code sev data s).cap = s.cap := rfl
@[simp] theorem raise_ecc (code : Nat) (sev : Severity) (data : Bytes) (s : State) : (raise code sev data s).ecc = s.ecc := rfl
@[simp] theorem raise_mc (code : Nat) (sev : Severity) (data : Bytes) (s : State) : (raise code sev data s).mc = s.mc := rfl
@[simp] theorem raise_trust (code : Nat) (sev : Severity) (data : Bytes) (s : State) : (raise code sev data s).trust = s.trust := rfl
@[simp] theorem raise_params (code : Nat) (sev : Severity) (data : Bytes) (s : State) : (raise code sev data s).params = s.params := rfl
@[simp] theorem raise_paramsDue (code : Nat) (sev : Severity) (data : Bytes) (s : State) : (raise code sev data s).paramsDue = s.paramsDue := rfl
@[simp] theorem raise_seq (code : Nat) (sev : Severity) (data : Bytes) (s : State) : (raise code sev data s).seq = s.seq := rfl
@[simp] theorem raise_pwr (code : Nat) (sev : Severity) (data : Bytes) (s : State) : (raise code sev data s).pwr = s.pwr := rfl
@[simp] theorem raise_start (code : Nat) (sev : Severity) (data : Bytes) (s : State) : (raise code sev data s).start = s.start := rfl
@[simp] theorem raise_nor (code : Nat) (sev : Severity) (data : Bytes) (s : State) : (raise code sev data s).nor = s.nor := rfl
@[simp] theorem raise_out (code : Nat) (sev : Severity) (data : Bytes) (s : State) : (raise code sev data s).out = s.out := rfl
@[simp] theorem raise_freeCtr (code : Nat) (sev : Severity) (data : Bytes) (s : State) : (raise code sev data s).freeCtr = s.freeCtr := rfl
@[simp] theorem raise_pending (code : Nat) (sev : Severity) (data : Bytes) (s : State) : (raise code sev data s).pending = s.pending := rfl

/-! ### `modQ` -/

@[simp] theorem modQ_ident (qid : Nat) (g : QueuePair → QueuePair) (s : State) : (modQ qid g s).ident = s.ident := rfl
@[simp] theorem modQ_tb (qid : Nat) (g : QueuePair → QueuePair) (s : State) : (modQ qid g s).tb = s.tb := rfl
@[simp] theorem modQ_slot (qid : Nat) (g : QueuePair → QueuePair) (s : State) : (modQ qid g s).slot = s.slot := rfl
@[simp] theorem modQ_ev (qid : Nat) (g : QueuePair → QueuePair) (s : State) : (modQ qid g s).ev = s.ev := rfl
@[simp] theorem modQ_pu (qid : Nat) (g : QueuePair → QueuePair) (s : State) : (modQ qid g s).pu = s.pu := rfl
@[simp] theorem modQ_ti (qid : Nat) (g : QueuePair → QueuePair) (s : State) : (modQ qid g s).ti = s.ti := rfl
@[simp] theorem modQ_reg (qid : Nat) (g : QueuePair → QueuePair) (s : State) : (modQ qid g s).reg = s.reg := rfl
@[simp] theorem modQ_pair (qid : Nat) (g : QueuePair → QueuePair) (s : State) : (modQ qid g s).pair = s.pair := rfl
@[simp] theorem modQ_cxl (qid : Nat) (g : QueuePair → QueuePair) (s : State) : (modQ qid g s).cxl = s.cxl := rfl
@[simp] theorem modQ_te (qid : Nat) (g : QueuePair → QueuePair) (s : State) : (modQ qid g s).te = s.te := rfl
@[simp] theorem modQ_gqp (qid : Nat) (g : QueuePair → QueuePair) (s : State) : (modQ qid g s).gqp = (modGqp (fun x => { x with pairs := mmod qid g x.pairs }) s).gqp := rfl
@[simp] theorem modQ_net (qid : Nat) (g : QueuePair → QueuePair) (s : State) : (modQ qid g s).net = s.net := rfl
@[simp] theorem modQ_cap (qid : Nat) (g : QueuePair → QueuePair) (s : State) : (modQ qid g s).cap = s.cap := rfl
@[simp] theorem modQ_ecc (qid : Nat) (g : QueuePair → QueuePair) (s : State) : (modQ qid g s).ecc = s.ecc := rfl
@[simp] theorem modQ_mc (qid : Nat) (g : QueuePair → QueuePair) (s : State) : (modQ qid g s).mc = s.mc := rfl
@[simp] theorem modQ_trust (qid : Nat) (g : QueuePair → QueuePair) (s : State) : (modQ qid g s).trust = s.trust := rfl
@[simp] theorem modQ_params (qid : Nat) (g : QueuePair → QueuePair) (s : State) : (modQ qid g s).params = s.params := rfl
@[simp] theorem modQ_paramsDue (qid : Nat) (g : QueuePair → QueuePair) (s : State) : (modQ qid g s).paramsDue = s.paramsDue := rfl
@[simp] theorem modQ_seq (qid : Nat) (g : QueuePair → QueuePair) (s : State) : (modQ qid g s).seq = s.seq := rfl
@[simp] theorem modQ_pwr (qid : Nat) (g : QueuePair → QueuePair) (s : State) : (modQ qid g s).pwr = s.pwr := rfl
@[simp] theorem modQ_start (qid : Nat) (g : QueuePair → QueuePair) (s : State) : (modQ qid g s).start = s.start := rfl
@[simp] theorem modQ_nor (qid : Nat) (g : QueuePair → QueuePair) (s : State) : (modQ qid g s).nor = s.nor := rfl
@[simp] theorem modQ_out (qid : Nat) (g : QueuePair → QueuePair) (s : State) : (modQ qid g s).out = s.out := rfl
@[simp] theorem modQ_freeCtr (qid : Nat) (g : QueuePair → QueuePair) (s : State) : (modQ qid g s).freeCtr = s.freeCtr := rfl
@[simp] theorem modQ_pending (qid : Nat) (g : QueuePair → QueuePair) (s : State) : (modQ qid g s).pending = s.pending := rfl

end Sys2Proof.Machine
end

