-- ==== Sys2Proof/Laws/Answers.lean ====
section
/-! SUPPORT. The state after an answer, field by field: an answer changes the outputs, the mailboxes and the sideband proxy, queue pair 0
and the link queue, and nothing else. -/

namespace Sys2Proof.Machine

@[simp] theorem signalCount_ident (qid : Nat) (s : State) : (signalCount qid s).ident = s.ident := by
  unfold signalCount; split
  · rfl
  · split <;> rfl

@[simp] theorem writeEntry_ident (qid : Nat) (o : Bytes → Output) (e : Bytes) (s : State) : (writeEntry qid o e s).ident = s.ident := by
  simp [writeEntry]

@[simp] theorem tunnelEnd_ident (cid rc : Nat) (out : Bytes) (s : State) : (tunnelEnd cid rc out s).ident = s.ident := by
  unfold tunnelEnd; split
  · rfl
  · split
    · rfl
    · split
      · rfl
      · simp only [writeEntry_ident, modQ_ident]; split <;> rfl

@[simp] theorem signalCount_tb (qid : Nat) (s : State) : (signalCount qid s).tb = s.tb := by
  unfold signalCount; split
  · rfl
  · split <;> rfl

@[simp] theorem writeEntry_tb (qid : Nat) (o : Bytes → Output) (e : Bytes) (s : State) : (writeEntry qid o e s).tb = s.tb := by
  simp [writeEntry]

@[simp] theorem tunnelEnd_tb (cid rc : Nat) (out : Bytes) (s : State) : (tunnelEnd cid rc out s).tb = s.tb := by
  unfold tunnelEnd; split
  · rfl
  · split
    · rfl
    · split
      · rfl
      · simp only [writeEntry_tb, modQ_tb]; split <;> rfl

@[simp] theorem signalCount_slot (qid : Nat) (s : State) : (signalCount qid s).slot = s.slot := by
  unfold signalCount; split
  · rfl
  · split <;> rfl

@[simp] theorem writeEntry_slot (qid : Nat) (o : Bytes → Output) (e : Bytes) (s : State) : (writeEntry qid o e s).slot = s.slot := by
  simp [writeEntry]

@[simp] theorem tunnelEnd_slot (cid rc : Nat) (out : Bytes) (s : State) : (tunnelEnd cid rc out s).slot = s.slot := by
  unfold tunnelEnd; split
  · rfl
  · split
    · rfl
    · split
      · rfl
      · simp only [writeEntry_slot, modQ_slot]; split <;> rfl

@[simp] theorem signalCount_ev (qid : Nat) (s : State) : (signalCount qid s).ev = s.ev := by
  unfold signalCount; split
  · rfl
  · split <;> rfl

@[simp] theorem writeEntry_ev (qid : Nat) (o : Bytes → Output) (e : Bytes) (s : State) : (writeEntry qid o e s).ev = s.ev := by
  simp [writeEntry]

@[simp] theorem tunnelEnd_ev (cid rc : Nat) (out : Bytes) (s : State) : (tunnelEnd cid rc out s).ev = s.ev := by
  unfold tunnelEnd; split
  · rfl
  · split
    · rfl
    · split
      · rfl
      · simp only [writeEntry_ev, modQ_ev]; split <;> rfl

@[simp] theorem signalCount_pu (qid : Nat) (s : State) : (signalCount qid s).pu = s.pu := by
  unfold signalCount; split
  · rfl
  · split <;> rfl

@[simp] theorem writeEntry_pu (qid : Nat) (o : Bytes → Output) (e : Bytes) (s : State) : (writeEntry qid o e s).pu = s.pu := by
  simp [writeEntry]

@[simp] theorem tunnelEnd_pu (cid rc : Nat) (out : Bytes) (s : State) : (tunnelEnd cid rc out s).pu = s.pu := by
  unfold tunnelEnd; split
  · rfl
  · split
    · rfl
    · split
      · rfl
      · simp only [writeEntry_pu, modQ_pu]; split <;> rfl

@[simp] theorem signalCount_ti (qid : Nat) (s : State) : (signalCount qid s).ti = s.ti := by
  unfold signalCount; split
  · rfl
  · split <;> rfl

@[simp] theorem writeEntry_ti (qid : Nat) (o : Bytes → Output) (e : Bytes) (s : State) : (writeEntry qid o e s).ti = s.ti := by
  simp [writeEntry]

@[simp] theorem tunnelEnd_ti (cid rc : Nat) (out : Bytes) (s : State) : (tunnelEnd cid rc out s).ti = s.ti := by
  unfold tunnelEnd; split
  · rfl
  · split
    · rfl
    · split
      · rfl
      · simp only [writeEntry_ti, modQ_ti]; split <;> rfl

@[simp] theorem signalCount_reg (qid : Nat) (s : State) : (signalCount qid s).reg = s.reg := by
  unfold signalCount; split
  · rfl
  · split <;> rfl

@[simp] theorem writeEntry_reg (qid : Nat) (o : Bytes → Output) (e : Bytes) (s : State) : (writeEntry qid o e s).reg = s.reg := by
  simp [writeEntry]

@[simp] theorem tunnelEnd_reg (cid rc : Nat) (out : Bytes) (s : State) : (tunnelEnd cid rc out s).reg = s.reg := by
  unfold tunnelEnd; split
  · rfl
  · split
    · rfl
    · split
      · rfl
      · simp only [writeEntry_reg, modQ_reg]; split <;> rfl

@[simp] theorem signalCount_cxl (qid : Nat) (s : State) : (signalCount qid s).cxl = s.cxl := by
  unfold signalCount; split
  · rfl
  · split <;> rfl

@[simp] theorem writeEntry_cxl (qid : Nat) (o : Bytes → Output) (e : Bytes) (s : State) : (writeEntry qid o e s).cxl = s.cxl := by
  simp [writeEntry]

@[simp] theorem tunnelEnd_cxl (cid rc : Nat) (out : Bytes) (s : State) : (tunnelEnd cid rc out s).cxl = s.cxl := by
  unfold tunnelEnd; split
  · rfl
  · split
    · rfl
    · split
      · rfl
      · simp only [writeEntry_cxl, modQ_cxl]; split <;> rfl

@[simp] theorem signalCount_te (qid : Nat) (s : State) : (signalCount qid s).te = s.te := by
  unfold signalCount; split
  · rfl
  · split <;> rfl

@[simp] theorem writeEntry_te (qid : Nat) (o : Bytes → Output) (e : Bytes) (s : State) : (writeEntry qid o e s).te = s.te := by
  simp [writeEntry]

@[simp] theorem tunnelEnd_te (cid rc : Nat) (out : Bytes) (s : State) : (tunnelEnd cid rc out s).te = s.te := by
  unfold tunnelEnd; split
  · rfl
  · split
    · rfl
    · split
      · rfl
      · simp only [writeEntry_te, modQ_te]; split <;> rfl

@[simp] theorem signalCount_net (qid : Nat) (s : State) : (signalCount qid s).net = s.net := by
  unfold signalCount; split
  · rfl
  · split <;> rfl

@[simp] theorem writeEntry_net (qid : Nat) (o : Bytes → Output) (e : Bytes) (s : State) : (writeEntry qid o e s).net = s.net := by
  simp [writeEntry]

@[simp] theorem tunnelEnd_net (cid rc : Nat) (out : Bytes) (s : State) : (tunnelEnd cid rc out s).net = s.net := by
  unfold tunnelEnd; split
  · rfl
  · split
    · rfl
    · split
      · rfl
      · simp only [writeEntry_net, modQ_net]; split <;> rfl

@[simp] theorem signalCount_cap (qid : Nat) (s : State) : (signalCount qid s).cap = s.cap := by
  unfold signalCount; split
  · rfl
  · split <;> rfl

@[simp] theorem writeEntry_cap (qid : Nat) (o : Bytes → Output) (e : Bytes) (s : State) : (writeEntry qid o e s).cap = s.cap := by
  simp [writeEntry]

@[simp] theorem tunnelEnd_cap (cid rc : Nat) (out : Bytes) (s : State) : (tunnelEnd cid rc out s).cap = s.cap := by
  unfold tunnelEnd; split
  · rfl
  · split
    · rfl
    · split
      · rfl
      · simp only [writeEntry_cap, modQ_cap]; split <;> rfl

@[simp] theorem signalCount_ecc (qid : Nat) (s : State) : (signalCount qid s).ecc = s.ecc := by
  unfold signalCount; split
  · rfl
  · split <;> rfl

@[simp] theorem writeEntry_ecc (qid : Nat) (o : Bytes → Output) (e : Bytes) (s : State) : (writeEntry qid o e s).ecc = s.ecc := by
  simp [writeEntry]

@[simp] theorem tunnelEnd_ecc (cid rc : Nat) (out : Bytes) (s : State) : (tunnelEnd cid rc out s).ecc = s.ecc := by
  unfold tunnelEnd; split
  · rfl
  · split
    · rfl
    · split
      · rfl
      · simp only [writeEntry_ecc, modQ_ecc]; split <;> rfl

@[simp] theorem signalCount_trust (qid : Nat) (s : State) : (signalCount qid s).trust = s.trust := by
  unfold signalCount; split
  · rfl
  · split <;> rfl

@[simp] theorem writeEntry_trust (qid : Nat) (o : Bytes → Output) (e : Bytes) (s : State) : (writeEntry qid o e s).trust = s.trust := by
  simp [writeEntry]

@[simp] theorem tunnelEnd_trust (cid rc : Nat) (out : Bytes) (s : State) : (tunnelEnd cid rc out s).trust = s.trust := by
  unfold tunnelEnd; split
  · rfl
  · split
    · rfl
    · split
      · rfl
      · simp only [writeEntry_trust, modQ_trust]; split <;> rfl

@[simp] theorem signalCount_params (qid : Nat) (s : State) : (signalCount qid s).params = s.params := by
  unfold signalCount; split
  · rfl
  · split <;> rfl

@[simp] theorem writeEntry_params (qid : Nat) (o : Bytes → Output) (e : Bytes) (s : State) : (writeEntry qid o e s).params = s.params := by
  simp [writeEntry]

@[simp] theorem tunnelEnd_params (cid rc : Nat) (out : Bytes) (s : State) : (tunnelEnd cid rc out s).params = s.params := by
  unfold tunnelEnd; split
  · rfl
  · split
    · rfl
    · split
      · rfl
      · simp only [writeEntry_params, modQ_params]; split <;> rfl

@[simp] theorem signalCount_paramsDue (qid : Nat) (s : State) : (signalCount qid s).paramsDue = s.paramsDue := by
  unfold signalCount; split
  · rfl
  · split <;> rfl

@[simp] theorem writeEntry_paramsDue (qid : Nat) (o : Bytes → Output) (e : Bytes) (s : State) : (writeEntry qid o e s).paramsDue = s.paramsDue := by
  simp [writeEntry]

@[simp] theorem tunnelEnd_paramsDue (cid rc : Nat) (out : Bytes) (s : State) : (tunnelEnd cid rc out s).paramsDue = s.paramsDue := by
  unfold tunnelEnd; split
  · rfl
  · split
    · rfl
    · split
      · rfl
      · simp only [writeEntry_paramsDue, modQ_paramsDue]; split <;> rfl

@[simp] theorem signalCount_seq (qid : Nat) (s : State) : (signalCount qid s).seq = s.seq := by
  unfold signalCount; split
  · rfl
  · split <;> rfl

@[simp] theorem writeEntry_seq (qid : Nat) (o : Bytes → Output) (e : Bytes) (s : State) : (writeEntry qid o e s).seq = s.seq := by
  simp [writeEntry]

@[simp] theorem tunnelEnd_seq (cid rc : Nat) (out : Bytes) (s : State) : (tunnelEnd cid rc out s).seq = s.seq := by
  unfold tunnelEnd; split
  · rfl
  · split
    · rfl
    · split
      · rfl
      · simp only [writeEntry_seq, modQ_seq]; split <;> rfl

@[simp] theorem signalCount_pwr (qid : Nat) (s : State) : (signalCount qid s).pwr = s.pwr := by
  unfold signalCount; split
  · rfl
  · split <;> rfl

@[simp] theorem writeEntry_pwr (qid : Nat) (o : Bytes → Output) (e : Bytes) (s : State) : (writeEntry qid o e s).pwr = s.pwr := by
  simp [writeEntry]

@[simp] theorem tunnelEnd_pwr (cid rc : Nat) (out : Bytes) (s : State) : (tunnelEnd cid rc out s).pwr = s.pwr := by
  unfold tunnelEnd; split
  · rfl
  · split
    · rfl
    · split
      · rfl
      · simp only [writeEntry_pwr, modQ_pwr]; split <;> rfl

@[simp] theorem signalCount_start (qid : Nat) (s : State) : (signalCount qid s).start = s.start := by
  unfold signalCount; split
  · rfl
  · split <;> rfl

@[simp] theorem writeEntry_start (qid : Nat) (o : Bytes → Output) (e : Bytes) (s : State) : (writeEntry qid o e s).start = s.start := by
  simp [writeEntry]

@[simp] theorem tunnelEnd_start (cid rc : Nat) (out : Bytes) (s : State) : (tunnelEnd cid rc out s).start = s.start := by
  unfold tunnelEnd; split
  · rfl
  · split
    · rfl
    · split
      · rfl
      · simp only [writeEntry_start, modQ_start]; split <;> rfl

@[simp] theorem signalCount_nor (qid : Nat) (s : State) : (signalCount qid s).nor = s.nor := by
  unfold signalCount; split
  · rfl
  · split <;> rfl

@[simp] theorem writeEntry_nor (qid : Nat) (o : Bytes → Output) (e : Bytes) (s : State) : (writeEntry qid o e s).nor = s.nor := by
  simp [writeEntry]

@[simp] theorem tunnelEnd_nor (cid rc : Nat) (out : Bytes) (s : State) : (tunnelEnd cid rc out s).nor = s.nor := by
  unfold tunnelEnd; split
  · rfl
  · split
    · rfl
    · split
      · rfl
      · simp only [writeEntry_nor, modQ_nor]; split <;> rfl

@[simp] theorem signalCount_freeCtr (qid : Nat) (s : State) : (signalCount qid s).freeCtr = s.freeCtr := by
  unfold signalCount; split
  · rfl
  · split <;> rfl

@[simp] theorem writeEntry_freeCtr (qid : Nat) (o : Bytes → Output) (e : Bytes) (s : State) : (writeEntry qid o e s).freeCtr = s.freeCtr := by
  simp [writeEntry]

@[simp] theorem tunnelEnd_freeCtr (cid rc : Nat) (out : Bytes) (s : State) : (tunnelEnd cid rc out s).freeCtr = s.freeCtr := by
  unfold tunnelEnd; split
  · rfl
  · split
    · rfl
    · split
      · rfl
      · simp only [writeEntry_freeCtr, modQ_freeCtr]; split <;> rfl

@[simp] theorem signalCount_pending (qid : Nat) (s : State) : (signalCount qid s).pending = s.pending := by
  unfold signalCount; split
  · rfl
  · split <;> rfl

@[simp] theorem writeEntry_pending (qid : Nat) (o : Bytes → Output) (e : Bytes) (s : State) : (writeEntry qid o e s).pending = s.pending := by
  simp [writeEntry]

@[simp] theorem tunnelEnd_pending (cid rc : Nat) (out : Bytes) (s : State) : (tunnelEnd cid rc out s).pending = s.pending := by
  unfold tunnelEnd; split
  · rfl
  · split
    · rfl
    · split
      · rfl
      · simp only [writeEntry_pending, modQ_pending]; split <;> rfl

@[simp] theorem signalCount_mc (qid : Nat) (s : State) : (signalCount qid s).mc = s.mc := by
  unfold signalCount; split
  · rfl
  · split <;> rfl

@[simp] theorem writeEntry_mc (qid : Nat) (o : Bytes → Output) (e : Bytes) (s : State) : (writeEntry qid o e s).mc = s.mc := by
  simp [writeEntry]

@[simp] theorem tunnelEnd_mc (cid rc : Nat) (out : Bytes) (s : State) : (tunnelEnd cid rc out s).mc = s.mc := by
  unfold tunnelEnd; split
  · rfl
  · split
    · rfl
    · split
      · rfl
      · simp only [writeEntry_mc, modQ_mc]; split <;> rfl

@[simp] theorem signalCount_pair (qid : Nat) (s : State) : (signalCount qid s).pair = s.pair := by
  unfold signalCount; split
  · rfl
  · split <;> rfl

@[simp] theorem writeEntry_pair (qid : Nat) (o : Bytes → Output) (e : Bytes) (s : State) : (writeEntry qid o e s).pair = s.pair := by
  simp [writeEntry]

@[simp] theorem tunnelEnd_pair (cid rc : Nat) (out : Bytes) (s : State) : (tunnelEnd cid rc out s).pair = s.pair := by
  unfold tunnelEnd; split
  · rfl
  · split
    · rfl
    · split
      · rfl
      · simp only [writeEntry_pair, modQ_pair]; split <;> rfl

@[simp] theorem answerV_ident (path : BcsPath) (opcode rc v : Nat) (out : Bytes) (s : State) :
    (answerV path opcode rc v out s).ident = s.ident := by
  cases path <;> simp only [answerV, tunnelEnd_ident, emit_ident] <;> split <;> rfl

@[simp] theorem answer_ident (path : BcsPath) (opcode rc : Nat) (out : Bytes) (s : State) : (answer path opcode rc out s).ident = s.ident :=
  answerV_ident ..

@[simp] theorem success_ident (path : BcsPath) (opcode : Nat) (out : Bytes) (s : State) : (success path opcode out s).ident = s.ident :=
  answerV_ident ..

@[simp] theorem invalid_ident (path : BcsPath) (opcode off : Nat) (s : State) : (invalid path opcode off s).ident = s.ident :=
  answerV_ident ..

@[simp] theorem answerV_tb (path : BcsPath) (opcode rc v : Nat) (out : Bytes) (s : State) :
    (answerV path opcode rc v out s).tb = s.tb := by
  cases path <;> simp only [answerV, tunnelEnd_tb, emit_tb] <;> split <;> rfl

@[simp] theorem answer_tb (path : BcsPath) (opcode rc : Nat) (out : Bytes) (s : State) : (answer path opcode rc out s).tb = s.tb :=
  answerV_tb ..

@[simp] theorem success_tb (path : BcsPath) (opcode : Nat) (out : Bytes) (s : State) : (success path opcode out s).tb = s.tb :=
  answerV_tb ..

@[simp] theorem invalid_tb (path : BcsPath) (opcode off : Nat) (s : State) : (invalid path opcode off s).tb = s.tb :=
  answerV_tb ..

@[simp] theorem answerV_slot (path : BcsPath) (opcode rc v : Nat) (out : Bytes) (s : State) :
    (answerV path opcode rc v out s).slot = s.slot := by
  cases path <;> simp only [answerV, tunnelEnd_slot, emit_slot] <;> split <;> rfl

@[simp] theorem answer_slot (path : BcsPath) (opcode rc : Nat) (out : Bytes) (s : State) : (answer path opcode rc out s).slot = s.slot :=
  answerV_slot ..

@[simp] theorem success_slot (path : BcsPath) (opcode : Nat) (out : Bytes) (s : State) : (success path opcode out s).slot = s.slot :=
  answerV_slot ..

@[simp] theorem invalid_slot (path : BcsPath) (opcode off : Nat) (s : State) : (invalid path opcode off s).slot = s.slot :=
  answerV_slot ..

@[simp] theorem answerV_ev (path : BcsPath) (opcode rc v : Nat) (out : Bytes) (s : State) :
    (answerV path opcode rc v out s).ev = s.ev := by
  cases path <;> simp only [answerV, tunnelEnd_ev, emit_ev] <;> split <;> rfl

@[simp] theorem answer_ev (path : BcsPath) (opcode rc : Nat) (out : Bytes) (s : State) : (answer path opcode rc out s).ev = s.ev :=
  answerV_ev ..

@[simp] theorem success_ev (path : BcsPath) (opcode : Nat) (out : Bytes) (s : State) : (success path opcode out s).ev = s.ev :=
  answerV_ev ..

@[simp] theorem invalid_ev (path : BcsPath) (opcode off : Nat) (s : State) : (invalid path opcode off s).ev = s.ev :=
  answerV_ev ..

@[simp] theorem answerV_pu (path : BcsPath) (opcode rc v : Nat) (out : Bytes) (s : State) :
    (answerV path opcode rc v out s).pu = s.pu := by
  cases path <;> simp only [answerV, tunnelEnd_pu, emit_pu] <;> split <;> rfl

@[simp] theorem answer_pu (path : BcsPath) (opcode rc : Nat) (out : Bytes) (s : State) : (answer path opcode rc out s).pu = s.pu :=
  answerV_pu ..

@[simp] theorem success_pu (path : BcsPath) (opcode : Nat) (out : Bytes) (s : State) : (success path opcode out s).pu = s.pu :=
  answerV_pu ..

@[simp] theorem invalid_pu (path : BcsPath) (opcode off : Nat) (s : State) : (invalid path opcode off s).pu = s.pu :=
  answerV_pu ..

@[simp] theorem answerV_ti (path : BcsPath) (opcode rc v : Nat) (out : Bytes) (s : State) :
    (answerV path opcode rc v out s).ti = s.ti := by
  cases path <;> simp only [answerV, tunnelEnd_ti, emit_ti] <;> split <;> rfl

@[simp] theorem answer_ti (path : BcsPath) (opcode rc : Nat) (out : Bytes) (s : State) : (answer path opcode rc out s).ti = s.ti :=
  answerV_ti ..

@[simp] theorem success_ti (path : BcsPath) (opcode : Nat) (out : Bytes) (s : State) : (success path opcode out s).ti = s.ti :=
  answerV_ti ..

@[simp] theorem invalid_ti (path : BcsPath) (opcode off : Nat) (s : State) : (invalid path opcode off s).ti = s.ti :=
  answerV_ti ..

@[simp] theorem answerV_reg (path : BcsPath) (opcode rc v : Nat) (out : Bytes) (s : State) :
    (answerV path opcode rc v out s).reg = s.reg := by
  cases path <;> simp only [answerV, tunnelEnd_reg, emit_reg] <;> split <;> rfl

@[simp] theorem answer_reg (path : BcsPath) (opcode rc : Nat) (out : Bytes) (s : State) : (answer path opcode rc out s).reg = s.reg :=
  answerV_reg ..

@[simp] theorem success_reg (path : BcsPath) (opcode : Nat) (out : Bytes) (s : State) : (success path opcode out s).reg = s.reg :=
  answerV_reg ..

@[simp] theorem invalid_reg (path : BcsPath) (opcode off : Nat) (s : State) : (invalid path opcode off s).reg = s.reg :=
  answerV_reg ..

@[simp] theorem answerV_cxl (path : BcsPath) (opcode rc v : Nat) (out : Bytes) (s : State) :
    (answerV path opcode rc v out s).cxl = s.cxl := by
  cases path <;> simp only [answerV, tunnelEnd_cxl, emit_cxl] <;> split <;> rfl

@[simp] theorem answer_cxl (path : BcsPath) (opcode rc : Nat) (out : Bytes) (s : State) : (answer path opcode rc out s).cxl = s.cxl :=
  answerV_cxl ..

@[simp] theorem success_cxl (path : BcsPath) (opcode : Nat) (out : Bytes) (s : State) : (success path opcode out s).cxl = s.cxl :=
  answerV_cxl ..

@[simp] theorem invalid_cxl (path : BcsPath) (opcode off : Nat) (s : State) : (invalid path opcode off s).cxl = s.cxl :=
  answerV_cxl ..

@[simp] theorem answerV_te (path : BcsPath) (opcode rc v : Nat) (out : Bytes) (s : State) :
    (answerV path opcode rc v out s).te = s.te := by
  cases path <;> simp only [answerV, tunnelEnd_te, emit_te] <;> split <;> rfl

@[simp] theorem answer_te (path : BcsPath) (opcode rc : Nat) (out : Bytes) (s : State) : (answer path opcode rc out s).te = s.te :=
  answerV_te ..

@[simp] theorem success_te (path : BcsPath) (opcode : Nat) (out : Bytes) (s : State) : (success path opcode out s).te = s.te :=
  answerV_te ..

@[simp] theorem invalid_te (path : BcsPath) (opcode off : Nat) (s : State) : (invalid path opcode off s).te = s.te :=
  answerV_te ..

@[simp] theorem answerV_net (path : BcsPath) (opcode rc v : Nat) (out : Bytes) (s : State) :
    (answerV path opcode rc v out s).net = s.net := by
  cases path <;> simp only [answerV, tunnelEnd_net, emit_net] <;> split <;> rfl

@[simp] theorem answer_net (path : BcsPath) (opcode rc : Nat) (out : Bytes) (s : State) : (answer path opcode rc out s).net = s.net :=
  answerV_net ..

@[simp] theorem success_net (path : BcsPath) (opcode : Nat) (out : Bytes) (s : State) : (success path opcode out s).net = s.net :=
  answerV_net ..

@[simp] theorem invalid_net (path : BcsPath) (opcode off : Nat) (s : State) : (invalid path opcode off s).net = s.net :=
  answerV_net ..

@[simp] theorem answerV_cap (path : BcsPath) (opcode rc v : Nat) (out : Bytes) (s : State) :
    (answerV path opcode rc v out s).cap = s.cap := by
  cases path <;> simp only [answerV, tunnelEnd_cap, emit_cap] <;> split <;> rfl

@[simp] theorem answer_cap (path : BcsPath) (opcode rc : Nat) (out : Bytes) (s : State) : (answer path opcode rc out s).cap = s.cap :=
  answerV_cap ..

@[simp] theorem success_cap (path : BcsPath) (opcode : Nat) (out : Bytes) (s : State) : (success path opcode out s).cap = s.cap :=
  answerV_cap ..

@[simp] theorem invalid_cap (path : BcsPath) (opcode off : Nat) (s : State) : (invalid path opcode off s).cap = s.cap :=
  answerV_cap ..

@[simp] theorem answerV_ecc (path : BcsPath) (opcode rc v : Nat) (out : Bytes) (s : State) :
    (answerV path opcode rc v out s).ecc = s.ecc := by
  cases path <;> simp only [answerV, tunnelEnd_ecc, emit_ecc] <;> split <;> rfl

@[simp] theorem answer_ecc (path : BcsPath) (opcode rc : Nat) (out : Bytes) (s : State) : (answer path opcode rc out s).ecc = s.ecc :=
  answerV_ecc ..

@[simp] theorem success_ecc (path : BcsPath) (opcode : Nat) (out : Bytes) (s : State) : (success path opcode out s).ecc = s.ecc :=
  answerV_ecc ..

@[simp] theorem invalid_ecc (path : BcsPath) (opcode off : Nat) (s : State) : (invalid path opcode off s).ecc = s.ecc :=
  answerV_ecc ..

@[simp] theorem answerV_trust (path : BcsPath) (opcode rc v : Nat) (out : Bytes) (s : State) :
    (answerV path opcode rc v out s).trust = s.trust := by
  cases path <;> simp only [answerV, tunnelEnd_trust, emit_trust] <;> split <;> rfl

@[simp] theorem answer_trust (path : BcsPath) (opcode rc : Nat) (out : Bytes) (s : State) : (answer path opcode rc out s).trust = s.trust :=
  answerV_trust ..

@[simp] theorem success_trust (path : BcsPath) (opcode : Nat) (out : Bytes) (s : State) : (success path opcode out s).trust = s.trust :=
  answerV_trust ..

@[simp] theorem invalid_trust (path : BcsPath) (opcode off : Nat) (s : State) : (invalid path opcode off s).trust = s.trust :=
  answerV_trust ..

@[simp] theorem answerV_params (path : BcsPath) (opcode rc v : Nat) (out : Bytes) (s : State) :
    (answerV path opcode rc v out s).params = s.params := by
  cases path <;> simp only [answerV, tunnelEnd_params, emit_params] <;> split <;> rfl

@[simp] theorem answer_params (path : BcsPath) (opcode rc : Nat) (out : Bytes) (s : State) : (answer path opcode rc out s).params = s.params :=
  answerV_params ..

@[simp] theorem success_params (path : BcsPath) (opcode : Nat) (out : Bytes) (s : State) : (success path opcode out s).params = s.params :=
  answerV_params ..

@[simp] theorem invalid_params (path : BcsPath) (opcode off : Nat) (s : State) : (invalid path opcode off s).params = s.params :=
  answerV_params ..

@[simp] theorem answerV_paramsDue (path : BcsPath) (opcode rc v : Nat) (out : Bytes) (s : State) :
    (answerV path opcode rc v out s).paramsDue = s.paramsDue := by
  cases path <;> simp only [answerV, tunnelEnd_paramsDue, emit_paramsDue] <;> split <;> rfl

@[simp] theorem answer_paramsDue (path : BcsPath) (opcode rc : Nat) (out : Bytes) (s : State) : (answer path opcode rc out s).paramsDue = s.paramsDue :=
  answerV_paramsDue ..

@[simp] theorem success_paramsDue (path : BcsPath) (opcode : Nat) (out : Bytes) (s : State) : (success path opcode out s).paramsDue = s.paramsDue :=
  answerV_paramsDue ..

@[simp] theorem invalid_paramsDue (path : BcsPath) (opcode off : Nat) (s : State) : (invalid path opcode off s).paramsDue = s.paramsDue :=
  answerV_paramsDue ..

@[simp] theorem answerV_seq (path : BcsPath) (opcode rc v : Nat) (out : Bytes) (s : State) :
    (answerV path opcode rc v out s).seq = s.seq := by
  cases path <;> simp only [answerV, tunnelEnd_seq, emit_seq] <;> split <;> rfl

@[simp] theorem answer_seq (path : BcsPath) (opcode rc : Nat) (out : Bytes) (s : State) : (answer path opcode rc out s).seq = s.seq :=
  answerV_seq ..

@[simp] theorem success_seq (path : BcsPath) (opcode : Nat) (out : Bytes) (s : State) : (success path opcode out s).seq = s.seq :=
  answerV_seq ..

@[simp] theorem invalid_seq (path : BcsPath) (opcode off : Nat) (s : State) : (invalid path opcode off s).seq = s.seq :=
  answerV_seq ..

@[simp] theorem answerV_pwr (path : BcsPath) (opcode rc v : Nat) (out : Bytes) (s : State) :
    (answerV path opcode rc v out s).pwr = s.pwr := by
  cases path <;> simp only [answerV, tunnelEnd_pwr, emit_pwr] <;> split <;> rfl

@[simp] theorem answer_pwr (path : BcsPath) (opcode rc : Nat) (out : Bytes) (s : State) : (answer path opcode rc out s).pwr = s.pwr :=
  answerV_pwr ..

@[simp] theorem success_pwr (path : BcsPath) (opcode : Nat) (out : Bytes) (s : State) : (success path opcode out s).pwr = s.pwr :=
  answerV_pwr ..

@[simp] theorem invalid_pwr (path : BcsPath) (opcode off : Nat) (s : State) : (invalid path opcode off s).pwr = s.pwr :=
  answerV_pwr ..

@[simp] theorem answerV_start (path : BcsPath) (opcode rc v : Nat) (out : Bytes) (s : State) :
    (answerV path opcode rc v out s).start = s.start := by
  cases path <;> simp only [answerV, tunnelEnd_start, emit_start] <;> split <;> rfl

@[simp] theorem answer_start (path : BcsPath) (opcode rc : Nat) (out : Bytes) (s : State) : (answer path opcode rc out s).start = s.start :=
  answerV_start ..

@[simp] theorem success_start (path : BcsPath) (opcode : Nat) (out : Bytes) (s : State) : (success path opcode out s).start = s.start :=
  answerV_start ..

@[simp] theorem invalid_start (path : BcsPath) (opcode off : Nat) (s : State) : (invalid path opcode off s).start = s.start :=
  answerV_start ..

@[simp] theorem answerV_nor (path : BcsPath) (opcode rc v : Nat) (out : Bytes) (s : State) :
    (answerV path opcode rc v out s).nor = s.nor := by
  cases path <;> simp only [answerV, tunnelEnd_nor, emit_nor] <;> split <;> rfl

@[simp] theorem answer_nor (path : BcsPath) (opcode rc : Nat) (out : Bytes) (s : State) : (answer path opcode rc out s).nor = s.nor :=
  answerV_nor ..

@[simp] theorem success_nor (path : BcsPath) (opcode : Nat) (out : Bytes) (s : State) : (success path opcode out s).nor = s.nor :=
  answerV_nor ..

@[simp] theorem invalid_nor (path : BcsPath) (opcode off : Nat) (s : State) : (invalid path opcode off s).nor = s.nor :=
  answerV_nor ..

@[simp] theorem answerV_freeCtr (path : BcsPath) (opcode rc v : Nat) (out : Bytes) (s : State) :
    (answerV path opcode rc v out s).freeCtr = s.freeCtr := by
  cases path <;> simp only [answerV, tunnelEnd_freeCtr, emit_freeCtr] <;> split <;> rfl

@[simp] theorem answer_freeCtr (path : BcsPath) (opcode rc : Nat) (out : Bytes) (s : State) : (answer path opcode rc out s).freeCtr = s.freeCtr :=
  answerV_freeCtr ..

@[simp] theorem success_freeCtr (path : BcsPath) (opcode : Nat) (out : Bytes) (s : State) : (success path opcode out s).freeCtr = s.freeCtr :=
  answerV_freeCtr ..

@[simp] theorem invalid_freeCtr (path : BcsPath) (opcode off : Nat) (s : State) : (invalid path opcode off s).freeCtr = s.freeCtr :=
  answerV_freeCtr ..

@[simp] theorem answerV_pending (path : BcsPath) (opcode rc v : Nat) (out : Bytes) (s : State) :
    (answerV path opcode rc v out s).pending = s.pending := by
  cases path <;> simp only [answerV, tunnelEnd_pending, emit_pending] <;> split <;> rfl

@[simp] theorem answer_pending (path : BcsPath) (opcode rc : Nat) (out : Bytes) (s : State) : (answer path opcode rc out s).pending = s.pending :=
  answerV_pending ..

@[simp] theorem success_pending (path : BcsPath) (opcode : Nat) (out : Bytes) (s : State) : (success path opcode out s).pending = s.pending :=
  answerV_pending ..

@[simp] theorem invalid_pending (path : BcsPath) (opcode off : Nat) (s : State) : (invalid path opcode off s).pending = s.pending :=
  answerV_pending ..

end Sys2Proof.Machine
end

