-- ==== Sys2Proof/Laws/Bcs.lean ====
section
/-! SUPPORT. What the shared operations of the BCS executor do: a command that is taken up runs its body, a check that holds lets it go
on, and an answer leaves the block. -/

namespace Sys2Proof.Machine

/-- A command that is taken up and whose input has the right length runs its body. -/
theorem bcs_open {path : BcsPath} {opcode : Nat} {input : Bytes} {lenOk : Bool} {body : State → State} {s : State}
    (h : bcsOpen path opcode s = true) (hl : lenOk = true) : bcs path opcode input lenOk body s = body s := by
  simp only [bcsOpen, Bool.and_eq_true, Bool.not_eq_true', Bool.or_eq_true] at h
  obtain ⟨⟨⟨h1, h2⟩, h3⟩, h4⟩ := h
  have h5 : (needsPrivilege opcode && !privileged path) = false := by
    rcases h4 with h4 | h4 <;> simp [h4]
  simp [bcs, gated, h1, h2, h3, h5, hl]

/-- A command that is taken up answers Invalid Payload Length when its input has the wrong length. -/
theorem bcs_length {path : BcsPath} {opcode : Nat} {input : Bytes} {lenOk : Bool} {body : State → State} {s : State}
    (h : bcsOpen path opcode s = true) (hl : lenOk = false) :
    bcs path opcode input lenOk body s = answer path opcode 0x0016 [] s := by
  simp only [bcsOpen, Bool.and_eq_true, Bool.not_eq_true', Bool.or_eq_true] at h
  obtain ⟨⟨⟨h1, h2⟩, h3⟩, h4⟩ := h
  have h5 : (needsPrivilege opcode && !privileged path) = false := by
    rcases h4 with h4 | h4 <;> simp [h4]
  simp [bcs, gated, h1, h2, h3, h5, hl]

/-- Checks that all hold let the body run. -/
theorem checked_ok {path : BcsPath} {opcode : Nat} {fields : List (Bool × Nat)} {body : State → State} {s : State}
    (h : firstBad fields = none) : checked path opcode fields body s = body s := by simp [checked, h]

/-- A list of checks holds when each of them holds. -/
theorem firstBad_none {fields : List (Bool × Nat)} (h : ∀ f ∈ fields, f.1 = true) : firstBad fields = none := by
  induction fields with
  | nil => rfl
  | cons f r ih =>
    obtain ⟨ok, off⟩ := f
    have h1 : ok = true := h (ok, off) (by simp)
    simp [firstBad, h1, ih fun g hg => h g (by simp [hg])]




theorem signalCount_out (qid : Nat) (s : State) : s.out <:+ (signalCount qid s).out := by
  unfold signalCount; split
  · exact List.suffix_rfl
  · split
    · exact List.suffix_cons _ _
    · exact List.suffix_rfl

theorem writeEntry_out (qid : Nat) (o : Bytes → Output) (e : Bytes) (s : State) : s.out <:+ (writeEntry qid o e s).out := by
  refine List.IsSuffix.trans ?_ (signalCount_out _ _)
  exact List.suffix_cons _ _

theorem tunnelEnd_out (cid rc : Nat) (out : Bytes) (s : State) : s.out <:+ (tunnelEnd cid rc out s).out := by
  unfold tunnelEnd
  split
  · exact List.suffix_rfl
  · split
    · exact List.suffix_rfl
    · split
      · exact List.suffix_rfl
      · refine List.IsSuffix.trans ?_ (writeEntry_out _ _ _ _)
        show s.out <:+ (modQ _ _ _).out
        simp only [modQ, modGqp]
        split
        · exact List.suffix_rfl
        · exact List.suffix_cons _ _

/-- An answer leaves the block, and nothing that left before is taken back. -/
theorem answerV_out (path : BcsPath) (opcode rc v : Nat) (out : Bytes) (s : State) :
    (Output.bcs path opcode rc v out :: s.out) <:+ (answerV path opcode rc v out s).out := by
  cases path with
  | sideband => exact List.suffix_rfl
  | primary l =>
    simp only [answerV]
    split
    · exact List.suffix_cons _ _
    · exact List.suffix_rfl
  | fm h =>
    simp only [answerV]
    split
    · exact List.suffix_cons _ _
    · exact List.suffix_rfl
  | admin cid => exact tunnelEnd_out cid rc out (emit (.bcs (.admin cid) opcode rc v out) s)
  | forwarded m p => exact List.suffix_rfl

/-- A command answered with a return code has its answer among the outputs. -/
theorem answered_answer (path : BcsPath) (opcode rc : Nat) (out : Bytes) (s : State) :
    answered path opcode rc out (answer path opcode rc out s) :=
  (answerV_out path opcode rc 0xFFFF out s).subset (List.mem_cons_self ..)

/-- A command answered with Success has its answer among the outputs. -/
theorem answered_success (path : BcsPath) (opcode : Nat) (out : Bytes) (s : State) :
    answered path opcode 0 out (success path opcode out s) := answered_answer path opcode 0 out s

end Sys2Proof.Machine
end

