-- ==== Sys2Proof/Laws/Mem.lean ====
section
/-! SUPPORT. Byte memory: every operation keeps the canonical form, and a read after a write. -/

namespace Sys2Proof.Machine

theorem wfFrom_mono {lo k : Nat} {m : Memory} (h : Memory.wfFrom k m = true) (hk : lo ≤ k) : Memory.wfFrom lo m = true := by
  cases m with
  | nil => rfl
  | cons c r =>
    obtain ⟨j, b⟩ := c
    simp only [Memory.wfFrom, Bool.and_eq_true, decide_eq_true_eq] at h ⊢
    exact ⟨⟨by omega, h.1.2⟩, h.2⟩

theorem memClear_wfFrom (a : Nat) {lo : Nat} {m : Memory} (h : Memory.wfFrom lo m = true) : Memory.wfFrom lo (memClear a m) = true := by
  induction m generalizing lo with
  | nil => rfl
  | cons c r ih =>
    obtain ⟨j, b⟩ := c
    simp only [Memory.wfFrom, Bool.and_eq_true, decide_eq_true_eq] at h
    simp only [memClear]
    split
    · exact wfFrom_mono h.2 (by omega)
    · split
      · simp only [Memory.wfFrom, Bool.and_eq_true, decide_eq_true_eq]
        exact h
      · simp only [Memory.wfFrom, Bool.and_eq_true, decide_eq_true_eq]
        exact ⟨h.1, ih h.2⟩

theorem memInsert_wfFrom (a : Nat) {b : Byte} (hb : b ≠ 0) {lo : Nat} (hlo : lo ≤ a) {m : Memory} (h : Memory.wfFrom lo m = true) :
    Memory.wfFrom lo (memInsert a b m) = true := by
  induction m generalizing lo with
  | nil =>
    simp only [memInsert, Memory.wfFrom, Bool.and_eq_true, decide_eq_true_eq]
    exact ⟨⟨hlo, hb⟩, trivial⟩
  | cons c r ih =>
    obtain ⟨j, d⟩ := c
    simp only [Memory.wfFrom, Bool.and_eq_true, decide_eq_true_eq] at h
    simp only [memInsert]
    split
    · simp only [Memory.wfFrom, Bool.and_eq_true, decide_eq_true_eq]
      exact ⟨⟨hlo, hb⟩, ⟨by omega, h.1.2⟩, h.2⟩
    · split
      · rename_i h1 h2
        subst h2
        simp only [Memory.wfFrom, Bool.and_eq_true, decide_eq_true_eq]
        exact ⟨⟨hlo, hb⟩, h.2⟩
      · simp only [Memory.wfFrom, Bool.and_eq_true, decide_eq_true_eq]
        exact ⟨h.1, ih (by omega) h.2⟩

theorem memWrite_wf (a : Nat) (b : Byte) {m : Memory} (h : Memory.wf m = true) : Memory.wf (memWrite a b m) = true := by
  unfold memWrite
  split
  · exact memClear_wfFrom a h
  · exact memInsert_wfFrom a ‹_› (Nat.zero_le a) h

theorem memWriteN_wf (a : Nat) (l : Bytes) {m : Memory} (h : Memory.wf m = true) : Memory.wf (memWriteN a l m) = true := by
  induction l generalizing a m with
  | nil => exact h
  | cons b r ih => exact ih (a + 1) (memWrite_wf a b h)

theorem memWriteLine_wf (k : Nat) (l : Line) {m : Memory} (h : Memory.wf m = true) : Memory.wf (memWriteLine k l m) = true :=
  memWriteN_wf (k * 64) (lineBytes l) h

theorem filter_wfFrom (p : Host.Cell → Bool) {lo : Nat} {m : Memory} (h : Memory.wfFrom lo m = true) :
    Memory.wfFrom lo (m.filter p) = true := by
  induction m generalizing lo with
  | nil => rfl
  | cons c r ih =>
    obtain ⟨j, b⟩ := c
    simp only [Memory.wfFrom, Bool.and_eq_true, decide_eq_true_eq] at h
    rw [List.filter_cons]
    split
    · simp only [Memory.wfFrom, Bool.and_eq_true, decide_eq_true_eq]
      exact ⟨h.1, ih h.2⟩
    · exact wfFrom_mono (ih h.2) (by omega)

theorem filter_wf (p : Host.Cell → Bool) {m : Memory} (h : Memory.wf m = true) : Memory.wf (m.filter p) = true := filter_wfFrom p h

theorem memErase_wf (a n : Nat) {m : Memory} (h : Memory.wf m = true) : Memory.wf (memErase a n m) = true := filter_wf _ h

theorem foldl_wf {α : Type} (f : Memory → α → Memory) (hf : ∀ m x, Memory.wf m = true → Memory.wf (f m x) = true) (l : List α)
    {m : Memory} (h : Memory.wf m = true) : Memory.wf (l.foldl f m) = true := by
  induction l generalizing m with
  | nil => exact h
  | cons x r ih => exact ih (hf m x h)

theorem memPaste_wf (a n : Nat) (w : Memory) {m : Memory} (h : Memory.wf m = true) : Memory.wf (memPaste a n w m) = true :=
  foldl_wf _ (fun _ c hm => memWrite_wf (a + c.1) c.2 hm) w (memErase_wf a n h)

theorem memRead_below {a lo : Nat} {m : Memory} (h : Memory.wfFrom lo m = true) (ha : a < lo) : memRead a m = 0 := by
  induction m generalizing lo with
  | nil => rfl
  | cons c r ih =>
    obtain ⟨j, b⟩ := c
    simp only [Memory.wfFrom, Bool.and_eq_true, decide_eq_true_eq] at h
    simp only [memRead]
    rw [if_neg (by omega)]
    exact ih h.2 (by omega)

theorem memRead_memClear (a x : Nat) {lo : Nat} {m : Memory} (h : Memory.wfFrom lo m = true) :
    memRead x (memClear a m) = if x = a then 0 else memRead x m := by
  induction m generalizing lo with
  | nil => simp [memClear, memRead]
  | cons c r ih =>
    obtain ⟨j, b⟩ := c
    simp only [Memory.wfFrom, Bool.and_eq_true, decide_eq_true_eq] at h
    simp only [memClear]
    split
    · rename_i hj
      subst hj
      by_cases hx : x = j
      · rw [if_pos hx]
        exact memRead_below h.2 (by omega)
      · rw [if_neg hx, memRead, if_neg (Ne.symm hx)]
    · split
      · by_cases hx : x = a
        · rw [if_pos hx]
          exact memRead_below (lo := j) (by
            simp only [Memory.wfFrom, Bool.and_eq_true, decide_eq_true_eq]
            exact ⟨⟨Nat.le_refl j, h.1.2⟩, h.2⟩) (by omega)
        · rw [if_neg hx]
      · simp only [memRead]
        rw [ih h.2]
        by_cases hx : x = a <;> by_cases hj : j = x <;> simp_all

theorem memRead_memInsert (a x : Nat) (b : Byte) {lo : Nat} {m : Memory} (h : Memory.wfFrom lo m = true) :
    memRead x (memInsert a b m) = if x = a then b else memRead x m := by
  induction m generalizing lo with
  | nil =>
    by_cases hx : x = a
    · simp [memInsert, memRead, hx]
    · simp [memInsert, memRead, hx, Ne.symm hx]
  | cons c r ih =>
    obtain ⟨j, d⟩ := c
    simp only [Memory.wfFrom, Bool.and_eq_true, decide_eq_true_eq] at h
    simp only [memInsert]
    split
    · by_cases hx : x = a
      · simp [memRead, hx]
      · simp [memRead, hx, Ne.symm hx]
    · split
      · rename_i hj
        subst hj
        by_cases hx : x = j
        · simp [memRead, hx]
        · simp [memRead, hx, Ne.symm hx]
      · simp only [memRead]
        rw [ih h.2]
        by_cases hx : x = a <;> by_cases hj : j = x <;> simp_all

/-- A read after a write of one byte: the byte written at its address, every other byte as before. -/
theorem memRead_memWrite (a x : Nat) (b : Byte) {m : Memory} (h : Memory.wf m = true) :
    memRead x (memWrite a b m) = if x = a then b else memRead x m := by
  unfold memWrite
  split
  · rename_i hb
    rw [memRead_memClear a x h, hb]
  · exact memRead_memInsert a x b h

/-- A read after a write of a run of bytes. -/
theorem memRead_memWriteN (a x : Nat) (l : Bytes) {m : Memory} (h : Memory.wf m = true) :
    memRead x (memWriteN a l m) = if a ≤ x ∧ x < a + l.length then l.getD (x - a) 0 else memRead x m := by
  induction l generalizing a m with
  | nil =>
    simp [memWriteN]
  | cons b r ih =>
    rw [memWriteN, ih (a + 1) (memWrite_wf a b h), memRead_memWrite a x b h]
    simp only [List.length_cons]
    by_cases h1 : x = a
    · subst h1
      rw [if_neg (by omega), if_pos rfl, if_pos (by omega)]
      simp
    · by_cases h2 : a + 1 ≤ x ∧ x < a + 1 + r.length
      · rw [if_pos h2, if_pos (by omega)]
        have : x - a = (x - (a + 1)) + 1 := by omega
        rw [this, List.getD_cons_succ]
      · rw [if_neg h2, if_neg h1, if_neg (by omega)]

/-- Every byte of an erased run reads as zero, every other as before. -/
theorem memRead_memErase (a n x : Nat) {lo : Nat} {m : Memory} (h : Memory.wfFrom lo m = true) :
    memRead x (memErase a n m) = if a ≤ x ∧ x < a + n then 0 else memRead x m := by
  induction m generalizing lo with
  | nil => simp [memErase, memRead]
  | cons c r ih =>
    obtain ⟨j, b⟩ := c
    simp only [Memory.wfFrom, Bool.and_eq_true, decide_eq_true_eq] at h
    have ih := ih h.2
    unfold memErase at ih ⊢
    rw [List.filter_cons]
    split
    · rename_i hj
      simp only [Bool.or_eq_true, decide_eq_true_eq] at hj
      simp only [memRead]
      rw [ih]
      by_cases hx : j = x
      · subst hx
        rw [if_pos rfl, if_neg (by omega), if_pos rfl]
      · rw [if_neg hx, if_neg hx]
    · rename_i hj
      simp only [Bool.or_eq_true, decide_eq_true_eq] at hj
      rw [ih]
      by_cases hx : j = x
      · subst hx
        rw [if_pos (by omega), if_pos (by omega)]
      · simp [memRead, hx]

theorem cellsOf_wfFrom (b : Bytes) (k : Nat) :
    Memory.wfFrom k ((b.zipIdx k).filterMap fun x => if x.1 = 0 then none else some (x.2, x.1)) = true := by
  induction b generalizing k with
  | nil => rfl
  | cons x r ih =>
    rw [List.zipIdx_cons, List.filterMap_cons]
    by_cases hx : x = 0
    · simp only [hx, if_true]
      exact wfFrom_mono (ih (k + 1)) (by omega)
    · simp only [hx, if_false, Memory.wfFrom, Bool.and_eq_true, decide_eq_true_eq]
      exact ⟨⟨Nat.le_refl k, hx⟩, ih (k + 1)⟩

theorem cellsOf_wf (b : Bytes) : Memory.wf (cellsOf b) = true := cellsOf_wfFrom b 0

end Sys2Proof.Machine
end

