-- ==== Sys2Proof/Laws/Keeps.lean ====
section
/-! SUPPORT. What every operation of the model keeps, said once: the relation `Keeps` between the state before and the state after, and
how it passes through the elementary updates. -/

namespace Sys2Proof.Machine

/-- What every operation keeps of the fuses, the device secret and the once-written records (14_trust R517, R539). -/
structure KeepsTrust (a b : Trust) : Prop where
  dus : b.dus = a.dus
  rollback : a.rollback ≤ b.rollback
  level2 : a.level2 = true → b.level2 = true
  floors : a.signer.floors <+: b.signer.floors

/-- What every operation keeps of the event unit: its counts do not fall and its buffers do not overflow (15_config_flash_events R563,
R566). -/
structure KeepsEv (a b : EventUnit) : Prop where
  cycles : a.cycles ≤ b.cycles
  hours : a.hours ≤ b.hours
  nextIndex : a.nextIndex ≤ b.nextIndex
  wearIndex : a.wearIndex ≤ b.wearIndex
  queue : a.queue.length ≤ 1024 → b.queue.length ≤ 1024
  supPending : a.supPending.length ≤ 16 → b.supPending.length ≤ 16

/-- What every operation keeps: the waiting commands, what has left the block, the draws, and the parts above; canonical memories stay
canonical. -/
structure Keeps (a b : State) : Prop where
  pending : b.pending = a.pending
  out : a.out <:+ b.out
  free : a.freeCtr ≤ b.freeCtr
  trust : KeepsTrust a.trust b.trust
  ev : KeepsEv a.ev b.ev
  shelf : Memory.wf a.ti.shelf = true → Memory.wf b.ti.shelf = true
  cab : Memory.wf a.ti.cab = true → Memory.wf b.ti.cab = true
  staging : Memory.wf a.cap.staging = true → Memory.wf b.cap.staging = true
  mc : mcCanonical a.mc = true → mcCanonical b.mc = true

theorem KeepsTrust.refl (a : Trust) : KeepsTrust a a := ⟨rfl, Nat.le_refl _, id, List.prefix_rfl⟩

theorem KeepsTrust.trans {a b c : Trust} (h : KeepsTrust a b) (g : KeepsTrust b c) : KeepsTrust a c :=
  ⟨g.dus.trans h.dus, Nat.le_trans h.rollback g.rollback, fun x => g.level2 (h.level2 x), h.floors.trans g.floors⟩

theorem KeepsEv.refl (a : EventUnit) : KeepsEv a a := ⟨Nat.le_refl _, Nat.le_refl _, Nat.le_refl _, Nat.le_refl _, id, id⟩

theorem KeepsEv.trans {a b c : EventUnit} (h : KeepsEv a b) (g : KeepsEv b c) : KeepsEv a c :=
  ⟨Nat.le_trans h.cycles g.cycles, Nat.le_trans h.hours g.hours, Nat.le_trans h.nextIndex g.nextIndex,
    Nat.le_trans h.wearIndex g.wearIndex, fun x => g.queue (h.queue x), fun x => g.supPending (h.supPending x)⟩

theorem Keeps.refl (s : State) : Keeps s s :=
  ⟨rfl, List.suffix_rfl, Nat.le_refl _, KeepsTrust.refl _, KeepsEv.refl _, id, id, id, id⟩

theorem Keeps.trans {a b c : State} (h : Keeps a b) (g : Keeps b c) : Keeps a c :=
  ⟨g.pending.trans h.pending, h.out.trans g.out, Nat.le_trans h.free g.free, h.trust.trans g.trust, h.ev.trans g.ev,
    fun x => g.shelf (h.shelf x), fun x => g.cab (h.cab x), fun x => g.staging (h.staging x), fun x => g.mc (h.mc x)⟩

/-- Canonical memories stay canonical. -/
theorem Keeps.canonical {a b : State} (h : Keeps a b) (ha : canonical a = true) : canonical b = true := by
  simp only [Machine.canonical, Bool.and_eq_true] at ha ⊢
  exact ⟨⟨⟨h.shelf ha.1.1.1, h.cab ha.1.1.2⟩, h.staging ha.1.2⟩, h.mc ha.2⟩

theorem keeps_ite {a b c : State} {p : Prop} [Decidable p] (hc : Keeps a c) (hb : Keeps a c → Keeps a b) :
    Keeps a (if p then b else c) := by
  split
  · exact hb hc
  · exact hc

theorem keeps_ite_then {a b c : State} {p : Prop} [Decidable p] (hb : Keeps a b) (hc : Keeps a b → Keeps a c) :
    Keeps a (if p then b else c) := by
  split
  · exact hb
  · exact hc hb

/-- `Keeps` of the state that an operation may answer. -/
def KeepsSome (a : State) (o : Option State) : Prop := ∀ t, o = some t → Keeps a t

/-- `Keeps` of the next state of a command's outcome. -/
def KeepsNext (a : State) (o : Host.Outcome State Fault Refusal) : Prop := ∀ t, o = .next t → Keeps a t

theorem keepsSome_none {a : State} : KeepsSome a none := by
  intro t h
  cases h

theorem keepsSome_some {a s : State} (h : Keeps a s) : KeepsSome a (some s) := by
  intro t e
  cases e
  exact h

theorem keepsSome_map {α : Type} {a : State} {f : α → State} {o : Option α} (h : ∀ x, o = some x → Keeps a (f x)) :
    KeepsSome a (o.map f) := by
  intro t e
  cases o with
  | none => cases e
  | some x =>
    cases e
    exact h x rfl

theorem keepsSome_bind {α : Type} {a : State} {f : α → Option State} {o : Option α} (h : ∀ x, o = some x → KeepsSome a (f x)) :
    KeepsSome a (o.bind f) := by
  intro t e
  cases o with
  | none => cases e
  | some x => exact h x rfl t e

theorem keepsSome_ite {a : State} {b c : Option State} {p : Prop} [Decidable p] (hc : KeepsSome a c) (hb : KeepsSome a b) :
    KeepsSome a (if p then b else c) := by
  split
  · exact hb
  · exact hc

theorem keepsSome_of {a s : State} {o : Option State} (e : o = some s) (h : KeepsSome a o) : Keeps a s := h s e

theorem keepsSome_getD {a s : State} {o : Option State} (h : KeepsSome a o) (hs : Keeps a s) : Keeps a (o.getD s) := by
  cases o with
  | none => exact hs
  | some x => exact h x rfl

theorem keepsSome_foldlM {α : Type} {a s : State} {f : State → α → Option State} {l : List α} (h : Keeps a s)
    (hf : ∀ s x, Keeps a s → KeepsSome a (f s x)) : KeepsSome a (l.foldlM f s) := by
  induction l generalizing s with
  | nil => exact keepsSome_some h
  | cons x r ih =>
    rw [List.foldlM_cons]
    exact keepsSome_bind fun y hy => ih (hf s x h y hy)

theorem keepsNext_next {a s : State} (h : Keeps a s) : KeepsNext a (.next s) := by
  intro t e
  cases e
  exact h

theorem keepsNext_fault {a : State} {f : Fault} : KeepsNext a (.fault f) := by
  intro t e
  cases e

theorem keepsNext_ite {a : State} {b c : Host.Outcome State Fault Refusal} {p : Prop} [Decidable p] (hc : KeepsNext a c)
    (hb : KeepsNext a b) : KeepsNext a (if p then b else c) := by
  split
  · exact hb
  · exact hc

theorem keeps_fst {α : Type} {a s : State} {p : State × α} {x : α} (e : p = (s, x)) (h : Keeps a p.1) : Keeps a s := by
  subst e
  exact h

theorem keeps_snd {α : Type} {a s : State} {p : α × State} {x : α} (e : p = (x, s)) (h : Keeps a p.2) : Keeps a s := by
  subst e
  exact h

theorem keeps_foldl {α : Type} {a s : State} {f : State → α → State} {l : List α} (h : Keeps a s)
    (hf : ∀ s x, Keeps a s → Keeps a (f s x)) : Keeps a (l.foldl f s) := by
  induction l generalizing s with
  | nil => exact h
  | cons x r ih => exact ih (hf s x h)

/-- An update of fields that `Keeps` does not look into. -/
theorem keeps_mk_iff {a s : State} {ident : Ident} {tb : Timebase} {slot : SlotSched} {pu : Persist} {reg : Regions} {pair : Pair} {cxl : Cxl}
    {te : Te} {gqp : Gqp} {net : Net} {ecc : Ecc} {params : AMap Nat} {paramsDue : List (Nat × Nat)} {seq : Seq} {pwr : Power}
    {start : StartUp} {nor : Nor} :
    Keeps a { s with
      ident := ident, tb := tb, slot := slot, pu := pu, reg := reg, pair := pair, cxl := cxl, te := te, gqp := gqp
      net := net, ecc := ecc, params := params, paramsDue := paramsDue, seq := seq, pwr := pwr, start := start
      nor := nor } ↔ Keeps a s :=
  ⟨fun h => ⟨h.pending, h.out, h.free, h.trust, h.ev, h.shelf, h.cab, h.staging, h.mc⟩,
    fun h => ⟨h.pending, h.out, h.free, h.trust, h.ev, h.shelf, h.cab, h.staging, h.mc⟩⟩

/-- An update of the event unit. -/
theorem keeps_ev {a s : State} {e : EventUnit} (he : KeepsEv s.ev e) (h : Keeps a s) : Keeps a { s with ev := e } :=
  ⟨h.pending, h.out, h.free, h.trust, h.ev.trans he, h.shelf, h.cab, h.staging, h.mc⟩

/-- An update of the management complex. -/
theorem keeps_mc {a s : State} {m : Mc} (hm : mcCanonical s.mc = true → mcCanonical m = true) (h : Keeps a s) : Keeps a { s with mc := m } :=
  ⟨h.pending, h.out, h.free, h.trust, h.ev, h.shelf, h.cab, h.staging, fun x => hm (h.mc x)⟩

/-- An update of any field but the queue, the outputs and the draws. -/
theorem keeps_any {a s : State} {ident : Ident} {tb : Timebase} {slot : SlotSched} {ev : EventUnit} {pu : Persist} {ti : Tiers}
    {reg : Regions} {pair : Pair} {cxl : Cxl} {te : Te} {gqp : Gqp} {net : Net} {cap : Cap} {ecc : Ecc} {mc : Mc} {trust : Trust}
    {params : AMap Nat} {paramsDue : List (Nat × Nat)} {seq : Seq} {pwr : Power} {start : StartUp} {nor : Nor}
    (he : KeepsEv s.ev ev) (ht : KeepsTrust s.trust trust) (hs : Memory.wf s.ti.shelf = true → Memory.wf ti.shelf = true)
    (hc : Memory.wf s.ti.cab = true → Memory.wf ti.cab = true) (hg : Memory.wf s.cap.staging = true → Memory.wf cap.staging = true)
    (hm : mcCanonical s.mc = true → mcCanonical mc = true) (h : Keeps a s) :
    Keeps a { s with
      ident := ident, tb := tb, slot := slot, ev := ev, pu := pu, ti := ti, reg := reg, pair := pair, cxl := cxl
      te := te, gqp := gqp, net := net, cap := cap, ecc := ecc, mc := mc, trust := trust, params := params
      paramsDue := paramsDue, seq := seq, pwr := pwr, start := start, nor := nor } :=
  ⟨h.pending, h.out, h.free, h.trust.trans ht, h.ev.trans he, fun x => hs (h.shelf x), fun x => hc (h.cab x), fun x => hg (h.staging x),
    fun x => hm (h.mc x)⟩

theorem modTi_keeps {a s : State} {f : Tiers → Tiers} (hs : ∀ t, Memory.wf t.shelf = true → Memory.wf (f t).shelf = true)
    (hc : ∀ t, Memory.wf t.cab = true → Memory.wf (f t).cab = true) (h : Keeps a s) : Keeps a (modTi f s) :=
  ⟨h.pending, h.out, h.free, h.trust, h.ev, fun x => hs _ (h.shelf x), fun x => hc _ (h.cab x), h.staging, h.mc⟩

theorem modCap_keeps {a s : State} {f : Cap → Cap} (hg : ∀ c, Memory.wf c.staging = true → Memory.wf (f c).staging = true)
    (h : Keeps a s) : Keeps a (modCap f s) :=
  ⟨h.pending, h.out, h.free, h.trust, h.ev, h.shelf, h.cab, fun x => hg _ (h.staging x), h.mc⟩

theorem modTrust_keeps {a s : State} {f : Trust → Trust} (ht : ∀ t, KeepsTrust t (f t)) (h : Keeps a s) : Keeps a (modTrust f s) :=
  ⟨h.pending, h.out, h.free, h.trust.trans (ht _), h.ev, h.shelf, h.cab, h.staging, h.mc⟩

theorem modSigner_keeps {a s : State} {f : Signer → Signer} (ht : ∀ g, g.floors <+: (f g).floors) (h : Keeps a s) :
    Keeps a (modSigner f s) := modTrust_keeps (fun _ => ⟨rfl, Nat.le_refl _, id, ht _⟩) h

theorem modMc_keeps {a s : State} {f : Mc → Mc} (hm : ∀ m, mcCanonical m = true → mcCanonical (f m) = true) (h : Keeps a s) :
    Keeps a (modMc f s) := keeps_mc (hm _) h

theorem mput_all {α : Type} {p : Nat × α → Bool} {k : Nat} {v : α} {m : AMap α} (h : m.all p = true) (hv : p (k, v) = true) :
    (mput k v m).all p = true := by
  induction m with
  | nil => simp [mput, hv]
  | cons e r ih =>
    obtain ⟨j, w⟩ := e
    simp only [List.all_cons, Bool.and_eq_true] at h
    simp only [mput]
    split
    · simp [hv, h.1, h.2]
    · split
      · simp [hv, h.2]
      · simp [h.1, ih h.2]

theorem mget_all {α : Type} {p : Nat × α → Bool} {k : Nat} {v : α} {m : AMap α} (h : m.all p = true) (hk : mget k m = some v) :
    p (k, v) = true := by
  induction m with
  | nil => simp [mget] at hk
  | cons e r ih =>
    obtain ⟨j, w⟩ := e
    simp only [List.all_cons, Bool.and_eq_true] at h
    simp only [mget] at hk
    split at hk
    · rename_i hj
      subst hj
      cases hk
      exact h.1
    · exact ih h.2 hk

/-- A change of one mailbox keeps the canonical form when it keeps the payload's. -/
theorem mail_canonical {f : Mailbox → Mailbox} {k : Nat} {m : Mc} (hf : ∀ x : Mailbox, Memory.wf x.payload = true → Memory.wf (f x).payload = true)
    (h : mcCanonical m = true) : mcCanonical { m with mail := mmodD {} k f m.mail } = true := by
  simp only [mcCanonical, Bool.and_eq_true] at h ⊢
  refine ⟨mput_all h.1 (hf _ ?_), h.2⟩
  unfold mgetD
  cases hk : mget k m.mail with
  | none => rfl
  | some v => exact mget_all (p := fun e => Memory.wf e.2.payload) h.1 hk

theorem mcCanonical_same {m n : Mc} (h1 : n.mail = m.mail) (h2 : n.proxy.input = m.proxy.input) (h : mcCanonical m = true) :
    mcCanonical n = true := by
  unfold mcCanonical at h ⊢
  rw [h1, h2]
  exact h

theorem queueEvent_keeps (e : Event) (u : EventUnit) : KeepsEv u (queueEvent e u) := by
  unfold queueEvent
  split
  · rename_i hu
    refine ⟨Nat.le_refl _, Nat.le_refl _, Nat.le_refl _, Nat.le_refl _, fun _ => ?_, id⟩
    simp only [List.length_append, List.length_cons, List.length_nil]
    omega
  · exact ⟨Nat.le_refl _, Nat.le_refl _, Nat.le_refl _, Nat.le_refl _, id, id⟩

theorem setEvt_keeps {a : EventUnit} {b : BitVec 8} {u : EventUnit} (h : KeepsEv a u) : KeepsEv a (setEvt b u) :=
  ⟨h.cycles, h.hours, h.nextIndex, h.wearIndex, h.queue, h.supPending⟩

theorem emit_keeps {a s : State} {o : Output} (h : Keeps a s) : Keeps a (emit o s) :=
  ⟨h.pending, h.out.trans (List.suffix_cons _ _), h.free, h.trust, h.ev, h.shelf, h.cab, h.staging, h.mc⟩

theorem advance_keeps {a s : State} (h : Keeps a s) : Keeps a (advance s) :=
  ⟨h.pending, h.out, Nat.le_trans h.free (Nat.le_succ _), h.trust, h.ev, h.shelf, h.cab, h.staging, h.mc⟩

theorem badWrite_keeps {a s : State} (h : Keeps a s) : Keeps a (badWrite s) := keeps_ev (setEvt_keeps (KeepsEv.refl _)) h

theorem raiseFor_keeps {a s : State} {unit code : Nat} {sev : Severity} {data : Bytes} (h : Keeps a s) :
    Keeps a (raiseFor unit code sev data s) := keeps_ev (setEvt_keeps (queueEvent_keeps _ _)) h

theorem raiseSup_keeps {a s : State} {running : Bool} {code : Nat} {sev : Severity} {data : Bytes} (h : Keeps a s) :
    Keeps a (raiseSup running code sev data s) := by
  unfold raiseSup
  dsimp only
  split
  · rename_i hl
    refine keeps_ev ⟨Nat.le_refl _, Nat.le_refl _, Nat.le_refl _, Nat.le_refl _, id, fun _ => ?_⟩ h
    simp only [List.length_append, List.length_cons, List.length_nil]
    omega
  · exact keeps_ev ⟨Nat.le_refl _, Nat.le_refl _, Nat.le_refl _, Nat.le_refl _, id, id⟩ h

end Sys2Proof.Machine
end

