-- ==== Sys2Proof/Laws/Keeps1.lean ====
section
/-! SUPPORT. `Keeps` through the operations of Ops, Operands, Mpl, Persist, Tiers, Regions, Nor, Spares, Bcs, Meta, Access, Signing, Sends, Gqp. -/

set_option linter.unusedTactic false
set_option linter.unreachableTactic false
set_option linter.unusedVariables false

namespace Sys2Proof.Machine

/-! ### Ops -/

theorem sendCmp_keeps {a : State} {h tag : Nat} {s : State} (hk : Keeps a s) :
    Keeps a (sendCmp h tag s) := by
  unfold sendCmp
  repeat' (first
    | with_reducible assumption
    | with_reducible apply keeps_ite
    | with_reducible refine keeps_foldl ?_ (fun _ _ _ => ?_)
    | with_reducible apply emit_keeps
    | fail_if_no_progress (with_reducible refine keeps_mk_iff.2 ?_)
    | dsimp only
    | split
    | intro _)

theorem sendData_keeps {a : State} {h tag : Nat} {data : Line} {poison : Bool} {s : State} (hk : Keeps a s) :
    Keeps a (sendData h tag data poison s) := by
  unfold sendData
  repeat' (first
    | with_reducible assumption
    | with_reducible apply keeps_ite
    | with_reducible refine keeps_foldl ?_ (fun _ _ _ => ?_)
    | with_reducible apply emit_keeps
    | fail_if_no_progress (with_reducible refine keeps_mk_iff.2 ?_)
    | dsimp only
    | split
    | intro _)

theorem raise_keeps {a : State} {code : Nat} {sev : Severity} {data : Bytes} {s : State} (hk : Keeps a s) :
    Keeps a (raise code sev data s) := by
  unfold raise
  repeat' (first
    | with_reducible assumption
    | with_reducible apply raiseFor_keeps)

theorem raiseLimited_keeps {a : State} {code key : Nat} {sev : Severity} {data : Nat → Bytes} {s : State} (hk : Keeps a s) :
    Keeps a (raiseLimited code key sev data s) := by
  unfold raiseLimited
  repeat' (first
    | with_reducible assumption
    | with_reducible apply keeps_ite
    | with_reducible apply raise_keeps
    | dsimp only
    | split
    | refine keeps_ev ?_ ?_
    | exact ⟨Nat.le_refl _, Nat.le_refl _, Nat.le_refl _, Nat.le_refl _, id, id⟩
    | intro _)

theorem modGqp_keeps {a : State} {f : Gqp → Gqp} {s : State} (hk : Keeps a s) :
    Keeps a (modGqp f s) := by
  unfold modGqp
  repeat' (first
    | with_reducible assumption
    | fail_if_no_progress (with_reducible refine keeps_mk_iff.2 ?_))

theorem modQ_keeps {a : State} {qid : Nat} {f : QueuePair → QueuePair} {s : State} (hk : Keeps a s) :
    Keeps a (modQ qid f s) := by
  unfold modQ
  repeat' (first
    | with_reducible assumption
    | with_reducible apply modGqp_keeps)

theorem signalCount_keeps {a : State} {qid : Nat} {s : State} (hk : Keeps a s) :
    Keeps a (signalCount qid s) := by
  unfold signalCount
  repeat' (first
    | with_reducible assumption
    | with_reducible apply keeps_ite
    | with_reducible apply modQ_keeps
    | with_reducible apply emit_keeps
    | split
    | intro _)

theorem writeEntry_keeps {a : State} {qid : Nat} {o : Bytes → Output} {entry : Bytes} {s : State} (hk : Keeps a s) :
    Keeps a (writeEntry qid o entry s) := by
  unfold writeEntry
  repeat' (first
    | with_reducible assumption
    | with_reducible apply signalCount_keeps
    | with_reducible apply modQ_keeps
    | with_reducible apply emit_keeps)

theorem tunnelEnd_keeps {a : State} {cid rc : Nat} {out : Bytes} {s : State} (hk : Keeps a s) :
    Keeps a (tunnelEnd cid rc out s) := by
  unfold tunnelEnd
  repeat' (first
    | with_reducible assumption
    | with_reducible apply keeps_ite
    | with_reducible apply writeEntry_keeps
    | with_reducible apply modQ_keeps
    | with_reducible apply emit_keeps
    | dsimp only
    | split
    | intro _)

theorem answerV_keeps {a : State} {path : BcsPath} {opcode rc vstatus : Nat} {out : Bytes} {s : State} (hk : Keeps a s) :
    Keeps a (answerV path opcode rc vstatus out s) := by
  unfold answerV
  repeat' (first
    | with_reducible assumption
    | with_reducible apply keeps_ite
    | with_reducible apply tunnelEnd_keeps
    | with_reducible apply emit_keeps
    | fail_if_no_progress (with_reducible refine keeps_mk_iff.2 ?_)
    | dsimp only
    | split
    | refine keeps_mc ?_ ?_
    | exact mail_canonical (fun _ _ => cellsOf_wf _)
    | exact mcCanonical_same rfl rfl)

theorem answer_keeps {a : State} {path : BcsPath} {opcode rc : Nat} {out : Bytes} {s : State} (hk : Keeps a s) :
    Keeps a (answer path opcode rc out s) := by
  unfold answer
  repeat' (first
    | with_reducible assumption
    | with_reducible apply answerV_keeps)

theorem invalid_keeps {a : State} {path : BcsPath} {opcode off : Nat} {s : State} (hk : Keeps a s) :
    Keeps a (invalid path opcode off s) := by
  unfold invalid
  repeat' (first
    | with_reducible assumption
    | with_reducible apply answerV_keeps)

theorem success_keeps {a : State} {path : BcsPath} {opcode : Nat} {out : Bytes} {s : State} (hk : Keeps a s) :
    Keeps a (success path opcode out s) := by
  unfold success
  repeat' (first
    | with_reducible assumption
    | with_reducible apply answer_keeps)

theorem noticeOn_keeps {a : State} {qid code : Nat} {body : Bytes} {s : State} (hk : Keeps a s) :
    Keeps a (noticeOn qid code body s) := by
  unfold noticeOn
  repeat' (first
    | with_reducible assumption
    | with_reducible apply keeps_ite
    | with_reducible apply raiseLimited_keeps
    | fail_if_no_progress (with_reducible refine keeps_mk_iff.2 ?_)
    | dsimp only
    | split
    | intro _)

theorem notice_keeps {a : State} {code region : Nat} {detail : Bytes} {s : State} (hk : Keeps a s) :
    Keeps a (notice code region detail s) := by
  unfold notice
  repeat' (first
    | with_reducible assumption
    | with_reducible refine keeps_foldl ?_ (fun _ _ _ => ?_)
    | with_reducible apply noticeOn_keeps)

theorem each_keeps {a : State} {α : Type} {l : List α} {f : α → State → State} {s : State} (hf : ∀ x0 s, Keeps a s → Keeps a (f x0 s)) (hk : Keeps a s) :
    Keeps a (each l f s) := by
  unfold each
  repeat' (first
    | with_reducible assumption
    | with_reducible refine keeps_foldl ?_ (fun _ _ _ => ?_)
    | with_reducible apply hf)

/-! ### Operands -/

theorem modRegion_keeps {a : State} {r : Nat} {f : Region → Region} {s : State} (hk : Keeps a s) :
    Keeps a (modRegion r f s) := by
  unfold modRegion
  repeat' (first
    | with_reducible assumption
    | fail_if_no_progress (with_reducible refine keeps_mk_iff.2 ?_))

/-! ### Mpl -/

theorem sendMsg_keeps {a : State} {m : MplMsg} {s : State} (hk : Keeps a s) :
    Keeps a (sendMsg m s) := by
  unfold sendMsg
  repeat' (first
    | with_reducible assumption
    | with_reducible apply keeps_ite
    | fail_if_no_progress (with_reducible refine keeps_mk_iff.2 ?_)
    | dsimp only
    | intro _)

theorem bumpTag_keeps {a : State} {s : State} (hk : Keeps a s) :
    Keeps a (bumpTag s) := by
  unfold bumpTag
  repeat' (first
    | with_reducible assumption
    | fail_if_no_progress (with_reducible refine keeps_mk_iff.2 ?_))

/-! ### Persist -/

theorem modPu_keeps {a : State} {f : Persist → Persist} {s : State} (hk : Keeps a s) :
    Keeps a (modPu f s) := by
  unfold modPu
  repeat' (first
    | with_reducible assumption
    | fail_if_no_progress (with_reducible refine keeps_mk_iff.2 ?_))

theorem submitUnit_keeps {a : State} {u : WUnit} {s : State} (hk : Keeps a s) :
    Keeps a (submitUnit u s) := by
  unfold submitUnit
  repeat' (first
    | with_reducible assumption
    | with_reducible apply modPu_keeps)

theorem stageUnit_keeps {a : State} {u : WUnit} {s : State} (hk : Keeps a s) :
    Keeps a (stageUnit u s) := by
  unfold stageUnit
  repeat' (first
    | with_reducible assumption
    | with_reducible apply keeps_ite
    | with_reducible apply modPu_keeps
    | with_reducible apply sendMsg_keeps
    | fail_if_no_progress (with_reducible refine keeps_mk_iff.2 ?_)
    | dsimp only
    | split
    | intro _)

theorem admitUnit_keeps {a : State} {u : WUnit} {arrived : Bool} {s : State} (hk : Keeps a s) :
    Keeps a (admitUnit u arrived s) := by
  unfold admitUnit
  repeat' (first
    | with_reducible assumption
    | with_reducible apply keeps_ite
    | with_reducible apply stageUnit_keeps
    | fail_if_no_progress (with_reducible refine keeps_mk_iff.2 ?_)
    | dsimp only
    | split)

theorem abandonUnit_keeps {a : State} {u : WUnit} {s : State} (hk : Keeps a s) :
    Keeps a (abandonUnit u s) := by
  unfold abandonUnit
  repeat' (first
    | with_reducible assumption
    | with_reducible apply keeps_ite
    | with_reducible apply modPu_keeps
    | with_reducible apply sendMsg_keeps)

theorem closeSet_keeps {a : State} {s : State} (hk : Keeps a s) :
    Keeps a (closeSet s) := by
  unfold closeSet
  repeat' (first
    | with_reducible assumption
    | with_reducible apply keeps_ite
    | with_reducible apply modPu_keeps
    | dsimp only
    | intro _)

theorem closeRec_keeps {a : State} {r : JRec} {s : State} (hk : Keeps a s) :
    Keeps a (closeRec r s) := by
  unfold closeRec
  repeat' (first
    | with_reducible assumption
    | with_reducible apply closeSet_keeps
    | with_reducible apply modPu_keeps)

theorem submitRec_keeps {a : State} {r : JRec} {s : State} (hk : Keeps a s) :
    Keeps a (submitRec r s) := by
  unfold submitRec
  repeat' (first
    | with_reducible assumption
    | with_reducible apply modPu_keeps)

theorem submitCtl_keeps {a : State} {r : JRec} {s : State} (hk : Keeps a s) :
    Keeps a (submitCtl r s) := by
  unfold submitCtl
  repeat' (first
    | with_reducible assumption
    | with_reducible apply keeps_ite
    | with_reducible apply submitRec_keeps
    | with_reducible apply modPu_keeps
    | intro _)

theorem journalMeta_keeps {a : State} {items : List MetaItem} {acts : List MetaAct} {both : Bool} {s : State} (hk : Keeps a s) :
    Keeps a (journalMeta items acts both s) := by
  unfold journalMeta
  repeat' (first
    | with_reducible assumption
    | with_reducible apply submitCtl_keeps
    | with_reducible apply modPu_keeps)

theorem zeroChunk_keeps {a : State} {lcn : Nat} {s : State} (hk : Keeps a s) :
    Keeps a (zeroChunk lcn s) := keeps_any (KeepsEv.refl _) (KeepsTrust.refl _) (memErase_wf _ _) id id id hk

theorem holdUnit_keeps {a : State} {u : WUnit} {s : State} (hk : Keeps a s) :
    Keeps a (holdUnit u s) := by
  unfold holdUnit
  repeat' (first
    | with_reducible assumption
    | with_reducible apply keeps_ite
    | with_reducible refine keeps_foldl ?_ (fun _ _ _ => ?_)
    | with_reducible apply zeroChunk_keeps
    | with_reducible apply closeRec_keeps
    | with_reducible apply closeSet_keeps
    | with_reducible apply modPu_keeps
    | dsimp only
    | split
    | intro _)

theorem sendCopies_keeps {a : State} {sealed : List JRec} {s : State} (hk : Keeps a s) :
    Keeps a (sendCopies sealed s) := by
  unfold sendCopies
  repeat' (first
    | with_reducible assumption
    | with_reducible apply keeps_ite
    | with_reducible refine keeps_foldl ?_ (fun _ _ _ => ?_)
    | with_reducible apply modPu_keeps
    | with_reducible apply sendMsg_keeps
    | dsimp only
    | split
    | intro _)

theorem sealGroup_keeps {a : State} {s : State} (hk : Keeps a s) :
    Keeps a (sealGroup s) := by
  unfold sealGroup
  repeat' (first
    | with_reducible assumption
    | with_reducible refine keeps_foldl ?_ (fun _ _ _ => ?_)
    | with_reducible apply sendCopies_keeps
    | with_reducible apply closeSet_keeps
    | with_reducible apply sendMsg_keeps
    | fail_if_no_progress (with_reducible refine keeps_mk_iff.2 ?_))

theorem submitWaiting_keeps {a : State} {y0 : Nat} {s : State} (hk : Keeps a s) :
    Keeps a (submitWaiting y0 s) := by
  induction y0 generalizing s with
  | zero => exact hk
  | succ n ih =>
    unfold submitWaiting
    split
    · exact hk
    · exact keeps_ite hk fun _ => ih (submitRec_keeps (modPu_keeps hk))

theorem countWait_keeps {a : State} {s : State} (hk : Keeps a s) :
    Keeps a (countWait s) := by
  unfold countWait
  repeat' (first
    | with_reducible assumption
    | with_reducible apply modPu_keeps)

/-! ### Tiers -/

theorem touch_keeps {a : State} {seg : Nat} {s : State} (hk : Keeps a s) :
    Keeps a (touch seg s) := by
  unfold touch
  repeat' (first
    | with_reducible assumption
    | with_reducible apply modTi_keeps
    | dsimp only
    | exact fun _ h => h)

theorem dropSegment_wf {seg : Nat} {t : Tiers} (h : Memory.wf t.shelf = true) : Memory.wf (dropSegment seg t).shelf = true :=
  memErase_wf _ _ h

theorem loadPages_wf {lcn : Nat} {pages : List Nat} {c : Memory × List Nat} {t : Tiers} (h : Memory.wf t.shelf = true) :
    Memory.wf (loadPages lcn pages c t).shelf = true := by
  unfold loadPages
  dsimp only
  split
  · exact h
  · exact foldl_wf _ (fun _ _ hm => memWrite_wf _ _ hm) _ h

theorem loadPages_cab {lcn : Nat} {pages : List Nat} {c : Memory × List Nat} {t : Tiers} : (loadPages lcn pages c t).cab = t.cab := by
  unfold loadPages
  dsimp only
  split <;> rfl

theorem loadPages_keeps {a s : State} {lcn : Nat} {pages : List Nat} {c : Memory × List Nat} (hk : Keeps a s) :
    Keeps a (modTi (loadPages lcn pages c) s) :=
  modTi_keeps (fun _ h => loadPages_wf h) (fun _ h => by rw [loadPages_cab]; exact h) hk

theorem dropSegment_keeps {a s : State} {seg : Nat} (hk : Keeps a s) : Keeps a (modTi (dropSegment seg) s) :=
  modTi_keeps (fun _ h => dropSegment_wf h) (fun _ h => h) hk

theorem ensureSlot_keeps {a : State} {seg : Nat} {s : State} (hk : Keeps a s) :
    KeepsSome a (ensureSlot seg s) := by
  unfold ensureSlot
  refine keepsSome_ite (keepsSome_ite ?_ (keepsSome_some (modTi_keeps (fun _ h => h) (fun _ h => h) hk))) (keepsSome_some hk)
  split
  · exact keepsSome_none
  · exact keepsSome_some (modTi_keeps (fun _ h => memErase_wf _ _ h) (fun _ h => h) hk)

theorem waitSlot_keeps {a : State} {lcn : Nat} {s : State} (hk : Keeps a s) :
    Keeps a (waitSlot lcn s) := by
  unfold waitSlot
  repeat' (first
    | with_reducible assumption
    | with_reducible apply modTi_keeps
    | dsimp only
    | split
    | intro _)

theorem loadChunk_keeps {a : State} {lcn : Nat} {s : State} (hk : Keeps a s) :
    KeepsSome a (loadChunk lcn s) := keepsSome_map fun _ _ => loadPages_keeps hk

theorem shelfPut_keeps {a : State} {key seq : Nat} {w : LineWrite} {s : State} (hk : Keeps a s) :
    Keeps a (shelfPut key seq w s) := by
  unfold shelfPut
  repeat' (first
    | with_reducible assumption
    | with_reducible apply modTi_keeps
    | dsimp only
    | exact fun _ h => h
    | exact fun _ => memWriteLine_wf _ _)

theorem readyPage_keeps {a : State} {ws : List (Nat × LineWrite)} {key : Nat} {s : State} (hk : Keeps a s) :
    KeepsSome a (readyPage ws key s) := by
  unfold readyPage
  split
  · exact keepsSome_none
  · rename_i e
    have h1 := ensureSlot_keeps hk _ e
    exact keepsSome_ite (keepsSome_ite (loadChunk_keeps h1) (keepsSome_some (loadPages_keeps h1))) (keepsSome_some h1)

theorem placeLines_keeps {a : State} {seq : Nat} {ws : List (Nat × LineWrite)} {s : State} (hk : Keeps a s) :
    KeepsSome a (placeLines seq ws s) := by
  unfold placeLines
  refine keepsSome_map fun x hx => keeps_foldl ?_ (fun _ _ h => touch_keeps (shelfPut_keeps h))
  exact keepsSome_foldlM hk (fun _ _ h => readyPage_keeps h) x hx

theorem setMap_keeps {a : State} {lcn : Nat} {e : MapEntry} {s : State} (hk : Keeps a s) :
    Keeps a (setMap lcn e s) := by
  unfold setMap
  repeat' (first
    | with_reducible assumption
    | with_reducible apply modTi_keeps
    | dsimp only
    | exact fun _ h => h)

theorem journalMap_keeps {a : State} {l : List MapUpd} {s : State} (hk : Keeps a s) :
    Keeps a (journalMap l s) := by
  unfold journalMap
  repeat' (first
    | with_reducible assumption
    | with_reducible refine keeps_foldl ?_ (fun _ _ _ => ?_)
    | with_reducible apply setMap_keeps
    | with_reducible apply modTi_keeps
    | with_reducible apply submitCtl_keeps
    | dsimp only
    | exact fun _ h => h)

theorem modStripe_keeps {a : State} {k : Nat} {f : Stripe → Stripe} {s : State} (hk : Keeps a s) :
    Keeps a (modStripe k f s) := by
  unfold modStripe
  repeat' (first
    | with_reducible assumption
    | with_reducible apply modTi_keeps
    | dsimp only
    | exact fun _ h => h)

theorem eraseStripe_keeps {a : State} {k : Nat} {s : State} (hk : Keeps a s) :
    Keeps a (eraseStripe k s) := by
  unfold eraseStripe
  repeat' (first
    | with_reducible assumption
    | with_reducible apply modStripe_keeps
    | with_reducible apply modTi_keeps
    | dsimp only
    | exact fun _ h => h
    | exact fun _ => filter_wf _)

theorem openFor_keeps {b0 : State} {kind : StripeState} {a : Nat} {s : State} (hk : Keeps b0 s) :
    Keeps b0 (openFor kind a s) := by
  unfold openFor
  repeat' (first
    | with_reducible assumption
    | with_reducible apply keeps_ite
    | with_reducible apply eraseStripe_keeps
    | with_reducible apply modStripe_keeps
    | split
    | intro _)

theorem markProgrammed_keeps {b0 : State} {a : Nat} {s : State} (hk : Keeps b0 s) :
    Keeps b0 (markProgrammed a s) := by
  unfold markProgrammed
  repeat' (first
    | with_reducible assumption
    | with_reducible apply modStripe_keeps)

theorem noteNonceWait_keeps {a : State} {s : State} (hk : Keeps a s) :
    Keeps a (noteNonceWait s) := by
  unfold noteNonceWait
  repeat' (first
    | with_reducible assumption
    | fail_if_no_progress (with_reducible refine keeps_mk_iff.2 ?_))

theorem bumpNonce_keeps {a : State} {s : State} (hk : Keeps a s) :
    Keeps a (bumpNonce s) := by
  unfold bumpNonce
  repeat' (first
    | with_reducible assumption
    | fail_if_no_progress (with_reducible refine keeps_mk_iff.2 ?_))

theorem programImage_keeps {b0 : State} {d : Region} {r lcn a through : Nat} {image : Memory} {poison : List Nat} {s : State} (hk : Keeps b0 s) :
    Keeps b0 (programImage d r lcn a through image poison s) := by
  unfold programImage
  dsimp only
  split
  · exact modTi_keeps (fun _ h => h) (fun _ h => memWriteN_wf _ _ (memErase_wf _ _ h)) hk
  · exact bumpNonce_keeps (modTi_keeps (fun _ h => h) (fun _ h => memWriteN_wf _ _ (memErase_wf _ _ h)) hk)
  · exact modTi_keeps (fun _ h => h) (fun _ h => memPaste_wf _ _ _ h) hk

theorem programChunk_keeps {b0 : State} {d : Region} {r lcn a through : Nat} {s : State} (hk : Keeps b0 s) :
    Keeps b0 (programChunk d r lcn a through s) := by
  unfold programChunk
  repeat' (first
    | with_reducible assumption
    | with_reducible apply programImage_keeps)

theorem programStaged_keeps {b0 : State} {d : Region} {r lcn a : Nat} {s : State} (hk : Keeps b0 s) :
    Keeps b0 (programStaged d r lcn a s) := by
  unfold programStaged
  repeat' (first
    | with_reducible assumption
    | with_reducible apply programImage_keeps)

theorem copyChunk_keeps {a : State} {src dst : Nat} {s : State} (hk : Keeps a s) :
    Keeps a (copyChunk src dst s) := by
  unfold copyChunk
  repeat' (first
    | with_reducible assumption
    | with_reducible apply modTi_keeps
    | dsimp only
    | exact fun _ h => h
    | exact fun _ => memPaste_wf _ _ _)

theorem reclaimAdvance_keeps {a : State} {s : State} (hk : Keeps a s) :
    Keeps a (reclaimAdvance s) := by
  unfold reclaimAdvance
  repeat' (first
    | with_reducible assumption
    | with_reducible apply modPu_keeps)

theorem startCkpt_keeps {a : State} {s : State} (hk : Keeps a s) :
    Keeps a (startCkpt s) := by
  unfold startCkpt
  repeat' (first
    | with_reducible assumption
    | with_reducible apply modTi_keeps
    | with_reducible apply submitCtl_keeps
    | dsimp only
    | split
    | exact fun _ h => h)

/-! ### Regions -/

theorem modReg_keeps {a : State} {f : Regions → Regions} {s : State} (hk : Keeps a s) :
    Keeps a (modReg f s) := by
  unfold modReg
  repeat' (first
    | with_reducible assumption
    | fail_if_no_progress (with_reducible refine keeps_mk_iff.2 ?_))

theorem takeDesc_keeps {a : State} {id : Nat} {b : Bytes} {s : State} (hk : Keeps a s) :
    Keeps a (takeDesc id b s) := by
  unfold takeDesc
  repeat' (first
    | with_reducible assumption
    | with_reducible apply modReg_keeps
    | dsimp only
    | split)

theorem takeAssign_keeps {a : State} {region first : Nat} {l : List Nat} {s : State} (hk : Keeps a s) :
    Keeps a (takeAssign region first l s) := by
  unfold takeAssign
  repeat' (first
    | with_reducible assumption
    | with_reducible apply modReg_keeps)

theorem releaseFrom_keeps {a : State} {region first : Nat} {s : State} (hk : Keeps a s) :
    Keeps a (releaseFrom region first s) := by
  unfold releaseFrom
  repeat' (first
    | with_reducible assumption
    | with_reducible apply modReg_keeps
    | with_reducible apply modTi_keeps
    | with_reducible apply modPu_keeps
    | dsimp only
    | exact fun _ h => h
    | exact fun _ => filter_wf _)

theorem setReason_keeps {a : State} {region bit : Nat} {v : Bool} {s : State} (hk : Keeps a s) :
    Keeps a (setReason region bit v s) := by
  unfold setReason
  repeat' (first
    | with_reducible assumption
    | with_reducible apply modReg_keeps)

theorem shedLoop_keeps {a : State} {y0 : Nat} {s : State} (hk : Keeps a s) :
    Keeps a (shedLoop y0 s) := by
  induction y0 generalizing s with
  | zero => exact hk
  | succ n ih =>
    unfold shedLoop
    refine keeps_ite hk fun _ => ?_
    split
    · exact hk
    · exact ih (modReg_keeps (setReason_keeps hk))

theorem unshedLoop_keeps {a : State} {y0 : Nat} {s : State} (hk : Keeps a s) :
    Keeps a (unshedLoop y0 s) := by
  induction y0 generalizing s with
  | zero => exact hk
  | succ n ih =>
    unfold unshedLoop
    split
    · exact hk
    · exact keeps_ite (ih (modReg_keeps (setReason_keeps hk))) fun _ => hk

theorem evalOp_keeps {a : State} {s : State} (hk : Keeps a s) :
    Keeps a (evalOp s) := by
  unfold evalOp
  repeat' (first
    | with_reducible assumption
    | with_reducible apply keeps_ite
    | with_reducible apply unshedLoop_keeps
    | with_reducible apply shedLoop_keeps
    | with_reducible apply modTi_keeps
    | with_reducible apply raise_keeps
    | dsimp only
    | split
    | exact fun _ h => h
    | intro _)

theorem refuseWrite_keeps {a : State} {region path off : Nat} {s : State} (hk : Keeps a s) :
    Keeps a (refuseWrite region path off s) := by
  unfold refuseWrite
  repeat' (first
    | with_reducible assumption
    | with_reducible apply modReg_keeps
    | with_reducible apply raiseLimited_keeps)

theorem setChest_keeps {a : State} {s : State} (hk : Keeps a s) :
    Keeps a (setChest s) := by
  unfold setChest
  repeat' (first
    | with_reducible assumption
    | with_reducible apply keeps_ite
    | with_reducible refine keeps_foldl ?_ (fun _ _ _ => ?_)
    | with_reducible apply setReason_keeps)

/-! ### Nor -/

theorem modNor_keeps {a : State} {f : Nor → Nor} {s : State} (hk : Keeps a s) :
    Keeps a (modNor f s) := by
  unfold modNor
  repeat' (first
    | with_reducible assumption
    | fail_if_no_progress (with_reducible refine keeps_mk_iff.2 ?_))

theorem counterEntry_keeps {a : State} {type scope block value data : Nat} {s : State} (hk : Keeps a s) :
    Keeps a (counterEntry type scope block value data s) := by
  unfold counterEntry
  repeat' (first
    | with_reducible assumption
    | with_reducible apply modNor_keeps)

theorem eraseIntent_keeps {a : State} {block : Nat} {sector : Option Nat} {s : State} (hk : Keeps a s) :
    Keeps a (eraseIntent block sector s) := by
  unfold eraseIntent
  repeat' (first
    | with_reducible assumption
    | with_reducible apply keeps_ite
    | with_reducible apply counterEntry_keeps
    | with_reducible apply modNor_keeps
    | with_reducible apply raise_keeps
    | intro _)

theorem eraseDone_keeps {a : State} {block : Nat} {sector : Option Nat} {s : State} (hk : Keeps a s) :
    Keeps a (eraseDone block sector s) := by
  unfold eraseDone
  repeat' (first
    | with_reducible assumption
    | with_reducible apply keeps_ite
    | with_reducible apply counterEntry_keeps
    | with_reducible apply modNor_keeps)

theorem beginOp_keeps {a : State} {o : NorOp} {s : State} (hk : Keeps a s) :
    Keeps a (beginOp o s) := by
  unfold beginOp
  repeat' (first
    | with_reducible assumption
    | with_reducible apply keeps_ite
    | with_reducible apply eraseIntent_keeps
    | with_reducible apply modNor_keeps
    | dsimp only
    | split
    | refine keeps_ev ?_ ?_
    | exact ⟨Nat.le_refl _, Nat.le_refl _, Nat.le_refl _, Nat.le_refl _, id, id⟩
    | intro _)

theorem issueOp_keeps {a : State} {s : State} (hk : Keeps a s) :
    Keeps a (issueOp s) := by
  unfold issueOp
  repeat' (first
    | with_reducible assumption
    | with_reducible apply keeps_ite
    | with_reducible apply beginOp_keeps
    | with_reducible apply modNor_keeps
    | split
    | intro _)

theorem norSubmit_keeps {a : State} {o : NorOp} {s : State} (hk : Keeps a s) :
    Keeps a (norSubmit o s) := by
  unfold norSubmit
  repeat' (first
    | with_reducible assumption
    | with_reducible apply issueOp_keeps
    | with_reducible apply modNor_keeps)

theorem resumeErase_keeps {a : State} {s : State} (hk : Keeps a s) :
    Keeps a (resumeErase s) := by
  unfold resumeErase
  repeat' (first
    | with_reducible assumption
    | with_reducible apply modNor_keeps)

theorem writeWear_keeps {a : State} {type : Nat} {data : Bytes} {s : State} (hk : Keeps a s) :
    Keeps a (writeWear type data s) := by
  unfold writeWear
  repeat' (first
    | with_reducible assumption
    | with_reducible apply keeps_ite
    | with_reducible apply norSubmit_keeps
    | dsimp only
    | refine keeps_ev ?_ ?_
    | exact ⟨Nat.le_refl _, Nat.le_refl _, Nat.le_refl _, Nat.le_succ _, id, id⟩)

theorem wearLog_keeps {a : State} {type : Nat} {data : Bytes} {s : State} (hk : Keeps a s) :
    Keeps a (wearLog type data s) := by
  unfold wearLog
  repeat' (first
    | with_reducible assumption
    | with_reducible apply keeps_ite
    | with_reducible apply writeWear_keeps
    | with_reducible apply modNor_keeps
    | intro _)

theorem writeOption_keeps {a : State} {c : OptionCopy} {after : OptionThen} {s : State} (hk : Keeps a s) :
    Keeps a (writeOption c after s) := by
  unfold writeOption
  repeat' (first
    | with_reducible assumption
    | with_reducible apply norSubmit_keeps)

theorem powerCycle_keeps {a : State} {s : State} (hk : Keeps a s) :
    Keeps a (powerCycle s) := by
  unfold powerCycle
  repeat' (first
    | with_reducible assumption
    | with_reducible apply counterEntry_keeps
    | dsimp only
    | refine keeps_ev ?_ ?_
    | exact ⟨Nat.le_succ _, Nat.le_refl _, Nat.le_refl _, Nat.le_refl _, id, id⟩)

/-! ### Spares -/

theorem noteSpare_keeps {a : State} {kind : Nat} {s : State} (hk : Keeps a s) :
    Keeps a (noteSpare kind s) := by
  unfold noteSpare
  repeat' (first
    | with_reducible assumption
    | with_reducible apply keeps_ite
    | with_reducible apply wearLog_keeps
    | with_reducible apply raise_keeps
    | dsimp only
    | refine keeps_ev ?_ ?_
    | exact ⟨Nat.le_refl _, Nat.le_refl _, Nat.le_refl _, Nat.le_refl _, id, id⟩
    | intro _)

/-! ### Bcs -/

theorem gated_keeps {a : State} {path : BcsPath} {opcode : Nat} {input : Bytes} {body : State → State} {s : State} (hbody : ∀ s, Keeps a s → Keeps a (body s)) (hk : Keeps a s) :
    Keeps a (gated path opcode input body s) := by
  unfold gated
  repeat' (first
    | with_reducible assumption
    | with_reducible apply keeps_ite
    | with_reducible apply answer_keeps
    | with_reducible apply hbody
    | fail_if_no_progress (with_reducible refine keeps_mk_iff.2 ?_)
    | dsimp only
    | split
    | intro _)

theorem bcs_keeps {a : State} {path : BcsPath} {opcode : Nat} {input : Bytes} {lenOk : Bool} {body : State → State} {s : State} (hbody : ∀ s, Keeps a s → Keeps a (body s)) (hk : Keeps a s) :
    Keeps a (bcs path opcode input lenOk body s) := by
  unfold bcs
  repeat' (first
    | with_reducible assumption
    | with_reducible apply gated_keeps
    | with_reducible apply answer_keeps
    | split)

theorem unsupported_keeps {a : State} {path : BcsPath} {opcode : Nat} {input : Bytes} {s : State} (hk : Keeps a s) :
    Keeps a (unsupported path opcode input s) := by
  unfold unsupported
  repeat' (first
    | with_reducible assumption
    | with_reducible apply gated_keeps
    | with_reducible apply answer_keeps)

theorem startBg_keeps {a : State} {path : BcsPath} {opcode : Nat} {s : State} (hk : Keeps a s) :
    Keeps a (startBg path opcode s) := by
  unfold startBg
  repeat' (first
    | with_reducible assumption
    | with_reducible apply answer_keeps
    | dsimp only
    | split
    | refine keeps_mc ?_ ?_
    | exact mail_canonical (fun _ h => h)
    | exact mcCanonical_same rfl rfl)

theorem finishBg_keeps {a : State} {path : BcsPath} {opcode rc vstatus : Nat} {out : Bytes} {s : State} (hk : Keeps a s) :
    Keeps a (finishBg path opcode rc vstatus out s) := by
  unfold finishBg
  repeat' (first
    | with_reducible assumption
    | with_reducible apply keeps_ite
    | with_reducible apply answerV_keeps
    | dsimp only
    | refine keeps_mc ?_ ?_
    | exact mcCanonical_same rfl rfl
    | intro _)

theorem answerO_keeps {a : State} {path : Option BcsPath} {opcode rc : Nat} {out : Bytes} {s : State} (hk : Keeps a s) :
    Keeps a (answerO path opcode rc out s) := by
  unfold answerO
  repeat' (first
    | with_reducible assumption
    | with_reducible apply finishBg_keeps
    | split)

theorem inBackground_keeps {a : State} {path : BcsPath} {opcode : Nat} {body : State → State} {s : State} (hbody : ∀ s, Keeps a s → Keeps a (body s)) (hk : Keeps a s) :
    Keeps a (inBackground path opcode body s) := by
  unfold inBackground
  repeat' (first
    | with_reducible assumption
    | with_reducible apply keeps_ite
    | with_reducible apply startBg_keeps
    | with_reducible apply answer_keeps
    | with_reducible apply hbody
    | intro _)

theorem forwardBcs_keeps {a : State} {path : BcsPath} {opcode : Nat} {input : Bytes} {s : State} (hk : Keeps a s) :
    Keeps a (forwardBcs path opcode input s) := by
  unfold forwardBcs
  repeat' (first
    | with_reducible assumption
    | with_reducible apply bumpTag_keeps
    | with_reducible apply sendMsg_keeps
    | fail_if_no_progress (with_reducible refine keeps_mk_iff.2 ?_))

theorem onChair_keeps {a : State} {path : BcsPath} {opcode : Nat} {input : Bytes} {body : State → State} {s : State} (hbody : ∀ s, Keeps a s → Keeps a (body s)) (hk : Keeps a s) :
    Keeps a (onChair path opcode input body s) := by
  unfold onChair
  repeat' (first
    | with_reducible assumption
    | with_reducible apply keeps_ite
    | with_reducible apply forwardBcs_keeps
    | with_reducible apply answer_keeps
    | with_reducible apply hbody
    | fail_if_no_progress (with_reducible refine keeps_mk_iff.2 ?_)
    | dsimp only
    | split
    | intro _)

theorem checked_keeps {a : State} {path : BcsPath} {opcode : Nat} {fields : List (Bool × Nat)} {body : State → State} {s : State} (hbody : ∀ s, Keeps a s → Keeps a (body s)) (hk : Keeps a s) :
    Keeps a (checked path opcode fields body s) := by
  unfold checked
  repeat' (first
    | with_reducible assumption
    | with_reducible apply invalid_keeps
    | with_reducible apply hbody
    | split)

theorem execBackgroundCommandComplete_keeps {a : State} {opcode : Nat} {s : State} (hk : Keeps a s) :
    KeepsNext a (execBackgroundCommandComplete opcode s) := by
  unfold execBackgroundCommandComplete
  repeat' (first
    | with_reducible refine keepsNext_next ?_
    | with_reducible assumption
    | with_reducible apply keeps_ite
    | with_reducible apply answerV_keeps
    | with_reducible apply emit_keeps
    | dsimp only
    | split
    | refine keeps_mc ?_ ?_
    | exact mail_canonical (fun _ h => h)
    | exact mcCanonical_same rfl rfl)

/-! ### Meta -/

theorem takeKeySlot_keeps {a : State} {slot scope type region : Nat} {wrapped : Bytes} {s : State} (hk : Keeps a s) :
    Keeps a (takeKeySlot slot scope type region wrapped s) := by
  unfold takeKeySlot
  repeat' (first
    | with_reducible assumption
    | with_reducible apply keeps_ite
    | with_reducible apply modTrust_keeps
    | split
    | exact fun _ => ⟨rfl, Nat.le_refl _, id, List.prefix_rfl⟩
    | intro _)

theorem modPair_keeps {a : State} {f : Pair → Pair} {s : State} (hk : Keeps a s) :
    Keeps a (modPair f s) := by
  unfold modPair
  repeat' (first
    | with_reducible assumption
    | fail_if_no_progress (with_reducible refine keeps_mk_iff.2 ?_))

theorem applyItem_keeps {a : State} {seq : Nat} {i : MetaItem} {s : State} (hk : Keeps a s) :
    Keeps a (applyItem seq i s) := by
  unfold applyItem
  repeat' (first
    | with_reducible assumption
    | with_reducible apply keeps_ite
    | with_reducible apply modPair_keeps
    | with_reducible apply takeKeySlot_keeps
    | with_reducible apply modTrust_keeps
    | with_reducible apply releaseFrom_keeps
    | with_reducible apply takeAssign_keeps
    | with_reducible apply takeDesc_keeps
    | with_reducible apply modRegion_keeps
    | dsimp only
    | split
    | exact fun _ => ⟨rfl, Nat.le_refl _, id, List.prefix_rfl⟩
    | intro _)

theorem dropRegion_keeps {a : State} {r : Nat} {s : State} (hk : Keeps a s) :
    Keeps a (dropRegion r s) := by
  unfold dropRegion
  repeat' (first
    | with_reducible assumption
    | with_reducible apply modPair_keeps
    | with_reducible apply modReg_keeps)

/-! ### Access -/

theorem forwardAccess_keeps {a : State} {o : FwdOrigin} {r off : Nat} {body : Bytes} {s : State} (hk : Keeps a s) :
    Keeps a (forwardAccess o r off body s) := by
  unfold forwardAccess
  repeat' (first
    | with_reducible assumption
    | with_reducible apply bumpTag_keeps
    | with_reducible apply sendMsg_keeps
    | fail_if_no_progress (with_reducible refine keeps_mk_iff.2 ?_))

theorem forwardRead_keeps {a : State} {o : FwdOrigin} {path r off len : Nat} {s : State} (hk : Keeps a s) :
    Keeps a (forwardRead o path r off len s) := by
  unfold forwardRead
  repeat' (first
    | with_reducible assumption
    | with_reducible apply forwardAccess_keeps)

theorem forwardWrite_keeps {a : State} {o : FwdOrigin} {path r off : Nat} {l : List LineWrite} {s : State} (hk : Keeps a s) :
    Keeps a (forwardWrite o path r off l s) := by
  unfold forwardWrite
  repeat' (first
    | with_reducible assumption
    | with_reducible apply forwardAccess_keeps)

theorem submitWrite_keeps {a : State} {src : WSrc} {r off : Nat} {data : Bytes} {bad : List Nat} {s : State} (hk : Keeps a s) :
    Keeps a (submitWrite src r off data bad s) := by
  unfold submitWrite
  repeat' (first
    | with_reducible assumption
    | with_reducible apply submitUnit_keeps)

theorem submitEmpty_keeps {a : State} {src : WSrc} {r off len : Nat} {s : State} (hk : Keeps a s) :
    Keeps a (submitEmpty src r off len s) := by
  unfold submitEmpty
  repeat' (first
    | with_reducible assumption
    | with_reducible apply submitUnit_keeps)

theorem fillUnit_keeps {a : State} {u : WUnit} {lines : List LineWrite} {s : State} (hk : Keeps a s) :
    Keeps a (fillUnit u lines s) := by
  unfold fillUnit
  repeat' (first
    | with_reducible assumption
    | with_reducible apply modPu_keeps)

theorem wantRange_keeps {a : State} {r off len : Nat} {s : State} (hk : Keeps a s) :
    Keeps a (wantRange r off len s) := by
  unfold wantRange
  repeat' (first
    | with_reducible assumption
    | with_reducible apply keeps_ite
    | with_reducible refine keeps_foldl ?_ (fun _ _ _ => ?_)
    | with_reducible apply waitSlot_keeps
    | with_reducible apply touch_keeps
    | split
    | intro _)

theorem readHere_keeps {a : State} {r off len : Nat} {s : State} (hk : Keeps a s) :
    Keeps a (readHere r off len s).2.2 := by
  unfold readHere
  repeat' (first
    | with_reducible assumption
    | with_reducible apply wantRange_keeps)

theorem poisonBites_keeps {a : State} {kind region : Nat} {bad : List Nat} {s : State} (hk : Keeps a s) :
    Keeps a (poisonBites kind region bad s) := by
  unfold poisonBites
  repeat' (first
    | with_reducible assumption
    | with_reducible apply raiseLimited_keeps
    | fail_if_no_progress (with_reducible refine keeps_mk_iff.2 ?_)
    | dsimp only
    | split)

theorem ledgerAdd_keeps {a : State} {region line cause : Nat} {s : State} (hk : Keeps a s) :
    Keeps a (ledgerAdd region line cause s) := by
  unfold ledgerAdd
  repeat' (first
    | with_reducible assumption
    | with_reducible apply keeps_ite
    | fail_if_no_progress (with_reducible refine keeps_mk_iff.2 ?_)
    | dsimp only
    | split
    | intro _)

theorem ledgerWrite_keeps {a : State} {region : Nat} {w : LineWrite} {s : State} (hk : Keeps a s) :
    Keeps a (ledgerWrite region w s) := by
  unfold ledgerWrite
  repeat' (first
    | with_reducible assumption
    | with_reducible apply keeps_ite
    | with_reducible apply ledgerAdd_keeps
    | fail_if_no_progress (with_reducible refine keeps_mk_iff.2 ?_)
    | dsimp only
    | split
    | intro _)

/-! ### Signing -/

theorem useIndex_keeps {a : State} {s : State} (hk : Keeps a s) :
    Keeps a (useIndex s) := by
  unfold useIndex
  repeat' (first
    | with_reducible assumption
    | with_reducible apply modSigner_keeps
    | dsimp only
    | exact fun _ => List.prefix_rfl)

theorem windowRecord_keeps {a : State} {s : State} (hk : Keeps a s) :
    Keeps a (windowRecord s) := by
  unfold windowRecord
  repeat' (first
    | with_reducible assumption
    | with_reducible apply keeps_ite
    | with_reducible apply resumeErase_keeps
    | with_reducible apply norSubmit_keeps
    | with_reducible apply modNor_keeps)

/-! ### Sends -/

theorem modNet_keeps {a : State} {f : Net → Net} {s : State} (hk : Keeps a s) :
    Keeps a (modNet f s) := by
  unfold modNet
  repeat' (first
    | with_reducible assumption
    | fail_if_no_progress (with_reducible refine keeps_mk_iff.2 ?_))

theorem modQp_keeps {a : State} {i : Nat} {f : Qp → Qp} {s : State} (hk : Keeps a s) :
    Keeps a (modQp i f s) := by
  unfold modQp
  repeat' (first
    | with_reducible assumption
    | with_reducible apply modNet_keeps)

theorem countQp_keeps {a : State} {i k n : Nat} {s : State} (hk : Keeps a s) :
    Keeps a (countQp i k n s) := by
  unfold countQp
  repeat' (first
    | with_reducible assumption
    | with_reducible apply modQp_keeps)

theorem sendNow_keeps {a : State} {i kind : Nat} {bytes : Bytes} {q : Qp} {w : SentWr} {before after : List SentWr} {s : State} (hk : Keeps a s) :
    Keeps a (sendNow i kind bytes q w before after s) := by
  unfold sendNow
  repeat' (first
    | with_reducible assumption
    | with_reducible apply keeps_ite
    | with_reducible refine keeps_foldl ?_ (fun _ _ _ => ?_)
    | with_reducible apply countQp_keeps
    | with_reducible apply modQp_keeps
    | with_reducible apply emit_keeps
    | fail_if_no_progress (with_reducible refine keeps_mk_iff.2 ?_)
    | dsimp only
    | split
    | intro _)

theorem sendCapsule_keeps {a : State} {qpn kind : Nat} {bytes : Bytes} {s : State} (hk : Keeps a s) :
    Keeps a (sendCapsule qpn kind bytes s) := by
  unfold sendCapsule
  repeat' (first
    | with_reducible assumption
    | with_reducible apply keeps_ite
    | with_reducible refine keeps_foldl ?_ (fun _ _ _ => ?_)
    | with_reducible apply sendNow_keeps
    | with_reducible apply modQp_keeps
    | fail_if_no_progress (with_reducible refine keeps_mk_iff.2 ?_)
    | dsimp only
    | split
    | intro _)

/-! ### Gqp -/

theorem modCmd_keeps {a : State} {qid cid : Nat} {f : GqpCmd → GqpCmd} {s : State} (hk : Keeps a s) :
    Keeps a (modCmd qid cid f s) := by
  unfold modCmd
  repeat' (first
    | with_reducible assumption
    | with_reducible apply modQ_keeps)

theorem finishDelete_keeps {a : State} {qid : Nat} {s : State} (hk : Keeps a s) :
    Keeps a (finishDelete qid s) := by
  unfold finishDelete
  repeat' (first
    | with_reducible assumption
    | with_reducible apply keeps_ite
    | with_reducible apply finishBg_keeps
    | with_reducible apply modGqp_keeps
    | with_reducible apply raise_keeps
    | fail_if_no_progress (with_reducible refine keeps_mk_iff.2 ?_)
    | dsimp only
    | split
    | intro _)

theorem complete_keeps {a : State} {qid cid status : Nat} {result : Bytes} {s : State} (hk : Keeps a s) :
    Keeps a (complete qid cid status result s) := by
  unfold complete
  repeat' (first
    | with_reducible assumption
    | with_reducible apply keeps_ite
    | with_reducible apply finishDelete_keeps
    | with_reducible apply sendCapsule_keeps
    | with_reducible apply writeEntry_keeps
    | with_reducible apply modQ_keeps
    | with_reducible apply modGqp_keeps
    | dsimp only
    | split
    | intro _)

theorem scatter_keeps {a : State} {qid cid : Nat} {y0 : List Bytes} {y1 : Bytes} {s : State} (hk : Keeps a s) :
    Keeps a (scatter qid cid y0 y1 s) := by
  induction y0 generalizing y1 s with
  | nil => exact hk
  | cons e r ih =>
    unfold scatter
    exact keeps_ite (ih (emit_keeps hk)) fun _ => hk

theorem sendOut_keeps {a : State} {qid addr : Nat} {q : QueuePair} {c : GqpCmd} {data : Bytes} {s : State} (hk : Keeps a s) :
    Keeps a (sendOut qid addr q c data s) := by
  unfold sendOut
  repeat' (first
    | with_reducible assumption
    | with_reducible apply keeps_ite
    | with_reducible refine keeps_foldl ?_ (fun _ _ _ => ?_)
    | with_reducible apply scatter_keeps
    | with_reducible apply sendCapsule_keeps
    | with_reducible apply emit_keeps
    | fail_if_no_progress (with_reducible refine keeps_mk_iff.2 ?_)
    | dsimp only
    | split
    | intro _)

theorem finishWrite_keeps {a : State} {qid : Nat} {c : GqpCmd} {s : State} (hk : Keeps a s) :
    Keeps a (finishWrite qid c s) := by
  unfold finishWrite
  repeat' (first
    | with_reducible assumption
    | with_reducible apply keeps_ite
    | with_reducible apply complete_keeps)

theorem failFrom_keeps {a : State} {qid cid i status : Nat} {s : State} (hk : Keeps a s) :
    Keeps a (failFrom qid cid i status s) := by
  unfold failFrom
  repeat' (first
    | with_reducible assumption
    | with_reducible refine keeps_foldl ?_ (fun _ _ _ => ?_)
    | with_reducible apply modCmd_keeps
    | with_reducible apply abandonUnit_keeps
    | with_reducible apply modGqp_keeps)

theorem submitNext_keeps {a : State} {qid : Nat} {y0 : Nat} {y1 : GqpCmd} {s : State} (hk : Keeps a s) :
    Keeps a (submitNext qid y0 y1 s) := by
  induction y0 generalizing y1 s with
  | zero => exact hk
  | succ n ih =>
    unfold submitNext
    refine keeps_ite ?_ fun _ => hk
    split
    · exact hk
    · exact ih (modCmd_keeps (submitEmpty_keeps hk))

theorem launchPieces_keeps {a : State} {qid : Nat} {c : GqpCmd} {r off : Nat} {data : Bytes} {s : State} (hk : Keeps a s) :
    Keeps a (launchPieces qid c r off data s) := by
  unfold launchPieces
  repeat' (first
    | with_reducible assumption
    | with_reducible apply keeps_ite
    | with_reducible refine keeps_foldl ?_ (fun _ _ _ => ?_)
    | with_reducible apply modCmd_keeps
    | with_reducible apply submitWrite_keeps
    | with_reducible apply forwardWrite_keeps
    | intro _)

theorem copyWrite_keeps {a : State} {qid : Nat} {c : GqpCmd} {p : Piece} {data : Bytes} {bad : List Nat} {s : State} (hk : Keeps a s) :
    Keeps a (copyWrite qid c p data bad s) := by
  unfold copyWrite
  repeat' (first
    | with_reducible assumption
    | with_reducible apply keeps_ite
    | with_reducible apply modCmd_keeps
    | with_reducible apply submitWrite_keeps
    | with_reducible apply forwardWrite_keeps
    | dsimp only
    | intro _)

theorem copyNext_keeps {a : State} {qid cid : Nat} {s : State} (hk : Keeps a s) :
    Keeps a (copyNext qid cid s) := by
  unfold copyNext
  repeat' (first
    | with_reducible assumption
    | with_reducible apply keeps_ite
    | with_reducible apply copyWrite_keeps
    | with_reducible apply failFrom_keeps
    | with_reducible apply complete_keeps
    | with_reducible apply modCmd_keeps
    | with_reducible apply readHere_keeps
    | with_reducible apply forwardRead_keeps
    | dsimp only
    | split
    | intro _)

theorem finishRead_keeps {a : State} {qid : Nat} {q : QueuePair} {c : GqpCmd} {s : State} (hk : Keeps a s) :
    Keeps a (finishRead qid q c s) := by
  unfold finishRead
  repeat' (first
    | with_reducible assumption
    | with_reducible apply keeps_ite
    | with_reducible apply sendOut_keeps
    | with_reducible apply complete_keeps
    | with_reducible apply poisonBites_keeps
    | with_reducible apply emit_keeps
    | dsimp only
    | split
    | intro _)

theorem enqueueJob_keeps {a : State} {qid : Nat} {c : GqpCmd} {s : State} (hk : Keeps a s) :
    Keeps a (enqueueJob qid c s) := by
  unfold enqueueJob
  repeat' (first
    | with_reducible assumption
    | with_reducible apply complete_keeps
    | fail_if_no_progress (with_reducible refine keeps_mk_iff.2 ?_)
    | dsimp only
    | split)

theorem afterGather_keeps {a : State} {qid cid : Nat} {s : State} (hk : Keeps a s) :
    Keeps a (afterGather qid cid s) := by
  unfold afterGather
  repeat' (first
    | with_reducible assumption
    | with_reducible apply keeps_ite
    | with_reducible apply enqueueJob_keeps
    | with_reducible apply finishRead_keeps
    | with_reducible apply complete_keeps
    | split
    | intro _)

theorem gatherOperand_keeps {a : State} {qid : Nat} {c : GqpCmd} {r off : Nat} {l : List Piece} {s : State} (hk : Keeps a s) :
    Keeps a (gatherOperand qid c r off l s) := by
  unfold gatherOperand
  repeat' (first
    | with_reducible assumption
    | with_reducible apply keeps_ite
    | with_reducible refine keeps_foldl ?_ (fun _ _ _ => ?_)
    | with_reducible apply modCmd_keeps
    | with_reducible apply readHere_keeps
    | with_reducible apply forwardRead_keeps
    | dsimp only
    | intro _)

theorem gqpReadBack_keeps {a : State} {qid cid i status : Nat} {data : Bytes} {bad : List Nat} {s : State} (hk : Keeps a s) :
    Keeps a (gqpReadBack qid cid i status data bad s) := by
  unfold gqpReadBack
  repeat' (first
    | with_reducible assumption
    | with_reducible apply keeps_ite
    | with_reducible apply afterGather_keeps
    | with_reducible apply copyNext_keeps
    | with_reducible apply copyWrite_keeps
    | with_reducible apply failFrom_keeps
    | with_reducible apply modCmd_keeps
    | dsimp only
    | split
    | intro _)

theorem gqpPieceDone_keeps {a : State} {qid cid i status : Nat} {s : State} (hk : Keeps a s) :
    Keeps a (gqpPieceDone qid cid i status s) := by
  unfold gqpPieceDone
  repeat' (first
    | with_reducible assumption
    | with_reducible apply keeps_ite
    | with_reducible apply copyNext_keeps
    | with_reducible apply submitNext_keeps
    | with_reducible apply failFrom_keeps
    | with_reducible apply finishWrite_keeps
    | with_reducible apply complete_keeps
    | with_reducible apply modCmd_keeps
    | with_reducible apply modGqp_keeps
    | dsimp only
    | split
    | intro _)

theorem arbitrate_keeps {a : State} {s : State} (hk : Keeps a s) :
    Keeps a (arbitrate s) := by
  unfold arbitrate
  repeat' (first
    | with_reducible assumption
    | fail_if_no_progress (with_reducible refine keeps_mk_iff.2 ?_))

theorem countLimit_keeps {a : State} {s : State} (hk : Keeps a s) :
    Keeps a (countLimit s) := by
  unfold countLimit
  repeat' (first
    | with_reducible assumption
    | with_reducible apply modGqp_keeps)

theorem deleteQueue_keeps {a : State} {qid cause : Nat} {path : Option BcsPath} {s : State} (hk : Keeps a s) :
    Keeps a (deleteQueue qid cause path s) := by
  unfold deleteQueue
  repeat' (first
    | with_reducible assumption
    | with_reducible apply keeps_ite
    | with_reducible refine keeps_foldl ?_ (fun _ _ _ => ?_)
    | with_reducible apply failFrom_keeps
    | with_reducible apply complete_keeps
    | with_reducible apply finishDelete_keeps
    | with_reducible apply modQ_keeps
    | with_reducible apply modGqp_keeps
    | with_reducible apply advance_keeps
    | fail_if_no_progress (with_reducible refine keeps_mk_iff.2 ?_)
    | dsimp only
    | split
    | intro _)

theorem dropHeadQueues_keeps {a : State} {head : Nat} {s : State} (hk : Keeps a s) :
    Keeps a (dropHeadQueues head s) := by
  unfold dropHeadQueues
  repeat' (first
    | with_reducible assumption
    | with_reducible apply keeps_ite
    | with_reducible refine keeps_foldl ?_ (fun _ _ _ => ?_)
    | with_reducible apply deleteQueue_keeps
    | with_reducible apply modGqp_keeps)

theorem dropQpQueues_keeps {a : State} {qpn : Nat} {s : State} (hk : Keeps a s) :
    Keeps a (dropQpQueues qpn s) := by
  unfold dropQpQueues
  repeat' (first
    | with_reducible assumption
    | with_reducible refine keeps_foldl ?_ (fun _ _ _ => ?_)
    | with_reducible apply deleteQueue_keeps)

theorem withCmd_keeps {a : State} {qid cid : Nat} {ok : Bytes → Bool} {body : QueuePair → GqpCmd → State → State} {s : State} (hbody : ∀ x0 x1 s, Keeps a s → Keeps a (body x0 x1 s)) (hk : Keeps a s) :
    Keeps a (withCmd qid cid ok body s) := by
  unfold withCmd
  repeat' (first
    | with_reducible assumption
    | with_reducible apply keeps_ite
    | with_reducible apply hbody
    | split)

theorem refuseCmd_keeps {a : State} {qid cid status : Nat} {s : State} (hk : Keeps a s) :
    Keeps a (refuseCmd qid cid status s) := by
  unfold refuseCmd
  repeat' (first
    | with_reducible assumption
    | with_reducible apply complete_keeps)

theorem runCmd_keeps {a : State} {qid cid : Nat} {l : List Piece} {s : State} (hk : Keeps a s) :
    Keeps a (runCmd qid cid l s) := by
  unfold runCmd
  repeat' (first
    | with_reducible assumption
    | with_reducible apply modCmd_keeps)

end Sys2Proof.Machine
end

