-- ==== Sys2Proof/Laws/Keeps2.lean ====
section
/-! SUPPORT. `Keeps` through the operations of Capture, TierCmds, CaptureCmds, Replay, Dram, GqpCmds. -/

set_option linter.unusedTactic false
set_option linter.unreachableTactic false
set_option linter.unusedVariables false

namespace Sys2Proof.Machine

/-! ### Capture -/

theorem modRing_keeps {a : State} {p : Nat} {f : Ring → Ring} {s : State} (hk : Keeps a s) :
    Keeps a (modRing p f s) := by
  unfold modRing
  repeat' (first
    | with_reducible assumption
    | with_reducible apply modCap_keeps
    | dsimp only
    | exact fun _ h => h)

theorem enterRing_keeps {a : State} {p st cause : Nat} {s : State} (hk : Keeps a s) :
    Keeps a (enterRing p st cause s) := by
  unfold enterRing
  repeat' (first
    | with_reducible assumption
    | with_reducible apply keeps_ite
    | with_reducible apply modRing_keeps
    | with_reducible apply raise_keeps
    | split
    | intro _)

theorem modStaging_keeps {a s : State} {f : Cap → Cap} (hg : Memory.wf s.cap.staging = true → Memory.wf (f s.cap).staging = true)
    (h : Keeps a s) : Keeps a (modCap f s) :=
  ⟨h.pending, h.out, h.free, h.trust, h.ev, h.shelf, h.cab, fun x => hg (h.staging x), h.mc⟩

theorem claimChunk_keeps {a : State} {p r lcn start : Nat} {s : State} (hk : Keeps a s) :
    Keeps a (claimChunk p r lcn start s) := by
  unfold claimChunk
  split
  · exact keeps_ite hk fun _ => modCap_keeps (fun _ h => h) hk
  · dsimp only
    generalize List.range 1024 = ks
    generalize List.range 4096 = es
    refine modTi_keeps (fun _ => memErase_wf _ _) (fun _ h => h) (modPu_keeps (modStaging_keeps ?_ hk))
    intro h
    exact foldl_wf _ (fun _ _ hm => memWriteLine_wf _ _ hm) _ h

theorem claimRange_keeps {a : State} {p : Nat} {c : RingConf} {x n : Nat} {s : State} (hk : Keeps a s) :
    Keeps a (claimRange p c x n s) := by
  unfold claimRange
  repeat' (first
    | with_reducible assumption
    | with_reducible refine keeps_foldl ?_ (fun _ _ _ => ?_)
    | with_reducible apply claimChunk_keeps)

theorem stageBytes_keeps {a : State} {c : RingConf} {x : Nat} {b : Bytes} {full : Nat} {s : State} (hk : Keeps a s) :
    Keeps a (stageBytes c x b full s) := by
  unfold stageBytes
  repeat' (first
    | with_reducible assumption
    | with_reducible refine keeps_foldl ?_ (fun _ _ _ => ?_)
    | with_reducible apply modCap_keeps
    | dsimp only
    | split
    | exact fun _ h => h
    | exact fun _ => memWrite_wf _ _)

theorem poisonStaged_keeps {a : State} {c : RingConf} {bad : List Nat} {s : State} (hk : Keeps a s) :
    Keeps a (poisonStaged c bad s) := by
  unfold poisonStaged
  repeat' (first
    | with_reducible assumption
    | with_reducible refine keeps_foldl ?_ (fun _ _ _ => ?_)
    | with_reducible apply modCap_keeps
    | dsimp only
    | split
    | exact fun _ h => h)

theorem dropFrame_keeps {a : State} {p cause : Nat} {s : State} (hk : Keeps a s) :
    Keeps a (dropFrame p cause s) := by
  unfold dropFrame
  repeat' (first
    | with_reducible assumption
    | with_reducible apply modRing_keeps
    | with_reducible apply raiseLimited_keeps)

theorem storeRecord_keeps {a : State} {p : Nat} {c : RingConf} {act : Nat} {hits cap : Nat} {f : InstrFrame} {s : State} (hk : Keeps a s) :
    Keeps a (storeRecord p c act hits cap f s) := by
  unfold storeRecord
  repeat' (first
    | with_reducible assumption
    | with_reducible apply keeps_ite
    | with_reducible apply claimRange_keeps
    | with_reducible apply modRing_keeps
    | split
    | intro _)

theorem keepFrame_keeps {a : State} {p : Nat} {c : RingConf} {act hits cap : Nat} {trigger : Bool} {f : InstrFrame} {s : State} (hk : Keeps a s) :
    Keeps a (keepFrame p c act hits cap trigger f s) := by
  unfold keepFrame
  repeat' (first
    | with_reducible assumption
    | with_reducible apply keeps_ite
    | with_reducible apply storeRecord_keeps
    | with_reducible apply dropFrame_keeps
    | with_reducible apply enterRing_keeps
    | with_reducible apply modRing_keeps
    | dsimp only
    | split
    | intro _)

theorem execInstrumentFrame_keeps {a : State} {port : Nat} {frame : InstrFrame} {s : State} (hk : Keeps a s) :
    KeepsNext a (execInstrumentFrame port frame s) := by
  unfold execInstrumentFrame
  repeat' (first
    | with_reducible refine keepsNext_next ?_
    | with_reducible refine keepsNext_ite ?_ ?_
    | with_reducible assumption
    | with_reducible apply keepFrame_keeps
    | dsimp only
    | split)

theorem journalRun_keeps {a : State} {p : Nat} {c : RingConf} {bad : List Nat} {x : Nat} {b : Bytes} {s : State} (hk : Keeps a s) :
    Keeps a (journalRun p c bad x b s) := by
  unfold journalRun
  repeat' (first
    | with_reducible assumption
    | with_reducible refine keeps_foldl ?_ (fun _ _ _ => ?_)
    | with_reducible apply submitUnit_keeps)

theorem refuseRecords_keeps {a : State} {p : Nat} {c : RingConf} {s : State} (hk : Keeps a s) :
    Keeps a (refuseRecords p c s) := by
  unfold refuseRecords
  repeat' (first
    | with_reducible assumption
    | with_reducible apply modRing_keeps
    | with_reducible apply refuseWrite_keeps
    | split)

theorem flushRing_keeps {a : State} {p : Nat} {c : RingConf} {s : State} (hk : Keeps a s) :
    Keeps a (flushRing p c s) := by
  unfold flushRing
  repeat' (first
    | with_reducible assumption
    | with_reducible apply keeps_ite
    | with_reducible refine keeps_foldl ?_ (fun _ _ _ => ?_)
    | with_reducible apply refuseRecords_keeps
    | with_reducible apply journalRun_keeps
    | with_reducible apply poisonStaged_keeps
    | with_reducible apply stageBytes_keeps
    | with_reducible apply modRing_keeps
    | dsimp only
    | split
    | intro _)

theorem writeIndex_keeps {a : State} {p : Nat} {c : RingConf} {s : State} (hk : Keeps a s) :
    Keeps a (writeIndex p c s) := by
  unfold writeIndex
  repeat' (first
    | with_reducible assumption
    | with_reducible apply keeps_ite
    | with_reducible apply enterRing_keeps
    | with_reducible apply modRing_keeps
    | with_reducible apply submitWrite_keeps
    | dsimp only
    | split
    | intro _)

theorem writeControl_keeps {a : State} {p : Nat} {c : RingConf} {s : State} (hk : Keeps a s) :
    Keeps a (writeControl p c s) := by
  unfold writeControl
  repeat' (first
    | with_reducible assumption
    | with_reducible apply modRing_keeps
    | with_reducible apply submitWrite_keeps)

theorem advanceDurable_keeps {a : State} {p : Nat} {c : RingConf} {s : State} (hk : Keeps a s) :
    Keeps a (advanceDurable p c s) := by
  unfold advanceDurable
  repeat' (first
    | with_reducible assumption
    | with_reducible apply keeps_ite
    | with_reducible apply writeControl_keeps
    | with_reducible apply modRing_keeps)

theorem haltRing_keeps {a : State} {p : Nat} {c : RingConf} {s : State} (hk : Keeps a s) :
    Keeps a (haltRing p c s) := by
  unfold haltRing
  repeat' (first
    | with_reducible assumption
    | with_reducible apply keeps_ite
    | with_reducible apply enterRing_keeps
    | with_reducible apply modRing_keeps
    | split
    | intro _)

theorem settleRing_keeps {a : State} {p : Nat} {s : State} (hk : Keeps a s) :
    Keeps a (settleRing p s) := by
  unfold settleRing
  repeat' (first
    | with_reducible assumption
    | with_reducible apply keeps_ite
    | with_reducible apply enterRing_keeps
    | with_reducible apply modRing_keeps
    | intro _)

theorem ringBoundary_keeps {a : State} {p : Nat} {s : State} (hk : Keeps a s) :
    Keeps a (ringBoundary p s) := by
  unfold ringBoundary
  repeat' (first
    | with_reducible assumption
    | with_reducible apply settleRing_keeps
    | with_reducible apply haltRing_keeps
    | with_reducible apply advanceDurable_keeps
    | with_reducible apply writeIndex_keeps
    | with_reducible apply flushRing_keeps
    | with_reducible apply modRing_keeps
    | split)

theorem captureAcked_keeps {a : State} {p kind upTo : Nat} {s : State} (hk : Keeps a s) :
    Keeps a (captureAcked p kind upTo s) := by
  unfold captureAcked
  repeat' (first
    | with_reducible assumption
    | with_reducible apply keeps_ite
    | with_reducible apply modRing_keeps)

theorem drainWindow_keeps {a : State} {s : State} (hk : Keeps a s) :
    Keeps a (drainWindow s) := by
  unfold drainWindow
  repeat' (first
    | with_reducible assumption
    | with_reducible apply keeps_ite
    | with_reducible apply modCap_keeps
    | dsimp only
    | exact fun _ h => h)

/-! ### TierCmds -/

theorem suspendFor_keeps {b0 : State} {a : Nat} {s : State} (hk : Keeps b0 s) :
    Keeps b0 (suspendFor a s) := by
  unfold suspendFor
  repeat' (first
    | with_reducible assumption
    | with_reducible apply keeps_ite
    | with_reducible apply modTi_keeps
    | dsimp only
    | split
    | exact fun _ h => h)

theorem startFill_keeps {a : State} {seg missed : Nat} {s : State} (hk : Keeps a s) :
    Keeps a (startFill seg missed s) := by
  unfold startFill
  repeat' (first
    | with_reducible assumption
    | with_reducible apply keeps_ite
    | with_reducible apply suspendFor_keeps
    | with_reducible apply modTi_keeps
    | dsimp only
    | split
    | exact fun _ h => h)

theorem execSegmentSlotRequest_keeps {a : State} {segment : Nat} {s : State} (hk : Keeps a s) :
    KeepsNext a (execSegmentSlotRequest segment s) := by
  unfold execSegmentSlotRequest
  repeat' (first
    | with_reducible refine keepsNext_next ?_
    | with_reducible refine keepsNext_ite ?_ ?_
    | with_reducible assumption
    | with_reducible apply startFill_keeps
    | with_reducible apply waitSlot_keeps
    | with_reducible refine keepsSome_of (by with_reducible assumption) (ensureSlot_keeps ?_)
    | with_reducible apply modTi_keeps
    | dsimp only
    | split
    | exact fun _ h => h)

theorem execSlotWaitLimit_keeps {a : State} {s : State} (hk : Keeps a s) :
    KeepsNext a (execSlotWaitLimit s) := by
  unfold execSlotWaitLimit
  repeat' (first
    | with_reducible refine keepsNext_next ?_
    | with_reducible refine keepsNext_ite ?_ ?_
    | with_reducible assumption
    | with_reducible apply modTi_keeps
    | with_reducible apply raise_keeps
    | dsimp only
    | exact fun _ h => h)

theorem execPageArrival_keeps {a : State} {segment page : Nat} {s : State} (hk : Keeps a s) :
    KeepsNext a (execPageArrival segment page s) := by
  unfold execPageArrival
  dsimp only
  refine keepsNext_ite ?_ (keepsNext_next hk)
  split
  · exact keepsNext_next hk
  · exact keepsNext_ite (keepsNext_next (loadPages_keeps hk))
      (keepsNext_next (modTi_keeps (fun _ h => h) (fun _ h => h) (loadPages_keeps hk)))

theorem mapOut_keeps {a : State} {slot partition : Nat} {s : State} (hk : Keeps a s) :
    Keeps a (mapOut slot partition s) := by
  unfold mapOut
  refine keeps_ite ?_ fun _ => hk
  refine noteSpare_keeps (raise_keeps ?_)
  have h1 : Keeps a (modTi (fun t => { t with mappedOut := setInsert slot t.mappedOut }) s) :=
    modTi_keeps (fun _ h => h) (fun _ h => h) hk
  have h2 := keeps_ite (p := partition ≠ 4) (b := modTi (fun t => { t with mappedOut := setInsert slot t.mappedOut }) s)
    (show Keeps a (match slotAt slot (modTi (fun t => { t with mappedOut := setInsert slot t.mappedOut }) s) with
        | none => modTi (fun t => { t with mappedOut := setInsert slot t.mappedOut }) s
        | some (seg, g) =>
          if g.dirty = 0 then modTi (dropSegment seg) (modTi (fun t => { t with mappedOut := setInsert slot t.mappedOut }) s)
          else modTi (fun t => { t with segs := mmod seg (fun g => { g with phys := freePhys t }) t.segs })
            (modTi (fun t => { t with mappedOut := setInsert slot t.mappedOut }) s)) by
      split
      · exact h1
      · exact keeps_ite (modTi_keeps (fun _ h => h) (fun _ h => h) h1) fun _ => dropSegment_keeps h1) fun _ => h1
  refine keeps_ite h2 fun _ => ?_
  split
  · exact dropSegment_keeps h2
  · exact h2

theorem execShelfPageFailure_keeps {a : State} {slot partition : Nat} {s : State} (hk : Keeps a s) :
    KeepsNext a (execShelfPageFailure slot partition s) := by
  unfold execShelfPageFailure
  repeat' (first
    | with_reducible refine keepsNext_next ?_
    | with_reducible assumption
    | with_reducible apply mapOut_keeps)

theorem execDrainPlacement_keeps {a : State} {seq : Nat} {s : State} (hk : Keeps a s) :
    KeepsNext a (execDrainPlacement seq s) := by
  unfold execDrainPlacement
  repeat' (first
    | with_reducible refine keepsNext_next ?_
    | with_reducible refine keepsNext_ite ?_ ?_
    | with_reducible assumption
    | with_reducible apply keeps_ite
    | with_reducible refine keeps_foldl ?_ (fun _ _ _ => ?_)
    | with_reducible refine keepsSome_of (by with_reducible assumption) (placeLines_keeps ?_)
    | with_reducible apply waitSlot_keeps
    | with_reducible apply modPu_keeps
    | dsimp only
    | split
    | intro _)

theorem execCheckpointStart_keeps {a : State} {s : State} (hk : Keeps a s) :
    KeepsNext a (execCheckpointStart s) := by
  unfold execCheckpointStart
  repeat' (first
    | with_reducible refine keepsNext_next ?_
    | with_reducible refine keepsNext_ite ?_ ?_
    | with_reducible assumption
    | with_reducible apply startCkpt_keeps
    | with_reducible apply modTi_keeps
    | dsimp only
    | exact fun _ h => h)

theorem execCheckpointComplete_keeps {a : State} {s : State} (hk : Keeps a s) :
    KeepsNext a (execCheckpointComplete s) := by
  unfold execCheckpointComplete
  repeat' (first
    | with_reducible refine keepsNext_next ?_
    | with_reducible refine keepsNext_ite ?_ ?_
    | with_reducible assumption
    | with_reducible apply keeps_ite
    | with_reducible apply startCkpt_keeps
    | with_reducible apply reclaimAdvance_keeps
    | with_reducible apply modTi_keeps
    | with_reducible apply raise_keeps
    | dsimp only
    | split
    | exact fun _ h => h
    | intro _)

theorem closeRow_keeps {a : State} {k row : Nat} {s : State} (hk : Keeps a s) :
    Keeps a (closeRow k row s) := by
  unfold closeRow
  repeat' (first
    | with_reducible assumption
    | with_reducible apply keeps_ite
    | with_reducible apply modStripe_keeps
    | with_reducible apply modTi_keeps
    | dsimp only
    | exact fun _ h => h
    | intro _)

theorem execRowClose_keeps {a : State} {position block row : Nat} {s : State} (hk : Keeps a s) :
    KeepsNext a (execRowClose position block row s) := by
  unfold execRowClose
  repeat' (first
    | with_reducible refine keepsNext_next ?_
    | with_reducible refine keepsNext_ite ?_ ?_
    | with_reducible assumption
    | with_reducible apply closeRow_keeps
    | dsimp only
    | split)

theorem execRowCloseTimeout_keeps {a : State} {position block row : Nat} {s : State} (hk : Keeps a s) :
    KeepsNext a (execRowCloseTimeout position block row s) := by
  unfold execRowCloseTimeout
  repeat' (first
    | with_reducible refine keepsNext_next ?_
    | with_reducible refine keepsNext_ite ?_ ?_
    | with_reducible assumption
    | with_reducible refine keeps_foldl ?_ (fun _ _ _ => ?_)
    | with_reducible apply closeRow_keeps
    | with_reducible apply markProgrammed_keeps
    | with_reducible apply modTi_keeps
    | dsimp only
    | split
    | exact fun _ h => h)

theorem execWriteBack_keeps {a : State} {lcn addr : Nat} {s : State} (hk : Keeps a s) :
    KeepsNext a (execWriteBack lcn addr s) := by
  unfold execWriteBack
  split
  · refine keepsNext_ite (keepsNext_ite (keepsNext_next hk) (keepsNext_next (noteNonceWait_keeps hk))) (keepsNext_next ?_)
    refine modTi_keeps (fun _ h => h) (fun _ h => h) (keeps_any (KeepsEv.refl _) (KeepsTrust.refl _) id id ?_ id
      (markProgrammed_keeps (programChunk_keeps (openFor_keeps hk))))
    exact fun h => h
  · exact keepsNext_next hk

theorem stagedComplete_keeps {a : State} {w : CabWrite} {s : State} (hk : Keeps a s) :
    Keeps a (stagedComplete w s) := by
  unfold stagedComplete
  refine keeps_ite ?_ fun _ => hk
  refine keeps_any (KeepsEv.refl _) (KeepsTrust.refl _) id id ?_ id
    (closeRec_keeps (setMap_keeps (modTi_keeps (fun _ h => h) (fun _ h => h) hk)))
  intro h
  dsimp only
  split
  · exact memErase_wf _ _ h
  · exact h

theorem writeBackDone_keeps {a : State} {w : CabWrite} {d : Region} {s : State} (hk : Keeps a s) :
    Keeps a (writeBackDone w d s) := by
  unfold writeBackDone
  repeat' (first
    | with_reducible assumption
    | with_reducible apply keeps_ite
    | with_reducible apply reclaimAdvance_keeps
    | with_reducible apply journalMap_keeps
    | with_reducible apply modTi_keeps
    | dsimp only
    | split
    | exact fun _ h => h
    | intro _)

theorem execWriteBackComplete_keeps {a : State} {lcn : Nat} {s : State} (hk : Keeps a s) :
    KeepsNext a (execWriteBackComplete lcn s) := by
  unfold execWriteBackComplete
  repeat' (first
    | with_reducible refine keepsNext_next ?_
    | with_reducible refine keepsNext_ite ?_ ?_
    | with_reducible assumption
    | with_reducible apply writeBackDone_keeps
    | with_reducible apply stagedComplete_keeps
    | split)

theorem execRelocationComplete_keeps {a : State} {lcn addr : Nat} {s : State} (hk : Keeps a s) :
    KeepsNext a (execRelocationComplete lcn addr s) := by
  unfold execRelocationComplete
  repeat' (first
    | with_reducible refine keepsNext_next ?_
    | with_reducible refine keepsNext_ite ?_ ?_
    | with_reducible assumption
    | with_reducible apply copyChunk_keeps
    | with_reducible apply markProgrammed_keeps
    | with_reducible apply openFor_keeps
    | with_reducible apply journalMap_keeps
    | with_reducible apply modTi_keeps
    | dsimp only
    | split
    | exact fun _ h => h)

theorem relocateStripe_keeps {a : State} {k : Nat} {s : State} (hk : Keeps a s) :
    Keeps a (relocateStripe k s) := by
  unfold relocateStripe
  repeat' (first
    | with_reducible assumption
    | with_reducible apply modTi_keeps
    | dsimp only
    | exact fun _ h => h)

theorem retireBlock_keeps {a : State} {lun block cause : Nat} {s : State} (hk : Keeps a s) :
    Keeps a (retireBlock lun block cause s) := by
  unfold retireBlock
  repeat' (first
    | with_reducible assumption
    | with_reducible apply keeps_ite
    | with_reducible apply relocateStripe_keeps
    | with_reducible apply noteSpare_keeps
    | with_reducible apply wearLog_keeps
    | with_reducible apply evalOp_keeps
    | with_reducible apply modStripe_keeps
    | with_reducible apply modTi_keeps
    | with_reducible apply raise_keeps
    | dsimp only
    | split
    | exact fun _ h => h
    | intro _)

theorem relocateChunk_keeps {a : State} {lcn : Nat} {s : State} (hk : Keeps a s) :
    Keeps a (relocateChunk lcn s) := by
  unfold relocateChunk
  repeat' (first
    | with_reducible assumption
    | with_reducible apply keeps_ite
    | with_reducible apply retireBlock_keeps
    | with_reducible apply modStripe_keeps
    | with_reducible apply modTi_keeps
    | dsimp only
    | split
    | exact fun _ h => h
    | intro _)

theorem loseChunk_keeps {a : State} {lcn : Nat} {e : MapEntry} {s : State} (hk : Keeps a s) :
    Keeps a (loseChunk lcn e s) := by
  unfold loseChunk
  repeat' (first
    | with_reducible assumption
    | with_reducible apply keeps_ite
    | with_reducible apply journalMap_keeps
    | with_reducible apply modTi_keeps
    | with_reducible apply raise_keeps
    | dsimp only
    | exact fun _ h => h
    | intro _)

theorem scrubCabinet_keeps {a : State} {lcn : Nat} {outcome : ReadOutcome} {s : State} (hk : Keeps a s) :
    Keeps a (scrubCabinet lcn outcome s) := by
  unfold scrubCabinet
  repeat' (first
    | with_reducible assumption
    | with_reducible apply keeps_ite
    | fail_if_no_progress (with_reducible refine keeps_mk_iff.2 ?_)
    | dsimp only
    | split
    | intro _)

theorem execChunkReadComplete_keeps {a : State} {lcn : Nat} {outcome : ReadOutcome} {s : State} (hk : Keeps a s) :
    KeepsNext a (execChunkReadComplete lcn outcome s) := by
  unfold execChunkReadComplete
  repeat' (first
    | with_reducible refine keepsNext_next ?_
    | with_reducible refine keepsNext_ite ?_ ?_
    | with_reducible assumption
    | with_reducible apply keeps_ite
    | with_reducible apply scrubCabinet_keeps
    | with_reducible apply loseChunk_keeps
    | with_reducible apply relocateChunk_keeps
    | with_reducible apply modStripe_keeps
    | dsimp only
    | split)

theorem clearStripe_keeps {a : State} {k : Nat} {s : State} (hk : Keeps a s) :
    Keeps a (clearStripe k s) := by
  unfold clearStripe
  repeat' (first
    | with_reducible assumption
    | with_reducible apply keeps_ite
    | with_reducible apply relocateStripe_keeps
    | with_reducible apply modStripe_keeps
    | intro _)

theorem execGarbageCollection_keeps {a : State} {position : Nat} {s : State} (hk : Keeps a s) :
    KeepsNext a (execGarbageCollection position s) := by
  unfold execGarbageCollection
  repeat' (first
    | with_reducible refine keepsNext_next ?_
    | with_reducible refine keepsNext_ite ?_ ?_
    | with_reducible assumption
    | with_reducible apply clearStripe_keeps
    | split)

theorem execFreeStripeExhausted_keeps {a : State} {position : Nat} {s : State} (hk : Keeps a s) :
    KeepsNext a (execFreeStripeExhausted position s) := by
  unfold execFreeStripeExhausted
  repeat' (first
    | with_reducible refine keepsNext_next ?_
    | with_reducible refine keepsNext_ite ?_ ?_
    | with_reducible assumption
    | with_reducible apply raise_keeps)

theorem execWearLevelRelocation_keeps {a : State} {position : Nat} {s : State} (hk : Keeps a s) :
    KeepsNext a (execWearLevelRelocation position s) := by
  unfold execWearLevelRelocation
  repeat' (first
    | with_reducible refine keepsNext_next ?_
    | with_reducible refine keepsNext_ite ?_ ?_
    | with_reducible assumption
    | with_reducible apply clearStripe_keeps
    | split)

theorem execReadDisturbRefresh_keeps {a : State} {position block : Nat} {s : State} (hk : Keeps a s) :
    KeepsNext a (execReadDisturbRefresh position block s) := by
  unfold execReadDisturbRefresh
  repeat' (first
    | with_reducible refine keepsNext_next ?_
    | with_reducible refine keepsNext_ite ?_ ?_
    | with_reducible assumption
    | with_reducible apply clearStripe_keeps)

theorem failLun_keeps {a : State} {lun : Nat} {s : State} (hk : Keeps a s) :
    Keeps a (failLun lun s) := by
  unfold failLun
  repeat' (first
    | with_reducible assumption
    | with_reducible apply keeps_ite
    | with_reducible refine keeps_foldl ?_ (fun _ _ _ => ?_)
    | with_reducible apply relocateStripe_keeps
    | with_reducible apply noteSpare_keeps
    | with_reducible apply wearLog_keeps
    | with_reducible apply evalOp_keeps
    | with_reducible apply modStripe_keeps
    | with_reducible apply modTi_keeps
    | with_reducible apply raise_keeps
    | dsimp only
    | exact fun _ h => h
    | intro _)

theorem execNandStatusFailure_keeps {a : State} {lun block : Nat} {erase : Bool} {s : State} (hk : Keeps a s) :
    KeepsNext a (execNandStatusFailure lun block erase s) := by
  unfold execNandStatusFailure
  repeat' (first
    | with_reducible refine keepsNext_next ?_
    | with_reducible assumption
    | with_reducible apply keeps_ite
    | with_reducible apply failLun_keeps
    | with_reducible apply retireBlock_keeps)

theorem execLunFailure_keeps {a : State} {lun : Nat} {s : State} (hk : Keeps a s) :
    KeepsNext a (execLunFailure lun s) := by
  unfold execLunFailure
  repeat' (first
    | with_reducible refine keepsNext_next ?_
    | with_reducible assumption
    | with_reducible apply failLun_keeps)

theorem execRebuildComplete_keeps {a : State} {lun : Nat} {s : State} (hk : Keeps a s) :
    KeepsNext a (execRebuildComplete lun s) := by
  unfold execRebuildComplete
  repeat' (first
    | with_reducible refine keepsNext_next ?_
    | with_reducible refine keepsNext_ite ?_ ?_
    | with_reducible assumption
    | with_reducible apply modTi_keeps
    | with_reducible apply raise_keeps
    | dsimp only
    | split
    | exact fun _ h => h)

theorem execOpEvaluation_keeps {a : State} {s : State} (hk : Keeps a s) :
    KeepsNext a (execOpEvaluation s) := by
  unfold execOpEvaluation
  repeat' (first
    | with_reducible refine keepsNext_next ?_
    | with_reducible refine keepsNext_ite ?_ ?_
    | with_reducible assumption
    | with_reducible apply noteSpare_keeps
    | with_reducible apply evalOp_keeps)

/-! ### CaptureCmds -/

theorem ctlDone_keeps {a : State} {f : CtlFrom} {result out : Bytes} {s : State} (hk : Keeps a s) :
    Keeps a (ctlDone f result out s) := by
  unfold ctlDone
  repeat' (first
    | with_reducible assumption
    | with_reducible apply keeps_ite
    | with_reducible apply sendOut_keeps
    | with_reducible apply complete_keeps
    | with_reducible apply success_keeps
    | split
    | intro _)

theorem ctlFail_keeps {a : State} {f : CtlFrom} {status off : Nat} {s : State} (hk : Keeps a s) :
    Keeps a (ctlFail f status off s) := by
  unfold ctlFail
  repeat' (first
    | with_reducible assumption
    | with_reducible apply keeps_ite
    | with_reducible apply complete_keeps
    | with_reducible apply invalid_keeps
    | with_reducible apply answer_keeps
    | split
    | intro _)

theorem ctlWait_keeps {a : State} {f : CtlFrom} {s : State} (hk : Keeps a s) :
    Keeps a (ctlWait f s) := by
  unfold ctlWait
  repeat' (first
    | with_reducible assumption
    | with_reducible apply runCmd_keeps
    | split)

theorem ctlChecked_keeps {b0 : State} {a : CtlAct} {fields : List (Bool × Nat)} {body : State → State} {s : State} (hbody : ∀ s, Keeps b0 s → Keeps b0 (body s)) (hk : Keeps b0 s) :
    Keeps b0 (ctlChecked a fields body s) := by
  unfold ctlChecked
  repeat' (first
    | with_reducible assumption
    | with_reducible apply ctlFail_keeps
    | with_reducible apply hbody
    | split)

theorem takeConf_keeps {b0 : State} {a : CtlAct} {p : Nat} {c : RingConf} {r : Ring} {fresh : Bool} {s : State} (hk : Keeps b0 s) :
    Keeps b0 (takeConf a p c r fresh s) := by
  unfold takeConf
  repeat' (first
    | with_reducible assumption
    | with_reducible apply keeps_ite
    | with_reducible apply ctlDone_keeps
    | with_reducible apply writeControl_keeps
    | with_reducible apply enterRing_keeps
    | with_reducible apply modRing_keeps)

theorem doCaptureConfigure_keeps {b0 : State} {a : CtlAct} {s : State} (hk : Keeps b0 s) :
    Keeps b0 (doCaptureConfigure a s) := by
  unfold doCaptureConfigure
  repeat' (first
    | with_reducible assumption
    | with_reducible apply takeConf_keeps
    | with_reducible apply ctlChecked_keeps
    | with_reducible apply ctlFail_keeps
    | split
    | intro _)

theorem waitRing_keeps {b0 : State} {p : Nat} {a : CtlAct} {f : Ring → Ring} {s : State} (hk : Keeps b0 s) :
    Keeps b0 (waitRing p a f s) := by
  unfold waitRing
  repeat' (first
    | with_reducible assumption
    | with_reducible apply ctlWait_keeps
    | with_reducible apply modRing_keeps)

theorem doSetRules_keeps {b0 : State} {a : CtlAct} {s : State} (hk : Keeps b0 s) :
    Keeps b0 (doSetRules a s) := by
  unfold doSetRules
  repeat' (first
    | with_reducible assumption
    | with_reducible apply waitRing_keeps
    | with_reducible apply ctlChecked_keeps
    | intro _)

theorem doCaptureStart_keeps {b0 : State} {a : CtlAct} {s : State} (hk : Keeps b0 s) :
    Keeps b0 (doCaptureStart a s) := by
  unfold doCaptureStart
  repeat' (first
    | with_reducible assumption
    | with_reducible apply waitRing_keeps
    | with_reducible apply ctlChecked_keeps
    | with_reducible apply enterRing_keeps
    | intro _)

theorem doCaptureStop_keeps {b0 : State} {a : CtlAct} {s : State} (hk : Keeps b0 s) :
    Keeps b0 (doCaptureStop a s) := by
  unfold doCaptureStop
  repeat' (first
    | with_reducible assumption
    | with_reducible apply waitRing_keeps
    | with_reducible apply ctlChecked_keeps
    | intro _)

theorem doCaptureStatus_keeps {b0 : State} {a : CtlAct} {s : State} (hk : Keeps b0 s) :
    Keeps b0 (doCaptureStatus a s) := by
  unfold doCaptureStatus
  repeat' (first
    | with_reducible assumption
    | with_reducible apply ctlChecked_keeps
    | with_reducible apply ctlDone_keeps
    | intro _)

theorem doRelease_keeps {b0 : State} {a : CtlAct} {s : State} (hk : Keeps b0 s) :
    Keeps b0 (doRelease a s) := by
  unfold doRelease
  repeat' (first
    | with_reducible assumption
    | with_reducible apply waitRing_keeps
    | with_reducible apply ctlChecked_keeps
    | intro _)

theorem runAct_keeps {a : State} {opcode code qid cid : Nat} {data : Bytes} {body : CtlAct → State → State} {s : State} (hbody : ∀ x0 s, Keeps a s → Keeps a (body x0 s)) (hk : Keeps a s) :
    Keeps a (runAct opcode code qid cid data body s) := by
  unfold runAct
  repeat' (first
    | with_reducible assumption
    | with_reducible apply refuseCmd_keeps
    | with_reducible apply withCmd_keeps
    | with_reducible apply hbody
    | dsimp only
    | split
    | intro _)

theorem execCaptureConfigure_keeps {a : State} {qid cid : Nat} {data : Bytes} {s : State} (hk : Keeps a s) :
    KeepsNext a (execCaptureConfigure qid cid data s) := by
  unfold execCaptureConfigure
  repeat' (first
    | with_reducible refine keepsNext_next ?_
    | with_reducible assumption
    | with_reducible apply runAct_keeps
    | with_reducible apply doCaptureConfigure_keeps)

theorem execSetRules_keeps {a : State} {qid cid : Nat} {data : Bytes} {s : State} (hk : Keeps a s) :
    KeepsNext a (execSetRules qid cid data s) := by
  unfold execSetRules
  repeat' (first
    | with_reducible refine keepsNext_next ?_
    | with_reducible assumption
    | with_reducible apply runAct_keeps
    | with_reducible apply doSetRules_keeps)

theorem execCaptureStart_keeps {a : State} {qid cid : Nat} {s : State} (hk : Keeps a s) :
    KeepsNext a (execCaptureStart qid cid s) := by
  unfold execCaptureStart
  repeat' (first
    | with_reducible refine keepsNext_next ?_
    | with_reducible assumption
    | with_reducible apply runAct_keeps
    | with_reducible apply doCaptureStart_keeps)

theorem execCaptureStop_keeps {a : State} {qid cid : Nat} {s : State} (hk : Keeps a s) :
    KeepsNext a (execCaptureStop qid cid s) := by
  unfold execCaptureStop
  repeat' (first
    | with_reducible refine keepsNext_next ?_
    | with_reducible assumption
    | with_reducible apply runAct_keeps
    | with_reducible apply doCaptureStop_keeps)

theorem execCaptureStatus_keeps {a : State} {qid cid : Nat} {s : State} (hk : Keeps a s) :
    KeepsNext a (execCaptureStatus qid cid s) := by
  unfold execCaptureStatus
  repeat' (first
    | with_reducible refine keepsNext_next ?_
    | with_reducible assumption
    | with_reducible apply runAct_keeps
    | with_reducible apply doCaptureStatus_keeps)

theorem execRelease_keeps {a : State} {qid cid : Nat} {s : State} (hk : Keeps a s) :
    KeepsNext a (execRelease qid cid s) := by
  unfold execRelease
  repeat' (first
    | with_reducible refine keepsNext_next ?_
    | with_reducible assumption
    | with_reducible apply runAct_keeps
    | with_reducible apply doRelease_keeps)

theorem captureAct_keeps {b0 : State} {a : CtlAct} {s : State} (hk : Keeps b0 s) :
    Keeps b0 (captureAct a s) := by
  unfold captureAct
  repeat' (first
    | with_reducible assumption
    | with_reducible apply doRelease_keeps
    | with_reducible apply doCaptureStatus_keeps
    | with_reducible apply doCaptureStop_keeps
    | with_reducible apply doCaptureStart_keeps
    | with_reducible apply doSetRules_keeps
    | with_reducible apply doCaptureConfigure_keeps
    | with_reducible apply ctlFail_keeps
    | split)

theorem execCaptureControl_keeps {a : State} {path : BcsPath} {input : Bytes} {s : State} (hk : Keeps a s) :
    KeepsNext a (execCaptureControl path input s) := by
  unfold execCaptureControl
  repeat' (first
    | with_reducible refine keepsNext_next ?_
    | with_reducible assumption
    | with_reducible apply captureAct_keeps
    | with_reducible apply bcs_keeps
    | with_reducible apply invalid_keeps
    | split)

theorem execRuleSetActivation_keeps {a : State} {port : Nat} {s : State} (hk : Keeps a s) :
    KeepsNext a (execRuleSetActivation port s) := by
  unfold execRuleSetActivation
  repeat' (first
    | with_reducible refine keepsNext_next ?_
    | with_reducible assumption
    | with_reducible apply ctlDone_keeps
    | with_reducible apply modRing_keeps
    | with_reducible apply raise_keeps
    | dsimp only
    | split)

theorem execRingStartBeat_keeps {a : State} {port : Nat} {s : State} (hk : Keeps a s) :
    KeepsNext a (execRingStartBeat port s) := by
  unfold execRingStartBeat
  repeat' (first
    | with_reducible refine keepsNext_next ?_
    | with_reducible assumption
    | with_reducible apply ctlDone_keeps
    | with_reducible apply enterRing_keeps
    | with_reducible apply modRing_keeps
    | dsimp only
    | split)

theorem execRingStopBeat_keeps {a : State} {port : Nat} {s : State} (hk : Keeps a s) :
    KeepsNext a (execRingStopBeat port s) := by
  unfold execRingStopBeat
  repeat' (first
    | with_reducible refine keepsNext_next ?_
    | with_reducible assumption
    | with_reducible apply ctlDone_keeps
    | with_reducible apply settleRing_keeps
    | with_reducible apply modRing_keeps
    | dsimp only
    | split)

theorem execTailRelease_keeps {a : State} {port : Nat} {s : State} (hk : Keeps a s) :
    KeepsNext a (execTailRelease port s) := by
  unfold execTailRelease
  repeat' (first
    | with_reducible refine keepsNext_next ?_
    | with_reducible assumption
    | with_reducible apply keeps_ite
    | with_reducible apply ctlDone_keeps
    | with_reducible apply enterRing_keeps
    | with_reducible apply modRing_keeps
    | dsimp only
    | split)

theorem programCapture_keeps {a : State} {full : Bool} {p lcn addr : Nat} {s : State} (hk : Keeps a s) :
    Keeps a (programCapture full p lcn addr s) := by
  unfold programCapture
  repeat' (first
    | with_reducible assumption
    | with_reducible apply keeps_ite
    | with_reducible apply modCap_keeps
    | with_reducible apply programStaged_keeps
    | with_reducible apply noteNonceWait_keeps
    | with_reducible apply markProgrammed_keeps
    | with_reducible apply openFor_keeps
    | with_reducible apply modTi_keeps
    | dsimp only
    | split
    | exact fun _ h => h
    | intro _)

theorem execStagedChunkProgram_keeps {a : State} {port chunk addr : Nat} {s : State} (hk : Keeps a s) :
    KeepsNext a (execStagedChunkProgram port chunk addr s) := by
  unfold execStagedChunkProgram
  repeat' (first
    | with_reducible refine keepsNext_next ?_
    | with_reducible assumption
    | with_reducible apply programCapture_keeps)

theorem execStagedChunkTimeout_keeps {a : State} {port chunk addr : Nat} {s : State} (hk : Keeps a s) :
    KeepsNext a (execStagedChunkTimeout port chunk addr s) := by
  unfold execStagedChunkTimeout
  repeat' (first
    | with_reducible refine keepsNext_next ?_
    | with_reducible assumption
    | with_reducible apply programCapture_keeps)

theorem execStagedBacklogExceeded_keeps {a : State} {s : State} (hk : Keeps a s) :
    KeepsNext a (execStagedBacklogExceeded s) := by
  unfold execStagedBacklogExceeded
  repeat' (first
    | with_reducible refine keepsNext_next ?_
    | with_reducible refine keepsNext_ite ?_ ?_
    | with_reducible assumption
    | with_reducible apply modCap_keeps
    | with_reducible apply raise_keeps
    | dsimp only
    | exact fun _ h => h)

theorem settleBacklog_keeps {a : State} {s : State} (hk : Keeps a s) :
    Keeps a (settleBacklog s) := by
  unfold settleBacklog
  repeat' (first
    | with_reducible assumption
    | with_reducible apply keeps_ite
    | with_reducible apply modCap_keeps
    | dsimp only
    | exact fun _ h => h)

/-! ### Replay -/

theorem modChan_keeps {a : State} {c : Nat} {f : Channel → Channel} {s : State} (hk : Keeps a s) :
    Keeps a (modChan c f s) := by
  unfold modChan
  repeat' (first
    | with_reducible assumption
    | with_reducible apply modCap_keeps
    | dsimp only
    | exact fun _ h => h)

theorem modPos_keeps {a : State} {c : Nat} {f : ReplayPos → ReplayPos} {s : State} (hk : Keeps a s) :
    Keeps a (modPos c f s) := by
  unfold modPos
  repeat' (first
    | with_reducible assumption
    | with_reducible apply modChan_keeps)

theorem enterChannel_keeps {a : State} {c st cause : Nat} {s : State} (hk : Keeps a s) :
    Keeps a (enterChannel c st cause s) := by
  unfold enterChannel
  repeat' (first
    | with_reducible assumption
    | with_reducible apply keeps_ite
    | with_reducible apply modChan_keeps
    | with_reducible apply raise_keeps
    | intro _)

theorem stopChannel_keeps {a : State} {c cause : Nat} {s : State} (hk : Keeps a s) :
    Keeps a (stopChannel c cause s) := by
  unfold stopChannel
  repeat' (first
    | with_reducible assumption
    | with_reducible apply enterChannel_keeps
    | with_reducible apply modChan_keeps
    | with_reducible apply ctlFail_keeps
    | dsimp only
    | split)

theorem pushItem_keeps {a : State} {c : Nat} {i : ReplayItem} {p : ReplayPos} {s : State} (hk : Keeps a s) :
    Keeps a (pushItem c i p s) := by
  unfold pushItem
  repeat' (first
    | with_reducible assumption
    | with_reducible apply modChan_keeps)

theorem takeRecord_keeps {a : State} {c : Nat} {b : Bytes} {s : State} (hk : Keeps a s) :
    Keeps a (takeRecord c b s) := by
  unfold takeRecord
  repeat' (first
    | with_reducible assumption
    | with_reducible apply keeps_ite
    | with_reducible apply pushItem_keeps
    | with_reducible apply modPos_keeps
    | dsimp only
    | split
    | intro _)

theorem fetchBack_keeps {a : State} {c : Nat} {gaps : Bool} {status : Nat} {data : Bytes} {bad : List Nat} {s : State} (hk : Keeps a s) :
    Keeps a (fetchBack c gaps status data bad s) := by
  unfold fetchBack
  repeat' (first
    | with_reducible assumption
    | with_reducible apply keeps_ite
    | with_reducible apply stopChannel_keeps
    | with_reducible apply modPos_keeps
    | split
    | intro _)

theorem fetchRange_keeps {a : State} {c : Nat} {gaps : Bool} {r off len : Nat} {s : State} (hk : Keeps a s) :
    Keeps a (fetchRange c gaps r off len s) := by
  unfold fetchRange
  repeat' (first
    | with_reducible assumption
    | with_reducible apply keeps_ite
    | with_reducible apply fetchBack_keeps
    | with_reducible apply stopChannel_keeps
    | with_reducible apply modPos_keeps
    | with_reducible apply readHere_keeps
    | with_reducible apply forwardRead_keeps
    | dsimp only
    | split
    | intro _)

theorem fetchBlock_keeps {a : State} {c : Nat} {b : Bytes} {s : State} (hk : Keeps a s) :
    Keeps a (fetchBlock c b s) := by
  unfold fetchBlock
  repeat' (first
    | with_reducible assumption
    | with_reducible apply keeps_ite
    | with_reducible apply fetchRange_keeps
    | with_reducible apply modPos_keeps
    | intro _)

theorem fetchNext_keeps {a : State} {c : Nat} {s : State} (hk : Keeps a s) :
    Keeps a (fetchNext c s) := by
  unfold fetchNext
  repeat' (first
    | with_reducible assumption
    | with_reducible apply keeps_ite
    | with_reducible apply fetchBlock_keeps
    | with_reducible apply fetchRange_keeps
    | with_reducible apply takeRecord_keeps
    | with_reducible apply pushItem_keeps
    | with_reducible apply modPos_keeps
    | dsimp only
    | split
    | intro _)

theorem sendFiller_keeps {a : State} {c : Nat} {s : State} (hk : Keeps a s) :
    Keeps a (sendFiller c s) := by
  unfold sendFiller
  repeat' (first
    | with_reducible assumption
    | with_reducible refine keeps_foldl ?_ (fun _ _ _ => ?_)
    | with_reducible apply modChan_keeps
    | with_reducible apply emit_keeps)

theorem underrun_keeps {a : State} {c : Nat} {s : State} (hk : Keeps a s) :
    Keeps a (underrun c s) := by
  unfold underrun
  repeat' (first
    | with_reducible assumption
    | with_reducible apply keeps_ite
    | with_reducible apply sendFiller_keeps
    | with_reducible apply stopChannel_keeps
    | with_reducible apply enterChannel_keeps
    | with_reducible apply modChan_keeps
    | with_reducible apply raise_keeps
    | dsimp only
    | split
    | intro _)

theorem countWindow_keeps {a : State} {c : Nat} {l : List ReplayItem} {s : State} (hk : Keeps a s) :
    Keeps a (countWindow c l s) := by
  unfold countWindow
  repeat' (first
    | with_reducible assumption
    | with_reducible refine keeps_foldl ?_ (fun _ _ _ => ?_)
    | with_reducible apply modChan_keeps
    | with_reducible apply raiseLimited_keeps)

theorem stopIfDone_keeps {a : State} {c : Nat} {s : State} (hk : Keeps a s) :
    Keeps a (stopIfDone c s) := by
  unfold stopIfDone
  repeat' (first
    | with_reducible assumption
    | with_reducible apply keeps_ite
    | with_reducible apply stopChannel_keeps
    | split)

theorem issueStep_keeps {a : State} {c : Nat} {s : State} (hk : Keeps a s) :
    Keeps a (issueStep c s) := by
  unfold issueStep
  repeat' (first
    | with_reducible assumption
    | with_reducible apply keeps_ite
    | with_reducible apply stopIfDone_keeps
    | with_reducible apply countWindow_keeps
    | with_reducible apply underrun_keeps
    | with_reducible apply enterChannel_keeps
    | with_reducible apply modChan_keeps
    | with_reducible apply raise_keeps
    | dsimp only
    | split
    | intro _)

theorem channelBoundary_keeps {a : State} {c : Nat} {s : State} (hk : Keeps a s) :
    Keeps a (channelBoundary c s) := by
  unfold channelBoundary
  repeat' (first
    | with_reducible assumption
    | with_reducible apply issueStep_keeps
    | with_reducible apply modChan_keeps)

/-! ### Dram -/

theorem modEcc_keeps {a : State} {f : Ecc → Ecc} {s : State} (hk : Keeps a s) :
    Keeps a (modEcc f s) := by
  unfold modEcc
  repeat' (first
    | with_reducible assumption
    | fail_if_no_progress (with_reducible refine keeps_mk_iff.2 ?_))

theorem modStack_keeps {a : State} {i : Nat} {f : Stack → Stack} {s : State} (hk : Keeps a s) :
    Keeps a (modStack i f s) := by
  unfold modStack
  repeat' (first
    | with_reducible assumption
    | with_reducible apply modEcc_keeps)

theorem wakePc_keeps {a : State} {pc : Nat} {s : State} (hk : Keeps a s) :
    Keeps a (wakePc pc s) := by
  unfold wakePc
  repeat' (first
    | with_reducible assumption
    | fail_if_no_progress (with_reducible refine keeps_mk_iff.2 ?_))

theorem startChangeNext_keeps {a : State} {s : State} (hk : Keeps a s) :
    Keeps a (startChangeNext s) := by
  unfold startChangeNext
  repeat' (first
    | with_reducible assumption
    | with_reducible apply keeps_ite
    | with_reducible refine keeps_foldl ?_ (fun _ _ _ => ?_)
    | with_reducible apply wakePc_keeps
    | with_reducible apply modEcc_keeps
    | dsimp only
    | split
    | intro _)

theorem stackReading_keeps {a : State} {stack : Nat} {celsius : Int} {s : State} (hk : Keeps a s) :
    Keeps a (stackReading stack celsius s) := by
  unfold stackReading
  repeat' (first
    | with_reducible assumption
    | with_reducible apply keeps_ite
    | with_reducible apply startChangeNext_keeps
    | with_reducible apply modStack_keeps
    | with_reducible apply raise_keeps
    | dsimp only
    | split
    | intro _)

theorem execStackTemperatureReading_keeps {a : State} {stack : Nat} {celsius : Int} {s : State} (hk : Keeps a s) :
    KeepsNext a (execStackTemperatureReading stack celsius s) := by
  unfold execStackTemperatureReading
  repeat' (first
    | with_reducible refine keepsNext_next ?_
    | with_reducible assumption
    | with_reducible apply stackReading_keeps)

theorem issueOwed_keeps {a : State} {pcs : List Nat} {s : State} (hk : Keeps a s) :
    Keeps a (issueOwed pcs s) := by
  unfold issueOwed
  repeat' (first
    | with_reducible assumption
    | with_reducible apply modEcc_keeps)

theorem execBandChangeQuiesce_keeps {a : State} {s : State} (hk : Keeps a s) :
    KeepsNext a (execBandChangeQuiesce s) := by
  unfold execBandChangeQuiesce
  repeat' (first
    | with_reducible refine keepsNext_next ?_
    | with_reducible refine keepsNext_ite ?_ ?_
    | with_reducible assumption
    | with_reducible apply issueOwed_keeps
    | with_reducible apply startChangeNext_keeps
    | with_reducible apply wakePc_keeps
    | with_reducible apply modStack_keeps
    | with_reducible apply modEcc_keeps
    | with_reducible apply raise_keeps
    | dsimp only
    | split)

theorem execFullRateChange_keeps {a : State} {stack : Nat} {s : State} (hk : Keeps a s) :
    KeepsNext a (execFullRateChange stack s) := by
  unfold execFullRateChange
  repeat' (first
    | with_reducible refine keepsNext_next ?_
    | with_reducible refine keepsNext_ite ?_ ?_
    | with_reducible assumption
    | with_reducible apply issueOwed_keeps
    | with_reducible apply startChangeNext_keeps
    | with_reducible apply modStack_keeps
    | with_reducible apply modEcc_keeps
    | with_reducible apply raise_keeps
    | dsimp only
    | split)

theorem execRefreshDue_keeps {a : State} {channel bank : Nat} {s : State} (hk : Keeps a s) :
    KeepsNext a (execRefreshDue channel bank s) := by
  unfold execRefreshDue
  repeat' (first
    | with_reducible refine keepsNext_next ?_
    | with_reducible refine keepsNext_ite ?_ ?_
    | with_reducible assumption
    | with_reducible apply modEcc_keeps)

theorem execStartScrub_keeps {a : State} {path : BcsPath} {input : Bytes} {s : State} (hk : Keeps a s) :
    KeepsNext a (execStartScrub path input s) := by
  unfold execStartScrub
  repeat' (first
    | with_reducible refine keepsNext_next ?_
    | with_reducible assumption
    | with_reducible apply modEcc_keeps
    | with_reducible apply checked_keeps
    | with_reducible apply bcs_keeps
    | with_reducible apply success_keeps
    | with_reducible apply answer_keeps
    | dsimp only
    | split
    | intro _)

theorem execGetScrubSummary_keeps {a : State} {path : BcsPath} {input : Bytes} {s : State} (hk : Keeps a s) :
    KeepsNext a (execGetScrubSummary path input s) := by
  unfold execGetScrubSummary
  repeat' (first
    | with_reducible refine keepsNext_next ?_
    | with_reducible assumption
    | with_reducible apply bcs_keeps
    | with_reducible apply success_keeps
    | intro _)

/-! ### GqpCmds -/

theorem ignoreDoorbell_keeps {a : State} {qid kind head value : Nat} {s : State} (hk : Keeps a s) :
    Keeps a (ignoreDoorbell qid kind head value s) := by
  unfold ignoreDoorbell
  repeat' (first
    | with_reducible assumption
    | with_reducible apply raiseLimited_keeps)

theorem sqTail_keeps {a : State} {head qid : Nat} {value : Word} {s : State} (hk : Keeps a s) :
    Keeps a (sqTail head qid value s) := by
  unfold sqTail
  repeat' (first
    | with_reducible assumption
    | with_reducible apply keeps_ite
    | with_reducible apply ignoreDoorbell_keeps
    | with_reducible apply modQ_keeps
    | with_reducible apply badWrite_keeps
    | dsimp only
    | split
    | intro _)

theorem cqHead_keeps {a : State} {head qid : Nat} {value : Word} {s : State} (hk : Keeps a s) :
    Keeps a (cqHead head qid value s) := by
  unfold cqHead
  repeat' (first
    | with_reducible assumption
    | with_reducible apply keeps_ite
    | with_reducible apply ignoreDoorbell_keeps
    | with_reducible apply modQ_keeps
    | with_reducible apply badWrite_keeps
    | dsimp only
    | split
    | intro _)

theorem execSqTailDoorbell_keeps {a : State} {head qid : Nat} {value : Word} {s : State} (hk : Keeps a s) :
    KeepsNext a (execSqTailDoorbell head qid value s) := by
  unfold execSqTailDoorbell
  repeat' (first
    | with_reducible refine keepsNext_next ?_
    | with_reducible assumption
    | with_reducible apply sqTail_keeps)

theorem execCqHeadDoorbell_keeps {a : State} {head qid : Nat} {value : Word} {s : State} (hk : Keeps a s) :
    KeepsNext a (execCqHeadDoorbell head qid value s) := by
  unfold execCqHeadDoorbell
  repeat' (first
    | with_reducible refine keepsNext_next ?_
    | with_reducible assumption
    | with_reducible apply cqHead_keeps)

theorem aqEnable_keeps {a : State} {head : Nat} {s : State} (hk : Keeps a s) :
    Keeps a (aqEnable head s) := by
  unfold aqEnable
  repeat' (first
    | with_reducible assumption
    | with_reducible apply keeps_ite
    | with_reducible apply modGqp_keeps
    | with_reducible apply badWrite_keeps
    | dsimp only
    | split
    | intro _)

theorem aqDisable_keeps {a : State} {head : Nat} {s : State} (hk : Keeps a s) :
    Keeps a (aqDisable head s) := by
  unfold aqDisable
  repeat' (first
    | with_reducible assumption
    | with_reducible apply keeps_ite
    | with_reducible apply modGqp_keeps
    | with_reducible apply badWrite_keeps
    | dsimp only
    | intro _)

theorem execAqEnable_keeps {a : State} {head : Nat} {s : State} (hk : Keeps a s) :
    KeepsNext a (execAqEnable head s) := by
  unfold execAqEnable
  repeat' (first
    | with_reducible refine keepsNext_next ?_
    | with_reducible assumption
    | with_reducible apply aqEnable_keeps)

theorem execAqDisable_keeps {a : State} {head : Nat} {s : State} (hk : Keeps a s) :
    KeepsNext a (execAqDisable head s) := by
  unfold execAqDisable
  repeat' (first
    | with_reducible refine keepsNext_next ?_
    | with_reducible assumption
    | with_reducible apply aqDisable_keeps)

theorem execAqReady_keeps {a : State} {s : State} (hk : Keeps a s) :
    KeepsNext a (execAqReady s) := by
  unfold execAqReady
  repeat' (first
    | with_reducible refine keepsNext_next ?_
    | with_reducible refine keepsNext_ite ?_ ?_
    | with_reducible assumption
    | with_reducible apply modGqp_keeps
    | dsimp only
    | split)

theorem execCommandFetch_keeps {a : State} {qid : Nat} {entry list : Bytes} {s : State} (hk : Keeps a s) :
    KeepsNext a (execCommandFetch qid entry list s) := by
  unfold execCommandFetch
  repeat' (first
    | with_reducible refine keepsNext_next ?_
    | with_reducible refine keepsNext_ite ?_ ?_
    | with_reducible assumption
    | with_reducible apply modQ_keeps
    | dsimp only
    | split)

theorem execInFlightLimitHeld_keeps {a : State} {s : State} (hk : Keeps a s) :
    KeepsNext a (execInFlightLimitHeld s) := by
  unfold execInFlightLimitHeld
  repeat' (first
    | with_reducible refine keepsNext_next ?_
    | with_reducible refine keepsNext_ite ?_ ?_
    | with_reducible assumption
    | with_reducible apply modGqp_keeps
    | with_reducible apply raise_keeps)

theorem refuseWith_keeps {a : State} {qid : Nat} {c : GqpCmd} {region off status : Nat} {s : State} (hk : Keeps a s) :
    Keeps a (refuseWith qid c region off status s) := by
  unfold refuseWith
  repeat' (first
    | with_reducible assumption
    | with_reducible apply keeps_ite
    | with_reducible apply refuseCmd_keeps
    | with_reducible apply refuseWrite_keeps)

theorem execWrite_keeps {a : State} {qid cid : Nat} {data : Bytes} {s : State} (hk : Keeps a s) :
    KeepsNext a (execWrite qid cid data s) := by
  unfold execWrite
  repeat' (first
    | with_reducible refine keepsNext_next ?_
    | with_reducible assumption
    | with_reducible apply refuseWith_keeps
    | with_reducible apply runCmd_keeps
    | with_reducible apply refuseCmd_keeps
    | with_reducible apply withCmd_keeps
    | with_reducible apply launchPieces_keeps
    | with_reducible apply submitNext_keeps
    | dsimp only
    | split
    | intro _)

theorem execWriteZeroes_keeps {a : State} {qid cid : Nat} {s : State} (hk : Keeps a s) :
    KeepsNext a (execWriteZeroes qid cid s) := by
  unfold execWriteZeroes
  repeat' (first
    | with_reducible refine keepsNext_next ?_
    | with_reducible assumption
    | with_reducible apply keeps_ite
    | with_reducible refine keeps_foldl ?_ (fun _ _ _ => ?_)
    | with_reducible apply refuseWith_keeps
    | with_reducible apply runCmd_keeps
    | with_reducible apply refuseCmd_keeps
    | with_reducible apply withCmd_keeps
    | with_reducible apply modCmd_keeps
    | with_reducible apply forwardWrite_keeps
    | with_reducible apply submitUnit_keeps
    | dsimp only
    | split
    | intro _)

theorem execCopy_keeps {a : State} {qid cid : Nat} {s : State} (hk : Keeps a s) :
    KeepsNext a (execCopy qid cid s) := by
  unfold execCopy
  repeat' (first
    | with_reducible refine keepsNext_next ?_
    | with_reducible assumption
    | with_reducible apply refuseWith_keeps
    | with_reducible apply runCmd_keeps
    | with_reducible apply refuseCmd_keeps
    | with_reducible apply withCmd_keeps
    | with_reducible apply copyNext_keeps
    | dsimp only
    | split
    | intro _)

theorem takeSource_keeps {a : State} {qid : Nat} {c : GqpCmd} {base r off : Nat} {host : Bytes} {l : List Piece} {s : State} (hk : Keeps a s) :
    Keeps a (takeSource qid c base r off host l s) := by
  unfold takeSource
  repeat' (first
    | with_reducible assumption
    | with_reducible apply keeps_ite
    | with_reducible apply gatherOperand_keeps
    | with_reducible apply modCmd_keeps
    | intro _)

theorem startTransform_keeps {a : State} {qid : Nat} {c : GqpCmd} {data : Bytes} {len : Nat} {s : State} (hk : Keeps a s) :
    Keeps a (startTransform qid c data len s) := by
  unfold startTransform
  repeat' (first
    | with_reducible assumption
    | with_reducible apply keeps_ite
    | with_reducible apply takeSource_keeps
    | with_reducible apply runCmd_keeps
    | with_reducible apply refuseCmd_keeps
    | with_reducible apply afterGather_keeps
    | dsimp only
    | split
    | intro _)

theorem execCompare_keeps {a : State} {qid cid : Nat} {data : Bytes} {s : State} (hk : Keeps a s) :
    KeepsNext a (execCompare qid cid data s) := by
  unfold execCompare
  refine keepsNext_next (withCmd_keeps (fun _ _ _ h => ?_) hk)
  extract_lets e r r2 n fields
  split
  · exact refuseCmd_keeps h
  · split
    · exact refuseCmd_keeps h
    · refine keeps_ite (keeps_ite (keeps_ite (keeps_ite (keeps_ite ?_ fun _ => h) fun _ => refuseCmd_keeps h) fun _ => refuseCmd_keeps h)
        fun _ => refuseCmd_keeps h) fun _ => refuseCmd_keeps h
      exact afterGather_keeps (takeSource_keeps (takeSource_keeps (runCmd_keeps h)))

theorem execCheckValue_keeps {a : State} {qid cid : Nat} {data : Bytes} {s : State} (hk : Keeps a s) :
    KeepsNext a (execCheckValue qid cid data s) := by
  unfold execCheckValue
  repeat' (first
    | with_reducible refine keepsNext_next ?_
    | with_reducible assumption
    | with_reducible apply startTransform_keeps
    | with_reducible apply refuseCmd_keeps
    | with_reducible apply withCmd_keeps
    | dsimp only
    | split
    | intro _)

theorem execScanPattern_keeps {a : State} {qid cid : Nat} {data : Bytes} {s : State} (hk : Keeps a s) :
    KeepsNext a (execScanPattern qid cid data s) := by
  unfold execScanPattern
  repeat' (first
    | with_reducible refine keepsNext_next ?_
    | with_reducible assumption
    | with_reducible apply startTransform_keeps
    | with_reducible apply refuseCmd_keeps
    | with_reducible apply withCmd_keeps
    | dsimp only
    | split
    | intro _)

theorem startSeal_keeps {a : State} {sealing : Bool} {qid : Nat} {data : Bytes} {q : QueuePair} {c : GqpCmd} {s : State} (hk : Keeps a s) :
    Keeps a (startSeal sealing qid data q c s) := by
  unfold startSeal
  repeat' (first
    | with_reducible assumption
    | with_reducible apply keeps_ite
    | with_reducible apply startTransform_keeps
    | with_reducible apply refuseWith_keeps
    | with_reducible apply refuseCmd_keeps
    | dsimp only
    | split
    | intro _)

theorem execSeal_keeps {a : State} {qid cid : Nat} {data : Bytes} {s : State} (hk : Keeps a s) :
    KeepsNext a (execSeal qid cid data s) := by
  unfold execSeal
  repeat' (first
    | with_reducible refine keepsNext_next ?_
    | with_reducible assumption
    | with_reducible apply startSeal_keeps
    | with_reducible apply withCmd_keeps)

theorem execUnseal_keeps {a : State} {qid cid : Nat} {data : Bytes} {s : State} (hk : Keeps a s) :
    KeepsNext a (execUnseal qid cid data s) := by
  unfold execUnseal
  repeat' (first
    | with_reducible refine keepsNext_next ?_
    | with_reducible assumption
    | with_reducible apply startSeal_keeps
    | with_reducible apply withCmd_keeps)

theorem drainFirst_keeps {a : State} {busy : List Nat} {s : State} (hk : Keeps a s) :
    Keeps a (drainFirst busy s) := by
  unfold drainFirst
  repeat' (first
    | with_reducible assumption
    | with_reducible apply keeps_ite
    | with_reducible refine keeps_foldl ?_ (fun _ _ _ => ?_)
    | with_reducible apply modTi_keeps
    | fail_if_no_progress (with_reducible refine keeps_mk_iff.2 ?_)
    | dsimp only
    | split
    | exact fun _ h => h
    | intro _)

theorem execDrainToCabinet_keeps {a : State} {qid cid : Nat} {s : State} (hk : Keeps a s) :
    KeepsNext a (execDrainToCabinet qid cid s) := by
  unfold execDrainToCabinet
  repeat' (first
    | with_reducible refine keepsNext_next ?_
    | with_reducible exact keepsNext_fault
    | with_reducible refine keepsNext_ite ?_ ?_
    | with_reducible assumption
    | with_reducible apply keeps_ite
    | with_reducible refine keeps_foldl ?_ (fun _ _ _ => ?_)
    | with_reducible apply drainFirst_keeps
    | with_reducible apply refuseCmd_keeps
    | with_reducible apply withCmd_keeps
    | with_reducible apply modCmd_keeps
    | with_reducible apply forwardAccess_keeps
    | fail_if_no_progress (with_reducible refine keeps_mk_iff.2 ?_)
    | dsimp only
    | split
    | intro _)

theorem execDrainToCabinetComplete_keeps {a : State} {qid cid : Nat} {s : State} (hk : Keeps a s) :
    KeepsNext a (execDrainToCabinetComplete qid cid s) := by
  unfold execDrainToCabinetComplete
  repeat' (first
    | with_reducible refine keepsNext_next ?_
    | with_reducible refine keepsNext_ite ?_ ?_
    | with_reducible assumption
    | with_reducible apply complete_keeps
    | dsimp only
    | split)

theorem drainBack_keeps {a : State} {qid cid status : Nat} {data : Bytes} {s : State} (hk : Keeps a s) :
    Keeps a (drainBack qid cid status data s) := by
  unfold drainBack
  repeat' (first
    | with_reducible assumption
    | with_reducible apply keeps_ite
    | with_reducible refine keeps_foldl ?_ (fun _ _ _ => ?_)
    | with_reducible apply modCmd_keeps
    | fail_if_no_progress (with_reducible refine keeps_mk_iff.2 ?_)
    | dsimp only
    | split
    | intro _)

theorem startPeerDrain_keeps {a : State} {mtag r off len : Nat} {s : State} (hk : Keeps a s) :
    Keeps a (startPeerDrain mtag r off len s) := by
  unfold startPeerDrain
  repeat' (first
    | with_reducible assumption
    | with_reducible apply keeps_ite
    | with_reducible refine keeps_foldl ?_ (fun _ _ _ => ?_)
    | with_reducible apply drainFirst_keeps
    | with_reducible apply modPair_keeps
    | fail_if_no_progress (with_reducible refine keeps_mk_iff.2 ?_)
    | dsimp only
    | split
    | intro _)

theorem execPersistFence_keeps {a : State} {qid cid : Nat} {s : State} (hk : Keeps a s) :
    KeepsNext a (execPersistFence qid cid s) := by
  unfold execPersistFence
  repeat' (first
    | with_reducible refine keepsNext_next ?_
    | with_reducible assumption
    | with_reducible apply runCmd_keeps
    | with_reducible apply refuseCmd_keeps
    | with_reducible apply withCmd_keeps
    | with_reducible apply modPu_keeps
    | dsimp only
    | split
    | intro _)

theorem execPersistFenceComplete_keeps {a : State} {qid cid : Nat} {s : State} (hk : Keeps a s) :
    KeepsNext a (execPersistFenceComplete qid cid s) := by
  unfold execPersistFenceComplete
  repeat' (first
    | with_reducible refine keepsNext_next ?_
    | with_reducible refine keepsNext_ite ?_ ?_
    | with_reducible assumption
    | with_reducible apply complete_keeps
    | with_reducible apply modPu_keeps
    | with_reducible apply advance_keeps
    | dsimp only
    | split)

theorem execTransferReadySend_keeps {a : State} {qid cid : Nat} {s : State} (hk : Keeps a s) :
    KeepsNext a (execTransferReadySend qid cid s) := by
  unfold execTransferReadySend
  repeat' (first
    | with_reducible refine keepsNext_next ?_
    | with_reducible refine keepsNext_ite ?_ ?_
    | with_reducible assumption
    | with_reducible apply modCmd_keeps
    | with_reducible apply sendCapsule_keeps
    | with_reducible apply modGqp_keeps
    | with_reducible apply advance_keeps
    | dsimp only
    | split)

theorem endIfSettled_keeps {a : State} {qid cid : Nat} {s : State} (hk : Keeps a s) :
    Keeps a (endIfSettled qid cid s) := by
  unfold endIfSettled
  repeat' (first
    | with_reducible assumption
    | with_reducible apply keeps_ite
    | with_reducible apply copyNext_keeps
    | with_reducible apply finishWrite_keeps
    | split
    | intro _)

theorem execTransferTimeout_keeps {a : State} {tag : Nat} {s : State} (hk : Keeps a s) :
    KeepsNext a (execTransferTimeout tag s) := by
  unfold execTransferTimeout
  repeat' (first
    | with_reducible refine keepsNext_next ?_
    | with_reducible refine keepsNext_ite ?_ ?_
    | with_reducible assumption
    | with_reducible apply endIfSettled_keeps
    | with_reducible apply failFrom_keeps
    | with_reducible apply raise_keeps
    | dsimp only
    | split)

theorem execNotice_keeps {a : State} {qid : Nat} {s : State} (hk : Keeps a s) :
    KeepsNext a (execNotice qid s) := by
  unfold execNotice
  repeat' (first
    | with_reducible refine keepsNext_next ?_
    | with_reducible exact keepsNext_fault
    | with_reducible refine keepsNext_ite ?_ ?_
    | with_reducible assumption
    | with_reducible apply keeps_ite
    | with_reducible refine keeps_foldl ?_ (fun _ _ _ => ?_)
    | with_reducible apply sendCapsule_keeps
    | with_reducible apply notice_keeps
    | with_reducible apply writeEntry_keeps
    | with_reducible apply modQ_keeps
    | fail_if_no_progress (with_reducible refine keeps_mk_iff.2 ?_)
    | dsimp only
    | split
    | intro _)

theorem execInterruptAggregationExpiry_keeps {a : State} {qid : Nat} {s : State} (hk : Keeps a s) :
    KeepsNext a (execInterruptAggregationExpiry qid s) := by
  unfold execInterruptAggregationExpiry
  repeat' (first
    | with_reducible refine keepsNext_next ?_
    | with_reducible refine keepsNext_ite ?_ ?_
    | with_reducible assumption
    | with_reducible apply modQ_keeps
    | with_reducible apply emit_keeps
    | split)

theorem execHostMemoryFailure_keeps {a : State} {qid cid kind address : Nat} {s : State} (hk : Keeps a s) :
    KeepsNext a (execHostMemoryFailure qid cid kind address s) := by
  unfold execHostMemoryFailure
  repeat' (first
    | with_reducible refine keepsNext_next ?_
    | with_reducible refine keepsNext_ite ?_ ?_
    | with_reducible assumption
    | with_reducible apply keeps_ite
    | with_reducible apply endIfSettled_keeps
    | with_reducible apply refuseCmd_keeps
    | with_reducible apply failFrom_keeps
    | with_reducible apply modQ_keeps
    | with_reducible apply modGqp_keeps
    | with_reducible apply raise_keeps
    | dsimp only
    | split)

theorem execCreateQueuePair_keeps {a : State} {path : BcsPath} {input : Bytes} {s : State} (hk : Keeps a s) :
    KeepsNext a (execCreateQueuePair path input s) := by
  unfold execCreateQueuePair
  repeat' (first
    | with_reducible refine keepsNext_next ?_
    | with_reducible assumption
    | with_reducible apply checked_keeps
    | with_reducible apply bcs_keeps
    | with_reducible apply success_keeps
    | with_reducible apply modGqp_keeps
    | with_reducible apply raise_keeps
    | dsimp only
    | split
    | intro _)

theorem execDeleteQueuePair_keeps {a : State} {path : BcsPath} {input : Bytes} {s : State} (hk : Keeps a s) :
    KeepsNext a (execDeleteQueuePair path input s) := by
  unfold execDeleteQueuePair
  repeat' (first
    | with_reducible refine keepsNext_next ?_
    | with_reducible assumption
    | with_reducible apply deleteQueue_keeps
    | with_reducible apply inBackground_keeps
    | with_reducible apply bcs_keeps
    | with_reducible apply invalid_keeps
    | dsimp only
    | split
    | intro _)

theorem execQueryQueuePair_keeps {a : State} {path : BcsPath} {input : Bytes} {s : State} (hk : Keeps a s) :
    KeepsNext a (execQueryQueuePair path input s) := by
  unfold execQueryQueuePair
  repeat' (first
    | with_reducible refine keepsNext_next ?_
    | with_reducible assumption
    | with_reducible apply bcs_keeps
    | with_reducible apply success_keeps
    | with_reducible apply invalid_keeps
    | dsimp only
    | split
    | intro _)

end Sys2Proof.Machine
end

