-- ==== Sys2Proof/Laws/Keeps3.lean ====
section
/-! SUPPORT. `Keeps` through the operations of Transform, Timebase, Net, Cxl, Pair. -/

set_option linter.unusedTactic false
set_option linter.unreachableTactic false
set_option linter.unusedVariables false

namespace Sys2Proof.Machine

/-! ### Transform -/

theorem modTe_keeps {a : State} {f : Te → Te} {s : State} (hk : Keeps a s) :
    Keeps a (modTe f s) := by
  unfold modTe
  repeat' (first
    | with_reducible assumption
    | fail_if_no_progress (with_reducible refine keeps_mk_iff.2 ?_))

theorem deliver_keeps {a : State} {qid : Nat} {q : QueuePair} {c : GqpCmd} {out result : Bytes} {s : State} (hk : Keeps a s) :
    Keeps a (deliver qid q c out result s) := by
  unfold deliver
  repeat' (first
    | with_reducible assumption
    | with_reducible apply keeps_ite
    | with_reducible apply launchPieces_keeps
    | with_reducible apply sendOut_keeps
    | with_reducible apply complete_keeps
    | with_reducible apply modCmd_keeps
    | with_reducible apply refuseWrite_keeps
    | with_reducible apply emit_keeps
    | dsimp only
    | split
    | intro _)

theorem finishJob_keeps {a : State} {j : TeJob} {s : State} (hk : Keeps a s) :
    Keeps a (finishJob j s) := by
  unfold finishJob
  repeat' (first
    | with_reducible assumption
    | with_reducible apply keeps_ite
    | with_reducible apply deliver_keeps
    | with_reducible apply complete_keeps
    | with_reducible apply poisonBites_keeps
    | with_reducible apply raiseLimited_keeps
    | dsimp only
    | split
    | intro _)

theorem setJobs_keeps {a : State} {st : Nat} {l : List TeJob} {s : State} (hk : Keeps a s) :
    Keeps a (setJobs st l s) := by
  unfold setJobs
  repeat' (first
    | with_reducible assumption
    | with_reducible apply modTe_keeps)

theorem beginJob_keeps {a : State} {j : TeJob} {e : Bytes} {dom : Nat} {s : State} (hk : Keeps a s) :
    ∀ t, beginJob j e dom s = some t → Keeps a t.2 := by
  intro t ht
  unfold beginJob at ht
  dsimp only at ht
  split at ht
  · simp only [Option.map_eq_some_iff] at ht
    obtain ⟨k, _, rfl⟩ := ht
    exact bumpNonce_keeps hk
  · split at ht
    · simp only [Option.map_eq_some_iff] at ht
      obtain ⟨k, _, rfl⟩ := ht
      exact hk
    · cases ht
      exact hk

theorem serveGqp_keeps {a : State} {st : Nat} {s : State} (hk : Keeps a s) :
    Keeps a (serveGqp st s) := by
  unfold serveGqp
  split
  · exact hk
  · split
    · refine keeps_ite ?_ fun _ => noteNonceWait_keeps hk
      split
      · exact complete_keeps (setJobs_keeps hk)
      · rename_i x j' s' e
        have h1 : Keeps a s' := by
          split at e
          · cases e
            exact hk
          · exact beginJob_keeps hk _ e
        exact keeps_ite (setJobs_keeps h1) fun _ => finishJob_keeps (setJobs_keeps h1)
    · exact setJobs_keeps hk

theorem serveStream_keeps {a : State} {st : Nat} {s : State} (hk : Keeps a s) :
    Keeps a (serveStream st s) := by
  unfold serveStream
  refine keeps_ite (keeps_ite ?_ fun _ => ?_) fun _ => serveGqp_keeps hk
  · exact keeps_any (KeepsEv.refl _) (KeepsTrust.refl _) id id id id hk
  · exact keeps_any (KeepsEv.refl _) (KeepsTrust.refl _) id id id id hk

theorem execTransformCycle_keeps {a : State} {s : State} (hk : Keeps a s) :
    KeepsNext a (execTransformCycle s) := by
  unfold execTransformCycle
  repeat' (first
    | with_reducible refine keepsNext_next ?_
    | with_reducible refine keepsNext_ite ?_ ?_
    | with_reducible assumption
    | with_reducible apply serveStream_keeps
    | fail_if_no_progress (with_reducible refine keeps_mk_iff.2 ?_)
    | dsimp only
    | split)

theorem countBacklog_keeps {a : State} {s : State} (hk : Keeps a s) :
    Keeps a (countBacklog s) := by
  unfold countBacklog
  repeat' (first
    | with_reducible assumption
    | fail_if_no_progress (with_reducible refine keeps_mk_iff.2 ?_))

theorem execBacklogLimit_keeps {a : State} {stream : Nat} {s : State} (hk : Keeps a s) :
    KeepsNext a (execBacklogLimit stream s) := by
  unfold execBacklogLimit
  repeat' (first
    | with_reducible refine keepsNext_next ?_
    | with_reducible refine keepsNext_ite ?_ ?_
    | with_reducible assumption
    | with_reducible apply raise_keeps
    | fail_if_no_progress (with_reducible refine keeps_mk_iff.2 ?_))

theorem failJobs_keeps {a : State} {s : State} (hk : Keeps a s) :
    Keeps a (failJobs s) := by
  unfold failJobs
  repeat' (first
    | with_reducible assumption
    | with_reducible refine keeps_foldl ?_ (fun _ _ _ => ?_)
    | with_reducible apply modTe_keeps
    | with_reducible apply complete_keeps)

theorem execSliceFault_keeps {a : State} {slice : Nat} {s : State} (hk : Keeps a s) :
    KeepsNext a (execSliceFault slice s) := by
  unfold execSliceFault
  repeat' (first
    | with_reducible refine keepsNext_next ?_
    | with_reducible refine keepsNext_ite ?_ ?_
    | with_reducible assumption
    | with_reducible apply failJobs_keeps
    | with_reducible apply modTe_keeps
    | with_reducible apply raise_keeps
    | fail_if_no_progress (with_reducible refine keeps_mk_iff.2 ?_))

theorem execSpareSliceActivation_keeps {a : State} {s : State} (hk : Keeps a s) :
    KeepsNext a (execSpareSliceActivation s) := by
  unfold execSpareSliceActivation
  repeat' (first
    | with_reducible refine keepsNext_next ?_
    | with_reducible refine keepsNext_ite ?_ ?_
    | with_reducible assumption
    | with_reducible apply modTe_keeps
    | with_reducible apply noteSpare_keeps
    | with_reducible apply wearLog_keeps
    | with_reducible apply raise_keeps
    | dsimp only
    | split)

theorem execNonceWindowReservation_keeps {a : State} {window : Nat} {s : State} (hk : Keeps a s) :
    KeepsNext a (execNonceWindowReservation window s) := by
  unfold execNonceWindowReservation
  repeat' (first
    | with_reducible refine keepsNext_next ?_
    | with_reducible refine keepsNext_ite ?_ ?_
    | with_reducible assumption
    | with_reducible apply modTe_keeps
    | with_reducible apply windowRecord_keeps
    | with_reducible apply raise_keeps
    | dsimp only
    | split)

theorem execKeySlotChangeEffect_keeps {a : State} {slot : Nat} {s : State} (hk : Keeps a s) :
    KeepsNext a (execKeySlotChangeEffect slot s) := by
  unfold execKeySlotChangeEffect
  repeat' (first
    | with_reducible refine keepsNext_next ?_
    | with_reducible assumption
    | with_reducible apply modTe_keeps)

/-! ### Timebase -/

theorem modTb_keeps {a : State} {f : Timebase → Timebase} {s : State} (hk : Keeps a s) :
    Keeps a (modTb f s) := by
  unfold modTb
  repeat' (first
    | with_reducible assumption
    | fail_if_no_progress (with_reducible refine keeps_mk_iff.2 ?_))

theorem latchBeat_keeps {a : State} {s : State} (hk : Keeps a s) :
    Keeps a (latchBeat s) := by
  unfold latchBeat
  repeat' (first
    | with_reducible assumption
    | with_reducible apply modTb_keeps)

theorem latchTod_keeps {a : State} {s : State} (hk : Keeps a s) :
    Keeps a (latchTod s) := by
  unfold latchTod
  repeat' (first
    | with_reducible assumption
    | with_reducible apply modTb_keeps)

theorem latchNonce_keeps {a : State} {s : State} (hk : Keeps a s) :
    Keeps a (latchNonce s) := by
  unfold latchNonce
  repeat' (first
    | with_reducible assumption
    | with_reducible apply modTe_keeps)

theorem latchUeLog_keeps {a : State} {s : State} (hk : Keeps a s) :
    Keeps a (latchUeLog s) := by
  unfold latchUeLog
  repeat' (first
    | with_reducible assumption
    | fail_if_no_progress (with_reducible refine keeps_mk_iff.2 ?_))

theorem execBeatLoRead_keeps {a : State} {s : State} (hk : Keeps a s) :
    KeepsNext a (execBeatLoRead s) := by
  unfold execBeatLoRead
  repeat' (first
    | with_reducible refine keepsNext_next ?_
    | with_reducible assumption
    | with_reducible apply latchBeat_keeps
    | with_reducible apply emit_keeps)

theorem execTodLoRead_keeps {a : State} {s : State} (hk : Keeps a s) :
    KeepsNext a (execTodLoRead s) := by
  unfold execTodLoRead
  repeat' (first
    | with_reducible refine keepsNext_next ?_
    | with_reducible assumption
    | with_reducible apply latchTod_keeps
    | with_reducible apply emit_keeps)

theorem execTeNctrLoRead_keeps {a : State} {s : State} (hk : Keeps a s) :
    KeepsNext a (execTeNctrLoRead s) := by
  unfold execTeNctrLoRead
  repeat' (first
    | with_reducible refine keepsNext_next ?_
    | with_reducible assumption
    | with_reducible apply latchNonce_keeps
    | with_reducible apply emit_keeps)

theorem execUeLogLoRead_keeps {a : State} {s : State} (hk : Keeps a s) :
    KeepsNext a (execUeLogLoRead s) := by
  unfold execUeLogLoRead
  repeat' (first
    | with_reducible refine keepsNext_next ?_
    | with_reducible assumption
    | with_reducible apply latchUeLog_keeps
    | with_reducible apply emit_keeps)

theorem holdPps_keeps {a : State} {s : State} (hk : Keeps a s) :
    Keeps a (holdPps s) := by
  unfold holdPps
  repeat' (first
    | with_reducible assumption
    | with_reducible apply keeps_ite
    | with_reducible apply modTb_keeps
    | with_reducible apply emit_keeps
    | intro _)

theorem enterMode_keeps {a : State} {m : TbMode} {s : State} (hk : Keeps a s) :
    Keeps a (enterMode m s) := by
  unfold enterMode
  repeat' (first
    | with_reducible assumption
    | with_reducible apply keeps_ite
    | with_reducible apply holdPps_keeps
    | with_reducible apply modTb_keeps
    | with_reducible apply raise_keeps
    | intro _)

theorem stepTime_keeps {a : State} {off : Int} {s : State} (hk : Keeps a s) :
    Keeps a (stepTime off s) := by
  unfold stepTime
  repeat' (first
    | with_reducible assumption
    | with_reducible apply modTb_keeps
    | with_reducible apply raise_keeps)

theorem slew_keeps {a : State} {s : State} (hk : Keeps a s) :
    Keeps a (slew s) := by
  unfold slew
  repeat' (first
    | with_reducible assumption
    | with_reducible apply modTb_keeps
    | with_reducible apply advance_keeps)

theorem takeOffset_keeps {a : State} {off : Int} {s : State} (hk : Keeps a s) :
    Keeps a (takeOffset off s) := by
  unfold takeOffset
  repeat' (first
    | with_reducible assumption
    | with_reducible apply keeps_ite
    | with_reducible apply slew_keeps
    | with_reducible apply stepTime_keeps
    | with_reducible apply enterMode_keeps
    | with_reducible apply modTb_keeps
    | split
    | intro _)

theorem execPtpMessage_keeps {a : State} {port : Nat} {_sync : Bool} {offset : Int} {s : State} (hk : Keeps a s) :
    KeepsNext a (execPtpMessage port _sync offset s) := by
  unfold execPtpMessage
  repeat' (first
    | with_reducible refine keepsNext_next ?_
    | with_reducible refine keepsNext_ite ?_ ?_
    | with_reducible assumption
    | with_reducible apply takeOffset_keeps)

theorem loseSource_keeps {a : State} {pps : Bool} {s : State} (hk : Keeps a s) :
    Keeps a (loseSource pps s) := by
  unfold loseSource
  repeat' (first
    | with_reducible assumption
    | with_reducible apply keeps_ite
    | with_reducible apply enterMode_keeps
    | with_reducible apply modTb_keeps
    | with_reducible apply raise_keeps
    | split
    | intro _)

theorem execPpsInEdge_keeps {a : State} {rising : Bool} {offset : Int} {s : State} (hk : Keeps a s) :
    KeepsNext a (execPpsInEdge rising offset s) := by
  unfold execPpsInEdge
  repeat' (first
    | with_reducible refine keepsNext_next ?_
    | with_reducible refine keepsNext_ite ?_ ?_
    | with_reducible assumption
    | with_reducible apply keeps_ite
    | with_reducible apply loseSource_keeps
    | with_reducible apply takeOffset_keeps
    | with_reducible apply modTb_keeps
    | intro _)

theorem execTimebaseSourceLost_keeps {a : State} {pps : Bool} {s : State} (hk : Keeps a s) :
    KeepsNext a (execTimebaseSourceLost pps s) := by
  unfold execTimebaseSourceLost
  repeat' (first
    | with_reducible refine keepsNext_next ?_
    | with_reducible refine keepsNext_ite ?_ ?_
    | with_reducible assumption
    | with_reducible apply loseSource_keeps)

theorem execTimebaseLocked_keeps {a : State} {s : State} (hk : Keeps a s) :
    KeepsNext a (execTimebaseLocked s) := by
  unfold execTimebaseLocked
  repeat' (first
    | with_reducible refine keepsNext_next ?_
    | with_reducible refine keepsNext_ite ?_ ?_
    | with_reducible assumption
    | with_reducible apply enterMode_keeps
    | split)

theorem execPpsOutRise_keeps {a : State} {s : State} (hk : Keeps a s) :
    KeepsNext a (execPpsOutRise s) := by
  unfold execPpsOutRise
  repeat' (first
    | with_reducible refine keepsNext_next ?_
    | with_reducible refine keepsNext_ite ?_ ?_
    | with_reducible assumption
    | with_reducible apply modTb_keeps
    | with_reducible apply emit_keeps)

theorem execPpsOutFall_keeps {a : State} {s : State} (hk : Keeps a s) :
    KeepsNext a (execPpsOutFall s) := by
  unfold execPpsOutFall
  repeat' (first
    | with_reducible refine keepsNext_next ?_
    | with_reducible refine keepsNext_ite ?_ ?_
    | with_reducible assumption
    | with_reducible apply modTb_keeps
    | with_reducible apply emit_keeps)

theorem beatTick_keeps {a : State} {s : State} (hk : Keeps a s) :
    Keeps a (beatTick s) := by
  unfold beatTick
  repeat' (first
    | with_reducible assumption
    | with_reducible apply modTb_keeps)

theorem execGetSlotTable_keeps {a : State} {path : BcsPath} {input : Bytes} {s : State} (hk : Keeps a s) :
    KeepsNext a (execGetSlotTable path input s) := by
  unfold execGetSlotTable
  repeat' (first
    | with_reducible refine keepsNext_next ?_
    | with_reducible assumption
    | with_reducible apply checked_keeps
    | with_reducible apply bcs_keeps
    | with_reducible apply success_keeps
    | dsimp only
    | split
    | intro _)

theorem execSetSlotTable_keeps {a : State} {path : BcsPath} {input : Bytes} {s : State} (hk : Keeps a s) :
    KeepsNext a (execSetSlotTable path input s) := by
  unfold execSetSlotTable
  repeat' (first
    | with_reducible refine keepsNext_next ?_
    | with_reducible assumption
    | with_reducible apply checked_keeps
    | with_reducible apply bcs_keeps
    | with_reducible apply success_keeps
    | fail_if_no_progress (with_reducible refine keeps_mk_iff.2 ?_)
    | dsimp only
    | split
    | intro _)

theorem execActivateSlotTable_keeps {a : State} {path : BcsPath} {input : Bytes} {s : State} (hk : Keeps a s) :
    KeepsNext a (execActivateSlotTable path input s) := by
  unfold execActivateSlotTable
  repeat' (first
    | with_reducible refine keepsNext_next ?_
    | with_reducible assumption
    | with_reducible apply bcs_keeps
    | with_reducible apply invalid_keeps
    | with_reducible apply answer_keeps
    | with_reducible apply raise_keeps
    | fail_if_no_progress (with_reducible refine keeps_mk_iff.2 ?_)
    | dsimp only
    | split
    | intro _)

theorem execSlotTableSwap_keeps {a : State} {s : State} (hk : Keeps a s) :
    KeepsNext a (execSlotTableSwap s) := by
  unfold execSlotTableSwap
  repeat' (first
    | with_reducible refine keepsNext_next ?_
    | with_reducible refine keepsNext_ite ?_ ?_
    | with_reducible assumption
    | with_reducible apply answer_keeps
    | with_reducible apply raise_keeps
    | fail_if_no_progress (with_reducible refine keeps_mk_iff.2 ?_)
    | dsimp only
    | split)

/-! ### Net -/

theorem dropOn_keeps {a : State} {port : Nat} {s : State} (hk : Keeps a s) :
    Keeps a (dropOn port s) := by
  unfold dropOn
  repeat' (first
    | with_reducible assumption
    | with_reducible apply modNet_keeps)

theorem portErr_keeps {a : State} {port : Nat} {b : BitVec 4} {s : State} (hk : Keeps a s) :
    Keeps a (portErr port b s) := by
  unfold portErr
  repeat' (first
    | with_reducible assumption
    | with_reducible apply modNet_keeps)

theorem refreshHead_keeps {a : State} {i : Nat} {s : State} (hk : Keeps a s) :
    Keeps a (refreshHead i s) := by
  unfold refreshHead
  repeat' (first
    | with_reducible assumption
    | with_reducible apply keeps_ite
    | with_reducible apply modQp_keeps
    | dsimp only
    | split
    | intro _)

theorem matchTriggers_keeps {a : State} {i imm : Nat} {s : State} (hk : Keeps a s) :
    Keeps a (matchTriggers i imm s) := by
  unfold matchTriggers
  repeat' (first
    | with_reducible assumption
    | with_reducible apply keeps_ite
    | with_reducible refine keeps_foldl ?_ (fun _ _ _ => ?_)
    | with_reducible apply modNet_keeps
    | split
    | intro _)

theorem postCpl_keeps {a : State} {i kind : Nat} {error : Bool} {imm : Option Nat} {status length slot msn : Nat} {usesSlot : Bool} {s : State} (hk : Keeps a s) :
    Keeps a (postCpl i kind error imm status length slot msn usesSlot s) := by
  unfold postCpl
  repeat' (first
    | with_reducible assumption
    | with_reducible apply keeps_ite
    | with_reducible apply matchTriggers_keeps
    | with_reducible apply modQp_keeps
    | with_reducible apply submitWrite_keeps
    | dsimp only
    | split
    | intro _)

theorem endWr_keeps {a : State} {i status : Nat} {w : SentWr} {s : State} (hk : Keeps a s) :
    Keeps a (endWr i status w s) := by
  unfold endWr
  repeat' (first
    | with_reducible assumption
    | with_reducible apply keeps_ite
    | with_reducible apply postCpl_keeps
    | with_reducible apply modNet_keeps
    | with_reducible apply advance_keeps
    | intro _)

theorem qpFail_keeps {a : State} {i cause status psn : Nat} {s : State} (hk : Keeps a s) :
    Keeps a (qpFail i cause status psn s) := by
  unfold qpFail
  repeat' (first
    | with_reducible assumption
    | with_reducible apply keeps_ite
    | with_reducible refine keeps_foldl ?_ (fun _ _ _ => ?_)
    | with_reducible apply endWr_keeps
    | with_reducible apply dropQpQueues_keeps
    | with_reducible apply modQp_keeps
    | with_reducible apply modNet_keeps
    | with_reducible apply abandonUnit_keeps
    | with_reducible apply raise_keeps
    | dsimp only
    | split
    | intro _)

theorem nakFail_keeps {a : State} {i psn syndrome : Nat} {s : State} (hk : Keeps a s) :
    Keeps a (nakFail i psn syndrome s) := by
  unfold nakFail
  repeat' (first
    | with_reducible assumption
    | with_reducible apply qpFail_keeps
    | with_reducible apply countQp_keeps
    | with_reducible apply emit_keeps)

theorem rnrNak_keeps {a : State} {i psn code : Nat} {s : State} (hk : Keeps a s) :
    Keeps a (rnrNak i psn code s) := by
  unfold rnrNak
  repeat' (first
    | with_reducible assumption
    | with_reducible apply countQp_keeps
    | with_reducible apply emit_keeps)

theorem noteRefused_keeps {a : State} {rkey va len : Nat} {s : State} (hk : Keeps a s) :
    Keeps a (noteRefused rkey va len s) := by
  unfold noteRefused
  repeat' (first
    | with_reducible assumption
    | with_reducible apply keeps_ite
    | with_reducible apply refuseWrite_keeps
    | dsimp only
    | split)

theorem sendCnp_keeps {a : State} {i : Nat} {s : State} (hk : Keeps a s) :
    Keeps a (sendCnp i s) := by
  unfold sendCnp
  repeat' (first
    | with_reducible assumption
    | with_reducible apply keeps_ite
    | with_reducible apply modQp_keeps
    | with_reducible apply emit_keeps
    | split
    | intro _)

theorem answerRx_keeps {a : State} {i : Nat} {m : RxMsg} {s : State} (hk : Keeps a s) :
    Keeps a (answerRx i m s) := by
  unfold answerRx
  repeat' (first
    | with_reducible assumption
    | with_reducible apply keeps_ite
    | with_reducible apply nakFail_keeps
    | with_reducible apply postCpl_keeps
    | with_reducible apply modQp_keeps
    | with_reducible apply poisonBites_keeps
    | with_reducible apply emit_keeps
    | dsimp only
    | split
    | intro _)

theorem flushRx_keeps {a : State} {i : Nat} {y0 : Nat} {s : State} (hk : Keeps a s) :
    Keeps a (flushRx i y0 s) := by
  induction y0 generalizing s with
  | zero => exact hk
  | succ n ih =>
    unfold flushRx
    split
    · exact hk
    · split
      · exact hk
      · exact keeps_ite hk fun _ => ih (answerRx_keeps (modQp_keeps hk))

theorem flushAll_keeps {a : State} {i : Nat} {s : State} (hk : Keeps a s) :
    Keeps a (flushAll i s) := by
  unfold flushAll
  repeat' (first
    | with_reducible assumption
    | with_reducible apply flushRx_keeps
    | split)

theorem acceptRx_keeps {a : State} {i : Nat} {m : RxMsg} {s : State} (hk : Keeps a s) :
    Keeps a (acceptRx i m s) := by
  unfold acceptRx
  repeat' (first
    | with_reducible assumption
    | with_reducible apply flushAll_keeps
    | with_reducible apply countQp_keeps
    | with_reducible apply modQp_keeps)

theorem rxPieceDone_keeps {a : State} {i psn : Nat} {s : State} (hk : Keeps a s) :
    Keeps a (rxPieceDone i psn s) := by
  unfold rxPieceDone
  repeat' (first
    | with_reducible assumption
    | with_reducible apply flushAll_keeps
    | with_reducible apply modQp_keeps)

theorem takeWrite_keeps {a : State} {i psn r off : Nat} {data : Bytes} {s : State} (hk : Keeps a s) :
    KeepsSome a (takeWrite i psn r off data s) := by
  unfold takeWrite
  repeat' (first
    | with_reducible exact keepsSome_none
    | with_reducible refine keepsSome_some ?_
    | with_reducible refine keepsSome_ite ?_ ?_
    | with_reducible refine keepsSome_foldlM ?_ (fun _ _ _ => ?_)
    | with_reducible assumption
    | with_reducible apply submitWrite_keeps
    | with_reducible apply forwardWrite_keeps
    | with_reducible apply admitUnit_keeps
    | dsimp only
    | split)

theorem runWrite_keeps {a : State} {i : Nat} {q : Qp} {req : RdmaReq} {data : Bytes} {imm : Option Nat} {s : State} (hk : Keeps a s) :
    Keeps a (runWrite i q req data imm s) := by
  unfold runWrite
  repeat' (first
    | with_reducible assumption
    | with_reducible apply keeps_ite
    | with_reducible refine keepsSome_of (by with_reducible assumption) (takeWrite_keeps ?_)
    | with_reducible apply acceptRx_keeps
    | with_reducible apply noteRefused_keeps
    | with_reducible apply rnrNak_keeps
    | with_reducible apply nakFail_keeps
    | dsimp only
    | split
    | intro _)

theorem runSend_keeps {a : State} {i : Nat} {q : Qp} {req : RdmaReq} {data : Bytes} {imm : Option Nat} {s : State} (hk : Keeps a s) :
    Keeps a (runSend i q req data imm s) := by
  unfold runSend
  repeat' (first
    | with_reducible assumption
    | with_reducible apply keeps_ite
    | with_reducible refine keepsSome_of (by with_reducible assumption) (takeWrite_keeps ?_)
    | with_reducible apply acceptRx_keeps
    | with_reducible apply rnrNak_keeps
    | with_reducible apply nakFail_keeps
    | with_reducible apply modQp_keeps
    | dsimp only
    | split
    | intro _)

theorem runRead_keeps {a : State} {i : Nat} {q : Qp} {req : RdmaReq} {len : Nat} {fresh : Bool} {s : State} (hk : Keeps a s) :
    Keeps a (runRead i q req len fresh s) := by
  unfold runRead
  repeat' (first
    | with_reducible assumption
    | with_reducible apply keeps_ite
    | with_reducible refine keeps_foldl ?_ (fun _ _ _ => ?_)
    | with_reducible apply rxPieceDone_keeps
    | with_reducible apply acceptRx_keeps
    | with_reducible apply answerRx_keeps
    | with_reducible apply rnrNak_keeps
    | with_reducible apply nakFail_keeps
    | with_reducible apply modQp_keeps
    | with_reducible apply readHere_keeps
    | with_reducible apply forwardRead_keeps
    | dsimp only
    | split
    | intro _)

theorem runAtomic_keeps {b0 : State} {i : Nat} {q : Qp} {req : RdmaReq} {kind : Nat} {a b : BitVec 64} {s : State} (hk : Keeps b0 s) :
    Keeps b0 (runAtomic i q req kind a b s) := by
  unfold runAtomic
  repeat' (first
    | with_reducible assumption
    | with_reducible apply keeps_ite
    | with_reducible refine keepsSome_of (by with_reducible assumption) (takeWrite_keeps ?_)
    | with_reducible apply acceptRx_keeps
    | with_reducible apply noteRefused_keeps
    | with_reducible apply rnrNak_keeps
    | with_reducible apply nakFail_keeps
    | with_reducible apply poisonBites_keeps
    | with_reducible apply forwardAccess_keeps
    | dsimp only
    | split
    | intro _)

theorem runFlush_keeps {a : State} {i : Nat} {q : Qp} {req : RdmaReq} {len : Nat} {s : State} (hk : Keeps a s) :
    Keeps a (runFlush i q req len s) := by
  unfold runFlush
  repeat' (first
    | with_reducible assumption
    | with_reducible apply acceptRx_keeps
    | with_reducible apply rnrNak_keeps
    | with_reducible apply nakFail_keeps
    | dsimp only
    | split)

theorem runDuplicate_keeps {a : State} {i : Nat} {q : Qp} {msg : RdmaMsg} {s : State} (hk : Keeps a s) :
    Keeps a (runDuplicate i q msg s) := by
  unfold runDuplicate
  repeat' (first
    | with_reducible assumption
    | with_reducible apply keeps_ite
    | with_reducible apply runRead_keeps
    | with_reducible apply emit_keeps
    | split
    | intro _)

theorem takeCapsule_keeps {a : State} {i psn packets : Nat} {b : Bytes} {s : State} (hk : Keeps a s) :
    Keeps a (takeCapsule i psn packets b s) := by
  unfold takeCapsule
  repeat' (first
    | with_reducible assumption
    | with_reducible apply keeps_ite
    | with_reducible apply acceptRx_keeps
    | with_reducible apply rnrNak_keeps
    | with_reducible apply nakFail_keeps
    | with_reducible apply modQ_keeps
    | dsimp only
    | split
    | intro _)

theorem takePieceWrite_keeps {a : State} {i psn packets key imm va : Nat} {data : Bytes} {s : State} (hk : Keeps a s) :
    Keeps a (takePieceWrite i psn packets key imm va data s) := by
  unfold takePieceWrite
  repeat' (first
    | with_reducible assumption
    | with_reducible apply keeps_ite
    | with_reducible apply acceptRx_keeps
    | with_reducible apply nakFail_keeps
    | with_reducible apply endIfSettled_keeps
    | with_reducible apply failFrom_keeps
    | with_reducible apply modCmd_keeps
    | with_reducible apply fillUnit_keeps
    | with_reducible apply forwardWrite_keeps
    | with_reducible apply stageUnit_keeps
    | dsimp only
    | split
    | intro _)

theorem runMsg_keeps {a : State} {i : Nat} {msg : RdmaMsg} {s : State} (hk : Keeps a s) :
    Keeps a (runMsg i msg s) := by
  unfold runMsg
  split
  · exact hk
  · dsimp only
    refine keeps_ite ?_ fun _ => countQp_keeps (dropOn_keeps hk)
    have h2 : Keeps a (if (msgReq msg).ecn = true then sendCnp i s else s) := keeps_ite hk fun h => sendCnp_keeps h
    generalize (if (msgReq msg).ecn = true then sendCnp i s else s) = s1 at h2 ⊢
    have h3 : Keeps a (modNet (fun n => { n with useClock := n.useClock + 1 }) (modQp i (fun q => { q with lastUse := s1.net.useClock }) s1)) :=
      modNet_keeps (modQp_keeps h2)
    generalize modNet (fun n => { n with useClock := n.useClock + 1 }) (modQp i (fun q => { q with lastUse := s1.net.useClock }) s1) = s2 at h3 ⊢
    rename_i q _
    have h4 : Keeps a (if slotsFree q < 4 then refreshHead i s2 else s2) := keeps_ite h3 fun h => refreshHead_keeps h
    generalize (if slotsFree q < 4 then refreshHead i s2 else s2) = s3 at h4 ⊢
    generalize (qpAt i s3).getD q = q'
    refine keeps_ite (keeps_ite (keeps_ite ?_ fun _ => nakFail_keeps h4) fun _ => countQp_keeps (emit_keeps h4)) fun _ => runDuplicate_keeps h4
    split
    · exact keeps_ite (runWrite_keeps h4) fun _ => takePieceWrite_keeps h4
    · exact keeps_ite (runSend_keeps h4) fun _ => takeCapsule_keeps h4
    · exact runRead_keeps h4
    · exact runAtomic_keeps h4
    · exact runFlush_keeps h4

theorem arrive_keeps {a : State} {i : Nat} {msg : RdmaMsg} {s : State} (hk : Keeps a s) :
    Keeps a (arrive i msg s) := by
  unfold arrive
  split
  · exact hk
  · refine keeps_ite (keeps_ite (keeps_ite ?_ fun _ => modQp_keeps (modNet_keeps hk)) fun _ => runMsg_keeps hk) fun _ => ?_
    · exact raiseLimited_keeps (countQp_keeps (portErr_keeps (dropOn_keeps hk)))
    · exact countQp_keeps (dropOn_keeps hk)

theorem appendRun_keeps {a : State} {f : FiredRun} {s : State} (hk : Keeps a s) :
    Keeps a (appendRun f s) := by
  unfold appendRun
  repeat' (first
    | with_reducible assumption
    | with_reducible apply keeps_ite
    | with_reducible apply modQp_keeps
    | dsimp only
    | split
    | intro _)

theorem triggerAppend_keeps {a : State} {s : State} (hk : Keeps a s) :
    Keeps a (triggerAppend s) := by
  unfold triggerAppend
  repeat' (first
    | with_reducible assumption
    | with_reducible refine keeps_foldl ?_ (fun _ _ _ => ?_)
    | with_reducible apply appendRun_keeps
    | with_reducible apply modNet_keeps)

theorem localError_keeps {a : State} {i status : Nat} {w : SentWr} {s : State} (hk : Keeps a s) :
    Keeps a (localError i status w s) := by
  unfold localError
  repeat' (first
    | with_reducible assumption
    | with_reducible apply qpFail_keeps
    | with_reducible apply postCpl_keeps
    | with_reducible apply modQp_keeps
    | with_reducible apply advance_keeps)

theorem issueWr_keeps {a : State} {i : Nat} {q : Qp} {w : SentWr} {s : State} (hk : Keeps a s) :
    Keeps a (issueWr i q w s) := by
  unfold issueWr
  extract_lets b op len r off reads writes n rangeOk mtu packets go
  have hgo : ∀ body s, Keeps a s → Keeps a (go body s) := fun _ _ h => countQp_keeps (emit_keeps (modQp_keeps h))
  clear_value go
  refine keeps_ite (keeps_ite (keeps_ite (hgo _ _ hk) fun _ => ?_) fun _ => localError_keeps hk) fun _ => localError_keeps hk
  split
  · have hx : Keeps a (readHere r off len s).2.2 := readHere_keeps hk
    split
    · exact hgo _ _ hx
    · exact localError_keeps (poisonBites_keeps (keeps_ite hx fun h => emit_keeps h))
  · exact forwardRead_keeps (modQp_keeps hk)
  · exact hk
  · exact localError_keeps hk

theorem completeAcked_keeps {a : State} {i psn : Nat} {y0 : Nat} {s : State} (hk : Keeps a s) :
    Keeps a (completeAcked i psn y0 s) := by
  induction y0 generalizing s with
  | zero => exact hk
  | succ n ih =>
    unfold completeAcked
    split
    · exact hk
    · split
      · exact hk
      · exact keeps_ite hk fun _ => ih (endWr_keeps (modQp_keeps hk))

theorem finishWr_keeps {a : State} {i psn : Nat} {s : State} (hk : Keeps a s) :
    Keeps a (finishWr i psn s) := by
  unfold finishWr
  repeat' (first
    | with_reducible assumption
    | with_reducible apply endWr_keeps
    | with_reducible apply modQp_keeps
    | split)

theorem storeResponse_keeps {a : State} {i psn : Nat} {data : Bytes} {s : State} (hk : Keeps a s) :
    Keeps a (storeResponse i psn data s) := by
  unfold storeResponse
  repeat' (first
    | with_reducible assumption
    | with_reducible apply keeps_ite
    | with_reducible apply finishWr_keeps
    | with_reducible apply modQp_keeps
    | with_reducible apply submitWrite_keeps
    | with_reducible apply forwardWrite_keeps
    | dsimp only
    | split
    | intro _)

theorem resendFrom_keeps {a : State} {i psn : Nat} {s : State} (hk : Keeps a s) :
    Keeps a (resendFrom i psn s) := by
  unfold resendFrom
  repeat' (first
    | with_reducible assumption
    | with_reducible apply countQp_keeps
    | with_reducible apply modQp_keeps
    | dsimp only
    | split)

theorem mpAck_keeps {a : State} {i : Nat} {s : State} (hk : Keeps a s) :
    Keeps a (mpAck i s) := by
  unfold mpAck
  repeat' (first
    | with_reducible assumption
    | with_reducible apply modQp_keeps
    | with_reducible apply emit_keeps
    | split)

theorem mpNak_keeps {a : State} {i msn syndrome cause : Nat} {s : State} (hk : Keeps a s) :
    Keeps a (mpNak i msn syndrome cause s) := by
  unfold mpNak
  repeat' (first
    | with_reducible assumption
    | with_reducible apply qpFail_keeps
    | with_reducible apply countQp_keeps
    | with_reducible apply emit_keeps)

theorem mpAckSend_keeps {a : State} {s : State} (hk : Keeps a s) :
    Keeps a (mpAckSend s) := by
  unfold mpAckSend
  repeat' (first
    | with_reducible assumption
    | with_reducible refine keeps_foldl ?_ (fun _ _ _ => ?_)
    | with_reducible apply mpAck_keeps)

theorem raiseCredit_keeps {a : State} {i : Nat} {s : State} (hk : Keeps a s) :
    Keeps a (raiseCredit i s) := by
  unfold raiseCredit
  repeat' (first
    | with_reducible assumption
    | with_reducible apply keeps_ite
    | with_reducible apply modQp_keeps
    | dsimp only
    | split)

theorem passReads_keeps {a : State} {i : Nat} {y0 : Nat} {s : State} (hk : Keeps a s) :
    Keeps a (passReads i y0 s) := by
  induction y0 generalizing s with
  | zero => exact hk
  | succ n ih =>
    unfold passReads
    split
    · exact hk
    · dsimp only
      split
      · exact hk
      · exact ih (mpAck_keeps (modQp_keeps hk))

/-! ### Cxl -/

theorem modCxl_keeps {a : State} {f : Cxl → Cxl} {s : State} (hk : Keeps a s) :
    Keeps a (modCxl f s) := by
  unfold modCxl
  repeat' (first
    | with_reducible assumption
    | fail_if_no_progress (with_reducible refine keeps_mk_iff.2 ?_))

theorem modHead_keeps {a : State} {h : Nat} {f : Head → Head} {s : State} (hk : Keeps a s) :
    Keeps a (modHead h f s) := by
  unfold modHead
  repeat' (first
    | with_reducible assumption
    | with_reducible apply modCxl_keeps)

theorem noteUnmapped_keeps {a : State} {q : CxlReq} {wr : Bool} {s : State} (hk : Keeps a s) :
    Keeps a (noteUnmapped q wr s) := by
  unfold noteUnmapped
  repeat' (first
    | with_reducible assumption
    | with_reducible apply modCxl_keeps
    | with_reducible apply raiseLimited_keeps)

theorem noteUnavailable_keeps {a : State} {r : Nat} {s : State} (hk : Keeps a s) :
    Keeps a (noteUnavailable r s) := by
  unfold noteUnavailable
  repeat' (first
    | with_reducible assumption
    | with_reducible apply raise_keeps
    | dsimp only
    | split
    | refine keeps_ev ?_ ?_
    | exact ⟨Nat.le_refl _, Nat.le_refl _, Nat.le_refl _, Nat.le_refl _, id, id⟩)

theorem answerRead_keeps {a : State} {q : CxlReq} {l : LineRead} {region line : Nat} {s : State} (hk : Keeps a s) :
    Keeps a (answerRead q l region line s) := by
  unfold answerRead
  repeat' (first
    | with_reducible assumption
    | with_reducible apply keeps_ite
    | with_reducible apply poisonBites_keeps
    | with_reducible apply sendData_keeps)

theorem answerPoison_keeps {a : State} {q : CxlReq} {s : State} (hk : Keeps a s) :
    Keeps a (answerPoison q s) := by
  unfold answerPoison
  repeat' (first
    | with_reducible assumption
    | with_reducible apply keeps_ite
    | with_reducible refine keeps_foldl ?_ (fun _ _ _ => ?_)
    | with_reducible apply advance_keeps
    | with_reducible apply sendData_keeps
    | fail_if_no_progress (with_reducible refine keeps_mk_iff.2 ?_)
    | dsimp only
    | split
    | intro _)

theorem stallRead_keeps {a : State} {q : CxlReq} {s : State} (hk : Keeps a s) :
    Keeps a (stallRead q s) := by
  unfold stallRead
  repeat' (first
    | with_reducible assumption
    | with_reducible apply modHead_keeps)

theorem missRead_keeps {a : State} {q : CxlReq} {r line : Nat} {s : State} (hk : Keeps a s) :
    Keeps a (missRead q r line s) := by
  unfold missRead
  repeat' (first
    | with_reducible assumption
    | with_reducible apply keeps_ite
    | with_reducible apply stallRead_keeps
    | with_reducible apply modHead_keeps
    | with_reducible apply wantRange_keeps
    | dsimp only
    | split
    | intro _)

theorem cacheRead_keeps {a : State} {q : CxlReq} {r : Nat} {d : Region} {line : Nat} {s : State} (hk : Keeps a s) :
    Keeps a (cacheRead q r d line s) := by
  unfold cacheRead
  repeat' (first
    | with_reducible assumption
    | with_reducible apply keeps_ite
    | with_reducible apply missRead_keeps
    | with_reducible apply answerRead_keeps
    | with_reducible apply modHead_keeps
    | dsimp only
    | split
    | intro _)

theorem readServed_keeps {a : State} {q : CxlReq} {r : Nat} {d : Region} {off : Nat} {s : State} (hk : Keeps a s) :
    Keeps a (readServed q r d off s) := by
  unfold readServed
  repeat' (first
    | with_reducible assumption
    | with_reducible apply keeps_ite
    | with_reducible apply cacheRead_keeps
    | with_reducible apply modHead_keeps
    | intro _)

theorem cxlRead_keeps {a : State} {q : CxlReq} {s : State} (hk : Keeps a s) :
    Keeps a (cxlRead q s) := by
  unfold cxlRead
  repeat' (first
    | with_reducible assumption
    | with_reducible apply keeps_ite
    | with_reducible apply readServed_keeps
    | with_reducible apply answerPoison_keeps
    | with_reducible apply noteUnavailable_keeps
    | with_reducible apply noteUnmapped_keeps
    | with_reducible apply modHead_keeps
    | with_reducible apply forwardRead_keeps
    | with_reducible apply modPair_keeps
    | dsimp only
    | split
    | intro _)

theorem writePast_keeps {a : State} {q : CxlReq} {r : Nat} {w : LineWrite} {s : State} (hk : Keeps a s) :
    Keeps a (writePast q r w s) := by
  unfold writePast
  repeat' (first
    | with_reducible assumption
    | with_reducible apply submitUnit_keeps)

theorem volatileWrite_keeps {a : State} {q : CxlReq} {r : Nat} {w : LineWrite} {s : State} (hk : Keeps a s) :
    Keeps a (volatileWrite q r w s) := by
  unfold volatileWrite
  repeat' (first
    | with_reducible assumption
    | with_reducible apply keeps_ite
    | with_reducible apply writePast_keeps
    | with_reducible apply modHead_keeps
    | with_reducible apply sendCmp_keeps
    | dsimp only
    | split
    | intro _)

theorem cxlWrite_keeps {a : State} {q : CxlReq} {data : Line} {mask : Mask} {poison : Bool} {s : State} (hk : Keeps a s) :
    Keeps a (cxlWrite q data mask poison s) := by
  unfold cxlWrite
  repeat' (first
    | with_reducible assumption
    | with_reducible apply keeps_ite
    | with_reducible apply volatileWrite_keeps
    | with_reducible apply writePast_keeps
    | with_reducible apply noteUnavailable_keeps
    | with_reducible apply noteUnmapped_keeps
    | with_reducible apply modHead_keeps
    | with_reducible apply forwardWrite_keeps
    | with_reducible apply modPair_keeps
    | with_reducible apply refuseWrite_keeps
    | with_reducible apply sendCmp_keeps
    | dsimp only
    | split
    | intro _)

theorem fwdAnswer_keeps {a : State} {mtag status first : Nat} {data : Bytes} {bad : List Nat} {s : State} (hk : Keeps a s) :
    Keeps a (fwdAnswer mtag status first data bad s) := by
  unfold fwdAnswer
  repeat' (first
    | with_reducible assumption
    | with_reducible apply sendMsg_keeps)

theorem relayFwd_keeps {a : State} {mtag r off : Nat} {op : FwdOp} {s : State} (hk : Keeps a s) :
    Keeps a (relayFwd mtag r off op s) := by
  unfold relayFwd
  repeat' (first
    | with_reducible assumption
    | with_reducible apply forwardAccess_keeps)

theorem fwdAtomic_keeps {b0 : State} {mtag r off kind : Nat} {a b : BitVec 64} {s : State} (hk : Keeps b0 s) :
    Keeps b0 (fwdAtomic mtag r off kind a b s) := by
  unfold fwdAtomic
  repeat' (first
    | with_reducible assumption
    | with_reducible apply keeps_ite
    | with_reducible apply fwdAnswer_keeps
    | with_reducible apply poisonBites_keeps
    | with_reducible apply submitUnit_keeps
    | dsimp only
    | split
    | intro _)

theorem serveFwd_keeps {a : State} {mtag r off : Nat} {op : FwdOp} {s : State} (hk : Keeps a s) :
    Keeps a (serveFwd mtag r off op s) := by
  unfold serveFwd
  repeat' (first
    | with_reducible assumption
    | with_reducible apply keeps_ite
    | with_reducible refine keeps_foldl ?_ (fun _ _ _ => ?_)
    | with_reducible apply fwdAtomic_keeps
    | with_reducible apply relayFwd_keeps
    | with_reducible apply fwdAnswer_keeps
    | with_reducible apply startPeerDrain_keeps
    | with_reducible apply readHere_keeps
    | with_reducible refine keeps_snd (by with_reducible assumption) (readHere_keeps ?_)
    | with_reducible apply refuseWrite_keeps
    | with_reducible apply submitUnit_keeps
    | with_reducible apply advance_keeps
    | fail_if_no_progress (with_reducible refine keeps_mk_iff.2 ?_)
    | dsimp only
    | split
    | intro _)

theorem answerDrains_keeps {a : State} {s : State} (hk : Keeps a s) :
    Keeps a (answerDrains s) := by
  unfold answerDrains
  repeat' (first
    | with_reducible assumption
    | with_reducible apply keeps_ite
    | with_reducible refine keeps_foldl ?_ (fun _ _ _ => ?_)
    | with_reducible apply fwdAnswer_keeps
    | with_reducible apply modPair_keeps
    | fail_if_no_progress (with_reducible refine keeps_mk_iff.2 ?_)
    | dsimp only
    | split
    | intro _)

theorem serveHeld_keeps {a : State} {r : HeldReq} {s : State} (hk : Keeps a s) :
    Keeps a (serveHeld r s) := by
  unfold serveHeld
  repeat' (first
    | with_reducible assumption
    | with_reducible apply keeps_ite
    | with_reducible apply serveFwd_keeps
    | with_reducible apply cxlWrite_keeps
    | with_reducible apply cxlRead_keeps
    | split)

theorem releaseHeld_keeps {a : State} {s : State} (hk : Keeps a s) :
    Keeps a (releaseHeld s) := by
  unfold releaseHeld
  repeat' (first
    | with_reducible assumption
    | with_reducible refine keeps_foldl ?_ (fun _ _ _ => ?_)
    | with_reducible apply serveHeld_keeps
    | with_reducible apply modPair_keeps)

theorem cacheAck_keeps {a : State} {writer : Option Nat} {r : Nat} {w : LineWrite} {s : State} (hk : Keeps a s) :
    Keeps a (cacheAck writer r w s) := by
  unfold cacheAck
  repeat' (first
    | with_reducible assumption
    | with_reducible apply modCxl_keeps)

theorem releaseReads_keeps {a : State} {head : Nat} {s : State} (hk : Keeps a s) :
    Keeps a (releaseReads head s) := by
  unfold releaseReads
  repeat' (first
    | with_reducible assumption
    | with_reducible refine keeps_foldl ?_ (fun _ _ _ => ?_)
    | with_reducible apply cxlRead_keeps
    | with_reducible apply modHead_keeps)

theorem retryStalled_keeps {a : State} {head : Nat} {s : State} (hk : Keeps a s) :
    Keeps a (retryStalled head s) := by
  unfold retryStalled
  repeat' (first
    | with_reducible assumption
    | with_reducible refine keeps_foldl ?_ (fun _ _ _ => ?_)
    | with_reducible apply cxlRead_keeps
    | with_reducible apply modHead_keeps)

theorem cleanGranule_keeps {a : State} {g : Granule} {s : State} (hk : Keeps a s) :
    KeepsSome a (cleanGranule g s) := by
  unfold cleanGranule
  repeat' (first
    | with_reducible assumption
    | with_reducible apply placeLines_keeps)

theorem applyWaiting_keeps {a : State} {base : Nat} {g : Granule} {l : List (Nat × Line × Mask × Bool)} {h : Nat} {s : State} (hk : Keeps a s) :
    Keeps a (applyWaiting base g l h s).2 := by
  unfold applyWaiting
  induction l generalizing g s with
  | nil => exact hk
  | cons w r ih => exact ih (emit_keeps hk)

theorem emptyHead_keeps {a : State} {h : Nat} {s : State} (hk : Keeps a s) :
    Keeps a (emptyHead h s).1 := by
  unfold emptyHead
  repeat' (first
    | with_reducible refine keepsSome_getD ?_ ?_
    | with_reducible assumption
    | with_reducible refine keeps_foldl ?_ (fun _ _ _ => ?_)
    | with_reducible apply cleanGranule_keeps
    | with_reducible apply modHead_keeps
    | with_reducible apply modPair_keeps
    | with_reducible apply abandonUnit_keeps)

theorem headDown_keeps {a : State} {h cause : Nat} {s : State} (hk : Keeps a s) :
    Keeps a (headDown h cause s) := by
  unfold headDown
  repeat' (first
    | with_reducible assumption
    | with_reducible apply keeps_ite
    | with_reducible apply emptyHead_keeps
    | with_reducible apply modHead_keeps
    | with_reducible apply dropHeadQueues_keeps
    | with_reducible apply raise_keeps
    | dsimp only
    | intro _)

theorem noteDevLoad_keeps {a : State} {s : State} (hk : Keeps a s) :
    Keeps a (noteDevLoad s) := by
  unfold noteDevLoad
  repeat' (first
    | with_reducible assumption
    | with_reducible refine keeps_foldl ?_ (fun _ _ _ => ?_)
    | with_reducible apply modHead_keeps)

theorem addJob_keeps {a : State} {j : BureauJob} {s : State} (hk : Keeps a s) :
    Keeps a (addJob j s).2 := by
  unfold addJob
  repeat' (first
    | with_reducible assumption
    | with_reducible apply modCxl_keeps)

theorem bureauWrite_keeps {a : State} {job off : Nat} {b : Bytes} {s : State} (hk : Keeps a s) :
    Keeps a (bureauWrite job off b s) := by
  unfold bureauWrite
  repeat' (first
    | with_reducible assumption
    | with_reducible apply submitWrite_keeps
    | with_reducible apply forwardWrite_keeps
    | split)

theorem setAttachment_keeps {b0 : State} {n : Nat} {a : Attachment} {free : Bool} {s : State} (hk : Keeps b0 s) :
    Keeps b0 (setAttachment n a free s) := by
  unfold setAttachment
  repeat' (first
    | with_reducible assumption
    | with_reducible apply keeps_ite
    | with_reducible apply bureauWrite_keeps
    | with_reducible apply addJob_keeps
    | with_reducible apply modCxl_keeps
    | with_reducible apply raise_keeps
    | dsimp only
    | split
    | intro _)

theorem sendDcEvent_keeps {b0 : State} {kind : Nat} {a : Attachment} {s : State} (hk : Keeps b0 s) :
    Keeps b0 (sendDcEvent kind a s) := by
  unfold sendDcEvent
  repeat' (first
    | with_reducible assumption
    | with_reducible apply emit_keeps)

theorem freeAttachment_keeps {b0 : State} {n : Nat} {a : Attachment} {s : State} (hk : Keeps b0 s) :
    Keeps b0 (freeAttachment n a s) := by
  unfold freeAttachment
  repeat' (first
    | with_reducible assumption
    | with_reducible apply setAttachment_keeps
    | with_reducible apply finishBg_keeps
    | dsimp only
    | split)

theorem purgeAttachments_keeps {a : State} {s : State} (hk : Keeps a s) :
    Keeps a (purgeAttachments s) := by
  unfold purgeAttachments
  repeat' (first
    | with_reducible assumption
    | with_reducible apply modCxl_keeps)

theorem settleAttachments_keeps {a : State} {s : State} (hk : Keeps a s) :
    Keeps a (settleAttachments s) := by
  unfold settleAttachments
  repeat' (first
    | with_reducible assumption
    | with_reducible refine keeps_foldl ?_ (fun _ _ _ => ?_)
    | with_reducible apply freeAttachment_keeps)

/-! ### Pair -/

theorem modLink_keeps {a : State} {f : Mpl → Mpl} {s : State} (hk : Keeps a s) :
    Keeps a (modLink f s) := by
  unfold modLink
  repeat' (first
    | with_reducible assumption
    | with_reducible apply modPair_keeps)

theorem becomeStale_keeps {a : State} {r : Nat} {s : State} (hk : Keeps a s) :
    Keeps a (becomeStale r s) := by
  unfold becomeStale
  repeat' (first
    | with_reducible assumption
    | with_reducible apply applyItem_keeps
    | with_reducible apply journalMeta_keeps
    | with_reducible apply raise_keeps)

theorem forwardHeldBcs_keeps {a : State} {s : State} (hk : Keeps a s) :
    Keeps a (forwardHeldBcs s) := by
  unfold forwardHeldBcs
  repeat' (first
    | with_reducible assumption
    | with_reducible apply keeps_ite
    | with_reducible refine keeps_foldl ?_ (fun _ _ _ => ?_)
    | with_reducible apply modPair_keeps
    | with_reducible apply forwardBcs_keeps
    | intro _)

theorem yieldAll_keeps {a : State} {epoch : Nat} {s : State} (hk : Keeps a s) :
    Keeps a (yieldAll epoch s) := by
  unfold yieldAll
  repeat' (first
    | with_reducible assumption
    | with_reducible refine keeps_foldl ?_ (fun _ _ _ => ?_)
    | with_reducible apply forwardHeldBcs_keeps
    | with_reducible apply becomeStale_keeps
    | with_reducible apply releaseHeld_keeps
    | with_reducible apply modPair_keeps
    | with_reducible apply abandonUnit_keeps
    | with_reducible apply modRegion_keeps)

theorem sealCopies_keeps {a : State} {origin : Nat} {us : List WUnit} {s : State} (hk : Keeps a s) :
    Keeps a (sealCopies origin us s) := by
  unfold sealCopies
  repeat' (first
    | with_reducible assumption
    | with_reducible apply keeps_ite
    | with_reducible refine keeps_foldl ?_ (fun _ _ _ => ?_)
    | with_reducible apply modPu_keeps
    | dsimp only
    | split
    | intro _)

theorem sealUnknown_keeps {a : State} {s : State} (hk : Keeps a s) :
    Keeps a (sealUnknown s) := by
  unfold sealUnknown
  repeat' (first
    | with_reducible assumption
    | with_reducible refine keeps_foldl ?_ (fun _ _ _ => ?_)
    | with_reducible apply sealCopies_keeps
    | with_reducible apply modPair_keeps)

theorem sealNoticed_keeps {a : State} {s : State} (hk : Keeps a s) :
    Keeps a (sealNoticed s) := by
  unfold sealNoticed
  repeat' (first
    | with_reducible assumption
    | with_reducible refine keeps_foldl ?_ (fun _ _ _ => ?_)
    | with_reducible apply sealCopies_keeps
    | with_reducible apply modPair_keeps)

theorem sendDone_keeps {a : State} {s : State} (hk : Keeps a s) :
    Keeps a (sendDone s) := by
  unfold sendDone
  repeat' (first
    | with_reducible assumption
    | with_reducible apply keeps_ite
    | with_reducible apply modPair_keeps
    | with_reducible apply sendMsg_keeps
    | intro _)

theorem startTakeover_keeps {a : State} {cause : Nat} {s : State} (hk : Keeps a s) :
    Keeps a (startTakeover cause s) := by
  unfold startTakeover
  repeat' (first
    | with_reducible assumption
    | with_reducible apply sealUnknown_keeps
    | with_reducible apply modPair_keeps
    | with_reducible apply journalMeta_keeps)

theorem yieldSplit_keeps {a : State} {s : State} (hk : Keeps a s) :
    Keeps a (yieldSplit s) := by
  unfold yieldSplit
  repeat' (first
    | with_reducible assumption
    | with_reducible refine keeps_foldl ?_ (fun _ _ _ => ?_)
    | with_reducible apply becomeStale_keeps
    | with_reducible apply modPair_keeps
    | with_reducible apply raise_keeps)

theorem takeOffline_keeps {a : State} {r : Nat} {s : State} (hk : Keeps a s) :
    Keeps a (takeOffline r s) := by
  unfold takeOffline
  repeat' (first
    | with_reducible assumption
    | with_reducible apply keeps_ite
    | with_reducible apply modRegion_keeps
    | with_reducible apply notice_keeps
    | with_reducible apply raise_keeps
    | split
    | intro _)

theorem takeOnline_keeps {a : State} {r : Nat} {s : State} (hk : Keeps a s) :
    Keeps a (takeOnline r s) := by
  unfold takeOnline
  repeat' (first
    | with_reducible assumption
    | with_reducible apply keeps_ite
    | with_reducible apply modRegion_keeps
    | with_reducible apply notice_keeps
    | with_reducible apply raise_keeps
    | split
    | intro _)

theorem nextMove_keeps {a : State} {s : State} (hk : Keeps a s) :
    Keeps a (nextMove s) := by
  unfold nextMove
  repeat' (first
    | with_reducible assumption
    | with_reducible apply keeps_ite
    | with_reducible apply modPair_keeps
    | split
    | intro _)

theorem addMove_keeps {a : State} {m : Move} {s : State} (hk : Keeps a s) :
    Keeps a (addMove m s) := by
  unfold addMove
  repeat' (first
    | with_reducible assumption
    | with_reducible apply nextMove_keeps
    | with_reducible apply modPair_keeps)

theorem settleMove_keeps {a : State} {s : State} (hk : Keeps a s) :
    Keeps a (settleMove s) := by
  unfold settleMove
  repeat' (first
    | with_reducible assumption
    | with_reducible apply keeps_ite
    | with_reducible apply modPair_keeps
    | with_reducible apply journalMeta_keeps
    | dsimp only
    | split
    | intro _)

theorem askPartner_keeps {a : State} {s : State} (hk : Keeps a s) :
    Keeps a (askPartner s) := by
  unfold askPartner
  repeat' (first
    | with_reducible assumption
    | with_reducible apply keeps_ite
    | with_reducible refine keeps_foldl ?_ (fun _ _ _ => ?_)
    | with_reducible apply addMove_keeps
    | intro _)

theorem startResync_keeps {a : State} {r : Nat} {incremental : Bool} {s : State} (hk : Keeps a s) :
    Keeps a (startResync r incremental s) := by
  unfold startResync
  repeat' (first
    | with_reducible assumption
    | with_reducible apply modPair_keeps
    | with_reducible apply journalMeta_keeps
    | with_reducible apply raise_keeps
    | dsimp only
    | split)

theorem resumeResync_keeps {a : State} {r : Nat} {mark : Nat} {s : State} (hk : Keeps a s) :
    Keeps a (resumeResync r mark s) := by
  unfold resumeResync
  repeat' (first
    | with_reducible assumption
    | with_reducible apply modPair_keeps)

theorem nextResync_keeps {a : State} {s : State} (hk : Keeps a s) :
    Keeps a (nextResync s) := by
  unfold nextResync
  repeat' (first
    | with_reducible assumption
    | with_reducible apply keeps_ite
    | with_reducible apply resumeResync_keeps
    | with_reducible apply startResync_keeps
    | with_reducible apply modPair_keeps
    | dsimp only
    | split
    | intro _)

theorem resyncBeat_keeps {a : State} {s : State} (hk : Keeps a s) :
    Keeps a (resyncBeat s) := by
  unfold resyncBeat
  repeat' (first
    | with_reducible assumption
    | with_reducible apply keeps_ite
    | with_reducible apply modPair_keeps
    | with_reducible apply sendMsg_keeps
    | dsimp only
    | split
    | intro _)

theorem sendFormation_keeps {a : State} {f : Formation} {b : Bytes} {s : State} (hk : Keeps a s) :
    Keeps a (sendFormation f b s).2 := by
  unfold sendFormation
  repeat' (first
    | with_reducible assumption
    | with_reducible apply emit_keeps)

theorem setFormation_keeps {a : State} {f : Option Formation} {s : State} (hk : Keeps a s) :
    Keeps a (setFormation f s) := by
  unfold setFormation
  repeat' (first
    | with_reducible assumption
    | with_reducible apply modPair_keeps)

theorem failFormation_keeps {a : State} {reason rc : Nat} {s : State} (hk : Keeps a s) :
    Keeps a (failFormation reason rc s) := by
  unfold failFormation
  repeat' (first
    | with_reducible assumption
    | with_reducible apply setFormation_keeps
    | with_reducible apply finishBg_keeps
    | with_reducible apply raise_keeps
    | dsimp only
    | split)

theorem signAndSend_keeps {a : State} {body : Bytes} {s : State} (hk : Keeps a s) :
    Keeps a (signAndSend body s) := by
  unfold signAndSend
  repeat' (first
    | with_reducible assumption
    | with_reducible apply keeps_ite
    | with_reducible apply setFormation_keeps
    | with_reducible apply sendFormation_keeps
    | with_reducible apply useIndex_keeps
    | with_reducible apply modSigner_keeps
    | dsimp only
    | split
    | exact fun _ => List.prefix_rfl
    | intro _)

theorem sendKey_keeps {a : State} {s : State} (hk : Keeps a s) :
    Keeps a (sendKey s) := by
  unfold sendKey
  repeat' (first
    | with_reducible assumption
    | with_reducible apply signAndSend_keeps
    | with_reducible apply setFormation_keeps
    | with_reducible apply advance_keeps
    | dsimp only
    | split)

theorem journalFormation_keeps {a : State} {shared : Bytes} {s : State} (hk : Keeps a s) :
    Keeps a (journalFormation shared s) := by
  unfold journalFormation
  repeat' (first
    | with_reducible assumption
    | with_reducible apply setFormation_keeps
    | with_reducible apply modPair_keeps
    | with_reducible apply journalMeta_keeps
    | dsimp only
    | split)

end Sys2Proof.Machine
end

