-- ==== Sys2Proof/Laws/Keeps4.lean ====
section
/-! SUPPORT. `Keeps` through the operations of PairCmds, CxlCmds, MirrorCmds, NetCmds. -/

set_option linter.unusedTactic false
set_option linter.unreachableTactic false
set_option linter.unusedVariables false

namespace Sys2Proof.Machine

/-! ### PairCmds -/

theorem beginFormation_keeps {a : State} {role : FormRole} {mode : Nat} {hash : Bytes} {place : Nat} {path : BcsPath} {s : State} (hk : Keeps a s) :
    Keeps a (beginFormation role mode hash place path s) := by
  unfold beginFormation
  repeat' (first
    | with_reducible assumption
    | with_reducible apply setFormation_keeps
    | with_reducible apply sendFormation_keeps
    | with_reducible apply advance_keeps)

theorem execFormPair_keeps {a : State} {path : BcsPath} {input : Bytes} {s : State} (hk : Keeps a s) :
    KeepsNext a (execFormPair path input s) := by
  unfold execFormPair
  repeat' (first
    | with_reducible refine keepsNext_next ?_
    | with_reducible assumption
    | with_reducible apply beginFormation_keeps
    | with_reducible apply checked_keeps
    | with_reducible apply inBackground_keeps
    | with_reducible apply bcs_keeps
    | with_reducible apply answer_keeps
    | dsimp only
    | split
    | intro _)

theorem execArmPairJoin_keeps {a : State} {path : BcsPath} {input : Bytes} {s : State} (hk : Keeps a s) :
    KeepsNext a (execArmPairJoin path input s) := by
  unfold execArmPairJoin
  repeat' (first
    | with_reducible refine keepsNext_next ?_
    | with_reducible assumption
    | with_reducible apply modPair_keeps
    | with_reducible apply bcs_keeps
    | with_reducible apply success_keeps
    | intro _)

theorem execArmingExpiry_keeps {a : State} {s : State} (hk : Keeps a s) :
    KeepsNext a (execArmingExpiry s) := by
  unfold execArmingExpiry
  repeat' (first
    | with_reducible refine keepsNext_next ?_
    | with_reducible assumption
    | with_reducible apply keeps_ite
    | with_reducible apply modPair_keeps
    | split)

theorem chairOrForwarded_keeps {a : State} {path : BcsPath} {opcode : Nat} {input : Bytes} {body : State → State} {s : State} (hbody : ∀ s, Keeps a s → Keeps a (body s)) (hk : Keeps a s) :
    Keeps a (chairOrForwarded path opcode input body s) := by
  unfold chairOrForwarded
  repeat' (first
    | with_reducible assumption
    | with_reducible apply keeps_ite
    | with_reducible apply onChair_keeps
    | with_reducible apply hbody
    | intro _)

theorem dissolve_keeps {a : State} {path : BcsPath} {force : Bool} {s : State} (hk : Keeps a s) :
    Keeps a (dissolve path force s) := by
  unfold dissolve
  repeat' (first
    | with_reducible assumption
    | with_reducible apply journalMeta_keeps)

theorem execDissolvePair_keeps {a : State} {path : BcsPath} {input : Bytes} {s : State} (hk : Keeps a s) :
    KeepsNext a (execDissolvePair path input s) := by
  unfold execDissolvePair
  repeat' (first
    | with_reducible refine keepsNext_next ?_
    | with_reducible assumption
    | with_reducible apply dissolve_keeps
    | with_reducible apply chairOrForwarded_keeps
    | with_reducible apply checked_keeps
    | with_reducible apply bcs_keeps
    | with_reducible apply bumpTag_keeps
    | with_reducible apply sendMsg_keeps
    | with_reducible apply invalid_keeps
    | with_reducible apply answer_keeps
    | dsimp only
    | split
    | intro _)

theorem execGetPairStatus_keeps {a : State} {path : BcsPath} {input : Bytes} {s : State} (hk : Keeps a s) :
    KeepsNext a (execGetPairStatus path input s) := by
  unfold execGetPairStatus
  repeat' (first
    | with_reducible refine keepsNext_next ?_
    | with_reducible assumption
    | with_reducible apply bcs_keeps
    | with_reducible apply success_keeps
    | dsimp only
    | intro _)

theorem execMoveSeat_keeps {a : State} {path : BcsPath} {input : Bytes} {s : State} (hk : Keeps a s) :
    KeepsNext a (execMoveSeat path input s) := by
  unfold execMoveSeat
  repeat' (first
    | with_reducible refine keepsNext_next ?_
    | with_reducible assumption
    | with_reducible refine keeps_foldl ?_ (fun _ _ _ => ?_)
    | with_reducible apply chairOrForwarded_keeps
    | with_reducible apply addMove_keeps
    | with_reducible apply checked_keeps
    | with_reducible apply forwardBcs_keeps
    | with_reducible apply bcs_keeps
    | with_reducible apply success_keeps
    | with_reducible apply answer_keeps
    | dsimp only
    | split
    | intro _)

theorem execMoveChair_keeps {a : State} {path : BcsPath} {input : Bytes} {s : State} (hk : Keeps a s) :
    KeepsNext a (execMoveChair path input s) := by
  unfold execMoveChair
  repeat' (first
    | with_reducible refine keepsNext_next ?_
    | with_reducible assumption
    | with_reducible apply addMove_keeps
    | with_reducible apply onChair_keeps
    | with_reducible apply bcs_keeps
    | with_reducible apply invalid_keeps
    | with_reducible apply answer_keeps
    | split
    | intro _)

theorem execAdmitReplacement_keeps {a : State} {path : BcsPath} {input : Bytes} {s : State} (hk : Keeps a s) :
    KeepsNext a (execAdmitReplacement path input s) := by
  unfold execAdmitReplacement
  repeat' (first
    | with_reducible refine keepsNext_next ?_
    | with_reducible assumption
    | with_reducible apply beginFormation_keeps
    | with_reducible apply bcs_keeps
    | with_reducible apply invalid_keeps
    | with_reducible apply answer_keeps
    | split
    | intro _)

theorem execSetStandbyChecks_keeps {a : State} {path : BcsPath} {input : Bytes} {s : State} (hk : Keeps a s) :
    KeepsNext a (execSetStandbyChecks path input s) := by
  unfold execSetStandbyChecks
  repeat' (first
    | with_reducible refine keepsNext_next ?_
    | with_reducible assumption
    | with_reducible apply checked_keeps
    | with_reducible apply onChair_keeps
    | with_reducible apply bcs_keeps
    | with_reducible apply journalMeta_keeps
    | dsimp only
    | intro _)

theorem execGetPairHealth_keeps {a : State} {path : BcsPath} {input : Bytes} {s : State} (hk : Keeps a s) :
    KeepsNext a (execGetPairHealth path input s) := by
  unfold execGetPairHealth
  repeat' (first
    | with_reducible refine keepsNext_next ?_
    | with_reducible assumption
    | with_reducible apply bcs_keeps
    | with_reducible apply success_keeps
    | dsimp only
    | intro _)

theorem execForceSeat_keeps {a : State} {path : BcsPath} {input : Bytes} {s : State} (hk : Keeps a s) :
    KeepsNext a (execForceSeat path input s) := by
  unfold execForceSeat
  repeat' (first
    | with_reducible refine keepsNext_next ?_
    | with_reducible assumption
    | with_reducible apply checked_keeps
    | with_reducible apply bcs_keeps
    | with_reducible apply journalMeta_keeps
    | dsimp only
    | split
    | intro _)

theorem execSetWitnessPath_keeps {a : State} {path : BcsPath} {input : Bytes} {s : State} (hk : Keeps a s) :
    KeepsNext a (execSetWitnessPath path input s) := by
  unfold execSetWitnessPath
  repeat' (first
    | with_reducible refine keepsNext_next ?_
    | with_reducible assumption
    | with_reducible apply modPair_keeps
    | with_reducible apply checked_keeps
    | with_reducible apply bcs_keeps
    | with_reducible apply journalMeta_keeps
    | dsimp only
    | split
    | intro _)

theorem joinHello_keeps {a : State} {message : Bytes} {s : State} (hk : Keeps a s) :
    Keeps a (joinHello message s) := by
  unfold joinHello
  extract_lets id key place armed found clash s1 reason pos f x s2
  refine keeps_ite (keeps_ite ?_ fun h => sendKey_keeps h) fun _ => keeps_ite_then ?_ fun h => raise_keeps h
  · exact setFormation_keeps (modPair_keeps (sendFormation_keeps (advance_keeps hk)))
  · exact emit_keeps (advance_keeps hk)

theorem execHello_keeps {a : State} {message : Bytes} {s : State} (hk : Keeps a s) :
    KeepsNext a (execHello message s) := by
  unfold execHello
  repeat' (first
    | with_reducible refine keepsNext_next ?_
    | with_reducible refine keepsNext_ite ?_ ?_
    | with_reducible assumption
    | with_reducible apply keeps_ite
    | with_reducible apply joinHello_keeps
    | with_reducible apply sendKey_keeps
    | with_reducible apply failFormation_keeps
    | with_reducible apply setFormation_keeps
    | with_reducible apply finishBg_keeps
    | dsimp only
    | split)

theorem execEncapsulationKey_keeps {a : State} {message : Bytes} {s : State} (hk : Keeps a s) :
    KeepsNext a (execEncapsulationKey message s) := by
  unfold execEncapsulationKey
  repeat' (first
    | with_reducible refine keepsNext_next ?_
    | with_reducible refine keepsNext_ite ?_ ?_
    | with_reducible assumption
    | with_reducible apply keeps_ite
    | with_reducible apply journalFormation_keeps
    | with_reducible apply signAndSend_keeps
    | with_reducible apply failFormation_keeps
    | with_reducible apply setFormation_keeps
    | with_reducible apply advance_keeps
    | dsimp only
    | split)

theorem execKemCiphertext_keeps {a : State} {message : Bytes} {s : State} (hk : Keeps a s) :
    KeepsNext a (execKemCiphertext message s) := by
  unfold execKemCiphertext
  repeat' (first
    | with_reducible refine keepsNext_next ?_
    | with_reducible refine keepsNext_ite ?_ ?_
    | with_reducible assumption
    | with_reducible apply journalFormation_keeps
    | with_reducible apply failFormation_keeps
    | with_reducible apply setFormation_keeps
    | dsimp only
    | split)

theorem execFormationTimeout_keeps {a : State} {s : State} (hk : Keeps a s) :
    KeepsNext a (execFormationTimeout s) := by
  unfold execFormationTimeout
  repeat' (first
    | with_reducible refine keepsNext_next ?_
    | with_reducible assumption
    | with_reducible apply keeps_ite
    | with_reducible apply failFormation_keeps
    | split)

theorem execHeartbeat_keeps {a : State} {h _chairEpoch _leaseEpoch : Nat} {s : State} (hk : Keeps a s) :
    KeepsNext a (execHeartbeat h _chairEpoch _leaseEpoch s) := by
  unfold execHeartbeat
  repeat' (first
    | with_reducible refine keepsNext_next ?_
    | with_reducible refine keepsNext_ite ?_ ?_
    | with_reducible assumption
    | with_reducible apply modPair_keeps
    | with_reducible apply sendMsg_keeps)

theorem execWitnessHeartbeat_keeps {a : State} {port : Nat} {datagram : Bytes} {s : State} (hk : Keeps a s) :
    KeepsNext a (execWitnessHeartbeat port datagram s) := by
  unfold execWitnessHeartbeat
  repeat' (first
    | with_reducible refine keepsNext_next ?_
    | with_reducible assumption
    | with_reducible apply keeps_ite
    | with_reducible apply modPair_keeps
    | dsimp only
    | split)

theorem heartbeatSend_keeps {a : State} {s : State} (hk : Keeps a s) :
    Keeps a (heartbeatSend s) := by
  unfold heartbeatSend
  repeat' (first
    | with_reducible assumption
    | with_reducible apply keeps_ite
    | with_reducible apply sendMsg_keeps
    | with_reducible apply emit_keeps
    | dsimp only
    | split
    | intro _)

theorem execLeaseStopPoint_keeps {a : State} {s : State} (hk : Keeps a s) :
    KeepsNext a (execLeaseStopPoint s) := by
  unfold execLeaseStopPoint
  repeat' (first
    | with_reducible refine keepsNext_next ?_
    | with_reducible refine keepsNext_ite ?_ ?_
    | with_reducible assumption
    | with_reducible apply keeps_ite
    | with_reducible apply yieldSplit_keeps
    | with_reducible apply modPair_keeps
    | dsimp only
    | split)

theorem execTakeoverDeadline_keeps {a : State} {s : State} (hk : Keeps a s) :
    KeepsNext a (execTakeoverDeadline s) := by
  unfold execTakeoverDeadline
  repeat' (first
    | with_reducible refine keepsNext_next ?_
    | with_reducible refine keepsNext_ite ?_ ?_
    | with_reducible assumption
    | with_reducible apply yieldSplit_keeps
    | with_reducible apply startTakeover_keeps
    | with_reducible apply raise_keeps
    | split)

theorem countCheck_keeps {a : State} {t : Nat} {ok : Bool} {s : State} (hk : Keeps a s) :
    Keeps a (countCheck t ok s) := by
  unfold countCheck
  repeat' (first
    | with_reducible assumption
    | with_reducible apply modPair_keeps)

theorem execStandbySelfTest_keeps {a : State} {test detail : Nat} {passed : Bool} {s : State} (hk : Keeps a s) :
    KeepsNext a (execStandbySelfTest test detail passed s) := by
  unfold execStandbySelfTest
  repeat' (first
    | with_reducible refine keepsNext_next ?_
    | with_reducible refine keepsNext_ite ?_ ?_
    | with_reducible assumption
    | with_reducible apply countCheck_keeps
    | with_reducible apply noteSpare_keeps
    | with_reducible apply modPu_keeps
    | with_reducible apply raise_keeps
    | fail_if_no_progress (with_reducible refine keeps_mk_iff.2 ?_)
    | dsimp only
    | refine keeps_mc ?_ ?_
    | exact mcCanonical_same rfl rfl)

theorem execMirrorCompare_keeps {a : State} {s : State} (hk : Keeps a s) :
    KeepsNext a (execMirrorCompare s) := by
  unfold execMirrorCompare
  repeat' (first
    | with_reducible refine keepsNext_next ?_
    | with_reducible refine keepsNext_ite ?_ ?_
    | with_reducible assumption
    | with_reducible apply modPair_keeps
    | with_reducible apply sendMsg_keeps
    | dsimp only
    | split)

theorem execMplCompare_keeps {a : State} {region offset : Nat} {crc : BitVec 64} {s : State} (hk : Keeps a s) :
    KeepsNext a (execMplCompare region offset crc s) := by
  unfold execMplCompare
  repeat' (first
    | with_reducible refine keepsNext_next ?_
    | with_reducible refine keepsNext_ite ?_ ?_
    | with_reducible assumption
    | with_reducible apply countCheck_keeps
    | with_reducible apply sendMsg_keeps
    | with_reducible apply raise_keeps
    | split)

theorem execRoleSwap_keeps {a : State} {s : State} (hk : Keeps a s) :
    KeepsNext a (execRoleSwap s) := by
  unfold execRoleSwap
  repeat' (first
    | with_reducible refine keepsNext_next ?_
    | with_reducible refine keepsNext_ite ?_ ?_
    | with_reducible assumption
    | with_reducible apply keeps_ite
    | with_reducible refine keeps_foldl ?_ (fun _ _ _ => ?_)
    | with_reducible apply addMove_keeps
    | with_reducible apply modPair_keeps
    | with_reducible apply bumpTag_keeps
    | with_reducible apply sendMsg_keeps
    | intro _)

/-! ### CxlCmds -/

theorem execHeadLinkUp_keeps {a : State} {head width speed flit : Nat} {s : State} (hk : Keeps a s) :
    KeepsNext a (execHeadLinkUp head width speed flit s) := by
  unfold execHeadLinkUp
  repeat' (first
    | with_reducible refine keepsNext_next ?_
    | with_reducible refine keepsNext_ite ?_ ?_
    | with_reducible assumption
    | with_reducible refine keeps_foldl ?_ (fun _ _ _ => ?_)
    | with_reducible apply sendDcEvent_keeps
    | with_reducible apply modHead_keeps
    | with_reducible apply modCxl_keeps
    | with_reducible apply raise_keeps)

theorem execHeadLinkDown_keeps {a : State} {head cause : Nat} {s : State} (hk : Keeps a s) :
    KeepsNext a (execHeadLinkDown head cause s) := by
  unfold execHeadLinkDown
  repeat' (first
    | with_reducible refine keepsNext_next ?_
    | with_reducible assumption
    | with_reducible apply headDown_keeps)

theorem execPerstNAssert_keeps {a : State} {head : Nat} {s : State} (hk : Keeps a s) :
    KeepsNext a (execPerstNAssert head s) := by
  unfold execPerstNAssert
  repeat' (first
    | with_reducible refine keepsNext_next ?_
    | with_reducible refine keepsNext_ite ?_ ?_
    | with_reducible assumption
    | with_reducible apply headDown_keeps
    | with_reducible apply modHead_keeps)

theorem execCxlMemWrite_keeps {a : State} {req : CxlReq} {data : Line} {mask : Mask} {poison : Bool} {s : State} (hk : Keeps a s) :
    KeepsNext a (execCxlMemWrite req data mask poison s) := by
  unfold execCxlMemWrite
  repeat' (first
    | with_reducible refine keepsNext_next ?_
    | with_reducible refine keepsNext_ite ?_ ?_
    | with_reducible assumption
    | with_reducible apply cxlWrite_keeps)

theorem execMissFillReturn_keeps {a : State} {head register : Nat} {s : State} (hk : Keeps a s) :
    KeepsNext a (execMissFillReturn head register s) := by
  unfold execMissFillReturn
  repeat' (first
    | with_reducible refine keepsNext_next ?_
    | with_reducible refine keepsNext_ite ?_ ?_
    | with_reducible assumption
    | with_reducible refine keeps_foldl ?_ (fun _ _ _ => ?_)
    | with_reducible apply retryStalled_keeps
    | with_reducible apply answerPoison_keeps
    | with_reducible apply answerRead_keeps
    | with_reducible apply modHead_keeps
    | with_reducible apply wantRange_keeps
    | dsimp only
    | split)

theorem execVictimHandoff_keeps {a : State} {head entry : Nat} {s : State} (hk : Keeps a s) :
    KeepsNext a (execVictimHandoff head entry s) := by
  unfold execVictimHandoff
  repeat' (first
    | with_reducible refine keepsSome_getD ?_ ?_
    | with_reducible refine keepsNext_next ?_
    | with_reducible assumption
    | with_reducible apply keeps_ite
    | with_reducible apply applyWaiting_keeps
    | with_reducible apply cleanGranule_keeps
    | with_reducible refine keepsSome_of (by with_reducible assumption) (cleanGranule_keeps ?_)
    | with_reducible apply retryStalled_keeps
    | with_reducible apply modHead_keeps
    | dsimp only
    | split
    | intro _)

theorem cacheError_keeps {a : State} {head granule : Nat} {s : State} (hk : Keeps a s) :
    Keeps a (cacheError head granule s) := by
  unfold cacheError
  repeat' (first
    | with_reducible refine keepsSome_getD ?_ ?_
    | with_reducible assumption
    | with_reducible apply keeps_ite
    | with_reducible refine keeps_foldl ?_ (fun _ _ _ => ?_)
    | with_reducible apply cleanGranule_keeps
    | with_reducible apply modHead_keeps
    | with_reducible apply ledgerAdd_keeps
    | with_reducible apply raise_keeps
    | dsimp only
    | split
    | intro _)

theorem execFrontCacheEccError_keeps {a : State} {head granule : Nat} {s : State} (hk : Keeps a s) :
    KeepsNext a (execFrontCacheEccError head granule s) := by
  unfold execFrontCacheEccError
  repeat' (first
    | with_reducible refine keepsNext_next ?_
    | with_reducible assumption
    | with_reducible apply cacheError_keeps)

theorem execFrontCacheBankEmpty_keeps {a : State} {head bank : Nat} {s : State} (hk : Keeps a s) :
    KeepsNext a (execFrontCacheBankEmpty head bank s) := by
  unfold execFrontCacheBankEmpty
  repeat' (first
    | with_reducible refine keepsNext_next ?_
    | with_reducible refine keepsNext_ite ?_ ?_
    | with_reducible assumption
    | with_reducible apply modHead_keeps
    | with_reducible apply raise_keeps)

theorem refuseOffer_keeps {b0 : State} {n : Nat} {a : Attachment} {why : Nat} {s : State} (hk : Keeps b0 s) :
    Keeps b0 (refuseOffer n a why s) := by
  unfold refuseOffer
  repeat' (first
    | with_reducible assumption
    | with_reducible apply freeAttachment_keeps
    | with_reducible apply raise_keeps)

theorem execAddDynamicCapacityResponse_keeps {a : State} {target : Nat} {accepted : List Nat} {more : Bool} {s : State} (hk : Keeps a s) :
    KeepsNext a (execAddDynamicCapacityResponse target accepted more s) := by
  unfold execAddDynamicCapacityResponse
  repeat' (first
    | with_reducible refine keepsNext_next ?_
    | with_reducible assumption
    | with_reducible apply keeps_ite
    | with_reducible refine keeps_foldl ?_ (fun _ _ _ => ?_)
    | with_reducible apply refuseOffer_keeps
    | with_reducible apply setAttachment_keeps
    | dsimp only
    | split
    | intro _)

theorem execOfferTimeout_keeps {a : State} {entry : Nat} {s : State} (hk : Keeps a s) :
    KeepsNext a (execOfferTimeout entry s) := by
  unfold execOfferTimeout
  repeat' (first
    | with_reducible refine keepsNext_next ?_
    | with_reducible refine keepsNext_ite ?_ ?_
    | with_reducible assumption
    | with_reducible apply refuseOffer_keeps
    | split)

theorem execReleaseDynamicCapacity_keeps {a : State} {target : Nat} {dpas : List Nat} {s : State} (hk : Keeps a s) :
    KeepsNext a (execReleaseDynamicCapacity target dpas s) := by
  unfold execReleaseDynamicCapacity
  repeat' (first
    | with_reducible refine keepsNext_next ?_
    | with_reducible assumption
    | with_reducible apply keeps_ite
    | with_reducible refine keeps_foldl ?_ (fun _ _ _ => ?_)
    | with_reducible apply settleAttachments_keeps
    | with_reducible apply setAttachment_keeps
    | with_reducible apply modCxl_keeps
    | dsimp only
    | intro _)

theorem execDetachTimeout_keeps {a : State} {entry : Nat} {s : State} (hk : Keeps a s) :
    KeepsNext a (execDetachTimeout entry s) := by
  unfold execDetachTimeout
  repeat' (first
    | with_reducible refine keepsNext_next ?_
    | with_reducible refine keepsNext_ite ?_ ?_
    | with_reducible assumption
    | with_reducible apply setAttachment_keeps
    | with_reducible apply finishBg_keeps
    | split)

theorem execGpfPhase1_keeps {a : State} {head : Nat} {s : State} (hk : Keeps a s) :
    KeepsNext a (execGpfPhase1 head s) := by
  unfold execGpfPhase1
  repeat' (first
    | with_reducible refine keepsNext_next ?_
    | with_reducible refine keepsNext_ite ?_ ?_
    | with_reducible assumption
    | with_reducible apply modHead_keeps
    | with_reducible apply emit_keeps)

theorem execGpfPhase2_keeps {a : State} {head : Nat} {s : State} (hk : Keeps a s) :
    KeepsNext a (execGpfPhase2 head s) := by
  unfold execGpfPhase2
  repeat' (first
    | with_reducible refine keepsNext_next ?_
    | with_reducible refine keepsNext_ite ?_ ?_
    | with_reducible assumption
    | with_reducible apply modHead_keeps
    | with_reducible apply raise_keeps
    | with_reducible apply advance_keeps
    | with_reducible apply emit_keeps)

theorem attachEffect_keeps {b0 : State} {path : BcsPath} {p : Nat} {l : AMap Attachment} {a : Attachment} {s : State} (hk : Keeps b0 s) :
    Keeps b0 (attachEffect path p l a s) := by
  unfold attachEffect
  repeat' (first
    | with_reducible assumption
    | with_reducible apply keeps_ite
    | with_reducible apply sendDcEvent_keeps
    | with_reducible apply bureauWrite_keeps
    | with_reducible apply addJob_keeps
    | with_reducible apply modCxl_keeps
    | with_reducible apply success_keeps
    | with_reducible apply raise_keeps
    | dsimp only
    | split
    | intro _)

theorem attachExtent_keeps {a : State} {path : BcsPath} {input : Bytes} {s : State} (hk : Keeps a s) :
    Keeps a (attachExtent path input s) := by
  unfold attachExtent
  repeat' (first
    | with_reducible assumption
    | with_reducible apply attachEffect_keeps
    | with_reducible apply checked_keeps
    | with_reducible apply onChair_keeps
    | with_reducible apply bcs_keeps
    | with_reducible apply invalid_keeps
    | with_reducible apply answer_keeps
    | dsimp only
    | split
    | intro _)

theorem execAttachExtent_keeps {a : State} {path : BcsPath} {input : Bytes} {s : State} (hk : Keeps a s) :
    KeepsNext a (execAttachExtent path input s) := by
  unfold execAttachExtent
  repeat' (first
    | with_reducible refine keepsNext_next ?_
    | with_reducible assumption
    | with_reducible apply attachExtent_keeps)

theorem detachHere_keeps {a : State} {path : BcsPath} {input : Bytes} {s : State} (hk : Keeps a s) :
    Keeps a (detachHere path input s) := by
  unfold detachHere
  repeat' (first
    | with_reducible assumption
    | with_reducible apply keeps_ite
    | with_reducible refine keeps_foldl ?_ (fun _ _ _ => ?_)
    | with_reducible apply sendDcEvent_keeps
    | with_reducible apply setAttachment_keeps
    | with_reducible apply checked_keeps
    | with_reducible apply inBackground_keeps
    | with_reducible apply invalid_keeps
    | fail_if_no_progress (with_reducible refine keeps_mk_iff.2 ?_)
    | dsimp only
    | split
    | intro _)

theorem detachAllowed_keeps {a : State} {path : BcsPath} {input : Bytes} {s : State} (hk : Keeps a s) :
    Keeps a (detachAllowed path input s) := by
  unfold detachAllowed
  repeat' (first
    | with_reducible assumption
    | with_reducible apply keeps_ite
    | with_reducible refine keeps_foldl ?_ (fun _ _ _ => ?_)
    | with_reducible apply checked_keeps
    | with_reducible apply success_keeps
    | with_reducible apply invalid_keeps
    | fail_if_no_progress (with_reducible refine keeps_mk_iff.2 ?_)
    | dsimp only
    | split
    | intro _)

theorem detachExtent_keeps {a : State} {path : BcsPath} {input : Bytes} {s : State} (hk : Keeps a s) :
    Keeps a (detachExtent path input s) := by
  unfold detachExtent
  repeat' (first
    | with_reducible assumption
    | with_reducible apply keeps_ite
    | with_reducible refine keeps_foldl ?_ (fun _ _ _ => ?_)
    | with_reducible apply detachAllowed_keeps
    | with_reducible apply detachHere_keeps
    | with_reducible apply onChair_keeps
    | with_reducible apply bcs_keeps
    | fail_if_no_progress (with_reducible refine keeps_mk_iff.2 ?_)
    | dsimp only
    | split
    | intro _)

theorem execDetachExtent_keeps {a : State} {path : BcsPath} {input : Bytes} {s : State} (hk : Keeps a s) :
    KeepsNext a (execDetachExtent path input s) := by
  unfold execDetachExtent
  repeat' (first
    | with_reducible refine keepsNext_next ?_
    | with_reducible assumption
    | with_reducible apply detachExtent_keeps)

theorem bureauAcked_keeps {a : State} {job : Nat} {s : State} (hk : Keeps a s) :
    Keeps a (bureauAcked job s) := by
  unfold bureauAcked
  repeat' (first
    | with_reducible assumption
    | with_reducible apply keeps_ite
    | with_reducible apply sendDcEvent_keeps
    | with_reducible apply modCxl_keeps
    | with_reducible apply answerO_keeps
    | with_reducible apply raise_keeps
    | fail_if_no_progress (with_reducible refine keeps_mk_iff.2 ?_)
    | dsimp only
    | split
    | intro _)

theorem bureauSeen_keeps {a : State} {lines : List LineWrite} {s : State} (hk : Keeps a s) :
    Keeps a (bureauSeen lines s) := by
  unfold bureauSeen
  repeat' (first
    | with_reducible assumption
    | with_reducible apply keeps_ite
    | with_reducible refine keeps_foldl ?_ (fun _ _ _ => ?_)
    | with_reducible apply sendDcEvent_keeps
    | with_reducible apply modCxl_keeps
    | with_reducible apply raise_keeps
    | dsimp only
    | split
    | intro _)

theorem restoreAttachments_keeps {a : State} {s : State} (hk : Keeps a s) :
    Keeps a (restoreAttachments s) := by
  unfold restoreAttachments
  refine keeps_ite (keeps_ite (keeps_foldl (modCxl_keeps hk) fun _ _ h => ?_) fun _ => raise_keeps (modCxl_keeps hk)) fun _ => hk
  split
  · exact h
  · exact keeps_ite (modCxl_keeps h) fun h => freeAttachment_keeps h

theorem execGrantMemoryKey_keeps {a : State} {path : BcsPath} {input : Bytes} {s : State} (hk : Keeps a s) :
    KeepsNext a (execGrantMemoryKey path input s) := by
  unfold execGrantMemoryKey
  repeat' (first
    | with_reducible refine keepsNext_next ?_
    | with_reducible assumption
    | with_reducible apply modTrust_keeps
    | with_reducible apply checked_keeps
    | with_reducible apply bcs_keeps
    | with_reducible apply success_keeps
    | with_reducible apply invalid_keeps
    | with_reducible apply answer_keeps
    | dsimp only
    | split
    | exact fun _ => ⟨rfl, Nat.le_refl _, id, List.prefix_rfl⟩
    | intro _)

theorem execRevokeMemoryKey_keeps {a : State} {path : BcsPath} {input : Bytes} {s : State} (hk : Keeps a s) :
    KeepsNext a (execRevokeMemoryKey path input s) := by
  unfold execRevokeMemoryKey
  repeat' (first
    | with_reducible refine keepsNext_next ?_
    | with_reducible assumption
    | with_reducible apply modTrust_keeps
    | with_reducible apply inBackground_keeps
    | with_reducible apply bcs_keeps
    | with_reducible apply invalid_keeps
    | dsimp only
    | split
    | exact fun _ => ⟨rfl, Nat.le_refl _, id, List.prefix_rfl⟩
    | intro _)

/-! ### MirrorCmds -/

theorem submitNow_keeps {a : State} {u : WUnit} {s : State} (hk : Keeps a s) :
    Keeps a (submitNow u s) := by
  unfold submitNow
  repeat' (first
    | with_reducible assumption
    | with_reducible apply keeps_ite
    | with_reducible apply admitUnit_keeps
    | with_reducible apply submitUnit_keeps
    | dsimp only
    | split)

theorem execMirrorWrite_keeps {a : State} {region msn : Nat} {zero : Bool} {lines : List LineWrite} {s : State} (hk : Keeps a s) :
    KeepsNext a (execMirrorWrite region msn zero lines s) := by
  unfold execMirrorWrite
  repeat' (first
    | with_reducible refine keepsNext_next ?_
    | with_reducible refine keepsNext_ite ?_ ?_
    | with_reducible assumption
    | with_reducible apply keeps_ite
    | with_reducible apply submitNow_keeps
    | with_reducible apply bureauSeen_keeps
    | dsimp only
    | split)

theorem execMirrorAccept_keeps {a : State} {region msn : Nat} {s : State} (hk : Keeps a s) :
    KeepsNext a (execMirrorAccept region msn s) := by
  unfold execMirrorAccept
  repeat' (first
    | with_reducible refine keepsNext_next ?_
    | with_reducible assumption
    | with_reducible apply modPu_keeps)

theorem execMirrorAbort_keeps {a : State} {region msn : Nat} {s : State} (hk : Keeps a s) :
    KeepsNext a (execMirrorAbort region msn s) := by
  unfold execMirrorAbort
  repeat' (first
    | with_reducible refine keepsNext_next ?_
    | with_reducible assumption
    | with_reducible apply abandonUnit_keeps
    | split)

theorem execMirrorSeal_keeps {a : State} {region groupBeat : Nat} {runs : List SealRun} {s : State} (hk : Keeps a s) :
    KeepsNext a (execMirrorSeal region groupBeat runs s) := by
  unfold execMirrorSeal
  repeat' (first
    | with_reducible refine keepsNext_next ?_
    | with_reducible assumption
    | with_reducible apply keeps_ite
    | with_reducible apply modPair_keeps)

theorem execMirrorDone_keeps {a : State} {seq : Nat} {s : State} (hk : Keeps a s) :
    KeepsNext a (execMirrorDone seq s) := by
  unfold execMirrorDone
  repeat' (first
    | with_reducible refine keepsNext_next ?_
    | with_reducible assumption
    | with_reducible apply modPair_keeps)

theorem execMetaCopy_keeps {a : State} {seq : Nat} {items : List MetaItem} {s : State} (hk : Keeps a s) :
    KeepsNext a (execMetaCopy seq items s) := by
  unfold execMetaCopy
  repeat' (first
    | with_reducible refine keepsNext_next ?_
    | with_reducible refine keepsNext_ite ?_ ?_
    | with_reducible assumption
    | with_reducible apply journalMeta_keeps)

theorem placeResync_keeps {a : State} {u : WUnit} {s : State} (hk : Keeps a s) :
    KeepsSome a (placeResync u s) := by
  unfold placeResync
  repeat' (first
    | with_reducible assumption
    | with_reducible apply placeLines_keeps)

theorem noteChunk_keeps {a : State} {region offset : Nat} {s : State} (hk : Keeps a s) :
    Keeps a (noteChunk region offset s) := by
  unfold noteChunk
  repeat' (first
    | with_reducible assumption
    | with_reducible apply modPair_keeps)

theorem execResyncChunk_keeps {a : State} {region offset srcSeq : Nat} {zero : Bool} {data : Bytes} {poison : List Nat} {s : State} (hk : Keeps a s) :
    KeepsNext a (execResyncChunk region offset srcSeq zero data poison s) := by
  unfold execResyncChunk
  repeat' (first
    | with_reducible refine keepsNext_next ?_
    | with_reducible refine keepsNext_ite ?_ ?_
    | with_reducible assumption
    | with_reducible apply keeps_ite
    | with_reducible apply noteChunk_keeps
    | with_reducible refine keepsSome_of (by with_reducible assumption) (placeResync_keeps ?_)
    | with_reducible apply waitSlot_keeps
    | with_reducible apply submitUnit_keeps
    | dsimp only
    | split)

theorem execResyncMark_keeps {a : State} {region : Nat} {s : State} (hk : Keeps a s) :
    KeepsNext a (execResyncMark region s) := by
  unfold execResyncMark
  repeat' (first
    | with_reducible refine keepsNext_next ?_
    | with_reducible refine keepsNext_ite ?_ ?_
    | with_reducible assumption
    | with_reducible apply modPair_keeps
    | with_reducible apply journalMeta_keeps
    | dsimp only
    | split)

theorem execResyncComplete_keeps {a : State} {region : Nat} {s : State} (hk : Keeps a s) :
    KeepsNext a (execResyncComplete region s) := by
  unfold execResyncComplete
  repeat' (first
    | with_reducible refine keepsNext_next ?_
    | with_reducible refine keepsNext_ite ?_ ?_
    | with_reducible assumption
    | with_reducible apply nextResync_keeps
    | with_reducible apply applyItem_keeps
    | with_reducible apply modPair_keeps
    | with_reducible apply journalMeta_keeps
    | with_reducible apply raise_keeps
    | dsimp only
    | split)

theorem rollForward_keeps {a : State} {v : JoinView} {d : Region} {s : State} (hk : Keeps a s) :
    Keeps a (rollForward v d s) := by
  unfold rollForward
  repeat' (first
    | with_reducible assumption
    | with_reducible apply keeps_ite
    | with_reducible refine keeps_foldl ?_ (fun _ _ _ => ?_)
    | with_reducible apply submitNow_keeps
    | with_reducible apply sendMsg_keeps
    | with_reducible apply raise_keeps
    | dsimp only
    | split
    | intro _)

theorem staleAtJoin_keeps {a : State} {r : Nat} {s : State} (hk : Keeps a s) :
    Keeps a (staleAtJoin r s) := by
  unfold staleAtJoin
  repeat' (first
    | with_reducible assumption
    | with_reducible apply keeps_ite
    | with_reducible apply becomeStale_keeps
    | intro _)

theorem joinRegion_keeps {a : State} {v : JoinView} {s : State} (hk : Keeps a s) :
    Keeps a (joinRegion v s) := by
  unfold joinRegion
  repeat' (first
    | with_reducible assumption
    | with_reducible apply keeps_ite
    | with_reducible apply staleAtJoin_keeps
    | with_reducible apply rollForward_keeps
    | with_reducible apply takeOnline_keeps
    | with_reducible apply takeOffline_keeps
    | with_reducible apply modPair_keeps
    | with_reducible apply raise_keeps
    | dsimp only
    | split
    | intro _)

theorem rejoin_keeps {a : State} {s : State} (hk : Keeps a s) :
    Keeps a (rejoin s) := by
  unfold rejoin
  repeat' (first
    | with_reducible assumption
    | with_reducible apply keeps_ite
    | with_reducible refine keeps_foldl ?_ (fun _ _ _ => ?_)
    | with_reducible apply takeOnline_keeps
    | with_reducible apply modPair_keeps
    | dsimp only
    | split
    | refine keeps_ev ?_ ?_
    | exact ⟨Nat.le_refl _, Nat.le_refl _, Nat.le_refl _, Nat.le_refl _, id, id⟩)

theorem execPairJoin_keeps {a : State} {views : List JoinView} {s : State} (hk : Keeps a s) :
    KeepsNext a (execPairJoin views s) := by
  unfold execPairJoin
  repeat' (first
    | with_reducible refine keepsNext_next ?_
    | with_reducible refine keepsNext_ite ?_ ?_
    | with_reducible assumption
    | with_reducible apply keeps_ite
    | with_reducible refine keeps_foldl ?_ (fun _ _ _ => ?_)
    | with_reducible apply rejoin_keeps
    | with_reducible apply joinRegion_keeps
    | with_reducible apply restoreAttachments_keeps
    | with_reducible apply nextResync_keeps
    | with_reducible apply releaseHeld_keeps)

theorem execJoinWaitTimeout_keeps {a : State} {region : Nat} {s : State} (hk : Keeps a s) :
    KeepsNext a (execJoinWaitTimeout region s) := by
  unfold execJoinWaitTimeout
  repeat' (first
    | with_reducible refine keepsNext_next ?_
    | with_reducible refine keepsNext_ite ?_ ?_
    | with_reducible assumption
    | with_reducible apply modPair_keeps
    | with_reducible apply raise_keeps
    | split)

/-! ### NetCmds -/

theorem execEthLinkChange_keeps {a : State} {port : Nat} {up : Bool} {speed : Nat} {s : State} (hk : Keeps a s) :
    KeepsNext a (execEthLinkChange port up speed s) := by
  unfold execEthLinkChange
  repeat' (first
    | with_reducible refine keepsNext_next ?_
    | with_reducible refine keepsNext_ite ?_ ?_
    | with_reducible assumption
    | with_reducible apply keeps_ite
    | with_reducible apply stopChannel_keeps
    | with_reducible apply modNet_keeps
    | with_reducible apply raise_keeps
    | dsimp only
    | split)

theorem execFabricFrame_keeps {a : State} {port length : Nat} {kind : FrameKind} {s : State} (hk : Keeps a s) :
    KeepsNext a (execFabricFrame port length kind s) := by
  unfold execFabricFrame
  repeat' (first
    | with_reducible refine keepsNext_next ?_
    | with_reducible refine keepsNext_ite ?_ ?_
    | with_reducible assumption
    | with_reducible apply keeps_ite
    | with_reducible apply portErr_keeps
    | with_reducible apply dropOn_keeps
    | with_reducible apply modNet_keeps
    | with_reducible apply emit_keeps
    | dsimp only
    | split
    | intro _)

theorem execRdmaWrite_keeps {a : State} {req : RdmaReq} {data : Bytes} {s : State} (hk : Keeps a s) :
    KeepsNext a (execRdmaWrite req data s) := by
  unfold execRdmaWrite
  repeat' (first
    | with_reducible refine keepsNext_next ?_
    | with_reducible assumption
    | with_reducible apply arrive_keeps)

theorem execRdmaWriteWithImmediate_keeps {a : State} {req : RdmaReq} {data : Bytes} {immediate : Nat} {s : State} (hk : Keeps a s) :
    KeepsNext a (execRdmaWriteWithImmediate req data immediate s) := by
  unfold execRdmaWriteWithImmediate
  repeat' (first
    | with_reducible refine keepsNext_next ?_
    | with_reducible assumption
    | with_reducible apply arrive_keeps)

theorem execSend_keeps {a : State} {req : RdmaReq} {data : Bytes} {s : State} (hk : Keeps a s) :
    KeepsNext a (execSend req data s) := by
  unfold execSend
  repeat' (first
    | with_reducible refine keepsNext_next ?_
    | with_reducible assumption
    | with_reducible apply arrive_keeps)

theorem execSendWithImmediate_keeps {a : State} {req : RdmaReq} {data : Bytes} {immediate : Nat} {s : State} (hk : Keeps a s) :
    KeepsNext a (execSendWithImmediate req data immediate s) := by
  unfold execSendWithImmediate
  repeat' (first
    | with_reducible refine keepsNext_next ?_
    | with_reducible assumption
    | with_reducible apply arrive_keeps)

theorem execRdmaRead_keeps {a : State} {req : RdmaReq} {length : Nat} {s : State} (hk : Keeps a s) :
    KeepsNext a (execRdmaRead req length s) := by
  unfold execRdmaRead
  repeat' (first
    | with_reducible refine keepsNext_next ?_
    | with_reducible assumption
    | with_reducible apply arrive_keeps)

theorem execCompareAndSwap_keeps {a : State} {req : RdmaReq} {compareValue swapValue : BitVec 64} {s : State} (hk : Keeps a s) :
    KeepsNext a (execCompareAndSwap req compareValue swapValue s) := by
  unfold execCompareAndSwap
  repeat' (first
    | with_reducible refine keepsNext_next ?_
    | with_reducible assumption
    | with_reducible apply arrive_keeps)

theorem execFetchAndAdd_keeps {a : State} {req : RdmaReq} {addend : BitVec 64} {s : State} (hk : Keeps a s) :
    KeepsNext a (execFetchAndAdd req addend s) := by
  unfold execFetchAndAdd
  repeat' (first
    | with_reducible refine keepsNext_next ?_
    | with_reducible assumption
    | with_reducible apply arrive_keeps)

theorem execAtomicWrite_keeps {a : State} {req : RdmaReq} {value : BitVec 64} {s : State} (hk : Keeps a s) :
    KeepsNext a (execAtomicWrite req value s) := by
  unfold execAtomicWrite
  repeat' (first
    | with_reducible refine keepsNext_next ?_
    | with_reducible assumption
    | with_reducible apply arrive_keeps)

theorem execFlush_keeps {a : State} {req : RdmaReq} {length : Nat} {s : State} (hk : Keeps a s) :
    KeepsNext a (execFlush req length s) := by
  unfold execFlush
  repeat' (first
    | with_reducible refine keepsNext_next ?_
    | with_reducible assumption
    | with_reducible apply arrive_keeps)

theorem execAck_keeps {a : State} {qp psn credits : Nat} {s : State} (hk : Keeps a s) :
    KeepsNext a (execAck qp psn credits s) := by
  unfold execAck
  repeat' (first
    | with_reducible refine keepsNext_next ?_
    | with_reducible exact keepsNext_fault
    | with_reducible refine keepsNext_ite ?_ ?_
    | with_reducible assumption
    | with_reducible apply keeps_ite
    | with_reducible refine keeps_foldl ?_ (fun _ _ _ => ?_)
    | with_reducible apply completeAcked_keeps
    | with_reducible apply modQp_keeps
    | fail_if_no_progress (with_reducible refine keeps_mk_iff.2 ?_)
    | dsimp only
    | split
    | intro _)

theorem execNak_keeps {a : State} {qp psn syndrome : Nat} {s : State} (hk : Keeps a s) :
    KeepsNext a (execNak qp psn syndrome s) := by
  unfold execNak
  repeat' (first
    | with_reducible refine keepsNext_next ?_
    | with_reducible refine keepsNext_ite ?_ ?_
    | with_reducible assumption
    | with_reducible apply resendFrom_keeps
    | with_reducible apply qpFail_keeps
    | with_reducible apply postCpl_keeps
    | with_reducible apply countQp_keeps
    | with_reducible apply modQp_keeps
    | with_reducible apply advance_keeps
    | dsimp only
    | split)

theorem execRnrNak_keeps {a : State} {qp psn timer : Nat} {s : State} (hk : Keeps a s) :
    KeepsNext a (execRnrNak qp psn timer s) := by
  unfold execRnrNak
  repeat' (first
    | with_reducible refine keepsNext_next ?_
    | with_reducible refine keepsNext_ite ?_ ?_
    | with_reducible assumption
    | with_reducible apply resendFrom_keeps
    | with_reducible apply qpFail_keeps
    | with_reducible apply modQp_keeps
    | dsimp only
    | split)

theorem execReadResponse_keeps {a : State} {qp psn : Nat} {data : Bytes} {s : State} (hk : Keeps a s) :
    KeepsNext a (execReadResponse qp psn data s) := by
  unfold execReadResponse
  repeat' (first
    | with_reducible refine keepsNext_next ?_
    | with_reducible refine keepsNext_ite ?_ ?_
    | with_reducible assumption
    | with_reducible apply storeResponse_keeps
    | split)

theorem execAtomicAcknowledge_keeps {a : State} {qp psn : Nat} {original : BitVec 64} {s : State} (hk : Keeps a s) :
    KeepsNext a (execAtomicAcknowledge qp psn original s) := by
  unfold execAtomicAcknowledge
  repeat' (first
    | with_reducible refine keepsNext_next ?_
    | with_reducible refine keepsNext_ite ?_ ?_
    | with_reducible assumption
    | with_reducible apply storeResponse_keeps
    | split)

theorem execCnp_keeps {a : State} {qp : Nat} {s : State} (hk : Keeps a s) :
    KeepsNext a (execCnp qp s) := by
  unfold execCnp
  repeat' (first
    | with_reducible refine keepsNext_next ?_
    | with_reducible refine keepsNext_ite ?_ ?_
    | with_reducible assumption
    | with_reducible apply modQp_keeps
    | split)

theorem execRateIncrease_keeps {a : State} {qp : Nat} {s : State} (hk : Keeps a s) :
    KeepsNext a (execRateIncrease qp s) := by
  unfold execRateIncrease
  repeat' (first
    | with_reducible refine keepsNext_next ?_
    | with_reducible refine keepsNext_ite ?_ ?_
    | with_reducible assumption
    | with_reducible apply modQp_keeps
    | dsimp only
    | split)

theorem execAckTimeout_keeps {a : State} {qp : Nat} {s : State} (hk : Keeps a s) :
    KeepsNext a (execAckTimeout qp s) := by
  unfold execAckTimeout
  repeat' (first
    | with_reducible refine keepsNext_next ?_
    | with_reducible refine keepsNext_ite ?_ ?_
    | with_reducible assumption
    | with_reducible apply resendFrom_keeps
    | with_reducible apply qpFail_keeps
    | with_reducible apply modQp_keeps
    | dsimp only
    | split)

theorem execRnrTimerExpiry_keeps {a : State} {qp : Nat} {s : State} (hk : Keeps a s) :
    KeepsNext a (execRnrTimerExpiry qp s) := by
  unfold execRnrTimerExpiry
  repeat' (first
    | with_reducible refine keepsNext_next ?_
    | with_reducible refine keepsNext_ite ?_ ?_
    | with_reducible assumption
    | with_reducible apply modQp_keeps
    | split)

theorem execContextSwapComplete_keeps {a : State} {qp : Nat} {s : State} (hk : Keeps a s) :
    KeepsNext a (execContextSwapComplete qp s) := by
  unfold execContextSwapComplete
  repeat' (first
    | with_reducible refine keepsNext_next ?_
    | with_reducible refine keepsNext_ite ?_ ?_
    | with_reducible assumption
    | with_reducible refine keeps_foldl ?_ (fun _ _ _ => ?_)
    | with_reducible apply runMsg_keeps
    | with_reducible apply modQp_keeps
    | with_reducible apply modNet_keeps
    | dsimp only
    | split)

theorem execKeyRevocation_keeps {a : State} {index : Nat} {s : State} (hk : Keeps a s) :
    KeepsNext a (execKeyRevocation index s) := by
  unfold execKeyRevocation
  repeat' (first
    | with_reducible refine keepsNext_next ?_
    | with_reducible refine keepsNext_ite ?_ ?_
    | with_reducible assumption
    | with_reducible apply modTrust_keeps
    | split
    | exact fun _ => ⟨rfl, Nat.le_refl _, id, List.prefix_rfl⟩)

theorem freeKey_keeps {a : State} {index : Nat} {s : State} (hk : Keeps a s) :
    Keeps a (freeKey index s) := by
  unfold freeKey
  repeat' (first
    | with_reducible assumption
    | with_reducible apply modTrust_keeps
    | exact fun _ => ⟨rfl, Nat.le_refl _, id, List.prefix_rfl⟩)

theorem endRevocation_keeps {a : State} {r : Revocation} {k : MemKey} {s : State} (hk : Keeps a s) :
    Keeps a (endRevocation r k s) := by
  unfold endRevocation
  repeat' (first
    | with_reducible assumption
    | with_reducible apply freeKey_keeps
    | with_reducible apply modTrust_keeps
    | with_reducible apply finishBg_keeps
    | with_reducible apply raise_keeps
    | dsimp only
    | split
    | exact fun _ => ⟨rfl, Nat.le_refl _, id, List.prefix_rfl⟩)

theorem execRevocationComplete_keeps {a : State} {index : Nat} {s : State} (hk : Keeps a s) :
    KeepsNext a (execRevocationComplete index s) := by
  unfold execRevocationComplete
  repeat' (first
    | with_reducible refine keepsNext_next ?_
    | with_reducible refine keepsNext_ite ?_ ?_
    | with_reducible assumption
    | with_reducible apply endRevocation_keeps
    | split)

theorem execCounterFire_keeps {a : State} {entry : Nat} {s : State} (hk : Keeps a s) :
    KeepsNext a (execCounterFire entry s) := by
  unfold execCounterFire
  repeat' (first
    | with_reducible refine keepsNext_next ?_
    | with_reducible refine keepsNext_ite ?_ ?_
    | with_reducible assumption
    | with_reducible apply modNet_keeps
    | split)

theorem execWorkRequestIssue_keeps {a : State} {qp : Nat} {s : State} (hk : Keeps a s) :
    KeepsNext a (execWorkRequestIssue qp s) := by
  unfold execWorkRequestIssue
  repeat' (first
    | with_reducible refine keepsNext_next ?_
    | with_reducible exact keepsNext_fault
    | with_reducible refine keepsNext_ite ?_ ?_
    | with_reducible assumption
    | with_reducible apply keeps_ite
    | with_reducible refine keeps_foldl ?_ (fun _ _ _ => ?_)
    | with_reducible apply issueWr_keeps
    | with_reducible apply localError_keeps
    | with_reducible apply sendNow_keeps
    | fail_if_no_progress (with_reducible refine keeps_mk_iff.2 ?_)
    | dsimp only
    | split
    | intro _)

theorem execQpError_keeps {a : State} {qp cause status : Nat} {s : State} (hk : Keeps a s) :
    KeepsNext a (execQpError qp cause status s) := by
  unfold execQpError
  repeat' (first
    | with_reducible refine keepsNext_next ?_
    | with_reducible refine keepsNext_ite ?_ ?_
    | with_reducible assumption
    | with_reducible apply qpFail_keeps
    | split)

theorem execCreateQp_keeps {a : State} {path : BcsPath} {input : Bytes} {s : State} (hk : Keeps a s) :
    KeepsNext a (execCreateQp path input s) := by
  unfold execCreateQp
  repeat' (first
    | with_reducible refine keepsNext_next ?_
    | with_reducible assumption
    | with_reducible apply modNet_keeps
    | with_reducible apply checked_keeps
    | with_reducible apply bcs_keeps
    | with_reducible apply success_keeps
    | with_reducible apply answer_keeps
    | dsimp only
    | split
    | intro _)

theorem enterQpState_keeps {b0 : State} {i : Nat} {a : QpAttr} {dst : QpState} {s : State} (hk : Keeps b0 s) :
    Keeps b0 (enterQpState i a dst s) := by
  unfold enterQpState
  repeat' (first
    | with_reducible assumption
    | with_reducible apply keeps_ite
    | with_reducible refine keeps_foldl ?_ (fun _ _ _ => ?_)
    | with_reducible apply mpAck_keeps
    | with_reducible apply qpFail_keeps
    | with_reducible apply modQp_keeps
    | with_reducible apply abandonUnit_keeps
    | dsimp only
    | split)

theorem execModifyQp_keeps {a : State} {path : BcsPath} {input : Bytes} {s : State} (hk : Keeps a s) :
    KeepsNext a (execModifyQp path input s) := by
  unfold execModifyQp
  repeat' (first
    | with_reducible refine keepsNext_next ?_
    | with_reducible assumption
    | with_reducible apply enterQpState_keeps
    | with_reducible apply checked_keeps
    | with_reducible apply bcs_keeps
    | with_reducible apply success_keeps
    | with_reducible apply invalid_keeps
    | dsimp only
    | split
    | intro _)

theorem execQueryQp_keeps {a : State} {path : BcsPath} {input : Bytes} {s : State} (hk : Keeps a s) :
    KeepsNext a (execQueryQp path input s) := by
  unfold execQueryQp
  repeat' (first
    | with_reducible refine keepsNext_next ?_
    | with_reducible assumption
    | with_reducible apply bcs_keeps
    | with_reducible apply success_keeps
    | with_reducible apply invalid_keeps
    | split
    | intro _)

theorem execDestroyQp_keeps {a : State} {path : BcsPath} {input : Bytes} {s : State} (hk : Keeps a s) :
    KeepsNext a (execDestroyQp path input s) := by
  unfold execDestroyQp
  repeat' (first
    | with_reducible refine keepsNext_next ?_
    | with_reducible assumption
    | with_reducible apply modNet_keeps
    | with_reducible apply bcs_keeps
    | with_reducible apply success_keeps
    | with_reducible apply invalid_keeps
    | split
    | intro _)

theorem execSetGid_keeps {a : State} {path : BcsPath} {input : Bytes} {s : State} (hk : Keeps a s) :
    KeepsNext a (execSetGid path input s) := by
  unfold execSetGid
  repeat' (first
    | with_reducible refine keepsNext_next ?_
    | with_reducible assumption
    | with_reducible apply modNet_keeps
    | with_reducible apply checked_keeps
    | with_reducible apply bcs_keeps
    | with_reducible apply success_keeps
    | dsimp only
    | split
    | intro _)

theorem execGetPortStatus_keeps {a : State} {path : BcsPath} {input : Bytes} {s : State} (hk : Keeps a s) :
    KeepsNext a (execGetPortStatus path input s) := by
  unfold execGetPortStatus
  repeat' (first
    | with_reducible refine keepsNext_next ?_
    | with_reducible assumption
    | with_reducible apply bcs_keeps
    | with_reducible apply success_keeps
    | with_reducible apply invalid_keeps
    | dsimp only
    | split
    | intro _)

theorem execTriggerCounter_keeps {a : State} {path : BcsPath} {input : Bytes} {s : State} (hk : Keeps a s) :
    KeepsNext a (execTriggerCounter path input s) := by
  unfold execTriggerCounter
  repeat' (first
    | with_reducible refine keepsNext_next ?_
    | with_reducible assumption
    | with_reducible apply modNet_keeps
    | with_reducible apply checked_keeps
    | with_reducible apply bcs_keeps
    | with_reducible apply success_keeps
    | dsimp only
    | split
    | intro _)

theorem modCtx_keeps {a : State} {i msn : Nat} {f : MpCtx → MpCtx} {s : State} (hk : Keeps a s) :
    Keeps a (modCtx i msn f s) := by
  unfold modCtx
  repeat' (first
    | with_reducible assumption
    | with_reducible apply modQp_keeps)

theorem mpAdmit_keeps {a : State} {i : Nat} {c : MpCtx} {k : Nat} {s : State} (hk : Keeps a s) :
    KeepsSome a (mpAdmit i c k s) := by
  unfold mpAdmit
  repeat' (first
    | with_reducible exact keepsSome_none
    | with_reducible refine keepsSome_some ?_
    | with_reducible refine keepsSome_ite ?_ ?_
    | with_reducible refine keepsSome_foldlM ?_ (fun _ _ _ => ?_)
    | with_reducible assumption
    | with_reducible apply submitEmpty_keeps
    | with_reducible apply admitUnit_keeps
    | with_reducible apply modPu_keeps
    | dsimp only
    | split)

theorem mpRelease_keeps {a : State} {i : Nat} {c : MpCtx} {k : Nat} {s : State} (hk : Keeps a s) :
    Keeps a (mpRelease i c k s) := by
  unfold mpRelease
  repeat' (first
    | with_reducible assumption
    | with_reducible apply forwardWrite_keeps
    | with_reducible apply stageUnit_keeps
    | split)

theorem mpPlace_keeps {a : State} {i : Nat} {c : MpCtx} {h : Mpeth} {payload : Bytes} {port : Nat} {s : State} (hk : Keeps a s) :
    Keeps a (mpPlace i c h payload port s) := by
  unfold mpPlace
  repeat' (first
    | with_reducible assumption
    | with_reducible apply keeps_ite
    | with_reducible apply mpRelease_keeps
    | with_reducible refine keepsSome_of (by with_reducible assumption) (mpAdmit_keeps ?_)
    | with_reducible apply modCtx_keeps
    | with_reducible apply portErr_keeps
    | with_reducible apply dropOn_keeps
    | with_reducible apply countQp_keeps
    | with_reducible apply modQp_keeps
    | with_reducible apply fillUnit_keeps
    | with_reducible apply raiseLimited_keeps
    | dsimp only
    | split
    | intro _)

theorem mpWritePacket_keeps {a : State} {h : Mpeth} {payload : Bytes} {s : State} (hk : Keeps a s) :
    Keeps a (mpWritePacket h payload s) := by
  unfold mpWritePacket
  repeat' (first
    | with_reducible assumption
    | with_reducible apply keeps_ite
    | with_reducible apply mpPlace_keeps
    | with_reducible apply mpNak_keeps
    | with_reducible apply mpAck_keeps
    | with_reducible apply noteRefused_keeps
    | with_reducible apply portErr_keeps
    | with_reducible apply dropOn_keeps
    | with_reducible apply countQp_keeps
    | with_reducible apply modQp_keeps
    | with_reducible apply raiseLimited_keeps
    | dsimp only
    | split
    | intro _)

theorem execMpWrite_keeps {a : State} {h : Mpeth} {payload : Bytes} {s : State} (hk : Keeps a s) :
    KeepsNext a (execMpWrite h payload s) := by
  unfold execMpWrite
  repeat' (first
    | with_reducible refine keepsNext_next ?_
    | with_reducible assumption
    | with_reducible apply mpWritePacket_keeps)

theorem execMpWriteImm_keeps {a : State} {h : Mpeth} {payload : Bytes} {s : State} (hk : Keeps a s) :
    KeepsNext a (execMpWriteImm h payload s) := by
  unfold execMpWriteImm
  repeat' (first
    | with_reducible refine keepsNext_next ?_
    | with_reducible assumption
    | with_reducible apply mpWritePacket_keeps)

theorem execMpMessageComplete_keeps {a : State} {qp msn : Nat} {s : State} (hk : Keeps a s) :
    KeepsNext a (execMpMessageComplete qp msn s) := by
  unfold execMpMessageComplete
  repeat' (first
    | with_reducible refine keepsNext_next ?_
    | with_reducible refine keepsNext_ite ?_ ?_
    | with_reducible assumption
    | with_reducible apply passReads_keeps
    | with_reducible apply raiseCredit_keeps
    | with_reducible apply mpAck_keeps
    | with_reducible apply postCpl_keeps
    | with_reducible apply countQp_keeps
    | with_reducible apply modQp_keeps
    | dsimp only
    | split)

theorem mpRespond_keeps {a : State} {i : Nat} {q : Qp} {msn len va rkey first : Nat} {data : Bytes} {bad : List Nat} {s : State} (hk : Keeps a s) :
    Keeps a (mpRespond i q msn len va rkey first data bad s) := by
  unfold mpRespond
  repeat' (first
    | with_reducible assumption
    | with_reducible refine keeps_foldl ?_ (fun _ _ _ => ?_)
    | with_reducible apply emit_keeps)

theorem mpPoisonSent_keeps {a : State} {i region off : Nat} {bad : List Nat} {s : State} (hk : Keeps a s) :
    Keeps a (mpPoisonSent i region off bad s) := by
  unfold mpPoisonSent
  repeat' (first
    | with_reducible assumption
    | with_reducible apply poisonBites_keeps
    | with_reducible apply raiseLimited_keeps
    | split)

theorem mpReadDone_keeps {a : State} {i msn : Nat} {s : State} (hk : Keeps a s) :
    Keeps a (mpReadDone i msn s) := by
  unfold mpReadDone
  repeat' (first
    | with_reducible assumption
    | with_reducible apply modCtx_keeps
    | with_reducible apply passReads_keeps
    | split)

theorem execMpReadReq_keeps {a : State} {h : Mpeth} {s : State} (hk : Keeps a s) :
    KeepsNext a (execMpReadReq h s) := by
  unfold execMpReadReq
  repeat' (first
    | with_reducible refine keepsNext_next ?_
    | with_reducible refine keepsNext_ite ?_ ?_
    | with_reducible assumption
    | with_reducible apply keeps_ite
    | with_reducible apply mpReadDone_keeps
    | with_reducible apply mpPoisonSent_keeps
    | with_reducible apply mpRespond_keeps
    | with_reducible apply mpNak_keeps
    | with_reducible apply dropOn_keeps
    | with_reducible apply countQp_keeps
    | with_reducible apply modQp_keeps
    | with_reducible apply readHere_keeps
    | with_reducible apply forwardRead_keeps
    | dsimp only
    | split
    | intro _)

theorem execMpReassemblyTimeout_keeps {a : State} {qp msn : Nat} {s : State} (hk : Keeps a s) :
    KeepsNext a (execMpReassemblyTimeout qp msn s) := by
  unfold execMpReassemblyTimeout
  repeat' (first
    | with_reducible refine keepsNext_next ?_
    | with_reducible refine keepsNext_ite ?_ ?_
    | with_reducible assumption
    | with_reducible apply mpNak_keeps
    | split)

theorem execCommandCapsule_keeps {a : State} {qp psn : Nat} {capsule : Bytes} {s : State} (hk : Keeps a s) :
    KeepsNext a (execCommandCapsule qp psn capsule s) := by
  unfold execCommandCapsule
  repeat' (first
    | with_reducible refine keepsNext_next ?_
    | with_reducible assumption
    | with_reducible apply arrive_keeps)

theorem execPieceDelivery_keeps {a : State} {qp stagingKey immediate va : Nat} {data : Bytes} {s : State} (hk : Keeps a s) :
    KeepsNext a (execPieceDelivery qp stagingKey immediate va data s) := by
  unfold execPieceDelivery
  repeat' (first
    | with_reducible refine keepsNext_next ?_
    | with_reducible assumption
    | with_reducible apply arrive_keeps
    | dsimp only
    | split)

theorem execTriggerArm_keeps {a : State} {qid cid : Nat} {s : State} (hk : Keeps a s) :
    KeepsNext a (execTriggerArm qid cid s) := by
  unfold execTriggerArm
  repeat' (first
    | with_reducible refine keepsNext_next ?_
    | with_reducible assumption
    | with_reducible apply runCmd_keeps
    | with_reducible apply refuseCmd_keeps
    | with_reducible apply withCmd_keeps
    | with_reducible apply modNet_keeps
    | dsimp only
    | split
    | intro _)

theorem execTriggerArmEffect_keeps {a : State} {entry : Nat} {s : State} (hk : Keeps a s) :
    KeepsNext a (execTriggerArmEffect entry s) := by
  unfold execTriggerArmEffect
  repeat' (first
    | with_reducible refine keepsNext_next ?_
    | with_reducible assumption
    | with_reducible apply complete_keeps
    | with_reducible apply modNet_keeps
    | dsimp only
    | split)

end Sys2Proof.Machine
end

