-- ==== Sys2Proof/Laws/Keeps5.lean ====
section
/-! SUPPORT. `Keeps` through the operations of ReplayCmds, PersistCmds, Integrity, Acks, Link, Complex, IntegrityCmds. -/

set_option linter.unusedTactic false
set_option linter.unreachableTactic false
set_option linter.unusedVariables false

namespace Sys2Proof.Machine

/-! ### ReplayCmds -/

theorem actForward_keeps {b0 : State} {a : CtlAct} {r off len : Nat} {s : State} (hk : Keeps b0 s) :
    Keeps b0 (actForward a r off len s) := by
  unfold actForward
  repeat' (first
    | with_reducible assumption
    | with_reducible apply keeps_ite
    | with_reducible apply ctlWait_keeps
    | with_reducible apply forwardRead_keeps
    | intro _)

theorem takeChannel_keeps {b0 : State} {a : CtlAct} {c : Nat} {filler : Bytes} {s : State} (hk : Keeps b0 s) :
    Keeps b0 (takeChannel a c filler s) := by
  unfold takeChannel
  repeat' (first
    | with_reducible assumption
    | with_reducible apply enterChannel_keeps
    | with_reducible apply modChan_keeps
    | with_reducible apply ctlDone_keeps)

theorem doReplayConfigure_keeps {b0 : State} {back : Option (Nat × Bytes × List Nat)} {a : CtlAct} {s : State} (hk : Keeps b0 s) :
    Keeps b0 (doReplayConfigure back a s) := by
  unfold doReplayConfigure
  repeat' (first
    | with_reducible assumption
    | with_reducible apply takeChannel_keeps
    | with_reducible apply actForward_keeps
    | with_reducible apply ctlChecked_keeps
    | with_reducible apply ctlFail_keeps
    | with_reducible apply poisonBites_keeps
    | split
    | intro _)

theorem doLoad_keeps {b0 : State} {back : Option (Nat × Bytes × List Nat)} {a : CtlAct} {s : State} (hk : Keeps b0 s) :
    Keeps b0 (doLoad back a s) := by
  unfold doLoad
  repeat' (first
    | with_reducible assumption
    | with_reducible apply actForward_keeps
    | with_reducible apply enterChannel_keeps
    | with_reducible apply modChan_keeps
    | with_reducible apply ctlChecked_keeps
    | with_reducible apply ctlFail_keeps
    | with_reducible apply ctlDone_keeps
    | with_reducible apply poisonBites_keeps
    | dsimp only
    | split
    | intro _)

theorem doReplayStart_keeps {b0 : State} {a : CtlAct} {s : State} (hk : Keeps b0 s) :
    Keeps b0 (doReplayStart a s) := by
  unfold doReplayStart
  repeat' (first
    | with_reducible assumption
    | with_reducible apply enterChannel_keeps
    | with_reducible apply modChan_keeps
    | with_reducible apply ctlChecked_keeps
    | with_reducible apply ctlWait_keeps
    | dsimp only
    | intro _)

theorem doReplayStop_keeps {b0 : State} {a : CtlAct} {s : State} (hk : Keeps b0 s) :
    Keeps b0 (doReplayStop a s) := by
  unfold doReplayStop
  repeat' (first
    | with_reducible assumption
    | with_reducible apply modChan_keeps
    | with_reducible apply ctlChecked_keeps
    | with_reducible apply ctlWait_keeps
    | intro _)

theorem doReplayStatus_keeps {b0 : State} {a : CtlAct} {s : State} (hk : Keeps b0 s) :
    Keeps b0 (doReplayStatus a s) := by
  unfold doReplayStatus
  repeat' (first
    | with_reducible assumption
    | with_reducible apply ctlChecked_keeps
    | with_reducible apply ctlDone_keeps
    | intro _)

theorem execReplayConfigure_keeps {a : State} {qid cid : Nat} {data : Bytes} {s : State} (hk : Keeps a s) :
    KeepsNext a (execReplayConfigure qid cid data s) := by
  unfold execReplayConfigure
  repeat' (first
    | with_reducible refine keepsNext_next ?_
    | with_reducible assumption
    | with_reducible apply doReplayConfigure_keeps
    | with_reducible apply runAct_keeps)

theorem execLoad_keeps {a : State} {qid cid : Nat} {s : State} (hk : Keeps a s) :
    KeepsNext a (execLoad qid cid s) := by
  unfold execLoad
  repeat' (first
    | with_reducible refine keepsNext_next ?_
    | with_reducible assumption
    | with_reducible apply doLoad_keeps
    | with_reducible apply refuseCmd_keeps
    | with_reducible apply withCmd_keeps
    | split
    | intro _)

theorem execReplayStart_keeps {a : State} {qid cid : Nat} {s : State} (hk : Keeps a s) :
    KeepsNext a (execReplayStart qid cid s) := by
  unfold execReplayStart
  repeat' (first
    | with_reducible refine keepsNext_next ?_
    | with_reducible assumption
    | with_reducible apply doReplayStart_keeps
    | with_reducible apply runAct_keeps)

theorem execReplayStop_keeps {a : State} {qid cid : Nat} {s : State} (hk : Keeps a s) :
    KeepsNext a (execReplayStop qid cid s) := by
  unfold execReplayStop
  repeat' (first
    | with_reducible refine keepsNext_next ?_
    | with_reducible assumption
    | with_reducible apply doReplayStop_keeps
    | with_reducible apply runAct_keeps)

theorem execReplayStatus_keeps {a : State} {qid cid : Nat} {s : State} (hk : Keeps a s) :
    KeepsNext a (execReplayStatus qid cid s) := by
  unfold execReplayStatus
  repeat' (first
    | with_reducible refine keepsNext_next ?_
    | with_reducible assumption
    | with_reducible apply doReplayStatus_keeps
    | with_reducible apply runAct_keeps)

theorem replayAct_keeps {b0 : State} {back : Option (Nat × Bytes × List Nat)} {a : CtlAct} {s : State} (hk : Keeps b0 s) :
    Keeps b0 (replayAct back a s) := by
  unfold replayAct
  repeat' (first
    | with_reducible assumption
    | with_reducible apply doReplayStatus_keeps
    | with_reducible apply doReplayStop_keeps
    | with_reducible apply doReplayStart_keeps
    | with_reducible apply doLoad_keeps
    | with_reducible apply doReplayConfigure_keeps
    | with_reducible apply ctlFail_keeps
    | split)

theorem execReplayControl_keeps {a : State} {path : BcsPath} {input : Bytes} {s : State} (hk : Keeps a s) :
    KeepsNext a (execReplayControl path input s) := by
  unfold execReplayControl
  repeat' (first
    | with_reducible refine keepsNext_next ?_
    | with_reducible assumption
    | with_reducible apply replayAct_keeps
    | with_reducible apply bcs_keeps
    | with_reducible apply invalid_keeps
    | split)

theorem execChannelStartBeat_keeps {a : State} {channel : Nat} {s : State} (hk : Keeps a s) :
    KeepsNext a (execChannelStartBeat channel s) := by
  unfold execChannelStartBeat
  repeat' (first
    | with_reducible refine keepsNext_next ?_
    | with_reducible refine keepsNext_ite ?_ ?_
    | with_reducible assumption
    | with_reducible apply issueStep_keeps
    | with_reducible apply enterChannel_keeps
    | with_reducible apply modChan_keeps
    | with_reducible apply ctlDone_keeps
    | dsimp only
    | split)

theorem execChannelStopBeat_keeps {a : State} {channel : Nat} {s : State} (hk : Keeps a s) :
    KeepsNext a (execChannelStopBeat channel s) := by
  unfold execChannelStopBeat
  repeat' (first
    | with_reducible refine keepsNext_next ?_
    | with_reducible assumption
    | with_reducible apply keeps_ite
    | with_reducible apply stopChannel_keeps
    | with_reducible apply modChan_keeps
    | with_reducible apply ctlDone_keeps
    | dsimp only
    | split)

theorem execReplayPrefetch_keeps {a : State} {channel : Nat} {s : State} (hk : Keeps a s) :
    KeepsNext a (execReplayPrefetch channel s) := by
  unfold execReplayPrefetch
  repeat' (first
    | with_reducible refine keepsNext_next ?_
    | with_reducible refine keepsNext_ite ?_ ?_
    | with_reducible assumption
    | with_reducible apply fetchNext_keeps)

theorem execRecordStaged_keeps {a : State} {channel : Nat} {s : State} (hk : Keeps a s) :
    KeepsNext a (execRecordStaged channel s) := by
  unfold execRecordStaged
  repeat' (first
    | with_reducible refine keepsNext_next ?_
    | with_reducible refine keepsNext_ite ?_ ?_
    | with_reducible assumption
    | with_reducible apply modChan_keeps)

theorem execFrameLaunch_keeps {a : State} {channel : Nat} {cycle : Nat} {s : State} (hk : Keeps a s) :
    KeepsNext a (execFrameLaunch channel cycle s) := by
  unfold execFrameLaunch
  repeat' (first
    | with_reducible refine keepsNext_next ?_
    | with_reducible refine keepsNext_ite ?_ ?_
    | with_reducible assumption
    | with_reducible apply keeps_ite
    | with_reducible apply stopIfDone_keeps
    | with_reducible apply modChan_keeps
    | with_reducible apply poisonBites_keeps
    | with_reducible apply raiseLimited_keeps
    | with_reducible apply emit_keeps
    | dsimp only
    | split)

/-! ### PersistCmds -/

theorem admitVolatile_keeps {a : State} {u : WUnit} {s : State} (hk : Keeps a s) :
    Keeps a (admitVolatile u s) := by
  unfold admitVolatile
  repeat' (first
    | with_reducible assumption
    | with_reducible apply keeps_ite
    | with_reducible apply modPu_keeps)

theorem execWriteAdmission_keeps {a : State} {unit : Nat} {s : State} (hk : Keeps a s) :
    KeepsNext a (execWriteAdmission unit s) := by
  unfold execWriteAdmission
  repeat' (first
    | with_reducible refine keepsNext_next ?_
    | with_reducible refine keepsNext_ite ?_ ?_
    | with_reducible assumption
    | with_reducible apply admitVolatile_keeps
    | with_reducible apply admitUnit_keeps
    | split)

theorem execAnchorUpdate_keeps {a : State} {s : State} (hk : Keeps a s) :
    KeepsNext a (execAnchorUpdate s) := by
  unfold execAnchorUpdate
  repeat' (first
    | with_reducible refine keepsNext_next ?_
    | with_reducible refine keepsNext_ite ?_ ?_
    | with_reducible assumption
    | with_reducible apply modPu_keeps)

theorem execAdmissionWaitLimit_keeps {a : State} {s : State} (hk : Keeps a s) :
    KeepsNext a (execAdmissionWaitLimit s) := by
  unfold execAdmissionWaitLimit
  repeat' (first
    | with_reducible refine keepsNext_next ?_
    | with_reducible refine keepsNext_ite ?_ ?_
    | with_reducible assumption
    | with_reducible apply modPu_keeps
    | with_reducible apply raise_keeps)

theorem retireRow_keeps {a : State} {row : Nat} {s : State} (hk : Keeps a s) :
    Keeps a (retireRow row s) := by
  unfold retireRow
  repeat' (first
    | with_reducible assumption
    | with_reducible apply keeps_ite
    | with_reducible apply setChest_keeps
    | with_reducible apply modPu_keeps
    | with_reducible apply raise_keeps
    | dsimp only
    | split
    | intro _)

theorem execChestVerifyFailure_keeps {a : State} {row : Nat} {s : State} (hk : Keeps a s) :
    KeepsNext a (execChestVerifyFailure row s) := by
  unfold execChestVerifyFailure
  repeat' (first
    | with_reducible refine keepsNext_next ?_
    | with_reducible refine keepsNext_ite ?_ ?_
    | with_reducible assumption
    | with_reducible apply retireRow_keeps
    | with_reducible apply noteSpare_keeps
    | with_reducible apply wearLog_keeps
    | with_reducible apply modPu_keeps
    | with_reducible apply raise_keeps)

theorem execDrawerBankError_keeps {a : State} {bank slot : Nat} {s : State} (hk : Keeps a s) :
    KeepsNext a (execDrawerBankError bank slot s) := by
  unfold execDrawerBankError
  repeat' (first
    | with_reducible refine keepsNext_next ?_
    | with_reducible refine keepsNext_ite ?_ ?_
    | with_reducible assumption
    | with_reducible apply noteSpare_keeps
    | with_reducible apply setChest_keeps
    | with_reducible apply modPu_keeps
    | with_reducible apply raise_keeps)

theorem execDrawerBankDisable_keeps {a : State} {bank : Nat} {s : State} (hk : Keeps a s) :
    KeepsNext a (execDrawerBankDisable bank s) := by
  unfold execDrawerBankDisable
  repeat' (first
    | with_reducible refine keepsNext_next ?_
    | with_reducible refine keepsNext_ite ?_ ?_
    | with_reducible assumption
    | with_reducible apply noteSpare_keeps
    | with_reducible apply wearLog_keeps
    | with_reducible apply modPu_keeps
    | with_reducible apply raise_keeps)

/-! ### Integrity -/

theorem noteUe_keeps {a : State} {mem addr : Nat} {s : State} (hk : Keeps a s) :
    Keeps a (noteUe mem addr s) := by
  unfold noteUe
  repeat' (first
    | with_reducible assumption
    | with_reducible apply keeps_ite
    | with_reducible apply modEcc_keeps
    | with_reducible apply advance_keeps
    | dsimp only
    | split
    | intro _)

theorem scrubNote_keeps {a : State} {kind mem region : Nat} {line : Option Nat} {addr : Nat} {s : State} (hk : Keeps a s) :
    Keeps a (scrubNote kind mem region line addr s) := by
  unfold scrubNote
  repeat' (first
    | with_reducible assumption
    | with_reducible apply keeps_ite
    | with_reducible refine keeps_foldl ?_ (fun _ _ _ => ?_)
    | with_reducible apply modEcc_keeps
    | fail_if_no_progress (with_reducible refine keeps_mk_iff.2 ?_)
    | dsimp only
    | split
    | intro _)

theorem recoveredEvent_keeps {a : State} {mem copy region : Nat} {line : Option Nat} {addr : Nat} {s : State} (hk : Keeps a s) :
    Keeps a (recoveredEvent mem copy region line addr s) := by
  unfold recoveredEvent
  repeat' (first
    | with_reducible assumption
    | with_reducible apply keeps_ite
    | with_reducible refine keeps_foldl ?_ (fun _ _ _ => ?_)
    | with_reducible apply scrubNote_keeps
    | with_reducible apply modEcc_keeps
    | with_reducible apply raise_keeps
    | fail_if_no_progress (with_reducible refine keeps_mk_iff.2 ?_)
    | dsimp only
    | split
    | intro _)

theorem noteLost_keeps {a : State} {mem region : Nat} {lines : List (Nat × Nat)} {s : State} (hk : Keeps a s) :
    Keeps a (noteLost mem region lines s) := by
  unfold noteLost
  repeat' (first
    | with_reducible assumption
    | with_reducible apply keeps_ite
    | with_reducible refine keeps_foldl ?_ (fun _ _ _ => ?_)
    | with_reducible apply scrubNote_keeps
    | with_reducible apply modEcc_keeps
    | with_reducible apply ledgerAdd_keeps
    | with_reducible apply raise_keeps
    | fail_if_no_progress (with_reducible refine keeps_mk_iff.2 ?_)
    | dsimp only
    | split
    | intro _)

theorem noteLostKeys_keeps {a : State} {place : Nat → Nat} {keys : List Nat} {s : State} (hk : Keeps a s) :
    Keeps a (noteLostKeys place keys s) := by
  unfold noteLostKeys
  repeat' (first
    | with_reducible assumption
    | with_reducible apply noteLost_keeps
    | dsimp only
    | split)

theorem askCopy_keeps {b0 : State} {drawer : Bool} {a index region line : Nat} {s : State} (hk : Keeps b0 s) :
    Keeps b0 (askCopy drawer a index region line s) := by
  unfold askCopy
  repeat' (first
    | with_reducible assumption
    | with_reducible apply forwardRead_keeps)

theorem repairBack_keeps {b0 : State} {drawer : Bool} {a index status : Nat} {data : Bytes} {bad : Bool} {s : State} (hk : Keeps b0 s) :
    Keeps b0 (repairBack drawer a index status data bad s) := by
  unfold repairBack
  repeat' (first
    | with_reducible assumption
    | with_reducible apply keeps_ite
    | with_reducible apply noteLost_keeps
    | with_reducible apply recoveredEvent_keeps
    | with_reducible apply modPu_keeps
    | dsimp only
    | split
    | intro _)

theorem repairRow_keeps {a : State} {addr : Nat} {s : State} (hk : Keeps a s) :
    Keeps a (repairRow addr s) := by
  unfold repairRow
  repeat' (first
    | with_reducible assumption
    | with_reducible apply keeps_ite
    | with_reducible apply modEcc_keeps
    | with_reducible apply mapOut_keeps
    | with_reducible apply noteSpare_keeps
    | with_reducible apply wearLog_keeps
    | with_reducible apply raise_keeps
    | dsimp only
    | intro _)

theorem openWindow_keeps {a : State} {s : State} (hk : Keeps a s) :
    Keeps a (openWindow s) := by
  unfold openWindow
  repeat' (first
    | with_reducible assumption
    | with_reducible apply keeps_ite
    | with_reducible refine keeps_foldl ?_ (fun _ _ _ => ?_)
    | with_reducible apply modEcc_keeps
    | fail_if_no_progress (with_reducible refine keeps_mk_iff.2 ?_)
    | dsimp only
    | split
    | intro _)

theorem noteCe_keeps {a : State} {mem : Nat} {s : State} (hk : Keeps a s) :
    Keeps a (noteCe mem s) := by
  unfold noteCe
  repeat' (first
    | with_reducible assumption
    | with_reducible apply keeps_ite
    | with_reducible refine keeps_foldl ?_ (fun _ _ _ => ?_)
    | with_reducible apply openWindow_keeps
    | with_reducible apply modEcc_keeps
    | with_reducible apply raise_keeps
    | fail_if_no_progress (with_reducible refine keeps_mk_iff.2 ?_)
    | dsimp only
    | split
    | intro _)

theorem noteCes_keeps {a : State} {mem : Nat} {y0 : Nat} {s : State} (hk : Keeps a s) :
    Keeps a (noteCes mem y0 s) := by
  induction y0 generalizing s with
  | zero => exact hk
  | succ n ih =>
    unfold noteCes
    exact ih (noteCe_keeps hk)

theorem noteShelfCe_keeps {a : State} {addr : Nat} {s : State} (hk : Keeps a s) :
    Keeps a (noteShelfCe addr s) := by
  unfold noteShelfCe
  repeat' (first
    | with_reducible assumption
    | with_reducible apply keeps_ite
    | with_reducible refine keeps_foldl ?_ (fun _ _ _ => ?_)
    | with_reducible apply noteCe_keeps
    | with_reducible apply repairRow_keeps
    | with_reducible apply modEcc_keeps
    | fail_if_no_progress (with_reducible refine keeps_mk_iff.2 ?_)
    | dsimp only
    | split
    | intro _)

theorem noteCorrected_keeps {a : State} {c : Corrected} {s : State} (hk : Keeps a s) :
    Keeps a (noteCorrected c s) := by
  unfold noteCorrected
  repeat' (first
    | with_reducible assumption
    | with_reducible apply keeps_ite
    | with_reducible refine keeps_foldl ?_ (fun _ _ _ => ?_)
    | with_reducible apply noteShelfCe_keeps
    | with_reducible apply noteCes_keeps
    | fail_if_no_progress (with_reducible refine keeps_mk_iff.2 ?_)
    | dsimp only
    | split
    | intro _)

theorem noteFind_keeps {a : State} {f : ScrubFind} {s : State} (hk : Keeps a s) :
    Keeps a (noteFind f s) := by
  unfold noteFind
  repeat' (first
    | with_reducible exact keepsSome_none
    | with_reducible refine keepsSome_some ?_
    | with_reducible refine keepsSome_ite ?_ ?_
    | with_reducible refine keepsSome_map (fun _ _ => ?_)
    | with_reducible refine keepsSome_bind (fun _ _ => ?_)
    | with_reducible refine keepsSome_foldlM ?_ (fun _ _ _ => ?_)
    | with_reducible refine keepsSome_getD ?_ ?_
    | with_reducible assumption
    | with_reducible apply keeps_ite
    | with_reducible refine keeps_foldl ?_ (fun _ _ _ => ?_)
    | with_reducible apply noteShelfCe_keeps
    | with_reducible apply noteCe_keeps
    | with_reducible apply modEcc_keeps
    | fail_if_no_progress (with_reducible refine keeps_mk_iff.2 ?_)
    | dsimp only
    | split
    | intro _)

theorem rebuildLine_keeps {a : State} {lost : List Nat} {key : Nat} {s : State} (hk : Keeps a s) :
    Keeps a (rebuildLine lost key s) := by
  unfold rebuildLine
  repeat' (first
    | with_reducible assumption
    | with_reducible apply modTi_keeps
    | dsimp only
    | split
    | exact fun _ h => h
    | exact fun _ => memWriteLine_wf _ _)

theorem rebuildPage_keeps {a : State} {page : Nat} {s : State} (hk : Keeps a s) :
    Keeps a (rebuildPage page s) := by
  unfold rebuildPage
  repeat' (first
    | with_reducible assumption
    | with_reducible apply modTi_keeps
    | dsimp only
    | exact fun _ h => h)

/-! ### Acks -/

theorem formed_keeps {a : State} {s : State} (hk : Keeps a s) :
    Keeps a (formed s) := by
  unfold formed
  repeat' (first
    | with_reducible assumption
    | with_reducible apply keeps_ite
    | with_reducible apply modLink_keeps
    | with_reducible apply modPair_keeps
    | with_reducible apply journalMeta_keeps
    | with_reducible apply raise_keeps
    | dsimp only
    | split
    | intro _)

theorem unpair_keeps {a : State} {s : State} (hk : Keeps a s) :
    Keeps a (unpair s) := by
  unfold unpair
  repeat' (first
    | with_reducible assumption
    | with_reducible apply modPair_keeps)

theorem metaAct_keeps {b0 : State} {seq : Nat} {a : MetaAct} {s : State} (hk : Keeps b0 s) :
    Keeps b0 (metaAct seq a s) := by
  unfold metaAct
  repeat' (first
    | with_reducible assumption
    | with_reducible apply unpair_keeps
    | with_reducible apply formed_keeps
    | with_reducible apply dropRegion_keeps
    | with_reducible apply applyItem_keeps
    | with_reducible apply modPair_keeps
    | with_reducible apply modTrust_keeps
    | with_reducible apply finishBg_keeps
    | with_reducible apply setReason_keeps
    | with_reducible apply releaseFrom_keeps
    | with_reducible apply modReg_keeps
    | with_reducible apply startCkpt_keeps
    | with_reducible apply sendMsg_keeps
    | with_reducible apply modRegion_keeps
    | with_reducible apply raise_keeps
    | fail_if_no_progress (with_reducible refine keeps_mk_iff.2 ?_)
    | dsimp only
    | split
    | exact fun _ => ⟨rfl, Nat.le_refl _, id, List.prefix_rfl⟩)

theorem settleMeta_keeps {a : State} {id : Nat} {s : State} (hk : Keeps a s) :
    Keeps a (settleMeta id s) := by
  unfold settleMeta
  repeat' (first
    | with_reducible assumption
    | with_reducible apply keeps_ite
    | with_reducible refine keeps_foldl ?_ (fun _ _ _ => ?_)
    | with_reducible apply metaAct_keeps
    | with_reducible apply modPu_keeps
    | split
    | intro _)

theorem execJournalRecordComplete_keeps {a : State} {seq : Nat} {s : State} (hk : Keeps a s) :
    KeepsNext a (execJournalRecordComplete seq s) := by
  unfold execJournalRecordComplete
  repeat' (first
    | with_reducible refine keepsNext_next ?_
    | with_reducible refine keepsNext_ite ?_ ?_
    | with_reducible assumption
    | with_reducible apply settleMeta_keeps
    | with_reducible apply modPu_keeps
    | dsimp only
    | split)

theorem execMetaDone_keeps {a : State} {seq : Nat} {s : State} (hk : Keeps a s) :
    KeepsNext a (execMetaDone seq s) := by
  unfold execMetaDone
  repeat' (first
    | with_reducible refine keepsNext_next ?_
    | with_reducible assumption
    | with_reducible apply settleMeta_keeps
    | with_reducible apply modPu_keeps
    | split)

theorem markSegments_keeps {a : State} {u : WUnit} {s : State} (hk : Keeps a s) :
    Keeps a (markSegments u s) := by
  unfold markSegments
  repeat' (first
    | with_reducible assumption
    | with_reducible apply keeps_ite
    | with_reducible apply modPair_keeps)

theorem patchHeads_keeps {a : State} {r : Nat} {l : List LineWrite} {s : State} (hk : Keeps a s) :
    Keeps a (patchHeads r l s) := by
  unfold patchHeads
  repeat' (first
    | with_reducible assumption
    | with_reducible apply modCxl_keeps)

theorem ackReaction_keeps {a : State} {u : WUnit} {s : State} (hk : Keeps a s) :
    Keeps a (ackReaction u s) := by
  unfold ackReaction
  repeat' (first
    | with_reducible assumption
    | with_reducible apply modCtx_keeps
    | with_reducible apply bureauAcked_keeps
    | with_reducible apply releaseReads_keeps
    | with_reducible apply fwdAnswer_keeps
    | with_reducible apply finishWr_keeps
    | with_reducible apply rxPieceDone_keeps
    | with_reducible apply captureAcked_keeps
    | with_reducible apply gqpPieceDone_keeps
    | with_reducible apply sendCmp_keeps
    | split)

theorem ackVolatile_keeps {a : State} {u : WUnit} {s : State} (hk : Keeps a s) :
    KeepsSome a (ackVolatile u s) := by
  unfold ackVolatile
  repeat' (first
    | with_reducible refine keepsSome_map (fun _ _ => ?_)
    | with_reducible assumption
    | with_reducible refine keeps_foldl ?_ (fun _ _ _ => ?_)
    | with_reducible apply patchHeads_keeps
    | with_reducible refine keepsSome_of (by with_reducible assumption) (placeLines_keeps ?_)
    | with_reducible apply zeroChunk_keeps
    | with_reducible apply modPu_keeps)

theorem ackPersistent_keeps {a : State} {u : WUnit} {s : State} (hk : Keeps a s) :
    Keeps a (ackPersistent u s) := by
  unfold ackPersistent
  repeat' (first
    | with_reducible assumption
    | with_reducible refine keeps_foldl ?_ (fun _ _ _ => ?_)
    | with_reducible apply markSegments_keeps
    | with_reducible apply cacheAck_keeps
    | with_reducible apply ledgerWrite_keeps
    | with_reducible apply holdUnit_keeps)

theorem execWriteAcknowledge_keeps {a : State} {unit : Nat} {s : State} (hk : Keeps a s) :
    KeepsNext a (execWriteAcknowledge unit s) := by
  unfold execWriteAcknowledge
  repeat' (first
    | with_reducible refine keepsNext_next ?_
    | with_reducible refine keepsNext_ite ?_ ?_
    | with_reducible assumption
    | with_reducible apply keeps_ite
    | with_reducible refine keeps_foldl ?_ (fun _ _ _ => ?_)
    | with_reducible apply ackPersistent_keeps
    | with_reducible refine keepsSome_of (by with_reducible assumption) (ackVolatile_keeps ?_)
    | with_reducible apply ackReaction_keeps
    | with_reducible refine keepsSome_of (by with_reducible assumption) (placeResync_keeps ?_)
    | with_reducible apply waitSlot_keeps
    | with_reducible apply modPu_keeps
    | split
    | intro _)

theorem cxlReadBack_keeps {a : State} {head tag region line status : Nat} {data : Bytes} {bad : List Nat} {s : State} (hk : Keeps a s) :
    Keeps a (cxlReadBack head tag region line status data bad s) := by
  unfold cxlReadBack
  repeat' (first
    | with_reducible assumption
    | with_reducible apply keeps_ite
    | with_reducible refine keeps_foldl ?_ (fun _ _ _ => ?_)
    | with_reducible apply poisonBites_keeps
    | with_reducible apply advance_keeps
    | with_reducible apply sendData_keeps
    | fail_if_no_progress (with_reducible refine keeps_mk_iff.2 ?_)
    | dsimp only
    | split
    | intro _)

theorem rdmaReadBack_keeps {a : State} {qp psn piece status : Nat} {data : Bytes} {bad : List Nat} {s : State} (hk : Keeps a s) :
    Keeps a (rdmaReadBack qp psn piece status data bad s) := by
  unfold rdmaReadBack
  repeat' (first
    | with_reducible assumption
    | with_reducible apply keeps_ite
    | with_reducible apply rxPieceDone_keeps
    | with_reducible apply nakFail_keeps
    | with_reducible apply modQp_keeps
    | intro _)

theorem wrReadBack_keeps {a : State} {qp psn status : Nat} {data : Bytes} {bad : List Nat} {s : State} (hk : Keeps a s) :
    Keeps a (wrReadBack qp psn status data bad s) := by
  unfold wrReadBack
  repeat' (first
    | with_reducible assumption
    | with_reducible apply keeps_ite
    | with_reducible apply localError_keeps
    | with_reducible apply countQp_keeps
    | with_reducible apply poisonBites_keeps
    | with_reducible apply emit_keeps
    | split
    | intro _)

theorem mpReadBack_keeps {a : State} {qp msn first status : Nat} {data : Bytes} {bad : List Nat} {s : State} (hk : Keeps a s) :
    Keeps a (mpReadBack qp msn first status data bad s) := by
  unfold mpReadBack
  repeat' (first
    | with_reducible assumption
    | with_reducible apply keeps_ite
    | with_reducible apply mpReadDone_keeps
    | with_reducible apply mpPoisonSent_keeps
    | with_reducible apply mpRespond_keeps
    | with_reducible apply mpNak_keeps
    | dsimp only
    | split
    | intro _)

theorem fwdBack_keeps {a : State} {o : FwdOrigin} {status : Nat} {poison : List Nat} {data : Bytes} {s : State} (hk : Keeps a s) :
    Keeps a (fwdBack o status poison data s) := by
  unfold fwdBack
  repeat' (first
    | with_reducible assumption
    | with_reducible apply keeps_ite
    | with_reducible refine keeps_foldl ?_ (fun _ _ _ => ?_)
    | with_reducible apply mpReadBack_keeps
    | with_reducible apply wrReadBack_keeps
    | with_reducible apply rdmaReadBack_keeps
    | with_reducible apply cxlReadBack_keeps
    | with_reducible apply repairBack_keeps
    | with_reducible apply replayAct_keeps
    | with_reducible apply modCtx_keeps
    | with_reducible apply bureauAcked_keeps
    | with_reducible apply releaseReads_keeps
    | with_reducible apply fwdAnswer_keeps
    | with_reducible apply cxlWrite_keeps
    | with_reducible apply cxlRead_keeps
    | with_reducible apply modHead_keeps
    | with_reducible apply modCxl_keeps
    | with_reducible apply mpNak_keeps
    | with_reducible apply finishWr_keeps
    | with_reducible apply localError_keeps
    | with_reducible apply rxPieceDone_keeps
    | with_reducible apply nakFail_keeps
    | with_reducible apply drainBack_keeps
    | with_reducible apply fetchBack_keeps
    | with_reducible apply gqpPieceDone_keeps
    | with_reducible apply gqpReadBack_keeps
    | with_reducible apply modQp_keeps
    | with_reducible apply answerO_keeps
    | with_reducible apply finishBg_keeps
    | with_reducible apply bcs_keeps
    | with_reducible apply sendCmp_keeps
    | fail_if_no_progress (with_reducible refine keeps_mk_iff.2 ?_)
    | dsimp only
    | split
    | intro _)

theorem execFwdResponse_keeps {a : State} {mtag status : Nat} {poison : List Nat} {data : Bytes} {s : State} (hk : Keeps a s) :
    KeepsNext a (execFwdResponse mtag status poison data s) := by
  unfold execFwdResponse
  repeat' (first
    | with_reducible refine keepsNext_next ?_
    | with_reducible assumption
    | with_reducible apply fwdBack_keeps
    | with_reducible apply modPair_keeps
    | split)

theorem execFwdRequest_keeps {a : State} {mtag region offset : Nat} {op : FwdOp} {s : State} (hk : Keeps a s) :
    KeepsNext a (execFwdRequest mtag region offset op s) := by
  unfold execFwdRequest
  repeat' (first
    | with_reducible refine keepsNext_next ?_
    | with_reducible assumption
    | with_reducible apply keeps_ite
    | with_reducible apply serveFwd_keeps)

theorem execBcsResponse_keeps {a : State} {mtag rc : Nat} {output : Bytes} {s : State} (hk : Keeps a s) :
    KeepsNext a (execBcsResponse mtag rc output s) := by
  unfold execBcsResponse
  repeat' (first
    | with_reducible refine keepsNext_next ?_
    | with_reducible exact keepsNext_fault
    | with_reducible refine keepsNext_ite ?_ ?_
    | with_reducible assumption
    | with_reducible apply keeps_ite
    | with_reducible refine keeps_foldl ?_ (fun _ _ _ => ?_)
    | with_reducible apply detachHere_keeps
    | with_reducible apply modPair_keeps
    | with_reducible apply finishBg_keeps
    | with_reducible apply bcs_keeps
    | fail_if_no_progress (with_reducible refine keeps_mk_iff.2 ?_)
    | dsimp only
    | split
    | intro _)

/-! ### Link -/

theorem failForwarded_keeps {a : State} {s : State} (hk : Keeps a s) :
    Keeps a (failForwarded s) := by
  unfold failForwarded
  repeat' (first
    | with_reducible assumption
    | with_reducible refine keeps_foldl ?_ (fun _ _ _ => ?_)
    | with_reducible apply fwdBack_keeps
    | with_reducible apply modPair_keeps
    | with_reducible apply finishBg_keeps
    | with_reducible apply raise_keeps
    | dsimp only
    | split)

theorem dropMoves_keeps {a : State} {s : State} (hk : Keeps a s) :
    Keeps a (dropMoves s) := by
  unfold dropMoves
  repeat' (first
    | with_reducible assumption
    | with_reducible refine keeps_foldl ?_ (fun _ _ _ => ?_)
    | with_reducible apply modPair_keeps
    | with_reducible apply modPu_keeps
    | with_reducible apply answer_keeps
    | split)

theorem forgetPartner_keeps {a : State} {s : State} (hk : Keeps a s) :
    Keeps a (forgetPartner s) := by
  unfold forgetPartner
  repeat' (first
    | with_reducible assumption
    | with_reducible refine keeps_foldl ?_ (fun _ _ _ => ?_)
    | with_reducible apply settleMeta_keeps
    | with_reducible apply modPu_keeps)

theorem leaveService_keeps {a : State} {to' : LinkSt} {s : State} (hk : Keeps a s) :
    Keeps a (leaveService to' s) := by
  unfold leaveService
  repeat' (first
    | with_reducible assumption
    | with_reducible apply forgetPartner_keeps
    | with_reducible apply dropMoves_keeps
    | with_reducible apply failForwarded_keeps
    | with_reducible apply failFormation_keeps
    | with_reducible apply modLink_keeps
    | with_reducible apply releaseHeld_keeps
    | with_reducible apply modPair_keeps)

theorem linkDown_keeps {a : State} {cause : Nat} {to' : LinkSt} {s : State} (hk : Keeps a s) :
    Keeps a (linkDown cause to' s) := by
  unfold linkDown
  repeat' (first
    | with_reducible assumption
    | with_reducible apply leaveService_keeps
    | with_reducible apply raise_keeps)

theorem retrain_keeps {a : State} {s : State} (hk : Keeps a s) :
    Keeps a (retrain s) := by
  unfold retrain
  repeat' (first
    | with_reducible assumption
    | with_reducible apply keeps_ite
    | with_reducible apply linkDown_keeps
    | with_reducible apply modLink_keeps
    | with_reducible apply noteSpare_keeps
    | with_reducible apply wearLog_keeps
    | with_reducible apply raise_keeps
    | dsimp only
    | split
    | intro _)

theorem execLaneFault_keeps {a : State} {lane : Nat} {lostLock : Bool} {s : State} (hk : Keeps a s) :
    KeepsNext a (execLaneFault lane lostLock s) := by
  unfold execLaneFault
  repeat' (first
    | with_reducible refine keepsNext_next ?_
    | with_reducible refine keepsNext_ite ?_ ?_
    | with_reducible assumption
    | with_reducible apply keeps_ite
    | with_reducible apply retrain_keeps
    | with_reducible apply modLink_keeps
    | dsimp only
    | intro _)

theorem execMplLinkInService_keeps {a : State} {nonce : Bytes} {s : State} (hk : Keeps a s) :
    KeepsNext a (execMplLinkInService nonce s) := by
  unfold execMplLinkInService
  repeat' (first
    | with_reducible refine keepsNext_next ?_
    | with_reducible refine keepsNext_ite ?_ ?_
    | with_reducible assumption
    | with_reducible apply modLink_keeps
    | with_reducible apply noteSpare_keeps
    | with_reducible apply raise_keeps
    | with_reducible apply advance_keeps
    | with_reducible apply emit_keeps)

theorem sendBatch_keeps {a : State} {s : State} (hk : Keeps a s) :
    Keeps a (sendBatch s) := by
  unfold sendBatch
  repeat' (first
    | with_reducible assumption
    | with_reducible apply keeps_ite
    | with_reducible apply modLink_keeps
    | with_reducible apply emit_keeps
    | dsimp only
    | split
    | intro _)

theorem execBatchReceive_keeps {a : State} {number : Nat} {flits : List Bytes} {s : State} (hk : Keeps a s) :
    KeepsNext a (execBatchReceive number flits s) := by
  unfold execBatchReceive
  repeat' (first
    | with_reducible refine keepsNext_next ?_
    | with_reducible refine keepsNext_ite ?_ ?_
    | with_reducible assumption
    | with_reducible apply leaveService_keeps
    | with_reducible apply modLink_keeps)

theorem execBatchAck_keeps {a : State} {number : Nat} {s : State} (hk : Keeps a s) :
    KeepsNext a (execBatchAck number s) := by
  unfold execBatchAck
  repeat' (first
    | with_reducible refine keepsNext_next ?_
    | with_reducible assumption
    | with_reducible apply modLink_keeps)

theorem countResent_keeps {a : State} {n : Nat} {s : State} (hk : Keeps a s) :
    Keeps a (countResent n s) := by
  unfold countResent
  repeat' (first
    | with_reducible assumption
    | with_reducible apply keeps_ite
    | with_reducible apply modLink_keeps
    | with_reducible apply raise_keeps
    | intro _)

theorem execBatchNak_keeps {a : State} {number : Nat} {s : State} (hk : Keeps a s) :
    KeepsNext a (execBatchNak number s) := by
  unfold execBatchNak
  repeat' (first
    | with_reducible refine keepsNext_next ?_
    | with_reducible refine keepsNext_ite ?_ ?_
    | with_reducible assumption
    | with_reducible apply countResent_keeps
    | with_reducible apply linkDown_keeps
    | with_reducible apply modLink_keeps)

/-! ### Complex -/

theorem orphan_keeps {a : State} {s : State} (hk : Keeps a s) :
    Keeps a (orphan s) := by
  unfold orphan
  repeat' (first
    | with_reducible assumption
    | with_reducible apply modCxl_keeps
    | with_reducible apply modCap_keeps
    | with_reducible apply modPair_keeps
    | with_reducible apply modTrust_keeps
    | with_reducible apply modNor_keeps
    | with_reducible apply modReg_keeps
    | with_reducible apply modPu_keeps
    | with_reducible apply modGqp_keeps
    | dsimp only
    | exact fun _ h => h
    | exact fun _ => ⟨rfl, Nat.le_refl _, id, List.prefix_rfl⟩)

theorem interrupt_keeps {a : State} {s : State} (hk : Keeps a s) :
    Keeps a (interrupt s) := by
  unfold interrupt
  repeat' (first
    | with_reducible assumption
    | with_reducible apply orphan_keeps
    | with_reducible apply modMc_keeps
    | exact fun _ => mcCanonical_same rfl rfl)

theorem modSlot_keeps {a : State} {n : Nat} {f : FwSlot → FwSlot} {s : State} (hk : Keeps a s) :
    Keeps a (modSlot n f s) := by
  unfold modSlot
  repeat' (first
    | with_reducible assumption
    | with_reducible apply modMc_keeps
    | split
    | exact fun _ => mcCanonical_same rfl rfl)

theorem dropTransfer_keeps {a : State} {what : Nat} {s : State} (hk : Keeps a s) :
    Keeps a (dropTransfer what s) := by
  unfold dropTransfer
  repeat' (first
    | with_reducible assumption
    | with_reducible apply modSlot_keeps
    | with_reducible apply modMc_keeps
    | with_reducible apply raise_keeps
    | split
    | exact fun _ => mcCanonical_same rfl rfl)

theorem resetSigner_keeps {a : State} {s : State} (hk : Keeps a s) :
    Keeps a (resetSigner s) := by
  unfold resetSigner
  repeat' (first
    | with_reducible assumption
    | with_reducible apply modSigner_keeps
    | dsimp only
    | exact fun _ => List.prefix_rfl)

theorem startRestart_keeps {a : State} {cause : Nat} {toRom : Bool} {s : State} (hk : Keeps a s) :
    Keeps a (startRestart cause toRom s) := by
  unfold startRestart
  repeat' (first
    | with_reducible assumption
    | with_reducible apply resetSigner_keeps
    | with_reducible apply dropTransfer_keeps
    | with_reducible apply interrupt_keeps
    | with_reducible apply modMc_keeps
    | exact fun _ => mcCanonical_same rfl rfl)

theorem noComplex_keeps {a : State} {cause : Nat} {s : State} (hk : Keeps a s) :
    Keeps a (noComplex cause s) := by
  unfold noComplex
  repeat' (first
    | with_reducible assumption
    | with_reducible refine keeps_foldl ?_ (fun _ _ _ => ?_)
    | with_reducible apply dropTransfer_keeps
    | with_reducible apply interrupt_keeps
    | with_reducible apply modMc_keeps
    | with_reducible apply answer_keeps
    | with_reducible apply raise_keeps
    | exact fun _ => mcCanonical_same rfl rfl)

theorem lockstepFailure_keeps {a : State} {sramError : Bool} {s : State} (hk : Keeps a s) :
    Keeps a (lockstepFailure sramError s) := by
  unfold lockstepFailure
  repeat' (first
    | with_reducible assumption
    | with_reducible apply keeps_ite
    | with_reducible apply noComplex_keeps
    | with_reducible apply startRestart_keeps
    | with_reducible apply modMc_keeps
    | with_reducible apply noteSpare_keeps
    | with_reducible apply wearLog_keeps
    | with_reducible apply raise_keeps
    | dsimp only
    | split
    | exact fun _ => mcCanonical_same rfl rfl
    | intro _)

theorem execLockstepMismatch_keeps {a : State} {sramError : Bool} {s : State} (hk : Keeps a s) :
    KeepsNext a (execLockstepMismatch sramError s) := by
  unfold execLockstepMismatch
  repeat' (first
    | with_reducible refine keepsNext_next ?_
    | with_reducible assumption
    | with_reducible apply keeps_ite
    | with_reducible apply lockstepFailure_keeps)

theorem watchdogReset_keeps {a : State} {cause : Nat} {s : State} (hk : Keeps a s) :
    Keeps a (watchdogReset cause s) := by
  unfold watchdogReset
  repeat' (first
    | with_reducible assumption
    | with_reducible apply keeps_ite
    | with_reducible apply startRestart_keeps
    | with_reducible apply modMc_keeps
    | with_reducible apply raise_keeps
    | dsimp only
    | split
    | exact fun _ => mcCanonical_same rfl rfl
    | intro _)

theorem execWatchdogExpiry_keeps {a : State} {s : State} (hk : Keeps a s) :
    KeepsNext a (execWatchdogExpiry s) := by
  unfold execWatchdogExpiry
  repeat' (first
    | with_reducible refine keepsNext_next ?_
    | with_reducible assumption
    | with_reducible apply keeps_ite
    | with_reducible apply watchdogReset_keeps)

theorem endActivation_keeps {a : State} {s : State} (hk : Keeps a s) :
    Keeps a (endActivation s) := by
  unfold endActivation
  repeat' (first
    | with_reducible assumption
    | with_reducible apply modMc_keeps
    | with_reducible apply finishBg_keeps
    | with_reducible apply raise_keeps
    | dsimp only
    | split
    | exact fun _ => mcCanonical_same rfl rfl)

theorem restarted_keeps {a : State} {s : State} (hk : Keeps a s) :
    Keeps a (restarted s) := by
  unfold restarted
  split
  · exact hk
  · dsimp only
    refine endActivation_keeps (keeps_ite_then (keeps_foldl ?_ fun _ _ h => answer_keeps h) fun h => raise_keeps h)
    refine keeps_ite_then ?_ fun h => raise_keeps (keeps_ev ⟨Nat.le_refl _, Nat.le_refl _, Nat.le_refl _, Nat.le_refl _, id, id⟩ h)
    refine keeps_ite ?_ fun h => raise_keeps h
    exact raise_keeps (keeps_mk_iff.2 (modMc_keeps (fun _ => mcCanonical_same rfl rfl) hk))

theorem execActivationSelfCheckTimeout_keeps {a : State} {s : State} (hk : Keeps a s) :
    KeepsNext a (execActivationSelfCheckTimeout s) := by
  unfold execActivationSelfCheckTimeout
  repeat' (first
    | with_reducible refine keepsNext_next ?_
    | with_reducible refine keepsNext_ite ?_ ?_
    | with_reducible assumption
    | with_reducible apply startRestart_keeps
    | with_reducible apply modMc_keeps
    | split
    | exact fun _ => mcCanonical_same rfl rfl)

theorem execFwTransferTimeout_keeps {a : State} {s : State} (hk : Keeps a s) :
    KeepsNext a (execFwTransferTimeout s) := by
  unfold execFwTransferTimeout
  repeat' (first
    | with_reducible refine keepsNext_next ?_
    | with_reducible assumption
    | with_reducible apply keeps_ite
    | with_reducible apply dropTransfer_keeps
    | split)

/-! ### IntegrityCmds -/

theorem slotError_keeps {a : State} {slot : Nat} {s : State} (hk : Keeps a s) :
    Keeps a (slotError slot s) := by
  unfold slotError
  repeat' (first
    | with_reducible assumption
    | with_reducible apply keeps_ite
    | with_reducible apply askCopy_keeps
    | with_reducible apply noteLost_keeps
    | with_reducible apply noteUe_keeps
    | with_reducible apply modPu_keeps
    | dsimp only
    | split
    | intro _)

theorem chestError_keeps {a : State} {seq index : Nat} {s : State} (hk : Keeps a s) :
    Keeps a (chestError seq index s) := by
  unfold chestError
  repeat' (first
    | with_reducible assumption
    | with_reducible apply keeps_ite
    | with_reducible apply askCopy_keeps
    | with_reducible apply noteLost_keeps
    | with_reducible apply recoveredEvent_keeps
    | with_reducible apply noteUe_keeps
    | with_reducible apply modPu_keeps
    | dsimp only
    | split
    | intro _)

theorem cleanPageError_keeps {a : State} {seg page : Nat} {s : State} (hk : Keeps a s) :
    Keeps a (cleanPageError seg page s) := by
  unfold cleanPageError
  repeat' (first
    | with_reducible assumption
    | with_reducible apply keeps_ite
    | with_reducible apply repairRow_keeps
    | with_reducible apply recoveredEvent_keeps
    | with_reducible apply noteUe_keeps
    | with_reducible apply startFill_keeps
    | with_reducible apply modTi_keeps
    | dsimp only
    | split
    | exact fun _ h => h
    | exact fun _ => memErase_wf _ _
    | intro _)

theorem dirtyPageError_keeps {a : State} {seg page : Nat} {lines : List Nat} {s : State} (hk : Keeps a s) :
    Keeps a (dirtyPageError seg page lines s) := by
  unfold dirtyPageError
  repeat' (first
    | with_reducible assumption
    | with_reducible apply keeps_ite
    | with_reducible refine keeps_foldl ?_ (fun _ _ _ => ?_)
    | with_reducible apply rebuildLine_keeps
    | with_reducible apply repairRow_keeps
    | with_reducible apply noteUe_keeps
    | with_reducible apply modEcc_keeps
    | with_reducible apply modTi_keeps
    | dsimp only
    | exact fun _ h => h
    | intro _)

theorem volatilePageError_keeps {a : State} {seg page : Nat} {lines : List Nat} {s : State} (hk : Keeps a s) :
    Keeps a (volatilePageError seg page lines s) := by
  unfold volatilePageError
  repeat' (first
    | with_reducible assumption
    | with_reducible apply keeps_ite
    | with_reducible apply repairRow_keeps
    | with_reducible apply noteLostKeys_keeps
    | with_reducible apply noteUe_keeps
    | with_reducible apply modTi_keeps
    | dsimp only
    | exact fun _ h => h
    | intro _)

theorem lentError_keeps {a : State} {bothBad : Bool} {lose : State → State} {s : State} (hlose : ∀ s, Keeps a s → Keeps a (lose s)) (hk : Keeps a s) :
    Keeps a (lentError bothBad lose s) := by
  unfold lentError
  repeat' (first
    | with_reducible assumption
    | with_reducible apply keeps_ite
    | with_reducible apply repairRow_keeps
    | with_reducible apply recoveredEvent_keeps
    | with_reducible apply noteUe_keeps
    | with_reducible apply advance_keeps
    | with_reducible apply hlose
    | intro _)

theorem loseKey_keeps {a : State} {index : Nat} {s : State} (hk : Keeps a s) :
    Keeps a (loseKey index s) := by
  unfold loseKey
  repeat' (first
    | with_reducible assumption
    | with_reducible apply endRevocation_keeps
    | with_reducible apply freeKey_keeps
    | with_reducible apply raise_keeps
    | dsimp only
    | split)

theorem loseCapsule_keeps {a : State} {qid : Nat} {s : State} (hk : Keeps a s) :
    Keeps a (loseCapsule qid s) := by
  unfold loseCapsule
  repeat' (first
    | with_reducible assumption
    | with_reducible apply keeps_ite
    | with_reducible refine keeps_foldl ?_ (fun _ _ _ => ?_)
    | with_reducible apply modQ_keeps
    | with_reducible apply raise_keeps
    | with_reducible apply advance_keeps
    | fail_if_no_progress (with_reducible refine keeps_mk_iff.2 ?_)
    | dsimp only
    | split
    | intro _)

theorem mapPageError_keeps {a : State} {page : Nat} {s : State} (hk : Keeps a s) :
    Keeps a (mapPageError page s) := by
  unfold mapPageError
  repeat' (first
    | with_reducible assumption
    | with_reducible apply keeps_ite
    | with_reducible apply repairRow_keeps
    | with_reducible apply noteUe_keeps
    | with_reducible apply modEcc_keeps
    | with_reducible apply advance_keeps
    | intro _)

theorem contextError_keeps {a : State} {qp : Nat} {s : State} (hk : Keeps a s) :
    Keeps a (contextError qp s) := by
  unfold contextError
  repeat' (first
    | with_reducible assumption
    | with_reducible apply noteUe_keeps
    | with_reducible apply qpFail_keeps
    | with_reducible apply raise_keeps
    | dsimp only
    | split)

theorem stagingError_keeps {a : State} {c record : Nat} {s : State} (hk : Keeps a s) :
    Keeps a (stagingError c record s) := by
  unfold stagingError
  repeat' (first
    | with_reducible assumption
    | with_reducible apply repairRow_keeps
    | with_reducible apply noteUe_keeps
    | with_reducible apply modChan_keeps
    | with_reducible apply advance_keeps)

theorem captureError_keeps {a : State} {line : Nat} {s : State} (hk : Keeps a s) :
    Keeps a (captureError line s) := by
  unfold captureError
  repeat' (first
    | with_reducible assumption
    | with_reducible apply repairRow_keeps
    | with_reducible apply noteLostKeys_keeps
    | with_reducible apply noteUe_keeps
    | with_reducible apply modCap_keeps
    | with_reducible apply advance_keeps
    | dsimp only
    | exact fun _ h => h)

theorem transformError_keeps {a : State} {stream : Nat} {s : State} (hk : Keeps a s) :
    Keeps a (transformError stream s) := by
  unfold transformError
  repeat' (first
    | with_reducible assumption
    | with_reducible apply noteUe_keeps
    | with_reducible apply setJobs_keeps
    | dsimp only
    | split)

theorem recentMapError_keeps {a : State} {s : State} (hk : Keeps a s) :
    Keeps a (recentMapError s) := by
  unfold recentMapError
  repeat' (first
    | with_reducible assumption
    | with_reducible apply noteUe_keeps
    | with_reducible apply modEcc_keeps)

theorem mplBufferError_keeps {a : State} {batch : Nat} {s : State} (hk : Keeps a s) :
    Keeps a (mplBufferError batch s) := by
  unfold mplBufferError
  repeat' (first
    | with_reducible assumption
    | with_reducible apply keeps_ite
    | with_reducible apply noteUe_keeps
    | with_reducible apply modLink_keeps)

theorem captureBufferError_keeps {a : State} {port : Nat} {s : State} (hk : Keeps a s) :
    Keeps a (captureBufferError port s) := by
  unfold captureBufferError
  repeat' (first
    | with_reducible assumption
    | with_reducible apply noteUe_keeps
    | with_reducible apply modRing_keeps)

theorem damage_keeps {a : State} {p : DamagedPlace} {s : State} (hk : Keeps a s) :
    Keeps a (damage p s) := by
  cases p with
  | drawerHeld => exact slotError_keeps hk
  | chestLine => exact chestError_keeps hk
  | segClean => exact cleanPageError_keeps hk
  | segDirty => exact dirtyPageError_keeps hk
  | segVolatile => exact volatilePageError_keeps hk
  | mapPage => exact mapPageError_keeps hk
  | lentKeys => exact lentError_keeps (fun _ h => loseKey_keeps h) hk
  | lentCapsule => exact lentError_keeps (fun _ h => loseCapsule_keeps h) hk
  | lentOther => exact lentError_keeps (fun _ h => h) hk
  | qpContext => exact contextError_keeps hk
  | replayStaging => exact stagingError_keeps hk
  | replayProgram => exact stopChannel_keeps (noteUe_keeps (advance_keeps hk))
  | captureStaging => exact captureError_keeps hk
  | frontCache => exact cacheError_keeps (noteUe_keeps hk)
  | recentWriteMap => exact recentMapError_keeps hk
  | transformContext => exact transformError_keeps hk
  | mplReceiveBuffer => exact mplBufferError_keeps hk
  | ethReceiveBuffer => exact dropOn_keeps (noteUe_keeps hk)
  | captureReceiveBuffer => exact captureBufferError_keeps hk
  | managementSram => exact lockstepFailure_keeps (noteUe_keeps hk)

theorem execUncorrectableError_keeps {a : State} {place : DamagedPlace} {s : State} (hk : Keeps a s) :
    KeepsNext a (execUncorrectableError place s) := by
  unfold execUncorrectableError
  repeat' (first
    | with_reducible refine keepsNext_next ?_
    | with_reducible assumption
    | with_reducible apply damage_keeps)

theorem execDirtyPageRecovery_keeps {a : State} {segment page : Nat} {s : State} (hk : Keeps a s) :
    KeepsNext a (execDirtyPageRecovery segment page s) := by
  unfold execDirtyPageRecovery
  repeat' (first
    | with_reducible refine keepsNext_next ?_
    | with_reducible refine keepsNext_ite ?_ ?_
    | with_reducible assumption
    | with_reducible apply noteLostKeys_keeps
    | with_reducible apply recoveredEvent_keeps
    | with_reducible apply modEcc_keeps
    | with_reducible apply modTi_keeps
    | dsimp only
    | split
    | exact fun _ h => h)

theorem execRecentWriteMapRebuild_keeps {a : State} {s : State} (hk : Keeps a s) :
    KeepsNext a (execRecentWriteMapRebuild s) := by
  unfold execRecentWriteMapRebuild
  repeat' (first
    | with_reducible refine keepsNext_next ?_
    | with_reducible assumption
    | with_reducible apply modEcc_keeps
    | with_reducible apply raise_keeps
    | dsimp only
    | split)

theorem execMapPageRebuild_keeps {a : State} {page : Nat} {s : State} (hk : Keeps a s) :
    KeepsNext a (execMapPageRebuild page s) := by
  unfold execMapPageRebuild
  repeat' (first
    | with_reducible refine keepsNext_next ?_
    | with_reducible assumption
    | with_reducible apply rebuildPage_keeps
    | with_reducible apply modEcc_keeps
    | with_reducible apply raise_keeps
    | dsimp only
    | split)

theorem execScrubEnd_keeps {a : State} {corrected : List ScrubFind} {s : State} (hk : Keeps a s) :
    KeepsNext a (execScrubEnd corrected s) := by
  unfold execScrubEnd
  repeat' (first
    | with_reducible refine keepsNext_next ?_
    | with_reducible exact keepsNext_fault
    | with_reducible refine keepsNext_ite ?_ ?_
    | with_reducible assumption
    | with_reducible apply keeps_ite
    | with_reducible refine keeps_foldl ?_ (fun _ _ _ => ?_)
    | with_reducible apply noteFind_keeps
    | with_reducible apply modEcc_keeps
    | with_reducible apply finishBg_keeps
    | with_reducible apply raise_keeps
    | with_reducible apply advance_keeps
    | fail_if_no_progress (with_reducible refine keeps_mk_iff.2 ?_)
    | dsimp only
    | split
    | intro _)

end Sys2Proof.Machine
end

