-- ==== Sys2Proof/Laws/Keeps6.lean ====
section
/-! SUPPORT. `Keeps` through the operations of Params, Standard, Vendor, RegionCmds, TrustCmds, Firmware, Power. -/

set_option linter.unusedTactic false
set_option linter.unreachableTactic false
set_option linter.unusedVariables false

namespace Sys2Proof.Machine

/-! ### Params -/

theorem formatWrite_keeps {a : State} {job r off : Nat} {data : Bytes} {zeroLen : Nat} {s : State} (hk : Keeps a s) :
    Keeps a (formatWrite job r off data zeroLen s) := by
  unfold formatWrite
  repeat' (first
    | with_reducible assumption
    | with_reducible apply keeps_ite
    | with_reducible apply submitWrite_keeps
    | with_reducible apply forwardWrite_keeps
    | with_reducible apply submitUnit_keeps
    | dsimp only
    | split
    | intro _)

theorem formatBureau_keeps {a : State} {r : Nat} {s : State} (hk : Keeps a s) :
    Keeps a (formatBureau r s) := by
  unfold formatBureau
  repeat' (first
    | with_reducible assumption
    | with_reducible refine keeps_foldl ?_ (fun _ _ _ => ?_)
    | with_reducible apply formatWrite_keeps
    | with_reducible apply addJob_keeps)

theorem takeParam_keeps {a : State} {p : ParamInfo} {v : Nat} {s : State} (hk : Keeps a s) :
    Keeps a (takeParam p v s) := by
  unfold takeParam
  repeat' (first
    | with_reducible assumption
    | with_reducible apply keeps_ite
    | with_reducible apply modCxl_keeps
    | fail_if_no_progress (with_reducible refine keeps_mk_iff.2 ?_)
    | split)

theorem paramsAtBoundary_keeps {a : State} {s : State} (hk : Keeps a s) :
    Keeps a (paramsAtBoundary s) := by
  unfold paramsAtBoundary
  repeat' (first
    | with_reducible assumption
    | fail_if_no_progress (with_reducible refine keeps_mk_iff.2 ?_))

theorem execGetParameter_keeps {a : State} {path : BcsPath} {input : Bytes} {s : State} (hk : Keeps a s) :
    KeepsNext a (execGetParameter path input s) := by
  unfold execGetParameter
  repeat' (first
    | with_reducible refine keepsNext_next ?_
    | with_reducible assumption
    | with_reducible apply bcs_keeps
    | with_reducible apply success_keeps
    | with_reducible apply invalid_keeps
    | split
    | intro _)

theorem execSetParameter_keeps {a : State} {path : BcsPath} {input : Bytes} {s : State} (hk : Keeps a s) :
    KeepsNext a (execSetParameter path input s) := by
  unfold execSetParameter
  repeat' (first
    | with_reducible refine keepsNext_next ?_
    | with_reducible assumption
    | with_reducible apply formatBureau_keeps
    | with_reducible apply checked_keeps
    | with_reducible apply bcs_keeps
    | with_reducible apply writeOption_keeps
    | with_reducible apply invalid_keeps
    | with_reducible apply answer_keeps
    | dsimp only
    | split
    | intro _)

theorem execListParameters_keeps {a : State} {path : BcsPath} {input : Bytes} {s : State} (hk : Keeps a s) :
    KeepsNext a (execListParameters path input s) := by
  unfold execListParameters
  repeat' (first
    | with_reducible refine keepsNext_next ?_
    | with_reducible assumption
    | with_reducible apply bcs_keeps
    | with_reducible apply success_keeps)

/-! ### Standard -/

theorem execIdentify_keeps {a : State} {path : BcsPath} {input : Bytes} {s : State} (hk : Keeps a s) :
    KeepsNext a (execIdentify path input s) := by
  unfold execIdentify
  repeat' (first
    | with_reducible refine keepsNext_next ?_
    | with_reducible assumption
    | with_reducible apply bcs_keeps
    | with_reducible apply success_keeps)

theorem execBackgroundOperationStatus_keeps {a : State} {path : BcsPath} {input : Bytes} {s : State} (hk : Keeps a s) :
    KeepsNext a (execBackgroundOperationStatus path input s) := by
  unfold execBackgroundOperationStatus
  repeat' (first
    | with_reducible refine keepsNext_next ?_
    | with_reducible assumption
    | with_reducible apply bcs_keeps
    | with_reducible apply success_keeps
    | dsimp only
    | split
    | intro _)

theorem execGetEventRecords_keeps {a : State} {path : BcsPath} {input : Bytes} {s : State} (hk : Keeps a s) :
    KeepsNext a (execGetEventRecords path input s) := by
  unfold execGetEventRecords
  repeat' (first
    | with_reducible refine keepsNext_next ?_
    | with_reducible assumption
    | with_reducible apply checked_keeps
    | with_reducible apply bcs_keeps
    | with_reducible apply success_keeps
    | dsimp only
    | intro _)

theorem execClearEventRecords_keeps {a : State} {path : BcsPath} {input : Bytes} {s : State} (hk : Keeps a s) :
    KeepsNext a (execClearEventRecords path input s) := by
  unfold execClearEventRecords
  repeat' (first
    | with_reducible refine keepsNext_next ?_
    | with_reducible assumption
    | with_reducible apply checked_keeps
    | with_reducible apply bcs_keeps
    | with_reducible apply success_keeps
    | dsimp only
    | split
    | refine keeps_mc ?_ ?_
    | exact mcCanonical_same rfl rfl
    | intro _)

theorem execGetEventInterruptPolicy_keeps {a : State} {path : BcsPath} {input : Bytes} {s : State} (hk : Keeps a s) :
    KeepsNext a (execGetEventInterruptPolicy path input s) := by
  unfold execGetEventInterruptPolicy
  repeat' (first
    | with_reducible refine keepsNext_next ?_
    | with_reducible assumption
    | with_reducible apply bcs_keeps
    | with_reducible apply success_keeps
    | intro _)

theorem execSetEventInterruptPolicy_keeps {a : State} {path : BcsPath} {input : Bytes} {s : State} (hk : Keeps a s) :
    KeepsNext a (execSetEventInterruptPolicy path input s) := by
  unfold execSetEventInterruptPolicy
  repeat' (first
    | with_reducible refine keepsNext_next ?_
    | with_reducible assumption
    | with_reducible apply bcs_keeps
    | with_reducible apply success_keeps
    | dsimp only
    | refine keeps_mc ?_ ?_
    | exact mcCanonical_same rfl rfl
    | intro _)

theorem execGetTimestamp_keeps {a : State} {path : BcsPath} {input : Bytes} {s : State} (hk : Keeps a s) :
    KeepsNext a (execGetTimestamp path input s) := by
  unfold execGetTimestamp
  repeat' (first
    | with_reducible refine keepsNext_next ?_
    | with_reducible assumption
    | with_reducible apply bcs_keeps
    | with_reducible apply success_keeps
    | intro _)

theorem execSetTimestamp_keeps {a : State} {path : BcsPath} {input : Bytes} {s : State} (hk : Keeps a s) :
    KeepsNext a (execSetTimestamp path input s) := by
  unfold execSetTimestamp
  repeat' (first
    | with_reducible refine keepsNext_next ?_
    | with_reducible assumption
    | with_reducible apply modTb_keeps
    | with_reducible apply bcs_keeps
    | with_reducible apply success_keeps
    | dsimp only
    | split
    | intro _)

theorem execGetSupportedLogs_keeps {a : State} {path : BcsPath} {input : Bytes} {s : State} (hk : Keeps a s) :
    KeepsNext a (execGetSupportedLogs path input s) := by
  unfold execGetSupportedLogs
  repeat' (first
    | with_reducible refine keepsNext_next ?_
    | with_reducible assumption
    | with_reducible apply bcs_keeps
    | with_reducible apply success_keeps
    | intro _)

theorem execGetLog_keeps {a : State} {path : BcsPath} {input : Bytes} {s : State} (hk : Keeps a s) :
    KeepsNext a (execGetLog path input s) := by
  unfold execGetLog
  repeat' (first
    | with_reducible refine keepsNext_next ?_
    | with_reducible assumption
    | with_reducible apply checked_keeps
    | with_reducible apply bcs_keeps
    | with_reducible apply success_keeps
    | dsimp only
    | split
    | intro _)

theorem execIdentifyMemoryDevice_keeps {a : State} {path : BcsPath} {input : Bytes} {s : State} (hk : Keeps a s) :
    KeepsNext a (execIdentifyMemoryDevice path input s) := by
  unfold execIdentifyMemoryDevice
  repeat' (first
    | with_reducible refine keepsNext_next ?_
    | with_reducible assumption
    | with_reducible apply bcs_keeps
    | with_reducible apply success_keeps
    | intro _)

theorem execGetPartitionInfo_keeps {a : State} {path : BcsPath} {input : Bytes} {s : State} (hk : Keeps a s) :
    KeepsNext a (execGetPartitionInfo path input s) := by
  unfold execGetPartitionInfo
  repeat' (first
    | with_reducible refine keepsNext_next ?_
    | with_reducible assumption
    | with_reducible apply bcs_keeps
    | with_reducible apply success_keeps)

theorem execSetPartitionInfo_keeps {a : State} {path : BcsPath} {input : Bytes} {s : State} (hk : Keeps a s) :
    KeepsNext a (execSetPartitionInfo path input s) := by
  unfold execSetPartitionInfo
  repeat' (first
    | with_reducible refine keepsNext_next ?_
    | with_reducible assumption
    | with_reducible apply unsupported_keeps)

theorem execGetLsa_keeps {a : State} {path : BcsPath} {input : Bytes} {s : State} (hk : Keeps a s) :
    KeepsNext a (execGetLsa path input s) := by
  unfold execGetLsa
  repeat' (first
    | with_reducible refine keepsNext_next ?_
    | with_reducible assumption
    | with_reducible apply checked_keeps
    | with_reducible apply bcs_keeps
    | with_reducible apply success_keeps
    | with_reducible apply answer_keeps
    | dsimp only
    | split
    | intro _)

theorem execSetLsa_keeps {a : State} {path : BcsPath} {input : Bytes} {s : State} (hk : Keeps a s) :
    KeepsNext a (execSetLsa path input s) := by
  unfold execSetLsa
  repeat' (first
    | with_reducible refine keepsNext_next ?_
    | with_reducible assumption
    | with_reducible apply bureauWrite_keeps
    | with_reducible apply addJob_keeps
    | with_reducible apply checked_keeps
    | with_reducible apply bcs_keeps
    | with_reducible apply success_keeps
    | with_reducible apply answer_keeps
    | dsimp only
    | split
    | intro _)

theorem execGetHealthInfo_keeps {a : State} {path : BcsPath} {input : Bytes} {s : State} (hk : Keeps a s) :
    KeepsNext a (execGetHealthInfo path input s) := by
  unfold execGetHealthInfo
  repeat' (first
    | with_reducible refine keepsNext_next ?_
    | with_reducible assumption
    | with_reducible apply bcs_keeps
    | with_reducible apply success_keeps
    | with_reducible apply advance_keeps
    | intro _)

theorem execGetAlertConfiguration_keeps {a : State} {path : BcsPath} {input : Bytes} {s : State} (hk : Keeps a s) :
    KeepsNext a (execGetAlertConfiguration path input s) := by
  unfold execGetAlertConfiguration
  repeat' (first
    | with_reducible refine keepsNext_next ?_
    | with_reducible assumption
    | with_reducible apply bcs_keeps
    | with_reducible apply success_keeps
    | dsimp only
    | intro _)

theorem execSetAlertConfiguration_keeps {a : State} {path : BcsPath} {input : Bytes} {s : State} (hk : Keeps a s) :
    KeepsNext a (execSetAlertConfiguration path input s) := by
  unfold execSetAlertConfiguration
  repeat' (first
    | with_reducible refine keepsNext_next ?_
    | with_reducible assumption
    | with_reducible apply checked_keeps
    | with_reducible apply bcs_keeps
    | with_reducible apply success_keeps
    | dsimp only
    | split
    | refine keeps_mc ?_ ?_
    | exact mcCanonical_same rfl rfl
    | intro _)

theorem execGetShutdownState_keeps {a : State} {path : BcsPath} {input : Bytes} {s : State} (hk : Keeps a s) :
    KeepsNext a (execGetShutdownState path input s) := by
  unfold execGetShutdownState
  repeat' (first
    | with_reducible refine keepsNext_next ?_
    | with_reducible assumption
    | with_reducible apply bcs_keeps
    | with_reducible apply success_keeps
    | intro _)

theorem execSetShutdownState_keeps {a : State} {path : BcsPath} {input : Bytes} {s : State} (hk : Keeps a s) :
    KeepsNext a (execSetShutdownState path input s) := by
  unfold execSetShutdownState
  repeat' (first
    | with_reducible refine keepsNext_next ?_
    | with_reducible assumption
    | with_reducible apply modCxl_keeps
    | with_reducible apply checked_keeps
    | with_reducible apply bcs_keeps
    | with_reducible apply success_keeps
    | intro _)

theorem execGetPoisonList_keeps {a : State} {path : BcsPath} {input : Bytes} {s : State} (hk : Keeps a s) :
    KeepsNext a (execGetPoisonList path input s) := by
  unfold execGetPoisonList
  repeat' (first
    | with_reducible refine keepsNext_next ?_
    | with_reducible assumption
    | with_reducible apply checked_keeps
    | with_reducible apply bcs_keeps
    | with_reducible apply success_keeps
    | dsimp only
    | intro _)

theorem poisonWrite_keeps {a : State} {path : BcsPath} {opcode dpa : Nat} {data : Line} {inject : Bool} {s : State} (hk : Keeps a s) :
    Keeps a (poisonWrite path opcode dpa data inject s) := by
  unfold poisonWrite
  repeat' (first
    | with_reducible assumption
    | with_reducible apply keeps_ite
    | with_reducible apply addJob_keeps
    | with_reducible apply forwardWrite_keeps
    | with_reducible apply submitUnit_keeps
    | with_reducible apply answer_keeps
    | dsimp only
    | split
    | intro _)

theorem execInjectPoison_keeps {a : State} {path : BcsPath} {input : Bytes} {s : State} (hk : Keeps a s) :
    KeepsNext a (execInjectPoison path input s) := by
  unfold execInjectPoison
  repeat' (first
    | with_reducible refine keepsNext_next ?_
    | with_reducible assumption
    | with_reducible apply poisonWrite_keeps
    | with_reducible apply checked_keeps
    | with_reducible apply bcs_keeps
    | intro _)

theorem execClearPoison_keeps {a : State} {path : BcsPath} {input : Bytes} {s : State} (hk : Keeps a s) :
    KeepsNext a (execClearPoison path input s) := by
  unfold execClearPoison
  repeat' (first
    | with_reducible refine keepsNext_next ?_
    | with_reducible assumption
    | with_reducible apply poisonWrite_keeps
    | with_reducible apply checked_keeps
    | with_reducible apply bcs_keeps
    | intro _)

theorem execGetScanMediaCapabilities_keeps {a : State} {path : BcsPath} {input : Bytes} {s : State} (hk : Keeps a s) :
    KeepsNext a (execGetScanMediaCapabilities path input s) := by
  unfold execGetScanMediaCapabilities
  repeat' (first
    | with_reducible refine keepsNext_next ?_
    | with_reducible assumption
    | with_reducible apply checked_keeps
    | with_reducible apply bcs_keeps
    | with_reducible apply success_keeps
    | with_reducible apply advance_keeps
    | intro _)

theorem execScanMedia_keeps {a : State} {path : BcsPath} {input : Bytes} {s : State} (hk : Keeps a s) :
    KeepsNext a (execScanMedia path input s) := by
  unfold execScanMedia
  repeat' (first
    | with_reducible refine keepsNext_next ?_
    | with_reducible assumption
    | with_reducible apply modEcc_keeps
    | with_reducible apply checked_keeps
    | with_reducible apply inBackground_keeps
    | with_reducible apply bcs_keeps
    | with_reducible apply answer_keeps
    | dsimp only
    | split
    | intro _)

theorem execGetScanMediaResults_keeps {a : State} {path : BcsPath} {input : Bytes} {s : State} (hk : Keeps a s) :
    KeepsNext a (execGetScanMediaResults path input s) := by
  unfold execGetScanMediaResults
  repeat' (first
    | with_reducible refine keepsNext_next ?_
    | with_reducible assumption
    | with_reducible apply bcs_keeps
    | with_reducible apply success_keeps
    | dsimp only
    | intro _)

theorem execGetDynamicCapacityConfiguration_keeps {a : State} {path : BcsPath} {input : Bytes} {s : State} (hk : Keeps a s) :
    KeepsNext a (execGetDynamicCapacityConfiguration path input s) := by
  unfold execGetDynamicCapacityConfiguration
  repeat' (first
    | with_reducible refine keepsNext_next ?_
    | with_reducible assumption
    | with_reducible apply checked_keeps
    | with_reducible apply bcs_keeps
    | with_reducible apply success_keeps
    | dsimp only
    | intro _)

theorem execGetDynamicCapacityExtentList_keeps {a : State} {path : BcsPath} {input : Bytes} {s : State} (hk : Keeps a s) :
    KeepsNext a (execGetDynamicCapacityExtentList path input s) := by
  unfold execGetDynamicCapacityExtentList
  repeat' (first
    | with_reducible refine keepsNext_next ?_
    | with_reducible assumption
    | with_reducible apply checked_keeps
    | with_reducible apply bcs_keeps
    | with_reducible apply success_keeps
    | with_reducible apply advance_keeps
    | dsimp only
    | intro _)

theorem execCxlSanitize_keeps {a : State} {path : BcsPath} {input : Bytes} {s : State} (hk : Keeps a s) :
    KeepsNext a (execCxlSanitize path input s) := by
  unfold execCxlSanitize
  repeat' (first
    | with_reducible refine keepsNext_next ?_
    | with_reducible assumption
    | with_reducible apply unsupported_keeps)

theorem execSecureErase_keeps {a : State} {path : BcsPath} {input : Bytes} {s : State} (hk : Keeps a s) :
    KeepsNext a (execSecureErase path input s) := by
  unfold execSecureErase
  repeat' (first
    | with_reducible refine keepsNext_next ?_
    | with_reducible assumption
    | with_reducible apply unsupported_keeps)

theorem execGetLdInfo_keeps {a : State} {path : BcsPath} {input : Bytes} {s : State} (hk : Keeps a s) :
    KeepsNext a (execGetLdInfo path input s) := by
  unfold execGetLdInfo
  repeat' (first
    | with_reducible refine keepsNext_next ?_
    | with_reducible assumption
    | with_reducible apply bcs_keeps
    | with_reducible apply success_keeps
    | intro _)

theorem execGetLdAllocations_keeps {a : State} {path : BcsPath} {input : Bytes} {s : State} (hk : Keeps a s) :
    KeepsNext a (execGetLdAllocations path input s) := by
  unfold execGetLdAllocations
  repeat' (first
    | with_reducible refine keepsNext_next ?_
    | with_reducible assumption
    | with_reducible apply checked_keeps
    | with_reducible apply bcs_keeps
    | with_reducible apply success_keeps
    | dsimp only
    | intro _)

theorem execSetLdAllocations_keeps {a : State} {path : BcsPath} {input : Bytes} {s : State} (hk : Keeps a s) :
    KeepsNext a (execSetLdAllocations path input s) := by
  unfold execSetLdAllocations
  repeat' (first
    | with_reducible refine keepsNext_next ?_
    | with_reducible assumption
    | with_reducible apply modHead_keeps
    | with_reducible apply checked_keeps
    | with_reducible apply bcs_keeps
    | with_reducible apply success_keeps
    | dsimp only
    | intro _)

theorem execDcdManagementCommand_keeps {a : State} {path : BcsPath} {opcode : Nat} {input : Bytes} {s : State} (hk : Keeps a s) :
    KeepsNext a (execDcdManagementCommand path opcode input s) := by
  unfold execDcdManagementCommand
  repeat' (first
    | with_reducible refine keepsNext_next ?_
    | with_reducible assumption
    | with_reducible apply detachExtent_keeps
    | with_reducible apply attachExtent_keeps
    | with_reducible apply checked_keeps
    | with_reducible apply unsupported_keeps
    | with_reducible apply bcs_keeps
    | with_reducible apply success_keeps
    | with_reducible apply answer_keeps
    | with_reducible apply advance_keeps
    | dsimp only
    | split
    | intro _)

/-! ### Vendor -/

theorem latchNewest_keeps {a : State} {s : State} (hk : Keeps a s) :
    Keeps a (latchNewest s) := by
  unfold latchNewest
  repeat' (first
    | with_reducible assumption
    | dsimp only
    | refine keeps_ev ?_ ?_
    | exact ⟨Nat.le_refl _, Nat.le_refl _, Nat.le_refl _, Nat.le_refl _, id, id⟩)

theorem execNewestLoRead_keeps {a : State} {s : State} (hk : Keeps a s) :
    KeepsNext a (execNewestLoRead s) := by
  unfold execNewestLoRead
  repeat' (first
    | with_reducible refine keepsNext_next ?_
    | with_reducible assumption
    | with_reducible apply latchNewest_keeps
    | with_reducible apply emit_keeps)

theorem execReadEvents_keeps {a : State} {path : BcsPath} {input : Bytes} {s : State} (hk : Keeps a s) :
    KeepsNext a (execReadEvents path input s) := by
  unfold execReadEvents
  repeat' (first
    | with_reducible refine keepsNext_next ?_
    | with_reducible assumption
    | with_reducible apply checked_keeps
    | with_reducible apply bcs_keeps
    | with_reducible apply success_keeps
    | dsimp only
    | split
    | intro _)

theorem execGetRecorderStatus_keeps {a : State} {path : BcsPath} {input : Bytes} {s : State} (hk : Keeps a s) :
    KeepsNext a (execGetRecorderStatus path input s) := by
  unfold execGetRecorderStatus
  repeat' (first
    | with_reducible refine keepsNext_next ?_
    | with_reducible assumption
    | with_reducible apply bcs_keeps
    | with_reducible apply success_keeps
    | dsimp only
    | intro _)

theorem execGetSparesInventory_keeps {a : State} {path : BcsPath} {input : Bytes} {s : State} (hk : Keeps a s) :
    KeepsNext a (execGetSparesInventory path input s) := by
  unfold execGetSparesInventory
  repeat' (first
    | with_reducible refine keepsNext_next ?_
    | with_reducible assumption
    | with_reducible apply bcs_keeps
    | with_reducible apply success_keeps
    | intro _)

theorem execGetEraseCounts_keeps {a : State} {path : BcsPath} {input : Bytes} {s : State} (hk : Keeps a s) :
    KeepsNext a (execGetEraseCounts path input s) := by
  unfold execGetEraseCounts
  repeat' (first
    | with_reducible refine keepsNext_next ?_
    | with_reducible assumption
    | with_reducible apply checked_keeps
    | with_reducible apply bcs_keeps
    | with_reducible apply success_keeps
    | dsimp only
    | intro _)

theorem execGetStripeState_keeps {a : State} {path : BcsPath} {input : Bytes} {s : State} (hk : Keeps a s) :
    KeepsNext a (execGetStripeState path input s) := by
  unfold execGetStripeState
  repeat' (first
    | with_reducible refine keepsNext_next ?_
    | with_reducible assumption
    | with_reducible apply checked_keeps
    | with_reducible apply bcs_keeps
    | with_reducible apply success_keeps
    | dsimp only
    | intro _)

theorem execReadWearLog_keeps {a : State} {path : BcsPath} {input : Bytes} {s : State} (hk : Keeps a s) :
    KeepsNext a (execReadWearLog path input s) := by
  unfold execReadWearLog
  repeat' (first
    | with_reducible refine keepsNext_next ?_
    | with_reducible assumption
    | with_reducible apply bcs_keeps
    | with_reducible apply success_keeps
    | dsimp only
    | intro _)

theorem execBindTransformStream_keeps {a : State} {path : BcsPath} {input : Bytes} {s : State} (hk : Keeps a s) :
    KeepsNext a (execBindTransformStream path input s) := by
  unfold execBindTransformStream
  repeat' (first
    | with_reducible refine keepsNext_next ?_
    | with_reducible assumption
    | with_reducible apply modTe_keeps
    | with_reducible apply checked_keeps
    | with_reducible apply bcs_keeps
    | with_reducible apply success_keeps
    | dsimp only
    | split
    | intro _)

/-! ### RegionCmds -/

theorem refuseCapacity_keeps {a : State} {path : BcsPath} {opcode id n : Nat} {s : State} (hk : Keeps a s) :
    Keeps a (refuseCapacity path opcode id n s) := by
  unfold refuseCapacity
  repeat' (first
    | with_reducible assumption
    | with_reducible apply answer_keeps
    | with_reducible apply raise_keeps)

theorem createEffect_keeps {a : State} {path : BcsPath} {id : Nat} {d : Region} {s : State} (hk : Keeps a s) :
    Keeps a (createEffect path id d s) := by
  unfold createEffect
  repeat' (first
    | with_reducible assumption
    | with_reducible apply journalMeta_keeps
    | with_reducible apply advance_keeps)

theorem execCreateRegion_keeps {a : State} {path : BcsPath} {input : Bytes} {s : State} (hk : Keeps a s) :
    KeepsNext a (execCreateRegion path input s) := by
  unfold execCreateRegion
  repeat' (first
    | with_reducible refine keepsNext_next ?_
    | with_reducible assumption
    | with_reducible apply createEffect_keeps
    | with_reducible apply refuseCapacity_keeps
    | with_reducible apply checked_keeps
    | with_reducible apply onChair_keeps
    | with_reducible apply bcs_keeps
    | with_reducible apply answer_keeps
    | dsimp only
    | split
    | intro _)

theorem startChange_keeps {a : State} {path : BcsPath} {opcode r : Nat} {d : Region} {k : ChangeKind} {s : State} (hk : Keeps a s) :
    Keeps a (startChange path opcode r d k s) := by
  unfold startChange
  repeat' (first
    | with_reducible assumption
    | with_reducible apply modReg_keeps
    | with_reducible apply journalMeta_keeps)

theorem execDeleteRegion_keeps {a : State} {path : BcsPath} {input : Bytes} {s : State} (hk : Keeps a s) :
    KeepsNext a (execDeleteRegion path input s) := by
  unfold execDeleteRegion
  repeat' (first
    | with_reducible refine keepsNext_next ?_
    | with_reducible assumption
    | with_reducible apply startChange_keeps
    | with_reducible apply onChair_keeps
    | with_reducible apply inBackground_keeps
    | with_reducible apply bcs_keeps
    | with_reducible apply invalid_keeps
    | with_reducible apply answer_keeps
    | dsimp only
    | split
    | intro _)

theorem growEffect_keeps {a : State} {path : BcsPath} {id n : Nat} {d : Region} {s : State} (hk : Keeps a s) :
    Keeps a (growEffect path id n d s) := by
  unfold growEffect
  repeat' (first
    | with_reducible assumption
    | with_reducible apply journalMeta_keeps)

theorem execResizeRegion_keeps {a : State} {path : BcsPath} {input : Bytes} {s : State} (hk : Keeps a s) :
    KeepsNext a (execResizeRegion path input s) := by
  unfold execResizeRegion
  repeat' (first
    | with_reducible refine keepsNext_next ?_
    | with_reducible assumption
    | with_reducible apply growEffect_keeps
    | with_reducible apply startChange_keeps
    | with_reducible apply refuseCapacity_keeps
    | with_reducible apply checked_keeps
    | with_reducible apply onChair_keeps
    | with_reducible apply inBackground_keeps
    | with_reducible apply finishBg_keeps
    | with_reducible apply bcs_keeps
    | with_reducible apply invalid_keeps
    | with_reducible apply answer_keeps
    | dsimp only
    | split
    | intro _)

theorem execGetRegion_keeps {a : State} {path : BcsPath} {input : Bytes} {s : State} (hk : Keeps a s) :
    KeepsNext a (execGetRegion path input s) := by
  unfold execGetRegion
  repeat' (first
    | with_reducible refine keepsNext_next ?_
    | with_reducible assumption
    | with_reducible apply checked_keeps
    | with_reducible apply bcs_keeps
    | with_reducible apply success_keeps
    | dsimp only
    | split
    | intro _)

theorem execListRegions_keeps {a : State} {path : BcsPath} {input : Bytes} {s : State} (hk : Keeps a s) :
    KeepsNext a (execListRegions path input s) := by
  unfold execListRegions
  repeat' (first
    | with_reducible refine keepsNext_next ?_
    | with_reducible assumption
    | with_reducible apply bcs_keeps
    | with_reducible apply success_keeps
    | dsimp only
    | intro _)

theorem execSetRegionAttributes_keeps {a : State} {path : BcsPath} {input : Bytes} {s : State} (hk : Keeps a s) :
    KeepsNext a (execSetRegionAttributes path input s) := by
  unfold execSetRegionAttributes
  repeat' (first
    | with_reducible refine keepsNext_next ?_
    | with_reducible assumption
    | with_reducible apply checked_keeps
    | with_reducible apply onChair_keeps
    | with_reducible apply bcs_keeps
    | with_reducible apply journalMeta_keeps
    | with_reducible apply invalid_keeps
    | dsimp only
    | split
    | intro _)

theorem execGetCapacity_keeps {a : State} {path : BcsPath} {input : Bytes} {s : State} (hk : Keeps a s) :
    KeepsNext a (execGetCapacity path input s) := by
  unfold execGetCapacity
  repeat' (first
    | with_reducible refine keepsNext_next ?_
    | with_reducible exact keepsNext_fault
    | with_reducible refine keepsNext_ite ?_ ?_
    | with_reducible assumption
    | with_reducible apply keeps_ite
    | with_reducible refine keeps_foldl ?_ (fun _ _ _ => ?_)
    | with_reducible apply bcs_keeps
    | with_reducible apply success_keeps
    | with_reducible apply advance_keeps
    | fail_if_no_progress (with_reducible refine keeps_mk_iff.2 ?_)
    | dsimp only
    | split
    | intro _)

theorem execRegionChangeBoundary_keeps {a : State} {region : Nat} {s : State} (hk : Keeps a s) :
    KeepsNext a (execRegionChangeBoundary region s) := by
  unfold execRegionChangeBoundary
  repeat' (first
    | with_reducible refine keepsNext_next ?_
    | with_reducible refine keepsNext_ite ?_ ?_
    | with_reducible assumption
    | with_reducible apply modTrust_keeps
    | with_reducible apply modReg_keeps
    | dsimp only
    | split
    | exact fun _ => ⟨rfl, Nat.le_refl _, id, List.prefix_rfl⟩)

theorem execRegionChangeDrained_keeps {a : State} {region : Nat} {s : State} (hk : Keeps a s) :
    KeepsNext a (execRegionChangeDrained region s) := by
  unfold execRegionChangeDrained
  repeat' (first
    | with_reducible refine keepsNext_next ?_
    | with_reducible refine keepsNext_ite ?_ ?_
    | with_reducible assumption
    | with_reducible apply modReg_keeps
    | with_reducible apply journalMeta_keeps
    | dsimp only
    | split)

theorem execReadOnlyTakesEffect_keeps {a : State} {region : Nat} {s : State} (hk : Keeps a s) :
    KeepsNext a (execReadOnlyTakesEffect region s) := by
  unfold execReadOnlyTakesEffect
  repeat' (first
    | with_reducible refine keepsNext_next ?_
    | with_reducible refine keepsNext_ite ?_ ?_
    | with_reducible assumption
    | with_reducible apply keeps_ite
    | with_reducible apply modReg_keeps
    | with_reducible apply journalMeta_keeps
    | with_reducible apply notice_keeps
    | with_reducible apply raise_keeps
    | dsimp only
    | split
    | intro _)

theorem execDomainMaskTakesEffect_keeps {a : State} {region : Nat} {s : State} (hk : Keeps a s) :
    KeepsNext a (execDomainMaskTakesEffect region s) := by
  unfold execDomainMaskTakesEffect
  repeat' (first
    | with_reducible refine keepsNext_next ?_
    | with_reducible assumption
    | with_reducible apply modReg_keeps
    | with_reducible apply modRegion_keeps
    | split)

/-! ### TrustCmds -/

theorem execGetIdentityKey_keeps {a : State} {path : BcsPath} {input : Bytes} {s : State} (hk : Keeps a s) :
    KeepsNext a (execGetIdentityKey path input s) := by
  unfold execGetIdentityKey
  repeat' (first
    | with_reducible refine keepsNext_next ?_
    | with_reducible assumption
    | with_reducible apply bcs_keeps
    | with_reducible apply success_keeps
    | dsimp only
    | intro _)

theorem serveSigner_keeps {a : State} {y0 : Nat} {s : State} (hk : Keeps a s) :
    Keeps a (serveSigner y0 s) := by
  induction y0 generalizing s with
  | zero => exact hk
  | succ n ih =>
    unfold serveSigner
    split
    · exact hk
    · refine keeps_ite ?_ fun _ => hk
      have h1 : ∀ r, Keeps a (modSigner (fun g => { g with waiting := r }) s) := fun _ => modSigner_keeps (fun _ => List.prefix_rfl) hk
      dsimp only
      split
      · exact ih (success_keeps (useIndex_keeps (h1 _)))
      · split
        · exact ih (h1 _)
        · exact ih (keeps_ite (signAndSend_keeps (h1 _)) fun h => journalFormation_keeps h)

theorem execGetAttestationReport_keeps {a : State} {path : BcsPath} {input : Bytes} {s : State} (hk : Keeps a s) :
    KeepsNext a (execGetAttestationReport path input s) := by
  unfold execGetAttestationReport
  repeat' (first
    | with_reducible refine keepsNext_next ?_
    | with_reducible assumption
    | with_reducible apply serveSigner_keeps
    | with_reducible apply modSigner_keeps
    | with_reducible apply bcs_keeps
    | dsimp only
    | exact fun _ => List.prefix_rfl
    | intro _)

theorem execSigningWindowReservation_keeps {a : State} {window : Nat} {s : State} (hk : Keeps a s) :
    KeepsNext a (execSigningWindowReservation window s) := by
  unfold execSigningWindowReservation
  repeat' (first
    | with_reducible refine keepsNext_next ?_
    | with_reducible refine keepsNext_ite ?_ ?_
    | with_reducible assumption
    | with_reducible apply serveSigner_keeps
    | with_reducible apply windowRecord_keeps
    | with_reducible apply modSigner_keeps
    | with_reducible apply raise_keeps
    | dsimp only
    | split
    | exact fun _ => List.prefix_rfl)

theorem execKeyUnitReady_keeps {a : State} {s : State} (hk : Keeps a s) :
    KeepsNext a (execKeyUnitReady s) := by
  unfold execKeyUnitReady
  repeat' (first
    | with_reducible refine keepsNext_next ?_
    | with_reducible refine keepsNext_ite ?_ ?_
    | with_reducible assumption
    | with_reducible apply serveSigner_keeps
    | with_reducible apply modSigner_keeps
    | dsimp only
    | exact fun _ => List.prefix_rfl)

theorem execRollbackFuseUpdate_keeps {a : State} {s : State} (hk : Keeps a s) :
    KeepsNext a (execRollbackFuseUpdate s) := by
  unfold execRollbackFuseUpdate
  dsimp only
  split
  · exact keepsNext_next hk
  · rename_i h
    refine keepsNext_next (raise_keeps ⟨hk.pending, hk.out, hk.free, hk.trust.trans ⟨rfl, ?_, id, List.prefix_rfl⟩, hk.ev, hk.shelf, hk.cab,
      hk.staging, hk.mc⟩)
    simp only [Bool.or_eq_true, decide_eq_true_eq, not_or] at h
    show s.trust.rollback ≤ (fwSlot s.mc.fwActive s).svn
    omega

theorem execGetProtectionLevel_keeps {a : State} {path : BcsPath} {input : Bytes} {s : State} (hk : Keeps a s) :
    KeepsNext a (execGetProtectionLevel path input s) := by
  unfold execGetProtectionLevel
  repeat' (first
    | with_reducible refine keepsNext_next ?_
    | with_reducible assumption
    | with_reducible apply bcs_keeps
    | with_reducible apply success_keeps
    | intro _)

theorem startLowering_keeps {a : State} {path : BcsPath} {s : State} (hk : Keeps a s) :
    Keeps a (startLowering path s) := by
  unfold startLowering
  repeat' (first
    | with_reducible assumption
    | with_reducible apply keeps_ite
    | with_reducible apply modSigner_keeps
    | with_reducible apply modTrust_keeps
    | with_reducible apply writeOption_keeps
    | dsimp only
    | exact fun _ => ⟨rfl, Nat.le_refl _, id, List.prefix_rfl⟩
    | exact fun _ => List.prefix_append _ _
    | intro _)

theorem execSetProtectionLevel_keeps {a : State} {path : BcsPath} {input : Bytes} {s : State} (hk : Keeps a s) :
    KeepsNext a (execSetProtectionLevel path input s) := by
  unfold execSetProtectionLevel
  repeat' (first
    | with_reducible refine keepsNext_next ?_
    | with_reducible assumption
    | with_reducible apply startLowering_keeps
    | with_reducible apply modTrust_keeps
    | with_reducible apply checked_keeps
    | with_reducible apply bcs_keeps
    | with_reducible apply writeOption_keeps
    | with_reducible apply success_keeps
    | with_reducible apply answer_keeps
    | with_reducible apply raise_keeps
    | dsimp only
    | split
    | exact fun _ => ⟨rfl, Nat.le_refl _, fun _ => rfl, List.prefix_rfl⟩
    | intro _)

theorem execSanitize_keeps {a : State} {path : BcsPath} {input : Bytes} {s : State} (hk : Keeps a s) :
    KeepsNext a (execSanitize path input s) := by
  unfold execSanitize
  repeat' (first
    | with_reducible refine keepsNext_next ?_
    | with_reducible assumption
    | with_reducible apply modTrust_keeps
    | with_reducible apply checked_keeps
    | with_reducible apply inBackground_keeps
    | with_reducible apply bcs_keeps
    | with_reducible apply journalMeta_keeps
    | with_reducible apply answer_keeps
    | dsimp only
    | split
    | exact fun _ => ⟨rfl, Nat.le_refl _, id, List.prefix_rfl⟩
    | intro _)

theorem modRun_keeps {a : State} {f : SanitizeRun → SanitizeRun} {s : State} (hk : Keeps a s) :
    Keeps a (modRun f s) := by
  unfold modRun
  repeat' (first
    | with_reducible assumption
    | with_reducible apply modTrust_keeps
    | exact fun _ => ⟨rfl, Nat.le_refl _, id, List.prefix_rfl⟩)

theorem newSalt_keeps {a : State} {s : State} (hk : Keeps a s) :
    Keeps a (newSalt s) := by
  unfold newSalt
  repeat' (first
    | with_reducible assumption
    | with_reducible apply modTrust_keeps
    | with_reducible apply norSubmit_keeps
    | with_reducible apply modNor_keeps
    | with_reducible apply journalMeta_keeps
    | with_reducible apply advance_keeps
    | dsimp only
    | split
    | exact fun _ => ⟨rfl, Nat.le_refl _, id, List.prefix_rfl⟩)

theorem sanitizeDeletes_keeps {a : State} {s : State} (hk : Keeps a s) :
    Keeps a (sanitizeDeletes s) := by
  unfold sanitizeDeletes
  repeat' (first
    | with_reducible assumption
    | with_reducible apply keeps_ite
    | with_reducible refine keeps_foldl ?_ (fun _ _ _ => ?_)
    | with_reducible apply modRun_keeps
    | with_reducible apply startChange_keeps
    | with_reducible apply modReg_keeps
    | with_reducible apply bumpTag_keeps
    | with_reducible apply sendMsg_keeps
    | dsimp only
    | split
    | intro _)

theorem clearBureau_keeps {a : State} {s : State} (hk : Keeps a s) :
    Keeps a (clearBureau s) := by
  unfold clearBureau
  repeat' (first
    | with_reducible assumption
    | with_reducible apply keeps_ite
    | with_reducible apply modCxl_keeps
    | with_reducible apply writeOption_keeps
    | dsimp only
    | intro _)

theorem eraseCabinet_keeps {a : State} {s : State} (hk : Keeps a s) :
    Keeps a (eraseCabinet s) := by
  unfold eraseCabinet
  repeat' (first
    | with_reducible assumption
    | with_reducible apply modTi_keeps
    | dsimp only
    | exact fun _ h => h
    | exact fun _ => fun _ => rfl)

theorem sanitizeCkpt_keeps {a : State} {s : State} (hk : Keeps a s) :
    Keeps a (sanitizeCkpt s) := by
  unfold sanitizeCkpt
  repeat' (first
    | with_reducible assumption
    | with_reducible apply modRun_keeps
    | with_reducible apply startCkpt_keeps)

theorem sanitizeBeat_keeps {a : State} {s : State} (hk : Keeps a s) :
    Keeps a (sanitizeBeat s) := by
  unfold sanitizeBeat
  repeat' (first
    | with_reducible assumption
    | with_reducible apply keeps_ite
    | with_reducible apply sanitizeCkpt_keeps
    | with_reducible apply eraseCabinet_keeps
    | with_reducible apply clearBureau_keeps
    | with_reducible apply sanitizeDeletes_keeps
    | with_reducible apply newSalt_keeps
    | with_reducible apply modRun_keeps
    | with_reducible apply modCap_keeps
    | with_reducible apply modTrust_keeps
    | with_reducible apply modTi_keeps
    | with_reducible apply journalMeta_keeps
    | with_reducible apply modPu_keeps
    | dsimp only
    | split
    | exact fun _ h => h
    | exact fun _ => fun _ => rfl
    | exact fun _ => ⟨rfl, Nat.le_refl _, id, List.prefix_rfl⟩
    | intro _)

/-! ### Firmware -/

theorem verifyEvent_keeps {a : State} {slot place : Nat} {fault : Option Nat} {s : State} (hk : Keeps a s) :
    Keeps a (verifyEvent slot place fault s) := by
  unfold verifyEvent
  repeat' (first
    | with_reducible assumption
    | with_reducible apply raise_keeps
    | dsimp only
    | split)

theorem execGetFwInfo_keeps {a : State} {path : BcsPath} {input : Bytes} {s : State} (hk : Keeps a s) :
    KeepsNext a (execGetFwInfo path input s) := by
  unfold execGetFwInfo
  repeat' (first
    | with_reducible refine keepsNext_next ?_
    | with_reducible assumption
    | with_reducible apply bcs_keeps
    | with_reducible apply success_keeps
    | intro _)

theorem takePart_keeps {a : State} {slot off : Nat} {b : Bytes} {s : State} (hk : Keeps a s) :
    Keeps a (takePart slot off b s) := by
  unfold takePart
  repeat' (first
    | with_reducible assumption
    | with_reducible apply keeps_ite
    | with_reducible refine keeps_foldl ?_ (fun _ _ _ => ?_)
    | with_reducible apply modSlot_keeps
    | with_reducible apply modMc_keeps
    | with_reducible apply norSubmit_keeps
    | split
    | exact fun _ => mcCanonical_same rfl rfl
    | intro _)

theorem startTransfer_keeps {a : State} {slot : Nat} {s : State} (hk : Keeps a s) :
    Keeps a (startTransfer slot s) := by
  unfold startTransfer
  repeat' (first
    | with_reducible assumption
    | with_reducible apply modSlot_keeps
    | with_reducible apply modMc_keeps
    | with_reducible apply norSubmit_keeps
    | exact fun _ => mcCanonical_same rfl rfl)

theorem endTransfer_keeps {a : State} {path : BcsPath} {slot : Nat} {s : State} (hk : Keeps a s) :
    Keeps a (endTransfer path slot s) := by
  unfold endTransfer
  repeat' (first
    | with_reducible assumption
    | with_reducible apply keeps_ite
    | with_reducible apply verifyEvent_keeps
    | with_reducible apply modSlot_keeps
    | with_reducible apply modMc_keeps
    | with_reducible apply finishBg_keeps
    | with_reducible apply norSubmit_keeps
    | with_reducible apply raise_keeps
    | exact fun _ => mcCanonical_same rfl rfl
    | intro _)

theorem transferPart_keeps {a : State} {path : BcsPath} {off : Nat} {b : Bytes} {last : Bool} {s : State} (hk : Keeps a s) :
    Keeps a (transferPart path off b last s) := by
  unfold transferPart
  repeat' (first
    | with_reducible assumption
    | with_reducible apply keeps_ite
    | with_reducible apply endTransfer_keeps
    | with_reducible apply takePart_keeps
    | with_reducible apply finishBg_keeps
    | dsimp only
    | split
    | intro _)

theorem execTransferFw_keeps {a : State} {path : BcsPath} {input : Bytes} {s : State} (hk : Keeps a s) :
    KeepsNext a (execTransferFw path input s) := by
  unfold execTransferFw
  repeat' (first
    | with_reducible refine keepsNext_next ?_
    | with_reducible assumption
    | with_reducible apply transferPart_keeps
    | with_reducible apply startTransfer_keeps
    | with_reducible apply dropTransfer_keeps
    | with_reducible apply checked_keeps
    | with_reducible apply inBackground_keeps
    | with_reducible apply finishBg_keeps
    | with_reducible apply bcs_keeps
    | with_reducible apply answer_keeps
    | dsimp only
    | split
    | intro _)

theorem execActivateFw_keeps {a : State} {path : BcsPath} {input : Bytes} {s : State} (hk : Keeps a s) :
    KeepsNext a (execActivateFw path input s) := by
  unfold execActivateFw
  repeat' (first
    | with_reducible refine keepsNext_next ?_
    | with_reducible assumption
    | with_reducible apply verifyEvent_keeps
    | with_reducible apply startRestart_keeps
    | with_reducible apply modMc_keeps
    | with_reducible apply checked_keeps
    | with_reducible apply inBackground_keeps
    | with_reducible apply finishBg_keeps
    | with_reducible apply bcs_keeps
    | with_reducible apply writeOption_keeps
    | with_reducible apply answer_keeps
    | dsimp only
    | split
    | exact fun _ => mcCanonical_same rfl rfl
    | intro _)

/-! ### Power -/

theorem modSeq_keeps {a : State} {f : Seq → Seq} {s : State} (hk : Keeps a s) :
    Keeps a (modSeq f s) := by
  unfold modSeq
  repeat' (first
    | with_reducible assumption
    | fail_if_no_progress (with_reducible refine keeps_mk_iff.2 ?_))

theorem modPwr_keeps {a : State} {f : Power → Power} {s : State} (hk : Keeps a s) :
    Keeps a (modPwr f s) := by
  unfold modPwr
  repeat' (first
    | with_reducible assumption
    | fail_if_no_progress (with_reducible refine keeps_mk_iff.2 ?_))

theorem raiseSeq_keeps {a : State} {code : Nat} {sev : Severity} {data : Bytes} {s : State} (hk : Keeps a s) :
    Keeps a (raiseSeq code sev data s) := by
  unfold raiseSeq
  repeat' (first
    | with_reducible assumption
    | with_reducible apply raiseSup_keeps)

theorem clearUnits_keeps {a : State} {s : State} (hk : Keeps a s) :
    Keeps a (clearUnits s) := by
  have h1 : ∀ (slot : SlotSched) (pair : Pair) (cxl : Cxl) (te : Te) (ecc : Ecc) (mc : Mc) (trust : Trust),
      mc.mail = [] → mc.proxy.input = s.mc.proxy.input → KeepsTrust s.trust trust →
      Keeps a { s with slot := slot, pair := pair, cxl := cxl, te := te, gqp := {}, net := {}, cap := {}, ecc := ecc, mc := mc, trust := trust } := by
    intro slot pair cxl te ecc mc trust hm hp ht
    refine keeps_any (KeepsEv.refl _) ht id id (fun _ => rfl) (fun h => ?_) hk
    simp only [mcCanonical, Bool.and_eq_true] at h ⊢
    rw [hm, hp]
    exact ⟨rfl, h.2⟩
  unfold clearUnits
  dsimp only
  split
  · exact modSlot_keeps (resetSigner_keeps (h1 _ _ _ _ _ _ _ rfl rfl ⟨rfl, Nat.le_refl _, id, List.prefix_rfl⟩))
  · exact resetSigner_keeps (h1 _ _ _ _ _ _ _ rfl rfl ⟨rfl, Nat.le_refl _, id, List.prefix_rfl⟩)

theorem closeInterrupted_keeps {a : State} {s : State} (hk : Keeps a s) :
    Keeps a (closeInterrupted s) := by
  unfold closeInterrupted
  repeat' (first
    | with_reducible assumption
    | with_reducible refine keeps_foldl ?_ (fun _ _ _ => ?_)
    | with_reducible apply modStripe_keeps)

theorem loseVcore_keeps {a : State} {s : State} (hk : Keeps a s) :
    Keeps a (loseVcore s) := by
  unfold loseVcore
  refine keeps_any ⟨Nat.le_refl _, Nat.le_refl _, Nat.le_refl _, Nat.le_refl _, fun _ => Nat.zero_le _, id⟩ (KeepsTrust.refl _) (fun _ => rfl) id
    id (mcCanonical_same rfl rfl) (closeInterrupted_keeps (clearUnits_keeps hk))

theorem norLost_keeps {a : State} {s : State} (hk : Keeps a s) :
    Keeps a (norLost s) := by
  unfold norLost
  repeat' (first
    | with_reducible assumption
    | with_reducible apply modNor_keeps)

theorem startDrain_keeps {a : State} {trigger : Nat} {s : State} (hk : Keeps a s) :
    Keeps a (startDrain trigger s) := by
  unfold startDrain
  repeat' (first
    | with_reducible assumption
    | with_reducible apply keeps_ite
    | with_reducible refine keeps_foldl ?_ (fun _ _ _ => ?_)
    | with_reducible apply clearUnits_keeps
    | with_reducible apply raiseSeq_keeps
    | with_reducible apply modPwr_keeps
    | with_reducible apply sealUnknown_keeps
    | with_reducible apply sealGroup_keeps
    | with_reducible apply closeSet_keeps
    | with_reducible apply abandonUnit_keeps
    | with_reducible apply modPu_keeps
    | dsimp only
    | split
    | intro _)

theorem drainDown_keeps {a : State} {trigger : Nat} {cause : DownCause} {kind : Nat} {again : Bool} {s : State} (hk : Keeps a s) :
    Keeps a (drainDown trigger cause kind again s) := by
  unfold drainDown
  repeat' (first
    | with_reducible assumption
    | with_reducible apply keeps_ite
    | with_reducible apply startDrain_keeps
    | with_reducible apply modSeq_keeps
    | intro _)

theorem dropRail_keeps {a : State} {n : Nat} {s : State} (hk : Keeps a s) :
    Keeps a (dropRail n s) := by
  unfold dropRail
  repeat' (first
    | with_reducible assumption
    | with_reducible apply keeps_ite
    | with_reducible apply norLost_keeps
    | with_reducible apply loseVcore_keeps
    | with_reducible apply modPwr_keeps
    | with_reducible apply modSeq_keeps
    | with_reducible apply emit_keeps
    | dsimp only
    | intro _)

theorem raiseRail_keeps {a : State} {n : Nat} {s : State} (hk : Keeps a s) :
    Keeps a (raiseRail n s) := by
  unfold raiseRail
  repeat' (first
    | with_reducible assumption
    | with_reducible apply modSeq_keeps
    | with_reducible apply emit_keeps)

theorem lockOut_keeps {a : State} {thermal : Bool} {s : State} (hk : Keeps a s) :
    Keeps a (lockOut thermal s) := by
  unfold lockOut
  repeat' (first
    | with_reducible assumption
    | with_reducible apply raiseSeq_keeps
    | with_reducible apply modSeq_keeps
    | with_reducible apply wearLog_keeps)

theorem nackCode_keeps {a : State} {s : State} (hk : Keeps a s) :
    Keeps a (nackCode s) := by
  unfold nackCode
  repeat' (first
    | with_reducible assumption
    | with_reducible apply emit_keeps
    | dsimp only
    | refine keeps_mc ?_ ?_
    | exact mcCanonical_same rfl rfl)

theorem wake_keeps {a : State} {source : Nat} {s : State} (hk : Keeps a s) :
    Keeps a (wake source s) := by
  unfold wake
  repeat' (first
    | with_reducible assumption
    | with_reducible apply keeps_ite
    | with_reducible apply modSeq_keeps
    | dsimp only
    | refine keeps_mc ?_ ?_
    | exact mcCanonical_same rfl rfl
    | intro _)

theorem downDone_keeps {a : State} {s : State} (hk : Keeps a s) :
    Keeps a (downDone s) := by
  unfold downDone
  repeat' (first
    | with_reducible assumption
    | with_reducible apply keeps_ite
    | with_reducible apply wake_keeps
    | with_reducible apply lockOut_keeps
    | with_reducible apply raiseSeq_keeps
    | with_reducible apply modSeq_keeps
    | dsimp only
    | split
    | intro _)

theorem downFrom_keeps {a : State} {n : Nat} {s : State} (hk : Keeps a s) :
    Keeps a (downFrom n s) := by
  unfold downFrom
  repeat' (first
    | with_reducible assumption
    | with_reducible apply downDone_keeps
    | with_reducible apply dropRail_keeps
    | split)

theorem startDown_keeps {a : State} {s : State} (hk : Keeps a s) :
    Keeps a (startDown s) := by
  unfold startDown
  repeat' (first
    | with_reducible assumption
    | with_reducible apply downFrom_keeps
    | with_reducible apply modSeq_keeps)

theorem loadOptions_keeps {a : State} {s : State} (hk : Keeps a s) :
    Keeps a (loadOptions s) := by
  unfold loadOptions
  exact keeps_any (KeepsEv.refl _) ⟨rfl, Nat.le_refl _, id, List.prefix_rfl⟩ id id id (mcCanonical_same rfl rfl)
    (keeps_ite (advance_keeps (raiseSeq_keeps hk)) fun _ => hk)

theorem powerUp_keeps {a : State} {s : State} (hk : Keeps a s) :
    Keeps a (powerUp s) := by
  unfold powerUp
  repeat' (first
    | with_reducible assumption
    | with_reducible apply keeps_ite
    | with_reducible apply loadOptions_keeps
    | with_reducible apply raiseRail_keeps
    | with_reducible apply modSeq_keeps
    | intro _)

theorem execPowerUpStart_keeps {a : State} {s : State} (hk : Keeps a s) :
    KeepsNext a (execPowerUpStart s) := by
  unfold execPowerUpStart
  repeat' (first
    | with_reducible refine keepsNext_next ?_
    | with_reducible assumption
    | with_reducible apply powerUp_keeps)

theorem execRailDebounceComplete_keeps {a : State} {rail : Nat} {s : State} (hk : Keeps a s) :
    KeepsNext a (execRailDebounceComplete rail s) := by
  unfold execRailDebounceComplete
  repeat' (first
    | with_reducible refine keepsNext_next ?_
    | with_reducible refine keepsNext_ite ?_ ?_
    | with_reducible assumption
    | with_reducible apply keeps_ite
    | with_reducible apply drainDown_keeps
    | with_reducible apply modSeq_keeps
    | intro _)

theorem execStepGapEnd_keeps {a : State} {s : State} (hk : Keeps a s) :
    KeepsNext a (execStepGapEnd s) := by
  unfold execStepGapEnd
  repeat' (first
    | with_reducible refine keepsNext_next ?_
    | with_reducible assumption
    | with_reducible apply keeps_ite
    | with_reducible apply raiseRail_keeps)

theorem failStep_keeps {a : State} {micros low : Nat} {s : State} (hk : Keeps a s) :
    Keeps a (failStep micros low s) := by
  unfold failStep
  repeat' (first
    | with_reducible assumption
    | with_reducible apply keeps_ite
    | with_reducible apply downFrom_keeps
    | with_reducible apply dropRail_keeps
    | with_reducible apply modSeq_keeps
    | intro _)

theorem execStepTimeout_keeps {a : State} {microseconds lowSamples : Nat} {s : State} (hk : Keeps a s) :
    KeepsNext a (execStepTimeout microseconds lowSamples s) := by
  unfold execStepTimeout
  repeat' (first
    | with_reducible refine keepsNext_next ?_
    | with_reducible assumption
    | with_reducible apply keeps_ite
    | with_reducible apply failStep_keeps)

theorem execRetryWaitEnd_keeps {a : State} {s : State} (hk : Keeps a s) :
    KeepsNext a (execRetryWaitEnd s) := by
  unfold execRetryWaitEnd
  repeat' (first
    | with_reducible refine keepsNext_next ?_
    | with_reducible refine keepsNext_ite ?_ ?_
    | with_reducible assumption
    | with_reducible apply powerUp_keeps
    | with_reducible apply modSeq_keeps)

theorem downFailed_keeps {a : State} {rail how : Nat} {s : State} (hk : Keeps a s) :
    Keeps a (downFailed rail how s) := by
  unfold downFailed
  repeat' (first
    | with_reducible assumption
    | with_reducible apply raiseSeq_keeps
    | with_reducible apply modSeq_keeps)

theorem execRailLow_keeps {a : State} {rail : Nat} {s : State} (hk : Keeps a s) :
    KeepsNext a (execRailLow rail s) := by
  unfold execRailLow
  repeat' (first
    | with_reducible refine keepsNext_next ?_
    | with_reducible refine keepsNext_ite ?_ ?_
    | with_reducible assumption
    | with_reducible apply keeps_ite
    | with_reducible apply downFailed_keeps
    | with_reducible apply startDown_keeps
    | with_reducible apply downFrom_keeps
    | with_reducible apply modSeq_keeps
    | intro _)

theorem execFallTimeout_keeps {a : State} {rail : Nat} {s : State} (hk : Keeps a s) :
    KeepsNext a (execFallTimeout rail s) := by
  unfold execFallTimeout
  repeat' (first
    | with_reducible refine keepsNext_next ?_
    | with_reducible refine keepsNext_ite ?_ ?_
    | with_reducible assumption
    | with_reducible apply downFailed_keeps
    | with_reducible apply downFrom_keeps
    | with_reducible apply modSeq_keeps)

theorem execPowerGoodLoss_keeps {a : State} {rail : Nat} {s : State} (hk : Keeps a s) :
    KeepsNext a (execPowerGoodLoss rail s) := by
  unfold execPowerGoodLoss
  repeat' (first
    | with_reducible refine keepsNext_next ?_
    | with_reducible refine keepsNext_ite ?_ ?_
    | with_reducible assumption
    | with_reducible apply failStep_keeps
    | with_reducible apply drainDown_keeps
    | with_reducible apply raiseSeq_keeps
    | with_reducible apply modSeq_keeps
    | with_reducible apply advance_keeps)

theorem execPfailNAssert_keeps {a : State} {s : State} (hk : Keeps a s) :
    KeepsNext a (execPfailNAssert s) := by
  unfold execPfailNAssert
  repeat' (first
    | with_reducible refine keepsNext_next ?_
    | with_reducible assumption
    | with_reducible apply drainDown_keeps
    | with_reducible apply modSeq_keeps)

theorem execVinSenseTrip_keeps {a : State} {s : State} (hk : Keeps a s) :
    KeepsNext a (execVinSenseTrip s) := by
  unfold execVinSenseTrip
  repeat' (first
    | with_reducible refine keepsNext_next ?_
    | with_reducible assumption
    | with_reducible apply drainDown_keeps
    | with_reducible apply modSeq_keeps)

theorem execSysRefclkLoss_keeps {a : State} {s : State} (hk : Keeps a s) :
    KeepsNext a (execSysRefclkLoss s) := by
  unfold execSysRefclkLoss
  repeat' (first
    | with_reducible refine keepsNext_next ?_
    | with_reducible assumption
    | with_reducible apply drainDown_keeps)

theorem execInputRecovered_keeps {a : State} {s : State} (hk : Keeps a s) :
    KeepsNext a (execInputRecovered s) := by
  unfold execInputRecovered
  repeat' (first
    | with_reducible refine keepsNext_next ?_
    | with_reducible assumption
    | with_reducible apply modSeq_keeps)

theorem execDrainComplete_keeps {a : State} {s : State} (hk : Keeps a s) :
    KeepsNext a (execDrainComplete s) := by
  unfold execDrainComplete
  repeat' (first
    | with_reducible refine keepsNext_next ?_
    | with_reducible refine keepsNext_ite ?_ ?_
    | with_reducible assumption
    | with_reducible apply startDown_keeps
    | with_reducible apply raiseSeq_keeps
    | fail_if_no_progress (with_reducible refine keeps_mk_iff.2 ?_)
    | dsimp only
    | split)

theorem execResetNAssert_keeps {a : State} {s : State} (hk : Keeps a s) :
    KeepsNext a (execResetNAssert s) := by
  unfold execResetNAssert
  repeat' (first
    | with_reducible refine keepsNext_next ?_
    | with_reducible assumption
    | with_reducible apply drainDown_keeps
    | with_reducible apply modSeq_keeps)

theorem execResetNDeassert_keeps {a : State} {s : State} (hk : Keeps a s) :
    KeepsNext a (execResetNDeassert s) := by
  unfold execResetNDeassert
  repeat' (first
    | with_reducible refine keepsNext_next ?_
    | with_reducible assumption
    | with_reducible apply keeps_ite
    | with_reducible apply wake_keeps
    | with_reducible apply modSeq_keeps)

theorem execWakeNLow_keeps {a : State} {edge inLostWindow : Bool} {s : State} (hk : Keeps a s) :
    KeepsNext a (execWakeNLow edge inLostWindow s) := by
  unfold execWakeNLow
  repeat' (first
    | with_reducible refine keepsNext_next ?_
    | with_reducible refine keepsNext_ite ?_ ?_
    | with_reducible assumption
    | with_reducible apply wake_keeps
    | with_reducible apply modSeq_keeps
    | dsimp only
    | split)

theorem execSmbusAddressMatch_keeps {a : State} {beforeStep2 inLostWindow : Bool} {s : State} (hk : Keeps a s) :
    KeepsNext a (execSmbusAddressMatch beforeStep2 inLostWindow s) := by
  unfold execSmbusAddressMatch
  repeat' (first
    | with_reducible refine keepsNext_next ?_
    | with_reducible refine keepsNext_ite ?_ ?_
    | with_reducible assumption
    | with_reducible apply wake_keeps
    | with_reducible apply nackCode_keeps
    | with_reducible apply modSeq_keeps
    | split)

theorem standbyBeat_keeps {a : State} {s : State} (hk : Keeps a s) :
    Keeps a (standbyBeat s) := by
  unfold standbyBeat
  repeat' (first
    | with_reducible assumption
    | with_reducible apply keeps_ite
    | with_reducible apply drainDown_keeps)

theorem abandonSlot_keeps {a : State} {s : State} (hk : Keeps a s) :
    Keeps a (abandonSlot s) := by
  unfold abandonSlot
  exact keeps_ite hk fun _ => keeps_ev ⟨Nat.le_refl _, Nat.le_refl _, Nat.le_succ _, Nat.le_refl _, id, id⟩ hk

theorem supervisorReset_keeps {a : State} {s : State} (hk : Keeps a s) :
    Keeps a (supervisorReset s) := by
  unfold supervisorReset
  repeat' (first
    | with_reducible assumption
    | with_reducible refine keeps_foldl ?_ (fun _ _ _ => ?_)
    | with_reducible apply abandonSlot_keeps
    | with_reducible apply norLost_keeps
    | with_reducible apply loseVcore_keeps
    | with_reducible apply modPwr_keeps
    | with_reducible apply modSeq_keeps
    | with_reducible apply modNor_keeps
    | with_reducible apply emit_keeps
    | dsimp only
    | refine keeps_ev ?_ ?_
    | exact ⟨Nat.le_refl _, Nat.le_refl _, Nat.le_refl _, Nat.le_refl _, id, fun _ => Nat.zero_le _⟩)

theorem execVstbyCollapse_keeps {a : State} {s : State} (hk : Keeps a s) :
    KeepsNext a (execVstbyCollapse s) := by
  unfold execVstbyCollapse
  refine keepsNext_next (keeps_ite hk fun _ => modSeq_keeps (modMc_keeps (fun m h => ?_) (supervisorReset_keeps hk)))
  simp only [mcCanonical, Bool.and_eq_true] at h ⊢
  exact ⟨h.1, rfl⟩

theorem execClk25InLoss_keeps {a : State} {s : State} (hk : Keeps a s) :
    KeepsNext a (execClk25InLoss s) := by
  unfold execClk25InLoss
  repeat' (first
    | with_reducible refine keepsNext_next ?_
    | with_reducible assumption
    | with_reducible apply keeps_ite
    | with_reducible apply supervisorReset_keeps
    | with_reducible apply modSeq_keeps
    | intro _)

theorem execVstbyApplied_keeps {a : State} {s : State} (hk : Keeps a s) :
    KeepsNext a (execVstbyApplied s) := by
  unfold execVstbyApplied
  repeat' (first
    | with_reducible refine keepsNext_next ?_
    | with_reducible refine keepsNext_ite ?_ ?_
    | with_reducible assumption
    | with_reducible apply keeps_ite
    | with_reducible apply loadOptions_keeps
    | with_reducible apply raiseSeq_keeps
    | with_reducible apply modPwr_keeps
    | with_reducible apply modSeq_keeps
    | with_reducible apply powerCycle_keeps
    | fail_if_no_progress (with_reducible refine keeps_mk_iff.2 ?_)
    | split
    | intro _)

theorem supervised_keeps {a : State} {path : BcsPath} {opcode len : Nat} {input : Bytes} {body : State → State} {s : State} (hbody : ∀ s, Keeps a s → Keeps a (body s)) (hk : Keeps a s) :
    Keeps a (supervised path opcode len input body s) := by
  unfold supervised
  repeat' (first
    | with_reducible assumption
    | with_reducible apply keeps_ite
    | with_reducible apply bcs_keeps
    | with_reducible apply answer_keeps
    | with_reducible apply hbody
    | split
    | intro _)

theorem execGetSequencerStatus_keeps {a : State} {path : BcsPath} {input : Bytes} {s : State} (hk : Keeps a s) :
    KeepsNext a (execGetSequencerStatus path input s) := by
  unfold execGetSequencerStatus
  repeat' (first
    | with_reducible refine keepsNext_next ?_
    | with_reducible assumption
    | with_reducible apply supervised_keeps
    | with_reducible apply success_keeps
    | dsimp only
    | intro _)

theorem execClearLockout_keeps {a : State} {path : BcsPath} {input : Bytes} {s : State} (hk : Keeps a s) :
    KeepsNext a (execClearLockout path input s) := by
  unfold execClearLockout
  repeat' (first
    | with_reducible refine keepsNext_next ?_
    | with_reducible assumption
    | with_reducible apply supervised_keeps
    | with_reducible apply raiseSeq_keeps
    | with_reducible apply modSeq_keeps
    | with_reducible apply success_keeps
    | with_reducible apply answer_keeps
    | split
    | intro _)

theorem execPowerDown_keeps {a : State} {path : BcsPath} {input : Bytes} {s : State} (hk : Keeps a s) :
    KeepsNext a (execPowerDown path input s) := by
  unfold execPowerDown
  repeat' (first
    | with_reducible refine keepsNext_next ?_
    | with_reducible assumption
    | with_reducible apply drainDown_keeps
    | with_reducible apply checked_keeps
    | with_reducible apply bcs_keeps
    | with_reducible apply success_keeps
    | with_reducible apply answer_keeps
    | dsimp only
    | split
    | intro _)

theorem wdiViolation_keeps {a : State} {late : Bool} {micros : Nat} {s : State} (hk : Keeps a s) :
    Keeps a (wdiViolation late micros s) := by
  unfold wdiViolation
  repeat' (first
    | with_reducible assumption
    | with_reducible apply modPwr_keeps
    | with_reducible apply watchdogReset_keeps
    | with_reducible apply raise_keeps)

theorem execWdiEdge_keeps {a : State} {microsSinceLast : Nat} {s : State} (hk : Keeps a s) :
    KeepsNext a (execWdiEdge microsSinceLast s) := by
  unfold execWdiEdge
  repeat' (first
    | with_reducible refine keepsNext_next ?_
    | with_reducible refine keepsNext_ite ?_ ?_
    | with_reducible assumption
    | with_reducible apply wdiViolation_keeps
    | with_reducible apply modPwr_keeps)

theorem execWdiWindowExpiry_keeps {a : State} {microsSinceLast : Nat} {s : State} (hk : Keeps a s) :
    KeepsNext a (execWdiWindowExpiry microsSinceLast s) := by
  unfold execWdiWindowExpiry
  repeat' (first
    | with_reducible refine keepsNext_next ?_
    | with_reducible assumption
    | with_reducible apply keeps_ite
    | with_reducible apply wdiViolation_keeps)

theorem execThermalReading_keeps {a : State} {sensor : Nat} {celsius : Int} {s : State} (hk : Keeps a s) :
    KeepsNext a (execThermalReading sensor celsius s) := by
  unfold execThermalReading
  repeat' (first
    | with_reducible refine keepsNext_next ?_
    | with_reducible refine keepsNext_ite ?_ ?_
    | with_reducible assumption
    | with_reducible apply keeps_ite
    | with_reducible apply drainDown_keeps
    | with_reducible apply modPwr_keeps
    | with_reducible apply raise_keeps
    | split
    | intro _)

end Sys2Proof.Machine
end

