-- ==== Sys2Proof/Laws/Keeps7.lean ====
section
/-! SUPPORT. `Keeps` through the operations of Units, NorCmds, StartUp, Executor, Registers, Sideband, Boundary. -/

set_option linter.unusedTactic false
set_option linter.unreachableTactic false
set_option linter.unusedVariables false

namespace Sys2Proof.Machine

/-! ### Units -/

theorem modUnit_keeps {a : State} {u : Nat} {f : UnitPower → UnitPower} {s : State} (hk : Keeps a s) :
    Keeps a (modUnit u f s) := by
  unfold modUnit
  repeat' (first
    | with_reducible assumption
    | with_reducible apply modPwr_keeps)

theorem enterState_keeps {a : State} {n u : Nat} {s : State} (hk : Keeps a s) :
    Keeps a (enterState n u s) := by
  unfold enterState
  repeat' (first
    | with_reducible assumption
    | with_reducible apply modUnit_keeps)

theorem execIdleTimerEntry_keeps {a : State} {unit : Nat} {s : State} (hk : Keeps a s) :
    KeepsNext a (execIdleTimerEntry unit s) := by
  unfold execIdleTimerEntry
  repeat' (first
    | with_reducible refine keepsNext_next ?_
    | with_reducible refine keepsNext_ite ?_ ?_
    | with_reducible assumption
    | with_reducible refine keeps_foldl ?_ (fun _ _ _ => ?_)
    | with_reducible apply enterState_keeps
    | dsimp only
    | split)

theorem countEntry_keeps {a : State} {u n : Nat} {aborted : Bool} {refuser : Nat} {s : State} (hk : Keeps a s) :
    Keeps a (countEntry u n aborted refuser s) := by
  unfold countEntry
  repeat' (first
    | with_reducible assumption
    | with_reducible apply modUnit_keeps
    | with_reducible apply raiseLimited_keeps)

theorem execUnitWorkArrival_keeps {a : State} {unit agent : Nat} {s : State} (hk : Keeps a s) :
    KeepsNext a (execUnitWorkArrival unit agent s) := by
  unfold execUnitWorkArrival
  repeat' (first
    | with_reducible refine keepsNext_next ?_
    | with_reducible assumption
    | with_reducible apply keeps_ite
    | with_reducible refine keeps_foldl ?_ (fun _ _ _ => ?_)
    | with_reducible apply countEntry_keeps
    | with_reducible apply modUnit_keeps
    | dsimp only
    | split
    | intro _)

theorem unitsBeat_keeps {a : State} {s : State} (hk : Keeps a s) :
    Keeps a (unitsBeat s) := by
  unfold unitsBeat
  repeat' (first
    | with_reducible assumption
    | with_reducible refine keeps_foldl ?_ (fun _ _ _ => ?_)
    | with_reducible apply enterState_keeps)

theorem commandBank_keeps {a : State} {u : Nat} {off : Bool} {s : State} (hk : Keeps a s) :
    Keeps a (commandBank u off s) := by
  unfold commandBank
  repeat' (first
    | with_reducible assumption
    | with_reducible apply modHead_keeps)

theorem commandState_keeps {a : State} {u n : Nat} {s : State} (hk : Keeps a s) :
    Keeps a (commandState u n s) := by
  unfold commandState
  repeat' (first
    | with_reducible assumption
    | with_reducible apply keeps_ite
    | with_reducible apply commandBank_keeps
    | with_reducible apply modUnit_keeps
    | dsimp only
    | split
    | intro _)

theorem execGetUnitPower_keeps {a : State} {path : BcsPath} {input : Bytes} {s : State} (hk : Keeps a s) :
    KeepsNext a (execGetUnitPower path input s) := by
  unfold execGetUnitPower
  repeat' (first
    | with_reducible refine keepsNext_next ?_
    | with_reducible assumption
    | with_reducible apply checked_keeps
    | with_reducible apply bcs_keeps
    | with_reducible apply success_keeps
    | dsimp only
    | intro _)

theorem execSetUnitPower_keeps {a : State} {path : BcsPath} {input : Bytes} {s : State} (hk : Keeps a s) :
    KeepsNext a (execSetUnitPower path input s) := by
  unfold execSetUnitPower
  repeat' (first
    | with_reducible refine keepsNext_next ?_
    | with_reducible assumption
    | with_reducible apply commandState_keeps
    | with_reducible apply countEntry_keeps
    | with_reducible apply modUnit_keeps
    | with_reducible apply checked_keeps
    | with_reducible apply bcs_keeps
    | with_reducible apply success_keeps
    | with_reducible apply answer_keeps
    | dsimp only
    | split
    | intro _)

theorem execCommandedStateEntry_keeps {a : State} {unit : Nat} {s : State} (hk : Keeps a s) :
    KeepsNext a (execCommandedStateEntry unit s) := by
  unfold execCommandedStateEntry
  repeat' (first
    | with_reducible refine keepsNext_next ?_
    | with_reducible refine keepsNext_ite ?_ ?_
    | with_reducible assumption
    | with_reducible apply enterState_keeps
    | with_reducible apply modPwr_keeps
    | dsimp only
    | split)

theorem releasePads_keeps {a : State} {groups : BitVec 10} {s : State} (hk : Keeps a s) :
    Keeps a (releasePads groups s) := by
  unfold releasePads
  repeat' (first
    | with_reducible assumption
    | with_reducible apply keeps_ite
    | with_reducible apply modPwr_keeps
    | with_reducible apply raise_keeps
    | with_reducible apply badWrite_keeps
    | dsimp only
    | split
    | intro _)

theorem execPadHoldRelease_keeps {a : State} {groups : BitVec 10} {s : State} (hk : Keeps a s) :
    KeepsNext a (execPadHoldRelease groups s) := by
  unfold execPadHoldRelease
  repeat' (first
    | with_reducible refine keepsNext_next ?_
    | with_reducible assumption
    | with_reducible apply releasePads_keeps)

theorem execHeadLinkPowerStateChange_keeps {a : State} {head state : Nat} {s : State} (hk : Keeps a s) :
    KeepsNext a (execHeadLinkPowerStateChange head state s) := by
  unfold execHeadLinkPowerStateChange
  repeat' (first
    | with_reducible refine keepsNext_next ?_
    | with_reducible assumption
    | with_reducible apply keeps_ite
    | with_reducible apply modHead_keeps)

theorem execPerstNDeassert_keeps {a : State} {head : Nat} {s : State} (hk : Keeps a s) :
    KeepsNext a (execPerstNDeassert head s) := by
  unfold execPerstNDeassert
  repeat' (first
    | with_reducible refine keepsNext_next ?_
    | with_reducible assumption
    | with_reducible apply modHead_keeps)

theorem execEnterDeviceStandby_keeps {a : State} {path : BcsPath} {input : Bytes} {s : State} (hk : Keeps a s) :
    KeepsNext a (execEnterDeviceStandby path input s) := by
  unfold execEnterDeviceStandby
  repeat' (first
    | with_reducible refine keepsNext_next ?_
    | with_reducible assumption
    | with_reducible apply countEntry_keeps
    | with_reducible apply modSeq_keeps
    | with_reducible apply bcs_keeps
    | with_reducible apply success_keeps
    | with_reducible apply answer_keeps
    | with_reducible apply advance_keeps
    | split
    | intro _)

theorem execIdentifyController_keeps {a : State} {path : BcsPath} {input : Bytes} {s : State} (hk : Keeps a s) :
    KeepsNext a (execIdentifyController path input s) := by
  unfold execIdentifyController
  repeat' (first
    | with_reducible refine keepsNext_next ?_
    | with_reducible assumption
    | with_reducible apply bcs_keeps
    | with_reducible apply success_keeps
    | dsimp only
    | split
    | intro _)

/-! ### NorCmds -/

theorem norFailed_keeps {a : State} {o : NorOp} {s : State} (hk : Keeps a s) :
    Keeps a (norFailed o s) := by
  unfold norFailed
  repeat' (first
    | with_reducible assumption
    | with_reducible apply modSlot_keeps
    | with_reducible apply modTrust_keeps
    | with_reducible apply finishBg_keeps
    | with_reducible apply raise_keeps
    | dsimp only
    | split
    | exact fun _ => ⟨rfl, Nat.le_refl _, id, List.prefix_rfl⟩)

theorem optionTaken_keeps {b0 : State} {a : OptionThen} {s : State} (hk : Keeps b0 s) :
    Keeps b0 (optionTaken a s) := by
  unfold optionTaken
  repeat' (first
    | with_reducible assumption
    | with_reducible apply drainDown_keeps
    | with_reducible apply newSalt_keeps
    | with_reducible apply takeParam_keeps
    | with_reducible apply modMc_keeps
    | with_reducible apply modTrust_keeps
    | with_reducible apply answerO_keeps
    | with_reducible apply raise_keeps
    | dsimp only
    | split
    | exact fun _ => ⟨rfl, Nat.le_refl _, id, List.prefix_rfl⟩
    | exact fun _ => mcCanonical_same rfl rfl)

theorem blockHead_keeps {a : State} {s : State} (hk : Keeps a s) :
    Keeps a (blockHead s) := by
  unfold blockHead
  repeat' (first
    | with_reducible assumption
    | with_reducible refine keeps_foldl ?_ (fun _ _ _ => ?_)
    | with_reducible apply writeWear_keeps)

theorem flushWear_keeps {a : State} {s : State} (hk : Keeps a s) :
    Keeps a (flushWear s) := by
  unfold flushWear
  repeat' (first
    | with_reducible assumption
    | with_reducible refine keeps_foldl ?_ (fun _ _ _ => ?_)
    | with_reducible apply wearLog_keeps
    | with_reducible apply modNor_keeps)

theorem eraseFollows_keeps {a : State} {b : Nat} {s : State} (hk : Keeps a s) :
    Keeps a (eraseFollows b s) := by
  unfold eraseFollows
  repeat' (first
    | with_reducible assumption
    | with_reducible apply keeps_ite
    | with_reducible apply flushWear_keeps
    | with_reducible apply blockHead_keeps
    | with_reducible apply modNor_keeps
    | dsimp only
    | split
    | refine keeps_ev ?_ ?_
    | exact ⟨Nat.le_refl _, Nat.le_refl _, Nat.le_refl _, Nat.le_refl _, id, id⟩
    | intro _)

theorem storeOption_keeps {a : State} {c : OptionCopy} {s : State} (hk : Keeps a s) :
    Keeps a (storeOption c s) := by
  unfold storeOption
  repeat' (first
    | with_reducible assumption
    | with_reducible apply eraseDone_keeps
    | with_reducible apply modNor_keeps)

theorem norNext_keeps {a : State} {s : State} (hk : Keeps a s) :
    Keeps a (norNext s) := by
  unfold norNext
  repeat' (first
    | with_reducible assumption
    | with_reducible apply issueOp_keeps
    | with_reducible apply modNor_keeps)

theorem execNorOperationComplete_keeps {a : State} {failed : Bool} {s : State} (hk : Keeps a s) :
    KeepsNext a (execNorOperationComplete failed s) := by
  unfold execNorOperationComplete
  repeat' (first
    | with_reducible refine keepsNext_next ?_
    | with_reducible refine keepsNext_ite ?_ ?_
    | with_reducible assumption
    | with_reducible apply norNext_keeps
    | with_reducible apply storeOption_keeps
    | with_reducible apply eraseFollows_keeps
    | with_reducible apply optionTaken_keeps
    | with_reducible apply norFailed_keeps
    | with_reducible apply eraseDone_keeps
    | split)

theorem execEraseSuspend_keeps {a : State} {s : State} (hk : Keeps a s) :
    KeepsNext a (execEraseSuspend s) := by
  unfold execEraseSuspend
  repeat' (first
    | with_reducible refine keepsNext_next ?_
    | with_reducible refine keepsNext_ite ?_ ?_
    | with_reducible assumption
    | with_reducible apply modNor_keeps
    | split)

theorem execCounterLogCompaction_keeps {a : State} {s : State} (hk : Keeps a s) :
    KeepsNext a (execCounterLogCompaction s) := by
  unfold execCounterLogCompaction
  repeat' (first
    | with_reducible refine keepsNext_next ?_
    | with_reducible refine keepsNext_ite ?_ ?_
    | with_reducible assumption
    | with_reducible apply eraseIntent_keeps
    | with_reducible apply modNor_keeps
    | with_reducible apply raise_keeps)

theorem execHourEntry_keeps {a : State} {s : State} (hk : Keeps a s) :
    KeepsNext a (execHourEntry s) := by
  unfold execHourEntry
  refine keepsNext_ite (keepsNext_next (resumeErase_keeps (modNor_keeps (counterEntry_keeps ?_)))) (keepsNext_next hk)
  exact keeps_ev ⟨Nat.le_refl _, Nat.le_succ _, Nat.le_refl _, Nat.le_refl _, id, id⟩ hk

theorem reportLost_keeps {a : State} {s : State} (hk : Keeps a s) :
    Keeps a (reportLost s) := by
  unfold reportLost
  repeat' (first
    | with_reducible assumption
    | with_reducible apply keeps_ite
    | with_reducible apply raise_keeps
    | dsimp only
    | refine keeps_ev ?_ ?_
    | exact ⟨Nat.le_refl _, Nat.le_refl _, Nat.le_refl _, Nat.le_refl _, id, id⟩
    | intro _)

theorem execEventRecordWrite_keeps {a : State} {s : State} (hk : Keeps a s) :
    KeepsNext a (execEventRecordWrite s) := by
  unfold execEventRecordWrite
  split
  · exact keepsNext_next hk
  · rename_i e r hq
    refine keepsNext_ite (keepsNext_next ?_) (keepsNext_next hk)
    have h1 : Keeps a { s with ev := { s.ev with
        queue := r, recent := mput s.ev.nextIndex e s.ev.recent
        first := if s.ev.nextIndex < s.ev.firstBase + 4096 then mput s.ev.nextIndex e s.ev.first else s.ev.first
        nextIndex := s.ev.nextIndex + 1 } } := by
      refine keeps_ev ⟨Nat.le_refl _, Nat.le_refl _, Nat.le_succ _, Nat.le_refl _, fun h => ?_, id⟩ hk
      rw [hq] at h
      simp only [List.length_cons] at h ⊢
      omega
    exact keeps_ite (reportLost_keeps (resumeErase_keeps h1)) fun h => norSubmit_keeps h

theorem relay_keeps (l : List Event) (u : EventUnit) :
    KeepsEv u (l.foldl (fun u e => setEvt (severityBit e.severity) (queueEvent e u)) u) := by
  induction l generalizing u with
  | nil => exact KeepsEv.refl u
  | cons e r ih => exact (setEvt_keeps (queueEvent_keeps e u)).trans (ih _)

theorem execPendingEventRelay_keeps {a : State} {s : State} (hk : Keeps a s) :
    KeepsNext a (execPendingEventRelay s) := by
  unfold execPendingEventRelay
  refine keepsNext_ite (keepsNext_next ?_) (keepsNext_next hk)
  have h1 := relay_keeps s.ev.supPending s.ev
  refine keeps_ite_then (keeps_ev ?_ hk) fun h => raise_keeps h
  exact ⟨h1.cycles, h1.hours, h1.nextIndex, h1.wearIndex, h1.queue, fun _ => Nat.zero_le _⟩

/-! ### StartUp -/

theorem modStart_keeps {a : State} {f : StartUp → StartUp} {s : State} (hk : Keeps a s) :
    Keeps a (modStart f s) := by
  unfold modStart
  repeat' (first
    | with_reducible assumption
    | fail_if_no_progress (with_reducible refine keeps_mk_iff.2 ?_))

theorem stopStart_keeps {a : State} {phase cause : Nat} {s : State} (hk : Keeps a s) :
    Keeps a (stopStart phase cause s) := by
  unfold stopStart
  repeat' (first
    | with_reducible assumption
    | with_reducible apply modStart_keeps
    | with_reducible apply raise_keeps)

theorem repeatErase_keeps {a : State} {x : Nat × Nat} {s : State} (hk : Keeps a s) :
    Keeps a (repeatErase x s) := by
  unfold repeatErase
  repeat' (first
    | with_reducible assumption
    | with_reducible apply modStart_keeps
    | with_reducible apply eraseFollows_keeps
    | with_reducible apply eraseDone_keeps
    | with_reducible apply eraseIntent_keeps
    | with_reducible apply raise_keeps)

theorem romFlash_keeps {a : State} {s : State} (hk : Keeps a s) :
    Keeps a (romFlash s) := by
  unfold romFlash
  repeat' (first
    | with_reducible assumption
    | with_reducible refine keeps_foldl ?_ (fun _ _ _ => ?_)
    | with_reducible apply repeatErase_keeps
    | with_reducible apply issueOp_keeps
    | with_reducible apply modNor_keeps
    | with_reducible apply raise_keeps
    | dsimp only
    | split
    | refine keeps_ev ?_ ?_
    | exact ⟨Nat.le_refl _, Nat.le_refl _, Nat.le_refl _, Nat.le_refl _, id, id⟩)

theorem eraseNow_keeps {a : State} {b : Nat} {s : State} (hk : Keeps a s) :
    Keeps a (eraseNow b s) := by
  unfold eraseNow
  repeat' (first
    | with_reducible assumption
    | with_reducible apply eraseDone_keeps
    | with_reducible apply eraseIntent_keeps)

theorem lowerLevel_keeps {a : State} {s : State} (hk : Keeps a s) :
    Keeps a (lowerLevel s) := by
  unfold lowerLevel
  dsimp only
  generalize List.map (fun x => x + 64) (List.range 128) = l1
  generalize List.map (fun x => x + 27) (List.range 20) = l2
  generalize List.map (fun x => x + 4) (List.range 5) = l3
  refine raise_keeps (resetSigner_keeps (loadOptions_keeps (advance_keeps
    (modTrust_keeps (fun _ => ⟨rfl, Nat.le_refl _, id, List.prefix_rfl⟩) ?_))))
  refine keeps_any ⟨Nat.le_refl _, Nat.le_refl _, Nat.le_refl _, Nat.le_refl _, id, id⟩ (KeepsTrust.refl _) id id id id
    (modMc_keeps (fun _ => mcCanonical_same rfl rfl) (keeps_foldl ?_ fun _ _ h => eraseNow_keeps h))
  exact modTi_keeps (fun _ _ => rfl) (fun _ h => h) (eraseCabinet_keeps (keeps_mk_iff.2 hk))

theorem bootImage_keeps {a : State} {s : State} (hk : Keeps a s) :
    Keeps a (bootImage s) := by
  unfold bootImage
  repeat' (first
    | with_reducible assumption
    | with_reducible apply keeps_ite
    | with_reducible refine keeps_foldl ?_ (fun _ _ _ => ?_)
    | with_reducible apply verifyEvent_keeps
    | with_reducible apply modMc_keeps
    | with_reducible apply raise_keeps
    | with_reducible apply advance_keeps
    | fail_if_no_progress (with_reducible refine keeps_mk_iff.2 ?_)
    | dsimp only
    | split
    | exact fun _ => mcCanonical_same rfl rfl
    | exact fun _ => mail_canonical (fun _ h => h)
    | intro _)

theorem execStartUpRomPhase_keeps {a : State} {s : State} (hk : Keeps a s) :
    KeepsNext a (execStartUpRomPhase s) := by
  unfold execStartUpRomPhase
  repeat' (first
    | with_reducible refine keepsNext_next ?_
    | with_reducible refine keepsNext_ite ?_ ?_
    | with_reducible assumption
    | with_reducible apply keeps_ite
    | with_reducible apply bootImage_keeps
    | with_reducible apply lowerLevel_keeps
    | with_reducible apply romFlash_keeps
    | with_reducible apply modStart_keeps)

theorem testSlices_keeps {a : State} {failed : BitVec 17} {s : State} (hk : Keeps a s) :
    Keeps a (testSlices failed s) := by
  unfold testSlices
  repeat' (first
    | with_reducible assumption
    | with_reducible apply keeps_ite
    | with_reducible refine keeps_foldl ?_ (fun _ _ _ => ?_)
    | with_reducible apply modTe_keeps
    | with_reducible apply noteSpare_keeps
    | with_reducible apply wearLog_keeps
    | with_reducible apply raise_keeps
    | dsimp only
    | split
    | intro _)

theorem hardRepair_keeps {a : State} {s : State} (hk : Keeps a s) :
    Keeps a (hardRepair s) := by
  unfold hardRepair
  repeat' (first
    | with_reducible assumption
    | with_reducible refine keeps_foldl ?_ (fun _ _ _ => ?_)
    | with_reducible apply modEcc_keeps
    | with_reducible apply wearLog_keeps)

theorem setPorts_keeps {a : State} {s : State} (hk : Keeps a s) :
    Keeps a (setPorts s) := by
  unfold setPorts
  repeat' (first
    | with_reducible assumption
    | with_reducible apply keeps_ite
    | with_reducible apply writeOption_keeps
    | with_reducible apply raise_keeps
    | fail_if_no_progress (with_reducible refine keeps_mk_iff.2 ?_)
    | dsimp only
    | split
    | intro _)

theorem setPartitions_keeps {a : State} {s : State} (hk : Keeps a s) :
    Keeps a (setPartitions s) := keeps_any (KeepsEv.refl _) (KeepsTrust.refl _) id id id id hk

theorem loadSets_keeps {a : State} {bad : List Nat} {s : State} (hk : Keeps a s) :
    Keeps a (loadSets bad s) := by
  unfold loadSets
  repeat' (first
    | with_reducible exact keepsSome_none
    | with_reducible refine keepsSome_some ?_
    | with_reducible refine keepsSome_ite ?_ ?_
    | with_reducible refine keepsSome_map (fun _ _ => ?_)
    | with_reducible refine keepsSome_bind (fun _ _ => ?_)
    | with_reducible refine keepsSome_foldlM ?_ (fun _ _ _ => ?_)
    | with_reducible refine keepsSome_getD ?_ ?_
    | with_reducible assumption
    | with_reducible apply keeps_ite
    | with_reducible refine keeps_foldl ?_ (fun _ _ _ => ?_)
    | with_reducible apply raise_keeps
    | fail_if_no_progress (with_reducible refine keeps_mk_iff.2 ?_)
    | dsimp only
    | split
    | intro _)

theorem execStartUpFirmwarePhase_keeps {a : State} {stack0 stack1 chestTemp : Int} {failedSlices : BitVec 17} {badSets : List Nat} {s : State} (hk : Keeps a s) :
    KeepsNext a (execStartUpFirmwarePhase stack0 stack1 chestTemp failedSlices badSets s) := by
  unfold execStartUpFirmwarePhase
  repeat' (first
    | with_reducible refine keepsNext_next ?_
    | with_reducible exact keepsNext_fault
    | with_reducible refine keepsNext_ite ?_ ?_
    | with_reducible assumption
    | with_reducible apply keeps_ite
    | with_reducible refine keeps_foldl ?_ (fun _ _ _ => ?_)
    | with_reducible apply loadSets_keeps
    | with_reducible apply setPartitions_keeps
    | with_reducible apply setPorts_keeps
    | with_reducible apply hardRepair_keeps
    | with_reducible apply testSlices_keeps
    | with_reducible apply stopStart_keeps
    | with_reducible apply modStart_keeps
    | with_reducible apply releasePads_keeps
    | with_reducible apply stackReading_keeps
    | with_reducible apply modTi_keeps
    | with_reducible apply raise_keeps
    | with_reducible apply advance_keeps
    | fail_if_no_progress (with_reducible refine keeps_mk_iff.2 ?_)
    | dsimp only
    | split
    | exact fun _ h => h
    | intro _)

theorem execStartUpJournalPhase_keeps {a : State} {beats : Nat} {s : State} (hk : Keeps a s) :
    KeepsNext a (execStartUpJournalPhase beats s) := by
  unfold execStartUpJournalPhase
  repeat' (first
    | with_reducible refine keepsNext_next ?_
    | with_reducible refine keepsNext_ite ?_ ?_
    | with_reducible assumption
    | with_reducible apply keeps_ite
    | with_reducible refine keeps_foldl ?_ (fun _ _ _ => ?_)
    | with_reducible apply stopStart_keeps
    | with_reducible apply modStart_keeps
    | with_reducible apply modSeq_keeps
    | with_reducible apply modCxl_keeps
    | with_reducible apply modPu_keeps
    | with_reducible apply raise_keeps
    | dsimp only
    | split
    | intro _)

theorem enterLine_keeps {a : State} {seq index : Nat} {l : RecLine} {s : State} (hk : Keeps a s) :
    Keeps a (enterLine seq index l s) := by
  unfold enterLine
  repeat' (first
    | with_reducible assumption
    | with_reducible apply modPu_keeps)

theorem dropChunk_keeps {a : State} {lcn d : Nat} {s : State} (hk : Keeps a s) :
    Keeps a (dropChunk lcn d s) := by
  unfold dropChunk
  repeat' (first
    | with_reducible assumption
    | with_reducible apply modPu_keeps)

theorem enterRec_keeps {a : State} {r : JRec} {s : State} (hk : Keeps a s) :
    Keeps a (enterRec r s) := by
  unfold enterRec
  repeat' (first
    | with_reducible assumption
    | with_reducible apply keeps_ite
    | with_reducible refine keeps_foldl ?_ (fun _ _ _ => ?_)
    | with_reducible apply dropChunk_keeps
    | with_reducible apply enterLine_keeps
    | with_reducible apply modPu_keeps
    | split)

theorem applyRec_keeps {a : State} {r : JRec} {s : State} (hk : Keeps a s) :
    Keeps a (applyRec r s) := by
  unfold applyRec
  repeat' (first
    | with_reducible assumption
    | with_reducible refine keeps_foldl ?_ (fun _ _ _ => ?_)
    | with_reducible apply applyItem_keeps
    | with_reducible apply modTi_keeps
    | dsimp only
    | split
    | exact fun _ h => h)

theorem zeroVolatile_keeps {a : State} {s : State} (hk : Keeps a s) :
    Keeps a (zeroVolatile s) := by
  unfold zeroVolatile
  repeat' (first
    | with_reducible assumption
    | with_reducible apply modTi_keeps
    | dsimp only
    | exact fun _ h => h)

theorem awaitOnline_keeps {a : State} {s : State} (hk : Keeps a s) :
    Keeps a (awaitOnline s) := by
  unfold awaitOnline
  repeat' (first
    | with_reducible assumption
    | with_reducible apply modReg_keeps)

theorem loadMap_keeps {a : State} {base : AMap MapEntry} {s : State} (hk : Keeps a s) :
    Keeps a (loadMap base s) := by
  unfold loadMap
  repeat' (first
    | with_reducible assumption
    | with_reducible refine keeps_foldl ?_ (fun _ _ _ => ?_)
    | with_reducible apply awaitOnline_keeps
    | with_reducible apply zeroVolatile_keeps
    | with_reducible apply applyRec_keeps
    | with_reducible apply enterRec_keeps
    | with_reducible apply applyItem_keeps
    | with_reducible apply modPair_keeps
    | with_reducible apply modTrust_keeps
    | with_reducible apply modReg_keeps
    | with_reducible apply modTi_keeps
    | with_reducible apply modPu_keeps
    | dsimp only
    | exact fun _ h => h
    | exact fun _ => ⟨rfl, Nat.le_refl _, id, List.prefix_rfl⟩)

theorem resumeSanitize_keeps {a : State} {s : State} (hk : Keeps a s) :
    Keeps a (resumeSanitize s) := by
  unfold resumeSanitize
  repeat' (first
    | with_reducible assumption
    | with_reducible apply keeps_ite
    | with_reducible apply modTrust_keeps
    | with_reducible apply raise_keeps
    | exact fun _ => ⟨rfl, Nat.le_refl _, id, List.prefix_rfl⟩
    | intro _)

theorem execStartUpMapPhase_keeps {a : State} {geometryOk readable : Bool} {beats : Nat} {s : State} (hk : Keeps a s) :
    KeepsNext a (execStartUpMapPhase geometryOk readable beats s) := by
  unfold execStartUpMapPhase
  repeat' (first
    | with_reducible refine keepsNext_next ?_
    | with_reducible refine keepsNext_ite ?_ ?_
    | with_reducible assumption
    | with_reducible apply keeps_ite
    | with_reducible apply resumeSanitize_keeps
    | with_reducible apply loadMap_keeps
    | with_reducible apply stopStart_keeps
    | with_reducible apply modStart_keeps
    | with_reducible apply releasePads_keeps
    | with_reducible apply raise_keeps
    | intro _)

theorem badKey_keeps {a : State} {slot : Nat} {s : State} (hk : Keeps a s) :
    Keeps a (badKey slot s) := by
  unfold badKey
  repeat' (first
    | with_reducible assumption
    | with_reducible apply modTrust_keeps
    | with_reducible apply raise_keeps
    | with_reducible apply advance_keeps
    | dsimp only
    | split
    | exact fun _ => ⟨rfl, Nat.le_refl _, id, List.prefix_rfl⟩)

theorem unwrapKeys_keeps {a : State} {badSlots : List Nat} {s : State} (hk : Keeps a s) :
    Keeps a (unwrapKeys badSlots s) := by
  unfold unwrapKeys
  repeat' (first
    | with_reducible assumption
    | with_reducible refine keeps_foldl ?_ (fun _ _ _ => ?_)
    | with_reducible apply badKey_keeps
    | with_reducible apply takeKeySlot_keeps)

theorem bringOnline_keeps {a : State} {r : Nat} {d : Region} {s : State} (hk : Keeps a s) :
    Keeps a (bringOnline r d s) := by
  unfold bringOnline
  repeat' (first
    | with_reducible assumption
    | with_reducible apply keeps_ite
    | with_reducible apply takeOnline_keeps
    | with_reducible apply modPair_keeps
    | split
    | intro _)

theorem execStartUpRegionsPhase_keeps {a : State} {badSlots : List Nat} {s : State} (hk : Keeps a s) :
    KeepsNext a (execStartUpRegionsPhase badSlots s) := by
  unfold execStartUpRegionsPhase
  repeat' (first
    | with_reducible refine keepsNext_next ?_
    | with_reducible refine keepsNext_ite ?_ ?_
    | with_reducible assumption
    | with_reducible refine keeps_foldl ?_ (fun _ _ _ => ?_)
    | with_reducible apply bringOnline_keeps
    | with_reducible apply unwrapKeys_keeps
    | with_reducible apply modStart_keeps
    | with_reducible apply restoreAttachments_keeps)

theorem execStartUpLinksPhase_keeps {a : State} {milliseconds : Nat} {s : State} (hk : Keeps a s) :
    KeepsNext a (execStartUpLinksPhase milliseconds s) := by
  unfold execStartUpLinksPhase
  repeat' (first
    | with_reducible refine keepsNext_next ?_
    | with_reducible refine keepsNext_ite ?_ ?_
    | with_reducible assumption
    | with_reducible apply modStart_keeps
    | with_reducible apply raise_keeps
    | with_reducible apply emit_keeps)

theorem execWarmUpEnd_keeps {a : State} {chestTemp : Int} {milliseconds : Nat} {s : State} (hk : Keeps a s) :
    KeepsNext a (execWarmUpEnd chestTemp milliseconds s) := by
  unfold execWarmUpEnd
  repeat' (first
    | with_reducible refine keepsNext_next ?_
    | with_reducible refine keepsNext_ite ?_ ?_
    | with_reducible assumption
    | with_reducible apply modStart_keeps
    | with_reducible apply raise_keeps)

theorem execWarmUpTimeout_keeps {a : State} {s : State} (hk : Keeps a s) :
    KeepsNext a (execWarmUpTimeout s) := by
  unfold execWarmUpTimeout
  repeat' (first
    | with_reducible refine keepsNext_next ?_
    | with_reducible refine keepsNext_ite ?_ ?_
    | with_reducible assumption
    | with_reducible apply stopStart_keeps)

/-! ### Executor -/

theorem outState_keeps {a : State} {o : Host.Outcome State Fault Refusal} {s : State} (ho : KeepsNext a o) (hk : Keeps a s) :
    Keeps a (outState o s) := by
  unfold outState
  split
  · exact ho _ rfl
  · exact hk

theorem standardTable_keeps {a s : State} {path : BcsPath} {input : Bytes} (hk : Keeps a s) :
    ∀ e ∈ standardTable, KeepsNext a (e.2 path input s) := by
  unfold standardTable
  repeat' rw [List.forall_mem_cons]
  exact ⟨execIdentify_keeps hk,
    execBackgroundOperationStatus_keeps hk,
    execGetEventRecords_keeps hk,
    execClearEventRecords_keeps hk,
    execGetEventInterruptPolicy_keeps hk,
    execSetEventInterruptPolicy_keeps hk,
    execGetFwInfo_keeps hk,
    execTransferFw_keeps hk,
    execActivateFw_keeps hk,
    execGetTimestamp_keeps hk,
    execSetTimestamp_keeps hk,
    execGetSupportedLogs_keeps hk,
    execGetLog_keeps hk,
    execIdentifyMemoryDevice_keeps hk,
    execGetPartitionInfo_keeps hk,
    execSetPartitionInfo_keeps hk,
    execGetLsa_keeps hk,
    execSetLsa_keeps hk,
    execGetHealthInfo_keeps hk,
    execGetAlertConfiguration_keeps hk,
    execSetAlertConfiguration_keeps hk,
    execGetShutdownState_keeps hk,
    execSetShutdownState_keeps hk,
    execGetPoisonList_keeps hk,
    execInjectPoison_keeps hk,
    execClearPoison_keeps hk,
    execGetScanMediaCapabilities_keeps hk,
    execScanMedia_keeps hk,
    execGetScanMediaResults_keeps hk,
    execCxlSanitize_keeps hk,
    execSecureErase_keeps hk,
    execGetDynamicCapacityConfiguration_keeps hk,
    execGetDynamicCapacityExtentList_keeps hk,
    execGetLdInfo_keeps hk,
    execGetLdAllocations_keeps hk,
    execSetLdAllocations_keeps hk,
    fun _ h => absurd h List.not_mem_nil⟩

theorem vendorTable1_keeps {a s : State} {path : BcsPath} {input : Bytes} (hk : Keeps a s) :
    ∀ e ∈ vendorTable1, KeepsNext a (e.2 path input s) := by
  unfold vendorTable1
  repeat' rw [List.forall_mem_cons]
  exact ⟨execFormPair_keeps hk,
    execArmPairJoin_keeps hk,
    execDissolvePair_keeps hk,
    execGetPairStatus_keeps hk,
    execMoveSeat_keeps hk,
    execMoveChair_keeps hk,
    execAdmitReplacement_keeps hk,
    execSetStandbyChecks_keeps hk,
    execGetPairHealth_keeps hk,
    execForceSeat_keeps hk,
    execSetWitnessPath_keeps hk,
    execCreateRegion_keeps hk,
    execDeleteRegion_keeps hk,
    execResizeRegion_keeps hk,
    execGetRegion_keeps hk,
    execListRegions_keeps hk,
    execSetRegionAttributes_keeps hk,
    execAttachExtent_keeps hk,
    execDetachExtent_keeps hk,
    execGrantMemoryKey_keeps hk,
    execRevokeMemoryKey_keeps hk,
    execGetCapacity_keeps hk,
    execGetUnitPower_keeps hk,
    execSetUnitPower_keeps hk,
    execGetParameter_keeps hk,
    execSetParameter_keeps hk,
    execListParameters_keeps hk,
    execEnterDeviceStandby_keeps hk,
    fun _ h => absurd h List.not_mem_nil⟩

theorem vendorTable2_keeps {a s : State} {path : BcsPath} {input : Bytes} (hk : Keeps a s) :
    ∀ e ∈ vendorTable2, KeepsNext a (e.2 path input s) := by
  unfold vendorTable2
  repeat' rw [List.forall_mem_cons]
  exact ⟨execReadEvents_keeps hk,
    execGetRecorderStatus_keeps hk,
    execIdentifyController_keeps hk,
    execGetIdentityKey_keeps hk,
    execGetAttestationReport_keeps hk,
    execGetProtectionLevel_keeps hk,
    execSetProtectionLevel_keeps hk,
    execSanitize_keeps hk,
    execCaptureControl_keeps hk,
    execReplayControl_keeps hk,
    execGetSparesInventory_keeps hk,
    execGetEraseCounts_keeps hk,
    execGetStripeState_keeps hk,
    execReadWearLog_keeps hk,
    execStartScrub_keeps hk,
    execGetScrubSummary_keeps hk,
    execGetSequencerStatus_keeps hk,
    execClearLockout_keeps hk,
    execPowerDown_keeps hk,
    execGetSlotTable_keeps hk,
    execSetSlotTable_keeps hk,
    execActivateSlotTable_keeps hk,
    execBindTransformStream_keeps hk,
    execCreateQp_keeps hk,
    execModifyQp_keeps hk,
    execQueryQp_keeps hk,
    execDestroyQp_keeps hk,
    execSetGid_keeps hk,
    execGetPortStatus_keeps hk,
    execTriggerCounter_keeps hk,
    execCreateQueuePair_keeps hk,
    execDeleteQueuePair_keeps hk,
    execQueryQueuePair_keeps hk,
    fun _ h => absurd h List.not_mem_nil⟩

theorem bcsMeaning_keeps {a s : State} {path : BcsPath} {input : Bytes} {e : Nat × BcsMeaning} {p : Nat × BcsMeaning → Bool}
    (hk : Keeps a s) (he : (standardTable ++ vendorTable1 ++ vendorTable2).find? p = some e) : KeepsNext a (e.2 path input s) := by
  have hm := List.mem_of_find?_eq_some he
  rw [List.mem_append, List.mem_append] at hm
  rcases hm with (h | h) | h
  · exact standardTable_keeps hk e h
  · exact vendorTable1_keeps hk e h
  · exact vendorTable2_keeps hk e h

theorem runBcs_keeps {a : State} {path : BcsPath} {opcode : Nat} {input : Bytes} {s : State} (hk : Keeps a s) :
    Keeps a (runBcs path opcode input s) := by
  unfold runBcs
  split
  · rename_i e
    exact outState_keeps (bcsMeaning_keeps hk e) hk
  · exact keeps_ite (unsupported_keeps hk) fun _ => outState_keeps (execDcdManagementCommand_keeps hk) hk

theorem runHeld_keeps {a : State} {s : State} (hk : Keeps a s) :
    Keeps a (runHeld s) := by
  unfold runHeld
  repeat' (first
    | with_reducible assumption
    | with_reducible apply keeps_ite
    | with_reducible refine keeps_foldl ?_ (fun _ _ _ => ?_)
    | with_reducible apply runBcs_keeps
    | with_reducible apply modPair_keeps
    | dsimp only
    | intro _)

theorem execComplexRestartComplete_keeps {a : State} {s : State} (hk : Keeps a s) :
    KeepsNext a (execComplexRestartComplete s) := by
  unfold execComplexRestartComplete
  repeat' (first
    | with_reducible refine keepsNext_next ?_
    | with_reducible assumption
    | with_reducible apply keeps_ite
    | with_reducible refine keeps_foldl ?_ (fun _ _ _ => ?_)
    | with_reducible apply runBcs_keeps
    | with_reducible apply restarted_keeps
    | with_reducible apply modPair_keeps
    | dsimp only
    | intro _)

theorem execFwdBcs_keeps {a : State} {mtag opcode : Nat} {privileged : Bool} {input : Bytes} {s : State} (hk : Keeps a s) :
    KeepsNext a (execFwdBcs mtag opcode privileged input s) := by
  unfold execFwdBcs
  repeat' (first
    | with_reducible refine keepsNext_next ?_
    | with_reducible assumption
    | with_reducible apply keeps_ite
    | with_reducible apply runBcs_keeps)

theorem execBcsTunnel_keeps {a : State} {cid : Nat} {input : Bytes} {s : State} (hk : Keeps a s) :
    KeepsNext a (execBcsTunnel cid input s) := by
  unfold execBcsTunnel
  repeat' (first
    | with_reducible refine keepsNext_next ?_
    | with_reducible assumption
    | with_reducible apply runBcs_keeps
    | with_reducible apply runCmd_keeps
    | with_reducible apply refuseCmd_keeps
    | with_reducible apply withCmd_keeps
    | dsimp only
    | split
    | intro _)

theorem execHeartbeatEcho_keeps {a : State} {h : Nat} {s : State} (hk : Keeps a s) :
    KeepsNext a (execHeartbeatEcho h s) := by
  unfold execHeartbeatEcho
  repeat' (first
    | with_reducible refine keepsNext_next ?_
    | with_reducible refine keepsNext_ite ?_ ?_
    | with_reducible assumption
    | with_reducible apply keeps_ite
    | with_reducible apply runHeld_keeps
    | with_reducible apply releaseHeld_keeps
    | with_reducible apply modPair_keeps
    | intro _)

theorem execTaken_keeps {a : State} {chairEpoch : Nat} {s : State} (hk : Keeps a s) :
    KeepsNext a (execTaken chairEpoch s) := by
  unfold execTaken
  repeat' (first
    | with_reducible refine keepsNext_next ?_
    | with_reducible assumption
    | with_reducible apply keeps_ite
    | with_reducible apply yieldAll_keeps)

theorem clearChest_keeps {a : State} {r : Nat} {s : State} (hk : Keeps a s) :
    Keeps a (clearChest r s) := by
  unfold clearChest
  repeat' (first
    | with_reducible assumption
    | with_reducible apply keeps_ite
    | with_reducible apply setReason_keeps
    | split)

theorem execSeatMoveComplete_keeps {a : State} {region : Nat} {s : State} (hk : Keeps a s) :
    KeepsNext a (execSeatMoveComplete region s) := by
  unfold execSeatMoveComplete
  repeat' (first
    | with_reducible refine keepsNext_next ?_
    | with_reducible refine keepsNext_ite ?_ ?_
    | with_reducible assumption
    | with_reducible apply keeps_ite
    | with_reducible apply clearChest_keeps
    | with_reducible apply nextMove_keeps
    | with_reducible apply forwardHeldBcs_keeps
    | with_reducible apply releaseHeld_keeps
    | with_reducible apply modPair_keeps
    | with_reducible apply success_keeps
    | with_reducible apply raise_keeps
    | dsimp only
    | split
    | intro _)

theorem execSwitchOverComplete_keeps {a : State} {s : State} (hk : Keeps a s) :
    KeepsNext a (execSwitchOverComplete s) := by
  unfold execSwitchOverComplete
  repeat' (first
    | with_reducible refine keepsNext_next ?_
    | with_reducible refine keepsNext_ite ?_ ?_
    | with_reducible assumption
    | with_reducible apply keeps_ite
    | with_reducible refine keeps_foldl ?_ (fun _ _ _ => ?_)
    | with_reducible apply runHeld_keeps
    | with_reducible apply takeOffline_keeps
    | with_reducible apply releaseHeld_keeps
    | with_reducible apply noteUnavailable_keeps
    | with_reducible apply modPair_keeps
    | with_reducible apply raise_keeps
    | dsimp only
    | split
    | intro _)

theorem execSwitchOverBound_keeps {a : State} {s : State} (hk : Keeps a s) :
    KeepsNext a (execSwitchOverBound s) := by
  unfold execSwitchOverBound
  repeat' (first
    | with_reducible refine keepsNext_next ?_
    | with_reducible refine keepsNext_ite ?_ ?_
    | with_reducible assumption
    | with_reducible refine keeps_foldl ?_ (fun _ _ _ => ?_)
    | with_reducible apply modPair_keeps
    | with_reducible apply answer_keeps)

theorem execJtagInstruction_keeps {a : State} {instruction : Nat} {s : State} (hk : Keeps a s) :
    KeepsNext a (execJtagInstruction instruction s) := by
  unfold execJtagInstruction
  repeat' (first
    | with_reducible refine keepsNext_next ?_
    | with_reducible assumption
    | with_reducible apply modTrust_keeps
    | split
    | exact fun _ => ⟨rfl, Nat.le_refl _, id, List.prefix_rfl⟩)

/-! ### Registers -/

theorem readLatch_keeps {a : State} {off : Nat} {s : State} (hk : Keeps a s) :
    Keeps a (readLatch off s) := by
  unfold readLatch
  repeat' (first
    | with_reducible assumption
    | with_reducible apply latchNewest_keeps
    | with_reducible apply latchUeLog_keeps
    | with_reducible apply latchNonce_keeps
    | with_reducible apply latchTod_keeps
    | with_reducible apply latchBeat_keeps
    | split)

theorem readReg_keeps {a : State} {src : MmioSrc} {off : Nat} {s : State} (hk : Keeps a s) :
    Keeps a (readReg src off s).2 := by
  unfold readReg
  repeat' (first
    | with_reducible assumption
    | with_reducible apply readLatch_keeps
    | with_reducible apply advance_keeps
    | split)

theorem writeTbCtrl_keeps {a : State} {v : Word} {s : State} (hk : Keeps a s) :
    Keeps a (writeTbCtrl v s) := by
  unfold writeTbCtrl
  repeat' (first
    | with_reducible assumption
    | with_reducible apply keeps_ite
    | with_reducible apply enterMode_keeps
    | with_reducible apply holdPps_keeps
    | with_reducible apply modTb_keeps)

theorem dcbWrite_keeps {a : State} {o : Nat} {v : Word} {s : State} (hk : Keeps a s) :
    Keeps a (dcbWrite o v s) := by
  unfold dcbWrite
  repeat' (first
    | with_reducible assumption
    | with_reducible apply keeps_ite
    | with_reducible apply writeTbCtrl_keeps
    | with_reducible apply modHead_keeps
    | with_reducible apply modTb_keeps
    | with_reducible apply modTe_keeps
    | fail_if_no_progress (with_reducible refine keeps_mk_iff.2 ?_)
    | dsimp only
    | split
    | intro _)

theorem evtWrite_keeps {a : State} {head o : Nat} {v : Word} {s : State} (hk : Keeps a s) :
    Keeps a (evtWrite head o v s) := by
  unfold evtWrite
  repeat' (first
    | with_reducible assumption
    | dsimp only
    | split
    | refine keeps_ev ?_ ?_
    | exact ⟨Nat.le_refl _, Nat.le_refl _, Nat.le_refl _, Nat.le_refl _, id, id⟩)

theorem pwrWrite_keeps {a : State} {o : Nat} {v : Word} {s : State} (hk : Keeps a s) :
    Keeps a (pwrWrite o v s) := by
  unfold pwrWrite
  repeat' (first
    | with_reducible assumption
    | with_reducible apply releasePads_keeps
    | with_reducible apply modPwr_keeps
    | split)

theorem seqWrite_keeps {a : State} {o : Nat} {v : Word} {s : State} (hk : Keeps a s) :
    Keeps a (seqWrite o v s) := by
  unfold seqWrite
  repeat' (first
    | with_reducible assumption
    | with_reducible apply keeps_ite
    | with_reducible apply modSeq_keeps)

theorem sbiWrite_keeps {a : State} {o : Nat} {v : Word} {s : State} (hk : Keeps a s) :
    Keeps a (sbiWrite o v s) := by
  unfold sbiWrite
  repeat' (first
    | with_reducible assumption
    | with_reducible apply keeps_ite
    | with_reducible apply modMc_keeps
    | exact fun _ => mcCanonical_same rfl rfl)

theorem modAq_keeps {a : State} {f : AdminRegs → AdminRegs} {s : State} (hk : Keeps a s) :
    Keeps a (modAq f s) := by
  unfold modAq
  repeat' (first
    | with_reducible assumption
    | with_reducible apply modQ_keeps
    | with_reducible apply modGqp_keeps)

theorem writeDepth_keeps {a : State} {v : Word} {s : State} (hk : Keeps a s) :
    Keeps a (writeDepth v s) := by
  unfold writeDepth
  repeat' (first
    | with_reducible assumption
    | with_reducible apply keeps_ite
    | with_reducible apply modAq_keeps
    | with_reducible apply badWrite_keeps)

theorem aqWrite_keeps {a : State} {head o : Nat} {v : Word} {s : State} (hk : Keeps a s) :
    Keeps a (aqWrite head o v s) := by
  unfold aqWrite
  repeat' (first
    | with_reducible assumption
    | with_reducible apply keeps_ite
    | with_reducible apply writeDepth_keeps
    | with_reducible apply modAq_keeps
    | with_reducible apply aqDisable_keeps
    | with_reducible apply aqEnable_keeps
    | with_reducible apply badWrite_keeps
    | split
    | intro _)

theorem gqpWrite_keeps {a : State} {head o : Nat} {v : Word} {s : State} (hk : Keeps a s) :
    Keeps a (gqpWrite head o v s) := by
  unfold gqpWrite
  repeat' (first
    | with_reducible assumption
    | with_reducible apply keeps_ite
    | with_reducible apply aqWrite_keeps
    | with_reducible apply cqHead_keeps
    | with_reducible apply sqTail_keeps
    | split
    | intro _)

theorem modMail_keeps {a : State} {k : Nat} {f : Mailbox → Mailbox} {s : State} (hf : ∀ x : Mailbox, Memory.wf x.payload = true → Memory.wf (f x).payload = true) (hk : Keeps a s) :
    Keeps a (modMail k f s) := modMc_keeps (fun _ => mail_canonical hf) hk

theorem writeMbxCtrl_keeps {a : State} {src : MmioSrc} {v : Word} {s : State} (hk : Keeps a s) :
    Keeps a (writeMbxCtrl src v s) := by
  unfold writeMbxCtrl
  repeat' (first
    | with_reducible assumption
    | with_reducible apply keeps_ite
    | with_reducible apply modMail_keeps
    | with_reducible apply runBcs_keeps
    | dsimp only
    | intro _)

theorem mbxWrite_keeps {a : State} {src : MmioSrc} {o : Nat} {v : Word} {s : State} (hk : Keeps a s) :
    Keeps a (mbxWrite src o v s) := by
  unfold mbxWrite
  dsimp only
  refine keeps_ite (keeps_ite hk fun _ => keeps_ite (modMail_keeps (fun x h => ?_) hk) fun _ => badWrite_keeps hk) fun _ => writeMbxCtrl_keeps hk
  split
  · exact h
  · split
    · exact h
    · exact memWriteN_wf _ _ h

theorem writeFields_keeps {a : State} {src : MmioSrc} {off : Nat} {v : Word} {s : State} (hk : Keeps a s) :
    Keeps a (writeFields src off v s) := by
  unfold writeFields
  repeat' (first
    | with_reducible assumption
    | with_reducible apply keeps_ite
    | with_reducible apply mbxWrite_keeps
    | with_reducible apply gqpWrite_keeps
    | with_reducible apply sbiWrite_keeps
    | with_reducible apply seqWrite_keeps
    | with_reducible apply pwrWrite_keeps
    | with_reducible apply evtWrite_keeps
    | with_reducible apply dcbWrite_keeps
    | split
    | intro _)

theorem writeReg_keeps {a : State} {src : MmioSrc} {off : Nat} {v : Word} {s : State} (hk : Keeps a s) :
    Keeps a (writeReg src off v s) := by
  unfold writeReg
  repeat' (first
    | with_reducible assumption
    | with_reducible apply keeps_ite
    | with_reducible apply writeFields_keeps
    | with_reducible apply badWrite_keeps
    | split
    | intro _)

theorem execMmioRegisterWrite_keeps {a : State} {src : MmioSrc} {offset : Nat} {value : Word} {s : State} (hk : Keeps a s) :
    KeepsNext a (execMmioRegisterWrite src offset value s) := by
  unfold execMmioRegisterWrite
  repeat' (first
    | with_reducible refine keepsNext_next ?_
    | with_reducible exact keepsNext_fault
    | with_reducible refine keepsNext_ite ?_ ?_
    | with_reducible assumption
    | with_reducible apply writeReg_keeps)

/-! ### Sideband -/

theorem modProxy_keeps {a : State} {f : Proxy → Proxy} {s : State} (hf : ∀ x : Proxy, Memory.wf x.input = true → Memory.wf (f x).input = true) (hk : Keeps a s) :
    Keeps a (modProxy f s) := by
  refine modMc_keeps (fun m h => ?_) hk
  simp only [mcCanonical, Bool.and_eq_true] at h ⊢
  exact ⟨h.1, hf _ h.2⟩

theorem transaction_keeps {a : State} {nack pecOk : Bool} {body : State → State} {s : State} (hbody : ∀ s, Keeps a s → Keeps a (body s)) (hk : Keeps a s) :
    Keeps a (transaction nack pecOk body s) := by
  unfold transaction
  repeat' (first
    | with_reducible assumption
    | with_reducible apply keeps_ite
    | with_reducible apply nackCode_keeps
    | with_reducible apply modMc_keeps
    | with_reducible apply hbody
    | split
    | exact fun _ => mcCanonical_same rfl rfl
    | intro _)

theorem execRegisterWrite_keeps {a : State} {address : Nat} {value : Word} {pecOk : Bool} {s : State} (hk : Keeps a s) :
    KeepsNext a (execRegisterWrite address value pecOk s) := by
  unfold execRegisterWrite
  repeat' (first
    | with_reducible refine keepsNext_next ?_
    | with_reducible exact keepsNext_fault
    | with_reducible refine keepsNext_ite ?_ ?_
    | with_reducible assumption
    | with_reducible apply transaction_keeps
    | with_reducible apply writeReg_keeps)

theorem execRegisterRead_keeps {a : State} {address : Nat} {pecOk : Bool} {s : State} (hk : Keeps a s) :
    KeepsNext a (execRegisterRead address pecOk s) := by
  unfold execRegisterRead
  repeat' (first
    | with_reducible refine keepsNext_next ?_
    | with_reducible exact keepsNext_fault
    | with_reducible refine keepsNext_ite ?_ ?_
    | with_reducible assumption
    | with_reducible apply transaction_keeps
    | with_reducible apply readReg_keeps
    | with_reducible apply emit_keeps
    | dsimp only
    | intro _)

theorem execBcsLoad_keeps {a : State} {offset : Nat} {data : Bytes} {pecOk : Bool} {s : State} (hk : Keeps a s) :
    KeepsNext a (execBcsLoad offset data pecOk s) := by
  unfold execBcsLoad
  exact keepsNext_next (transaction_keeps (fun _ h => keeps_ite (modProxy_keeps (fun _ g => memWriteN_wf _ _ g) h) fun _ => h) hk)

theorem execBcsExecute_keeps {a : State} {opcode length : Nat} {pecOk : Bool} {s : State} (hk : Keeps a s) :
    KeepsNext a (execBcsExecute opcode length pecOk s) := by
  unfold execBcsExecute
  repeat' (first
    | with_reducible refine keepsNext_next ?_
    | with_reducible assumption
    | with_reducible apply transaction_keeps
    | with_reducible apply modProxy_keeps
    | with_reducible apply runBcs_keeps
    | dsimp only
    | intro _)

theorem execBcsStatus_keeps {a : State} {pecOk : Bool} {s : State} (hk : Keeps a s) :
    KeepsNext a (execBcsStatus pecOk s) := by
  unfold execBcsStatus
  repeat' (first
    | with_reducible refine keepsNext_next ?_
    | with_reducible assumption
    | with_reducible apply transaction_keeps
    | with_reducible apply emit_keeps
    | intro _)

theorem execBcsFetch_keeps {a : State} {offset : Nat} {pecOk : Bool} {s : State} (hk : Keeps a s) :
    KeepsNext a (execBcsFetch offset pecOk s) := by
  unfold execBcsFetch
  repeat' (first
    | with_reducible refine keepsNext_next ?_
    | with_reducible assumption
    | with_reducible apply transaction_keeps
    | with_reducible apply emit_keeps
    | intro _)

theorem execSmbusTimeout_keeps {a : State} {s : State} (hk : Keeps a s) :
    KeepsNext a (execSmbusTimeout s) := by
  unfold execSmbusTimeout
  repeat' (first
    | with_reducible refine keepsNext_next ?_
    | with_reducible assumption
    | with_reducible apply modMc_keeps
    | exact fun _ => mcCanonical_same rfl rfl)

/-! ### Boundary -/

theorem eventInterrupt_keeps {a : State} {s : State} (hk : Keeps a s) :
    Keeps a (eventInterrupt s) := by
  unfold eventInterrupt
  repeat' (first
    | with_reducible assumption
    | with_reducible refine keeps_foldl ?_ (fun _ _ _ => ?_)
    | with_reducible apply emit_keeps
    | dsimp only
    | refine keeps_ev ?_ ?_
    | exact ⟨Nat.le_refl _, Nat.le_refl _, Nat.le_refl _, Nat.le_refl _, id, id⟩)

theorem rejectStarted_keeps {a : State} {s : State} (hk : Keeps a s) :
    Keeps a (rejectStarted s) := by
  unfold rejectStarted
  repeat' (first
    | with_reducible assumption
    | with_reducible refine keeps_foldl ?_ (fun _ _ _ => ?_)
    | with_reducible apply refuseCmd_keeps
    | split)

theorem countSlotWait_keeps {a : State} {s : State} (hk : Keeps a s) :
    Keeps a (countSlotWait s) := by
  unfold countSlotWait
  repeat' (first
    | with_reducible assumption
    | with_reducible apply modTi_keeps
    | dsimp only
    | split
    | exact fun _ h => h)

theorem dropMoved_keeps {a : State} {s : State} (hk : Keeps a s) :
    Keeps a (dropMoved s) := by
  unfold dropMoved
  repeat' (first
    | with_reducible assumption
    | with_reducible apply keeps_ite
    | with_reducible apply modCxl_keeps
    | dsimp only
    | split)

theorem endBeat_keeps {a : State} {s : State} (hk : Keeps a s) :
    Keeps a (endBeat s) := by
  unfold endBeat
  repeat' (first
    | with_reducible assumption
    | with_reducible refine keeps_foldl ?_ (fun _ _ _ => ?_)
    | with_reducible apply eventInterrupt_keeps
    | with_reducible apply sendBatch_keeps
    | with_reducible apply sealNoticed_keeps
    | with_reducible apply raiseCredit_keeps
    | with_reducible apply mpAckSend_keeps
    | with_reducible apply triggerAppend_keeps
    | with_reducible apply settleBacklog_keeps
    | with_reducible apply drainWindow_keeps
    | with_reducible apply ringBoundary_keeps
    | with_reducible apply sealGroup_keeps
    | with_reducible apply modPu_keeps)

theorem countBeat_keeps {a : State} {s : State} (hk : Keeps a s) :
    Keeps a (countBeat s) := by
  unfold countBeat
  repeat' (first
    | with_reducible assumption
    | with_reducible apply countSlotWait_keeps
    | with_reducible apply unitsBeat_keeps
    | with_reducible apply standbyBeat_keeps
    | with_reducible apply sanitizeBeat_keeps
    | with_reducible apply settleAttachments_keeps
    | with_reducible apply purgeAttachments_keeps
    | with_reducible apply noteDevLoad_keeps
    | with_reducible apply countBacklog_keeps
    | with_reducible apply countLimit_keeps
    | with_reducible apply countWait_keeps)

theorem newBeat_keeps {a : State} {s : State} (hk : Keeps a s) :
    Keeps a (newBeat s) := by
  unfold newBeat
  repeat' (first
    | with_reducible assumption
    | with_reducible apply keeps_ite
    | with_reducible refine keeps_foldl ?_ (fun _ _ _ => ?_)
    | with_reducible apply countBeat_keeps
    | with_reducible apply dropMoved_keeps
    | with_reducible apply rejectStarted_keeps
    | with_reducible apply paramsAtBoundary_keeps
    | with_reducible apply heartbeatSend_keeps
    | with_reducible apply resyncBeat_keeps
    | with_reducible apply askPartner_keeps
    | with_reducible apply settleMove_keeps
    | with_reducible apply sendDone_keeps
    | with_reducible apply answerDrains_keeps
    | with_reducible apply channelBoundary_keeps
    | with_reducible apply arbitrate_keeps
    | with_reducible apply submitWaiting_keeps
    | with_reducible apply modPu_keeps
    | fail_if_no_progress (with_reducible refine keeps_mk_iff.2 ?_)
    | dsimp only
    | split
    | intro _)

theorem execBeatBoundary_keeps {a : State} {s : State} (hk : Keeps a s) :
    KeepsNext a (execBeatBoundary s) := by
  unfold execBeatBoundary
  repeat' (first
    | with_reducible refine keepsNext_next ?_
    | with_reducible refine keepsNext_ite ?_ ?_
    | with_reducible assumption
    | with_reducible apply newBeat_keeps
    | with_reducible apply endBeat_keeps
    | with_reducible apply beatTick_keeps
    | with_reducible apply modPu_keeps)

end Sys2Proof.Machine
end

