-- ==== Sys2Proof/Laws/Keeps8.lean ====
section
/-! SUPPORT. `Keeps` through the operations of Reads. -/

set_option linter.unusedTactic false
set_option linter.unreachableTactic false
set_option linter.unusedVariables false

namespace Sys2Proof.Machine

/-! ### Reads -/

theorem execCxlMemRead_keeps {a : State} {req : CxlReq} {corrected : Corrected} {s : State} (hk : Keeps a s) :
    KeepsNext a (execCxlMemRead req corrected s) := by
  unfold execCxlMemRead
  repeat' (first
    | with_reducible refine keepsNext_next ?_
    | with_reducible exact keepsNext_fault
    | with_reducible refine keepsNext_ite ?_ ?_
    | with_reducible assumption
    | with_reducible apply keeps_ite
    | with_reducible refine keeps_foldl ?_ (fun _ _ _ => ?_)
    | with_reducible apply noteCorrected_keeps
    | with_reducible apply cxlRead_keeps
    | fail_if_no_progress (with_reducible refine keeps_mk_iff.2 ?_)
    | dsimp only
    | split
    | intro _)

theorem execRead_keeps {a : State} {qid cid : Nat} {corrected : Corrected} {s : State} (hk : Keeps a s) :
    KeepsNext a (execRead qid cid corrected s) := by
  unfold execRead
  repeat' (first
    | with_reducible refine keepsNext_next ?_
    | with_reducible exact keepsNext_fault
    | with_reducible refine keepsNext_ite ?_ ?_
    | with_reducible assumption
    | with_reducible apply keeps_ite
    | with_reducible refine keeps_foldl ?_ (fun _ _ _ => ?_)
    | with_reducible apply noteCorrected_keeps
    | with_reducible apply runCmd_keeps
    | with_reducible apply refuseCmd_keeps
    | with_reducible apply withCmd_keeps
    | with_reducible apply gatherOperand_keeps
    | with_reducible apply afterGather_keeps
    | fail_if_no_progress (with_reducible refine keeps_mk_iff.2 ?_)
    | dsimp only
    | split
    | intro _)

end Sys2Proof.Machine
end

