-- ==== Sys2Proof/Laws/Maps.lean ====
section
/-! SUPPORT. What the keyed tables do: a lookup after an insertion, a removal or a change, at the same key and at another. -/

namespace Sys2Proof.Machine

theorem mget_mput_self {α : Type} (k : Nat) (v : α) (m : AMap α) : mget k (mput k v m) = some v := by
  induction m with
  | nil => simp [mput, mget]
  | cons e r ih =>
    obtain ⟨j, w⟩ := e
    simp only [mput]
    split
    · simp [mget]
    · split
      · simp [mget]
      · rename_i h
        simp [mget, h, ih]

theorem mget_mput_other {α : Type} {k j : Nat} (v : α) (m : AMap α) (h : j ≠ k) : mget j (mput k v m) = mget j m := by
  induction m with
  | nil => simp [mput, mget, Ne.symm h]
  | cons e r ih =>
    obtain ⟨i, w⟩ := e
    simp only [mput]
    split
    · simp [mget, Ne.symm h]
    · split
      · rename_i h1
        have : i ≠ j := by omega
        simp [mget, this, Ne.symm h]
      · simp [mget, ih]

theorem mget_mdel_self {α : Type} (k : Nat) (m : AMap α) : mget k (mdel k m) = none := by
  induction m with
  | nil => rfl
  | cons e r ih =>
    obtain ⟨i, w⟩ := e
    simp only [mdel]
    split
    · exact ih
    · rename_i h
      simp [mget, h, ih]

theorem mget_mdel_other {α : Type} {k j : Nat} (m : AMap α) (h : j ≠ k) : mget j (mdel k m) = mget j m := by
  induction m with
  | nil => rfl
  | cons e r ih =>
    obtain ⟨i, w⟩ := e
    simp only [mdel]
    split
    · rename_i h1
      have : i ≠ j := by omega
      simp [mget, this, ih]
    · simp [mget, ih]

theorem mget_mmod_self {α : Type} (k : Nat) (f : α → α) (m : AMap α) : mget k (mmod k f m) = (mget k m).map f := by
  induction m with
  | nil => rfl
  | cons e r ih =>
    obtain ⟨i, w⟩ := e
    simp only [mmod]
    split
    · rename_i h
      simp [mget, h]
    · rename_i h
      simp [mget, h, ih]

theorem mget_mmod_other {α : Type} {k j : Nat} (f : α → α) (m : AMap α) (h : j ≠ k) : mget j (mmod k f m) = mget j m := by
  induction m with
  | nil => rfl
  | cons e r ih =>
    obtain ⟨i, w⟩ := e
    simp only [mmod]
    split
    · rename_i h1
      have : i ≠ j := by omega
      simp [mget, this, ih]
    · simp [mget, ih]

/-- A queue pair that is changed: the others keep what they hold. -/
theorem queueOf_modQ_self (qid : Nat) (f : QueuePair → QueuePair) (s : State) :
    queueOf qid (modQ qid f s) = (queueOf qid s).map f := mget_mmod_self qid f s.gqp.pairs

theorem queueOf_modQ_other {qid q : Nat} (f : QueuePair → QueuePair) (s : State) (h : q ≠ qid) :
    queueOf q (modQ qid f s) = queueOf q s := mget_mmod_other f s.gqp.pairs h

end Sys2Proof.Machine
end

