-- ==== Sys2Proof/Tests/Slice0.lean ====
section
/-! SUPPORT. Tests: a witness for the hypotheses of every statement, ill-formed commands that the check refuses, and single steps. -/

open Sys2Proof Sys2Proof.Machine

set_option linter.unusedVariables false

namespace Sys2Proof.Tests

set_option Elab.async false

/-- A small state: VCORE is up and the management complex serves. -/
def up : State := { mc := { serving := true }, seq := { debounced := 0xFFF, state := .up } }

/-- A command entry with CID 5: opcode, region, offset, length, CDW5 and the command-specific field. -/
def entry (op region offset length cdw5 : Nat) (spec : Bytes) : Bytes :=
  le 1 op ++ le 1 0 ++ le 2 5 ++ le 2 region ++ le 2 0 ++ le 8 offset ++ le 4 length ++ le 4 cdw5 ++ zeros 8 ++ padTo 32 spec

/-- A command that has started. -/
def cmd (e : Bytes) (run : Bool) : GqpCmd := { cid := 5, entry := e, started := true, running := run }

/-- A memory queue pair with one command. -/
def queueWith (c : GqpCmd) : QueuePair := { cmds := [c], sqHead := 1, sqTail := 1 }

/-- Queue pair 1 with one command that has started. -/
def withCmd1 (c : GqpCmd) (s : State) : State := { s with gqp := { s.gqp with pairs := [(1, queueWith c)] } }

/-- Region 7 of one extent. -/
def withRegion (d : Region) (s : State) : State := { s with reg := { s.reg with table := [(7, d)], extentMap := [(7, [0])] } }

/-- A controller of pair 9 at position 0, with its partner 2 and the link in service. -/
def paired : State := { up with pair := { record := { pairId := 9, id0 := 1, id1 := 2 }, link := { state := .up8 }, hEcho := some 0, heard := some 0 } }

/-- Region 7, mirrored, with its seat on a controller. -/
def mirroredAt (seat : Nat) (s : State) : State := withRegion { seat := seat, mirrored := true } s

/-- Port 2 in the instrument role, with a capture ring and a replay channel. -/
def portWith (r : Ring) (x : Channel) (s : State) : State :=
  { s with
    net := { s.net with ports := [(2, { instrument := true })] }, cap := { s.cap with rings := [(2, r)], channels := [(2, x)], stagingPerChannel := 2 ^ 25 } }

/-- A ring configuration: region 7, journaled, stop on full, keep whole frames, 4 MiB of data behind 2 MiB, and 2 MiB of index. -/
def ringBytes : Bytes := le 1 0 ++ le 1 0 ++ le 1 0 ++ le 1 1 ++ zeros 4 ++ le 8 (2 ^ 21) ++ le 8 (2 ^ 22) ++ le 8 (3 * 2 ^ 21) ++ le 8 (2 ^ 21) ++ zeros 24

/-- The entry and the data of a queue command on port 2, with the command started. -/
def act2 (op code region offset length : Nat) (spec : Bytes) : GqpCmd := cmd (entry op region offset length (code + 512) spec) false

theorem witness_EmptyQueueIdles_1 : ∃ (s : State),
    s.pending = [] :=
  ⟨up, by decide +kernel⟩

theorem witness_RegisterWritesByAccessCode_1 : ∃ (src : MmioSrc) (v : Word) (s : State),
    vcoreUp s = true ∧
    v &&& 0xFFFFFC0C#32 = 0#32 :=
  ⟨.ld 0, 0x111, up, by decide +kernel⟩

theorem witness_RegisterWritesByAccessCode_2 : ∃ (src : MmioSrc) (v : Word) (s : State),
    vcoreUp s = true ∧
    v &&& 0xFFFFFC0C#32 ≠ 0#32 :=
  ⟨.fm 3, 0x4, up, by decide +kernel⟩

theorem witness_RegisterWritesByAccessCode_3 : ∃ (src : MmioSrc) (v : Word) (s : State),
    vcoreUp s = true ∧
    v &&& 0xFFFFFF0E#32 = 0#32 :=
  ⟨.ld 17, 0x10, up, by decide +kernel⟩

theorem witness_RegisterWritesByAccessCode_4 : ∃ (src : MmioSrc) (v : Word) (s : State),
    vcoreUp s = true ∧
    v &&& 0xFFFF0000#32 = 0#32 :=
  ⟨.ld 0, 0x203, up, by decide +kernel⟩

theorem witness_RegisterWritesByAccessCode_5 : ∃ (src : MmioSrc) (v : Word) (s : State),
    v &&& 0xFFFEF000#32 = 0#32 :=
  ⟨.ld 0, 0x10001, ({} : State), by decide +kernel⟩

theorem witness_RegisterWritesByAccessCode_6 : ∃ (src : MmioSrc) (off : Nat) (v : Word) (s : State),
    off < 0x38000 ∧
    vcoreUp s = false :=
  ⟨.ld 0, 0x20054, 1, ({} : State), by decide +kernel⟩

theorem witness_RegisterWritesByAccessCode_7 : ∃ (src : MmioSrc) (off : Nat) (v : Word) (s : State),
    0x80000 ≤ off :=
  ⟨.ld 0, 0x80000, 1, up, by decide +kernel⟩

theorem witness_RegisterWritesByAccessCode_8 : ∃ (v : Word) (s : State),
    s.seq.vstby = true ∧
    s.seq.clk25 = true ∧
    vcoreUp s = true ∧
    v &&& 0xFFFF0000#32 = 0#32 :=
  ⟨0x203, up, by decide +kernel⟩

theorem witness_RegisterWritesByAccessCode_9 : ∃ (s : State),
    s.seq.vstby = true ∧
    s.seq.clk25 = true ∧
    vcoreUp s = true :=
  ⟨up, by decide +kernel⟩

theorem witness_RegisterWritesByAccessCode_10 : ∃ (s : State) (a : Nat) (v : Word),
    a < 0x80000 ∧
    s.seq.vstby = true ∧
    s.seq.clk25 = true :=
  ⟨up, 0x20054, 1, by decide +kernel⟩

theorem witness_SidebandProxy_1 : ∃ (off : Nat) (data : Bytes) (s : State),
    s.seq.vstby = true ∧
    s.seq.clk25 = true ∧
    s.mc.serving = true ∧
    noPair s = false ∧
    s.mc.proxy.state = 0 ∧
    s.seq.standby ≠ .entered :=
  ⟨4, [1, 2], up, by decide +kernel⟩

theorem witness_SidebandProxy_2 : ∃ (off : Nat) (data : Bytes) (s : State),
    s.seq.vstby = true ∧
    s.seq.clk25 = true ∧
    proxyState s = 1 :=
  ⟨0, [1], { up with mc := { serving := true, proxy := { state := 1 } } }, by decide +kernel⟩

theorem witness_SidebandProxy_3 : ∃ (s : State),
    s.seq.vstby = true ∧
    s.seq.clk25 = true ∧
    s.mc.serving = true ∧
    noPair s = false ∧
    s.mc.rom = false ∧
    s.mc.proxy.state ≠ 1 ∧
    s.seq.standby ≠ .entered :=
  ⟨up, by decide +kernel⟩

theorem witness_SidebandProxy_4 : ∃ (s : State),
    s.seq.vstby = true ∧
    s.seq.clk25 = true :=
  ⟨up, by decide +kernel⟩

theorem witness_SidebandProxy_5 : ∃ (off : Nat) (s : State),
    s.seq.vstby = true ∧
    s.seq.clk25 = true :=
  ⟨0, up, by decide +kernel⟩

theorem witness_TimebaseFollowsItsSource_1 : ∃ (port : Nat) (sync : Bool) (off : Int) (s : State),
    ptpUsable port s = true ∧
    s.tb.mode = .free ∧
    4000000 < off :=
  ⟨2, true, 5000000, { up with tb := { srcSel := 1, ptpPort := 2 }, net := { ports := [(2, { up := true })] } }, by decide +kernel⟩

theorem witness_TimebaseFollowsItsSource_2 : ∃ (port : Nat) (sync : Bool) (off : Int) (s : State),
    ptpUsable port s = true ∧
    s.tb.mode = .locked :=
  ⟨2, true, 300, { up with tb := { srcSel := 1, ptpPort := 2, mode := .locked }, net := { ports := [(2, { up := true })] } }, by decide +kernel⟩

theorem witness_TimebaseFollowsItsSource_3 : ∃ (off : Int) (s : State),
    s.tb.srcSel = 2 ∧
    s.tb.ppsInPol = false ∧
    s.tb.mode = .locked ∧
    s.tb.lastEdgeBeat = some (s.tb.beat - 1953125) ∧
    1953125 ≤ s.tb.beat :=
  ⟨10, { up with tb := { srcSel := 2, mode := .locked, beat := 1953130, lastEdgeBeat := some 5 } }, by decide +kernel⟩

theorem witness_TimebaseFollowsItsSource_4 : ∃ (s : State),
    s.tb.srcSel = 1 ∧
    s.tb.mode = .locked :=
  ⟨{ up with tb := { srcSel := 1, mode := .locked } }, by decide +kernel⟩

theorem witness_TimebaseFollowsItsSource_5 : ∃ (s : State),
    s.tb.srcSel = 1 ∧
    s.tb.mode = .acquire :=
  ⟨{ up with tb := { srcSel := 1, mode := .acquire } }, by decide +kernel⟩

theorem witness_TimebaseFollowsItsSource_6 : ∃ (b : Nat) (s : State),
    s.tb.mode = .acquire ∧
    s.tb.goodSince = some b ∧
    b + 31250000 ≤ s.tb.beat :=
  ⟨7, { up with tb := { mode := .acquire, goodSince := some 7, beat := 31250007 } }, by decide +kernel⟩

theorem witness_TimebaseFollowsItsSource_7 : ∃ (s : State),
    s.tb.ppsOutEn = true ∧
    s.tb.mode ≠ .free ∧
    s.tb.ppsOut = false ∧
    s.tb.tod % 4000000000 = 0 :=
  ⟨{ up with tb := { ppsOutEn := true, mode := .locked, tod := 8000000000 } }, by decide +kernel⟩

theorem witness_TimebaseFollowsItsSource_8 : ∃ (s : State),
    s.tb.ppsOut = true ∧
    s.tb.ppsRise * 4000000000 + 400000000 ≤ s.tb.tod :=
  ⟨{ up with tb := { ppsOutEn := true, mode := .locked, ppsOut := true, ppsRise := 2, tod := 8400000000 } }, by decide +kernel⟩

theorem witness_SlotTableCommands_1 : ∃ (path : BcsPath) (input : Bytes) (s : State),
    bcsOpen path 0xC090 s = true ∧
    input.length = 1 ∧
    fld 0 1 input < 2 :=
  ⟨.sideband, [1], up, by decide +kernel⟩

theorem witness_SlotTableCommands_2 : ∃ (path : BcsPath) (input : Bytes) (s : State),
    bcsOpen path 0xC090 s = true ∧
    input.length ≠ 1 :=
  ⟨.sideband, [1, 2], up, by decide +kernel⟩

theorem witness_SlotTableCommands_3 : ∃ (path : BcsPath) (input : Bytes) (s : State),
    bcsOpen path 0xC091 s = true ∧
    input.length = 8 + 2 * fld 2 2 input ∧
    1 ≤ fld 2 2 input ∧
    fld 0 2 input + fld 2 2 input ≤ 1024 ∧
    zeroAt 4 4 input = true ∧
    s.slot.activeB = false :=
  ⟨.fm 2, [5, 0, 1, 0, 0, 0, 0, 0, 1, 0x80], up, by decide +kernel⟩

theorem witness_SlotTableCommands_4 : ∃ (path : BcsPath) (input : Bytes) (s : State),
    bcsOpen path 0xC092 s = true ∧
    input.length = 0 ∧
    s.slot.activation = none ∧
    s.slot.activeB = false ∧
    (s.slot.copyB.all (fun e => entryOk e.2 s) = true) :=
  ⟨.sideband, [], { up with slot := { copyB := [(0, 0x8001)] } }, by decide +kernel⟩

theorem witness_SlotTableCommands_5 : ∃ (path : BcsPath) (input : Bytes) (e : Nat × BitVec 16) (s : State),
    bcsOpen path 0xC092 s = true ∧
    input.length = 0 ∧
    s.slot.activation = none ∧
    s.slot.activeB = false ∧
    (s.slot.copyB.find? (fun e => !entryOk e.2 s) = some e) :=
  ⟨.sideband, [], (0, 0x8013), { up with slot := { copyB := [(0, 0x8013)] } }, by decide +kernel⟩

theorem witness_SlotTableCommands_6 : ∃ (a : SlotActivation) (s : State),
    s.slot.activation = some a ∧
    a.beat ≤ s.tb.beat :=
  ⟨⟨.sideband, 3⟩, { up with slot := { activation := some ⟨.sideband, 3⟩ }, tb := { beat := 3 } }, by decide +kernel⟩

theorem witness_BoundaryStartsTheNextBeat_1 : ∃ (s : State),
    vcoreUp s = true :=
  ⟨{ up with tb := { beat := 41 } }, by decide +kernel⟩

theorem witness_BoundaryStartsTheNextBeat_2 : ∃ (d : DrainRun) (s : State),
    vcoreUp s = true ∧
    s.pu.drain = some d :=
  ⟨⟨0, 0, 1, 0, false⟩, { up with pu := { drain := some ⟨0, 0, 1, 0, false⟩, freeNext := [3] } }, by decide +kernel⟩

theorem witness_BoundaryStartsTheNextBeat_3 : ∃ (s : State),
    vcoreUp s = false :=
  ⟨({} : State), by decide +kernel⟩

theorem witness_WritesAreAdmittedAndAcknowledged_1 : ∃ (n : Nat) (u : WUnit) (s : State),
    unitOf n s = some u ∧
    volatileUnit u s = false ∧
    canAdmit u s = true ∧
    bytesLater u = false :=
  ⟨0, { id := 0, src := .background, region := 1, lines := [⟨4, 0xFF, 1, false⟩] }, { up with pu := { units := [{ id := 0, src := .background, region := 1, lines := [⟨4, 0xFF, 1, false⟩] }], nextUnit := 1 } }, by decide +kernel⟩

theorem witness_WritesAreAdmittedAndAcknowledged_2 : ∃ (n : Nat) (u : WUnit) (s : State),
    unitOf n s = some u ∧
    volatileUnit u s = true ∧
    u.phase = .waiting ∧
    bytesLater u = false :=
  ⟨0, { id := 0, src := .background, region := 1, lines := [⟨4, 0xFF, 1, false⟩] }, { up with pu := { units := [{ id := 0, src := .background, region := 1, lines := [⟨4, 0xFF, 1, false⟩] }], nextUnit := 1 }, reg := { table := [(1, { isVolatile := true })] } }, by decide +kernel⟩

theorem witness_WritesAreAdmittedAndAcknowledged_3 : ∃ (n : Nat) (u : WUnit) (s : State),
    unitOf n s = some u ∧
    u.src = .background ∧
    ackDue u s = true ∧
    volatileUnit u s = false :=
  ⟨0, { id := 0, src := .background, region := 1, lines := [⟨4, 0xFF, 1, false⟩], phase := .staged, slots := [0] }, { up with pu := { units := [{ id := 0, src := .background, region := 1, lines := [⟨4, 0xFF, 1, false⟩], phase := .staged, slots := [0] }], nextUnit := 1, slots := [(0, ⟨.staged, 0, .general, .background, 1, 4, 0xFF, false, 1, 0, none⟩)] } }, by decide +kernel⟩

theorem witness_ChestTakesRecordsInOrder_1 : ∃ (q : Nat) (r : JRec) (rest : List JRec) (s : State),
    s.pu.queue = r :: rest ∧
    s.start.warm = false ∧
    writerReady q s.pu = true ∧
    r.metaId = none :=
  ⟨1, { kind := .pad 2, seq := 1, slots := [7] }, [], { up with pu := { queue := [{ kind := .pad 2, seq := 1, slots := [7] }] } }, by decide +kernel⟩

theorem witness_ChestTakesRecordsInOrder_2 : ∃ (a : Anchor) (s : State),
    bestAnchor s.pu = some a ∧
    a.seq ≠ s.pu.reclaimSeq ∧
    s.pu.lastAnchorBeat + 1024 ≤ s.tb.beat ∧
    s.pu.drain = none :=
  ⟨⟨0, 1, 0⟩, { up with pu := { reclaimSeq := 9, reclaimLine := 40 }, tb := { beat := 2000 } }, by decide +kernel⟩

theorem witness_ChestTakesRecordsInOrder_3 : ∃ (a : Anchor) (s : State),
    bestAnchor s.pu = some a ∧
    a.seq = s.pu.reclaimSeq :=
  ⟨⟨0, 1, 0⟩, up, by decide +kernel⟩

theorem witness_PersistenceFaultsAreContained_1 : ∃ (s : State),
    1024 ≤ s.pu.waitBeats ∧
    s.pu.waitReported = false ∧
    eventRoom s = true :=
  ⟨{ up with pu := { waitBeats := 1024 } }, by decide +kernel⟩

theorem witness_PersistenceFaultsAreContained_2 : ∃ (row : Nat) (s : State),
    0 < s.pu.spareRows ∧
    eventRoom s = true :=
  ⟨77, up, by decide +kernel⟩

theorem witness_PersistenceFaultsAreContained_3 : ∃ (row : Nat) (s : State),
    s.pu.spareRows = 0 ∧
    row ∉ s.pu.rowsRetired ∧
    eventRoom s = true :=
  ⟨77, { up with pu := { spareRows := 0 } }, by decide +kernel⟩

theorem witness_PersistenceFaultsAreContained_4 : ∃ (bank slot : Nat) (s : State),
    bank < 16 ∧
    s.pu.banks = [] :=
  ⟨3, 24580, up, by decide +kernel⟩

theorem witness_PersistenceFaultsAreContained_5 : ∃ (bank slot : Nat) (s : State),
    bank < 16 ∧
    mhas bank s.pu.banks = false ∧
    s.pu.banks ≠ [] ∧
    s.pu.bankLost = false ∧
    eventRoom s = true :=
  ⟨3, 24580, { up with pu := { banks := [(5, .disabled)] } }, by decide +kernel⟩

theorem witness_PersistenceFaultsAreContained_6 : ∃ (bank : Nat) (s : State),
    mget bank s.pu.banks = some .failing ∧
    (s.pu.slots.all (fun e => e.1 / 8192 != bank) = true) ∧
    eventRoom s = true :=
  ⟨3, { up with pu := { banks := [(3, .failing)] } }, by decide +kernel⟩

theorem witness_ShelfServesSegments_1 : ∃ (seg : Nat) (s : State),
    mhas seg s.ti.segs = false ∧
    s.ti.segs.length < slotCount s :=
  ⟨9, { up with ti := { slotsTotal := 4, slotWaiters := [300] } }, by decide +kernel⟩

theorem witness_ShelfServesSegments_2 : ∃ (seg : Nat) (s : State),
    mhas seg s.ti.segs = false ∧
    ensureSlot seg s = none :=
  ⟨9, up, by decide +kernel⟩

theorem witness_ShelfServesSegments_3 : ∃ (s : State),
    1024 < s.ti.slotWaitBeats ∧
    s.ti.slotWaitReported = false ∧
    eventRoom s = true :=
  ⟨{ up with ti := { slotWaitBeats := 1025 } }, by decide +kernel⟩

theorem witness_ShelfServesSegments_4 : ∃ (seg page : Nat) (g : SegSlot) (s : State),
    page < 512 ∧
    (s.ti.fills.any (fun f => f.segment == seg) = true) ∧
    mget seg s.ti.segs = some g ∧
    mget (seg * 32 + page / 16) s.ti.map = none :=
  ⟨2, 17, { filling := true, pins := 1 }, { up with ti := { slotsTotal := 4, segs := [(2, { filling := true, pins := 1 })], fills := [⟨2, [64]⟩] } }, by decide +kernel⟩

theorem witness_ShelfServesSegments_5 : ∃ (slot : Nat) (s : State),
    slot ∉ s.ti.mappedOut ∧
    s.ti.segs = [] ∧
    eventRoom s = true :=
  ⟨3, { up with ti := { slotsTotal := 8 } }, by decide +kernel⟩

theorem witness_ShelfServesSegments_6 : ∃ (q : Nat) (r : JRec) (s : State),
    (s.pu.chest.find? (fun r => !r.placed) = some r) ∧
    r.seq = q ∧
    (placeLines q (toPlace r s) s).isSome = true :=
  ⟨5, { kind := .data, seq := 5, complete := true }, { up with pu := { chest := [{ kind := .data, seq := 5, complete := true }] } }, by decide +kernel⟩

theorem witness_CheckpointsRunToTheEnd_1 : ∃ (s : State),
    s.ti.ckpt = none ∧
    536870912 ≤ s.ti.mapBytes :=
  ⟨{ up with ti := { mapBytes := 536870912 } }, by decide +kernel⟩

theorem witness_CheckpointsRunToTheEnd_2 : ∃ (c : CkptRun) (r : JRec) (s : State),
    s.ti.ckpt = some c ∧
    s.ti.ckptAgain = false ∧
    r ∈ s.pu.chest ∧
    r.kind = .checkpoint ⟨c.number, c.startSeq, c.pages.length⟩ ∧
    eventRoom s = true :=
  ⟨{ number := 1, startSeq := 3, beat := 0, pages := [], image := [], snapshot := [] }, { kind := .checkpoint ⟨1, 3, 0⟩, seq := 4, complete := true }, { up with ti := { ckpt := some { number := 1, startSeq := 3, beat := 0, pages := [], image := [], snapshot := [] } }, pu := { chest := [{ kind := .checkpoint ⟨1, 3, 0⟩, seq := 4, complete := true }] } }, by decide +kernel⟩

theorem witness_CabinetProgramsAndRows_1 : ∃ (lcn addr r : Nat) (d : Region) (g : SegSlot) (s : State),
    chunkRegion lcn s = some (r, d) ∧
    mget (segmentOf lcn) s.ti.segs = some g ∧
    g.dirty.testBit (lcn % 32) = true ∧
    d.isVolatile = true ∧
    d.protect = .none ∧
    s.ti.inFlight = [] ∧
    canProgram .openData addr s = true ∧
    2 ≤ (freeStripes (addrPosition addr) s).length :=
  ⟨64, 402653189, 1, { isVolatile := true }, { dirty := 1, valid := 65535 }, { up with ident := { lunsPerChannel := 1, blocksPerLun := 8, pagesPerBlock := 4 }, reg := { table := [(1, { isVolatile := true })], extentMap := [(1, [0])] }, ti := { slotsTotal := 4, segs := [(2, { dirty := 1, valid := 65535 })], shelf := [(64 * 65536 + 3, 7)] } }, by decide +kernel⟩

theorem witness_CabinetProgramsAndRows_2 : ∃ (p b row : Nat) (r : Row) (s : State),
    mget row (stripeAt (stripeKey p b) s).rows = some r ∧
    r.closed = false ∧
    rowFull b (stripeAt (stripeKey p b) s) r = true :=
  ⟨0, 1, 0, { first := 0, members := List.range 64 }, { up with ti := { stripes := [(1, { state := .openData, rows := [(0, { first := 0, members := List.range 64 })] })] } }, by decide +kernel⟩

theorem witness_CabinetProgramsAndRows_3 : ∃ (p b row : Nat) (r : Row) (s : State),
    mget row (stripeAt (stripeKey p b) s).rows = some r ∧
    r.closed = false ∧
    r.first + 32768 ≤ s.tb.beat :=
  ⟨0, 1, 0, { first := 0, members := [5] }, { up with ident := { lunsPerChannel := 1, blocksPerLun := 8, pagesPerBlock := 4 }, tb := { beat := 32768 }, ti := { stripes := [(1, { state := .openData, rows := [(0, { first := 0, members := [5] })] })] } }, by decide +kernel⟩

theorem witness_CabinetProgramsAndRows_4 : ∃ (lcn r : Nat) (w : CabWrite) (d : Region) (s : State),
    (s.ti.inFlight.find? (fun x => x.lcn == lcn && !x.reloc) = some w) ∧
    w.lcn = lcn ∧
    w.staged = false ∧
    chunkRegion lcn s = some (r, d) ∧
    d.isVolatile = true ∧
    rowClosed w.addr s = true ∧
    entryAddr lcn s = w.fromAddr :=
  ⟨64, 1, ⟨64, 402653189, 0, 0, false, false⟩, { isVolatile := true }, { up with ident := { lunsPerChannel := 1, blocksPerLun := 8, pagesPerBlock := 4 }, reg := { table := [(1, { isVolatile := true })], extentMap := [(1, [0])] }, ti := { inFlight := [⟨64, 402653189, 0, 0, false, false⟩], stripes := [(1, { state := .openData, rows := [(1, { first := 0, closed := true })] })] } }, by decide +kernel⟩

theorem witness_CabinetProgramsAndRows_5 : ∃ (lcn addr : Nat) (w : CabWrite) (e : MapEntry) (s : State),
    (s.ti.inFlight.find? (fun x => x.lcn == lcn && x.reloc) = some w) ∧
    mget lcn s.ti.map = some e ∧
    e.state = 3 ∧
    e.addr = w.fromAddr ∧
    canProgram .openReloc addr s = true ∧
    mapFits [{ lcn := lcn, state := 1, addr := addr, dataSeq := e.dataSeq }] s = true :=
  ⟨64, 402653189, ⟨64, 0, 77, 0, true, false⟩, { state := 3, addr := 77 }, { up with ident := { lunsPerChannel := 1, blocksPerLun := 8, pagesPerBlock := 4 }, ti := { inFlight := [⟨64, 0, 77, 0, true, false⟩], map := [(64, { state := 3, addr := 77 })] } }, by decide +kernel⟩

theorem witness_CabinetProgramsAndRows_6 : ∃ (lcn : Nat) (e : MapEntry) (s : State),
    mget lcn s.ti.map = some e ∧
    e.state = 1 ∧
    s.ecc.scrub.state = 0 :=
  ⟨64, { state := 1, addr := 77 }, { up with ti := { map := [(64, { state := 1, addr := 77 })] } }, by decide +kernel⟩

theorem witness_CabinetWearAndFailures_1 : ∃ (p : Nat) (v : Nat × Stripe) (s : State),
    (freeStripes p s).length < 8 ∧
    (leastStripe (fun k => (validChunks k s).length) (closedStripes p s) = some v) ∧
    validChunks v.1 s = [] :=
  ⟨0, (3, { state := .closed }), { up with ident := { lunsPerChannel := 1, blocksPerLun := 8, pagesPerBlock := 4 }, ti := { stripes := [(3, { state := .closed })] } }, by decide +kernel⟩

theorem witness_CabinetWearAndFailures_2 : ∃ (p : Nat) (s : State),
    ((List.range s.ident.lunsPerChannel).all (fun j => (freeStripes j s).isEmpty) = true) ∧
    eventRoom s = true :=
  ⟨0, { up with ident := { lunsPerChannel := 1, blocksPerLun := 1, pagesPerBlock := 4 }, ti := { stripes := [(0, { state := .closed })] } }, by decide +kernel⟩

theorem witness_CabinetWearAndFailures_3 : ∃ (p : Nat) (v : Nat × Stripe) (s : State),
    param 0x0303 1000 s < eraseSpread p s ∧
    (leastStripe (fun k => (stripeAt k s).erases) (closedStripes p s) = some v) ∧
    validChunks v.1 s = [] :=
  ⟨0, (3, { state := .closed, erases := 5 }), { up with ident := { lunsPerChannel := 1, blocksPerLun := 8, pagesPerBlock := 4 }, ti := { stripes := [(2, { erases := 2000 }), (3, { state := .closed, erases := 5 })] } }, by decide +kernel⟩

theorem witness_CabinetWearAndFailures_4 : ∃ (p b : Nat) (s : State),
    param 0x0304 1000000 s ≤ (stripeAt (stripeKey p b) s).reads ∧
    (stripeAt (stripeKey p b) s).state = .closed ∧
    validChunks (stripeKey p b) s = [] :=
  ⟨0, 3, { up with ti := { stripes := [(3, { state := .closed, reads := 1000000 })] } }, by decide +kernel⟩

theorem witness_CabinetWearAndFailures_5 : ∃ (lun b : Nat) (s : State),
    lun / 32 ∉ (stripeAt (stripeKey (lun % 32) b) s).bad ∧
    (mgetD {} lun s.ti.luns).retired = [] ∧
    eventRoom s = true :=
  ⟨64, 3, { up with ident := { lunsPerChannel := 1, blocksPerLun := 8, pagesPerBlock := 4 } }, by decide +kernel⟩

theorem witness_CabinetWearAndFailures_6 : ∃ (lun : Nat) (s : State),
    (mgetD {} lun s.ti.luns).failed = false ∧
    eventRoom s = true :=
  ⟨64, { up with ident := { lunsPerChannel := 1, blocksPerLun := 8, pagesPerBlock := 4 } }, by decide +kernel⟩

theorem witness_CabinetWearAndFailures_7 : ∃ (lun : Nat) (r : Rebuild) (s : State),
    (s.ti.rebuilds.find? (fun r => r.lun == lun) = some r) ∧
    s.ti.inFlight = [] ∧
    eventRoom s = true :=
  ⟨64, { lun := 64, stripes := [3], relocated := 9 }, { up with ti := { rebuilds := [{ lun := 64, stripes := [3], relocated := 9 }] } }, by decide +kernel⟩

theorem witness_CabinetWearAndFailures_8 : ∃ (s : State),
    s.ti.opBeat + 65536 ≤ s.tb.beat :=
  ⟨{ up with tb := { beat := 65536 }, ident := { lunsPerChannel := 1, blocksPerLun := 8, pagesPerBlock := 4 } }, by decide +kernel⟩

theorem witness_RegionCommandsTakeTheirCourse_1 : ∃ (path : BcsPath) (input : Bytes) (s : State),
    bcsOpen path 0xC010 s = true ∧
    input.length = 24 ∧
    isPaired s = false ∧
    (1 ≤ fld 0 2 input ∧ fld 0 2 input ≤ 4095) ∧
    attrOk (fld 2 1 input) s = true ∧
    fld 3 1 input ≤ 1 ∧
    fld 4 4 input ≠ 0 ∧
    regionOf (fld 0 2 input) s = none ∧
    commandedOff s = false ∧
    noCapacity (newRegion (fld 2 1 input) s.ident.controllerId s.ident.controllerId (fld 0 2 input) (slice 8 16 input)) (fld 4 4 input) s = false ∧
    isSettee s = false :=
  ⟨.sideband, [7, 0, 0, 0, 2, 0, 0, 0, 0x41, 0, 0, 0, 0, 0, 0, 0, 0, 0, 0, 0, 0, 0, 0, 0], { up with ident := { lunsPerChannel := 1, blocksPerLun := 8, pagesPerBlock := 64 }, reg := { capExtents := 16 } }, by decide +kernel⟩

theorem witness_RegionCommandsTakeTheirCourse_2 : ∃ (path : BcsPath) (input : Bytes) (s : State),
    bcsOpen path 0xC011 s = true ∧
    input.length = 2 ∧
    isPaired s = false ∧
    (regionOf (fld 0 2 input) s).isSome = true ∧
    attachedFrom (fld 0 2 input) 0 s = false ∧
    s.cxl.bureau ≠ fld 0 2 input ∧
    mhas (fld 0 2 input) s.reg.changes = false ∧
    bgFree path 0xC011 s = true :=
  ⟨.sideband, [7, 0], { up with reg := { table := [(7, {})], extentMap := [(7, [0])] } }, by decide +kernel⟩

theorem witness_RegionCommandsTakeTheirCourse_3 : ∃ (path : BcsPath) (input : Bytes) (s : State),
    bcsOpen path 0xC012 s = true ∧
    input.length = 8 ∧
    isPaired s = false ∧
    (((regionOf (fld 0 2 input) s).map fun d => (d.state, d.settee)) = some (.online, false)) ∧
    zeroAt 2 2 input = true ∧
    0 < fld 4 4 input ∧
    (((regionOf (fld 0 2 input) s).map fun d => decide (fld 4 4 input < d.size)) = some true) ∧
    attachedFrom (fld 0 2 input) (fld 4 4 input) s = false ∧
    keysOver (fld 0 2 input) (fld 4 4 input * 2 ^ 28) s = [] ∧
    mhas (fld 0 2 input) s.reg.changes = false ∧
    bgFree path 0xC012 s = true :=
  ⟨.sideband, [7, 0, 0, 0, 1, 0, 0, 0], { up with reg := { table := [(7, { size := 3 })], extentMap := [(7, [0, 1, 2])] } }, by decide +kernel⟩

theorem witness_RegionCommandsTakeTheirCourse_4 : ∃ (path : BcsPath) (input : Bytes) (d : Region) (s : State),
    bcsOpen path 0xC015 s = true ∧
    input.length = 88 ∧
    isPaired s = false ∧
    regionOf (fld 0 2 input) s = some d ∧
    fld 2 1 input = 1 ∧
    fld 3 1 input < 8 ∧
    fld 4 1 input = 0 ∧
    zeroAt 5 3 input = true ∧
    zeroAt 8 16 input = true ∧
    zeroAt 24 64 input = true :=
  ⟨.sideband, [7, 0, 1, 5] ++ zeros 84, {}, { up with reg := { table := [(7, {})] } }, by decide +kernel⟩

theorem witness_RegionCommandsTakeTheirCourse_5 : ∃ (path : BcsPath) (input : Bytes) (s : State),
    bcsOpen path 0xC011 s = true ∧
    input.length = 2 ∧
    isPaired s = false ∧
    regionOf (fld 0 2 input) s = none :=
  ⟨.sideband, [7, 0], up, by decide +kernel⟩

theorem witness_RegionQueriesAnswer_1 : ∃ (path : BcsPath) (input : Bytes) (s : State),
    bcsOpen path 0xC013 s = true ∧
    input.length = 8 ∧
    (1 ≤ fld 0 2 input ∧ fld 0 2 input ≤ 4095) ∧
    fld 2 1 input = 0 ∧
    zeroAt 3 1 input = true :=
  ⟨.primary 3, [7, 0, 0, 0, 0, 0, 0, 0], { up with reg := { table := [(7, {})] } }, by decide +kernel⟩

theorem witness_RegionQueriesAnswer_2 : ∃ (path : BcsPath) (input : Bytes) (s : State),
    bcsOpen path 0xC014 s = true ∧
    input.length = 2 :=
  ⟨.primary 3, [0, 0], { up with reg := { table := [(7, {})] } }, by decide +kernel⟩

theorem witness_RegionQueriesAnswer_3 : ∃ (path : BcsPath) (input : Bytes) (s : State),
    bcsOpen path 0xC01A s = true ∧
    input.length = 0 ∧
    myPosition s = 0 :=
  ⟨.primary 3, [], up, by decide +kernel⟩

theorem witness_RegionChangesTakeEffectAtBoundaries_1 : ∃ (r : Nat) (c : RegionChange) (s : State),
    mget r s.reg.changes = some c ∧
    c.phase = .waitBoundary ∧
    c.boundary ≤ s.tb.beat :=
  ⟨7, ⟨.delete, none, 0xC011, 4, .waitBoundary⟩, { up with tb := { beat := 4 }, reg := { table := [(7, { state := .changing })], changes := [(7, ⟨.delete, none, 0xC011, 4, .waitBoundary⟩)] } }, by decide +kernel⟩

theorem witness_RegionChangesTakeEffectAtBoundaries_2 : ∃ (r : Nat) (c : RegionChange) (d : Region) (s : State),
    mget r s.reg.changes = some c ∧
    regionOf r s = some d ∧
    c.phase = .draining ∧
    c.kind = .delete ∧
    accessInFlight r 0 s = false :=
  ⟨7, ⟨.delete, none, 0xC011, 4, .draining⟩, { state := .changing }, { up with reg := { table := [(7, { state := .changing })], changes := [(7, ⟨.delete, none, 0xC011, 4, .draining⟩)] } }, by decide +kernel⟩

theorem witness_RegionChangesTakeEffectAtBoundaries_3 : ∃ (r : Nat) (d : Region) (s : State),
    regionOf r s = some d ∧
    s.reg.pendingRo = [⟨r, 0, true, s.tb.beat⟩] ∧
    d.roReasons = 0 ∧
    eventRoom s = true :=
  ⟨7, {}, { up with tb := { beat := 9 }, reg := { table := [(7, {})], pendingRo := [⟨7, 0, true, 9⟩] } }, by decide +kernel⟩

theorem witness_RegionChangesTakeEffectAtBoundaries_4 : ∃ (r b : Nat) (v : Bool) (n : Nat) (s : State),
    s.reg.pendingRo = [⟨r, b, v, n⟩] ∧
    s.tb.beat < n :=
  ⟨7, 0, true, 10, { up with tb := { beat := 9 }, reg := { table := [(7, {})], pendingRo := [⟨7, 0, true, 10⟩] } }, by decide +kernel⟩

theorem witness_RegionChangesTakeEffectAtBoundaries_5 : ∃ (r : Nat) (d : Region) (m : MaskChange) (s : State),
    regionOf r s = some d ∧
    s.reg.pendingMasks = [m] ∧
    m.region = r ∧
    m.beat ≤ s.tb.beat :=
  ⟨7, {}, ⟨7, 3, 1, 4⟩, { up with tb := { beat := 9 }, reg := { table := [(7, {})], pendingMasks := [⟨7, 3, 1, 4⟩] } }, by decide +kernel⟩

theorem witness_DoorbellsFetchAndTheAdminQueue_1 : ∃ (head qid : Nat) (value : Word) (q : QueuePair) (s : State),
    queueOf qid s = some q ∧
    value.toNat < 65536 ∧
    doorbellReaches head q = true ∧
    value.toNat < q.depth ∧
    (q.sqTail + q.depth - q.sqHead) % q.depth + (value.toNat + q.depth - q.sqTail) % q.depth < q.depth :=
  ⟨0, 1, 3, {}, { up with gqp := { pairs := [(1, {})] } }, by decide +kernel⟩

theorem witness_DoorbellsFetchAndTheAdminQueue_2 : ∃ (head qid : Nat) (value : Word) (s : State),
    queueOf qid s = none ∧
    value.toNat < 65536 ∧
    findReport 0x0802 qid s.ev.reports = none ∧
    eventRoom s = true :=
  ⟨0, 9, 3, up, by decide +kernel⟩

theorem witness_DoorbellsFetchAndTheAdminQueue_3 : ∃ (head qid : Nat) (value : Word) (q : QueuePair) (s : State),
    queueOf qid s = some q ∧
    value.toNat < 65536 ∧
    doorbellReaches head q = true ∧
    value.toNat < q.cqDepth ∧
    (value.toNat + q.cqDepth - q.cqHead) % q.cqDepth ≤ q.unread :=
  ⟨0, 1, 3, { unread := 4 }, { up with gqp := { pairs := [(1, { unread := 4 })] } }, by decide +kernel⟩

theorem witness_DoorbellsFetchAndTheAdminQueue_4 : ∃ (head : Nat) (s : State),
    s.gqp.aq.en = false ∧
    queueOf 0 s = none :=
  ⟨4, up, by decide +kernel⟩

theorem witness_DoorbellsFetchAndTheAdminQueue_5 : ∃ (head : Nat) (s : State),
    s.gqp.aq.en = true ∧
    s.gqp.aq.owner = head :=
  ⟨4, { up with gqp := { aq := { en := true, owner := 4, fatal := true } } }, by decide +kernel⟩

theorem witness_DoorbellsFetchAndTheAdminQueue_6 : ∃ (s : State),
    s.gqp.aq.en = true :=
  ⟨{ up with gqp := { aq := { en := true } } }, by decide +kernel⟩

theorem witness_DoorbellsFetchAndTheAdminQueue_7 : ∃ (q : QueuePair) (s : State),
    s.gqp.aq.en = false ∧
    queueOf 0 s = some q ∧
    q.cmds = [] :=
  ⟨{}, { up with gqp := { aq := { rdy := true }, pairs := [(0, {})] } }, by decide +kernel⟩

theorem witness_DoorbellsFetchAndTheAdminQueue_8 : ∃ (qid : Nat) (entry list : Bytes) (q : QueuePair) (s : State),
    queueOf qid s = some q ∧
    canFetch qid q s = true ∧
    q.transport = 0 ∧
    entry.length = 64 :=
  ⟨1, zeros 64, [], { sqTail := 2 }, { up with gqp := { pairs := [(1, { sqTail := 2 })] } }, by decide +kernel⟩

theorem witness_DoorbellsFetchAndTheAdminQueue_9 : ∃ (s : State),
    1024 ≤ s.gqp.limitBeats ∧
    s.gqp.limitReported = false ∧
    eventRoom s = true :=
  ⟨{ up with gqp := { limitBeats := 1024 } }, by decide +kernel⟩

theorem witness_MemoryCommandsRun_1 : ∃ (qid cid : Nat) (q : QueuePair) (c : GqpCmd) (d : Region) (s : State),
    queueOf qid s = some q ∧
    q.cmds = [c] ∧
    (c.cid = cid ∧ c.started = true ∧ c.running = false ∧ c.status = 0 ∧ c.src = [] ∧ c.bad = []) ∧
    (q.transport = 0 ∧ q.deleting = none) ∧
    eOpcode c.entry = 0x01 ∧
    (headerOk q c = true ∧ ePtrKind c.entry = 0 ∧ eCdw5 c.entry = 0 ∧ cspecZero [] c.entry = true) ∧
    regionStatus q.domain (eRegion c.entry) (eOffset c.entry) (eLength c.entry) false s = none ∧
    regionOf (eRegion c.entry) s = some d ∧
    (d.settee = false ∧ d.mirrored = false ∧ d.seat = s.ident.controllerId) ∧
    eLength c.entry ≤ 4096 ∧
    poisonedLines (eRegion c.entry) (eOffset c.entry) (eLength c.entry) s = [] :=
  ⟨1, 5, queueWith (cmd (entry 1 7 128 64 0 []) false), cmd (entry 1 7 128 64 0 []) false, { seat := 1 }, withRegion { seat := 1 } (withCmd1 (cmd (entry 1 7 128 64 0 []) false) up), by decide +kernel⟩

theorem witness_MemoryCommandsRun_2 : ∃ (qid cid : Nat) (data : Bytes) (q : QueuePair) (c : GqpCmd) (d : Region) (s : State),
    queueOf qid s = some q ∧
    findCmd false cid q = some c ∧
    q.transport = 0 ∧
    eOpcode c.entry = 0x02 ∧
    (headerOk q c = true ∧ ePtrKind c.entry = 0 ∧ eCdw5 c.entry = 0 ∧ cspecZero [] c.entry = true ∧ c.inline = []) ∧
    regionStatus q.domain (eRegion c.entry) (eOffset c.entry) (eLength c.entry) true s = none ∧
    regionOf (eRegion c.entry) s = some d ∧
    (d.settee = false ∧ d.mirrored = false ∧ d.seat = s.ident.controllerId) ∧
    (eLength c.entry ≤ 4096 ∧ data.length = eLength c.entry) :=
  ⟨1, 5, [1, 2, 3, 4], queueWith (cmd (entry 2 7 130 4 0 []) false), cmd (entry 2 7 130 4 0 []) false, { seat := 1 }, withRegion { seat := 1 } (withCmd1 (cmd (entry 2 7 130 4 0 []) false) up), by decide +kernel⟩

theorem witness_MemoryCommandsRun_3 : ∃ (qid cid : Nat) (q : QueuePair) (c : GqpCmd) (d : Region) (s : State),
    queueOf qid s = some q ∧
    findCmd false cid q = some c ∧
    q.transport = 0 ∧
    eOpcode c.entry = 0x03 ∧
    (headerOk q c = true ∧ ePtrKind c.entry = 0 ∧ eCdw5 c.entry = 0 ∧ cspecZero [] c.entry = true) ∧
    regionStatus q.domain (eRegion c.entry) (eOffset c.entry) (eLength c.entry) true s = none ∧
    regionOf (eRegion c.entry) s = some d ∧
    (d.settee = false ∧ d.mirrored = false ∧ d.seat = s.ident.controllerId) ∧
    (eOffset c.entry % 2 ^ 20 = 0 ∧ eLength c.entry = 65536) :=
  ⟨1, 5, queueWith (cmd (entry 3 7 1048576 65536 0 []) false), cmd (entry 3 7 1048576 65536 0 []) false, { seat := 1 }, withRegion { seat := 1 } (withCmd1 (cmd (entry 3 7 1048576 65536 0 []) false) up), by decide +kernel⟩

theorem witness_MemoryCommandsRun_4 : ∃ (qid cid : Nat) (q : QueuePair) (c : GqpCmd) (d : Region) (s : State),
    queueOf qid s = some q ∧
    q.cmds = [c] ∧
    (c.cid = cid ∧ c.started = true ∧ c.running = false ∧ c.status = 0) ∧
    q.transport = 0 ∧
    eOpcode c.entry = 0x04 ∧
    (headerOk q c = true ∧ ePtrKind c.entry = 0 ∧ eCdw5 c.entry = eRegion c.entry ∧ eRegion c.entry ≠ 0 ∧ cspecZero [(32, 40)] c.entry = true) ∧
    regionStatus q.domain (eRegion c.entry) (eOffset c.entry) (eLength c.entry) false s = none ∧
    regionStatus q.domain (eRegion c.entry) (eArg c.entry) (eLength c.entry) true s = none ∧
    regionOf (eRegion c.entry) s = some d ∧
    (d.settee = false ∧ d.mirrored = false ∧ d.seat = s.ident.controllerId) ∧
    eLength c.entry ≤ 4096 ∧
    poisonedLines (eRegion c.entry) (eOffset c.entry) (eLength c.entry) s = [] :=
  ⟨1, 5, queueWith (cmd (entry 4 7 128 64 7 (le 8 8192)) false), cmd (entry 4 7 128 64 7 (le 8 8192)) false, { seat := 1 }, withRegion { seat := 1 } (withCmd1 (cmd (entry 4 7 128 64 7 (le 8 8192)) false) up), by decide +kernel⟩

theorem witness_MemoryCommandsRun_5 : ∃ (qid cid : Nat) (q : QueuePair) (c : GqpCmd) (d : Region) (s : State),
    queueOf qid s = some q ∧
    findCmd false cid q = some c ∧
    eOpcode c.entry = 0x07 ∧
    (headerOk q c = true ∧ ePtrKind c.entry = 0 ∧ eCdw5 c.entry = 0 ∧ cspecZero [] c.entry = true) ∧
    regionStatus q.domain (eRegion c.entry) (eOffset c.entry) (eLength c.entry) false s = none ∧
    rangeRoute (eRegion c.entry) (eOffset c.entry) (eLength c.entry) s = .here :=
  ⟨1, 5, queueWith (cmd (entry 7 7 128 64 0 []) false), cmd (entry 7 7 128 64 0 []) false, { seat := 1 }, withRegion { seat := 1 } (withCmd1 (cmd (entry 7 7 128 64 0 []) false) up), by decide +kernel⟩

theorem witness_MemoryCommandsRun_6 : ∃ (qid cid : Nat) (q : QueuePair) (c : GqpCmd) (s : State),
    queueOf qid s = some q ∧
    runningCmd qid cid s = some c ∧
    (q.transport = 0 ∧ q.deleting = none) ∧
    (eOpcode c.entry = 0x07 ∧ c.waitsPeer = false ∧ c.status = 0) ∧
    linesPending (eRegion c.entry) (eOffset c.entry) (eLength c.entry) c.ackMark s = false ∧
    ((c.waitChunks.all fun k => !chunkPending k s) = true) :=
  ⟨1, 5, queueWith (cmd (entry 7 7 128 64 0 []) true), cmd (entry 7 7 128 64 0 []) true, withRegion { seat := 1 } (withCmd1 (cmd (entry 7 7 128 64 0 []) true) up), by decide +kernel⟩

theorem witness_MemoryCommandsRun_7 : ∃ (qid cid mtag : Nat) (c : GqpCmd) (data : Bytes) (s : State),
    runningCmd qid cid s = some c ∧
    mget mtag s.pair.fwd = some (.drain qid cid) :=
  ⟨1, 5, 3, cmd (entry 7 7 128 64 0 []) true, [], withRegion { seat := 1 } { withCmd1 (cmd (entry 7 7 128 64 0 []) true) paired with pair := { paired.pair with fwd := [(3, .drain 1 5)] } }, by decide +kernel⟩

theorem witness_PersistFencesWaitAndComplete_1 : ∃ (qid cid : Nat) (q : QueuePair) (c : GqpCmd) (s : State),
    queueOf qid s = some q ∧
    findCmd false cid q = some c ∧
    eOpcode c.entry = 0x06 ∧
    (headerOk q c = true ∧ ePtrKind c.entry = 0 ∧ eCdw5 c.entry = 0 ∧ cspecZero [] c.entry = true) ∧
    (eRegion c.entry = 0 ∧ eOffset c.entry = 0 ∧ eLength c.entry = 0) :=
  ⟨1, 5, queueWith (cmd (entry 6 0 0 0 0 []) false), cmd (entry 6 0 0 0 0 []) false, withCmd1 (cmd (entry 6 0 0 0 0 []) false) up, by decide +kernel⟩

theorem witness_PersistFencesWaitAndComplete_2 : ∃ (qid cid : Nat) (f : Fence) (s : State),
    ((s.pu.fences.find? fun f => f.qid == qid && f.cid == cid) = some f) ∧
    fenceWaits f s = true :=
  ⟨1, 5, ⟨1, 5, 2, 0, 9, 0⟩, { withCmd1 (cmd (entry 6 0 0 0 0 []) true) up with pu := { fences := [⟨1, 5, 2, 0, 9, 0⟩], slots := [(3, { state := .held, unit := 0, cls := .general, src := .background, region := 7, line := 0, mask := 1, poison := false, data := 0 })] } }, by decide +kernel⟩

theorem witness_PersistFencesWaitAndComplete_3 : ∃ (qid cid : Nat) (f : Fence) (q : QueuePair) (n : Nat) (s : State),
    ((s.pu.fences.find? fun f => f.qid == qid && f.cid == cid) = some f) ∧
    fenceWaits f s = false ∧
    queueOf qid s = some q ∧
    (q.transport = 0 ∧ q.deleting = none) ∧
    ((s.pu.chest.filter (fenceRecord f)).map (·.seq)).getLast? = some n :=
  ⟨1, 5, ⟨1, 5, 2, 0, 9, 0⟩, queueWith (cmd (entry 6 0 0 0 0 []) true), 3, { withCmd1 (cmd (entry 6 0 0 0 0 []) true) up with pu := { fences := [⟨1, 5, 2, 0, 9, 0⟩], chest := [{ kind := .data, seq := 3, lastAck := 4, lines := [⟨7, ⟨0, 1, 0, false⟩⟩] }] } }, by decide +kernel⟩

theorem witness_TransformCommandsQueueAndComplete_1 : ∃ (qid cid st : Nat) (data : Bytes) (q : QueuePair) (c : GqpCmd) (s : State),
    queueOf qid s = some q ∧
    q.cmds = [c] ∧
    (c.cid = cid ∧ c.started = true ∧ c.running = false ∧ c.status = 0 ∧ c.src = [] ∧ c.bad = []) ∧
    eOpcode c.entry = 0x08 ∧
    (headerOk q c = true ∧ ePtrKind c.entry = 0 ∧ checkFields c.entry = true) ∧
    (eRegion c.entry = 0 ∧ 0 < eLength c.entry ∧ data.length = eLength c.entry) ∧
    streamOf qid s = some st ∧
    engineWorks s = true :=
  ⟨1, 5, 64, [1, 2, 3], queueWith (cmd (entry 8 0 0 3 0 []) false), cmd (entry 8 0 0 3 0 []) false, { withCmd1 (cmd (entry 8 0 0 3 0 []) false) up with te := { bound := [(1, 64)] } }, by decide +kernel⟩

theorem witness_TransformCommandsQueueAndComplete_2 : ∃ (qid cid st : Nat) (data : Bytes) (q : QueuePair) (c : GqpCmd) (s : State),
    queueOf qid s = some q ∧
    q.cmds = [c] ∧
    (c.cid = cid ∧ c.started = true ∧ c.running = false ∧ c.status = 0 ∧ c.src = [] ∧ c.bad = []) ∧
    eOpcode c.entry = 0x09 ∧
    (headerOk q c = true ∧ ePtrKind c.entry = 0 ∧ patternFields c.entry = true) ∧
    (eRegion c.entry = 0 ∧ 0 < eLength c.entry ∧ data.length = eLength c.entry) ∧
    streamOf qid s = some st ∧
    engineWorks s = true :=
  ⟨1, 5, 64, [1, 2, 3], queueWith (cmd (entry 9 0 0 3 1 ([2] ++ zeros 15 ++ [255])) false), cmd (entry 9 0 0 3 1 ([2] ++ zeros 15 ++ [255])) false, { withCmd1 (cmd (entry 9 0 0 3 1 ([2] ++ zeros 15 ++ [255])) false) up with te := { bound := [(1, 64)] } }, by decide +kernel⟩

theorem witness_TransformCommandsQueueAndComplete_3 : ∃ (qid cid st : Nat) (data : Bytes) (q : QueuePair) (c : GqpCmd) (s : State),
    queueOf qid s = some q ∧
    q.cmds = [c] ∧
    (c.cid = cid ∧ c.started = true ∧ c.running = false ∧ c.status = 0 ∧ c.src = [] ∧ c.bad = []) ∧
    eOpcode c.entry = 0x05 ∧
    (headerOk q c = true ∧ ePtrKind c.entry = 0 ∧ eCdw5 c.entry = 0 ∧ cspecZero [] c.entry = true) ∧
    (eRegion c.entry = 0 ∧ 0 < eLength c.entry ∧ data.length = eLength c.entry) ∧
    streamOf qid s = some st ∧
    engineWorks s = true :=
  ⟨1, 5, 64, [1, 2, 3], queueWith (cmd (entry 5 0 0 3 0 []) false), cmd (entry 5 0 0 3 0 []) false, { withCmd1 (cmd (entry 5 0 0 3 0 []) false) up with te := { bound := [(1, 64)] } }, by decide +kernel⟩

theorem witness_TransformCommandsQueueAndComplete_4 : ∃ (qid cid st : Nat) (data : Bytes) (q : QueuePair) (c : GqpCmd) (s : State),
    queueOf qid s = some q ∧
    q.cmds = [c] ∧
    (c.cid = cid ∧ c.started = true ∧ c.running = false ∧ c.status = 0 ∧ c.src = [] ∧ c.bad = []) ∧
    eOpcode c.entry = 0x0A ∧
    (headerOk q c = true ∧ ePtrKind c.entry = 0 ∧ eCdw5 c.entry = 0 ∧ cspecZero [(32, 48)] c.entry = true) ∧
    (commandKey true q.domain (eKeySlot c.entry) s).isSome = true ∧
    (eRegion c.entry = 0 ∧ 0 < eLength c.entry ∧ eLength c.entry ≤ 2 ^ 20 ∧ fld 44 4 c.entry ≤ eLength c.entry ∧ data.length = eLength c.entry) ∧
    streamOf qid s = some st ∧
    engineWorks s = true :=
  ⟨1, 5, 64, [1, 2, 3], queueWith (cmd (entry 10 0 0 3 0 (zeros 8 ++ [7, 0, 0, 0, 1])) false), cmd (entry 10 0 0 3 0 (zeros 8 ++ [7, 0, 0, 0, 1])) false, { withRegion { protect := .encrypted, keySlot := 7 } (withCmd1 (cmd (entry 10 0 0 3 0 (zeros 8 ++ [7, 0, 0, 0, 1])) false) up) with te := { bound := [(1, 64)] }, trust := { keys := [(7, { scope := 7, type := 0, key := zeros 32 })] } }, by decide +kernel⟩

theorem witness_TransformCommandsQueueAndComplete_5 : ∃ (qid cid st : Nat) (data : Bytes) (q : QueuePair) (c : GqpCmd) (s : State),
    queueOf qid s = some q ∧
    q.cmds = [c] ∧
    (c.cid = cid ∧ c.started = true ∧ c.running = false ∧ c.status = 0 ∧ c.src = [] ∧ c.bad = []) ∧
    eOpcode c.entry = 0x0B ∧
    (headerOk q c = true ∧ ePtrKind c.entry = 0 ∧ eCdw5 c.entry = 0 ∧ cspecZero [(32, 60)] c.entry = true) ∧
    (commandKey false q.domain (eKeySlot c.entry) s).isSome = true ∧
    (eRegion c.entry = 0 ∧ 17 ≤ eLength c.entry ∧ eLength c.entry ≤ 2 ^ 20 + 16 ∧ fld 44 4 c.entry + 16 ≤ eLength c.entry ∧ data.length = eLength c.entry) ∧
    streamOf qid s = some st ∧
    engineWorks s = true :=
  ⟨1, 5, 64, zeros 20, queueWith (cmd (entry 11 0 0 20 0 (zeros 8 ++ [7, 0, 0, 0, 1])) false), cmd (entry 11 0 0 20 0 (zeros 8 ++ [7, 0, 0, 0, 1])) false, { withRegion { protect := .encrypted, keySlot := 7 } (withCmd1 (cmd (entry 11 0 0 20 0 (zeros 8 ++ [7, 0, 0, 0, 1])) false) up) with te := { bound := [(1, 64)] }, trust := { keys := [(7, { scope := 7, type := 0, key := zeros 32 })] } }, by decide +kernel⟩

theorem witness_TransformCommandsQueueAndComplete_6 : ∃ (st : Nat) (j : TeJob) (q : QueuePair) (c : GqpCmd) (s : State),
    s.slot.cycle < 1024 ∧
    s.te.active ≠ 0 ∧
    grantedStream s.slot.cycle s = some st ∧
    0x40 ≤ st ∧
    jobsOf st s = [j] ∧
    queueOf j.qid s = some q ∧
    runningCmd j.qid j.cid s = some c ∧
    (q.transport = 0 ∧ q.deleting = none) ∧
    (eOpcode c.entry = 0x09 ∨ (eOpcode c.entry = 0x05 ∧ j.data = j.second)) ∧
    (j.todo ≤ cycleWidth s ∧ 0 < j.todo ∧ j.aad ≤ 32 ∧ j.bad = [] ∧ j.bad2 = []) :=
  ⟨64, { qid := 1, cid := 5, todo := 3, data := [1, 2, 3] }, queueWith (cmd (entry 9 0 0 3 1 ([2] ++ zeros 15 ++ [255])) true), cmd (entry 9 0 0 3 1 ([2] ++ zeros 15 ++ [255])) true, { withCmd1 (cmd (entry 9 0 0 3 1 ([2] ++ zeros 15 ++ [255])) true) up with te := { jobs := [(64, [{ qid := 1, cid := 5, todo := 3, data := [1, 2, 3] }])] }, slot := { copyA := [(0, 0x8040)] } }, by decide +kernel⟩

theorem witness_TransformCommandsQueueAndComplete_7 : ∃ (s : State),
    s.te.active = 0 :=
  ⟨{ up with te := { active := 0 } }, by decide +kernel⟩

theorem witness_TransformCommandsQueueAndComplete_8 : ∃ (stream : Nat) (s : State),
    1024 ≤ mgetD 0 stream s.slot.backlog ∧
    s.slot.backlogReported.contains stream = false ∧
    eventRoom s = true :=
  ⟨64, { up with slot := { backlog := [(64, 1024)] } }, by decide +kernel⟩

theorem witness_EngineSlicesAndNonceWindows_1 : ∃ (slice : Nat) (s : State),
    slice < 17 ∧
    s.te.active.getLsbD slice = true ∧
    (s.te.active &&& ~~~ BitVec.ofNat 17 (2 ^ slice)) ≠ 0 :=
  ⟨2, up, by decide +kernel⟩

theorem witness_EngineSlicesAndNonceWindows_2 : ∃ (slice : Nat) (s : State),
    slice < 17 ∧
    s.te.active = BitVec.ofNat 17 (2 ^ slice) ∧
    s.te.spare = none ∧
    s.te.jobs = [] ∧
    eventRoom s = true :=
  ⟨2, { up with te := { active := 4, spare := none } }, by decide +kernel⟩

theorem witness_EngineSlicesAndNonceWindows_3 : ∃ (l : SliceLoss) (sp : Nat) (s : State),
    s.te.losses = [l] ∧
    l.beat < s.tb.beat ∧
    s.te.spare = some sp ∧
    s.ev.queue.length < 1000 :=
  ⟨⟨2, 4⟩, 16, { up with tb := { beat := 5 }, te := { losses := [⟨2, 4⟩] } }, by decide +kernel⟩

theorem witness_EngineSlicesAndNonceWindows_4 : ∃ (l : SliceLoss) (s : State),
    s.te.losses = [l] ∧
    l.beat < s.tb.beat ∧
    s.te.spare = none ∧
    s.ev.queue.length < 1000 :=
  ⟨⟨2, 4⟩, { up with tb := { beat := 5 }, te := { losses := [⟨2, 4⟩], spare := none } }, by decide +kernel⟩

theorem witness_EngineSlicesAndNonceWindows_5 : ∃ (window : Nat) (s : State),
    ((s.te.window = none ∧ window = 0) ∨ (s.te.window = some (window - 1) ∧ 0 < window ∧ (window - 1) * 2 ^ 32 + 3 * 2 ^ 30 ≤ s.te.nonce)) ∧
    windowLogFree s = true ∧
    s.te.waitFrom = none ∧
    eventRoom s = true :=
  ⟨0, up, by decide +kernel⟩

theorem witness_EngineSlicesAndNonceWindows_6 : ∃ (window : Nat) (s : State),
    s.te.window = none ∧
    window ≠ 0 :=
  ⟨3, up, by decide +kernel⟩

theorem witness_CapsulesTransfersAndNotices_1 : ∃ (qp psn : Nat) (capsule : Bytes) (e : Nat × QueuePair) (q : Qp) (s : State),
    qpAt qp s = some q ∧
    qpTakes q { qp := qp, psn := psn, packets := 1, rkey := 0, va := 0, ecn := false } = true ∧
    q.attr.service = 1 ∧
    ((s.gqp.pairs.find? fun e => e.2.transport == 1 && e.2.qpn == qpnOf qp) = some e) ∧
    e.2.ring.length + 1 < e.2.depth ∧
    queueOf e.1 s = some e.2 ∧
    (fld 0 1 capsule = 1 ∧ 64 ≤ fld 4 4 capsule ∧ capsule.length = 8 + fld 4 4 capsule) :=
  ⟨3, 9, [1, 0, 0, 0, 64, 0, 0, 0] ++ zeros 64, (2, { transport := 1, qpn := 0x10003 }), { state := .rts, attr := { service := 1 }, ePsn := 9 }, { up with net := { qps := [(3, { state := .rts, attr := { service := 1 }, ePsn := 9 })] }, gqp := { pairs := [(2, { transport := 1, qpn := 0x10003 })] } }, by decide +kernel⟩

theorem witness_CapsulesTransfersAndNotices_2 : ∃ (qid cid : Nat) (q : QueuePair) (c : GqpCmd) (p : Piece) (u : WUnit) (x : Qp) (s : State),
    queueOf qid s = some q ∧
    runningCmd qid cid s = some c ∧
    (qpAt (q.qpn - 0x10000) s = some x ∧ capsuleReady x = true) ∧
    (q.transport = 1 ∧ eOpcode c.entry = 0x02 ∧ ePtrKind c.entry = 0) ∧
    c.pieces = [p] ∧
    p.state = .staged ∧
    plainHere (eRegion c.entry) s = true ∧
    reservedPiece qid cid p.index s = some u ∧
    s.gqp.transfers = [] :=
  ⟨1, 5, { transport := 1, cmds := [{ cmd (entry 2 7 0 64 0 []) true with pieces := [⟨0, 0, 64, .staged⟩] }] }, { cmd (entry 2 7 0 64 0 []) true with pieces := [⟨0, 0, 64, .staged⟩] }, ⟨0, 0, 64, .staged⟩, { id := 4, src := .gqp 1 5 0, region := 7, phase := .reserved }, { state := .rts }, withRegion { seat := 1 } { up with net := { qps := [(0, { state := .rts })] }, pu := { units := [{ id := 4, src := .gqp 1 5 0, region := 7, phase := .reserved }] }, gqp := { pairs := [(1, { transport := 1, cmds := [{ cmd (entry 2 7 0 64 0 []) true with pieces := [⟨0, 0, 64, .staged⟩] }] })] } }, by decide +kernel⟩

theorem witness_CapsulesTransfersAndNotices_3 : ∃ (qp key imm : Nat) (data : Bytes) (x : Qp) (q : QueuePair) (c : GqpCmd) (p : Piece) (tr : TransferReady) (u : WUnit) (s : State),
    qpAt qp s = some x ∧
    qpTakes x { qp := qp, psn := x.ePsn, packets := 1, rkey := 0, va := 0, ecn := false } = true ∧
    x.attr.service = 1 ∧
    s.gqp.transfers = [(imm, tr)] ∧
    tr.key = key ∧
    queueOf tr.qid s = some q ∧
    (q.transport = 1 ∧ q.qpn = qpnOf qp) ∧
    q.cmds = [c] ∧
    (c.cid = tr.cid ∧ c.started = true ∧ c.running = true) ∧
    c.pieces = [p] ∧
    (p.index = tr.piece ∧ p.len = data.length ∧ 0 < data.length) ∧
    s.pu.units = [u] ∧
    (u.src = .gqp tr.qid tr.cid p.index ∧ u.phase = .reserved ∧ u.cls = .general ∧ u.slots = []) ∧
    plainHere u.region s = true :=
  ⟨3, 77, 0, [1, 2], { state := .rts, attr := { service := 1, pmtu := 5 } }, { transport := 1, qpn := 0x10003, cmds := [{ cmd (entry 2 7 0 2 0 []) true with pieces := [⟨0, 0, 2, .ready 0⟩] }] }, { cmd (entry 2 7 0 2 0 []) true with pieces := [⟨0, 0, 2, .ready 0⟩] }, ⟨0, 0, 2, .ready 0⟩, ⟨77, 1, 5, 0, 0⟩, { id := 4, src := .gqp 1 5 0, region := 7, phase := .reserved }, withRegion { seat := 1 } { up with net := { qps := [(3, { state := .rts, attr := { service := 1, pmtu := 5 } })] }, pu := { units := [{ id := 4, src := .gqp 1 5 0, region := 7, phase := .reserved }] }, gqp := { transfers := [(0, ⟨77, 1, 5, 0, 0⟩)], pairs := [(1, { transport := 1, qpn := 0x10003, cmds := [{ cmd (entry 2 7 0 2 0 []) true with pieces := [⟨0, 0, 2, .ready 0⟩] }] })] } }, by decide +kernel⟩

theorem witness_CapsulesTransfersAndNotices_4 : ∃ (tag : Nat) (tr : TransferReady) (s : State),
    mget tag s.gqp.transfers = some tr ∧
    tr.beat + 2097152 ≤ s.tb.beat ∧
    runningCmd tr.qid tr.cid s = none ∧
    eventRoom s = true :=
  ⟨4, ⟨77, 1, 5, 0, 0⟩, { up with tb := { beat := 2097152 }, gqp := { transfers := [(4, ⟨77, 1, 5, 0, 0⟩)] } }, by decide +kernel⟩

theorem witness_CapsulesTransfersAndNotices_5 : ∃ (qid : Nat) (q : QueuePair) (b : Bytes) (rest : List Bytes) (s : State),
    queueOf qid s = some q ∧
    q.notices = b :: rest ∧
    (q.transport = 0 ∧ q.stopped = false) ∧
    q.cmds.length + q.unread + 1 < q.cqDepth :=
  ⟨1, { notices := [[1]] }, [1], [], { up with gqp := { pairs := [(1, { notices := [[1]] })] } }, by decide +kernel⟩

theorem witness_CapsulesTransfersAndNotices_6 : ∃ (qid : Nat) (q : QueuePair) (b : Bytes) (rest : List Bytes) (x : Qp) (s : State),
    queueOf qid s = some q ∧
    q.notices = b :: rest ∧
    (q.transport = 1 ∧ 0x10000 ≤ q.qpn) ∧
    (qpAt (q.qpn - 0x10000) s = some x ∧ capsuleReady x = true) :=
  ⟨1, { transport := 1, qpn := 0x10003, notices := [zeros 16] }, zeros 16, [], { state := .rts, credit := some 1 }, { up with net := { qps := [(3, { state := .rts, credit := some 1 })] }, gqp := { pairs := [(1, { transport := 1, qpn := 0x10003, notices := [zeros 16] })] } }, by decide +kernel⟩

theorem witness_CapsulesTransfersAndNotices_7 : ∃ (qid : Nat) (q : QueuePair) (x : Qp) (s : State),
    queueOf qid s = some q ∧
    (q.transport = 1 ∧ q.notices ≠ []) ∧
    (qpAt (q.qpn - 0x10000) s = some x ∧ creditFree x = false) :=
  ⟨1, { transport := 1, qpn := 0x10003, notices := [zeros 16] }, { state := .rts, credit := some 0 }, { up with net := { qps := [(3, { state := .rts, credit := some 0 })] }, gqp := { pairs := [(1, { transport := 1, qpn := 0x10003, notices := [zeros 16] })] } }, by decide +kernel⟩

theorem witness_CapsulesTransfersAndNotices_8 : ∃ (qid : Nat) (q : QueuePair) (s : State),
    queueOf qid s = some q ∧
    0 < q.unsignalled ∧
    q.firstUnsignalled + max 1 q.aggBeats ≤ s.tb.beat :=
  ⟨1, { unsignalled := 2 }, { up with tb := { beat := 9 }, gqp := { pairs := [(1, { unsignalled := 2 })] } }, by decide +kernel⟩

theorem witness_CapsulesTransfersAndNotices_9 : ∃ (qid cid kind address : Nat) (q : QueuePair) (s : State),
    queueOf qid s = some q ∧
    q.transport = 0 ∧
    kind < 2 ∧
    eventRoom s = true :=
  ⟨0, 0, 1, 4096, {}, { up with gqp := { pairs := [(0, {})] } }, by decide +kernel⟩

theorem witness_CapsulesTransfersAndNotices_10 : ∃ (qid cid kind address : Nat) (q : QueuePair) (c : GqpCmd) (s : State),
    queueOf qid s = some q ∧
    (q.transport = 0 ∧ q.deleting = none) ∧
    2 ≤ kind ∧
    findCmd false cid q = some c ∧
    eventRoom s = true :=
  ⟨1, 5, 2, 4096, queueWith (cmd (entry 1 7 0 64 0 []) false), cmd (entry 1 7 0 64 0 []) false, withCmd1 (cmd (entry 1 7 0 64 0 []) false) up, by decide +kernel⟩

theorem witness_CapsulesTransfersAndNotices_11 : ∃ (cid : Nat) (input : Bytes) (q : QueuePair) (c : GqpCmd) (s : State),
    queueOf 0 s = some q ∧
    findCmd false cid q = some c ∧
    q.transport = 0 ∧
    eOpcode c.entry = 0x7F ∧
    (headerOk q c = true ∧ eRegion c.entry = 0 ∧ eOffset c.entry = 0 ∧ cspecZero [(32, 44)] c.entry = true ∧ fld 40 4 c.entry ≤ 65536) ∧
    (eCdw5 c.entry = 0x0300 ∧ eLength c.entry = 0 ∧ ePtrKind c.entry = 0) ∧
    bcsOpen (.admin cid) 0x0300 s = true :=
  ⟨5, [], queueWith (cmd (entry 0x7F 0 0 0 0x0300 (zeros 8 ++ [8])) false), cmd (entry 0x7F 0 0 0 0x0300 (zeros 8 ++ [8])) false, { up with gqp := { pairs := [(0, queueWith (cmd (entry 0x7F 0 0 0 0x0300 (zeros 8 ++ [8])) false))] } }, by decide +kernel⟩

theorem witness_QpAndQueuePairCommands_1 : ∃ (path : BcsPath) (input : Bytes) (s : State),
    bcsOpen path 0xC0A0 s = true ∧
    input.length = 128 ∧
    firstBad (attrChecks 0 input (attrOf input) s) = none ∧
    s.net.qps = [] :=
  ⟨.sideband, zeros 16 ++ [1] ++ zeros 7 ++ [1, 1] ++ zeros 6 ++ [0, 0xC0] ++ zeros 94, { up with net := { ports := [(0, {})] } }, by decide +kernel⟩

theorem witness_QpAndQueuePairCommands_2 : ∃ (path : BcsPath) (input : Bytes) (q : Qp) (s : State),
    bcsOpen path 0xC0A1 s = true ∧
    input.length = 136 ∧
    qpOf (fld 0 4 input) s = some q ∧
    q.state = .reset ∧
    fld 4 1 input = 1 ∧
    zeroAt 5 3 input = true ∧
    firstBad (attrChecks 8 (input.drop 8) (attrOf (input.drop 8)) s) = none ∧
    q.attr = attrOf (input.drop 8) :=
  ⟨.sideband, [0, 0, 1, 0, 1, 0, 0, 0] ++ zeros 16 ++ [1] ++ zeros 7 ++ [1, 1] ++ zeros 6 ++ [0, 0xC0] ++ zeros 94, { attr := attrOf (zeros 16 ++ [1] ++ zeros 7 ++ [1, 1] ++ zeros 6 ++ [0, 0xC0] ++ zeros 94) }, { up with net := { ports := [(0, {})], qps := [(0, { attr := attrOf (zeros 16 ++ [1] ++ zeros 7 ++ [1, 1] ++ zeros 6 ++ [0, 0xC0] ++ zeros 94) })] } }, by decide +kernel⟩

theorem witness_QpAndQueuePairCommands_3 : ∃ (path : BcsPath) (input : Bytes) (q : Qp) (s : State),
    bcsOpen path 0xC0A2 s = true ∧
    input.length = 4 ∧
    qpOf (fld 0 4 input) s = some q :=
  ⟨.sideband, [0, 0, 1, 0], {}, { up with net := { qps := [(0, {})] } }, by decide +kernel⟩

theorem witness_QpAndQueuePairCommands_4 : ∃ (path : BcsPath) (input : Bytes) (q : Qp) (s : State),
    bcsOpen path 0xC0A3 s = true ∧
    input.length = 4 ∧
    qpOf (fld 0 4 input) s = some q ∧
    (q.state = .reset ∨ q.state = .err) :=
  ⟨.sideband, [0, 0, 1, 0], {}, { up with net := { qps := [(0, {})] } }, by decide +kernel⟩

theorem witness_QpAndQueuePairCommands_5 : ∃ (path : BcsPath) (input : Bytes) (s : State),
    bcsOpen path 0xC0B0 s = true ∧
    input.length = 48 ∧
    (1 ≤ fld 0 2 input ∧ fld 0 2 input < 16384) ∧
    queueOf (fld 0 2 input) s = none ∧
    (fld 2 1 input = 0 ∧ fld 3 1 input < 4 ∧ headExists (fld 5 1 input) s = true ∧ fld 6 2 input % 2 = 0) ∧
    (2 ≤ fld 8 4 input ∧ fld 8 4 input ≤ 65536 ∧ fld 12 2 input < 2048) ∧
    (fld 15 1 input = 0 ∧ fld 18 2 input = 0 ∧ fld 20 4 input = 0 ∧ fld 24 4 input = 0 ∧ fld 28 4 input = 0) ∧
    (fld 32 8 input % 4096 = 0 ∧ fld 40 8 input % 4096 = 0) ∧
    eventRoom s = true :=
  ⟨.sideband, [1, 0, 0, 0, 0, 0, 0, 0, 64] ++ zeros 39, up, by decide +kernel⟩

theorem witness_QpAndQueuePairCommands_6 : ∃ (path : BcsPath) (input : Bytes) (q : QueuePair) (s : State),
    bcsOpen path 0xC0B1 s = true ∧
    input.length = 2 ∧
    queueOf (fld 0 2 input) s = some q ∧
    fld 0 2 input ≠ 0 ∧
    (q.deleting = none ∧ q.cmds = []) ∧
    bgFree path 0xC0B1 s = true ∧
    eventRoom s = true :=
  ⟨.sideband, [1, 0], {}, { up with gqp := { pairs := [(1, {})] } }, by decide +kernel⟩

theorem witness_QpAndQueuePairCommands_7 : ∃ (path : BcsPath) (input : Bytes) (q : QueuePair) (s : State),
    bcsOpen path 0xC0B2 s = true ∧
    input.length = 2 ∧
    queueOf (fld 0 2 input) s = some q :=
  ⟨.sideband, [1, 0], {}, { up with gqp := { pairs := [(1, {})] } }, by decide +kernel⟩

theorem witness_QpAndQueuePairCommands_8 : ∃ (path : BcsPath) (input : Bytes) (p : EthPort) (s : State),
    bcsOpen path 0xC0A4 s = true ∧
    input.length = 20 ∧
    mget (fld 0 1 input) s.net.ports = some p ∧
    p.instrument = false ∧
    fld 1 1 input < 16 ∧
    zeroAt 2 2 input = true ∧
    allZero (slice 4 16 input) = false :=
  ⟨.sideband, [0, 1, 0, 0, 9] ++ zeros 15, {}, { up with net := { ports := [(0, {})] } }, by decide +kernel⟩

theorem witness_QpAndQueuePairCommands_9 : ∃ (path : BcsPath) (input : Bytes) (p : EthPort) (s : State),
    bcsOpen path 0xC0A5 s = true ∧
    input.length = 1 ∧
    mget (fld 0 1 input) s.net.ports = some p :=
  ⟨.sideband, [0], {}, { up with net := { ports := [(0, {})] } }, by decide +kernel⟩

theorem witness_QpAndQueuePairCommands_10 : ∃ (path : BcsPath) (input : Bytes) (s : State),
    bcsOpen path 0xC0A6 s = true ∧
    input.length = 12 ∧
    fld 0 2 input < 1024 ∧
    fld 2 1 input = 1 ∧
    zeroAt 3 5 input = true :=
  ⟨.sideband, [5, 0, 1, 0, 0, 0, 0, 0, 9, 0, 0, 0], up, by decide +kernel⟩

theorem witness_RequestsAtAResponderQp_1 : ∃ (req : RdmaReq) (data : Bytes) (q : Qp) (k : KeyHit) (s : State),
    qpAt req.qp s = some q ∧
    (qpTakes q req = true ∧ q.attr.service = 0) ∧
    (0 < data.length ∧ data.length ≤ 4096) ∧
    keyCheck q req.rkey [1] req.va data.length true s = some k ∧
    plainHere k.region s = true ∧
    admitsLast (submitWrite (.rdma req.qp req.psn 0) k.region k.off data [] s) = true :=
  ⟨⟨3, 9, 1, 0x5000, 64, false⟩, [1, 2], { state := .rts, attr := { pmtu := 5 }, ePsn := 9 }, ⟨5, 7, 64⟩, withRegion { seat := 1 } { up with net := { qps := [(3, { state := .rts, attr := { pmtu := 5 }, ePsn := 9 })] }, trust := { memKeys := [(5, ⟨16, 0, 7, 0, 31, false⟩)] } }, by decide +kernel⟩

theorem witness_RequestsAtAResponderQp_2 : ∃ (req : RdmaReq) (data : Bytes) (imm : Nat) (q : Qp) (k : KeyHit) (s : State),
    qpAt req.qp s = some q ∧
    (qpTakes q req = true ∧ q.attr.service = 0 ∧ cplFree q ≠ 0) ∧
    (0 < data.length ∧ data.length ≤ 4096) ∧
    keyCheck q req.rkey [1] req.va data.length true s = some k ∧
    plainHere k.region s = true ∧
    admitsLast (submitWrite (.rdma req.qp req.psn 0) k.region k.off data [] s) = true :=
  ⟨⟨3, 9, 1, 0x5000, 64, false⟩, [1, 2], 99, { state := .rts, attr := { pmtu := 5, recvRing := ⟨7, 0, 8, 4⟩, cplRing := ⟨7, 8192, 0, 4⟩ }, ePsn := 9 }, ⟨5, 7, 64⟩, withRegion { seat := 1 } { up with net := { qps := [(3, { state := .rts, attr := { pmtu := 5, recvRing := ⟨7, 0, 8, 4⟩, cplRing := ⟨7, 8192, 0, 4⟩ }, ePsn := 9 })] }, trust := { memKeys := [(5, ⟨16, 0, 7, 0, 31, false⟩)] } }, by decide +kernel⟩

theorem witness_RequestsAtAResponderQp_3 : ∃ (req : RdmaReq) (data : Bytes) (q : Qp) (s : State),
    qpAt req.qp s = some q ∧
    (qpTakes q req = true ∧ q.attr.service = 0 ∧ cplFree q ≠ 0 ∧ slotsFree q ≠ 0) ∧
    (0 < data.length ∧ data.length ≤ 2 ^ q.attr.recvRing.logSize ∧ data.length ≤ 4096) ∧
    plainHere q.attr.recvRing.region s = true ∧
    admitsLast (submitWrite (.rdma req.qp req.psn 0) q.attr.recvRing.region (q.attr.recvRing.offset + q.recvNext * 2 ^ q.attr.recvRing.logSize) data [] s) = true :=
  ⟨⟨3, 9, 1, 0, 0, false⟩, [1, 2], { state := .rts, attr := { pmtu := 5, recvRing := ⟨7, 0, 8, 4⟩, cplRing := ⟨7, 8192, 0, 4⟩ }, ePsn := 9 }, withRegion { seat := 1 } { up with net := { qps := [(3, { state := .rts, attr := { pmtu := 5, recvRing := ⟨7, 0, 8, 4⟩, cplRing := ⟨7, 8192, 0, 4⟩ }, ePsn := 9 })] } }, by decide +kernel⟩

theorem witness_RequestsAtAResponderQp_4 : ∃ (req : RdmaReq) (data : Bytes) (imm : Nat) (q : Qp) (s : State),
    qpAt req.qp s = some q ∧
    (qpTakes q req = true ∧ q.attr.service = 0 ∧ cplFree q ≠ 0 ∧ slotsFree q ≠ 0) ∧
    (0 < data.length ∧ data.length ≤ 2 ^ q.attr.recvRing.logSize ∧ data.length ≤ 4096) ∧
    plainHere q.attr.recvRing.region s = true ∧
    admitsLast (submitWrite (.rdma req.qp req.psn 0) q.attr.recvRing.region (q.attr.recvRing.offset + q.recvNext * 2 ^ q.attr.recvRing.logSize) data [] s) = true :=
  ⟨⟨3, 9, 1, 0, 0, false⟩, [1, 2], 99, { state := .rts, attr := { pmtu := 5, recvRing := ⟨7, 0, 8, 4⟩, cplRing := ⟨7, 8192, 0, 4⟩ }, ePsn := 9 }, withRegion { seat := 1 } { up with net := { qps := [(3, { state := .rts, attr := { pmtu := 5, recvRing := ⟨7, 0, 8, 4⟩, cplRing := ⟨7, 8192, 0, 4⟩ }, ePsn := 9 })] } }, by decide +kernel⟩

theorem witness_RequestsAtAResponderQp_5 : ∃ (req : RdmaReq) (len : Nat) (q : Qp) (k : KeyHit) (s : State),
    qpAt req.qp s = some q ∧
    (qpTakes q req = true ∧ q.attr.service = 0) ∧
    (0 < len ∧ len ≤ 4096) ∧
    keyCheck q req.rkey [0] req.va len false s = some k ∧
    plainHere k.region s = true ∧
    poisonedLines k.region k.off len s = [] :=
  ⟨⟨3, 9, 1, 0x5000, 64, false⟩, 64, { state := .rts, attr := { pmtu := 5 }, ePsn := 9 }, ⟨5, 7, 64⟩, withRegion { seat := 1 } { up with net := { qps := [(3, { state := .rts, attr := { pmtu := 5 }, ePsn := 9 })] }, trust := { memKeys := [(5, ⟨16, 0, 7, 0, 31, false⟩)] } }, by decide +kernel⟩

theorem witness_RequestsAtAResponderQp_6 : ∃ (req : RdmaReq) (a b : BitVec 64) (q : Qp) (k : KeyHit) (l : LineRead) (s : State),
    qpAt req.qp s = some q ∧
    (qpTakes q req = true ∧ q.attr.service = 0) ∧
    req.va % 8 = 0 ∧
    keyCheck q req.rkey [2] req.va 8 true s = some k ∧
    k.off % 8 = 0 ∧
    plainHere k.region s = true ∧
    pendingLine k.region (k.off / 64) s = some l ∧
    (l.poison = false ∧ wordAt l.data (k.off % 64) ≠ a) :=
  ⟨⟨3, 9, 1, 0x5000, 64, false⟩, 5, 6, { state := .rts, attr := { pmtu := 5 }, ePsn := 9 }, ⟨5, 7, 64⟩, ⟨0, false⟩, withRegion { seat := 1 } { up with net := { qps := [(3, { state := .rts, attr := { pmtu := 5 }, ePsn := 9 })] }, trust := { memKeys := [(5, ⟨16, 0, 7, 0, 31, false⟩)] } }, by decide +kernel⟩

theorem witness_RequestsAtAResponderQp_7 : ∃ (req : RdmaReq) (a b : BitVec 64) (q : Qp) (k : KeyHit) (l : LineRead) (s : State),
    qpAt req.qp s = some q ∧
    (qpTakes q req = true ∧ q.attr.service = 0) ∧
    req.va % 8 = 0 ∧
    keyCheck q req.rkey [2] req.va 8 true s = some k ∧
    k.off % 8 = 0 ∧
    plainHere k.region s = true ∧
    pendingLine k.region (k.off / 64) s = some l ∧
    (l.poison = false ∧ wordAt l.data (k.off % 64) = a) ∧
    admitsLast (submitWrite (.rdma req.qp req.psn 0) k.region k.off (le 8 b.toNat) [] s) = true :=
  ⟨⟨3, 9, 1, 0x5000, 64, false⟩, 0, 6, { state := .rts, attr := { pmtu := 5 }, ePsn := 9 }, ⟨5, 7, 64⟩, ⟨0, false⟩, withRegion { seat := 1 } { up with net := { qps := [(3, { state := .rts, attr := { pmtu := 5 }, ePsn := 9 })] }, trust := { memKeys := [(5, ⟨16, 0, 7, 0, 31, false⟩)] } }, by decide +kernel⟩

theorem witness_RequestsAtAResponderQp_8 : ∃ (req : RdmaReq) (a : BitVec 64) (q : Qp) (k : KeyHit) (l : LineRead) (s : State),
    qpAt req.qp s = some q ∧
    (qpTakes q req = true ∧ q.attr.service = 0) ∧
    req.va % 8 = 0 ∧
    keyCheck q req.rkey [2] req.va 8 true s = some k ∧
    k.off % 8 = 0 ∧
    plainHere k.region s = true ∧
    pendingLine k.region (k.off / 64) s = some l ∧
    l.poison = false ∧
    admitsLast (submitWrite (.rdma req.qp req.psn 0) k.region k.off (le 8 (wordAt l.data (k.off % 64) + a).toNat) [] s) = true :=
  ⟨⟨3, 9, 1, 0x5000, 64, false⟩, 6, { state := .rts, attr := { pmtu := 5 }, ePsn := 9 }, ⟨5, 7, 64⟩, ⟨0, false⟩, withRegion { seat := 1 } { up with net := { qps := [(3, { state := .rts, attr := { pmtu := 5 }, ePsn := 9 })] }, trust := { memKeys := [(5, ⟨16, 0, 7, 0, 31, false⟩)] } }, by decide +kernel⟩

theorem witness_RequestsAtAResponderQp_9 : ∃ (req : RdmaReq) (v : BitVec 64) (q : Qp) (k : KeyHit) (l : LineRead) (s : State),
    qpAt req.qp s = some q ∧
    (qpTakes q req = true ∧ q.attr.service = 0) ∧
    req.va % 8 = 0 ∧
    keyCheck q req.rkey [2] req.va 8 true s = some k ∧
    k.off % 8 = 0 ∧
    plainHere k.region s = true ∧
    pendingLine k.region (k.off / 64) s = some l ∧
    admitsLast (submitWrite (.rdma req.qp req.psn 0) k.region k.off (le 8 v.toNat) [] s) = true :=
  ⟨⟨3, 9, 1, 0x5000, 64, false⟩, 6, { state := .rts, attr := { pmtu := 5 }, ePsn := 9 }, ⟨5, 7, 64⟩, ⟨0, false⟩, withRegion { seat := 1 } { up with net := { qps := [(3, { state := .rts, attr := { pmtu := 5 }, ePsn := 9 })] }, trust := { memKeys := [(5, ⟨16, 0, 7, 0, 31, false⟩)] } }, by decide +kernel⟩

theorem witness_RequestsAtAResponderQp_10 : ∃ (req : RdmaReq) (len : Nat) (q : Qp) (k : KeyHit) (s : State),
    qpAt req.qp s = some q ∧
    (qpTakes q req = true ∧ q.attr.service = 0) ∧
    (0 < len ∧ len ≤ 4096) ∧
    keyCheck q req.rkey [3] req.va len false s = some k ∧
    plainHere k.region s = true :=
  ⟨⟨3, 9, 1, 0x5000, 64, false⟩, 64, { state := .rts, attr := { pmtu := 5 }, ePsn := 9 }, ⟨5, 7, 64⟩, withRegion { seat := 1 } { up with net := { qps := [(3, { state := .rts, attr := { pmtu := 5 }, ePsn := 9 })] }, trust := { memKeys := [(5, ⟨16, 0, 7, 0, 31, false⟩)] } }, by decide +kernel⟩

theorem witness_RequestsAtAResponderQp_11 : ∃ (req : RdmaReq) (len : Nat) (q : Qp) (s : State),
    qpAt req.qp s = some q ∧
    (qpTakes q req = true ∧ q.attr.service = 0) ∧
    (0 < len ∧ len ≤ 2 ^ 31) ∧
    keyCheck q req.rkey [0] req.va len false s = none :=
  ⟨⟨3, 9, 1, 0x5000, 64, false⟩, 64, { state := .rts, attr := { pmtu := 5 }, ePsn := 9 }, { up with net := { qps := [(3, { state := .rts, attr := { pmtu := 5 }, ePsn := 9 })] } }, by decide +kernel⟩

theorem witness_TheRequesterSideOfAQp_1 : ∃ (qp : Nat) (q : Qp) (w : SentWr) (s : State),
    qpAt qp s = some q ∧
    (q.state = .rts ∧ q.sends = [w] ∧ w.sent = false ∧ w.readable = true ∧ q.rnrUntil = none ∧ rdOutstanding q = 0) ∧
    (wrOp w.bytes = 1 ∧ fld 16 4 w.bytes = 0 ∧ w.capsule = none) :=
  ⟨3, { state := .rts, sends := [{ bytes := [1] ++ zeros 63 }] }, { bytes := [1] ++ zeros 63 }, { up with net := { qps := [(3, { state := .rts, sends := [{ bytes := [1] ++ zeros 63 }] })] } }, by decide +kernel⟩

theorem witness_TheRequesterSideOfAQp_2 : ∃ (qp kind : Nat) (q : Qp) (w : SentWr) (s : State),
    qpAt qp s = some q ∧
    (q.state = .rts ∧ q.sends = [w] ∧ w.sent = false ∧ w.capsule = some kind ∧ q.rnrUntil = none ∧ q.credit ≠ some 0) :=
  ⟨3, 5, { state := .rts, sends := [{ bytes := zeros 24, capsule := some 5 }] }, { bytes := zeros 24, capsule := some 5 }, { up with net := { qps := [(3, { state := .rts, sends := [{ bytes := zeros 24, capsule := some 5 }] })] } }, by decide +kernel⟩

theorem witness_TheRequesterSideOfAQp_3 : ∃ (qp psn credits : Nat) (q : Qp) (w : SentWr) (s : State),
    qpAt qp s = some q ∧
    (q.state = .rts ∧ q.sends = [w] ∧ w.sent = true ∧ psnAtMost (wrLast w) psn = true) ∧
    (wrOp w.bytes = 1 ∧ fld 1 1 w.bytes = 0) :=
  ⟨3, 9, 4, { state := .rts, sends := [{ bytes := [1] ++ zeros 63, sent := true, psn := 9, packets := 1 }] }, { bytes := [1] ++ zeros 63, sent := true, psn := 9, packets := 1 }, { up with net := { qps := [(3, { state := .rts, sends := [{ bytes := [1] ++ zeros 63, sent := true, psn := 9, packets := 1 }] })] } }, by decide +kernel⟩

theorem witness_TheRequesterSideOfAQp_4 : ∃ (qp psn : Nat) (q : Qp) (w : SentWr) (s : State),
    qpAt qp s = some q ∧
    (q.state = .rts ∧ q.sends = [w] ∧ w.sent = true ∧ w.ackd = false ∧ psnAtMost psn (wrLast w) = true) :=
  ⟨3, 9, { state := .rts, sends := [{ bytes := [1] ++ zeros 63, sent := true, psn := 9, packets := 1 }] }, { bytes := [1] ++ zeros 63, sent := true, psn := 9, packets := 1 }, { up with net := { qps := [(3, { state := .rts, sends := [{ bytes := [1] ++ zeros 63, sent := true, psn := 9, packets := 1 }] })] } }, by decide +kernel⟩

theorem witness_TheRequesterSideOfAQp_5 : ∃ (qp psn syndrome : Nat) (q : Qp) (s : State),
    qpAt qp s = some q ∧
    (q.state = .rts ∧ q.sends = []) ∧
    syndrome ≠ 0x60 ∧
    eventRoom s = true ∧
    ((s.gqp.pairs.filter fun e => e.2.transport == 1 && e.2.qpn == qpnOf qp) = []) :=
  ⟨3, 9, 0x62, { state := .rts }, { up with net := { qps := [(3, { state := .rts })] } }, by decide +kernel⟩

theorem witness_TheRequesterSideOfAQp_6 : ∃ (qp psn timer : Nat) (q : Qp) (w : SentWr) (s : State),
    qpAt qp s = some q ∧
    (q.state = .rts ∧ q.sends = [w] ∧ w.sent = true ∧ w.ackd = false) ∧
    (psnAtMost w.psn psn = true ∧ psnAtMost psn (wrLast w) = true) ∧
    (q.attr.rnrRetry = 7 ∨ w.rnrRetries < q.attr.rnrRetry) :=
  ⟨3, 9, 5, { state := .rts, attr := { rnrRetry := 7 }, sends := [{ bytes := [1] ++ zeros 63, sent := true, psn := 9, packets := 1 }] }, { bytes := [1] ++ zeros 63, sent := true, psn := 9, packets := 1 }, { up with net := { qps := [(3, { state := .rts, attr := { rnrRetry := 7 }, sends := [{ bytes := [1] ++ zeros 63, sent := true, psn := 9, packets := 1 }] })] } }, by decide +kernel⟩

theorem witness_TheRequesterSideOfAQp_7 : ∃ (qp b : Nat) (q : Qp) (s : State),
    qpAt qp s = some q ∧
    q.rnrUntil = some b ∧
    b ≤ s.tb.beat :=
  ⟨3, 4, { rnrUntil := some 4 }, { up with tb := { beat := 5 }, net := { qps := [(3, { rnrUntil := some 4 })] } }, by decide +kernel⟩

theorem witness_TheRequesterSideOfAQp_8 : ∃ (qp psn : Nat) (data : Bytes) (q : Qp) (w : SentWr) (s : State),
    qpAt qp s = some q ∧
    q.sends = [w] ∧
    (w.sent = true ∧ w.psn = psn ∧ w.ackd = false ∧ w.capsule = none ∧ wrOp w.bytes = 5) ∧
    (0 < data.length ∧ data.length ≤ fld 16 4 w.bytes) ∧
    plainHere (fld 2 2 w.bytes) s = true :=
  ⟨3, 9, [1, 2], { state := .rts, sends := [{ bytes := [5, 0, 7] ++ zeros 13 ++ [2] ++ zeros 47, sent := true, psn := 9, packets := 1 }] }, { bytes := [5, 0, 7] ++ zeros 13 ++ [2] ++ zeros 47, sent := true, psn := 9, packets := 1 }, withRegion { seat := 1 } { up with net := { qps := [(3, { state := .rts, sends := [{ bytes := [5, 0, 7] ++ zeros 13 ++ [2] ++ zeros 47, sent := true, psn := 9, packets := 1 }] })] } }, by decide +kernel⟩

theorem witness_TheRequesterSideOfAQp_9 : ∃ (qp psn : Nat) (v : BitVec 64) (q : Qp) (w : SentWr) (s : State),
    qpAt qp s = some q ∧
    q.sends = [w] ∧
    (w.sent = true ∧ w.psn = psn ∧ w.ackd = false ∧ w.capsule = none ∧ (wrOp w.bytes = 6 ∨ wrOp w.bytes = 7)) ∧
    plainHere (fld 2 2 w.bytes) s = true :=
  ⟨3, 9, 77, { state := .rts, sends := [{ bytes := [6, 0, 7] ++ zeros 61, sent := true, psn := 9, packets := 1 }] }, { bytes := [6, 0, 7] ++ zeros 61, sent := true, psn := 9, packets := 1 }, withRegion { seat := 1 } { up with net := { qps := [(3, { state := .rts, sends := [{ bytes := [6, 0, 7] ++ zeros 61, sent := true, psn := 9, packets := 1 }] })] } }, by decide +kernel⟩

theorem witness_TheRequesterSideOfAQp_10 : ∃ (qp : Nat) (q : Qp) (s : State),
    qpAt qp s = some q ∧
    q.state = .rts :=
  ⟨3, { state := .rts }, { up with net := { qps := [(3, { state := .rts })] } }, by decide +kernel⟩

theorem witness_TheRequesterSideOfAQp_11 : ∃ (qp b : Nat) (q : Qp) (s : State),
    qpAt qp s = some q ∧
    q.lastCnpRx = some b ∧
    b + 64 ≤ s.tb.beat :=
  ⟨3, 4, { state := .rts, lastCnpRx := some 4, rateMbps := 1000 }, { up with tb := { beat := 68 }, net := { ports := [(0, { up := true, speed := 2 })], qps := [(3, { state := .rts, lastCnpRx := some 4, rateMbps := 1000 })] } }, by decide +kernel⟩

theorem witness_TheRequesterSideOfAQp_12 : ∃ (qp : Nat) (q : Qp) (w : SentWr) (s : State),
    qpAt qp s = some q ∧
    (q.state = .rts ∧ q.sends = [w] ∧ w.sent = true ∧ w.ackd = false ∧ q.attr.ackTmo ≠ 0 ∧ psnAtMost w.psn (wrLast w) = true) ∧
    w.sentBeat + ackBase q.attr.ackTmo * 2 ^ min w.retries 4 ≤ s.tb.beat ∧
    w.retries < q.attr.retryCnt :=
  ⟨3, { state := .rts, attr := { ackTmo := 1, retryCnt := 2 }, sends := [{ bytes := [1] ++ zeros 63, sent := true, psn := 9, packets := 1 }] }, { bytes := [1] ++ zeros 63, sent := true, psn := 9, packets := 1 }, { up with tb := { beat := 99 }, net := { qps := [(3, { state := .rts, attr := { ackTmo := 1, retryCnt := 2 }, sends := [{ bytes := [1] ++ zeros 63, sent := true, psn := 9, packets := 1 }] })] } }, by decide +kernel⟩

theorem witness_TheRequesterSideOfAQp_13 : ∃ (qp : Nat) (q : Qp) (s : State),
    qpAt qp s = some q ∧
    q.swapping = true ∧
    ((s.net.qps.filter fun x => x.2.onDie).length < 4096) ∧
    waitingOn q.attr.port s = [] :=
  ⟨3, { onDie := false, swapping := true }, { up with net := { qps := [(3, { onDie := false, swapping := true })] } }, by decide +kernel⟩

theorem witness_TheRequesterSideOfAQp_14 : ∃ (qp cause status : Nat) (q : Qp) (s : State),
    qpAt qp s = some q ∧
    (q.state = .rtr ∨ q.state = .rts) ∧
    eventRoom s = true :=
  ⟨3, 5, 1, { state := .rts }, { up with net := { qps := [(3, { state := .rts })] } }, by decide +kernel⟩

theorem witness_KeysTriggersPortsAndFrames_1 : ∃ (index : Nat) (r : Revocation) (k : MemKey) (s : State),
    ((s.trust.revocations.find? fun r => r.index == index) = some r) ∧
    mget index s.trust.memKeys = some k ∧
    r.boundary ≤ s.tb.beat :=
  ⟨5, ⟨5, 4, none, 0⟩, ⟨16, 0, 7, 0, 31, false⟩, { up with tb := { beat := 5 }, trust := { memKeys := [(5, ⟨16, 0, 7, 0, 31, false⟩)], revocations := [⟨5, 4, none, 0⟩] } }, by decide +kernel⟩

theorem witness_KeysTriggersPortsAndFrames_2 : ∃ (index : Nat) (r : Revocation) (k : MemKey) (s : State),
    ((s.trust.revocations.find? fun r => r.index == index) = some r) ∧
    mget index s.trust.memKeys = some k ∧
    k.revoking = true ∧
    r.boundary ≤ s.tb.beat ∧
    keyUsers index s = 0 ∧
    eventRoom s = true :=
  ⟨5, ⟨5, 4, none, 0⟩, ⟨16, 0, 7, 0, 31, true⟩, { up with tb := { beat := 5 }, trust := { memKeys := [(5, ⟨16, 0, 7, 0, 31, true⟩)], revocations := [⟨5, 4, none, 0⟩] } }, by decide +kernel⟩

theorem witness_KeysTriggersPortsAndFrames_3 : ∃ (entry : Nat) (g : Trigger) (s : State),
    mget entry s.net.triggers = some g ∧
    (g.kind = 3 ∧ g.threshold ≤ mgetD 0 g.counter s.net.counters) ∧
    ((s.net.fired.any fun f => f.entry == entry) = false) :=
  ⟨4, ⟨3, true, 1, 0, 0, 0, 0, 5, 0x10003, 0, 1⟩, { up with net := { triggers := [(4, ⟨3, true, 1, 0, 0, 0, 0, 5, 0x10003, 0, 1⟩)] } }, by decide +kernel⟩

theorem witness_KeysTriggersPortsAndFrames_4 : ∃ (qid cid : Nat) (q : QueuePair) (c : GqpCmd) (g : Trigger) (s : State),
    queueOf qid s = some q ∧
    findCmd false cid q = some c ∧
    eOpcode c.entry = 0x12 ∧
    (headerOk q c = true ∧ ePtrKind c.entry = 0 ∧ eRegion c.entry = 0 ∧ eOffset c.entry = 0 ∧ eLength c.entry = 0) ∧
    eCdw5 c.entry < 1024 ∧
    triggerOf q.domain (slice 32 32 c.entry) s = some g :=
  ⟨1, 5, queueWith (cmd (entry 0x12 0 0 0 4 ([3, 0, 0, 0, 3, 0, 1] ++ zeros 17 ++ [3, 0, 1, 0, 0, 0, 1, 0])) false), cmd (entry 0x12 0 0 0 4 ([3, 0, 0, 0, 3, 0, 1] ++ zeros 17 ++ [3, 0, 1, 0, 0, 0, 1, 0])) false, ⟨3, false, 0, 0x10003, 0, 0, 0, 0, 0x10003, 0, 1⟩, { withCmd1 (cmd (entry 0x12 0 0 0 4 ([3, 0, 0, 0, 3, 0, 1] ++ zeros 17 ++ [3, 0, 1, 0, 0, 0, 1, 0])) false) up with net := { qps := [(3, { attr := { dsq := ⟨7, 0, 0, 4⟩ } })] } }, by decide +kernel⟩

theorem witness_KeysTriggersPortsAndFrames_5 : ∃ (entry : Nat) (a : ArmWait) (g : Trigger) (q : QueuePair) (s : State),
    ((s.net.arms.find? fun a => a.entry == entry && decide (a.beat ≤ s.tb.beat)) = some a) ∧
    a.trigger = some g ∧
    queueOf a.qid s = some q ∧
    (q.transport = 0 ∧ q.deleting = none) :=
  ⟨4, ⟨1, 5, 4, some ⟨3, false, 0, 0x10003, 0, 0, 0, 0, 0x10003, 0, 1⟩, 3⟩, ⟨3, false, 0, 0x10003, 0, 0, 0, 0, 0x10003, 0, 1⟩, queueWith (cmd (entry 0x12 0 0 0 4 []) true), { withCmd1 (cmd (entry 0x12 0 0 0 4 []) true) up with tb := { beat := 3 }, net := { arms := [⟨1, 5, 4, some ⟨3, false, 0, 0x10003, 0, 0, 0, 0, 0x10003, 0, 1⟩, 3⟩] } }, by decide +kernel⟩

theorem witness_KeysTriggersPortsAndFrames_6 : ∃ (port speed : Nat) (p : EthPort) (s : State),
    mget port s.net.ports = some p ∧
    (p.up = false ∧ 7 ≤ s.start.phase) ∧
    eventRoom s = true :=
  ⟨0, 2, {}, { up with start := { phase := 7 }, net := { ports := [(0, {})] } }, by decide +kernel⟩

theorem witness_KeysTriggersPortsAndFrames_7 : ∃ (port length : Nat) (p : EthPort) (s : State),
    mget port s.net.ports = some p ∧
    (p.up = true ∧ p.instrument = false) :=
  ⟨0, 64, { up := true }, { up with net := { ports := [(0, { up := true })] } }, by decide +kernel⟩

theorem witness_KeysTriggersPortsAndFrames_8 : ∃ (port length g : Nat) (p : EthPort) (s : State),
    mget port s.net.ports = some p ∧
    (p.up = true ∧ p.instrument = false) ∧
    length ≤ 9216 ∧
    mhas g p.gids = true :=
  ⟨0, 64, 2, { up := true, gids := [(2, [9])] }, { up with net := { ports := [(0, { up := true, gids := [(2, [9])] })] } }, by decide +kernel⟩

theorem witness_MultipathPlacement_1 : ∃ (h : Mpeth) (payload : Bytes) (q : Qp) (k : KeyHit) (s : State),
    qpAt h.qp s = some q ∧
    (q.attr.transport = 1 ∧ (q.state = .rtr ∨ q.state = .rts) ∧ q.mp = []) ∧
    (h.msn + psnMod - q.cumMsn) % psnMod = 1 ∧
    mpInvalid q h (some payload.length) = false ∧
    q.mpStarted + h.msgLen ≤ q.mpLimit ∧
    (h.pktOffset = 0 ∧ 4096 < h.msgLen ∧ h.msgLen ≤ 2 ^ 20 ∧ h.immFlag = false) ∧
    keyCheck q h.rkey [1, 4] h.va h.msgLen true s = some k ∧
    plainHere k.region s = true ∧
    mpContexts s < 4096 ∧
    admitsLast (submitEmpty (.multipath h.qp h.msn 0) k.region k.off h.msgLen s) = true :=
  ⟨⟨3, 0, false, false, 0, false, 8192, 64, 0x5000, 0, 0, 0, 0⟩, zeros 4096, { state := .rts, attr := { transport := 1, pmtu := 5, paths := 1, mpTmo := 1 }, mpLimit := 1048576 }, ⟨5, 7, 64⟩, withRegion { seat := 1 } { up with net := { qps := [(3, { state := .rts, attr := { transport := 1, pmtu := 5, paths := 1, mpTmo := 1 }, mpLimit := 1048576 })] }, trust := { memKeys := [(5, ⟨16, 0, 7, 0, 31, false⟩)] } }, by decide +kernel⟩

theorem witness_MultipathPlacement_2 : ∃ (h : Mpeth) (payload : Bytes) (q : Qp) (k : KeyHit) (s : State),
    qpAt h.qp s = some q ∧
    (q.attr.transport = 1 ∧ (q.state = .rtr ∨ q.state = .rts) ∧ q.mp = []) ∧
    (h.msn + psnMod - q.cumMsn) % psnMod = 1 ∧
    mpInvalid q h (some payload.length) = false ∧
    q.mpStarted + h.msgLen ≤ q.mpLimit ∧
    (h.pktOffset = 0 ∧ 4096 < h.msgLen ∧ h.msgLen ≤ 2 ^ 20) ∧
    keyCheck q h.rkey [1, 4] h.va h.msgLen true s = some k ∧
    plainHere k.region s = true ∧
    mpContexts s < 4096 ∧
    admitsLast (submitEmpty (.multipath h.qp h.msn 0) k.region k.off h.msgLen s) = true :=
  ⟨⟨3, 0, true, false, 0, false, 8192, 64, 0x5000, 0, 9, 0, 0⟩, zeros 4096, { state := .rts, attr := { transport := 1, pmtu := 5, paths := 1, mpTmo := 1 }, mpLimit := 1048576 }, ⟨5, 7, 64⟩, withRegion { seat := 1 } { up with net := { qps := [(3, { state := .rts, attr := { transport := 1, pmtu := 5, paths := 1, mpTmo := 1 }, mpLimit := 1048576 })] }, trust := { memKeys := [(5, ⟨16, 0, 7, 0, 31, false⟩)] } }, by decide +kernel⟩

theorem witness_MultipathPlacement_3 : ∃ (h : Mpeth) (payload : Bytes) (q : Qp) (s : State),
    qpAt h.qp s = some q ∧
    (q.attr.transport = 1 ∧ (q.state = .rtr ∨ q.state = .rts)) ∧
    (h.msn + psnMod - q.cumMsn) % psnMod = 1 ∧
    mpInvalid q h (some payload.length) = true :=
  ⟨⟨3, 0, false, false, 0, false, 8192, 64, 0x5000, 0, 0, 0, 0⟩, zeros 64, { state := .rts, attr := { transport := 1, pmtu := 5, paths := 1, mpTmo := 1 } }, { up with net := { qps := [(3, { state := .rts, attr := { transport := 1, pmtu := 5, paths := 1, mpTmo := 1 } })] } }, by decide +kernel⟩

theorem witness_MultipathPlacement_4 : ∃ (qp msn : Nat) (q : Qp) (c : MpCtx) (s : State),
    qpAt qp s = some q ∧
    q.mp = [c] ∧
    (c.msn = msn ∧ c.isRead = false ∧ mpComplete c = true ∧ c.imm = none) ∧
    msn = (q.cumMsn + 1) % psnMod :=
  ⟨3, 0, { state := .rts, attr := { transport := 1 }, mp := [{ msn := 0, msgLen := 8192, va := 0, rkey := 0, imm := none, admitted := 1, ackedPieces := [0] }] }, { msn := 0, msgLen := 8192, va := 0, rkey := 0, imm := none, admitted := 1, ackedPieces := [0] }, { up with net := { qps := [(3, { state := .rts, attr := { transport := 1 }, mp := [{ msn := 0, msgLen := 8192, va := 0, rkey := 0, imm := none, admitted := 1, ackedPieces := [0] }] })] } }, by decide +kernel⟩

theorem witness_MultipathPlacement_5 : ∃ (h : Mpeth) (q : Qp) (k : KeyHit) (s : State),
    qpAt h.qp s = some q ∧
    (q.attr.transport = 1 ∧ (q.state = .rtr ∨ q.state = .rts) ∧ q.mp = []) ∧
    (h.msn = (q.cumMsn + 1) % psnMod ∧ q.cumMsn < psnMod) ∧
    mpInvalid q h none = false ∧
    (h.pktOffset = 0 ∧ h.pktCount = 0 ∧ h.msgLen ≤ 4096) ∧
    keyCheck q h.rkey [0, 4] h.va h.msgLen false s = some k ∧
    plainHere k.region s = true ∧
    poisonedLines k.region k.off h.msgLen s = [] :=
  ⟨⟨3, 0, false, false, 0, false, 4096, 64, 0x5000, 0, 0, 0, 0⟩, { state := .rts, attr := { transport := 1, pmtu := 5, paths := 1, mpTmo := 1 } }, ⟨5, 7, 64⟩, withRegion { seat := 1 } { up with net := { qps := [(3, { state := .rts, attr := { transport := 1, pmtu := 5, paths := 1, mpTmo := 1 } })] }, trust := { memKeys := [(5, ⟨16, 0, 7, 0, 31, false⟩)] } }, by decide +kernel⟩

theorem witness_MultipathPlacement_6 : ∃ (qp msn : Nat) (q : Qp) (c : MpCtx) (s : State),
    qpAt qp s = some q ∧
    ((q.mp.find? fun c => c.msn == msn && !c.isRead) = some c) ∧
    c.first + 8 * 2 ^ q.attr.mpTmo ≤ s.tb.beat :=
  ⟨3, 0, { state := .rts, attr := { transport := 1 }, mp := [{ msn := 0, msgLen := 8192, va := 0, rkey := 0, imm := none }] }, { msn := 0, msgLen := 8192, va := 0, rkey := 0, imm := none }, { up with tb := { beat := 99 }, net := { qps := [(3, { state := .rts, attr := { transport := 1 }, mp := [{ msn := 0, msgLen := 8192, va := 0, rkey := 0, imm := none }] })] } }, by decide +kernel⟩

theorem witness_HeadLinksAndGlobalPersistentFlush_1 : ∃ (head width speed flit : Nat) (h : Head) (s : State),
    mget head s.cxl.heads = some h ∧
    7 ≤ s.start.phase ∧
    headExists head s = true ∧
    (h.up = false ∧ h.perstLow = false) ∧
    s.ev.queue.length < 1000 :=
  ⟨0, 16, 5, 1, { perstLow := false }, { up with start := { phase := 7 }, cxl := { heads := [(0, { perstLow := false })] } }, by decide +kernel⟩

theorem witness_HeadLinksAndGlobalPersistentFlush_2 : ∃ (head cause : Nat) (h : Head) (s : State),
    mget head s.cxl.heads = some h ∧
    h.up = true :=
  ⟨0, 1, { up := true }, { up with cxl := { heads := [(0, { up := true })] } }, by decide +kernel⟩

theorem witness_HeadLinksAndGlobalPersistentFlush_3 : ∃ (head : Nat) (h : Head) (s : State),
    mget head s.cxl.heads = some h :=
  ⟨0, { up := true, perstLow := false }, { up with cxl := { heads := [(0, { up := true, perstLow := false })] } }, by decide +kernel⟩

theorem witness_HeadLinksAndGlobalPersistentFlush_4 : ∃ (head : Nat) (h : Head) (s : State),
    mget head s.cxl.heads = some h ∧
    h.perstLow = true :=
  ⟨0, {}, { up with cxl := { heads := [(0, {})] } }, by decide +kernel⟩

theorem witness_HeadLinksAndGlobalPersistentFlush_5 : ∃ (head state : Nat) (h : Head) (s : State),
    mget head s.cxl.heads = some h ∧
    (h.up = true ∧ state < 3) :=
  ⟨0, 2, { up := true }, { up with cxl := { heads := [(0, { up := true })] } }, by decide +kernel⟩

theorem witness_HeadLinksAndGlobalPersistentFlush_6 : ∃ (head : Nat) (h : Head) (s : State),
    mget head s.cxl.heads = some h ∧
    (h.up = true ∧ h.pcieOnly = false) :=
  ⟨0, { up := true }, { up with cxl := { heads := [(0, { up := true })] } }, by decide +kernel⟩

theorem witness_HeadLinksAndGlobalPersistentFlush_7 : ∃ (head : Nat) (h : Head) (s : State),
    mget head s.cxl.heads = some h ∧
    (h.up = true ∧ h.pcieOnly = false) ∧
    eventRoom s = true :=
  ⟨0, { up := true }, { up with cxl := { heads := [(0, { up := true })] } }, by decide +kernel⟩

theorem witness_HeadLinksAndGlobalPersistentFlush_8 : ∃ (head granule : Nat) (h : Head) (g : Granule) (s : State),
    mget head s.cxl.heads = some h ∧
    h.granules[granule]? = some g ∧
    g.dirty = 0 ∧
    eventRoom s = true :=
  ⟨0, 0, { granules := [⟨7, 0, 0, 1, 0, 0, [], false⟩] }, ⟨7, 0, 0, 1, 0, 0, [], false⟩, { up with cxl := { heads := [(0, { granules := [⟨7, 0, 0, 1, 0, 0, [], false⟩] })] } }, by decide +kernel⟩

theorem witness_HeadLinksAndGlobalPersistentFlush_9 : ∃ (head bank : Nat) (h : Head) (s : State),
    mget head s.cxl.heads = some h ∧
    (h.granules = [] ∧ h.victims = []) ∧
    h.bankClean.getLsbD bank = true ∧
    eventRoom s = true :=
  ⟨0, 3, { bankClean := 8 }, { up with cxl := { heads := [(0, { bankClean := 8 })] } }, by decide +kernel⟩

theorem witness_CxlMemoryAccesses_1 : ∃ (req : CxlReq) (s : State),
    servesMem req.head s = true ∧
    attachmentAt (targetOf req s) req.dpa s = none :=
  ⟨⟨0, 0, 9, 4096⟩, { up with cxl := { heads := [(0, { up := true })] } }, by decide +kernel⟩

theorem witness_CxlMemoryAccesses_2 : ∃ (req : CxlReq) (n : Nat) (a : Attachment) (d : Region) (h : Head) (g : Granule) (s : State),
    servesMem req.head s = true ∧
    attachmentAt (targetOf req s) req.dpa s = some (n, a) ∧
    regionOf a.region s = some d ∧
    route a.region (offsetIn a req.dpa) s = .here ∧
    writePending req.head a.region (offsetIn a req.dpa / 64) s = false ∧
    mget req.head s.cxl.heads = some h ∧
    granuleOf a.region (offsetIn a req.dpa / 64 / 4) h = some g ∧
    lineValid (offsetIn a req.dpa / 64) g = true :=
  ⟨⟨0, 0, 9, 64⟩, 0, { region := 7, rext := 0, target := 0, state := .accepted, dpa := 0 }, { seat := 1 }, { up := true, granules := [⟨7, 0, 0, 2, 0, 0, [(1, 99)], false⟩] }, ⟨7, 0, 0, 2, 0, 0, [(1, 99)], false⟩, withRegion { seat := 1 } { up with cxl := { heads := [(0, { up := true, granules := [⟨7, 0, 0, 2, 0, 0, [(1, 99)], false⟩] })], att := [(0, { region := 7, rext := 0, target := 0, state := .accepted, dpa := 0 })] } }, by decide +kernel⟩

theorem witness_CxlMemoryAccesses_3 : ∃ (req : CxlReq) (n : Nat) (a : Attachment) (d : Region) (h : Head) (s : State),
    servesMem req.head s = true ∧
    attachmentAt (targetOf req s) req.dpa s = some (n, a) ∧
    regionOf a.region s = some d ∧
    d.isVolatile = false ∧
    route a.region (offsetIn a req.dpa) s = .here ∧
    writePending req.head a.region (offsetIn a req.dpa / 64) s = false ∧
    mget req.head s.cxl.heads = some h ∧
    (h.granules = [] ∧ h.misses = [] ∧ h.victims = [] ∧ h.bankOn = 0b111111 ∧ h.bankClean = 0) :=
  ⟨⟨0, 0, 9, 64⟩, 0, { region := 7, rext := 0, target := 0, state := .accepted, dpa := 0 }, { seat := 1 }, { up := true }, withRegion { seat := 1 } { up with cxl := { heads := [(0, { up := true })], att := [(0, { region := 7, rext := 0, target := 0, state := .accepted, dpa := 0 })] } }, by decide +kernel⟩

theorem witness_CxlMemoryAccesses_4 : ∃ (req : CxlReq) (data : Line) (mask : Mask) (poison : Bool) (n : Nat) (a : Attachment) (d : Region) (s : State),
    servesMem req.head s = true ∧
    attachmentAt (targetOf req s) req.dpa s = some (n, a) ∧
    regionOf a.region s = some d ∧
    d.isVolatile = false ∧
    route a.region (offsetIn a req.dpa) s = .here ∧
    writeRefused a.region d (offsetIn a req.dpa / 64 * 64) 64 s = false :=
  ⟨⟨0, 0, 9, 64⟩, 5, 1, false, 0, { region := 7, rext := 0, target := 0, state := .accepted, dpa := 0 }, { seat := 1 }, withRegion { seat := 1 } { up with cxl := { heads := [(0, { up := true })], att := [(0, { region := 7, rext := 0, target := 0, state := .accepted, dpa := 0 })] } }, by decide +kernel⟩

theorem witness_CxlMemoryAccesses_5 : ∃ (req : CxlReq) (data : Line) (mask : Mask) (poison : Bool) (s : State),
    servesMem req.head s = true ∧
    attachmentAt (targetOf req s) req.dpa s = none :=
  ⟨⟨0, 0, 9, 64⟩, 5, 1, false, { up with cxl := { heads := [(0, { up := true })] } }, by decide +kernel⟩

theorem witness_CxlMemoryAccesses_6 : ∃ (head register n : Nat) (h : Head) (m : MissReg) (q : CxlReq) (a : Attachment) (l : LineRead) (s : State),
    mget head s.cxl.heads = some h ∧
    mget register h.misses = some m ∧
    (h.stalled = [] ∧ h.bankClean = 0) ∧
    belowReady m.region m.index s = true ∧
    m.requests = [q] ∧
    attachmentAt (targetOf q s) q.dpa s = some (n, a) ∧
    offsetIn a q.dpa / 64 / 4 = m.index ∧
    readLine m.region (m.index * 4 + offsetIn a q.dpa / 64 % 4) s = some l :=
  ⟨0, 0, 0, { up := true, misses := [(0, { region := 7, index := 0, requests := [⟨0, 0, 9, 64⟩] })] }, { region := 7, index := 0, requests := [⟨0, 0, 9, 64⟩] }, ⟨0, 0, 9, 64⟩, { region := 7, rext := 0, target := 0, state := .accepted, dpa := 0 }, ⟨0, false⟩, withRegion { seat := 1 } { up with cxl := { heads := [(0, { up := true, misses := [(0, { region := 7, index := 0, requests := [⟨0, 0, 9, 64⟩] })] })], att := [(0, { region := 7, rext := 0, target := 0, state := .accepted, dpa := 0 })] } }, by decide +kernel⟩

theorem witness_CxlMemoryAccesses_7 : ∃ (head entry : Nat) (h : Head) (v : Victim) (s : State),
    mget head s.cxl.heads = some h ∧
    mget entry h.victims = some v ∧
    (v.touched = false ∧ v.granule.dirty = 0) ∧
    (h.stalled = [] ∧ h.bankClean = 0) :=
  ⟨0, 1, { up := true, victims := [(1, { granule := ⟨7, 0, 0, 1, 0, 0, [], false⟩ })] }, { granule := ⟨7, 0, 0, 1, 0, 0, [], false⟩ }, { up with cxl := { heads := [(0, { up := true, victims := [(1, { granule := ⟨7, 0, 0, 1, 0, 0, [], false⟩ })] })] } }, by decide +kernel⟩

theorem witness_DynamicCapacityAndMemoryKeys_1 : ∃ (path : BcsPath) (input : Bytes) (d : Region) (s : State),
    bcsOpen path 0xC016 s = true ∧
    input.length = 16 ∧
    isPaired s = false ∧
    regionOf (fld 0 2 input) s = some d ∧
    (d.state = .online ∧ d.isVolatile = true ∧ fld 2 4 input < d.size) ∧
    (s.cxl.bureau = 0 ∧ fld 0 2 input ≠ 0) ∧
    (match path with | .forwarded _ _ => false | _ => true) = true ∧
    targetExists (fld 6 2 input) s = true ∧
    fld 8 8 input = 2 ^ 50 ∧
    s.cxl.att = [] :=
  ⟨.sideband, [7, 0, 0, 0, 0, 0, 0, 0, 0, 0, 0, 0, 0, 0, 4, 0], { seat := 1, isVolatile := true }, withRegion { seat := 1, isVolatile := true } { up with cxl := { heads := [(0, { up := true })] } }, by decide +kernel⟩

theorem witness_DynamicCapacityAndMemoryKeys_2 : ∃ (target n : Nat) (a : Attachment) (more : Bool) (s : State),
    s.cxl.att = [(n, a)] ∧
    (a.target = target ∧ a.state = .offered ∧ a.unmapAt = none ∧ a.deadline.isSome = true) ∧
    s.cxl.bureau = 0 :=
  ⟨0, 3, { region := 7, rext := 0, target := 0, state := .offered, dpa := 0, deadline := some 9 }, false, { up with cxl := { att := [(3, { region := 7, rext := 0, target := 0, state := .offered, dpa := 0, deadline := some 9 })] } }, by decide +kernel⟩

theorem witness_DynamicCapacityAndMemoryKeys_3 : ∃ (entry b : Nat) (a : Attachment) (s : State),
    mget entry s.cxl.att = some a ∧
    (a.state = .offered ∧ a.deadline = some b ∧ a.detach = none) ∧
    b ≤ s.tb.beat ∧
    s.cxl.bureau = 0 ∧
    eventRoom s = true :=
  ⟨3, 9, { region := 7, rext := 0, target := 0, state := .offered, dpa := 0, deadline := some 9 }, { up with tb := { beat := 9 }, cxl := { att := [(3, { region := 7, rext := 0, target := 0, state := .offered, dpa := 0, deadline := some 9 })] } }, by decide +kernel⟩

theorem witness_DynamicCapacityAndMemoryKeys_4 : ∃ (path : BcsPath) (input : Bytes) (n : Nat) (a : Attachment) (s : State),
    bcsOpen path 0xC017 s = true ∧
    input.length = 9 ∧
    fld 8 1 input = 0 ∧
    (isPaired s = false ∧ (match path with | .forwarded _ _ => false | _ => true) = true) ∧
    s.cxl.att = [(n, a)] ∧
    (a.region = fld 0 2 input ∧ a.rext = fld 2 4 input ∧ a.target = fld 6 2 input ∧ a.unmapAt = none ∧ a.state = .accepted) ∧
    s.cxl.bureau = 0 ∧
    bgFree path 0xC017 s = true :=
  ⟨.sideband, [7, 0, 0, 0, 0, 0, 0, 0, 0], 3, { region := 7, rext := 0, target := 0, state := .accepted, dpa := 0 }, { up with cxl := { att := [(3, { region := 7, rext := 0, target := 0, state := .accepted, dpa := 0 })] } }, by decide +kernel⟩

theorem witness_DynamicCapacityAndMemoryKeys_5 : ∃ (path : BcsPath) (input : Bytes) (s : State),
    bcsOpen path 0xC017 s = true ∧
    input.length = 9 ∧
    (isPaired s = true ∧ s.pair.chairHere = false ∧ linkUp s = true ∧ s.pair.takeover = false ∧ s.pair.fwd = []) :=
  ⟨.sideband, [7, 0, 0, 0, 0, 0, 0, 0, 0], { paired with pair := { paired.pair with chairHere := false } }, by decide +kernel⟩

theorem witness_DynamicCapacityAndMemoryKeys_6 : ∃ (mtag n : Nat) (path : BcsPath) (input output : Bytes) (a : Attachment) (s : State),
    mget mtag s.pair.fwd = some (.detach path input) ∧
    fld 8 1 input = 0 ∧
    s.cxl.att = [(n, a)] ∧
    (a.region = fld 0 2 input ∧ a.rext = fld 2 4 input ∧ a.target = fld 6 2 input ∧ a.unmapAt = none ∧ a.state = .accepted) ∧
    s.cxl.bureau = 0 ∧
    bgFree path 0xC017 s = true :=
  ⟨3, 3, .sideband, [7, 0, 0, 0, 0, 0, 0, 0, 0], [], { region := 7, rext := 0, target := 0, state := .accepted, dpa := 0 }, { paired with pair := { paired.pair with chairHere := false, fwd := [(3, .detach .sideband [7, 0, 0, 0, 0, 0, 0, 0, 0])] }, cxl := { att := [(3, { region := 7, rext := 0, target := 0, state := .accepted, dpa := 0 })] } }, by decide +kernel⟩

theorem witness_DynamicCapacityAndMemoryKeys_7 : ∃ (target n : Nat) (a : Attachment) (s : State),
    s.cxl.att = [(n, a)] ∧
    (a.target = target ∧ a.state = .accepted ∧ a.unmapAt = none ∧ a.detach = none) ∧
    s.cxl.bureau = 0 ∧
    attachBusy { a with state := .releasing, released := true, deadline := none } s = false :=
  ⟨0, 3, { region := 7, rext := 0, target := 0, state := .accepted, dpa := 0 }, { up with cxl := { att := [(3, { region := 7, rext := 0, target := 0, state := .accepted, dpa := 0 })] } }, by decide +kernel⟩

theorem witness_DynamicCapacityAndMemoryKeys_8 : ∃ (entry b : Nat) (p : BcsPath) (a : Attachment) (s : State),
    mget entry s.cxl.att = some a ∧
    (a.state = .releasing ∧ a.released = false ∧ a.detach = some p ∧ a.deadline = some b) ∧
    b ≤ s.tb.beat ∧
    s.cxl.bureau = 0 ∧
    s.mc.bg = [{ path := p, opcode := 0xC017 }] :=
  ⟨3, 9, .sideband, { region := 7, rext := 0, target := 0, state := .releasing, dpa := 0, deadline := some 9, detach := some .sideband }, { up with tb := { beat := 9 }, mc := { serving := true, bg := [{ path := .sideband, opcode := 0xC017 }] }, cxl := { att := [(3, { region := 7, rext := 0, target := 0, state := .releasing, dpa := 0, deadline := some 9, detach := some .sideband })] } }, by decide +kernel⟩

theorem witness_DynamicCapacityAndMemoryKeys_9 : ∃ (path : BcsPath) (input : Bytes) (d : Region) (s : State),
    bcsOpen path 0xC018 s = true ∧
    input.length = 24 ∧
    regionOf (fld 0 2 input) s = some d ∧
    s.cxl.bureau ≠ fld 0 2 input ∧
    (fld 4 1 input < 32 ∧ zeroAt 5 3 input = true) ∧
    (fld 8 8 input % 4096 = 0 ∧ fld 16 8 input % 4096 = 0 ∧ 0 < fld 16 8 input ∧ fld 8 8 input + fld 16 8 input ≤ regionBytes d) ∧
    s.trust.memKeys = [] :=
  ⟨.sideband, [7, 0, 0, 0, 31, 0, 0, 0, 0, 0, 0, 0, 0, 0, 0, 0, 0, 16, 0, 0, 0, 0, 0, 0], { seat := 1 }, withRegion { seat := 1 } up, by decide +kernel⟩

theorem witness_DynamicCapacityAndMemoryKeys_10 : ∃ (path : BcsPath) (input : Bytes) (k : MemKey) (s : State),
    bcsOpen path 0xC019 s = true ∧
    input.length = 4 ∧
    mget (fld 0 4 input / 4096) s.trust.memKeys = some k ∧
    (mgetD 0 (fld 0 4 input / 4096) s.trust.memTags = fld 0 4 input % 4096 ∧ k.revoking = false) ∧
    s.trust.revocations = [] ∧
    bgFree path 0xC019 s = true :=
  ⟨.sideband, [0, 80, 0, 0], ⟨16, 0, 7, 0, 31, false⟩, { up with trust := { memKeys := [(5, ⟨16, 0, 7, 0, 31, false⟩)] } }, by decide +kernel⟩

theorem witness_StandardMailboxQueries_1 : ∃ (path : BcsPath) (input : Bytes) (s : State),
    bcsOpen path 0x0001 s = true ∧
    input.length = 0 :=
  ⟨.sideband, [], up, by decide +kernel⟩

theorem witness_StandardMailboxQueries_2 : ∃ (l : Nat) (input : Bytes) (m : Mailbox) (s : State),
    bcsOpen (.primary l) 0x0002 s = true ∧
    input.length = 0 ∧
    mget l s.mc.mail = some m :=
  ⟨0, [], {}, { up with mc := { serving := true, mail := [(0, {})] } }, by decide +kernel⟩

theorem witness_StandardMailboxQueries_3 : ∃ (path : BcsPath) (input : Bytes) (s : State),
    bcsOpen path 0x0100 s = true ∧
    input.length = 1 ∧
    fld 0 1 input < 5 :=
  ⟨.sideband, [1], up, by decide +kernel⟩

theorem witness_StandardMailboxQueries_4 : ∃ (path : BcsPath) (input : Bytes) (s : State),
    bcsOpen path 0x0102 s = true ∧
    input.length = 0 :=
  ⟨.sideband, [], up, by decide +kernel⟩

theorem witness_StandardMailboxQueries_5 : ∃ (path : BcsPath) (input : Bytes) (s : State),
    bcsOpen path 0x0300 s = true ∧
    input.length = 0 :=
  ⟨.sideband, [], up, by decide +kernel⟩

theorem witness_StandardMailboxQueries_6 : ∃ (path : BcsPath) (input : Bytes) (s : State),
    bcsOpen path 0x0400 s = true ∧
    input.length = 0 :=
  ⟨.sideband, [], up, by decide +kernel⟩

theorem witness_StandardMailboxQueries_7 : ∃ (path : BcsPath) (input : Bytes) (s : State),
    bcsOpen path 0x0401 s = true ∧
    input.length = 24 ∧
    beVal (slice 0 16 input) = celUuid ∧
    (fld 16 4 input + fld 20 4 input ≤ celBytes.length ∧ fld 20 4 input ≤ 65536) :=
  ⟨.sideband, be 16 celUuid ++ le 4 4 ++ le 4 8, up, by decide +kernel⟩

theorem witness_StandardMailboxQueries_8 : ∃ (path : BcsPath) (input : Bytes) (s : State),
    bcsOpen path 0x4000 s = true ∧
    input.length = 0 ∧
    s.cxl.bureau = 0 :=
  ⟨.sideband, [], up, by decide +kernel⟩

theorem witness_StandardMailboxQueries_9 : ∃ (path : BcsPath) (input : Bytes) (s : State),
    bcsOpen path 0x4100 s = true ∧
    input.length = 0 :=
  ⟨.sideband, [], up, by decide +kernel⟩

theorem witness_StandardMailboxQueries_10 : ∃ (path : BcsPath) (input : Bytes) (s : State),
    bcsOpen path 0x4200 s = true ∧
    input.length = 0 :=
  ⟨.sideband, [], up, by decide +kernel⟩

theorem witness_StandardMailboxQueries_11 : ∃ (path : BcsPath) (input : Bytes) (s : State),
    bcsOpen path 0x4201 s = true ∧
    input.length = 0 :=
  ⟨.sideband, [], up, by decide +kernel⟩

theorem witness_StandardMailboxQueries_12 : ∃ (path : BcsPath) (input : Bytes) (s : State),
    bcsOpen path 0x4203 s = true ∧
    input.length = 0 :=
  ⟨.sideband, [], up, by decide +kernel⟩

theorem witness_StandardMailboxQueries_13 : ∃ (path : BcsPath) (input : Bytes) (s : State),
    bcsOpen path 0x4300 s = true ∧
    input.length = 16 ∧
    fld 0 8 input % 64 = 0 ∧
    (s.ecc.ledger = [] ∧ s.ecc.ledgerOverflow = false ∧ s.ecc.scrub.state = 0) :=
  ⟨.sideband, zeros 16, { up with ecc := { ledgerOverflow := false } }, by decide +kernel⟩

theorem witness_StandardMailboxQueries_14 : ∃ (path : BcsPath) (input : Bytes) (s : State),
    bcsOpen path 0x4303 s = true ∧
    input.length = 16 ∧
    fld 0 8 input % 64 = 0 :=
  ⟨.sideband, zeros 16, up, by decide +kernel⟩

theorem witness_StandardMailboxQueries_15 : ∃ (path : BcsPath) (input : Bytes) (s : State),
    bcsOpen path 0x4305 s = true ∧
    input.length = 0 ∧
    (s.ecc.scrub.scan = none ∧ s.ecc.scrub.state = 0) :=
  ⟨.sideband, [], up, by decide +kernel⟩

theorem witness_StandardMailboxQueries_16 : ∃ (path : BcsPath) (input : Bytes) (s : State),
    bcsOpen path 0x4800 s = true ∧
    input.length = 2 ∧
    (fld 1 1 input = 0 ∧ fld 0 1 input = 2) :=
  ⟨.sideband, [2, 0], up, by decide +kernel⟩

theorem witness_StandardMailboxQueries_17 : ∃ (path : BcsPath) (input : Bytes) (s : State),
    bcsOpen path 0x4801 s = true ∧
    input.length = 8 ∧
    (s.cxl.att = [] ∧ fld 4 4 input = 0) :=
  ⟨.sideband, [9] ++ zeros 7, up, by decide +kernel⟩

theorem witness_StandardMailboxQueries_18 : ∃ (path : BcsPath) (input : Bytes) (s : State),
    bcsOpen path 0x5400 s = true ∧
    input.length = 0 :=
  ⟨.fm 0, [], up, by decide +kernel⟩

theorem witness_StandardMailboxQueries_19 : ∃ (path : BcsPath) (input : Bytes) (s : State),
    bcsOpen path 0x5401 s = true ∧
    input.length = 2 ∧
    fld 0 1 input < (headOf (fmHead path) s).lds :=
  ⟨.fm 0, [0, 1], up, by decide +kernel⟩

theorem witness_StandardMailboxQueries_20 : ∃ (path : BcsPath) (input : Bytes) (s : State),
    bcsOpen path 0x4102 s = true ∧
    input.length = 8 ∧
    (s.cxl.bureau ≠ 0 ∧ fld 0 4 input + fld 4 4 input ≤ 131072 ∧ fld 4 4 input ≤ 65536 ∧ 0 < fld 4 4 input) ∧
    bureauReadable s = true ∧
    poisonedLines s.cxl.bureau (labelOffset (myPosition s) (lsaIndex path s) + fld 0 4 input) (fld 4 4 input) s = [] :=
  ⟨.sideband, [0, 0, 0, 0, 8, 0, 0, 0], withRegion { seat := 1, size := 4 } { up with cxl := { bureau := 7 }, reg := { table := [(7, { seat := 1 })], extentMap := [(7, [0])] } }, by decide +kernel⟩

theorem witness_StandardMailboxChanges_1 : ∃ (path : BcsPath) (input : Bytes) (s : State),
    bcsOpen path 0x0101 s = true ∧
    input.length = 6 ∧
    (fld 0 1 input < 5 ∧ fld 1 1 input = 1 ∧ fld 2 1 input = 0 ∧ zeroAt 3 3 input = true) :=
  ⟨.sideband, [1, 1, 0, 0, 0, 0], up, by decide +kernel⟩

theorem witness_StandardMailboxChanges_2 : ∃ (path : BcsPath) (input : Bytes) (s : State),
    bcsOpen path 0x0103 s = true ∧
    input.length = 5 :=
  ⟨.sideband, [1, 2, 3, 4, 5], up, by decide +kernel⟩

theorem witness_StandardMailboxChanges_3 : ∃ (path : BcsPath) (input : Bytes) (s : State),
    bcsOpen path 0x0301 s = true ∧
    input.length = 8 ∧
    s.tb.mode ≠ .locked :=
  ⟨.sideband, [1, 2, 3, 4, 5, 6, 7, 8], up, by decide +kernel⟩

theorem witness_StandardMailboxChanges_4 : ∃ (path : BcsPath) (input : Bytes) (s : State),
    bcsOpen path 0x0301 s = true ∧
    input.length = 8 ∧
    s.tb.mode = .locked :=
  ⟨.sideband, [1, 2, 3, 4, 5, 6, 7, 8], { up with tb := { mode := .locked } }, by decide +kernel⟩

theorem witness_StandardMailboxChanges_5 : ∃ (path : BcsPath) (input : Bytes) (s : State),
    bcsOpen path 0x4202 s = true ∧
    input.length = 12 ∧
    (fld 0 1 input = 31 ∧ fld 1 1 input < 32 ∧ zeroAt 3 1 input = true) :=
  ⟨.sideband, [31, 3, 9, 0, 1, 2, 3, 4, 5, 6, 7, 8], up, by decide +kernel⟩

theorem witness_StandardMailboxChanges_6 : ∃ (path : BcsPath) (input : Bytes) (s : State),
    bcsOpen path 0x4204 s = true ∧
    input.length = 1 ∧
    fld 0 1 input < 2 :=
  ⟨.sideband, [1], up, by decide +kernel⟩

theorem witness_StandardMailboxChanges_7 : ∃ (path : BcsPath) (input : Bytes) (d : Region) (s : State),
    bcsOpen path 0x4103 s = true ∧
    8 < input.length ∧
    (s.cxl.bureau ≠ 0 ∧ regionOf s.cxl.bureau s = some d) ∧
    (d.state = .online ∧ plainHere s.cxl.bureau s = true) ∧
    (fld 0 4 input + (input.length - 8) ≤ 131072 ∧ zeroAt 4 4 input = true) :=
  ⟨.sideband, [0, 0, 0, 0, 0, 0, 0, 0, 9], { seat := 1 }, withRegion { seat := 1 } { up with cxl := { bureau := 7 } }, by decide +kernel⟩

theorem witness_StandardMailboxChanges_8 : ∃ (path : BcsPath) (input : Bytes) (a : Attachment) (d : Region) (s : State),
    bcsOpen path 0x4301 s = true ∧
    input.length = 8 ∧
    fld 0 8 input % 64 = 0 ∧
    acceptedAt (ldOf path) (fld 0 8 input) s = some a ∧
    regionOf a.region s = some d ∧
    plainHere a.region s = true ∧
    writeRefused a.region d (a.rext * 2 ^ 28 + (fld 0 8 input - a.dpa)) 64 s = false :=
  ⟨.sideband, [64, 0, 0, 0, 0, 0, 0, 0], { region := 7, rext := 0, target := 0, state := .accepted, dpa := 0 }, { seat := 1 }, withRegion { seat := 1 } { up with cxl := { att := [(0, { region := 7, rext := 0, target := 0, state := .accepted, dpa := 0 })] } }, by decide +kernel⟩

theorem witness_StandardMailboxChanges_9 : ∃ (path : BcsPath) (input : Bytes) (a : Attachment) (d : Region) (s : State),
    bcsOpen path 0x4302 s = true ∧
    input.length = 72 ∧
    fld 0 8 input % 64 = 0 ∧
    acceptedAt (ldOf path) (fld 0 8 input) s = some a ∧
    regionOf a.region s = some d ∧
    plainHere a.region s = true ∧
    writeRefused a.region d (a.rext * 2 ^ 28 + (fld 0 8 input - a.dpa)) 64 s = false :=
  ⟨.sideband, [64, 0, 0, 0, 0, 0, 0, 0] ++ zeros 64, { region := 7, rext := 0, target := 0, state := .accepted, dpa := 0 }, { seat := 1 }, withRegion { seat := 1 } { up with cxl := { att := [(0, { region := 7, rext := 0, target := 0, state := .accepted, dpa := 0 })] } }, by decide +kernel⟩

theorem witness_StandardMailboxChanges_10 : ∃ (path : BcsPath) (input : Bytes) (s : State),
    bcsOpen path 0x4304 s = true ∧
    input.length = 17 ∧
    (fld 0 8 input % 64 = 0 ∧ 0 < fld 8 8 input ∧ fld 16 1 input < 2) ∧
    s.ecc.scrub.state ≠ 1 ∧
    bgFree path 0x4304 s = true :=
  ⟨.sideband, [0, 0, 0, 0, 0, 0, 0, 0, 9] ++ zeros 8, up, by decide +kernel⟩

theorem witness_StandardMailboxChanges_11 : ∃ (head : Nat) (input : Bytes) (h : Head) (s : State),
    bcsOpen (.fm head) 0x5402 s = true ∧
    input.length = 4 + 16 * fld 0 1 input ∧
    (0 < fld 0 1 input ∧ fld 1 1 input + fld 0 1 input ≤ 16 ∧ zeroAt 2 2 input = true ∧ allZero (input.drop 4) = true) ∧
    mget head s.cxl.heads = some h ∧
    s.cxl.gfam = false :=
  ⟨0, [1, 2, 0, 0] ++ zeros 16, {}, { up with cxl := { heads := [(0, {})] } }, by decide +kernel⟩

theorem witness_StandardMailboxChanges_12 : ∃ (path : BcsPath) (input : Bytes) (s : State),
    bcsOpen path 0x5600 s = true ∧
    input.length = 0 :=
  ⟨.fm 0, [], up, by decide +kernel⟩

theorem witness_StandardMailboxChanges_13 : ∃ (path : BcsPath) (input : Bytes) (s : State),
    bcsOpen path 0x4101 s = true :=
  ⟨.sideband, [], up, by decide +kernel⟩

theorem witness_StandardMailboxChanges_14 : ∃ (path : BcsPath) (input : Bytes) (s : State),
    bcsOpen path 0x4400 s = true :=
  ⟨.sideband, [], up, by decide +kernel⟩

theorem witness_StandardMailboxChanges_15 : ∃ (path : BcsPath) (input : Bytes) (s : State),
    bcsOpen path 0x4401 s = true :=
  ⟨.sideband, [], up, by decide +kernel⟩

theorem witness_PairCommandsAtThisController_1 : ∃ (path : BcsPath) (input : Bytes) (s : State),
    bcsOpen path 0xC001 s = true ∧
    input.length = 32 :=
  ⟨.sideband, zeros 32, up, by decide +kernel⟩

theorem witness_PairCommandsAtThisController_2 : ∃ (a : Arming) (s : State),
    s.pair.arming = some a :=
  ⟨⟨[], 0⟩, { up with pair := { arming := some ⟨[], 0⟩ } }, by decide +kernel⟩

theorem witness_PairCommandsAtThisController_3 : ∃ (path : BcsPath) (input : Bytes) (s : State),
    bcsOpen path 0xC003 s = true ∧
    input.length = 0 ∧
    (isPaired s = false ∧ s.pair.chairHere = true ∧ s.reg.table = []) :=
  ⟨.sideband, [], up, by decide +kernel⟩

theorem witness_PairCommandsAtThisController_4 : ∃ (path : BcsPath) (input : Bytes) (s : State),
    bcsOpen path 0xC008 s = true ∧
    input.length = 0 :=
  ⟨.sideband, [], up, by decide +kernel⟩

theorem witness_PairCommandsAtThisController_5 : ∃ (input : Bytes) (s : State),
    bcsOpen .sideband 0xC000 s = true ∧
    (input.length = 33 ∧ fld 32 1 input ≤ 1) ∧
    (linkUp s = true ∧ isPaired s = false ∧ s.pair.formation = none ∧ s.mc.bg = []) :=
  ⟨zeros 33, { up with pair := { link := { state := .up8 } } }, by decide +kernel⟩

theorem witness_PairCommandsAtThisController_6 : ∃ (f : Formation) (s : State),
    s.pair.formation = some f ∧
    (f.start + 2 ^ 21 ≤ s.tb.beat ∧ eventRoom s = true) :=
  ⟨{ role := .joiner, step := 1, mode := 0, start := 0, hash := [], path := none }, { up with tb := { beat := 2 ^ 21 }, pair := { formation := some { role := .joiner, step := 1, mode := 0, start := 0, hash := [], path := none } } }, by decide +kernel⟩

theorem witness_PairCommandsAtThisController_7 : ∃ (input : Bytes) (s : State),
    bcsOpen .sideband 0xC006 s = true ∧
    (input.length = 32 ∧ isPaired s = true ∧ s.pair.record.mode = 0 ∧ linkUp s = true) ∧
    (s.pair.hEcho.all (fun h => decide (h + 4096 ≤ s.tb.beat)) = true ∧ s.pair.formation = none) :=
  ⟨zeros 32, { paired with tb := { beat := 4096 } }, by decide +kernel⟩

theorem witness_PairCommandsAtThisController_8 : ∃ (path : BcsPath) (input : Bytes) (s : State),
    bcsOpen path 0xC007 s = true ∧
    (input.length = 1 ∧ 1 ≤ fld 0 1 input ∧ fld 0 1 input ≤ 3) ∧
    (s.pair.chairHere = true ∧ s.pair.stopped = false ∧ s.pair.move = none) :=
  ⟨.sideband, [2], up, by decide +kernel⟩

theorem witness_PairCommandsAtThisController_9 : ∃ (path : BcsPath) (input : Bytes) (s : State),
    bcsOpen path 0xC00A s = true ∧
    (input.length = 24 ∧ (fld 0 1 input = 0xFF ∨ mhas (fld 0 1 input) s.net.ports = true)) ∧
    (zeroAt 1 3 input = true ∧ zeroAt 22 2 input = true) :=
  ⟨.sideband, [0xFF] ++ zeros 23, up, by decide +kernel⟩

theorem witness_PairCommandsAtThisController_10 : ∃ (path : BcsPath) (input : Bytes) (s : State),
    bcsOpen path 0xC005 s = true ∧
    (input.length = 0 ∧ isPaired s = true ∧ s.pair.chairHere = true ∧ s.pair.stopped = false ∧ s.pair.move = none ∧ s.pair.moveQueue = [] ∧ linkUp s = true) :=
  ⟨.sideband, [], paired, by decide +kernel⟩

theorem witness_PairCommandsAtThisController_11 : ∃ (path : BcsPath) (input : Bytes) (r : Nat) (d : Region) (s : State),
    bcsOpen path 0xC004 s = true ∧
    (input.length = 3 ∧ fld 0 2 input = r ∧ fld 2 1 input = otherPosition s ∧ r ≠ 0xFFFF) ∧
    (s.reg.table = [(r, d)] ∧ d.mirrored = true ∧ d.seat = s.ident.controllerId ∧ s.ident.controllerId ≠ partnerId s ∧ s.pair.position ≤ 1 ∧ otherCopyState r s = .current) ∧
    (isPaired s = true ∧ s.pair.chairHere = true ∧ s.pair.stopped = false ∧ s.pair.move = none ∧ s.pair.moveQueue = []) :=
  ⟨.sideband, [7, 0, 1], 7, { seat := 1, mirrored := true }, { mirroredAt 1 paired with pair := { paired.pair with partnerMirror := [(7, ⟨.current, 1, 0, [], false⟩)] } }, by decide +kernel⟩

theorem witness_PairCommandsAtThisController_12 : ∃ (path : BcsPath) (input : Bytes) (s : State),
    bcsOpen path 0xC004 s = true ∧
    (input.length = 3 ∧ fld 0 2 input = 0xFFFF ∧ fld 2 1 input ≤ 1) ∧
    (isPaired s = true ∧ s.pair.chairHere = true ∧ s.pair.stopped = false ∧ s.pair.move = none ∧ s.reg.table = []) :=
  ⟨.sideband, [255, 255, 1], paired, by decide +kernel⟩

theorem witness_PairCommandsAtThisController_13 : ∃ (path : BcsPath) (input : Bytes) (s : State),
    bcsOpen path 0xC002 s = true ∧
    (input.length = 1 ∧ fld 0 1 input = 1) ∧
    (isPaired s = true ∧ s.pair.chairHere = true ∧ s.pair.stopped = false ∧ s.pair.move = none ∧ s.reg.table = [] ∧ s.trust.keys = [] ∧ linkUp s = false) :=
  ⟨.sideband, [1], { paired with pair := { paired.pair with link := {} } }, by decide +kernel⟩

theorem witness_PairCommandsAtThisController_14 : ∃ (path : BcsPath) (input : Bytes) (r : Nat) (d : Region) (s : State),
    bcsOpen path 0xC009 s = true ∧
    (input.length = 3 ∧ fld 0 2 input = r ∧ fld 2 1 input = 1) ∧
    (regionOf r s = some d ∧ d.mirrored = true ∧ d.state = .offline) :=
  ⟨.sideband, [7, 0, 1], 7, { seat := 2, mirrored := true, state := .offline }, withRegion { seat := 2, mirrored := true, state := .offline } paired, by decide +kernel⟩

theorem witness_LinkSessionsBatchesAndFormation_1 : ∃ (nonce : Bytes) (s : State),
    (linkUp s = false ∧ s.seq.state = .up ∧ eventRoom s = true) :=
  ⟨zeros 16, up, by decide +kernel⟩

theorem witness_LinkSessionsBatchesAndFormation_2 : ∃ (lane : Nat) (s : State),
    (lane < 8 ∧ s.pair.link.state = .up8 ∧ s.pair.link.failedLanes = [] ∧ eventRoom s = true) :=
  ⟨3, paired, by decide +kernel⟩

theorem witness_LinkSessionsBatchesAndFormation_3 : ∃ (lane : Nat) (s : State),
    (lane < 8 ∧ (((mgetD [] lane s.pair.link.laneErrors).filter fun b => decide (s.tb.beat < b + 2 ^ 21)).length < 16)) :=
  ⟨3, paired, by decide +kernel⟩

set_option maxRecDepth 1000000 in
theorem witness_LinkSessionsBatchesAndFormation_4 : ∃ (number : Nat) (flits : List Bytes) (s : State),
    (linkUp s = true ∧ number = s.pair.link.rxBatch) ∧
    batchGood (keyOf (1 - s.pair.position) s.pair.link) (partnerId s) number flits = true ∧
    (∀ f ∈ flits, headerBits 3 0 f ≠ 3) :=
  ⟨0, batchFlits [] 2 0 2 [] [], paired, by decide +kernel⟩

theorem witness_LinkSessionsBatchesAndFormation_5 : ∃ (number : Nat) (flits : List Bytes) (s : State),
    (linkUp s = true ∧ number < s.pair.link.rxBatch) :=
  ⟨0, [], { paired with pair := { paired.pair with link := { state := .up8, rxBatch := 3, lastGood := some 2 } } }, by decide +kernel⟩

theorem witness_LinkSessionsBatchesAndFormation_7 : ∃ (number : Nat) (b : List Bytes) (s : State),
    (linkUp s = true ∧ s.pair.link.kept = [(number, b)] ∧ s.pair.link.nakCounts = [] ∧ s.pair.link.resentBeats = []) :=
  ⟨3, [], { paired with pair := { paired.pair with link := { state := .up8, kept := [(3, [])] } } }, by decide +kernel⟩

theorem witness_LinkSessionsBatchesAndFormation_8 : ∃ (message : Bytes) (a : Arming) (s : State),
    (message.length = 112 ∧ fld 0 1 message = 1 ∧ fld 6 1 message = 2) ∧
    (s.pair.formation = none ∧ isPaired s = false ∧ s.reg.table = [] ∧ s.pair.arming = some a) ∧
    (a.hash = shake256 32 (slice 12 68 message) ∧ s.tb.beat < a.expiry) ∧
    (fld 4 1 message = (if s.ident.h96 then 0 else 1) ∧ fld 2 2 message ≠ s.ident.controllerId) :=
  ⟨[1, 0, 2, 0, 0, 0, 2, 0] ++ zeros 104, ⟨shake256 32 (zeros 68), 5⟩, { up with pair := { arming := some ⟨shake256 32 (zeros 68), 5⟩ } }, by decide +kernel⟩

theorem witness_LinkSessionsBatchesAndFormation_9 : ∃ (message : Bytes) (f : Formation) (s : State),
    (s.pair.formation = some f ∧ f.position = 1 ∧ f.step = 2 ∧ fld 0 1 message = 2 ∧ eventRoom s = true) ∧
    canSign s = true :=
  ⟨[2] ++ zeros 20, { role := .joiner, step := 2, mode := 0, start := 0, hash := [], path := none, position := 1 }, { up with trust := { signer := { ready := true, reserved := 1 } }, pair := { formation := some { role := .joiner, step := 2, mode := 0, start := 0, hash := [], path := none, position := 1 } } }, by decide +kernel⟩

theorem witness_LinkSessionsBatchesAndFormation_10 : ∃ (message : Bytes) (f : Formation) (s : State),
    (s.pair.formation = some f ∧ f.position = 0 ∧ f.step = 3 ∧ fld 0 1 message = 3 ∧ eventRoom s = true) :=
  ⟨[3] ++ zeros 20, { role := .joiner, step := 3, mode := 0, start := 0, hash := [], path := none }, { up with pair := { formation := some { role := .joiner, step := 3, mode := 0, start := 0, hash := [], path := none } } }, by decide +kernel⟩

theorem witness_HeartbeatsLeasesAndSwitchOver_1 : ∃ (h ce le : Nat) (s : State),
    (isPaired s = true ∧ linkUp s = true ∧ s.pair.takeover = false ∧ s.pair.takeoverDone = false) :=
  ⟨1024, 0, 0, paired, by decide +kernel⟩

theorem witness_HeartbeatsLeasesAndSwitchOver_2 : ∃ (h ce le : Nat) (s : State),
    (isPaired s = true ∧ linkUp s = true ∧ s.pair.takeover = true) :=
  ⟨1024, 0, 0, { paired with pair := { paired.pair with takeover := true } }, by decide +kernel⟩

theorem witness_HeartbeatsLeasesAndSwitchOver_3 : ∃ (h : Nat) (s : State),
    (isPaired s = true ∧ (s.pair.hEcho.all fun e => decide (e < h)) = true ∧ h ≤ s.tb.beat ∧ s.pair.held = [] ∧ s.pair.heldBcs = []) :=
  ⟨1024, { paired with tb := { beat := 1024 }, pair := { paired.pair with stopped := true } }, by decide +kernel⟩

theorem witness_HeartbeatsLeasesAndSwitchOver_4 : ∃ (epoch r : Nat) (d : Region) (s : State),
    (isPaired s = true ∧ s.reg.table = [(r, d)] ∧ d.mirrored = true ∧ d.seat = s.ident.controllerId ∧ s.pu.units = [] ∧ s.pair.held = [] ∧ s.pair.heldBcs = []) :=
  ⟨5, 7, { seat := 1, mirrored := true }, mirroredAt 1 paired, by decide +kernel⟩

theorem witness_HeartbeatsLeasesAndSwitchOver_5 : ∃ (port : Nat) (head : Bytes) (w : WitnessPath) (s : State),
    (s.pair.witness = some w ∧ port = w.port ∧ isPaired s = true ∧ head.length = 48) ∧
    (fld 0 8 head = s.pair.record.pairId ∧ fld 8 2 head = partnerId s) ∧
    (gcmTag (shake256 32 (kPair s ++ ascii "WIT")) (be 4 (fld 8 2 head) ++ be 8 (fld 12 8 head)) head []).length = 16 :=
  ⟨3, [9, 0, 0, 0, 0, 0, 0, 0, 2, 0] ++ zeros 38, ⟨3, [], 0⟩, { paired with pair := { paired.pair with witness := some ⟨3, [], 0⟩ } }, by decide +kernel⟩

theorem witness_HeartbeatsLeasesAndSwitchOver_6 : ∃ (h : Nat) (s : State),
    (s.pair.hEcho = some h ∧ isPaired s = true ∧ h + 3584 ≤ s.tb.beat ∧ s.pair.stopped = false ∧ s.pair.takeover = false ∧ s.pair.takeoverDone = false ∧ (linkUp s || s.pair.chairHere) = true) :=
  ⟨0, { paired with tb := { beat := 3584 } }, by decide +kernel⟩

theorem witness_HeartbeatsLeasesAndSwitchOver_7 : ∃ (r : Nat) (s : State),
    (s.pair.heard = some r ∧ isPaired s = true ∧ linkUp s = false ∧ r + 4608 ≤ s.tb.beat ∧ s.pair.takeover = false ∧ s.pair.takeoverDone = false ∧ partnerAlive s = false ∧ s.pu.units = []) :=
  ⟨0, { paired with tb := { beat := 4608 }, pair := { paired.pair with link := { losSince := (List.range 8).map fun i => (i, 0) } } }, by decide +kernel⟩

theorem witness_HeartbeatsLeasesAndSwitchOver_8 : ∃ (s : State),
    (s.pair.takeover = true ∧ s.pair.takeoverDone = true ∧ s.pair.partnerLost = false ∧ s.pair.held = [] ∧ s.pair.heldBcs = [] ∧ eventRoom s = true) :=
  ⟨{ paired with pair := { paired.pair with takeover := true, takeoverDone := true } }, by decide +kernel⟩

theorem witness_HeartbeatsLeasesAndSwitchOver_9 : ∃ (h : HeldBcs) (s : State),
    (isPaired s = true ∧ s.pair.chairHere = false ∧ linkUp s = false ∧ chairBoundPassed s = true ∧ s.mc.serving = true ∧ s.pair.heldBcs = [h]) :=
  ⟨⟨.sideband, 0xC010, []⟩, { paired with tb := { beat := 8192 }, pair := { paired.pair with chairHere := false, heldBcs := [⟨.sideband, 0xC010, []⟩], link := {} } }, by decide +kernel⟩

theorem witness_HeartbeatsLeasesAndSwitchOver_10 : ∃ (region : Nat) (m : Move) (d : Region) (s : State),
    (s.pair.move = some m ∧ m.region = region ∧ region ≠ 0 ∧ m.phase = 2 ∧ m.path = none ∧ s.pair.moveQueue = [] ∧ s.pair.held = [] ∧ eventRoom s = true) ∧
    (regionOf region s = some d ∧ d.roReasons.getLsbD 2 = false) :=
  ⟨7, { region := 7, target := 1, boundary := 0, cause := 4, path := none, phase := 2 }, { seat := 2, mirrored := true }, { mirroredAt 2 paired with pair := { paired.pair with move := some { region := 7, target := 1, boundary := 0, cause := 4, path := none, phase := 2 } } }, by decide +kernel⟩

theorem witness_HeartbeatsLeasesAndSwitchOver_11 : ∃ (path : BcsPath) (m : Move) (s : State),
    (s.pair.move = some m ∧ m.region = 0 ∧ m.phase = 2 ∧ m.path = some path ∧ s.pair.moveQueue = [] ∧ s.pair.held = [] ∧ s.pair.heldBcs = [] ∧ eventRoom s = true) :=
  ⟨.sideband, { region := 0, target := 1, boundary := 0, cause := 1, path := some .sideband, phase := 2 }, { paired with pair := { paired.pair with move := some { region := 0, target := 1, boundary := 0, cause := 1, path := some .sideband, phase := 2 } } }, by decide +kernel⟩

theorem witness_HeartbeatsLeasesAndSwitchOver_12 : ∃ (s : State),
    (isPaired s = true ∧ s.pair.chairHere = true ∧ linkUp s = true ∧ 2 ≤ s.pair.record.checkMode ∧ s.pair.record.checkMode ≤ 3 ∧ s.pair.swapSuspended = false ∧ s.mc.activation = none) ∧
    (s.pair.lastSwap + param 0x0504 2514 s * 2 ^ 26 ≤ s.tb.beat ∧ s.reg.table = [] ∧ s.pair.move = none ∧ s.pair.moveQueue = []) :=
  ⟨{ paired with tb := { beat := 2514 * 2 ^ 26 } }, by decide +kernel⟩

theorem witness_HeartbeatsLeasesAndSwitchOver_13 : ∃ (test detail : Nat) (s : State),
    (testsRun s = true ∧ 1 ≤ test ∧ test ≤ 4) :=
  ⟨3, 0, paired, by decide +kernel⟩

theorem witness_HeartbeatsLeasesAndSwitchOver_14 : ∃ (detail : Nat) (s : State),
    (testsRun s = true ∧ eventRoom s = true) :=
  ⟨0, paired, by decide +kernel⟩

theorem witness_HeartbeatsLeasesAndSwitchOver_15 : ∃ (r off : Nat) (d : Region) (s : State),
    (testsRun s = true ∧ isPaired s = true ∧ linkUp s = true ∧ s.pair.compareBeat + param 0x0503 256 s ≤ s.tb.beat) ∧
    (compareNext s = some (r, off) ∧ allPlaced r s = true ∧ regionOf r s = some d ∧ d.seat ≠ s.ident.controllerId) :=
  ⟨7, 0, { seat := 2, mirrored := true }, { mirroredAt 2 paired with tb := { beat := 256 }, pair := { paired.pair with mirror := [(7, ⟨.current, 1, 0, [], false⟩)], partnerMirror := [(7, ⟨.current, 1, 0, [], false⟩)] } }, by decide +kernel⟩

theorem witness_HeartbeatsLeasesAndSwitchOver_16 : ∃ (r off : Nat) (crc : BitVec 64) (d : Region) (s : State),
    (regionOf r s = some d ∧ isPaired s = true ∧ d.mirrored = true ∧ d.seat = s.ident.controllerId) :=
  ⟨7, 0, 0, { seat := 1, mirrored := true }, mirroredAt 1 paired, by decide +kernel⟩

theorem witness_MirrorMetaResyncAndForwarding_1 : ∃ (region msn : Nat) (lines : List LineWrite) (d : Region) (s : State),
    (regionOf region s = some d ∧ isPaired s = true ∧ linkUp s = true ∧ d.mirrored = true ∧ d.seat ≠ s.ident.controllerId ∧ s.pair.takeover = false ∧ lines ≠ [] ∧ region ≠ s.cxl.bureau ∧ s.pu.units = []) :=
  ⟨7, 5, [⟨0, fullMask, 1, false⟩], { seat := 2, mirrored := true }, mirroredAt 2 paired, by decide +kernel⟩

theorem witness_MirrorMetaResyncAndForwarding_2 : ∃ (region msn : Nat) (u : WUnit) (s : State),
    (s.pu.units = [u] ∧ u.region = region ∧ u.mirrored = true ∧ u.msn = msn ∧ u.phase = .staged ∧ u.accepted = false) :=
  ⟨7, 5, { id := 3, src := .background, region := 7, mirrored := true, msn := 5, phase := .staged }, { paired with pu := { units := [{ id := 3, src := .background, region := 7, mirrored := true, msn := 5, phase := .staged }] } }, by decide +kernel⟩

theorem witness_MirrorMetaResyncAndForwarding_3 : ∃ (region msn : Nat) (u : WUnit) (s : State),
    (s.pu.units = [u] ∧ u.cls = .mirrorCopy ∧ u.region = region ∧ u.src = .mirror msn) :=
  ⟨7, 5, { id := 3, src := .mirror 5, cls := .mirrorCopy, region := 7 }, { paired with pu := { units := [{ id := 3, src := .mirror 5, cls := .mirrorCopy, region := 7 }] } }, by decide +kernel⟩

theorem witness_MirrorMetaResyncAndForwarding_4 : ∃ (region beat : Nat) (runs : List SealRun) (s : State),
    isPaired s = true :=
  ⟨7, 5, [], paired, by decide +kernel⟩

theorem witness_MirrorMetaResyncAndForwarding_6 : ∃ (seq : Nat) (items : List MetaItem) (s : State),
    isPaired s = true :=
  ⟨5, [.sanitizeMark 0 0 0, .lease 7 0 0 1 2], paired, by decide +kernel⟩

theorem witness_MirrorMetaResyncAndForwarding_7 : ∃ (path : BcsPath) (op seq rc : Nat) (out : Bytes) (w : MetaWait) (s : State),
    (s.pu.metaWaits = [w] ∧ w.seq = seq ∧ w.partnerDone = false ∧ w.localDone = true ∧ w.acts = [.answer path op rc out] ∧ s.mc.bg = []) :=
  ⟨.sideband, 0xC010, 4, 0, [], { id := 1, items := [], acts := [.answer .sideband 0xC010 0 []], localDone := true, partnerDone := false, seq := 4 }, { paired with pu := { metaWaits := [{ id := 1, items := [], acts := [.answer .sideband 0xC010 0 []], localDone := true, partnerDone := false, seq := 4 }] } }, by decide +kernel⟩

theorem witness_MirrorMetaResyncAndForwarding_8 : ∃ (r off src : Nat) (data : Bytes) (d : Region) (s : State),
    (regionOf r s = some d ∧ isPaired s = true ∧ d.seat ≠ s.ident.controllerId ∧ off % 65536 = 0 ∧ off + 65536 ≤ regionBytes d ∧ (ownCopy r s).state = .resyncing ∧ s.pair.resync = none) :=
  ⟨7, 0, 3, [], { seat := 2, mirrored := true }, { mirroredAt 2 paired with pair := { paired.pair with mirror := [(7, ⟨.resyncing, 1, 0, [], false⟩)] } }, by decide +kernel⟩

theorem witness_MirrorMetaResyncAndForwarding_9 : ∃ (r : Nat) (x : Resync) (s : State),
    (s.pair.resync = some x ∧ x.region = r ∧ x.sender = false ∧ x.lastMark + 2 ^ 20 ≤ s.tb.beat) :=
  ⟨7, { region := 7, sender := false, offset := 0, incremental := false, beat := 0, lastMark := 0 }, { paired with tb := { beat := 2 ^ 20 }, pair := { paired.pair with resync := some { region := 7, sender := false, offset := 0, incremental := false, beat := 0, lastMark := 0 } } }, by decide +kernel⟩

theorem witness_MirrorMetaResyncAndForwarding_10 : ∃ (r : Nat) (x : Resync) (d : Region) (s : State),
    (s.pair.resync = some x ∧ x.region = r ∧ x.sender = true ∧ regionOf r s = some d ∧ nextChunk x (regionBytes d) = none ∧ s.pair.resyncWaiting = [] ∧ eventRoom s = true) :=
  ⟨7, { region := 7, sender := true, offset := 2 ^ 28, incremental := false, beat := 0, lastMark := 0 }, { seat := 1, mirrored := true }, { mirroredAt 1 paired with pair := { paired.pair with resync := some { region := 7, sender := true, offset := 2 ^ 28, incremental := false, beat := 0, lastMark := 0 } } }, by decide +kernel⟩

theorem witness_MirrorMetaResyncAndForwarding_11 : ∃ (v : JoinView) (d : Region) (s : State),
    (isPaired s = true ∧ linkUp s = true ∧ s.pair.record.mode = 0 ∧ s.cxl.bureauLost = false ∧ s.pair.held = [] ∧ s.pair.resyncWaiting = [] ∧ s.pair.resync = none) ∧
    (regionOf v.region s = some d ∧ d.mirrored = true ∧ d.state = .online ∧ (ownCopy v.region s).state = .current ∧ v.state = 2 ∧ v.gen ≤ (ownCopy v.region s).gen) :=
  ⟨⟨7, 2, 1, true, []⟩, { seat := 1, mirrored := true }, { mirroredAt 1 paired with pair := { paired.pair with mirror := [(7, ⟨.current, 1, 0, [], false⟩)] } }, by decide +kernel⟩

theorem witness_MirrorMetaResyncAndForwarding_12 : ∃ (r b : Nat) (s : State),
    (mget r s.pair.joinWait = some b ∧ b ≤ s.tb.beat ∧ eventRoom s = true) :=
  ⟨7, 0, { paired with pair := { paired.pair with joinWait := [(7, 0)] } }, by decide +kernel⟩

theorem witness_MirrorMetaResyncAndForwarding_13 : ∃ (mtag r off : Nat) (op : FwdOp) (s : State),
    (isPaired s = true ∧ linkUp s = true ∧ regionOf r s = none) :=
  ⟨3, 7, 0, .read 64, paired, by decide +kernel⟩

theorem witness_MirrorMetaResyncAndForwarding_14 : ∃ (mtag r off n : Nat) (d : Region) (s : State),
    (isPaired s = true ∧ regionOf r s = some d ∧ d.state ≠ .offline ∧ inRegion d off n = true ∧ rangeChunks r off n s = []) :=
  ⟨3, 7, 0, 64, { seat := 2 }, withRegion { seat := 2 } paired, by decide +kernel⟩

theorem witness_MirrorMetaResyncAndForwarding_15 : ∃ (mtag r off : Nat) (lines : List LineWrite) (d : Region) (s : State),
    (isPaired s = true ∧ linkUp s = true ∧ regionOf r s = some d ∧ plainHere r s = true ∧ route r off s = .here ∧ d.state ≠ .offline ∧ inRegion d off (64 * lines.length) = true ∧ lines ≠ []) ∧
    (removedFrom r off (64 * lines.length) s = false ∧ writeRefused r d off (64 * lines.length) s = false) :=
  ⟨3, 7, 0, [⟨0, fullMask, 1, false⟩], { seat := 1 }, withRegion { seat := 1 } paired, by decide +kernel⟩

theorem witness_MirrorMetaResyncAndForwarding_16 : ∃ (mtag : Nat) (input : Bytes) (s : State),
    (isPaired s = true ∧ bcsOpen (.forwarded mtag true) 0xC001 s = true ∧ input.length = 32) :=
  ⟨3, zeros 32, paired, by decide +kernel⟩

theorem witness_MirrorMetaResyncAndForwarding_17 : ∃ (mtag head tag r line : Nat) (data : Bytes) (s : State),
    (mget mtag s.pair.fwd = some (.cxlRead head tag r line) ∧ servesMem head s = true) :=
  ⟨3, 0, 9, 7, 0, zeros 64, { paired with cxl := { heads := [(0, { up := true })] }, pair := { paired.pair with fwd := [(3, .cxlRead 0 9 7 0)] } }, by decide +kernel⟩

theorem witness_MirrorMetaResyncAndForwarding_18 : ∃ (path : BcsPath) (mtag op rc : Nat) (output : Bytes) (s : State),
    (mget mtag s.pair.fwd = some (.bcs path op) ∧ s.mc.bg = []) :=
  ⟨.sideband, 3, 0xC010, 0, [], { paired with pair := { paired.pair with fwd := [(3, .bcs .sideband 0xC010)] } }, by decide +kernel⟩

theorem witness_SequencerRailsUpAndDown_1 : ∃ (s : State),
    (s.seq.vstby = false ∧ s.seq.state ≠ .lockout) :=
  ⟨{ up with seq := { vstby := false } }, by decide +kernel⟩

theorem witness_SequencerRailsUpAndDown_2 : ∃ (s : State),
    mayRise s = true :=
  ⟨{}, by decide +kernel⟩

theorem witness_SequencerRailsUpAndDown_3 : ∃ (rail : Nat) (s : State),
    (s.seq.state = .rising ∧ s.seq.step = rail ∧ s.seq.gap = false ∧ rail < 11) :=
  ⟨3, { seq := { state := .rising, step := 3, en := 0xF } }, by decide +kernel⟩

theorem witness_SequencerRailsUpAndDown_4 : ∃ (s : State),
    (s.seq.state = .rising ∧ s.seq.step = 11 ∧ s.seq.gap = false ∧ s.seq.coldPending = false) :=
  ⟨{ seq := { state := .rising, step := 11, en := 0xFFF } }, by decide +kernel⟩

theorem witness_SequencerRailsUpAndDown_5 : ∃ (s : State),
    (s.seq.state = .rising ∧ s.seq.gap = true ∧ s.seq.step < 11) :=
  ⟨{ seq := { state := .rising, step := 3, gap := true, en := 0xF } }, by decide +kernel⟩

theorem witness_SequencerRailsUpAndDown_6 : ∃ (micros low : Nat) (s : State),
    (s.seq.state = .rising ∧ s.seq.gap = false ∧ s.seq.step ≠ 1 ∧ s.seq.en.getLsbD s.seq.step = true) :=
  ⟨50000, 3, { seq := { state := .rising, step := 3, en := 0xF } }, by decide +kernel⟩

theorem witness_SequencerRailsUpAndDown_7 : ∃ (s : State),
    (s.seq.state = .retryWait ∧ s.seq.vstby = true ∧ s.seq.clk25 = true ∧ s.seq.resetLow = false ∧ s.seq.waitInput = false ∧ s.seq.standby = .none) :=
  ⟨{ seq := { state := .retryWait } }, by decide +kernel⟩

theorem witness_SequencerRailsUpAndDown_8 : ∃ (rail k : Nat) (s : State),
    (s.seq.state = .falling ∧ s.seq.step = rail ∧ rail < 12 ∧ s.seq.en.getLsbD rail = false ∧ enabledBelow s.seq.en rail = some k ∧ k ≠ 1) :=
  ⟨5, 4, { seq := { state := .falling, step := 5, en := 0x1F, pg := 0x3F } }, by decide +kernel⟩

theorem witness_SequencerRailsUpAndDown_9 : ∃ (s : State),
    (s.seq.state = .falling ∧ s.seq.step = 0 ∧ s.seq.en = 0 ∧ s.seq.downCause = .commanded) :=
  ⟨{ seq := { state := .falling, step := 0, en := 0, riseAgain := true } }, by decide +kernel⟩

theorem witness_SequencerRailsUpAndDown_10 : ∃ (rail k : Nat) (s : State),
    (s.seq.state = .falling ∧ s.seq.step = rail ∧ rail < 12 ∧ s.seq.en.getLsbD rail = false ∧ enabledBelow s.seq.en rail = some k ∧ k ≠ 1) :=
  ⟨5, 4, { seq := { state := .falling, step := 5, en := 0x1F, pg := 0x3F } }, by decide +kernel⟩

theorem witness_SequencerRailsUpAndDown_11 : ∃ (rail : Nat) (s : State),
    (rail < 12 ∧ s.seq.debounced.getLsbD rail = true ∧ s.seq.state = .up ∧ s.pu.drain = none) :=
  ⟨5, up, by decide +kernel⟩

theorem witness_SequencerRailsUpAndDown_12 : ∃ (input : Bytes) (s : State),
    input.length = 0 :=
  ⟨[], {}, by decide +kernel⟩

theorem witness_SequencerRailsUpAndDown_13 : ∃ (input : Bytes) (s : State),
    (input.length = 0 ∧ s.seq.state = .lockout) :=
  ⟨[], { seq := { state := .lockout } }, by decide +kernel⟩

theorem witness_DrainTriggersWakesAndTheSupervisor_1 : ∃ (s : State),
    (s.seq.state = .up ∧ s.pu.drain = none) :=
  ⟨up, by decide +kernel⟩

theorem witness_DrainTriggersWakesAndTheSupervisor_2 : ∃ (s : State),
    (s.seq.state = .up ∧ s.pu.drain = none) :=
  ⟨up, by decide +kernel⟩

theorem witness_DrainTriggersWakesAndTheSupervisor_3 : ∃ (s : State),
    (s.seq.state = .up ∧ s.pu.drain = none) :=
  ⟨up, by decide +kernel⟩

theorem witness_DrainTriggersWakesAndTheSupervisor_4 : ∃ (s : State),
    (s.seq.state = .up ∧ s.pu.drain = none) :=
  ⟨up, by decide +kernel⟩

theorem witness_DrainTriggersWakesAndTheSupervisor_5 : ∃ (s : State),
    s.seq.state = .rising :=
  ⟨{ seq := { state := .rising } }, by decide +kernel⟩

theorem witness_DrainTriggersWakesAndTheSupervisor_6 : ∃ (path : BcsPath) (input : Bytes) (s : State),
    bcsOpen path 0xC082 s = true ∧
    (input.length = 1 ∧ fld 0 1 input < 2 ∧ s.seq.state = .up ∧ s.pu.drain = none) :=
  ⟨.sideband, [1], up, by decide +kernel⟩

theorem witness_DrainTriggersWakesAndTheSupervisor_7 : ∃ (d : DrainRun) (s : State),
    (s.pu.drain = some d ∧ s.pu.queue = [] ∧ s.seq.state = .up ∧ s.seq.en.getLsbD 11 = true) :=
  ⟨{ t0 := 0, trigger := 0, firstSeq := 1 }, { up with seq := { state := .up, en := 0xFFF, debounced := 0xFFF }, pu := { drain := some { t0 := 0, trigger := 0, firstSeq := 1 } } }, by decide +kernel⟩

theorem witness_DrainTriggersWakesAndTheSupervisor_8 : ∃ (s : State),
    s.seq.standby = .none :=
  ⟨{ seq := { resetLow := true } }, by decide +kernel⟩

theorem witness_DrainTriggersWakesAndTheSupervisor_9 : ∃ (s : State),
    (s.seq.standby = .entered ∧ s.seq.resetLow = true) :=
  ⟨{ seq := { resetLow := true, standby := .entered } }, by decide +kernel⟩

theorem witness_DrainTriggersWakesAndTheSupervisor_10 : ∃ (edge lost : Bool) (s : State),
    s.seq.standby = .entered :=
  ⟨true, false, { seq := { standby := .entered } }, by decide +kernel⟩

theorem witness_DrainTriggersWakesAndTheSupervisor_11 : ∃ (b lost : Bool) (s : State),
    s.seq.standby = .entered :=
  ⟨true, false, { seq := { standby := .entered } }, by decide +kernel⟩

theorem witness_DrainTriggersWakesAndTheSupervisor_12 : ∃ (s : State),
    s.seq.standby = .entering :=
  ⟨{ seq := { standby := .entering } }, by decide +kernel⟩

theorem witness_DrainTriggersWakesAndTheSupervisor_14 : ∃ (s : State),
    s.seq.vstby = true :=
  ⟨{ up with seq := { up.seq with en := 0xFFF } }, by decide +kernel⟩

theorem witness_DrainTriggersWakesAndTheSupervisor_15 : ∃ (s : State),
    (s.seq.vstby = true ∧ s.seq.clk25 = true) :=
  ⟨{ up with seq := { up.seq with en := 0xFFF } }, by decide +kernel⟩

theorem witness_WatchdogWindowAndTemperature_1 : ∃ (m : Nat) (s : State),
    (wdiRuns s = true ∧ (s.pwr.wdiArmed = false ∨ param 0x0F02 0 s * 1000 ≤ m * 8)) :=
  ⟨0, { up with params := [(0x0F02, 10)] }, by decide +kernel⟩

theorem witness_WatchdogWindowAndTemperature_2 : ∃ (m : Nat) (s : State),
    (wdiRuns s = true ∧ s.pwr.wdiArmed = true ∧ m * 8 < param 0x0F02 0 s * 1000 ∧ eventRoom s = true) :=
  ⟨0, { up with params := [(0x0F02, 10)], pwr := { wdiArmed := true } }, by decide +kernel⟩

theorem witness_WatchdogWindowAndTemperature_3 : ∃ (m : Nat) (s : State),
    (wdiRuns s = true ∧ param 0x0F02 0 s * 1000 ≤ m ∧ eventRoom s = true) :=
  ⟨10000, { up with params := [(0x0F02, 10)], pwr := { wdiArmed := true } }, by decide +kernel⟩

theorem witness_WatchdogWindowAndTemperature_4 : ∃ (sensor : Nat) (celsius : Int) (s : State),
    (sensor < 10 ∧ s.seq.state = .up ∧ s.pu.drain = none ∧ celsius < 120) ∧
    hottest (mput sensor celsius s.pwr.readings) < (param 0x0F03 105 s : Int) :=
  ⟨3, 60, up, by decide +kernel⟩

theorem witness_WatchdogWindowAndTemperature_5 : ∃ (sensor : Nat) (celsius : Int) (s : State),
    (sensor < 10 ∧ s.seq.state = .up ∧ s.pu.drain = none ∧ 120 ≤ celsius ∧ 1 ≤ mgetD 0 sensor s.pwr.hotReadings) :=
  ⟨3, 121, { up with pwr := { hotReadings := [(3, 1)] } }, by decide +kernel⟩

theorem witness_ComplexRestartsAndFirmware_1 : ∃ (sram : Bool) (s : State),
    (s.seq.state = .up ∧ s.mc.active = 0 ∧ s.mc.failed0 = false ∧ s.mc.failed1 = false ∧ s.mc.spareUsable = true ∧ s.mc.transfer = none ∧ eventRoom s = true) :=
  ⟨false, up, by decide +kernel⟩

theorem witness_ComplexRestartsAndFirmware_2 : ∃ (s : State),
    (s.seq.state = .up ∧ s.mc.serving = true ∧ noPair s = false ∧ s.mc.restart = none ∧ s.mc.lastExpiry = none ∧ s.mc.transfer = none) :=
  ⟨up, by decide +kernel⟩

theorem witness_ComplexRestartsAndFirmware_3 : ∃ (r : Restart) (s : State),
    (s.mc.restart = some r ∧ r.norWait = false ∧ s.mc.interrupted = [] ∧ s.mc.bg = [] ∧ s.mc.activation = none ∧ s.pair.heldBcs = [] ∧ eventRoom s = true) :=
  ⟨{ cause := 0, beat := 0, norWait := false, toRom := false }, { up with mc := { restart := some { cause := 0, beat := 0, norWait := false, toRom := false } } }, by decide +kernel⟩

theorem witness_ComplexRestartsAndFirmware_4 : ∃ (a : FwActivation) (r : Restart) (s : State),
    (s.mc.activation = some a ∧ a.rolled = false ∧ s.mc.restart = some r ∧ r.cause = 4 ∧ r.beat + 2 ^ 22 ≤ s.tb.beat ∧ s.mc.transfer = none) :=
  ⟨{ slot := 1, previous := 0, beat := 0 }, { cause := 4, beat := 0, norWait := false, toRom := false }, { up with tb := { beat := 2 ^ 22 }, mc := { activation := some { slot := 1, previous := 0, beat := 0 }, restart := some { cause := 4, beat := 0, norWait := false, toRom := false } } }, by decide +kernel⟩

theorem witness_ComplexRestartsAndFirmware_5 : ∃ (x : FwTransfer) (s : State),
    (s.mc.transfer = some x ∧ x.lastBeat + 2 ^ 27 ≤ s.tb.beat ∧ eventRoom s = true) :=
  ⟨{ slot := 1, next := 0, lastBeat := 0 }, { up with tb := { beat := 2 ^ 27 }, mc := { serving := true, transfer := some { slot := 1, next := 0, lastBeat := 0 } } }, by decide +kernel⟩

theorem witness_ComplexRestartsAndFirmware_6 : ∃ (b : BgCmd) (r : BgResult) (s : State),
    (s.mc.bg = [b] ∧ b.result = some r ∧ mailKey b.path = none) :=
  ⟨{ path := .sideband, opcode := 0x0201, result := some ⟨0, 0xFFFF, []⟩ }, ⟨0, 0xFFFF, []⟩, { up with mc := { serving := true, bg := [{ path := .sideband, opcode := 0x0201, result := some ⟨0, 0xFFFF, []⟩ }] } }, by decide +kernel⟩

theorem witness_ComplexRestartsAndFirmware_7 : ∃ (path : BcsPath) (input : Bytes) (s : State),
    bcsOpen path 0x0200 s = true ∧
    input.length = 0 :=
  ⟨.sideband, [], up, by decide +kernel⟩

theorem witness_ComplexRestartsAndFirmware_8 : ∃ (input : Bytes) (s : State),
    (bcsOpen .sideband 0x0201 s = true ∧ input.length = 128 ∧ fld 0 1 input = 1 ∧ 1 ≤ fld 1 1 input ∧ fld 1 1 input ≤ 2 ∧ zeroAt 2 2 input = true ∧ fld 4 4 input = 0 ∧ zeroAt 8 120 input = true) ∧
    (slotRuns (fld 1 1 input - 1) s = false ∧ s.mc.transfer = none ∧ s.mc.bg = []) :=
  ⟨[1, 2] ++ zeros 126, up, by decide +kernel⟩

theorem witness_ComplexRestartsAndFirmware_9 : ∃ (input : Bytes) (s : State),
    (bcsOpen .sideband 0x0202 s = true ∧ input.length = 2 ∧ fld 0 1 input = 1 ∧ 1 ≤ fld 1 1 input ∧ fld 1 1 input ≤ 2 ∧ (fwSlot (fld 1 1 input - 1) s).valid = true ∧ s.mc.bg = []) :=
  ⟨[1, 2], { up with mc := { serving := true, fwB := { valid := true } } }, by decide +kernel⟩

theorem witness_FlashRecorderAndWearLog_1 : ∃ (c : OptionCopy) (op : Nat) (s : State),
    (s.nor.running = some (.optionWrite c (.answer none op)) ∧ s.nor.suspended = false ∧ s.nor.waiting = [] ∧ s.ev.running = true) :=
  ⟨{}, 0xC023, { up with ev := { running := true }, nor := { running := some (.optionWrite {} (.answer none 0xC023)) } }, by decide +kernel⟩

theorem witness_FlashRecorderAndWearLog_2 : ∃ (slot off : Nat) (s : State),
    (s.nor.running = some (.fwProgram slot off) ∧ s.nor.suspended = false ∧ s.nor.waiting = [] ∧ s.ev.running = true ∧ eventRoom s = true) :=
  ⟨0, 1, { up with ev := { running := true }, mc := { fwA := { image := [1, 2] } }, nor := { running := some (.fwProgram 0 1) } }, by decide +kernel⟩

theorem witness_FlashRecorderAndWearLog_3 : ∃ (b : Nat) (sec : Option Nat) (s : State),
    (s.nor.running = some (.erase b sec) ∧ s.nor.suspended = false ∧ s.nor.suspends < 64 ∧ (s.nor.suspends = 0 ∨ s.nor.ranSince + 3907 ≤ s.tb.beat)) :=
  ⟨31, none, { up with nor := { running := some (.erase 31 none) } }, by decide +kernel⟩

theorem witness_FlashRecorderAndWearLog_4 : ∃ (s : State),
    (s.nor.logLeft < 160 ∧ s.nor.running = none ∧ s.ev.running = true ∧ s.ev.queue.length < 1023) :=
  ⟨{ up with ev := { running := true }, nor := { logLeft := 100 } }, by decide +kernel⟩

theorem witness_FlashRecorderAndWearLog_5 : ∃ (s : State),
    (vcoreUp s = true ∧ dieFree s = true ∧ 7031250000 * (s.nor.hoursUp + 1) ≤ s.tb.beat) :=
  ⟨{ up with tb := { beat := 7031250000 } }, by decide +kernel⟩

theorem witness_FlashRecorderAndWearLog_6 : ∃ (e : Event) (r : List Event) (s : State),
    (s.ev.queue = e :: r ∧ s.ev.running = true ∧ dieFree s = true ∧ erasing recentBlock s = false ∧ s.mc.restart = none ∧ noPair s = false ∧ s.ev.lostUnreported = 0 ∧ (s.ev.nextIndex + 1) % 1024 ≠ 0) :=
  ⟨mkEvent 0x0201 .info 0xFFFF [] up, [], { up with ev := { running := true, queue := [mkEvent 0x0201 .info 0xFFFF [] up] } }, by decide +kernel⟩

theorem witness_FlashRecorderAndWearLog_7 : ∃ (e : Event) (s : State),
    (s.ev.running = true ∧ s.ev.supPending = [e] ∧ s.ev.supLost = 0 ∧ eventRoom s = true) :=
  ⟨mkEvent 0x0F03 .info 0xFFFF [] up, { up with ev := { running := true, supPending := [mkEvent 0x0F03 .info 0xFFFF [] up] } }, by decide +kernel⟩

theorem witness_FlashRecorderAndWearLog_8 : ∃ (path : BcsPath) (input : Bytes) (e : Event) (s : State),
    bcsOpen path 0xC030 s = true ∧
    (input.length = 12 ∧ fld 0 1 input = 1 ∧ zeroAt 1 3 input = true ∧ fld 8 4 input = 1) ∧
    (s.ev.recent.filter (fun x => decide (fld 4 4 input ≤ x.1)) = [(fld 4 4 input, e)]) :=
  ⟨.sideband, [1, 0, 0, 0, 5, 0, 0, 0, 1, 0, 0, 0], mkEvent 0x0201 .info 0xFFFF [] {}, { up with ev := { recent := [(5, mkEvent 0x0201 .info 0xFFFF [] {})] } }, by decide +kernel⟩

theorem witness_FlashRecorderAndWearLog_9 : ∃ (path : BcsPath) (input : Bytes) (s : State),
    bcsOpen path 0xC031 s = true ∧
    input.length = 0 :=
  ⟨.sideband, [], up, by decide +kernel⟩

theorem witness_FlashRecorderAndWearLog_10 : ∃ (path : BcsPath) (input : Bytes) (s : State),
    bcsOpen path 0xC070 s = true ∧
    input.length = 0 :=
  ⟨.sideband, [], up, by decide +kernel⟩

theorem witness_FlashRecorderAndWearLog_11 : ∃ (path : BcsPath) (input : Bytes) (s : State),
    bcsOpen path 0xC071 s = true ∧
    (input.length = 10 ∧ lunExists (fld 0 2 input) s = true ∧ fld 2 4 input + fld 6 4 input ≤ s.ident.blocksPerLun ∧ 1 ≤ fld 6 4 input ∧ fld 6 4 input ≤ 8190) :=
  ⟨.sideband, [0, 0, 1, 0, 0, 0, 2, 0, 0, 0], up, by decide +kernel⟩

theorem witness_FlashRecorderAndWearLog_12 : ∃ (path : BcsPath) (input : Bytes) (s : State),
    bcsOpen path 0xC072 s = true ∧
    (input.length = 10 ∧ fld 0 2 input < s.ident.lunsPerChannel ∧ fld 2 4 input < s.ident.blocksPerLun ∧ fld 6 4 input = 1) :=
  ⟨.sideband, [0, 0, 1, 0, 0, 0, 1, 0, 0, 0], up, by decide +kernel⟩

theorem witness_FlashRecorderAndWearLog_13 : ∃ (path : BcsPath) (input : Bytes) (s : State),
    bcsOpen path 0xC073 s = true ∧
    (input.length = 8 ∧ s.ev.wear = []) :=
  ⟨.sideband, zeros 8, up, by decide +kernel⟩

theorem witness_FlashRecorderAndWearLog_14 : ∃ (path : BcsPath) (input : Bytes) (s : State),
    bcsOpen path 0xC093 s = true ∧
    (input.length = 4 ∧ 0x40 ≤ fld 0 1 input ∧ fld 1 1 input = 0 ∧ (queueOf (fld 2 2 input) s).isSome = true) :=
  ⟨.sideband, [64, 0, 1, 0], withCmd1 (cmd [] false) up, by decide +kernel⟩

theorem witness_TrustSigningAndProtection_1 : ∃ (path : BcsPath) (input : Bytes) (s : State),
    bcsOpen path 0xC041 s = true ∧
    input.length = 0 :=
  ⟨.sideband, [], up, by decide +kernel⟩

theorem witness_TrustSigningAndProtection_2 : ∃ (path : BcsPath) (input : Bytes) (s : State),
    bcsOpen path 0xC042 s = true ∧
    (input.length = 32 ∧ canSign s = true ∧ s.trust.signer.waiting = []) :=
  ⟨.sideband, zeros 32, { up with trust := { signer := { ready := true, reserved := 1 } } }, by decide +kernel⟩

theorem witness_TrustSigningAndProtection_3 : ∃ (window : Nat) (s : State),
    (windowDue window s = true ∧ windowLogFree s = true ∧ s.trust.signer.waiting = [] ∧ s.ev.queue.length < 1023) :=
  ⟨0, up, by decide +kernel⟩

theorem witness_TrustSigningAndProtection_4 : ∃ (s : State),
    (s.mc.serving = true ∧ s.mc.rom = false ∧ s.trust.signer.ready = false ∧ s.trust.signer.waiting = []) :=
  ⟨up, by decide +kernel⟩

theorem witness_TrustSigningAndProtection_5 : ∃ (s : State),
    (s.mc.serving = true ∧ s.mc.rom = false ∧ s.mc.activation = none ∧ s.trust.rollback < (fwSlot s.mc.fwActive s).svn ∧ eventRoom s = true) :=
  ⟨{ up with mc := { serving := true, fwA := { svn := 3 } } }, by decide +kernel⟩

theorem witness_TrustSigningAndProtection_6 : ∃ (path : BcsPath) (input : Bytes) (s : State),
    bcsOpen path 0xC050 s = true ∧
    input.length = 0 :=
  ⟨.sideband, [], up, by decide +kernel⟩

theorem witness_TrustSigningAndProtection_7 : ∃ (path : BcsPath) (input : Bytes) (s : State),
    bcsOpen path 0xC051 s = true ∧
    (input.length = 2 ∧ fld 0 1 input = 2 ∧ fld 1 1 input = 1 ∧ roLevel s ≠ 2 ∧ eventRoom s = true) :=
  ⟨.sideband, [2, 1], up, by decide +kernel⟩

theorem witness_TrustSigningAndProtection_8 : ∃ (path : BcsPath) (input : Bytes) (s : State),
    bcsOpen path 0xC051 s = true ∧
    (input.length = 2 ∧ fld 0 1 input = roLevel s ∧ fld 1 1 input = 1 ∧ s.trust.level ≤ 1) :=
  ⟨.sideband, [1, 1], { up with trust := { level := 1 } }, by decide +kernel⟩

theorem witness_TrustSigningAndProtection_9 : ∃ (input : Bytes) (s : State),
    (bcsOpen .sideband 0xC052 s = true ∧ input.length = 2 ∧ fld 0 1 input ≤ 1 ∧ fld 1 1 input = 1) ∧
    (s.reg.table = [] ∧ s.cap.rings = [] ∧ s.cap.channels = [] ∧ s.trust.run = none ∧ s.trust.lowering = false ∧ s.mc.bg = []) :=
  ⟨[1, 1], up, by decide +kernel⟩

theorem witness_TrustSigningAndProtection_10 : ∃ (i : Nat) (s : State),
    (4 ≤ i ∧ roLevel s ≠ 0) :=
  ⟨7, { up with trust := { level := 1 } }, by decide +kernel⟩

theorem witness_TrustSigningAndProtection_11 : ∃ (i : Nat) (s : State),
    (i < 4 ∨ roLevel s = 0) :=
  ⟨1, { up with trust := { level := 1 } }, by decide +kernel⟩

theorem witness_UnitPowerParametersAndIdentity_1 : ∃ (path : BcsPath) (input : Bytes) (s : State),
    bcsOpen path 0xC020 s = true ∧
    (input.length = 2 ∧ (unitKind (fld 0 2 input) s).isSome = true) :=
  ⟨.sideband, [0, 4], up, by decide +kernel⟩

theorem witness_UnitPowerParametersAndIdentity_2 : ∃ (path : BcsPath) (input : Bytes) (u : Nat) (s : State),
    bcsOpen path 0xC021 s = true ∧
    (input.length = 8 ∧ fld 0 2 input = u ∧ fld 2 1 input = 0xFF ∧ fld 4 4 input = 0xFFFFFFFF ∧ zeroAt 3 1 input = true ∧ (unitKind u s).isSome = true ∧ unitKind u s ≠ some .cacheBank) :=
  ⟨.sideband, [0, 4, 255, 0, 255, 255, 255, 255], 0x400, up, by decide +kernel⟩

theorem witness_UnitPowerParametersAndIdentity_3 : ∃ (path : BcsPath) (input : Bytes) (p : ParamInfo) (s : State),
    bcsOpen path 0xC022 s = true ∧
    (input.length = 2 ∧ paramInfo (fld 0 2 input) = some p) :=
  ⟨.sideband, le 2 0x0F02, (paramInfo 0x0F02).get!, up, by decide +kernel⟩

theorem witness_UnitPowerParametersAndIdentity_4 : ∃ (path : BcsPath) (input : Bytes) (p : ParamInfo) (s : State),
    bcsOpen path 0xC023 s = true ∧
    (input.length = 16 ∧ paramInfo (fld 0 2 input) = some p ∧ p.id ≠ 0x0603 ∧ zeroAt 2 6 input = true ∧ valueOk p (fld 8 8 input) s = true ∧ paramBusy p.id s = false) :=
  ⟨.sideband, le 2 0x0F02 ++ zeros 14, (paramInfo 0x0F02).get!, up, by decide +kernel⟩

theorem witness_UnitPowerParametersAndIdentity_5 : ∃ (path : BcsPath) (input : Bytes) (s : State),
    bcsOpen path 0xC024 s = true ∧
    input.length = 2 :=
  ⟨.sideband, le 2 0x0F02, up, by decide +kernel⟩

theorem witness_UnitPowerParametersAndIdentity_6 : ∃ (path : BcsPath) (input : Bytes) (s : State),
    bcsOpen path 0xC025 s = true ∧
    (input.length = 0 ∧ standbyRefuser s = none) :=
  ⟨.sideband, [], up, by decide +kernel⟩

theorem witness_UnitPowerParametersAndIdentity_7 : ∃ (unit n f : Nat) (s : State),
    (unitKind unit s ≠ some .slice ∧ (idleFigures unit s).filter (fun g => decide ((unitOfPower unit s).state < g.1)) = [(n, f)] ∧ (unitOfPower unit s).commanded = none ∧ vcoreUp s = true) :=
  ⟨0x600, 1, 256, up, by decide +kernel⟩

theorem witness_UnitPowerParametersAndIdentity_8 : ∃ (unit agent : Nat) (s : State),
    (unitKind unit s ≠ some .slice ∧ (unitOfPower unit s).entry = none ∧ isIdleState unit (unitOfPower unit s).state s = true) :=
  ⟨0x600, 0, { up with pwr := { units := [(0x600, { state := 1 })] } }, by decide +kernel⟩

theorem witness_UnitPowerParametersAndIdentity_9 : ∃ (unit n : Nat) (s : State),
    ((unitOfPower unit s).commanded = some n ∧ ((statesOf unit s)[n]?.map fun x => bitOf 0 x.flags) = some true ∧ (unitOfPower unit s).state ≠ n ∧ refuserOf unit s = none ∧ unitKind unit s ≠ some .cacheBank) :=
  ⟨0x400, 1, { up with pwr := { units := [(0x400, { commanded := some 1 })] } }, by decide +kernel⟩

theorem witness_UnitPowerParametersAndIdentity_10 : ∃ (g : Nat) (s : State),
    (g < 10 ∧ domainOn g s = true ∧ s.pwr.padHeld.getLsbD g = true ∧ eventRoom s = true) :=
  ⟨9, up, by decide +kernel⟩

theorem witness_UnitPowerParametersAndIdentity_11 : ∃ (path : BcsPath) (input : Bytes) (s : State),
    bcsOpen path 0xC040 s = true ∧
    input.length = 2 :=
  ⟨.sideband, [0, 0], up, by decide +kernel⟩

theorem witness_StartUpPhases_1 : ∃ (s : State),
    (phaseDue 0 s = true ∧ s.trust.lowering = false ∧ s.nor.log = [] ∧ s.ev.abandoned = [] ∧ s.nor.waiting = []) :=
  ⟨{ seq := { state := .up, debounced := 0xFFF } }, by decide +kernel⟩

theorem witness_StartUpPhases_2 : ∃ (a b c : Int) (failed : BitVec 17) (sets : List Nat) (s : State),
    setsUsable sets = true ∧
    (phaseDue 2 s = true ∧ firmwareRuns s = true ∧ s.nor.loaded.params = [] ∧ s.ti.mappedOut = [] ∧ -20 ≤ c) :=
  ⟨20, 20, 20, 0, [0, 6], { up with start := { phase := 2 } }, by decide +kernel⟩

theorem witness_StartUpPhases_3 : ∃ (a b c : Int) (failed : BitVec 17) (sets : List Nat) (s : State),
    setsUsable sets = false ∧
    (phaseDue 2 s = true ∧ firmwareRuns s = true) :=
  ⟨20, 20, 20, 0, [0, 1, 2, 3, 4], { up with start := { phase := 2 } }, by decide +kernel⟩

theorem witness_StartUpPhases_4 : ∃ (a : Anchor) (beats : Nat) (s : State),
    (phaseDue 3 s = true ∧ firmwareRuns s = true ∧ bestAnchor s.pu = some a ∧ (s.pu.chest.all fun r => !r.payloadBad) = true ∧ eventRoom s = true) :=
  ⟨(bestAnchor ({} : Persist)).get!, 5, { up with start := { phase := 3 } }, by decide +kernel⟩

theorem witness_StartUpPhases_5 : ∃ (beats : Nat) (s : State),
    (phaseDue 4 s = true ∧ firmwareRuns s = true ∧ s.pu.chest = [] ∧ s.ti.ckptMeta = [] ∧ s.trust.sanitize ≠ 1) :=
  ⟨5, { up with start := { phase := 4 } }, by decide +kernel⟩

theorem witness_StartUpPhases_6 : ∃ (beats : Nat) (s : State),
    (phaseDue 4 s = true ∧ firmwareRuns s = true) :=
  ⟨5, { up with start := { phase := 4 } }, by decide +kernel⟩

theorem witness_StartUpPhases_7 : ∃ (r : Nat) (d : Region) (s : State),
    (phaseDue 5 s = true ∧ firmwareRuns s = true ∧ s.start.warm = false ∧ s.trust.keys = [] ∧ s.cxl.bureau = 0) ∧
    (s.reg.table = [(r, d)] ∧ d.settee = false ∧ d.mirrored = false ∧ d.seat = s.ident.controllerId ∧ d.state = .offline) :=
  ⟨7, { seat := 1, state := .offline }, { withRegion { seat := 1, state := .offline } up with start := { phase := 5 } }, by decide +kernel⟩

theorem witness_StartUpPhases_8 : ∃ (ms : Nat) (s : State),
    (phaseDue 6 s = true ∧ firmwareRuns s = true ∧ eventRoom s = true) :=
  ⟨900, { up with start := { phase := 6 } }, by decide +kernel⟩

theorem witness_StartUpPhases_9 : ∃ (c : Int) (ms : Nat) (s : State),
    (s.start.warm = true ∧ -20 ≤ c ∧ s.start.stopped = none ∧ eventRoom s = true) :=
  ⟨-20, 900, { up with start := { phase := 3, warm := true } }, by decide +kernel⟩

theorem witness_StartUpPhases_10 : ∃ (s : State),
    (s.start.warm = true ∧ s.start.stopped = none ∧ s.start.warmSince + 39062500 ≤ s.tb.beat ∧ eventRoom s = true) :=
  ⟨{ up with tb := { beat := 39062500 }, start := { phase := 3, warm := true } }, by decide +kernel⟩

theorem witness_ErrorsScrubsAndRefresh_2 : ∃ (b : Nat) (s : State),
    (linkUp s = true ∧ s.pair.link.rxBatch = b) :=
  ⟨0, paired, by decide +kernel⟩

theorem witness_ErrorsScrubsAndRefresh_3 : ∃ (b : Nat) (s : State),
    (s.ecc.rwmRebuild = some b ∧ eventRoom s = true) :=
  ⟨0, { up with ecc := { rwmRebuild := some 0 } }, by decide +kernel⟩

theorem witness_ErrorsScrubsAndRefresh_4 : ∃ (page b : Nat) (s : State),
    (mget page s.ecc.mapRebuild = some b ∧ eventRoom s = true) :=
  ⟨3, 0, { up with ecc := { mapRebuild := [(3, 0)] } }, by decide +kernel⟩

theorem witness_ErrorsScrubsAndRefresh_5 : ∃ (seg page : Nat) (s : State),
    s.ecc.dirtyRecover = [(seg, page, [])] :=
  ⟨3, 4, { up with ecc := { dirtyRecover := [(3, 4, [])] } }, by decide +kernel⟩

theorem witness_ErrorsScrubsAndRefresh_6 : ∃ (path : BcsPath) (input : Bytes) (s : State),
    bcsOpen path 0xC074 s = true ∧
    (input.length = 24 ∧ fld 0 1 input < 3 ∧ fld 1 1 input = 0 ∧ zeroAt 4 4 input = true ∧ (fld 0 1 input = 0 ∨ fld 2 2 input = 0) ∧ scrubRangeOk (fld 0 1 input) (fld 2 2 input) (fld 8 8 input) (fld 16 8 input) s = true) ∧
    s.ecc.scrub.state ≠ 1 :=
  ⟨.sideband, [2, 0, 0, 0, 0, 0, 0, 0, 0, 0, 0, 0, 0, 0, 0, 0, 4, 0, 0, 0, 0, 0, 0, 0], up, by decide +kernel⟩

theorem witness_ErrorsScrubsAndRefresh_7 : ∃ (path : BcsPath) (input : Bytes) (s : State),
    bcsOpen path 0xC075 s = true ∧
    input.length = 0 :=
  ⟨.sideband, [], up, by decide +kernel⟩

theorem witness_ErrorsScrubsAndRefresh_8 : ∃ (s : State),
    (s.ecc.scrub.state = 1 ∧ s.ecc.scrub.abortAt = none ∧ s.ecc.scrub.scan = none ∧ scrubOnline s.ecc.scrub s = true ∧ eventRoom s = true) :=
  ⟨{ up with ecc := { scrub := { state := 1, target := 2, length := 4 } } }, by decide +kernel⟩

theorem witness_ErrorsScrubsAndRefresh_9 : ∃ (line : Nat) (s : State),
    (s.ecc.scrub.state = 1 ∧ s.ecc.scrub.abortAt = none ∧ s.ecc.scrub.scan = none ∧ s.ecc.scrub.target = 2 ∧ eventRoom s = true) ∧
    (s.ecc.scrub.start ≤ line ∧ line < s.ecc.scrub.start + s.ecc.scrub.length ∧ s.ecc.scrub.entries.length < 256) :=
  ⟨3, { up with ecc := { scrub := { state := 1, target := 2, length := 4 } } }, by decide +kernel⟩

theorem witness_ErrorsScrubsAndRefresh_10 : ∃ (req : CxlReq) (s : State),
    (servesMem req.head s = true ∧ attachmentAt (targetOf req s) req.dpa s = none) ∧
    (s.ecc.window = s.tb.beat / 2 ^ 26 ∧ mgetD 0 1 s.ecc.windowCe + 1 < param 0x0B04 4096 s) :=
  ⟨⟨0, 0, 9, 4096⟩, { up with cxl := { heads := [(0, { up := true })] } }, by decide +kernel⟩

theorem witness_ErrorsScrubsAndRefresh_11 : ∃ (req : CxlReq) (s : State),
    (servesMem req.head s = true ∧ attachmentAt (targetOf req s) req.dpa s = none ∧ eventRoom s = true) ∧
    (s.ecc.window = s.tb.beat / 2 ^ 26 ∧ mgetD 0 1 s.ecc.windowCe + 1 = param 0x0B04 4096 s ∧ s.ecc.thresholdDone = []) :=
  ⟨⟨0, 0, 9, 4096⟩, { up with ecc := { windowCe := [(1, 4095)] }, cxl := { heads := [(0, { up := true })] } }, by decide +kernel⟩

theorem witness_ErrorsScrubsAndRefresh_12 : ∃ (stack : Nat) (c : Int) (s : State),
    (stack < 2 ∧ (stackOf stack s).ready = false ∧ -10 ≤ c) :=
  ⟨1, 90, up, by decide +kernel⟩

theorem witness_ErrorsScrubsAndRefresh_13 : ∃ (c : BandChange) (s : State),
    (s.ecc.change = some c ∧ c.rate = false ∧ c.since + 4 ≤ s.tb.beat ∧ c.pc % 32 < 31) :=
  ⟨{ stack := 0, band := 2, old := 1, pc := 0, since := 0 }, { up with tb := { beat := 4 }, ecc := { change := some { stack := 0, band := 2, old := 1, pc := 0, since := 0 } } }, by decide +kernel⟩

theorem witness_ErrorsScrubsAndRefresh_14 : ∃ (c : BandChange) (s : State),
    (s.ecc.change = some c ∧ c.rate = true ∧ c.stack < 2 ∧ c.since + 64 ≤ s.tb.beat ∧ eventRoom s = true) :=
  ⟨{ stack := 0, band := 1, old := 0, pc := 0, since := 0, rate := true }, { up with tb := { beat := 64 }, ecc := { change := some { stack := 0, band := 1, old := 0, pc := 0, since := 0, rate := true } } }, by decide +kernel⟩

theorem witness_ErrorsScrubsAndRefresh_15 : ∃ (ch bank : Nat) (s : State),
    (ch < 64 ∧ bank < 64) :=
  ⟨63, 63, up, by decide +kernel⟩

theorem witness_CaptureControlActions_1 : ∃ (qid cid : Nat) (data : Bytes) (q : QueuePair) (c : GqpCmd) (s : State),
    queueOf qid s = some q ∧
    q.cmds = [c] ∧
    (c.cid = cid ∧ c.started = true ∧ c.running = false ∧ c.status = 0 ∧ c.src = [] ∧ c.bad = []) ∧
    (q.transport = 0 ∧ q.deleting = none) ∧
    (eOpcode c.entry = 0x10 ∧ actCode c.entry = 1 ∧ headerOk q c = true ∧ ePtrKind c.entry = 0 ∧ zeroAt 22 2 c.entry = true) ∧
    isInstrument (actIndex c.entry) s = true ∧
    ((ringOf (actIndex c.entry) s).state ≠ 2 ∧ (ringOf (actIndex c.entry) s).state ≠ 3 ∧ (ringOf (actIndex c.entry) s).state ≠ 4) ∧
    (eLength c.entry = 64 ∧ data.length = 64 ∧ cspecZero [] c.entry = true) ∧
    ringConfOk data (ringConfOf (eRegion c.entry) (eOffset c.entry) data) = true ∧
    bitOf 3 (fld 2 1 data) = false ∧
    ringRegionOk q.domain (ringConfOf (eRegion c.entry) (eOffset c.entry) data) s = true ∧
    partsApart (actIndex c.entry) (ringConfOf (eRegion c.entry) (eOffset c.entry) data) s = true :=
  ⟨1, 5, ringBytes, queueWith (act2 16 1 7 0 64 []), act2 16 1 7 0 64 [], withRegion { seat := 1, size := 4 } (portWith {} {} (withCmd1 (act2 16 1 7 0 64 []) up)), by decide +kernel⟩

theorem witness_CaptureControlActions_2 : ∃ (qid cid : Nat) (data : Bytes) (q : QueuePair) (c : GqpCmd) (s : State),
    queueOf qid s = some q ∧
    q.cmds = [c] ∧
    (c.cid = cid ∧ c.started = true ∧ c.running = false ∧ c.status = 0 ∧ c.src = [] ∧ c.bad = []) ∧
    (q.transport = 0 ∧ q.deleting = none) ∧
    (eOpcode c.entry = 0x10 ∧ actCode c.entry = 2 ∧ headerOk q c = true ∧ ePtrKind c.entry = 0 ∧ zeroAt 22 2 c.entry = true) ∧
    isInstrument (actIndex c.entry) s = true ∧
    (eRegion c.entry = 0 ∧ eOffset c.entry = 0) ∧
    (ringOf (actIndex c.entry) s).state ≠ 0 ∧
    (eLength c.entry % 96 = 0 ∧ 96 ≤ eLength c.entry ∧ eLength c.entry ≤ 6144 ∧ data.length = eLength c.entry) ∧
    (cspecZero [(32, 40)] c.entry = true ∧ atBeatOk c.entry s = true) ∧
    (chunksOf 96 data).all ruleOk = true :=
  ⟨1, 5, zeros 96, queueWith (act2 16 2 0 0 96 [9]), act2 16 2 0 0 96 [9], portWith { state := 3 } {} (withCmd1 (act2 16 2 0 0 96 [9]) up), by decide +kernel⟩

theorem witness_CaptureControlActions_3 : ∃ (qid cid : Nat) (q : QueuePair) (c : GqpCmd) (s : State),
    queueOf qid s = some q ∧
    q.cmds = [c] ∧
    (c.cid = cid ∧ c.started = true ∧ c.running = false ∧ c.status = 0 ∧ c.src = [] ∧ c.bad = []) ∧
    (q.transport = 0 ∧ q.deleting = none) ∧
    (eOpcode c.entry = 0x10 ∧ actCode c.entry = 3 ∧ headerOk q c = true ∧ ePtrKind c.entry = 0 ∧ zeroAt 22 2 c.entry = true) ∧
    isInstrument (actIndex c.entry) s = true ∧
    (eRegion c.entry = 0 ∧ eOffset c.entry = 0 ∧ eLength c.entry = 0) ∧
    ((ringOf (actIndex c.entry) s).state ≠ 0 ∧ (ringOf (actIndex c.entry) s).state ≠ 3 ∧ (ringOf (actIndex c.entry) s).state ≠ 4) ∧
    (cspecZero [(32, 41)] c.entry = true ∧ atBeatOk c.entry s = true ∧ fld 40 1 c.entry < 2) :=
  ⟨1, 5, queueWith (act2 16 3 0 0 0 [4, 0, 0, 0, 0, 0, 0, 0, 1]), act2 16 3 0 0 0 [4, 0, 0, 0, 0, 0, 0, 0, 1], portWith { state := 1 } {} (withCmd1 (act2 16 3 0 0 0 [4, 0, 0, 0, 0, 0, 0, 0, 1]) up), by decide +kernel⟩

theorem witness_CaptureControlActions_4 : ∃ (qid cid : Nat) (q : QueuePair) (c : GqpCmd) (s : State),
    queueOf qid s = some q ∧
    q.cmds = [c] ∧
    (c.cid = cid ∧ c.started = true ∧ c.running = false ∧ c.status = 0 ∧ c.src = [] ∧ c.bad = []) ∧
    (q.transport = 0 ∧ q.deleting = none) ∧
    (eOpcode c.entry = 0x10 ∧ actCode c.entry = 4 ∧ headerOk q c = true ∧ ePtrKind c.entry = 0 ∧ zeroAt 22 2 c.entry = true) ∧
    isInstrument (actIndex c.entry) s = true ∧
    (eRegion c.entry = 0 ∧ eOffset c.entry = 0 ∧ eLength c.entry = 0) ∧
    (ringOf (actIndex c.entry) s).state ≠ 0 ∧
    (cspecZero [(32, 40)] c.entry = true ∧ atBeatOk c.entry s = true) :=
  ⟨1, 5, queueWith (act2 16 4 0 0 0 [4]), act2 16 4 0 0 0 [4], portWith { state := 3 } {} (withCmd1 (act2 16 4 0 0 0 [4]) up), by decide +kernel⟩

theorem witness_CaptureControlActions_5 : ∃ (qid cid : Nat) (q : QueuePair) (c : GqpCmd) (s : State),
    queueOf qid s = some q ∧
    q.cmds = [c] ∧
    (c.cid = cid ∧ c.started = true ∧ c.running = false ∧ c.status = 0 ∧ c.src = [] ∧ c.bad = []) ∧
    (q.transport = 0 ∧ q.deleting = none) ∧
    (eOpcode c.entry = 0x10 ∧ actCode c.entry = 5 ∧ headerOk q c = true ∧ ePtrKind c.entry = 0 ∧ zeroAt 22 2 c.entry = true) ∧
    isInstrument (actIndex c.entry) s = true ∧
    (eRegion c.entry = 0 ∧ eOffset c.entry = 0 ∧ eLength c.entry = 64 ∧ cspecZero [] c.entry = true) :=
  ⟨1, 5, queueWith (act2 16 5 0 0 64 []), act2 16 5 0 0 64 [], portWith { state := 3, sample := [3] } {} (withCmd1 (act2 16 5 0 0 64 []) up), by decide +kernel⟩

theorem witness_CaptureControlActions_6 : ∃ (qid cid : Nat) (q : QueuePair) (c : GqpCmd) (conf : RingConf) (s : State),
    queueOf qid s = some q ∧
    q.cmds = [c] ∧
    (c.cid = cid ∧ c.started = true ∧ c.running = false ∧ c.status = 0 ∧ c.src = [] ∧ c.bad = []) ∧
    (q.transport = 0 ∧ q.deleting = none) ∧
    (eOpcode c.entry = 0x10 ∧ actCode c.entry = 6 ∧ headerOk q c = true ∧ ePtrKind c.entry = 0 ∧ zeroAt 22 2 c.entry = true) ∧
    isInstrument (actIndex c.entry) s = true ∧
    (eRegion c.entry = 0 ∧ eOffset c.entry = 0 ∧ eLength c.entry = 0 ∧ cspecZero [(40, 48)] c.entry = true) ∧
    ((ringOf (actIndex c.entry) s).conf = some conf ∧ conf.mode = 0) ∧
    (fld 40 8 c.entry % 32 = 0 ∧ (ringOf (actIndex c.entry) s).tail ≤ fld 40 8 c.entry ∧ fld 40 8 c.entry ≤ (ringOf (actIndex c.entry) s).durable) :=
  ⟨1, 5, queueWith (act2 16 6 0 0 0 (zeros 8 ++ [64])), act2 16 6 0 0 0 (zeros 8 ++ [64]), ringConfOf 7 0 ringBytes, portWith { conf := some (ringConfOf 7 0 ringBytes), state := 3, write := 96, tail := 32, durable := 64 } {} (withCmd1 (act2 16 6 0 0 0 (zeros 8 ++ [64])) up), by decide +kernel⟩

theorem witness_CaptureControlActions_7 : ∃ (path : BcsPath) (input : Bytes) (s : State),
    bcsOpen path 0xC060 s = true ∧
    (input.length = 64 ∧ eOpcode input = 0x10 ∧ actCode input = 3 ∧ zeroAt 22 2 input = true ∧ eRegion input = 0 ∧ eOffset input = 0 ∧ eLength input = 0) ∧
    isInstrument (actIndex input) s = true ∧
    ((ringOf (actIndex input) s).state = 1 ∧ cspecZero [(32, 41)] input = true ∧ atBeatOk input s = true ∧ fld 40 1 input < 2) :=
  ⟨.sideband, entry 16 0 0 0 515 [4], portWith { state := 1 } {} up, by decide +kernel⟩

theorem witness_CaptureRingAndStaging_1 : ∃ (p : Nat) (f : InstrFrame) (c : RingConf) (s : State),
    ((ringOf p s).conf = some c ∧ (ringOf p s).rules = [] ∧ isInstrument p s = true) ∧
    ((ringOf p s).state = 3 ∧ (ringOf p s).stopping = false ∧ c.cls = 0 ∧ c.defaultAction = 1 ∧ f.wireLen ≤ 16384) ∧
    bufferUsed p s + recordSize f.wireLen ≤ 262144 ∧
    (ringOf p s).write % c.dataSize + recordSize f.wireLen ≤ c.dataSize ∧
    (ringOf p s).write + recordSize f.wireLen ≤ (ringOf p s).tail + c.dataSize :=
  ⟨2, { bytes := zeros 60, wireLen := 64, fcsGood := true, pcsError := false, timestamp := 5 }, ringConfOf 7 0 ringBytes, portWith { conf := some (ringConfOf 7 0 ringBytes), state := 3 } {} up, by decide +kernel⟩

theorem witness_CaptureRingAndStaging_2 : ∃ (p : Nat) (f : InstrFrame) (c : RingConf) (s : State),
    ((ringOf p s).conf = some c ∧ (ringOf p s).rules = [] ∧ c.defaultAction = 2) :=
  ⟨2, { bytes := zeros 60, wireLen := 64, fcsGood := true, pcsError := false, timestamp := 5 }, { ringConfOf 7 0 ringBytes with defaultAction := 2 }, portWith { conf := some { ringConfOf 7 0 ringBytes with defaultAction := 2 }, state := 3 } {} up, by decide +kernel⟩

theorem witness_CaptureRingAndStaging_3 : ∃ (p : Nat) (x : List Bytes × Timed) (s : State),
    ((ringOf p s).newRules = [x] ∧ x.2.beat ≤ s.tb.beat ∧ x.2.waiter = .nobody) ∧
    eventRoom s = true :=
  ⟨2, ([zeros 96], ⟨0, .nobody⟩), portWith { state := 3, newRules := [([zeros 96], ⟨0, .nobody⟩)] } {} up, by decide +kernel⟩

theorem witness_CaptureRingAndStaging_4 : ∃ (p : Nat) (x : Timed) (s : State),
    ((ringOf p s).startAt = [(false, x)] ∧ x.beat ≤ s.tb.beat ∧ x.waiter = .nobody ∧ (ringOf p s).state ≠ 3) :=
  ⟨2, ⟨0, .nobody⟩, portWith { state := 2, startAt := [(false, ⟨0, .nobody⟩)] } {} up, by decide +kernel⟩

theorem witness_CaptureRingAndStaging_5 : ∃ (p : Nat) (x : Timed) (s : State),
    ((ringOf p s).startAt = [(true, x)] ∧ x.beat ≤ s.tb.beat ∧ x.waiter = .nobody ∧ (ringOf p s).state ≠ 3) :=
  ⟨2, ⟨0, .nobody⟩, portWith { state := 2, write := 64, startAt := [(true, ⟨0, .nobody⟩)] } {} up, by decide +kernel⟩

theorem witness_CaptureRingAndStaging_6 : ∃ (p : Nat) (x : Timed) (s : State),
    ((ringOf p s).stopAt = [x] ∧ x.beat ≤ s.tb.beat ∧ x.waiter = .nobody ∧ (ringOf p s).state = 3 ∧ (ringOf p s).buffer = []) :=
  ⟨2, ⟨0, .nobody⟩, portWith { state := 3, stopAt := [⟨0, .nobody⟩] } {} up, by decide +kernel⟩

theorem witness_CaptureRingAndStaging_7 : ∃ (p : Nat) (x : Timed) (off : Nat) (s : State),
    ((ringOf p s).releaseTo = [(off, x)] ∧ x.beat ≤ s.tb.beat ∧ x.waiter = .nobody ∧ (ringOf p s).tail ≤ off ∧ off ≤ (ringOf p s).durable) ∧
    ((ringOf p s).state = 5 ∧ (ringOf p s).stopping = false) :=
  ⟨2, ⟨0, .nobody⟩, 64, portWith { state := 5, write := 96, tail := 32, durable := 64, releaseTo := [(64, ⟨0, .nobody⟩)] } {} up, by decide +kernel⟩

theorem witness_CaptureRingAndStaging_8 : ∃ (s : State),
    16384 * stagedShare s < backlogAll s ∧
    s.cap.backlogHigh = false ∧
    eventRoom s = true :=
  ⟨{ up with cap := { chunks := [{ lcn := 0, port := 2, filled := 1000000000 }] } }, by decide +kernel⟩

theorem witness_CaptureRingAndStaging_9 : ∃ (p lcn addr r : Nat) (c : StagedChunk) (d : Region) (s : State),
    (stagedAt lcn s = some c ∧ c.lcn = lcn ∧ c.port = p) ∧
    chunkRegion lcn s = some (r, d) ∧
    programDue true c s = true ∧
    turnOfRing s = some p ∧
    canProgram .openData addr s = true ∧
    2 ≤ (freeStripes (addrPosition addr) s).length ∧
    canEncipher d s = true :=
  ⟨2, 64, 402653189, 1, { lcn := 64, port := 2, filled := 65536, first := 16384 }, {}, { up with ident := { lunsPerChannel := 1, blocksPerLun := 8, pagesPerBlock := 4 }, tb := { beat := 16384 }, reg := { table := [(1, {})], extentMap := [(1, [0])] }, cap := { chunks := [{ lcn := 64, port := 2, filled := 65536, first := 16384 }], chunkLimit := 4 } }, by decide +kernel⟩

theorem witness_CaptureRingAndStaging_10 : ∃ (p lcn addr r : Nat) (c : StagedChunk) (d : Region) (s : State),
    (stagedAt lcn s = some c ∧ c.lcn = lcn ∧ c.port = p) ∧
    chunkRegion lcn s = some (r, d) ∧
    (c.filled < 65536 ∧ c.first + 16384 ≤ s.tb.beat ∧ programDue false c s = true) ∧
    turnOfRing s = some p ∧
    canProgram .openData addr s = true ∧
    2 ≤ (freeStripes (addrPosition addr) s).length ∧
    canEncipher d s = true :=
  ⟨2, 64, 402653189, 1, { lcn := 64, port := 2, filled := 64 }, {}, { up with ident := { lunsPerChannel := 1, blocksPerLun := 8, pagesPerBlock := 4 }, tb := { beat := 16384 }, reg := { table := [(1, {})], extentMap := [(1, [0])] }, cap := { chunks := [{ lcn := 64, port := 2, filled := 64 }], chunkLimit := 4 } }, by decide +kernel⟩

theorem witness_ReplayControlActions_1 : ∃ (qid cid : Nat) (data : Bytes) (q : QueuePair) (c : GqpCmd) (s : State),
    queueOf qid s = some q ∧
    q.cmds = [c] ∧
    (c.cid = cid ∧ c.started = true ∧ c.running = false ∧ c.status = 0 ∧ c.src = [] ∧ c.bad = []) ∧
    (q.transport = 0 ∧ q.deleting = none) ∧
    (eOpcode c.entry = 0x11 ∧ actCode c.entry = 1 ∧ headerOk q c = true ∧ ePtrKind c.entry = 0 ∧ zeroAt 22 2 c.entry = true) ∧
    isInstrument (actIndex c.entry) s = true ∧
    (eRegion c.entry = 0 ∧ eOffset c.entry = 0 ∧ eLength c.entry = 64 ∧ cspecZero [] c.entry = true) ∧
    (stagingOk s = true ∧ channelBusy (channelOf (actIndex c.entry) s) = false) ∧
    (data.length = 64 ∧ (fld 0 1 data = 0 ∨ fld 0 1 data = 2) ∧ fld 1 1 data < 2 ∧ fld 2 1 data < 4 ∧ zeroAt 3 1 data = true) ∧
    (fld 4 4 data = 0 ∨ (1024 ≤ fld 4 4 data ∧ fld 4 4 data ≤ 2 ^ 21)) ∧
    zeroAt 8 56 data = true :=
  ⟨1, 5, zeros 64, queueWith (act2 17 1 0 0 64 []), act2 17 1 0 0 64 [], portWith {} {} (withCmd1 (act2 17 1 0 0 64 []) up), by decide +kernel⟩

theorem witness_ReplayControlActions_2 : ∃ (qid cid : Nat) (q : QueuePair) (c : GqpCmd) (d : Region) (s : State),
    queueOf qid s = some q ∧
    q.cmds = [c] ∧
    (c.cid = cid ∧ c.started = true ∧ c.running = false ∧ c.status = 0 ∧ c.src = [] ∧ c.bad = []) ∧
    (q.transport = 0 ∧ q.deleting = none) ∧
    (eOpcode c.entry = 0x11 ∧ actCode c.entry = 2 ∧ headerOk q c = true ∧ ePtrKind c.entry = 0 ∧ zeroAt 22 2 c.entry = true) ∧
    isInstrument (actIndex c.entry) s = true ∧
    (eLength c.entry % 32 = 0 ∧ 32 ≤ eLength c.entry ∧ eLength c.entry ≤ 4096 ∧ cspecZero [] c.entry = true) ∧
    ((channelOf (actIndex c.entry) s).state ≠ 0 ∧ channelBusy (channelOf (actIndex c.entry) s) = false) ∧
    regionStatus q.domain (eRegion c.entry) (eOffset c.entry) (eLength c.entry) false s = none ∧
    regionOf (eRegion c.entry) s = some d ∧
    (d.settee = false ∧ d.mirrored = false ∧ d.seat = s.ident.controllerId) ∧
    poisonedLines (eRegion c.entry) (eOffset c.entry) (eLength c.entry) s = [] ∧
    (((chunksOf 32 (readBytes (eRegion c.entry) (eOffset c.entry) (eLength c.entry) s)).zipIdx.all fun x => stepOk x.2 x.1) = true) :=
  ⟨1, 5, queueWith (act2 17 2 1 0 32 []), act2 17 2 1 0 32 [], { seat := 1 }, portWith {} { state := 1 } (withCmd1 (act2 17 2 1 0 32 []) { up with reg := { table := [(1, { seat := 1 })], extentMap := [(1, [0])] }, ti := { slotsTotal := 4, segs := [(0, { valid := 1 })], shelf := [(0, 3)] } }), by decide +kernel⟩

theorem witness_ReplayControlActions_3 : ∃ (qid cid : Nat) (q : QueuePair) (c : GqpCmd) (s : State),
    queueOf qid s = some q ∧
    q.cmds = [c] ∧
    (c.cid = cid ∧ c.started = true ∧ c.running = false ∧ c.status = 0 ∧ c.src = [] ∧ c.bad = []) ∧
    (q.transport = 0 ∧ q.deleting = none) ∧
    (eOpcode c.entry = 0x11 ∧ actCode c.entry = 3 ∧ headerOk q c = true ∧ ePtrKind c.entry = 0 ∧ zeroAt 22 2 c.entry = true) ∧
    isInstrument (actIndex c.entry) s = true ∧
    (eRegion c.entry = 0 ∧ eOffset c.entry = 0 ∧ eLength c.entry = 0 ∧ cspecZero [(32, 40)] c.entry = true ∧ atBeatOk c.entry s = true) ∧
    ((channelOf (actIndex c.entry) s).state = 2 ∨ (channelOf (actIndex c.entry) s).state = 6 ∨ (channelOf (actIndex c.entry) s).state = 7) ∧
    ((channelOf (actIndex c.entry) s).program ≠ [] ∧ programReadable q.domain (channelOf (actIndex c.entry) s).program s = true) :=
  ⟨1, 5, queueWith (act2 17 3 0 0 0 [4]), act2 17 3 0 0 0 [4], portWith {} { state := 2, program := [3 :: zeros 31], sent := 7 } (withCmd1 (act2 17 3 0 0 0 [4]) up), by decide +kernel⟩

theorem witness_ReplayControlActions_4 : ∃ (qid cid : Nat) (q : QueuePair) (c : GqpCmd) (s : State),
    queueOf qid s = some q ∧
    q.cmds = [c] ∧
    (c.cid = cid ∧ c.started = true ∧ c.running = false ∧ c.status = 0 ∧ c.src = [] ∧ c.bad = []) ∧
    (q.transport = 0 ∧ q.deleting = none) ∧
    (eOpcode c.entry = 0x11 ∧ actCode c.entry = 4 ∧ headerOk q c = true ∧ ePtrKind c.entry = 0 ∧ zeroAt 22 2 c.entry = true) ∧
    isInstrument (actIndex c.entry) s = true ∧
    (eRegion c.entry = 0 ∧ eOffset c.entry = 0 ∧ eLength c.entry = 0 ∧ cspecZero [(32, 40)] c.entry = true ∧ atBeatOk c.entry s = true) ∧
    (channelOf (actIndex c.entry) s).state ≠ 0 :=
  ⟨1, 5, queueWith (act2 17 4 0 0 0 [4]), act2 17 4 0 0 0 [4], portWith {} { state := 4 } (withCmd1 (act2 17 4 0 0 0 [4]) up), by decide +kernel⟩

theorem witness_ReplayControlActions_5 : ∃ (qid cid : Nat) (q : QueuePair) (c : GqpCmd) (s : State),
    queueOf qid s = some q ∧
    q.cmds = [c] ∧
    (c.cid = cid ∧ c.started = true ∧ c.running = false ∧ c.status = 0 ∧ c.src = [] ∧ c.bad = []) ∧
    (q.transport = 0 ∧ q.deleting = none) ∧
    (eOpcode c.entry = 0x11 ∧ actCode c.entry = 5 ∧ headerOk q c = true ∧ ePtrKind c.entry = 0 ∧ zeroAt 22 2 c.entry = true) ∧
    isInstrument (actIndex c.entry) s = true ∧
    (eRegion c.entry = 0 ∧ eOffset c.entry = 0 ∧ eLength c.entry = 64 ∧ cspecZero [] c.entry = true) :=
  ⟨1, 5, queueWith (act2 17 5 0 0 64 []), act2 17 5 0 0 64 [], portWith {} { state := 3, sample := [3] } (withCmd1 (act2 17 5 0 0 64 []) up), by decide +kernel⟩

theorem witness_ReplayControlActions_6 : ∃ (path : BcsPath) (input : Bytes) (s : State),
    bcsOpen path 0xC061 s = true ∧
    (input.length = 64 ∧ eOpcode input = 0x11 ∧ actCode input = 5 ∧ zeroAt 22 2 input = true ∧ eRegion input = 0 ∧ eOffset input = 0 ∧ eLength input = 64) ∧
    (isInstrument (actIndex input) s = true ∧ cspecZero [] input = true) :=
  ⟨.sideband, entry 17 0 0 64 517 [], portWith {} { state := 1 } up, by decide +kernel⟩

theorem witness_ReplayChannelBeatsAndFrames_1 : ∃ (ch : Nat) (x : Timed) (s : State),
    ((channelOf ch s).startAt = some x ∧ x.beat ≤ s.tb.beat ∧ x.waiter = .nobody ∧ (channelOf ch s).state = 3) ∧
    ((channelOf ch s).items = [] ∧ (channelOf ch s).fetch.ended = true ∧ eventRoom s = true) :=
  ⟨2, ⟨0, .nobody⟩, portWith {} { state := 3, startAt := some ⟨0, .nobody⟩, fetch := { ended := true } } up, by decide +kernel⟩

theorem witness_ReplayChannelBeatsAndFrames_2 : ∃ (ch : Nat) (x : Timed) (s : State),
    ((channelOf ch s).stopAt = [x] ∧ x.beat ≤ s.tb.beat ∧ x.waiter = .nobody ∧ channelBusy (channelOf ch s) = true ∧ (channelOf ch s).startAt = none) ∧
    eventRoom s = true :=
  ⟨2, ⟨0, .nobody⟩, portWith {} { state := 4, stopAt := [⟨0, .nobody⟩] } up, by decide +kernel⟩

theorem witness_ReplayChannelBeatsAndFrames_3 : ∃ (ch : Nat) (s : State),
    mayFetch (channelOf ch s) s = true ∧
    atEnd (channelOf ch s).program (channelOf ch s).fetch = true :=
  ⟨2, portWith {} { state := 3, program := [3 :: zeros 31] } up, by decide +kernel⟩

theorem witness_ReplayChannelBeatsAndFrames_4 : ∃ (ch : Nat) (i : ReplayItem) (rest : List ReplayItem) (s : State),
    ((channelOf ch s).items = i :: rest ∧ i.kind = .frame ∧ i.staged = false ∧ i.checkLeft = 0) ∧
    mhas ch s.cap.channels = true :=
  ⟨2, { kind := .frame, step := 0, cyc := 7 }, [], portWith {} { state := 3, items := [{ kind := .frame, step := 0, cyc := 7 }] } up, by decide +kernel⟩

theorem witness_ReplayChannelBeatsAndFrames_5 : ∃ (ch cycle : Nat) (i : ReplayItem) (rest : List ReplayItem) (s : State),
    ((channelOf ch s).due = i :: rest ∧ i.poison = false ∧ i.checkBad = false ∧ (channelOf ch s).stopAfter = none) ∧
    s.tb.beat * 1024 + cycle = max i.cyc (channelOf ch s).wireFree :=
  ⟨2, 7, { kind := .frame, step := 0, cyc := 7, frame := zeros 64 }, [], portWith {} { state := 4, due := [{ kind := .frame, step := 0, cyc := 7, frame := zeros 64 }] } up, by decide +kernel⟩

theorem witness_LowHalfLatchesForTheHighHalf_1 : ∃ (s : State),
    (blockPowered 0x20044 s = true ∧ s.seq.vstby = true ∧ s.seq.clk25 = true) :=
  ⟨up, by decide +kernel⟩

theorem witness_LowHalfLatchesForTheHighHalf_2 : ∃ (s : State),
    (blockPowered 0x20044 s = true ∧ s.seq.vstby = true ∧ s.seq.clk25 = true) :=
  ⟨up, by decide +kernel⟩

theorem witness_BacklogIsReportedOnce_1 : ∃ (s : State),
    (16384 * stagedShare s < backlogAll s ∧ s.cap.backlogHigh = false ∧ eventRoom s = true) :=
  ⟨{ up with cap := { chunks := [{ lcn := 0, port := 2, filled := 1000000000 }] } }, by decide +kernel⟩

theorem witness_BacklogIsReportedOnce_2 : ∃ (s : State),
    (s.cap.backlogHigh = true ∨ backlogAll s ≤ 16384 * stagedShare s) :=
  ⟨{ up with cap := { backlogHigh := true } }, by decide +kernel⟩

theorem witness_NoByteBeforeTheTag_1 : ∃ (number : Nat) (flits : List Bytes) (s : State),
    (linkUp s = true ∧ number = s.pair.link.rxBatch) ∧
    ((flits.any fun f => headerBits 3 0 f == 3) = true) ∧
    ((flits.getLast?.any fun f => headerBits 3 0 f == 4 && slice 8 16 f == gcmTag (keyOf (1 - s.pair.position) s.pair.link) (batchNonce (partnerId s) number) ((flits.filter fun f => headerBits 3 0 f == 3).flatMap fun f => f.take 8) ((flits.filter fun f => headerBits 3 0 f == 3).flatMap fun f => slice 8 240 f)) = false) :=
  ⟨0, [3 :: zeros 255], paired, by decide +kernel⟩

theorem witness_EveryStepKeepsMemoriesAndBuffers_1 : ∃ (s t : State),
    step s = .next t :=
  ⟨{ up with pending := [.beatLoRead] }, { up with out := [.regRead 0] }, rfl⟩

theorem witness_FusesSecretAndCountsStand_1 : ∃ (s t : State),
    step s = .next t :=
  ⟨{ up with pending := [.beatLoRead] }, { up with out := [.regRead 0] }, rfl⟩

theorem witness_EveryCommandCompletes_1 : ∃ (c : Instr) (s : State),
    outsideOf c = none :=
  ⟨.beatLoRead, up, by decide +kernel⟩

theorem witness_EveryCommandCompletes_2 : ∃ (c : Instr) (offset : Nat) (s : State),
    outsideOf c = some offset :=
  ⟨.registerRead 0x80000 true, 0x80000, up, by decide +kernel⟩

theorem witness_TheExecutorGatesEveryCommand_1 : ∃ (c : Instr) (path : BcsPath) (opcode : Nat) (input : Bytes) (s : State),
    bcsRow c = some (path, opcode, input) ∧
    (path = .sideband → opcode ≠ 0xC080 ∧ opcode ≠ 0xC081) ∧
    noPair s = true :=
  ⟨.formPair .sideband [], .sideband, 0xC000, [], { up with mc := { failed0 := true, failed1 := true } }, by decide +kernel⟩

theorem witness_TheExecutorGatesEveryCommand_2 : ∃ (c : Instr) (path : BcsPath) (opcode : Nat) (input : Bytes) (s : State),
    bcsRow c = some (path, opcode, input) ∧
    (path = .sideband → opcode ≠ 0xC080 ∧ opcode ≠ 0xC081) ∧
    (noPair s = false ∧ s.mc.serving = false ∧ s.mc.restart.isSome = true) :=
  ⟨.formPair .sideband [], .sideband, 0xC000, [], { up with mc := { restart := some { cause := 1, beat := 0 } } }, by decide +kernel⟩

theorem witness_TheExecutorGatesEveryCommand_3 : ∃ (c : Instr) (path : BcsPath) (opcode : Nat) (input : Bytes) (s : State),
    bcsRow c = some (path, opcode, input) ∧
    (path = .sideband → opcode ≠ 0xC080 ∧ opcode ≠ 0xC081) ∧
    (noPair s = false ∧ s.mc.serving = true ∧ s.mc.rom = true ∧ (romServes opcode = false ∨ path ≠ .sideband)) :=
  ⟨.formPair .sideband [], .sideband, 0xC000, [], { up with mc := { serving := true, rom := true } }, by decide +kernel⟩

theorem witness_TheExecutorGatesEveryCommand_4 : ∃ (c : Instr) (path : BcsPath) (opcode : Nat) (input : Bytes) (s : State),
    bcsRow c = some (path, opcode, input) ∧
    (noPair s = false ∧ s.mc.serving = true ∧ s.mc.rom = false ∧ needsPrivilege opcode = true ∧ privileged path = false) :=
  ⟨.formPair (.primary 0) [], .primary 0, 0xC000, [], up, by decide +kernel⟩

/-- An input of one byte more than a transfer buffer holds. -/
def tooLong : Bytes := List.replicate 65537 0

theorem tooLong_length : tooLong.length = 65537 := List.length_replicate

theorem test_wf_accepts_1 : (([
    .mmioRegisterWrite (.ld 0) 0 0, .backlogLimit 0, .getSlotTable .sideband [], .setSlotTable .sideband [],
    .activateSlotTable .sideband [], .ptpMessage 0 true 0, .writeAdmission 0, .writeAcknowledge 0,
    .journalRecordComplete 0, .persistFence 0 0, .persistFenceComplete 0 0, .chestVerifyFailure 0,
    .drawerBankError 0 0, .drawerBankDisable 0, .segmentSlotRequest 0, .pageArrival 0 0,
    .shelfPageFailure 0 0, .drainPlacement 0, .rowClose 0 0 0, .rowCloseTimeout 0 0 0,
    .writeBack 0 0, .writeBackComplete 0, .relocationComplete 0 0, .chunkReadComplete 0 default,
    .garbageCollection 0, .freeStripeExhausted 0, .wearLevelRelocation 0, .readDisturbRefresh 0 0,
    .nandStatusFailure 0 0 true, .lunFailure 0, .rebuildComplete 0, .createRegion .sideband [],
    .deleteRegion .sideband [], .resizeRegion .sideband [], .getRegion .sideband [], .listRegions .sideband [],
    .setRegionAttributes .sideband [], .attachExtent .sideband [], .detachExtent .sideband [], .grantMemoryKey .sideband [],
    .revokeMemoryKey .sideband [], .getCapacity .sideband [], .regionChangeBoundary 0, .regionChangeDrained 0,
    .readOnlyTakesEffect 0, .domainMaskTakesEffect 0, .formPair .sideband [], .armPairJoin .sideband [],
    .dissolvePair .sideband [], .getPairStatus .sideband [], .moveSeat .sideband [], .moveChair .sideband [],
    .admitReplacement .sideband [], .setStandbyChecks .sideband [], .getPairHealth .sideband [], .forceSeat .sideband [],
    .setWitnessPath .sideband [], .hello [], .encapsulationKey [], .kemCiphertext [],
    .laneFault 0 true, .mplLinkInService (List.replicate 8 0), .batchReceive 0 [], .batchAck 0] : List Instr).all Instr.wf) = true := by decide

theorem test_wf_accepts_2 : (([
    .batchNak 0, .heartbeat 0 0 0, .heartbeatEcho 0, .taken 0,
    .witnessHeartbeat 0 [], .mirrorWrite 0 0 true [], .mirrorAccept 0 0, .mirrorAbort 0 0,
    .mirrorSeal 0 0 [], .mirrorDone 0, .metaCopy 0 [], .metaDone 0,
    .fwdRequest 0 0 0 default, .fwdBcs 0 0 true [], .fwdResponse 0 0 [] [], .bcsResponse 0 0 [],
    .resyncChunk 0 0 0 true [] [], .mplCompare 0 0 0, .seatMoveComplete 0, .standbySelfTest 0 0 true,
    .pairJoin [], .resyncMark 0, .resyncComplete 0, .joinWaitTimeout 0,
    .headLinkUp 0 0 0 0, .headLinkDown 0 0, .perstNAssert 0, .cxlMemRead default default,
    .cxlMemWrite default 0 0 true, .missFillReturn 0 0, .victimHandoff 0 0, .frontCacheEccError 0 0,
    .frontCacheBankEmpty 0 0, .addDynamicCapacityResponse 0 [] true, .offerTimeout 0, .releaseDynamicCapacity 0 [],
    .detachTimeout 0, .gpfPhase1 0, .gpfPhase2 0, .identify .sideband [],
    .backgroundOperationStatus .sideband [], .getEventRecords .sideband [], .clearEventRecords .sideband [], .getEventInterruptPolicy .sideband [],
    .setEventInterruptPolicy .sideband [], .getFwInfo .sideband [], .transferFw .sideband [], .activateFw .sideband [],
    .getTimestamp .sideband [], .setTimestamp .sideband [], .getSupportedLogs .sideband [], .getLog .sideband [],
    .identifyMemoryDevice .sideband [], .getPartitionInfo .sideband [], .setPartitionInfo .sideband [], .getLsa .sideband [],
    .setLsa .sideband [], .getHealthInfo .sideband [], .getAlertConfiguration .sideband [], .setAlertConfiguration .sideband [],
    .getShutdownState .sideband [], .setShutdownState .sideband [], .getPoisonList .sideband [], .injectPoison .sideband []] : List Instr).all Instr.wf) = true := by decide

theorem test_wf_accepts_3 : (([
    .clearPoison .sideband [], .getScanMediaCapabilities .sideband [], .scanMedia .sideband [], .getScanMediaResults .sideband [],
    .getDynamicCapacityConfiguration .sideband [], .getDynamicCapacityExtentList .sideband [], .cxlSanitize .sideband [], .secureErase .sideband [],
    .getLdInfo .sideband [], .getLdAllocations .sideband [], .setLdAllocations .sideband [], .ethLinkChange 0 true 0,
    .fabricFrame 0 0 default, .rdmaWrite default [], .rdmaWriteWithImmediate default [] 0, .send default [],
    .sendWithImmediate default [] 0, .rdmaRead default 0, .compareAndSwap default 0 0, .fetchAndAdd default 0,
    .atomicWrite default 0, .flush default 0, .ack 0 0 0, .nak 0 0 0,
    .rnrNak 0 0 0, .readResponse 0 0 [], .atomicAcknowledge 0 0 0, .cnp 0,
    .rateIncrease 0, .ackTimeout 0, .rnrTimerExpiry 0, .contextSwapComplete 0,
    .keyRevocation 0, .revocationComplete 0, .counterFire 0, .workRequestIssue 0,
    .qpError 0 0 0, .createQp .sideband [], .modifyQp .sideband [], .queryQp .sideband [],
    .destroyQp .sideband [], .setGid .sideband [], .getPortStatus .sideband [], .triggerCounter .sideband [],
    .mpWrite default [], .mpWriteImm default [], .mpMessageComplete 0 0, .mpReadReq default,
    .mpReassemblyTimeout 0 0, .sqTailDoorbell 0 0 0, .cqHeadDoorbell 0 0 0, .aqEnable 0,
    .aqDisable 0, .commandFetch 0 (List.replicate 64 0) [], .read 0 0 default, .write 0 0 [],
    .writeZeroes 0 0, .copy 0 0, .compare 0 0 [], .drainToCabinet 0 0,
    .drainToCabinetComplete 0 0, .checkValue 0 0 [], .scanPattern 0 0 [], .sealData 0 0 []] : List Instr).all Instr.wf) = true := by decide

theorem test_wf_accepts_4 : (([
    .unsealData 0 0 [], .triggerArm 0 0, .triggerArmEffect 0, .bcsTunnel 0 [],
    .createQueuePair .sideband [], .deleteQueuePair .sideband [], .queryQueuePair .sideband [], .commandCapsule 0 0 [],
    .transferReadySend 0 0, .pieceDelivery 0 0 0 0 [], .transferTimeout 0, .notice 0,
    .interruptAggregationExpiry 0, .hostMemoryFailure 0 0 0 0, .instrumentFrame 0 default, .stagedChunkProgram 0 0 0,
    .stagedChunkTimeout 0 0 0, .captureConfigure 0 0 [], .setRules 0 0 [], .ruleSetActivation 0,
    .captureStart 0 0, .ringStartBeat 0, .captureStop 0 0, .ringStopBeat 0,
    .captureStatus 0 0, .release 0 0, .tailRelease 0, .replayConfigure 0 0 [],
    .load 0 0, .replayStart 0 0, .channelStartBeat 0, .replayStop 0 0,
    .channelStopBeat 0, .replayStatus 0 0, .captureControl .sideband [], .replayControl .sideband [],
    .replayPrefetch 0, .recordStaged 0, .frameLaunch 0 0, .sliceFault 0,
    .nonceWindowReservation 0, .keySlotChangeEffect 0, .uncorrectableError default, .dirtyPageRecovery 0 0,
    .mapPageRebuild 0, .startScrub .sideband [], .getScrubSummary .sideband [], .scrubEnd [],
    .stackTemperatureReading 0 0, .fullRateChange 0, .refreshDue 0 0, .backgroundCommandComplete 0,
    .registerWrite 0 0 true, .registerRead 0 true, .bcsLoad 0 [] true, .bcsExecute 0 0 true,
    .bcsFetch 0 true, .getUnitPower .sideband [], .setUnitPower .sideband [], .getParameter .sideband [],
    .setParameter .sideband [], .listParameters .sideband [], .enterDeviceStandby .sideband [], .readEvents .sideband []] : List Instr).all Instr.wf) = true := by decide

theorem test_wf_accepts_5 : (([
    .getRecorderStatus .sideband [], .identifyController .sideband [], .getIdentityKey .sideband [], .getAttestationReport .sideband [],
    .getProtectionLevel .sideband [], .setProtectionLevel .sideband [], .sanitize .sideband [], .getSparesInventory .sideband [],
    .getEraseCounts .sideband [], .getStripeState .sideband [], .readWearLog .sideband [], .getSequencerStatus .sideband [],
    .clearLockout .sideband [], .powerDown .sideband [], .bindTransformStream .sideband [], .signingWindowReservation 0,
    .railDebounceComplete 0, .stepTimeout 0 0, .railLow 0, .fallTimeout 0,
    .powerGoodLoss 0, .wdiEdge 0, .wdiWindowExpiry 0, .thermalReading 0 0,
    .idleTimerEntry 0, .unitWorkArrival 0 0, .commandedStateEntry 0, .startUpFirmwarePhase 0 0 0 0 [],
    .startUpJournalPhase 0, .startUpMapPhase true true 0, .startUpRegionsPhase [], .startUpLinksPhase 0,
    .warmUpEnd 0 0, .perstNDeassert 0, .headLinkPowerStateChange 0 0, .jtagInstruction 0,
    .dcdManagementCommand .sideband 0 []] : List Instr).all Instr.wf) = true := by decide

theorem test_wf_refuses_1 : (([
    .mmioRegisterWrite (.ld 0) 524288 0, .mmioRegisterWrite (.ld 256) 0 0, .backlogLimit 256, .getSlotTable (.admin 65536) [],
    .setSlotTable (.admin 65536) [], .activateSlotTable (.admin 65536) [], .ptpMessage 16 true 0, .writeAdmission 18446744073709551616,
    .writeAcknowledge 18446744073709551616, .journalRecordComplete 18446744073709551616, .persistFence 16384 0, .persistFence 0 65536,
    .persistFenceComplete 16384 0, .persistFenceComplete 0 65536, .chestVerifyFailure 4194304, .drawerBankError 16 0,
    .drawerBankError 0 8192, .drawerBankDisable 16, .segmentSlotRequest 268435456, .pageArrival 268435456 0,
    .pageArrival 0 512, .shelfPageFailure 49152 0, .shelfPageFailure 0 5, .drainPlacement 18446744073709551616,
    .rowClose 32 0 0, .rowClose 0 4194304 0, .rowClose 0 0 4194304, .rowCloseTimeout 32 0 0,
    .rowCloseTimeout 0 4194304 0, .rowCloseTimeout 0 0 4194304, .writeBack 8589934592 0, .writeBack 0 17592186044416,
    .writeBackComplete 8589934592, .relocationComplete 8589934592 0, .relocationComplete 0 17592186044416, .chunkReadComplete 8589934592 default,
    .chunkReadComplete 0 (.retry 256), .garbageCollection 32, .freeStripeExhausted 32, .wearLevelRelocation 32,
    .readDisturbRefresh 32 0, .readDisturbRefresh 0 4194304, .nandStatusFailure 2048 0 true, .nandStatusFailure 0 4194304 true,
    .lunFailure 2048, .rebuildComplete 2048, .createRegion (.admin 65536) [], .deleteRegion (.admin 65536) [],
    .resizeRegion (.admin 65536) [], .getRegion (.admin 65536) [], .listRegions (.admin 65536) [], .setRegionAttributes (.admin 65536) [],
    .attachExtent (.admin 65536) [], .detachExtent (.admin 65536) [], .grantMemoryKey (.admin 65536) [], .revokeMemoryKey (.admin 65536) [],
    .getCapacity (.admin 65536) [], .regionChangeBoundary 4096, .regionChangeDrained 4096, .readOnlyTakesEffect 4096,
    .domainMaskTakesEffect 4096, .formPair (.admin 65536) [], .armPairJoin (.admin 65536) [], .dissolvePair (.admin 65536) []] : List Instr).any Instr.wf) = false := by decide

theorem test_wf_refuses_2 : (([
    .getPairStatus (.admin 65536) [], .moveSeat (.admin 65536) [], .moveChair (.admin 65536) [], .admitReplacement (.admin 65536) [],
    .setStandbyChecks (.admin 65536) [], .getPairHealth (.admin 65536) [], .forceSeat (.admin 65536) [], .setWitnessPath (.admin 65536) [],
    .laneFault 8 true, .mplLinkInService [], .batchReceive 18446744073709551616 [], .batchAck 18446744073709551616,
    .batchNak 18446744073709551616, .heartbeat 18446744073709551616 0 0, .heartbeat 0 4294967296 0, .heartbeat 0 0 4294967296,
    .heartbeatEcho 18446744073709551616, .taken 4294967296, .witnessHeartbeat 16 [], .mirrorWrite 4096 0 true [],
    .mirrorWrite 0 18446744073709551616 true [], .mirrorWrite 0 0 true [{ (default : LineWrite) with line := 18446744073709551616 }], .mirrorAccept 4096 0, .mirrorAccept 0 18446744073709551616,
    .mirrorAbort 4096 0, .mirrorAbort 0 18446744073709551616, .mirrorSeal 4096 0 [], .mirrorSeal 0 18446744073709551616 [],
    .mirrorSeal 0 0 [{ (default : SealRun) with count := 4294967296 }], .mirrorDone 18446744073709551616, .metaCopy 18446744073709551616 [], .metaCopy 0 [.keySlot 4096 0 0 0 []],
    .metaDone 18446744073709551616, .fwdRequest 65536 0 0 default, .fwdRequest 0 4096 0 default, .fwdRequest 0 0 18446744073709551616 default,
    .fwdRequest 0 0 0 (.read 4294967296), .fwdBcs 65536 0 true [], .fwdBcs 0 65536 true [], .fwdResponse 65536 0 [] [],
    .fwdResponse 0 65536 [] [], .fwdResponse 0 0 [1024] [], .bcsResponse 65536 0 [], .bcsResponse 0 65536 [],
    .resyncChunk 4096 0 0 true [] [], .resyncChunk 0 18446744073709551616 0 true [] [], .resyncChunk 0 0 18446744073709551616 true [] [], .resyncChunk 0 0 0 true [] [1024],
    .mplCompare 4096 0 0, .mplCompare 0 18446744073709551616 0, .seatMoveComplete 4096, .standbySelfTest 256 0 true,
    .standbySelfTest 0 4294967296 true, .pairJoin [{ (default : JoinView) with state := 4 }], .resyncMark 4096, .resyncComplete 4096,
    .joinWaitTimeout 4096, .headLinkUp 16 0 0 0, .headLinkUp 0 17 0 0, .headLinkUp 0 0 4 0,
    .headLinkUp 0 0 0 4, .headLinkDown 16 0, .headLinkDown 0 256, .perstNAssert 16] : List Instr).any Instr.wf) = false := by decide

theorem test_wf_refuses_3 : (([
    .cxlMemRead { (default : CxlReq) with head := 16 } default, .cxlMemRead default { (default : Corrected) with shelf := [103079215104] }, .cxlMemWrite { (default : CxlReq) with head := 16 } 0 0 true, .missFillReturn 16 0,
    .missFillReturn 0 16, .victimHandoff 16 0, .victimHandoff 0 16, .frontCacheEccError 16 0,
    .frontCacheEccError 0 9007199254740992, .frontCacheBankEmpty 16 0, .frontCacheBankEmpty 0 6, .addDynamicCapacityResponse 256 [] true,
    .offerTimeout 1048576, .releaseDynamicCapacity 256 [], .detachTimeout 1048576, .gpfPhase1 16,
    .gpfPhase2 16, .identify (.admin 65536) [], .backgroundOperationStatus (.admin 65536) [], .getEventRecords (.admin 65536) [],
    .clearEventRecords (.admin 65536) [], .getEventInterruptPolicy (.admin 65536) [], .setEventInterruptPolicy (.admin 65536) [], .getFwInfo (.admin 65536) [],
    .transferFw (.admin 65536) [], .activateFw (.admin 65536) [], .getTimestamp (.admin 65536) [], .setTimestamp (.admin 65536) [],
    .getSupportedLogs (.admin 65536) [], .getLog (.admin 65536) [], .identifyMemoryDevice (.admin 65536) [], .getPartitionInfo (.admin 65536) [],
    .setPartitionInfo (.admin 65536) [], .getLsa (.admin 65536) [], .setLsa (.admin 65536) [], .getHealthInfo (.admin 65536) [],
    .getAlertConfiguration (.admin 65536) [], .setAlertConfiguration (.admin 65536) [], .getShutdownState (.admin 65536) [], .setShutdownState (.admin 65536) [],
    .getPoisonList (.admin 65536) [], .injectPoison (.admin 65536) [], .clearPoison (.admin 65536) [], .getScanMediaCapabilities (.admin 65536) [],
    .scanMedia (.admin 65536) [], .getScanMediaResults (.admin 65536) [], .getDynamicCapacityConfiguration (.admin 65536) [], .getDynamicCapacityExtentList (.admin 65536) [],
    .cxlSanitize (.admin 65536) [], .secureErase (.admin 65536) [], .getLdInfo (.admin 65536) [], .getLdAllocations (.admin 65536) [],
    .setLdAllocations (.admin 65536) [], .ethLinkChange 16 true 0, .ethLinkChange 0 true 4, .fabricFrame 16 0 default,
    .fabricFrame 0 4294967296 default, .fabricFrame 0 0 (.arpOrNd 17), .rdmaWrite { (default : RdmaReq) with qp := 65536 } [], .rdmaWriteWithImmediate default [] 4294967296,
    .rdmaWriteWithImmediate { (default : RdmaReq) with qp := 65536 } [] 0, .send { (default : RdmaReq) with qp := 65536 } [], .sendWithImmediate default [] 4294967296, .sendWithImmediate { (default : RdmaReq) with qp := 65536 } [] 0] : List Instr).any Instr.wf) = false := by decide

theorem test_wf_refuses_4 : (([
    .rdmaRead default 4294967296, .rdmaRead { (default : RdmaReq) with qp := 65536 } 0, .compareAndSwap { (default : RdmaReq) with qp := 65536 } 0 0, .fetchAndAdd { (default : RdmaReq) with qp := 65536 } 0,
    .atomicWrite { (default : RdmaReq) with qp := 65536 } 0, .flush default 4294967296, .flush { (default : RdmaReq) with qp := 65536 } 0, .ack 65536 0 0,
    .ack 0 16777216 0, .ack 0 0 32, .nak 65536 0 0, .nak 0 16777216 0,
    .nak 0 0 256, .rnrNak 65536 0 0, .rnrNak 0 16777216 0, .rnrNak 0 0 32,
    .readResponse 65536 0 [], .readResponse 0 16777216 [], .atomicAcknowledge 65536 0 0, .atomicAcknowledge 0 16777216 0,
    .cnp 65536, .rateIncrease 65536, .ackTimeout 65536, .rnrTimerExpiry 65536,
    .contextSwapComplete 65536, .keyRevocation 1048576, .revocationComplete 1048576, .counterFire 16384,
    .workRequestIssue 65536, .qpError 65536 0 0, .qpError 0 256 0, .qpError 0 0 65536,
    .createQp (.admin 65536) [], .modifyQp (.admin 65536) [], .queryQp (.admin 65536) [], .destroyQp (.admin 65536) [],
    .setGid (.admin 65536) [], .getPortStatus (.admin 65536) [], .triggerCounter (.admin 65536) [], .mpWrite { (default : Mpeth) with path := 8 } [],
    .mpWriteImm { (default : Mpeth) with path := 8 } [], .mpMessageComplete 65536 0, .mpMessageComplete 0 16777216, .mpReadReq { (default : Mpeth) with path := 8 },
    .mpReassemblyTimeout 65536 0, .mpReassemblyTimeout 0 16777216, .sqTailDoorbell 16 0 0, .sqTailDoorbell 0 16384 0,
    .cqHeadDoorbell 16 0 0, .cqHeadDoorbell 0 16384 0, .aqEnable 16, .aqDisable 16,
    .commandFetch 16384 (List.replicate 64 0) [], .commandFetch 0 [] [], .read 16384 0 default, .read 0 65536 default,
    .read 0 0 { (default : Corrected) with shelf := [103079215104] }, .write 16384 0 [], .write 0 65536 [], .writeZeroes 16384 0,
    .writeZeroes 0 65536, .copy 16384 0, .copy 0 65536, .compare 16384 0 []] : List Instr).any Instr.wf) = false := by decide

theorem test_wf_refuses_5 : (([
    .compare 0 65536 [], .drainToCabinet 16384 0, .drainToCabinet 0 65536, .drainToCabinetComplete 16384 0,
    .drainToCabinetComplete 0 65536, .checkValue 16384 0 [], .checkValue 0 65536 [], .scanPattern 16384 0 [],
    .scanPattern 0 65536 [], .sealData 16384 0 [], .sealData 0 65536 [], .unsealData 16384 0 [],
    .unsealData 0 65536 [], .triggerArm 16384 0, .triggerArm 0 65536, .triggerArmEffect 16384,
    .bcsTunnel 65536 [], .createQueuePair (.admin 65536) [], .deleteQueuePair (.admin 65536) [], .queryQueuePair (.admin 65536) [],
    .commandCapsule 65536 0 [], .commandCapsule 0 16777216 [], .transferReadySend 16384 0, .transferReadySend 0 65536,
    .pieceDelivery 65536 0 0 0 [], .pieceDelivery 0 4294967296 0 0 [], .pieceDelivery 0 0 4294967296 0 [], .pieceDelivery 0 0 0 18446744073709551616 [],
    .transferTimeout 16384, .notice 16384, .interruptAggregationExpiry 16384, .hostMemoryFailure 16384 0 0 0,
    .hostMemoryFailure 0 65536 0 0, .hostMemoryFailure 0 0 256 0, .hostMemoryFailure 0 0 0 18446744073709551616, .instrumentFrame 16 default,
    .instrumentFrame 0 { (default : InstrFrame) with bytes := [0] }, .stagedChunkProgram 16 0 0, .stagedChunkProgram 0 4294967296 0, .stagedChunkProgram 0 0 17592186044416,
    .stagedChunkTimeout 16 0 0, .stagedChunkTimeout 0 4294967296 0, .stagedChunkTimeout 0 0 17592186044416, .captureConfigure 16384 0 [],
    .captureConfigure 0 65536 [], .setRules 16384 0 [], .setRules 0 65536 [], .ruleSetActivation 16,
    .captureStart 16384 0, .captureStart 0 65536, .ringStartBeat 16, .captureStop 16384 0,
    .captureStop 0 65536, .ringStopBeat 16, .captureStatus 16384 0, .captureStatus 0 65536,
    .release 16384 0, .release 0 65536, .tailRelease 16, .replayConfigure 16384 0 [],
    .replayConfigure 0 65536 [], .load 16384 0, .load 0 65536, .replayStart 16384 0] : List Instr).any Instr.wf) = false := by decide

theorem test_wf_refuses_6 : (([
    .replayStart 0 65536, .channelStartBeat 16, .replayStop 16384 0, .replayStop 0 65536,
    .channelStopBeat 16, .replayStatus 16384 0, .replayStatus 0 65536, .captureControl (.admin 65536) [],
    .replayControl (.admin 65536) [], .replayPrefetch 16, .recordStaged 16, .frameLaunch 16 0,
    .frameLaunch 0 18446744073709551616, .sliceFault 17, .nonceWindowReservation 18446744073709551616, .keySlotChangeEffect 4096,
    .uncorrectableError (.mapPage 1048576), .dirtyPageRecovery 268435456 0, .dirtyPageRecovery 0 512, .mapPageRebuild 1048576,
    .startScrub (.admin 65536) [], .getScrubSummary (.admin 65536) [], .scrubEnd [{ (default : ScrubFind) with region := 4096 }], .stackTemperatureReading 2 0,
    .stackTemperatureReading 0 128, .stackTemperatureReading 0 (-129), .fullRateChange 2, .refreshDue 64 0,
    .refreshDue 0 64, .backgroundCommandComplete 65536, .registerWrite 524288 0 true, .registerRead 524288 true,
    .bcsLoad 65536 [] true, .bcsExecute 65536 0 true, .bcsExecute 0 4294967296 true, .bcsFetch 65536 true,
    .getUnitPower (.admin 65536) [], .setUnitPower (.admin 65536) [], .getParameter (.admin 65536) [], .setParameter (.admin 65536) [],
    .listParameters (.admin 65536) [], .enterDeviceStandby (.admin 65536) [], .readEvents (.admin 65536) [], .getRecorderStatus (.admin 65536) [],
    .identifyController (.admin 65536) [], .getIdentityKey (.admin 65536) [], .getAttestationReport (.admin 65536) [], .getProtectionLevel (.admin 65536) [],
    .setProtectionLevel (.admin 65536) [], .sanitize (.admin 65536) [], .getSparesInventory (.admin 65536) [], .getEraseCounts (.admin 65536) [],
    .getStripeState (.admin 65536) [], .readWearLog (.admin 65536) [], .getSequencerStatus (.admin 65536) [], .clearLockout (.admin 65536) [],
    .powerDown (.admin 65536) [], .bindTransformStream (.admin 65536) [], .signingWindowReservation 18446744073709551616, .railDebounceComplete 12,
    .stepTimeout 4294967296 0, .stepTimeout 0 4294967296, .railLow 12, .fallTimeout 12] : List Instr).any Instr.wf) = false := by decide

theorem test_wf_refuses_7 : (([
    .powerGoodLoss 12, .wdiEdge 4294967296, .wdiWindowExpiry 4294967296, .thermalReading 10 0,
    .thermalReading 0 128, .thermalReading 0 (-129), .idleTimerEntry 65536, .unitWorkArrival 65536 0,
    .unitWorkArrival 0 65536, .commandedStateEntry 65536, .startUpFirmwarePhase 128 0 0 0 [], .startUpFirmwarePhase (-129) 0 0 0 [],
    .startUpFirmwarePhase 0 128 0 0 [], .startUpFirmwarePhase 0 (-129) 0 0 [], .startUpFirmwarePhase 0 0 128 0 [], .startUpFirmwarePhase 0 0 (-129) 0 [],
    .startUpFirmwarePhase 0 0 0 0 [320], .startUpJournalPhase 18446744073709551616, .startUpMapPhase true true 18446744073709551616, .startUpRegionsPhase [4096],
    .startUpLinksPhase 4294967296, .warmUpEnd 0 4294967296, .warmUpEnd 128 0, .warmUpEnd (-129) 0,
    .perstNDeassert 16, .headLinkPowerStateChange 16 0, .headLinkPowerStateChange 0 16, .jtagInstruction 256,
    .dcdManagementCommand .sideband 65536 [], .dcdManagementCommand (.admin 65536) 0 []] : List Instr).any Instr.wf) = false := by decide

theorem test_wf_refuses_length_1 : (([
    .getSlotTable .sideband tooLong, .setSlotTable .sideband tooLong, .activateSlotTable .sideband tooLong, .createRegion .sideband tooLong,
    .deleteRegion .sideband tooLong, .resizeRegion .sideband tooLong, .getRegion .sideband tooLong, .listRegions .sideband tooLong,
    .setRegionAttributes .sideband tooLong, .attachExtent .sideband tooLong, .detachExtent .sideband tooLong, .grantMemoryKey .sideband tooLong,
    .revokeMemoryKey .sideband tooLong, .getCapacity .sideband tooLong, .formPair .sideband tooLong, .armPairJoin .sideband tooLong,
    .dissolvePair .sideband tooLong, .getPairStatus .sideband tooLong, .moveSeat .sideband tooLong, .moveChair .sideband tooLong,
    .admitReplacement .sideband tooLong, .setStandbyChecks .sideband tooLong, .getPairHealth .sideband tooLong, .forceSeat .sideband tooLong,
    .setWitnessPath .sideband tooLong, .hello tooLong, .encapsulationKey tooLong, .kemCiphertext tooLong,
    .witnessHeartbeat 0 tooLong, .fwdBcs 0 0 true tooLong, .identify .sideband tooLong, .backgroundOperationStatus .sideband tooLong,
    .getEventRecords .sideband tooLong, .clearEventRecords .sideband tooLong, .getEventInterruptPolicy .sideband tooLong, .setEventInterruptPolicy .sideband tooLong,
    .getFwInfo .sideband tooLong, .transferFw .sideband tooLong, .activateFw .sideband tooLong, .getTimestamp .sideband tooLong,
    .setTimestamp .sideband tooLong, .getSupportedLogs .sideband tooLong, .getLog .sideband tooLong, .identifyMemoryDevice .sideband tooLong,
    .getPartitionInfo .sideband tooLong, .setPartitionInfo .sideband tooLong, .getLsa .sideband tooLong, .setLsa .sideband tooLong,
    .getHealthInfo .sideband tooLong, .getAlertConfiguration .sideband tooLong] : List Instr).any Instr.wf) = false := by
  simp [Instr.wf, tooLong_length]

theorem test_wf_refuses_length_2 : (([
    .setAlertConfiguration .sideband tooLong, .getShutdownState .sideband tooLong, .setShutdownState .sideband tooLong, .getPoisonList .sideband tooLong,
    .injectPoison .sideband tooLong, .clearPoison .sideband tooLong, .getScanMediaCapabilities .sideband tooLong, .scanMedia .sideband tooLong,
    .getScanMediaResults .sideband tooLong, .getDynamicCapacityConfiguration .sideband tooLong, .getDynamicCapacityExtentList .sideband tooLong, .cxlSanitize .sideband tooLong,
    .secureErase .sideband tooLong, .getLdInfo .sideband tooLong, .getLdAllocations .sideband tooLong, .setLdAllocations .sideband tooLong,
    .createQp .sideband tooLong, .modifyQp .sideband tooLong, .queryQp .sideband tooLong, .destroyQp .sideband tooLong,
    .setGid .sideband tooLong, .getPortStatus .sideband tooLong, .triggerCounter .sideband tooLong, .bcsTunnel 0 tooLong,
    .createQueuePair .sideband tooLong, .deleteQueuePair .sideband tooLong, .queryQueuePair .sideband tooLong, .captureControl .sideband tooLong,
    .replayControl .sideband tooLong, .startScrub .sideband tooLong, .getScrubSummary .sideband tooLong, .getUnitPower .sideband tooLong,
    .setUnitPower .sideband tooLong, .getParameter .sideband tooLong, .setParameter .sideband tooLong, .listParameters .sideband tooLong,
    .enterDeviceStandby .sideband tooLong, .readEvents .sideband tooLong, .getRecorderStatus .sideband tooLong, .identifyController .sideband tooLong,
    .getIdentityKey .sideband tooLong, .getAttestationReport .sideband tooLong, .getProtectionLevel .sideband tooLong, .setProtectionLevel .sideband tooLong,
    .sanitize .sideband tooLong, .getSparesInventory .sideband tooLong, .getEraseCounts .sideband tooLong, .getStripeState .sideband tooLong,
    .readWearLog .sideband tooLong, .getSequencerStatus .sideband tooLong] : List Instr).any Instr.wf) = false := by
  simp [Instr.wf, tooLong_length]

theorem test_wf_refuses_length_3 : (([
    .clearLockout .sideband tooLong, .powerDown .sideband tooLong, .bindTransformStream .sideband tooLong, .dcdManagementCommand .sideband 0 tooLong] : List Instr).any Instr.wf) = false := by
  simp [Instr.wf, tooLong_length]

theorem test_wf_refuses_operands : (([
    (BcsPath.admin 65536).wf, (BcsPath.fm 16).wf,
    (BcsPath.primary 256).wf, (BcsPath.forwarded 65536 true).wf,
    (MmioSrc.ld 256).wf, (MmioSrc.fm 16).wf,
    (ReadOutcome.retry 256).wf, (FrameKind.roce 17 true 0).wf,
    (FrameKind.roce 0 true 16777216).wf, (FrameKind.arpOrNd 17).wf,
    CxlReq.wf { (default : CxlReq) with head := 16 }, CxlReq.wf { (default : CxlReq) with requester := 4096 },
    CxlReq.wf { (default : CxlReq) with tag := 65536 }, CxlReq.wf { (default : CxlReq) with dpa := 4503599627370496 },
    RdmaReq.wf { (default : RdmaReq) with qp := 65536 }, RdmaReq.wf { (default : RdmaReq) with psn := 16777216 },
    RdmaReq.wf { (default : RdmaReq) with packets := 16777216 }, RdmaReq.wf { (default : RdmaReq) with rkey := 4294967296 },
    RdmaReq.wf { (default : RdmaReq) with va := 18446744073709551616 }, Mpeth.wf { (default : Mpeth) with qp := 65536 },
    Mpeth.wf { (default : Mpeth) with msn := 16777216 }, Mpeth.wf { (default : Mpeth) with path := 8 },
    Mpeth.wf { (default : Mpeth) with msgLen := 4294967296 }, Mpeth.wf { (default : Mpeth) with va := 18446744073709551616 },
    Mpeth.wf { (default : Mpeth) with rkey := 4294967296 }, Mpeth.wf { (default : Mpeth) with pktOffset := 4294967296 },
    Mpeth.wf { (default : Mpeth) with immediate := 4294967296 }, Mpeth.wf { (default : Mpeth) with pktCount := 4294967296 },
    InstrFrame.wf { (default : InstrFrame) with bytes := [0] }, InstrFrame.wf { (default : InstrFrame) with wireLen := 4294967296 },
    InstrFrame.wf { (default : InstrFrame) with timestamp := 18446744073709551616 }, LineWrite.wf { (default : LineWrite) with line := 18446744073709551616 },
    ScrubFind.wf { (default : ScrubFind) with memory := 3 }, ScrubFind.wf { (default : ScrubFind) with region := 4096 },
    ScrubFind.wf { (default : ScrubFind) with address := 18446744073709551616 }, Corrected.wf { (default : Corrected) with shelf := [103079215104] },
    SealRun.wf { (default : SealRun) with seq := 18446744073709551616 }, SealRun.wf { (default : SealRun) with firstMsn := 18446744073709551616 },
    SealRun.wf { (default : SealRun) with count := 4294967296 }, JoinView.wf { (default : JoinView) with region := 4096 },
    JoinView.wf { (default : JoinView) with state := 4 }, JoinView.wf { (default : JoinView) with unknown := [[{ (default : LineWrite) with line := 18446744073709551616 }]] },
    (FwdOp.read 4294967296).wf, (FwdOp.drain 4294967296).wf,
    (FwdOp.write [{ (default : LineWrite) with line := 18446744073709551616 }]).wf, (FwdOp.atomic 256 0 0).wf,
    (DamagedPlace.drawerHeld 131072).wf, (DamagedPlace.chestLine 18446744073709551616 0).wf,
    (DamagedPlace.segClean 268435456 0).wf, (DamagedPlace.segClean 0 512).wf,
    (DamagedPlace.segDirty 268435456 0 []).wf, (DamagedPlace.segDirty 0 512 []).wf,
    (DamagedPlace.segDirty 0 0 [64]).wf, (DamagedPlace.segVolatile 268435456 0 []).wf,
    (DamagedPlace.segVolatile 0 512 []).wf, (DamagedPlace.segVolatile 0 0 [64]).wf,
    (DamagedPlace.mapPage 1048576).wf, (DamagedPlace.lentKeys true 1048576).wf,
    (DamagedPlace.lentCapsule true 16384).wf, (DamagedPlace.qpContext 65536).wf,
    (DamagedPlace.replayStaging 16 0).wf, (DamagedPlace.replayProgram 16).wf,
    (DamagedPlace.captureStaging 16 0).wf, (DamagedPlace.frontCache 16 0).wf,
    (DamagedPlace.frontCache 0 9007199254740992).wf, (DamagedPlace.transformContext 256).wf,
    (DamagedPlace.ethReceiveBuffer 16).wf, (DamagedPlace.captureReceiveBuffer 16).wf,
    (MetaItem.regionDesc 4096 []).wf, (MetaItem.extentAssign 4096 0 0 []).wf,
    (MetaItem.extentAssign 0 2 0 []).wf, (MetaItem.extentRelease 4096 0 0 []).wf,
    (MetaItem.extentRelease 0 2 0 []).wf, (MetaItem.pairRecord 0 0 0 0 0 4096 true []).wf,
    (MetaItem.pairRecord 0 0 0 0 0 0 true [4096]).wf, (MetaItem.lease 65536 0 0 0 0).wf,
    (MetaItem.lease 0 2 0 0 0).wf, (MetaItem.lease 0 0 0 4294967296 0).wf,
    (MetaItem.mirrorState 4096 0 0 0 0).wf, (MetaItem.mirrorState 0 2 0 0 0).wf,
    (MetaItem.mirrorState 0 0 4 0 0).wf, (MetaItem.keySlot 4096 0 0 0 []).wf,
    (MetaItem.keySlot 0 0 0 4096 []).wf] : List Bool).any id) = false := by decide

theorem test_wf_queue : wfQueue [.beatBoundary, .backlogLimit 256] = false := by decide

/-- A step with one command in front answers a next state of which p holds. -/
def after (c : Instr) (s : State) (p : State → Bool) : Bool :=
  match step { s with pending := c :: s.pending } with
  | .next t => p t
  | _ => false

/-- 11_transform_engine R438: the values over the ASCII bytes 123456789. -/
theorem test_crc_check_values : crcAlg 0 (ascii "123456789") = 0xE3069283 ∧ crcAlg 1 (ascii "123456789") = 0xCBF43926 ∧
    crcAlg 2 (ascii "123456789") = 0x995DC9BBDF1939FA ∧ crcAlg 3 (ascii "123456789") = 0xD0DB := by decide +kernel

/-- 11_transform_engine R439: the folds are bytes after the message, least significant first. -/
theorem test_fold_bytes : foldBytes 0 0 = [] ∧ foldBytes 1 0x7F = [0x7F] ∧ foldBytes 2 0x01020304 = [4, 3, 2, 1] ∧
    foldOk 1 256 = false ∧ foldOk 0 1 = false := by decide

/-- 05_regions, the worked example after R162: settee region 9 of 4 extents at offset 0x23456789 lies in LCN 2,867,621 and segment 89,613, at
position 0. -/
theorem test_settee_example :
    let s := { up with reg := { up.reg with table := [(9, { settee := true, size := 4 })], extentMap := [(9, [0, 700])] } }
    lcnOf 9 0x23456789 s = some 2867621 ∧ segmentOf 2867621 = 89613 ∧ servesHere { settee := true, size := 4 } 0x23456789 s = true := by
  decide +kernel

/-- Log entry 3: an empty queue idles. -/
theorem test_step_idles : step up = .next up := rfl

/-- 02_beat R33: a read of the low half latches the upper half. -/
theorem test_beat_lo_latches : after .beatLoRead { up with tb := { beat := 0x500000007 } } (fun t =>
    t.tb.beatHi == 5 && t.out.head? == some (.regRead 7)) = true := by decide +kernel

/-- 02_beat R32: a beat boundary counts one beat. -/
theorem test_boundary_counts : after .beatBoundary { up with tb := { beat := 41 } } (fun t => t.tb.beat == 42) = true := by decide +kernel

/-- 00_scope R4: a register write with a reserved bit set sets EVT.STATUS.BADWR. -/
theorem test_reserved_bit : after (.mmioRegisterWrite (.ld 0) 0x20054 0x80000000) up (fun t => t.ev.status.getLsbD 0) = true := by
  decide +kernel

/-- 02_beat R58: a write of DCB.TB_CTRL sets SRC_SEL, PTP_PORT, PPS_OUT_EN and PPS_IN_POL. -/
theorem test_tb_ctrl : after (.mmioRegisterWrite (.ld 0) 0x20054 0x3A1) up (fun t =>
    t.tb.srcSel == 1 && t.tb.ptpPort == 10 && t.tb.ppsOutEn && t.tb.ppsInPol) = true := by decide +kernel

/-- 13_management R491: a privileged command on an LD's primary mailbox is refused. -/
theorem test_privilege : bcsOpen (.primary 0) 0xC00B up = false ∧ bcsOpen .sideband 0xC00B up = true := by decide +kernel

/-- The front of the queue runs first, and the rest stays. -/
theorem test_queue_order : (match step { up with pending := [.beatBoundary, .todLoRead] } with
    | .next t => t.pending == [.todLoRead]
    | _ => false) = true := by decide +kernel

end Sys2Proof.Tests
end

section
/-! PROOFS. Register writes (00_scope R4 to R6, 13_management R485, R490): what a write or a read of a register does by its path, its
block's power and its RSVD fields, the meaning of the single registers, and the statements that follow. -/

namespace Sys2Proof.Machine

/-! ### The commands that reach a register -/

theorem exec_mmioRegisterWrite_inside (src : MmioSrc) {off : Nat} (v : Word) (s : State) (h : off < 0x80000) :
    exec (.mmioRegisterWrite src off v) s = .next (writeReg src off v s) :=
  if_neg (Nat.not_le.mpr h)

theorem exec_mmioRegisterWrite_outside (src : MmioSrc) {off : Nat} (v : Word) (s : State) (h : 0x80000 ≤ off) :
    exec (.mmioRegisterWrite src off v) s = .fault (.outsideBar off) :=
  if_pos h

theorem exec_registerWrite_inside {a : Nat} (v : Word) (pecOk : Bool) (s : State) (h : a < 0x80000) :
    exec (.registerWrite a v pecOk) s = .next (transaction false pecOk (writeReg sidebandSrc a v) s) :=
  if_neg (Nat.not_le.mpr h)

theorem exec_registerRead_inside {a : Nat} (pecOk : Bool) (s : State) (h : a < 0x80000) :
    exec (.registerRead a pecOk) s = .next (transaction false pecOk (fun s =>
      emit (.sideband (le 4 (readReg sidebandSrc a s).1.toNat)) (readReg sidebandSrc a s).2) s) :=
  if_neg (Nat.not_le.mpr h)

/-! ### Transactions of a supplied and clocked supervisor (R490, R593) -/

/-- A transaction that completes counts in SBI.XACTS (R487). -/
def countTransaction (s : State) : State := modMc (fun m => { m with xacts := min 0xFFFFFFFF (m.xacts + 1) }) s

theorem transaction_goodPec (body : State → State) {s : State} (hsupply : s.seq.vstby = true) (hclock : s.seq.clk25 = true) :
    transaction false true body s = body (countTransaction s) := by
  simp [transaction, hsupply, hclock, countTransaction, satAdd]

theorem transaction_badPec (body : State → State) {s : State} (hsupply : s.seq.vstby = true) (hclock : s.seq.clk25 = true) :
    transaction false false body s =
      modMc (fun m => { m with pecErr := true, pecErrs := min 0xFFFFFFFF (m.pecErrs + 1) }) s := by
  simp [transaction, hsupply, hclock, satAdd]

/-! ### Power and RSVD fields -/

theorem blockPowered_of_vcoreUp (off : Nat) {s : State} (h : vcoreUp s = true) : blockPowered off s = true := by
  simp [blockPowered, h]

theorem blockPowered_of_supervisor {off : Nat} (s : State) (hlo : 0x38000 ≤ off) (hhi : off < 0x40000) :
    blockPowered off s = true := by
  simp [blockPowered, hlo, hhi]

theorem blockPowered_eq_false_of_vcoreDown {off : Nat} {s : State} (hoff : off < 0x38000) (h : vcoreUp s = false) :
    blockPowered off s = false := by
  simp [blockPowered, h, Nat.not_le.mpr hoff]

theorem writeReg_of_unpowered (src : MmioSrc) {off : Nat} (v : Word) {s : State} (h : blockPowered off s = false) :
    writeReg src off v s = s := by
  simp [writeReg, h]

theorem writeReg_of_rsvd_zero (src : MmioSrc) {off : Nat} {v : Word} {s : State} (h : blockPowered off s = true)
    (hv : v &&& rsvdOf off = 0#32) : writeReg src off v s = writeFields src off v s := by
  simp [writeReg, h, badRsvd, hv]

theorem writeReg_of_rsvd_nonzero (src : MmioSrc) {off : Nat} {v : Word} {s : State} (h : blockPowered off s = true)
    (hv : v &&& rsvdOf off ≠ 0#32) : writeReg src off v s = writeFields src off v (badWrite s) := by
  simp [writeReg, h, badRsvd, hv]

/-! ### Single registers -/

theorem writeFields_tbCtrl (src : MmioSrc) (v : Word) (s : State) : writeFields src 0x20054 v s = writeTbCtrl v s := rfl

theorem writeFields_evtStatus (src : MmioSrc) (v : Word) (s : State) :
    writeFields src 0x30000 v s = { s with ev := { s.ev with status := s.ev.status &&& ~~~ v.setWidth 8 } } := rfl

theorem writeFields_unitSel (src : MmioSrc) (v : Word) (s : State) :
    writeFields src 0x34000 v s = { s with pwr := { s.pwr with unitSel := wf 15 0 v } } := rfl

theorem writeFields_downFail (src : MmioSrc) (v : Word) (s : State) :
    writeFields src 0x3800C v s = { s with
      seq := { s.seq with downFail := s.seq.downFail &&& ~~~ v.setWidth 12, pgLost := s.seq.pgLost && !wbit 16 v } } := rfl

theorem readReg_beatLo (src : MmioSrc) {s : State} (h : vcoreUp s = true) :
    readReg src 0x20040 s = (BitVec.ofNat 32 s.tb.beat, latchBeat s) := by
  have hreg : regAt src 0x20040 s = some s.tb.beat := rfl
  simp [readReg, blockPowered_of_vcoreUp 0x20040 h, hreg, readLatch]

/-! ### What a write of TB_CTRL sets and leaves (02_beat R50, R52, R57, R58) -/

/-- What neither PPS_OUT's hold nor a change of the timebase's state touches: the fields of TB_CTRL, the beat, the time of day, the tiers
and the regions; and an EVT.STATUS flag that was set stays set. -/
structure KeepsTbCtrl (s t : State) : Prop where
  ppsInPol : t.tb.ppsInPol = s.tb.ppsInPol
  ppsOutEn : t.tb.ppsOutEn = s.tb.ppsOutEn
  ptpPort : t.tb.ptpPort = s.tb.ptpPort
  srcSel : t.tb.srcSel = s.tb.srcSel
  beat : t.tb.beat = s.tb.beat
  tod : t.tb.tod = s.tb.tod
  ti : t.ti = s.ti
  reg : t.reg = s.reg
  status : ∀ i, s.ev.status.getLsbD i = true → t.ev.status.getLsbD i = true

theorem KeepsTbCtrl.refl (s : State) : KeepsTbCtrl s s := ⟨rfl, rfl, rfl, rfl, rfl, rfl, rfl, rfl, fun _ => id⟩

theorem KeepsTbCtrl.trans {s t u : State} (h : KeepsTbCtrl s t) (g : KeepsTbCtrl t u) : KeepsTbCtrl s u where
  ppsInPol := g.ppsInPol.trans h.ppsInPol
  ppsOutEn := g.ppsOutEn.trans h.ppsOutEn
  ptpPort := g.ptpPort.trans h.ptpPort
  srcSel := g.srcSel.trans h.srcSel
  beat := g.beat.trans h.beat
  tod := g.tod.trans h.tod
  ti := g.ti.trans h.ti
  reg := g.reg.trans h.reg
  status := fun i hi => g.status i (h.status i hi)

theorem setEvt_status_mono (b : BitVec 8) {e : EventUnit} {i : Nat} (h : e.status.getLsbD i = true) :
    (setEvt b e).status.getLsbD i = true := by
  simp [setEvt, h]

theorem queueEvent_status_mono (e : Event) {u : EventUnit} {i : Nat} (h : u.status.getLsbD i = true) :
    (queueEvent e u).status.getLsbD i = true := by
  unfold queueEvent
  split
  · exact h
  · exact setEvt_status_mono _ h

theorem raise_keepsTbCtrl (code : Nat) (sev : Severity) (data : Bytes) (s : State) : KeepsTbCtrl s (raise code sev data s) :=
  ⟨rfl, rfl, rfl, rfl, rfl, rfl, rfl, rfl, fun _ h => setEvt_status_mono _ (queueEvent_status_mono _ h)⟩

theorem holdPps_keepsTbCtrl (s : State) : KeepsTbCtrl s (holdPps s) := by
  unfold holdPps
  split
  · exact ⟨rfl, rfl, rfl, rfl, rfl, rfl, rfl, rfl, fun _ => id⟩
  · exact .refl s

theorem enterMode_keepsTbCtrl (m : TbMode) (s : State) : KeepsTbCtrl s (enterMode m s) := by
  unfold enterMode
  split
  · exact .refl s
  · have hmode : KeepsTbCtrl s (modTb (fun t => { t with mode := m, stepDone := false, goodSince := none }) s) :=
      ⟨rfl, rfl, rfl, rfl, rfl, rfl, rfl, rfl, fun _ => id⟩
    exact (hmode.trans (raise_keepsTbCtrl ..)).trans (holdPps_keepsTbCtrl _)

/-- The state with the four fields of TB_CTRL as a write gives them. -/
def withTbCtrl (v : Word) (s : State) : State :=
  modTb (fun t => { t with ppsInPol := wbit 9 v, ppsOutEn := wbit 8 v, ptpPort := wf 7 4 v, srcSel := wf 1 0 v }) s

/-- A write of TB_CTRL sets its four fields, whatever it does to the timebase's state and to PPS_OUT. -/
theorem writeTbCtrl_keepsTbCtrl (v : Word) (s : State) : KeepsTbCtrl (withTbCtrl v s) (writeTbCtrl v s) := by
  unfold writeTbCtrl
  refine KeepsTbCtrl.trans ?_ (holdPps_keepsTbCtrl _)
  split
  · refine KeepsTbCtrl.trans ?_ (enterMode_keepsTbCtrl _ _)
    exact ⟨rfl, rfl, rfl, rfl, rfl, rfl, rfl, rfl, fun _ => id⟩
  · exact ⟨rfl, rfl, rfl, rfl, rfl, rfl, rfl, rfl, fun _ => id⟩

theorem badWrite_status_badwr (s : State) : (badWrite s).ev.status.getLsbD 0 = true := by
  simp [setEvt]

/-! ### The obligation -/

/-- Settles O5: each clause names its path's meaning (`exec_…_inside`), the power and RSVD rule that applies (`writeReg_of_…`), and the
meaning of the register. That SEQ and SBI answer with VCORE down, and that the other blocks drop the write, is R490 as the model's log
entry 166 reads it. -/
theorem registerWritesByAccessCode : Obligations.RegisterWritesByAccessCode := by
  unfold Obligations.RegisterWritesByAccessCode
  refine ⟨fun src v s hup hv => ?tbCtrl, fun src v s hup hv => ?tbCtrlReserved, fun src v s hup hv => ?evtStatus,
    fun src v s hup hv => ?unitSel, fun src v s hv => ?downFail, fun src off v s hoff hdown => ?unpowered,
    fun src off v s hoff => exec_mmioRegisterWrite_outside src v s hoff,
    fun v s hsupply hclock hup hv => ?sidebandWrite, fun s hsupply hclock hup => ?sidebandRead,
    fun s a v ha hsupply hclock => ?badPec⟩
  case tbCtrl =>
    refine ⟨_, exec_mmioRegisterWrite_inside src v s (by decide), ?_⟩
    rw [writeReg_of_rsvd_zero src (blockPowered_of_vcoreUp _ hup) hv, writeFields_tbCtrl]
    have k := writeTbCtrl_keepsTbCtrl v s
    exact ⟨k.ppsInPol, k.ppsOutEn, k.ptpPort, k.srcSel, k.beat, k.tod, k.ti, k.reg⟩
  case tbCtrlReserved =>
    refine ⟨_, exec_mmioRegisterWrite_inside src v s (by decide), ?_⟩
    rw [writeReg_of_rsvd_nonzero src (blockPowered_of_vcoreUp _ hup) hv, writeFields_tbCtrl]
    have k := writeTbCtrl_keepsTbCtrl v (badWrite s)
    exact ⟨k.status 0 (badWrite_status_badwr s), k.srcSel⟩
  case evtStatus =>
    refine ⟨_, exec_mmioRegisterWrite_inside src v s (by decide), ?_⟩
    rw [writeReg_of_rsvd_zero src (blockPowered_of_vcoreUp _ hup) hv, writeFields_evtStatus]
  case unitSel =>
    refine ⟨_, exec_mmioRegisterWrite_inside src v s (by decide), ?_⟩
    rw [writeReg_of_rsvd_zero src (blockPowered_of_vcoreUp _ hup) hv, writeFields_unitSel]
  case downFail =>
    refine ⟨_, exec_mmioRegisterWrite_inside src v s (by decide), ?_⟩
    rw [writeReg_of_rsvd_zero src (blockPowered_of_supervisor s (by decide) (by decide)) hv, writeFields_downFail]
  case unpowered =>
    exact ⟨_, exec_mmioRegisterWrite_inside src v s (by omega),
      writeReg_of_unpowered src v (blockPowered_eq_false_of_vcoreDown hoff hdown)⟩
  case sidebandWrite =>
    have hup' : vcoreUp (countTransaction s) = true := hup
    refine ⟨_, exec_registerWrite_inside v true s (by decide), ?_⟩
    rw [transaction_goodPec _ hsupply hclock, writeReg_of_rsvd_zero sidebandSrc (blockPowered_of_vcoreUp _ hup') hv,
      writeFields_unitSel]
    rfl
  case sidebandRead =>
    have hup' : vcoreUp (countTransaction s) = true := hup
    refine ⟨_, exec_registerRead_inside true s (by decide), ?_⟩
    rw [transaction_goodPec _ hsupply hclock, readReg_beatLo sidebandSrc hup']
    exact ⟨rfl, rfl, rfl⟩
  case badPec =>
    rw [exec_registerWrite_inside v false s ha, transaction_badPec _ hsupply hclock]
    rfl

end Sys2Proof.Machine
end

section
/-! PROOFS. The beat boundary (02_beat R31, R32, R36, 03_persistence R95): no operation that runs at a boundary changes the timebase, but
for the tick itself. One lemma per operation, in the model's order. -/

namespace Sys2Proof.Machine

/-- A fold whose every step leaves the timebase leaves it. -/
theorem foldl_tb {α : Type} {f : State → α → State} (hf : ∀ s x, (f s x).tb = s.tb) (l : List α) (s : State) :
    (l.foldl f s).tb = s.tb := by
  induction l generalizing s with
  | nil => rfl
  | cons x r ih => exact (ih _).trans (hf s x)

/-! ### Ops -/

@[simp] theorem raiseSup_tb (running : Bool) (code : Nat) (sev : Severity) (data : Bytes) (s : State) :
    (raiseSup running code sev data s).tb = s.tb := by
  simp [raiseSup, apply_ite State.tb]

@[simp] theorem raiseLimited_tb (code key : Nat) (sev : Severity) (data : Nat → Bytes) (s : State) :
    (raiseLimited code key sev data s).tb = s.tb := by
  unfold raiseLimited
  split <;> simp [apply_ite State.tb]

/-! ### Nor -/

@[simp] theorem counterEntry_tb (type scope block value data : Nat) (s : State) :
    (counterEntry type scope block value data s).tb = s.tb := rfl

@[simp] theorem eraseIntent_tb (block : Nat) (sector : Option Nat) (s : State) :
    (eraseIntent block sector s).tb = s.tb := by
  simp [eraseIntent, apply_ite State.tb]

@[simp] theorem beginOp_tb (o : NorOp) (s : State) : (beginOp o s).tb = s.tb := by
  unfold beginOp
  split <;> simp [apply_ite State.tb]

@[simp] theorem issueOp_tb (s : State) : (issueOp s).tb = s.tb := by
  unfold issueOp
  split
  · rfl
  · split <;> simp

@[simp] theorem norSubmit_tb (o : NorOp) (s : State) : (norSubmit o s).tb = s.tb := by simp [norSubmit]

@[simp] theorem writeOption_tb (c : OptionCopy) (after : OptionThen) (s : State) :
    (writeOption c after s).tb = s.tb := by
  simp [writeOption]

/-! ### Mpl -/

@[simp] theorem sendMsg_tb (m : MplMsg) (s : State) : (sendMsg m s).tb = s.tb := by simp [sendMsg, apply_ite State.tb]

@[simp] theorem bumpTag_tb (s : State) : (bumpTag s).tb = s.tb := rfl

/-! ### Persist -/

@[simp] theorem submitUnit_tb (u : WUnit) (s : State) : (submitUnit u s).tb = s.tb := rfl

@[simp] theorem abandonUnit_tb (u : WUnit) (s : State) :
    (abandonUnit u s).tb = s.tb := by
  simp [abandonUnit, apply_ite State.tb]

@[simp] theorem closeSet_tb (s : State) : (closeSet s).tb = s.tb := by simp [closeSet, apply_ite State.tb]

@[simp] theorem submitRec_tb (r : JRec) (s : State) : (submitRec r s).tb = s.tb := rfl

@[simp] theorem submitCtl_tb (r : JRec) (s : State) :
    (submitCtl r s).tb = s.tb := by
  simp [submitCtl, apply_ite State.tb]

@[simp] theorem journalMeta_tb (items : List MetaItem) (acts : List MetaAct) (both : Bool) (s : State) :
    (journalMeta items acts both s).tb = s.tb := by
  simp [journalMeta]

@[simp] theorem sendCopies_tb (sealed : List JRec) (s : State) : (sendCopies sealed s).tb = s.tb :=
  foldl_tb (fun s r => by
    split
    · rfl
    · dsimp only; split <;> simp [apply_ite State.tb]) sealed s

@[simp] theorem sealGroup_tb (s : State) : (sealGroup s).tb = s.tb := by simp [sealGroup, foldl_tb]

@[simp] theorem submitWaiting_tb (n : Nat) (s : State) : (submitWaiting n s).tb = s.tb := by
  induction n generalizing s with
  | zero => rfl
  | succ n ih =>
    rw [submitWaiting]
    split
    · rfl
    · split
      · rw [ih]; rfl
      · rfl

@[simp] theorem countWait_tb (s : State) : (countWait s).tb = s.tb := rfl

/-! ### Tiers -/

@[simp] theorem startCkpt_tb (s : State) : (startCkpt s).tb = s.tb := by
  unfold startCkpt
  split
  · rfl
  · exact submitCtl_tb _ _

/-! ### Regions -/

@[simp] theorem refuseWrite_tb (region path off : Nat) (s : State) :
    (refuseWrite region path off s).tb = s.tb := by
  simp [refuseWrite]

/-! ### Bcs -/

@[simp] theorem finishBg_tb (path : BcsPath) (opcode rc vstatus : Nat) (out : Bytes) (s : State) :
    (finishBg path opcode rc vstatus out s).tb = s.tb := by
  simp [finishBg, apply_ite State.tb]

/-! ### Access -/

@[simp] theorem forwardAccess_tb (o : FwdOrigin) (r off : Nat) (body : Bytes) (s : State) :
    (forwardAccess o r off body s).tb = s.tb := by
  simp [forwardAccess]

@[simp] theorem forwardWrite_tb (o : FwdOrigin) (path r off : Nat) (l : List LineWrite) (s : State) :
    (forwardWrite o path r off l s).tb = s.tb := by
  simp [forwardWrite]

@[simp] theorem submitWrite_tb (src : WSrc) (r off : Nat) (data : Bytes) (bad : List Nat) (s : State) :
    (submitWrite src r off data bad s).tb = s.tb := rfl

/-! ### Sends -/

@[simp] theorem modQp_tb (i : Nat) (f : Qp → Qp) (s : State) : (modQp i f s).tb = s.tb := rfl

@[simp] theorem countQp_tb (i k n : Nat) (s : State) : (countQp i k n s).tb = s.tb := rfl

@[simp] theorem sendNow_tb (i kind : Nat) (bytes : Bytes) (q : Qp) (w : SentWr) (before after : List SentWr)
    (s : State) :
    (sendNow i kind bytes q w before after s).tb = s.tb := rfl

@[simp] theorem sendCapsule_tb (qpn kind : Nat) (bytes : Bytes) (s : State) :
    (sendCapsule qpn kind bytes s).tb = s.tb := by
  unfold sendCapsule
  dsimp only
  split <;> simp [apply_ite State.tb]

/-! ### Gqp -/

@[simp] theorem finishDelete_tb (qid : Nat) (s : State) : (finishDelete qid s).tb = s.tb := by
  unfold finishDelete
  split
  · rfl
  · split
    · rfl
    · split
      · dsimp only; split <;> simp
      · rfl

@[simp] theorem complete_tb (qid cid status : Nat) (result : Bytes) (s : State) :
    (complete qid cid status result s).tb = s.tb := by
  unfold complete
  split <;> simp [apply_ite State.tb]

@[simp] theorem arbitrate_tb (s : State) : (arbitrate s).tb = s.tb := rfl

@[simp] theorem countLimit_tb (s : State) : (countLimit s).tb = s.tb := rfl

@[simp] theorem refuseCmd_tb (qid cid status : Nat) (s : State) :
    (refuseCmd qid cid status s).tb = s.tb := by
  simp [refuseCmd]

/-! ### Capture -/

@[simp] theorem modRing_tb (p : Nat) (f : Ring → Ring) (s : State) : (modRing p f s).tb = s.tb := rfl

@[simp] theorem enterRing_tb (p st cause : Nat) (s : State) :
    (enterRing p st cause s).tb = s.tb := by
  simp [enterRing, apply_ite State.tb]

@[simp] theorem stageBytes_tb (c : RingConf) (x : Nat) (b : Bytes) (full : Nat) (s : State) :
    (stageBytes c x b full s).tb = s.tb := by
  refine (foldl_tb (fun _ _ => modCap_tb ..) _ _).trans ((modCap_tb ..).trans (foldl_tb (fun s v => ?_) _ s))
  split <;> rfl

@[simp] theorem poisonStaged_tb (c : RingConf) (bad : List Nat) (s : State) : (poisonStaged c bad s).tb = s.tb :=
  foldl_tb (fun s l => by split <;> rfl) bad s

@[simp] theorem journalRun_tb (p : Nat) (c : RingConf) (bad : List Nat) (x : Nat) (b : Bytes) (s : State) :
    (journalRun p c bad x b s).tb = s.tb :=
  foldl_tb (fun s _ => foldl_tb (fun _ _ => submitUnit_tb ..) _ s) _ s

@[simp] theorem refuseRecords_tb (p : Nat) (c : RingConf) (s : State) : (refuseRecords p c s).tb = s.tb := by
  unfold refuseRecords
  split <;> simp

@[simp] theorem flushRing_tb (p : Nat) (c : RingConf) (s : State) :
    (flushRing p c s).tb = s.tb := by
  simp [flushRing, foldl_tb, apply_ite State.tb]

@[simp] theorem writeIndex_tb (p : Nat) (c : RingConf) (s : State) : (writeIndex p c s).tb = s.tb := by
  unfold writeIndex
  dsimp only
  split <;> simp [apply_ite State.tb]

@[simp] theorem writeControl_tb (p : Nat) (c : RingConf) (s : State) : (writeControl p c s).tb = s.tb := rfl

@[simp] theorem advanceDurable_tb (p : Nat) (c : RingConf) (s : State) :
    (advanceDurable p c s).tb = s.tb := by
  simp [advanceDurable, apply_ite State.tb]

@[simp] theorem haltRing_tb (p : Nat) (c : RingConf) (s : State) : (haltRing p c s).tb = s.tb := by
  unfold haltRing
  split <;> simp [apply_ite State.tb]

@[simp] theorem settleRing_tb (p : Nat) (s : State) :
    (settleRing p s).tb = s.tb := by
  simp [settleRing, apply_ite State.tb]

@[simp] theorem ringBoundary_tb (p : Nat) (s : State) : (ringBoundary p s).tb = s.tb := by
  unfold ringBoundary
  split <;> simp

@[simp] theorem drainWindow_tb (s : State) : (drainWindow s).tb = s.tb := by simp [drainWindow, apply_ite State.tb]

/-! ### CaptureCmds -/

@[simp] theorem ctlFail_tb (f : CtlFrom) (status off : Nat) (s : State) : (ctlFail f status off s).tb = s.tb := by
  unfold ctlFail
  split <;> simp [apply_ite State.tb]

@[simp] theorem settleBacklog_tb (s : State) :
    (settleBacklog s).tb = s.tb := by
  simp [settleBacklog, apply_ite State.tb]

/-! ### Replay -/

@[simp] theorem modChan_tb (c : Nat) (f : Channel → Channel) (s : State) : (modChan c f s).tb = s.tb := rfl

@[simp] theorem enterChannel_tb (c st cause : Nat) (s : State) :
    (enterChannel c st cause s).tb = s.tb := by
  simp [enterChannel, apply_ite State.tb]

@[simp] theorem stopChannel_tb (c cause : Nat) (s : State) : (stopChannel c cause s).tb = s.tb := by
  unfold stopChannel
  dsimp only
  split <;> simp

@[simp] theorem sendFiller_tb (c : Nat) (s : State) : (sendFiller c s).tb = s.tb := by
  unfold sendFiller
  extract_lets x now first n frame t
  clear_value n
  exact (modChan_tb ..).trans (foldl_tb (fun _ _ => emit_tb ..) _ s)

@[simp] theorem underrun_tb (c : Nat) (s : State) : (underrun c s).tb = s.tb := by simp [underrun, apply_ite State.tb]

@[simp] theorem countWindow_tb (c : Nat) (l : List ReplayItem) (s : State) :
    (countWindow c l s).tb = s.tb := by
  simp [countWindow, foldl_tb]

@[simp] theorem stopIfDone_tb (c : Nat) (s : State) : (stopIfDone c s).tb = s.tb := by
  unfold stopIfDone
  split <;> simp [apply_ite State.tb]

@[simp] theorem issueStep_tb (c : Nat) (s : State) :
    (issueStep c s).tb = s.tb := by
  simp [issueStep, apply_ite State.tb]

@[simp] theorem channelBoundary_tb (c : Nat) (s : State) : (channelBoundary c s).tb = s.tb := by simp [channelBoundary]

/-! ### Signing -/

@[simp] theorem modSigner_tb (f : Signer → Signer) (s : State) : (modSigner f s).tb = s.tb := rfl

/-! ### Transform -/

@[simp] theorem countBacklog_tb (s : State) : (countBacklog s).tb = s.tb := rfl

/-! ### Net -/

@[simp] theorem appendRun_tb (f : FiredRun) (s : State) : (appendRun f s).tb = s.tb := by
  unfold appendRun
  dsimp only
  split <;> simp [apply_ite State.tb]

@[simp] theorem triggerAppend_tb (s : State) : (triggerAppend s).tb = s.tb := by simp [triggerAppend, foldl_tb]

@[simp] theorem mpAck_tb (i : Nat) (s : State) : (mpAck i s).tb = s.tb := by
  unfold mpAck
  split <;> simp

@[simp] theorem mpAckSend_tb (s : State) : (mpAckSend s).tb = s.tb := by simp [mpAckSend, foldl_tb]

@[simp] theorem raiseCredit_tb (i : Nat) (s : State) : (raiseCredit i s).tb = s.tb := by
  unfold raiseCredit
  split <;> simp [apply_ite State.tb]

/-! ### Cxl -/

@[simp] theorem modHead_tb (h : Nat) (f : Head → Head) (s : State) : (modHead h f s).tb = s.tb := rfl

@[simp] theorem fwdAnswer_tb (mtag status first : Nat) (data : Bytes) (bad : List Nat) (s : State) :
    (fwdAnswer mtag status first data bad s).tb = s.tb := by
  simp [fwdAnswer]

@[simp] theorem answerDrains_tb (s : State) : (answerDrains s).tb = s.tb := by simp [answerDrains, foldl_tb]

@[simp] theorem noteDevLoad_tb (s : State) : (noteDevLoad s).tb = s.tb :=
  foldl_tb (fun _ _ => modHead_tb ..) _ s

@[simp] theorem bureauWrite_tb (job off : Nat) (b : Bytes) (s : State) : (bureauWrite job off b s).tb = s.tb := by
  unfold bureauWrite
  split <;> simp

@[simp] theorem setAttachment_tb (n : Nat) (a : Attachment) (free : Bool) (s : State) :
    (setAttachment n a free s).tb = s.tb := by
  simp [setAttachment, addJob, apply_ite State.tb]

@[simp] theorem freeAttachment_tb (n : Nat) (a : Attachment) (s : State) : (freeAttachment n a s).tb = s.tb := by
  unfold freeAttachment
  split <;> simp

@[simp] theorem purgeAttachments_tb (s : State) : (purgeAttachments s).tb = s.tb := rfl

@[simp] theorem settleAttachments_tb (s : State) :
    (settleAttachments s).tb = s.tb := by
  simp [settleAttachments, foldl_tb]

/-! ### Pair -/

@[simp] theorem modLink_tb (f : Mpl → Mpl) (s : State) : (modLink f s).tb = s.tb := rfl

@[simp] theorem sealCopies_tb (origin : Nat) (us : List WUnit) (s : State) : (sealCopies origin us s).tb = s.tb := by
  unfold sealCopies
  split
  · rfl
  · dsimp only
    split <;> exact foldl_tb (fun _ _ => modPu_tb ..) _ s

@[simp] theorem sealUnknown_tb (s : State) : (sealUnknown s).tb = s.tb := by simp [sealUnknown, foldl_tb]

@[simp] theorem sealNoticed_tb (s : State) : (sealNoticed s).tb = s.tb := by simp [sealNoticed, foldl_tb]

@[simp] theorem sendDone_tb (s : State) : (sendDone s).tb = s.tb := by simp [sendDone, apply_ite State.tb]

@[simp] theorem nextMove_tb (s : State) : (nextMove s).tb = s.tb := by
  unfold nextMove
  split
  · rfl
  · split <;> simp

@[simp] theorem addMove_tb (m : Move) (s : State) : (addMove m s).tb = s.tb := by simp [addMove]

@[simp] theorem settleMove_tb (s : State) : (settleMove s).tb = s.tb := by
  unfold settleMove
  split <;> simp [apply_ite State.tb]

@[simp] theorem askPartner_tb (s : State) :
    (askPartner s).tb = s.tb := by
  simp [askPartner, foldl_tb, apply_ite State.tb]

@[simp] theorem resyncBeat_tb (s : State) : (resyncBeat s).tb = s.tb := by
  unfold resyncBeat
  split
  · rfl
  · split
    · rfl
    · split
      · rfl
      · dsimp only; split
        · rfl
        · simp [apply_ite State.tb]

/-! ### PairCmds -/

@[simp] theorem heartbeatSend_tb (s : State) : (heartbeatSend s).tb = s.tb := by
  unfold heartbeatSend
  dsimp only
  generalize s.tb.beat = h
  split_ifs
  · rfl
  · split <;> simp
  · split <;> simp

/-! ### RegionCmds -/

@[simp] theorem startChange_tb (path : BcsPath) (opcode r : Nat) (d : Region) (k : ChangeKind) (s : State) :
    (startChange path opcode r d k s).tb = s.tb := by
  simp [startChange]

/-! ### Link -/

@[simp] theorem sendBatch_tb (s : State) : (sendBatch s).tb = s.tb := by
  unfold sendBatch
  split
  · rfl
  · dsimp only; split <;> rfl

/-! ### Complex -/

@[simp] theorem modSlot_tb (n : Nat) (f : FwSlot → FwSlot) (s : State) : (modSlot n f s).tb = s.tb := rfl

@[simp] theorem resetSigner_tb (s : State) : (resetSigner s).tb = s.tb := rfl

/-! ### Params -/

@[simp] theorem paramsAtBoundary_tb (s : State) : (paramsAtBoundary s).tb = s.tb := rfl

/-! ### TrustCmds -/

@[simp] theorem modRun_tb (f : SanitizeRun → SanitizeRun) (s : State) : (modRun f s).tb = s.tb := rfl

@[simp] theorem newSalt_tb (s : State) : (newSalt s).tb = s.tb := by
  unfold newSalt
  dsimp only
  split <;> simp

@[simp] theorem sanitizeDeletes_tb (s : State) : (sanitizeDeletes s).tb = s.tb := by
  unfold sanitizeDeletes
  extract_lets l t
  have ht : t.tb = s.tb := by
    refine foldl_tb (fun s r => ?_) l s
    split
    · exact (modReg_tb ..).trans (startChange_tb ..)
    · rfl
  clear_value l t
  split
  · exact (modRun_tb ..).trans ht
  · cases l with
    | nil => rfl
    | cons r rest => simp [apply_ite State.tb]

@[simp] theorem clearBureau_tb (s : State) : (clearBureau s).tb = s.tb := by simp [clearBureau, apply_ite State.tb]

@[simp] theorem eraseCabinet_tb (s : State) : (eraseCabinet s).tb = s.tb := rfl

@[simp] theorem sanitizeCkpt_tb (s : State) : (sanitizeCkpt s).tb = s.tb := by simp [sanitizeCkpt]

@[simp] theorem sanitizeBeat_tb (s : State) : (sanitizeBeat s).tb = s.tb := by
  unfold sanitizeBeat
  split
  · rfl
  · split <;> simp [apply_ite State.tb]

/-! ### Power -/

@[simp] theorem raiseSeq_tb (code : Nat) (sev : Severity) (data : Bytes) (s : State) :
    (raiseSeq code sev data s).tb = s.tb := by
  simp [raiseSeq]

@[simp] theorem clearUnits_tb (s : State) : (clearUnits s).tb = s.tb := by
  unfold clearUnits
  extract_lets bad _ _ _ t
  have ht : t.tb = s.tb := resetSigner_tb _
  clear_value bad t
  cases bad with
  | none => exact ht
  | some n => exact (modSlot_tb ..).trans ht

@[simp] theorem startDrain_tb (trigger : Nat) (s : State) :
    (startDrain trigger s).tb = s.tb := by
  simp [startDrain, foldl_tb, apply_ite State.tb]

@[simp] theorem drainDown_tb (trigger : Nat) (cause : DownCause) (kind : Nat) (again : Bool) (s : State) :
    (drainDown trigger cause kind again s).tb = s.tb := by
  simp [drainDown, apply_ite State.tb]

@[simp] theorem standbyBeat_tb (s : State) : (standbyBeat s).tb = s.tb := by simp [standbyBeat, apply_ite State.tb]

/-! ### Units -/

@[simp] theorem modUnit_tb (u : Nat) (f : UnitPower → UnitPower) (s : State) : (modUnit u f s).tb = s.tb := rfl

@[simp] theorem enterState_tb (n u : Nat) (s : State) : (enterState n u s).tb = s.tb := rfl

@[simp] theorem unitsBeat_tb (s : State) : (unitsBeat s).tb = s.tb :=
  foldl_tb (fun _ _ => enterState_tb ..) _ s

/-! ### Boundary -/

@[simp] theorem eventInterrupt_tb (s : State) : (eventInterrupt s).tb = s.tb :=
  foldl_tb (fun _ _ => emit_tb ..) _ s

@[simp] theorem rejectStarted_tb (s : State) : (rejectStarted s).tb = s.tb :=
  foldl_tb (fun s q => foldl_tb (fun s c => by split <;> simp) _ s) _ s

@[simp] theorem countSlotWait_tb (s : State) : (countSlotWait s).tb = s.tb := rfl

@[simp] theorem dropMoved_tb (s : State) : (dropMoved s).tb = s.tb := by
  unfold dropMoved
  split <;> simp [apply_ite State.tb]

@[simp] theorem endBeat_tb (s : State) : (endBeat s).tb = s.tb := by
  simp [endBeat, foldl_tb]

@[simp] theorem countBeat_tb (s : State) : (countBeat s).tb = s.tb := by simp [countBeat]

@[simp] theorem newBeat_tb (s : State) : (newBeat s).tb = s.tb := by simp [newBeat, foldl_tb]

/-! ### The boundary -/

theorem beatTick_beat (s : State) : (beatTick s).tb.beat = s.tb.beat + 1 := rfl

theorem exec_beatBoundary_down {s : State} (h : vcoreUp s = false) : exec .beatBoundary s = .next s := by
  change execBeatBoundary s = _
  simp [execBeatBoundary, h]

theorem exec_beatBoundary_drain {s : State} {d : DrainRun} (h : vcoreUp s = true) (hd : s.pu.drain = some d) :
    exec .beatBoundary s = .next (modPu (fun p => writerBeat (releaseSlots p)) (beatTick s)) := by
  change execBeatBoundary s = _
  simp [execBeatBoundary, h, hd]

theorem exec_beatBoundary_running {s : State} (h : vcoreUp s = true) (hd : s.pu.drain = none) :
    exec .beatBoundary s = .next (newBeat (beatTick (endBeat s))) := by
  change execBeatBoundary s = _
  simp [execBeatBoundary, h, hd]

/-- Settles O9: what ends the beat and what begins the next one leave the timebase alone (`endBeat_tb`, `newBeat_tb`), so that the
counter rises by the one of `beatTick`. -/
theorem boundaryStartsTheNextBeat : Obligations.BoundaryStartsTheNextBeat := by
  unfold Obligations.BoundaryStartsTheNextBeat
  refine ⟨fun s hup => ?running, fun d s hup hd => ?drain, fun s hdown => ?down⟩
  case running =>
    cases hd : s.pu.drain with
    | some d => exact ⟨_, exec_beatBoundary_drain hup hd, rfl⟩
    | none => exact ⟨_, exec_beatBoundary_running hup hd, by rw [newBeat_tb, beatTick_beat, endBeat_tb]⟩
  case drain => exact ⟨_, exec_beatBoundary_drain hup hd, rfl⟩
  case down => exact ⟨s, exec_beatBoundary_down hdown, rfl⟩

end Sys2Proof.Machine
end

section
/-! PROOFS. The counters and their latches (02_beat R32, R33, R58) and the timebase (02_beat R49 to R57): what each operation of the
timebase leaves in it, and the statements that follow. -/

namespace Sys2Proof.Machine

/-! ### Reset and the low halves -/

/-- Settles O3: each field of the state after reset is its default, and no byte memory holds a cell. -/
theorem resetValues : Obligations.ResetValues := by
  unfold Obligations.ResetValues
  refine ⟨rfl, rfl, rfl, rfl, rfl, rfl, rfl, rfl, rfl, rfl, rfl, rfl, rfl, rfl, rfl, rfl, rfl, ?copyA, ?canonical⟩
  case copyA => rw [State.reset]
  case canonical => decide

/-- Settles O4: a read of a low half is its answer on the state with the other half latched. -/
theorem lowHalfReadsLatch : Obligations.LowHalfReadsLatch := by
  unfold Obligations.LowHalfReadsLatch
  exact ⟨fun _ => ⟨_, rfl, rfl⟩, fun _ => ⟨_, rfl, rfl⟩, fun _ => ⟨_, rfl, rfl⟩, fun _ => ⟨_, rfl, rfl⟩,
    fun _ => ⟨_, rfl, rfl⟩⟩

theorem exec_beatLoRead (s : State) : exec .beatLoRead s = .next (emit (.regRead (BitVec.ofNat 32 s.tb.beat)) (latchBeat s)) := rfl

theorem readReg_beatHi (src : MmioSrc) {s : State} (h : blockPowered 0x20044 s = true) : readReg src 0x20044 s = (s.tb.beatHi, s) := by
  have hreg : regAt src 0x20044 s = some s.tb.beatHi.toNat := rfl
  simp [readReg, h, hreg, readLatch]

theorem exec_registerRead_beatHi {s : State} (hpower : blockPowered 0x20044 s = true) (hsupply : s.seq.vstby = true)
    (hclock : s.seq.clk25 = true) :
    exec (.registerRead 0x20044 true) s = .next (emit (.sideband (le 4 s.tb.beatHi.toNat)) (countTransaction s)) := by
  have hpower' : blockPowered 0x20044 (countTransaction s) = true := hpower
  rw [exec_registerRead_inside true s (by decide), transaction_goodPec _ hsupply hclock, readReg_beatHi sidebandSrc hpower']
  rfl

theorem halves_of_beat (n : Nat) :
    (BitVec.ofNat 32 (n / 2 ^ 32)).toNat * 2 ^ 32 + (BitVec.ofNat 32 n).toNat = n % 2 ^ 64 := by
  simp only [BitVec.toNat_ofNat]
  omega

/-- Settles O53: the read of BEAT_HI answers with the latch, which the read of BEAT_LO has filled (`exec_registerRead_beatHi`). -/
theorem lowHalfLatchesForTheHighHalf : Obligations.LowHalfLatchesForTheHighHalf := by
  unfold Obligations.LowHalfLatchesForTheHighHalf
  refine ⟨fun s ⟨hpower, hsupply, hclock⟩ => ?both, fun s ⟨hpower, hsupply, hclock⟩ => ?alone⟩
  case both =>
    exact ⟨_, _, exec_beatLoRead s, exec_registerRead_beatHi hpower hsupply hclock, rfl, rfl, halves_of_beat s.tb.beat, rfl⟩
  case alone => exact ⟨_, exec_registerRead_beatHi hpower hsupply hclock, rfl, rfl, rfl, rfl⟩

/-! ### The operations of the timebase -/

theorem holdPps_tb (s : State) :
    (holdPps s).tb = { s.tb with ppsOut := s.tb.ppsOut && s.tb.ppsOutEn && s.tb.mode != .free } := by
  unfold holdPps
  split
  next h =>
    have hlow : (s.tb.ppsOut && s.tb.ppsOutEn && s.tb.mode != .free) = false := by grind
    simp [hlow]
  next h =>
    have hkept : (s.tb.ppsOut && s.tb.ppsOutEn && s.tb.mode != .free) = s.tb.ppsOut := by grind
    rw [hkept]

@[simp] theorem enterMode_self (s : State) : enterMode s.tb.mode s = s := if_pos rfl

theorem enterMode_tb {m : TbMode} {s : State} (h : s.tb.mode ≠ m) :
    (enterMode m s).tb = { s.tb with
      mode := m, stepDone := false, goodSince := none, ppsOut := s.tb.ppsOut && s.tb.ppsOutEn && m != .free } := by
  simp [enterMode, h, holdPps_tb]

@[simp] theorem enterMode_ti (m : TbMode) (s : State) : (enterMode m s).ti = s.ti := (enterMode_keepsTbCtrl m s).ti

@[simp] theorem enterMode_reg (m : TbMode) (s : State) : (enterMode m s).reg = s.reg := (enterMode_keepsTbCtrl m s).reg

theorem slew_tb (s : State) : (slew s).tb = { s.tb with freqAdj := (((drawn s).toNat % 3435973 : Nat) : Int) - 1717986 } := rfl

/-- The discipline stays within 200 ppm (R49). -/
theorem slew_freqAdj_bounds (s : State) : -1717986 ≤ (slew s).tb.freqAdj ∧ (slew s).tb.freqAdj ≤ 1717986 := by
  rw [slew_tb]
  dsimp only
  omega

theorem slew_freeCtr (s : State) : (slew s).freeCtr = s.freeCtr + 1 := rfl

/-- What an offset in LOCKED changes before the slew. -/
def noteOffset (off : Int) (t : Timebase) : Timebase :=
  { t with lastOffset := off, goodSince := if decide (-400 ≤ off ∧ off ≤ 400) then t.goodSince.or (some t.beat) else none }

theorem takeOffset_of_locked (off : Int) {s : State} (h : s.tb.mode = .locked) :
    takeOffset off s = slew (modTb (noteOffset off) s) := by
  simp [takeOffset, h, modTb, noteOffset]

/-- An offset above 1 ms in FREE enters ACQUIRE and steps time of day (R52). -/
theorem takeOffset_of_free_of_large {off : Int} {s : State} (h : s.tb.mode = .free) (hoff : 4000000 < off) :
    takeOffset off s = stepTime off (modTb (fun t => { t with goodSince := none })
      (enterMode .acquire (modTb (fun t => { t with lastOffset := off }) s))) := by
  have hsmall : ¬(-400 ≤ off ∧ off ≤ 400) := by omega
  have hne : (modTb (fun t => { t with lastOffset := off }) s).tb.mode ≠ .acquire := by simp [h]
  simp [takeOffset, h, hsmall, stepLimit, hoff, enterMode_tb hne]

theorem exec_ptpMessage {port : Nat} (sync : Bool) (off : Int) {s : State} (h : ptpUsable port s = true) :
    exec (.ptpMessage port sync off) s = .next (takeOffset off s) := if_pos h

theorem exec_timebaseSourceLost_ptp {s : State} (hsrc : s.tb.srcSel = 1) (hmode : s.tb.mode = .locked ∨ s.tb.mode = .acquire) :
    exec (.timebaseSourceLost false) s = .next (loseSource false s) := by
  change execTimebaseSourceLost false s = _
  rcases hmode with h | h <;> simp [execTimebaseSourceLost, hsrc, h]

/-- Settles O7: a clause names what its row does (`takeOffset_of_…`, `enterMode_tb`), and reads the timebase off it. -/
theorem timebaseFollowsItsSource : Obligations.TimebaseFollowsItsSource := by
  unfold Obligations.TimebaseFollowsItsSource
  refine ⟨fun port sync off s husable hmode hoff => ?stepped, fun port sync off s husable hmode => ?slewed,
    fun off s hsrc hpol hmode hlast hbeat => ?edge, fun s hsrc hmode => ?holdover, fun s hsrc hmode => ?toFree,
    fun b s hmode hgood hbeat => ?locked, fun s hen hmode hout htod => ?rise, fun s hout htod => ?fall⟩
  case stepped =>
    have hne : (modTb (fun t => { t with lastOffset := off }) s).tb.mode ≠ .acquire := by simp [hmode]
    refine ⟨_, exec_ptpMessage sync off husable, ?_⟩
    rw [takeOffset_of_free_of_large hmode hoff]
    simp [stepTime, enterMode_tb hne]
  case slewed =>
    refine ⟨_, exec_ptpMessage sync off husable, ?_⟩
    rw [takeOffset_of_locked off hmode]
    exact ⟨hmode, rfl, rfl, rfl, slew_freqAdj_bounds _⟩
  case edge =>
    have hwindow : edgeInWindow s.tb.beat (s.tb.beat - 1953125) = true := by
      simp only [edgeInWindow, decide_eq_true_eq]
      omega
    have hexec : exec (.ppsInEdge true off) s =
        .next (takeOffset off (modTb (fun t => { t with lastEdgeBeat := some t.beat, lastGoodEdge := t.tod }) s)) := by
      change execPpsInEdge true off s = _
      simp [execPpsInEdge, hsrc, hpol, hlast, hwindow]
    refine ⟨_, hexec, ?_⟩
    rw [takeOffset_of_locked off (by exact hmode)]
    exact ⟨rfl, rfl, hmode, rfl, rfl, rfl⟩
  case holdover =>
    have hne : s.tb.mode ≠ .holdover := by simp [hmode]
    refine ⟨_, exec_timebaseSourceLost_ptp hsrc (.inl hmode), ?_⟩
    simp [loseSource, hmode, enterMode_tb]
  case toFree =>
    refine ⟨_, exec_timebaseSourceLost_ptp hsrc (.inr hmode), ?_⟩
    simp [loseSource, hmode, enterMode_tb]
  case locked =>
    have hexec : exec .timebaseLocked s = .next (enterMode .locked s) := by
      change execTimebaseLocked s = _
      simp [execTimebaseLocked, hgood, hmode, hbeat]
    have hne : s.tb.mode ≠ .locked := by simp [hmode]
    refine ⟨_, hexec, ?_⟩
    simp [enterMode_tb hne]
  case rise =>
    have hexec : exec .ppsOutRise s = .next (emit (.ppsOut true)
        (modTb (fun t => { t with ppsOut := true, ppsRise := (t.tod + 2047) / unitsPerSecond }) s)) := by
      change execPpsOutRise s = _
      simp [execPpsOutRise, unitsPerSecond, hen, hmode, hout, htod]
    exact ⟨_, hexec, rfl, rfl, rfl⟩
  case fall =>
    have hexec : exec .ppsOutFall s = .next (emit (.ppsOut false) (modTb (fun t => { t with ppsOut := false }) s)) := by
      change execPpsOutFall s = _
      simp [execPpsOutFall, unitsPerSecond, hout, htod]
    exact ⟨_, hexec, rfl, rfl⟩

end Sys2Proof.Machine
end

section
/-! PROOFS. The commands of the BCS executor that are taken up (13_management R491), and the slot table's (02_beat R39, R43, R44). -/

namespace Sys2Proof.Machine

/-! ### A command that is taken up -/

theorem exec_bcs_open {c : Instr} {s : State} {path : BcsPath} {opcode : Nat} {input : Bytes} {lenOk : Bool} {body : State → State}
    (hexec : exec c s = .next (bcs path opcode input lenOk body s)) (hopen : bcsOpen path opcode s = true) (hlen : lenOk = true) :
    exec c s = .next (body s) := by
  rw [hexec, bcs_open hopen hlen]

theorem exec_bcs_length {c : Instr} {s : State} {path : BcsPath} {opcode : Nat} {input : Bytes} {lenOk : Bool} {body : State → State}
    (hexec : exec c s = .next (bcs path opcode input lenOk body s)) (hopen : bcsOpen path opcode s = true) (hlen : lenOk = false) :
    exec c s = .next (answer path opcode 0x0016 [] s) := by
  rw [hexec, bcs_length hopen hlen]

theorem exec_bcs_checked {c : Instr} {s : State} {path : BcsPath} {opcode : Nat} {input : Bytes} {lenOk : Bool}
    {fields : State → List (Bool × Nat)} {body : State → State → State}
    (hexec : exec c s = .next (bcs path opcode input lenOk (fun s => checked path opcode (fields s) (body s) s) s))
    (hopen : bcsOpen path opcode s = true) (hlen : lenOk = true) (hfields : ∀ f ∈ fields s, f.1 = true) :
    exec c s = .next (body s s) := by
  rw [hexec, bcs_open hopen hlen, checked_ok (firstBad_none hfields)]

theorem bcs_mem_invalid (path : BcsPath) (opcode off : Nat) (s : State) :
    Output.bcs path opcode 0x0002 off [] ∈ (invalid path opcode off s).out :=
  (answerV_out path opcode 0x0002 off [] s).subset (List.mem_cons_self ..)

/-! ### The slot table -/

/-- The state with the copies swapped and the activation gone. -/
def swapped (s : State) : State := { s with slot := { s.slot with activeB := !s.slot.activeB, activation := none } }

theorem exec_slotTableSwap {a : SlotActivation} {s : State} (h : s.slot.activation = some a) (hbeat : a.beat ≤ s.tb.beat) :
    exec .slotTableSwap s = .next (answer a.path 0xC092 0 (le 8 s.tb.beat ++ le 1 (b2n (!s.slot.activeB)))
      (raise 0x0103 .info (le 1 (b2n (!s.slot.activeB)) ++ zeros 7 ++ le 8 s.tb.beat) (swapped s))) := by
  change execSlotTableSwap s = _
  simp [execSlotTableSwap, h, hbeat, swapped]

/-- Settles O8: a command that is taken up runs its body (`bcs_open`), whose checks hold. -/
theorem slotTableCommands : Obligations.SlotTableCommands := by
  unfold Obligations.SlotTableCommands
  refine ⟨fun path input s hopen hlen hcopy => ?get, fun path input s hopen hlen => ?getLength,
    fun path input s hopen hlen hpos hfit hzero hactive => ?set, fun path input s hopen hlen hnone hactive hok => ?activate,
    fun path input e s hopen hlen hnone hactive hbad => ?refuse, fun a s hact hbeat => ?swap⟩
  case get =>
    exact ⟨_, exec_bcs_checked rfl hopen (by simp [hlen]) (by simp [hcopy]), answered_success ..⟩
  case getLength => exact ⟨_, exec_bcs_length rfl hopen (by simp [hlen]), answered_answer ..⟩
  case set =>
    have hcount : fld 2 2 input ≤ 1024 := by omega
    exact ⟨_, exec_bcs_checked rfl hopen (by simp [hlen]) (by simp [hfit, hpos, hcount, hzero]), answered_success .., by simp [hactive]⟩
  case activate =>
    refine ⟨_, exec_bcs_open rfl hopen (by simp [hlen]), ?_⟩
    have hfind : (s.slot.copyB.find? fun e => !entryOk e.2 s) = none := by simpa using hok
    simp [hnone, hactive, hfind]
  case refuse =>
    refine ⟨_, exec_bcs_open rfl hopen (by simp [hlen]), ?_⟩
    simp only [hnone, hactive, hbad, Option.isSome_none, Bool.false_eq_true, if_false]
    exact ⟨by simp, bcs_mem_invalid ..⟩
  case swap =>
    refine ⟨_, exec_slotTableSwap hact hbeat, by simp [swapped], answered_answer ..⟩

end Sys2Proof.Machine
end

section
/-! PROOFS. The standard mailbox commands that change something, and those that are not supported (13_management R493, 07_cxl_ports R250,
R251, R254, R255, R270, 12_integrity R459, R463; the payloads' layouts are the model's, log entries 112 to 120). -/

namespace Sys2Proof.Machine

/-! ### What a command on an open path does beside its answer -/

/-- A command that is not supported and is taken up is answered Unsupported. -/
theorem exec_unsupported_open {c : Instr} {path : BcsPath} {opcode : Nat} {input : Bytes} {s : State}
    (hexec : exec c s = .next (unsupported path opcode input s)) (h : bcsOpen path opcode s = true) :
    exec c s = .next (answer path opcode 0x0003 [] s) := by
  simp only [bcsOpen, Bool.and_eq_true, Bool.not_eq_true'] at h
  obtain ⟨⟨⟨hserving, hpair⟩, hrom⟩, -⟩ := h
  simp [hexec, unsupported, gated, hserving, hpair, hrom]

/-- An answer changes the management complex in a mailbox or in the sideband proxy. -/
theorem answerV_mc (path : BcsPath) (opcode rc v : Nat) (out : Bytes) (s : State) :
    ∃ mail proxy, (answerV path opcode rc v out s).mc = { s.mc with mail := mail, proxy := proxy } := by
  cases path with
  | sideband => exact ⟨_, _, rfl⟩
  | primary l =>
    simp only [answerV]
    split <;> exact ⟨_, _, rfl⟩
  | fm h =>
    simp only [answerV]
    split <;> exact ⟨_, _, rfl⟩
  | admin cid => exact ⟨s.mc.mail, s.mc.proxy, by simp [answerV]⟩
  | forwarded m p => exact ⟨_, _, rfl⟩

@[simp] theorem answerV_bg (path : BcsPath) (opcode rc v : Nat) (out : Bytes) (s : State) :
    (answerV path opcode rc v out s).mc.bg = s.mc.bg := by
  obtain ⟨_, _, h⟩ := answerV_mc path opcode rc v out s
  rw [h]

@[simp] theorem success_irqPolicy (path : BcsPath) (opcode : Nat) (out : Bytes) (s : State) :
    (success path opcode out s).mc.irqPolicy = s.mc.irqPolicy := by
  obtain ⟨_, _, h⟩ := answerV_mc path opcode 0 0xFFFF out s
  rw [success, answer, h]

@[simp] theorem success_alerts (path : BcsPath) (opcode : Nat) (out : Bytes) (s : State) :
    (success path opcode out s).mc.alerts = s.mc.alerts := by
  obtain ⟨_, _, h⟩ := answerV_mc path opcode 0 0xFFFF out s
  rw [success, answer, h]

/-- What the start of a background command leaves alone. -/
structure KeptByStart (s t : State) : Prop where
  cxl : t.cxl = s.cxl
  reg : t.reg = s.reg
  ti : t.ti = s.ti
  pu : t.pu = s.pu

theorem startBg_kept (path : BcsPath) (opcode : Nat) (s : State) : KeptByStart s (startBg path opcode s) := by
  unfold startBg
  dsimp only
  split <;> constructor <;> simp [answer]

theorem startBg_bg (path : BcsPath) (opcode : Nat) (s : State) :
    (startBg path opcode s).mc.bg = s.mc.bg ++ [{ path := path, opcode := opcode }] := by
  unfold startBg
  dsimp only
  split <;> simp [answer]

/-! ### Alert thresholds (4202h) -/

/-- The thresholds that Set Alert Configuration stores when every VALID bit is set. -/
theorem alerts_all_valid {input : Bytes} (en : Nat) (hlen : input.length = 12) :
    let a := zeros 1 ++ le 1 en ++ slice 2 1 input ++ zeros 1 ++ slice 4 2 input ++ slice 6 2 input ++ slice 8 2 input ++ slice 10 2 input
    slice 2 1 a = slice 2 1 input ∧ slice 4 8 a = slice 4 8 input := by
  match input, hlen with
  | [_, _, _, _, _, _, _, _, _, _, _, _], _ => exact ⟨rfl, rfl⟩

/-! ### One write unit of the bureau or of a line (4103h, 4301h, 4302h) -/

/-- A region that this controller serves alone takes its accesses here (05_regions R160, 06_pair R184). -/
theorem route_plainHere {r : Nat} (off : Nat) {s : State} (h : plainHere r s = true) : route r off s = .here := by
  unfold plainHere at h
  split at h
  next d hd =>
    simp only [Bool.and_eq_true, Bool.not_eq_true', beq_iff_eq] at h
    obtain ⟨⟨⟨hsettee, hmirrored⟩, -⟩, hseat⟩ := h
    simp [route, hd, hsettee, hmirrored, servesHere, hseat]
  next => cases h

theorem plainHere_addJob (j : BureauJob) (r : Nat) (s : State) : plainHere r (addJob j s).2 = plainHere r s := rfl

theorem markPoison_nil (l : List LineWrite) : markPoison [] l = l := by simp [markPoison]

theorem getLast_submitUnit (u : WUnit) (s : State) :
    (submitUnit u s).pu.units.getLast? = some { u with id := s.pu.nextUnit } := by simp [submitUnit]

theorem length_submitUnit (u : WUnit) (s : State) : (submitUnit u s).pu.units.length = s.pu.units.length + 1 := by
  simp [submitUnit]

theorem bureauWrite_here {job off : Nat} {b : Bytes} {s : State} (h : plainHere s.cxl.bureau s = true) :
    bureauWrite job off b s = submitUnit (newUnit (.bureau job) .general s.cxl.bureau (cutLines off b) s) s := by
  simp [bureauWrite, route_plainHere off h, submitWrite, markPoison_nil]

/-- The write unit of Inject Poison or Clear Poison on an accepted extent that this controller serves alone. -/
theorem poisonWrite_here {path : BcsPath} {opcode dpa : Nat} {data : Line} {inject : Bool} {a : Attachment} {d : Region} {s : State}
    (ha : acceptedAt (ldOf path) dpa s = some a) (hd : regionOf a.region s = some d) (hhere : plainHere a.region s = true)
    (hwrite : writeRefused a.region d (a.rext * 2 ^ 28 + (dpa - a.dpa)) 64 s = false) :
    ∃ j, poisonWrite path opcode dpa data inject s =
      submitUnit (newUnit (.bureau s.cxl.nextJob) .general a.region
        [⟨(a.rext * 2 ^ 28 + (dpa - a.dpa)) / 64, fullMask, data, inject⟩] (addJob j s).2) (addJob j s).2 := by
  refine ⟨.poison a.region ((a.rext * 2 ^ 28 + (dpa - a.dpa)) / 64) inject (some path), ?_⟩
  simp only [poisonWrite, ha, hd, hwrite, Bool.false_eq_true, if_false]
  rw [route_plainHere _ (by rw [plainHere_addJob]; exact hhere)]
  rfl

/-! ### The obligation -/

/-- Settles O35: a command that is taken up runs its body (`exec_bcs_checked`), and an answer changes none of the fields named. -/
theorem standardMailboxChanges : Obligations.StandardMailboxChanges := by
  unfold Obligations.StandardMailboxChanges
  refine ⟨fun path input s hopen hlen ⟨hlog, hflag, hcount, hzero⟩ => ?clearEvents, fun path input s hopen hlen => ?irqPolicy,
    fun path input s hopen hlen hmode => ?setTime, fun path input s hopen hlen hmode => ?timeLocked,
    fun path input s hopen hlen ⟨hvalid, hen, hzero⟩ => ?alerts, fun path input s hopen hlen hstate => ?shutdown,
    fun path input d s hopen hlen ⟨hbureau, hd⟩ ⟨hstate, hhere⟩ ⟨hfit, hzero⟩ => ?setLsa,
    fun path input a d s hopen hlen hline ha hd hhere hwrite => ?inject,
    fun path input a d s hopen hlen hline ha hd hhere hwrite => ?clear,
    fun path input s hopen hlen ⟨hline, hpos, hmode⟩ hidle hfree => ?scan,
    fun head input h s hopen hlen ⟨hpos, hfit, hrsvd, hzero⟩ hhead hgfam => ?lds,
    fun path input s hopen hlen => ?dcd, fun path input s hopen => ?partition, fun path input s hopen => ?sanitize,
    fun path input s hopen => ?erase⟩
  case clearEvents =>
    refine ⟨_, exec_bcs_checked rfl hopen (by simp [hlen, hcount]) (by simp [hlog, hzero, hflag, bitOf]), answered_success .., ?_⟩
    simp only [success_ev, success_cxl, success_reg, success_ti, success_pu]
    generalize List.getLast? _ = newest
    cases newest <;> exact ⟨rfl, rfl, rfl, rfl, rfl⟩
  case irqPolicy =>
    refine ⟨_, exec_bcs_open rfl hopen (by simp [hlen]), answered_success .., ?_⟩
    have hrest : (padTo 5 s.mc.irqPolicy).drop input.length = [] := by simp [hlen, padTo, zeros]; omega
    simp [hrest]
  case setTime =>
    refine ⟨_, exec_bcs_open rfl hopen (by simp [hlen]), answered_success .., ?_⟩
    simp [hmode]
  case timeLocked =>
    refine ⟨_, exec_bcs_open rfl hopen (by simp [hlen]), answered_success .., ?_⟩
    simp [hmode]
  case alerts =>
    refine ⟨_, exec_bcs_checked rfl hopen (by simp [hlen]) (by simp [hvalid, hen, hzero]), answered_success .., ?_⟩
    obtain ⟨hpercent, hrest⟩ := alerts_all_valid ((fld 1 1 (padTo 12 s.mc.alerts) &&& (31 - 31)) ||| (fld 1 1 input &&& 31)) hlen
    simp only [success_alerts, success_cxl, success_reg, success_ti, success_pu, hvalid, and_true]
    exact ⟨hpercent, hrest⟩
  case shutdown =>
    exact ⟨_, exec_bcs_checked rfl hopen (by simp [hlen]) (by simp [hstate]), answered_success .., by simp⟩
  case setLsa =>
    have hsize : inBureau s = true := by simp [inBureau, hbureau]
    have hreadable : bureauReadable s = true := by simp [bureauReadable, hd, hstate]
    have hbytes : (input.drop 8).isEmpty = false := by simp; omega
    refine ⟨_, exec_bcs_checked rfl hopen (by simp; omega) (by simp [hsize, hfit, hzero]), ?_⟩
    simp only [hbytes, hreadable, Bool.not_true, Bool.false_eq_true, if_false]
    rw [bureauWrite_here (by exact hhere), getLast_submitUnit]
    exact ⟨rfl, mget_mput_self .., rfl, rfl, rfl⟩
  case inject =>
    obtain ⟨j, hj⟩ := poisonWrite_here (opcode := 0x4301) (data := 0) (inject := true) ha hd hhere hwrite
    refine ⟨_, exec_bcs_checked rfl hopen (by simp [hlen]) (by simp [hline]), ?_⟩
    rw [hj, getLast_submitUnit, length_submitUnit]
    exact ⟨rfl, rfl, rfl, rfl, rfl⟩
  case clear =>
    obtain ⟨j, hj⟩ := poisonWrite_here (opcode := 0x4302) (data := lineOf (slice 8 64 input)) (inject := false) ha hd hhere hwrite
    refine ⟨_, exec_bcs_checked rfl hopen (by simp [hlen]) (by simp [hline]), ?_⟩
    rw [hj, getLast_submitUnit, length_submitUnit]
    exact ⟨rfl, rfl, rfl, rfl, rfl⟩
  case scan =>
    have hrange : fld 0 8 input < fld 0 8 input + fld 8 8 input * 64 := by omega
    have hkept := startBg_kept path 0x4304 s
    refine ⟨_, exec_bcs_checked rfl hopen (by simp [hlen]) (by simp [hline, hpos, hmode]), ?_⟩
    simp only [hidle, if_false, inBackground, hfree, if_true]
    exact ⟨rfl, rfl, rfl, by simp [startBg_bg], hkept.cxl, hkept.reg, hkept.ti, hkept.pu⟩
  case lds =>
    have hknown : mhas head s.cxl.heads = true := by simp [mhas, hhead]
    refine ⟨_, exec_bcs_checked rfl hopen (by simp [hlen]) (by simp [fmHead, hpos, hfit, hrsvd, hzero, hknown, hgfam]), ?_,
      answered_success .., by simp [modHead]⟩
    simp [modHead, fmHead, mget_mmod_self, hhead]
  case dcd => exact ⟨_, exec_bcs_open rfl hopen (by simp [hlen]), answered_success .., by simp⟩
  case partition => exact ⟨_, exec_unsupported_open rfl hopen, answered_answer .., by simp⟩
  case sanitize => exact ⟨_, exec_unsupported_open rfl hopen, answered_answer .., by simp⟩
  case erase => exact ⟨_, exec_unsupported_open rfl hopen, answered_answer .., by simp⟩

end Sys2Proof.Machine
end

section
/-! PROOFS. The transform commands (09_command_queues R373, 11_transform_engine R427, R438, R442 to R444, 02_beat R39 to R42, R47): from a
started command whose operands are in the host buffer to its job, from the last granted cycle of a job to its completion, and the report
of a backlog. -/

namespace Sys2Proof.Machine

/-! ### A command of a queue pair while its operands are taken -/

/-- The queue pair holds one started command, and the state is another one in its queue pairs only. -/
structure TakenFor (qid : Nat) (c : GqpCmd) (s t : State) : Prop where
  queue : ∃ q, queueOf qid t = some q ∧ q.cmds = [c]
  started : c.started = true
  te : t.te = s.te
  out : t.out = s.out
  ti : t.ti = s.ti
  pu : t.pu = s.pu
  reg : t.reg = s.reg
  ev : t.ev = s.ev

theorem TakenFor.start {qid : Nat} {q : QueuePair} {c : GqpCmd} {s : State} (hq : queueOf qid s = some q) (hc : q.cmds = [c])
    (hs : c.started = true) : TakenFor qid c s s :=
  ⟨⟨q, hq, hc⟩, hs, rfl, rfl, rfl, rfl, rfl, rfl⟩

theorem TakenFor.modCmd {qid : Nat} {c : GqpCmd} {s t : State} (h : TakenFor qid c s t) (f : GqpCmd → GqpCmd)
    (hf : (f c).started = true) : TakenFor qid (f c) s (modCmd qid c.cid f t) where
  queue := by
    obtain ⟨q, hq, hc⟩ := h.queue
    refine ⟨{ q with cmds := [f c] }, ?_, rfl⟩
    rw [Machine.modCmd, queueOf_modQ_self, hq]
    simp [hc, h.started]
  started := hf
  te := h.te
  out := h.out
  ti := h.ti
  pu := h.pu
  reg := h.reg
  ev := h.ev

/-! ### The job of a command whose operands are here -/

/-- The job that a command queues (11_transform_engine R427, R442). -/
def jobOf (qid : Nat) (c : GqpCmd) : TeJob :=
  { qid := qid, cid := c.cid, todo := (engineBytes c.entry).1, aad := (engineBytes c.entry).2, data := joined 0 secondBase c
    second := joined secondBase (2 * secondBase) c }

/-- A job has joined the end of its stream's jobs, its command runs, and nothing else of what the statement names has changed. -/
structure Queued (st : Nat) (j : TeJob) (s t : State) : Prop where
  jobs : jobsOf st t = jobsOf st s ++ [j]
  running : (runningCmd j.qid j.cid t).isSome = true
  nonce : t.te.nonce = s.te.nonce
  out : t.out = s.out
  ti : t.ti = s.ti
  pu : t.pu = s.pu
  reg : t.reg = s.reg
  ev : t.ev = s.ev

theorem runningCmd_of_taken {qid : Nat} {c : GqpCmd} {s t : State} (h : TakenFor qid c s t) (hr : c.running = true) :
    runningCmd qid c.cid t = some c := by
  obtain ⟨q, hq, hc⟩ := h.queue
  simp [runningCmd, hq, findCmd, hc, h.started, hr]

theorem jobsOf_append (st : Nat) (j : TeJob) (s : State) :
    jobsOf st { s with te := { s.te with jobs := mput st (jobsOf st s ++ [j]) s.te.jobs } } = jobsOf st s ++ [j] := by
  simp [jobsOf, mgetD, mget_mput_self]

/-- With every operand here, a command other than Read queues its job on its stream. -/
theorem TakenFor.afterGather {qid st : Nat} {c : GqpCmd} {s t : State} (h : TakenFor qid c s t) (hr : c.running = true)
    (hp : c.pieces = []) (hs : c.status = 0) (hb : c.bad = []) (hop : eOpcode c.entry ≠ 0x01) (hst : streamOf qid s = some st) :
    Queued st (jobOf qid c) s (afterGather qid c.cid t) := by
  have hrun := runningCmd_of_taken h hr
  have hst' : streamOf qid t = some st := by rw [← hst, streamOf, streamOf, h.te]
  have hjobs : jobsOf st t = jobsOf st s := by rw [jobsOf, jobsOf, h.te]
  obtain ⟨q, hq, -⟩ := h.queue
  have heq : Machine.afterGather qid c.cid t =
      { t with te := { t.te with jobs := mput st (jobsOf st t ++ [jobOf qid c]) t.te.jobs } } := by
    simp [Machine.afterGather, hq, hrun, settled, hp, hs, hop, enqueueJob, hst', hb, jobOf, jobsOf]
  rw [heq]
  exact ⟨by rw [jobsOf_append, hjobs], (congrArg Option.isSome hrun).trans rfl, by rw [← h.te], h.out, h.ti, h.pu, h.reg, h.ev⟩

/-! ### A command with its operands in the host buffer -/

/-- A started command whose operands are in the host buffer, alone on a queue pair that is bound to a stream, with a working engine. -/
structure HostCommand (qid st : Nat) (q : QueuePair) (c : GqpCmd) (s : State) : Prop where
  queue : queueOf qid s = some q
  cmds : q.cmds = [c]
  started : c.started = true
  waiting : c.running = false
  status : c.status = 0
  src : c.src = []
  bad : c.bad = []
  kind : ePtrKind c.entry = 0
  region : eRegion c.entry = 0
  stream : streamOf qid s = some st
  works : engineWorks s = true

section
variable {qid st : Nat} {q : QueuePair} {c : GqpCmd} {s : State}

theorem HostCommand.withCmd (h : HostCommand qid st q c s) {ok : Bytes → Bool} {body : QueuePair → GqpCmd → State → State}
    (hok : ok c.entry = true) : withCmd qid c.cid ok body s = body q c s := by
  have hfind : findCmd false c.cid q = some c := by simp [findCmd, h.cmds, h.started, h.waiting]
  simp [Machine.withCmd, h.queue, hfind, hok]

theorem HostCommand.dataFits (h : HostCommand qid st q c s) (n : Nat) : dataFits c n = true := by
  simp [Machine.dataFits, h.kind]

theorem HostCommand.hostBytes (h : HostCommand qid st q c s) (data : Bytes) : hostBytes c data data.length = data := by
  simp [Machine.hostBytes, h.kind, padTo, zeros]

/-- The command runs and takes its operands. -/
theorem HostCommand.taken (h : HostCommand qid st q c s) :
    TakenFor qid { c with running := true, pieces := [] } s (runCmd qid c.cid [] s) :=
  (TakenFor.start h.queue h.cmds h.started).modCmd (fun c => { c with running := true, pieces := [] }) h.started

end

theorem sourceStatus_host (dom off : Nat) {n : Nat} (s : State) (hn : 0 < n) : sourceStatus dom 0 off n s = none := by
  simp [sourceStatus, Nat.ne_of_gt hn]

theorem joined_of_two {k : Nat} {a b : Bytes} {c : GqpCmd} (hk : 0 < k) (hsrc : c.src = [(0, a), (k, b)]) :
    joined 0 k c = a ∧ joined k (2 * k) c = b := by
  have hdouble : k < 2 * k := by omega
  have hne : k ≠ 0 := by omega
  simp [joined, hsrc, hk, hdouble, hne]

theorem joined_of_one {k : Nat} {a : Bytes} {c : GqpCmd} (hk : 0 < k) (hsrc : c.src = [(0, a)]) :
    joined 0 k c = a ∧ joined k (2 * k) c = [] := by
  have hne : k ≠ 0 := by omega
  simp [joined, hsrc, hk, hne]

theorem engineBytes_whole {e : Bytes} (hseal : eOpcode e ≠ 0x0A) (hunseal : eOpcode e ≠ 0x0B) : engineBytes e = (eLength e, 0) := by
  unfold engineBytes
  split <;> simp_all

/-- A command on one source queues its job. -/
theorem startTransform_queues {qid st todo aad : Nat} {q : QueuePair} {c : GqpCmd} {data : Bytes} {s : State}
    (h : HostCommand qid st q c s) (hop : eOpcode c.entry ≠ 0x01) (hbytes : engineBytes c.entry = (todo, aad)) :
    Queued st { qid := qid, cid := c.cid, todo := todo, aad := aad, data := data } s (startTransform qid c data data.length s) := by
  have hstart : startTransform qid c data data.length s = afterGather qid c.cid
      (modCmd qid c.cid (fun c => { c with src := mput 0 data c.src }) (runCmd qid c.cid [] s)) := by
    simp [startTransform, h.stream, h.works, h.region, sourceRoute, sourcePieces, takeSource, h.hostBytes]
  have htaken := (h.taken.modCmd (fun c => { c with src := mput 0 data c.src }) h.started).afterGather rfl rfl h.status h.bad hop h.stream
  have hsrc : mput 0 data c.src = [(0, data)] := by rw [h.src, mput]
  obtain ⟨hdata, hsecond⟩ := joined_of_one (k := secondBase) (c := { c with running := true, pieces := [], src := mput 0 data c.src })
    (by decide) hsrc
  rw [jobOf, hdata, hsecond, hbytes] at htaken
  rw [hstart]
  exact htaken

/-- The state in which a Compare has both its operands from the host buffer. -/
def bothTaken (qid cid : Nat) (data : Bytes) (s : State) : State :=
  modCmd qid cid (fun c => { c with src := mput secondBase data c.src })
    (modCmd qid cid (fun c => { c with src := mput 0 data c.src }) (runCmd qid cid [] s))

/-- Two operands in the host buffer are the same bytes. -/
theorem bothTaken_queues {qid st todo aad : Nat} {q : QueuePair} {c : GqpCmd} {data : Bytes} {s : State}
    (h : HostCommand qid st q c s) (hop : eOpcode c.entry ≠ 0x01) (hbytes : engineBytes c.entry = (todo, aad)) :
    Queued st { qid := qid, cid := c.cid, todo := todo, aad := aad, data := data, second := data } s
      (afterGather qid c.cid (bothTaken qid c.cid data s)) := by
  have hboth := (h.taken.modCmd (fun c => { c with src := mput 0 data c.src }) h.started).modCmd
    (fun c => { c with src := mput secondBase data c.src }) h.started
  have htaken := hboth.afterGather rfl rfl h.status h.bad hop h.stream
  have hsrc : mput secondBase data (mput 0 data c.src) = [(0, data), (secondBase, data)] := by rw [h.src]; rfl
  obtain ⟨hdata, hsecond⟩ := joined_of_two (k := secondBase)
    (c := { c with running := true, pieces := [], src := mput secondBase data (mput 0 data c.src) }) (by decide) hsrc
  rw [jobOf, hdata, hsecond, hbytes] at htaken
  exact htaken

/-! ### The completion of a command -/

theorem finishDelete_of_not_deleting {qid : Nat} {s : State} (h : ∀ q, queueOf qid s = some q → q.deleting = none) :
    finishDelete qid s = s := by
  unfold finishDelete
  split
  · rfl
  · next q hq => rw [h q hq]

theorem signalCount_queue {qid : Nat} {s : State} {q : QueuePair} (hq : queueOf qid (signalCount qid s) = some q) :
    ∃ p, queueOf qid s = some p ∧ q.deleting = p.deleting := by
  unfold signalCount at hq
  split at hq
  next h => simp [h] at hq
  next p h =>
    split at hq
    · change queueOf qid (modQ qid _ s) = some q at hq
      rw [queueOf_modQ_self, h] at hq
      cases hq
      exact ⟨p, h, rfl⟩
    · exact ⟨q, hq, rfl⟩

theorem writeEntry_queue {qid : Nat} {o : Bytes → Output} {e : Bytes} {s : State} {q : QueuePair}
    (hq : queueOf qid (writeEntry qid o e s) = some q) : ∃ p, queueOf qid s = some p ∧ q.deleting = p.deleting := by
  obtain ⟨p, hp, hdel⟩ := signalCount_queue hq
  rw [queueOf_modQ_self] at hp
  change Option.map _ (queueOf qid s) = some p at hp
  obtain ⟨r, hr, rfl⟩ := Option.map_eq_some_iff.mp hp
  exact ⟨r, hr, hdel⟩

theorem writeEntry_sends (qid : Nat) (o : Bytes → Output) (e : Bytes) (s : State) : o e ∈ (writeEntry qid o e s).out :=
  (signalCount_out _ _).subset (List.mem_cons_self ..)

/-- A completion entry has left, and the queue engine alone has changed. -/
structure Completes (qid cid status : Nat) (entry : Bytes) (s t : State) : Prop where
  sent : Output.completion qid cid status entry ∈ t.out
  te : t.te = s.te
  slot : t.slot = s.slot
  ti : t.ti = s.ti
  pu : t.pu = s.pu
  reg : t.reg = s.reg

/-- A command of a memory queue pair that is not being deleted completes with its entry (09_command_queues R349, R350). -/
theorem complete_completes {qid : Nat} {q : QueuePair} {s : State} (cid status : Nat) (result : Bytes) (hq : queueOf qid s = some q)
    (ht : q.transport = 0) (hd : q.deleting = none) :
    Completes qid cid status (completionEntry qid cid status false result q s) s (complete qid cid status result s) := by
  have hreaches : reachesHost q = true := by simp [reachesHost, hd]
  unfold complete
  simp only [hq, hreaches, ht, Bool.not_true, Bool.false_eq_true, if_false, if_true]
  rw [finishDelete_of_not_deleting]
  · exact ⟨writeEntry_sends .., by simp, by simp, by simp, by simp, by simp⟩
  · intro p hp
    obtain ⟨r, hr, hdel⟩ := writeEntry_queue hp
    change queueOf qid (modQ qid _ s) = some r at hr
    rw [queueOf_modQ_self, hq] at hr
    cases hr
    exact hdel.trans hd

/-! ### The last granted cycle of a job (02_beat R39, 11_transform_engine R427, R442) -/

/-- The state with one cycle of the beat used. -/
def nextCycle (s : State) : State := { s with slot := { s.slot with cycle := s.slot.cycle + 1 } }

/-- A job after its last work item. -/
def workedOff (j : TeJob) : TeJob := { j with begun := true, todo := 0, aad := 0 }

theorem exec_transformCycle_granted {st : Nat} {s : State} (hcycle : s.slot.cycle < 1024) (hactive : s.te.active ≠ 0)
    (hgrant : grantedStream s.slot.cycle s = some st) (hgqp : 0x40 ≤ st) (hjobs : jobsOf st s ≠ []) :
    exec .transformCycle s = .next (serveGqp st (nextCycle s)) := by
  have hready : streamReady st s = true := by simp [streamReady, hgqp, hjobs]
  have hruns : ¬(1024 ≤ s.slot.cycle ∨ s.te.active = 0) :=
    not_or.mpr ⟨Nat.not_le.mpr hcycle, hactive⟩
  change execTransformCycle s = _
  simp only [execTransformCycle, hruns, if_false, hgrant, hready, if_true, serveStream, hgqp]
  rfl

theorem serveGqp_last {st : Nat} {j : TeJob} {q : QueuePair} {c : GqpCmd} {s : State} (hjobs : jobsOf st s = [j])
    (hq : queueOf j.qid s = some q) (hrun : runningCmd j.qid j.cid s = some c)
    (hop : eOpcode c.entry = 0x09 ∨ (eOpcode c.entry = 0x05 ∧ j.data = j.second)) (htodo : j.todo ≤ cycleWidth s) (hpos : 0 < j.todo)
    (haad : j.aad ≤ 32) : serveGqp st s = finishJob (workedOff j) (setJobs st [] s) := by
  have hseal : eOpcode c.entry ≠ 0x0A := by omega
  have hunseal : eOpcode c.entry ≠ 0x0B := by omega
  have hbegin : (if j.begun = true then some (j, s) else beginJob j c.entry q.domain s) = some ({ j with begun := true }, s) := by
    split
    · next h => rw [← h]
    · simp [beginJob, hseal, hunseal]
  have hcycle : jobCycle (cycleWidth s) { j with begun := true } = workedOff j := by
    simp [jobCycle, hpos, workedOff, Nat.sub_eq_zero_of_le htodo, Nat.sub_eq_zero_of_le haad]
  simp only [serveGqp, hjobs, hq, hrun, hseal, hbegin, hcycle]
  simp [workedOff]

theorem firstDiff_self (b : Bytes) (n : Nat) : firstDiff b b n = none := by
  induction b generalizing n with
  | nil => rfl
  | cons x r ih => simp [firstDiff, ih]

theorem finishJob_completes {j : TeJob} {q : QueuePair} {c : GqpCmd} {s : State} (hq : queueOf j.qid s = some q)
    (hrun : runningCmd j.qid j.cid s = some c) (ht : q.transport = 0) (hd : q.deleting = none)
    (hop : eOpcode c.entry = 0x09 ∨ (eOpcode c.entry = 0x05 ∧ j.data = j.second)) (hbad : j.bad = []) (hbad2 : j.bad2 = []) :
    Completes j.qid j.cid 0
      (completionEntry j.qid j.cid 0 false (if eOpcode c.entry = 0x09 then scanResult c.entry j.data else []) q s) s (finishJob j s) := by
  have hbits (off : Nat) : firstBadLine off [] = none := rfl
  rcases hop with hscan | ⟨hcompare, hsame⟩
  · have hfinish : finishJob j s = complete j.qid j.cid 0 (scanResult c.entry j.data) s := by
      simp [finishJob, hq, hrun, hscan, hbad, hbits]
    rw [hfinish, if_pos hscan]
    exact complete_completes _ _ _ hq ht hd
  · have hequal : ∀ o1 o2, compareResult o1 o2 j = (0, []) := by
      intro o1 o2
      simp [compareResult, hbad, hbad2, hbits, hsame, firstDiff_self]
    have hfinish : finishJob j s = complete j.qid j.cid 0 [] s := by
      simp [finishJob, hq, hrun, hcompare, hequal]
    have hnot : eOpcode c.entry ≠ 0x09 := by omega
    rw [hfinish, if_neg hnot]
    exact complete_completes _ _ _ hq ht hd

theorem newestEvent_raise (code : Nat) (sev : Severity) (data : Bytes) {s : State} (hroom : eventRoom s = true) :
    newestEvent (raise code sev data s) = some (code, sev) := by
  have hqueue : s.ev.queue.length < 1024 := by simpa [eventRoom] using hroom
  simp [newestEvent, setEvt, queueEvent, hqueue, mkEvent]

/-! ### The obligation -/

/-- Settles O23: a command starts its job by `startTransform_queues` or `bothTaken_queues`, and the cycle that ends a job completes its
command (`serveGqp_last`, `finishJob_completes`). -/
theorem transformCommandsQueueAndComplete : Obligations.TransformCommandsQueueAndComplete := by
  unfold Obligations.TransformCommandsQueueAndComplete
  refine ⟨fun qid cid st data q c s hq hcmds ⟨hcid, hstarted, hwaiting, hstatus, hsrc, hbad⟩ hop ⟨hheader, hkind, hfields⟩
      ⟨hregion, hpos, hlen⟩ hst hworks => ?check,
    fun qid cid st data q c s hq hcmds ⟨hcid, hstarted, hwaiting, hstatus, hsrc, hbad⟩ hop ⟨hheader, hkind, hfields⟩
      ⟨hregion, hpos, hlen⟩ hst hworks => ?scan,
    fun qid cid st data q c s hq hcmds ⟨hcid, hstarted, hwaiting, hstatus, hsrc, hbad⟩ hop ⟨hheader, hkind, hcdw5, hspec⟩
      ⟨hregion, hpos, hlen⟩ hst hworks => ?compare,
    fun qid cid st data q c s hq hcmds ⟨hcid, hstarted, hwaiting, hstatus, hsrc, hbad⟩ hop ⟨hheader, hkind, hcdw5, hspec⟩ hkey
      ⟨hregion, hpos, hmax, haad, hlen⟩ hst hworks => ?sealing,
    fun qid cid st data q c s hq hcmds ⟨hcid, hstarted, hwaiting, hstatus, hsrc, hbad⟩ hop ⟨hheader, hkind, hcdw5, hspec⟩ hkey
      ⟨hregion, hmin, hmax, haad, hlen⟩ hst hworks => ?unsealing,
    fun st j q c s hcycle hactive hgrant hgqp hjobs hq hrun ⟨htransport, hdeleting⟩ hop ⟨htodo, hpos, haad, hbad, hbad2⟩ => ?cycle,
    fun s hactive => ?idle, fun stream s hbacklog hnew hroom => ?backlog⟩
  case check =>
    subst hcid
    have h : HostCommand qid st q c s := ⟨hq, hcmds, hstarted, hwaiting, hstatus, hsrc, hbad, hkind, hregion, hst, hworks⟩
    have hexec : exec (.checkValue qid c.cid data) s = .next (startTransform qid c data data.length s) := by
      change Host.Outcome.next (withCmd ..) = _
      rw [h.withCmd (by simp [hop])]
      simp [hheader, hfields, hregion, sourceStatus_host _ _ _ hpos, h.dataFits, hlen]
    have hqueued := startTransform_queues (data := data) h (by simp [hop]) (engineBytes_whole (by simp [hop]) (by simp [hop]))
    exact ⟨_, hexec, hqueued.jobs, hqueued.running, hqueued.out, hqueued.ti, hqueued.pu, hqueued.reg, hqueued.ev⟩
  case scan =>
    subst hcid
    have h : HostCommand qid st q c s := ⟨hq, hcmds, hstarted, hwaiting, hstatus, hsrc, hbad, hkind, hregion, hst, hworks⟩
    have hexec : exec (.scanPattern qid c.cid data) s = .next (startTransform qid c data data.length s) := by
      change Host.Outcome.next (withCmd ..) = _
      rw [h.withCmd (by simp [hop])]
      simp [hheader, hfields, hregion, sourceStatus_host _ _ _ hpos, h.dataFits, hlen]
    have hqueued := startTransform_queues (data := data) h (by simp [hop]) (engineBytes_whole (by simp [hop]) (by simp [hop]))
    exact ⟨_, hexec, hqueued.jobs, hqueued.running, hqueued.out, hqueued.ti, hqueued.pu, hqueued.reg, hqueued.ev⟩
  case compare =>
    subst hcid
    have h : HostCommand qid st q c s := ⟨hq, hcmds, hstarted, hwaiting, hstatus, hsrc, hbad, hkind, hregion, hst, hworks⟩
    have hexec : exec (.compare qid c.cid data) s = .next (afterGather qid c.cid (bothTaken qid c.cid data s)) := by
      change Host.Outcome.next (withCmd ..) = _
      rw [h.withCmd (by simp [hop])]
      have hregion2 : eRegion2 c.entry = 0 := by simp [eRegion2, hcdw5]
      have hpos' : 0 < data.length := by omega
      simp [hheader, hcdw5, hspec, hregion, hregion2, sourceStatus_host _ _ _ hpos', h.dataFits, hst, hworks, sourceRoute, sourcePieces,
        takeSource, ← hlen, h.hostBytes, bothTaken]
    have hqueued := bothTaken_queues (data := data) h (by simp [hop]) (engineBytes_whole (by simp [hop]) (by simp [hop]))
    exact ⟨_, hexec, hqueued.jobs, hqueued.running, hqueued.out, hqueued.ti, hqueued.pu, hqueued.reg, hqueued.ev⟩
  case sealing =>
    subst hcid
    have h : HostCommand qid st q c s := ⟨hq, hcmds, hstarted, hwaiting, hstatus, hsrc, hbad, hkind, hregion, hst, hworks⟩
    have hexec : exec (.sealData qid c.cid data) s = .next (startTransform qid c data data.length s) := by
      change Host.Outcome.next (withCmd ..) = _
      rw [h.withCmd (by simp [hop])]
      simp [startSeal, hheader, hcdw5, hspec, hkey, hregion, sourceStatus_host _ _ _ hpos, h.dataFits, hlen, destStatus, eRegion2]
      omega
    have hbytes : engineBytes c.entry = (eLength c.entry - fld 44 4 c.entry, fld 44 4 c.entry) := by simp [engineBytes, hop]
    have hqueued := startTransform_queues (data := data) h (by simp [hop]) hbytes
    exact ⟨_, hexec, hqueued.jobs, hqueued.running, hqueued.nonce, hqueued.out, hqueued.ti, hqueued.pu, hqueued.reg, hqueued.ev⟩
  case unsealing =>
    subst hcid
    have h : HostCommand qid st q c s := ⟨hq, hcmds, hstarted, hwaiting, hstatus, hsrc, hbad, hkind, hregion, hst, hworks⟩
    have hexec : exec (.unsealData qid c.cid data) s = .next (startTransform qid c data data.length s) := by
      change Host.Outcome.next (withCmd ..) = _
      rw [h.withCmd (by simp [hop])]
      have hpos : 0 < eLength c.entry := by omega
      simp [startSeal, hheader, hcdw5, hspec, hkey, hregion, sourceStatus_host _ _ _ hpos, h.dataFits, hlen, destStatus, eRegion2]
      omega
    have hbytes : engineBytes c.entry = (eLength c.entry - 16 - fld 44 4 c.entry, fld 44 4 c.entry) := by simp [engineBytes, hop]
    have hqueued := startTransform_queues (data := data) h (by simp [hop]) hbytes
    exact ⟨_, hexec, hqueued.jobs, hqueued.running, hqueued.nonce, hqueued.out, hqueued.ti, hqueued.pu, hqueued.reg, hqueued.ev⟩
  case cycle =>
    have hexec := exec_transformCycle_granted hcycle hactive hgrant hgqp (by simp [hjobs])
    rw [serveGqp_last (s := nextCycle s) hjobs hq hrun hop htodo hpos haad] at hexec
    have hdone := finishJob_completes (s := setJobs st [] (nextCycle s)) (j := workedOff j) hq hrun htransport hdeleting hop hbad hbad2
    have hgone : jobsOf st (setJobs st [] (nextCycle s)) = [] := by simp [jobsOf, setJobs, mgetD, mget_mdel_self]
    refine ⟨_, hexec, hdone.sent, ?_, by rw [hdone.slot]; rfl, by rw [hdone.slot]; rfl, hdone.ti, hdone.pu, hdone.reg⟩
    rw [jobsOf, hdone.te]
    exact hgone
  case idle =>
    change execTransformCycle s = _
    simp [execTransformCycle, hactive]
  case backlog =>
    have hexec : exec (.backlogLimit stream) s = .next (raise 0x0102 .warning (le 1 stream ++ zeros 3 ++ le 4 1024)
        { s with tb := { s.tb with slotOvr := true }, slot := { s.slot with backlogReported := stream :: s.slot.backlogReported } }) := by
      exact if_pos ⟨hbacklog, by rw [hnew]; rfl⟩
    exact ⟨_, hexec, newestEvent_raise _ _ _ (by exact hroom), rfl, rfl, rfl, rfl, rfl, rfl⟩

end Sys2Proof.Machine
end

section
/-! PROOFS. Operations that only the event unit and the configuration flash tell (15_config_flash_events R543 to R566, 17_startup_service_life R611,
R612): they leave every other part of the state as it was, and lose no event of the recorder's queue. -/

namespace Sys2Proof.Machine

/-! ### What only the event unit and the configuration flash tell -/

/-- Only the event unit and the configuration flash differ: no event has left the recorder's queue, and the options loaded stand. -/
structure OnlyLogs (s t : State) : Prop where
  rest : { t with ev := s.ev, nor := s.nor } = s
  queue : s.ev.queue <+: t.ev.queue
  loaded : t.nor.loaded = s.nor.loaded

section
variable {s t u : State}

theorem OnlyLogs.refl (s : State) : OnlyLogs s s := ⟨rfl, List.prefix_rfl, rfl⟩

theorem OnlyLogs.trans (h : OnlyLogs s t) (g : OnlyLogs t u) : OnlyLogs s u :=
  ⟨(congrArg (fun x : State => { x with ev := s.ev, nor := s.nor }) g.rest).trans h.rest, h.queue.trans g.queue, g.loaded.trans h.loaded⟩

theorem OnlyLogs.ident (h : OnlyLogs s t) : t.ident = s.ident := (congrArg State.ident h.rest :)
theorem OnlyLogs.tb (h : OnlyLogs s t) : t.tb = s.tb := (congrArg State.tb h.rest :)
theorem OnlyLogs.pu (h : OnlyLogs s t) : t.pu = s.pu := (congrArg State.pu h.rest :)
theorem OnlyLogs.ti (h : OnlyLogs s t) : t.ti = s.ti := (congrArg State.ti h.rest :)
theorem OnlyLogs.reg (h : OnlyLogs s t) : t.reg = s.reg := (congrArg State.reg h.rest :)
theorem OnlyLogs.te (h : OnlyLogs s t) : t.te = s.te := (congrArg State.te h.rest :)
theorem OnlyLogs.ecc (h : OnlyLogs s t) : t.ecc = s.ecc := (congrArg State.ecc h.rest :)
theorem OnlyLogs.start (h : OnlyLogs s t) : t.start = s.start := (congrArg State.start h.rest :)
theorem OnlyLogs.out (h : OnlyLogs s t) : t.out = s.out := (congrArg State.out h.rest :)

theorem recorded_of_queue {code : Nat} (h : recorded code s) (hq : s.ev.queue <+: t.ev.queue) : recorded code t := by
  obtain ⟨e, he, hcode⟩ := h
  exact ⟨e, hq.subset he, hcode⟩

theorem OnlyLogs.recorded {code : Nat} (h : OnlyLogs s t) (hs : recorded code s) : recorded code t := recorded_of_queue hs h.queue

end

theorem foldl_onlyLogs {α : Type} {f : State → α → State} (hf : ∀ s x, OnlyLogs s (f s x)) (l : List α) (s : State) :
    OnlyLogs s (l.foldl f s) := by
  induction l generalizing s with
  | nil => exact .refl s
  | cons x l ih => exact (hf s x).trans (ih _)

theorem modNor_onlyLogs {f : Nor → Nor} {s : State} (hf : (f s.nor).loaded = s.nor.loaded) : OnlyLogs s (modNor f s) :=
  ⟨rfl, List.prefix_rfl, hf⟩

theorem ev_onlyLogs {e : EventUnit} {s : State} (hq : s.ev.queue <+: e.queue) : OnlyLogs s { s with ev := e } := ⟨rfl, hq, rfl⟩

theorem queueEvent_queue (e : Event) (u : EventUnit) : u.queue <+: (queueEvent e u).queue := by
  unfold queueEvent
  split
  · exact List.prefix_append ..
  · exact List.prefix_rfl

theorem raise_onlyLogs (code : Nat) (sev : Severity) (data : Bytes) (s : State) : OnlyLogs s (raise code sev data s) :=
  ev_onlyLogs (queueEvent_queue ..)

theorem badWrite_onlyLogs (s : State) : OnlyLogs s (badWrite s) := ev_onlyLogs List.prefix_rfl

theorem recorded_raise (code : Nat) (sev : Severity) (data : Bytes) {s : State} (hroom : eventRoom s = true) :
    recorded code (raise code sev data s) := by
  have hqueue : s.ev.queue.length < 1024 := by simpa [eventRoom] using hroom
  simp [recorded, setEvt, queueEvent, hqueue, mkEvent]

/-! ### Operations of the configuration flash (15_config_flash_events R543 to R546) -/

theorem eraseIntent_onlyLogs (block : Nat) (sector : Option Nat) (s : State) : OnlyLogs s (eraseIntent block sector s) := by
  unfold eraseIntent
  extract_lets c t
  have ht : OnlyLogs s t := ⟨rfl, List.prefix_rfl, rfl⟩
  split
  · exact (ht.trans (modNor_onlyLogs rfl)).trans (raise_onlyLogs ..)
  · exact ht

theorem beginOp_onlyLogs (o : NorOp) (s : State) : OnlyLogs s (beginOp o s) := by
  unfold beginOp
  refine OnlyLogs.trans ?_ (modNor_onlyLogs rfl)
  cases o with
  | optionWrite c after => exact (eraseIntent_onlyLogs ..).trans (modNor_onlyLogs rfl)
  | fwProgram slot off => exact .refl s
  | erase block sector =>
    dsimp only
    split
    · exact (eraseIntent_onlyLogs ..).trans (ev_onlyLogs List.prefix_rfl)
    · exact eraseIntent_onlyLogs ..

theorem issueOp_onlyLogs (s : State) : OnlyLogs s (issueOp s) := by
  unfold issueOp
  split
  · exact .refl s
  · split
    · exact .refl s
    · exact (modNor_onlyLogs rfl).trans (beginOp_onlyLogs ..)

theorem norSubmit_onlyLogs (o : NorOp) (s : State) : OnlyLogs s (norSubmit o s) :=
  (modNor_onlyLogs rfl).trans (issueOp_onlyLogs _)

/-! ### The wear-and-spares log (17_startup_service_life R611, R612) -/

theorem writeWear_onlyLogs (type : Nat) (data : Bytes) (s : State) : OnlyLogs s (writeWear type data s) := by
  unfold writeWear
  dsimp only
  split
  · refine OnlyLogs.trans ?_ (norSubmit_onlyLogs ..)
    exact ev_onlyLogs List.prefix_rfl
  · exact ev_onlyLogs List.prefix_rfl

theorem wearLog_onlyLogs (type : Nat) (data : Bytes) (s : State) : OnlyLogs s (wearLog type data s) := by
  unfold wearLog
  split
  · exact modNor_onlyLogs rfl
  · exact writeWear_onlyLogs ..

theorem noteSpare_onlyLogs (kind : Nat) (s : State) : OnlyLogs s (noteSpare kind s) := by
  unfold noteSpare
  dsimp only
  split
  · exact .refl s
  · refine OnlyLogs.trans (OnlyLogs.trans ?_ (wearLog_onlyLogs ..)) (raise_onlyLogs ..)
    exact ev_onlyLogs List.prefix_rfl

end Sys2Proof.Machine
end

section
/-! PROOFS. The chest writer and the journal anchors (03_persistence R76, R80 to R85). -/

namespace Sys2Proof.Machine

/-! ### The chest writer (03_persistence R76, R80, R83, R85) -/

/-- A queued record as it stands in the chest (R80): its lines from the drawer, its place, its valid mark. -/
def writtenRec (p : Persist) (r : JRec) : JRec :=
  { r with lines := recContent p r, pos := if padBefore p p.writePos (recLines p r) = 0 then p.writePos else 0, complete := true }

section
variable {p : Persist} {r : JRec} {rest : List JRec}

theorem writeRec_queue (h : p.queue = r :: rest) : (writeRec p).queue = rest := by simp [writeRec, h]

theorem writeRec_freeNext (h : p.queue = r :: rest) : (writeRec p).freeNext = p.freeNext ++ r.slots := by simp [writeRec, h]

theorem writeRec_chest (h : p.queue = r :: rest) : (writeRec p).chest = p.chest ++ [writtenRec p r] := by
  simp [writeRec, h, writtenRec]

theorem writeRec_slots (p : Persist) : (writeRec p).slots = p.slots := by
  unfold writeRec
  split <;> rfl

end

/-- The state with the record at the head of the queue written, and its lines counted by a drain that runs (R95). -/
def headWritten (r : JRec) (s : State) : State :=
  modPu (fun p => { writeRec p with drain := p.drain.map fun d => { d with lines := d.lines + writerCost s.pu r } }) s

theorem exec_journalRecordComplete_plain {q : Nat} {r : JRec} {rest : List JRec} {s : State} (hq : s.pu.queue = r :: rest)
    (hwarm : s.start.warm = false) (hready : writerReady q s.pu = true) (hmeta : r.metaId = none) :
    exec (.journalRecordComplete q) s = .next (headWritten r s) := by
  change execJournalRecordComplete q s = _
  simp [execJournalRecordComplete, hq, hwarm, hready, hmeta, headWritten]

/-! ### The anchors (R82) -/

/-- Whether the newest anchor is anchor A, so that anchor B is the older one. -/
def newestIsA (p : Persist) : Bool :=
  match p.anchorA, p.anchorB with
  | some x, some y => decide (y.generation < x.generation)
  | some _, none => true
  | none, _ => false

/-- The older anchor takes a new value. -/
def putAnchor (a : Anchor) (p : Persist) : Persist :=
  { p with anchorA := if newestIsA p then p.anchorA else some a, anchorB := if newestIsA p then some a else p.anchorB }

/-- An anchor of the next generation in the place of the older one is the one that start-up would use. -/
theorem bestAnchor_putAnchor {a b : Anchor} {p : Persist} (hbest : bestAnchor p = some a) (hgen : b.generation = a.generation + 1) :
    bestAnchor (putAnchor b p) = some b := by
  unfold bestAnchor at hbest
  unfold bestAnchor putAnchor newestIsA
  cases hA : p.anchorA <;> cases hB : p.anchorB <;> simp only [hA, hB] at hbest ⊢
  case none.none => cases hbest
  case none.some y => cases hbest; simp [hgen]
  case some.none x => cases hbest; simp [hgen]
  case some.some x y =>
    by_cases hlt : y.generation < x.generation
    · rw [if_neg (by omega)] at hbest
      cases hbest
      simp [hlt, hgen]
    · have hnew : ¬ b.generation < y.generation := by split at hbest <;> cases hbest <;> omega
      simp [hlt, hnew]

/-- The state with a due anchor update done: the older anchor has the reclaim position, and the records before it are gone. -/
def anchored (a : Anchor) (s : State) : State :=
  modPu (fun p => { putAnchor ⟨p.reclaimLine, p.reclaimSeq, a.generation + 1⟩ p with
    lastAnchorBeat := s.tb.beat, chest := p.chest.filter fun r => decide (p.reclaimSeq ≤ r.seq) }) s

theorem exec_anchorUpdate_due {a : Anchor} {s : State} (hbest : bestAnchor s.pu = some a) (hmoved : a.seq ≠ s.pu.reclaimSeq)
    (hdue : s.pu.lastAnchorBeat + 1024 ≤ s.tb.beat) (hdrain : s.pu.drain = none) : exec .anchorUpdate s = .next (anchored a s) := by
  change execAnchorUpdate s = _
  simp only [execAnchorUpdate, hbest]
  exact if_pos (by simp [hmoved, hdue, hdrain])

theorem exec_anchorUpdate_unmoved {a : Anchor} {s : State} (hbest : bestAnchor s.pu = some a) (hsame : a.seq = s.pu.reclaimSeq) :
    exec .anchorUpdate s = .next s := by
  change execAnchorUpdate s = _
  simp [execAnchorUpdate, hbest, hsame]

/-- Settles O11: the record at the head of the queue is written whole (`writeRec_chest`), and an anchor of the next generation in the
place of the older one is the best one (`bestAnchor_putAnchor`). -/
theorem chestTakesRecordsInOrder : Obligations.ChestTakesRecordsInOrder := by
  unfold Obligations.ChestTakesRecordsInOrder
  refine ⟨fun q r rest s hq hwarm hready hmeta => ?record, fun a s hbest hmoved hdue hdrain => ?due, fun a s hbest hsame => ?unmoved⟩
  case record =>
    refine ⟨_, exec_journalRecordComplete_plain hq hwarm hready hmeta, writeRec_queue hq, writeRec_freeNext hq, ?_, writeRec_slots _,
      rfl, rfl, rfl⟩
    change ((writeRec s.pu).chest.getLast?.map _) = _
    rw [writeRec_chest hq, List.getLast?_concat]
    rfl
  case due =>
    exact ⟨_, exec_anchorUpdate_due hbest hmoved hdue hdrain, bestAnchor_putAnchor hbest rfl, rfl, rfl, rfl⟩
  case unmoved => exact ⟨s, exec_anchorUpdate_unmoved hbest hsame, rfl⟩

end Sys2Proof.Machine
end

section
/-! PROOFS. Backpressure, chest rows and drawer banks (03_persistence R93, R104 to R107). -/

namespace Sys2Proof.Machine

/-! ### Chest rows (03_persistence R104 to R106) -/

theorem mem_setInsert_self (k : Nat) (l : List Nat) : k ∈ setInsert k l := by
  induction l with
  | nil => exact List.mem_cons_self ..
  | cons j l ih =>
    unfold setInsert
    split
    · exact List.mem_cons_self ..
    · split
      · next h => exact h ▸ List.mem_cons_self ..
      · exact List.mem_cons_of_mem _ ih

/-- What the limits of a retired row leave (R106): the tiers, the rows retired, and the events in the recorder's queue. -/
structure KeepsRows (s t : State) : Prop where
  ti : t.ti = s.ti
  rowsRetired : t.pu.rowsRetired = s.pu.rowsRetired
  queue : s.ev.queue <+: t.ev.queue

section
variable {s t u : State}

theorem KeepsRows.refl (s : State) : KeepsRows s s := ⟨rfl, rfl, List.prefix_rfl⟩

theorem KeepsRows.trans (h : KeepsRows s t) (g : KeepsRows t u) : KeepsRows s u :=
  ⟨g.ti.trans h.ti, g.rowsRetired.trans h.rowsRetired, h.queue.trans g.queue⟩

theorem OnlyLogs.keepsRows (h : OnlyLogs s t) : KeepsRows s t := ⟨h.ti, congrArg Persist.rowsRetired h.pu, h.queue⟩

end

theorem modPu_keepsRows {f : Persist → Persist} {s : State} (hf : (f s.pu).rowsRetired = s.pu.rowsRetired) : KeepsRows s (modPu f s) :=
  ⟨rfl, hf, List.prefix_rfl⟩

/-- Only the region state differs. -/
def OnlyReg (s t : State) : Prop := { t with reg := s.reg } = s

theorem OnlyReg.trans {s t u : State} (h : OnlyReg s t) (g : OnlyReg t u) : OnlyReg s u :=
  Eq.trans (congrArg (fun x : State => { x with reg := s.reg }) (g : { u with reg := t.reg } = t)) h

theorem OnlyReg.keepsRows {s t : State} (h : OnlyReg s t) : KeepsRows s t where
  ti := (congrArg State.ti h :)
  rowsRetired := (congrArg (·.pu.rowsRetired) h :)
  queue := (congrArg (·.ev.queue) h : t.ev.queue = s.ev.queue) ▸ List.prefix_rfl

/-- CHEST is set on regions only (05_regions R186). -/
theorem setChest_onlyReg (s : State) : OnlyReg s (setChest s) := by
  unfold setChest
  generalize s.reg.table = l
  induction l generalizing s with
  | nil => rfl
  | cons e l ih =>
    refine OnlyReg.trans ?_ (ih _)
    dsimp only
    split <;> rfl

/-- The state with a row retired and reported (R105). -/
def rowRetired (row : Nat) (s : State) : State :=
  let t := modPu (fun p => { p with rowsRetired := setInsert row p.rowsRetired }) s
  raise 0x0204 .warning (le 4 row ++ zeros 4 ++ le 8 (chestBytes t.pu)) t

/-- The ingest limit of a usable size below 1.5 GiB, reported as the size falls below it (R106). -/
def limitIngest (before size : Nat) (s : State) : State :=
  if size < 1610612736 then
    let t := modPu (fun p => { p with ingestLimit := some (ingestLimitOf size) }) s
    if before < 1610612736 then t else raise 0x0205 .warning (le 8 size ++ le 4 (ingestLimitOf size)) t
  else s

/-- Writes are refused at a usable size below 512 MiB (R106). -/
def refuseBelow (size : Nat) (s : State) : State :=
  if size < 536870912 && !s.pu.writesRefused then
    setChest (raise 0x0206 .error (le 1 0 ++ zeros 7 ++ le 8 size) (modPu (fun p => { p with writesRefused := true }) s))
  else s

theorem retireRow_eq (row : Nat) (s : State) :
    retireRow row s =
      refuseBelow (chestBytes (rowRetired row s).pu) (limitIngest (chestBytes s.pu) (chestBytes (rowRetired row s).pu) (rowRetired row s)) :=
  rfl

theorem limitIngest_keepsRows (before size : Nat) (s : State) : KeepsRows s (limitIngest before size s) := by
  unfold limitIngest
  dsimp only
  split
  · split
    · exact modPu_keepsRows rfl
    · exact (modPu_keepsRows rfl).trans (raise_onlyLogs ..).keepsRows
  · exact .refl s

theorem refuseBelow_keepsRows (size : Nat) (s : State) : KeepsRows s (refuseBelow size s) := by
  unfold refuseBelow
  split
  · exact ((modPu_keepsRows rfl).trans (raise_onlyLogs ..).keepsRows).trans (setChest_onlyReg _).keepsRows
  · exact .refl s

theorem retireRow_keepsRows (row : Nat) (s : State) : KeepsRows (rowRetired row s) (retireRow row s) := by
  rw [retireRow_eq]
  exact (limitIngest_keepsRows ..).trans (refuseBelow_keepsRows ..)

/-! ### The commands -/

theorem exec_admissionWaitLimit_due {s : State} (hwait : 1024 ≤ s.pu.waitBeats) (hnew : s.pu.waitReported = false) :
    exec .admissionWaitLimit s =
      .next (raise 0x0201 .warning (backpressureData s) (modPu (fun p => { p with waitReported := true }) s)) :=
  if_pos (by simp [hwait, hnew])

/-- The state with a row remapped to a spare row, and the event of it (R104). -/
def rowRemapped (row : Nat) (s : State) : State :=
  raise 0x0203 .info (le 4 row ++ le 4 (s.pu.spareRows - 1))
    (modPu (fun p => { p with spareRows := p.spareRows - 1, rowRemaps := setInsert row p.rowRemaps }) s)

theorem exec_chestVerifyFailure_spare (row : Nat) {s : State} (hspare : 0 < s.pu.spareRows) :
    ∃ t, exec (.chestVerifyFailure row) s = .next t ∧ OnlyLogs (rowRemapped row s) t :=
  ⟨_, if_pos hspare, (wearLog_onlyLogs ..).trans (noteSpare_onlyLogs ..)⟩

theorem exec_chestVerifyFailure_retire {row : Nat} {s : State} (hspare : s.pu.spareRows = 0) (hrow : row ∉ s.pu.rowsRetired) :
    ∃ t, exec (.chestVerifyFailure row) s = .next t ∧ KeepsRows (rowRetired row s) t := by
  have hexec : execChestVerifyFailure row s = .next (noteSpare 1
      (wearLog 0x0004 (le 4 row ++ le 4 1 ++ le 4 (chestBytes (retireRow row s).pu / 2 ^ 20)) (retireRow row s))) := by
    simp [execChestVerifyFailure, hspare, hrow]
  exact ⟨_, hexec, (retireRow_keepsRows row s).trans ((wearLog_onlyLogs ..).trans (noteSpare_onlyLogs ..)).keepsRows⟩

theorem exec_drawerBankError_first {bank slot : Nat} {s : State} (hbank : bank < 16) (hbanks : s.pu.banks = []) :
    exec (.drawerBankError bank slot) s = .next (modPu (fun p => { p with banks := [(bank, .failing)] }) (modPu (poisonSlot slot) s)) := by
  change execDrawerBankError bank slot s = _
  have hin : ¬ 16 ≤ bank := by omega
  simp [execDrawerBankError, hin, poisonSlot, hbanks, mhas, mget, mput, modPu]

/-- The state in which a second bank has failed (R107): the line poisoned, no more writes, and the event of it. -/
def secondBankLost (bank slot : Nat) (s : State) : State :=
  raise 0x0206 .error (le 1 1 ++ le 1 bank ++ zeros 6 ++ le 8 (chestBytes s.pu))
    (modPu (fun p => { p with writesRefused := true, bankLost := true }) (modPu (poisonSlot slot) s))

theorem exec_drawerBankError_second {bank slot : Nat} {s : State} (hbank : bank < 16) (hnew : mhas bank s.pu.banks = false)
    (hbanks : s.pu.banks ≠ []) (hlost : s.pu.bankLost = false) :
    ∃ t u, exec (.drawerBankError bank slot) s = .next u ∧ OnlyReg (secondBankLost bank slot s) t ∧ OnlyLogs t u := by
  have hin : ¬ 16 ≤ bank := by omega
  have hexec : execDrawerBankError bank slot s = .next (noteSpare 3 (setChest (secondBankLost bank slot s))) := by
    simp [execDrawerBankError, hin, poisonSlot, hnew, hbanks, hlost, secondBankLost, chestBytes]
  exact ⟨_, _, hexec, setChest_onlyReg _, noteSpare_onlyLogs ..⟩

/-- The state with a failing bank disabled, and the event of it (R107). -/
def bankDisabled (bank : Nat) (s : State) : State :=
  let t := modPu (fun p => { p with banks := mput bank .disabled p.banks }) s
  raise 0x0202 .error (le 1 bank ++ le 1 (16 - t.pu.banks.length)) t

theorem exec_drawerBankDisable_empty {bank : Nat} {s : State} (hfail : mget bank s.pu.banks = some .failing)
    (hempty : s.pu.slots.all (fun e => e.1 / 8192 != bank) = true) :
    ∃ t, exec (.drawerBankDisable bank) s = .next t ∧ OnlyLogs (bankDisabled bank s) t := by
  have hheld : (s.pu.slots.any fun e => e.1 / bankLines == bank) = false := by
    rw [List.any_eq_not_all_not]
    simpa [bankLines] using hempty
  exact ⟨_, if_pos ⟨hfail, by rw [hheld]; rfl⟩, (wearLog_onlyLogs ..).trans (noteSpare_onlyLogs ..)⟩

/-- Settles O12: each fault changes the persistence unit and is reported, and what follows only adds to the logs (`OnlyLogs`), to the limits
of R106 (`KeepsRows`) and to the regions (`OnlyReg`). -/
theorem persistenceFaultsAreContained : Obligations.PersistenceFaultsAreContained := by
  unfold Obligations.PersistenceFaultsAreContained
  refine ⟨fun s hwait hnew hroom => ?wait, fun row s hspare hroom => ?spare, fun row s hspare hrow hroom => ?retire,
    fun bank slot s hbank hbanks => ?first, fun bank slot s hbank hnew hbanks hlost hroom => ?second,
    fun bank s hfail hempty hroom => ?disable⟩
  case wait => exact ⟨_, exec_admissionWaitLimit_due hwait hnew, rfl, newestEvent_raise _ _ _ hroom, rfl⟩
  case spare =>
    obtain ⟨t, hexec, hlogs⟩ := exec_chestVerifyFailure_spare row hspare
    have hrecorded := hlogs.recorded (recorded_raise _ _ _ hroom)
    refine ⟨t, hexec, ?_, ?_, ?_, hrecorded, hlogs.ti, hlogs.reg⟩
    all_goals rw [hlogs.pu]
    · rfl
    · exact mem_setInsert_self ..
    · rfl
  case retire =>
    obtain ⟨t, hexec, hrows⟩ := exec_chestVerifyFailure_retire hspare hrow
    refine ⟨t, hexec, ?_, recorded_of_queue (recorded_raise _ _ _ hroom) hrows.queue, hrows.ti⟩
    rw [hrows.rowsRetired]
    exact mem_setInsert_self ..
  case first => exact ⟨_, exec_drawerBankError_first hbank hbanks, rfl⟩
  case second =>
    obtain ⟨t, u, hexec, hreg, hlogs⟩ := exec_drawerBankError_second (slot := slot) hbank hnew hbanks hlost
    have hpu : u.pu = (secondBankLost bank slot s).pu := hlogs.pu.trans (congrArg State.pu hreg :)
    have hrows := hreg.keepsRows.trans hlogs.keepsRows
    refine ⟨u, hexec, ?_, ?_, recorded_of_queue (recorded_raise _ _ _ hroom) hrows.queue, hrows.ti⟩
    all_goals rw [hpu]; rfl
  case disable =>
    obtain ⟨t, hexec, hlogs⟩ := exec_drawerBankDisable_empty hfail hempty
    refine ⟨t, hexec, ?_, hlogs.recorded (recorded_raise _ _ _ hroom), ?_, hlogs.ti⟩
    all_goals rw [hlogs.pu]
    · exact mget_mput_self ..
    · rfl

end Sys2Proof.Machine
end

section
/-! PROOFS. The Persist Fence (03_persistence R87, R88). -/

namespace Sys2Proof.Machine

/-! ### Persist Fence (03_persistence R87, R88, 09_command_queues R369) -/

/-- A started command that is run is found as running. -/
theorem runningCmd_runCmd {qid cid : Nat} {l : List Piece} {q : QueuePair} {c : GqpCmd} {s : State} (hq : queueOf qid s = some q)
    (hc : findCmd false cid q = some c) : (runningCmd qid cid (runCmd qid cid l s)).isSome = true := by
  obtain ⟨hcid, hstarted⟩ : c.cid = cid ∧ c.started = true := by
    have h := List.find?_some hc
    simp only [Bool.and_eq_true, beq_iff_eq] at h
    exact h.1
  have hmem : c ∈ q.cmds := List.mem_of_find?_eq_some hc
  rw [runningCmd, runCmd, modCmd, queueOf_modQ_self, hq]
  simp only [Option.map_some, Option.bind_some, findCmd, List.find?_isSome, List.mem_map]
  exact ⟨_, ⟨c, hmem, rfl⟩, by simp [hcid, hstarted]⟩

/-- A fence of scope 0 over the acknowledgements before its command's fetch. -/
def fenceOf (qid cid : Nat) (c : GqpCmd) (s : State) : Fence := ⟨qid, cid, 0, 0, c.ackMark, s.tb.beat⟩

theorem exec_persistFence_scope0 {qid cid : Nat} {q : QueuePair} {c : GqpCmd} {s : State} (hq : queueOf qid s = some q)
    (hc : findCmd false cid q = some c) (hop : eOpcode c.entry = 0x06) (hheader : headerOk q c = true) (hkind : ePtrKind c.entry = 0)
    (hscope : eCdw5 c.entry = 0) (hspec : cspecZero [] c.entry = true) (hregion : eRegion c.entry = 0) (hoff : eOffset c.entry = 0)
    (hlen : eLength c.entry = 0) :
    exec (.persistFence qid cid) s =
      .next (modPu (fun p => { p with fences := p.fences ++ [fenceOf qid cid c s] }) (runCmd qid cid [] s)) := by
  change execPersistFence qid cid s = _
  simp [execPersistFence, withCmd, hq, hc, hop, hheader, hkind, hscope, hspec, hregion, hoff, hlen, fenceOf]

/-- The state without the fence of a command. -/
def fenceGone (qid cid : Nat) (s : State) : State :=
  modPu (fun p => { p with fences := p.fences.filter fun x => !(x.qid == qid && x.cid == cid) }) s

theorem find_fenceGone (qid cid : Nat) (s : State) :
    ((fenceGone qid cid s).pu.fences.find? fun f => f.qid == qid && f.cid == cid) = none := by
  rw [List.find?_eq_none]
  intro f hf
  have h := (List.mem_filter.mp hf).2
  simpa only [Bool.not_eq_true', Bool.not_eq_true] using h

theorem exec_persistFenceComplete_waits {qid cid : Nat} {f : Fence} {s : State}
    (hf : (s.pu.fences.find? fun f => f.qid == qid && f.cid == cid) = some f) (hwaits : fenceWaits f s = true) :
    exec (.persistFenceComplete qid cid) s = .next s := by
  change execPersistFenceComplete qid cid s = _
  simp [execPersistFenceComplete, hf, hwaits]

theorem exec_persistFenceComplete_done {qid cid n : Nat} {f : Fence} {s : State}
    (hf : (s.pu.fences.find? fun f => f.qid == qid && f.cid == cid) = some f) (hdone : fenceWaits f s = false)
    (hlast : ((s.pu.chest.filter (fenceRecord f)).map (·.seq)).getLast? = some n) :
    exec (.persistFenceComplete qid cid) s = .next (complete qid cid 0 (le 8 n) (fenceGone qid cid s)) := by
  change execPersistFenceComplete qid cid s = _
  simp only [execPersistFenceComplete, hf, hdone, hlast]
  rfl

/-- Settles O22: the command runs with its fence noted, and completes by `complete_completes` once the fence no longer waits. -/
theorem persistFencesWaitAndComplete : Obligations.PersistFencesWaitAndComplete := by
  unfold Obligations.PersistFencesWaitAndComplete
  refine ⟨fun qid cid q c s hq hc hop ⟨hheader, hkind, hscope, hspec⟩ ⟨hregion, hoff, hlen⟩ => ?noted,
    fun qid cid f s hf hwaits => exec_persistFenceComplete_waits hf hwaits, fun qid cid f q n s hf hdone hq ⟨ht, hd⟩ hlast => ?done⟩
  case noted =>
    exact ⟨_, exec_persistFence_scope0 hq hc hop hheader hkind hscope hspec hregion hoff hlen, rfl, runningCmd_runCmd hq hc, rfl, rfl, rfl,
      rfl⟩
  case done =>
    have hcompletes := complete_completes (s := fenceGone qid cid s) cid 0 (le 8 n) hq ht hd
    refine ⟨_, exec_persistFenceComplete_done hf hdone hlast, hcompletes.sent, ?_, ?_, hcompletes.ti, hcompletes.reg⟩
    all_goals rw [hcompletes.pu]
    · exact find_fenceGone ..
    · rfl

end Sys2Proof.Machine
end

section
/-! PROOFS. The drain and its triggers, wakes from Device Standby, and loss of the supervisor (03_persistence R94, R95, 16_power R574 to R592,
17_startup_service_life R599, R600, 18_package_electrical R627, R628). -/

namespace Sys2Proof.Machine

/-! ### What the start of a drain leaves (03_persistence R95) -/

/-- What the start of a drain leaves as it was: the chest, the tiers, the regions, the timebase, the sequencer, and what left the block. -/
structure Lasting where
  chest : List JRec
  ti : Tiers
  reg : Regions
  tb : Timebase
  seq : Seq
  out : List Output

/-- The lasting part of a state. -/
def lasting (s : State) : Lasting := ⟨s.pu.chest, s.ti, s.reg, s.tb, s.seq, s.out⟩

theorem foldl_lasting {α : Type} {f : State → α → State} (hf : ∀ s x, lasting (f s x) = lasting s) (l : List α) (s : State) :
    lasting (l.foldl f s) = lasting s := by
  induction l generalizing s with
  | nil => rfl
  | cons x l ih => exact (ih _).trans (hf s x)

theorem modPu_lasting {f : Persist → Persist} {s : State} (hf : (f s.pu).chest = s.pu.chest) : lasting (modPu f s) = lasting s := by
  simp [lasting, hf]

theorem modPwr_lasting (f : Power → Power) (s : State) : lasting (modPwr f s) = lasting s := rfl

theorem modPair_lasting (f : Pair → Pair) (s : State) : lasting (modPair f s) = lasting s := rfl

theorem raiseSeq_lasting (code : Nat) (sev : Severity) (data : Bytes) (s : State) : lasting (raiseSeq code sev data s) = lasting s := by
  unfold raiseSeq raiseSup
  dsimp only
  split <;> rfl

theorem sendMsg_lasting (m : MplMsg) (s : State) : lasting (sendMsg m s) = lasting s := by
  unfold sendMsg
  split <;> rfl

theorem abandonUnit_lasting (u : WUnit) (s : State) : lasting (abandonUnit u s) = lasting s := by
  unfold abandonUnit
  dsimp only
  split
  · exact (sendMsg_lasting ..).trans (modPu_lasting rfl)
  · exact modPu_lasting rfl

theorem closeSet_lasting (s : State) : lasting (closeSet s) = lasting s := by
  unfold closeSet
  split
  · rfl
  · exact modPu_lasting rfl

theorem sealCopies_lasting (origin : Nat) (us : List WUnit) (s : State) : lasting (sealCopies origin us s) = lasting s := by
  unfold sealCopies
  split
  · rfl
  · dsimp only
    have hfold := foldl_lasting (f := fun s (u : WUnit) => modPu (fun p =>
        { p with
          slots := p.slots.map fun e => if e.2.unit = u.id then (e.1, { e.2 with state := .held, ack := p.nextAck }) else e
          copies := p.copies ++ (u.slots.zip u.lines).map fun x =>
            { region := u.region, line := x.2.line, ack := p.nextAck, place := .slot x.1 }
          units := p.units.filter fun v => v.id != u.id
          nextAck := p.nextAck + 1 }) s) (fun _ _ => modPu_lasting rfl)
    split
    · exact hfold ..
    · exact (modPu_lasting rfl).trans (hfold ..)

theorem sealUnknown_lasting (s : State) : lasting (sealUnknown s) = lasting s :=
  (modPair_lasting ..).trans (foldl_lasting (fun _ _ => sealCopies_lasting ..) _ s)

theorem sendCopies_lasting (sealed : List JRec) (s : State) : lasting (sendCopies sealed s) = lasting s := by
  refine foldl_lasting (fun s r => ?_) sealed s
  split
  · rfl
  · dsimp only
    split
    · split
      · exact modPu_lasting rfl
      · exact (sendMsg_lasting ..).trans (modPu_lasting rfl)
    · exact modPu_lasting rfl

theorem sealRec_chest (beat : Nat) (r : JRec) (p : Persist) : (sealRec beat r p).chest = p.chest := by
  unfold sealRec
  dsimp only
  split <;> rfl

theorem foldl_sealRec_chest (beat : Nat) (l : List JRec) (p : Persist) : (l.foldl (fun p r => sealRec beat r p) p).chest = p.chest := by
  induction l generalizing p with
  | nil => rfl
  | cons r l ih => exact (ih _).trans (sealRec_chest ..)

theorem sealGroup_lasting (s : State) : lasting (sealGroup s) = lasting s := by
  unfold sealGroup
  refine (foldl_lasting (fun _ _ => sendMsg_lasting ..) _ _).trans ((sendCopies_lasting ..).trans ?_)
  refine (modPu_lasting (f := fun _ => _) ?_).trans (closeSet_lasting s)
  exact foldl_sealRec_chest ..

theorem modSlot_lasting (n : Nat) (f : FwSlot → FwSlot) (s : State) : lasting (modSlot n f s) = lasting s := rfl

theorem resetSigner_lasting (s : State) : lasting (resetSigner s) = lasting s := rfl

theorem clearUnits_lasting (s : State) : lasting (clearUnits s) = lasting s := by
  unfold clearUnits
  extract_lets bad _ _ _ t
  have ht : lasting t = lasting s := (resetSigner_lasting _).trans (by simp only [lasting])
  clear_value bad t
  cases bad with
  | none => exact ht
  | some n => exact (modSlot_lasting ..).trans ht

theorem startDrain_lasting (trigger : Nat) (s : State) : lasting (startDrain trigger s) = lasting s := by
  unfold startDrain
  split
  · rfl
  · dsimp only
    rw [clearUnits_lasting, modPwr_lasting, modPu_lasting (by dsimp only), sealGroup_lasting, sealUnknown_lasting, closeSet_lasting,
      foldl_lasting (fun _ _ => abandonUnit_lasting ..), raiseSeq_lasting]

theorem resetSigner_pu (s : State) : (resetSigner s).pu = s.pu := rfl

theorem clearUnits_pu (s : State) : (clearUnits s).pu = s.pu := by
  unfold clearUnits
  extract_lets bad _ _ _ t
  have ht : t.pu = s.pu := resetSigner_pu _
  clear_value bad t
  cases bad with
  | none => exact ht
  | some n => exact (modMc_pu ..).trans ht

/-- A drain has started with its trigger, and it leaves what lasts as it was. -/
structure DrainStarts (trigger : Nat) (s t : State) : Prop where
  drain : t.pu.drain.map (fun d => (d.t0, d.trigger)) = some (s.tb.beat, trigger)
  lasting : lasting t = lasting s

section
variable {trigger : Nat} {s t : State}

theorem DrainStarts.chest (h : DrainStarts trigger s t) : t.pu.chest = s.pu.chest := congrArg Lasting.chest h.lasting
theorem DrainStarts.ti (h : DrainStarts trigger s t) : t.ti = s.ti := congrArg Lasting.ti h.lasting
theorem DrainStarts.reg (h : DrainStarts trigger s t) : t.reg = s.reg := congrArg Lasting.reg h.lasting
theorem DrainStarts.tb (h : DrainStarts trigger s t) : t.tb = s.tb := congrArg Lasting.tb h.lasting
theorem DrainStarts.seq (h : DrainStarts trigger s t) : t.seq = s.seq := congrArg Lasting.seq h.lasting
theorem DrainStarts.out (h : DrainStarts trigger s t) : t.out = s.out := congrArg Lasting.out h.lasting

end

theorem startDrain_starts (trigger : Nat) {s : State} (h : s.pu.drain = none) : DrainStarts trigger s (startDrain trigger s) where
  drain := by simp [startDrain, h, clearUnits_pu, foldl_tb]
  lasting := startDrain_lasting ..

/-- The state with the cause of a power-down, the reset kind after it, and whether a power-up follows. -/
def goingDown (cause : DownCause) (kind : Nat) (again : Bool) (s : State) : State :=
  modSeq (fun q => { q with downCause := cause, resetKind := kind, riseAgain := again }) s

theorem drainDown_starts (trigger : Nat) (cause : DownCause) (kind : Nat) (again : Bool) {s : State} (hup : s.seq.state = .up)
    (h : s.pu.drain = none) : DrainStarts trigger (goingDown cause kind again s) (drainDown trigger cause kind again s) := by
  have heq : drainDown trigger cause kind again s = startDrain trigger (goingDown cause kind again s) := if_neg (by simp [hup, h])
  rw [heq]
  exact startDrain_starts trigger h

theorem drainDown_of_not_up {trigger : Nat} {cause : DownCause} {kind : Nat} {again : Bool} {s : State} (h : s.seq.state ≠ .up) :
    drainDown trigger cause kind again s = s := if_pos (.inl h)

/-! ### The end of a drain (R95, 16_power R574) -/

theorem sealRec_kind (beat : Nat) (r : JRec) (p : Persist) : (sealRec beat r p).queue.getLast?.map (·.kind) = some r.kind := by
  unfold sealRec
  dsimp only
  split <;> simp

/-- Every record of the queue written to the chest. -/
def writeAll (p : Persist) : Persist := (List.range p.queue.length).foldl (fun p _ => writeRec p) p

theorem foldl_writeRec_kinds (l : List Nat) {p : Persist} (h : p.queue.length = l.length) :
    (l.foldl (fun p _ => writeRec p) p).chest.map (·.kind) = (p.chest ++ p.queue).map (·.kind) := by
  induction l generalizing p with
  | nil => simp [List.length_eq_zero_iff.mp h]
  | cons n l ih =>
    obtain ⟨r, rest, hq⟩ := List.exists_cons_of_length_eq_add_one h
    have hrest : (writeRec p).queue = rest := writeRec_queue hq
    have hlen : rest.length = l.length := by simpa [hq] using h
    rw [List.foldl_cons, ih (by rw [hrest, hlen]), hrest, writeRec_chest hq, hq]
    simp [writtenRec]

theorem writeAll_kinds (p : Persist) : (writeAll p).chest.map (·.kind) = (p.chest ++ p.queue).map (·.kind) :=
  foldl_writeRec_kinds _ (by simp)

/-- The record that is sealed last is the newest one once the queue is written. -/
theorem writeAll_sealRec_newest (beat : Nat) (r : JRec) (p : Persist) :
    (writeAll (sealRec beat r p)).chest.getLast?.map (·.kind) = some r.kind := by
  rw [← List.getLast?_map, writeAll_kinds, List.map_append, List.getLast?_append, List.getLast?_map, sealRec_kind]
  rfl

/-- The persistence unit with the DRAIN record written, and the drain done. -/
def drained (d : DrainRun) (s : State) : Persist :=
  { writeAll (sealRec s.tb.beat { kind := .drain d.t0 d.trigger (d.lines + 3) d.firstSeq } s.pu) with drain := some { d with done := true } }

/-- The DRAIN record is the newest one of the chest (R95). -/
theorem drained_newest (d : DrainRun) (s : State) :
    (drained d s).chest.getLast?.map (·.kind) = some (.drain d.t0 d.trigger (d.lines + 3) d.firstSeq) := by
  dsimp only [drained]
  exact writeAll_sealRec_newest ..

/-- Data of event 0x0208 (R108). -/
def drainData (d : DrainRun) (s : State) : Bytes := le 4 (d.lines + 3) ++ le 4 (s.tb.beat - d.t0) ++ le 8 ((drained d s).nextSeq - 1)

theorem raiseSeq_pu (code : Nat) (sev : Severity) (data : Bytes) (s : State) : (raiseSeq code sev data s).pu = s.pu := by
  unfold raiseSeq raiseSup
  dsimp only
  split <;> rfl

/-- With every record written the DRAIN record follows, event 0x0208, and the power-down. -/
theorem exec_drainComplete_written {d : DrainRun} {s : State} (hd : s.pu.drain = some d) (hq : s.pu.queue = [])
    (hup : s.seq.state = .up) :
    ∃ u, exec .drainComplete s = .next (startDown u) ∧ u.pu = drained d s ∧
      lasting u = ⟨(drained d s).chest, s.ti, s.reg, s.tb, s.seq, s.out⟩ := by
  refine ⟨raiseSeq 0x0208 .info (drainData d s) { s with pu := drained d s }, ?_, raiseSeq_pu .., raiseSeq_lasting ..⟩
  change execDrainComplete s = _
  simp only [execDrainComplete, hd, hq, hup]
  rfl

theorem dropRail_of_ne_one {n : Nat} (h : n ≠ 1) (s : State) :
    dropRail n s = emit (.rail n false) (modPwr (fun p => { p with padHeld := p.padHeld ||| padsOf n })
      (modSeq (fun q => { q with en := q.en &&& ~~~ BitVec.ofNat 12 (2 ^ n), step := n }) s)) := if_neg h

theorem startDown_top {s : State} (h : s.seq.en.getLsbD 11 = true) :
    startDown s = dropRail 11 (modSeq (fun q => { q with state := .falling, gap := false }) s) := by
  simp [startDown, downFrom, enabledBelow, h]

/-- A power-down has begun (R574): the enable of its first rail is low. -/
structure DownBegun (n : Nat) (s t : State) : Prop where
  state : t.seq.state = .falling
  step : t.seq.step = n
  out : t.out = Output.rail n false :: s.out
  pu : t.pu = s.pu
  ti : t.ti = s.ti
  reg : t.reg = s.reg
  tb : t.tb = s.tb

theorem startDown_begun {s : State} (h : s.seq.en.getLsbD 11 = true) : DownBegun 11 s (startDown s) := by
  rw [startDown_top h, dropRail_of_ne_one (by decide)]
  constructor <;> simp

/-! ### Loss of VCORE and of the supervisor (17_startup_service_life R600, 18_package_electrical R627, R628) -/

theorem clearUnits_gqp (s : State) : (clearUnits s).gqp = {} := by
  unfold clearUnits
  extract_lets bad _ _ _ t
  have ht : t.gqp = {} := rfl
  clear_value bad t
  cases bad with
  | none => exact ht
  | some n => exact (modMc_gqp ..).trans ht

/-- Only the stripes differ. -/
def OnlyStripes (s t : State) : Prop := { t with ti := { t.ti with stripes := s.ti.stripes } } = s

theorem closeInterrupted_onlyStripes (s : State) : OnlyStripes s (closeInterrupted s) := by
  unfold closeInterrupted
  generalize s.ti.inFlight = l
  generalize s.ti.stripeClock = n
  induction l generalizing s with
  | nil => rfl
  | cons w l ih => exact Eq.trans (congrArg (fun x : State => { x with ti := { x.ti with stripes := s.ti.stripes } }) (ih _)) rfl

/-- VCORE is gone (R600): the drawer, the shelf and the queue pairs are lost; the chest, the cabinet and the region table stay. -/
structure VcoreLost (s t : State) : Prop where
  drain : t.pu.drain = none
  slots : t.pu.slots = []
  shelf : t.ti.shelf = []
  gqp : t.gqp = {}
  chest : t.pu.chest = s.pu.chest
  cab : t.ti.cab = s.ti.cab
  table : t.reg.table = s.reg.table

/-- Two states agree on the persistence unit, the tiers, the regions and the queue engine. -/
structure SameStores (s t : State) : Prop where
  pu : t.pu = s.pu
  ti : t.ti = s.ti
  reg : t.reg = s.reg
  gqp : t.gqp = s.gqp

theorem VcoreLost.same {s t u : State} (h : VcoreLost s t) (g : SameStores t u) : VcoreLost s u where
  drain := g.pu ▸ h.drain
  slots := g.pu ▸ h.slots
  shelf := g.ti ▸ h.shelf
  gqp := g.gqp.trans h.gqp
  chest := g.pu ▸ h.chest
  cab := g.ti ▸ h.cab
  table := g.reg ▸ h.table

theorem loseVcore_lost (s : State) : VcoreLost s (loseVcore s) := by
  have hlast := clearUnits_lasting s
  have hstripes := closeInterrupted_onlyStripes (clearUnits s)
  exact {
    drain := rfl
    slots := rfl
    shelf := rfl
    gqp := (congrArg State.gqp hstripes :).trans (clearUnits_gqp s)
    chest := (congrArg (·.pu.chest) hstripes :).trans (congrArg Lasting.chest hlast)
    cab := (congrArg (·.ti.cab) hstripes :).trans (congrArg (·.ti.cab) hlast)
    table := (congrArg (·.reg.table) hstripes :).trans (congrArg (·.reg.table) hlast) }

theorem foldl_emit {α : Type} (f : α → Output) (l : List α) (s : State) :
    l.foldl (fun s x => emit (f x) s) s = { s with out := (l.map f).reverse ++ s.out } := by
  induction l generalizing s with
  | nil => rfl
  | cons x l ih => rw [List.foldl_cons, ih]; simp [emit]

theorem norLost_same (s : State) : SameStores s (norLost s) := ⟨rfl, rfl, rfl, rfl⟩

theorem abandonSlot_onlyLogs (s : State) : OnlyLogs s (abandonSlot s) := by
  unfold abandonSlot
  split
  · exact ev_onlyLogs List.prefix_rfl
  · exact .refl s

/-- The state behind the loss of VCORE, every rail that was on reported low (R627). -/
def railsCut (s : State) : State :=
  ((List.range 12).filter fun n => s.seq.en.getLsbD n).foldl (fun s n => emit (.rail n false) s) (norLost (loseVcore (abandonSlot s)))

theorem railsCut_lost (s : State) : VcoreLost s (railsCut s) := by
  have hlogs := abandonSlot_onlyLogs s
  obtain ⟨drain, slots, shelf, gqp, chest, cab, table⟩ := (loseVcore_lost (abandonSlot s)).same (norLost_same _)
  have hlost : VcoreLost s (norLost (loseVcore (abandonSlot s))) :=
    ⟨drain, slots, shelf, gqp, hlogs.pu ▸ chest, hlogs.ti ▸ cab, hlogs.reg ▸ table⟩
  rw [railsCut, foldl_emit]
  exact hlost.same ⟨rfl, rfl, rfl, rfl⟩

theorem supervisorReset_same (s : State) : SameStores (railsCut s) (supervisorReset s) := by
  unfold supervisorReset railsCut
  constructor <;> simp only [modPwr_pu, modPwr_ti, modPwr_reg, modPwr_gqp, modSeq_pu, modSeq_ti, modSeq_reg, modSeq_gqp, modNor_pu,
    modNor_ti, modNor_reg, modNor_gqp]

theorem supervisorReset_lost (s : State) : VcoreLost s (supervisorReset s) := (railsCut_lost s).same (supervisorReset_same s)

theorem supervisorReset_seq (s : State) : (supervisorReset s).seq.en = 0 ∧ (supervisorReset s).seq.pg = 0 := ⟨rfl, rfl⟩

/-! ### Wakes and the supervisor -/

theorem exec_powerDown_up {path : BcsPath} {input : Bytes} {s : State} (hopen : bcsOpen path 0xC082 s = true) (hlen : input.length = 1)
    (hf : fld 0 1 input < 2) (hup : s.seq.state = .up) (hnone : s.pu.drain = none) :
    exec (.powerDown path input) s = .next (drainDown 2 .commanded (if fld 0 1 input = 1 then 2 else 3) (fld 0 1 input == 1)
      (success path 0xC082 [] s)) := by
  have hexec := exec_bcs_checked (c := .powerDown path input) (s := s) (fields := fun _ => [(decide (fld 0 1 input < 2), 0)]) rfl hopen
    (by simp [hlen]) (by simp [hf])
  rw [hexec]
  simp [hup, hnone]

/-- The state with RESET# noted (R599): in RISING the cold reset waits. -/
def resetAsserted (s : State) : State :=
  modSeq (fun q => { q with resetLow := true, coldPending := q.coldPending || q.state == .rising }) s

/-- Settles O41: a trigger starts the drain by `drainDown_starts`, its end writes the DRAIN record (`writeAll_sealRec_newest`), and a reset of
the supervisor loses what VCORE holds (`supervisorReset_lost`). -/
theorem drainTriggersWakesAndTheSupervisor : Obligations.DrainTriggersWakesAndTheSupervisor := by
  unfold Obligations.DrainTriggersWakesAndTheSupervisor
  refine ⟨fun s ⟨hup, hnone⟩ => ?pfail, fun s ⟨hup, hnone⟩ => ?vin, fun s ⟨hup, hnone⟩ => ?refclk, fun s ⟨hup, hnone⟩ => ?reset,
    fun s hrising => ?resetRising, fun path input s hopen ⟨hlen, hf, hup, hnone⟩ => ?powerDown, fun d s ⟨hd, hq, hup, hen⟩ => ?complete,
    fun s hstandby => ?release, fun s ⟨hstandby, hlow⟩ => ?releaseWakes, fun edge lost s hstandby => ?wakeN,
    fun b lost s hstandby => ?address, fun s hstandby => ?nack, fun s => ⟨_, rfl, rfl, rfl, rfl, rfl, rfl⟩, fun s hvstby => ?vstby,
    fun s ⟨hvstby, hclk⟩ => ?clk⟩
  case pfail =>
    have h := drainDown_starts 0 .powerFail 1 false (s := modSeq (fun q => { q with inputOk := false }) s) hup hnone
    exact ⟨_, rfl, h.drain, congrArg Seq.downCause h.seq, congrArg Seq.inputOk h.seq, congrArg Seq.riseAgain h.seq,
      (congrArg Seq.state h.seq).trans hup, h.chest, h.ti, h.reg, h.tb⟩
  case vin =>
    have h := drainDown_starts 1 .powerFail 1 false (s := modSeq (fun q => { q with inputOk := false }) s) hup hnone
    exact ⟨_, rfl, h.drain, congrArg Seq.downCause h.seq, congrArg Seq.inputOk h.seq, (congrArg Seq.state h.seq).trans hup, h.chest, h.ti,
      h.reg, h.tb⟩
  case refclk =>
    have h := drainDown_starts 1 .powerFail 1 false hup hnone
    exact ⟨_, rfl, h.drain, congrArg Seq.downCause h.seq, (congrArg Seq.inputOk h.seq :), h.chest, h.ti, h.reg, h.tb⟩
  case reset =>
    have h := drainDown_starts 2 .commanded 2 true (s := resetAsserted s) hup hnone
    exact ⟨_, rfl, h.drain, congrArg Seq.downCause h.seq, congrArg Seq.resetKind h.seq, congrArg Seq.riseAgain h.seq,
      congrArg Seq.resetLow h.seq, h.chest, h.ti, h.reg⟩
  case resetRising =>
    have hnot : (resetAsserted s).seq.state ≠ .up := by rw [show (resetAsserted s).seq.state = .rising from hrising]; decide
    refine ⟨_, congrArg Host.Outcome.next (drainDown_of_not_up hnot), ?_, rfl, rfl, rfl, rfl⟩
    simp [hrising]
  case powerDown =>
    have h := drainDown_starts 2 .commanded (if fld 0 1 input = 1 then 2 else 3) (fld 0 1 input == 1) (s := success path 0xC082 [] s)
      (by simpa using hup) (by simpa using hnone)
    refine ⟨_, exec_powerDown_up hopen hlen hf hup hnone, ?_, ?_, congrArg Seq.downCause h.seq, congrArg Seq.riseAgain h.seq, ?_, ?_, ?_⟩
    · rw [answered, h.out]
      exact answered_success ..
    · rw [h.drain]
      simp [goingDown]
    · rw [h.chest]
      simp [goingDown]
    · rw [h.ti]
      simp [goingDown]
    · rw [h.reg]
      simp [goingDown]
  case complete =>
    obtain ⟨u, hexec, hpu, hlast⟩ := exec_drainComplete_written hd hq hup
    have hseq : u.seq = s.seq := congrArg Lasting.seq hlast
    have hdown := startDown_begun (s := u) (by rw [hseq]; exact hen)
    have hdrained := hdown.pu.trans hpu
    refine ⟨_, hexec, hdown.state, hdown.step, hdown.out.trans ?_, congrArg Persist.drain hdrained, ?_,
      hdown.ti.trans (congrArg Lasting.ti hlast), hdown.reg.trans (congrArg Lasting.reg hlast), hdown.tb.trans (congrArg Lasting.tb hlast)⟩
    · rw [show u.out = s.out from congrArg Lasting.out hlast]
    · rw [hdrained]
      exact drained_newest d s
  case release =>
    have hexec : exec .resetNDeassert s = .next (modSeq (fun q => { q with resetLow := false }) s) := by
      change execResetNDeassert s = _
      simp [execResetNDeassert, hstandby]
    exact ⟨_, hexec, rfl, rfl, rfl, rfl, rfl⟩
  case releaseWakes =>
    have hexec : exec .resetNDeassert s = .next (wake 3 (modSeq (fun q => { q with resetLow := false }) s)) := by
      change execResetNDeassert s = _
      simp [execResetNDeassert, hstandby, hlow]
    exact ⟨_, hexec, rfl, rfl, rfl, rfl, rfl⟩
  case wakeN =>
    have hexec : exec (.wakeNLow edge lost) s = .next (wake (if edge then 0 else 1) s) := by
      change execWakeNLow edge lost s = _
      simp [execWakeNLow, hstandby]
    refine ⟨_, hexec, ?_⟩
    cases edge <;> exact ⟨rfl, rfl, rfl, rfl, rfl⟩
  case address =>
    have hexec : exec (.smbusAddressMatch b lost) s = .next (wake 2 s) := by
      change execSmbusAddressMatch b lost s = _
      simp [execSmbusAddressMatch, hstandby]
    exact ⟨_, hexec, rfl, rfl, rfl, rfl, rfl, rfl⟩
  case nack =>
    have hexec : exec (.smbusAddressMatch false true) s = .next (nackCode s) := by
      change execSmbusAddressMatch false true s = _
      simp [execSmbusAddressMatch, hstandby]
    exact ⟨_, hexec, rfl, rfl, rfl, rfl, rfl, rfl⟩
  case vstby =>
    obtain ⟨drain, slots, shelf, gqp, chest, cab, table⟩ := supervisorReset_lost s
    obtain ⟨en, pg⟩ := supervisorReset_seq s
    exact ⟨_, congrArg Host.Outcome.next (if_pos hvstby), rfl, en, pg, drain, slots, shelf, gqp, chest, cab, table⟩
  case clk =>
    obtain ⟨drain, slots, shelf, gqp, chest, cab, table⟩ := supervisorReset_lost s
    obtain ⟨en, pg⟩ := supervisorReset_seq s
    exact ⟨_, congrArg Host.Outcome.next (if_pos (by simp [hvstby, hclk])), rfl, en, pg, drain, slots, shelf, gqp, chest, cab, table⟩

end Sys2Proof.Machine
end

section
/-! PROOFS. The phases of the timed start-up and the warm-up (17_startup_service_life R602 to R607). -/

namespace Sys2Proof.Machine

/-! ### The ROM phase (R602, 14_trust R516, 15_config_flash_events R547, R564) -/

theorem romFlash_idle {s : State} (hlog : s.nor.log = []) (habandoned : s.ev.abandoned = []) (hwaiting : s.nor.waiting = []) :
    romFlash s = { s with
      nor := { s.nor with running := none, suspended := false, suspends := 0 }, ev := { s.ev with running := true } } := by
  simp [romFlash, openErases, issueOp, nextOp, modNor, hlog, habandoned, hwaiting]

theorem verifyEvent_raises (slot place : Nat) (fault : Option Nat) (s : State) :
    ∃ code sev data, verifyEvent slot place fault s = raise code sev data s := by
  cases fault with
  | none => exact ⟨_, _, _, rfl⟩
  | some c => exact ⟨_, _, _, rfl⟩

@[simp] theorem imageFault_raise (mark : Bool) (x : FwSlot) (code : Nat) (sev : Severity) (data : Bytes) (s : State) :
    imageFault mark x (raise code sev data s) = imageFault mark x s := rfl

@[simp] theorem fwSlot_raise (n code : Nat) (sev : Severity) (data : Bytes) (s : State) : fwSlot n (raise code sev data s) = fwSlot n s := rfl

theorem raise_running (code : Nat) (sev : Severity) (data : Bytes) (s : State) : (raise code sev data s).ev.running = s.ev.running := by
  simp only [raise_ev, setEvt, queueEvent]
  split <;> rfl

/-- The complex serves from an image, or from ROM recovery, and the rest that a boot does not touch stands. -/
structure Boots (rom : Bool) (s t : State) : Prop where
  rom : t.mc.rom = rom
  serving : t.mc.serving = true
  running : t.ev.running = s.ev.running
  nor : t.nor = s.nor
  pu : t.pu = s.pu
  ti : t.ti = s.ti
  reg : t.reg = s.reg
  out : t.out = s.out

/-- ROM recovery follows when neither the image of NEXT_SLOT nor the other one verifies (R516). -/
theorem bootImage_boots (s : State) :
    Boots ((imageFault true (fwSlot s.mc.fwNext s) s).isSome && (imageFault true (fwSlot (1 - s.mc.fwNext) s) s).isSome) s (bootImage s) := by
  obtain ⟨code1, sev1, data1, h1⟩ := verifyEvent_raises s.mc.fwNext 0 (imageFault true (fwSlot s.mc.fwNext s) s) s
  obtain ⟨code2, sev2, data2, h2⟩ := verifyEvent_raises (1 - s.mc.fwNext) 0 (imageFault true (fwSlot (1 - s.mc.fwNext) s) s)
    (raise code1 sev1 data1 s)
  have honce := raise_running code1 sev1 data1 s
  have htwice : (raise code2 sev2 data2 (raise code1 sev1 data1 s)).ev.running = s.ev.running :=
    (raise_running ..).trans honce
  simp only [bootImage, h1, imageFault_raise, fwSlot_raise, h2]
  cases imageFault true (fwSlot s.mc.fwNext s) s with
  | none =>
    rw [if_pos Option.isNone_none]
    exact ⟨rfl, rfl, honce, rfl, rfl, rfl, rfl, rfl⟩
  | some c =>
    rw [if_neg (by simp)]
    cases imageFault true (fwSlot (1 - s.mc.fwNext) s) s with
    | none =>
      rw [if_pos Option.isNone_none]
      exact ⟨rfl, rfl, htwice, rfl, rfl, rfl, rfl, rfl⟩
    | some c =>
      rw [if_neg (by simp)]
      exact ⟨rfl, rfl, (raise_running ..).trans htwice, rfl, rfl, rfl, rfl, rfl⟩

theorem exec_startUpRomPhase_due {s : State} (hdue : phaseDue 0 s = true) (hlowering : s.trust.lowering = false) (hlog : s.nor.log = [])
    (habandoned : s.ev.abandoned = []) (hwaiting : s.nor.waiting = []) :
    exec .startUpRomPhase s = .next (modStart (fun x => { x with phase := 2 }) (bootImage (romFlash s))) := by
  change execStartUpRomPhase s = _
  simp [execStartUpRomPhase, hdue, romFlash_idle hlog habandoned hwaiting, hlowering]

/-! ### The firmware phase (R602, R605) -/

/-- What the phases leave of the stores: the persistence unit, the tiers, the regions, what left the block, and the events queued. -/
structure KeepsStores (s t : State) : Prop where
  pu : t.pu = s.pu
  ti : t.ti = s.ti
  reg : t.reg = s.reg
  out : t.out = s.out
  queue : s.ev.queue <+: t.ev.queue

/-- What the set-up of the units leaves besides: the identity, the start-up, the options loaded, the slices' state, the rows awaiting
repair, and the trust. -/
structure KeepsSetup (s t : State) : Prop extends KeepsStores s t where
  ident : t.ident = s.ident
  start : t.start = s.start
  loaded : t.nor.loaded = s.nor.loaded
  sliceOk : t.te.sliceOk = s.te.sliceOk
  rowsAwaiting : t.ecc.rowsAwaiting = s.ecc.rowsAwaiting
  trust : t.trust = s.trust

section
variable {s t u : State}

theorem KeepsStores.refl (s : State) : KeepsStores s s := ⟨rfl, rfl, rfl, rfl, List.prefix_rfl⟩

theorem KeepsStores.trans (h : KeepsStores s t) (g : KeepsStores t u) : KeepsStores s u :=
  ⟨g.pu.trans h.pu, g.ti.trans h.ti, g.reg.trans h.reg, g.out.trans h.out, h.queue.trans g.queue⟩

theorem KeepsSetup.refl (s : State) : KeepsSetup s s := ⟨.refl s, rfl, rfl, rfl, rfl, rfl, rfl⟩

theorem KeepsSetup.trans (h : KeepsSetup s t) (g : KeepsSetup t u) : KeepsSetup s u :=
  ⟨h.toKeepsStores.trans g.toKeepsStores, g.ident.trans h.ident, g.start.trans h.start, g.loaded.trans h.loaded, g.sliceOk.trans h.sliceOk,
    g.rowsAwaiting.trans h.rowsAwaiting, g.trust.trans h.trust⟩

theorem OnlyLogs.keepsStores (h : OnlyLogs s t) : KeepsStores s t := ⟨h.pu, h.ti, h.reg, h.out, h.queue⟩

theorem OnlyLogs.keepsSetup (h : OnlyLogs s t) : KeepsSetup s t :=
  ⟨h.keepsStores, h.ident, h.start, h.loaded, congrArg Te.sliceOk h.te, congrArg Ecc.rowsAwaiting h.ecc, (congrArg State.trust h.rest :)⟩

end

theorem foldl_keepsSetup {α : Type} {f : State → α → State} (hf : ∀ s x, KeepsSetup s (f s x)) (l : List α) (s : State) :
    KeepsSetup s (l.foldl f s) := by
  induction l generalizing s with
  | nil => exact .refl s
  | cons x l ih => exact (hf s x).trans (ih _)

theorem modPwr_keepsSetup (f : Power → Power) (s : State) : KeepsSetup s (modPwr f s) :=
  ⟨⟨rfl, rfl, rfl, rfl, List.prefix_rfl⟩, rfl, rfl, rfl, rfl, rfl, rfl⟩

theorem modEcc_keepsSetup {f : Ecc → Ecc} {s : State} (hf : (f s.ecc).rowsAwaiting = s.ecc.rowsAwaiting) : KeepsSetup s (modEcc f s) :=
  ⟨⟨rfl, rfl, rfl, rfl, List.prefix_rfl⟩, rfl, rfl, rfl, rfl, hf, rfl⟩

theorem modStack_keepsSetup (i : Nat) (f : Stack → Stack) (s : State) : KeepsSetup s (modStack i f s) :=
  modEcc_keepsSetup (by split <;> rfl)

/-- The state with the slices as their test finds them (11_transform_engine R421). -/
def slicesSet (failed : BitVec 17) (s : State) : State :=
  let ok := (List.range 17).filter fun i => !failed.getLsbD i
  modTe (fun t => { t with
    sliceOk := ~~~ failed, active := BitVec.ofNat 17 ((ok.take 16).foldl (fun a i => a + 2 ^ i) 0), spare := (ok.drop 16).getLast?
    losses := [] }) s

theorem testSlices_onlyLogs (failed : BitVec 17) (s : State) : OnlyLogs (slicesSet failed s) (testSlices failed s) := by
  have hlost (data : Bytes) (l : List Nat) : OnlyLogs (slicesSet failed s)
      (noteSpare 4 (l.foldl (fun s i => wearLog 0x0005 (le 1 i ++ le 1 0) s) (raise 0x0A08 .error data (slicesSet failed s)))) :=
    ((raise_onlyLogs ..).trans (foldl_onlyLogs (fun _ _ => wearLog_onlyLogs ..) _ _)).trans (noteSpare_onlyLogs ..)
  unfold testSlices
  dsimp only
  split
  · exact .refl _
  · split
    · exact (hlost _ _).trans (raise_onlyLogs ..)
    · exact hlost _ _

/-- The state with no row awaiting its repair. -/
def rowsRepaired (s : State) : State := modEcc (fun e => { e with rowsAwaiting := [] }) s

theorem hardRepair_onlyLogs (s : State) : OnlyLogs (rowsRepaired s) (hardRepair s) :=
  foldl_onlyLogs (fun _ _ => wearLog_onlyLogs ..) _ _

theorem KeepsSetup.rowsRepaired {s t : State} (h : KeepsSetup s t) : KeepsSetup (rowsRepaired s) (rowsRepaired t) :=
  ⟨⟨h.pu, h.ti, h.reg, h.out, h.queue⟩, h.ident, h.start, h.loaded, h.sliceOk, rfl, h.trust⟩

theorem releasePads_keepsSetup (groups : BitVec 10) (s : State) : KeepsSetup s (releasePads groups s) := by
  unfold releasePads
  extract_lets asked t done
  have ht : KeepsSetup s t := by
    unfold t
    split
    · exact .refl s
    · exact (badWrite_onlyLogs s).keepsSetup
  split
  · exact ht
  · exact (ht.trans (modPwr_keepsSetup ..)).trans (raise_onlyLogs ..).keepsSetup

theorem wakePc_keepsSetup (pc : Nat) (s : State) : KeepsSetup s (wakePc pc s) :=
  ⟨⟨rfl, rfl, rfl, rfl, List.prefix_rfl⟩, rfl, rfl, rfl, rfl, rfl, rfl⟩

theorem startChangeNext_keepsSetup (s : State) : KeepsSetup s (startChangeNext s) := by
  unfold startChangeNext
  split
  · exact .refl s
  · split
    · exact .refl s
    · exact (modEcc_keepsSetup rfl).trans (foldl_keepsSetup (fun _ _ => wakePc_keepsSetup ..) _ _)

theorem stackReading_keepsSetup (stack : Nat) (celsius : Int) (s : State) : KeepsSetup s (stackReading stack celsius s) := by
  unfold stackReading
  dsimp only
  split
  · exact .refl s
  · split
    · split
      · exact ((modStack_keepsSetup ..).trans (modStack_keepsSetup ..)).trans (raise_onlyLogs ..).keepsSetup
      · exact (modStack_keepsSetup ..).trans (modStack_keepsSetup ..)
    · exact (modStack_keepsSetup ..).trans (startChangeNext_keepsSetup _)

theorem loadSets_onlyLogs (bad : List Nat) (s : State) : OnlyLogs s (loadSets bad s) :=
  foldl_onlyLogs (fun s _ => foldl_onlyLogs (fun _ _ => raise_onlyLogs ..) _ s) _ s

theorem setPorts_keepsSetup (s : State) : KeepsSetup s (setPorts s) := by
  unfold setPorts
  dsimp only
  split
  · exact ⟨⟨rfl, rfl, rfl, rfl, List.prefix_rfl⟩, rfl, rfl, rfl, rfl, rfl, rfl⟩
  · refine KeepsSetup.trans ?_ ((raise_onlyLogs ..).trans (norSubmit_onlyLogs ..)).keepsSetup
    exact ⟨⟨rfl, rfl, rfl, rfl, List.prefix_rfl⟩, rfl, rfl, rfl, rfl, rfl, rfl⟩

theorem setPorts_params (s : State) : (setPorts s).params = s.params := by
  unfold setPorts
  dsimp only
  split
  · rfl
  · exact (congrArg State.params ((raise_onlyLogs ..).trans (norSubmit_onlyLogs ..)).rest :)

/-- The state with the stacks, the delay sets and the pads ready. -/
def stacksReady (a b : Int) (sets : List Nat) (s : State) : State :=
  loadSets sets (stackReading 1 b (stackReading 0 a (releasePads 0b1100000000 s)))

theorem stacksReady_keepsSetup (a b : Int) (sets : List Nat) (s : State) : KeepsSetup s (stacksReady a b sets s) :=
  (((releasePads_keepsSetup ..).trans (stackReading_keepsSetup ..)).trans (stackReading_keepsSetup ..)).trans
    (loadSets_onlyLogs ..).keepsSetup

/-- The parameters of the option area in force. -/
def paramsTaken (c : OptionCopy) (s : State) : State :=
  { s with
    params := c.params
    cxl := { s.cxl with gfam := mgetD 0 0x0601 c.params == 1, bifurcation := mgetD 0 0x0602 c.params, bureau := mgetD 0 0x0603 c.params }
    ecc := { s.ecc with ledgerOverflow := true, ledgerTime := s.tb.tod } }

/-- The units as the firmware phase leaves them, before the partitions are set. -/
def unitsSet (a b : Int) (failed : BitVec 17) (sets : List Nat) (s : State) : State :=
  setPorts (paramsTaken s.nor.loaded (stacksReady a b sets (hardRepair (testSlices failed s))))

theorem paramsTaken_keepsSetup (c : OptionCopy) (s : State) : KeepsSetup s (paramsTaken c s) :=
  ⟨⟨rfl, rfl, rfl, rfl, List.prefix_rfl⟩, rfl, rfl, rfl, rfl, rfl, rfl⟩

theorem unitsSet_keepsSetup (a b : Int) (failed : BitVec 17) (sets : List Nat) (s : State) :
    KeepsSetup (rowsRepaired (slicesSet failed s)) (unitsSet a b failed sets s) := by
  have htested := (testSlices_onlyLogs failed s).keepsSetup.rowsRepaired
  have hrepaired := (hardRepair_onlyLogs (testSlices failed s)).keepsSetup
  have hready := stacksReady_keepsSetup a b sets (hardRepair (testSlices failed s))
  exact ((htested.trans hrepaired).trans hready).trans ((paramsTaken_keepsSetup ..).trans (setPorts_keepsSetup _))

theorem unitsSet_params (a b : Int) (failed : BitVec 17) (sets : List Nat) (s : State) :
    (unitsSet a b failed sets s).params = s.nor.loaded.params := by
  have hslices := (testSlices_onlyLogs failed s).loaded
  have hrepaired := (hardRepair_onlyLogs (testSlices failed s)).loaded
  have hready := (stacksReady_keepsSetup a b sets (hardRepair (testSlices failed s))).loaded
  calc
    _ = (paramsTaken s.nor.loaded (stacksReady a b sets (hardRepair (testSlices failed s)))).params := setPorts_params _
    _ = _ := rfl

theorem logicalExtents_congr {s t : State} (h : t.ident = s.ident) : logicalExtents t = logicalExtents s := by
  simp only [logicalExtents, rawBytes, h]

theorem mapSegments_le {n k : Nat} (h : n ≤ k * 4096) : mapSegments n ≤ 48 * k := by
  unfold mapSegments
  omega

theorem logicalExtents_le (s : State) : logicalExtents s ≤ (if s.ident.h96 then 448 else 224) * 4096 := by
  unfold logicalExtents
  exact Nat.min_le_right ..

/-- The partitions change only the capacity of the regions, the tiers' partitions and the capture's limits. -/
theorem setPartitions_eq (u : State) :
    ∃ n tiers limits, setPartitions u = { u with reg := { u.reg with capExtents := n }, ti := tiers, cap := limits } ∧ n = logicalExtents u :=
  ⟨_, _, _, rfl, rfl⟩

/-- Without parameters the shelf has no REPLAY and no CAPTURE partition, and the MAP partition fits (04_tiers R109, R110). -/
theorem partitionsFit_setPartitions {u : State} (hparams : u.nor.loaded.params = []) (hmapped : u.ti.mappedOut = []) :
    partitionsFit (setPartitions u) = true := by
  have hmode : mgetD 0 0x0701 u.nor.loaded.params = 0 := by rw [hparams]; rfl
  have hbits : mgetD 0 0x0702 u.nor.loaded.params = 0 := by rw [hparams]; rfl
  have hnone : partitionBytes u.nor.loaded = (0, 0) := by simp [partitionBytes, hmode, hbits, instrumentBits]
  have hmap := mapSegments_le (logicalExtents_le u)
  have hshelf : mapSegments (logicalExtents u) + 32 ≤ shelfSegments u := by
    unfold shelfSegments
    cases h96 : u.ident.h96 <;> simp [h96] at hmap ⊢ <;> omega
  change decide (mapSegments (logicalExtents u) + 32 + (partitionBytes u.nor.loaded).1 / 2 ^ 21 + (partitionBytes u.nor.loaded).2 / 2 ^ 21 +
    u.ti.mappedOut.length ≤ shelfSegments u) = true
  simpa [hnone, hmapped] using hshelf

theorem runs_when_due {n : Nat} {s : State} (hdue : phaseDue n s = true) (hruns : firmwareRuns s = true) :
    (!phaseDue n s || !firmwareRuns s) ≠ true := by
  simp [hdue, hruns]

theorem phase_of_due {n : Nat} {s : State} (h : phaseDue n s = true) : s.start.phase = n := by
  simp only [phaseDue, Bool.and_eq_true, beq_iff_eq] at h
  exact h.1.2

section
variable (a b : Int) (failed : BitVec 17) {c : Int} {sets : List Nat} {s : State}

theorem exec_startUpFirmwarePhase_usable (husable : setsUsable sets = true) (hdue : phaseDue 2 s = true) (hruns : firmwareRuns s = true)
    (hparams : s.nor.loaded.params = []) (hmapped : s.ti.mappedOut = []) (hwarm : -20 ≤ c) :
    ∃ u, exec (.startUpFirmwarePhase a b c failed sets) s = .next (modStart (fun x => { x with phase := 3 }) (setPartitions u)) ∧
      KeepsSetup (rowsRepaired (slicesSet failed s)) u ∧ u.params = [] := by
  have h := unitsSet_keepsSetup a b failed sets s
  have hloaded := (congrArg OptionCopy.params h.loaded).trans hparams
  have hfit := partitionsFit_setPartitions hloaded ((congrArg Tiers.mappedOut h.ti).trans hmapped)
  refine ⟨unitsSet a b failed sets s, ?_, h, (unitsSet_params ..).trans hparams⟩
  have husable' : (!setsUsable sets) ≠ true := by simp [husable]
  have hfit' : (!partitionsFit (setPartitions (unitsSet a b failed sets s))) ≠ true := by simp [hfit]
  exact (if_neg (runs_when_due hdue hruns)).trans ((if_neg husable').trans ((if_neg hfit').trans (if_neg (by omega))))

theorem exec_startUpFirmwarePhase_unusable (husable : setsUsable sets = false) (hdue : phaseDue 2 s = true) (hruns : firmwareRuns s = true) :
    ∃ u, exec (.startUpFirmwarePhase a b c failed sets) s =
      .next (stopStart 3 0 (modTi (fun t => { t with slotsTotal := 0 }) (setPartitions u))) ∧
      KeepsSetup (rowsRepaired (slicesSet failed s)) u :=
  ⟨_, (if_neg (runs_when_due hdue hruns)).trans (if_pos (by rw [husable]; rfl)), unitsSet_keepsSetup ..⟩

end

/-! ### The journal phase (R602, 03_persistence R100 to R103) -/

/-- The state with the reclaim position of an anchor, and the records before it placed. -/
def anchorTaken (a : Anchor) (s : State) : State :=
  modPu (fun p => { p with
    reclaimLine := a.line, reclaimSeq := a.seq
    chest := p.chest.map fun r => if a.seq ≤ r.seq then { r with placed := false } else { r with placed := true } }) s

/-- An unclean stop is reported and counted (R101, 07_cxl_ports R270). -/
def uncleanNoted (l : List JRec) (s : State) : State :=
  match l.getLast? with
  | none => s
  | some r =>
    if isDrain r.kind then s
    else
      raise 0x0209 .error (le 8 r.seq ++ le 4 r.pos)
        (modStart (fun x => { x with unclean := true }) (modCxl (fun c => { c with dirtyShutdowns := c.dirtyShutdowns + 1 }) s))

theorem uncleanNoted_keepsStores (l : List JRec) (s : State) : KeepsStores s (uncleanNoted l s) := by
  unfold uncleanNoted
  split
  · exact .refl s
  · split
    · exact .refl s
    · refine KeepsStores.trans ?_ (raise_onlyLogs ..).keepsStores
      exact ⟨rfl, rfl, rfl, rfl, List.prefix_rfl⟩

/-- The wake from Device Standby is reported (16_power R592). -/
def wakeNoted (s : State) : State :=
  match s.seq.wokenBy with
  | none => s
  | some k => raise 0x0F09 .info (le 1 k) (modSeq (fun q => { q with wokenBy := none }) s)

theorem wakeNoted_keepsStores (s : State) : KeepsStores s (wakeNoted s) := by
  unfold wakeNoted
  split
  · exact .refl s
  · refine KeepsStores.trans ?_ (raise_onlyLogs ..).keepsStores
    exact ⟨rfl, rfl, rfl, rfl, List.prefix_rfl⟩

theorem exec_startUpJournalPhase_sound {a : Anchor} (beats : Nat) {s : State} (hdue : phaseDue 3 s = true) (hruns : firmwareRuns s = true)
    (hbest : bestAnchor s.pu = some a) (hsound : (s.pu.chest.all fun r => !r.payloadBad) = true) :
    ∃ data t, exec (.startUpJournalPhase beats) s = .next (modStart (fun x => { x with phase := 4 }) t) ∧
      KeepsStores (raise 0x020A .info data (anchorTaken a s)) t := by
  have hgood : (replayed s).filter (·.payloadBad) = [] := by
    rw [List.filter_eq_nil_iff]
    intro r hr
    have hchest := List.all_eq_true.mp hsound r (List.mem_of_mem_filter hr)
    simpa using hchest
  refine ⟨_, wakeNoted (uncleanNoted (replayed s) (raise 0x020A .info (le 8 (((replayed s).head?.map (·.seq)).getD 0) ++
    le 8 (((replayed s).getLast?.map (·.seq)).getD 0) ++ le 4 beats) (anchorTaken a s))), ?_,
    (uncleanNoted_keepsStores ..).trans (wakeNoted_keepsStores _)⟩
  change execStartUpJournalPhase beats s = _
  refine (if_neg (runs_when_due hdue hruns)).trans ?_
  simp only [hbest, hgood, List.foldl_nil]
  rfl

/-! ### The map phase (R602, 04_tiers R124, R130, R131) -/

theorem exec_startUpMapPhase_geometryBad {readable : Bool} (beats : Nat) {s : State} (hdue : phaseDue 4 s = true)
    (hruns : firmwareRuns s = true) :
    ∃ v, exec (.startUpMapPhase false readable beats) s = .next (stopStart 5 2 (raise 0x0306 .error (le 2 0xFFFF) v)) ∧ KeepsSetup s v :=
  ⟨_, if_neg (runs_when_due hdue hruns), releasePads_keepsSetup ..⟩

/-- The maps and tables that a map load makes from a base map, an empty snapshot and an empty chest. -/
structure LoadedEmpty (base : AMap MapEntry) (s t : State) : Prop where
  map : t.ti.map = base
  table : t.reg.table = []
  copies : t.pu.copies = []
  keys : t.trust.keys = []
  cab : t.ti.cab = s.ti.cab
  out : t.out = s.out
  sanitize : t.trust.sanitize = s.trust.sanitize

theorem loadMap_empty (base : AMap MapEntry) {s : State} (hchest : s.pu.chest = []) (hsnapshot : s.ti.ckptMeta = []) :
    LoadedEmpty base s (loadMap base s) := by
  constructor <;> simp [loadMap, hchest, hsnapshot, zeroVolatile, awaitOnline, replayed]

theorem resumeSanitize_idle {s : State} (h : s.trust.sanitize ≠ 1) : resumeSanitize s = s := if_neg h

theorem exec_startUpMapPhase_readable (beats : Nat) {s : State} (hdue : phaseDue 4 s = true) (hruns : firmwareRuns s = true) :
    ∃ data v, exec (.startUpMapPhase true true beats) s =
      .next (modStart (fun x => { x with phase := 5 }) (resumeSanitize (raise 0x0303 .info data (loadMap v.ti.ckptMap v)))) ∧
      KeepsSetup s v :=
  ⟨_, _, if_neg (runs_when_due hdue hruns), releasePads_keepsSetup ..⟩

/-! ### The regions phase (R602, R603) -/

theorem unwrapKeys_none {s : State} (h : s.trust.keys = []) : unwrapKeys [] s = s := by simp [unwrapKeys, h]

/-- Only the event unit and the queue pairs differ. -/
def OnlyNotices (s t : State) : Prop := { t with ev := s.ev, gqp := s.gqp } = s

theorem OnlyNotices.trans {s t u : State} (h : OnlyNotices s t) (g : OnlyNotices t u) : OnlyNotices s u :=
  Eq.trans (congrArg (fun x : State => { x with ev := s.ev, gqp := s.gqp }) (g : { u with ev := t.ev, gqp := t.gqp } = t)) h

theorem raiseLimited_onlyNotices (code key : Nat) (sev : Severity) (data : Nat → Bytes) (s : State) :
    OnlyNotices s (raiseLimited code key sev data s) := by
  unfold raiseLimited
  split
  · rfl
  · split <;> rfl

theorem noticeOn_onlyNotices (qid code : Nat) (body : Bytes) (s : State) : OnlyNotices s (noticeOn qid code body s) := by
  unfold noticeOn
  split
  · rfl
  · split
    · rfl
    · exact raiseLimited_onlyNotices ..

theorem notice_onlyNotices (code region : Nat) (detail : Bytes) (s : State) : OnlyNotices s (notice code region detail s) := by
  have hfold (l : List (Nat × QueuePair)) (t : State) :
      OnlyNotices t (l.foldl (fun t e => noticeOn e.1 code (noticeBody code region detail s) t) t) := by
    induction l generalizing t with
    | nil => rfl
    | cons e l ih => exact (noticeOn_onlyNotices ..).trans (ih _)
  exact hfold _ s

theorem takeOnline_offline {r : Nat} {d : Region} {s : State} (hr : regionOf r s = some d) (hoff : d.state = .offline) :
    OnlyNotices (modRegion r (fun d => { d with state := .online }) s) (takeOnline r s) := by
  unfold takeOnline
  rw [hr]
  dsimp only
  rw [if_pos hoff]
  have hraised : OnlyNotices (modRegion r (fun d => { d with state := .online }) s)
      (raise 0x0407 .info (le 2 r ++ le 1 1) (modRegion r (fun d => { d with state := .online }) s)) := rfl
  exact hraised.trans (notice_onlyNotices ..)

theorem restoreAttachments_noBureau {s : State} (h : s.cxl.bureau = 0) : restoreAttachments s = s := by
  simp [restoreAttachments, inBureau, h]

theorem exec_startUpRegionsPhase_single {r : Nat} {d : Region} {s : State} (hdue : phaseDue 5 s = true) (hruns : firmwareRuns s = true)
    (hwarm : s.start.warm = false) (hkeys : s.trust.keys = []) (hbureau : s.cxl.bureau = 0) (htable : s.reg.table = [(r, d)])
    (hsettee : d.settee = false) (hmirrored : d.mirrored = false) (hseat : d.seat = s.ident.controllerId) (hoff : d.state = .offline) :
    exec (.startUpRegionsPhase []) s = .next (modStart (fun x => { x with phase := 6 }) (takeOnline r s)) := by
  have hr : regionOf r s = some d := by simp [regionOf, htable, mget]
  have hsame := takeOnline_offline hr hoff
  have hnoBureau : (takeOnline r s).cxl.bureau = 0 := (congrArg (·.cxl.bureau) hsame :).trans hbureau
  change execStartUpRegionsPhase [] s = _
  simp [execStartUpRegionsPhase, hdue, hruns, hwarm, unwrapKeys_none hkeys, htable, bringOnline, hsettee, hmirrored, hseat,
    restoreAttachments_noBureau hnoBureau]

/-! ### Readiness and the warm-up (R604, R606, R607) -/

theorem exec_startUpLinksPhase_due (ms : Nat) {s : State} (hdue : phaseDue 6 s = true) (hruns : firmwareRuns s = true) :
    ∃ data, exec (.startUpLinksPhase ms) s =
      .next (raise 0x1001 .info data (emit .ready (modStart (fun x => { x with phase := 7, ready := true }) s))) :=
  ⟨_, if_neg (runs_when_due hdue hruns)⟩

theorem exec_warmUpEnd_warm {c : Int} (ms : Nat) {s : State} (hwarm : s.start.warm = true) (hc : -20 ≤ c) (hgoes : s.start.stopped = none) :
    ∃ data, exec (.warmUpEnd c ms) s = .next (raise 0x1004 .info data (modStart (fun x => { x with warm := false }) s)) :=
  ⟨_, if_neg (by simp [hwarm, hgoes, hc])⟩

theorem exec_warmUpTimeout_due {s : State} (hwarm : s.start.warm = true) (hgoes : s.start.stopped = none)
    (hlate : s.start.warmSince + 39062500 ≤ s.tb.beat) : exec .warmUpTimeout s = .next (stopStart (s.start.phase + 1) 3 s) :=
  if_neg (by simp [hwarm, hgoes, hlate])

theorem stopStart_recorded (phase cause : Nat) {s : State} (hroom : eventRoom s = true) : recorded 0x1002 (stopStart phase cause s) :=
  recorded_raise _ _ _ hroom

/-- Settles O47: each phase that is due runs its steps, which leave what `KeepsSetup` and `KeepsStores` name. -/
theorem startUpPhases : Obligations.StartUpPhases := by
  unfold Obligations.StartUpPhases
  refine ⟨fun s ⟨hdue, hlowering, hlog, habandoned, hwaiting⟩ => ?rom,
    fun a b c failed sets s husable ⟨hdue, hruns, hparams, hmapped, hc⟩ => ?firmware,
    fun a b c failed sets s husable ⟨hdue, hruns⟩ => ?unusable, fun a beats s ⟨hdue, hruns, hbest, hsound, hroom⟩ => ?journal,
    fun beats s ⟨hdue, hruns, hchest, hsnapshot, hsanitize⟩ => ?map, fun beats s ⟨hdue, hruns⟩ => ?geometry,
    fun r d s ⟨hdue, hruns, hwarm, hkeys, hbureau⟩ ⟨htable, hsettee, hmirrored, hseat, hoff⟩ => ?regions,
    fun ms s ⟨hdue, hruns, hroom⟩ => ?links, fun c ms s ⟨hwarm, hc, hgoes, hroom⟩ => ?warmEnd,
    fun s ⟨hwarm, hgoes, hlate, hroom⟩ => ?timeout⟩
  case rom =>
    have hexec := exec_startUpRomPhase_due hdue hlowering hlog habandoned hwaiting
    rw [romFlash_idle hlog habandoned hwaiting] at hexec
    have h := bootImage_boots { s with
      nor := { s.nor with running := none, suspended := false, suspends := 0 }, ev := { s.ev with running := true } }
    generalize bootImage _ = t at hexec h
    exact ⟨_, hexec, rfl, h.running, (congrArg Nor.running h.nor :), h.serving, h.pu, h.ti, h.reg, h.out, h.rom⟩
  case firmware =>
    obtain ⟨u, hexec, h, hu⟩ := exec_startUpFirmwarePhase_usable a b failed husable hdue hruns hparams hmapped hc
    obtain ⟨n, tiers, limits, hset, hn⟩ := setPartitions_eq u
    rw [hset] at hexec
    exact ⟨_, hexec, rfl, (congrArg StartUp.warm h.start :), hu, h.sliceOk, h.rowsAwaiting, hn.trans (logicalExtents_congr h.ident),
      (congrArg Regions.table h.reg :), h.pu, h.out⟩
  case unusable =>
    obtain ⟨u, hexec, h⟩ := exec_startUpFirmwarePhase_unusable a b failed (c := c) husable hdue hruns
    obtain ⟨n, tiers, limits, hset, -⟩ := setPartitions_eq u
    rw [hset] at hexec
    exact ⟨_, hexec, rfl, rfl, (congrArg Regions.table h.reg :), h.pu, h.out⟩
  case journal =>
    obtain ⟨data, t, hexec, hkeeps⟩ := exec_startUpJournalPhase_sound beats hdue hruns hbest hsound
    have hrecorded := recorded_of_queue (recorded_raise 0x020A .info data hroom) hkeeps.queue
    exact ⟨_, hexec, rfl, (congrArg Persist.reclaimLine hkeeps.pu :), (congrArg Persist.reclaimSeq hkeeps.pu :), hrecorded, hkeeps.ti,
      hkeeps.reg, hkeeps.out⟩
  case map =>
    obtain ⟨data, v, hexec, hv⟩ := exec_startUpMapPhase_readable beats hdue hruns
    have h := loadMap_empty v.ti.ckptMap ((congrArg Persist.chest hv.pu).trans hchest) ((congrArg Tiers.ckptMeta hv.ti).trans hsnapshot)
    have hmap := h.map.trans (congrArg Tiers.ckptMap hv.ti)
    have hcab := h.cab.trans (congrArg Tiers.cab hv.ti)
    have hidle : (loadMap v.ti.ckptMap v).trust.sanitize ≠ 1 := by rwa [h.sanitize, hv.trust]
    generalize loadMap v.ti.ckptMap v = w at hexec h hmap hcab hidle
    rw [resumeSanitize_idle (s := raise 0x0303 .info data w) hidle] at hexec
    exact ⟨_, hexec, rfl, hmap, h.table, h.copies, h.keys, hcab, h.out.trans hv.out⟩
  case geometry =>
    obtain ⟨v, hexec, hv⟩ := exec_startUpMapPhase_geometryBad (readable := true) beats hdue hruns
    exact ⟨_, hexec, (congrArg StartUp.phase hv.start :).trans (phase_of_due hdue), rfl, hv.ti, hv.pu, hv.reg, hv.out⟩
  case regions =>
    have hexec := exec_startUpRegionsPhase_single hdue hruns hwarm hkeys hbureau htable hsettee hmirrored hseat hoff
    have hr : regionOf r s = some d := by simp [regionOf, htable, mget]
    have h := takeOnline_offline hr hoff
    generalize takeOnline r s = w at hexec h
    have honline : regionOf r w = some { d with state := .online } := by
      have htables : regionOf r w = mget r (mmod r (fun d => { d with state := .online }) s.reg.table) := (congrArg (regionOf r) h :)
      rw [htables, mget_mmod_self, show mget r s.reg.table = some d from hr]
      rfl
    exact ⟨_, hexec, rfl, honline, (congrArg State.ti h :), (congrArg State.pu h :), (congrArg State.out h :)⟩
  case links =>
    obtain ⟨data, hexec⟩ := exec_startUpLinksPhase_due ms hdue hruns
    exact ⟨_, hexec, rfl, rfl, recorded_raise 0x1001 .info data hroom, rfl, rfl, rfl, rfl⟩
  case warmEnd =>
    obtain ⟨data, hexec⟩ := exec_warmUpEnd_warm ms hwarm hc hgoes
    exact ⟨_, hexec, rfl, recorded_raise 0x1004 .info data hroom, rfl, rfl, rfl, rfl⟩
  case timeout =>
    exact ⟨_, exec_warmUpTimeout_due hwarm hgoes hlate, rfl, stopStart_recorded _ _ hroom, rfl, rfl, rfl, rfl⟩

end Sys2Proof.Machine
end

section
/-! PROOFS. Segment slots, fills, mapped-out slots and the placement of records (04_tiers R111, R114 to R119). -/

namespace Sys2Proof.Machine

/-! ### Slots and fills (R114, R116, R117) -/

theorem ensureSlot_room {seg : Nat} {s : State} (hnew : mhas seg s.ti.segs = false) (hroom : s.ti.segs.length < slotCount s) :
    ensureSlot seg s = some (modTi (addSlot seg (ageNow s)) s) := by
  simp [ensureSlot, hnew, hroom]

@[simp] theorem touchSlot_filling (now order : Nat) (g : SegSlot) : (touchSlot now order g).filling = g.filling := by
  unfold touchSlot
  split <;> rfl

@[simp] theorem touchSlot_pins (now order : Nat) (g : SegSlot) : (touchSlot now order g).pins = g.pins := by
  unfold touchSlot
  split <;> rfl

/-- A suspend (R140) is noted with the operations under way on the LUNs, and nowhere else. -/
theorem suspendFor_eq (a : Nat) (s : State) : ∃ ops, suspendFor a s = modTi (fun t => { t with lunOps := ops }) s := by
  unfold suspendFor
  split
  · exact ⟨s.ti.lunOps, rfl⟩
  · exact (ite_eq_or_eq _ _ _).elim (fun hdone => ⟨_, hdone⟩) fun hnot => ⟨s.ti.lunOps, hnot⟩

/-- The slot of a segment whose fill starts (R113, R117): filling, pinned once more, touched. -/
def fillingSlot (now order : Nat) (g : SegSlot) : SegSlot := touchSlot now order { g with filling := true, pins := g.pins + 1 }

/-- What the start of a fill changes (R117): the segment's slot, the list of fills, and what it may suspend. -/
theorem startFill_eq (seg missed : Nat) (s : State) :
    ∃ chunks ops, startFill seg missed s = modTi (fun t => { t with
      segs := mmod seg (fillingSlot (ageNow s) t.touchCount) t.segs
      touchCount := t.touchCount + 1, fills := t.fills ++ [⟨seg, chunks⟩], lunOps := ops }) s := by
  unfold startFill
  extract_lets chunks u
  obtain ⟨ops, hu⟩ : ∃ ops, u = modTi (fun t => { t with lunOps := ops }) s := by
    dsimp only [u]
    split
    · split
      · exact suspendFor_eq ..
      · exact ⟨s.ti.lunOps, rfl⟩
    · exact ⟨s.ti.lunOps, rfl⟩
  rw [hu]
  exact ⟨chunks, ops, rfl⟩

/-- The state with a new slot for a segment, and no request that waits for it any more. -/
def slotTaken (seg : Nat) (s : State) : State :=
  modTi (fun t => { t with slotWaiters := t.slotWaiters.filter fun l => segmentOf l != seg }) (modTi (addSlot seg (ageNow s)) s)

theorem exec_segmentSlotRequest_room {seg : Nat} {s : State} (hnew : mhas seg s.ti.segs = false)
    (hroom : s.ti.segs.length < slotCount s) :
    exec (.segmentSlotRequest seg) s = .next (startFill seg (missedChunk seg s) (slotTaken seg s)) := by
  change execSegmentSlotRequest seg s = _
  simp [execSegmentSlotRequest, hnew, ensureSlot_room hnew hroom, slotTaken]

theorem exec_segmentSlotRequest_waits {seg : Nat} {s : State} (hnew : mhas seg s.ti.segs = false) (hnone : ensureSlot seg s = none) :
    exec (.segmentSlotRequest seg) s = .next (waitSlot (missedChunk seg s) s) := by
  change execSegmentSlotRequest seg s = _
  simp [execSegmentSlotRequest, hnew, hnone]

theorem exec_slotWaitLimit_due {s : State} (hlate : 1024 < s.ti.slotWaitBeats) (hnew : s.ti.slotWaitReported = false) :
    ∃ data, exec .slotWaitLimit s = .next (raise 0x030A .warning data (modTi (fun t => { t with slotWaitReported := true }) s)) :=
  ⟨_, if_pos (by simp [hlate, hnew])⟩

/-! ### The arrival of a page (R117, R118) -/

theorem testBit_bitsOn_missing (i b : Nat) : (bitsOn ([i].filter fun p => !b.testBit p) b).testBit i = true := by
  cases h : b.testBit i
  · have hadd : (2 ^ i + b).testBit i = true := by rw [Nat.testBit_two_pow_add_eq, h]; rfl
    simpa [bitsOn, h, Nat.add_comm] using hadd
  · simp [bitsOn, h]

theorem chunkFill_zero {lcn : Nat} {s : State} (hmap : mget lcn s.ti.map = none) : chunkFill lcn s = some ([], []) := by
  simp [chunkFill, hmap]

/-- Pages that load as zeros change the VALID bits of their slot only. -/
theorem loadPages_zero {lcn : Nat} {pages : List Nat} {g : SegSlot} {t : Tiers} (hslot : mget (segmentOf lcn) t.segs = some g) :
    loadPages lcn pages ([], []) t =
      { t with segs := mput (segmentOf lcn) { g with valid := bitsOn (pages.filter fun p => !g.valid.testBit p) g.valid } t.segs } := by
  simp [loadPages, hslot]

/-- A fill ends with its last page (R117): the slot is unpinned. -/
def endFill (seg : Nat) (s : State) : State :=
  if (mgetD {} seg s.ti.segs).valid = 2 ^ 512 - 1 then
    modTi (fun t => { t with
      fills := t.fills.filter fun f => f.segment != seg
      segs := mmod seg (fun g => { g with filling := false, pins := g.pins - 1 }) t.segs }) s
  else s

/-- The end of a fill changes the list of fills and the slot's pin, not its VALID bits. -/
theorem endFill_frame (seg : Nat) (s : State) :
    (mget seg (endFill seg s).ti.segs).map (·.valid) = (mget seg s.ti.segs).map (·.valid) ∧ (endFill seg s).ti.cab = s.ti.cab ∧
      (endFill seg s).ti.map = s.ti.map ∧ (endFill seg s).pu = s.pu := by
  unfold endFill
  split
  · refine ⟨?_, rfl, rfl, rfl⟩
    rw [modTi_ti, mget_mmod_self, Option.map_map]
    rfl
  · exact ⟨rfl, rfl, rfl, rfl⟩

theorem exec_pageArrival_fills {seg page : Nat} {c : Memory × List Nat} {s : State} (hpage : page < 512)
    (hfill : s.ti.fills.any (fun f => f.segment == seg) = true) (hc : chunkFill (seg * 32 + page / 16) s = some c) :
    exec (.pageArrival seg page) s = .next (endFill seg (modTi (loadPages (seg * 32 + page / 16) [page] c) s)) := by
  change execPageArrival seg page s = _
  have hgo : ¬ (512 ≤ page ∨ (!(s.ti.fills.any fun f => f.segment == seg)) = true) := by simp [hfill, hpage]
  simp only [execPageArrival, if_neg hgo, hc, endFill, apply_ite Host.Outcome.next]

/-! ### A failed page (R118) -/

/-- The state with a slot mapped out, and the event of it. -/
def slotLost (slot partition : Nat) (s : State) : State :=
  raise 0x030B .warning (le 4 slot ++ le 1 partition) (modTi (fun t => { t with mappedOut := setInsert slot t.mappedOut }) s)

theorem exec_shelfPageFailure_elsewhere {slot partition : Nat} {s : State} (hnew : slot ∉ s.ti.mappedOut) (hpart : partition < 4)
    (hempty : s.ti.segs = []) :
    ∃ t, exec (.shelfPageFailure slot partition) s = .next t ∧ OnlyLogs (slotLost slot partition s) t := by
  have hgo : ¬ 5 ≤ partition := by omega
  have hother : partition ≠ 4 := by omega
  have hout : mapOut slot partition s = noteSpare 2 (slotLost slot partition s) := by
    simp [mapOut, hnew, hgo, hother, hempty, slotLost]
  exact ⟨_, congrArg Host.Outcome.next hout, noteSpare_onlyLogs ..⟩

/-! ### The placement of a record (R119): the cabinet is read at most -/

theorem ensureSlot_cab {seg : Nat} {s t : State} (h : ensureSlot seg s = some t) : t.ti.cab = s.ti.cab := by
  unfold ensureSlot at h
  split at h
  · cases h; rfl
  · split at h
    · cases h; rfl
    · split at h
      · cases h
      · cases h; rfl

theorem loadChunk_cab {lcn : Nat} {s t : State} (h : loadChunk lcn s = some t) : t.ti.cab = s.ti.cab := by
  obtain ⟨c, -, rfl⟩ := Option.map_eq_some_iff.mp h
  exact loadPages_cab

theorem readyPage_cab {ws : List (Nat × LineWrite)} {key : Nat} {s t : State} (h : readyPage ws key s = some t) :
    t.ti.cab = s.ti.cab := by
  unfold readyPage at h
  split at h
  case h_1 => cases h
  case h_2 u hslot =>
    refine Eq.trans ?_ (ensureSlot_cab hslot)
    split at h
    · cases h; rfl
    · split at h
      · cases h; exact loadPages_cab
      · exact loadChunk_cab h

theorem readyPages_cab {all ws : List (Nat × LineWrite)} {s t : State} (h : ws.foldlM (fun s w => readyPage all w.1 s) s = some t) :
    t.ti.cab = s.ti.cab := by
  induction ws generalizing s with
  | nil => cases h; rfl
  | cons w ws ih =>
    rw [List.foldlM_cons] at h
    obtain ⟨u, hready, hrest⟩ := Option.bind_eq_some_iff.mp h
    exact (ih hrest).trans (readyPage_cab hready)

theorem putLines_cab (seq : Nat) (ws : List (Nat × LineWrite)) (s : State) :
    (ws.foldl (fun s w => touch (w.1 / 32768) (shelfPut w.1 seq w.2 s)) s).ti.cab = s.ti.cab := by
  induction ws generalizing s with
  | nil => rfl
  | cons w ws ih => exact ih _

theorem placeLines_cab {seq : Nat} {ws : List (Nat × LineWrite)} {s t : State} (h : placeLines seq ws s = some t) :
    t.ti.cab = s.ti.cab := by
  obtain ⟨u, hready, rfl⟩ := Option.map_eq_some_iff.mp h
  exact (putLines_cab ..).trans (readyPages_cab hready)

/-- Whether a copy of the recent-write map is not in a record of the chest. -/
def outsideRec (seq : Nat) (c : Copy) : Bool :=
  match c.place with
  | .chest q _ => q != seq
  | _ => true

/-- A record is marked as placed, and its entries of the recent-write map retire (03_persistence R86). -/
def recPlaced (seq : Nat) (p : Persist) : Persist :=
  { p with
    chest := p.chest.map fun r => if r.seq = seq then { r with placed := true } else r
    copies := p.copies.filter (outsideRec seq) }

theorem recPlaced_chest {seq : Nat} {p : Persist} {r : JRec} (hr : r ∈ (recPlaced seq p).chest) (hseq : r.seq = seq) : r.placed = true := by
  obtain ⟨old, -, rfl⟩ := List.mem_map.mp hr
  split at hseq
  · next h => rw [if_pos h]
  · next h => exact absurd hseq h

theorem recPlaced_copies (seq : Nat) (p : Persist) : (recPlaced seq p).copies.all (outsideRec seq) = true :=
  List.all_eq_true.mpr fun _ hc => (List.mem_filter.mp hc).2

theorem exec_drainPlacement_lowest {r : JRec} {s t : State} (hlow : s.pu.chest.find? (fun r => !r.placed) = some r)
    (hplace : placeLines r.seq (toPlace r s) s = some t) : exec (.drainPlacement r.seq) s = .next (modPu (recPlaced r.seq) t) := by
  change execDrainPlacement r.seq s = _
  simp only [execDrainPlacement, hlow, ne_eq, not_true_eq_false, if_false, hplace]
  rfl

/-! ### The obligation -/

/-- Settles O13: a clause names what its command does (`startFill_eq`, `loadPages_zero`, `slotLost`, `recPlaced`) and reads the tiers off
it; a placement leaves the cabinet by `placeLines_cab`. -/
theorem shelfServesSegments : Obligations.ShelfServesSegments := by
  unfold Obligations.ShelfServesSegments
  refine ⟨fun seg s hnew hroom => ?room, fun seg s hnew hnone => ⟨_, exec_segmentSlotRequest_waits hnew hnone, rfl⟩,
    fun s hlate hnew hroom => ?limit, fun seg page g s hpage hfill hslot hmap => ?page, fun slot s hnew hempty hroom => ?failure,
    fun q r s hlow hseq hplace => ?placement⟩
  case room =>
    obtain ⟨chunks, ops, hstart⟩ := startFill_eq seg (missedChunk seg s) (slotTaken seg s)
    refine ⟨_, exec_segmentSlotRequest_room hnew hroom, ?_⟩
    rw [hstart]
    refine ⟨?_, rfl, by simp, rfl, rfl, rfl, rfl⟩
    simp [mget_mmod_self, slotTaken, addSlot, mget_mput_self, fillingSlot]
  case limit =>
    obtain ⟨data, hexec⟩ := exec_slotWaitLimit_due hlate hnew
    exact ⟨_, hexec, rfl, newestEvent_raise _ _ _ hroom, rfl⟩
  case page =>
    have hseg : segmentOf (seg * 32 + page / 16) = seg := by simp only [segmentOf]; omega
    obtain ⟨hvalid, hcab, hkept, hpu⟩ := endFill_frame seg (modTi (loadPages (seg * 32 + page / 16) [page] ([], [])) s)
    refine ⟨_, exec_pageArrival_fills hpage hfill (chunkFill_zero hmap), ?_, ?_, ?_, hpu⟩
    · have hbit := congrArg (Option.map fun v => v.testBit page) hvalid
      simp only [Option.map_map] at hbit
      refine Eq.trans hbit ?_
      rw [modTi_ti, loadPages_zero (hseg.symm ▸ hslot), hseg, mget_mput_self]
      exact congrArg some (testBit_bitsOn_missing page g.valid)
    · exact hcab.trans (loadPages_cab)
    · rw [hkept, modTi_ti, loadPages_zero (hseg.symm ▸ hslot)]
  case failure =>
    obtain ⟨t, hexec, hlogs⟩ := exec_shelfPageFailure_elsewhere hnew (by decide : 0 < 4) hempty
    refine ⟨t, hexec, ?_, hlogs.recorded (recorded_raise _ _ _ hroom), ?_⟩
    all_goals rw [hlogs.ti]
    · exact mem_setInsert_self ..
    · rfl
  case placement =>
    subst hseq
    obtain ⟨t, ht⟩ := Option.isSome_iff_exists.mp hplace
    have hcab := placeLines_cab ht
    exact ⟨_, exec_drainPlacement_lowest hlow ht, fun x hx => recPlaced_chest hx, recPlaced_copies .., hcab⟩

end Sys2Proof.Machine
end

section
/-! PROOFS. Checkpoints: what starts one, and its end (04_tiers R127 to R129). -/

namespace Sys2Proof.Machine

theorem submitCtl_ti (r : JRec) (s : State) : (submitCtl r s).ti = s.ti := by
  unfold submitCtl
  split <;> rfl

/-- What the start of a checkpoint changes in the tiers (R127, R128): the checkpoint under way, and what it counts from. -/
theorem startCkpt_ti {s : State} (hidle : s.ti.ckpt = none) :
    ∃ c : CkptRun, ∃ rotate, c.number = s.ti.ckptNumber + 1 ∧ (startCkpt s).ti =
      { s.ti with ckpt := some c, dirtyPages := [], rotate := rotate, mapBytes := 0, ckptNumber := c.number, ckptBeat := s.tb.beat } := by
  simp only [startCkpt, hidle, submitCtl_ti]
  exact ⟨_, _, rfl, rfl⟩

/-- Whether a checkpoint is due by itself (R128): by the bytes of MAP records, or by the beats passed with one. -/
def ckptDue (s : State) : Prop :=
  536870912 ≤ s.ti.mapBytes ∨ s.ti.ckptBeat + 67108864 ≤ s.tb.beat ∧ 0 < s.ti.mapBytes

theorem exec_checkpointStart_due {s : State} (hidle : s.ti.ckpt = none) (hdue : ckptDue s) :
    exec .checkpointStart s = .next (startCkpt (modTi (fun t => { t with ckptAgain := false }) s)) := by
  change execCheckpointStart s = _
  unfold ckptDue at hdue
  simp [execCheckpointStart, hidle, hdue]

/-- The state with the root and the START_SEQ of a checkpoint taken over, and the event of its end (R127, step 4). -/
def ckptTaken (c : CkptRun) (s : State) : State :=
  raise 0x0301 .info (le 8 c.number ++ le 8 c.startSeq ++ le 4 c.pages.length ++ le 4 (s.tb.beat - c.beat))
    (modTi (fun t => { t with
      ckpt := none, ckptStart := c.startSeq, ckptMap := patchImage t.ckptMap c.image c.pages, ckptMeta := c.snapshot }) s)

theorem exec_checkpointComplete_last {c : CkptRun} {b : CkptBody} {r : JRec} {s : State} (hrun : s.ti.ckpt = some c)
    (hlast : s.ti.ckptAgain = false) (hr : r ∈ s.pu.chest) (hkind : r.kind = .checkpoint b) (hnumber : b.number = c.number) :
    exec .checkpointComplete s = .next (reclaimAdvance (ckptTaken c s)) := by
  change execCheckpointComplete s = _
  simp only [execCheckpointComplete, hrun]
  refine (if_pos (List.any_eq_true.mpr ⟨r, hr, by simp [hkind, hnumber]⟩)).trans ?_
  exact congrArg Host.Outcome.next (if_neg (by simp [reclaimAdvance, hlast]))

/-- Settles O14: a checkpoint that is due starts with the next number (`startCkpt_ti`), and its end is `ckptTaken`, after which only the
reclaim position moves. -/
theorem checkpointsRunToTheEnd : Obligations.CheckpointsRunToTheEnd := by
  unfold Obligations.CheckpointsRunToTheEnd
  refine ⟨fun s hidle hbytes => ?start, fun c r s hrun hlast hr hkind hroom => ?complete⟩
  case start =>
    obtain ⟨c, rotate, hnumber, hti⟩ := startCkpt_ti (s := modTi (fun t => { t with ckptAgain := false }) s) hidle
    refine ⟨_, exec_checkpointStart_due hidle (.inl hbytes), ?_⟩
    rw [hti]
    exact ⟨congrArg some hnumber, rfl, rfl⟩
  case complete =>
    have hrecorded : recorded 0x0301 (ckptTaken c s) := recorded_raise _ _ _ hroom
    exact ⟨_, exec_checkpointComplete_last hrun hlast hr hkind rfl, rfl, rfl, rfl, hrecorded, rfl⟩

end Sys2Proof.Machine
end

section
/-! PROOFS. The region commands and queries (05_regions R156 to R187, 13_management R496), and the boundary effects on regions (05_regions
R173, R178, R180). -/

namespace Sys2Proof.Machine

/-! ### META changes (R163, R169) -/

/-- A META change waits in the persistence unit with its items and acts, and nothing outside that unit changes. -/
theorem journalMeta_eq (items : List MetaItem) (acts : List MetaAct) (both : Bool) (s : State) :
    ∃ p : Persist, ∃ w : MetaWait, journalMeta items acts both s = { s with pu := p } ∧
      p.metaWaits = s.pu.metaWaits ++ [w] ∧ w.items = items ∧ w.acts = acts := by
  unfold journalMeta submitCtl
  dsimp only
  split <;> exact ⟨_, _, rfl, rfl, rfl, rfl⟩

theorem journalMeta_reg (items : List MetaItem) (acts : List MetaAct) (both : Bool) (s : State) :
    (journalMeta items acts both s).reg = s.reg := by
  obtain ⟨p, w, hjournal, -⟩ := journalMeta_eq items acts both s
  rw [hjournal]

theorem journalMeta_ev (items : List MetaItem) (acts : List MetaAct) (both : Bool) (s : State) :
    (journalMeta items acts both s).ev = s.ev := by
  obtain ⟨p, w, hjournal, -⟩ := journalMeta_eq items acts both s
  rw [hjournal]

/-! ### Commands that the chair serves (R168) -/

theorem onChair_unpaired {path : BcsPath} {opcode : Nat} {input : Bytes} {body : State → State} {s : State} (h : isPaired s = false) :
    onChair path opcode input body s = body s := by simp [onChair, h]

theorem exec_chair_open {c : Instr} {s : State} {path : BcsPath} {opcode : Nat} {input : Bytes} {lenOk : Bool} {body : State → State}
    (hexec : exec c s = .next (bcs path opcode input lenOk (fun s => onChair path opcode input body s) s))
    (hopen : bcsOpen path opcode s = true) (hlen : lenOk = true) (halone : isPaired s = false) : exec c s = .next (body s) := by
  rw [exec_bcs_open hexec hopen hlen, onChair_unpaired halone]

theorem inBackground_free {path : BcsPath} {opcode : Nat} {body : State → State} {s : State} (h : bgFree path opcode s = true) :
    inBackground path opcode body s = body (startBg path opcode s) := if_pos h

theorem startBg_tb (path : BcsPath) (opcode : Nat) (s : State) : (startBg path opcode s).tb = s.tb := by
  unfold startBg
  dsimp only
  split <;> simp [answer]

theorem outOfReach_unpaired (d : Region) {s : State} (h : isPaired s = false) : outOfReach d s = false := by simp [outOfReach, h]

theorem newSeat_unpaired (pref : Nat) {s : State} (h : isPaired s = false) : newSeat pref s = s.ident.controllerId := by
  simp [newSeat, h]

/-- The size in the descriptor plays no part: the extents asked for are an operand. -/
theorem noCapacity_newRegion (a size size' seat id n : Nat) (label : Bytes) (s : State) :
    noCapacity (newRegion a size seat id label) n s = noCapacity (newRegion a size' seat id label) n s := rfl

/-- A shrink or a deletion puts the region in CHANGING, with the next boundary as D, and leaves the extents (R173). -/
theorem startChange_reg (path : BcsPath) (opcode r : Nat) (d : Region) (k : ChangeKind) (s : State) :
    (startChange path opcode r d k s).reg = { s.reg with
      table := mput r { d with state := .changing } s.reg.table
      changes := mput r ⟨k, some path, opcode, s.tb.beat + 1, .waitBoundary⟩ s.reg.changes } := journalMeta_reg ..

theorem startChange_ti (path : BcsPath) (opcode r : Nat) (d : Region) (k : ChangeKind) (s : State) :
    (startChange path opcode r d k s).ti = s.ti := submitCtl_ti ..

/-- What shows that a change has started on a region (R173, step 1), and what it leaves. -/
structure ChangeStarted (path : BcsPath) (opcode r : Nat) (k : ChangeKind) (s t : State) : Prop where
  state : (regionOf r t).map (·.state) = some .changing
  change : mget r t.reg.changes = some ⟨k, some path, opcode, s.tb.beat + 1, .waitBoundary⟩
  extentMap : t.reg.extentMap = s.reg.extentMap
  ti : t.ti = s.ti

theorem changeStarted_startChange (path : BcsPath) (opcode r : Nat) (d : Region) (k : ChangeKind) (s : State) :
    ChangeStarted path opcode r k s (startChange path opcode r d k (startBg path opcode s)) := by
  have hkept := startBg_kept path opcode s
  constructor
  case state => rw [regionOf, startChange_reg, mget_mput_self]; rfl
  case change => rw [startChange_reg, startBg_tb, mget_mput_self]
  case extentMap => rw [startChange_reg, hkept.reg]
  case ti => rw [startChange_ti, hkept.ti]

/-- The META change of a new region (R171) carries its descriptor first, and answers the command last. -/
theorem createEffect_eq (path : BcsPath) (id : Nat) (d : Region) (s : State) :
    ∃ p : Persist, ∃ w : MetaWait, createEffect path id d s = { advance s with pu := p } ∧ p.metaWaits = s.pu.metaWaits ++ [w] ∧
      w.items.head? = some (descItem id d) ∧ w.acts.getLast? = some (.answerSeq path 0xC010) := by
  unfold createEffect
  obtain ⟨p, w, hjournal, hwaits, hitems, hacts⟩ := journalMeta_eq _ _ _ (advance s)
  exact ⟨p, w, hjournal, hwaits, by simp [hitems], by rw [hacts, List.getLast?_append]; rfl⟩

/-- Settles O17: an unpaired controller runs the command's body (`exec_chair_open`); a creation and new attributes wait as a META change
(`journalMeta_eq`), a deletion and a shrink begin at once (`changeStarted_startChange`). -/
theorem regionCommandsTakeTheirCourse : Obligations.RegionCommandsTakeTheirCourse := by
  unfold Obligations.RegionCommandsTakeTheirCourse
  refine ⟨fun path input s hopen hlen halone hid hattr hpref hsize hnew hon hroom hsettee => ?create,
    fun path input s hopen hlen halone hregion hdetached hbureau hidle hfree => ?delete,
    fun path input s hopen hlen halone hregion hzero hsize hless hdetached hkeys hidle hfree => ?shrink,
    fun path input d s hopen hlen halone hd hvalid hshed hro hzero hlabel hmasks => ?attributes,
    fun path input s hopen hlen halone hnone => ?missing⟩
  case create =>
    refine ⟨_, exec_chair_open rfl hopen (by simp [hlen]) halone, ?_⟩
    dsimp only
    rw [checked_ok (firstBad_none (by simp [hid, hattr, hsize, hnew]; omega))]
    have hfits := (noCapacity_newRegion _ (fld 4 4 input) ..).trans hroom
    obtain ⟨p, w, heffect, hwaits, hitem, hanswer⟩ := createEffect_eq path (fld 0 2 input)
      (newRegion (fld 2 1 input) (fld 4 4 input) s.ident.controllerId (fld 0 2 input) (slice 8 16 input)) s
    simp only [hsettee, newSeat_unpaired _ halone, hon, hfits, Bool.false_and, Bool.false_eq_true, if_false, heffect, hwaits]
    exact ⟨rfl, by simp, by simpa using hitem, by simpa using hanswer, rfl, rfl⟩
  case delete =>
    obtain ⟨d, hd⟩ := Option.isSome_iff_exists.mp hregion
    have hstarted := changeStarted_startChange path 0xC011 (fld 0 2 input) d .delete s
    refine ⟨_, ?_, hstarted.state, by rw [hstarted.change]; rfl, hstarted.extentMap, hstarted.ti⟩
    rw [exec_chair_open rfl hopen (by simp [hlen]) halone]
    simp [hd, hdetached, hbureau, outOfReach_unpaired d halone, hidle, inBackground_free hfree]
  case shrink =>
    obtain ⟨d, hd, hfields⟩ := Option.map_eq_some_iff.mp hregion
    obtain ⟨honline, hsettee⟩ := Prod.mk.inj hfields
    have hsmaller : fld 4 4 input < d.size := by simpa [hd] using hless
    have hnotEqual : fld 4 4 input ≠ d.size := by omega
    have hnotLarger : ¬ d.size < fld 4 4 input := by omega
    have hpos : fld 4 4 input ≠ 0 := by omega
    have hstarted := changeStarted_startChange path 0xC012 (fld 0 2 input) d (.shrink (fld 4 4 input)) s
    refine ⟨_, ?_, hstarted.state, by rw [hstarted.change]; rfl, hstarted.ti⟩
    rw [exec_chair_open rfl hopen (by simp [hlen]) halone]
    simp only [hd]
    rw [checked_ok (firstBad_none (by simp [honline, hzero, hpos]))]
    simp [-Nat.reducePow, hidle, hnotEqual, hnotLarger, hdetached, hkeys, outOfReach_unpaired d halone, hpos, hsettee,
      inBackground_free hfree]
  case attributes =>
    refine ⟨_, exec_chair_open rfl hopen (by simp [hlen]) halone, ?_⟩
    simp only [hd]
    rw [checked_ok (firstBad_none (by simp [hvalid, hshed, hro, hzero, hlabel, hmasks, bitOf]))]
    obtain ⟨p, w, hjournal, hwaits, hitems, hacts⟩ := journalMeta_eq [descItem (fld 0 2 input) { d with shed := fld 3 1 input }]
      [.attrs (fld 0 2 input) (some (fld 3 1 input)) none none none, .answer path 0xC015 0 []] true s
    simp [hvalid, bitOf, hjournal, hwaits, hitems, hacts]
  case missing =>
    refine ⟨_, exec_chair_open rfl hopen (by simp [hlen]) halone, ?_⟩
    simp only [hnone]
    exact ⟨bcs_mem_invalid .., by simp⟩

/-! ### Queries -/

/-- Settles O18: a command that is taken up runs its body (`exec_bcs_checked`), which answers and changes no region. -/
theorem regionQueriesAnswer : Obligations.RegionQueriesAnswer := by
  unfold Obligations.RegionQueriesAnswer
  refine ⟨fun path input s hopen hlen hid hplain hzero => ?get, fun path input s hopen hlen => ?list,
    fun path input s hopen hlen hposition => ?capacity⟩
  case get =>
    refine ⟨_, exec_bcs_checked rfl hopen (by simp [hlen]) (by simp [hid, hplain, hzero]), ?_⟩
    cases hd : regionOf (fld 0 2 input) s with
    | none => exact ⟨answered_success .., by simp⟩
    | some d =>
      simp only [hplain, Nat.zero_ne_one, if_false]
      exact ⟨answered_success .., by simp⟩
  case list => exact ⟨_, exec_bcs_open rfl hopen (by simp [hlen]), answered_success .., by simp⟩
  case capacity =>
    refine ⟨_, exec_bcs_open rfl hopen (by simp [hlen]), ?_⟩
    simp only [hposition, if_true]
    exact ⟨answered_success .., by simp [advance]⟩

/-! ### A reason bit takes effect (R180) while the recorder's queue has room for one event only -/

theorem raise_queue_room (code : Nat) (sev : Severity) (data : Bytes) {s : State} (h : s.ev.queue.length < 1024) :
    (raise code sev data s).ev.queue = s.ev.queue ++ [mkEvent code sev 0xFFFF data s] := by simp [setEvt, queueEvent, h]

theorem raise_queue_full (code : Nat) (sev : Severity) (data : Bytes) {s : State} (h : 1024 ≤ s.ev.queue.length) :
    (raise code sev data s).ev.queue = s.ev.queue := by simp [setEvt, queueEvent, Nat.not_lt.mpr h]

/-- The 65th notice of a queue pair is dropped, and the first such drop is an event of its own (R362). -/
theorem notice_dropped_queue {code qid region : Nat} {detail : Bytes} {q : QueuePair} {s : State} (hpairs : s.gqp.pairs = [(qid, q)])
    (hmask : q.noticeMask.getLsbD code = true) (hfull : 64 ≤ q.notices.length) (hreports : s.ev.reports = [])
    (hroom : s.ev.queue.length < 1024) :
    ∃ e : Event, e.code = 0x0806 ∧ (notice code region detail s).ev.queue = s.ev.queue ++ [e] := by
  have hdrop : ¬ q.notices.length < 64 := Nat.not_lt.mpr hfull
  simp only [notice, hpairs, List.filter_cons, hmask, if_true, List.filter_nil, List.foldl_cons, List.foldl_nil, noticeOn,
    List.find?_cons, beq_self_eq_true, hdrop, if_false, raiseLimited, hreports, findReport, List.find?_nil]
  exact ⟨_, rfl, raise_queue_room _ _ _ hroom⟩

/-- The state with a due reason bit taken from those that wait into the region's descriptor. -/
def reasonTaken (r : Nat) (d : Region) (new : BitVec 4) (s : State) : State :=
  modReg (fun g => { g with
    pendingRo := g.pendingRo.filter fun c => !(c.region == r && decide (c.beat ≤ s.tb.beat))
    table := mput r { d with roReasons := new } g.table }) s

/-- The state with the reason bits taken, the notice of it queued and the descriptor journaled. -/
def reasonJournaled (r : Nat) (d : Region) (new : BitVec 4) (s : State) : State :=
  journalMeta [descItem r { d with roReasons := new }] [] true
    (notice 0x0001 r (le 2 new.toNat ++ le 1 (regionStateCode d.state)) (reasonTaken r d new s))

/-- A region that turns read-only by command: the event 0x0404 comes after the notice to the queue pairs. -/
theorem exec_readOnlyTakesEffect_command {r : Nat} {d : Region} {s : State} (hd : regionOf r s = some d)
    (hdue : s.reg.pendingRo = [⟨r, 0, true, s.tb.beat⟩]) (hwritable : d.roReasons = 0) :
    exec (.readOnlyTakesEffect r) s = .next (raise 0x0404 .warning
      (le 2 r ++ le 2 1 ++ le 4 (opMilli (reasonJournaled r d 1 s))) (reasonJournaled r d 1 s)) := by
  have hbit : reasonBit 0 true 0#4 = 1#4 := rfl
  change execReadOnlyTakesEffect r s = _
  simp [execReadOnlyTakesEffect, hd, hdue, hbit, hwritable, reasonJournaled, reasonTaken]

/-- A controller whose recorder's queue has room for one more event, with a queue pair that asks for notices of regions and holds 64 that
are not read, and with the reason bit COMMAND of region 7 due. -/
def crowded : State :=
  { State.reset with
    ev := { queue := List.replicate 1023 { code := 0x0407, severity := .info, beat := 0, tod := 0, hours := 0, cycles := 0, data := [] } }
    gqp := { pairs := [(1, { noticeMask := 2, notices := List.replicate 64 [] })] }
    reg := { table := [(7, {})], pendingRo := [⟨7, 0, true, 0⟩] } }

theorem crowded_queue_length : crowded.ev.queue.length = 1023 := List.length_replicate ..

theorem crowded_eventRoom : eventRoom crowded = true := by
  rw [eventRoom, crowded_queue_length]
  rfl

/-- The dropped notice takes the last room in the recorder's queue, and the event 0x0404 is lost. -/
theorem crowded_loses_event : ∃ t, exec (.readOnlyTakesEffect 7) crowded = .next t ∧ ¬ recorded 0x0404 t := by
  obtain ⟨e, hcode, hqueue⟩ := notice_dropped_queue (code := 1) (region := 7) (detail := le 2 1 ++ le 1 1)
    (s := reasonTaken 7 {} 1 crowded) rfl rfl (List.length_replicate ..).ge rfl (crowded_queue_length.trans_lt (by decide))
  have hlast : (reasonJournaled 7 {} 1 crowded).ev.queue = crowded.ev.queue ++ [e] := by
    rw [reasonJournaled, journalMeta_ev]
    exact hqueue
  refine ⟨_, exec_readOnlyTakesEffect_command (r := 7) (d := {}) (s := crowded) rfl rfl rfl, ?_⟩
  have hfull : 1024 ≤ (reasonJournaled 7 {} 1 crowded).ev.queue.length := by
    rw [hlast, List.length_append, crowded_queue_length, List.length_singleton]
  rw [recorded, raise_queue_full _ _ _ hfull, hlast]
  rintro ⟨x, hx, hx404⟩
  rcases List.mem_append.mp hx with hx | hx
  · have hold : x.code = 0x0407 := congrArg Event.code (List.eq_of_mem_replicate hx)
    omega
  · have hnew : x.code = 0x0806 := (congrArg Event.code (List.mem_singleton.mp hx)).trans hcode
    omega

/-- Refutes O19: room for one event does not suffice for event 0x0404. The notice of the same change goes first, and where a queue pair
drops it (R362), its event 0x0806 takes the room (`crowded_loses_event`). -/
theorem not_regionChangesTakeEffectAtBoundaries : ¬ Obligations.RegionChangesTakeEffectAtBoundaries := by
  unfold Obligations.RegionChangesTakeEffectAtBoundaries
  rintro ⟨-, -, hcommand, -, -⟩
  obtain ⟨t, hexec, -, -, hrecorded, -⟩ := hcommand 7 {} crowded rfl rfl rfl crowded_eventRoom
  obtain ⟨u, hexec', hlost⟩ := crowded_loses_event
  rw [hexec] at hexec'
  cases hexec'
  exact hlost hrecorded

end Sys2Proof.Machine
end

section
/-! PROOFS. The pair's shared rules, each said once (06_pair R195, R210, R217, R226, 05_regions R168, R169, 13_management R489): what an
answer and the end of a command leave of the pair, a message that the link takes, what is released where nothing is held, a planned
move, and the end of a formation. -/

namespace Sys2Proof.Machine

/-! ### Answers and ends of commands -/

/-- An answer changes of the pair the link's queue at most: that of a forwarded command goes there. -/
theorem answerV_pair (path : BcsPath) (opcode rc v : Nat) (out : Bytes) (s : State) :
    ∃ queue, (answerV path opcode rc v out s).pair = { s.pair with link := { s.pair.link with queue := queue } } := by
  cases path with
  | sideband => exact ⟨_, rfl⟩
  | primary l => simp only [answerV]; split <;> exact ⟨_, rfl⟩
  | fm h => simp only [answerV]; split <;> exact ⟨_, rfl⟩
  | admin cid => exact ⟨s.pair.link.queue, by simp [answerV]⟩
  | forwarded m p => exact ⟨_, rfl⟩

/-- A command that does not run in the background is answered at its end (R489). -/
theorem finishBg_answers (path : BcsPath) (opcode rc v : Nat) (out : Bytes) {s : State} (h : s.mc.bg = []) :
    finishBg path opcode rc v out s = answerV path opcode rc v out s := by simp [finishBg, h]

/-- What the end of a command, answered or left for delivery, does not change: of the pair, only the link's queue may differ. -/
structure EndKeeps (s t : State) : Prop where
  pair : ∃ queue, t.pair = { s.pair with link := { s.pair.link with queue := queue } }
  ev : t.ev = s.ev
  reg : t.reg = s.reg
  ti : t.ti = s.ti
  pu : t.pu = s.pu

theorem answerV_endKeeps (path : BcsPath) (opcode rc v : Nat) (out : Bytes) (s : State) :
    EndKeeps s (answerV path opcode rc v out s) :=
  ⟨answerV_pair .., answerV_ev .., answerV_reg .., answerV_ti .., answerV_pu ..⟩

theorem success_endKeeps (path : BcsPath) (opcode : Nat) (out : Bytes) (s : State) : EndKeeps s (success path opcode out s) :=
  answerV_endKeeps ..

theorem finishBg_endKeeps (path : BcsPath) (opcode rc v : Nat) (out : Bytes) (s : State) :
    EndKeeps s (finishBg path opcode rc v out s) := by
  unfold finishBg
  split
  · exact ⟨⟨s.pair.link.queue, rfl⟩, rfl, rfl, rfl, rfl⟩
  · exact answerV_endKeeps ..

/-- The start of a command in the background leaves what its end leaves: a CXL mailbox is answered that it has started (R489). -/
theorem startBg_endKeeps (path : BcsPath) (opcode : Nat) (s : State) : EndKeeps s (startBg path opcode s) := by
  unfold startBg
  dsimp only
  split
  · exact ⟨answerV_pair .., answerV_ev .., answerV_reg .., answerV_ti .., answerV_pu ..⟩
  · exact ⟨⟨s.pair.link.queue, rfl⟩, rfl, rfl, rfl, rfl⟩

section
variable {s t : State} (h : EndKeeps s t)
include h

theorem EndKeeps.record : t.pair.record = s.pair.record := by
  obtain ⟨queue, hpair⟩ := h.pair
  rw [hpair]

theorem EndKeeps.arming : t.pair.arming = s.pair.arming := by
  obtain ⟨queue, hpair⟩ := h.pair
  rw [hpair]

theorem EndKeeps.mirror : t.pair.mirror = s.pair.mirror := by
  obtain ⟨queue, hpair⟩ := h.pair
  rw [hpair]

end

/-! ### Commands of the chair, and messages of the link -/

/-- A command of the chair runs where the chair is, while it acts and does not move (R168). -/
theorem onChair_here (path : BcsPath) (opcode : Nat) (input : Bytes) (body : State → State) {s : State} (hchair : s.pair.chairHere = true)
    (hacts : s.pair.stopped = false) (hmove : s.pair.move = none) : onChair path opcode input body s = body s := by
  simp [onChair, hchair, hacts, hmove]

theorem chairOrForwarded_here (path : BcsPath) (opcode : Nat) (input : Bytes) (body : State → State) {s : State}
    (hchair : s.pair.chairHere = true) (hacts : s.pair.stopped = false) (hmove : s.pair.move = none) :
    chairOrForwarded path opcode input body s = body s := by
  unfold chairOrForwarded
  split
  · rfl
  · exact onChair_here path opcode input body hchair hacts hmove

/-- While the link is in service a message for the partner joins the link's queue. -/
theorem sendMsg_queues (m : MplMsg) {s : State} (hpaired : isPaired s = true) (hup : linkUp s = true) :
    sendMsg m s = modLink (fun l => { l with queue := l.queue ++ [m] }) s := by
  simp [sendMsg, linkOpen, hpaired, hup, modLink, modPair]

/-! ### META changes (05_regions R169): the newest wait is theirs, and nothing outside the persistence unit changes -/

section
variable (items : List MetaItem) (acts : List MetaAct) (both : Bool) (s : State)

theorem journalMeta_newest :
    ∃ w, (journalMeta items acts both s).pu.metaWaits = s.pu.metaWaits ++ [w] ∧ w.items = items ∧ w.acts = acts := by
  obtain ⟨p, w, hjournal, hwaits, hitems, hacts⟩ := journalMeta_eq items acts both s
  exact ⟨w, by rw [hjournal, hwaits], hitems, hacts⟩

theorem journalMeta_items : (journalMeta items acts both s).pu.metaWaits.getLast?.map (·.items) = some items := by
  obtain ⟨w, hwaits, hitems, -⟩ := journalMeta_newest items acts both s
  simp [hwaits, hitems]

theorem journalMeta_head : ((journalMeta items acts both s).pu.metaWaits.getLast?.bind (·.items.head?)) = items.head? := by
  obtain ⟨w, hwaits, hitems, -⟩ := journalMeta_newest items acts both s
  simp [hwaits, hitems]

theorem journalMeta_acts : (journalMeta items acts both s).pu.metaWaits.getLast?.map (·.acts) = some acts := by
  obtain ⟨w, hwaits, -, hacts⟩ := journalMeta_newest items acts both s
  simp [hwaits, hacts]

theorem journalMeta_length : (journalMeta items acts both s).pu.metaWaits.length = s.pu.metaWaits.length + 1 := by
  obtain ⟨w, hwaits, -⟩ := journalMeta_newest items acts both s
  simp [hwaits]

theorem journalMeta_pair : (journalMeta items acts both s).pair = s.pair := by
  obtain ⟨p, w, hjournal, -⟩ := journalMeta_eq items acts both s
  rw [hjournal]

theorem journalMeta_out : (journalMeta items acts both s).out = s.out := by
  obtain ⟨p, w, hjournal, -⟩ := journalMeta_eq items acts both s
  rw [hjournal]

theorem journalMeta_ti : (journalMeta items acts both s).ti = s.ti := by
  obtain ⟨p, w, hjournal, -⟩ := journalMeta_eq items acts both s
  rw [hjournal]

end

/-! ### Nothing held, nothing waiting -/

theorem releaseHeld_nothing {s : State} (h : s.pair.held = []) : releaseHeld s = s := by
  have hsame : modPair (fun p => { p with held := [] }) s = s := by simp only [modPair, ← h]
  simp [releaseHeld, h, hsame]

theorem forwardHeldBcs_nothing {s : State} (h : s.pair.heldBcs = []) : forwardHeldBcs s = s := by
  have hsame : modPair (fun p => { p with heldBcs := [] }) s = s := by simp only [modPair, ← h]
  simp [forwardHeldBcs, h, hsame]

theorem runHeld_nothing {s : State} (h : s.pair.heldBcs = []) : runHeld s = s := by
  have hsame : modPair (fun p => { p with heldBcs := [] }) s = s := by simp only [modPair, ← h]
  simp [runHeld, h, hsame]

theorem nextMove_nothing {s : State} (h : s.pair.moveQueue = []) : nextMove s = s := by simp [nextMove, h]

theorem nextResync_nothing {s : State} (h : s.pair.resyncWaiting = []) : nextResync s = s := by simp [nextResync, h]

/-- The state with a planned move under way: boundary D is the next one (R226, step 1). -/
def moveStarted (m : Move) (s : State) : State := modPair (fun p => { p with move := some { m with boundary := s.tb.beat + 1 } }) s

theorem addMove_starts (m : Move) {s : State} (hmove : s.pair.move = none) (hqueue : s.pair.moveQueue = []) :
    addMove m s = moveStarted m s := by
  simp only [addMove, nextMove, modPair_pair, hmove, hqueue, List.nil_append, Option.isSome_none, Bool.false_eq_true, if_false]
  simp only [moveStarted, modPair, ← hqueue]

/-! ### The end of a formation (R195) -/

/-- A formation has failed: it is gone and event 0x0502 is recorded; the pair record stands. -/
structure FormationEnds (s t : State) : Prop where
  formation : t.pair.formation = none
  recorded : recorded 0x0502 t
  record : t.pair.record = s.pair.record
  reg : t.reg = s.reg
  ti : t.ti = s.ti
  pu : t.pu = s.pu

theorem failFormation_ends (reason rc : Nat) {f : Formation} {s : State} (hf : s.pair.formation = some f) (hroom : eventRoom s = true) :
    FormationEnds s (failFormation reason rc s) := by
  have hnoted : FormationEnds s (raise 0x0502 .error (le 1 reason ++ zeros 1 ++ le 2 f.partnerId) (setFormation none s)) :=
    ⟨rfl, recorded_raise _ _ _ hroom, rfl, rfl, rfl, rfl⟩
  simp only [failFormation, hf]
  generalize raise 0x0502 .error _ (setFormation none s) = u at hnoted
  split
  next => exact hnoted
  next path _ =>
    have hend := finishBg_endKeeps path (if f.role = .survivor then 0xC006 else 0xC000) rc 0xFFFF [] u
    obtain ⟨queue, hpair⟩ := hend.pair
    exact ⟨by rw [hpair]; exact hnoted.formation, recorded_of_queue hnoted.recorded (by rw [hend.ev]), hend.record.trans hnoted.record,
      hend.reg.trans hnoted.reg, hend.ti.trans hnoted.ti, hend.pu.trans hnoted.pu⟩

end Sys2Proof.Machine
end

section
/-! PROOFS. The pair commands at this controller (06_pair R191 to R197, R219, R226, R229, R241, 13_management R491, R495). The bytes of
HELLO are the model's (log entry 71), as are the codes and messages of log entries 74 to 77 and the place of the witness path (85). -/

namespace Sys2Proof.Machine

/-- The state with an arming for the board of an identity hash, which expires 2^30 beats on (R191). -/
def armed (hash : Bytes) (s : State) : State := modPair (fun p => { p with arming := some ⟨hash, s.tb.beat + 2 ^ 30⟩ }) s

theorem exec_armPairJoin {path : BcsPath} {input : Bytes} {s : State} (hopen : bcsOpen path 0xC001 s = true) (hlen : input.length = 32) :
    exec (.armPairJoin path input) s = .next (success path 0xC001 [] (armed input s)) := by
  rw [exec_bcs_open (c := .armPairJoin path input) rfl hopen (by simp [hlen])]
  rfl

theorem pairId_of_unpaired {s : State} (h : isPaired s = false) : s.pair.record.pairId = 0 := by simpa [isPaired] using h

/-- HELLO goes out, and the formation that was commanded stands at its first step (R194, step 1). -/
theorem beginFormation_eq (role : FormRole) (mode : Nat) (hash : Bytes) (place : Nat) (path : BcsPath) (s : State) :
    ∃ f : Formation, beginFormation role mode hash place path s =
        setFormation (some f) (emit (.mplInit (helloBytes 0 mode place (freeBytes 32 s) s)) (advance s)) ∧
      f.role = role ∧ f.step = 1 ∧ f.mode = mode ∧ f.start = s.tb.beat ∧ f.hash = hash :=
  ⟨_, rfl, rfl, rfl, rfl, rfl, rfl⟩

/-- On the sideband the start of a background command changes nothing that HELLO tells. -/
theorem helloBytes_startBg_sideband (opcode found mode place : Nat) (s : State) :
    helloBytes found mode place (freeBytes 32 (startBg .sideband opcode s)) (startBg .sideband opcode s) =
      helloBytes found mode place (freeBytes 32 s) s := by
  unfold helloBytes freeBytes drawn startBg
  rfl

theorem partnerAnswers_late {s : State} (h : s.pair.hEcho.all (fun h => decide (h + 4096 ≤ s.tb.beat)) = true) :
    partnerAnswers s = false := by
  cases he : s.pair.hEcho with
  | none => simp [partnerAnswers, he]
  | some e =>
    rw [he] at h
    have hlate : ¬ s.tb.beat < e + 4096 := by simpa using h
    simp [partnerAnswers, he, hlate]

/-- The witness path that Set Witness Path's input names (R191): port 0xFF names none. -/
def witnessOf (input : Bytes) : Option WitnessPath :=
  if fld 0 1 input = 0xFF then none else some ⟨fld 0 1 input, slice 4 16 input, fld 20 2 input⟩

theorem witnessOf_isSome (input : Bytes) : (witnessOf input).isSome = decide (fld 0 1 input ≠ 0xFF) := by
  unfold witnessOf
  split <;> simp [*]

/-- The controller at the other position is the partner. -/
theorem idAt_other {s : State} (hpaired : isPaired s = true) (hpos : s.pair.position ≤ 1) : idAt (otherPosition s) s = partnerId s := by
  have hother : otherPosition s ≠ s.pair.position := by unfold otherPosition; omega
  simp [idAt, myPosition, hpaired, hother]

theorem currentAt_other {r : Nat} {s : State} (hpaired : isPaired s = true) (hpos : s.pair.position ≤ 1) :
    currentAt (otherPosition s) r s = (otherCopyState r s == .current) := by
  have hother : otherPosition s ≠ s.pair.position := by unfold otherPosition; omega
  simp [currentAt, myPosition, hpaired, hother]

/-! ### The obligation -/

/-- Settles O36: a command that is taken up runs its body, on the chair where the chair is (`onChair_here`); what it journals waits as a
META change (`journalMeta_items`), and a move that is alone starts (`addMove_starts`). -/
theorem pairCommandsAtThisController : Obligations.PairCommandsAtThisController := by
  unfold Obligations.PairCommandsAtThisController
  refine ⟨fun path input s hopen hlen => ?arm, fun a s ha => ?armingExpiry,
    fun path input s hopen hlen ⟨halone, hchair, hempty⟩ => ?status, fun path input s hopen hlen => ?health,
    fun input s hopen ⟨hlen, hmode⟩ ⟨hup, halone, hnone, hbg⟩ => ?form, fun f s hf ⟨hlate, hroom⟩ => ?timeout,
    fun input s hopen ⟨hlen, hpaired, hmode, hup⟩ ⟨hsilent, hnone⟩ => ?replacement,
    fun path input s hopen ⟨hlen, hlow, hhigh⟩ ⟨hchair, hacts, hmove⟩ => ?checks,
    fun path input s hopen ⟨hlen, hport⟩ ⟨hzero, hzero'⟩ => ?witness,
    fun path input s hopen ⟨hlen, hpaired, hchair, hacts, hmove, hqueue, hup⟩ => ?chair,
    fun path input r d s hopen ⟨hlen, hr, htarget, hone⟩ ⟨htable, hmirrored, hseat, hids, hpos, hcurrent⟩
      ⟨hpaired, hchair, hacts, hmove, hqueue⟩ => ?seat,
    fun path input s hopen ⟨hlen, hall, htarget⟩ ⟨hpaired, hchair, hacts, hmove, hempty⟩ => ?noSeat,
    fun path input s hopen ⟨hlen, hforce⟩ ⟨hpaired, hchair, hacts, hmove, hempty, hkeys, hdown⟩ => ?dissolve,
    fun path input r d s hopen ⟨hlen, hr, hown⟩ ⟨hd, hmirrored, hoff⟩ => ?forceSeat⟩
  case arm =>
    have hend := success_endKeeps path 0xC001 [] (armed input s)
    exact ⟨_, exec_armPairJoin hopen hlen, hend.arming, answered_success .., hend.reg, hend.ti, hend.pu, success_cxl ..⟩
  case armingExpiry =>
    have hexec : exec .armingExpiry s =
        .next (if a.expiry ≤ s.tb.beat then modPair (fun p => { p with arming := none }) s else s) := by
      change execArmingExpiry s = _
      simp only [execArmingExpiry, ha]
    refine ⟨_, hexec, ?_⟩
    split <;> simp [ha]
  case status =>
    have hexec : exec (.getPairStatus path input) s = .next (success path 0xC003 (le 8 0 ++ le 1 s.pair.record.mode ++ [0xFF] ++
        le 1 (linkCode s.pair.link.state) ++ [0, 0, 0, 0, 0] ++ le 4 s.pair.chairEpoch ++ le 4 (leaseSetEpoch s)) s) := by
      refine (exec_bcs_open rfl hopen (List.isEmpty_iff_length_eq_zero.mpr hlen)).trans ?_
      have hnone : mirroredRegions s = [] := by simp [mirroredRegions, hempty]
      simp [halone, hchair, hnone, pairId_of_unpaired halone, myPosition, le]
    exact ⟨_, hexec, answered_success .., (success_endKeeps ..).record, (success_endKeeps ..).mirror, success_reg .., success_ti ..,
      success_pu ..⟩
  case health =>
    exact ⟨_, exec_bcs_open rfl hopen (List.isEmpty_iff_length_eq_zero.mpr hlen), answered_success .., (success_endKeeps ..).record,
      (success_endKeeps ..).mirror, success_reg .., success_ti .., success_pu ..⟩
  case form =>
    obtain ⟨f, hbegin, hrole, hstep, hfmode, hstart, hhash⟩ :=
      beginFormation_eq .initiator (fld 32 1 input) (slice 0 32 input) 0 .sideband (startBg .sideband 0xC000 s)
    have hkept := startBg_endKeeps .sideband 0xC000 s
    have hbgs := startBg_bg .sideband 0xC000 s
    rw [hbg, List.nil_append] at hbgs
    rw [helloBytes_startBg_sideband] at hbegin
    rw [startBg_tb] at hstart
    have hexec : exec (.formPair .sideband input) s =
        .next (beginFormation .initiator (fld 32 1 input) (slice 0 32 input) 0 .sideband (startBg .sideband 0xC000 s)) := by
      refine (exec_bcs_checked rfl hopen (by simp [hlen]) (by simp [hmode])).trans ?_
      have hfree : bgFree .sideband 0xC000 s = true := by simp [bgFree, hbg]
      simp [hup, halone, hnone, inBackground_free hfree]
    rw [hbegin] at hexec
    exact ⟨_, hexec, by simp [setFormation, hrole, hstep, hfmode, hstart], congrArg some hhash, rfl, hbgs, hkept.record, hkept.reg,
      hkept.ti, hkept.pu⟩
  case timeout =>
    have hexec : exec .formationTimeout s = .next (failFormation 6 0x0005 s) := by
      change execFormationTimeout s = _
      simp only [execFormationTimeout, hf, hlate, if_true]
    have hends := failFormation_ends 6 0x0005 hf hroom
    exact ⟨_, hexec, hends.formation, hends.recorded, hends.record, hends.reg, hends.ti, hends.pu⟩
  case replacement =>
    obtain ⟨f, hbegin, hrole, hstep, hfmode, -, hhash⟩ :=
      beginFormation_eq .survivor 0 (slice 0 32 input) (otherPosition s + 1) .sideband s
    have hexec : exec (.admitReplacement .sideband input) s =
        .next (beginFormation .survivor 0 (slice 0 32 input) (otherPosition s + 1) .sideband s) := by
      refine (exec_bcs_open rfl hopen (by simp [hlen])).trans ?_
      have hplain : isSettee s = false := by simp [isSettee, hmode]
      simp [hpaired, hplain, partnerAnswers_late hsilent, hup, hnone, hmode]
    rw [hbegin] at hexec
    exact ⟨_, hexec, by simp [setFormation, hrole, hstep, hfmode, hhash, slice], rfl, rfl, rfl, rfl, rfl⟩
  case checks =>
    have hexec : exec (.setStandbyChecks path input) s = .next (journalMeta [pairItem { s.pair.record with checkMode := fld 0 1 input }]
        [.item (pairItem { s.pair.record with checkMode := fld 0 1 input }), .answer path 0xC007 0 []] true s) := by
      refine (exec_bcs_open rfl hopen (by simp [hlen])).trans ?_
      rw [onChair_here path _ _ _ hchair hacts hmove, checked_ok (firstBad_none (by simp [hlow, hhigh]))]
    exact ⟨_, hexec, journalMeta_items .., journalMeta_length .., congrArg Pair.record (journalMeta_pair ..), journalMeta_reg ..,
      journalMeta_ti .., journalMeta_out ..⟩
  case witness =>
    have hexec : ∃ acts, exec (.setWitnessPath path input) s =
        .next (journalMeta [pairItem { s.pair.record with witness := decide (fld 0 1 input ≠ 0xFF) }] acts false
          (modPair (fun p => { p with witness := witnessOf input, witnessBeat := none }) s)) := by
      rw [← witnessOf_isSome]
      have hfields : ∀ f ∈ [(fld 0 1 input == 0xFF || mhas (fld 0 1 input) s.net.ports, 0), (zeroAt 1 3 input, 1),
          (zeroAt 22 2 input, 22)], f.1 = true := by simpa [hzero, hzero'] using hport
      exact ⟨_, (exec_bcs_open rfl hopen (by simp [hlen])).trans
        (congrArg Host.Outcome.next (checked_ok (firstBad_none hfields)))⟩
    obtain ⟨acts, hexec⟩ := hexec
    exact ⟨_, hexec, congrArg Pair.witness (journalMeta_pair ..), journalMeta_items .., journalMeta_reg .., journalMeta_ti ..,
      journalMeta_out ..⟩
  case chair =>
    have hexec : exec (.moveChair path input) s = .next (moveStarted
        { region := 0, target := otherPosition s, boundary := 0, cause := 1, path := some path } s) := by
      refine (exec_bcs_open rfl hopen (List.isEmpty_iff_length_eq_zero.mpr hlen)).trans ?_
      simp [hpaired, onChair_here path 0xC005 input _ hchair hacts hmove, hup, addMove_starts _ hmove hqueue]
    exact ⟨_, hexec, rfl, hchair, rfl, rfl, rfl, rfl⟩
  case seat =>
    have hd : regionOf r s = some d := by simp [regionOf, htable, mget]
    have hnamed : mirroredRegions s = [(r, d)] := by simp [mirroredRegions, htable, hmirrored]
    have hexec : exec (.moveSeat path input) s = .next (moveStarted
        { region := r, target := otherPosition s, boundary := 0, cause := 1, path := some path } s) := by
      refine (exec_bcs_open rfl hopen (by simp [hlen])).trans ?_
      rw [chairOrForwarded_here path _ _ _ hchair hacts hmove]
      have hlow : otherPosition s ≤ 1 := by unfold otherPosition; omega
      simp [hr, htarget, hlen, hone, hnamed, idAt_other hpaired hpos, hseat, hids, checked, firstBad, hpaired, hd, hmirrored, hlow,
        currentAt_other hpaired hpos, hcurrent, seatedHere, addMove_starts _ hmove hqueue]
    exact ⟨_, hexec, rfl, rfl, rfl, rfl, rfl⟩
  case noSeat =>
    have hexec : exec (.moveSeat path input) s = .next (success path 0xC004 (le 2 0) s) := by
      refine (exec_bcs_open rfl hopen (by simp [hlen])).trans ?_
      have hnamed : mirroredRegions s = [] := by simp [mirroredRegions, hempty]
      rw [chairOrForwarded_here path _ _ _ hchair hacts hmove]
      simp [hall, hnamed, checked, firstBad, hpaired, htarget]
    have hend := success_endKeeps path 0xC004 (le 2 0) s
    exact ⟨_, hexec, answered_success .., hend.record, hend.mirror, hend.reg, hend.ti, hend.pu⟩
  case dissolve =>
    have hexec : exec (.dissolvePair path input) s = .next (dissolve path true s) := by
      refine (exec_bcs_checked rfl hopen (by simp [hlen]) (by simp [hforce])).trans ?_
      rw [chairOrForwarded_here path _ _ _ hchair hacts hmove]
      simp [hforce, bitOf, hpaired, mirroredRegions, holdsRegion, hempty, hdown]
    have hall : dissolveItems s = [pairItem { s.pair.record with pairId := 0, retired := setInsert (partnerId s) s.pair.record.retired },
        .keySlot 4096 1 0 0 []] := by
      simp [dissolveItems, hempty, hkeys]
    refine ⟨_, hexec, (journalMeta_items ..).trans (congrArg some hall), journalMeta_pair .., journalMeta_out .., journalMeta_reg ..,
      journalMeta_ti ..⟩
  case forceSeat =>
    refine ⟨_, exec_bcs_checked rfl hopen (by simp [hlen]) (by simp [hr, hd, hmirrored, hoff, hown]), ?_⟩
    simp only [hr, hd]
    refine ⟨?_, journalMeta_pair .., journalMeta_reg .., journalMeta_ti .., journalMeta_out ..⟩
    rw [journalMeta_head]
    rfl

end Sys2Proof.Machine
end

section
/-! PROOFS. The batches of the pairing link as their receiver judges them (06_pair R203 to R208). The bytes of a flit and of a batch's
nonce are the model's (log entries 71, 79 and 80). -/

namespace Sys2Proof.Machine

/-! ### Batches (R203 to R208) -/

/-- A batch with DATA flits is good only with a TAG flit at its end that carries the tag of those flits (R204). -/
theorem batchGood_untagged {key : Bytes} {id number : Nat} {flits : List Bytes}
    (hdata : (flits.any fun f => headerBits 3 0 f == 3) = true)
    (htag : (flits.getLast?.any fun f => headerBits 3 0 f == 4 && slice 8 16 f == gcmTag key (batchNonce id number)
      ((flits.filter fun f => headerBits 3 0 f == 3).flatMap fun f => f.take 8)
      ((flits.filter fun f => headerBits 3 0 f == 3).flatMap fun f => slice 8 240 f)) = false) :
    batchGood key id number flits = false := by
  have hsome : (flits.filter fun f => headerBits 3 0 f == 3).isEmpty = false := by
    obtain ⟨f, hf, hkind⟩ := List.any_eq_true.mp hdata
    exact List.isEmpty_eq_false_iff.mpr (List.ne_nil_of_mem (List.mem_filter.mpr ⟨hf, hkind⟩))
  unfold batchGood
  cases hlast : flits.getLast? with
  | none => simp [hsome]
  | some f =>
    rw [hlast] at htag
    simp only [Option.any_some] at htag
    simp only [hsome, htag, Bool.or_false, Bool.and_false]

theorem exec_batchReceive_bad {flits : List Bytes} {s : State} (hup : linkUp s = true)
    (hbad : batchGood (keyOf (1 - s.pair.position) s.pair.link) (partnerId s) s.pair.link.rxBatch flits = false) :
    exec (.batchReceive s.pair.link.rxBatch flits) s =
      .next (modLink (fun l => { l with queue := { vc := 0, opcode := 0x05, operand := s.pair.link.rxBatch } :: l.queue }) s) := by
  change execBatchReceive s.pair.link.rxBatch flits s = _
  simp [execBatchReceive, hup, hbad]

/-- Settles O55: without its tag a batch that holds a DATA flit is bad (`batchGood_untagged`). -/
theorem noByteBeforeTheTag : Obligations.NoByteBeforeTheTag := by
  unfold Obligations.NoByteBeforeTheTag
  rintro number flits s ⟨hup, rfl⟩ hdata htag
  exact ⟨_, exec_batchReceive_bad hup (batchGood_untagged hdata htag), rfl⟩

theorem batchData_without_data (key : Bytes) (id number : Nat) {flits : List Bytes} (h : ∀ f ∈ flits, headerBits 3 0 f ≠ 3) :
    batchData key id number flits = [] := by
  have hnone : (flits.filter fun f => headerBits 3 0 f == 3) = [] := by simpa using h
  simp [batchData, hnone]

end Sys2Proof.Machine
end

section
/-! PROOFS. The pairing link in service, its lanes and batches, and the messages of a formation (06_pair R193 to R208). The bytes of the
messages and flits are the model's (log entries 71, 79, 80 and 93). -/

namespace Sys2Proof.Machine

theorem OnlyLogs.pair {s t : State} (h : OnlyLogs s t) : t.pair = s.pair := (congrArg State.pair h.rest :)
theorem OnlyLogs.freeCtr {s t : State} (h : OnlyLogs s t) : t.freeCtr = s.freeCtr := (congrArg State.freeCtr h.rest :)

theorem linkUp_of_up8 {s : State} (h : s.pair.link.state = .up8) : linkUp s = true := by simp [linkUp, h]

/-- A new session of the link is in service (R199, R201). -/
theorem linkUp_newSession (mine theirs kpair : Bytes) (position : Nat) (paired : Bool) (s : State) :
    linkUp (modLink (newSession mine theirs kpair position paired) s) = true := by
  simp only [linkUp, modLink, modPair, newSession]
  generalize List.isEmpty _ = fresh
  cases fresh <;> rfl

/-- The link as a session that starts leaves it (R199 to R201). -/
def sessionStarted (nonce : Bytes) (s : State) : State :=
  modLink (newSession (freeBytes 16 s) (padTo 16 nonce) (kPair s) s.pair.position (isPaired s))
    (emit (.mplInit (freeBytes 16 s)) (advance s))

theorem exec_mplLinkInService_starts {nonce : Bytes} {s : State} (hdown : linkUp s = false) (hpower : s.seq.state = .up) :
    ∃ data, exec (.mplLinkInService nonce) s = .next (noteSpare 6 (raise 0x0503 .info data (sessionStarted nonce s))) := by
  exact ⟨_, if_neg (by simp [hdown, hpower])⟩

/-- The link on the half without a failed lane (R200): the upper half is lanes 4 to 7. -/
theorem retrain_oneLane {lane : Nat} {s : State} (hstate : s.pair.link.state = .up8) (hfailed : s.pair.link.failedLanes = [lane]) :
    retrain s = noteSpare 6 (wearLog 0x0008 (le 1 (laneMask s.pair.link)) (raise 0x0505 .warning (le 1 (laneMask s.pair.link))
      (modLink (fun l => { l with state := .up4 (decide (lane < 4)) }) s))) := by
  by_cases hlow : lane < 4
  · have hupper : ¬ 4 ≤ lane := by omega
    simp [retrain, halfGood, hfailed, hstate, hlow, hupper]
  · have hupper : 4 ≤ lane := by omega
    simp [retrain, halfGood, hfailed, hstate, hlow, hupper]

theorem exec_laneFault_lostLock {lane : Nat} {s : State} (hlane : lane < 8) (hup : linkUp s = true) :
    exec (.laneFault lane true) s = .next (retrain (modLink (fun l => { l with
      losSince := mput lane ((mget lane l.losSince).getD s.tb.beat) l.losSince, failedLanes := setInsert lane l.failedLanes }) s)) := by
  have hstays (f : Mpl → Mpl) (hf : (f s.pair.link).state = s.pair.link.state) : linkUp (modLink f s) = true := by
    simpa [linkUp, modLink, modPair, hf] using hup
  change execLaneFault lane true s = _
  simp only [execLaneFault, Nat.not_le.mpr hlane, if_false, if_true, hstays]
  simp
  rfl

/-- The flits of a lane that have failed their check in the last 2^21 beats (R200), by their beats. -/
def recentErrors (lane : Nat) (s : State) : List Nat :=
  (mgetD [] lane s.pair.link.laneErrors).filter fun b => decide (s.tb.beat < b + 2 ^ 21)

theorem exec_laneFault_error {lane : Nat} {s : State} (hlane : lane < 8) (hfew : (recentErrors lane s).length < 16) :
    exec (.laneFault lane false) s =
      .next (modLink (fun l => { l with laneErrors := mput lane (recentErrors lane s ++ [s.tb.beat]) l.laneErrors }) s) := by
  change execLaneFault lane false s = _
  simp only [execLaneFault, Nat.not_le.mpr hlane, if_false]
  refine if_pos (.inr ⟨by decide, ?_⟩)
  change (mgetD [] lane (mput lane (recentErrors lane s ++ [s.tb.beat]) s.pair.link.laneErrors)).length ≤ 16
  rw [mgetD, mget_mput_self, Option.getD_some, List.length_append, List.length_singleton]
  omega

/-! ### Batches without data, repeated batches and retransmission (R205 to R208) -/

theorem exec_batchReceive_idle {flits : List Bytes} {s : State} (hup : linkUp s = true)
    (hgood : batchGood (keyOf (1 - s.pair.position) s.pair.link) (partnerId s) s.pair.link.rxBatch flits = true)
    (hidle : ∀ f ∈ flits, headerBits 3 0 f ≠ 3) :
    ∃ credits owed, exec (.batchReceive s.pair.link.rxBatch flits) s = .next (modLink (fun l => { l with
      rxBatch := s.pair.link.rxBatch + 1, lastGood := some s.pair.link.rxBatch, ackOwed := some s.pair.link.rxBatch, credits := credits
      owed := owed }) s) := by
  have hdata := batchData_without_data (keyOf (1 - s.pair.position) s.pair.link) (partnerId s) s.pair.link.rxBatch hidle
  refine ⟨flits.foldl (fun m f => if headerBits 63 48 f = 0 then m else mmodD 0 (headerBits 41 40 f) (· + headerBits 63 48 f) m)
    s.pair.link.credits, s.pair.link.owed, ?_⟩
  change execBatchReceive s.pair.link.rxBatch flits s = _
  simp [execBatchReceive, hup, hgood, hdata]

theorem exec_batchReceive_repeated {number : Nat} {flits : List Bytes} {s : State} (hup : linkUp s = true)
    (hold : number < s.pair.link.rxBatch) :
    exec (.batchReceive number flits) s = .next (modLink (fun l => { l with ackOwed := l.lastGood }) s) := by
  change execBatchReceive number flits s = _
  simp [execBatchReceive, hup, hold]

theorem exec_batchNak_onlyKept {number : Nat} {b : List Bytes} {s : State} (hup : linkUp s = true)
    (hkept : s.pair.link.kept = [(number, b)])
    (hfirst : s.pair.link.nakCounts = []) (hquiet : s.pair.link.resentBeats = []) :
    exec (.batchNak number) s = .next (modLink (fun l => { l with
      nakCounts := mput number 1 l.nakCounts, resend := [number], resentBeats := [s.tb.beat], resentTotal := l.resentTotal + 1
      resentReported := false }) s) := by
  change execBatchNak number s = _
  simp [execBatchNak, hup, hfirst, hkept, mgetD, mget, mhas, modLink, modPair, countResent, hquiet]

/-! ### The messages of a formation (R193 to R195) -/

/-- The joining side answers HELLO of the board that it is armed for, and takes the position that the message names (R193, R197). -/
theorem exec_hello_joins {message : Bytes} {a : Arming} {s : State} (hlen : message.length = 112) (hkind : fld 0 1 message = 1)
    (hplace : fld 6 1 message = 2) (hnone : s.pair.formation = none) (halone : isPaired s = false) (hempty : s.reg.table = [])
    (harmed : s.pair.arming = some a) (hhash : a.hash = shake256 32 (slice 12 68 message)) (hlive : s.tb.beat < a.expiry)
    (hcode : fld 4 1 message = (if s.ident.h96 then 0 else 1)) (hid : fld 2 2 message ≠ s.ident.controllerId) :
    ∃ f : Formation, exec (.hello message) s = .next (setFormation (some f) (modPair (fun p => { p with arming := none })
        (emit (.mplInit (helloBytes 0 (fld 5 1 message) 0 (freeBytes 32 s) s)) (advance s)))) ∧
      f.role = .joiner ∧ f.step = 2 ∧ f.position = 1 ∧ f.partnerId = fld 2 2 message := by
  have hjoin : exec (.hello message) s = .next (joinHello message s) := by
    change execHello message s = _
    simp [execHello, hkind, hlen, hnone]
  have hfound : b2n (isPaired s) + 2 * b2n (holdsRegion s) + 4 * b2n (!(a.hash == shake256 32 (slice 12 68 message) &&
      decide (s.tb.beat < a.expiry))) = 0 := by
    simp [halone, holdsRegion, hempty, hhash, hlive, b2n]
  rw [hjoin]
  simp only [joinHello, harmed, hfound, hplace, hcode, bne_self_eq_false, Bool.false_or, ne_eq, not_true_eq_false, false_or,
    beq_eq_false_iff_ne.mpr hid, Bool.false_eq_true, if_false]
  exact ⟨_, rfl, rfl, rfl, rfl, rfl⟩

/-- K_pair is agreed and the pair record waits as a META change (R194, step 6). -/
structure FormationJournaled (s t : State) : Prop where
  step : t.pair.formation.map (·.step) = some 6
  waits : t.pu.metaWaits.length = s.pu.metaWaits.length + 1
  out : t.out = s.out
  record : t.pair.record = s.pair.record
  reg : t.reg = s.reg
  ti : t.ti = s.ti

theorem journalFormation_journals (shared : Bytes) {f : Formation} {s : State} (hf : s.pair.formation = some f) :
    FormationJournaled s (journalFormation shared s) := by
  simp only [journalFormation, hf]
  constructor
  case step => rw [journalMeta_pair]; rfl
  case waits => rw [journalMeta_length]; rfl
  case out => rw [journalMeta_out]; rfl
  case record => rw [journalMeta_pair]; rfl
  case reg => rw [journalMeta_reg]; rfl
  case ti => rw [journalMeta_ti]; rfl

/-- Position 1's next message is the encapsulation key, position 0's the ciphertext: with a signature that fails the formation ends. -/
theorem exec_encapsulationKey_bad {message : Bytes} {f : Formation} {s : State} (hf : s.pair.formation = some f) (hpos : f.position = 1)
    (hstep : f.step = 2) (hkind : fld 0 1 message = 2)
    (hbad : Config.verify f.partnerKey (transcriptHash f) (splitSigned message).2 = false) :
    exec (.encapsulationKey message) s = .next (failFormation 4 0x0002 s) := by
  change execEncapsulationKey message s = _
  simp [execEncapsulationKey, hf, hpos, hstep, hkind, hbad]

theorem exec_kemCiphertext_bad {message : Bytes} {f : Formation} {s : State} (hf : s.pair.formation = some f) (hpos : f.position = 0)
    (hstep : f.step = 3) (hkind : fld 0 1 message = 3)
    (hbad : Config.verify f.partnerKey (transcriptHash f) (splitSigned message).2 = false) :
    exec (.kemCiphertext message) s = .next (failFormation 4 0x0002 s) := by
  change execKemCiphertext message s = _
  simp [execKemCiphertext, hf, hpos, hstep, hkind, hbad]

theorem exec_kemCiphertext_good {message : Bytes} {f : Formation} {s : State} (hf : s.pair.formation = some f) (hpos : f.position = 0)
    (hstep : f.step = 3) (hkind : fld 0 1 message = 3)
    (hgood : Config.verify f.partnerKey (transcriptHash f) (splitSigned message).2 = true) :
    exec (.kemCiphertext message) s = .next (journalFormation (Config.kemDecaps f.kemSecret (splitSigned message).1)
      (setFormation (some { f with step := 5, transcript := f.transcript ++ message }) s)) := by
  change execKemCiphertext message s = _
  simp [execKemCiphertext, hf, hpos, hstep, hkind, hgood]

/-- A formation message is signed and goes out while the key unit can sign (14_trust R519, R520); its step stands. -/
theorem signAndSend_signs (body : Bytes) {f : Formation} {s : State} (hf : s.pair.formation = some f) (hsign : canSign s = true) :
    ∃ m, signAndSend body s =
      setFormation (some { f with transcript := f.transcript ++ m }) (emit (.mplInit m) (useIndex s)) := by
  simp only [signAndSend, hf, hsign, if_true, sendFormation]
  exact ⟨_, rfl⟩

/-- With a good signature position 1 answers, and goes on to the pair record while the key unit can sign or nothing waits for it. -/
theorem exec_encapsulationKey_good {message : Bytes} {f : Formation} {s : State} (hf : s.pair.formation = some f)
    (hpos : f.position = 1) (hstep : f.step = 2) (hkind : fld 0 1 message = 2)
    (hgood : Config.verify f.partnerKey (transcriptHash f) (splitSigned message).2 = true) (hsign : canSign s = true) :
    ∃ shared u, exec (.encapsulationKey message) s =
        .next (if canSign (useIndex s) || s.trust.signer.waiting.isEmpty then journalFormation shared u else u) ∧
      u.pair.formation.map (·.step) = some 4 := by
  have hexec : exec (.encapsulationKey message) s = execEncapsulationKey message s := rfl
  simp only [execEncapsulationKey, hf, hkind, hpos, hstep, hgood, ne_eq, not_true_eq_false, or_self, Bool.not_true,
    Bool.false_eq_true, if_false] at hexec
  rw [hexec]
  obtain ⟨m, hsent⟩ := signAndSend_signs (le 4 3 ++ le 4 (Config.kemEncaps (splitSigned message).1 (freeBytes 32 s)).1.length ++
    (Config.kemEncaps (splitSigned message).1 (freeBytes 32 s)).1) (s := advance (setFormation (some { f with
      step := 4, transcript := f.transcript ++ message
      kemSecret := (Config.kemEncaps (splitSigned message).1 (freeBytes 32 s)).2, position := 1 }) s)) rfl hsign
  rw [hsent]
  exact ⟨_, _, rfl, rfl⟩

/-- A signature that uses up the last index of the reserved windows ends the time in which the key unit can sign (14_trust R519). -/
theorem canSign_useIndex_last {s : State} (hlast : s.trust.signer.reserved ≤ (s.trust.signer.next + 1) / 4096) :
    canSign (useIndex s) = false := by
  have hspent : ¬ (s.trust.signer.next + 1) / 4096 < s.trust.signer.reserved := Nat.not_lt.mpr hlast
  simp [canSign, useIndex, modSigner, modTrust, hspent]

/-! ### What O37 turns on -/

/-- A formation whose next message is the encapsulation key, on the side that is to verify it. -/
def awaitsKey (key transcript : Bytes) : Formation :=
  { role := .joiner, step := 2, mode := 0, start := 0, hash := [], path := none, transcript := transcript, partnerKey := key
    position := 1 }

/-- A key unit with one index left in its reserved windows, for which another message waits too. -/
def lastIndex (key transcript : Bytes) : State :=
  { State.reset with
    trust := { signer := { ready := true, next := 4095, reserved := 1, waiting := [.formation []] } }
    pair := { formation := some (awaitsKey key transcript) } }

/-- An encapsulation key of no bytes, with a signature. -/
def signedKey (signature : Bytes) : Bytes := [2, 0, 0, 0, 0, 0, 0, 0] ++ signature

/-- Where some signature verifies, O37 fails: a good encapsulation key that finds the key unit at its last index leaves the formation
at its fourth step (`exec_encapsulationKey_good`), where O37 has the sixth. -/
theorem not_linkSessionsBatchesAndFormation_of_verifies {key transcript signature : Bytes}
    (hgood : Config.verify key (shake256 32 transcript) signature = true) : ¬ Obligations.LinkSessionsBatchesAndFormation := by
  unfold Obligations.LinkSessionsBatchesAndFormation
  rintro ⟨-, -, -, -, -, -, -, -, hkey, -⟩
  have hsign : canSign (lastIndex key transcript) = true := by simp [canSign, lastIndex]
  obtain ⟨t, hexec, -, hjournaled, -⟩ := hkey (signedKey signature) (awaitsKey key transcript) (lastIndex key transcript)
    ⟨rfl, rfl, rfl, rfl, rfl⟩ hsign
  obtain ⟨shared, u, hexec', hstep⟩ := exec_encapsulationKey_good (message := signedKey signature) (f := awaitsKey key transcript)
    (s := lastIndex key transcript) rfl rfl rfl rfl hgood hsign
  have hstuck : canSign (useIndex (lastIndex key transcript)) = false := canSign_useIndex_last (by simp [lastIndex])
  rw [hstuck, Bool.false_or, if_neg (by simp [lastIndex]), hexec] at hexec'
  cases hexec'
  have hsix := (hjournaled hgood).1
  rw [hstep] at hsix
  cases hsix

/-- Without a signature that verifies, the clauses hold: the one that fails otherwise is never entered. -/
theorem linkSessionsBatchesAndFormation_of_never_verifies
    (hnever : ∀ key transcript signature, Config.verify key (shake256 32 transcript) signature = false) :
    Obligations.LinkSessionsBatchesAndFormation := by
  unfold Obligations.LinkSessionsBatchesAndFormation
  refine ⟨fun nonce s ⟨hdown, hpower, hroom⟩ => ?session, fun lane s ⟨hlane, hstate, hgood, hroom⟩ => ?lane,
    fun lane s ⟨hlane, hfew⟩ => ⟨_, exec_laneFault_error hlane hfew, rfl⟩,
    fun number flits s ⟨hup, hnext⟩ hgood hidle => ?batch, fun number flits s ⟨hup, hold⟩ => ⟨_, exec_batchReceive_repeated hup hold, rfl⟩,
    fun number s => ?ack, fun number b s ⟨hup, hkept, hfirst, hquiet⟩ => ?nak,
    fun message a s ⟨hlen, hkind, hplace⟩ ⟨hnone, halone, hempty, harmed⟩ ⟨hhash, hlive⟩ ⟨hcode, hid⟩ => ?hello,
    fun message f s ⟨hf, hpos, hstep, hkind, hroom⟩ hsign => ?key, fun message f s ⟨hf, hpos, hstep, hkind, hroom⟩ => ?ciphertext⟩
  case session =>
    obtain ⟨data, hexec⟩ := exec_mplLinkInService_starts (nonce := nonce) hdown hpower
    have hrecorded : recorded 0x0503 (raise 0x0503 .info data (sessionStarted nonce s)) := recorded_raise _ _ _ hroom
    have hspare := noteSpare_onlyLogs 6 (raise 0x0503 .info data (sessionStarted nonce s))
    have hpair := hspare.pair
    have hup : linkUp (sessionStarted nonce s) = true := linkUp_newSession ..
    refine ⟨_, hexec, ?_, ?_, ?_, ?_, ?_, hspare.out, hspare.freeCtr, hspare.recorded hrecorded, ?_, hspare.reg, hspare.ti, hspare.pu⟩
    · simp only [linkUp, hpair]
      exact hup
    all_goals rw [hpair]; rfl
  case lane =>
    let t := modLink (fun l => { l with
      losSince := mput lane ((mget lane l.losSince).getD s.tb.beat) l.losSince, failedLanes := setInsert lane l.failedLanes }) s
    have hfailed : t.pair.link.failedLanes = [lane] := by simp [t, modLink, modPair, hgood, setInsert]
    have hexec := exec_laneFault_lostLock hlane (linkUp_of_up8 hstate)
    rw [retrain_oneLane (s := t) hstate hfailed] at hexec
    let half := modLink (fun l => { l with state := .up4 (decide (lane < 4)) }) t
    have hraise : OnlyLogs half (raise 0x0505 .warning (le 1 (laneMask t.pair.link)) half) := raise_onlyLogs ..
    have hwear := (wearLog_onlyLogs 0x0008 (le 1 (laneMask t.pair.link)) (raise 0x0505 .warning (le 1 (laneMask t.pair.link)) half)).trans
      (noteSpare_onlyLogs 6 _)
    have hlogs := hraise.trans hwear
    have hrecorded : recorded 0x0505 (raise 0x0505 .warning (le 1 (laneMask t.pair.link)) half) := recorded_raise _ _ _ hroom
    refine ⟨_, hexec, ?_, ?_, hwear.recorded hrecorded, ?_, hlogs.out, hlogs.reg, hlogs.ti, hlogs.pu⟩
    · rw [hlogs.pair]
      rfl
    · rw [hlogs.pair]
      exact hfailed
    · rw [hlogs.pair]
      rfl
  case batch =>
    subst hnext
    obtain ⟨credits, owed, hexec⟩ := exec_batchReceive_idle hup hgood hidle
    exact ⟨_, hexec, rfl, rfl, rfl, rfl, rfl, rfl, rfl, rfl, rfl⟩
  case ack =>
    refine ⟨_, rfl, fun e he => ?_, fun e he hlater => ?_, rfl, rfl, rfl, rfl, rfl⟩
    · simpa [modLink, modPair] using he
    · simpa [modLink, modPair] using ⟨he, hlater⟩
  case nak =>
    refine ⟨_, exec_batchNak_onlyKept hup hkept hfirst hquiet, rfl, rfl, rfl, ?_, rfl, rfl, rfl, rfl⟩
    exact hup
  case hello =>
    obtain ⟨f, hexec, hrole, hstep, hpos, hpartner⟩ := exec_hello_joins hlen hkind hplace hnone halone hempty harmed hhash hlive hcode hid
    refine ⟨_, hexec, ?_, rfl, rfl, rfl, rfl, rfl, rfl, rfl⟩
    exact congrArg some (by simp only [hrole, hstep, hpos, hpartner])
  case key =>
    have hbad := hnever f.partnerKey f.transcript (splitSigned message).2
    have hend := failFormation_ends 4 0x0002 hf hroom
    exact ⟨_, exec_encapsulationKey_bad hf hpos hstep hkind hbad, fun _ => ⟨hend.formation, hend.recorded, hend.pu⟩,
      fun hgood => absurd (hbad.symm.trans hgood) Bool.false_ne_true, hend.record, hend.reg, hend.ti⟩
  case ciphertext =>
    cases hverify : Config.verify f.partnerKey (transcriptHash f) (splitSigned message).2 with
    | false =>
      have hend := failFormation_ends 4 0x0002 hf hroom
      exact ⟨_, exec_kemCiphertext_bad hf hpos hstep hkind hverify, fun _ => ⟨hend.formation, hend.recorded, hend.pu⟩,
        fun hgood => absurd hgood Bool.false_ne_true, hend.record, hend.reg, hend.ti⟩
    | true =>
      have hend := journalFormation_journals (Config.kemDecaps f.kemSecret (splitSigned message).1)
        (s := setFormation (some { f with step := 5, transcript := f.transcript ++ message }) s) rfl
      exact ⟨_, exec_kemCiphertext_good hf hpos hstep hkind hverify, fun hbad => absurd hbad.symm Bool.false_ne_true,
        fun _ => ⟨hend.step, hend.waits, hend.out⟩, hend.record, hend.reg, hend.ti⟩

/-- O37 stands or falls with the signature check, an opaque function of the configuration: both its truth and its failure go beyond what
the model fixes. -/
theorem linkSessionsBatchesAndFormation_iff : Obligations.LinkSessionsBatchesAndFormation ↔
    ∀ key transcript signature, Config.verify key (shake256 32 transcript) signature = false :=
  ⟨fun h _ _ _ => Bool.eq_false_iff.mpr fun hgood => not_linkSessionsBatchesAndFormation_of_verifies hgood h,
    linkSessionsBatchesAndFormation_of_never_verifies⟩

end Sys2Proof.Machine
end

section
/-! PROOFS. Heartbeats, the lease, switch-over, moves, role swaps and standby checks (06_pair R216 to R232, 05_regions R168). What the
messages of the lease and the witness datagram hold, and when a wait is over, is the model's choice (log entries 86, 87, 176, 177). -/

namespace Sys2Proof.Machine

/-! ### Heartbeats, the lease and the witness path -/

/-- Nothing waits for a chair or a seat to settle. -/
theorem release_nothing {s : State} (hheld : s.pair.held = []) (hbcs : s.pair.heldBcs = []) : runHeld (releaseHeld s) = s := by
  rw [releaseHeld_nothing hheld, runHeld_nothing hbcs]

theorem exec_heartbeat_echoes {h ce le : Nat} {s : State} (hpaired : isPaired s = true) (hup : linkUp s = true)
    (hnone : s.pair.takeover = false) (hnone' : s.pair.takeoverDone = false) :
    exec (.heartbeat h ce le) s = .next (modLink (fun l => { l with queue := l.queue ++ [msgEcho h] })
      (modPair (fun p => { p with heard := some s.tb.beat, partnerLost := false }) s)) := by
  let t := modPair (fun p => { p with heard := some s.tb.beat, partnerLost := false }) s
  rw [← sendMsg_queues (msgEcho h) (s := t) hpaired hup]
  change execHeartbeat h ce le s = _
  simp [execHeartbeat, hpaired, hnone, hnone', t]

theorem exec_heartbeat_taken {h ce le : Nat} {s : State} (hpaired : isPaired s = true) (hup : linkUp s = true)
    (htaken : s.pair.takeover = true) : exec (.heartbeat h ce le) s =
      .next (modLink (fun l => { l with queue := l.queue ++ [msgTaken s.pair.chairEpoch] }) s) := by
  rw [← sendMsg_queues _ hpaired hup]
  change execHeartbeat h ce le s = _
  simp [execHeartbeat, hpaired, htaken]

/-- The lease set with an echo of the heartbeat of a beat (R217). -/
def leaseExtended (h : Nat) (s : State) : State :=
  modPair (fun p => { p with hEcho := some h, stopped := p.stopped && decide (h + 3584 ≤ s.tb.beat) }) s

theorem exec_heartbeatEcho_extends {h : Nat} {s : State} (hpaired : isPaired s = true)
    (hnewer : s.pair.hEcho.all (fun e => decide (e < h)) = true) (hpast : h ≤ s.tb.beat) (hheld : s.pair.held = [])
    (hbcs : s.pair.heldBcs = []) : exec (.heartbeatEcho h) s = .next (leaseExtended h s) := by
  have hnotBefore : decide (s.tb.beat < h) = false := by simpa using hpast
  have hexec : exec (.heartbeatEcho h) s = .next (if s.pair.stopped && !decide (h + 3584 ≤ s.tb.beat)
      then runHeld (releaseHeld (leaseExtended h s)) else leaseExtended h s) := by
    change execHeartbeatEcho h s = _
    cases he : s.pair.hEcho with
    | none =>
      simp only [execHeartbeatEcho, hpaired, he, hnotBefore, Bool.not_true, Bool.or_self, Bool.false_eq_true, if_false]
      rfl
    | some e =>
      have holder : decide (e < h) = true := by simpa [he] using hnewer
      simp only [execHeartbeatEcho, hpaired, he, holder, hnotBefore, Bool.not_true, Bool.or_self, Bool.false_eq_true, if_false]
      rfl
  rw [hexec, release_nothing (s := leaseExtended h s) hheld hbcs, ite_self]

theorem exec_leaseStopPoint_stops {h : Nat} {s : State} (hecho : s.pair.hEcho = some h) (hpaired : isPaired s = true)
    (hlate : h + 3584 ≤ s.tb.beat) (hacts : s.pair.stopped = false) (hnone : s.pair.takeover = false) (hnone' : s.pair.takeoverDone = false)
    (hstays : (linkUp s || s.pair.chairHere) = true) :
    exec (.leaseStopPoint) s = .next (modPair (fun p => { p with stopped := true }) s) := by
  let t := modPair (fun p => { p with stopped := true }) s
  have hnotBefore : decide (s.tb.beat < h + 3584) = false := by simpa using hlate
  have hexec : exec (.leaseStopPoint) s = .next (if !linkUp t && !t.pair.chairHere && partnerAlive t then yieldSplit t else t) := by
    change execLeaseStopPoint s = _
    simp only [execLeaseStopPoint, hecho, hpaired, hacts, hnone, hnone', hnotBefore, Bool.not_true, Bool.or_self, Bool.false_eq_true,
      if_false]
    rfl
  have hwhole : (!linkUp t && !t.pair.chairHere) = false := by
    rw [← Bool.not_or]
    exact congrArg Bool.not hstays
  rw [hexec, hwhole, Bool.false_and, if_neg Bool.false_ne_true]

/-- A good witness datagram, 48 bytes and their tag, shows that the partner is alive (R219). -/
theorem exec_witnessHeartbeat_good {head tag : Bytes} {w : WitnessPath} {s : State} (hw : s.pair.witness = some w)
    (hpaired : isPaired s = true) (hhead : head.length = 48) (hpair : fld 0 8 head = s.pair.record.pairId)
    (hid : fld 8 2 head = partnerId s) (htag : tag.length = 16)
    (hgood : gcmTag (shake256 32 (kPair s ++ ascii "WIT")) (be 4 (fld 8 2 head) ++ be 8 (fld 12 8 head)) head [] = tag) :
    exec (.witnessHeartbeat w.port (head ++ tag)) s = .next (modPair (fun p => { p with witnessBeat := some s.tb.beat }) s) := by
  have hfield (off n : Nat) (h : off + n ≤ 48) : fld off n (head ++ tag) = fld off n head := by
    have hoff : off ≤ head.length := by omega
    have hn : n ≤ (head.drop off).length := by rw [List.length_drop]; omega
    simp only [fld, slice, List.drop_append_of_le_length hoff, List.take_append_of_le_length hn]
  change execWitnessHeartbeat w.port (head ++ tag) s = _
  have htake : (head ++ tag).take 48 = head := by rw [← hhead, List.take_left]
  have hdrop : (head ++ tag).drop 48 = tag := by rw [← hhead, List.drop_left]
  simp only [execWitnessHeartbeat, hw, htake, hdrop, hfield 0 8 (by omega), hfield 8 2 (by omega), hfield 12 8 (by omega),
    hpaired, hpair, hid, List.length_append, hhead, htag]
  simp [hid ▸ hgood]

/-! ### TAKEN (R217) -/

section
variable (r : Nat) (s : State)

theorem becomeStale_pair : (becomeStale r s).pair = { s.pair with
    mirror := mput r (newCopyState .stale (ownCopy r s).gen (ownCopy r s).mark (mget r s.pair.mirror)) s.pair.mirror } := by
  rw [becomeStale, journalMeta_pair]
  refine (raise_onlyLogs ..).pair.trans ?_
  simp [ownStateItem, applyItem, MirrorSt.code, mirrorOf, modRegion]

theorem becomeStale_reg : (becomeStale r s).reg = (modRegion r (fun d => { d with
    mirrorGen := (ownCopy r s).gen, roReasons := reasonBit 3 true d.roReasons }) s).reg := by
  rw [becomeStale, journalMeta_reg]
  refine (raise_onlyLogs ..).reg.trans ?_
  simp [ownStateItem, applyItem, MirrorSt.code, mirrorOf, modRegion]

theorem becomeStale_out : (becomeStale r s).out = s.out := by
  rw [becomeStale, journalMeta_out]
  refine (raise_onlyLogs ..).out.trans ?_
  simp [ownStateItem, applyItem, modRegion]

theorem ownCopy_becomeStale : (ownCopy r (becomeStale r s)).state = .stale := by
  simp only [ownCopy, becomeStale_pair, mgetD, mget_mput_self, Option.getD_some]
  unfold newCopyState
  split <;> simp

end

/-- The holder has yielded the chair, and acts no more than the partner lets it (R217). -/
def chairYielded (epoch : Nat) (s : State) : State :=
  modPair (fun p => { p with chairHere := false, chairEpoch := epoch, stopped := false }) s

theorem chairYielded_releases (epoch : Nat) {s : State} (hheld : s.pair.held = []) (hbcs : s.pair.heldBcs = []) :
    forwardHeldBcs (releaseHeld (chairYielded epoch s)) = chairYielded epoch s := by
  rw [releaseHeld_nothing (s := chairYielded epoch s) hheld, forwardHeldBcs_nothing (s := chairYielded epoch s) hbcs]

/-- A region that is seated here becomes the partner's, its copy STALE. -/
def yieldRegion (r : Nat) (s : State) : State := modRegion r (fun d => { d with seat := partnerId s }) (becomeStale r s)

theorem ownCopy_chairYielded (r epoch : Nat) (s : State) : ownCopy r (chairYielded epoch s) = ownCopy r s := rfl
theorem regionOf_chairYielded (r epoch : Nat) (s : State) : regionOf r (chairYielded epoch s) = regionOf r s := rfl
theorem chairYielded_out (epoch : Nat) (s : State) : (chairYielded epoch s).out = s.out := rfl

theorem ownCopy_modRegion (q r : Nat) (f : Region → Region) (s : State) : ownCopy q (modRegion r f s) = ownCopy q s := rfl
theorem modRegion_out (r : Nat) (f : Region → Region) (s : State) : (modRegion r f s).out = s.out := rfl

theorem ownCopy_yieldRegion (r : Nat) (s : State) : (ownCopy r (yieldRegion r s)).state = .stale := by
  rw [yieldRegion, ownCopy_modRegion, ownCopy_becomeStale]

theorem yieldRegion_out (r : Nat) (s : State) : (yieldRegion r s).out = s.out := by rw [yieldRegion, modRegion_out, becomeStale_out]

theorem yieldAll_onlyRegion {r epoch : Nat} {d : Region} {s : State} (htable : s.reg.table = [(r, d)]) (hmirrored : d.mirrored = true)
    (hseat : d.seat = s.ident.controllerId) (hunits : s.pu.units = []) (hheld : s.pair.held = []) (hbcs : s.pair.heldBcs = []) :
    yieldAll epoch s = chairYielded epoch (yieldRegion r s) := by
  have hnone : unitsOfRegion r s = [] := by simp [unitsOfRegion, hunits]
  have hyield : yieldAll epoch s = forwardHeldBcs (releaseHeld (chairYielded epoch (yieldRegion r s))) := by
    simp [yieldAll, mirroredRegions, seatedHere, htable, hmirrored, hseat, hnone, yieldRegion, chairYielded]
  rw [hyield]
  exact chairYielded_releases epoch (by simpa [yieldRegion, modRegion, becomeStale_pair] using hheld)
    (by simpa [yieldRegion, modRegion, becomeStale_pair] using hbcs)

theorem exec_taken_yields {r epoch : Nat} {d : Region} {s : State} (hpaired : isPaired s = true) (htable : s.reg.table = [(r, d)])
    (hmirrored : d.mirrored = true) (hseat : d.seat = s.ident.controllerId) (hunits : s.pu.units = []) (hheld : s.pair.held = [])
    (hbcs : s.pair.heldBcs = []) : exec (.taken epoch) s = .next (chairYielded epoch (yieldRegion r s)) := by
  rw [← yieldAll_onlyRegion htable hmirrored hseat hunits hheld hbcs]
  exact congrArg Host.Outcome.next (if_pos hpaired)

theorem regionOf_yieldRegion (r : Nat) (s : State) :
    (regionOf r (yieldRegion r s)).map (·.seat) = (regionOf r s).map fun _ => partnerId s := by
  simp [regionOf, yieldRegion, modRegion, becomeStale_reg, mget_mmod_self, Function.comp_def]

/-! ### Takeover and the end of a switch-over (R221 to R225, 05_regions R168) -/

theorem sealUnknown_noUnits {s : State} (h : s.pu.units = []) : sealUnknown s = modPair (fun p => { p with seals := [] }) s := by
  simp [sealUnknown, h]

/-- The state of a takeover whose items are not journaled yet (R221, steps 1 and 2), with no accepted copy to seal. -/
def takingOver (s : State) : State := modPair (fun p => { p with
  takeover := true, takeoverDone := false, swapSuspended := true, moveSinceSwitch := false, partnerLost := true, seals := []
  taken := ((mirroredRegions s).filter fun e => !seatedHere e.2 s).length }) s

theorem startTakeover_dead {s : State} (hunits : s.pu.units = []) :
    startTakeover 0 s = journalMeta (takeoverItems s) ((takeoverItems s).map MetaAct.item ++ [.takeover]) false (takingOver s) := by
  unfold startTakeover
  rw [sealUnknown_noUnits (by simpa using hunits)]
  rfl

theorem exec_takeoverDeadline_dead {r : Nat} {s : State} (hheard : s.pair.heard = some r) (hpaired : isPaired s = true)
    (hdown : linkUp s = false) (hlate : r + 4608 ≤ s.tb.beat) (hnone : s.pair.takeover = false) (hnone' : s.pair.takeoverDone = false)
    (hdead : partnerAlive s = false) : exec (.takeoverDeadline) s = .next (startTakeover 0 s) := by
  change execTakeoverDeadline s = _
  simp [execTakeoverDeadline, hheard, hpaired, hdown, hnone, hnone', hdead, hlate]

/-- The switch-over is over, and the single regions of the partner are unavailable (R224). -/
def switchedOver (s : State) : State := modPair (fun p => { p with takeover := false, unavailable := partnerSingles s }) s

/-- Event 0x050B for a copy that is SOLE now (R246). -/
def reportSole (s : State) (e : Nat × Region) : State := raise 0x050B .warning (mirrorEvent e.1 .sole (ownCopy e.1 s).gen) s

/-- The end of a switch-over with its reports: event 0x0507, and 0x050B for each mirrored region. -/
def switchReported (data : Bytes) (s : State) : State :=
  (mirroredRegions s).foldl reportSole (raise 0x0507 .warning data (switchedOver s))

theorem switchReported_onlyLogs (data : Bytes) (s : State) : OnlyLogs (switchedOver s) (switchReported data s) :=
  (raise_onlyLogs ..).trans (foldl_onlyLogs (fun _ _ => raise_onlyLogs ..) ..)

theorem switchReported_recorded (data : Bytes) {s : State} (hroom : eventRoom s = true) : recorded 0x0507 (switchReported data s) :=
  (foldl_onlyLogs (f := reportSole) (fun _ _ => raise_onlyLogs ..) ..).recorded (recorded_raise _ _ _ hroom)

theorem exec_switchOverComplete_alive {s : State} (htaken : s.pair.takeover = true) (hdone : s.pair.takeoverDone = true)
    (halive : s.pair.partnerLost = false) (hheld : s.pair.held = []) (hbcs : s.pair.heldBcs = []) :
    ∃ data, exec (.switchOverComplete) s = .next (switchReported data s) := by
  refine ⟨le 2 (partnerId s) ++ le 4 (s.tb.beat - s.pair.heard.getD 0) ++ le 4 s.pair.taken ++ le 1 1, ?_⟩
  rw [← release_nothing (s := switchReported _ s) (by rw [(switchReported_onlyLogs ..).pair]; exact hheld)
    (by rw [(switchReported_onlyLogs ..).pair]; exact hbcs)]
  change execSwitchOverComplete s = _
  simp only [execSwitchOverComplete, htaken, hdone, halive, Bool.and_self, Bool.not_true, Bool.false_eq_true, if_false]
  rfl

theorem exec_switchOverBound_fails {h : HeldBcs} {s : State} (hpaired : isPaired s = true) (hchair : s.pair.chairHere = false)
    (hdown : linkUp s = false) (hbound : chairBoundPassed s = true) (hserving : s.mc.serving = true) (hone : s.pair.heldBcs = [h]) :
    exec (.switchOverBound) s = .next (answer h.path h.opcode 0x0005 [] (modPair (fun p => { p with heldBcs := [] }) s)) := by
  change execSwitchOverBound s = _
  simp [execSwitchOverBound, hpaired, hchair, hdown, hbound, hserving, hone]

/-! ### Moves (R226, R232) -/

theorem clearChest_unset {r : Nat} {d : Region} {s : State} (hd : regionOf r s = some d) (hunset : d.roReasons.getLsbD 2 = false) :
    clearChest r s = s := by
  simp only [clearChest, hd, hunset, Bool.false_and, Bool.false_eq_true, if_false]

/-- The state without the move that has completed (R226, step 4). -/
def moveEnded (m : Move) (s : State) : State :=
  modPair (fun p => { p with move := none, moveSinceSwitch := p.moveSinceSwitch || m.cause == 1 }) s

theorem exec_seatMoveComplete_region {m : Move} {d : Region} {s : State} (hm : s.pair.move = some m) (hregion : m.region ≠ 0)
    (hphase : m.phase = 2) (hpath : m.path = none) (hqueue : s.pair.moveQueue = []) (hheld : s.pair.held = [])
    (hd : regionOf m.region s = some d) (hunset : d.roReasons.getLsbD 2 = false) :
    ∃ data, exec (.seatMoveComplete m.region) s = .next (raise 0x0508 .info data (moveEnded m s)) := by
  let data := le 2 m.region ++ le 1 m.target ++ le 1 m.cause ++ le 4 (mgetD 0 m.region s.pair.leaseEpoch)
  have hexec : exec (.seatMoveComplete m.region) s =
      .next (nextMove (releaseHeld (clearChest m.region (raise 0x0508 .info data (moveEnded m s))))) := by
    change execSeatMoveComplete m.region s = _
    simp only [execSeatMoveComplete, hm, hphase, hregion, hpath, ne_eq, not_true_eq_false, or_self, if_false]
    rfl
  rw [hexec, clearChest_unset (s := raise 0x0508 .info data (moveEnded m s)) (d := d) hd hunset,
    releaseHeld_nothing (s := raise 0x0508 .info data (moveEnded m s)) hheld,
    nextMove_nothing (s := raise 0x0508 .info data (moveEnded m s)) hqueue]
  exact ⟨data, rfl⟩

theorem exec_seatMoveComplete_chair {m : Move} {path : BcsPath} {s : State} (hm : s.pair.move = some m) (hregion : m.region = 0)
    (hphase : m.phase = 2) (hpath : m.path = some path) (hqueue : s.pair.moveQueue = []) (hheld : s.pair.held = [])
    (hbcs : s.pair.heldBcs = []) :
    ∃ data, exec (.seatMoveComplete 0) s =
      .next (success path 0xC005 (le 4 s.pair.chairEpoch) (raise 0x0509 .info data (moveEnded m s))) := by
  let data := le 1 m.target ++ le 1 m.cause ++ zeros 2 ++ le 4 s.pair.chairEpoch
  let t := success path 0xC005 (le 4 s.pair.chairEpoch) (raise 0x0509 .info data (moveEnded m s))
  have hexec : exec (.seatMoveComplete 0) s = .next (nextMove (forwardHeldBcs (releaseHeld t))) := by
    change execSeatMoveComplete 0 s = _
    simp only [execSeatMoveComplete, hm, hphase, hregion, hpath, ne_eq, not_true_eq_false, or_self, if_false, if_true]
    rfl
  obtain ⟨queue, hpair⟩ := (success_endKeeps path 0xC005 (le 4 s.pair.chairEpoch) (raise 0x0509 .info data (moveEnded m s))).pair
  rw [hexec, releaseHeld_nothing (s := t) (by rw [hpair]; exact hheld), forwardHeldBcs_nothing (s := t) (by rw [hpair]; exact hbcs),
    nextMove_nothing (s := t) (by rw [hpair]; exact hqueue)]
  exact ⟨data, rfl⟩

/-- With no region to move, a role swap moves the chair (R232). -/
theorem exec_roleSwap_chair {s : State} (hpaired : isPaired s = true) (hchair : s.pair.chairHere = true) (hup : linkUp s = true)
    (hlow : 2 ≤ s.pair.record.checkMode) (hhigh : s.pair.record.checkMode ≤ 3) (hruns : s.pair.swapSuspended = false)
    (hidle : s.mc.activation = none) (hdue : s.pair.lastSwap + param 0x0504 2514 s * 2 ^ 26 ≤ s.tb.beat) (hempty : s.reg.table = [])
    (hmove : s.pair.move = none) (hqueue : s.pair.moveQueue = []) :
    exec (.roleSwap) s = .next (moveStarted { region := 0, target := otherPosition s, boundary := 0, cause := 4, path := none }
      (modPair (fun p => { p with lastSwap := s.tb.beat, swapSuspended := false }) s)) := by
  have hmode : (s.pair.record.checkMode == 2 || s.pair.record.checkMode == 3) = true := by
    have hcases : s.pair.record.checkMode = 2 ∨ s.pair.record.checkMode = 3 := by omega
    simpa using hcases
  have hnone : mirroredRegions (modPair (fun p => { p with lastSwap := s.tb.beat, swapSuspended := false }) s) = [] := by
    simp [mirroredRegions, hempty]
  have hnotBefore : decide (s.tb.beat < s.pair.lastSwap + param 0x0504 2514 s * 2 ^ 26) = false := by simpa using hdue
  change execRoleSwap s = _
  simp only [execRoleSwap, hpaired, hchair, hup, hmode, hruns, hidle, hnotBefore, hnone, List.filter_nil, List.foldl_nil]
  exact congrArg Host.Outcome.next (addMove_starts _ hmove hqueue)

/-! ### Standby checks (R230, R231) -/

/-- A message for the partner changes the link's queue at most. -/
theorem sendMsg_endKeeps (m : MplMsg) (s : State) : EndKeeps s (sendMsg m s) := by
  unfold sendMsg
  split
  · exact ⟨⟨_, rfl⟩, rfl, rfl, rfl, rfl⟩
  · exact ⟨⟨_, rfl⟩, rfl, rfl, rfl, rfl⟩

theorem sendMsg_out (m : MplMsg) (s : State) : (sendMsg m s).out = s.out := by
  unfold sendMsg
  split <;> rfl

theorem exec_standbySelfTest_passed {test : Nat} (detail : Nat) {s : State} (hruns : testsRun s = true) (hlow : 1 ≤ test)
    (hhigh : test ≤ 4) : exec (.standbySelfTest test detail true) s = .next (countCheck test true s) := by
  have htest : ¬ (test = 0 ∨ 4 < test) := by omega
  change execStandbySelfTest test detail true s = _
  simp [execStandbySelfTest, hruns, htest]

theorem exec_standbySelfTest_failed (detail : Nat) {s : State} (hruns : testsRun s = true) :
    exec (.standbySelfTest 4 detail false) s = .next (raise 0x0511 .error (le 1 4 ++ zeros 7 ++ le 8 detail) (countCheck 4 false s)) := by
  change execStandbySelfTest 4 detail false s = _
  simp [execStandbySelfTest, hruns]

/-- The shared cursor of the compares past a chunk (R231). -/
def comparedAt (r off : Nat) (s : State) : State :=
  modPair (fun p => { p with compareRegion := r, compareOffset := off + 65536, compareBeat := s.tb.beat }) s

/-- The CRC of the mirror holder's chunk, for the seated controller (R231). -/
def compareMsg (r off : Nat) (s : State) : MplMsg :=
  { vc := 3, opcode := 0x33, region := r, operand := off, body := le 8 (crc64 (readZeroed r off 65536 s)).toNat }

theorem exec_mirrorCompare_sends {r off : Nat} {d : Region} {s : State} (hruns : testsRun s = true) (hpaired : isPaired s = true)
    (hup : linkUp s = true) (hdue : s.pair.compareBeat + param 0x0503 256 s ≤ s.tb.beat) (hnext : compareNext s = some (r, off))
    (hplaced : allPlaced r s = true) (hd : regionOf r s = some d) (hseat : d.seat ≠ s.ident.controllerId) :
    exec (.mirrorCompare) s = .next (modLink (fun l => { l with queue := l.queue ++ [compareMsg r off s] }) (comparedAt r off s)) := by
  have hnotBefore : decide (s.tb.beat < s.pair.compareBeat + param 0x0503 256 s) = false := by simpa using hdue
  have hother : seatedHere d (comparedAt r off s) = false := by simpa [seatedHere, comparedAt] using hseat
  have hthere : regionOf r (comparedAt r off s) = some d := hd
  change execMirrorCompare s = _
  simp only [execMirrorCompare, hruns, hpaired, hup, hnotBefore, hnext, hplaced]
  rw [← sendMsg_queues _ (s := comparedAt r off s) hpaired hup]
  simp [← comparedAt.eq_1, hother, hthere]
  rfl

/-- The compare of this side: it is counted, and a chunk that differs is sent to the partner with event 0x050E (R231). -/
theorem exec_mplCompare_counts {r off : Nat} {crc : BitVec 64} {d : Region} {s : State} (hd : regionOf r s = some d)
    (hpaired : isPaired s = true) (hmirrored : d.mirrored = true) (hseat : d.seat = s.ident.controllerId) :
    ∃ t, exec (.mplCompare r off crc) s = .next t ∧
      t.pair.checks = (countCheck 0 (decide (crc64 (readZeroed r off 65536 s) = crc)) s).pair.checks ∧
      t.pair.record = s.pair.record ∧ t.out = s.out ∧ t.reg = s.reg ∧ t.ti = s.ti ∧ t.pu = s.pu := by
  have hexec : exec (.mplCompare r off crc) s = execMplCompare r off crc s := rfl
  by_cases hsame : crc64 (readZeroed r off 65536 s) = crc
  · simp only [execMplCompare, hd, hpaired, hmirrored, seatedHere, hseat, hsame, if_true, beq_self_eq_true, Bool.not_true, Bool.or_self,
      Bool.false_eq_true, if_false] at hexec
    exact ⟨_, hexec, by rw [decide_eq_true hsame], rfl, rfl, rfl, rfl, rfl⟩
  · simp only [execMplCompare, hd, hpaired, hmirrored, seatedHere, hseat, hsame, beq_self_eq_true, Bool.not_true, Bool.or_self,
      Bool.false_eq_true, if_false] at hexec
    rw [hexec, decide_eq_false hsame]
    generalize hu : raise 0x050E .warning _ (countCheck 0 false s) = u
    have hraise : OnlyLogs (countCheck 0 false s) u := hu ▸ raise_onlyLogs ..
    have hsent := sendMsg_endKeeps (msgResync r off s) u
    obtain ⟨queue, hpair⟩ := hsent.pair
    refine ⟨_, rfl, ?_, hsent.record.trans (congrArg Pair.record hraise.pair :), (sendMsg_out ..).trans hraise.out,
      hsent.reg.trans hraise.reg, hsent.ti.trans hraise.ti, hsent.pu.trans hraise.pu⟩
    rw [hpair, hraise.pair]

/-! ### The obligation -/

/-- Settles O38: nothing is held, so that what a message releases is what it leaves (`release_nothing`); the messages join the link's
queue (`sendMsg_queues`), and the reports change the logs only (`switchReported_onlyLogs`). -/
theorem heartbeatsLeasesAndSwitchOver : Obligations.HeartbeatsLeasesAndSwitchOver := by
  unfold Obligations.HeartbeatsLeasesAndSwitchOver
  refine ⟨fun h ce le s ⟨hpaired, hup, hnone, hnone'⟩ => ?echoed, fun h ce le s ⟨hpaired, hup, htaken⟩ => ?answeredTaken,
    fun h s ⟨hpaired, hnewer, hpast, hheld, hbcs⟩ => ?echo,
    fun epoch r d s ⟨hpaired, htable, hmirrored, hseat, hunits, hheld, hbcs⟩ => ?taken,
    fun port head w s ⟨hw, hport, hpaired, hhead⟩ ⟨hpair, hid⟩ htag => ?witness,
    fun h s ⟨hecho, hpaired, hlate, hacts, hnone, hnone', hstays⟩ => ?stop,
    fun r s ⟨hheard, hpaired, hdown, hlate, hnone, hnone', hdead, hunits⟩ => ?takeover,
    fun s ⟨htaken, hdone, halive, hheld, hbcs, hroom⟩ => ?switchOver,
    fun h s ⟨hpaired, hchair, hdown, hbound, hserving, hone⟩ => ?bound,
    fun region m d s ⟨hm, hregion, hnotChair, hphase, hpath, hqueue, hheld, hroom⟩ ⟨hd, hunset⟩ => ?seatMoved,
    fun path m s ⟨hm, hregion, hphase, hpath, hqueue, hheld, hbcs, hroom⟩ => ?chairMoved,
    fun s ⟨hpaired, hchair, hup, hlow, hhigh, hruns, hidle⟩ ⟨hdue, hempty, hmove, hqueue⟩ => ?swap,
    fun test detail s ⟨hruns, hlow, hhigh⟩ => ?passed, fun detail s ⟨hruns, hroom⟩ => ?failed,
    fun r off d s ⟨hruns, hpaired, hup, hdue⟩ ⟨hnext, hplaced, hd, hseat⟩ => ?compare,
    fun r off crc d s ⟨hd, hpaired, hmirrored, hseat⟩ => exec_mplCompare_counts hd hpaired hmirrored hseat⟩
  case echoed => exact ⟨_, exec_heartbeat_echoes hpaired hup hnone hnone', rfl, rfl, rfl, rfl, rfl, rfl, rfl, rfl⟩
  case answeredTaken => exact ⟨_, exec_heartbeat_taken hpaired hup htaken, rfl, rfl, rfl, rfl, rfl, rfl⟩
  case echo => exact ⟨_, exec_heartbeatEcho_extends hpaired hnewer hpast hheld hbcs, rfl, rfl, rfl, rfl, rfl, rfl, rfl⟩
  case taken =>
    refine ⟨_, exec_taken_yields hpaired htable hmirrored hseat hunits hheld hbcs, rfl, rfl, rfl, ?_, ?_, ?_⟩
    · rw [regionOf_chairYielded, regionOf_yieldRegion]
      simp [regionOf, htable, mget]
    · rw [ownCopy_chairYielded, ownCopy_yieldRegion]
    · rw [chairYielded_out, yieldRegion_out]
  case witness =>
    subst hport
    exact ⟨_, exec_witnessHeartbeat_good hw hpaired hhead hpair hid htag rfl, rfl⟩
  case stop => exact ⟨_, exec_leaseStopPoint_stops hecho hpaired hlate hacts hnone hnone' hstays, rfl⟩
  case takeover =>
    refine ⟨_, (exec_takeoverDeadline_dead hheard hpaired hdown hlate hnone hnone' hdead).trans
      (congrArg _ (startTakeover_dead hunits)), ?_⟩
    rw [journalMeta_pair, journalMeta_items, journalMeta_out, journalMeta_reg, journalMeta_ti]
    exact ⟨rfl, rfl, rfl, rfl, rfl, rfl, rfl⟩
  case switchOver =>
    obtain ⟨data, hexec⟩ := exec_switchOverComplete_alive htaken hdone halive hheld hbcs
    have hlogs := switchReported_onlyLogs data s
    refine ⟨_, hexec, ?_, ?_, switchReported_recorded data hroom, ?_, hlogs.out, hlogs.reg, hlogs.ti, hlogs.pu⟩
    all_goals rw [hlogs.pair]; rfl
  case bound =>
    have hend := answerV_endKeeps h.path h.opcode 0x0005 0xFFFF [] (modPair (fun p => { p with heldBcs := [] }) s)
    obtain ⟨queue, hpair⟩ := hend.pair
    exact ⟨_, exec_switchOverBound_fails hpaired hchair hdown hbound hserving hone, answered_answer .., congrArg Pair.heldBcs hpair,
      hend.record, hend.reg, hend.ti, hend.pu⟩
  case seatMoved =>
    subst hregion
    obtain ⟨data, hexec⟩ := exec_seatMoveComplete_region hm hnotChair hphase hpath hqueue hheld hd hunset
    exact ⟨_, hexec, rfl, recorded_raise _ _ _ hroom, rfl, rfl, rfl, rfl, rfl⟩
  case chairMoved =>
    obtain ⟨data, hexec⟩ := exec_seatMoveComplete_chair hm hregion hphase hpath hqueue hheld hbcs
    have hend := success_endKeeps path 0xC005 (le 4 s.pair.chairEpoch) (raise 0x0509 .info data (moveEnded m s))
    obtain ⟨queue, hpair⟩ := hend.pair
    have hrecorded : recorded 0x0509 (raise 0x0509 .info data (moveEnded m s)) := recorded_raise _ _ _ hroom
    exact ⟨_, hexec, congrArg Pair.move hpair, recorded_of_queue hrecorded (by rw [hend.ev]), answered_success ..,
      hend.record, hend.reg, hend.ti, hend.pu⟩
  case swap =>
    exact ⟨_, exec_roleSwap_chair hpaired hchair hup hlow hhigh hruns hidle hdue hempty hmove hqueue, rfl, rfl, rfl, rfl, rfl, rfl, rfl⟩
  case passed => exact ⟨_, exec_standbySelfTest_passed detail hruns hlow hhigh, rfl⟩
  case failed =>
    exact ⟨_, exec_standbySelfTest_failed detail hruns, rfl, recorded_raise _ _ _ hroom, rfl, rfl, rfl, rfl, rfl⟩
  case compare =>
    exact ⟨_, exec_mirrorCompare_sends hruns hpaired hup hdue hnext hplaced hd hseat, rfl, rfl, rfl, rfl, rfl, rfl, rfl, rfl, rfl⟩

end Sys2Proof.Machine
end

section
/-! PROOFS. The mirror, META copies, resync, join and forwarded messages (06_pair R212 to R214, R234 to R240, 01_architecture R25,
13_management R484). The bodies of these messages, the mark of a resync and the relay of an answer are the model's choice (log entries 40,
83, 84 and 95). -/

namespace Sys2Proof.Machine

/-! ### Placements change the tiers only (03_persistence R86, 04_tiers R119) -/

/-- Only the tiers differ. -/
structure OnlyTiers (s t : State) : Prop where
  rest : { t with ti := s.ti } = s

section
variable {s t u : State}

theorem OnlyTiers.refl (s : State) : OnlyTiers s s := ⟨rfl⟩

theorem OnlyTiers.trans (h : OnlyTiers s t) (g : OnlyTiers t u) : OnlyTiers s u :=
  ⟨(congrArg (fun x : State => { x with ti := s.ti }) g.rest).trans h.rest⟩

theorem OnlyTiers.pair (h : OnlyTiers s t) : t.pair = s.pair := (congrArg State.pair h.rest :)
theorem OnlyTiers.out (h : OnlyTiers s t) : t.out = s.out := (congrArg State.out h.rest :)
theorem OnlyTiers.reg (h : OnlyTiers s t) : t.reg = s.reg := (congrArg State.reg h.rest :)

end

theorem ensureSlot_onlyTiers {seg : Nat} {s t : State} (h : ensureSlot seg s = some t) : OnlyTiers s t := by
  unfold ensureSlot at h
  split at h
  · cases h; exact ⟨rfl⟩
  · split at h
    · cases h; exact ⟨rfl⟩
    · split at h
      · cases h
      · cases h; exact ⟨rfl⟩

theorem loadChunk_onlyTiers {lcn : Nat} {s t : State} (h : loadChunk lcn s = some t) : OnlyTiers s t := by
  obtain ⟨c, -, rfl⟩ := Option.map_eq_some_iff.mp h
  exact ⟨rfl⟩

theorem readyPage_onlyTiers {ws : List (Nat × LineWrite)} {key : Nat} {s t : State} (h : readyPage ws key s = some t) : OnlyTiers s t := by
  unfold readyPage at h
  split at h
  case h_1 => cases h
  case h_2 u hslot =>
    refine (ensureSlot_onlyTiers hslot).trans ?_
    split at h
    · cases h; exact ⟨rfl⟩
    · split at h
      · cases h; exact ⟨rfl⟩
      · exact loadChunk_onlyTiers h

theorem readyPages_onlyTiers {all ws : List (Nat × LineWrite)} {s t : State} (h : ws.foldlM (fun s w => readyPage all w.1 s) s = some t) :
    OnlyTiers s t := by
  induction ws generalizing s with
  | nil => cases h; exact ⟨rfl⟩
  | cons w ws ih =>
    rw [List.foldlM_cons] at h
    obtain ⟨u, hready, hrest⟩ := Option.bind_eq_some_iff.mp h
    exact (readyPage_onlyTiers hready).trans (ih hrest)

theorem putLines_onlyTiers (seq : Nat) (ws : List (Nat × LineWrite)) (s : State) :
    OnlyTiers s (ws.foldl (fun s w => touch (w.1 / 32768) (shelfPut w.1 seq w.2 s)) s) := by
  induction ws generalizing s with
  | nil => exact .refl s
  | cons w ws ih => exact OnlyTiers.trans (t := touch (w.1 / 32768) (shelfPut w.1 seq w.2 s)) ⟨rfl⟩ (ih _)

theorem placeLines_onlyTiers {seq : Nat} {ws : List (Nat × LineWrite)} {s t : State} (h : placeLines seq ws s = some t) :
    OnlyTiers s t := by
  obtain ⟨u, hready, rfl⟩ := Option.map_eq_some_iff.mp h
  exact (readyPages_onlyTiers hready).trans (putLines_onlyTiers ..)

/-! ### Mirrored writes (R212) -/

theorem takeSlots_units {u : WUnit} {st : SlotState} {p : Persist} {x : Persist × List Nat} (h : takeSlots u st p = some x) :
    x.1.units = p.units := by
  suffices hall : ∀ (l : List LineWrite) (a : Persist × List Nat), l.foldlM (fun a l => takeSlot u st l a) a = some x →
      x.1.units = a.1.units from hall u.lines (p, []) h
  intro l
  induction l with
  | nil =>
    intro a ha
    cases ha
    rfl
  | cons w l ih =>
    intro a ha
    rw [List.foldlM_cons] at ha
    obtain ⟨b, hslot, hrest⟩ := Option.bind_eq_some_iff.mp ha
    obtain ⟨n, -, rfl⟩ := Option.map_eq_some_iff.mp hslot
    exact (ih _ hrest).trans rfl

/-- A mirror copy that is staged is accepted, and the seated controller told. -/
theorem stageUnit_copy {u : WUnit} {msn : Nat} (s : State) (hcls : u.cls = .mirrorCopy) (hsrc : u.src = .mirror msn) :
    ∃ p, stageUnit u s = sendMsg (msgAccept u.region msn) { s with pu := p } ∧
      p.units = s.pu.units.map fun v => if v.id = u.id then { u with phase := .staged, accepted := true } else v := by
  cases u
  subst hcls hsrc
  exact ⟨_, rfl, rfl⟩

/-- A mirror copy that waits alone: it stays, or is admitted, and then it is accepted. -/
theorem submitNow_copy {u : WUnit} {msn : Nat} {s : State} (hcls : u.cls = .mirrorCopy) (hsrc : u.src = .mirror msn)
    (hunits : s.pu.units = []) :
    submitNow u s = submitUnit u s ∨ ∃ p v, submitNow u s = sendMsg (msgAccept u.region msn) { s with pu := p } ∧ p.units = [v] ∧
      v.id = s.pu.nextUnit ∧ v.src = u.src ∧ v.cls = u.cls ∧ v.region = u.region ∧ v.lines = u.lines := by
  have hsubmitted : (submitUnit u s).pu.units = [{ u with id := s.pu.nextUnit }] := by simp [submitUnit, modPu, hunits]
  have hfound : unitOf s.pu.nextUnit (submitUnit u s) = some { u with id := s.pu.nextUnit } := by simp [unitOf, hsubmitted]
  simp only [submitNow, hfound]
  split
  case isFalse => exact .inl rfl
  case isTrue =>
    unfold admitUnit
    split
    next => exact .inl rfl
    next p slots htake =>
      let v : WUnit := { u with id := s.pu.nextUnit, phase := .reserved, slots := slots }
      have hkept : p.units = [{ u with id := s.pu.nextUnit }] := (takeSlots_units htake).trans hsubmitted
      obtain ⟨q, hstaged, hq⟩ :=
        stageUnit_copy (u := v) { submitUnit u s with pu := putUnit v { p with ingestUsed := p.ingestUsed + unitBytes v } } hcls hsrc
      refine .inr ⟨q, { v with phase := .staged, accepted := true }, hstaged, ?_, rfl, rfl, rfl, rfl, rfl⟩
      simp [hq, putUnit, hkept, v]

/-- The unit that a mirrored write is on the mirror holder (R212). -/
def copyUnit (region msn : Nat) (lines : List LineWrite) (s : State) : WUnit :=
  { newUnit (.mirror msn) .mirrorCopy region lines s with gen := (ownCopy region s).gen }

theorem exec_mirrorWrite_copy {region msn : Nat} {lines : List LineWrite} {d : Region} {s : State} (hd : regionOf region s = some d)
    (hpaired : isPaired s = true) (hmirrored : d.mirrored = true) (hseat : d.seat ≠ s.ident.controllerId)
    (hnone : s.pair.takeover = false) (hlines : lines ≠ [])
    (hbureau : region ≠ (submitNow (copyUnit region msn lines s) s).cxl.bureau) :
    exec (.mirrorWrite region msn false lines) s = .next (submitNow (copyUnit region msn lines s) s) := by
  have hsome : lines.isEmpty = false := List.isEmpty_eq_false_iff.mpr hlines
  have hother : seatedHere d s = false := by simpa [seatedHere] using hseat
  change execMirrorWrite region msn false lines s = _
  simp only [execMirrorWrite, hd, hpaired, hmirrored, hnone, hsome, hother, Bool.not_true, Bool.or_self, Bool.false_eq_true, if_false]
  exact congrArg Host.Outcome.next (if_neg hbureau)

/-! ### META copies and resync (R214, R234 to R236) -/

/-- The only META change that waits for the partner is over: it is gone, and its one answer goes out. -/
theorem exec_metaDone_answers {path : BcsPath} {op rc : Nat} {out : Bytes} {w : MetaWait} {s : State} (hwaits : s.pu.metaWaits = [w])
    (hpartner : w.partnerDone = false) (hlocal : w.localDone = true) (hacts : w.acts = [.answer path op rc out]) (hbg : s.mc.bg = []) :
    exec (.metaDone w.seq) s = .next (answer path op rc out (modPu (fun p => { p with metaWaits := [] }) s)) := by
  have hexec : exec (.metaDone w.seq) s = .next (finishBg path op rc 0xFFFF out (modPu (fun p => { p with metaWaits := [] }) s)) := by
    change execMetaDone w.seq s = _
    simp [execMetaDone, settleMeta, modPu, hwaits, hpartner, hlocal, hacts, metaAct]
  rw [hexec, finishBg_answers (s := modPu (fun p => { p with metaWaits := [] }) s) _ _ _ _ _ hbg]
  rfl

/-- A resync chunk, placed or still to be placed, changes neither the pair nor the regions beyond what it notes (R236). -/
theorem exec_resyncChunk_notes {r off src : Nat} {data : Bytes} {d : Region} {s : State} (hd : regionOf r s = some d)
    (hpaired : isPaired s = true) (hseat : d.seat ≠ s.ident.controllerId) (haligned : off % 65536 = 0)
    (hinside : off + 65536 ≤ regionBytes d) (hown : (ownCopy r s).state = .resyncing) :
    ∃ t, exec (.resyncChunk r off src true data []) s = .next t ∧ t.pair = (noteChunk r off s).pair ∧ t.out = s.out ∧ t.reg = s.reg := by
  have hother : seatedHere d s = false := by simpa [seatedHere] using hseat
  have hnoted : (noteChunk r off s).out = s.out ∧ (noteChunk r off s).reg = s.reg := ⟨rfl, rfl⟩
  obtain ⟨hout, hreg⟩ := hnoted
  have hexec : exec (.resyncChunk r off src true data []) s = execResyncChunk r off src true data [] s := rfl
  simp only [execResyncChunk, hd, hpaired, hother, haligned, hown, Nat.not_lt.mpr hinside, bne_self_eq_false, decide_false, Bool.not_true,
    Bool.or_self, Bool.false_eq_true, if_false, if_true] at hexec
  rw [hexec]
  generalize noteChunk r off s = u at *
  split
  case h_1 t hplaced =>
    have htiers := placeLines_onlyTiers hplaced
    exact ⟨t, rfl, htiers.pair, htiers.out.trans hout, htiers.reg.trans hreg⟩
  case h_2 =>
    split
    · exact ⟨_, rfl, rfl, hout, hreg⟩
    · exact ⟨_, rfl, rfl, hout, hreg⟩

/-- The mark of the receiver of a resync (R236). -/
def markItem (x : Resync) (s : State) : MetaItem :=
  ownStateItem x.region (ownCopy x.region s).state (ownCopy x.region s).gen (safeMark x.region x.offset s) s

theorem exec_resyncMark_journals {x : Resync} {s : State} (hx : s.pair.resync = some x) (hsender : x.sender = false)
    (hdue : x.lastMark + 2 ^ 20 ≤ s.tb.beat) :
    exec (.resyncMark x.region) s = .next (journalMeta [markItem x s] [.item (markItem x s)] false
      (modPair (fun p => { p with resync := some { x with lastMark := s.tb.beat } }) s)) := by
  have hreceiver : ¬ (x.region ≠ x.region ∨ x.sender = true ∨ s.tb.beat < x.lastMark + 2 ^ 20) := by
    rw [hsender]
    simpa using hdue
  change execResyncMark x.region s = _
  simp only [execResyncMark, hx, if_neg hreceiver]
  rfl

/-- A resync is over on its sender: both copies are CURRENT (R234). -/
def resyncEnded (r : Nat) (s : State) : State := modPair (fun p => { p with
  resync := none, partnerMirror := mput r ⟨.current, (ownCopy r s).gen, 0, [], false⟩ p.partnerMirror }) s

theorem exec_resyncComplete_sender {x : Resync} {d : Region} {s : State} (hx : s.pair.resync = some x) (hsender : x.sender = true)
    (hd : regionOf x.region s = some d) (hall : nextChunk x (regionBytes d) = none) (hwaiting : s.pair.resyncWaiting = []) :
    ∃ data, exec (.resyncComplete x.region) s = .next (raise 0x050D .info data (resyncEnded x.region s)) := by
  let data := le 2 x.region ++ zeros 2 ++ le 4 (ownCopy x.region s).gen ++ le 4 ((s.tb.beat - x.beat) / 65536)
  have hexec : exec (.resyncComplete x.region) s = .next (nextResync (raise 0x050D .info data (resyncEnded x.region s))) := by
    change execResyncComplete x.region s = _
    simp [execResyncComplete, hx, hd, hsender, hall]
    rfl
  exact ⟨data, by rw [hexec, nextResync_nothing (s := raise 0x050D .info data (resyncEnded x.region s)) hwaiting]⟩

/-! ### The join (R224, R238) -/

theorem takeOnline_online {r : Nat} {d : Region} {s : State} (hd : regionOf r s = some d) (hstate : d.state = .online) :
    takeOnline r s = s := by
  simp [takeOnline, hd, hstate]

/-- What a view with a STALE copy says of the partner is taken over (R238). -/
def viewTaken (v : JoinView) (s : State) : State := modPair (fun p => { p with
  partnerMirror := mput v.region { mgetD ⟨.stale, 0, 0, [], false⟩ v.region p.partnerMirror with
    state := .stale, gen := v.gen, bitmapValid := v.identitySame } p.partnerMirror
  joinWait := mdel v.region p.joinWait }) s

/-- The region of such a view waits for its resync. -/
def joinedStale (v : JoinView) (s : State) : State :=
  modPair (fun p => { p with resyncWaiting := setInsert v.region p.resyncWaiting }) (viewTaken v s)

theorem joinRegion_stale {v : JoinView} {d : Region} {s : State} (hd : regionOf v.region s = some d) (hmirrored : d.mirrored = true)
    (honline : d.state = .online) (hown : (ownCopy v.region s).state = .current) (hstate : v.state = 2)
    (hgen : v.gen ≤ (ownCopy v.region s).gen) : joinRegion v s = joinedStale v s := by
  have hstale : mirrorOf v.state = .stale := by rw [hstate]; rfl
  simp only [joinRegion, hd, hmirrored, hown, hstale, hgen, Bool.not_true, Bool.false_eq_true, if_false, if_true]
  exact congrArg (modPair _) (takeOnline_online (s := viewTaken v s) (d := d) hd honline)

/-- The join as far as the single regions: the stop of the lease is over, and what the partner serves is served again. -/
theorem rejoin_unsettled {s : State} (hmode : s.pair.record.mode = 0) :
    rejoin s = modPair (fun p => { p with
        takeoverDone := false, stopped := false, partnerLost := false, unavailable := [], hEcho := some s.tb.beat })
      { s with ev := { s.ev with reports := s.ev.reports.filter fun r => r.code != 0x050F } } := by
  have hnot : isSettee s = false := by simp [isSettee, hmode]
  simp [rejoin, hnot]

/-- The region that waits alone for its resync, whose own copy is CURRENT, gets it (R235, R238). -/
theorem nextResync_resumes {r : Nat} {s : State} (hnone : s.pair.resync = none) (hone : s.pair.resyncWaiting = [r])
    (hown : (ownCopy r s).state = .current) :
    ∃ mark, nextResync s = resumeResync r mark (modPair (fun p => { p with resyncWaiting := [] }) s) := by
  have hown' : (ownCopy r (modPair (fun p => { p with resyncWaiting := [] }) s)).state = .current := hown
  simp only [nextResync, hnone, hone, hown', Option.isSome_none, Bool.false_eq_true, if_false, if_true]
  exact ⟨_, rfl⟩

/-- The join of one region with a STALE copy at the partner: its resync starts. -/
theorem exec_pairJoin_stale {v : JoinView} {d : Region} {s : State} (hpaired : isPaired s = true) (hup : linkUp s = true)
    (hmode : s.pair.record.mode = 0) (hbureau : s.cxl.bureauLost = false) (hheld : s.pair.held = []) (hwaiting : s.pair.resyncWaiting = [])
    (hnone : s.pair.resync = none) (hd : regionOf v.region s = some d) (hmirrored : d.mirrored = true) (honline : d.state = .online)
    (hown : (ownCopy v.region s).state = .current) (hstate : v.state = 2) (hgen : v.gen ≤ (ownCopy v.region s).gen) :
    ∃ mark, exec (.pairJoin [v]) s =
      .next (resumeResync v.region mark (modPair (fun p => { p with resyncWaiting := [] }) (joinedStale v (rejoin s)))) := by
  have hrejoin := rejoin_unsettled hmode
  have hjoin : joinRegion v (rejoin s) = joinedStale v (rejoin s) := by
    rw [hrejoin]
    exact joinRegion_stale (d := d) hd hmirrored honline hown hstate hgen
  have hlost : (joinedStale v (rejoin s)).cxl.bureauLost = false := by rw [hrejoin]; exact hbureau
  have hheld' : (joinedStale v (rejoin s)).pair.held = [] := by rw [hrejoin]; exact hheld
  have hnone' : (joinedStale v (rejoin s)).pair.resync = none := by rw [hrejoin]; exact hnone
  have hone : (joinedStale v (rejoin s)).pair.resyncWaiting = [v.region] := by
    simp [joinedStale, viewTaken, hrejoin, hwaiting, setInsert]
  have hcurrent : (ownCopy v.region (joinedStale v (rejoin s))).state = .current := by rw [hrejoin]; exact hown
  obtain ⟨mark, hresync⟩ := nextResync_resumes hnone' hone hcurrent
  refine ⟨mark, ?_⟩
  rw [← hresync]
  change execPairJoin [v] s = _
  simp only [execPairJoin, hpaired, hup, List.foldl_cons, List.foldl_nil, hjoin, hlost, Bool.not_true, Bool.or_self, Bool.false_and,
    Bool.false_eq_true, if_false, releaseHeld_nothing hheld']

/-! ### Forwarded accesses and the end of a forwarded request (01_architecture R25) -/

theorem fwdAnswer_plain (mtag status first : Nat) (s : State) :
    fwdAnswer mtag status first [] [] s = sendMsg { vc := 3, opcode := 0x30, mtag := mtag, operand := status } s := rfl

theorem serveFwd_noRegion {mtag r off : Nat} {op : FwdOp} {s : State} (hd : regionOf r s = none) :
    serveFwd mtag r off op s = fwdAnswer mtag 0x0002 0 [] [] s := by
  cases op <;> simp [serveFwd, hd]

theorem drainFirst_nothing (s : State) : drainFirst [] s = s := by simp [drainFirst, modTi]

theorem serveFwd_drain {mtag r off n : Nat} {d : Region} {s : State} (hd : regionOf r s = some d) (honline : d.state ≠ .offline)
    (hinside : inRegion d off n = true) (hchunks : rangeChunks r off n s = []) :
    serveFwd mtag r off (.drain n) s =
      modPair (fun p => { p with drains := p.drains ++ [⟨mtag, r, off, n, s.pu.nextAck, [], 0⟩] }) s := by
  simp [serveFwd, hd, honline, hinside, startPeerDrain, hchunks, drainBusy, drainFirst_nothing]

theorem serveFwd_write {mtag r off : Nat} {lines : List LineWrite} {d : Region} {s : State} (hd : regionOf r s = some d)
    (hroute : route r off s = .here) (honline : d.state ≠ .offline) (hinside : inRegion d off (64 * lines.length) = true)
    (hlines : lines ≠ []) (hthere : removedFrom r off (64 * lines.length) s = false)
    (hwritable : writeRefused r d off (64 * lines.length) s = false) :
    serveFwd mtag r off (.write lines) s = submitUnit (newUnit (.forwarded mtag) .general r lines s) s := by
  simp [serveFwd, hd, hroute, honline, hinside, hlines, hthere, hwritable, fwdSpan]

/-- A forwarded Arm Pair Join runs as its command (13_management R484). -/
theorem runBcs_armPairJoin (path : BcsPath) (input : Bytes) (s : State) :
    runBcs path 0xC001 input s = outState (exec (.armPairJoin path input) s) s := rfl

/-- The data of a forwarded read goes to the port that asked for it. -/
theorem fwdBack_cxlRead {head tag r line : Nat} {data : Bytes} {s : State} (hserves : servesMem head s = true) :
    fwdBack (.cxlRead head tag r line) 0 [] data s = sendData head tag (lineOf data) false s := by
  simp [fwdBack, cxlReadBack, hserves, poisonBites]

/-! ### The obligation -/

/-- Settles O39: a mirror copy waits or is admitted (`submitNow_copy`), a chunk that is placed changes the tiers only
(`placeLines_onlyTiers`), a join names what the region waits for (`exec_pairJoin_stale`), and an answer goes out as its command's end
does (`EndKeeps`). -/
theorem mirrorMetaResyncAndForwarding : Obligations.MirrorMetaResyncAndForwarding := by
  unfold Obligations.MirrorMetaResyncAndForwarding
  refine ⟨fun region msn lines d s ⟨hd, hpaired, hup, hmirrored, hseat, hnone, hlines, hbureau, hunits⟩ => ?write,
    fun region msn u s ⟨hunits, hregion, hmirrored, hmsn, hphase, hacc⟩ => ?accept,
    fun region msn u s ⟨hunits, hcls, hregion, hsrc⟩ => ?abort, fun region beat runs s hpaired => ?sealNotice, fun seq s => ?done,
    fun seq items s hpaired => ?metaCopy, fun path op seq rc out w s ⟨hwaits, hseq, hpartner, hlocal, hacts, hbg⟩ => ?metaDone,
    fun r off src data d s ⟨hd, hpaired, hseat, haligned, hinside, hown, hnone⟩ => ?chunk,
    fun r x s ⟨hx, hregion, hsender, hdue⟩ => ?mark,
    fun r x d s ⟨hx, hregion, hsender, hd, hall, hwaiting, hroom⟩ => ?complete,
    fun v d s ⟨hpaired, hup, hmode, hbureau, hheld, hwaiting, hnone⟩ ⟨hd, hmirrored, honline, hown, hstate, hgen⟩ => ?join,
    fun r b s ⟨hb, hlate, hroom⟩ => ?joinWait, fun mtag r off op s ⟨hpaired, hup, hd⟩ => ?noRegion,
    fun mtag r off n d s ⟨hpaired, hd, honline, hinside, hchunks⟩ => ?drain,
    fun mtag r off lines d s ⟨hpaired, hup, hd, hplain, hroute, honline, hinside, hlines⟩ ⟨hthere, hwritable⟩ => ?fwdWrite,
    fun mtag input s ⟨hpaired, hopen, hlen⟩ => ?fwdBcs, fun mtag head tag r line data s ⟨hfwd, hserves⟩ => ?fwdRead,
    fun path mtag op rc output s ⟨hfwd, hbg⟩ => ?bcsBack⟩
  case write =>
    rcases submitNow_copy (u := copyUnit region msn lines s) (msn := msn) rfl rfl hunits with
      hstays | ⟨p, v, haccepted, hv, hid, hsrc, hcls, hregion, hlines'⟩
    · refine ⟨_, exec_mirrorWrite_copy hd hpaired hmirrored hseat hnone hlines (by rw [hstays]; exact hbureau), ?_⟩
      have hunit : unitOf s.pu.nextUnit (submitUnit (copyUnit region msn lines s) s) =
          some { copyUnit region msn lines s with id := s.pu.nextUnit } := by
        simp [unitOf, submitUnit, modPu, hunits]
      rw [hstays, hunit]
      exact ⟨rfl, rfl, fun h => by simp [copyUnit, newUnit] at h, rfl, rfl, rfl, rfl⟩
    · have hsent := haccepted.trans (sendMsg_queues (s := { s with pu := p }) _ hpaired hup)
      refine ⟨_, exec_mirrorWrite_copy hd hpaired hmirrored hseat hnone hlines (by rw [hsent]; exact hbureau), ?_⟩
      have hunit : unitOf s.pu.nextUnit (submitNow (copyUnit region msn lines s) s) = some v := by
        simp [hsent, unitOf, modLink, modPair, hv, hid]
      rw [hunit, hsent]
      exact ⟨by simp only [Option.map_some, hsrc, hcls, hregion]; rfl, congrArg some hlines', fun _ => rfl, rfl, rfl, rfl, rfl⟩
  case accept =>
    refine ⟨_, rfl, ?_, rfl, rfl, rfl, rfl, rfl⟩
    simp [modPu, hunits, hregion, hmirrored, hmsn, hphase, hacc]
  case abort =>
    refine ⟨_, (?_ : exec _ _ = .next (abandonUnit u s)), ?_⟩
    · change execMirrorAbort region msn s = _
      simp [execMirrorAbort, hunits, hcls, hregion, hsrc, copyMsn]
    · simp [abandonUnit, hcls, hunits, freeSlots, modPu]
  case sealNotice => exact ⟨_, congrArg Host.Outcome.next (if_pos hpaired), rfl⟩
  case done => exact ⟨_, rfl, rfl⟩
  case metaCopy =>
    refine ⟨_, if_neg (by simp [hpaired]), journalMeta_items .., journalMeta_acts .., journalMeta_pair .., journalMeta_out ..,
      journalMeta_reg .., journalMeta_ti ..⟩
  case metaDone =>
    subst hseq
    have hend := answerV_endKeeps path op rc 0xFFFF out (modPu (fun p => { p with metaWaits := [] }) s)
    exact ⟨_, exec_metaDone_answers hwaits hpartner hlocal hacts hbg, congrArg Persist.metaWaits hend.pu, answered_answer ..,
      hend.record, hend.reg, hend.ti⟩
  case chunk =>
    obtain ⟨t, hexec, hpair, hout, hreg⟩ := exec_resyncChunk_notes (src := src) (data := data) hd hpaired hseat haligned hinside hown
    refine ⟨t, hexec, ?_, by rw [hpair]; rfl, hout, hreg⟩
    simp [hpair, noteChunk, hnone]
  case mark =>
    subst hregion
    refine ⟨_, exec_resyncMark_journals hx hsender hdue, journalMeta_items .., ?_, journalMeta_out .., journalMeta_reg ..,
      journalMeta_ti ..⟩
    rw [journalMeta_pair]
    rfl
  case complete =>
    subst hregion
    obtain ⟨data, hexec⟩ := exec_resyncComplete_sender hx hsender hd hall hwaiting
    refine ⟨_, hexec, rfl, ?_, recorded_raise _ _ _ hroom, rfl, rfl, rfl, rfl, rfl⟩
    simp [otherCopyState, resyncEnded, mgetD, mget_mput_self]
  case join =>
    obtain ⟨mark, hexec⟩ := exec_pairJoin_stale hpaired hup hmode hbureau hheld hwaiting hnone hd hmirrored honline hown hstate hgen
    rw [rejoin_unsettled hmode] at hexec
    refine ⟨_, hexec, rfl, rfl, rfl, rfl, ?_, rfl, rfl, rfl, rfl, rfl⟩
    simp [otherCopyState, resumeResync, joinedStale, viewTaken, mgetD, mget_mput_self]
  case joinWait =>
    refine ⟨_, (?_ : exec _ _ = .next (raise 0x050F .error (lostEvent r 2 (ownCopy r s).gen 0xFFFFFFFF)
        (modPair (fun p => { p with joinWait := mdel r p.joinWait }) s))), mget_mdel_self ..,
      recorded_raise _ _ _ hroom, rfl, rfl, rfl, rfl, rfl⟩
    change execJoinWaitTimeout r s = _
    simp [execJoinWaitTimeout, hb, Nat.not_lt.mpr hlate]
  case noRegion =>
    have hsent : serveFwd mtag r off op s = _ :=
      (serveFwd_noRegion hd).trans ((fwdAnswer_plain ..).trans (sendMsg_queues _ hpaired hup))
    exact ⟨_, congrArg Host.Outcome.next ((if_pos hpaired).trans hsent), rfl, rfl, rfl, rfl, rfl, rfl⟩
  case drain =>
    exact ⟨_, congrArg Host.Outcome.next ((if_pos hpaired).trans (serveFwd_drain hd honline hinside hchunks)), rfl, rfl, rfl, rfl, rfl⟩
  case fwdWrite =>
    exact ⟨_, congrArg Host.Outcome.next ((if_pos hpaired).trans (serveFwd_write hd hroute honline hinside hlines hthere hwritable)),
      rfl, rfl, rfl, rfl, rfl⟩
  case fwdBcs =>
    have hend := success_endKeeps (.forwarded mtag true) 0xC001 [] (armed input s)
    have hrun : runBcs (.forwarded mtag true) 0xC001 input s = success (.forwarded mtag true) 0xC001 [] (armed input s) := by
      rw [runBcs_armPairJoin, exec_armPairJoin hopen hlen]
      rfl
    exact ⟨_, congrArg Host.Outcome.next ((if_pos hpaired).trans hrun), answered_success .., hend.arming, hend.reg, hend.ti, hend.pu⟩
  case fwdRead =>
    have hexec : exec (.fwdResponse mtag 0 [] data) s =
        .next (sendData head tag (lineOf data) false (modPair (fun p => { p with fwd := mdel mtag p.fwd }) s)) := by
      change execFwdResponse mtag 0 [] data s = _
      simp only [execFwdResponse, hfwd]
      exact congrArg _ (fwdBack_cxlRead (s := modPair (fun p => { p with fwd := mdel mtag p.fwd }) s) hserves)
    exact ⟨_, hexec, rfl, mget_mdel_self .., rfl, rfl, rfl, rfl⟩
  case bcsBack =>
    let t := modPair (fun p => { p with fwd := mdel mtag p.fwd }) s
    have hexec : exec (.bcsResponse mtag rc output) s = .next (answer path op rc output t) := by
      change execBcsResponse mtag rc output s = _
      simp only [execBcsResponse, hfwd]
      exact congrArg _ (finishBg_answers (s := t) _ _ _ _ _ hbg)
    have hend := answerV_endKeeps path op rc 0xFFFF output t
    obtain ⟨queue, hpair⟩ := hend.pair
    refine ⟨_, hexec, answered_answer .., ?_, hend.record, hend.reg, hend.ti, hend.pu⟩
    exact (congrArg (fun p => mget mtag p.fwd) hpair).trans (mget_mdel_self ..)

end Sys2Proof.Machine
end

section
/-! PROOFS. The standard mailbox commands that only read (13_management R493, 07_cxl_ports R250, R251, R258, R264, R270, 12_integrity R459,
R463; the payloads' layouts are the model's, log entries 112 to 116 and 127). -/

namespace Sys2Proof.Machine

theorem length_le (n v : Nat) : (le n v).length = n := by
  induction n generalizing v with
  | zero => rfl
  | succ n ih => simp [le, ih]

/-- An answer of Success leaves the CXL state, the regions, the tiers and the persistence unit. -/
theorem success_leaves (path : BcsPath) (opcode : Nat) (out : Bytes) (s : State) :
    (success path opcode out s).cxl = s.cxl ∧ (success path opcode out s).reg = s.reg ∧ (success path opcode out s).ti = s.ti ∧
      (success path opcode out s).pu = s.pu :=
  ⟨success_cxl .., success_reg .., success_ti .., success_pu ..⟩

/-- Settles O34: a command that is taken up runs its body (`bcs_open`), whose checks hold; the body answers Success, which changes none of
the fields named (`success_leaves`). -/
theorem standardMailboxQueries : Obligations.StandardMailboxQueries := by
  unfold Obligations.StandardMailboxQueries
  refine ⟨fun path input s hopen hlen => ?identify, fun l input m s hopen hlen hm => ?background,
    fun path input s hopen hlen hlog => ?events, fun path input s hopen hlen => ?irqPolicy, fun path input s hopen hlen => ?timestamp,
    fun path input s hopen hlen => ?logs, fun path input s hopen hlen hcel ⟨hinside, hmax⟩ => ?log,
    fun path input s hopen hlen hbureau => ?device, fun path input s hopen hlen => ?partition, fun path input s hopen hlen => ?health,
    fun path input s hopen hlen => ?alerts, fun path input s hopen hlen => ?shutdown,
    fun path input s hopen hlen hline ⟨hledger, hoverflow, hidle⟩ => ?poison, fun path input s hopen hlen hline => ?scanTime,
    fun path input s hopen hlen ⟨hscan, hidle⟩ => ?scanResults, fun path input s hopen hlen ⟨hstart, hcount⟩ => ?dcConfig,
    fun path input s hopen hlen ⟨hatt, hstart⟩ => ?extents, fun path input s hopen hlen => ?ldInfo,
    fun path input s hopen hlen hstart => ?ldAllocations,
    fun path input s hopen hlen ⟨hbureau, hinside, hmax, hpos⟩ hreadable hclean => ?labels⟩
  case identify => exact ⟨_, exec_bcs_open rfl hopen (by simp [hlen]), answered_success .., success_leaves ..⟩
  case background =>
    refine ⟨_, exec_bcs_open rfl hopen (by simp [hlen]), ?_, success_leaves ..⟩
    simp only [mailKey, mgetD, hm, Option.getD_some]
    exact answered_success ..
  case events =>
    refine ⟨_, exec_bcs_checked rfl hopen (by simp [hlen]) (by simp [hlog]), answered_success .., ?_⟩
    simp
  case irqPolicy => exact ⟨_, exec_bcs_open rfl hopen (by simp [hlen]), answered_success .., success_leaves ..⟩
  case timestamp => exact ⟨_, exec_bcs_open rfl hopen (by simp [hlen]), answered_success .., success_tb .., success_leaves ..⟩
  case logs => exact ⟨_, exec_bcs_open rfl hopen (by simp [hlen]), answered_success .., success_leaves ..⟩
  case log =>
    have hoff : fld 16 4 input ≤ celBytes.length := by omega
    refine ⟨_, exec_bcs_checked rfl hopen (by simp [hlen]) (by simp [hcel, hoff, hinside, hmax]), ?_, success_leaves ..⟩
    simp only [hcel, if_true]
    exact answered_success ..
  case device =>
    refine ⟨_, exec_bcs_open rfl hopen (by simp [hlen]), ?_, success_leaves ..⟩
    have hnone : inBureau s = false := by simp [inBureau, hbureau]
    simp only [hnone, Bool.false_eq_true, if_false]
    exact answered_success ..
  case partition => exact ⟨_, exec_bcs_open rfl hopen (by simp [hlen]), answered_success .., success_leaves ..⟩
  case health =>
    exact ⟨_, exec_bcs_open rfl hopen (by simp [hlen]),
      ⟨freeBytes 6 s, (freeBytes 14 s).drop 6, length_le .., by simp [freeBytes, length_le], answered_success ..⟩, success_leaves ..⟩
  case alerts => exact ⟨_, exec_bcs_open rfl hopen (by simp [hlen]), answered_success .., success_leaves ..⟩
  case shutdown => exact ⟨_, exec_bcs_open rfl hopen (by simp [hlen]), answered_success .., success_leaves ..⟩
  case poison =>
    refine ⟨_, exec_bcs_checked rfl hopen (by simp [hlen]) (by simp [hline]), ?_, by simp⟩
    simp only [hledger, hoverflow, hidle, Nat.reduceBEq, Bool.false_and, Bool.false_eq_true, if_false, List.filterMap_nil,
      List.foldl_nil, List.take_nil, List.length_nil, List.flatMap_nil, List.append_nil]
    exact answered_success ..
  case scanTime =>
    exact ⟨_, exec_bcs_checked rfl hopen (by simp [hlen]) (by simp [hline]), ⟨freeBytes 4 s, length_le .., answered_success ..⟩,
      success_leaves ..⟩
  case scanResults =>
    refine ⟨_, exec_bcs_open rfl hopen (by simp [hlen]), ?_, by simp⟩
    simp only [hscan, hidle, reduceCtorEq, false_and, if_false, List.take_nil, List.length_nil, List.flatMap_nil, List.append_nil]
    exact answered_success ..
  case dcConfig =>
    refine ⟨_, exec_bcs_checked rfl hopen (by simp [hlen]) (by simp [hstart]), ?_, success_leaves ..⟩
    simp only [hstart, hcount]
    exact answered_success ..
  case extents =>
    have hnone : attachmentsOf (ldOf path) s = [] := by simp [attachmentsOf, hatt]
    refine ⟨_, exec_bcs_checked rfl hopen (by simp [hlen]) (by simp [hstart]), ⟨freeBytes 4 s, length_le .., ?_⟩, success_leaves ..⟩
    simp only [hnone, hstart, List.filter_nil, List.drop_nil, List.take_nil, List.length_nil, List.flatMap_nil, List.append_nil]
    exact answered_success ..
  case ldInfo => exact ⟨_, exec_bcs_open rfl hopen (by simp [hlen]), answered_success .., success_leaves ..⟩
  case ldAllocations =>
    exact ⟨_, exec_bcs_checked rfl hopen (by simp [hlen]) (by simp [hstart]), answered_success .., success_leaves ..⟩
  case labels =>
    have hsize : inBureau s = true := by simp [inBureau, hbureau]
    refine ⟨_, exec_bcs_checked rfl hopen (by simp [hlen]) (by simp [hsize, hmax, hinside]; omega), ?_⟩
    simp only [Nat.ne_of_gt hpos, if_false, hreadable, hclean, Bool.not_true, List.isEmpty_nil, Bool.or_false, Bool.false_eq_true]
    exact ⟨answered_success .., success_leaves ..⟩

end Sys2Proof.Machine
end

section
/-! PROOFS. The heads' links, Global Persistent Flush, and the front cache's errors and power (07_cxl_ports R248, R249, R264, R269, R282 to
R286, 16_power R586, 18_package_electrical R630; the duration that GPF phase 2 records is the model's choice, log entry 69): what the loss
of a link leaves of a head, and that no other unit's end touches the heads or the regions. -/

namespace Sys2Proof.Machine

/-! ### What the loss of a link leaves alone -/

/-- What every step of a list leaves alone, the whole run leaves alone. -/
theorem foldl_same {α β : Type} {f : State → α → State} (p : State → β) (hf : ∀ s x, p (f s x) = p s) (l : List α) (s : State) :
    p (l.foldl f s) = p s := by
  induction l generalizing s with
  | nil => rfl
  | cons x l ih => exact (ih _).trans (hf s x)

/-- The CXL state and the regions, which neither the persistence unit nor the queue engine changes. -/
def ports (s : State) : Cxl × Regions := (s.cxl, s.reg)

theorem OnlyTiers.ports {s t : State} (h : OnlyTiers s t) : ports t = ports s := (congrArg Machine.ports h.rest :)

theorem sendMsg_ports (m : MplMsg) (s : State) : ports (sendMsg m s) = ports s := by
  unfold sendMsg
  split <;> rfl

theorem abandonUnit_ports (u : WUnit) (s : State) : ports (abandonUnit u s) = ports s := by
  unfold abandonUnit
  dsimp only
  split
  · exact sendMsg_ports ..
  · rfl

theorem answerV_ports (path : BcsPath) (opcode rc v : Nat) (out : Bytes) (s : State) :
    ports (answerV path opcode rc v out s) = ports s := by simp [ports]

theorem finishBg_ports (path : BcsPath) (opcode rc v : Nat) (out : Bytes) (s : State) :
    ports (finishBg path opcode rc v out s) = ports s := by
  unfold finishBg
  split
  · rfl
  · exact answerV_ports ..

theorem writeEntry_ports (qid : Nat) (o : Bytes → Output) (e : Bytes) (s : State) : ports (writeEntry qid o e s) = ports s := by
  simp [ports]

theorem sendCapsule_ports (qpn kind : Nat) (bytes : Bytes) (s : State) : ports (sendCapsule qpn kind bytes s) = ports s := by
  unfold sendCapsule
  dsimp only
  split
  · rfl
  · split <;> rfl

/-! ### Queue pairs that are deleted (09_command_queues R345) -/

theorem failFrom_ports (qid cid i status : Nat) (s : State) : ports (failFrom qid cid i status s) = ports s :=
  foldl_same ports (fun s u => abandonUnit_ports u s) ..

theorem finishDelete_ports (qid : Nat) (s : State) : ports (finishDelete qid s) = ports s := by
  unfold finishDelete
  split
  · rfl
  · split
    · rfl
    · split
      · dsimp only
        split
        · exact finishBg_ports ..
        · rfl
      · rfl

theorem complete_ports (qid cid status : Nat) (result : Bytes) (s : State) : ports (complete qid cid status result s) = ports s := by
  unfold complete
  split
  · rfl
  · dsimp only
    rw [finishDelete_ports]
    split
    · rfl
    · split
      · exact writeEntry_ports ..
      · exact sendCapsule_ports ..

/-- A started command whose pieces are abandoned ends with a free status (R345, step 3). -/
theorem abandonCmd_ports (qid : Nat) (s : State) (c : GqpCmd) :
    ports (if eOpcode c.entry = 0x02 ∨ eOpcode c.entry = 0x03 ∨ eOpcode c.entry = 0x04 then
      failFrom qid c.cid 0 (1 + (drawn s).toNat % 65535) (advance s) else s) = ports s := by
  split
  · exact failFrom_ports ..
  · rfl

theorem deleteQueue_ports (qid cause : Nat) (path : Option BcsPath) (s : State) : ports (deleteQueue qid cause path s) = ports s := by
  unfold deleteQueue
  split
  · rfl
  · split
    · rfl
    · dsimp only
      rw [finishDelete_ports]
      split
      · refine (foldl_same ports ?ended ..).trans ((foldl_same ports ?refused ..).trans (foldl_same ports ?abandoned ..))
        case ended => exact fun s c => complete_ports ..
        case refused => exact fun s c => complete_ports ..
        case abandoned => exact abandonCmd_ports qid
      · refine (foldl_same ports ?refused ..).trans (foldl_same ports ?abandoned ..)
        case refused => exact fun s c => complete_ports ..
        case abandoned => exact abandonCmd_ports qid

theorem dropHeadQueues_ports (head : Nat) (s : State) : ports (dropHeadQueues head s) = ports s := by
  have hpairs : ∀ l : List (Nat × QueuePair), ports (l.foldl (fun s e => deleteQueue e.1 2 none s) s) = ports s :=
    fun l => foldl_same ports (fun s e => deleteQueue_ports ..) l s
  unfold dropHeadQueues
  dsimp only
  split <;> exact hpairs _

/-! ### The head whose link is lost (R284) -/

theorem cleanGranule_onlyTiers {g : Granule} {s t : State} (h : cleanGranule g s = some t) : OnlyTiers s t := placeLines_onlyTiers h

theorem cleanGranule_getD_ports (g : Granule) (s : State) : ports ((cleanGranule g s).getD s) = ports s := by
  cases h : cleanGranule g s with
  | none => rfl
  | some t => exact (cleanGranule_onlyTiers h).ports

/-- A head whose front cache and requests are gone (R284). -/
def emptied (x : Head) : Head :=
  { x with granules := [], misses := [], victims := [], afterWrite := [], stalled := [], gpfPhase1 := false }

theorem modHead_ports_congr {h : Nat} {f : Head → Head} {s t : State} (hst : ports t = ports s) :
    ports (modHead h f t) = ports (modHead h f s) := by
  obtain ⟨hcxl, hreg⟩ := Prod.mk.inj hst
  simp [ports, modHead, hcxl, hreg]

theorem emptyHead_ports (h : Nat) (s : State) : ports (emptyHead h s).1 = ports (modHead h emptied s) :=
  modHead_ports_congr
    ((foldl_same ports (fun s u => abandonUnit_ports u s) ..).trans (foldl_same ports (fun s g => cleanGranule_getD_ports g s) ..))

/-- A head whose link is down (R284). -/
def linkLost (x : Head) : Head := { emptied x with up := false, pcieOnly := false, width := 0, speed := 0 }

theorem headOf_eq {h : Nat} {x : Head} {s : State} (hx : mget h s.cxl.heads = some x) : headOf h s = x := by simp [headOf, mgetD, hx]

theorem mget_modHead {h : Nat} {x : Head} {s : State} (f : Head → Head) (hx : mget h s.cxl.heads = some x) :
    mget h (modHead h f s).cxl.heads = some (f x) := by simp [modHead, mget_mmod_self, hx]

theorem headDown_up {h : Nat} {x : Head} {s : State} (cause : Nat) (hx : mget h s.cxl.heads = some x) (hup : x.up = true) :
    mget h (headDown h cause s).cxl.heads = some (linkLost x) ∧ (headDown h cause s).reg = s.reg := by
  obtain ⟨hcxl, hreg⟩ := Prod.mk.inj (emptyHead_ports h s)
  have hempty : mget h (emptyHead h s).1.cxl.heads = some (emptied x) := by rw [hcxl]; exact mget_modHead emptied hx
  unfold headDown
  rw [if_pos (by rw [headOf_eq hx]; exact hup)]
  obtain ⟨hdrop, hdropReg⟩ := Prod.mk.inj (dropHeadQueues_ports h
    (raise 0x0602 .warning (le 1 h ++ le 1 cause ++ zeros 2 ++ le 4 (emptyHead h s).2)
      (modHead h (fun y => { y with up := false, pcieOnly := false, width := 0, speed := 0 }) (emptyHead h s).1)))
  refine ⟨?_, hdropReg.trans hreg⟩
  rw [hdrop]
  exact mget_modHead _ hempty

/-! ### The link that comes up (R249, R264) -/

/-- What the offers that are sent again leave alone: everything but the attachments and what leaves the block. -/
def besideOffers (s : State) : State := { s with cxl := { s.cxl with att := [] }, out := [] }

/-- The state once a head's link is up, its event recorded (R249). -/
def linkTaken (head width speed flit : Nat) (s : State) : State :=
  raise 0x0601 .info (le 1 head ++ le 1 width ++ le 1 speed ++ le 1 flit)
    (modHead head (fun h => { h with up := true, pcieOnly := speed == 0, width := width, speed := speed, flit := flit, powerState := 0 }) s)

theorem exec_headLinkUp_serves {head : Nat} {h : Head} {s : State} (width speed flit : Nat) (hh : mget head s.cxl.heads = some h)
    (hphase : 7 ≤ s.start.phase) (hexists : headExists head s = true) (hdown : h.up = false) (hperst : h.perstLow = false) :
    ∃ t, exec (.headLinkUp head width speed flit) s = .next t ∧ besideOffers t = besideOffers (linkTaken head width speed flit s) := by
  refine ⟨_, if_neg ?_, foldl_same besideOffers ?_ ..⟩
  · simp [headOf_eq hh, hdown, hperst, hexists]
    omega
  · exact fun s e => rfl

/-! ### Errors and power of the front cache (R282, R283) -/

/-- A clean granule in error is dropped (R283). -/
theorem cacheError_clean {head granule : Nat} {h : Head} {g : Granule} {s : State} (hh : mget head s.cxl.heads = some h)
    (hg : h.granules[granule]? = some g) (hclean : g.dirty = 0) :
    ∃ data, cacheError head granule s = raise 0x0607 .error data
      (modHead head (fun h => { h with granules := h.granules.filter fun x => !isGranule g.region g.index x })
        (modHead head (fun h => { h with eccClean := true }) s)) := by
  simp only [cacheError, headOf_eq hh, hg, hclean, bne_self_eq_false, Bool.false_eq_true, if_false]
  exact ⟨_, rfl⟩

theorem cleanHead_empty {h : Head} (hgranules : h.granules = []) : cleanHead h = h := by simp [cleanHead, hgranules]

/-- A head with one bank off (R282). -/
def bankOff (bank : Nat) (h : Head) : Head :=
  { h with
    bankOn := h.bankOn &&& ~~~ BitVec.ofNat 6 (2 ^ bank), bankClean := h.bankClean &&& ~~~ BitVec.ofNat 6 (2 ^ bank)
    cleaned := mdel bank h.cleaned }

theorem exec_frontCacheBankEmpty_empty {head bank : Nat} {h : Head} {s : State} (hh : mget head s.cxl.heads = some h)
    (hgranules : h.granules = []) (hvictims : h.victims = []) (hbank : h.bankClean.getLsbD bank = true) :
    ∃ data, exec (.frontCacheBankEmpty head bank) s =
      .next (raise 0x0606 .info data (modHead head (bankOff bank) (modHead head cleanHead s))) := by
  have hhead : headOf head (modHead head cleanHead s) = h := by
    rw [headOf_eq (mget_modHead cleanHead hh), cleanHead_empty hgranules]
  refine ⟨_, if_pos ?_⟩
  simp [hhead, hgranules, hvictims, hbank]

theorem getLsbD_without {b : BitVec 6} {i : Nat} : (b &&& ~~~ BitVec.ofNat 6 (2 ^ i)).getLsbD i = false := by
  simp only [BitVec.getLsbD_and, BitVec.getLsbD_not, BitVec.getLsbD_ofNat, Nat.testBit_two_pow_self, Bool.and_true]
  by_cases hi : i < 6 <;> simp [hi]

/-! ### The obligation -/

theorem servesMem_of_up {head : Nat} {h : Head} {s : State} (hh : mget head s.cxl.heads = some h) (hup : h.up = true)
    (hmem : h.pcieOnly = false) : servesMem head s = true := by simp [servesMem, hh, hup, hmem]

/-- Settles O31: each command of a head changes that head (`mget_modHead`); a lost link ends in `headDown_up`. -/
theorem headLinksAndGlobalPersistentFlush : Obligations.HeadLinksAndGlobalPersistentFlush := by
  unfold Obligations.HeadLinksAndGlobalPersistentFlush
  refine ⟨fun head width speed flit h s hh hphase hexists ⟨hdown, hperst⟩ hqueue => ?linkUp, fun head cause h s hh hup => ?linkDown,
    fun head h s hh => ?perst, fun head h s hh hperst => ?perstEnd, fun head state h s hh ⟨hup, hstate⟩ => ?power,
    fun head h s hh ⟨hup, hmem⟩ => ?gpf1, fun head h s hh ⟨hup, hmem⟩ hroom => ?gpf2,
    fun head granule h g s hh hg hclean hroom => ?ecc, fun head bank h s hh ⟨hgranules, hvictims⟩ hbank hroom => ?bankOff⟩
  case linkUp =>
    obtain ⟨t, hexec, ht⟩ := exec_headLinkUp_serves width speed flit hh hphase hexists hdown hperst
    have hheads : t.cxl.heads = (linkTaken head width speed flit s).cxl.heads :=
      (congrArg (fun u : State => u.cxl.heads) ht :)
    have hev : t.ev = (linkTaken head width speed flit s).ev := (congrArg State.ev ht :)
    have hhead : mget head t.cxl.heads =
        some { h with up := true, pcieOnly := speed == 0, width := width, speed := speed, flit := flit, powerState := 0 } :=
      (congrArg (mget head) hheads).trans (mget_modHead _ hh)
    have hroom : eventRoom s = true := by simp [eventRoom]; omega
    refine ⟨t, hexec, by rw [hhead]; rfl, by rw [hhead]; simp [hperst], ?_, (congrArg State.ti ht :), (congrArg State.pu ht :),
      (congrArg State.reg ht :)⟩
    rw [recorded, hev]
    exact recorded_raise _ _ _ hroom
  case linkDown =>
    obtain ⟨hhead, hreg⟩ := headDown_up cause hh hup
    exact ⟨_, rfl, by rw [hhead]; rfl, by rw [hhead]; rfl, hreg⟩
  case perst =>
    have hknown : mhas head s.cxl.heads = true := by simp [mhas, hh]
    refine ⟨_, if_pos hknown, ?_⟩
    by_cases hup : h.up = true
    · obtain ⟨hhead, hreg⟩ := headDown_up 0 hh hup
      exact ⟨by rw [mget_modHead _ hhead]; rfl, hreg⟩
    · have hsame : headDown head 0 s = s := if_neg (by rw [headOf_eq hh]; exact hup)
      rw [hsame, mget_modHead _ hh]
      exact ⟨by simpa using hup, rfl⟩
  case perstEnd => exact ⟨_, rfl, by rw [mget_modHead _ hh]; rfl, rfl, rfl, rfl⟩
  case power =>
    refine ⟨_, congrArg Host.Outcome.next (if_pos (by simp [headOf_eq hh, hup, hstate])), ?_, rfl, rfl, rfl, rfl⟩
    rw [mget_modHead _ hh]
    exact congrArg (fun up => some (up, state)) hup
  case gpf1 =>
    exact ⟨_, if_pos (servesMem_of_up hh hup hmem), rfl, mget_modHead _ hh, rfl, rfl, rfl, rfl⟩
  case gpf2 =>
    exact ⟨_, if_pos (servesMem_of_up hh hup hmem), rfl, mget_modHead (fun h => { h with gpfPhase1 := false }) hh,
      newestEvent_raise _ _ _ hroom, rfl, rfl, rfl⟩
  case ecc =>
    obtain ⟨data, herror⟩ := cacheError_clean hh hg hclean
    refine ⟨_, congrArg Host.Outcome.next herror, ?_, newestEvent_raise _ _ _ hroom, rfl, rfl, rfl⟩
    exact congrArg (Option.map fun x : Head => (x.eccClean, x.granules)) (mget_modHead _ (mget_modHead _ hh))
  case bankOff =>
    obtain ⟨data, hexec⟩ := exec_frontCacheBankEmpty_empty hh hgranules hvictims hbank
    have hhead : mget head (modHead head (bankOff bank) (modHead head cleanHead s)).cxl.heads = some (bankOff bank (cleanHead h)) :=
      mget_modHead _ (mget_modHead _ hh)
    refine ⟨_, hexec, ?_, newestEvent_raise _ _ _ hroom, rfl, rfl, rfl⟩
    refine (congrArg (Option.map fun x : Head => (x.bankOn.getLsbD bank, x.bankClean.getLsbD bank)) hhead).trans ?_
    simp only [Option.map_some, bankOff, getLsbD_without]

end Sys2Proof.Machine
end

section
/-! PROOFS. CXL.mem reads and writes, the fills and the victims of the front cache (07_cxl_ports R265, R266, R271 to R281, 12_integrity
R458): where an access ends by its attachment and its granule, and what an answer leaves. -/

namespace Sys2Proof.Machine

/-! ### What an answer to a host leaves -/

theorem OnlyTiers.pu {s t : State} (h : OnlyTiers s t) : t.pu = s.pu := (congrArg State.pu h.rest :)

theorem OnlyTiers.cxl {s t : State} (h : OnlyTiers s t) : t.cxl = s.cxl := (congrArg State.cxl h.rest :)

theorem OnlyLogs.cxl {s t : State} (h : OnlyLogs s t) : t.cxl = s.cxl := (congrArg State.cxl h.rest :)

theorem raiseLimited_onlyLogs (code key : Nat) (sev : Severity) (data : Nat → Bytes) (s : State) :
    OnlyLogs s (raiseLimited code key sev data s) := by
  have hnoted (l : List Report) : OnlyLogs s { s with ev := { s.ev with reports := l } } := ev_onlyLogs List.prefix_rfl
  unfold raiseLimited
  split
  · exact (hnoted _).trans (raise_onlyLogs ..)
  · split
    · exact (hnoted _).trans (raise_onlyLogs ..)
    · exact hnoted _

/-- One output has left the block, and the CXL state, the tiers, the persistence unit and the regions are as they were. -/
structure Answers (o : Output) (s t : State) : Prop where
  out : t.out = o :: s.out
  cxl : t.cxl = s.cxl
  ti : t.ti = s.ti
  pu : t.pu = s.pu
  reg : t.reg = s.reg

theorem Answers.logged {o : Output} {s t u : State} (h : Answers o s t) (g : OnlyLogs t u) : Answers o s u :=
  ⟨g.out.trans h.out, g.cxl.trans h.cxl, g.ti.trans h.ti, g.pu.trans h.pu, g.reg.trans h.reg⟩

/-- The state with one more poisoned line that a consumer took (12_integrity R458). -/
def biteCounted (s : State) : State := { s with ecc := { s.ecc with poisonOut := satAdd 0xFFFFFFFF s.ecc.poisonOut 1 } }

theorem poisonBites_onlyLogs (kind region line : Nat) (s : State) : OnlyLogs (biteCounted s) (poisonBites kind region [line] s) := by
  unfold poisonBites
  exact raiseLimited_onlyLogs ..

/-- A read returns its line, with its poison mark; poisoned lines are counted (R265, 12_integrity R458). -/
theorem answerRead_answers (q : CxlReq) (l : LineRead) (region line : Nat) (s : State) :
    Answers (.cxlData q.head q.tag l.data l.poison (headLoad q.head s)) s (answerRead q l region line s) := by
  unfold answerRead
  dsimp only
  split
  · exact Answers.logged (t := biteCounted (sendData q.head q.tag l.data l.poison s)) ⟨rfl, rfl, rfl, rfl, rfl⟩
      (poisonBites_onlyLogs ..)
  · exact ⟨rfl, rfl, rfl, rfl, rfl⟩

theorem answerPoison_answers (q : CxlReq) (s : State) :
    Answers (.cxlData q.head q.tag (drawn s) true (headLoad q.head s)) s (answerPoison q s) := ⟨rfl, rfl, rfl, rfl, rfl⟩

theorem sendCmp_answers (h tag : Nat) (s : State) : Answers (.cxlCmp h tag (headLoad h s)) s (sendCmp h tag s) :=
  ⟨rfl, rfl, rfl, rfl, rfl⟩

theorem exec_cxlMemRead_serves {q : CxlReq} {s : State} (hserves : servesMem q.head s = true) :
    exec (.cxlMemRead q {}) s = .next (cxlRead q s) := if_pos hserves

theorem exec_cxlMemWrite_serves {q : CxlReq} {s : State} (data : Line) (mask : Mask) (poison : Bool)
    (hserves : servesMem q.head s = true) :
    exec (.cxlMemWrite q data mask poison) s = .next (cxlWrite q data mask poison s) := if_pos hserves

/-! ### Accesses that no attachment maps (R265, R286) -/

/-- The state with one more access of a target that met no attachment. -/
def unmappedCounted (q : CxlReq) (s : State) : State :=
  modCxl (fun c => { c with unmapped := mmodD 0 (targetOf q s) (· + 1) c.unmapped }) s

theorem noteUnmapped_onlyLogs (q : CxlReq) (wr : Bool) (s : State) : OnlyLogs (unmappedCounted q s) (noteUnmapped q wr s) := by
  unfold noteUnmapped
  exact raiseLimited_onlyLogs ..

theorem headLoad_noteUnmapped (h : Nat) (q : CxlReq) (wr : Bool) (s : State) : headLoad h (noteUnmapped q wr s) = headLoad h s := by
  simp only [headLoad, (noteUnmapped_onlyLogs q wr s).cxl]
  rfl

theorem unmappedCounted_count (q : CxlReq) (s : State) :
    mgetD 0 (targetOf q s) (unmappedCounted q s).cxl.unmapped = mgetD 0 (targetOf q s) s.cxl.unmapped + 1 := by
  simp [unmappedCounted, mgetD, mmodD, mget_mput_self]

theorem cxlRead_unmapped {q : CxlReq} {s : State} (hnone : attachmentAt (targetOf q s) q.dpa s = none) :
    cxlRead q s = answerPoison q (noteUnmapped q false s) := by simp only [cxlRead, hnone]

theorem cxlWrite_unmapped {q : CxlReq} (data : Line) (mask : Mask) (poison : Bool) {s : State}
    (hnone : attachmentAt (targetOf q s) q.dpa s = none) :
    cxlWrite q data mask poison s = sendCmp q.head q.tag (noteUnmapped q true s) := by simp only [cxlWrite, hnone]

/-! ### Accesses to a region that is served here -/

section
variable {q : CxlReq} {n : Nat} {a : Attachment} {d : Region} {s : State}
  (hatt : attachmentAt (targetOf q s) q.dpa s = some (n, a)) (hd : regionOf a.region s = some d)
  (hroute : route a.region (offsetIn a q.dpa) s = .here)
include hatt hd hroute

theorem cxlRead_here (hpending : writePending q.head a.region (offsetIn a q.dpa / 64) s = false) :
    cxlRead q s = cacheRead q a.region d (offsetIn a q.dpa / 64) s := by
  simp only [cxlRead, hatt, hd, hroute, readServed, hpending, Bool.false_eq_true, if_false]

/-- A write to a persistent region goes past the front cache (R272). -/
theorem cxlWrite_persistent {data : Line} {mask : Mask} {poison : Bool} (hpersistent : d.isVolatile = false)
    (hwritable : writeRefused a.region d (offsetIn a q.dpa / 64 * 64) 64 s = false) :
    cxlWrite q data mask poison s = writePast q a.region ⟨offsetIn a q.dpa / 64, mask, data, poison⟩ s := by
  simp only [cxlWrite, hatt, hd, hroute, hwritable, hpersistent, Bool.false_eq_true, if_false]

end

/-! ### Hits and misses (R274 to R276) -/

/-- A head after a hit of a granule: it is the most recently used (R275), and the hit is counted. -/
def hitBy (g : Granule) (h : Head) : Head := { useGranule g h with hit := (h.hit + 1) % 2 ^ 32 }

theorem cacheRead_hit {q : CxlReq} {r line : Nat} {d : Region} {h : Head} {g : Granule} {s : State}
    (hh : mget q.head s.cxl.heads = some h) (hg : granuleOf r (line / 4) h = some g) (hvalid : lineValid line g = true) :
    cacheRead q r d line s = answerRead q (granuleLine line g) r line (modHead q.head (hitBy g) s) := by
  simp only [cacheRead, headOf_eq hh, hg, hvalid, if_true]
  rfl

/-- The granule that a miss takes in bank 0 of an empty front cache. -/
def filledGranule (r i : Nat) : Granule := { region := r, index := i, bank := 0, filling := true }

/-- A head with its first miss: the register, and the granule that waits for its lines (R275, R276). -/
def missTaken (q : CxlReq) (r i : Nat) (h : Head) : Head :=
  { useGranule (filledGranule r i) h with
    misses := [(0, { region := r, index := i, requests := [q] })], miss := (h.miss + 1) % 2 ^ 32 }

theorem cacheRead_miss {q : CxlReq} {r line : Nat} {d : Region} {h : Head} {s : State} (hh : mget q.head s.cxl.heads = some h)
    (hpersistent : d.isVolatile = false) (hgranules : h.granules = []) (hmisses : h.misses = []) (hvictims : h.victims = [])
    (hon : h.bankOn = 0b111111) (hclean : h.bankClean = 0) :
    cacheRead q r d line s = wantRange r (line / 4 * 256) 256 (modHead q.head (fun _ => missTaken q r (line / 4) h) s) := by
  have hgranule : granuleOf r (line / 4) h = none := by simp [granuleOf, hgranules]
  have hvictim : victimOf r (line / 4) h = none := by simp [victimOf, hvictims]
  have hopen : openMiss r (line / 4) h = none := by simp [openMiss, hmisses]
  have hfree : freeMiss h = some 0 := by simp [freeMiss, hmisses, mhas, mget, List.range_succ]
  have hbank : freeBank h = some 0 := by simp [freeBank, openBanks, hgranules, hon, hclean, List.range_succ]
  simp only [cacheRead, headOf_eq hh, hgranule, hvictim, hpersistent, Bool.false_eq_true, if_false, missRead, hopen, hfree, makePlace,
    hbank]
  simp only [missTaken, filledGranule, useGranule, hmisses, mput]

/-- The segments of a range that is read are touched or wait for a slot: the tiers' matter alone (04_tiers R112, R114). -/
theorem wantRange_onlyTiers (r off len : Nat) (s : State) : OnlyTiers s (wantRange r off len s) := by
  refine ⟨foldl_same (fun u : State => { u with ti := s.ti }) ?_ ..⟩
  intro u lcn
  split
  · rfl
  · split <;> rfl

/-! ### Fills (R274, R276, R278) -/

/-- No read is stalled: there is none to try again. -/
theorem retryStalled_none {head : Nat} {h : Head} {s : State} (hh : mget head s.cxl.heads = some h) (hstalled : h.stalled = []) :
    retryStalled head s = modHead head (fun h => { h with stalled := [] }) s := by
  simp only [retryStalled, headOf_eq hh, hstalled, List.foldl_nil]

theorem cleanHead_noBank {h : Head} (hclean : h.bankClean = 0) : cleanHead h = h := by simp [cleanHead, hclean]

/-- A head as it was, and no other part of the state but the heads has changed. -/
structure HeadStands (head : Nat) (h : Head) (s t : State) : Prop where
  head : mget head t.cxl.heads = some h
  out : t.out = s.out
  ti : t.ti = s.ti
  pu : t.pu = s.pu
  reg : t.reg = s.reg

/-- The end of a fill or of a handoff, where no bank is being emptied and no read is stalled. -/
theorem retryStalled_stands {head : Nat} {h : Head} {s : State} (hh : mget head s.cxl.heads = some h) (hstalled : h.stalled = [])
    (hclean : h.bankClean = 0) : HeadStands head h s (retryStalled head (modHead head cleanHead s)) := by
  have hcleaned := mget_modHead cleanHead hh
  rw [cleanHead_noBank hclean] at hcleaned
  rw [retryStalled_none hcleaned hstalled]
  refine ⟨(mget_modHead _ hcleaned).trans ?_, rfl, rfl, rfl, rfl⟩
  rw [← hstalled]

/-- The four lines of a granule as they are below the front cache. -/
def linesBelow (m : MissReg) (s : State) : List LineRead :=
  (List.range 4).map fun k => (readLine m.region (m.index * 4 + k) s).getD ⟨0, true⟩

theorem linesBelow_line {m : MissReg} {line : Nat} {l : LineRead} {s : State}
    (hl : readLine m.region (m.index * 4 + line % 4) s = some l) : (linesBelow m s).getD (line % 4) ⟨0, true⟩ = l := by
  have hline : line % 4 < 4 := Nat.mod_lt _ (by decide)
  simp [linesBelow, List.getD_eq_getElem?_getD, hline, hl]

/-- A head whose granule has its lines and whose register is free (R276). -/
def filled (register : Nat) (m : MissReg) (lines : List LineRead) (h : Head) : Head :=
  let fill (g : Granule) : Granule :=
    if isGranule m.region m.index g && g.filling then
      (if m.stale || !m.allocate then { g with filling := false } else fillGranule m.index lines g)
    else g
  { h with
    misses := mdel register h.misses
    granules := (h.granules.map fill).filter fun g => !(isGranule m.region m.index g && m.stale && g.valid == 0) }

/-- The answer of a merged request, once its granule's lines are here (R276). -/
def answerFill (m : MissReg) (lines : List LineRead) (s : State) (q : CxlReq) : State :=
  match attachmentAt (targetOf q s) q.dpa s with
  | none => answerPoison q s
  | some (_, a) => answerRead q (lines.getD (offsetIn a q.dpa / 64 % 4) ⟨0, true⟩) m.region (offsetIn a q.dpa / 64) s

theorem exec_missFillReturn_ready {head register : Nat} {h : Head} {m : MissReg} {s : State} (hh : mget head s.cxl.heads = some h)
    (hm : mget register h.misses = some m) (hready : belowReady m.region m.index s = true) :
    exec (.missFillReturn head register) s = .next (retryStalled head (modHead head cleanHead
      (m.requests.foldl (answerFill m (linesBelow m s)) (modHead head (filled register m (linesBelow m s)) s)))) := by
  change execMissFillReturn head register s = _
  simp only [execMissFillReturn, headOf_eq hh, hm, hready, Bool.not_true, Bool.false_eq_true, if_false]
  rfl

theorem answerFill_attached {m : MissReg} {lines : List LineRead} {q : CxlReq} {n : Nat} {a : Attachment} {s : State}
    (hatt : attachmentAt (targetOf q s) q.dpa s = some (n, a)) :
    answerFill m lines s q =
      answerRead q (lines.getD (offsetIn a q.dpa / 64 % 4) ⟨0, true⟩) m.region (offsetIn a q.dpa / 64) s := by
  simp only [answerFill, hatt]

/-! ### Victims (R280, R281) -/

theorem cleanGranule_clean {g : Granule} (s : State) (hclean : g.dirty = 0) : cleanGranule g s = some s := by
  simp [cleanGranule, hclean, placeLines]

theorem exec_victimHandoff_clean {head entry : Nat} {h : Head} {v : Victim} {s : State} (hh : mget head s.cxl.heads = some h)
    (hv : mget entry h.victims = some v) (htouched : v.touched = false) (hclean : v.granule.dirty = 0) :
    exec (.victimHandoff head entry) s = .next (retryStalled head (modHead head cleanHead
      (modHead head (fun h => { h with victims := mdel entry h.victims }) s))) := by
  change execVictimHandoff head entry s = _
  simp only [execVictimHandoff, headOf_eq hh, hv, cleanGranule_clean s hclean, htouched, Bool.false_eq_true, if_false]

/-! ### The obligation -/

/-- Settles O32: a read or a write ends by its attachment (`cxlRead_unmapped`, `cxlRead_here`, `cxlWrite_persistent`) and, in the front
cache, by its granule (`cacheRead_hit`, `cacheRead_miss`); an answer is one output and leaves the rest (`answerRead_answers`). -/
theorem cxlMemoryAccesses : Obligations.CxlMemoryAccesses := by
  unfold Obligations.CxlMemoryAccesses
  refine ⟨fun req s hserves hnone => ?readUnmapped,
    fun req n a d h g s hserves hatt hd hroute hpending hh hg hvalid => ?hit,
    fun req n a d h s hserves hatt hd hpersistent hroute hpending hh ⟨hgranules, hmisses, hvictims, hon, hclean⟩ => ?miss,
    fun req data mask poison n a d s hserves hatt hd hpersistent hroute hwritable => ?write,
    fun req data mask poison s hserves hnone => ?writeUnmapped,
    fun head register n h m q a l s hh hm ⟨hstalled, hclean⟩ hready hone hatt _ hl => ?fill,
    fun head entry h v s hh hv ⟨htouched, hdirty⟩ ⟨hstalled, hclean⟩ => ?victim⟩
  case readUnmapped =>
    have hlogs := noteUnmapped_onlyLogs req false s
    have hans := answerPoison_answers req (noteUnmapped req false s)
    rw [headLoad_noteUnmapped] at hans
    have hexec := exec_cxlMemRead_serves hserves
    rw [cxlRead_unmapped hnone] at hexec
    refine ⟨_, hexec, ⟨_, hans.out ▸ List.mem_cons_self ..⟩, ?_, hans.ti.trans hlogs.ti, hans.pu.trans hlogs.pu,
      hans.reg.trans hlogs.reg⟩
    rw [hans.cxl, hlogs.cxl, unmappedCounted_count]
  case hit =>
    have hread := (cxlRead_here hatt hd hroute hpending).trans (cacheRead_hit (d := d) hh hg hvalid)
    have hhead := mget_modHead (hitBy g) hh
    have hans := answerRead_answers req (granuleLine (offsetIn a req.dpa / 64) g) a.region (offsetIn a req.dpa / 64)
      (modHead req.head (hitBy g) s)
    have hload : headLoad req.head (modHead req.head (hitBy g) s) = h.devLoad := by rw [headLoad, hhead]; rfl
    rw [hload] at hans
    refine ⟨_, (exec_cxlMemRead_serves hserves).trans (congrArg Host.Outcome.next hread), hans.out ▸ List.mem_cons_self .., ?_, hans.ti,
      hans.pu, hans.reg⟩
    rw [hans.cxl, hhead]
    rfl
  case miss =>
    have hread := (cxlRead_here hatt hd hroute hpending).trans
      (cacheRead_miss (r := a.region) (line := offsetIn a req.dpa / 64) hh hpersistent hgranules hmisses hvictims hon hclean)
    have htiers := wantRange_onlyTiers a.region (offsetIn a req.dpa / 64 / 4 * 256) 256
      (modHead req.head (fun _ => missTaken req a.region (offsetIn a req.dpa / 64 / 4) h) s)
    refine ⟨_, (exec_cxlMemRead_serves hserves).trans (congrArg Host.Outcome.next hread), htiers.out, ?_, ?_, htiers.pu, htiers.reg⟩
    · rw [htiers.cxl, mget_modHead _ hh]
      rfl
    · rw [htiers.cxl, mget_modHead _ hh]
      rfl
  case write =>
    have hexec := exec_cxlMemWrite_serves data mask poison hserves
    rw [cxlWrite_persistent hatt hd hroute hpersistent hwritable] at hexec
    refine ⟨_, hexec, rfl, length_submitUnit .., ?_, rfl, rfl, rfl⟩
    rw [writePast, getLast_submitUnit]
    rfl
  case writeUnmapped =>
    have hlogs := noteUnmapped_onlyLogs req true s
    have hans := sendCmp_answers req.head req.tag (noteUnmapped req true s)
    have hout := hans.out
    rw [headLoad_noteUnmapped, hlogs.out] at hout
    have hexec := exec_cxlMemWrite_serves data mask poison hserves
    rw [cxlWrite_unmapped data mask poison hnone] at hexec
    exact ⟨_, hexec, hout, hans.pu.trans hlogs.pu, hans.ti.trans hlogs.ti, hans.reg.trans hlogs.reg⟩
  case fill =>
    let u := modHead head (filled register m (linesBelow m s)) s
    have hfilled : mget head u.cxl.heads = some (filled register m (linesBelow m s) h) := mget_modHead _ hh
    have hanswer : answerFill m (linesBelow m s) u q = answerRead q l m.region (offsetIn a q.dpa / 64) u := by
      rw [answerFill_attached (s := u) hatt, linesBelow_line hl]
    have hans := answerRead_answers q l m.region (offsetIn a q.dpa / 64) u
    have hend := retryStalled_stands (h := filled register m (linesBelow m s) h) (hans.cxl ▸ hfilled) hstalled hclean
    have hexec := exec_missFillReturn_ready hh hm hready
    rw [hone, List.foldl_cons, List.foldl_nil, hanswer] at hexec
    refine ⟨_, hexec, ⟨headLoad q.head u, ?_⟩, ?_, hend.ti.trans hans.ti, hend.pu.trans hans.pu, hend.reg.trans hans.reg⟩
    · rw [hend.out, hans.out]
      exact List.mem_cons_self ..
    · rw [hend.head]
      exact congrArg some (mget_mdel_self ..)
  case victim =>
    have hgone := mget_modHead (fun h : Head => { h with victims := mdel entry h.victims }) hh
    have hend := retryStalled_stands hgone hstalled hclean
    refine ⟨_, exec_victimHandoff_clean hh hv htouched hdirty, ?_, hend.out, hend.ti, hend.pu, hend.reg⟩
    rw [hend.head]
    exact congrArg some (mget_mdel_self ..)

end Sys2Proof.Machine
end

section
/-! PROOFS. Offers that the host does not answer (07_cxl_ports R260, R286): the event of the entry's change of state comes before event
0x0605, and takes the recorder's last room. -/

namespace Sys2Proof.Machine

/-- While no bureau is designated, a change of an attachment's state is an event and no write (R259, R260). -/
theorem setAttachment_noBureau (n : Nat) (a : Attachment) (free : Bool) {s : State} (h : s.cxl.bureau = 0) :
    setAttachment n a free s = modCxl (fun c => { c with att := mput n a c.att })
      (raise 0x0604 .info (attachEvent a (if free then 0 else a.state.code)) s) := by simp [setAttachment, inBureau, h]

/-- The entry of an offer that has become FREE: it is unmapped at the next boundary (R263). -/
def freed (a : Attachment) (s : State) : Attachment :=
  { a with state := .releasing, unmapAt := some (s.tb.beat + 1), deadline := none, detach := none, released := false }

/-- An offer that is not answered in time, while no bureau is designated: event 0x0604, then event 0x0605 (R260, step 4). -/
theorem exec_offerTimeout_noBureau {entry b : Nat} {a : Attachment} {s : State} (ha : mget entry s.cxl.att = some a)
    (hoffered : a.state = .offered) (hdeadline : a.deadline = some b) (hdetach : a.detach = none) (hlate : b ≤ s.tb.beat)
    (hbureau : s.cxl.bureau = 0) :
    exec (.offerTimeout entry) s = .next (raise 0x0605 .warning (le 2 a.region ++ le 4 a.rext ++ le 2 a.target ++ le 1 1)
      (modCxl (fun c => { c with att := mput entry (freed a s) c.att }) (raise 0x0604 .info (attachEvent (freed a s) 0) s))) := by
  have hfree : freeAttachment entry a s =
      modCxl (fun c => { c with att := mput entry (freed a s) c.att }) (raise 0x0604 .info (attachEvent (freed a s) 0) s) := by
    simp only [freeAttachment, hdetach]
    exact setAttachment_noBureau entry (freed a s) true hbureau
  change execOfferTimeout entry s = _
  simp only [execOfferTimeout, ha, hdeadline, hoffered, hlate, and_self, if_true, refuseOffer, hfree]

/-- An offer of which the deadline has passed, with room for one more event in the recorder's queue. -/
def lateOffer : State :=
  { State.reset with
    ev := { queue := List.replicate 1023 { code := 0x0407, severity := .info, beat := 0, tod := 0, hours := 0, cycles := 0, data := [] } }
    cxl := { att := [(3, { region := 7, rext := 0, target := 0, state := .offered, dpa := 0, deadline := some 0 })] } }

theorem lateOffer_queue_length : lateOffer.ev.queue.length = 1023 := List.length_replicate ..

theorem lateOffer_eventRoom : eventRoom lateOffer = true := by
  rw [eventRoom, lateOffer_queue_length]
  rfl

/-- Event 0x0604 takes the last room, and event 0x0605 is lost. -/
theorem lateOffer_loses_event : ∃ t, exec (.offerTimeout 3) lateOffer = .next t ∧ newestEvent t = some (0x0604, .info) := by
  refine ⟨_, exec_offerTimeout_noBureau (b := 0) rfl rfl rfl rfl (Nat.zero_le _) rfl, ?_⟩
  generalize hdata : attachEvent _ 0 = data
  have hqueue : (raise 0x0604 .info data lateOffer).ev.queue = lateOffer.ev.queue ++ [mkEvent 0x0604 .info 0xFFFF data lateOffer] :=
    raise_queue_room _ _ _ (by rw [lateOffer_queue_length]; decide)
  have hfull : 1024 ≤ (raise 0x0604 .info data lateOffer).ev.queue.length := by
    rw [hqueue, List.length_append, lateOffer_queue_length, List.length_singleton]
  rw [newestEvent, raise_queue_full]
  · rw [modCxl_ev, hqueue, List.getLast?_concat]
    rfl
  · exact hfull

/-- Refutes O33: room for one event does not suffice for event 0x0605 of an offer that times out. Event 0x0604 of the entry's change of
state goes first (R260), and takes the room (`lateOffer_loses_event`). -/
theorem not_dynamicCapacityAndMemoryKeys : ¬ Obligations.DynamicCapacityAndMemoryKeys := by
  unfold Obligations.DynamicCapacityAndMemoryKeys
  rintro ⟨-, -, htimeout, -⟩
  obtain ⟨t, hexec, -, hnewest, -⟩ := htimeout 3 0 _ lateOffer rfl ⟨rfl, rfl, rfl⟩ (Nat.zero_le _) rfl lateOffer_eventRoom
  obtain ⟨u, hexec', hlost⟩ := lateOffer_loses_event
  rw [hexec] at hexec'
  cases hexec'
  rw [hlost] at hnewest
  cases hnewest

end Sys2Proof.Machine
end

section
/-! PROOFS. The commands of the QPs, of the queue pairs and of the fabric ports (08_remote_access R297 to R300, R322, 09_command_queues
R342 to R345, 13_management R503): each check holds, and each body changes one entry of one table. -/

namespace Sys2Proof.Machine

/-! ### QPs by their numbers -/

theorem qpOf_some {qpn : Nat} {q : Qp} {s : State} (h : qpOf qpn s = some q) :
    ¬ qpn < 0x10000 ∧ mget (qpn - 0x10000) s.net.qps = some q := by
  unfold qpOf at h
  split at h
  · cases h
  next hnum => exact ⟨hnum, h⟩

theorem qpOf_of_net {qpn : Nat} {s t : State} (h : ¬ qpn < 0x10000) (hnet : t.net = s.net) :
    qpOf qpn t = mget (qpn - 0x10000) s.net.qps := by rw [qpOf, if_neg h, hnet]

/-! ### Checks in a row -/

theorem firstBad_append {l r : List (Bool × Nat)} (h : firstBad l = none) : firstBad (l ++ r) = firstBad r := by
  induction l with
  | nil => rfl
  | cons f l ih =>
    obtain ⟨ok, off⟩ := f
    cases ok with
    | false => cases h
    | true => exact ih h

/-- The transition from RESET to INIT keeps attributes that are the ones in force (R298). -/
theorem mergeAttr_reset_init_self (a : QpAttr) : mergeAttr a a .reset .init = a := rfl

/-! ### Queue pairs beside an answer -/

theorem queueOf_signalCount_other {qid n : Nat} (s : State) (h : n ≠ qid) : queueOf n (signalCount qid s) = queueOf n s := by
  unfold signalCount
  split
  · rfl
  · split
    · exact queueOf_modQ_other _ _ h
    · rfl

theorem queueOf_writeEntry_other {qid n : Nat} (o : Bytes → Output) (e : Bytes) (s : State) (h : n ≠ qid) :
    queueOf n (writeEntry qid o e s) = queueOf n s :=
  (queueOf_signalCount_other _ h).trans (queueOf_modQ_other _ (emit (o e) s) h)

/-- The end of a tunnelled command changes queue 0 alone (R365). -/
theorem queueOf_tunnelEnd_other {n : Nat} (cid rc : Nat) (out : Bytes) (s : State) (h : n ≠ 0) :
    queueOf n (tunnelEnd cid rc out s) = queueOf n s := by
  unfold tunnelEnd
  split
  · rfl
  · split
    · rfl
    · split
      · rfl
      · refine (queueOf_writeEntry_other _ _ _ h).trans ((queueOf_modQ_other _ _ h).trans ?_)
        split <;> rfl

theorem queueOf_answerV_other {n : Nat} (path : BcsPath) (opcode rc v : Nat) (out : Bytes) (s : State) (h : n ≠ 0) :
    queueOf n (answerV path opcode rc v out s) = queueOf n s := by
  cases path with
  | sideband => rfl
  | primary l =>
    simp only [answerV]
    split <;> rfl
  | fm g =>
    simp only [answerV]
    split <;> rfl
  | admin cid => exact queueOf_tunnelEnd_other cid rc out _ h
  | forwarded m p => rfl

theorem queueOf_success_other {n : Nat} (path : BcsPath) (opcode : Nat) (out : Bytes) (s : State) (h : n ≠ 0) :
    queueOf n (success path opcode out s) = queueOf n s := queueOf_answerV_other path opcode 0 0xFFFF out s h

theorem queueOf_startBg_other {n : Nat} (path : BcsPath) (opcode : Nat) (s : State) (h : n ≠ 0) :
    queueOf n (startBg path opcode s) = queueOf n s := by
  unfold startBg
  dsimp only
  split
  · exact queueOf_answerV_other path opcode 1 0xFFFF [] _ h
  · rfl

/-! ### The end of a command that runs in the background -/

/-- The work of a command in the background is done, and its result waits for delivery (R489). -/
theorem finishBg_waits {path : BcsPath} {opcode : Nat} (rc v : Nat) (out : Bytes) {s : State}
    (h : ({ path := path, opcode := opcode } : BgCmd) ∈ s.mc.bg) :
    ∃ bg, finishBg path opcode rc v out s = { s with mc := { s.mc with bg := bg } } ∧
      (bg.any fun b => b.opcode == opcode && b.result == some ⟨rc, v, out⟩) = true := by
  have hruns : (s.mc.bg.any fun b => b.opcode == opcode && b.path == path && b.result.isNone) = true :=
    List.any_eq_true.mpr ⟨_, h, by simp⟩
  refine ⟨_, by rw [finishBg, if_pos hruns], List.any_eq_true.mpr ⟨_, List.mem_map_of_mem h, by simp⟩⟩

/-- A state without a queue pair and what is bound to it (R345). -/
def withoutQueue (qid : Nat) (s : State) : State :=
  let s := modGqp (fun g => { g with pairs := mdel qid g.pairs, transfers := g.transfers.filter fun t => t.2.qid != qid }) s
  { s with te := { s.te with bound := mdel qid s.te.bound } }

theorem queueOf_withoutQueue (qid : Nat) (s : State) : queueOf qid (withoutQueue qid s) = none := mget_mdel_self ..

theorem queueOf_raise (qid code : Nat) (sev : Severity) (data : Bytes) (s : State) :
    queueOf qid (raise code sev data s) = queueOf qid s := rfl

/-- A queue pair under deletion with no command in flight is gone, event 0x0801 tells, and its command ends (R345). -/
theorem finishDelete_idle {qid cause : Nat} {path : BcsPath} {q : QueuePair} {s : State} (hq : queueOf qid s = some q)
    (hdeleting : q.deleting = some cause) (hpath : q.deletePath = some path) (hidle : q.cmds = []) :
    finishDelete qid s = finishBg path 0xC0B1 0 0xFFFF (le 4 q.aborted)
      (raise 0x0801 .info (queueEventData qid cause q) (withoutQueue qid s)) := by
  unfold finishDelete
  simp only [hq, hdeleting, hpath, hidle, List.isEmpty_nil, if_true]
  rfl

/-- A state with a queue pair under deletion by a command (R345, step 1). -/
def underDeletion (qid cause : Nat) (path : BcsPath) (s : State) : State :=
  modGqp (fun g => { g with transfers := g.transfers.filter fun t => t.2.qid != qid })
    (modQ qid (fun q => { q with deleting := some cause, deletePath := some path, ring := [], notices := [] }) s)

theorem queueOf_underDeletion (qid cause : Nat) (path : BcsPath) (s : State) : queueOf qid (underDeletion qid cause path s) =
    (queueOf qid s).map fun q => { q with deleting := some cause, deletePath := some path, ring := [], notices := [] } :=
  queueOf_modQ_self ..

theorem deleteQueue_idle {qid cause : Nat} {path : BcsPath} {q : QueuePair} {s : State} (hq : queueOf qid s = some q)
    (hlive : q.deleting = none) (hidle : q.cmds = []) :
    deleteQueue qid cause (some path) s = finishDelete qid (underDeletion qid cause path s) := by
  have hunder : queueOf qid (underDeletion qid cause path s) =
      some { q with deleting := some cause, deletePath := some path, ring := [], notices := [] } := by
    rw [queueOf_underDeletion, hq]
    rfl
  unfold deleteQueue
  simp only [hq, hlive, hidle, Option.isSome_none, Bool.false_eq_true, if_false, List.filter_nil, List.foldl_nil]
  rw [← underDeletion, hunder]
  simp only [hidle, List.filter_nil, List.foldl_nil]

/-- The deletion of a queue pair with no command in flight ends at once, and its result waits for delivery (R345, 13_management R489). -/
theorem deleteQueue_idle_ends {qid : Nat} (cause : Nat) {path : BcsPath} {q : QueuePair} {s : State} (hq : queueOf qid s = some q)
    (hlive : q.deleting = none) (hidle : q.cmds = []) (hwaits : ({ path := path, opcode := 0xC0B1 } : BgCmd) ∈ s.mc.bg)
    (hroom : eventRoom s = true) :
    ∃ (t : State) (bg : List BgCmd), deleteQueue qid cause (some path) s = { t with mc := { t.mc with bg := bg } } ∧
      (bg.any fun b => b.opcode == 0xC0B1 && b.result == some ⟨0, 0xFFFF, le 4 q.aborted⟩) = true ∧ queueOf qid t = none ∧
      recorded 0x0801 t ∧ t.ti = s.ti ∧ t.reg = s.reg ∧ t.pu = s.pu := by
  let p : QueuePair := { q with deleting := some cause, deletePath := some path, ring := [], notices := [] }
  have hunder : queueOf qid (underDeletion qid cause path s) = some p := by
    rw [queueOf_underDeletion, hq]
    rfl
  have hdelete := (deleteQueue_idle hq hlive hidle).trans (finishDelete_idle hunder rfl rfl hidle)
  have hgone := queueOf_withoutQueue qid (underDeletion qid cause path s)
  have hevent := recorded_raise 0x0801 .info (queueEventData qid cause p) (s := withoutQueue qid (underDeletion qid cause path s)) hroom
  rw [← queueOf_raise qid 0x0801 .info (queueEventData qid cause p)] at hgone
  obtain ⟨bg, hfinish, hresult⟩ := finishBg_waits 0 0xFFFF (le 4 q.aborted)
    (s := raise 0x0801 .info (queueEventData qid cause p) (withoutQueue qid (underDeletion qid cause path s))) hwaits
  exact ⟨raise 0x0801 .info (queueEventData qid cause p) (withoutQueue qid (underDeletion qid cause path s)), bg,
    hdelete.trans hfinish, hresult, hgone, hevent, raise_ti .., raise_reg .., raise_pu ..⟩

/-- Settles O26: every check of a command that is taken up holds, and its body then answers. -/
theorem qpAndQueuePairCommands : Obligations.QpAndQueuePairCommands := by
  unfold Obligations.QpAndQueuePairCommands
  refine ⟨fun path input s hopen hlen hfields hempty => ?createQp,
    fun path input q s hopen hlen hq hstate hinit hzero hfields hattr => ?modifyQp, fun path input q s hopen hlen hq => ?queryQp,
    fun path input q s hopen hlen hq hstate => ?destroyQp,
    fun path input s hopen hlen hqid hnone hhead hdepth hzero hbase hroom => ?createQueuePair,
    fun path input q s hopen hlen hq hqid hidle hbg hroom => ?deleteQueuePair, fun path input q s hopen hlen hq => ?queryQueuePair,
    fun path input p s hopen hlen hp hfabric hindex hzero hset => ?setGid, fun path input p s hopen hlen hp => ?getPortStatus,
    fun path input s hopen hlen hindex hwrite hzero => ?triggerCounter⟩
  case createQp =>
    have hexec : exec (.createQp path input) s =
        .next (success path 0xC0A0 (le 4 0x10000) (modNet (fun n => { n with qps := mput 0 { attr := attrOf input } n.qps }) s)) := by
      rw [exec_bcs_open rfl hopen (by simp [hlen]), checked_ok hfields]
      simp [hempty, firstFree, mhas, mget, qpnOf]
    exact ⟨_, hexec, answered_success .., by simp [qpAt, mget_mput_self, modNet], success_ti .., success_reg ..⟩
  case modifyQp =>
    obtain ⟨hnum, hget⟩ := qpOf_some hq
    have hexec : exec (.modifyQp path input) s =
        .next (success path 0xC0A1 []
          (modQp (fld 0 4 input - 0x10000) (fun q => { q with attr := attrOf (input.drop 8), state := .init }) s)) := by
      rw [exec_bcs_open rfl hopen (by simp [hlen])]
      have hchecks : firstBad (([(true, 4), (true, 5)] ++ attrChecks 8 (input.drop 8) (attrOf (input.drop 8)) s) ++ [(true, 8)]) = none :=
        firstBad_append (l := [(true, 4), (true, 5)] ++ attrChecks 8 (input.drop 8) (attrOf (input.drop 8)) s) hfields
      have hmerge : mergeAttr q.attr (attrOf (input.drop 8)) .reset .init = attrOf (input.drop 8) := hattr ▸ mergeAttr_reset_init_self ..
      simp only [hq, hstate, hinit]
      rw [checked_ok]
      · rfl
      · simpa [qpStateOf, transitionOk, hzero, hmerge] using hchecks
    refine ⟨_, hexec, answered_success .., ?_, success_ti .., success_reg .., success_pu ..⟩
    rw [qpOf_of_net hnum (success_net ..), modQp, modNet, mget_mmod_self, hget, ← hattr]
    rfl
  case queryQp =>
    have hexec : exec (.queryQp path input) s =
        .next (success path 0xC0A2 (qpBlock q ++ (List.range 8).flatMap fun k => le 8 (mgetD 0 k q.counters)) s) := by
      rw [exec_bcs_open rfl hopen (by simp [hlen])]
      simp only [hq]
    exact ⟨_, hexec, answered_success .., success_ti .., success_reg .., success_pu .., success_net ..⟩
  case destroyQp =>
    obtain ⟨hnum, -⟩ := qpOf_some hq
    have hexec : exec (.destroyQp path input) s =
        .next (success path 0xC0A3 [] (modNet (fun n => { n with qps := mdel (fld 0 4 input - 0x10000) n.qps }) s)) := by
      rw [exec_bcs_open rfl hopen (by simp [hlen])]
      simp only [hq, hstate, if_true]
    refine ⟨_, hexec, answered_success .., ?_, by simp [modNet], by simp [modNet], success_ti .., success_reg ..⟩
    rw [qpOf_of_net hnum (success_net ..)]
    exact mget_mdel_self ..
  case createQueuePair =>
    obtain ⟨hmemory, hcls, hheadExists, hmask⟩ := hhead
    obtain ⟨hdepthMin, hdepthMax, hvector⟩ := hdepth
    obtain ⟨hz15, hz18, hz20, hz24, hz28⟩ := hzero
    obtain ⟨hsq, hcq⟩ := hbase
    have hother : fld 0 2 input ≠ 0 := by omega
    have hexec := exec_bcs_checked (c := .createQueuePair path input) rfl hopen (by simp [hlen])
      (by simp [hqid, hnone, hmemory, hcls, hheadExists, hmask, hdepthMin, hdepthMax, hvector, hz15, hz18, hz20, hz24, hz28, hsq, hcq])
    refine ⟨_, hexec, answered_success .., ?_, ?_, ?_, success_ti .., success_reg .., success_pu ..⟩
    · rw [queueOf_success_other _ _ _ _ hother]
      simp [queueOf, modGqp, mget_mput_self, hmemory]
    · rw [queueOf_success_other _ _ _ _ hother]
      simp [queueOf, modGqp, mget_mput_self]
    · rw [recorded, success_ev]
      exact recorded_raise _ _ _ (s := modGqp _ s) hroom
  case deleteQueuePair =>
    obtain ⟨hlive, hcmds⟩ := hidle
    have hstarted : queueOf (fld 0 2 input) (startBg path 0xC0B1 s) = some q := by rw [queueOf_startBg_other _ _ _ hqid, hq]
    have hexec : exec (.deleteQueuePair path input) s = .next (deleteQueue (fld 0 2 input) 1 (some path) (startBg path 0xC0B1 s)) := by
      rw [exec_bcs_open rfl hopen (by simp [hlen])]
      simp only [hq, hqid, hlive, Option.isSome_none, Bool.false_eq_true, or_self, if_false, inBackground_free hbg]
    have hwaits : ({ path := path, opcode := 0xC0B1 } : BgCmd) ∈ (startBg path 0xC0B1 s).mc.bg := by simp [startBg_bg]
    have hkeeps := startBg_endKeeps path 0xC0B1 s
    have hroomStarted : eventRoom (startBg path 0xC0B1 s) = true := by rw [eventRoom, hkeeps.ev, ← eventRoom, hroom]
    obtain ⟨t, bg, hdelete, hresult, hgone, hevent, hti, hreg, hpu⟩ := deleteQueue_idle_ends 1 hstarted hlive hcmds hwaits hroomStarted
    exact ⟨_, hexec.trans (congrArg _ hdelete), hgone, hevent, hresult, hti.trans hkeeps.ti, hreg.trans hkeeps.reg, hpu.trans hkeeps.pu⟩
  case queryQueuePair =>
    have hexec : exec (.queryQueuePair path input) s =
        .next (success path 0xC0B2 (queueBlock (fld 0 2 input) q ++ le 2 q.sqHead ++ le 2 q.sqTail ++ le 2 q.cqTail ++ le 2 q.cqHead ++
          le 4 q.cmds.length ++ le 1 (b2n q.stopped) ++ zeros 3 ++ le 8 q.completed ++ le 8 q.failed) s) := by
      rw [exec_bcs_open rfl hopen (by simp [hlen])]
      simp only [hq]
    exact ⟨_, hexec, answered_success .., success_ti .., success_reg .., success_pu ..⟩
  case setGid =>
    have hexec := exec_bcs_checked (c := .setGid path input) rfl hopen (by simp [hlen]) (by simp [hp, hfabric, hindex, hzero])
    refine ⟨_, hexec, answered_success .., ?_, by simp [modNet], success_ti .., success_reg ..⟩
    simp [modNet, mget_mmod_self, hp, hset, mget_mput_self]
  case getPortStatus =>
    have hexec : exec (.getPortStatus path input) s = .next (success path 0xC0A5
        (le 1 (b2n p.up) ++ le 1 p.speed ++ le 1 (b2n p.instrument) ++ le 1 (8 / 2 ^ (s.net.portMode / 4 ^ (fld 0 1 input / 8) % 4)) ++
        le 4 (s.net.qps.filter fun q => q.2.attr.port == fld 0 1 input).length ++
        (List.range 16).flatMap fun i => padTo 16 (mgetD [] i p.gids)) s) := by
      rw [exec_bcs_open rfl hopen (by simp [hlen])]
      simp only [hp]
    exact ⟨_, hexec, answered_success .., success_net .., success_ti .., success_reg ..⟩
  case triggerCounter =>
    have hexec := exec_bcs_checked (c := .triggerCounter path input) rfl hopen (by simp [hlen]) (by simp [hindex, hwrite, hzero])
    simp only [hwrite, if_true] at hexec
    exact ⟨_, hexec, answered_success .., by simp [modNet, mget_mput_self], by simp [modNet], by simp [modNet],
      success_ti .., success_reg ..⟩

end Sys2Proof.Machine
end


section
/-! PROOFS. QPs by their index, and the error state of a QP (08_remote_access R296, R324, 09_command_queues R345): a QP that fails loses
its work, is reported, and takes the queue pairs that it carries with it; neither the tiers nor the regions change. -/

namespace Sys2Proof.Machine

/-! ### A QP that is changed -/

@[simp] theorem qpAt_modQp (i : Nat) (f : Qp → Qp) (s : State) : qpAt i (modQp i f s) = (qpAt i s).map f := mget_mmod_self ..

@[simp] theorem qpAt_emit (i : Nat) (o : Output) (s : State) : qpAt i (emit o s) = qpAt i s := rfl

@[simp] theorem qpAt_countQp (i k n : Nat) (s : State) :
    qpAt i (countQp i k n s) = (qpAt i s).map fun q => { q with counters := mmodD 0 k (· + n) q.counters } := qpAt_modQp ..

theorem isSome_qpAt_modQp (i j : Nat) (f : Qp → Qp) (s : State) : (qpAt j (modQp i f s)).isSome = (qpAt j s).isSome := by
  by_cases hj : j = i
  · rw [hj, qpAt_modQp, Option.isSome_map]
  · exact congrArg Option.isSome (mget_mmod_other f _ hj)

/-! ### What the end of a queue pair leaves (R345) -/

/-- The tiers, the regions and the network are as they were, and no event has left the recorder's queue. -/
structure LeavesNet (s t : State) : Prop where
  ti : t.ti = s.ti
  reg : t.reg = s.reg
  net : t.net = s.net
  queue : s.ev.queue <+: t.ev.queue

theorem LeavesNet.refl (s : State) : LeavesNet s s := ⟨rfl, rfl, rfl, List.prefix_rfl⟩

theorem LeavesNet.trans {s t u : State} (h : LeavesNet s t) (g : LeavesNet t u) : LeavesNet s u :=
  ⟨g.ti.trans h.ti, g.reg.trans h.reg, g.net.trans h.net, h.queue.trans g.queue⟩

theorem modPu_leavesNet (f : Persist → Persist) (s : State) : LeavesNet s (modPu f s) := ⟨rfl, rfl, rfl, List.prefix_rfl⟩

theorem modGqp_leavesNet (f : Gqp → Gqp) (s : State) : LeavesNet s (modGqp f s) := ⟨rfl, rfl, rfl, List.prefix_rfl⟩

theorem modQ_leavesNet (qid : Nat) (f : QueuePair → QueuePair) (s : State) : LeavesNet s (modQ qid f s) := modGqp_leavesNet ..

theorem withoutQueue_leavesNet (qid : Nat) (s : State) : LeavesNet s (withoutQueue qid s) := ⟨rfl, rfl, rfl, List.prefix_rfl⟩

theorem raise_leavesNet (code : Nat) (sev : Severity) (data : Bytes) (s : State) : LeavesNet s (raise code sev data s) :=
  ⟨rfl, rfl, rfl, queueEvent_queue ..⟩

theorem LeavesNet.qpAt {s t : State} (h : LeavesNet s t) (i : Nat) : qpAt i t = qpAt i s :=
  congrArg (fun n : Net => mget i n.qps) h.net

theorem sendMsg_leavesNet (m : MplMsg) (s : State) : LeavesNet s (sendMsg m s) := by
  unfold sendMsg
  split <;> exact ⟨rfl, rfl, rfl, List.prefix_rfl⟩

theorem abandonUnit_leavesNet (u : WUnit) (s : State) : LeavesNet s (abandonUnit u s) := by
  unfold abandonUnit
  dsimp only
  split
  · exact (modPu_leavesNet ..).trans (sendMsg_leavesNet ..)
  · exact modPu_leavesNet ..

theorem abandonUnit_gqp (u : WUnit) (s : State) : (abandonUnit u s).gqp = s.gqp := by
  unfold abandonUnit sendMsg
  dsimp only
  split_ifs <;> rfl

/-- While a queue pair is there, it is being deleted because its QP failed; the network is as it was. -/
structure Closing (qid : Nat) (s t : State) : Prop extends LeavesNet s t where
  failed : ∀ q, queueOf qid t = some q → q.deleting = some 3 ∧ q.deletePath = none

section
variable {qid : Nat} {s t : State}

theorem Closing.samePair {u : State} (h : Closing qid s t) (g : LeavesNet t u) (hsame : queueOf qid u = queueOf qid t) :
    Closing qid s u :=
  ⟨h.toLeavesNet.trans g, fun q hq => h.failed q (hsame ▸ hq)⟩

theorem Closing.modQ (h : Closing qid s t) {f : QueuePair → QueuePair} (hf : ∀ q, (f q).deleting = q.deleting)
    (hpath : ∀ q, (f q).deletePath = q.deletePath) : Closing qid s (modQ qid f t) where
  toLeavesNet := h.toLeavesNet.trans (modQ_leavesNet ..)
  failed := by
    intro q hq
    rw [queueOf_modQ_self] at hq
    obtain ⟨p, hp, rfl⟩ := Option.map_eq_some_iff.mp hq
    rw [hf, hpath]
    exact h.failed p hp

/-- The transfers of a queue pair change, and the queue pairs do not. -/
theorem Closing.transfers (h : Closing qid s t) (f : AMap TransferReady → AMap TransferReady) :
    Closing qid s (modGqp (fun g => { g with transfers := f g.transfers }) t) := h.samePair (modGqp_leavesNet ..) rfl

theorem Closing.foldl {α : Type} {f : State → α → State} (hf : ∀ t x, Closing qid s t → Closing qid s (f t x)) (l : List α)
    (h : Closing qid s t) : Closing qid s (l.foldl f t) := by
  induction l generalizing t with
  | nil => exact h
  | cons x l ih => exact ih (hf t x h)

theorem Closing.abandonUnit (h : Closing qid s t) (u : WUnit) : Closing qid s (abandonUnit u t) :=
  h.samePair (abandonUnit_leavesNet u t) (congrArg (fun g : Gqp => mget qid g.pairs) (abandonUnit_gqp u t))

theorem Closing.failFrom (h : Closing qid s t) (cid i status : Nat) : Closing qid s (failFrom qid cid i status t) := by
  unfold Machine.failFrom
  exact ((Closing.foldl (fun _ u hu => hu.abandonUnit u) _ h).transfers _).modQ (fun _ => rfl) fun _ => rfl

theorem Closing.finishDelete (h : Closing qid s t) : Closing qid s (finishDelete qid t) := by
  unfold Machine.finishDelete
  split
  · exact h
  next q hq =>
    obtain ⟨hdeleting, hpath⟩ := h.failed q hq
    rw [hdeleting, hpath]
    dsimp only
    split
    · refine ⟨h.toLeavesNet.trans ((withoutQueue_leavesNet qid t).trans (raise_leavesNet ..)), fun p hp => ?_⟩
      cases (queueOf_withoutQueue qid t).symm.trans hp
    · exact h

/-- A command of a queue pair whose QP failed ends without a capsule (R345, step 4). -/
theorem Closing.complete (h : Closing qid s t) (cid status : Nat) (result : Bytes) : Closing qid s (complete qid cid status result t) := by
  unfold Machine.complete
  split
  · exact h
  next q hq =>
    have hcut : reachesHost q = false := by
      rw [reachesHost, (h.failed q hq).1]
      rfl
    simp only [hcut, Bool.not_false, if_true]
    refine Closing.finishDelete ((h.modQ ?deleting ?path).transfers _)
    case deleting => exact fun _ => rfl
    case path => exact fun _ => rfl

end

/-- A started command whose pieces are abandoned ends with a free status (R345, step 3). -/
theorem abandonCmd_closing (qid : Nat) (s t : State) (c : GqpCmd) (h : Closing qid s t) :
    Closing qid s (if eOpcode c.entry = 0x02 ∨ eOpcode c.entry = 0x03 ∨ eOpcode c.entry = 0x04 then
      failFrom qid c.cid 0 (1 + (drawn t).toNat % 65535) (advance t) else t) := by
  split
  · exact (h.samePair (u := advance t) ⟨rfl, rfl, rfl, List.prefix_rfl⟩ rfl).failFrom ..
  · exact h

/-- A command that has not started ends with status 0x0003 (R345, step 2). -/
theorem refuseUnstarted_closing (qid : Nat) (s t : State) (c : GqpCmd) (h : Closing qid s t) :
    Closing qid s (complete qid c.cid 0x0003 [] (modQ qid (fun q => { q with
      cmds := q.cmds.map fun x => if x.cid == c.cid && !x.started then { x with started := true } else x }) t)) := by
  refine (h.modQ ?deleting ?path).complete ..
  case deleting => exact fun _ => rfl
  case path => exact fun _ => rfl

/-- A queue pair whose QP failed is deleted without a word to its host: its commands end, and none of it reaches the network (R345). -/
theorem deleteQueue_leavesNet (qid : Nat) (s : State) : LeavesNet s (deleteQueue qid 3 none s) := by
  unfold deleteQueue
  split
  · exact .refl s
  next q hq =>
    split
    · exact .refl s
    · refine (Closing.finishDelete (qid := qid) (s := s) ?_).toLeavesNet
      have hbegun : Closing qid s (modQ qid (fun q => { q with deleting := some 3, deletePath := none, ring := [], notices := [] }) s) := by
        refine ⟨modQ_leavesNet .., fun p hp => ?_⟩
        rw [queueOf_modQ_self, hq] at hp
        cases hp
        exact ⟨rfl, rfl⟩
      have hstarted := fun l => Closing.foldl (abandonCmd_closing qid s) l hbegun
      have hrefused := fun k l => Closing.foldl (refuseUnstarted_closing qid s) l
        ((hstarted k).transfers (List.filter fun t => t.2.qid != qid))
      split
      · exact Closing.foldl (fun t c (ht : Closing qid s t) => ht.complete ..) _ (hrefused ..)
      · exact hrefused ..

theorem dropQpQueues_leavesNet (qpn : Nat) (s : State) : LeavesNet s (dropQpQueues qpn s) := by
  unfold dropQpQueues
  generalize s.gqp.pairs.filter _ = l
  induction l generalizing s with
  | nil => exact .refl s
  | cons e l ih => exact (deleteQueue_leavesNet e.1 s).trans (ih _)

/-! ### What the end of a QP's work leaves (R319, R321, R324) -/

/-- The tiers and the regions are as they were, the QPs are those that were there, and no event has left the recorder's queue. -/
structure KeepsQps (s t : State) : Prop where
  ti : t.ti = s.ti
  reg : t.reg = s.reg
  queue : s.ev.queue <+: t.ev.queue
  there : ∀ i, (qpAt i t).isSome = (qpAt i s).isSome

theorem KeepsQps.refl (s : State) : KeepsQps s s := ⟨rfl, rfl, List.prefix_rfl, fun _ => rfl⟩

theorem KeepsQps.trans {s t u : State} (h : KeepsQps s t) (g : KeepsQps t u) : KeepsQps s u :=
  ⟨g.ti.trans h.ti, g.reg.trans h.reg, h.queue.trans g.queue, fun i => (g.there i).trans (h.there i)⟩

theorem LeavesNet.keepsQps {s t : State} (h : LeavesNet s t) : KeepsQps s t :=
  ⟨h.ti, h.reg, h.queue, fun i => congrArg (fun n : Net => (mget i n.qps).isSome) h.net⟩

theorem foldl_keepsQps {α : Type} {f : State → α → State} (hf : ∀ t x, KeepsQps t (f t x)) (l : List α) (s : State) :
    KeepsQps s (l.foldl f s) := by
  induction l generalizing s with
  | nil => exact .refl s
  | cons x l ih => exact (hf s x).trans (ih _)

theorem modQp_keepsQps (i : Nat) (f : Qp → Qp) (s : State) : KeepsQps s (modQp i f s) :=
  ⟨rfl, rfl, List.prefix_rfl, fun j => isSome_qpAt_modQp i j f s⟩

theorem submitWrite_keepsQps (src : WSrc) (r off : Nat) (data : Bytes) (bad : List Nat) (s : State) :
    KeepsQps s (submitWrite src r off data bad s) := ⟨rfl, rfl, List.prefix_rfl, fun _ => rfl⟩

theorem advance_keepsQps (s : State) : KeepsQps s (advance s) := ⟨rfl, rfl, List.prefix_rfl, fun _ => rfl⟩

theorem matchTriggers_keepsQps (i imm : Nat) (s : State) : KeepsQps s (matchTriggers i imm s) := by
  refine foldl_keepsQps (fun t e => ?_) _ s
  split <;> exact ⟨rfl, rfl, List.prefix_rfl, fun _ => rfl⟩

theorem postCpl_keepsQps (i kind : Nat) (error : Bool) (imm : Option Nat) (status length slot msn : Nat) (usesSlot : Bool) (s : State) :
    KeepsQps s (postCpl i kind error imm status length slot msn usesSlot s) := by
  unfold postCpl
  split
  · exact .refl s
  · dsimp only
    split
    · exact .refl s
    · split
      · split
        · exact (submitWrite_keepsQps ..).trans (modQp_keepsQps ..)
        · exact ((submitWrite_keepsQps ..).trans (modQp_keepsQps ..)).trans (matchTriggers_keepsQps ..)
      · exact (submitWrite_keepsQps ..).trans (modQp_keepsQps ..)

/-- The counter of a work request that succeeds (R321). -/
theorem countDone_keepsQps (flags status c : Nat) (s : State) :
    KeepsQps s (if bitOf 3 flags ∧ status = 0 then
      modNet (fun n => { n with counters := mmodD 0 c (fun c => (c + 1) % 2 ^ 32) n.counters }) s else s) := by
  split
  · exact ⟨rfl, rfl, List.prefix_rfl, fun _ => rfl⟩
  · exact .refl s

theorem endWr_keepsQps (i status : Nat) (w : SentWr) (s : State) : KeepsQps s (endWr i status w s) := by
  unfold endWr
  dsimp only
  generalize (if w.capsule.isSome then 0 else fld 1 1 w.bytes) = flags
  refine KeepsQps.trans ?_ (countDone_keepsQps ..)
  split
  · exact (advance_keepsQps s).trans (postCpl_keepsQps ..)
  · exact .refl s

/-! ### A QP that fails (R324) -/

/-- A QP in the error state: its work and its contexts are gone (R324). -/
def inError (q : Qp) : Qp := { q with state := .err, sends := [], rx := [], mp := [], rnrUntil := none, mpAckDue := false }

/-- The triggers that send on a QP are freed (R324). -/
def dropTriggers (qpn : Nat) (s : State) : State :=
  modNet (fun n => { n with triggers := n.triggers.filter fun t => t.2.sendQpn != qpn }) s

theorem qpAt_dropTriggers (i qpn : Nat) (s : State) : qpAt i (dropTriggers qpn s) = qpAt i s := rfl

/-- A QP is in the error state without work, and its failure is reported where the recorder has room. -/
structure QpFails (i : Nat) (s t : State) : Prop where
  work : ((qpAt i t).map fun q => (q.state, q.sends, q.rx, q.mp)) = some (.err, [], [], [])
  ti : t.ti = s.ti
  reg : t.reg = s.reg
  event : eventRoom s = true → recorded 0x0702 t

theorem qpFail_fails {i : Nat} {q : Qp} {s : State} (cause status psn : Nat) (hq : qpAt i s = some q) (hlive : q.state ≠ .err) :
    QpFails i s (qpFail i cause status psn s) := by
  simp only [qpFail, hq, hlive, if_false]
  generalize hraised : raise 0x0702 .warning _ s = raised
  have hwork : ∀ l : List SentWr, KeepsQps raised (l.foldl (fun s w => endWr i 0x81 w s) raised) :=
    fun l => foldl_keepsQps (fun t w => endWr_keepsQps i 0x81 w t) l raised
  have hunits : ∀ (l : List WUnit) (t : State), KeepsQps t (l.foldl (fun s u => abandonUnit u s) t) :=
    fun l => foldl_keepsQps (fun t u => (abandonUnit_leavesNet u t).keepsQps) l
  generalize hflushed : List.foldl _ (List.foldl _ raised q.sends) _ = flushed
  have hkeeps : KeepsQps raised flushed := hflushed ▸ (hwork _).trans (hunits _ _)
  have hdrop := dropQpQueues_leavesNet (qpnOf i)
    (dropTriggers (qpnOf i) (modQp i inError flushed))
  subst hraised
  refine ⟨?work, hdrop.ti.trans hkeeps.ti, hdrop.reg.trans hkeeps.reg, fun hroom => ?event⟩
  case work =>
    have hthere : (qpAt i flushed).isSome = true := by rw [hkeeps.there]; exact Option.isSome_of_eq_some hq
    obtain ⟨p, hp⟩ := Option.isSome_iff_exists.mp hthere
    have hat := (hdrop.qpAt i).trans ((qpAt_dropTriggers ..).trans (qpAt_modQp ..))
    rw [hp] at hat
    exact congrArg (Option.map _) hat
  case event => exact recorded_of_queue (recorded_raise _ _ _ hroom) (hkeeps.queue.trans hdrop.queue)

theorem QpFails.state {i : Nat} {s t : State} (h : QpFails i s t) : qpState i t = some .err := by
  simpa [qpState, Function.comp_def] using congrArg (Option.map fun w => w.1) h.work

end Sys2Proof.Machine
end

section
/-! PROOFS. A range that this controller serves alone, and a write unit that is admitted there (03_persistence R62, R65,
06_pair R212, R222). -/

namespace Sys2Proof.Machine

/-! ### A plain region -/

theorem plainHere_region {r : Nat} {s : State} (h : plainHere r s = true) :
    ∃ d, regionOf r s = some d ∧ d.settee = false ∧ d.mirrored = false ∧ d.isVolatile = false := by
  unfold plainHere at h
  split at h
  next d hd =>
    simp only [Bool.and_eq_true, Bool.not_eq_true', beq_iff_eq] at h
    obtain ⟨⟨⟨hsettee, hmirrored⟩, hvolatile⟩, -⟩ := h
    exact ⟨d, hd, hsettee, hmirrored, hvolatile⟩
  next => cases h

theorem mirrorsNow_plainHere {r : Nat} {s : State} (h : plainHere r s = true) : mirrorsNow r s = false := by
  obtain ⟨d, hd, -, hmirrored, -⟩ := plainHere_region h
  simp [mirrorsNow, hd, hmirrored]

/-- A range that is shorter than 1 MiB is one piece (R222). -/
theorem pieces_one {off len : Nat} (hpos : 0 < len) (hshort : len < 2 ^ 20) : pieces false off len = [(0, len)] := by
  have hcuts : len / 1048576 = 0 := Nat.div_eq_of_lt hshort
  simp [pieces, hcuts, hpos, setInsert]

theorem pieceList_plainHere {r : Nat} {s : State} (base off : Nat) {len : Nat} (h : plainHere r s = true) (hpos : 0 < len)
    (hshort : len < 2 ^ 20) : pieceList base r off len s = [{ index := base, off := 0, len := len }] := by
  obtain ⟨d, hd, hsettee, -, -⟩ := plainHere_region h
  simp [pieceList, hd, hsettee, pieces_one hpos hshort]

theorem spanRoute_plainHere {r : Nat} {s : State} (off len : Nat) (h : plainHere r s = true) : spanRoute r off len s = .here := by
  simp [spanRoute, rangeRoute, route_plainHere _ h]

/-! ### A unit that is admitted (R65) -/

/-- Only the persistence unit may have changed. -/
structure OnlyPu (s t : State) : Prop where
  rest : { t with pu := s.pu } = s

section
variable {s t u : State}

theorem OnlyPu.trans (h : OnlyPu s t) (g : OnlyPu t u) : OnlyPu s u :=
  ⟨(congrArg (fun x : State => { x with pu := s.pu }) g.rest).trans h.rest⟩

theorem OnlyPu.eq (h : OnlyPu s t) : t = { s with pu := t.pu } := (congrArg (fun x : State => { x with pu := t.pu }) h.rest :)
theorem OnlyPu.net (h : OnlyPu s t) : t.net = s.net := (congrArg State.net h.rest :)
theorem OnlyPu.ti (h : OnlyPu s t) : t.ti = s.ti := (congrArg State.ti h.rest :)
theorem OnlyPu.reg (h : OnlyPu s t) : t.reg = s.reg := (congrArg State.reg h.rest :)
theorem OnlyPu.out (h : OnlyPu s t) : t.out = s.out := (congrArg State.out h.rest :)

end

/-- A unit has been admitted in the persistence unit, and nothing else has changed. -/
structure Admits (u : WUnit) (phase : UPhase) (s t : State) : Prop extends OnlyPu s t where
  units : ∃ v : WUnit, t.pu.units = s.pu.units.map (fun w => if w.id = u.id then v else w) ∧
    v.id = u.id ∧ v.src = u.src ∧ v.lines = u.lines ∧ v.phase = phase

theorem Admits.newest {u : WUnit} {phase : UPhase} {s t : State} (h : Admits u phase s t) (hlast : s.pu.units.getLast? = some u) :
    (t.pu.units.getLast?.map fun u => (u.src, u.lines, u.phase)) = some (u.src, u.lines, phase) := by
  obtain ⟨v, hunits, -, hsrc, hlines, hphase⟩ := h.units
  simp [hunits, hlast, hsrc, hlines, hphase]

theorem stageUnit_unmirrored {u : WUnit} {s : State} (hcls : u.cls = .general) (halone : mirrorsNow u.region s = false) :
    Admits u .staged s (stageUnit u s) := by
  simp only [stageUnit, hcls, halone]
  exact ⟨⟨rfl⟩, _, rfl, rfl, rfl, rfl, rfl⟩

/-- Of two units put in a unit's place, the later one stays. -/
theorem map_replace_replace {n : Nat} {v : WUnit} (hv : v.id = n) (w : WUnit) (l : List WUnit) :
    (l.map fun x => if x.id = n then v else x).map (fun x => if x.id = n then w else x) = l.map fun x => if x.id = n then w else x := by
  rw [List.map_map]
  refine List.map_congr_left fun x _ => ?_
  by_cases hx : x.id = n
  · simp [hx, hv]
  · simp [hx]

theorem admitUnit_unmirrored {u : WUnit} {s : State} (arrived : Bool) (hcls : u.cls = .general) (halone : mirrorsNow u.region s = false)
    (hslots : (takeSlots u .reserved s.pu).isSome = true) :
    Admits u (if arrived then .staged else .reserved) s (admitUnit u arrived s) := by
  obtain ⟨⟨p, slots⟩, htake⟩ := Option.isSome_iff_exists.mp hslots
  have hunits : p.units = s.pu.units := takeSlots_units htake
  let v : WUnit := { u with phase := .reserved, slots := slots }
  let reserved : State := { s with pu := putUnit v { p with ingestUsed := p.ingestUsed + unitBytes v } }
  have hreserved : reserved.pu.units = s.pu.units.map fun w => if w.id = u.id then v else w :=
    congrArg (List.map fun w : WUnit => if w.id = v.id then v else w) hunits
  simp only [admitUnit, htake]
  cases arrived with
  | false => exact ⟨⟨rfl⟩, v, hreserved, rfl, rfl, rfl, rfl⟩
  | true =>
    obtain ⟨hrest, w, hw, hid, hsrc, hlines, hphase⟩ := stageUnit_unmirrored (u := v) (s := reserved) hcls halone
    rw [hreserved] at hw
    have hstaged : OnlyPu s (stageUnit v reserved) := OnlyPu.trans (t := reserved) ⟨rfl⟩ hrest
    exact ⟨hstaged, w, hw.trans (map_replace_replace rfl w _), hid, hsrc, hlines, hphase⟩

/-- What admission at once says of the newest unit (R65, R89). -/
theorem admitsLast_iff {u : WUnit} {s : State} (hlast : s.pu.units.getLast? = some u) :
    admitsLast s = true ↔ canAdmit u s = true ∧ (takeSlots u .reserved s.pu).isSome = true ∧ volatileUnit u s = false := by
  simp [admitsLast, hlast, and_assoc]

theorem getLast_submitWrite (src : WSrc) (r off : Nat) (data : Bytes) (s : State) :
    (submitWrite src r off data [] s).pu.units.getLast? = some (newUnit src .general r (cutLines off data) s) := by
  rw [submitWrite, getLast_submitUnit, markPoison_nil]
  rfl

/-- A short write of a QP is admitted and staged at once (08_remote_access R306). -/
theorem takeWrite_here {i psn r off : Nat} {data : Bytes} {s : State} (hhere : plainHere r s = true) (hpos : 0 < data.length)
    (hshort : data.length ≤ 4096) (hadmits : admitsLast (submitWrite (.rdma i psn 0) r off data [] s) = true) :
    ∃ p, takeWrite i psn r off data s = some { s with pu := p } ∧
      (p.units.getLast?.map fun u => (u.src, u.lines, u.phase)) = some (.rdma i psn 0, cutLines off data, .staged) := by
  obtain ⟨d, hd, hsettee, -, -⟩ := plainHere_region hhere
  let t := submitWrite (.rdma i psn 0) r off data [] s
  let u : WUnit := newUnit (.rdma i psn 0) .general r (cutLines off data) s
  have hlast : t.pu.units.getLast? = some u := getLast_submitWrite ..
  obtain ⟨hadmit, hslots, hvolatile⟩ := (admitsLast_iff hlast).mp hadmits
  have hwhole : slice 0 data.length data = data := List.take_length
  have htake : takeWrite i psn r off data s = some (admitUnit u true t) := by
    simp only [takeWrite, hd, hsettee, pieces_one hpos (by omega : data.length < 2 ^ 20)]
    simp [route_plainHere _ hhere, hwhole, hlast, t, hadmit, hvolatile]
  have halone : mirrorsNow u.region t = false := mirrorsNow_plainHere (s := t) hhere
  have hdone := admitUnit_unmirrored true rfl halone hslots
  have hsubmitted : OnlyPu s t := ⟨rfl⟩
  exact ⟨_, htake.trans (congrArg some (hsubmitted.trans hdone.toOnlyPu).eq), hdone.newest hlast⟩

end Sys2Proof.Machine
end

section
/-! PROOFS. The requesting side of a QP (08_remote_access R297, R301, R315, R317 to R319, R323, R324, 09_command_queues R357): each row
changes the QP that it names, at one of its work requests. -/

namespace Sys2Proof.Machine

/-! ### Work requests that are sent again and that end -/

theorem sending_rts {qp : Nat} {q : Qp} {s : State} (hq : qpAt qp s = some q) (hrts : q.state = .rts) : sending qp s = true := by
  simp [sending, hq, hrts]

theorem takeWr_single {qp psn : Nat} {q : Qp} {w : SentWr} {s : State} (hq : qpAt qp s = some q) (hsends : q.sends = [w])
    (hsent : w.sent = true) (hpsn : w.psn = psn) : takeWr qp psn s = some w := by
  simp [takeWr, hq, hsends, hsent, hpsn]

/-- The only work request of a QP is due again (R317). -/
theorem resendFrom_single {qp psn : Nat} {q : Qp} {w : SentWr} {s : State} (hq : qpAt qp s = some q) (hsends : q.sends = [w])
    (hsent : w.sent = true) (hopen : w.ackd = false) (hcovers : psnAtMost psn (wrLast w) = true) :
    resendFrom qp psn s = countQp qp 4 1 (modQp qp (fun q => { q with
      sPsn := w.psn, sends := q.sends.map fun x => if [w].contains x then { x with sent := false } else x }) s) := by
  simp [resendFrom, hq, hsends, hsent, hopen, hcovers]

/-- A work request without flags ends without a trace (R319). -/
theorem endWr_unsignaled {i status : Nat} {w : SentWr} {s : State} (h : fld 1 1 w.bytes = 0) : endWr i status w s = s := by
  simp [endWr, h, bitOf]

theorem route_modQp (r off i : Nat) (f : Qp → Qp) (s : State) : route r off (modQp i f s) = route r off s := rfl

/-- The work request of a PSN has its answer (R318). -/
def answeredWr (psn : Nat) (q : Qp) : Qp :=
  { q with sends := q.sends.map fun x => if x.sent && x.psn == psn then { x with ackd := true } else x }

/-- What the answer of a READ or an atomic operation that is stored at its local range leaves (R318). -/
structure StoresResponse (qp psn : Nat) (w : SentWr) (data : Bytes) (s t : State) : Prop where
  unit : (t.pu.units.getLast?.map fun u => (u.src, u.region, u.lines)) =
    some (.workRequest qp psn, fld 2 2 w.bytes, cutLines (fld 8 8 w.bytes) data)
  answered : ((qpAt qp t).map fun x => x.sends.map (·.ackd)) = some [true]
  out : t.out = s.out
  ti : t.ti = s.ti
  reg : t.reg = s.reg

theorem storeResponse_stores {qp psn : Nat} {data : Bytes} {q : Qp} {w : SentWr} {s : State} (hq : qpAt qp s = some q)
    (hsends : q.sends = [w]) (hsent : w.sent = true) (hpsn : w.psn = psn) (hdata : data.isEmpty = false)
    (hhere : plainHere (fld 2 2 w.bytes) s = true) : StoresResponse qp psn w data s (storeResponse qp psn data s) := by
  have hstore : storeResponse qp psn data s =
      submitWrite (.workRequest qp psn) (fld 2 2 w.bytes) (fld 8 8 w.bytes) data [] (modQp qp (answeredWr psn) s) := by
    simp only [storeResponse, takeWr_single hq hsends hsent hpsn, hdata, route_modQp, route_plainHere _ hhere]
    rfl
  rw [hstore]
  refine ⟨?unit, ?answered, rfl, rfl, rfl⟩
  case unit =>
    rw [submitWrite, getLast_submitUnit, markPoison_nil]
    rfl
  case answered =>
    change (qpAt qp (modQp qp (answeredWr psn) s)).map _ = _
    simp [hq, answeredWr, hsends, hsent, hpsn]

/-! ### What goes out -/

/-- The next request of a QP without data goes out (R318). -/
theorem issueWr_empty {qp : Nat} {q : Qp} {w : SentWr} {s : State} (hreadable : w.readable = true) (hop : wrOp w.bytes = 1)
    (hlen : fld 16 4 w.bytes = 0) :
    issueWr qp q w s = countQp qp 1 1 (emit (.rdmaRequest qp q.sPsn 1 w.bytes) (modQp qp (fun x => { x with
      sPsn := (x.sPsn + 1) % psnMod
      sends := markSent (fun y => { y with sent := true, psn := x.sPsn, packets := 1, sentBeat := s.tb.beat }) x.sends }) s)) := by
  have hpackets : packetsOf 0 (mtuOf q.attr.pmtu) = 1 := by
    have : 0 < mtuOf q.attr.pmtu := by simp [mtuOf]
    rw [packetsOf, Nat.zero_add, Nat.div_eq_of_lt (by omega)]
    rfl
  simp [issueWr, hreadable, hop, hlen, hpackets]

/-- With nothing outstanding, one credit of the host is enough (09_command_queues R357). -/
theorem creditFree_unsent {q : Qp} {w : SentWr} (hsends : q.sends = [w]) (hunsent : w.sent = false) (hcredit : q.credit ≠ some 0) :
    creditFree q = true := by
  unfold creditFree
  split
  · rfl
  next n hn =>
    have : n ≠ 0 := fun h => hcredit (h ▸ hn)
    simp [outstanding, hsends, hunsent]
    omega

/-- Settles O28: each row changes the QP that it names, and the error state is `qpFail_fails`. -/
theorem theRequesterSideOfAQp : Obligations.TheRequesterSideOfAQp := by
  unfold Obligations.TheRequesterSideOfAQp
  refine ⟨fun qp q w s hq hwork hwrite => ?issue, fun qp kind q w s hq hwork => ?capsule,
    fun qp psn credits q w s hq hwork hflags => ?ack, fun qp psn q w s hq hwork => ?nakSequence,
    fun qp psn syndrome q s hq hwork hother hroom _ => ?nakOther, fun qp psn timer q w s hq hwork hcovers hretry => ?rnrNak,
    fun qp b q s hq hwait hexpired => ?rnrTimerExpiry, fun qp psn data q w s hq hsends hread hlen hhere => ?readResponse,
    fun qp psn v q w s hq hsends hatomic hhere => ?atomicAcknowledge, fun qp q s hq hrts => ?cnp,
    fun qp b q s hq hcnp hquiet => ?rateIncrease, fun qp q w s hq hwork hlate hretry => ?ackTimeout,
    fun qp q s hq hswap hroom hnone => ?contextSwapComplete, fun qp cause status q s hq hstate hroom => ?qpError⟩
  case issue =>
    obtain ⟨hrts, hsends, hunsent, hreadable, hready, hreads⟩ := hwork
    obtain ⟨hop, hlen, hplain⟩ := hwrite
    have hexec : exec (.workRequestIssue qp) s = .next (countQp qp 1 1 (emit (.rdmaRequest qp q.sPsn 1 w.bytes)
        (modQp qp (fun x => { x with
          sPsn := (x.sPsn + 1) % psnMod
          sends := markSent (fun y => { y with sent := true, psn := x.sPsn, packets := 1, sentBeat := s.tb.beat }) x.sends }) s))) := by
      change execWorkRequestIssue qp s = _
      have hnext : (q.sends.find? fun w => !w.sent) = some w := by simp [hsends, hunsent]
      simp only [execWorkRequestIssue, hq, hnext]
      split
      next kind hkind => cases hplain.symm.trans hkind
      next => simp [hrts, hready, hreads, waitsAnswer, hop, issueWr_empty hreadable hop hlen]
    refine ⟨_, hexec, List.mem_cons_self .., ?_, rfl, rfl, rfl⟩
    simp [hq, hsends, hunsent, markSent]
  case capsule =>
    obtain ⟨hrts, hsends, hunsent, hcapsule, hready, hcredit⟩ := hwork
    have hexec : exec (.workRequestIssue qp) s = .next (sendNow qp kind w.bytes q w [] [] s) := by
      change execWorkRequestIssue qp s = _
      simp [execWorkRequestIssue, hq, hsends, hunsent, hcapsule, hrts, hready, creditFree_unsent hsends hunsent hcredit]
    exact ⟨_, hexec, List.mem_cons_self .., by simp [sendNow, hq], rfl, rfl, rfl⟩
  case ack =>
    obtain ⟨hrts, hsends, hsent, hcovered⟩ := hwork
    obtain ⟨hop, hunsignaled⟩ := hflags
    have hends : completeAcked qp psn 1 s = modQp qp (fun q => { q with sends := [] }) s := by
      simp [completeAcked, hq, hsends, hsent, hcovered, waitsAnswer, hop, endWr_unsignaled hunsignaled]
    have hexec : exec (.ack qp psn credits) s = .next (modQp qp (fun q => { q with credit := creditLimit credits })
        (modQp qp (fun q => { q with sends := [] }) s)) := by
      change execAck qp psn credits s = _
      simp [execAck, sending_rts hq hrts, hq, hsends, hends]
    exact ⟨_, hexec, by simp [hq], by simp [qpState, hq, hrts], rfl, rfl, rfl, rfl⟩
  case nakSequence =>
    obtain ⟨hrts, hsends, hsent, hopen, hcovers⟩ := hwork
    have hcounted : qpAt qp (countQp qp 3 1 s) = some { q with counters := mmodD 0 3 (· + 1) q.counters } := by simp [hq]
    have hexec : exec (.nak qp psn 0x60) s = .next (resendFrom qp psn (countQp qp 3 1 s)) := by
      change execNak qp psn 0x60 s = _
      simp [execNak, sending_rts hq hrts, hq]
    rw [resendFrom_single hcounted hsends hsent hopen hcovers] at hexec
    exact ⟨_, hexec, by simp [hq, hsends], by simp [qpState, hq, hrts], rfl, rfl, rfl, rfl⟩
  case nakOther =>
    obtain ⟨hrts, hsends⟩ := hwork
    have hcounted : qpAt qp (countQp qp 3 1 s) = some { q with counters := mmodD 0 3 (· + 1) q.counters } := by simp [hq]
    have hexec : exec (.nak qp psn syndrome) s = .next (qpFail qp 2 syndrome psn (countQp qp 3 1 s)) := by
      change execNak qp psn syndrome s = _
      simp [execNak, sending_rts hq hrts, hq, hsends, hother]
    have hfails := qpFail_fails 2 syndrome psn hcounted (by simp [hrts])
    exact ⟨_, hexec, hfails.state, hfails.event hroom, hfails.ti, hfails.reg⟩
  case rnrNak =>
    obtain ⟨hrts, hsends, hsent, hopen⟩ := hwork
    obtain ⟨hfrom, hto⟩ := hcovers
    have hleft : ¬ (q.attr.rnrRetry ≠ 7 ∧ q.attr.rnrRetry ≤ w.rnrRetries) := by omega
    have hexec : exec (.rnrNak qp psn timer) s = .next (modQp qp (fun q => { q with
        rnrUntil := some (s.tb.beat + rnrBeats timer)
        sends := q.sends.map fun w => if w.psn = psn then { w with rnrRetries := w.rnrRetries + 1 } else w })
        (countQp qp 4 1 (modQp qp (fun q => { q with
          sPsn := w.psn, sends := q.sends.map fun x => if [w].contains x then { x with sent := false } else x }) s))) := by
      change execRnrNak qp psn timer s = _
      have hfind : (q.sends.find? fun w => w.sent && psnAtMost w.psn psn && psnAtMost psn (wrLast w)) = some w := by
        simp [hsends, hsent, hfrom, hto]
      simp only [execRnrNak, hq, sending_rts hq hrts, hfind, Option.map_some, Option.getD_some, hleft, Bool.not_true, Bool.false_eq_true,
        if_false, resendFrom_single hq hsends hsent hopen hto]
      rfl
    exact ⟨_, hexec, by simp [hq, hsends, apply_ite SentWr.sent], by simp [qpState, hq, hrts], rfl, rfl, rfl, rfl⟩
  case rnrTimerExpiry =>
    have hexec : exec (.rnrTimerExpiry qp) s = .next (modQp qp (fun q => { q with rnrUntil := none }) s) := by
      change execRnrTimerExpiry qp s = _
      simp [execRnrTimerExpiry, hq, hwait, hexpired]
    exact ⟨_, hexec, by simp [hq], rfl, rfl, rfl, rfl, rfl⟩
  case readResponse =>
    obtain ⟨hsent, hpsn, hopen, hplain, hop⟩ := hread
    obtain ⟨hpos, hfits⟩ := hlen
    have hexec : exec (.readResponse qp psn data) s = .next (storeResponse qp psn data s) := by
      change execReadResponse qp psn data s = _
      simp [execReadResponse, takeWr_single hq hsends hsent hpsn, hplain, hop, hopen, List.take_of_length_le hfits]
    have hstores := storeResponse_stores hq hsends hsent hpsn (List.isEmpty_eq_false_iff.mpr (List.ne_nil_of_length_pos hpos)) hhere
    exact ⟨_, hexec, hstores.unit, hstores.answered, hstores.out, hstores.ti, hstores.reg⟩
  case atomicAcknowledge =>
    obtain ⟨hsent, hpsn, hopen, hplain, hop⟩ := hatomic
    have hexec : exec (.atomicAcknowledge qp psn v) s = .next (storeResponse qp psn (le 8 v.toNat) s) := by
      change execAtomicAcknowledge qp psn v s = _
      simp [execAtomicAcknowledge, takeWr_single hq hsends hsent hpsn, hplain, hop, hopen]
    have hstores := storeResponse_stores (data := le 8 v.toNat) hq hsends hsent hpsn rfl hhere
    exact ⟨_, hexec, hstores.unit, hstores.answered, hstores.out, hstores.ti, hstores.reg⟩
  case cnp =>
    have hexec : exec (.cnp qp) s =
        .next (modQp qp (fun q => { q with rateMbps := max 1000 (q.rateMbps / 2), lastCnpRx := some s.tb.beat }) s) := by
      change execCnp qp s = _
      simp [execCnp, hq, hrts]
    exact ⟨_, hexec, by simp [hq], rfl, rfl, rfl, rfl, rfl⟩
  case rateIncrease =>
    have hexec : ∃ f : Qp → Qp, exec (.rateIncrease qp) s = .next (modQp qp f s) ∧
        (f q).rateMbps = min (qpPortRate q s) (q.rateMbps + qpPortRate q s / 32) := by
      change ∃ f : Qp → Qp, execRateIncrease qp s = .next (modQp qp f s) ∧ _
      simp only [execRateIncrease, hq, hcnp, hquiet, if_true]
      exact ⟨_, rfl, rfl⟩
    obtain ⟨f, hexec, hrate⟩ := hexec
    exact ⟨_, hexec, by simp [hq, hrate], rfl, rfl, rfl, rfl, rfl⟩
  case ackTimeout =>
    obtain ⟨hrts, hsends, hsent, hopen, htimer, hcovers⟩ := hwork
    have hexec : exec (.ackTimeout qp) s = .next (resendFrom qp w.psn (modQp qp (fun q => { q with
        sends := q.sends.map fun x => if x == w then { x with retries := x.retries + 1 } else x }) s)) := by
      change execAckTimeout qp s = _
      simp [execAckTimeout, hq, hsends, hsent, hopen, hrts, htimer, hlate, Nat.not_le.mpr hretry]
    have hretried : qpAt qp (modQp qp (fun q => { q with
        sends := q.sends.map fun x => if x == w then { x with retries := x.retries + 1 } else x }) s) =
        some { q with sends := [{ w with retries := w.retries + 1 }] } := by simp [hq, hsends]
    rw [resendFrom_single hretried rfl hsent hopen hcovers] at hexec
    exact ⟨_, hexec, by simp [hq, hsends], by simp [qpState, hq, hrts], rfl, rfl, rfl, rfl⟩
  case contextSwapComplete =>
    have hexec : exec (.contextSwapComplete qp) s =
        .next (modNet (fun n => { n with missQueue := mput q.attr.port [] n.missQueue })
          (modQp qp (fun q => { q with onDie := true, swapping := false, lastUse := s.net.useClock }) s)) := by
      change execContextSwapComplete qp s = _
      have hspare : ¬ 4096 ≤ (s.net.qps.filter fun x => x.2.onDie).length := by omega
      simp only [execContextSwapComplete, hq, hswap, hspare]
      simp [hnone]
    exact ⟨_, hexec, (qpAt_modQp ..).trans (by rw [hq]; rfl), rfl, rfl, rfl, rfl, rfl⟩
  case qpError =>
    have hlive : q.state ≠ .err := by rcases hstate with h | h <;> simp [h]
    have hexec : exec (.qpError qp cause status) s = .next (qpFail qp cause status 0 s) := by
      change execQpError qp cause status s = _
      simp [execQpError, hq, hstate]
    have hfails := qpFail_fails cause status 0 hq hlive
    exact ⟨_, hexec, hfails.work, hfails.event hroom, hfails.reg⟩

end Sys2Proof.Machine
end

section
/-! PROOFS. Key revocations, triggers and the frames of a fabric port (08_remote_access R292, R293, R305, R320 to R322,
09_command_queues R366): each row changes one entry of one table. -/

namespace Sys2Proof.Machine

/-! ### The end of a revocation (R305) -/

/-- The key of an entry is gone, and its TAG has risen. -/
structure KeyFreed (index : Nat) (s t : State) : Prop where
  key : mget index t.trust.memKeys = none
  tag : mget index t.trust.memTags = some ((mgetD 0 index s.trust.memTags + 1) % 4096)
  event : eventRoom s = true → recorded 0x0703 t
  net : t.net = s.net
  ti : t.ti = s.ti
  reg : t.reg = s.reg

theorem finishBg_net (path : BcsPath) (opcode rc v : Nat) (out : Bytes) (s : State) : (finishBg path opcode rc v out s).net = s.net := by
  unfold finishBg
  split
  · rfl
  · exact answerV_net ..

theorem finishBg_trust (path : BcsPath) (opcode rc v : Nat) (out : Bytes) (s : State) :
    (finishBg path opcode rc v out s).trust = s.trust := by
  unfold finishBg
  split
  · rfl
  · exact answerV_trust ..

theorem KeyFreed.finishBg {index : Nat} {s t : State} (h : KeyFreed index s t) (path : BcsPath) (opcode rc v : Nat) (out : Bytes) :
    KeyFreed index s (finishBg path opcode rc v out t) := by
  have hkeeps := finishBg_endKeeps path opcode rc v out t
  refine ⟨?_, ?_, fun hroom => ?_, (finishBg_net ..).trans h.net, hkeeps.ti.trans h.ti, hkeeps.reg.trans h.reg⟩
  · rw [finishBg_trust, h.key]
  · rw [finishBg_trust, h.tag]
  · rw [recorded, hkeeps.ev]
    exact h.event hroom

theorem endRevocation_frees (r : Revocation) (k : MemKey) (s : State) : KeyFreed r.index s (endRevocation r k s) := by
  unfold endRevocation
  have hfreed (data : Bytes) : KeyFreed r.index s (raise 0x0703 .info data
      (freeKey r.index (modTrust (fun t => { t with revocations := t.revocations.filter fun x => x.index != r.index }) s))) :=
    ⟨mget_mdel_self .., mget_mput_self .., fun hroom => recorded_raise _ _ _ (s := freeKey _ _) hroom, rfl, rfl, rfl⟩
  split
  · exact (hfreed _).finishBg ..
  · exact hfreed _

/-! ### Triggers (R320, R321, 09_command_queues R366) -/

/-- The completion of a command of a memory queue pair that is not being deleted leaves the network (09_command_queues R349). -/
theorem complete_net {qid : Nat} {q : QueuePair} {s : State} (cid status : Nat) (result : Bytes) (hq : queueOf qid s = some q)
    (ht : q.transport = 0) (hd : q.deleting = none) : (complete qid cid status result s).net = s.net := by
  have hreaches : reachesHost q = true := by simp [reachesHost, hd]
  unfold complete
  simp only [hq, hreaches, ht, Bool.not_true, Bool.false_eq_true, if_false, if_true]
  rw [finishDelete_of_not_deleting]
  · simp
  · intro p hp
    obtain ⟨r, hr, hdel⟩ := writeEntry_queue hp
    change queueOf qid (modQ qid _ s) = some r at hr
    rw [queueOf_modQ_self, hq] at hr
    cases hr
    exact hdel.trans hd

/-- Bits above the value of a number are clear. -/
theorem bitOf_of_lt {i v : Nat} (h : v < 2 ^ i) : bitOf i v = false := by simp [bitOf, Nat.div_eq_of_lt h]

/-! ### Frames on a fabric port (R292, R293) -/

theorem mget_dropOn {port : Nat} {p : EthPort} {s : State} (h : mget port s.net.ports = some p) :
    mget port (dropOn port s).net.ports = some { p with drops := p.drops + 1 } := by simp [dropOn, modNet, mget_mmod_self, h]

/-- A frame of a fabric port in service is counted. -/
def countedFrame (port : Nat) (s : State) : State :=
  modNet (fun n => { n with ports := mmod port (fun p => { p with rx := p.rx + 1 }) n.ports }) s

theorem mget_countedFrame {port : Nat} {p : EthPort} {s : State} (h : mget port s.net.ports = some p) :
    mget port (countedFrame port s).net.ports = some { p with rx := p.rx + 1 } := by simp [countedFrame, modNet, mget_mmod_self, h]

/-- Settles O29: each row changes one entry of a key table, a trigger table or a port. -/
theorem keysTriggersPortsAndFrames : Obligations.KeysTriggersPortsAndFrames := by
  unfold Obligations.KeysTriggersPortsAndFrames
  refine ⟨fun index r k s hr hk hdue => ?keyRevocation, fun index r k s hr hk hrevoking hdue hunused hroom => ?revocationComplete,
    fun entry g s hg hreached hunfired => ?counterFire, fun qid cid q c g s hq hc hop hheader hindex hg => ?triggerArm,
    fun entry a g q s ha hg hq hqueue => ?triggerArmEffect, fun port speed p s hp hdown hroom => ?linkUp,
    fun port length p s hp hup => ?badFrame, fun port length g p s hp hup hlen hgid => ?answeredFrame⟩
  case keyRevocation =>
    have hexec : exec (.keyRevocation index) s = .next (modTrust (fun t => { t with
        memKeys := mmod index (fun k => { k with revoking := true }) t.memKeys
        revocations := t.revocations.map fun x =>
          if x.index = index then { x with drained := max x.drained (keyUsers index s) } else x }) s) := by
      change execKeyRevocation index s = _
      simp only [execKeyRevocation, hr, hdue, if_true]
    exact ⟨_, hexec, by simp [mget_mmod_self, hk], rfl, rfl, rfl, rfl, rfl⟩
  case revocationComplete =>
    obtain rfl : r.index = index := by simpa using List.find?_some hr
    have hexec : exec (.revocationComplete r.index) s = .next (endRevocation r k s) := by
      change execRevocationComplete r.index s = _
      simp only [execRevocationComplete, hr, hk, hrevoking, hdue, hunused, and_self, if_true]
    have hfreed := endRevocation_frees r k s
    exact ⟨_, hexec, hfreed.key, hfreed.tag, hfreed.event hroom, hfreed.net, hfreed.ti, hfreed.reg⟩
  case counterFire =>
    obtain ⟨hkind, hthreshold⟩ := hreached
    have hexec : exec (.counterFire entry) s = .next (modNet (fun n => { n with
        fired := n.fired ++ [⟨entry, g.sendQpn, g.first, g.count⟩]
        triggers := if g.rearm then mput entry { g with threshold := (g.threshold + g.step) % 2 ^ 32 } n.triggers
          else mdel entry n.triggers }) s) := by
      change execCounterFire entry s = _
      simp [execCounterFire, hg, hkind, hthreshold, hunfired]
    refine ⟨_, hexec, rfl, ?_, rfl, rfl, rfl⟩
    cases hrearm : g.rearm with
    | false => simp [modNet, mget_mdel_self]
    | true => simp [modNet, mget_mput_self]
  case triggerArm =>
    obtain ⟨hheader, hptr, hregion, hoff, hlen⟩ := hheader
    have hexec : exec (.triggerArm qid cid) s = .next (modNet (fun n => { n with
        arms := n.arms ++ [⟨qid, cid, eCdw5 c.entry, some g, s.tb.beat + 1⟩] }) (runCmd qid cid [] s)) := by
      have hbit14 : bitOf 14 (eCdw5 c.entry) = false := bitOf_of_lt (by omega)
      have hbit15 : bitOf 15 (eCdw5 c.entry) = false := bitOf_of_lt (by omega)
      have hsmall : eCdw5 c.entry < 65536 := by omega
      have hmod : eCdw5 c.entry % 16384 = eCdw5 c.entry := Nat.mod_eq_of_lt (by omega)
      change execTriggerArm qid cid s = _
      simp [execTriggerArm, withCmd, hq, hc, hop, hheader, hptr, hregion, hoff, hlen, hg, hbit14, hbit15, hsmall, hmod]
    exact ⟨_, hexec, rfl, runningCmd_runCmd hq hc, rfl, rfl, rfl⟩
  case triggerArmEffect =>
    obtain ⟨htransport, hlive⟩ := hqueue
    obtain ⟨f, hf, hexec⟩ : ∃ f : Net → Net, (∀ n, (f n).qps = n.qps ∧ (f n).triggers = mput entry g n.triggers) ∧
        exec (.triggerArmEffect entry) s = .next (complete a.qid a.cid 0 [] (modNet f s)) := by
      refine ⟨fun n => { n with arms := n.arms.filter (· != a), triggers := mput entry g n.triggers }, fun _ => ⟨rfl, rfl⟩, ?_⟩
      change execTriggerArmEffect entry s = _
      simp only [execTriggerArmEffect, ha, hg]
    have hcompletes := complete_completes a.cid 0 [] (s := modNet f s) hq htransport hlive
    have hnet := complete_net a.cid 0 [] (s := modNet f s) hq htransport hlive
    refine ⟨_, hexec, ?_, hcompletes.sent, ?_, hcompletes.ti, hcompletes.pu⟩
    · rw [hnet]
      exact (congrArg (mget entry) (hf s.net).2).trans (mget_mput_self ..)
    · rw [hnet]
      exact (hf s.net).1
  case linkUp =>
    obtain ⟨hdown, hphase⟩ := hdown
    have hexec : exec (.ethLinkChange port true speed) s = .next (raise 0x0701 .info (le 1 port ++ le 1 (b2n true) ++ le 1 speed)
        (modNet (fun n => { n with ports := mput port { p with up := true, speed := speed } n.ports }) s)) := by
      change execEthLinkChange port true speed s = _
      simp [execEthLinkChange, hp, hdown, Nat.not_lt.mpr hphase]
    exact ⟨_, hexec, mget_mput_self .., newestEvent_raise _ _ _ (s := modNet _ s) hroom, rfl, rfl, rfl⟩
  case badFrame =>
    obtain ⟨hup, hfabric⟩ := hup
    have hexec : exec (.fabricFrame port length .fcsError) s = .next (dropOn port (countedFrame port s)) := by
      change execFabricFrame port length .fcsError s = _
      simp [execFabricFrame, hp, hup, hfabric, countedFrame]
    exact ⟨_, hexec, mget_dropOn (mget_countedFrame hp), rfl, rfl, rfl, rfl⟩
  case answeredFrame =>
    obtain ⟨hup, hfabric⟩ := hup
    have hexec : exec (.fabricFrame port length (.arpOrNd g)) s = .next (emit (.frame port (mgetD [] g p.gids)) (countedFrame port s)) := by
      change execFabricFrame port length (.arpOrNd g) s = _
      simp [execFabricFrame, hp, hup, hfabric, Nat.not_lt.mpr hlen, gidSet, hgid, countedFrame]
    exact ⟨_, hexec, rfl, mget_countedFrame hp, rfl, rfl, rfl⟩

end Sys2Proof.Machine
end

section
/-! PROOFS. RDMA requests at a responder QP (08_remote_access R303, R306 to R314): a message that the QP takes runs by its kind; it
either waits for the acknowledgement of one write unit, or is answered at once. -/

namespace Sys2Proof.Machine

/-! ### What leaves everything but the QPs -/

/-- Neither the persistence unit, the tiers, the regions nor the outputs are changed. -/
structure OnlyQps (s t : State) : Prop where
  pu : t.pu = s.pu
  ti : t.ti = s.ti
  reg : t.reg = s.reg
  out : t.out = s.out

theorem OnlyQps.trans {s t u : State} (h : OnlyQps s t) (g : OnlyQps t u) : OnlyQps s u :=
  ⟨g.pu.trans h.pu, g.ti.trans h.ti, g.reg.trans h.reg, g.out.trans h.out⟩

theorem modQp_onlyQps (i : Nat) (f : Qp → Qp) (s : State) : OnlyQps s (modQp i f s) := ⟨rfl, rfl, rfl, rfl⟩

/-! ### A message that is taken (R301, R306) -/

/-- The state after a message has used its QP. -/
def qpUsed (i : Nat) (s : State) : State :=
  modNet (fun n => { n with useClock := n.useClock + 1 }) (modQp i (fun q => { q with lastUse := s.net.useClock }) s)

/-- A request of a MEMORY QP by its kind. -/
def runRequest (i : Nat) (q : Qp) (s : State) : RdmaMsg → State
  | .write req data imm => runWrite i q req data imm s
  | .send req data imm => runSend i q req data imm s
  | .read req len => runRead i q req len true s
  | .atomic req kind a b => runAtomic i q req kind a b s
  | .flush req len => runFlush i q req len s

/-- What a QP that takes a request is like. -/
structure TakesRequest (q : Qp) (req : RdmaReq) : Prop where
  state : q.state = .rtr ∨ q.state = .rts
  onDie : q.onDie = true
  rx : q.rx = []
  transport : q.attr.transport = 0
  expected : req.psn = q.ePsn
  psn : q.ePsn < psnMod
  ecn : req.ecn = false
  ring : 4 ≤ slotsFree q ∨ q.attr.cplRing.region = 0

theorem takes_of_qpTakes {q : Qp} {req : RdmaReq} (h : qpTakes q req = true) : TakesRequest q req := by
  simp only [qpTakes, Bool.and_eq_true, Bool.or_eq_true, beq_iff_eq, List.isEmpty_iff, decide_eq_true_eq, Bool.not_eq_true'] at h
  obtain ⟨⟨⟨⟨⟨⟨hstate, hdie⟩, hrx⟩, htransport⟩, hexpected, hpsn⟩, hecn⟩, hring⟩ := h
  exact ⟨hstate, hdie, hrx, htransport, hexpected, hpsn, hecn, hring⟩

/-- The QP after a message has used it. -/
def usedQp (s : State) (q : Qp) : Qp := { q with lastUse := s.net.useClock }

theorem qpAt_used {i : Nat} {q : Qp} {s : State} (hq : qpAt i s = some q) : qpAt i (qpUsed i s) = some (usedQp s q) :=
  (qpAt_modQp ..).trans (by rw [hq]; rfl)

theorem cplFree_usedQp (s : State) (q : Qp) : cplFree (usedQp s q) = cplFree q := rfl

theorem slotsFree_usedQp (s : State) (q : Qp) : slotsFree (usedQp s q) = slotsFree q := rfl

/-- Admission does not look at the QPs. -/
theorem admitsLast_used (src : WSrc) (r off : Nat) (data : Bytes) (bad : List Nat) (i : Nat) (s : State) :
    admitsLast (submitWrite src r off data bad (qpUsed i s)) = admitsLast (submitWrite src r off data bad s) := rfl

theorem refreshHead_kept {i : Nat} {q : Qp} {s : State} (hq : qpAt i s = some q)
    (hring : 4 ≤ slotsFree q ∨ q.attr.cplRing.region = 0) : (if slotsFree q < 4 then refreshHead i s else s) = s := by
  rcases hring with hfree | hnone
  · exact if_neg (Nat.not_lt.mpr hfree)
  · simp [refreshHead, hq, hnone]

theorem arrive_takes {i : Nat} {q : Qp} {msg : RdmaMsg} {s : State} (hq : qpAt i s = some q) (h : TakesRequest q (msgReq msg))
    (hservice : q.attr.service = 0) : arrive i msg s = runRequest i (usedQp s q) (qpUsed i s) msg := by
  have hlive : q.state ≠ .reset := by rcases h.state with hs | hs <;> simp [hs]
  have hruns : ¬ (q.state ≠ .rtr ∧ q.state ≠ .rts) := by rcases h.state with hs | hs <;> simp [hs]
  have hahead : ((msgReq msg).psn + psnMod - q.ePsn) % psnMod = 0 := by
    rw [h.expected, Nat.add_sub_cancel_left, Nat.mod_self]
  have hkept : (if slotsFree q < 4 then refreshHead i (qpUsed i s) else qpUsed i s) = qpUsed i s :=
    refreshHead_kept (q := usedQp s q) (qpAt_used hq) h.ring
  simp only [arrive, hq, hlive, if_false, h.onDie, if_true, runMsg, hruns, h.ecn, Bool.false_eq_true]
  rw [← qpUsed, hkept, qpAt_used hq]
  simp only [Option.getD_some, usedQp, hahead, h.transport, hservice]
  cases msg <;> rfl

/-! ### A message that is accepted (R306, R307) -/

/-- A message that waits for its piece: the expected PSN has moved past it. -/
structure RxWaits (i : Nat) (q : Qp) (m : RxMsg) (s t : State) : Prop extends OnlyQps s t where
  qp : ((qpAt i t).map fun x => (x.ePsn, x.recvNext, x.rx)) =
    some ((m.psn + m.packets) % psnMod, q.recvNext, [{ m with beat := s.tb.beat }])

/-- The state in which a message has been accepted. -/
def acceptedRx (i : Nat) (m : RxMsg) (s : State) : State :=
  countQp i 0 m.packets (modQp i (fun q => { q with ePsn := (m.psn + m.packets) % psnMod, rx := q.rx ++ [{ m with beat := s.tb.beat }] }) s)

theorem accepted_onlyQps (i : Nat) (m : RxMsg) (s : State) : OnlyQps s (acceptedRx i m s) := (modQp_onlyQps ..).trans (modQp_onlyQps ..)

theorem qpAt_accepted {i : Nat} {m : RxMsg} {q : Qp} {s : State} (hq : qpAt i s = some q) :
    qpAt i (acceptedRx i m s) = some { q with
      ePsn := (m.psn + m.packets) % psnMod, rx := q.rx ++ [{ m with beat := s.tb.beat }]
      counters := mmodD 0 0 (· + m.packets) q.counters } := by simp [acceptedRx, hq]

theorem acceptRx_waits {i : Nat} {m : RxMsg} {q : Qp} {s : State} (hq : qpAt i s = some q) (hrx : q.rx = []) (hleft : m.left ≠ 0) :
    RxWaits i q m s (acceptRx i m s) := by
  have haccept : acceptRx i m s = acceptedRx i m s := by
    rw [acceptRx, ← acceptedRx]
    simp [flushAll, flushRx, qpAt_accepted hq, hrx, hleft]
  rw [haccept]
  exact ⟨accepted_onlyQps .., by rw [qpAt_accepted hq, hrx]; rfl⟩

/-- The state in which an accepted message is answered that waited for nothing. -/
def answeringRx (i : Nat) (m : RxMsg) (s : State) : State := modQp i (fun q => { q with rx := [] }) (acceptedRx i m s)

theorem acceptRx_answers {i : Nat} {m : RxMsg} {q : Qp} {s : State} (hq : qpAt i s = some q) (hrx : q.rx = []) (hleft : m.left = 0) :
    acceptRx i m s = answerRx i { m with beat := s.tb.beat } (answeringRx i m s) := by
  rw [acceptRx, ← acceptedRx]
  simp [flushAll, flushRx, qpAt_accepted hq, hrx, hleft, answeringRx]

/-! ### Requests that stage one write unit (R306 to R308, R312) -/

/-- The bytes of a message wait in one staged write unit, and the message for its acknowledgement. -/
structure StagedFor (i recvNext : Nat) (m : RxMsg) (off : Nat) (data : Bytes) (s t : State) : Prop where
  unit : (t.pu.units.getLast?.map fun u => (u.src, u.lines, u.phase)) = some (.rdma i m.psn 0, cutLines off data, .staged)
  qp : ((qpAt i t).map fun x => (x.ePsn, x.recvNext, x.rx)) = some ((m.psn + m.packets) % psnMod, recvNext, [{ m with beat := s.tb.beat }])
  out : t.out = s.out
  ti : t.ti = s.ti
  reg : t.reg = s.reg

theorem StagedFor.read {i recvNext off : Nat} {m : RxMsg} {data : Bytes} {s t : State} (h : StagedFor i recvNext m off data s t)
    {α : Type} (f : Nat → Nat → List RxMsg → α) : ((qpAt i t).map fun x => f x.ePsn x.recvNext x.rx) =
      some (f ((m.psn + m.packets) % psnMod) recvNext [{ m with beat := s.tb.beat }]) := by
  simpa [Function.comp_def] using congrArg (Option.map fun w => f w.1 w.2.1 w.2.2) h.qp

theorem StagedFor.unitKept {i recvNext off : Nat} {m : RxMsg} {data : Bytes} {s t : State} (h : StagedFor i recvNext m off data s t) :
    (t.pu.units.getLast?.map fun u => (u.lines, u.phase)) = some (cutLines off data, .staged) := by
  simpa [Function.comp_def] using congrArg (Option.map fun w => w.2) h.unit

/-- The message of a WRITE of one piece. -/
def writeMsg (req : RdmaReq) (data : Bytes) (imm : Option Nat) (k : KeyHit) : RxMsg :=
  { psn := req.psn, packets := max 1 req.packets, kind := .write, length := data.length, imm := imm
    left := 1, key := some k.index, region := k.region, off := k.off }

theorem runWrite_stages {i : Nat} {q : Qp} {req : RdmaReq} {data : Bytes} {imm : Option Nat} {k : KeyHit} {s : State}
    (hq : qpAt i s = some q) (hrx : q.rx = []) (himm : (imm.isSome && cplFree q == 0) = false) (hpos : 0 < data.length)
    (hshort : data.length ≤ 4096) (hkey : keyCheck q req.rkey [1] req.va data.length true s = some k)
    (hhere : plainHere k.region s = true)
    (hadmits : admitsLast (submitWrite (.rdma i req.psn 0) k.region k.off data [] s) = true) :
    StagedFor i q.recvNext (writeMsg req data imm k) k.off data s (runWrite i q req data imm s) := by
  obtain ⟨p, htake, hunit⟩ := takeWrite_here hhere hpos hshort hadmits
  have hfits : ¬ 2 ^ 31 < data.length := by omega
  have hsome : data.isEmpty = false := List.isEmpty_eq_false_iff.mpr (List.ne_nil_of_length_pos hpos)
  have hrun : runWrite i q req data imm s = acceptRx i (writeMsg req data imm k) { s with pu := p } := by
    simp only [runWrite, hfits, himm, hsome, hkey, spanRoute_plainHere _ _ hhere, htake,
      pieceList_plainHere 0 k.off hhere hpos (by omega : data.length < 2 ^ 20)]
    rfl
  have hwaits := acceptRx_waits (m := writeMsg req data imm k) (s := { s with pu := p }) hq hrx Nat.one_ne_zero
  rw [hrun]
  exact ⟨hwaits.pu ▸ hunit, hwaits.qp, hwaits.out, hwaits.ti, hwaits.reg⟩

/-- The offset of the next receive slot of a QP (R312). -/
def slotOff (q : Qp) : Nat := q.attr.recvRing.offset + q.recvNext * 2 ^ q.attr.recvRing.logSize

/-- The message of a SEND. -/
def recvMsg (q : Qp) (req : RdmaReq) (data : Bytes) (imm : Option Nat) : RxMsg :=
  { psn := req.psn, packets := max 1 req.packets, kind := .send, length := data.length, imm := imm, isSend := true
    slot := some q.recvNext, region := q.attr.recvRing.region, off := slotOff q, left := 1 }

theorem runSend_stages {i : Nat} {q : Qp} {req : RdmaReq} {data : Bytes} {imm : Option Nat} {s : State}
    (hq : qpAt i s = some q) (hrx : q.rx = []) (hentry : cplFree q ≠ 0) (hslot : slotsFree q ≠ 0) (hpos : 0 < data.length)
    (hfits : data.length ≤ 2 ^ q.attr.recvRing.logSize) (hshort : data.length ≤ 4096)
    (hhere : plainHere q.attr.recvRing.region s = true)
    (hadmits : admitsLast (submitWrite (.rdma i req.psn 0) q.attr.recvRing.region (slotOff q) data [] s) = true) :
    StagedFor i ((q.recvNext + 1) % 2 ^ q.attr.recvRing.logCount) (recvMsg q req data imm) (slotOff q) data s
      (runSend i q req data imm s) := by
  obtain ⟨p, htake, hunit⟩ := takeWrite_here hhere hpos hshort hadmits
  have hsome : data.isEmpty = false := List.isEmpty_eq_false_iff.mpr (List.ne_nil_of_length_pos hpos)
  let next : State := modQp i (fun x => { x with recvNext := (q.recvNext + 1) % 2 ^ q.attr.recvRing.logCount }) { s with pu := p }
  have hrun : runSend i q req data imm s = acceptRx i (recvMsg q req data imm) next := by
    simp only [runSend, Nat.not_lt.mpr hfits, hslot, hentry, or_self, if_false, hsome, spanRoute_plainHere _ _ hhere]
    rw [← slotOff, htake]
    rfl
  have hnext : qpAt i next = some { q with recvNext := (q.recvNext + 1) % 2 ^ q.attr.recvRing.logCount } :=
    (qpAt_modQp ..).trans (congrArg (Option.map _) hq)
  have hwaits := acceptRx_waits (m := recvMsg q req data imm) hnext hrx Nat.one_ne_zero
  rw [hrun]
  exact ⟨hwaits.pu ▸ hunit, hwaits.qp, hwaits.out, hwaits.ti, hwaits.reg⟩

/-- The message of an atomic operation that stores (R308). -/
def atomicMsg (req : RdmaReq) (kind left : Nat) (k : KeyHit) (old : BitVec 64) : RxMsg :=
  { psn := req.psn, packets := max 1 req.packets, kind := if kind = 2 then .write else .atomic, length := 8
    key := some k.index, region := k.region, off := k.off, left := left, original := some old }

/-- An atomic operation on an aligned word of a plain region reads the word. -/
theorem runAtomic_here {i : Nat} {q : Qp} {req : RdmaReq} {kind : Nat} {a b : BitVec 64} {k : KeyHit} {l : LineRead} {s : State}
    (halign : req.va % 8 = 0) (hkey : keyCheck q req.rkey [2] req.va 8 true s = some k) (hoff : k.off % 8 = 0)
    (hhere : plainHere k.region s = true) (hline : pendingLine k.region (k.off / 64) s = some l) (hgood : (l.poison && kind != 2) = false) :
    runAtomic i q req kind a b s =
      match atomicValue kind (wordAt l.data (k.off % 64)) a b with
      | none => acceptRx i (atomicMsg req kind 0 k (wordAt l.data (k.off % 64))) s
      | some v =>
        match takeWrite i req.psn k.region k.off (le 8 v.toNat) s with
        | none => rnrNak i req.psn q.attr.minRnrTmr s
        | some s => acceptRx i (atomicMsg req kind 1 k (wordAt l.data (k.off % 64))) s := by
  simp only [runAtomic, halign, hkey, hoff, route_plainHere _ hhere, hline, hgood]
  rfl

theorem runAtomic_stages {i : Nat} {q : Qp} {req : RdmaReq} {kind : Nat} {a b v : BitVec 64} {k : KeyHit} {l : LineRead} {s : State}
    (hq : qpAt i s = some q) (hrx : q.rx = [])
    (halign : req.va % 8 = 0) (hkey : keyCheck q req.rkey [2] req.va 8 true s = some k) (hoff : k.off % 8 = 0)
    (hhere : plainHere k.region s = true) (hline : pendingLine k.region (k.off / 64) s = some l) (hgood : (l.poison && kind != 2) = false)
    (hvalue : atomicValue kind (wordAt l.data (k.off % 64)) a b = some v)
    (hadmits : admitsLast (submitWrite (.rdma i req.psn 0) k.region k.off (le 8 v.toNat) [] s) = true) :
    StagedFor i q.recvNext (atomicMsg req kind 1 k (wordAt l.data (k.off % 64))) k.off (le 8 v.toNat) s (runAtomic i q req kind a b s) := by
  have hlen : (le 8 v.toNat).length = 8 := by simp [le]
  obtain ⟨p, htake, hunit⟩ := takeWrite_here hhere (by omega) (by omega) hadmits
  have hwaits := acceptRx_waits (m := atomicMsg req kind 1 k (wordAt l.data (k.off % 64))) (s := { s with pu := p }) hq hrx Nat.one_ne_zero
  rw [runAtomic_here halign hkey hoff hhere hline hgood]
  simp only [hvalue, htake]
  exact ⟨hwaits.pu ▸ hunit, hwaits.qp, hwaits.out, hwaits.ti, hwaits.reg⟩

/-! ### Requests that are answered at once (R308 to R310) -/

theorem answering_onlyQps (i : Nat) (m : RxMsg) (s : State) : OnlyQps s (answeringRx i m s) :=
  (accepted_onlyQps ..).trans (modQp_onlyQps ..)

/-- A message is answered at once, and its QP waits for nothing. -/
structure RxAnswered (i : Nat) (m : RxMsg) (o : Output) (s t : State) : Prop where
  out : t.out = o :: s.out
  qp : ((qpAt i t).map fun x => (x.ePsn, x.rx)) = some ((m.psn + m.packets) % psnMod, [])
  pu : t.pu = s.pu
  ti : t.ti = s.ti
  reg : t.reg = s.reg

/-- The QP after a message that it did not wait for. -/
theorem qpAt_answering {i : Nat} {m : RxMsg} {q : Qp} {s : State} (hq : qpAt i s = some q) :
    qpAt i (answeringRx i m s) = some { q with
      ePsn := (m.psn + m.packets) % psnMod, rx := [], counters := mmodD 0 0 (· + m.packets) q.counters } := by
  rw [answeringRx, qpAt_modQp, qpAt_accepted hq]
  rfl

theorem answered_emit {i : Nat} {m : RxMsg} {s u : State} (o : Output) (h : OnlyQps s u)
    (hqp : ((qpAt i u).map fun x => (x.ePsn, x.rx)) = some ((m.psn + m.packets) % psnMod, [])) : RxAnswered i m o s (emit o u) :=
  ⟨congrArg (List.cons o) h.out, hqp, h.pu, h.ti, h.reg⟩

section
variable {i : Nat} {m : RxMsg} {q : Qp} {s : State} (hq : qpAt i s = some q) (hrx : q.rx = []) (hleft : m.left = 0)
include hq hrx hleft

theorem acceptRx_read (hkind : m.kind = .read) (hbad : m.bad = []) :
    RxAnswered i m (.rdmaRead i m.psn (m.data.map (·.2)).flatten) s (acceptRx i m s) := by
  rw [acceptRx_answers hq hrx hleft]
  simp only [answerRx, qpAt_answering hq, hkind, hbad, List.foldl_nil, List.head?_nil]
  exact answered_emit _ ((answering_onlyQps ..).trans (modQp_onlyQps ..)) (by simp [qpAt_answering hq])

theorem acceptRx_atomic (hkind : m.kind = .atomic) :
    RxAnswered i m (.rdmaAtomic i m.psn (m.original.getD 0)) s (acceptRx i m s) := by
  rw [acceptRx_answers hq hrx hleft]
  simp only [answerRx, qpAt_answering hq, hkind]
  exact answered_emit _ (((answering_onlyQps ..).trans (modQp_onlyQps ..)).trans (modQp_onlyQps ..)) (by simp [qpAt_answering hq])

theorem acceptRx_flush (hkind : m.kind = .flush) (hplain : m.isSend = false) (himm : m.imm = none) :
    ∃ o, RxAnswered i m o s (acceptRx i m s) := by
  rw [acceptRx_answers hq hrx hleft]
  simp only [answerRx, qpAt_answering hq, hkind, hplain, himm]
  exact ⟨_, answered_emit _ ((answering_onlyQps ..).trans (modQp_onlyQps ..)) (by simp [qpAt_answering hq])⟩

end

theorem OnlyTiers.net {s t : State} (h : OnlyTiers s t) : t.net = s.net := (congrArg State.net h.rest :)

/-- The message of a READ that is answered at once (R310). -/
def readMsg (req : RdmaReq) (len : Nat) (k : KeyHit) (bytes : Bytes) : RxMsg :=
  { psn := req.psn, packets := max 1 req.packets, kind := .read, length := len, region := k.region, off := k.off, key := some k.index
    data := [(0, bytes)] }

theorem runRead_here {i : Nat} {q : Qp} {req : RdmaReq} {len : Nat} {k : KeyHit} {s : State} (hpos : 0 < len) (hshort : len ≤ 4096)
    (hkey : keyCheck q req.rkey [0] req.va len false s = some k) (hhere : plainHere k.region s = true)
    (hgood : poisonedLines k.region k.off len s = []) :
    runRead i q req len true s = acceptRx i (readMsg req len k (readBytes k.region k.off len s)) (wantRange k.region k.off len s) := by
  have hfits : ¬ 2 ^ 31 < len := by omega
  have hsome : len ≠ 0 := by omega
  simp only [runRead, hfits, hsome, if_false, hkey, spanRoute_plainHere _ _ hhere,
    pieceList_plainHere 0 k.off hhere hpos (by omega : len < 2 ^ 20), List.all_cons, List.all_nil, route_plainHere _ hhere, readHere, hgood]
  rfl

theorem runRead_refused {i : Nat} {q : Qp} {req : RdmaReq} {len : Nat} {s : State} (hpos : 0 < len) (hfits : len ≤ 2 ^ 31)
    (hkey : keyCheck q req.rkey [0] req.va len false s = none) : runRead i q req len true s = nakFail i req.psn 0x62 s := by
  have hsome : len ≠ 0 := by omega
  simp only [runRead, Nat.not_lt.mpr hfits, hsome, if_false, hkey]

/-- The message of a FLUSH (R309). -/
def flushMsg (req : RdmaReq) (len : Nat) : RxMsg := { psn := req.psn, packets := max 1 req.packets, kind := .flush, length := len }

theorem runFlush_here {i : Nat} {q : Qp} {req : RdmaReq} {len : Nat} {k : KeyHit} {s : State}
    (hkey : keyCheck q req.rkey [3] req.va len false s = some k) (hhere : plainHere k.region s = true) :
    runFlush i q req len s = acceptRx i (flushMsg req len) s := by
  simp only [runFlush, hkey, spanRoute_plainHere _ _ hhere]
  rfl

/-! ### A request that is refused (R306, R316) -/

/-- A NAK goes out, and the QP enters the error state. -/
theorem nakFail_fails {i psn syndrome : Nat} {q : Qp} {s : State} (hq : qpAt i s = some q) (hlive : q.state ≠ .err) :
    .rdmaNak i psn syndrome ∈ (nakFail i psn syndrome s).out ∧ QpFails i s (nakFail i psn syndrome s) := by
  have hcounted : qpAt i (countQp i 2 1 (emit (.rdmaNak i psn syndrome) s)) =
      some { q with counters := mmodD 0 2 (· + 1) q.counters } := by simp [hq]
  have hfails := qpFail_fails 3 syndrome psn hcounted hlive
  exact ⟨(qpFail_keeps (Keeps.refl _)).out.subset (List.mem_cons_self ..), hfails.work, hfails.ti, hfails.reg, hfails.event⟩

/-- Settles O27: a message that a QP takes runs by its kind (`arrive_takes`); it is staged, answered or refused. -/
theorem requestsAtAResponderQp : Obligations.RequestsAtAResponderQp := by
  unfold Obligations.RequestsAtAResponderQp
  refine ⟨fun req data q k s hq ⟨htakes, hservice⟩ ⟨hpos, hshort⟩ hkey hhere hadmits => ?write,
    fun req data imm q k s hq ⟨htakes, hservice, hentry⟩ ⟨hpos, hshort⟩ hkey hhere hadmits => ?writeImm,
    fun req data q s hq ⟨htakes, hservice, hentry, hslot⟩ ⟨hpos, hfits, hshort⟩ hhere hadmits => ?send,
    fun req data imm q s hq ⟨htakes, hservice, hentry, hslot⟩ ⟨hpos, hfits, hshort⟩ hhere hadmits => ?sendImm,
    fun req len q k s hq ⟨htakes, hservice⟩ ⟨hpos, hshort⟩ hkey hhere hgood => ?read,
    fun req a b q k l s hq ⟨htakes, hservice⟩ halign hkey hoff hhere hline ⟨hgood, hdiffers⟩ => ?swapRefused,
    fun req a b q k l s hq ⟨htakes, hservice⟩ halign hkey hoff hhere hline ⟨hgood, hequal⟩ hadmits => ?swap,
    fun req a q k l s hq ⟨htakes, hservice⟩ halign hkey hoff hhere hline hgood hadmits => ?add,
    fun req v q k l s hq ⟨htakes, hservice⟩ halign hkey hoff hhere hline hadmits => ?atomicWrite,
    fun req len q k s hq ⟨htakes, hservice⟩ ⟨hpos, hshort⟩ hkey hhere => ?flush,
    fun req len q s hq ⟨htakes, hservice⟩ ⟨hpos, hshort⟩ hkey => ?badKey⟩
  all_goals have htake := takes_of_qpTakes htakes
  case write =>
    have hexec : exec (.rdmaWrite req data) s = .next (runWrite req.qp (usedQp s q) req data none (qpUsed req.qp s)) :=
      congrArg _ (arrive_takes (msg := .write req data none) hq htake hservice)
    have hstaged := runWrite_stages (imm := none) (qpAt_used hq) htake.rx rfl hpos hshort hkey hhere
      ((admitsLast_used ..).trans hadmits)
    exact ⟨_, hexec, hstaged.unit, hstaged.read fun ePsn _ rx => (ePsn, rx.map (·.left)), hstaged.out, hstaged.ti, hstaged.reg⟩
  case writeImm =>
    have hexec : exec (.rdmaWriteWithImmediate req data imm) s =
        .next (runWrite req.qp (usedQp s q) req data (some imm) (qpUsed req.qp s)) :=
      congrArg _ (arrive_takes (msg := .write req data (some imm)) hq htake hservice)
    have hstaged := runWrite_stages (imm := some imm) (qpAt_used hq) htake.rx (by simpa [cplFree_usedQp] using hentry) hpos hshort
      hkey hhere ((admitsLast_used ..).trans hadmits)
    exact ⟨_, hexec, hstaged.unit, hstaged.read fun ePsn _ rx => (ePsn, rx.map fun m => (m.left, m.imm)),
      hstaged.out, hstaged.ti, hstaged.reg⟩
  case send =>
    have hexec : exec (.send req data) s = .next (runSend req.qp (usedQp s q) req data none (qpUsed req.qp s)) :=
      congrArg _ (arrive_takes (msg := .send req data none) hq htake hservice)
    have hstaged := runSend_stages (imm := none) (qpAt_used hq) htake.rx (cplFree_usedQp s q ▸ hentry)
      (slotsFree_usedQp s q ▸ hslot) hpos hfits hshort hhere ((admitsLast_used ..).trans hadmits)
    exact ⟨_, hexec, hstaged.unit, hstaged.read fun ePsn next rx => (ePsn, next, rx.map (·.slot)),
      hstaged.out, hstaged.ti, hstaged.reg⟩
  case sendImm =>
    have hexec : exec (.sendWithImmediate req data imm) s =
        .next (runSend req.qp (usedQp s q) req data (some imm) (qpUsed req.qp s)) :=
      congrArg _ (arrive_takes (msg := .send req data (some imm)) hq htake hservice)
    have hstaged := runSend_stages (imm := some imm) (qpAt_used hq) htake.rx (cplFree_usedQp s q ▸ hentry)
      (slotsFree_usedQp s q ▸ hslot) hpos hfits hshort hhere ((admitsLast_used ..).trans hadmits)
    exact ⟨_, hexec, hstaged.unit, hstaged.read fun ePsn next rx => (ePsn, next, rx.map (·.imm)), hstaged.out, hstaged.ti, hstaged.reg⟩
  case read =>
    have hexec : exec (.rdmaRead req len) s = .next (runRead req.qp (usedQp s q) req len true (qpUsed req.qp s)) :=
      congrArg _ (arrive_takes (msg := .read req len) hq htake hservice)
    rw [runRead_here (q := usedQp s q) (s := qpUsed req.qp s) hpos hshort hkey hhere hgood] at hexec
    have hwant := wantRange_onlyTiers k.region k.off len (qpUsed req.qp s)
    have hqWant : qpAt req.qp (wantRange k.region k.off len (qpUsed req.qp s)) = some (usedQp s q) := by
      rw [qpAt, hwant.net]
      exact qpAt_used hq
    have hanswered := acceptRx_read (m := readMsg req len k (readBytes k.region k.off len (qpUsed req.qp s))) hqWant htake.rx rfl rfl rfl
    refine ⟨_, hexec, ?_, hanswered.qp, hanswered.pu.trans hwant.pu, hanswered.reg.trans hwant.reg⟩
    have hbytes : ((readMsg req len k (readBytes k.region k.off len (qpUsed req.qp s))).data.map (·.2)).flatten =
        readBytes k.region k.off len s := List.append_nil _
    rw [hanswered.out, hbytes]
    exact List.mem_cons_self ..
  case swapRefused =>
    have hexec : exec (.compareAndSwap req a b) s = .next (runAtomic req.qp (usedQp s q) req 0 a b (qpUsed req.qp s)) :=
      congrArg _ (arrive_takes (msg := .atomic req 0 a b) hq htake hservice)
    have hnone : atomicValue 0 (wordAt l.data (k.off % 64)) a b = none := by simp [atomicValue, hdiffers]
    rw [runAtomic_here (q := usedQp s q) (s := qpUsed req.qp s) halign hkey hoff hhere hline (by simp [hgood])] at hexec
    simp only [hnone] at hexec
    have hanswered := acceptRx_atomic (m := atomicMsg req 0 0 k (wordAt l.data (k.off % 64))) (qpAt_used hq) htake.rx rfl rfl
    exact ⟨_, hexec, hanswered.out ▸ List.mem_cons_self .., hanswered.pu, hanswered.ti, hanswered.reg⟩
  case swap =>
    have hexec : exec (.compareAndSwap req a b) s = .next (runAtomic req.qp (usedQp s q) req 0 a b (qpUsed req.qp s)) :=
      congrArg _ (arrive_takes (msg := .atomic req 0 a b) hq htake hservice)
    have hstaged := runAtomic_stages (kind := 0) (a := a) (b := b) (v := b) (qpAt_used hq) htake.rx halign hkey hoff hhere hline
      (by simp [hgood]) (by simp [atomicValue, hequal]) ((admitsLast_used ..).trans hadmits)
    exact ⟨_, hexec, hstaged.unitKept, hstaged.out, hstaged.ti, hstaged.reg⟩
  case add =>
    have hexec : exec (.fetchAndAdd req a) s = .next (runAtomic req.qp (usedQp s q) req 1 a 0 (qpUsed req.qp s)) :=
      congrArg _ (arrive_takes (msg := .atomic req 1 a 0) hq htake hservice)
    have hstaged := runAtomic_stages (kind := 1) (a := a) (b := 0) (qpAt_used hq) htake.rx halign hkey hoff hhere hline
      (by simp [hgood]) rfl ((admitsLast_used ..).trans hadmits)
    exact ⟨_, hexec, hstaged.unitKept, hstaged.read fun _ _ rx => rx.map (·.original), hstaged.out, hstaged.ti, hstaged.reg⟩
  case atomicWrite =>
    have hexec : exec (.atomicWrite req v) s = .next (runAtomic req.qp (usedQp s q) req 2 v 0 (qpUsed req.qp s)) :=
      congrArg _ (arrive_takes (msg := .atomic req 2 v 0) hq htake hservice)
    have hstaged := runAtomic_stages (kind := 2) (a := v) (b := 0) (qpAt_used hq) htake.rx halign hkey hoff hhere hline
      (by simp) rfl ((admitsLast_used ..).trans hadmits)
    exact ⟨_, hexec, hstaged.unitKept, hstaged.out, hstaged.ti, hstaged.reg⟩
  case flush =>
    have hexec : exec (.flush req len) s = .next (runFlush req.qp (usedQp s q) req len (qpUsed req.qp s)) :=
      congrArg _ (arrive_takes (msg := .flush req len) hq htake hservice)
    rw [runFlush_here (q := usedQp s q) (s := qpUsed req.qp s) hkey hhere] at hexec
    obtain ⟨o, hanswered⟩ := acceptRx_flush (m := flushMsg req len) (qpAt_used hq) htake.rx rfl rfl rfl rfl
    exact ⟨_, hexec, by rw [hanswered.out]; rfl, hanswered.qp, hanswered.pu, hanswered.ti, hanswered.reg⟩
  case badKey =>
    have hexec : exec (.rdmaRead req len) s = .next (runRead req.qp (usedQp s q) req len true (qpUsed req.qp s)) :=
      congrArg _ (arrive_takes (msg := .read req len) hq htake hservice)
    rw [runRead_refused (q := usedQp s q) (s := qpUsed req.qp s) hpos hshort hkey] at hexec
    have hlive : q.state ≠ .err := by rcases htake.state with h | h <;> simp [h]
    obtain ⟨hnak, hfails⟩ := nakFail_fails (psn := req.psn) (syndrome := 0x62) (qpAt_used hq) hlive
    exact ⟨_, hexec, hnak, hfails.state, hfails.ti, hfails.reg⟩

end Sys2Proof.Machine
end

section
/-! PROOFS. Multipath placement (08_remote_access R328 to R339): the first packet of a message, messages that are passed in MSN order,
a read that is answered, and what puts the QP in the error state. -/

namespace Sys2Proof.Machine

/-! ### MP_NAK (R339) -/

/-- A QP in the error state does not fail again. -/
theorem qpFail_err {i cause status psn : Nat} {q : Qp} {s : State} (hq : qpAt i s = some q) (herr : q.state = .err) :
    qpFail i cause status psn s = s := by simp only [qpFail, hq, herr, if_true]

/-- An MP_NAK goes out, and the QP is in the error state. -/
theorem mpNak_fails {i msn syndrome cause : Nat} {q : Qp} {s : State} (hq : qpAt i s = some q) :
    let t := mpNak i msn syndrome cause s
    .mpPacket i (le 1 0xC5 ++ be 3 msn ++ le 1 syndrome ++ zeros 4) ∈ t.out ∧ qpState i t = some .err ∧ t.ti = s.ti ∧ t.reg = s.reg := by
  let sent : State := countQp i 2 1 (emit (.mpPacket i (le 1 0xC5 ++ be 3 msn ++ le 1 syndrome ++ zeros 4)) s)
  have hsent : qpAt i sent = some { q with counters := mmodD 0 2 (· + 1) q.counters } := by simp [sent, hq]
  refine ⟨(qpFail_keeps (Keeps.refl sent)).out.subset (List.mem_cons_self ..), ?_⟩
  by_cases herr : q.state = .err
  · have hsame : mpNak i msn syndrome cause s = sent := qpFail_err hsent herr
    rw [hsame]
    exact ⟨by simp [qpState, hsent, herr], rfl, rfl⟩
  · have hfails := qpFail_fails cause syndrome msn hsent herr
    exact ⟨hfails.state, hfails.ti, hfails.reg⟩

/-! ### The first packet of a message (R329 to R331) -/

theorem multipath_runs {q : Qp} (htransport : q.attr.transport = 1) (hstate : q.state = .rtr ∨ q.state = .rts) :
    ¬ (q.attr.transport ≠ 1 ∨ (q.state ≠ .rtr ∧ q.state ≠ .rts)) := by
  rcases hstate with hs | hs <;> simp [htransport, hs]

/-- The context of a write message at its first packet. -/
def firstCtx (h : Mpeth) (k : KeyHit) (s : State) : MpCtx :=
  { msn := h.msn, msgLen := h.msgLen, va := h.va, rkey := h.rkey, region := k.region, off := k.off
    imm := if h.immFlag then some h.immediate else none, first := s.tb.beat, key := k.index }

/-- The state with a context of a QP opened. -/
def withCtx (i : Nat) (c : MpCtx) (s : State) : State :=
  modQp i (fun q => { q with mp := q.mp ++ [c], mpStarted := q.mpStarted + c.msgLen }) s

theorem mpWritePacket_opens {h : Mpeth} {payload : Bytes} {q : Qp} {k : KeyHit} {s : State} (hq : qpAt h.qp s = some q)
    (htransport : q.attr.transport = 1) (hstate : q.state = .rtr ∨ q.state = .rts) (hmp : q.mp = [])
    (hnext : (h.msn + psnMod - q.cumMsn) % psnMod = 1) (hvalid : mpInvalid q h (some payload.length) = false)
    (hcredit : q.mpStarted + h.msgLen ≤ q.mpLimit) (hkey : keyCheck q h.rkey [1, 4] h.va h.msgLen true s = some k)
    (hhere : plainHere k.region s = true) (hroom : mpContexts s < 4096) :
    mpWritePacket h payload s = mpPlace h.qp (firstCtx h k s) h payload q.attr.port (withCtx h.qp (firstCtx h k s) s) := by
  simp only [mpWritePacket, hq, multipath_runs htransport hstate, hnext, hvalid, hmp, List.find?_nil, Nat.not_lt.mpr hcredit, hkey, spanRoute_plainHere _ _ hhere,
    Nat.not_le.mpr hroom]
  rfl

/-- Fill the lines of a packet in the unit of its piece, where it has one. -/
def fillPiece (i msn k : Nat) (new : List LineWrite) (s : State) : State :=
  match mpUnit i msn k s with
  | some u => fillUnit u (replaceLines new u.lines) s
  | none => s

theorem fillPiece_onlyPu (i msn k : Nat) (new : List LineWrite) (s : State) : OnlyPu s (fillPiece i msn k new s) := by
  unfold fillPiece
  split <;> exact ⟨rfl⟩

/-- The newest unit keeps its source and its phase, when no other unit has its number. -/
theorem fillPiece_newest {i msn k : Nat} {new : List LineWrite} {v : WUnit} {s : State} (hlast : s.pu.units.getLast? = some v)
    (honly : ∀ w ∈ s.pu.units, w.id = v.id → w = v) :
    ((fillPiece i msn k new s).pu.units.getLast?.map fun u => (u.src, u.phase)) = some (v.src, v.phase) := by
  unfold fillPiece
  split
  next u hu =>
    have hmem : u ∈ s.pu.units := List.mem_of_find?_eq_some hu
    by_cases hid : v.id = u.id
    · have hsame := honly u hmem hid.symm
      simp [fillUnit, putUnit, hlast, hid, hsame]
    · simp [fillUnit, putUnit, hlast, hid]
  next => simp [hlast]

theorem mpAdmit_first {i : Nat} {c : MpCtx} {s : State} (hnew : c.admitted = 0) (hone : c.msgLen ≤ 2 ^ 20)
    (hhere : plainHere c.region s = true)
    (hadmits : admitsLast (submitEmpty (.multipath i c.msn 0) c.region c.off c.msgLen s) = true) :
    ∃ t u, mpAdmit i c 0 s = some t ∧ (submitEmpty (.multipath i c.msn 0) c.region c.off c.msgLen s).pu.units.getLast? = some u ∧
      u.src = .multipath i c.msn 0 ∧ Admits u .reserved (submitEmpty (.multipath i c.msn 0) c.region c.off c.msgLen s) t := by
  have hrange : (List.range 1).filter (fun j => decide (c.admitted ≤ j)) = [0] := by simp [hnew]
  simp only [mpAdmit, Nat.zero_add, hrange, List.foldlM_cons, List.foldlM_nil, Nat.zero_mul, Nat.add_zero, Nat.sub_zero,
    Nat.min_eq_right hone, route_plainHere _ hhere]
  have halone : mirrorsNow c.region (submitEmpty (.multipath i c.msn 0) c.region c.off c.msgLen s) = false := mirrorsNow_plainHere hhere
  obtain ⟨u, hlast, hsrc, hcls, hregion⟩ : ∃ u : WUnit,
      (submitEmpty (.multipath i c.msn 0) c.region c.off c.msgLen s).pu.units.getLast? = some u ∧
      u.src = .multipath i c.msn 0 ∧ u.cls = .general ∧ u.region = c.region := ⟨_, getLast_submitUnit .., rfl, rfl, rfl⟩
  generalize submitEmpty (.multipath i c.msn 0) c.region c.off c.msgLen s = reserving at *
  obtain ⟨hadmit, hslots, hvolatile⟩ := (admitsLast_iff hlast).mp hadmits
  exact ⟨admitUnit u false reserving, u, by simp [hlast, hadmit, hvolatile], hlast, hsrc,
    admitUnit_unmirrored false hcls (hregion ▸ halone) hslots⟩

/-- A context with its first packet placed. -/
def withFirst (c : MpCtx) (lines : List LineWrite) : MpCtx := { c with admitted := max c.admitted 1, placed := [0], lines := lines }

/-- The first packet is placed, and the piece waits for the others. -/
theorem mpPlace_first {i : Nat} {c : MpCtx} {h : Mpeth} {payload : Bytes} {port : Nat} {s t : State} (hnew : c.placed = [])
    (hfirst : h.pktOffset = 0) (hlong : 4096 < c.msgLen) (hadmit : mpAdmit i c 0 s = some t) :
    ∃ lines, mpPlace i c h payload port s = modQp i (fun q => { q with mpAckDue := true })
      (modCtx i c.msn (fun _ => withFirst c lines)
        (fillPiece i c.msn 0 (mpLines c.off h payload) t)) := by
  have hpackets : 1 ∈ piecePackets c 0 := by simp [piecePackets]; omega
  simp only [mpPlace, hfirst, hnew, Nat.zero_div, List.contains_nil, Bool.false_eq_true, if_false, hadmit]
  refine ⟨_, if_neg fun hall => ?_⟩
  have hsecond := List.all_eq_true.mp hall 1 hpackets
  simp [setInsert] at hsecond

/-- The unit that was admitted is the newest one, and it alone has its number. -/
theorem Admits.newest_only {u : WUnit} {phase : UPhase} {s t : State} (h : Admits u phase s t) (hlast : s.pu.units.getLast? = some u) :
    ∃ v, t.pu.units.getLast? = some v ∧ v.src = u.src ∧ v.phase = phase ∧ ∀ w ∈ t.pu.units, w.id = v.id → w = v := by
  obtain ⟨v, hunits, hid, hsrc, -, hphase⟩ := h.units
  refine ⟨v, by simp [hunits, hlast], hsrc, hphase, fun w hw hwid => ?_⟩
  rw [hunits] at hw
  obtain ⟨x, -, rfl⟩ := List.mem_map.mp hw
  by_cases hx : x.id = u.id
  · exact if_pos hx
  · rw [if_neg hx, hid] at hwid
    exact absurd hwid hx

/-- The only context of a QP changes. -/
theorem qpAt_modCtx_only {i : Nat} {c : MpCtx} {q : Qp} {s : State} (hq : qpAt i s = some q) (hmp : q.mp = [c]) (f : MpCtx → MpCtx) :
    qpAt i (modCtx i c.msn f s) = some { q with mp := [f c] } := by simp [modCtx, hq, hmp]

theorem modCtx_onlyQps (i msn : Nat) (f : MpCtx → MpCtx) (s : State) : OnlyQps s (modCtx i msn f s) := modQp_onlyQps ..

/-- What the first packet of a message leaves. -/
structure PlacesFirst (i msn : Nat) (imm : Option Nat) (s t : State) : Prop where
  placed : ((qpAt i t).map fun x => x.mp.map fun c => (c.msn, c.placed)) = some [(msn, [0])]
  admitted : ((qpAt i t).map fun x => x.mp.map fun c => (c.admitted, c.imm)) = some [(1, imm)]
  unit : (t.pu.units.getLast?.map fun u => (u.src, u.phase)) = some (.multipath i msn 0, .reserved)
  out : t.out = s.out
  ti : t.ti = s.ti
  reg : t.reg = s.reg

theorem mpWritePacket_first {h : Mpeth} {payload : Bytes} {q : Qp} {k : KeyHit} {s : State} (hq : qpAt h.qp s = some q)
    (htransport : q.attr.transport = 1) (hstate : q.state = .rtr ∨ q.state = .rts) (hmp : q.mp = [])
    (hnext : (h.msn + psnMod - q.cumMsn) % psnMod = 1) (hvalid : mpInvalid q h (some payload.length) = false)
    (hcredit : q.mpStarted + h.msgLen ≤ q.mpLimit) (hfirst : h.pktOffset = 0) (hlong : 4096 < h.msgLen) (hone : h.msgLen ≤ 2 ^ 20)
    (hkey : keyCheck q h.rkey [1, 4] h.va h.msgLen true s = some k) (hhere : plainHere k.region s = true) (hroom : mpContexts s < 4096)
    (hadmits : admitsLast (submitEmpty (.multipath h.qp h.msn 0) k.region k.off h.msgLen s) = true) :
    PlacesFirst h.qp h.msn (if h.immFlag then some h.immediate else none) s (mpWritePacket h payload s) := by
  obtain ⟨t, u, hadmit, hlast, hsrc, ht⟩ :=
    mpAdmit_first (i := h.qp) (c := firstCtx h k s) (s := withCtx h.qp (firstCtx h k s) s) rfl hone hhere hadmits
  obtain ⟨lines, hplace⟩ := mpPlace_first (payload := payload) (port := q.attr.port) rfl hfirst hlong hadmit
  rw [mpWritePacket_opens hq htransport hstate hmp hnext hvalid hcredit hkey hhere hroom, hplace]
  obtain ⟨v, hnewest, hvsrc, hphase, honly⟩ := ht.newest_only hlast
  have hunit := fillPiece_newest (i := h.qp) (msn := h.msn) (k := 0) (new := mpLines k.off h payload) hnewest honly
  rw [hvsrc, hphase, hsrc] at hunit
  have hsubmitted : OnlyPu (withCtx h.qp (firstCtx h k s) s)
      (submitEmpty (.multipath h.qp h.msn 0) k.region k.off h.msgLen (withCtx h.qp (firstCtx h k s) s)) := ⟨rfl⟩
  have hrest := (hsubmitted.trans ht.toOnlyPu).trans (fillPiece_onlyPu h.qp h.msn 0 (mpLines k.off h payload) t)
  have hopened : qpAt h.qp (fillPiece h.qp h.msn 0 (mpLines k.off h payload) t) =
      some { q with mp := [firstCtx h k s], mpStarted := q.mpStarted + h.msgLen } := by
    rw [qpAt, hrest.net, ← qpAt, withCtx, qpAt_modQp, hq, Option.map_some, hmp]
    rfl
  have hplaced : qpAt h.qp (modQp h.qp (fun q => { q with mpAckDue := true }) (modCtx h.qp h.msn (fun _ => withFirst (firstCtx h k s) lines)
      (fillPiece h.qp h.msn 0 (mpLines k.off h payload) t))) =
      some { q with mp := [withFirst (firstCtx h k s) lines], mpStarted := q.mpStarted + h.msgLen, mpAckDue := true } :=
    (qpAt_modQp ..).trans (congrArg (Option.map _) (qpAt_modCtx_only (c := firstCtx h k s) hopened rfl _))
  have hpu := (modCtx_onlyQps h.qp h.msn (fun _ => withFirst (firstCtx h k s) lines)
    (fillPiece h.qp h.msn 0 (mpLines k.off h payload) t)).trans (modQp_onlyQps h.qp (fun q => { q with mpAckDue := true }) _)
  exact ⟨congrArg (Option.map _) hplaced, congrArg (Option.map _) hplaced, hpu.pu ▸ hunit, hpu.out.trans hrest.out,
    hpu.ti.trans hrest.ti, hpu.reg.trans hrest.reg⟩

/-! ### Messages that are passed (R332, R333, R338) -/

theorem length_joinLines (rd : Nat → Line) (off len : Nat) : (joinLines rd off len).length = len := by
  have hlines : ((List.range (spanLines off len)).flatMap fun i => lineBytes (rd (off / 64 + i))).length = 64 * spanLines off len := by
    simp [List.length_flatMap, lineBytes, le]
    omega
  rw [joinLines, slice, List.length_take, List.length_drop, hlines, spanLines]
  split <;> omega

theorem length_readBytes (r off len : Nat) (s : State) : (readBytes r off len s).length = len := length_joinLines ..

theorem chunksOf_one {n : Nat} {b : Bytes} (hpos : 0 < b.length) (hshort : b.length ≤ n) : chunksOf n b = [b] := by
  have hcount : (b.length + n - 1) / n = 1 := Nat.div_eq_of_lt_le (by omega) (by omega)
  simp [chunksOf, hcount, slice, List.take_of_length_le hshort]

theorem spanRoute_modQp (r off len i : Nat) (f : Qp → Qp) (s : State) : spanRoute r off len (modQp i f s) = spanRoute r off len s := rfl

theorem poisonedLines_modQp (r off len i : Nat) (f : Qp → Qp) (s : State) :
    poisonedLines r off len (modQp i f s) = poisonedLines r off len s := rfl

/-- A short read without poison is one packet (R338). -/
theorem mpRespond_one {i : Nat} {q : Qp} {msn len va rkey first : Nat} {data : Bytes} {s : State} (hpos : 0 < data.length)
    (hshort : data.length ≤ 4096) : ∃ o, mpRespond i q msn len va rkey first data [] s = emit o s := by
  simp only [mpRespond, List.isEmpty_nil, if_true, chunksOf_one hpos hshort]
  exact ⟨_, rfl⟩

/-- The context of a read at its request (R338). -/
def readCtx (h : Mpeth) (k : KeyHit) (s : State) : MpCtx :=
  { msn := h.msn, msgLen := h.msgLen, va := h.va, rkey := h.rkey, imm := none, region := k.region, off := k.off
    first := s.tb.beat, isRead := true, key := k.index }

/-- An MP_ACK: one packet, and the QP has none due. -/
structure MpAcks (i : Nat) (q : Qp) (s t : State) : Prop where
  qp : qpAt i t = some { q with mpAckDue := false }
  out : t.out.length = s.out.length + 1
  pu : t.pu = s.pu
  ti : t.ti = s.ti
  reg : t.reg = s.reg

theorem mpAck_acks {i : Nat} {q : Qp} {s : State} (hq : qpAt i s = some q) : MpAcks i q s (mpAck i s) := by
  simp only [mpAck, hq]
  exact ⟨by simp [hq], rfl, rfl, rfl, rfl⟩

theorem passReads_none {i n : Nat} {q : Qp} {s : State} (hq : qpAt i s = some q) (hmp : q.mp = []) : passReads i n s = s := by
  cases n with
  | zero => rfl
  | succ n => simp [passReads, hq, hmp]

/-- A read that is answered and next in MSN order is passed. -/
theorem passReads_next {i n : Nat} {q : Qp} {c : MpCtx} {s : State} (hq : qpAt i s = some q) (hmp : q.mp = [c])
    (hnext : c.msn = (q.cumMsn + 1) % psnMod) (hread : c.isRead = true) (hdone : c.done = true) :
    MpAcks i { q with cumMsn := c.msn, mp := [] } s (passReads i (n + 1) s) := by
  have hpassed : qpAt i (modQp i (fun q => { q with cumMsn := c.msn, mp := q.mp.filter fun x => x.msn != c.msn }) s) =
      some { q with cumMsn := c.msn, mp := [] } := by simp [hq, hmp]
  obtain ⟨hqp, hout, hpu, hti, hreg⟩ := mpAck_acks hpassed
  have hrun : passReads i (n + 1) s =
      mpAck i (modQp i (fun q => { q with cumMsn := c.msn, mp := q.mp.filter fun x => x.msn != c.msn }) s) := by
    rw [← passReads_none (n := n) hqp rfl]
    simp [passReads, hq, hmp, hnext, hread, hdone]
  rw [hrun]
  exact ⟨hqp, hout, hpu, hti, hreg⟩

theorem mpReadDone_passes {i : Nat} {q : Qp} {c : MpCtx} {s : State} (hq : qpAt i s = some q) (hmp : q.mp = [c])
    (hnext : c.msn = (q.cumMsn + 1) % psnMod) (hread : c.isRead = true) :
    MpAcks i { q with cumMsn := c.msn, mp := [] } s (mpReadDone i c.msn s) := by
  have hdone := qpAt_modCtx_only hq hmp fun c => { c with done := true }
  have hmark := modCtx_onlyQps i c.msn (fun c => { c with done := true }) s
  obtain ⟨hqp, hout, hpu, hti, hreg⟩ := passReads_next (n := 1) hdone rfl hnext hread rfl
  simp only [mpReadDone, hq, hmp, List.length_singleton]
  exact ⟨hqp, hmark.out ▸ hout, hpu.trans hmark.pu, hti.trans hmark.ti, hreg.trans hmark.reg⟩

/-- The state with a read of a QP opened (R338). -/
def withRead (h : Mpeth) (k : KeyHit) (s : State) : State := modQp h.qp (fun q => { q with mp := q.mp ++ [readCtx h k s] }) s

theorem exec_mpReadReq_here {h : Mpeth} {q : Qp} {k : KeyHit} {s : State} (hq : qpAt h.qp s = some q)
    (htransport : q.attr.transport = 1) (hstate : q.state = .rtr ∨ q.state = .rts) (hmp : q.mp = [])
    (hnext : h.msn = (q.cumMsn + 1) % psnMod) (hcum : q.cumMsn < psnMod) (hvalid : mpInvalid q h none = false)
    (hfirst : h.pktOffset = 0) (hall : h.pktCount = 0) (hkey : keyCheck q h.rkey [0, 4] h.va h.msgLen false s = some k)
    (hhere : plainHere k.region s = true) (hgood : poisonedLines k.region k.off h.msgLen s = []) :
    exec (.mpReadReq h) s = .next (mpReadDone h.qp h.msn (mpRespond h.qp q h.msn h.msgLen h.va h.rkey 0
      (readBytes k.region k.off h.msgLen (withRead h k s)) [] (wantRange k.region k.off h.msgLen (withRead h k s)))) := by
  have hahead : (h.msn + psnMod - q.cumMsn) % psnMod = 1 := by
    simp only [psnMod] at *
    omega
  change execMpReadReq h s = _
  simp only [execMpReadReq, hq, multipath_runs htransport hstate, hahead, hvalid, hkey, hall, hfirst, hmp, Nat.add_zero, Nat.sub_zero]
  simp [spanRoute_modQp, spanRoute_plainHere _ _ hhere, route_modQp, route_plainHere _ hhere, readHere, poisonedLines_modQp, hgood]
  rfl

theorem raiseCredit_onlyQps (i : Nat) (s : State) : OnlyQps s (raiseCredit i s) := by
  unfold raiseCredit
  split
  · exact ⟨rfl, rfl, rfl, rfl⟩
  · dsimp only
    split <;> exact ⟨rfl, rfl, rfl, rfl⟩

theorem qpAt_raiseCredit {i : Nat} {q : Qp} {s : State} (hq : qpAt i s = some q) :
    ∃ limit due, qpAt i (raiseCredit i s) = some { q with mpLimit := limit, mpAckDue := due } := by
  simp only [raiseCredit, hq]
  split
  · exact ⟨_, _, (qpAt_modQp ..).trans (congrArg (Option.map _) hq)⟩
  · exact ⟨_, _, hq⟩

/-- Settles O30: a first packet is `mpWritePacket_first`, an MP_NAK `mpNak_fails`, and a message that is passed sends an MP_ACK
(`mpAck_acks`, `mpReadDone_passes`). -/
theorem multipathPlacement : Obligations.MultipathPlacement := by
  unfold Obligations.MultipathPlacement
  refine ⟨fun h payload q k s hq ⟨htransport, hstate, hmp⟩ hnext hvalid hcredit ⟨hfirst, hlong, hone, himm⟩ hkey hhere hroom
      hadmits => ?write,
    fun h payload q k s hq ⟨htransport, hstate, hmp⟩ hnext hvalid hcredit ⟨hfirst, hlong, hone⟩ hkey hhere hroom
      hadmits => ?writeImm,
    fun h payload q s hq ⟨htransport, hstate⟩ hnext hinvalid => ?invalid,
    fun qp msn q c s hq hmp ⟨hmsn, hwrite, hcomplete, himm⟩ hnext => ?messageComplete,
    fun h q k s hq ⟨htransport, hstate, hmp⟩ ⟨hnext, hcum⟩ hvalid ⟨hfirst, hall, hshort⟩ hkey hhere hgood => ?read,
    fun qp msn q c s hq hc hlate => ?timeout⟩
  case write =>
    have hplaces := mpWritePacket_first hq htransport hstate hmp hnext hvalid hcredit hfirst hlong hone hkey hhere hroom hadmits
    have himmediate : (if h.immFlag then some h.immediate else none) = none := by simp [himm]
    rw [himmediate] at hplaces
    exact ⟨_, rfl, hplaces.placed, hplaces.admitted, hplaces.unit, hplaces.out, hplaces.ti, hplaces.reg⟩
  case writeImm =>
    have hvalid' : mpInvalid q { h with immFlag := true } (some payload.length) = false := by simpa [mpInvalid, hmp] using hvalid
    have hplaces := mpWritePacket_first (h := { h with immFlag := true }) hq htransport hstate hmp hnext hvalid' hcredit hfirst hlong hone
      hkey hhere hroom hadmits
    exact ⟨_, rfl, hplaces.placed, hplaces.admitted, hplaces.unit, hplaces.out, hplaces.ti, hplaces.reg⟩
  case invalid =>
    have hexec : exec (.mpWrite h payload) s = .next (mpNak h.qp h.msn 0x01 3 s) := by
      change Host.Outcome.next (mpWritePacket h payload s) = _
      simp only [mpWritePacket, hq, multipath_runs htransport hstate, hnext, hinvalid]
      rfl
    obtain ⟨hnak, hfailed, hti, hreg⟩ := mpNak_fails (msn := h.msn) (syndrome := 0x01) (cause := 3) hq
    exact ⟨_, hexec, hfailed, hnak, hti, hreg⟩
  case messageComplete =>
    let passed : State := countQp qp 7 1 (modQp qp (fun q => { q with
      cumMsn := msn, mp := q.mp.filter fun x => x.msn != msn, mpDone := q.mpDone + c.msgLen }) s)
    have hpassed : qpAt qp passed = some { q with
        cumMsn := msn, mp := [], mpDone := q.mpDone + c.msgLen, counters := mmodD 0 7 (· + 1) q.counters } := by
      simp [passed, hq, hmp, hmsn]
    have hexec : exec (.mpMessageComplete qp msn) s = .next (passReads qp 1 (mpAck qp (raiseCredit qp passed))) := by
      change execMpMessageComplete qp msn s = _
      simp [execMpMessageComplete, hq, hmp, hmsn, hwrite, hcomplete, himm, ← hnext, passed]
    obtain ⟨limit, due, hcredit⟩ := qpAt_raiseCredit hpassed
    have hsame : OnlyQps s (raiseCredit qp passed) :=
      ((modQp_onlyQps ..).trans (modQp_onlyQps ..)).trans (raiseCredit_onlyQps qp passed)
    obtain ⟨hqp, hout, hpu, hti, hreg⟩ := mpAck_acks hcredit
    rw [passReads_none hqp rfl] at hexec
    exact ⟨_, hexec, by simp [hqp], hsame.out ▸ hout, hti.trans hsame.ti, hpu.trans hsame.pu, hreg.trans hsame.reg⟩
  case read =>
    have hpos : 0 < h.msgLen := by
      simp [mpInvalid] at hvalid
      omega
    have hexec := exec_mpReadReq_here hq htransport hstate hmp hnext hcum hvalid hfirst hall hkey hhere hgood
    have hwant := wantRange_onlyTiers k.region k.off h.msgLen (withRead h k s)
    obtain ⟨o, hrespond⟩ := mpRespond_one (i := h.qp) (q := q) (msn := h.msn) (len := h.msgLen) (va := h.va) (rkey := h.rkey) (first := 0)
      (data := readBytes k.region k.off h.msgLen (withRead h k s)) (s := wantRange k.region k.off h.msgLen (withRead h k s))
      (by rwa [length_readBytes]) (by rwa [length_readBytes])
    have hopened : qpAt h.qp (emit o (wantRange k.region k.off h.msgLen (withRead h k s))) = some { q with mp := [readCtx h k s] } := by
      rw [qpAt_emit, qpAt, hwant.net, ← qpAt, withRead, qpAt_modQp, hq, Option.map_some, hmp]
      rfl
    obtain ⟨hqp, hout, hpu, -, hreg⟩ := mpReadDone_passes hopened rfl hnext rfl
    rw [hrespond] at hexec
    refine ⟨_, hexec, congrArg (Option.map _) hqp, hout.trans ?_, hpu.trans hwant.pu, hreg.trans hwant.reg⟩
    exact congrArg (fun l : List Output => l.length + 1 + 1) hwant.out
  case timeout =>
    have hexec : exec (.mpReassemblyTimeout qp msn) s = .next (mpNak qp msn 0x04 4 s) := by
      change execMpReassemblyTimeout qp msn s = _
      simp only [execMpReassemblyTimeout, hq, hc, hlate, if_true]
    obtain ⟨hnak, hfailed, hti, hreg⟩ := mpNak_fails (msn := msn) (syndrome := 0x04) (cause := 4) hq
    exact ⟨_, hexec, hfailed, hnak, hti, hreg⟩

end Sys2Proof.Machine
end

section
/-! PROOFS. Doorbells, the admin queue, the fetch of commands and the in-flight limit (09_command_queues R350 to R352, R354, R355, R365): each row
changes the queue engine, or records an event. -/

namespace Sys2Proof.Machine

/-! ### Doorbells (R350, R352, R355) -/

/-- The entries that CQ_HEAD passes when it moves to a value. -/
def cqPassed (value : Nat) (q : QueuePair) : Nat := (value + q.cqDepth - q.cqHead) % q.cqDepth

theorem exec_sqTailDoorbell_moves {head qid : Nat} {value : Word} {q : QueuePair} {s : State} (hq : queueOf qid s = some q)
    (hword : value.toNat < 65536) (hreaches : doorbellReaches head q = true) (hdepth : value.toNat < q.depth)
    (hroom : (q.sqTail + q.depth - q.sqHead) % q.depth + (value.toNat + q.depth - q.sqTail) % q.depth < q.depth) :
    exec (.sqTailDoorbell head qid value) s = .next (modQ qid (fun q => { q with sqTail := value.toNat }) s) := by
  change Host.Outcome.next (sqTail head qid value s) = _
  simp [sqTail, Nat.mod_eq_of_lt hword, Nat.not_le.mpr hword, hq, hreaches, hdepth, hroom]

theorem exec_sqTailDoorbell_unknown {head qid : Nat} {value : Word} {s : State} (hq : queueOf qid s = none)
    (hword : value.toNat < 65536) : exec (.sqTailDoorbell head qid value) s = .next (ignoreDoorbell qid 0 head value.toNat s) := by
  change Host.Outcome.next (sqTail head qid value s) = _
  simp [sqTail, Nat.mod_eq_of_lt hword, Nat.not_le.mpr hword, hq]

theorem exec_cqHeadDoorbell_moves {head qid : Nat} {value : Word} {q : QueuePair} {s : State} (hq : queueOf qid s = some q)
    (hword : value.toNat < 65536) (hreaches : doorbellReaches head q = true) (hdepth : value.toNat < q.cqDepth)
    (hwritten : cqPassed value.toNat q ≤ q.unread) :
    exec (.cqHeadDoorbell head qid value) s =
      .next (modQ qid (fun p => { p with cqHead := value.toNat, unread := p.unread - cqPassed value.toNat q }) s) := by
  rw [cqPassed] at hwritten
  change Host.Outcome.next (cqHead head qid value s) = _
  simp [cqHead, Nat.mod_eq_of_lt hword, Nat.not_le.mpr hword, hq, hreaches, hdepth, hwritten, cqPassed]

/-- An event that is limited in its window is recorded when its key has no report yet (R352). -/
theorem newestEvent_raiseLimited_first {code key : Nat} {sev : Severity} (data : Nat → Bytes) {s : State}
    (hnew : findReport code key s.ev.reports = none) (hroom : eventRoom s = true) :
    newestEvent (raiseLimited code key sev data s) = some (code, sev) := by
  rw [raiseLimited, hnew]
  exact newestEvent_raise _ _ _ (by exact hroom)

theorem OnlyLogs.gqp {s t : State} (h : OnlyLogs s t) : t.gqp = s.gqp := (congrArg State.gqp h.rest :)

/-! ### The admin queue (R354) -/

/-- EN is set through a head, and queue 0 stands with the sizes of its registers. -/
def adminEnabled (head : Nat) (s : State) : State :=
  modGqp (fun g => { g with
    aq := { g.aq with en := true, owner := head, enBeat := s.tb.beat }, pairs := mput 0 (adminQueue head g.aq) g.pairs }) s

theorem exec_aqEnable_idle (head : Nat) {s : State} (hidle : s.gqp.aq.en = false) (hnone : queueOf 0 s = none) :
    exec (.aqEnable head) s = .next (adminEnabled head s) := by
  have hnew : mhas 0 s.gqp.pairs = false := congrArg Option.isSome hnone
  change Host.Outcome.next (aqEnable head s) = _
  simp [aqEnable, hidle, modGqp, hnew, adminEnabled]

theorem exec_aqDisable_owner {head : Nat} {s : State} (howner : s.gqp.aq.owner = head) :
    exec (.aqDisable head) s = .next (modGqp (fun g => { g with aq := { g.aq with en := false, fatal := false } }) s) := by
  change Host.Outcome.next (aqDisable head s) = _
  simp [aqDisable, howner]

theorem exec_aqReady_enabled {s : State} (hen : s.gqp.aq.en = true) :
    exec .aqReady s = .next (modGqp (fun g => { g with aq := { g.aq with rdy := true } }) s) := if_pos hen

theorem exec_aqReady_stopped {q : QueuePair} {s : State} (hstopped : s.gqp.aq.en = false) (hq : queueOf 0 s = some q)
    (hnone : q.cmds = []) :
    exec .aqReady s = .next (modGqp (fun g => { g with aq := { g.aq with rdy := false }, pairs := mdel 0 g.pairs }) s) := by
  change execAqReady s = _
  simp [execAqReady, hstopped, hq, hnone]

/-! ### The fetch, and the limit of commands in flight (R351, R365) -/

/-- A command as it is fetched from a ring in host memory. -/
def fetchedCmd (entry list : Bytes) (s : State) : GqpCmd :=
  { cid := fld 2 2 (padTo 64 entry), entry := padTo 64 entry, list := list, ackMark := s.pu.nextAck }

theorem exec_commandFetch_memory {qid : Nat} (entry list : Bytes) {q : QueuePair} {s : State} (hq : queueOf qid s = some q)
    (hfetch : canFetch qid q s = true) (hmemory : q.transport = 0) :
    exec (.commandFetch qid entry list) s = .next (modQ qid (fun p => { p with
      cmds := p.cmds ++ [fetchedCmd entry list s], ring := p.ring.drop 1
      sqHead := if p.transport = 0 then (p.sqHead + 1) % p.depth else p.sqHead }) s) := by
  change execCommandFetch qid entry list s = _
  simp [execCommandFetch, hq, hfetch, hmemory, fetchedCmd, eCid]

theorem exec_inFlightLimitHeld_due {s : State} (hheld : 1024 ≤ s.gqp.limitBeats) (hnew : s.gqp.limitReported = false) :
    exec .inFlightLimitHeld s =
      .next (raise 0x0805 .warning (le 4 (inFlightTotal s)) (modGqp (fun g => { g with limitReported := true }) s)) := by
  change execInFlightLimitHeld s = _
  simp [execInFlightLimitHeld, hheld, hnew]

/-! ### The obligation -/

/-- Settles O20: each row is its `exec_` lemma, and a queue pair that a row changes is found by `queueOf_modQ_self`. -/
theorem doorbellsFetchAndTheAdminQueue : Obligations.DoorbellsFetchAndTheAdminQueue := by
  unfold Obligations.DoorbellsFetchAndTheAdminQueue
  refine ⟨fun head qid value q s hq hword hreaches hdepth hroom => ?tail, fun head qid value s hq hword hnew hroom => ?unknown,
    fun head qid value q s hq hword hreaches hdepth hwritten => ?cqHead, fun head s hidle hnone => ?enable,
    fun head s _ howner => ?disable, fun s hen => ?ready, fun q s hstopped hq hnone => ?gone,
    fun qid entry list q s hq hfetch hmemory _ => ?fetch, fun s hheld hnew hroom => ?limit⟩
  case tail =>
    exact ⟨_, exec_sqTailDoorbell_moves hq hword hreaches hdepth hroom, by rw [queueOf_modQ_self, hq]; rfl, rfl, rfl, rfl, rfl⟩
  case unknown =>
    have hlogs := raiseLimited_onlyLogs 0x0802 qid .warning (fun _ => le 2 qid ++ le 1 0 ++ le 1 head ++ le 4 value.toNat) s
    exact ⟨_, exec_sqTailDoorbell_unknown hq hword, newestEvent_raiseLimited_first _ hnew hroom, hlogs.gqp, hlogs.ti, hlogs.pu,
      hlogs.reg⟩
  case cqHead =>
    exact ⟨_, exec_cqHeadDoorbell_moves hq hword hreaches hdepth hwritten, by rw [queueOf_modQ_self, hq]; rfl, rfl, rfl, rfl, rfl⟩
  case enable =>
    exact ⟨_, exec_aqEnable_idle head hidle hnone, rfl, rfl, rfl, mget_mput_self .., rfl, rfl, rfl, rfl⟩
  case disable => exact ⟨_, exec_aqDisable_owner howner, rfl, rfl, rfl, rfl, rfl, rfl⟩
  case ready => exact ⟨_, exec_aqReady_enabled hen, rfl, hen, rfl, rfl, rfl⟩
  case gone => exact ⟨_, exec_aqReady_stopped hstopped hq hnone, rfl, mget_mdel_self .., rfl, rfl⟩
  case fetch =>
    refine ⟨_, exec_commandFetch_memory entry list hq hfetch hmemory, ?_, rfl, rfl, rfl, rfl⟩
    simp [queueOf_modQ_self, hq, hmemory, fetchedCmd]
  case limit => exact ⟨_, exec_inFlightLimitHeld_due hheld hnew, newestEvent_raise _ _ _ (by exact hroom), rfl, rfl, rfl⟩

end Sys2Proof.Machine
end

section
/-! PROOFS. A command in its queue pair, and the completion of a queue pair's only command (09_command_queues R349, R350): what a change of the
command leaves to be found, and what the completion writes. -/

namespace Sys2Proof.Machine

/-! ### A command in its queue pair -/

section
variable {qid cid : Nat} {q : QueuePair} {c : GqpCmd} {f : GqpCmd → GqpCmd} {s : State}

theorem withCmd_runs {ok : Bytes → Bool} {body : QueuePair → GqpCmd → State → State} (hq : queueOf qid s = some q)
    (hc : findCmd false cid q = some c) (hok : ok c.entry = true) : withCmd qid cid ok body s = body q c s := by
  simp [withCmd, hq, hc, hok]

theorem findCmd_found {running : Bool} (hc : findCmd running cid q = some c) : c.cid = cid ∧ c.started = true ∧ c.running = running := by
  have h := List.find?_some hc
  simp only [Bool.and_eq_true, beq_iff_eq] at h
  exact ⟨h.1.1, h.1.2, h.2⟩

theorem findCmd_only {running : Bool} (hcmds : q.cmds = [c]) (hs : c.started = true) (hr : c.running = running) :
    findCmd running c.cid q = some c := by simp [findCmd, hcmds, hs, hr]

/-- A change that leaves a command running is found in the command that runs. -/
theorem runningCmd_modCmd (hf : ∀ c, (f c).cid = c.cid ∧ (f c).started = c.started ∧ (f c).running = c.running) :
    runningCmd qid cid (modCmd qid cid f s) = (runningCmd qid cid s).map f := by
  have hsame (c : GqpCmd) : (fun c : GqpCmd => c.cid == cid && c.started && c.running == true)
      (if c.cid == cid && c.started then f c else c) = (c.cid == cid && c.started && c.running == true) := by
    obtain ⟨hcid, hstarted, hrunning⟩ := hf c
    split
    · simp only [hcid, hstarted, hrunning]
    · rfl
  rw [runningCmd, runningCmd, modCmd, queueOf_modQ_self]
  cases queueOf qid s with
  | none => rfl
  | some q =>
    change List.find? _ (q.cmds.map _) = (findCmd true cid q).map f
    rw [List.find?_map, Function.comp_def, funext hsame]
    change (findCmd true cid q).map _ = _
    cases hc : findCmd true cid q with
    | none => rfl
    | some c =>
      obtain ⟨hcid, hstarted, -⟩ := findCmd_found hc
      simp [hcid, hstarted]

/-- A change that sets a started command running leaves one that runs. -/
theorem runningCmd_set (hf : ∀ c, (f c).cid = c.cid ∧ (f c).started = c.started ∧ (f c).running = true) (hq : queueOf qid s = some q)
    (hc : findCmd false cid q = some c) : ∃ x, runningCmd qid cid (modCmd qid cid f s) = some (f x) := by
  obtain ⟨hcid, hstarted, -⟩ := findCmd_found hc
  obtain ⟨y, hy⟩ : ∃ y, runningCmd qid cid (modCmd qid cid f s) = some y := by
    rw [← Option.isSome_iff_exists, runningCmd, modCmd, queueOf_modQ_self, hq]
    simp only [Option.map_some, Option.bind_some, findCmd, List.find?_isSome, List.mem_map]
    exact ⟨_, ⟨c, List.mem_of_find?_eq_some hc, rfl⟩, by simp [hcid, hstarted, hf]⟩
  have hfound : findCmd true cid { q with cmds := q.cmds.map fun c => if c.cid == cid && c.started then f c else c } = some y := by
    rwa [runningCmd, modCmd, queueOf_modQ_self, hq] at hy
  obtain ⟨hycid, hystarted, -⟩ := findCmd_found hfound
  obtain ⟨x, -, rfl⟩ := List.mem_map.mp (List.mem_of_find?_eq_some hfound)
  refine ⟨x, hy.trans ?_⟩
  split_ifs at hycid hystarted ⊢ with hx
  · rfl
  · simp [hycid, hystarted] at hx

/-- The only command of a queue pair, changed. -/
theorem queueOf_modCmd_only (f : GqpCmd → GqpCmd) (hq : queueOf qid s = some { q with cmds := [c] }) (hs : c.started = true) :
    queueOf qid (modCmd qid c.cid f s) = some { q with cmds := [f c] } := by
  rw [modCmd, queueOf_modQ_self, hq]
  simp [hs]

theorem runningCmd_only (hq : queueOf qid s = some { q with cmds := [c] }) (hs : c.started = true) (hr : c.running = true) :
    runningCmd qid c.cid s = some c := by
  rw [runningCmd, hq]
  exact findCmd_only rfl hs hr

end

/-! ### The completion of the only command (R349, R350) -/

theorem cmds_signalCount (qid : Nat) (s : State) : (queueOf qid (signalCount qid s)).map (·.cmds) = (queueOf qid s).map (·.cmds) := by
  unfold signalCount
  split
  · rfl
  · split
    · change (queueOf qid (modQ qid _ s)).map _ = _
      rw [queueOf_modQ_self, Option.map_map]
      rfl
    · rfl

theorem cmds_writeEntry (qid : Nat) (o : Bytes → Output) (e : Bytes) (s : State) :
    (queueOf qid (writeEntry qid o e s)).map (·.cmds) = (queueOf qid s).map (·.cmds) := by
  refine (cmds_signalCount ..).trans ?_
  rw [queueOf_modQ_self, Option.map_map]
  rfl

/-- The state without a command that completes, its completion counted. -/
def cmdGone (qid cid status : Nat) (s : State) : State :=
  modGqp (fun g => { g with transfers := g.transfers.filter fun t => !(t.2.qid == qid && t.2.cid == cid) })
    (modQ qid (fun q => { q with
      cmds := dropCmd cid q.cmds
      completed := q.completed + 1
      failed := if status = 0 then q.failed else q.failed + 1
      aborted := if status = 3 then q.aborted + 1 else q.aborted }) s)

theorem cmdGone_out (qid cid status : Nat) (s : State) : (cmdGone qid cid status s).out = s.out := rfl

theorem queueOf_cmdGone (qid cid status : Nat) (s : State) :
    (queueOf qid (cmdGone qid cid status s)).map (fun q => (q.cmds, q.deleting)) =
      (queueOf qid s).map fun q => (dropCmd cid q.cmds, q.deleting) := by
  change (queueOf qid (modQ qid _ s)).map _ = _
  rw [queueOf_modQ_self, Option.map_map]
  rfl

theorem complete_writes {qid : Nat} {q : QueuePair} {s : State} (cid status : Nat) (result : Bytes) (hq : queueOf qid s = some q)
    (ht : q.transport = 0) (hd : q.deleting = none) :
    complete qid cid status result s =
      writeEntry qid (.completion qid cid status) (completionEntry qid cid status false result q s) (cmdGone qid cid status s) := by
  have hreaches : reachesHost q = true := by simp [reachesHost, hd]
  have hends : complete qid cid status result s = finishDelete qid
      (writeEntry qid (.completion qid cid status) (completionEntry qid cid status false result q s) (cmdGone qid cid status s)) := by
    simp only [complete, hq, hreaches, ht, Bool.not_true, Bool.false_eq_true, if_false, if_true, cmdGone]
  rw [hends]
  refine finishDelete_of_not_deleting fun p hp => ?_
  obtain ⟨r, hr, hdel⟩ := writeEntry_queue hp
  have hgone := queueOf_cmdGone qid cid status s
  rw [hr, hq] at hgone
  exact hdel.trans ((congrArg Prod.snd (Option.some.inj hgone)).trans hd)

theorem complete_out {qid : Nat} {q : QueuePair} {s : State} (cid status : Nat) (result : Bytes) (hq : queueOf qid s = some q)
    (ht : q.transport = 0) (hd : q.deleting = none) : s.out <:+ (complete qid cid status result s).out := by
  have hsent := writeEntry_out qid (.completion qid cid status) (completionEntry qid cid status false result q s) (cmdGone qid cid status s)
  rw [complete_writes cid status result hq ht hd]
  rwa [cmdGone_out] at hsent

theorem complete_only {qid : Nat} {q : QueuePair} {c : GqpCmd} {s : State} (status : Nat) (result : Bytes)
    (hq : queueOf qid s = some { q with cmds := [c] }) (hs : c.started = true) (ht : q.transport = 0) (hd : q.deleting = none) :
    (queueOf qid (complete qid c.cid status result s)).map (·.cmds) = some [] := by
  rw [complete_writes c.cid status result hq ht hd, cmds_writeEntry]
  have hgone := congrArg (Option.map Prod.fst) (queueOf_cmdGone qid c.cid status s)
  rw [Option.map_map, Option.map_map, hq] at hgone
  refine hgone.trans ?_
  simp [dropCmd, hs]

end Sys2Proof.Machine
end

section
/-! PROOFS. The memory commands of the queue engine (09_command_queues R366 to R375, 03_persistence R73): a short range is one piece here, and a
command completes, submits its piece, or waits for its drain. That a read resolves in one step, that the host's data stand in the row's operand,
and that the partner is told of a drain and answers it are the model's choices (assumption logs 15, 29, 40). -/

namespace Sys2Proof.Machine

/-! ### A range that is served here (01_architecture R25, 03_persistence R73) -/

/-- A region that this controller serves: neither settee nor mirrored, its seat here. -/
def ServedHere (r : Nat) (s : State) : Prop :=
  ∃ d, regionOf r s = some d ∧ d.settee = false ∧ d.mirrored = false ∧ d.seat = s.ident.controllerId

section
variable {r : Nat} {s t : State}

theorem ServedHere.congr (h : ServedHere r s) (hreg : t.reg = s.reg) (hident : t.ident = s.ident) : ServedHere r t := by
  rw [ServedHere, regionOf, hreg, hident]
  exact h

theorem ServedHere.route (h : ServedHere r s) (off : Nat) : route r off s = .here := by
  obtain ⟨d, hd, hsettee, hmirrored, hseat⟩ := h
  simp [Machine.route, hd, hsettee, hmirrored, servesHere, hseat]

theorem ServedHere.pieceList (h : ServedHere r s) (base off : Nat) {len : Nat} (hpos : 0 < len) (hshort : len < 2 ^ 20) :
    pieceList base r off len s = [{ index := base, off := 0, len := len }] := by
  obtain ⟨d, hd, hsettee, -, -⟩ := h
  simp [Machine.pieceList, hd, hsettee, pieces_one hpos hshort]

theorem ServedHere.rangeRoute (h : ServedHere r s) (off len : Nat) : rangeRoute r off len s = .here := by
  simp [Machine.rangeRoute, h.route]

end

/-- A range that passes its region's check holds a byte (R348). -/
theorem pos_of_regionStatus {dom r off len : Nat} {wr : Bool} {s : State} (h : regionStatus dom r off len wr s = none) : 0 < len := by
  unfold regionStatus at h
  split at h
  · cases h
  · split_ifs at h
    all_goals next hinside => exact Nat.pos_of_ne_zero (not_or.mp hinside).1

/-! ### Fields of a command (R346, R369) -/

theorem region_lt_of_headerOk {q : QueuePair} {c : GqpCmd} (h : headerOk q c = true) : eRegion c.entry < 4096 := by
  simp only [headerOk, Bool.and_eq_true, decide_eq_true_eq] at h
  exact h.1.1.1.2

theorem cspecZero_mono {e : Bytes} (used : List (Nat × Nat)) (h : cspecZero [] e = true) : cspecZero used e = true := by
  simp only [cspecZero, List.any_nil, Bool.false_or, List.all_eq_true] at h
  simp only [cspecZero, List.all_eq_true]
  intro i hi
  rw [h i hi, Bool.or_true]

theorem leVal_zero {b : Bytes} (h : ∀ x ∈ b, x = 0) : leVal b = 0 := by
  induction b with
  | nil => rfl
  | cons x b ih =>
    obtain ⟨hx, hb⟩ := List.forall_mem_cons.mp h
    simp [leVal, hx, ih hb]

/-- Without a command-specific field there is no second address. -/
theorem eArg_of_cspecZero {e : Bytes} (h : cspecZero [] e = true) : eArg e = 0 := by
  refine leVal_zero fun x hx => ?_
  obtain ⟨i, hi, rfl⟩ := List.mem_iff_getElem.mp hx
  simp only [cspecZero, List.any_nil, Bool.false_or, List.all_eq_true, List.mem_range, beq_iff_eq] at h
  have hlen : i < 8 ∧ 32 + i < e.length := by simp [slice] at hi; omega
  have hzero := h i (by omega)
  rw [List.getD_eq_getElem _ _ hlen.2] at hzero
  simpa [slice] using hzero

/-! ### A command on one piece, and a change of the tiers -/

/-- The only piece of a command on a short range. -/
def onlyPiece (len : Nat) : Piece := { index := 0, off := 0, len := len }

/-- A command that runs with one piece. -/
def runsOne (len : Nat) (c : GqpCmd) : GqpCmd := { c with running := true, pieces := [onlyPiece len] }

/-- A Read whose piece has been read. -/
def hasRead (len : Nat) (data : Bytes) (c : GqpCmd) : GqpCmd := takePiece 0 data [] (runsOne len c)

theorem OnlyTiers.gqp {s t : State} (h : OnlyTiers s t) : t.gqp = s.gqp := (congrArg State.gqp h.rest :)
theorem OnlyTiers.tb {s t : State} (h : OnlyTiers s t) : t.tb = s.tb := (congrArg State.tb h.rest :)
theorem OnlyTiers.ident {s t : State} (h : OnlyTiers s t) : t.ident = s.ident := (congrArg State.ident h.rest :)

theorem OnlyTiers.queueOf {s t : State} (h : OnlyTiers s t) (qid : Nat) : queueOf qid t = queueOf qid s :=
  congrArg (fun g : Gqp => mget qid g.pairs) h.gqp

theorem OnlyTiers.runningCmd {s t : State} (h : OnlyTiers s t) (qid cid : Nat) : runningCmd qid cid t = runningCmd qid cid s := by
  rw [Machine.runningCmd, h.queueOf, Machine.runningCmd]

/-! ### A command on a region that is served here -/

/-- A started command of a memory queue pair with a plain data pointer, on a region that this controller serves. -/
structure MemCommand (qid : Nat) (q : QueuePair) (c : GqpCmd) (s : State) : Prop where
  queue : queueOf qid s = some q
  found : findCmd false c.cid q = some c
  memory : q.transport = 0
  header : headerOk q c = true
  kind : ePtrKind c.entry = 0
  here : ServedHere (eRegion c.entry) s

section
variable {qid : Nat} {q : QueuePair} {c : GqpCmd} {s : State}

theorem MemCommand.dataFits (h : MemCommand qid q c s) (n : Nat) : dataFits c n = true := by simp [Machine.dataFits, h.kind]

theorem hostBytes_plain (hkind : ePtrKind c.entry = 0) (data : Bytes) : hostBytes c data data.length = data := by
  simp [hostBytes, hkind, padTo, zeros]

/-! ### Read (R372) -/

/-- The state with the only piece of a Read read. -/
def readTaken (qid cid r off len : Nat) (s : State) : State :=
  modCmd qid cid (takePiece 0 (readBytes r off len s) []) (wantRange r off len (runCmd qid cid [onlyPiece len] s))

theorem gatherOperand_here {r off len : Nat} (hhere : ServedHere r s) (hgood : poisonedLines r off len s = []) :
    gatherOperand qid c r off [onlyPiece len] (runCmd qid c.cid [onlyPiece len] s) = readTaken qid c.cid r off len s := by
  have hroute := ServedHere.route (s := runCmd qid c.cid [onlyPiece len] s) hhere off
  have hclean : poisonedLines r off len (runCmd qid c.cid [onlyPiece len] s) = [] := hgood
  simp only [gatherOperand, List.foldl_cons, List.foldl_nil, onlyPiece, Nat.add_zero] at hroute hclean ⊢
  simp only [hroute, readHere, hclean]
  rfl

theorem MemCommand.exec_read (h : MemCommand qid q c s) (hop : eOpcode c.entry = 0x01) (hcdw5 : eCdw5 c.entry = 0)
    (hspec : cspecZero [] c.entry = true)
    (hpass : regionStatus q.domain (eRegion c.entry) (eOffset c.entry) (eLength c.entry) false s = none)
    (hshort : eLength c.entry ≤ 4096) (hgood : poisonedLines (eRegion c.entry) (eOffset c.entry) (eLength c.entry) s = []) :
    exec (.read qid c.cid {}) s =
      .next (afterGather qid c.cid (readTaken qid c.cid (eRegion c.entry) (eOffset c.entry) (eLength c.entry) s)) := by
  have hpiece := h.here.pieceList 0 (eOffset c.entry) (pos_of_regionStatus hpass) (by omega)
  have hgather := gatherOperand_here (qid := qid) (c := c) h.here hgood
  rw [onlyPiece] at hgather
  change Host.Outcome.next (withCmd ..) = _
  rw [withCmd_runs h.queue h.found (by simp [hop])]
  simp only [h.header, h.kind, hcdw5, cspecZero_mono _ hspec, h.memory, hpass, h.dataFits, h.here.rangeRoute, hpiece, hgather]
  rfl

/-- A Read whose bytes are all good sends them and completes with Success. -/
theorem afterGather_hasRead {len : Nat} {data : Bytes} (hq : queueOf qid s = some { q with cmds := [hasRead len data c] })
    (hs : c.started = true) (hstatus : c.status = 0) (hsrc : c.src = []) (hbad : c.bad = []) (hop : eOpcode c.entry = 0x01)
    (ht : q.transport = 0) (hkind : ePtrKind c.entry = 0) (harg : eArg c.entry = 0) :
    afterGather qid c.cid s = complete qid c.cid 0 [] (emit (.hostData qid c.cid (eDptr c.entry) data) s) := by
  have hrun : runningCmd qid c.cid s = some (hasRead len data c) := runningCmd_only (c := hasRead len data c) hq hs rfl
  have hsrc' : (hasRead len data c).src = [(0, data)] := congrArg (mput 0 data) hsrc
  have hdata := (joined_of_one (k := secondBase) (by decide) hsrc').1
  have hgood : (hasRead len data c).bad = [] := by simp [hasRead, takePiece, setPiece, runsOne, hbad, badMark, secondBase]
  have hentry : (hasRead len data c).entry = c.entry := rfl
  have hcid : (hasRead len data c).cid = c.cid := rfl
  have hended : (hasRead len data c).status = 0 := hstatus
  have hsettled : settled (hasRead len data c) = true := rfl
  simp [afterGather, hq, hrun, hsettled, hended, hentry, hcid, hop, finishRead, hgood, sendOut, ht, hkind, harg, hdata]

/-- The only command of a queue pair, once its piece has been read. -/
theorem queueOf_readTaken {r off len : Nat} (hq : queueOf qid s = some { q with cmds := [c] }) (hs : c.started = true) :
    queueOf qid (readTaken qid c.cid r off len s) = some { q with cmds := [hasRead len (readBytes r off len s) c] } := by
  have hruns := queueOf_modCmd_only (runsOne len) hq hs
  have hwant := wantRange_onlyTiers r off len (runCmd qid c.cid [onlyPiece len] s)
  exact queueOf_modCmd_only (c := runsOne len c) _ ((hwant.queueOf qid).trans hruns) hs

theorem completionEntry_congr {qid cid status : Nat} {isNotice : Bool} {result : Bytes} {q : QueuePair} {s t : State} (l : List GqpCmd)
    (htb : t.tb = s.tb) :
    completionEntry qid cid status isNotice result { q with cmds := l } t = completionEntry qid cid status isNotice result q s := by
  rw [completionEntry, completionEntry, htb]

/-- A Read has sent its bytes and completed with Success, and its queue pair holds no command. -/
structure ReadEnds (qid : Nat) (q : QueuePair) (c : GqpCmd) (data : Bytes) (s t : State) : Prop where
  data : .hostData qid c.cid (eDptr c.entry) data ∈ t.out
  sent : .completion qid c.cid 0 (completionEntry qid c.cid 0 false [] q s) ∈ t.out
  cmds : (queueOf qid t).map (·.cmds) = some []
  reg : t.reg = s.reg

/-- The completion of a Read whose piece was read in a state of the same beat and regions. -/
theorem readEnds_complete {len : Nat} {data : Bytes} {t : State} (hq : queueOf qid t = some { q with cmds := [hasRead len data c] })
    (hs : c.started = true) (ht : q.transport = 0) (hd : q.deleting = none) (htb : t.tb = s.tb) (hreg : t.reg = s.reg) :
    ReadEnds qid q c data s (complete qid c.cid 0 [] (emit (.hostData qid c.cid (eDptr c.entry) data) t)) := by
  have hsent : queueOf qid (emit (.hostData qid c.cid (eDptr c.entry) data) t) = some { q with cmds := [hasRead len data c] } := hq
  have hdone := complete_completes c.cid 0 [] hsent ht hd
  have hbeat : (emit (.hostData qid c.cid (eDptr c.entry) data) t).tb = s.tb := htb
  have hentry := hdone.sent
  rw [completionEntry_congr _ hbeat] at hentry
  exact ⟨(complete_out c.cid 0 [] hsent ht hd).subset (List.mem_cons_self ..), hentry,
    complete_only (c := hasRead len data c) 0 [] hsent hs ht hd, hdone.reg.trans hreg⟩

/-! ### A unit that is submitted for a command (R367, R370, R371) -/

/-- A running command has submitted a write unit, the newest in arrival order, and the regions are as they were. -/
structure Submits (qid cid : Nat) (u : WUnit) (s t : State) : Prop where
  running : (runningCmd qid cid t).isSome = true
  units : t.pu.units = s.pu.units ++ [{ u with id := s.pu.nextUnit }]
  reg : t.reg = s.reg

theorem runningCmd_submitUnit (qid cid : Nat) (u : WUnit) (s : State) : runningCmd qid cid (submitUnit u s) = runningCmd qid cid s := rfl

theorem submitUnit_submits {cid : Nat} {t : State} (u : WUnit) (hrun : (runningCmd qid cid t).isSome = true) (hpu : t.pu = s.pu)
    (hreg : t.reg = s.reg) : Submits qid cid u s (submitUnit u t) where
  running := by rwa [runningCmd_submitUnit]
  units := by rw [← hpu]; rfl
  reg := hreg

theorem Submits.newest {cid : Nat} {u : WUnit} {t : State} (h : Submits qid cid u s t) :
    t.pu.units.getLast? = some { u with id := s.pu.nextUnit } := by rw [h.units, List.getLast?_concat]

theorem Submits.length {cid : Nat} {u : WUnit} {t : State} (h : Submits qid cid u s t) :
    t.pu.units.length = s.pu.units.length + 1 := by rw [h.units, List.length_append, List.length_singleton]

theorem submitWrite_submits {cid r off : Nat} {src : WSrc} {data : Bytes} {t : State} (hrun : (runningCmd qid cid t).isSome = true)
    (hpu : t.pu = s.pu) (htb : t.tb = s.tb) (hreg : t.reg = s.reg) :
    Submits qid cid (newUnit src .general r (cutLines off data) s) s (submitWrite src r off data [] t) := by
  have hunit : newUnit src .general r (cutLines off data) t = newUnit src .general r (cutLines off data) s := by
    rw [newUnit, newUnit, hpu, htb]
  rw [submitWrite, markPoison_nil, hunit]
  exact submitUnit_submits _ hrun hpu hreg

/-! ### Write (R367) -/

/-- The state with the only piece of a command staged. -/
def stagedOne (qid cid len : Nat) (s : State) : State := modCmd qid cid (setPiece 0 .staged) (runCmd qid cid [onlyPiece len] s)

theorem runningCmd_stagedOne (len : Nat) (hq : queueOf qid s = some q) (hc : findCmd false c.cid q = some c) :
    (runningCmd qid c.cid (stagedOne qid c.cid len s)).isSome = true := by
  rw [stagedOne, runningCmd_modCmd (f := setPiece 0 .staged) fun _ => ⟨rfl, rfl, rfl⟩, Option.isSome_map]
  exact runningCmd_runCmd hq hc

/-- The only piece of a Write that is served here joins the admission order. -/
theorem launchPieces_one {r off : Nat} (data : Bytes) (hhere : ServedHere r s) :
    launchPieces qid (runsOne data.length c) r off data (runCmd qid c.cid [onlyPiece data.length] s) =
      submitWrite (.gqp qid c.cid 0) r off data [] (stagedOne qid c.cid data.length s) := by
  have hroute := ServedHere.route (s := stagedOne qid c.cid data.length s) hhere off
  have hwhole : slice 0 data.length data = data := List.take_length
  rw [stagedOne] at hroute ⊢
  simp only [launchPieces, runsOne, List.foldl_cons, List.foldl_nil]
  simp [onlyPiece, hwhole] at hroute ⊢
  simp [hroute]

theorem MemCommand.exec_write (h : MemCommand qid q c s) {data : Bytes} (hop : eOpcode c.entry = 0x02) (hcdw5 : eCdw5 c.entry = 0)
    (hspec : cspecZero [] c.entry = true) (hinline : c.inline = [])
    (hpass : regionStatus q.domain (eRegion c.entry) (eOffset c.entry) (eLength c.entry) true s = none)
    (hshort : eLength c.entry ≤ 4096) (hlen : eLength c.entry = data.length) :
    exec (.write qid c.cid data) s =
      .next (submitWrite (.gqp qid c.cid 0) (eRegion c.entry) (eOffset c.entry) data [] (stagedOne qid c.cid data.length s)) := by
  have hpiece := h.here.pieceList 0 (eOffset c.entry) (pos_of_regionStatus hpass) (by omega)
  have hbytes := hostBytes_plain (c := runsOne data.length c) h.kind data
  have hlaunch := launchPieces_one (qid := qid) (c := c) (off := eOffset c.entry) data h.here
  have hroom : decide (c.inline.length ≤ 952) = true := by simp [hinline]
  rw [hlen] at hpass hpiece
  simp only [runsOne, onlyPiece] at hbytes hlaunch
  change Host.Outcome.next (withCmd ..) = _
  rw [withCmd_runs h.queue h.found (by simp [hop])]
  simp only [h.header, hcdw5, hspec, hroom, hlen, hpass, h.dataFits, h.here.rangeRoute, hpiece, h.memory, hbytes, hlaunch]
  rfl

/-! ### Write Zeroes (R370) -/

/-- One aligned chunk is one piece. -/
theorem zeroPieces_chunk {off : Nat} (haligned : off % 2 ^ 20 = 0) : zeroPieces off 65536 = [onlyPiece 65536] := by
  have hcuts : ((List.range 2).map fun k => (off / 2 ^ 20 + 1 + k) * 2 ^ 20 - off).filter (· < 65536) = [] := by
    simp [List.range_succ]
    omega
  simp only [zeroPieces, Nat.reduceDiv, Nat.reduceAdd, Nat.reducePow, onlyPiece] at hcuts ⊢
  simp [hcuts]

/-- The unit of one aligned chunk holds no line, and the chunk turns ZERO. -/
theorem zeroUnit_chunk {qid cid r off : Nat} {s : State} (haligned : off % 2 ^ 20 = 0) :
    (zeroUnit qid cid r off 65536 (onlyPiece 65536) s).lines = [] ∧
      (zeroUnit qid cid r off 65536 (onlyPiece 65536) s).zeroChunks = [off / 65536].filterMap fun k => lcnOf r (k * 65536) s := by
  have hfirst : (off + 65535) / 65536 = off / 65536 := by omega
  have hlast : (off + 65536) / 65536 = off / 65536 + 1 := by omega
  have hbefore : off / 65536 * 65536 - off = 0 := by omega
  have hafter : off + 65536 - (off / 65536 + 1) * 65536 = 0 := by omega
  simp [zeroUnit, wholeChunks, hfirst, hlast, hbefore, hafter, zeros, cutLines, spanLines, newUnit, List.filterMap_cons]

theorem MemCommand.exec_writeZeroes (h : MemCommand qid q c s) (hop : eOpcode c.entry = 0x03) (hcdw5 : eCdw5 c.entry = 0)
    (hspec : cspecZero [] c.entry = true)
    (hpass : regionStatus q.domain (eRegion c.entry) (eOffset c.entry) (eLength c.entry) true s = none)
    (haligned : eOffset c.entry % 2 ^ 20 = 0) (hlen : eLength c.entry = 65536) :
    exec (.writeZeroes qid c.cid) s =
      .next (submitUnit (zeroUnit qid c.cid (eRegion c.entry) (eOffset c.entry) 65536 (onlyPiece 65536) (stagedOne qid c.cid 65536 s))
        (stagedOne qid c.cid 65536 s)) := by
  have hroute := ServedHere.route (s := stagedOne qid c.cid 65536 s) h.here (eOffset c.entry)
  rw [hlen] at hpass
  change Host.Outcome.next (withCmd ..) = _
  rw [withCmd_runs h.queue h.found (by simp [hop])]
  simp only [h.header, h.kind, hcdw5, hspec, hlen, hpass, h.here.rangeRoute, zeroPieces_chunk haligned]
  simp only [List.foldl_cons, List.foldl_nil, onlyPiece, stagedOne, Nat.add_zero] at hroute ⊢
  simp [hroute]

/-! ### Copy (R371) -/

/-- A Copy on one short piece is cut nowhere. -/
theorem ServedHere.copyPieces {r : Nat} (hhere : ServedHere r s) (o1 o2 : Nat) {len : Nat} (hpos : 0 < len) (hshort : len < 2 ^ 20) :
    copyPieces r o1 r o2 len s = [onlyPiece len] := by
  simp [Machine.copyPieces, hhere.pieceList _ _ hpos hshort, setInsert, onlyPiece]

theorem copyWrite_good {len : Nat} {data : Bytes} (hhere : ServedHere (eRegion2 c.entry) s) :
    copyWrite qid c (onlyPiece len) data [] s =
      submitWrite (.gqp qid c.cid 0) (eRegion2 c.entry) (eArg c.entry) data [] (modCmd qid c.cid (setPiece 0 .staged) s) := by
  have hroute := ServedHere.route (s := modCmd qid c.cid (setPiece 0 .staged) s) hhere (eArg c.entry)
  have hpoison (src dst n : Nat) : movedPoison [] src dst n = [] := by simp [movedPoison]
  simp only [copyWrite, hpoison]
  exact if_neg (hroute.trans_ne (by decide))

/-- The state with the only piece of a Copy read. -/
def copyRead (qid cid r off len : Nat) (s : State) : State := wantRange r off len (runCmd qid cid [onlyPiece len] s)

/-- A Copy of good bytes submits its first piece. -/
theorem copyNext_first {len : Nat} (hrun : runningCmd qid c.cid (runCmd qid c.cid [onlyPiece len] s) = some (runsOne len c))
    (hhere : ServedHere (eRegion c.entry) s) (hsame : eRegion2 c.entry = eRegion c.entry)
    (hgood : poisonedLines (eRegion c.entry) (eOffset c.entry) len s = []) :
    copyNext qid c.cid (runCmd qid c.cid [onlyPiece len] s) =
      submitWrite (.gqp qid c.cid 0) (eRegion c.entry) (eArg c.entry) (readBytes (eRegion c.entry) (eOffset c.entry) len s) []
        (modCmd qid c.cid (setPiece 0 .staged) (copyRead qid c.cid (eRegion c.entry) (eOffset c.entry) len s)) := by
  have hroute := ServedHere.route (s := runCmd qid c.cid [onlyPiece len] s) hhere (eOffset c.entry)
  have hclean : poisonedLines (eRegion c.entry) (eOffset c.entry) len (runCmd qid c.cid [onlyPiece len] s) = [] := hgood
  have hwant := wantRange_onlyTiers (eRegion c.entry) (eOffset c.entry) len (runCmd qid c.cid [onlyPiece len] s)
  have hthere : ServedHere (eRegion2 c.entry) (copyRead qid c.cid (eRegion c.entry) (eOffset c.entry) len s) :=
    hsame.symm ▸ ServedHere.congr (s := s) hhere hwant.reg hwant.ident
  have hwrite := copyWrite_good (qid := qid) (c := runsOne len c) (len := len)
    (data := readBytes (eRegion c.entry) (eOffset c.entry) len s) hthere
  have hnext : copyNext qid c.cid (runCmd qid c.cid [onlyPiece len] s) =
      copyWrite qid (runsOne len c) (onlyPiece len) (readBytes (eRegion c.entry) (eOffset c.entry) len s) []
        (copyRead qid c.cid (eRegion c.entry) (eOffset c.entry) len s) := by
    simp only [onlyPiece] at hrun hroute hclean ⊢
    simp [copyNext, hrun, runsOne, onlyPiece, hroute, readHere, hclean, copyRead]
    rfl
  rw [hnext, hwrite]
  exact congrArg (fun r => submitWrite _ r _ _ _ _) hsame

theorem MemCommand.exec_copy (h : MemCommand qid q c s) (hop : eOpcode c.entry = 0x04) (hsame : eRegion2 c.entry = eRegion c.entry)
    (hcdw5 : eCdw5 c.entry < 4096) (hregion : eRegion c.entry ≠ 0) (hspec : cspecZero [(32, 40)] c.entry = true)
    (hsource : regionStatus q.domain (eRegion c.entry) (eOffset c.entry) (eLength c.entry) false s = none)
    (hdest : regionStatus q.domain (eRegion c.entry) (eArg c.entry) (eLength c.entry) true s = none)
    (hshort : eLength c.entry ≤ 4096) :
    exec (.copy qid c.cid) s = .next (copyNext qid c.cid (runCmd qid c.cid [onlyPiece (eLength c.entry)] s)) := by
  have hpiece := h.here.copyPieces (eOffset c.entry) (eArg c.entry) (pos_of_regionStatus hsource) (by omega)
  change Host.Outcome.next (withCmd ..) = _
  rw [withCmd_runs h.queue h.found (by simp [hop])]
  simp [h.header, h.kind, hcdw5, hregion, hspec, hsame, hsource, hdest, h.here.rangeRoute, hpiece]

end

/-! ### Drain To Cabinet (R375) -/

/-- A drain's command: it runs, and waits for its chunks and for the partner where it has a part. -/
def drains (chunks : List Nat) (busy : Nat) (peer : Bool) (c : GqpCmd) : GqpCmd :=
  { c with running := true, count := busy, waitChunks := chunks, waitsPeer := peer }

/-- The partner is told of its part of a drain. -/
def tellDrain (qid cid r off len : Nat) (peer : Bool) (s : State) : State :=
  if peer then forwardAccess (.drain qid cid) r off (fwdDrainBody 2 len) s else s

/-- Only what concerns the pair may have changed. -/
structure OnlyPair (s t : State) : Prop where
  rest : { t with pair := s.pair } = s

section
variable {s t : State}

theorem OnlyPair.gqp (h : OnlyPair s t) : t.gqp = s.gqp := (congrArg State.gqp h.rest :)
theorem OnlyPair.ti (h : OnlyPair s t) : t.ti = s.ti := (congrArg State.ti h.rest :)
theorem OnlyPair.pu (h : OnlyPair s t) : t.pu = s.pu := (congrArg State.pu h.rest :)
theorem OnlyPair.reg (h : OnlyPair s t) : t.reg = s.reg := (congrArg State.reg h.rest :)
theorem OnlyPair.ev (h : OnlyPair s t) : t.ev = s.ev := (congrArg State.ev h.rest :)
theorem OnlyPair.out (h : OnlyPair s t) : t.out = s.out := (congrArg State.out h.rest :)

theorem forwardAccess_onlyPair (o : FwdOrigin) (r off : Nat) (body : Bytes) (s : State) : OnlyPair s (forwardAccess o r off body s) := by
  unfold forwardAccess sendMsg
  dsimp only
  split <;> exact ⟨rfl⟩

theorem tellDrain_onlyPair (qid cid r off len : Nat) (peer : Bool) (s : State) : OnlyPair s (tellDrain qid cid r off len peer s) := by
  cases peer with
  | false => exact ⟨rfl⟩
  | true => exact forwardAccess_onlyPair ..

end

/-- The state after a drain has begun here and at the partner, its command not changed yet. -/
def drainTold (qid cid r off len : Nat) (s : State) : State :=
  tellDrain qid cid r off len (drainPeer r off len s) (drainFirst (drainBusy r (rangeChunks r off len s) s) s)

theorem exec_drainToCabinet_here {qid cid : Nat} {q : QueuePair} {c : GqpCmd} {s : State} (hq : queueOf qid s = some q)
    (hc : findCmd false cid q = some c) (hop : eOpcode c.entry = 0x07) (hheader : headerOk q c = true) (hkind : ePtrKind c.entry = 0)
    (hcdw5 : eCdw5 c.entry = 0) (hspec : cspecZero [] c.entry = true)
    (hpass : regionStatus q.domain (eRegion c.entry) (eOffset c.entry) (eLength c.entry) false s = none)
    (hroute : rangeRoute (eRegion c.entry) (eOffset c.entry) (eLength c.entry) s = .here) :
    ∃ chunks busy, exec (.drainToCabinet qid cid) s =
      .next (modCmd qid cid (drains chunks busy (drainPeer (eRegion c.entry) (eOffset c.entry) (eLength c.entry) s))
        (drainTold qid cid (eRegion c.entry) (eOffset c.entry) (eLength c.entry) s)) := by
  refine ⟨rangeChunks (eRegion c.entry) (eOffset c.entry) (eLength c.entry) s,
    (drainBusy (eRegion c.entry) (rangeChunks (eRegion c.entry) (eOffset c.entry) (eLength c.entry) s) s).length, ?_⟩
  change Host.Outcome.next (withCmd ..) = _
  rw [withCmd_runs hq hc (by simp [hop])]
  simp only [hheader, hkind, hcdw5, hspec, hpass, hroute]
  rfl

theorem mem_drainFirst {k : Nat} {busy : List Nat} {s : State} (hk : k ∈ busy) : k ∈ (drainFirst busy s).ti.wbHead := by
  by_cases hin : k ∈ s.ti.wbHead <;> simp [drainFirst, hin, hk]

/-- A chunk of the range that is on its way to the cabinet is busy. -/
theorem mem_drainBusy {r k : Nat} {l : List Nat} {s : State} (hk : k ∈ l) (hpending : chunkPending k s = true) :
    k ∈ drainBusy r l s := by simp [drainBusy, hk, hpending]

theorem exec_drainToCabinetComplete_done {qid cid : Nat} {c : GqpCmd} {s : State} (hrun : runningCmd qid cid s = some c)
    (hop : eOpcode c.entry = 0x07) (hpeer : c.waitsPeer = false) (hstatus : c.status = 0)
    (hlines : linesPending (eRegion c.entry) (eOffset c.entry) (eLength c.entry) c.ackMark s = false)
    (hchunks : (c.waitChunks.all fun k => !chunkPending k s) = true) :
    exec (.drainToCabinetComplete qid cid) s = .next (complete qid cid 0 (le 8 c.count) s) := by
  change execDrainToCabinetComplete qid cid s = _
  simp only [execDrainToCabinetComplete, hrun, hop, hpeer, drainDone, hlines, hchunks, hstatus]
  rfl

theorem exec_fwdResponse_drain {qid cid mtag : Nat} {data : Bytes} {s : State} (hfwd : mget mtag s.pair.fwd = some (.drain qid cid)) :
    exec (.fwdResponse mtag 0 [] data) s = .next (drainBack qid cid 0 data (modPair (fun p => { p with fwd := mdel mtag p.fwd }) s)) := by
  change execFwdResponse mtag 0 [] data s = _
  simp only [execFwdResponse, hfwd]
  rfl

/-- The partner's answer ends the wait for it. -/
theorem runningCmd_drainBack {qid cid : Nat} {c : GqpCmd} {s : State} (data : Bytes) (hrun : runningCmd qid cid s = some c) :
    (runningCmd qid cid (drainBack qid cid 0 data s)).map (·.waitsPeer) = some false := by
  unfold drainBack
  rw [runningCmd_modCmd, hrun]
  · rfl
  · exact fun _ => ⟨rfl, rfl, rfl⟩

/-! ### The obligation -/

/-- Settles O21: a command runs by its `exec_` lemma; a Read then completes (`afterGather_hasRead`, `complete_only`), a Write, Write Zeroes or Copy
has submitted its unit, and a drain waits until `complete_completes` ends it. -/
theorem memoryCommandsRun : Obligations.MemoryCommandsRun := by
  unfold Obligations.MemoryCommandsRun
  refine ⟨fun qid cid q c d s hq hcmds ⟨hcid, hstarted, hwaiting, hstatus, hsrc, hbad⟩ ⟨ht, hdeleting⟩ hop
      ⟨hheader, hkind, hcdw5, hspec⟩ hpass hd hserved hshort hgood => ?read,
    fun qid cid data q c d s hq hc ht hop ⟨hheader, hkind, hcdw5, hspec, hinline⟩ hpass hd hserved ⟨hshort, hdata⟩ => ?write,
    fun qid cid q c d s hq hc ht hop ⟨hheader, hkind, hcdw5, hspec⟩ hpass hd hserved ⟨haligned, hlen⟩ => ?zeroes,
    fun qid cid q c d s hq hcmds ⟨hcid, hstarted, hwaiting, _⟩ ht hop ⟨hheader, hkind, hcdw5, hregion, hspec⟩ hsource hdest hd hserved
      hshort hgood => ?copy,
    fun qid cid q c _ s hq hc hop ⟨hheader, hkind, hcdw5, hspec⟩ hpass hroute => ?drain,
    fun qid cid q c s hq hrun ⟨ht, hdeleting⟩ ⟨hop, hpeer, hstatus⟩ hlines hchunks => ?drained,
    fun qid cid mtag c data s hrun hfwd => ?answered⟩
  case read =>
    subst hcid
    have hone : queueOf qid s = some { q with cmds := [c] } := by rw [← hcmds]; exact hq
    have h : MemCommand qid q c s := ⟨hq, findCmd_only hcmds hstarted hwaiting, ht, hheader, hkind, d, hd, hserved⟩
    have htaken := queueOf_readTaken (r := eRegion c.entry) (off := eOffset c.entry) (len := eLength c.entry) hone hstarted
    have hwant := wantRange_onlyTiers (eRegion c.entry) (eOffset c.entry) (eLength c.entry)
      (runCmd qid c.cid [onlyPiece (eLength c.entry)] s)
    have hexec := h.exec_read hop hcdw5 hspec hpass hshort hgood
    rw [afterGather_hasRead htaken hstarted hstatus hsrc hbad hop ht hkind (eArg_of_cspecZero hspec)] at hexec
    have hends := readEnds_complete (s := s) htaken hstarted ht hdeleting hwant.tb hwant.reg
    exact ⟨_, hexec, hends.data, hends.sent, hends.cmds, hends.reg⟩
  case write =>
    obtain ⟨rfl, -, -⟩ := findCmd_found hc
    have h : MemCommand qid q c s := ⟨hq, hc, ht, hheader, hkind, d, hd, hserved⟩
    have hsubmits := submitWrite_submits (src := .gqp qid c.cid 0) (r := eRegion c.entry) (off := eOffset c.entry) (data := data)
      (runningCmd_stagedOne data.length hq hc) (s := s) rfl rfl rfl
    exact ⟨_, h.exec_write hop hcdw5 hspec hinline hpass hshort hdata.symm, hsubmits.running, hsubmits.units, hsubmits.reg, rfl, rfl⟩
  case zeroes =>
    obtain ⟨rfl, -, -⟩ := findCmd_found hc
    have h : MemCommand qid q c s := ⟨hq, hc, ht, hheader, hkind, d, hd, hserved⟩
    obtain ⟨hlines, hchunks⟩ := zeroUnit_chunk (qid := qid) (cid := c.cid) (r := eRegion c.entry)
      (s := stagedOne qid c.cid 65536 s) haligned
    have hsubmits := submitUnit_submits
      (zeroUnit qid c.cid (eRegion c.entry) (eOffset c.entry) 65536 (onlyPiece 65536) (stagedOne qid c.cid 65536 s))
      (runningCmd_stagedOne 65536 hq hc) (s := s) rfl rfl
    refine ⟨_, h.exec_writeZeroes hop hcdw5 hspec hpass haligned hlen, hsubmits.running, ?_, hsubmits.length, hsubmits.reg, rfl, rfl⟩
    rw [hsubmits.newest]
    exact congrArg some (Prod.ext rfl (Prod.ext hlines hchunks))
  case copy =>
    subst hcid
    have hone : queueOf qid s = some { q with cmds := [c] } := by rw [← hcmds]; exact hq
    have h : MemCommand qid q c s := ⟨hq, findCmd_only hcmds hstarted hwaiting, ht, hheader, hkind, d, hd, hserved⟩
    have hbound := region_lt_of_headerOk hheader
    have hsame : eRegion2 c.entry = eRegion c.entry := by rw [eRegion2, hcdw5, Nat.mod_eq_of_lt hbound]
    have hruns := queueOf_modCmd_only (runsOne (eLength c.entry)) hone hstarted
    have hrun : runningCmd qid c.cid (runCmd qid c.cid [onlyPiece (eLength c.entry)] s) = some (runsOne (eLength c.entry) c) :=
      runningCmd_only (c := runsOne (eLength c.entry) c) hruns hstarted rfl
    have hwant := wantRange_onlyTiers (eRegion c.entry) (eOffset c.entry) (eLength c.entry)
      (runCmd qid c.cid [onlyPiece (eLength c.entry)] s)
    have hexec := h.exec_copy hop hsame (hcdw5 ▸ hbound) hregion hspec hsource hdest hshort
    rw [copyNext_first hrun h.here hsame hgood] at hexec
    have hstaged : (runningCmd qid c.cid (modCmd qid c.cid (setPiece 0 .staged)
        (copyRead qid c.cid (eRegion c.entry) (eOffset c.entry) (eLength c.entry) s))).isSome = true := by
      rw [runningCmd_modCmd (f := setPiece 0 .staged) fun _ => ⟨rfl, rfl, rfl⟩, copyRead, hwant.runningCmd, hrun]
      rfl
    have hsubmits := submitWrite_submits (src := .gqp qid c.cid 0) (r := eRegion c.entry) (off := eArg c.entry)
      (data := readBytes (eRegion c.entry) (eOffset c.entry) (eLength c.entry) s) hstaged (s := s) hwant.pu hwant.tb hwant.reg
    refine ⟨_, hexec, hsubmits.running, ?_, hsubmits.length, hsubmits.reg⟩
    rw [hsubmits.newest]
    rfl
  case drain =>
    obtain ⟨chunks, busy, hexec⟩ := exec_drainToCabinet_here hq hc hop hheader hkind hcdw5 hspec hpass hroute
    have htold := tellDrain_onlyPair qid cid (eRegion c.entry) (eOffset c.entry) (eLength c.entry)
      (drainPeer (eRegion c.entry) (eOffset c.entry) (eLength c.entry) s)
      (drainFirst (drainBusy (eRegion c.entry) (rangeChunks (eRegion c.entry) (eOffset c.entry) (eLength c.entry) s) s) s)
    have hq' := (congrArg (fun g : Gqp => mget qid g.pairs) htold.gqp).trans hq
    obtain ⟨x, hx⟩ := runningCmd_set (f := drains chunks busy (drainPeer (eRegion c.entry) (eOffset c.entry) (eLength c.entry) s))
      (fun _ => ⟨rfl, rfl, rfl⟩) hq' hc
    refine ⟨_, hexec, congrArg (Option.map (·.waitsPeer)) hx, fun k hk hpending => ?_, htold.reg, htold.pu, htold.ev, htold.out⟩
    have hfirst := mem_drainFirst (s := s) (mem_drainBusy (r := eRegion c.entry) hk hpending)
    rwa [← htold.ti] at hfirst
  case drained =>
    have hdone := complete_completes cid 0 (le 8 c.count) hq ht hdeleting
    exact ⟨_, exec_drainToCabinetComplete_done hrun hop hpeer hstatus hlines hchunks, hdone.sent, hdone.reg, hdone.pu, hdone.ti⟩
  case answered =>
    exact ⟨_, exec_fwdResponse_drain hfwd, runningCmd_drainBack data hrun, mget_mdel_self .., rfl, rfl, rfl, rfl⟩

end Sys2Proof.Machine
end

section
/-! PROOFS. The control commands of capture and replay (10_capture_replay R414): a command of a queue pair whose fields are valid runs its
action, which waits for its boundary or completes; what changes is capture, and what the recorder tells. -/

namespace Sys2Proof.Machine

/-! ### What capture and replay alone tell -/

/-- Only capture and replay, and the event unit, differ. -/
structure OnlyCap (s t : State) : Prop where
  rest : { t with cap := s.cap, ev := s.ev } = s

section
variable {s t u : State}

theorem OnlyCap.refl (s : State) : OnlyCap s s := ⟨rfl⟩

theorem OnlyCap.trans (h : OnlyCap s t) (g : OnlyCap t u) : OnlyCap s u :=
  ⟨(congrArg (fun x : State => { x with cap := s.cap, ev := s.ev }) g.rest).trans h.rest⟩

theorem OnlyCap.tb (h : OnlyCap s t) : t.tb = s.tb := (congrArg State.tb h.rest :)
theorem OnlyCap.gqp (h : OnlyCap s t) : t.gqp = s.gqp := (congrArg State.gqp h.rest :)
theorem OnlyCap.reg (h : OnlyCap s t) : t.reg = s.reg := (congrArg State.reg h.rest :)
theorem OnlyCap.ti (h : OnlyCap s t) : t.ti = s.ti := (congrArg State.ti h.rest :)
theorem OnlyCap.pu (h : OnlyCap s t) : t.pu = s.pu := (congrArg State.pu h.rest :)

theorem OnlyCap.runningCmd (h : OnlyCap s t) (qid cid : Nat) : runningCmd qid cid t = runningCmd qid cid s :=
  congrArg (fun g : Gqp => (mget qid g.pairs).bind (findCmd true cid)) h.gqp

end

theorem modRing_onlyCap (p : Nat) (f : Ring → Ring) (s : State) : OnlyCap s (modRing p f s) := ⟨rfl⟩

theorem modChan_onlyCap (ch : Nat) (f : Channel → Channel) (s : State) : OnlyCap s (modChan ch f s) := ⟨rfl⟩

theorem enterRing_onlyCap (p st cause : Nat) (s : State) : OnlyCap s (enterRing p st cause s) := by
  unfold enterRing
  dsimp only
  split
  · exact .refl s
  · exact ⟨rfl⟩

theorem enterChannel_onlyCap (ch st cause : Nat) (s : State) : OnlyCap s (enterChannel ch st cause s) := by
  unfold enterChannel
  dsimp only
  split
  · exact .refl s
  · exact ⟨rfl⟩

/-! ### Rings and channels -/

@[simp] theorem ringOf_modRing_self (p : Nat) (f : Ring → Ring) (s : State) : ringOf p (modRing p f s) = f (ringOf p s) := by
  simp [ringOf, modRing, mmodD, mgetD, mget_mput_self]

@[simp] theorem channelOf_modChan_self (ch : Nat) (f : Channel → Channel) (s : State) :
    channelOf ch (modChan ch f s) = f (channelOf ch s) := by
  simp [channelOf, modChan, mmodD, mgetD, mget_mput_self]

theorem modRing_congr {p : Nat} {f g : Ring → Ring} {s : State} (h : f (ringOf p s) = g (ringOf p s)) :
    modRing p f s = modRing p g s := by
  rw [ringOf] at h
  simp only [modRing, modCap, mmodD, h]

theorem modChan_congr {ch : Nat} {f g : Channel → Channel} {s : State} (h : f (channelOf ch s) = g (channelOf ch s)) :
    modChan ch f s = modChan ch g s := by
  rw [channelOf] at h
  simp only [modChan, modCap, mmodD, h]

theorem ringOf_of_cap (p : Nat) {s t : State} (h : t.cap = s.cap) : ringOf p t = ringOf p s := by rw [ringOf, ringOf, h]

theorem channelOf_of_cap (ch : Nat) {s t : State} (h : t.cap = s.cap) : channelOf ch t = channelOf ch s := by
  rw [channelOf, channelOf, h]

/-- A ring that enters a state other than HALTED keeps everything but its state (R401). -/
@[simp] theorem ringOf_enterRing {st : Nat} (p cause : Nat) (s : State) (h : st ≠ 6) :
    ringOf p (enterRing p st cause s) = { ringOf p s with state := st } := by
  unfold enterRing
  dsimp only
  split
  next hsame => rw [← hsame]
  next => exact (ringOf_of_cap p (raise_cap ..)).trans (ringOf_modRing_self ..)

/-- A channel that enters a state keeps everything but its state (R413). -/
@[simp] theorem channelOf_enterChannel (ch st cause : Nat) (s : State) :
    channelOf ch (enterChannel ch st cause s) = { channelOf ch s with state := st } := by
  unfold enterChannel
  dsimp only
  split
  next hsame => rw [← hsame]
  next => exact (channelOf_of_cap ch (raise_cap ..)).trans (channelOf_modChan_self ..)

theorem ctlWait_cap (f : CtlFrom) (s : State) : (ctlWait f s).cap = s.cap := by cases f <;> rfl

theorem ctlWait_onlyCap (f : CtlFrom) {s t : State} (h : OnlyCap s t) : OnlyCap (ctlWait f s) (ctlWait f t) := by
  cases f with
  | gqp qid cid => exact ⟨congrArg (runCmd qid cid []) h.rest⟩
  | bcs path op => exact h
  | nobody => exact h

/-! ### A control command of a queue pair (R414) -/

/-- A started Capture Control (0x10) or Replay Control (0x11) command with an action code, alone on a memory queue pair that is not being
deleted, with a valid header and a plain data pointer. -/
structure CtlCommand (opcode code qid : Nat) (q : QueuePair) (c : GqpCmd) (s : State) : Prop where
  queue : queueOf qid s = some q
  cmds : q.cmds = [c]
  started : c.started = true
  waiting : c.running = false
  memory : q.transport = 0
  stays : q.deleting = none
  opcode : eOpcode c.entry = opcode
  code : actCode c.entry = code
  header : headerOk q c = true
  kind : ePtrKind c.entry = 0
  rsvd : zeroAt 22 2 c.entry = true

theorem ctlCommand_of {opcode code qid cid : Nat} {q : QueuePair} {c : GqpCmd} {s : State} (hq : queueOf qid s = some q)
    (hcmds : q.cmds = [c])
    (hstart : c.cid = cid ∧ c.started = true ∧ c.running = false ∧ c.status = 0 ∧ c.src = [] ∧ c.bad = [])
    (hmemory : q.transport = 0 ∧ q.deleting = none)
    (hentry : eOpcode c.entry = opcode ∧ actCode c.entry = code ∧ headerOk q c = true ∧ ePtrKind c.entry = 0 ∧ zeroAt 22 2 c.entry = true) :
    c.cid = cid ∧ CtlCommand opcode code qid q c s := by
  obtain ⟨hcid, hstarted, hwaiting, -, -, -⟩ := hstart
  obtain ⟨htransport, hstays⟩ := hmemory
  obtain ⟨hop, hcode, hheader, hkind, hrsvd⟩ := hentry
  exact ⟨hcid, hq, hcmds, hstarted, hwaiting, htransport, hstays, hop, hcode, hheader, hkind, hrsvd⟩

/-- The action that such a command carries. -/
abbrev actOf (qid : Nat) (q : QueuePair) (c : GqpCmd) (data : Bytes) : CtlAct := ⟨.gqp qid c.cid, q.domain, c.entry, data⟩

/-- The action has ended with Success: the completion has left, after the data out where there are some, and only the queue engine has
changed since `t`. -/
structure CtlEnds (qid : Nat) (q : QueuePair) (c : GqpCmd) (result out : Bytes) (s t u : State) : Prop where
  sent : .completion qid c.cid 0 (completionEntry qid c.cid 0 false result q s) ∈ u.out
  data : out ≠ [] → .hostData qid c.cid (eDptr c.entry) out ∈ u.out
  cap : u.cap = t.cap
  reg : u.reg = t.reg
  ti : u.ti = t.ti
  pu : u.pu = t.pu

theorem complete_cap {qid : Nat} {q : QueuePair} {s : State} (cid status : Nat) (result : Bytes) (hq : queueOf qid s = some q)
    (ht : q.transport = 0) (hd : q.deleting = none) : (complete qid cid status result s).cap = s.cap := by
  rw [complete_writes cid status result hq ht hd, writeEntry_cap]
  rfl

theorem ctlChecked_ok {a : CtlAct} {fields : List (Bool × Nat)} {body : State → State} {s : State} (h : ∀ f ∈ fields, f.1 = true) :
    ctlChecked a fields body s = body s := by simp [ctlChecked, firstBad_none h]

section
variable {opcode code qid : Nat} {q : QueuePair} {c : GqpCmd} {s t : State}

theorem CtlCommand.found (h : CtlCommand opcode code qid q c s) : findCmd false c.cid q = some c :=
  findCmd_only h.cmds h.started h.waiting

theorem CtlCommand.queue_after (h : CtlCommand opcode code qid q c s) (hgqp : t.gqp = s.gqp) : queueOf qid t = some q :=
  (congrArg (fun g : Gqp => mget qid g.pairs) hgqp).trans h.queue

theorem CtlCommand.runs (h : CtlCommand opcode code qid q c s) {data : Bytes} (hdata : data.length = actDataIn c.entry)
    (body : CtlAct → State → State) : runAct opcode code qid c.cid data body s = body (actOf qid q c data) s := by
  have hbytes : hostBytes c data (actDataIn c.entry) = data := hdata ▸ hostBytes_plain h.kind data
  rw [runAct, withCmd_runs h.queue h.found (by simp [h.opcode, h.code])]
  simp [h.header, h.kind, dataFits, hbytes]

/-- A command that takes no data from its host. -/
theorem CtlCommand.runs_plain (h : CtlCommand opcode code qid q c s) (hcode : code ≠ 1) (hrules : opcode = 0x10 → code ≠ 2)
    (body : CtlAct → State → State) : runAct opcode code qid c.cid [] body s = body (actOf qid q c []) s := by
  refine h.runs ?_ body
  have hnone : ¬ (opcode = 0x10 ∧ code = 2) := fun ⟨hop, htwo⟩ => hrules hop htwo
  simp [actDataIn, h.code, h.opcode, hcode, hnone]

/-- A command that waits for its boundary runs until then. -/
theorem CtlCommand.waits (h : CtlCommand opcode code qid q c s) (hgqp : t.gqp = s.gqp) :
    (runningCmd qid c.cid (ctlWait (.gqp qid c.cid) t)).isSome = true := runningCmd_runCmd (h.queue_after hgqp) h.found

/-- A command that has succeeded completes. -/
theorem CtlCommand.ends (h : CtlCommand opcode code qid q c s) (hgqp : t.gqp = s.gqp) (htb : t.tb = s.tb) (result out : Bytes) :
    CtlEnds qid q c result out s t (ctlDone (.gqp qid c.cid) result out t) := by
  have hfind : q.cmds.find? (fun x => x.cid == c.cid && x.started) = some c := by simp [h.cmds, h.started]
  have hdone : ctlDone (.gqp qid c.cid) result out t =
      complete qid c.cid 0 result (if out.isEmpty then t else emit (.hostData qid c.cid (eDptr c.entry) out) t) := by
    simp [ctlDone, h.queue_after hgqp, hfind, sendOut, h.memory, h.kind]
  have hend {u : State} (hu : queueOf qid u = some q) (hbeat : u.tb = s.tb) :
      .completion qid c.cid 0 (completionEntry qid c.cid 0 false result q s) ∈ (complete qid c.cid 0 result u).out := by
    have hsent := (complete_completes c.cid 0 result hu h.memory h.stays).sent
    rwa [completionEntry, hbeat, ← completionEntry] at hsent
  rw [hdone]
  split
  next hempty =>
    have hq := h.queue_after hgqp
    have hcompletes := complete_completes c.cid 0 result hq h.memory h.stays
    exact ⟨hend hq htb, fun hne => absurd (List.isEmpty_iff.mp hempty) hne, complete_cap _ _ _ hq h.memory h.stays, hcompletes.reg,
      hcompletes.ti, hcompletes.pu⟩
  next =>
    have hq : queueOf qid (emit (.hostData qid c.cid (eDptr c.entry) out) t) = some q := h.queue_after hgqp
    have hcompletes := complete_completes c.cid 0 result hq h.memory h.stays
    exact ⟨hend hq htb, fun _ => (complete_out c.cid 0 result hq h.memory h.stays).subset (List.mem_cons_self ..),
      complete_cap _ _ _ hq h.memory h.stays, hcompletes.reg, hcompletes.ti, hcompletes.pu⟩

end

end Sys2Proof.Machine
end

section
/-! PROOFS. Capture Control (10_capture_replay R386, R387, R393, R414, R415): what each action does to the ring of its port. -/

namespace Sys2Proof.Machine

/-! ### CONFIGURE (R387) -/

/-- A new ring in place of an old one: STATE, the rule sets and the sample of the last boundary stay. -/
def replaceRing (old new : Ring) : Ring :=
  { new with state := old.state, rules := old.rules, newRules := old.newRules, sample := old.sample }

/-- The state with a port's ring configured, STOPPED and empty, and its control block submitted. -/
def ringConfigured (p : Nat) (conf : RingConf) (s : State) : State :=
  writeControl p conf (enterRing p 1 0 (modRing p (fun _ => replaceRing (ringOf p s) { conf := some conf, state := 1 }) s))

theorem ringOf_writeControl (p : Nat) (conf : RingConf) (s : State) :
    ringOf p (writeControl p conf s) =
      { ringOf p s with written := ((ringOf p s).durable, (ringOf p s).tail, (ringOf p s).indexNext) } :=
  ringOf_modRing_self ..

theorem ringOf_ringConfigured (p : Nat) (conf : RingConf) (s : State) :
    ringOf p (ringConfigured p conf s) = { replaceRing (ringOf p s) { conf := some conf } with state := 1 } := by
  rw [ringConfigured, ringOf_writeControl, ringOf_enterRing _ _ _ (by decide), ringOf_modRing_self]
  rfl

theorem writeControl_leaves (p : Nat) (conf : RingConf) (s : State) :
    (writeControl p conf s).gqp = s.gqp ∧ (writeControl p conf s).tb = s.tb ∧ (writeControl p conf s).reg = s.reg := ⟨rfl, rfl, rfl⟩

theorem ringConfigured_leaves (p : Nat) (conf : RingConf) (s : State) :
    (ringConfigured p conf s).gqp = s.gqp ∧ (ringConfigured p conf s).tb = s.tb ∧ (ringConfigured p conf s).reg = s.reg := by
  have honly : OnlyCap s (enterRing p 1 0 (modRing p (fun _ => replaceRing (ringOf p s) { conf := some conf, state := 1 }) s)) :=
    (modRing_onlyCap ..).trans (enterRing_onlyCap ..)
  obtain ⟨hgqp, htb, hreg⟩ := writeControl_leaves p conf
    (enterRing p 1 0 (modRing p (fun _ => replaceRing (ringOf p s) { conf := some conf, state := 1 }) s))
  exact ⟨hgqp.trans honly.gqp, htb.trans honly.tb, hreg.trans honly.reg⟩

section
variable {qid : Nat} {q : QueuePair} {c : GqpCmd} {s : State}

theorem CtlCommand.exec_captureConfigure (h : CtlCommand 0x10 1 qid q c s) {data : Bytes} {conf : RingConf}
    (hconf : ringConfOf (eRegion c.entry) (eOffset c.entry) data = conf) (hport : isInstrument (actIndex c.entry) s = true)
    (hstate : (ringOf (actIndex c.entry) s).state ≠ 2 ∧ (ringOf (actIndex c.entry) s).state ≠ 3 ∧ (ringOf (actIndex c.entry) s).state ≠ 4)
    (hlen : eLength c.entry = 64) (hdata : data.length = 64) (hspec : cspecZero [] c.entry = true)
    (hok : ringConfOk data conf = true) (hfresh : bitOf 3 (fld 2 1 data) = false)
    (hregion : ringRegionOk q.domain conf s = true) (hapart : partsApart (actIndex c.entry) conf s = true) :
    exec (.captureConfigure qid c.cid data) s =
      .next (ctlDone (.gqp qid c.cid) (le 8 0) [] (ringConfigured (actIndex c.entry) conf s)) := by
  subst hconf
  obtain ⟨harmed, hrunning, htriggered⟩ := hstate
  have hin : data.length = actDataIn c.entry := by rw [actDataIn, h.code, hlen, hdata]; rfl
  have hnew : bitOf 3 (ringConfOf (eRegion c.entry) (eOffset c.entry) data).flags = false := hfresh
  change Host.Outcome.next (runAct ..) = _
  rw [h.runs hin, doCaptureConfigure, ctlChecked_ok (by
    simp [plainFields, hport, harmed, hrunning, htriggered, h.rsvd, hlen, hspec, hok, hregion, hapart])]
  simp only [actOf, hnew, Bool.false_eq_true, if_false]
  rfl

/-! ### Actions that wait for a boundary -/

theorem ringOf_ctlWait_modRing (p : Nat) (f : CtlFrom) (g : Ring → Ring) (s : State) :
    ringOf p (ctlWait f (modRing p g s)) = g (ringOf p s) :=
  (ringOf_of_cap p (ctlWait_cap ..)).trans (ringOf_modRing_self ..)

/-! ### SET_RULES, START, STOP and RELEASE wait for their boundary (R386, R393, R414) -/

theorem CtlCommand.exec_setRules (h : CtlCommand 0x10 2 qid q c s) {data : Bytes} (hport : isInstrument (actIndex c.entry) s = true)
    (hregion : eRegion c.entry = 0) (hoff : eOffset c.entry = 0) (hstate : (ringOf (actIndex c.entry) s).state ≠ 0)
    (hwhole : eLength c.entry % 96 = 0) (hfirst : 96 ≤ eLength c.entry) (hlast : eLength c.entry ≤ 6144)
    (hdata : data.length = eLength c.entry) (hspec : cspecZero [(32, 40)] c.entry = true) (hbeat : atBeatOk c.entry s = true)
    (hrules : (chunksOf 96 data).all ruleOk = true) :
    exec (.setRules qid c.cid data) s = .next (ctlWait (.gqp qid c.cid) (modRing (actIndex c.entry) (fun r =>
      { r with newRules := r.newRules ++ [(chunksOf 96 data, ⟨atBeat c.entry s, .gqp qid c.cid⟩)] }) s)) := by
  have hin : data.length = actDataIn c.entry := by rw [actDataIn, h.opcode, h.code, hdata]; rfl
  have hcount : 1 ≤ eLength c.entry / 96 ∧ eLength c.entry / 96 ≤ 64 := by omega
  change Host.Outcome.next (runAct ..) = _
  rw [h.runs hin, doSetRules, ctlChecked_ok (by
    simp [plainFields, hport, hstate, h.rsvd, hregion, hoff, hwhole, hcount, hspec, hbeat, hrules, -List.all_eq_true])]
  rfl

/-- The state with the ring of an entry's port ARMED, and a START added that waits for its beat. -/
def ringArmed (f : CtlFrom) (e : Bytes) (s : State) : State :=
  enterRing (actIndex e) 2 0 (ctlWait f (modRing (actIndex e) (fun r =>
    { r with startAt := r.startAt ++ [(fld 40 1 e == 1, ⟨atBeat e s, f⟩)] }) s))

theorem ringOf_ringArmed (f : CtlFrom) (e : Bytes) (s : State) :
    ringOf (actIndex e) (ringArmed f e s) =
      { ringOf (actIndex e) s with
        state := 2, startAt := (ringOf (actIndex e) s).startAt ++ [(fld 40 1 e == 1, ⟨atBeat e s, f⟩)] } := by
  rw [ringArmed, ringOf_enterRing _ _ _ (by decide), ringOf_ctlWait_modRing]

theorem ringArmed_onlyCap (f : CtlFrom) (e : Bytes) (s : State) : OnlyCap (ctlWait f s) (ringArmed f e s) :=
  (ctlWait_onlyCap f (modRing_onlyCap ..)).trans (enterRing_onlyCap ..)

/-- A START with valid fields, whoever sends it. -/
theorem doCaptureStart_arms {a : CtlAct} (hport : isInstrument (actIndex a.entry) s = true) (hrsvd : zeroAt 22 2 a.entry = true)
    (hregion : eRegion a.entry = 0) (hoff : eOffset a.entry = 0) (hlen : eLength a.entry = 0)
    (hstate : (ringOf (actIndex a.entry) s).state ≠ 0 ∧ (ringOf (actIndex a.entry) s).state ≠ 3 ∧ (ringOf (actIndex a.entry) s).state ≠ 4)
    (hspec : cspecZero [(32, 41)] a.entry = true) (hbeat : atBeatOk a.entry s = true) (hreset : fld 40 1 a.entry < 2) :
    doCaptureStart a s = ringArmed a.frm a.entry s := by
  obtain ⟨hconf, hrunning, htriggered⟩ := hstate
  rw [doCaptureStart, ctlChecked_ok (by
    simp [plainFields, hport, hconf, hrunning, htriggered, hrsvd, hregion, hoff, hlen, hspec, hbeat, hreset])]
  rfl

theorem CtlCommand.exec_captureStart (h : CtlCommand 0x10 3 qid q c s) (hport : isInstrument (actIndex c.entry) s = true)
    (hregion : eRegion c.entry = 0) (hoff : eOffset c.entry = 0) (hlen : eLength c.entry = 0)
    (hstate : (ringOf (actIndex c.entry) s).state ≠ 0 ∧ (ringOf (actIndex c.entry) s).state ≠ 3 ∧ (ringOf (actIndex c.entry) s).state ≠ 4)
    (hspec : cspecZero [(32, 41)] c.entry = true) (hbeat : atBeatOk c.entry s = true) (hreset : fld 40 1 c.entry < 2) :
    exec (.captureStart qid c.cid) s = .next (ringArmed (.gqp qid c.cid) c.entry s) := by
  change Host.Outcome.next (runAct ..) = _
  rw [h.runs_plain (by decide) (by decide)]
  exact congrArg _ (doCaptureStart_arms (a := actOf qid q c []) hport h.rsvd hregion hoff hlen hstate hspec hbeat hreset)

theorem CtlCommand.exec_captureStop (h : CtlCommand 0x10 4 qid q c s) (hport : isInstrument (actIndex c.entry) s = true)
    (hregion : eRegion c.entry = 0) (hoff : eOffset c.entry = 0) (hlen : eLength c.entry = 0)
    (hstate : (ringOf (actIndex c.entry) s).state ≠ 0) (hspec : cspecZero [(32, 40)] c.entry = true) (hbeat : atBeatOk c.entry s = true) :
    exec (.captureStop qid c.cid) s = .next (ctlWait (.gqp qid c.cid) (modRing (actIndex c.entry) (fun r =>
      { r with stopAt := r.stopAt ++ [⟨atBeat c.entry s, .gqp qid c.cid⟩] }) s)) := by
  change Host.Outcome.next (runAct ..) = _
  rw [h.runs_plain (by decide) (by decide), doCaptureStop, ctlChecked_ok (by
    simp [plainFields, hport, hstate, h.rsvd, hregion, hoff, hlen, hspec, hbeat])]
  rfl

theorem CtlCommand.exec_release (h : CtlCommand 0x10 6 qid q c s) {conf : RingConf} (hport : isInstrument (actIndex c.entry) s = true)
    (hregion : eRegion c.entry = 0) (hoff : eOffset c.entry = 0) (hlen : eLength c.entry = 0) (hspec : cspecZero [(40, 48)] c.entry = true)
    (hconf : (ringOf (actIndex c.entry) s).conf = some conf) (hmode : conf.mode = 0) (haligned : fld 40 8 c.entry % 32 = 0)
    (htail : (ringOf (actIndex c.entry) s).tail ≤ fld 40 8 c.entry) (hdurable : fld 40 8 c.entry ≤ (ringOf (actIndex c.entry) s).durable) :
    exec (.release qid c.cid) s = .next (ctlWait (.gqp qid c.cid) (modRing (actIndex c.entry) (fun r =>
      { r with releaseTo := r.releaseTo ++ [(fld 40 8 c.entry, ⟨s.tb.beat + 1, .gqp qid c.cid⟩)] }) s)) := by
  change Host.Outcome.next (runAct ..) = _
  rw [h.runs_plain (by decide) (by decide), doRelease, ctlChecked_ok (by
    simp [plainFields, hport, hconf, hmode, h.rsvd, hregion, hoff, hlen, hspec, haligned, htail, hdurable])]
  rfl

/-! ### STATUS (R415) -/

theorem CtlCommand.exec_captureStatus (h : CtlCommand 0x10 5 qid q c s) (hport : isInstrument (actIndex c.entry) s = true)
    (hregion : eRegion c.entry = 0) (hoff : eOffset c.entry = 0) (hlen : eLength c.entry = 64) (hspec : cspecZero [] c.entry = true) :
    exec (.captureStatus qid c.cid) s =
      .next (ctlDone (.gqp qid c.cid) [] (padTo 64 (ringOf (actIndex c.entry) s).sample) s) := by
  change Host.Outcome.next (runAct ..) = _
  rw [h.runs_plain (by decide) (by decide), doCaptureStatus, ctlChecked_ok (by
    simp [plainFields, hport, h.rsvd, hregion, hoff, hlen, hspec])]

end

theorem padTo_ne_nil {n : Nat} (b : Bytes) (hn : 0 < n) : padTo n b ≠ [] := by
  intro hnil
  have hlen := congrArg List.length hnil
  simp only [padTo, zeros, List.length_append, List.length_take, List.length_replicate, List.length_nil] at hlen
  omega

/-- C060h runs the action of its embedded entry as from access domain 0 (R414). -/
theorem exec_captureControl_plain {path : BcsPath} {input : Bytes} {s : State} (hopen : bcsOpen path 0xC060 s = true)
    (hlen : input.length = 64) (hop : eOpcode input = 0x10) (hdata : actDataIn input = 0) :
    exec (.captureControl path input) s = .next (captureAct ⟨.bcs path 0xC060, 0, input, []⟩ s) := by
  have htake : input.take 64 = input := List.take_of_length_le hlen.le
  have hdrop : input.drop 64 = [] := List.drop_of_length_le hlen.le
  rw [exec_bcs_open rfl hopen (by simp [htake, hlen, hdata])]
  simp [htake, hdrop, hop]

theorem captureAct_start {a : CtlAct} {s : State} (hcode : actCode a.entry = 3) : captureAct a s = doCaptureStart a s := by
  simp [captureAct, hcode]

/-! ### The obligation -/

/-- Settles O49: each action of a queue pair is its `exec_` lemma; what waits runs on by `CtlCommand.waits`, what succeeds completes by
`CtlCommand.ends`, and the changed ring is read off by `ringOf_ctlWait_modRing` and `ringOf_enterRing`. -/
theorem captureControlActions : Obligations.CaptureControlActions := by
  unfold Obligations.CaptureControlActions
  refine ⟨?configure, ?rules, ?start, ?stop, ?status, ?release, ?bcs⟩
  case configure =>
    rintro qid cid data q c s hq hcmds hstarted hmemory hentry hport hstate ⟨hlen, hdata, hspec⟩ hok hfresh hregion hapart
    obtain ⟨rfl, hcmd⟩ := ctlCommand_of hq hcmds hstarted hmemory hentry
    have hring := ringOf_ringConfigured (actIndex c.entry) (ringConfOf (eRegion c.entry) (eOffset c.entry) data) s
    obtain ⟨hgqp, htb, hreg⟩ := ringConfigured_leaves (actIndex c.entry) (ringConfOf (eRegion c.entry) (eOffset c.entry) data) s
    have hends := hcmd.ends hgqp htb (le 8 0) []
    rw [← ringOf_of_cap _ hends.cap] at hring
    refine ⟨_, hcmd.exec_captureConfigure rfl hport hstate hlen hdata hspec hok hfresh hregion hapart, ?_⟩
    rw [hring]
    exact ⟨rfl, rfl, rfl, rfl, hends.sent, hends.reg.trans hreg⟩
  case rules =>
    rintro qid cid data q c s hq hcmds hstarted hmemory hentry hport
      ⟨hregion, hoff⟩ hstate ⟨hwhole, hfirst, hlast, hdata⟩ ⟨hspec, hbeat⟩ hrules
    obtain ⟨rfl, hcmd⟩ := ctlCommand_of hq hcmds hstarted hmemory hentry
    refine ⟨_, hcmd.exec_setRules hport hregion hoff hstate hwhole hfirst hlast hdata hspec hbeat hrules, ?_⟩
    rw [ringOf_ctlWait_modRing]
    exact ⟨rfl, rfl, rfl, hcmd.waits (modRing_onlyCap ..).gqp, rfl, rfl, rfl, rfl⟩
  case start =>
    rintro qid cid q c s hq hcmds hstarted hmemory hentry hport ⟨hregion, hoff, hlen⟩ hstate ⟨hspec, hbeat, hreset⟩
    obtain ⟨rfl, hcmd⟩ := ctlCommand_of hq hcmds hstarted hmemory hentry
    have honly := ringArmed_onlyCap (.gqp qid c.cid) c.entry s
    refine ⟨_, hcmd.exec_captureStart hport hregion hoff hlen hstate hspec hbeat hreset, ?_⟩
    rw [ringOf_ringArmed, honly.runningCmd]
    exact ⟨rfl, rfl, rfl, rfl, hcmd.waits rfl, honly.reg, honly.ti, honly.pu⟩
  case stop =>
    rintro qid cid q c s hq hcmds hstarted hmemory hentry hport ⟨hregion, hoff, hlen⟩ hstate ⟨hspec, hbeat⟩
    obtain ⟨rfl, hcmd⟩ := ctlCommand_of hq hcmds hstarted hmemory hentry
    exact ⟨_, hcmd.exec_captureStop hport hregion hoff hlen hstate hspec hbeat, ringOf_ctlWait_modRing ..,
      hcmd.waits (modRing_onlyCap ..).gqp, rfl, rfl, rfl, rfl, rfl⟩
  case status =>
    rintro qid cid q c s hq hcmds hstarted hmemory hentry hport ⟨hregion, hoff, hlen, hspec⟩
    obtain ⟨rfl, hcmd⟩ := ctlCommand_of hq hcmds hstarted hmemory hentry
    have hends := hcmd.ends (t := s) rfl rfl [] (padTo 64 (ringOf (actIndex c.entry) s).sample)
    exact ⟨_, hcmd.exec_captureStatus hport hregion hoff hlen hspec, hends.data (padTo_ne_nil _ (by decide)), hends.sent, hends.cap,
      hends.reg, hends.ti, hends.pu⟩
  case release =>
    rintro qid cid q c conf s hq hcmds hstarted hmemory hentry hport
      ⟨hregion, hoff, hlen, hspec⟩ ⟨hconf, hmode⟩ ⟨haligned, htail, hdurable⟩
    obtain ⟨rfl, hcmd⟩ := ctlCommand_of hq hcmds hstarted hmemory hentry
    exact ⟨_, hcmd.exec_release hport hregion hoff hlen hspec hconf hmode haligned htail hdurable, ringOf_ctlWait_modRing ..,
      hcmd.waits (modRing_onlyCap ..).gqp, rfl, rfl, rfl, rfl, rfl⟩
  case bcs =>
    rintro path input s hopen ⟨hlen, hop, hcode, hrsvd, hregion, hoff, hlength⟩ hport ⟨hstate, hspec, hbeat, hreset⟩
    have harms : captureAct ⟨.bcs path 0xC060, 0, input, []⟩ s = ringArmed (.bcs path 0xC060) input s := by
      rw [captureAct_start hcode]
      exact doCaptureStart_arms hport hrsvd hregion hoff hlength (by simp [hstate]) hspec hbeat hreset
    have honly := ringArmed_onlyCap (.bcs path 0xC060) input s
    refine ⟨_, exec_captureControl_plain hopen hlen hop (by simp [actDataIn, hcode]), ?_⟩
    rw [harms, ringOf_ringArmed]
    exact ⟨rfl, rfl, honly.reg, honly.ti, honly.pu⟩

end Sys2Proof.Machine
end

section
/-! PROOFS. The rings of capture (10_capture_replay R383 to R401): frames, the actions whose beat has come, the staged backlog and the
programs of staged chunks. The window over which the drain rate of S is taken, and the first record from which a staged chunk's age
runs, are the model's choices (assumption logs 52, 53). -/

namespace Sys2Proof.Machine

/-! ### A frame that the rules keep, and one that they discard (R383, R385, R388, R391) -/

/-- The ring with one more record of a frame, at its write offset and with the next RSEQ. -/
def addRecord (b : BufRec) (size beat : Nat) (r : Ring) : Ring :=
  { r with
    write := r.write + size, records := r.records ++ [{ off := r.write, size := size, beat := beat, rseq := some (r.rseq % 2 ^ 32) }]
    buffer := r.buffer ++ [b], rseq := r.rseq + 1, stored := r.stored + 1, dropsBefore := 0
    beatFirst := r.beatFirst.or (some r.write), beatCount := r.beatCount + 1 }

/-- A record that fits before the end of the data area needs no pad record. -/
theorem not_left_lt {conf : RingConf} {write size : Nat} (hfits : write % conf.dataSize + size ≤ conf.dataSize) :
    ¬ conf.dataSize - write % conf.dataSize < size := by omega

theorem makeRoom_fits {conf : RingConf} {size : Nat} {r : Ring} (hfits : r.write % conf.dataSize + size ≤ conf.dataSize)
    (hroom : r.write + size ≤ r.tail + conf.dataSize) : makeRoom conf size r = some r := by
  simp [makeRoom, not_left_lt hfits, hroom]

section
variable {p : Nat} {conf : RingConf} {act hits cap : Nat} {f : InstrFrame} {s : State}

theorem storeRecord_fits (hcls : conf.cls = 0) (hfits : (ringOf p s).write % conf.dataSize + recordSize cap ≤ conf.dataSize) :
    ∃ b, storeRecord p conf act hits cap f s = modRing p (addRecord b (recordSize cap) s.tb.beat) s := by
  simp only [storeRecord, not_left_lt hfits, hcls, if_false, if_true, Nat.zero_ne_one, Nat.add_zero, List.append_nil]
  exact ⟨_, modRing_congr rfl⟩

theorem keepFrame_stores (hstate : (ringOf p s).state = 3) (hgoes : (ringOf p s).stopping = false) (hcls : conf.cls = 0)
    (hbuffer : bufferUsed p s + recordSize cap ≤ 262144)
    (hfits : (ringOf p s).write % conf.dataSize + recordSize cap ≤ conf.dataSize)
    (hroom : (ringOf p s).write + recordSize cap ≤ (ringOf p s).tail + conf.dataSize) :
    keepFrame p conf act hits cap false f s = storeRecord p conf act hits cap f (modRing p (fun _ => ringOf p s) s) := by
  simp [keepFrame, hstate, hgoes, hcls, Nat.not_lt.mpr hbuffer, makeRoom_fits hfits hroom]

theorem exec_instrumentFrame_kept (hconf : (ringOf p s).conf = some conf) (hrules : (ringOf p s).rules = [])
    (hport : isInstrument p s = true) (hact : conf.defaultAction = 1) (hwire : f.wireLen ≤ 16384) :
    exec (.instrumentFrame p f) s = .next (keepFrame p conf 1 0 f.wireLen false f s) := by
  change execInstrumentFrame p f s = _
  simp [execInstrumentFrame, hconf, hrules, hport, runRules, hact, hwire]

theorem exec_instrumentFrame_discarded (hconf : (ringOf p s).conf = some conf) (hrules : (ringOf p s).rules = [])
    (hact : conf.defaultAction = 2) : exec (.instrumentFrame p f) s = .next s := by
  change execInstrumentFrame p f s = _
  simp [execInstrumentFrame, hconf, hrules, runRules, hact]

end

/-! ### Rule sets, START, STOP and RELEASE at their beat (R386, R393, R401, R414) -/

section
variable {p : Nat} {s : State}

theorem exec_ruleSetActivation_due {x : List Bytes × Timed} (hnew : (ringOf p s).newRules = [x]) (hdue : x.2.beat ≤ s.tb.beat)
    (hnobody : x.2.waiter = .nobody) :
    exec (.ruleSetActivation p) s = .next (raise 0x0904 .info (le 1 p ++ le 1 x.1.length ++ zeros 6 ++ le 8 x.2.beat)
      (modRing p (fun r => { r with rules := x.1, newRules := r.newRules.erase x }) s)) := by
  change execRuleSetActivation p s = _
  simp [execRuleSetActivation, hnew, hdue, hnobody, ctlDone]

/-- The ring from its start beat on. -/
def startRing (reset : Bool) (x : Timed) (r : Ring) : Ring :=
  let r := { r with startAt := r.startAt.erase (reset, x), cause := 0, stopping := false }
  if reset then resetRing x.beat r else r

theorem exec_ringStartBeat_due {reset : Bool} {x : Timed} (hstart : (ringOf p s).startAt = [(reset, x)]) (hdue : x.beat ≤ s.tb.beat)
    (hnobody : x.waiter = .nobody) : exec (.ringStartBeat p) s = .next (enterRing p 3 0 (modRing p (startRing reset x) s)) := by
  have hfind : (ringOf p s).startAt.find? (fun x => decide (x.2.beat ≤ s.tb.beat)) = some (reset, x) := by simp [hstart, hdue]
  change execRingStartBeat p s = _
  simp only [execRingStartBeat, hfind, hnobody, ctlDone]
  rfl

/-- The ring from its stop beat on: one that captures is stopping. -/
def stopRing (x : Timed) (r : Ring) : Ring := { r with stopAt := r.stopAt.erase x, stopping := true }

/-- A ring with nothing left to write is STOPPED at its stop beat. -/
theorem exec_ringStopBeat_due {x : Timed} (hstop : (ringOf p s).stopAt = [x]) (hdue : x.beat ≤ s.tb.beat)
    (hnobody : x.waiter = .nobody) (hstate : (ringOf p s).state = 3) (hwritten : (ringOf p s).buffer = []) :
    exec (.ringStopBeat p) s =
      .next (enterRing p 1 0 (modRing p (fun r => { r with stopping := false }) (modRing p (stopRing x) s))) := by
  have hfind : (ringOf p s).stopAt.find? (fun x => decide (x.beat ≤ s.tb.beat)) = some x := by simp [hstop, hdue]
  have hsettles : settleRing p (modRing p (stopRing x) s) =
      enterRing p 1 0 (modRing p (fun r => { r with stopping := false }) (modRing p (stopRing x) s)) := by
    simp [settleRing, stopRing, hwritten]
  change execRingStopBeat p s = _
  simp only [execRingStopBeat, hfind, hnobody, ctlDone, hstate]
  rw [← hsettles]
  exact congrArg (fun u => Host.Outcome.next (settleRing p u)) (modRing_congr (by simp [stopRing]))

theorem exec_tailRelease_due {off : Nat} {x : Timed} (hrelease : (ringOf p s).releaseTo = [(off, x)]) (hdue : x.beat ≤ s.tb.beat)
    (hnobody : x.waiter = .nobody) (htail : (ringOf p s).tail ≤ off) (hstate : (ringOf p s).state = 5)
    (hgoes : (ringOf p s).stopping = false) :
    exec (.tailRelease p) s =
      .next (enterRing p 3 0 (modRing p (fun r => setTail off { r with releaseTo := r.releaseTo.erase (off, x) }) s)) := by
  have hfind : (ringOf p s).releaseTo.find? (fun x => decide (x.2.beat ≤ s.tb.beat)) = some (off, x) := by simp [hrelease, hdue]
  have hmoves : modRing p (fun r => setTail (max off r.tail) { r with releaseTo := r.releaseTo.erase (off, x) }) s =
      modRing p (fun r => setTail off { r with releaseTo := r.releaseTo.erase (off, x) }) s :=
    modRing_congr (by simp only [Nat.max_eq_left htail])
  change execTailRelease p s = _
  simp only [execTailRelease, hfind, hnobody, ctlDone]
  rw [hmoves, ringOf_modRing_self]
  exact congrArg Host.Outcome.next (if_pos ⟨hstate, congrArg (!·) hgoes⟩)

end

/-! ### The staged backlog (R399) -/

/-- The state with the backlog reported. -/
def backlogReported (s : State) : State :=
  raise 0x0903 .warning (le 8 (backlogAll s) ++ le 4 (stagedShare s)) (modCap (fun c => { c with backlogHigh := true }) s)

theorem exec_stagedBacklogExceeded_new {s : State} (hhigh : 16384 * stagedShare s < backlogAll s) (hnew : s.cap.backlogHigh = false) :
    exec .stagedBacklogExceeded s = .next (backlogReported s) := by
  change execStagedBacklogExceeded s = _
  simp [execStagedBacklogExceeded, hhigh, hnew, backlogReported]

theorem exec_stagedBacklogExceeded_stays {s : State} (h : s.cap.backlogHigh = true ∨ backlogAll s ≤ 16384 * stagedShare s) :
    exec .stagedBacklogExceeded s = .next s := by
  change execStagedBacklogExceeded s = _
  rcases h with hreported | hlow
  · simp [execStagedBacklogExceeded, hreported]
  · simp [execStagedBacklogExceeded, Nat.not_lt.mpr hlow]

theorem settleBacklog_backlogHigh (s : State) :
    (settleBacklog s).cap.backlogHigh = (s.cap.backlogHigh && decide (16384 * stagedShare s < backlogAll s)) := by
  unfold settleBacklog
  split
  next hlow => simp [Nat.not_lt.mpr hlow]
  next hhigh => simp [Nat.lt_of_not_le hhigh]

/-- Settles O54: the report is made once (`exec_stagedBacklogExceeded_new`, `exec_stagedBacklogExceeded_stays`), and armed again by
`settleBacklog_backlogHigh`. -/
theorem backlogIsReportedOnce : Obligations.BacklogIsReportedOnce := by
  unfold Obligations.BacklogIsReportedOnce
  refine ⟨fun s ⟨hhigh, hnew, hroom⟩ => ?_, fun s => exec_stagedBacklogExceeded_stays, settleBacklog_backlogHigh⟩
  exact ⟨_, exec_stagedBacklogExceeded_new hhigh hnew, newestEvent_raise _ _ _ (by exact hroom), rfl, rfl⟩

/-! ### Programs of staged chunks (R396) -/

/-- What the program of a staged chunk leaves: it changes the tiers, and the engine's nonce. -/
structure ProgramKeeps (s t : State) : Prop where
  cap : t.cap = s.cap
  pu : t.pu = s.pu
  reg : t.reg = s.reg

theorem ProgramKeeps.refl (s : State) : ProgramKeeps s s := ⟨rfl, rfl, rfl⟩

theorem ProgramKeeps.trans {s t u : State} (h : ProgramKeeps s t) (g : ProgramKeeps t u) : ProgramKeeps s u :=
  ⟨g.cap.trans h.cap, g.pu.trans h.pu, g.reg.trans h.reg⟩

theorem modTi_programKeeps (f : Tiers → Tiers) (s : State) : ProgramKeeps s (modTi f s) := ⟨rfl, rfl, rfl⟩

theorem modStripe_programKeeps (k : Nat) (f : Stripe → Stripe) (s : State) : ProgramKeeps s (modStripe k f s) :=
  modTi_programKeeps ..

theorem eraseStripe_programKeeps (k : Nat) (s : State) : ProgramKeeps s (eraseStripe k s) :=
  (modTi_programKeeps _ s).trans (modStripe_programKeeps ..)

theorem bumpNonce_programKeeps (s : State) : ProgramKeeps s (bumpNonce s) := ⟨rfl, rfl, rfl⟩

theorem openFor_programKeeps (kind : StripeState) (a : Nat) (s : State) : ProgramKeeps s (openFor kind a s) := by
  unfold openFor
  dsimp only
  split
  · refine ProgramKeeps.trans ?_ (modStripe_programKeeps ..)
    split
    · exact eraseStripe_programKeeps ..
    · exact .refl s
  · exact .refl s

theorem programStaged_programKeeps (d : Region) (r lcn a : Nat) (s : State) : ProgramKeeps s (programStaged d r lcn a s) := by
  unfold programStaged programImage
  dsimp only
  split
  · exact modTi_programKeeps ..
  · exact (modTi_programKeeps ..).trans (bumpNonce_programKeeps _)
  · exact modTi_programKeeps ..

theorem markProgrammed_programKeeps (a : Nat) (s : State) : ProgramKeeps s (markProgrammed a s) := modStripe_programKeeps ..

/-- The state with a staged chunk's image at an address of an open data stripe. -/
def chunkProgrammed (d : Region) (r lcn addr : Nat) (s : State) : State :=
  markProgrammed addr (programStaged d r lcn addr (openFor .openData addr s))

theorem chunkProgrammed_programKeeps (d : Region) (r lcn addr : Nat) (s : State) : ProgramKeeps s (chunkProgrammed d r lcn addr s) :=
  ((openFor_programKeeps ..).trans (programStaged_programKeeps ..)).trans (markProgrammed_programKeeps ..)

/-- The state with a write-back under way, its LUN busy, and the staged chunk noted as programmed in its ring's turn. -/
def chunkLaunched (p : Nat) (w : CabWrite) (s : State) : State :=
  modCap (fun k => { k with
      lastRing := p, chunks := k.chunks.map fun x => if x.lcn = w.lcn then { x with programmed := w.through } else x })
    (modTi (fun t => { t with
      inFlight := t.inFlight ++ [w], lunOps := mput (addrLun w.addr) { erase := false, resumedAt := s.tb.beat } t.lunOps }) s)

/-- The write-back of a staged chunk to an address. -/
def stagedCabWrite (lcn addr : Nat) (c : StagedChunk) (s : State) : CabWrite :=
  { lcn := lcn, addr := addr, fromAddr := entryAddr lcn s, through := c.filled, staged := true }

theorem programCapture_launches {full : Bool} {p lcn addr r : Nat} {c : StagedChunk} {d : Region} {s : State}
    (hchunk : stagedAt lcn s = some c) (hport : c.port = p) (hregion : chunkRegion lcn s = some (r, d))
    (hdue : programDue full c s = true) (hturn : turnOfRing s = some p) (haddr : canProgram .openData addr s = true)
    (hfree : 2 ≤ (freeStripes (addrPosition addr) s).length) (hcipher : canEncipher d s = true) :
    programCapture full p lcn addr s = chunkLaunched p (stagedCabWrite lcn addr c s) (chunkProgrammed d r lcn addr s) := by
  simp only [programCapture, hchunk, hregion, hport, hdue, hturn, haddr, hfree, hcipher, beq_self_eq_true, decide_true, Bool.and_true,
    Bool.not_true, Bool.false_eq_true, if_true, if_false]
  rfl

/-- A staged chunk that is on its way keeps its place in the staging, programmed up to where it is filled. -/
theorem find?_programmed (lcn n : Nat) (l : List StagedChunk) :
    ((l.map fun x => if x.lcn = lcn then { x with programmed := n } else x).find? fun x => x.lcn == lcn).map (·.programmed) =
      (l.find? fun x => x.lcn == lcn).map fun _ => n := by
  induction l with
  | nil => rfl
  | cons x l ih =>
    by_cases hx : x.lcn = lcn
    · simp [hx]
    · have hother : (x.lcn == lcn) = false := by simp [hx]
      simp only [List.map_cons, if_neg hx, List.find?_cons, hother]
      exact ih

/-- The program of a staged chunk has been launched in its ring's turn (R396). -/
structure ChunkLaunches (p lcn addr : Nat) (c : StagedChunk) (s t : State) : Prop where
  inFlight : t.ti.inFlight.getLast? = some (stagedCabWrite lcn addr c s)
  turn : t.cap.lastRing = p
  programmed : (stagedAt lcn t).map (·.programmed) = some c.filled
  reg : t.reg = s.reg
  pu : t.pu = s.pu

theorem chunkLaunched_launches {p lcn addr r : Nat} {c : StagedChunk} {d : Region} {s : State} (hchunk : stagedAt lcn s = some c) :
    ChunkLaunches p lcn addr c s (chunkLaunched p (stagedCabWrite lcn addr c s) (chunkProgrammed d r lcn addr s)) := by
  have hkeeps := chunkProgrammed_programKeeps d r lcn addr s
  have hfound : stagedAt lcn (chunkProgrammed d r lcn addr s) = some c := by rw [stagedAt, hkeeps.cap, ← stagedAt, hchunk]
  exact ⟨List.getLast?_concat .., rfl, (find?_programmed ..).trans (congrArg _ hfound), hkeeps.reg, hkeeps.pu⟩

/-! ### The obligation -/

/-- Settles O50: a clause names what its command does, and reads the ring off it; what a launch of a staged chunk does is
`chunkLaunched_launches`, full or not. -/
theorem captureRingAndStaging : Obligations.CaptureRingAndStaging := by
  unfold Obligations.CaptureRingAndStaging
  refine ⟨fun p f conf s ⟨hconf, hrules, hport⟩ ⟨hstate, hgoes, hcls, hact, hwire⟩ hbuffer hfits hroom => ?keep,
    fun p f conf s ⟨hconf, hrules, hact⟩ => exec_instrumentFrame_discarded hconf hrules hact,
    fun p x s ⟨hnew, hdue, hnobody⟩ hroom => ?rules, fun p x s ⟨hstart, hdue, hnobody, _⟩ => ?start,
    fun p x s ⟨hstart, hdue, hnobody, _⟩ => ?reset, fun p x s ⟨hstop, hdue, hnobody, hstate, hwritten⟩ => ?stop,
    fun p x off s ⟨hrelease, hdue, hnobody, htail, hdurable⟩ ⟨hstate, hgoes⟩ => ?release, fun s hhigh hnew hroom => ?backlog,
    fun p lcn addr r c d s ⟨hchunk, _, hport⟩ hregion hdue hturn haddr hfree hcipher => ?full,
    fun p lcn addr r c d s ⟨hchunk, _, hport⟩ hregion ⟨_, _, hdue⟩ hturn haddr hfree hcipher => ?late⟩
  case keep =>
    have hsame : ringOf p (modRing p (fun _ => ringOf p s) s) = ringOf p s := ringOf_modRing_self ..
    obtain ⟨b, hstore⟩ := storeRecord_fits (act := 1) (hits := 0) (f := f) hcls (s := modRing p (fun _ => ringOf p s) s)
      (by rw [hsame]; exact hfits)
    refine ⟨_, (exec_instrumentFrame_kept hconf hrules hport hact hwire).trans
      (congrArg _ ((keepFrame_stores hstate hgoes hcls hbuffer hfits hroom).trans hstore)), ?_⟩
    rw [ringOf_modRing_self, hsame]
    exact ⟨rfl, rfl, rfl, rfl, hstate, rfl, rfl, rfl, rfl, rfl, rfl⟩
  case rules =>
    refine ⟨_, exec_ruleSetActivation_due hnew hdue hnobody, ?_⟩
    rw [ringOf_of_cap p (raise_cap ..), ringOf_modRing_self]
    exact ⟨rfl, by simp [hnew], recorded_raise _ _ _ hroom, rfl, rfl, rfl, rfl, rfl⟩
  case start =>
    have honly := (modRing_onlyCap p (startRing false x) s).trans (enterRing_onlyCap p 3 0 _)
    refine ⟨_, exec_ringStartBeat_due hstart hdue hnobody, ?_⟩
    rw [ringOf_enterRing _ _ _ (by decide), ringOf_modRing_self]
    exact ⟨rfl, by simp [startRing, hstart], rfl, rfl, rfl, rfl, honly.reg, honly.ti, honly.pu⟩
  case reset =>
    have honly := (modRing_onlyCap p (startRing true x) s).trans (enterRing_onlyCap p 3 0 _)
    refine ⟨_, exec_ringStartBeat_due hstart hdue hnobody, ?_⟩
    rw [ringOf_enterRing _ _ _ (by decide), ringOf_modRing_self]
    exact ⟨rfl, rfl, rfl, rfl, rfl, rfl, honly.reg, honly.ti, honly.pu⟩
  case stop =>
    have honly := ((modRing_onlyCap p (stopRing x) s).trans (modRing_onlyCap p (fun r => { r with stopping := false }) _)).trans
      (enterRing_onlyCap p 1 0 _)
    refine ⟨_, exec_ringStopBeat_due hstop hdue hnobody hstate hwritten, ?_⟩
    rw [ringOf_enterRing _ _ _ (by decide), ringOf_modRing_self, ringOf_modRing_self]
    exact ⟨rfl, by simp [stopRing, hstop], rfl, rfl, rfl, honly.reg, honly.ti, honly.pu⟩
  case release =>
    have honly := (modRing_onlyCap p (fun r => setTail off { r with releaseTo := r.releaseTo.erase (off, x) }) s).trans
      (enterRing_onlyCap p 3 0 _)
    refine ⟨_, exec_tailRelease_due hrelease hdue hnobody htail hstate hgoes, ?_⟩
    rw [ringOf_enterRing _ _ _ (by decide), ringOf_modRing_self]
    exact ⟨rfl, rfl, by simp [setTail, hrelease], Nat.max_eq_left hdurable, rfl, honly.reg, honly.ti, honly.pu⟩
  case backlog =>
    exact ⟨_, exec_stagedBacklogExceeded_new hhigh hnew, recorded_raise _ _ _ (by exact hroom), rfl, rfl, rfl, rfl⟩
  case full =>
    have hlaunch := chunkLaunched_launches (p := p) (addr := addr) (r := r) (d := d) hchunk
    exact ⟨_, congrArg Host.Outcome.next (programCapture_launches hchunk hport hregion hdue hturn haddr hfree hcipher),
      hlaunch.inFlight, hlaunch.turn, hlaunch.programmed, hlaunch.reg, hlaunch.pu⟩
  case late =>
    have hlaunch := chunkLaunched_launches (p := p) (addr := addr) (r := r) (d := d) hchunk
    exact ⟨_, congrArg Host.Outcome.next (programCapture_launches hchunk hport hregion hdue hturn haddr hfree hcipher),
      hlaunch.inFlight, hlaunch.turn, hlaunch.programmed, hlaunch.reg, hlaunch.pu⟩

end Sys2Proof.Machine
end

section
/-! PROOFS. Replay Control (10_capture_replay R404, R413, R414, R416, R417): what each action does to the channel of its port. -/

namespace Sys2Proof.Machine

/-! ### Zero fields -/

theorem slice_slice {off n k m : Nat} (b : Bytes) (hfits : k + m ≤ n) : slice k m (slice off n b) = slice (off + k) m b := by
  have hmin : min m (n - k) = m := by omega
  simp [slice, List.drop_take, List.take_take, hmin]

theorem zeroAt_within {off n k m : Nat} {b : Bytes} (h : zeroAt off n b = true) (hfits : k + m ≤ n) : zeroAt (off + k) m b = true := by
  simp only [zeroAt, allZero, List.all_eq_true] at h ⊢
  intro x hx
  rw [← slice_slice b hfits] at hx
  exact h x (List.mem_of_mem_drop (List.mem_of_mem_take hx))

theorem fld_of_zeroAt {off n : Nat} {b : Bytes} (h : zeroAt off n b = true) : fld off n b = 0 :=
  leVal_zero (by simpa [zeroAt, allZero] using h)

/-! ### CONFIGURE (R416) -/

/-- The channel that a configuration without a filler frame gives; STATE and the sample of the last boundary stay. -/
def newChannel (b : Bytes) (old : Channel) : Channel :=
  { state := old.state, policy := fld 0 1 b, fcsMode := fld 1 1 b, flags := fld 2 1 b
    lead := if fld 4 4 b = 0 then 131072 else fld 4 4 b, filler := [], sample := old.sample }

/-- The state with a channel configured and IDLE. -/
def channelConfigured (ch : Nat) (b : Bytes) (s : State) : State :=
  enterChannel ch 1 0 (modChan ch (fun _ => newChannel b (channelOf ch s)) s)

theorem channelConfigured_onlyCap (ch : Nat) (b : Bytes) (s : State) : OnlyCap s (channelConfigured ch b s) :=
  (modChan_onlyCap ..).trans (enterChannel_onlyCap ..)

theorem channelOf_channelConfigured (ch : Nat) (b : Bytes) (s : State) :
    channelOf ch (channelConfigured ch b s) = { newChannel b (channelOf ch s) with state := 1 } := by
  rw [channelConfigured, channelOf_enterChannel, channelOf_modChan_self]

section
variable {qid : Nat} {q : QueuePair} {c : GqpCmd} {s : State}

theorem CtlCommand.exec_replayConfigure (h : CtlCommand 0x11 1 qid q c s) {data : Bytes} (hport : isInstrument (actIndex c.entry) s = true)
    (hregion : eRegion c.entry = 0) (hoff : eOffset c.entry = 0) (hlen : eLength c.entry = 64) (hspec : cspecZero [] c.entry = true)
    (hstaging : stagingOk s = true) (hfree : channelBusy (channelOf (actIndex c.entry) s) = false) (hdata : data.length = 64)
    (hpolicy : fld 0 1 data = 0 ∨ fld 0 1 data = 2) (hfcs : fld 1 1 data < 2) (hflags : fld 2 1 data < 4) (hrsvd : zeroAt 3 1 data = true)
    (hlead : fld 4 4 data = 0 ∨ (1024 ≤ fld 4 4 data ∧ fld 4 4 data ≤ 2 ^ 21)) (hrest : zeroAt 8 56 data = true) :
    exec (.replayConfigure qid c.cid data) s = .next (ctlDone (.gqp qid c.cid) [] [] (channelConfigured (actIndex c.entry) data s)) := by
  have hin : data.length = actDataIn c.entry := by rw [actDataIn, h.code, hlen, hdata]; rfl
  have hpolicies : fld 0 1 data < 3 ∧ fld 0 1 data ≠ 1 := by omega
  have hnone : fld 8 2 data = 0 := fld_of_zeroAt (zeroAt_within hrest (k := 0) (m := 2) (by decide))
  have hfiller : fld 16 8 data = 0 := fld_of_zeroAt (zeroAt_within hrest (k := 8) (m := 8) (by decide))
  have hgap : zeroAt 10 6 data = true := zeroAt_within hrest (k := 2) (by decide)
  have htail : zeroAt 24 40 data = true := zeroAt_within hrest (k := 16) (by decide)
  have hleads : fld 4 4 data = 0 ∨ (1024 ≤ fld 4 4 data ∧ fld 4 4 data ≤ 2097152) := hlead
  change Host.Outcome.next (runAct ..) = _
  rw [h.runs hin, doReplayConfigure, ctlChecked_ok (by
    simp [plainFields, hport, hstaging, hfree, h.rsvd, hlen, hspec, hregion, hoff, hpolicies, hfcs, hflags, hrsvd, hleads, hnone,
      hfiller, hgap, htail])]
  simp only [actOf, hnone, if_true]
  rfl

/-! ### LOAD (R404) -/

theorem actRead_here (a : CtlAct) {r off len : Nat} (hpass : regionStatus a.dom r off len false s = none) (hhere : ServedHere r s) :
    actRead a r off len none s = .data (readBytes r off len s) (poisonedLines r off len s) := by
  simp [actRead, hpass, hhere.rangeRoute, hhere.route]

/-- The state with a program in a channel, which is LOADED. -/
def channelLoaded (ch : Nat) (steps : List Bytes) (s : State) : State :=
  enterChannel ch 2 0 (modChan ch (fun x => { x with program := steps }) s)

theorem channelLoaded_onlyCap (ch : Nat) (steps : List Bytes) (s : State) : OnlyCap s (channelLoaded ch steps s) :=
  (modChan_onlyCap ..).trans (enterChannel_onlyCap ..)

theorem channelOf_channelLoaded (ch : Nat) (steps : List Bytes) (s : State) :
    channelOf ch (channelLoaded ch steps s) = { channelOf ch s with state := 2, program := steps } := by
  rw [channelLoaded, channelOf_enterChannel, channelOf_modChan_self]

theorem CtlCommand.exec_load (h : CtlCommand 0x11 2 qid q c s) {steps : List Bytes}
    (hsteps : chunksOf 32 (readBytes (eRegion c.entry) (eOffset c.entry) (eLength c.entry) s) = steps)
    (hport : isInstrument (actIndex c.entry) s = true) (hwhole : eLength c.entry % 32 = 0) (hfirst : 32 ≤ eLength c.entry)
    (hlast : eLength c.entry ≤ 4096) (hspec : cspecZero [] c.entry = true) (hstate : (channelOf (actIndex c.entry) s).state ≠ 0)
    (hfree : channelBusy (channelOf (actIndex c.entry) s) = false)
    (hpass : regionStatus q.domain (eRegion c.entry) (eOffset c.entry) (eLength c.entry) false s = none)
    (hhere : ServedHere (eRegion c.entry) s) (hgood : poisonedLines (eRegion c.entry) (eOffset c.entry) (eLength c.entry) s = [])
    (hok : (steps.zipIdx.all fun x => stepOk x.2 x.1) = true) :
    exec (.load qid c.cid) s =
      .next (ctlDone (.gqp qid c.cid) (le 4 steps.length) [] (channelLoaded (actIndex c.entry) steps s)) := by
  have hread := actRead_here (actOf qid q c []) hpass hhere
  have hlen : eLength c.entry ≤ 2097152 := by omega
  change Host.Outcome.next (withCmd ..) = _
  rw [withCmd_runs h.queue h.found (by simp [h.opcode, h.code])]
  simp only [actOf] at hread
  simp only [h.header, h.kind, doLoad]
  rw [ctlChecked_ok (by simp [plainFields, hport, hstate, hfree, h.rsvd, hspec, hwhole, hfirst, hlen])]
  simp only [hread, hgood, hsteps, hok]
  rfl

/-! ### START and STOP wait for their beat (R414, R417) -/

/-- The channel ARMED for a start beat: its counters are cleared, and its schedule starts there. -/
def armChannel (dom : Nat) (x : Timed) (ch : Channel) : Channel :=
  { ch with
    domain := dom, startBeat := x.beat, startAt := some x, fetch := restart {} x.beat, items := [], due := [], curStep := 0
    shift := 0, episode := 0, slip := 0, underruns := 0, late := 0, sent := 0, poisoned := 0, windowDrops := 0, stopAfter := none
    cause := 0 }

theorem CtlCommand.exec_replayStart (h : CtlCommand 0x11 3 qid q c s) (hport : isInstrument (actIndex c.entry) s = true)
    (hregion : eRegion c.entry = 0) (hoff : eOffset c.entry = 0) (hlen : eLength c.entry = 0) (hspec : cspecZero [(32, 40)] c.entry = true)
    (hbeat : atBeatOk c.entry s = true) (hprogram : (channelOf (actIndex c.entry) s).program ≠ [])
    (hstate : (channelOf (actIndex c.entry) s).state = 2 ∨ (channelOf (actIndex c.entry) s).state = 6 ∨
      (channelOf (actIndex c.entry) s).state = 7)
    (hreadable : programReadable q.domain (channelOf (actIndex c.entry) s).program s = true) :
    exec (.replayStart qid c.cid) s = .next (ctlWait (.gqp qid c.cid) (enterChannel (actIndex c.entry) 3 0
      (modChan (actIndex c.entry) (armChannel q.domain ⟨atBeat c.entry s, .gqp qid c.cid⟩) s))) := by
  change Host.Outcome.next (runAct ..) = _
  rw [h.runs_plain (by decide) (by decide), doReplayStart, ctlChecked_ok (by
    simp [plainFields, hport, or_assoc, hstate, hprogram, hreadable, h.rsvd, hregion, hoff, hlen, hspec, hbeat])]
  rfl

theorem CtlCommand.exec_replayStop (h : CtlCommand 0x11 4 qid q c s) (hport : isInstrument (actIndex c.entry) s = true)
    (hregion : eRegion c.entry = 0) (hoff : eOffset c.entry = 0) (hlen : eLength c.entry = 0) (hspec : cspecZero [(32, 40)] c.entry = true)
    (hbeat : atBeatOk c.entry s = true) (hstate : (channelOf (actIndex c.entry) s).state ≠ 0) :
    exec (.replayStop qid c.cid) s = .next (ctlWait (.gqp qid c.cid) (modChan (actIndex c.entry) (fun x =>
      { x with stopAt := x.stopAt ++ [⟨atBeat c.entry s, .gqp qid c.cid⟩] }) s)) := by
  change Host.Outcome.next (runAct ..) = _
  rw [h.runs_plain (by decide) (by decide), doReplayStop, ctlChecked_ok (by
    simp [plainFields, hport, hstate, h.rsvd, hregion, hoff, hlen, hspec, hbeat])]

/-! ### STATUS (R417) -/

/-- A STATUS with valid fields, whoever sends it, returns the sample of the last boundary. -/
theorem doReplayStatus_samples {a : CtlAct} (hport : isInstrument (actIndex a.entry) s = true) (hrsvd : zeroAt 22 2 a.entry = true)
    (hregion : eRegion a.entry = 0) (hoff : eOffset a.entry = 0) (hlen : eLength a.entry = 64) (hspec : cspecZero [] a.entry = true) :
    doReplayStatus a s = ctlDone a.frm [] (padTo 64 (channelOf (actIndex a.entry) s).sample) s := by
  rw [doReplayStatus, ctlChecked_ok (by simp [plainFields, hport, hrsvd, hregion, hoff, hlen, hspec])]

theorem CtlCommand.exec_replayStatus (h : CtlCommand 0x11 5 qid q c s) (hport : isInstrument (actIndex c.entry) s = true)
    (hregion : eRegion c.entry = 0) (hoff : eOffset c.entry = 0) (hlen : eLength c.entry = 64) (hspec : cspecZero [] c.entry = true) :
    exec (.replayStatus qid c.cid) s =
      .next (ctlDone (.gqp qid c.cid) [] (padTo 64 (channelOf (actIndex c.entry) s).sample) s) := by
  change Host.Outcome.next (runAct ..) = _
  rw [h.runs_plain (by decide) (by decide)]
  exact congrArg _ (doReplayStatus_samples (a := actOf qid q c []) hport h.rsvd hregion hoff hlen hspec)

end

/-- C061h runs the action of its embedded entry as from access domain 0 (R414). -/
theorem exec_replayControl_plain {path : BcsPath} {input : Bytes} {s : State} (hopen : bcsOpen path 0xC061 s = true)
    (hlen : input.length = 64) (hop : eOpcode input = 0x11) (hdata : actDataIn input = 0) :
    exec (.replayControl path input) s = .next (replayAct none ⟨.bcs path 0xC061, 0, input, []⟩ s) := by
  have htake : input.take 64 = input := List.take_of_length_le hlen.le
  have hdrop : input.drop 64 = [] := List.drop_of_length_le hlen.le
  rw [exec_bcs_open rfl hopen (by simp [htake, hlen, hdata])]
  simp [htake, hdrop, hop]

theorem replayAct_status {a : CtlAct} {s : State} (hcode : actCode a.entry = 5) : replayAct none a s = doReplayStatus a s := by
  simp [replayAct, hcode]

/-! ### The obligation -/

/-- Settles O51: each action of a queue pair is its `exec_` lemma; what waits runs on by `CtlCommand.waits`, what succeeds completes by
`CtlCommand.ends`, and the changed channel is read off by `channelOf_modChan_self` and `channelOf_enterChannel`. -/
theorem replayControlActions : Obligations.ReplayControlActions := by
  unfold Obligations.ReplayControlActions
  refine ⟨?configure, ?load, ?start, ?stop, ?status, ?bcs⟩
  case configure =>
    rintro qid cid data q c s hq hcmds hstarted hmemory hentry hport ⟨hregion, hoff, hlen, hspec⟩ ⟨hstaging, hfree⟩
      ⟨hdata, hpolicy, hfcs, hflags, hrsvd⟩ hlead hrest
    obtain ⟨rfl, hcmd⟩ := ctlCommand_of hq hcmds hstarted hmemory hentry
    have honly := channelConfigured_onlyCap (actIndex c.entry) data s
    have hends := hcmd.ends honly.gqp honly.tb [] []
    refine ⟨_, hcmd.exec_replayConfigure hport hregion hoff hlen hspec hstaging hfree hdata hpolicy hfcs hflags hrsvd hlead hrest, ?_⟩
    rw [channelOf_of_cap _ hends.cap, channelOf_channelConfigured]
    exact ⟨rfl, rfl, rfl, rfl, hends.sent, hends.reg.trans honly.reg, hends.ti.trans honly.ti, hends.pu.trans honly.pu⟩
  case load =>
    rintro qid cid q c d s hq hcmds hstarted hmemory hentry hport ⟨hwhole, hfirst, hlast, hspec⟩ ⟨hstate, hfree⟩ hpass hd
      ⟨hsettee, hmirrored, hseat⟩ hgood hok
    obtain ⟨rfl, hcmd⟩ := ctlCommand_of hq hcmds hstarted hmemory hentry
    have honly := channelLoaded_onlyCap (actIndex c.entry)
      (chunksOf 32 (readBytes (eRegion c.entry) (eOffset c.entry) (eLength c.entry) s)) s
    have hends := hcmd.ends honly.gqp honly.tb
      (le 4 (chunksOf 32 (readBytes (eRegion c.entry) (eOffset c.entry) (eLength c.entry) s)).length) []
    refine ⟨_, hcmd.exec_load rfl hport hwhole hfirst hlast hspec hstate hfree hpass ⟨d, hd, hsettee, hmirrored, hseat⟩ hgood hok, ?_⟩
    rw [channelOf_of_cap _ hends.cap, channelOf_channelLoaded]
    exact ⟨rfl, rfl, hends.sent, hends.reg.trans honly.reg, hends.ti.trans honly.ti, hends.pu.trans honly.pu⟩
  case start =>
    rintro qid cid q c s hq hcmds hstarted hmemory hentry hport ⟨hregion, hoff, hlen, hspec, hbeat⟩ hstate ⟨hprogram, hreadable⟩
    obtain ⟨rfl, hcmd⟩ := ctlCommand_of hq hcmds hstarted hmemory hentry
    have honly := (modChan_onlyCap (actIndex c.entry) (armChannel q.domain ⟨atBeat c.entry s, .gqp qid c.cid⟩) s).trans
      (enterChannel_onlyCap (actIndex c.entry) 3 0 _)
    refine ⟨_, hcmd.exec_replayStart hport hregion hoff hlen hspec hbeat hprogram hstate hreadable, ?_⟩
    rw [channelOf_of_cap _ (ctlWait_cap ..), channelOf_enterChannel, channelOf_modChan_self]
    exact ⟨rfl, rfl, rfl, rfl, rfl, hcmd.waits honly.gqp, honly.reg, honly.ti, honly.pu⟩
  case stop =>
    rintro qid cid q c s hq hcmds hstarted hmemory hentry hport ⟨hregion, hoff, hlen, hspec, hbeat⟩ hstate
    obtain ⟨rfl, hcmd⟩ := ctlCommand_of hq hcmds hstarted hmemory hentry
    refine ⟨_, hcmd.exec_replayStop hport hregion hoff hlen hspec hbeat hstate, ?_⟩
    rw [channelOf_of_cap _ (ctlWait_cap ..), channelOf_modChan_self]
    exact ⟨rfl, hcmd.waits (modChan_onlyCap ..).gqp, rfl, rfl, rfl, rfl, rfl⟩
  case status =>
    rintro qid cid q c s hq hcmds hstarted hmemory hentry hport ⟨hregion, hoff, hlen, hspec⟩
    obtain ⟨rfl, hcmd⟩ := ctlCommand_of hq hcmds hstarted hmemory hentry
    have hends := hcmd.ends (t := s) rfl rfl [] (padTo 64 (channelOf (actIndex c.entry) s).sample)
    exact ⟨_, hcmd.exec_replayStatus hport hregion hoff hlen hspec, hends.data (padTo_ne_nil _ (by decide)), hends.sent, hends.cap,
      hends.reg, hends.ti, hends.pu⟩
  case bcs =>
    rintro path input s hopen ⟨hlen, hop, hcode, hrsvd, hregion, hoff, hlength⟩ ⟨hport, hspec⟩
    have hsamples : replayAct none ⟨.bcs path 0xC061, 0, input, []⟩ s =
        success path 0xC061 (zeros 16 ++ padTo 64 (channelOf (actIndex input) s).sample) s :=
      (replayAct_status hcode).trans (doReplayStatus_samples hport hrsvd hregion hoff hlength hspec)
    refine ⟨_, exec_replayControl_plain hopen hlen hop (by simp [actDataIn, hcode]), ?_⟩
    rw [hsamples]
    exact ⟨answered_success .., success_cap .., success_reg .., success_ti .., success_pu ..⟩

end Sys2Proof.Machine
end

section
/-! PROOFS. The channels of replay (10_capture_replay R405 to R414): the start and the stop at their beat, the fetch at the end of a
program, the staging of a frame and its launch. That a frame carries the cycle predicted when it was fetched is the model's choice
(assumption log 58). -/

namespace Sys2Proof.Machine

/-! ### A channel that enters a state (R413, R419) -/

theorem recorded_enterChannel {ch st cause : Nat} {s : State} (hst : (channelOf ch s).state ≠ st) (hroom : eventRoom s = true) :
    recorded 0x0905 (enterChannel ch st cause s) := by
  simp only [enterChannel, if_neg hst]
  exact recorded_raise _ _ _ hroom

/-! ### The start beat (R414, R417) -/

section
variable {ch : Nat} {s : State}

/-- A channel with nothing scheduled and nothing left to fetch has nothing to issue. -/
theorem issueStep_nothing (hitems : (channelOf ch s).items = []) (hended : (channelOf ch s).fetch.ended = true) : issueStep ch s = s := by
  simp [issueStep, hitems, unfetchedDue, hended]

/-- The state with a channel RUNNING from its start beat on. -/
def channelStarted (ch : Nat) (s : State) : State := enterChannel ch 4 0 (modChan ch (fun x => { x with startAt := none }) s)

theorem channelOf_channelStarted (ch : Nat) (s : State) :
    channelOf ch (channelStarted ch s) = { channelOf ch s with startAt := none, state := 4 } := by
  rw [channelStarted, channelOf_enterChannel, channelOf_modChan_self]

theorem exec_channelStartBeat_due {x : Timed} (hstart : (channelOf ch s).startAt = some x) (hdue : x.beat ≤ s.tb.beat)
    (hnobody : x.waiter = .nobody) (hstate : (channelOf ch s).state = 3) (hitems : (channelOf ch s).items = [])
    (hended : (channelOf ch s).fetch.ended = true) : exec (.channelStartBeat ch) s = .next (channelStarted ch s) := by
  have hissue : issueStep ch (channelStarted ch s) = channelStarted ch s :=
    issueStep_nothing (by rw [channelOf_channelStarted]; exact hitems) (by rw [channelOf_channelStarted]; exact hended)
  change execChannelStartBeat ch s = _
  simp only [execChannelStartBeat, hstart, hdue, hstate, hnobody, ctlDone, and_self, if_true]
  exact congrArg Host.Outcome.next hissue

/-! ### The stop beat (R413, R414) -/

/-- A channel with nothing left to send. -/
def clearedChannel (cause : Nat) (x : Channel) : Channel :=
  { x with cause := cause, items := [], due := [], stopAfter := none, startAt := none, fetch := { x.fetch with ended := true } }

/-- A stop for which no START waits (R413). -/
theorem stopChannel_idle {cause : Nat} (hcause : cause ≠ 1) (hstart : (channelOf ch s).startAt = none) :
    stopChannel ch cause s = enterChannel ch 7 cause (modChan ch (clearedChannel cause) s) := by
  simp only [stopChannel, hstart, if_neg hcause]
  rfl

/-- The state with a due STOP gone from a channel. -/
def stopTaken (ch : Nat) (x : Timed) (s : State) : State := modChan ch (fun c => { c with stopAt := c.stopAt.erase x }) s

theorem exec_channelStopBeat_due {x : Timed} (hstop : (channelOf ch s).stopAt = [x]) (hdue : x.beat ≤ s.tb.beat)
    (hnobody : x.waiter = .nobody) (hbusy : channelBusy (channelOf ch s) = true) (hstart : (channelOf ch s).startAt = none) :
    exec (.channelStopBeat ch) s = .next (enterChannel ch 7 0 (modChan ch (clearedChannel 0) (stopTaken ch x s))) := by
  have hfind : (channelOf ch s).stopAt.find? (fun t => decide (t.beat ≤ s.tb.beat)) = some x := by simp [hstop, hdue]
  have hchannel : channelOf ch (stopTaken ch x s) = { channelOf ch s with stopAt := (channelOf ch s).stopAt.erase x } :=
    channelOf_modChan_self ..
  have hstops := stopChannel_idle (s := stopTaken ch x s) (cause := 0) (by decide) (by rw [hchannel]; exact hstart)
  change execChannelStopBeat ch s = _
  simp only [execChannelStopBeat, hfind, hnobody, ctlDone]
  exact congrArg Host.Outcome.next ((if_pos (by rw [← stopTaken, hchannel]; exact hbusy)).trans hstops)

/-! ### The fetch at the end of the program (R409) -/

/-- At the end of the program the position is settled. -/
theorem settlePos_atEnd {prog : List Bytes} {p : ReplayPos} (hend : atEnd prog p = true) (n : Nat) : settlePos prog s n p = p := by
  cases n with
  | zero => rfl
  | succ n =>
    unfold atEnd at hend
    unfold settlePos
    cases hstep : prog[p.step]? with
    | none => rfl
    | some b =>
      rw [hstep] at hend
      have hkind : sKind b = 3 := beq_iff_eq.mp hend
      simp [hkind]

/-- The state with the end of the program in a channel's schedule, and its fetch ended. -/
def scheduleEnded (ch : Nat) (s : State) : State :=
  pushItem ch { kind := .finish, step := (channelOf ch s).fetch.step, cyc := (channelOf ch s).fetch.start * 1024 }
    { (channelOf ch s).fetch with ended := true } (modPos ch (fun _ => (channelOf ch s).fetch) s)

theorem fetchNext_atEnd (hend : atEnd (channelOf ch s).program (channelOf ch s).fetch = true) : fetchNext ch s = scheduleEnded ch s := by
  have hstep := hend
  unfold atEnd at hstep
  simp only [fetchNext, settlePos_atEnd hend]
  split
  next => rfl
  next b hb =>
    rw [hb] at hstep
    rw [if_pos (beq_iff_eq.mp hstep)]
    rfl

theorem channelOf_scheduleEnded (ch : Nat) (s : State) :
    channelOf ch (scheduleEnded ch s) =
      { channelOf ch s with
        items := (channelOf ch s).items ++
          [{ kind := .finish, step := (channelOf ch s).fetch.step, cyc := (channelOf ch s).fetch.start * 1024 }]
        fetch := { (channelOf ch s).fetch with ended := true } } := by
  rw [scheduleEnded, pushItem, channelOf_modChan_self, modPos, channelOf_modChan_self]

/-! ### Staging and launch (R405, R408, R410) -/

theorem exec_recordStaged_first {i : ReplayItem} {rest : List ReplayItem} (hitems : (channelOf ch s).items = i :: rest)
    (hkind : i.kind = .frame) (hstaged : i.staged = false) (hchecked : i.checkLeft = 0) (hknown : mhas ch s.cap.channels = true) :
    ∃ t, exec (.recordStaged ch) s = .next t ∧ OnlyCap s t ∧ t.out = s.out ∧ t.ev = s.ev ∧
      channelOf ch t = { channelOf ch s with items := { i with staged := true } :: rest } := by
  refine ⟨_, if_pos hknown, modChan_onlyCap .., rfl, rfl, ?_⟩
  rw [channelOf_modChan_self, hitems]
  simp [stageFirst, hkind, hstaged, hchecked]

/-- The channel once the next frame of its beat has been launched: the wire is busy for the frame and 20 bytes more. -/
def launchFrame (ch : Nat) (i : ReplayItem) (rest : List ReplayItem) (s : State) (x : Channel) : Channel :=
  { x with
    due := rest, wireFree := max i.cyc x.wireFree + wireCycles ch (i.frame.length + 20) s, sent := x.sent + 1
    late := if i.cyc < x.wireFree then x.late + 1 else x.late }

theorem launchFrame_late (i : ReplayItem) (rest : List ReplayItem) (x : Channel) :
    (launchFrame ch i rest s x).late = x.late + if i.cyc < x.wireFree then 1 else 0 := by
  unfold launchFrame
  split <;> rfl

theorem stopIfDone_none (hstop : (channelOf ch s).stopAfter = none) : stopIfDone ch s = s := by simp only [stopIfDone, hstop]

theorem exec_frameLaunch_good {cycle : Nat} {i : ReplayItem} {rest : List ReplayItem} (hdue : (channelOf ch s).due = i :: rest)
    (hpoison : i.poison = false) (hcheck : i.checkBad = false) (hstop : (channelOf ch s).stopAfter = none)
    (hcycle : s.tb.beat * 1024 + cycle = max i.cyc (channelOf ch s).wireFree) :
    exec (.frameLaunch ch cycle) s =
      .next (modChan ch (launchFrame ch i rest s) (emit (.launch ch ch i.frame false cycle) s)) := by
  have hlate : i.cyc < max i.cyc (channelOf ch s).wireFree ↔ i.cyc < (channelOf ch s).wireFree := by simp
  have hstays : stopIfDone ch (modChan ch (launchFrame ch i rest s) (emit (.launch ch ch i.frame false cycle) s)) =
      modChan ch (launchFrame ch i rest s) (emit (.launch ch ch i.frame false cycle) s) :=
    stopIfDone_none (by rw [channelOf_modChan_self]; exact hstop)
  rw [← hstays]
  change execFrameLaunch ch cycle s = _
  simp only [execFrameLaunch, hdue, hcycle, hpoison, hcheck, hlate, ne_eq, not_true_eq_false, Bool.or_false,
    Bool.false_eq_true, if_false]
  exact congrArg (fun u => Host.Outcome.next (stopIfDone ch u)) (modChan_congr rfl)

end

/-! ### The obligation -/

/-- Settles O52: a clause names what its command does, and reads the channel off it. -/
theorem replayChannelBeatsAndFrames : Obligations.ReplayChannelBeatsAndFrames := by
  unfold Obligations.ReplayChannelBeatsAndFrames
  refine ⟨fun ch x s ⟨hstart, hdue, hnobody, hstate⟩ ⟨hitems, hended, hroom⟩ => ?start,
    fun ch x s ⟨hstop, hdue, hnobody, hbusy, hstart⟩ hroom => ?stop, fun ch s hfetch hend => ?fetch,
    fun ch i rest s ⟨hitems, hkind, hstaged, hchecked⟩ hknown => ?staged,
    fun ch cycle i rest s ⟨hdue, hpoison, hcheck, hstop⟩ hcycle => ?launch⟩
  case start =>
    have honly : OnlyCap s (channelStarted ch s) := (modChan_onlyCap ..).trans (enterChannel_onlyCap ..)
    have hrecorded : recorded 0x0905 (channelStarted ch s) :=
      recorded_enterChannel (by rw [channelOf_modChan_self]; simp [hstate]) hroom
    refine ⟨_, exec_channelStartBeat_due hstart hdue hnobody hstate hitems hended, ?_⟩
    rw [channelOf_channelStarted]
    exact ⟨rfl, rfl, hrecorded, rfl, honly.reg, honly.ti, honly.pu⟩
  case stop =>
    have honly := ((modChan_onlyCap ch _ s).trans (modChan_onlyCap ch (clearedChannel 0) (stopTaken ch x s))).trans
      (enterChannel_onlyCap ch 7 0 _)
    have hchannel : channelOf ch (modChan ch (clearedChannel 0) (stopTaken ch x s)) =
        clearedChannel 0 { channelOf ch s with stopAt := (channelOf ch s).stopAt.erase x } := by
      rw [channelOf_modChan_self, stopTaken, channelOf_modChan_self]
    have hworks : (channelOf ch s).state ≠ 7 := by
      intro hstate
      simp [channelBusy, hstate] at hbusy
    have hrecorded := recorded_enterChannel (st := 7) (cause := 0) (by rw [hchannel]; exact hworks) (by exact hroom)
    refine ⟨_, exec_channelStopBeat_due hstop hdue hnobody hbusy hstart, ?_⟩
    rw [channelOf_enterChannel, hchannel]
    exact ⟨rfl, rfl, by simp [clearedChannel, hstop], rfl, rfl, hrecorded, honly.reg, honly.ti, honly.pu⟩
  case fetch =>
    have hexec : exec (.replayPrefetch ch) s = .next (scheduleEnded ch s) :=
      (if_pos hfetch).trans (congrArg Host.Outcome.next (fetchNext_atEnd hend))
    refine ⟨_, hexec, ?_⟩
    rw [channelOf_scheduleEnded]
    exact ⟨rfl, rfl, rfl, rfl, rfl, rfl, rfl, rfl⟩
  case staged =>
    obtain ⟨t, hexec, honly, hout, hev, hchannel⟩ := exec_recordStaged_first hitems hkind hstaged hchecked hknown
    exact ⟨t, hexec, hchannel, hout, hev, honly.reg, honly.ti, honly.pu⟩
  case launch =>
    refine ⟨_, exec_frameLaunch_good hdue hpoison hcheck hstop hcycle, rfl, ?_⟩
    rw [channelOf_modChan_self]
    exact ⟨rfl, rfl, rfl, launchFrame_late .., rfl, rfl, rfl, rfl⟩

end Sys2Proof.Machine
end

section
/-! PROOFS. The reservation of a nonce window (11_transform_engine R434) while the recorder's queue has room for one event only: the record
of the window may fill its block of the configuration flash, and the erase that follows (15_config_flash_events R558) may report wear (R546). -/

namespace Sys2Proof.Machine

/-! ### What a window record tells the recorder (15_config_flash_events R543 to R546, R557, R558) -/

section
variable {block : Nat} {s : State}

/-- The erase of a block that reaches 100,000 erases is reported (R546). -/
theorem eraseIntent_worn_queue (hcount : 99999 ≤ eraseCount block s) (hnew : s.nor.worn.contains block = false)
    (hroom : s.ev.queue.length < 1024) :
    ∃ e : Event, e.code = 0x0E05 ∧ (eraseIntent block none s).ev.queue = s.ev.queue ++ [e] := by
  have hreport : 100000 ≤ eraseCount block s + 1 := by omega
  simp only [eraseIntent, modNor, counterEntry, hreport, hnew, Bool.not_false, and_self, if_true]
  exact ⟨_, rfl, raise_queue_room _ _ _ hroom⟩

/-- An operation asked of an idle die with nothing waiting begins at once (R545). -/
theorem norSubmit_idle (o : NorOp) (hidle : s.nor.running = none) (hnone : s.nor.waiting = []) : norSubmit o s = beginOp o s := by
  have hdrop : dropOp o (s.nor.waiting ++ [o]) = s.nor.waiting := by simp [hnone, dropOp]
  have hissue : norSubmit o s =
      beginOp o (modNor (fun n => { n with waiting := dropOp o (s.nor.waiting ++ [o]) }) s) := by
    simp [norSubmit, issueOp, modNor, hidle, hnone, nextOp]
  rw [hissue, hdrop]
  rfl

/-- An erase outside the recent area takes no record of the recorder with it: what it tells is its intent. -/
theorem beginOp_erase_queue (hblock : recentBlock block = false) :
    (beginOp (.erase block none) s).ev.queue = (eraseIntent block none s).ev.queue := by
  simp [beginOp, hblock, modNor]

/-- The state with one more window record written, and a suspended erase going on (R544, R557). -/
def windowWritten (s : State) : State := resumeErase (modNor (fun n => { n with windowUsed := n.windowUsed + 1 }) s)

/-- The block that is erased when the window log's block is full (R558). -/
def nextWindowBlock (s : State) : Nat := 6 + (s.nor.windowBlock - 5) % 3

theorem windowRecord_eq (s : State) : windowRecord s =
    if 2048 ≤ s.nor.windowUsed + 1 then norSubmit (.erase (nextWindowBlock s) none) (windowWritten s) else windowWritten s := rfl

theorem windowRecord_onlyLogs (s : State) : OnlyLogs s (windowRecord s) := by
  have hwritten : OnlyLogs s (windowWritten s) := ⟨rfl, List.prefix_rfl, rfl⟩
  rw [windowRecord_eq]
  split
  · exact hwritten.trans (norSubmit_onlyLogs ..)
  · exact hwritten

/-- The record that fills its block is followed by the erase of the next one (R558), which reports the wear of that block (R546). -/
theorem windowRecord_worn_queue (hlast : s.nor.windowUsed = 2047) (hidle : s.nor.running = none) (hnone : s.nor.waiting = [])
    (hcount : 99999 ≤ eraseCount (nextWindowBlock s) s) (hnew : s.nor.worn.contains (nextWindowBlock s) = false)
    (hroom : s.ev.queue.length < 1024) :
    ∃ e : Event, e.code = 0x0E05 ∧ (windowRecord s).ev.queue = s.ev.queue ++ [e] := by
  have hblock : recentBlock (nextWindowBlock s) = false := by
    simp only [recentBlock, nextWindowBlock]
    exact decide_eq_false (by omega)
  have hfull : 2048 ≤ s.nor.windowUsed + 1 := by omega
  rw [windowRecord_eq, if_pos hfull, norSubmit_idle (s := windowWritten s) _ hidle hnone, beginOp_erase_queue hblock]
  exact eraseIntent_worn_queue (s := windowWritten s) hcount hnew hroom

/-- The first nonce window (R434): its record is written before its event is recorded. -/
theorem exec_nonceWindowReservation_first (hwindow : s.te.window = none) (hfree : windowLogFree s = true) (hwait : s.te.waitFrom = none) :
    exec (.nonceWindowReservation 0) s =
      .next (raise 0x0A04 .info (le 8 0) (modTe (fun t => { t with window := some 0 }) (windowRecord s))) := by
  have hstill : (windowRecord s).te.waitFrom = none := by rw [(windowRecord_onlyLogs s).te, hwait]
  change execNonceWindowReservation 0 s = _
  simp [execNonceWindowReservation, hwindow, hfree, modTe, hstill]

end

/-! ### A window whose event is lost -/

/-- A controller that has reserved no nonce window, with room for one more event in its recorder's queue; the next window record fills block
6 of the configuration flash, and block 7 has been erased 99,999 times. -/
def crowdedWindow : State :=
  { State.reset with ev := crowded.ev, nor := { windowUsed := 2047, eraseCounts := [(7, 99999)] } }

/-- The report of the worn block takes the last room in the recorder's queue, and the event 0x0A04 is lost. -/
theorem crowdedWindow_loses_event : ∃ t, exec (.nonceWindowReservation 0) crowdedWindow = .next t ∧ ¬ recorded 0x0A04 t := by
  obtain ⟨e, hcode, hqueue⟩ := windowRecord_worn_queue (s := crowdedWindow) rfl rfl rfl (by decide) rfl
    (crowded_queue_length.trans_lt (by decide))
  refine ⟨_, exec_nonceWindowReservation_first rfl rfl rfl, ?_⟩
  have hqueue : (windowRecord crowdedWindow).ev.queue = crowded.ev.queue ++ [e] := hqueue
  have hfull : 1024 ≤ (windowRecord crowdedWindow).ev.queue.length := by
    rw [hqueue, List.length_append, crowded_queue_length, List.length_singleton]
  rw [recorded, raise_queue_full _ _ _ (by exact hfull), modTe, hqueue]
  rintro ⟨x, hx, hxcode⟩
  rcases List.mem_append.mp hx with hx | hx
  · have hold : x.code = 0x0407 := congrArg Event.code (List.eq_of_mem_replicate hx)
    omega
  · have hnew : x.code = 0x0E05 := (congrArg Event.code (List.mem_singleton.mp hx)).trans hcode
    omega

/-- Refutes O24: room for one event does not suffice for event 0x0A04. The window's record goes first, and where it fills its block, the
erase of the next block may report wear (R546), whose event 0x0E05 takes the room (`crowdedWindow_loses_event`). -/
theorem not_engineSlicesAndNonceWindows : ¬ Obligations.EngineSlicesAndNonceWindows := by
  unfold Obligations.EngineSlicesAndNonceWindows
  rintro ⟨-, -, -, -, hreserved, -, -⟩
  obtain ⟨t, hexec, -, -, hrecorded, -⟩ := hreserved 0 crowdedWindow (.inl ⟨rfl, rfl⟩) rfl rfl crowded_eventRoom
  obtain ⟨u, hexec', hlost⟩ := crowdedWindow_loses_event
  rw [hexec] at hexec'
  cases hexec'
  exact hlost hrecorded

end Sys2Proof.Machine
end

section
/-! PROOFS. Steps and commands as a whole (13_management R482, R485, R491): the command at the front of the queue is what a step runs, every
command keeps what `Keeps` names, every command but a register access outside BAR 0 answers a next state, and every BCS command passes the
executor's gate. -/

namespace Sys2Proof.Machine

/-! ### The queue (the model's log entries 3 and 5) -/

/-- Settles O1: the front of the queue is the command given, and the rest is the queue of the state. -/
theorem stepRunsFrontCommand : Obligations.StepRunsFrontCommand := by
  unfold Obligations.StepRunsFrontCommand
  exact fun _ _ => rfl

theorem step_idle {s : State} (h : s.pending = []) : step s = .next s := by simp only [step, h]

theorem step_front {s : State} {c : Instr} {rest : List Instr} (h : s.pending = c :: rest) :
    step s = exec c { s with pending := rest } := by simp only [step, h]

/-- Settles O2: the queue is empty (`step_idle`), and no word spells a command. -/
theorem emptyQueueIdles : Obligations.EmptyQueueIdles := by
  unfold Obligations.EmptyQueueIdles
  exact ⟨fun _ h => step_idle h, fun _ _ _ => rfl⟩

/-! ### What every step keeps (14_trust R517, R539, 15_config_flash_events R550, R563, R566) -/

/-- Whatever a command does, what `Keeps` names stands: the meaning of each command keeps it. -/
theorem exec_keeps (c : Instr) (s : State) : KeepsNext s (exec c s) := by
  have hk := Keeps.refl s
  cases c with
  | mmioRegisterWrite => exact execMmioRegisterWrite_keeps hk
  | beatBoundary => exact execBeatBoundary_keeps hk
  | beatLoRead => exact execBeatLoRead_keeps hk
  | todLoRead => exact execTodLoRead_keeps hk
  | teNctrLoRead => exact execTeNctrLoRead_keeps hk
  | ueLogLoRead => exact execUeLogLoRead_keeps hk
  | newestLoRead => exact execNewestLoRead_keeps hk
  | transformCycle => exact execTransformCycle_keeps hk
  | backlogLimit => exact execBacklogLimit_keeps hk
  | getSlotTable => exact execGetSlotTable_keeps hk
  | setSlotTable => exact execSetSlotTable_keeps hk
  | activateSlotTable => exact execActivateSlotTable_keeps hk
  | slotTableSwap => exact execSlotTableSwap_keeps hk
  | ptpMessage _ sync => exact execPtpMessage_keeps (_sync := sync) hk
  | ppsInEdge => exact execPpsInEdge_keeps hk
  | timebaseSourceLost => exact execTimebaseSourceLost_keeps hk
  | timebaseLocked => exact execTimebaseLocked_keeps hk
  | ppsOutRise => exact execPpsOutRise_keeps hk
  | ppsOutFall => exact execPpsOutFall_keeps hk
  | writeAdmission => exact execWriteAdmission_keeps hk
  | writeAcknowledge => exact execWriteAcknowledge_keeps hk
  | journalRecordComplete => exact execJournalRecordComplete_keeps hk
  | anchorUpdate => exact execAnchorUpdate_keeps hk
  | persistFence => exact execPersistFence_keeps hk
  | persistFenceComplete => exact execPersistFenceComplete_keeps hk
  | admissionWaitLimit => exact execAdmissionWaitLimit_keeps hk
  | drainComplete => exact execDrainComplete_keeps hk
  | chestVerifyFailure => exact execChestVerifyFailure_keeps hk
  | drawerBankError => exact execDrawerBankError_keeps hk
  | drawerBankDisable => exact execDrawerBankDisable_keeps hk
  | segmentSlotRequest => exact execSegmentSlotRequest_keeps hk
  | slotWaitLimit => exact execSlotWaitLimit_keeps hk
  | pageArrival => exact execPageArrival_keeps hk
  | shelfPageFailure => exact execShelfPageFailure_keeps hk
  | drainPlacement => exact execDrainPlacement_keeps hk
  | checkpointStart => exact execCheckpointStart_keeps hk
  | checkpointComplete => exact execCheckpointComplete_keeps hk
  | rowClose => exact execRowClose_keeps hk
  | rowCloseTimeout => exact execRowCloseTimeout_keeps hk
  | writeBack => exact execWriteBack_keeps hk
  | writeBackComplete => exact execWriteBackComplete_keeps hk
  | relocationComplete => exact execRelocationComplete_keeps hk
  | chunkReadComplete => exact execChunkReadComplete_keeps hk
  | garbageCollection => exact execGarbageCollection_keeps hk
  | freeStripeExhausted => exact execFreeStripeExhausted_keeps hk
  | wearLevelRelocation => exact execWearLevelRelocation_keeps hk
  | readDisturbRefresh => exact execReadDisturbRefresh_keeps hk
  | nandStatusFailure => exact execNandStatusFailure_keeps hk
  | lunFailure => exact execLunFailure_keeps hk
  | rebuildComplete => exact execRebuildComplete_keeps hk
  | opEvaluation => exact execOpEvaluation_keeps hk
  | createRegion => exact execCreateRegion_keeps hk
  | deleteRegion => exact execDeleteRegion_keeps hk
  | resizeRegion => exact execResizeRegion_keeps hk
  | getRegion => exact execGetRegion_keeps hk
  | listRegions => exact execListRegions_keeps hk
  | setRegionAttributes => exact execSetRegionAttributes_keeps hk
  | attachExtent => exact execAttachExtent_keeps hk
  | detachExtent => exact execDetachExtent_keeps hk
  | grantMemoryKey => exact execGrantMemoryKey_keeps hk
  | revokeMemoryKey => exact execRevokeMemoryKey_keeps hk
  | getCapacity => exact execGetCapacity_keeps hk
  | regionChangeBoundary => exact execRegionChangeBoundary_keeps hk
  | regionChangeDrained => exact execRegionChangeDrained_keeps hk
  | readOnlyTakesEffect => exact execReadOnlyTakesEffect_keeps hk
  | domainMaskTakesEffect => exact execDomainMaskTakesEffect_keeps hk
  | formPair => exact execFormPair_keeps hk
  | armPairJoin => exact execArmPairJoin_keeps hk
  | armingExpiry => exact execArmingExpiry_keeps hk
  | dissolvePair => exact execDissolvePair_keeps hk
  | getPairStatus => exact execGetPairStatus_keeps hk
  | moveSeat => exact execMoveSeat_keeps hk
  | moveChair => exact execMoveChair_keeps hk
  | admitReplacement => exact execAdmitReplacement_keeps hk
  | setStandbyChecks => exact execSetStandbyChecks_keeps hk
  | getPairHealth => exact execGetPairHealth_keeps hk
  | forceSeat => exact execForceSeat_keeps hk
  | setWitnessPath => exact execSetWitnessPath_keeps hk
  | hello => exact execHello_keeps hk
  | encapsulationKey => exact execEncapsulationKey_keeps hk
  | kemCiphertext => exact execKemCiphertext_keeps hk
  | formationTimeout => exact execFormationTimeout_keeps hk
  | laneFault => exact execLaneFault_keeps hk
  | mplLinkInService => exact execMplLinkInService_keeps hk
  | batchReceive => exact execBatchReceive_keeps hk
  | batchAck => exact execBatchAck_keeps hk
  | batchNak => exact execBatchNak_keeps hk
  | heartbeat _ chair lease => exact execHeartbeat_keeps (_chairEpoch := chair) (_leaseEpoch := lease) hk
  | heartbeatEcho => exact execHeartbeatEcho_keeps hk
  | taken => exact execTaken_keeps hk
  | witnessHeartbeat => exact execWitnessHeartbeat_keeps hk
  | leaseStopPoint => exact execLeaseStopPoint_keeps hk
  | takeoverDeadline => exact execTakeoverDeadline_keeps hk
  | switchOverComplete => exact execSwitchOverComplete_keeps hk
  | mirrorWrite => exact execMirrorWrite_keeps hk
  | mirrorAccept => exact execMirrorAccept_keeps hk
  | mirrorAbort => exact execMirrorAbort_keeps hk
  | mirrorSeal => exact execMirrorSeal_keeps hk
  | mirrorDone => exact execMirrorDone_keeps hk
  | metaCopy => exact execMetaCopy_keeps hk
  | metaDone => exact execMetaDone_keeps hk
  | fwdRequest => exact execFwdRequest_keeps hk
  | fwdBcs => exact execFwdBcs_keeps hk
  | fwdResponse => exact execFwdResponse_keeps hk
  | bcsResponse => exact execBcsResponse_keeps hk
  | resyncChunk => exact execResyncChunk_keeps hk
  | mplCompare => exact execMplCompare_keeps hk
  | seatMoveComplete => exact execSeatMoveComplete_keeps hk
  | mirrorCompare => exact execMirrorCompare_keeps hk
  | roleSwap => exact execRoleSwap_keeps hk
  | standbySelfTest => exact execStandbySelfTest_keeps hk
  | pairJoin => exact execPairJoin_keeps hk
  | resyncMark => exact execResyncMark_keeps hk
  | resyncComplete => exact execResyncComplete_keeps hk
  | joinWaitTimeout => exact execJoinWaitTimeout_keeps hk
  | headLinkUp => exact execHeadLinkUp_keeps hk
  | headLinkDown => exact execHeadLinkDown_keeps hk
  | perstNAssert => exact execPerstNAssert_keeps hk
  | cxlMemRead => exact execCxlMemRead_keeps hk
  | cxlMemWrite => exact execCxlMemWrite_keeps hk
  | missFillReturn => exact execMissFillReturn_keeps hk
  | victimHandoff => exact execVictimHandoff_keeps hk
  | frontCacheEccError => exact execFrontCacheEccError_keeps hk
  | frontCacheBankEmpty => exact execFrontCacheBankEmpty_keeps hk
  | addDynamicCapacityResponse => exact execAddDynamicCapacityResponse_keeps hk
  | offerTimeout => exact execOfferTimeout_keeps hk
  | releaseDynamicCapacity => exact execReleaseDynamicCapacity_keeps hk
  | detachTimeout => exact execDetachTimeout_keeps hk
  | gpfPhase1 => exact execGpfPhase1_keeps hk
  | gpfPhase2 => exact execGpfPhase2_keeps hk
  | identify => exact execIdentify_keeps hk
  | backgroundOperationStatus => exact execBackgroundOperationStatus_keeps hk
  | getEventRecords => exact execGetEventRecords_keeps hk
  | clearEventRecords => exact execClearEventRecords_keeps hk
  | getEventInterruptPolicy => exact execGetEventInterruptPolicy_keeps hk
  | setEventInterruptPolicy => exact execSetEventInterruptPolicy_keeps hk
  | getFwInfo => exact execGetFwInfo_keeps hk
  | transferFw => exact execTransferFw_keeps hk
  | activateFw => exact execActivateFw_keeps hk
  | getTimestamp => exact execGetTimestamp_keeps hk
  | setTimestamp => exact execSetTimestamp_keeps hk
  | getSupportedLogs => exact execGetSupportedLogs_keeps hk
  | getLog => exact execGetLog_keeps hk
  | identifyMemoryDevice => exact execIdentifyMemoryDevice_keeps hk
  | getPartitionInfo => exact execGetPartitionInfo_keeps hk
  | setPartitionInfo => exact execSetPartitionInfo_keeps hk
  | getLsa => exact execGetLsa_keeps hk
  | setLsa => exact execSetLsa_keeps hk
  | getHealthInfo => exact execGetHealthInfo_keeps hk
  | getAlertConfiguration => exact execGetAlertConfiguration_keeps hk
  | setAlertConfiguration => exact execSetAlertConfiguration_keeps hk
  | getShutdownState => exact execGetShutdownState_keeps hk
  | setShutdownState => exact execSetShutdownState_keeps hk
  | getPoisonList => exact execGetPoisonList_keeps hk
  | injectPoison => exact execInjectPoison_keeps hk
  | clearPoison => exact execClearPoison_keeps hk
  | getScanMediaCapabilities => exact execGetScanMediaCapabilities_keeps hk
  | scanMedia => exact execScanMedia_keeps hk
  | getScanMediaResults => exact execGetScanMediaResults_keeps hk
  | getDynamicCapacityConfiguration => exact execGetDynamicCapacityConfiguration_keeps hk
  | getDynamicCapacityExtentList => exact execGetDynamicCapacityExtentList_keeps hk
  | cxlSanitize => exact execCxlSanitize_keeps hk
  | secureErase => exact execSecureErase_keeps hk
  | getLdInfo => exact execGetLdInfo_keeps hk
  | getLdAllocations => exact execGetLdAllocations_keeps hk
  | setLdAllocations => exact execSetLdAllocations_keeps hk
  | ethLinkChange => exact execEthLinkChange_keeps hk
  | fabricFrame => exact execFabricFrame_keeps hk
  | rdmaWrite => exact execRdmaWrite_keeps hk
  | rdmaWriteWithImmediate => exact execRdmaWriteWithImmediate_keeps hk
  | send => exact execSend_keeps hk
  | sendWithImmediate => exact execSendWithImmediate_keeps hk
  | rdmaRead => exact execRdmaRead_keeps hk
  | compareAndSwap => exact execCompareAndSwap_keeps hk
  | fetchAndAdd => exact execFetchAndAdd_keeps hk
  | atomicWrite => exact execAtomicWrite_keeps hk
  | flush => exact execFlush_keeps hk
  | ack => exact execAck_keeps hk
  | nak => exact execNak_keeps hk
  | rnrNak => exact execRnrNak_keeps hk
  | readResponse => exact execReadResponse_keeps hk
  | atomicAcknowledge => exact execAtomicAcknowledge_keeps hk
  | cnp => exact execCnp_keeps hk
  | rateIncrease => exact execRateIncrease_keeps hk
  | ackTimeout => exact execAckTimeout_keeps hk
  | rnrTimerExpiry => exact execRnrTimerExpiry_keeps hk
  | contextSwapComplete => exact execContextSwapComplete_keeps hk
  | keyRevocation => exact execKeyRevocation_keeps hk
  | revocationComplete => exact execRevocationComplete_keeps hk
  | counterFire => exact execCounterFire_keeps hk
  | workRequestIssue => exact execWorkRequestIssue_keeps hk
  | qpError => exact execQpError_keeps hk
  | createQp => exact execCreateQp_keeps hk
  | modifyQp => exact execModifyQp_keeps hk
  | queryQp => exact execQueryQp_keeps hk
  | destroyQp => exact execDestroyQp_keeps hk
  | setGid => exact execSetGid_keeps hk
  | getPortStatus => exact execGetPortStatus_keeps hk
  | triggerCounter => exact execTriggerCounter_keeps hk
  | mpWrite => exact execMpWrite_keeps hk
  | mpWriteImm => exact execMpWriteImm_keeps hk
  | mpMessageComplete => exact execMpMessageComplete_keeps hk
  | mpReadReq => exact execMpReadReq_keeps hk
  | mpReassemblyTimeout => exact execMpReassemblyTimeout_keeps hk
  | sqTailDoorbell => exact execSqTailDoorbell_keeps hk
  | cqHeadDoorbell => exact execCqHeadDoorbell_keeps hk
  | aqEnable => exact execAqEnable_keeps hk
  | aqDisable => exact execAqDisable_keeps hk
  | aqReady => exact execAqReady_keeps hk
  | commandFetch => exact execCommandFetch_keeps hk
  | inFlightLimitHeld => exact execInFlightLimitHeld_keeps hk
  | read => exact execRead_keeps hk
  | write => exact execWrite_keeps hk
  | writeZeroes => exact execWriteZeroes_keeps hk
  | copy => exact execCopy_keeps hk
  | compare => exact execCompare_keeps hk
  | drainToCabinet => exact execDrainToCabinet_keeps hk
  | drainToCabinetComplete => exact execDrainToCabinetComplete_keeps hk
  | checkValue => exact execCheckValue_keeps hk
  | scanPattern => exact execScanPattern_keeps hk
  | sealData => exact execSeal_keeps hk
  | unsealData => exact execUnseal_keeps hk
  | triggerArm => exact execTriggerArm_keeps hk
  | triggerArmEffect => exact execTriggerArmEffect_keeps hk
  | bcsTunnel => exact execBcsTunnel_keeps hk
  | createQueuePair => exact execCreateQueuePair_keeps hk
  | deleteQueuePair => exact execDeleteQueuePair_keeps hk
  | queryQueuePair => exact execQueryQueuePair_keeps hk
  | commandCapsule => exact execCommandCapsule_keeps hk
  | transferReadySend => exact execTransferReadySend_keeps hk
  | pieceDelivery => exact execPieceDelivery_keeps hk
  | transferTimeout => exact execTransferTimeout_keeps hk
  | notice => exact execNotice_keeps hk
  | interruptAggregationExpiry => exact execInterruptAggregationExpiry_keeps hk
  | hostMemoryFailure => exact execHostMemoryFailure_keeps hk
  | instrumentFrame => exact execInstrumentFrame_keeps hk
  | stagedChunkProgram => exact execStagedChunkProgram_keeps hk
  | stagedChunkTimeout => exact execStagedChunkTimeout_keeps hk
  | stagedBacklogExceeded => exact execStagedBacklogExceeded_keeps hk
  | captureConfigure => exact execCaptureConfigure_keeps hk
  | setRules => exact execSetRules_keeps hk
  | ruleSetActivation => exact execRuleSetActivation_keeps hk
  | captureStart => exact execCaptureStart_keeps hk
  | ringStartBeat => exact execRingStartBeat_keeps hk
  | captureStop => exact execCaptureStop_keeps hk
  | ringStopBeat => exact execRingStopBeat_keeps hk
  | captureStatus => exact execCaptureStatus_keeps hk
  | release => exact execRelease_keeps hk
  | tailRelease => exact execTailRelease_keeps hk
  | replayConfigure => exact execReplayConfigure_keeps hk
  | load => exact execLoad_keeps hk
  | replayStart => exact execReplayStart_keeps hk
  | channelStartBeat => exact execChannelStartBeat_keeps hk
  | replayStop => exact execReplayStop_keeps hk
  | channelStopBeat => exact execChannelStopBeat_keeps hk
  | replayStatus => exact execReplayStatus_keeps hk
  | captureControl => exact execCaptureControl_keeps hk
  | replayControl => exact execReplayControl_keeps hk
  | replayPrefetch => exact execReplayPrefetch_keeps hk
  | recordStaged => exact execRecordStaged_keeps hk
  | frameLaunch => exact execFrameLaunch_keeps hk
  | sliceFault => exact execSliceFault_keeps hk
  | spareSliceActivation => exact execSpareSliceActivation_keeps hk
  | nonceWindowReservation => exact execNonceWindowReservation_keeps hk
  | keySlotChangeEffect => exact execKeySlotChangeEffect_keeps hk
  | uncorrectableError => exact execUncorrectableError_keeps hk
  | dirtyPageRecovery => exact execDirtyPageRecovery_keeps hk
  | recentWriteMapRebuild => exact execRecentWriteMapRebuild_keeps hk
  | mapPageRebuild => exact execMapPageRebuild_keeps hk
  | startScrub => exact execStartScrub_keeps hk
  | getScrubSummary => exact execGetScrubSummary_keeps hk
  | scrubEnd => exact execScrubEnd_keeps hk
  | stackTemperatureReading => exact execStackTemperatureReading_keeps hk
  | bandChangeQuiesce => exact execBandChangeQuiesce_keeps hk
  | fullRateChange => exact execFullRateChange_keeps hk
  | refreshDue => exact execRefreshDue_keeps hk
  | lockstepMismatch => exact execLockstepMismatch_keeps hk
  | watchdogExpiry => exact execWatchdogExpiry_keeps hk
  | complexRestartComplete => exact execComplexRestartComplete_keeps hk
  | backgroundCommandComplete => exact execBackgroundCommandComplete_keeps hk
  | fwTransferTimeout => exact execFwTransferTimeout_keeps hk
  | activationSelfCheckTimeout => exact execActivationSelfCheckTimeout_keeps hk
  | registerWrite => exact execRegisterWrite_keeps hk
  | registerRead => exact execRegisterRead_keeps hk
  | bcsLoad => exact execBcsLoad_keeps hk
  | bcsExecute => exact execBcsExecute_keeps hk
  | bcsStatus => exact execBcsStatus_keeps hk
  | bcsFetch => exact execBcsFetch_keeps hk
  | smbusAddressMatch => exact execSmbusAddressMatch_keeps hk
  | smbusTimeout => exact execSmbusTimeout_keeps hk
  | getUnitPower => exact execGetUnitPower_keeps hk
  | setUnitPower => exact execSetUnitPower_keeps hk
  | getParameter => exact execGetParameter_keeps hk
  | setParameter => exact execSetParameter_keeps hk
  | listParameters => exact execListParameters_keeps hk
  | enterDeviceStandby => exact execEnterDeviceStandby_keeps hk
  | readEvents => exact execReadEvents_keeps hk
  | getRecorderStatus => exact execGetRecorderStatus_keeps hk
  | identifyController => exact execIdentifyController_keeps hk
  | getIdentityKey => exact execGetIdentityKey_keeps hk
  | getAttestationReport => exact execGetAttestationReport_keeps hk
  | getProtectionLevel => exact execGetProtectionLevel_keeps hk
  | setProtectionLevel => exact execSetProtectionLevel_keeps hk
  | sanitize => exact execSanitize_keeps hk
  | getSparesInventory => exact execGetSparesInventory_keeps hk
  | getEraseCounts => exact execGetEraseCounts_keeps hk
  | getStripeState => exact execGetStripeState_keeps hk
  | readWearLog => exact execReadWearLog_keeps hk
  | getSequencerStatus => exact execGetSequencerStatus_keeps hk
  | clearLockout => exact execClearLockout_keeps hk
  | powerDown => exact execPowerDown_keeps hk
  | bindTransformStream => exact execBindTransformStream_keeps hk
  | rollbackFuseUpdate => exact execRollbackFuseUpdate_keeps hk
  | signingWindowReservation => exact execSigningWindowReservation_keeps hk
  | keyUnitReady => exact execKeyUnitReady_keeps hk
  | norOperationComplete => exact execNorOperationComplete_keeps hk
  | eraseSuspend => exact execEraseSuspend_keeps hk
  | counterLogCompaction => exact execCounterLogCompaction_keeps hk
  | hourEntry => exact execHourEntry_keeps hk
  | eventRecordWrite => exact execEventRecordWrite_keeps hk
  | pendingEventRelay => exact execPendingEventRelay_keeps hk
  | vstbyApplied => exact execVstbyApplied_keeps hk
  | vstbyCollapse => exact execVstbyCollapse_keeps hk
  | powerUpStart => exact execPowerUpStart_keeps hk
  | railDebounceComplete => exact execRailDebounceComplete_keeps hk
  | stepGapEnd => exact execStepGapEnd_keeps hk
  | stepTimeout => exact execStepTimeout_keeps hk
  | retryWaitEnd => exact execRetryWaitEnd_keeps hk
  | railLow => exact execRailLow_keeps hk
  | fallTimeout => exact execFallTimeout_keeps hk
  | powerGoodLoss => exact execPowerGoodLoss_keeps hk
  | pfailNAssert => exact execPfailNAssert_keeps hk
  | vinSenseTrip => exact execVinSenseTrip_keeps hk
  | inputRecovered => exact execInputRecovered_keeps hk
  | wdiEdge => exact execWdiEdge_keeps hk
  | wdiWindowExpiry => exact execWdiWindowExpiry_keeps hk
  | thermalReading => exact execThermalReading_keeps hk
  | idleTimerEntry => exact execIdleTimerEntry_keeps hk
  | unitWorkArrival => exact execUnitWorkArrival_keeps hk
  | commandedStateEntry => exact execCommandedStateEntry_keeps hk
  | padHoldRelease => exact execPadHoldRelease_keeps hk
  | wakeNLow => exact execWakeNLow_keeps hk
  | resetNAssert => exact execResetNAssert_keeps hk
  | resetNDeassert => exact execResetNDeassert_keeps hk
  | sysRefclkLoss => exact execSysRefclkLoss_keeps hk
  | startUpRomPhase => exact execStartUpRomPhase_keeps hk
  | startUpFirmwarePhase => exact execStartUpFirmwarePhase_keeps hk
  | startUpJournalPhase => exact execStartUpJournalPhase_keeps hk
  | startUpMapPhase => exact execStartUpMapPhase_keeps hk
  | startUpRegionsPhase => exact execStartUpRegionsPhase_keeps hk
  | startUpLinksPhase => exact execStartUpLinksPhase_keeps hk
  | warmUpEnd => exact execWarmUpEnd_keeps hk
  | warmUpTimeout => exact execWarmUpTimeout_keeps hk
  | switchOverBound => exact execSwitchOverBound_keeps hk
  | clk25InLoss => exact execClk25InLoss_keeps hk
  | perstNDeassert => exact execPerstNDeassert_keeps hk
  | headLinkPowerStateChange => exact execHeadLinkPowerStateChange_keeps hk
  | jtagInstruction => exact execJtagInstruction_keeps hk
  | dcdManagementCommand => exact execDcdManagementCommand_keeps hk

/-- A step keeps what `Keeps` names, but for the command that it takes from the queue. -/
theorem step_keeps {s t : State} (h : step s = .next t) : Keeps { s with pending := s.pending.tail } t := by
  cases hq : s.pending with
  | nil =>
    rw [step_idle hq] at h
    cases h
    have hsame : { s with pending := List.tail [] } = s := by rw [List.tail_nil, ← hq]
    rw [hsame]
    exact .refl s
  | cons c rest =>
    rw [step_front hq] at h
    exact exec_keeps c _ t h

theorem Keeps.boundedEvents {a b : State} (h : Keeps a b) (ha : boundedEvents a = true) : boundedEvents b = true := by
  simp only [Machine.boundedEvents, Bool.and_eq_true, decide_eq_true_eq] at ha ⊢
  exact ⟨h.ev.queue ha.1, h.ev.supPending ha.2⟩

/-- Settles O56: the queue is the one without its front, and the rest is what every command keeps (`step_keeps`). The queue, the list of what
has left the block and the draws are the model's conventions (log entries 1, 2, 3, 14 and 179). -/
theorem everyStepKeepsMemoriesAndBuffers : Obligations.EveryStepKeepsMemoriesAndBuffers := by
  unfold Obligations.EveryStepKeepsMemoriesAndBuffers
  intro s t h
  have k := step_keeps h
  exact ⟨k.pending, k.out, k.free, k.canonical, k.boundedEvents⟩

/-- Settles O57: no byte memory holds a cell after reset, and the event buffers are empty. -/
theorem resetIsCanonicalAndBounded : Obligations.ResetIsCanonicalAndBounded := by
  unfold Obligations.ResetIsCanonicalAndBounded
  exact ⟨rfl, rfl, rfl⟩

/-- Settles O58: the fuses, the secret and the counts are among what every command keeps (`step_keeps`, 14_trust R513, R517, R539,
15_config_flash_events R550, R562, 17_startup_service_life R612). -/
theorem fusesSecretAndCountsStand : Obligations.FusesSecretAndCountsStand := by
  unfold Obligations.FusesSecretAndCountsStand
  intro s t h
  obtain ⟨-, -, -, htrust, hev, -, -, -, -⟩ := step_keeps h
  exact ⟨htrust.dus, htrust.rollback, htrust.level2, htrust.floors, hev.cycles, hev.hours, hev.nextIndex, hev.wearIndex⟩

/-! ### Every command answers, but for a register access outside BAR 0 (R485, the model's log entry 166) -/

/-- An outcome is a next state: neither a fault nor a refusal. -/
def AnswersNext (o : Host.Outcome State Fault Refusal) : Prop := ∃ t, o = .next t

theorem answersNext_next (s : State) : AnswersNext (.next s) := ⟨s, rfl⟩

theorem answersNext_ite {p : Prop} [Decidable p] {a b : Host.Outcome State Fault Refusal} (ha : AnswersNext a) (hb : AnswersNext b) :
    AnswersNext (if p then a else b) := by
  split
  · exact ha
  · exact hb

/-- An offset that does not count as outside BAR 0 lies in it. -/
theorem lt_of_not_outside {n : Nat} (h : (if 0x80000 ≤ n then some n else none) = none) : n < 0x80000 := by
  split at h
  · cases h
  · omega

/-- An offset that counts as outside BAR 0 is the access's, and lies past its end. -/
theorem outside_iff {n off : Nat} : (if 0x80000 ≤ n then some n else none) = some off ↔ 0x80000 ≤ n ∧ n = off := by
  split <;> simp_all

/-- A command that reaches no register outside BAR 0 answers a next state: its meaning is one, or one behind a guard, or behind lookups each
case of which is one. -/
theorem exec_answersNext {c : Instr} {s : State} (hinside : outsideOf c = none) : AnswersNext (exec c s) := by
  cases c with
  | mmioRegisterWrite src offset value => exact ⟨_, exec_mmioRegisterWrite_inside src value s (lt_of_not_outside hinside)⟩
  | registerWrite address value pecOk => exact ⟨_, exec_registerWrite_inside value pecOk s (lt_of_not_outside hinside)⟩
  | registerRead address pecOk => exact ⟨_, exec_registerRead_inside pecOk s (lt_of_not_outside hinside)⟩
  | backlogLimit | ptpMessage | ppsInEdge | timebaseSourceLost | ppsOutRise | ppsOutFall | anchorUpdate | admissionWaitLimit |
    drawerBankDisable | slotWaitLimit | freeStripeExhausted | readDisturbRefresh | opEvaluation | mplLinkInService | heartbeatEcho |
    switchOverComplete | metaCopy | roleSwap | pairJoin | headLinkUp | perstNAssert | cxlMemRead | cxlMemWrite | frontCacheBankEmpty
    | gpfPhase1 | gpfPhase2 | inFlightLimitHeld | stagedBacklogExceeded | replayPrefetch | recordStaged | rollbackFuseUpdate |
    signingWindowReservation | keyUnitReady | counterLogCompaction | hourEntry | pendingEventRelay | vstbyApplied | retryWaitEnd |
    fallTimeout | startUpRomPhase | startUpRegionsPhase | startUpLinksPhase | warmUpEnd | warmUpTimeout | switchOverBound =>
    exact answersNext_ite (answersNext_next _) (answersNext_next _)
  | beatBoundary => show AnswersNext (execBeatBoundary ..); fun_cases execBeatBoundary <;> exact answersNext_next _
  | transformCycle => show AnswersNext (execTransformCycle ..); fun_cases execTransformCycle <;> exact answersNext_next _
  | slotTableSwap => show AnswersNext (execSlotTableSwap ..); fun_cases execSlotTableSwap <;> exact answersNext_next _
  | timebaseLocked => show AnswersNext (execTimebaseLocked ..); fun_cases execTimebaseLocked <;> exact answersNext_next _
  | writeAdmission => show AnswersNext (execWriteAdmission ..); fun_cases execWriteAdmission <;> exact answersNext_next _
  | writeAcknowledge => show AnswersNext (execWriteAcknowledge ..); fun_cases execWriteAcknowledge <;> exact answersNext_next _
  | journalRecordComplete => show AnswersNext (execJournalRecordComplete ..); fun_cases execJournalRecordComplete <;> exact answersNext_next _
  | persistFenceComplete => show AnswersNext (execPersistFenceComplete ..); fun_cases execPersistFenceComplete <;> exact answersNext_next _
  | drainComplete => show AnswersNext (execDrainComplete ..); fun_cases execDrainComplete <;> exact answersNext_next _
  | chestVerifyFailure => show AnswersNext (execChestVerifyFailure ..); fun_cases execChestVerifyFailure <;> exact answersNext_next _
  | drawerBankError => show AnswersNext (execDrawerBankError ..); fun_cases execDrawerBankError <;> exact answersNext_next _
  | segmentSlotRequest => show AnswersNext (execSegmentSlotRequest ..); fun_cases execSegmentSlotRequest <;> exact answersNext_next _
  | pageArrival => show AnswersNext (execPageArrival ..); fun_cases execPageArrival <;> exact answersNext_next _
  | drainPlacement => show AnswersNext (execDrainPlacement ..); fun_cases execDrainPlacement <;> exact answersNext_next _
  | checkpointStart => show AnswersNext (execCheckpointStart ..); fun_cases execCheckpointStart <;> exact answersNext_next _
  | checkpointComplete => show AnswersNext (execCheckpointComplete ..); fun_cases execCheckpointComplete <;> exact answersNext_next _
  | rowClose => show AnswersNext (execRowClose ..); fun_cases execRowClose <;> exact answersNext_next _
  | rowCloseTimeout => show AnswersNext (execRowCloseTimeout ..); fun_cases execRowCloseTimeout <;> exact answersNext_next _
  | writeBack => show AnswersNext (execWriteBack ..); fun_cases execWriteBack <;> exact answersNext_next _
  | writeBackComplete => show AnswersNext (execWriteBackComplete ..); fun_cases execWriteBackComplete <;> exact answersNext_next _
  | relocationComplete => show AnswersNext (execRelocationComplete ..); fun_cases execRelocationComplete <;> exact answersNext_next _
  | chunkReadComplete => show AnswersNext (execChunkReadComplete ..); fun_cases execChunkReadComplete <;> exact answersNext_next _
  | garbageCollection => show AnswersNext (execGarbageCollection ..); fun_cases execGarbageCollection <;> exact answersNext_next _
  | wearLevelRelocation => show AnswersNext (execWearLevelRelocation ..); fun_cases execWearLevelRelocation <;> exact answersNext_next _
  | rebuildComplete => show AnswersNext (execRebuildComplete ..); fun_cases execRebuildComplete <;> exact answersNext_next _
  | regionChangeBoundary => show AnswersNext (execRegionChangeBoundary ..); fun_cases execRegionChangeBoundary <;> exact answersNext_next _
  | regionChangeDrained => show AnswersNext (execRegionChangeDrained ..); fun_cases execRegionChangeDrained <;> exact answersNext_next _
  | readOnlyTakesEffect => show AnswersNext (execReadOnlyTakesEffect ..); fun_cases execReadOnlyTakesEffect <;> exact answersNext_next _
  | domainMaskTakesEffect => show AnswersNext (execDomainMaskTakesEffect ..); fun_cases execDomainMaskTakesEffect <;> exact answersNext_next _
  | armingExpiry => show AnswersNext (execArmingExpiry ..); fun_cases execArmingExpiry <;> exact answersNext_next _
  | hello => show AnswersNext (execHello ..); fun_cases execHello <;> exact answersNext_next _
  | encapsulationKey => show AnswersNext (execEncapsulationKey ..); fun_cases execEncapsulationKey <;> exact answersNext_next _
  | kemCiphertext => show AnswersNext (execKemCiphertext ..); fun_cases execKemCiphertext <;> exact answersNext_next _
  | formationTimeout => show AnswersNext (execFormationTimeout ..); fun_cases execFormationTimeout <;> exact answersNext_next _
  | laneFault => show AnswersNext (execLaneFault ..); fun_cases execLaneFault <;> exact answersNext_next _
  | batchReceive => show AnswersNext (execBatchReceive ..); fun_cases execBatchReceive <;> exact answersNext_next _
  | batchNak => show AnswersNext (execBatchNak ..); fun_cases execBatchNak <;> exact answersNext_next _
  | heartbeat h chair lease => show AnswersNext (execHeartbeat h chair lease s); fun_cases execHeartbeat <;> exact answersNext_next _
  | witnessHeartbeat => show AnswersNext (execWitnessHeartbeat ..); fun_cases execWitnessHeartbeat <;> exact answersNext_next _
  | leaseStopPoint => show AnswersNext (execLeaseStopPoint ..); fun_cases execLeaseStopPoint <;> exact answersNext_next _
  | takeoverDeadline => show AnswersNext (execTakeoverDeadline ..); fun_cases execTakeoverDeadline <;> exact answersNext_next _
  | mirrorWrite => show AnswersNext (execMirrorWrite ..); fun_cases execMirrorWrite <;> exact answersNext_next _
  | mirrorAbort => show AnswersNext (execMirrorAbort ..); fun_cases execMirrorAbort <;> exact answersNext_next _
  | metaDone => show AnswersNext (execMetaDone ..); fun_cases execMetaDone <;> exact answersNext_next _
  | fwdResponse => show AnswersNext (execFwdResponse ..); fun_cases execFwdResponse <;> exact answersNext_next _
  | bcsResponse => show AnswersNext (execBcsResponse ..); fun_cases execBcsResponse <;> exact answersNext_next _
  | resyncChunk => show AnswersNext (execResyncChunk ..); fun_cases execResyncChunk <;> exact answersNext_next _
  | mplCompare => show AnswersNext (execMplCompare ..); fun_cases execMplCompare <;> exact answersNext_next _
  | seatMoveComplete => show AnswersNext (execSeatMoveComplete ..); fun_cases execSeatMoveComplete <;> exact answersNext_next _
  | mirrorCompare => show AnswersNext (execMirrorCompare ..); fun_cases execMirrorCompare <;> exact answersNext_next _
  | standbySelfTest => show AnswersNext (execStandbySelfTest ..); fun_cases execStandbySelfTest <;> exact answersNext_next _
  | resyncMark => show AnswersNext (execResyncMark ..); fun_cases execResyncMark <;> exact answersNext_next _
  | resyncComplete => show AnswersNext (execResyncComplete ..); fun_cases execResyncComplete <;> exact answersNext_next _
  | joinWaitTimeout => show AnswersNext (execJoinWaitTimeout ..); fun_cases execJoinWaitTimeout <;> exact answersNext_next _
  | missFillReturn => show AnswersNext (execMissFillReturn ..); fun_cases execMissFillReturn <;> exact answersNext_next _
  | victimHandoff => show AnswersNext (execVictimHandoff ..); fun_cases execVictimHandoff <;> exact answersNext_next _
  | offerTimeout => show AnswersNext (execOfferTimeout ..); fun_cases execOfferTimeout <;> exact answersNext_next _
  | detachTimeout => show AnswersNext (execDetachTimeout ..); fun_cases execDetachTimeout <;> exact answersNext_next _
  | ethLinkChange => show AnswersNext (execEthLinkChange ..); fun_cases execEthLinkChange <;> exact answersNext_next _
  | fabricFrame => show AnswersNext (execFabricFrame ..); fun_cases execFabricFrame <;> exact answersNext_next _
  | ack => show AnswersNext (execAck ..); fun_cases execAck <;> exact answersNext_next _
  | nak => show AnswersNext (execNak ..); fun_cases execNak <;> exact answersNext_next _
  | rnrNak => show AnswersNext (execRnrNak ..); fun_cases execRnrNak <;> exact answersNext_next _
  | readResponse => show AnswersNext (execReadResponse ..); fun_cases execReadResponse <;> exact answersNext_next _
  | atomicAcknowledge => show AnswersNext (execAtomicAcknowledge ..); fun_cases execAtomicAcknowledge <;> exact answersNext_next _
  | cnp => show AnswersNext (execCnp ..); fun_cases execCnp <;> exact answersNext_next _
  | rateIncrease => show AnswersNext (execRateIncrease ..); fun_cases execRateIncrease <;> exact answersNext_next _
  | ackTimeout => show AnswersNext (execAckTimeout ..); fun_cases execAckTimeout <;> exact answersNext_next _
  | rnrTimerExpiry => show AnswersNext (execRnrTimerExpiry ..); fun_cases execRnrTimerExpiry <;> exact answersNext_next _
  | contextSwapComplete => show AnswersNext (execContextSwapComplete ..); fun_cases execContextSwapComplete <;> exact answersNext_next _
  | keyRevocation => show AnswersNext (execKeyRevocation ..); fun_cases execKeyRevocation <;> exact answersNext_next _
  | revocationComplete => show AnswersNext (execRevocationComplete ..); fun_cases execRevocationComplete <;> exact answersNext_next _
  | counterFire => show AnswersNext (execCounterFire ..); fun_cases execCounterFire <;> exact answersNext_next _
  | workRequestIssue => show AnswersNext (execWorkRequestIssue ..); fun_cases execWorkRequestIssue <;> exact answersNext_next _
  | qpError => show AnswersNext (execQpError ..); fun_cases execQpError <;> exact answersNext_next _
  | mpMessageComplete => show AnswersNext (execMpMessageComplete ..); fun_cases execMpMessageComplete <;> exact answersNext_next _
  | mpReadReq => show AnswersNext (execMpReadReq ..); fun_cases execMpReadReq <;> exact answersNext_next _
  | mpReassemblyTimeout => show AnswersNext (execMpReassemblyTimeout ..); fun_cases execMpReassemblyTimeout <;> exact answersNext_next _
  | aqReady => show AnswersNext (execAqReady ..); fun_cases execAqReady <;> exact answersNext_next _
  | commandFetch => show AnswersNext (execCommandFetch ..); fun_cases execCommandFetch <;> exact answersNext_next _
  | drainToCabinetComplete =>
    show AnswersNext (execDrainToCabinetComplete ..); fun_cases execDrainToCabinetComplete <;> exact answersNext_next _
  | triggerArmEffect => show AnswersNext (execTriggerArmEffect ..); fun_cases execTriggerArmEffect <;> exact answersNext_next _
  | transferReadySend => show AnswersNext (execTransferReadySend ..); fun_cases execTransferReadySend <;> exact answersNext_next _
  | pieceDelivery => show AnswersNext (execPieceDelivery ..); fun_cases execPieceDelivery <;> exact answersNext_next _
  | transferTimeout => show AnswersNext (execTransferTimeout ..); fun_cases execTransferTimeout <;> exact answersNext_next _
  | notice => show AnswersNext (execNotice ..); fun_cases execNotice <;> exact answersNext_next _
  | interruptAggregationExpiry =>
    show AnswersNext (execInterruptAggregationExpiry ..); fun_cases execInterruptAggregationExpiry <;> exact answersNext_next _
  | hostMemoryFailure => show AnswersNext (execHostMemoryFailure ..); fun_cases execHostMemoryFailure <;> exact answersNext_next _
  | instrumentFrame => show AnswersNext (execInstrumentFrame ..); fun_cases execInstrumentFrame <;> exact answersNext_next _
  | ruleSetActivation => show AnswersNext (execRuleSetActivation ..); fun_cases execRuleSetActivation <;> exact answersNext_next _
  | ringStartBeat => show AnswersNext (execRingStartBeat ..); fun_cases execRingStartBeat <;> exact answersNext_next _
  | ringStopBeat => show AnswersNext (execRingStopBeat ..); fun_cases execRingStopBeat <;> exact answersNext_next _
  | tailRelease => show AnswersNext (execTailRelease ..); fun_cases execTailRelease <;> exact answersNext_next _
  | channelStartBeat => show AnswersNext (execChannelStartBeat ..); fun_cases execChannelStartBeat <;> exact answersNext_next _
  | channelStopBeat => show AnswersNext (execChannelStopBeat ..); fun_cases execChannelStopBeat <;> exact answersNext_next _
  | frameLaunch => show AnswersNext (execFrameLaunch ..); fun_cases execFrameLaunch <;> exact answersNext_next _
  | sliceFault => show AnswersNext (execSliceFault ..); fun_cases execSliceFault <;> exact answersNext_next _
  | spareSliceActivation => show AnswersNext (execSpareSliceActivation ..); fun_cases execSpareSliceActivation <;> exact answersNext_next _
  | nonceWindowReservation =>
    show AnswersNext (execNonceWindowReservation ..); fun_cases execNonceWindowReservation <;> exact answersNext_next _
  | dirtyPageRecovery => show AnswersNext (execDirtyPageRecovery ..); fun_cases execDirtyPageRecovery <;> exact answersNext_next _
  | recentWriteMapRebuild => show AnswersNext (execRecentWriteMapRebuild ..); fun_cases execRecentWriteMapRebuild <;> exact answersNext_next _
  | mapPageRebuild => show AnswersNext (execMapPageRebuild ..); fun_cases execMapPageRebuild <;> exact answersNext_next _
  | scrubEnd => show AnswersNext (execScrubEnd ..); fun_cases execScrubEnd <;> exact answersNext_next _
  | bandChangeQuiesce => show AnswersNext (execBandChangeQuiesce ..); fun_cases execBandChangeQuiesce <;> exact answersNext_next _
  | fullRateChange => show AnswersNext (execFullRateChange ..); fun_cases execFullRateChange <;> exact answersNext_next _
  | refreshDue => show AnswersNext (execRefreshDue ..); fun_cases execRefreshDue <;> exact answersNext_next _
  | backgroundCommandComplete =>
    show AnswersNext (execBackgroundCommandComplete ..); fun_cases execBackgroundCommandComplete <;> exact answersNext_next _
  | fwTransferTimeout => show AnswersNext (execFwTransferTimeout ..); fun_cases execFwTransferTimeout <;> exact answersNext_next _
  | activationSelfCheckTimeout =>
    show AnswersNext (execActivationSelfCheckTimeout ..); fun_cases execActivationSelfCheckTimeout <;> exact answersNext_next _
  | smbusAddressMatch => show AnswersNext (execSmbusAddressMatch ..); fun_cases execSmbusAddressMatch <;> exact answersNext_next _
  | norOperationComplete => show AnswersNext (execNorOperationComplete ..); fun_cases execNorOperationComplete <;> exact answersNext_next _
  | eraseSuspend => show AnswersNext (execEraseSuspend ..); fun_cases execEraseSuspend <;> exact answersNext_next _
  | eventRecordWrite => show AnswersNext (execEventRecordWrite ..); fun_cases execEventRecordWrite <;> exact answersNext_next _
  | railDebounceComplete => show AnswersNext (execRailDebounceComplete ..); fun_cases execRailDebounceComplete <;> exact answersNext_next _
  | railLow => show AnswersNext (execRailLow ..); fun_cases execRailLow <;> exact answersNext_next _
  | powerGoodLoss => show AnswersNext (execPowerGoodLoss ..); fun_cases execPowerGoodLoss <;> exact answersNext_next _
  | wdiEdge => show AnswersNext (execWdiEdge ..); fun_cases execWdiEdge <;> exact answersNext_next _
  | thermalReading => show AnswersNext (execThermalReading ..); fun_cases execThermalReading <;> exact answersNext_next _
  | idleTimerEntry => show AnswersNext (execIdleTimerEntry ..); fun_cases execIdleTimerEntry <;> exact answersNext_next _
  | commandedStateEntry => show AnswersNext (execCommandedStateEntry ..); fun_cases execCommandedStateEntry <;> exact answersNext_next _
  | wakeNLow => show AnswersNext (execWakeNLow ..); fun_cases execWakeNLow <;> exact answersNext_next _
  | startUpFirmwarePhase => show AnswersNext (execStartUpFirmwarePhase ..); fun_cases execStartUpFirmwarePhase <;> exact answersNext_next _
  | startUpJournalPhase => show AnswersNext (execStartUpJournalPhase ..); fun_cases execStartUpJournalPhase <;> exact answersNext_next _
  | startUpMapPhase => show AnswersNext (execStartUpMapPhase ..); fun_cases execStartUpMapPhase <;> exact answersNext_next _
  | dcdManagementCommand => show AnswersNext (execDcdManagementCommand ..); fun_cases execDcdManagementCommand <;> exact answersNext_next _
  | _ => exact answersNext_next _

/-- A register access outside BAR 0 faults with its offset. -/
theorem exec_outside {c : Instr} {off : Nat} {s : State} (houtside : outsideOf c = some off) : exec c s = .fault (.outsideBar off) := by
  cases c with
  | mmioRegisterWrite src offset value =>
    obtain ⟨hout, rfl⟩ := outside_iff.mp houtside
    exact exec_mmioRegisterWrite_outside src value s hout
  | registerWrite address value pecOk =>
    obtain ⟨hout, rfl⟩ := outside_iff.mp houtside
    exact if_pos hout
  | registerRead address pecOk =>
    obtain ⟨hout, rfl⟩ := outside_iff.mp houtside
    exact if_pos hout
  | _ => cases houtside

/-- Settles O59: every meaning answers (`exec_answersNext`), and an access outside BAR 0 faults (`exec_outside`), as the model's log entry 166
reads R485. -/
theorem everyCommandCompletes : Obligations.EveryCommandCompletes := by
  unfold Obligations.EveryCommandCompletes
  exact ⟨fun _ _ h => exec_answersNext h, fun _ _ _ h => exec_outside h⟩

/-! ### The executor's gate (R480, R482, R491, R510, the model's log entry 158) -/

/-- A command comes to the executor's gate, and past it a command that needs privilege is refused on a path without it. -/
def ComesToTheGate (c : Instr) (path : BcsPath) (opcode : Nat) (input : Bytes) (s : State) : Prop :=
  ∃ body, exec c s = .next (gated path opcode input body s) ∧
    (needsPrivilege opcode = true → privileged path = false → body s = answer path opcode 0x8006 [] s)

section
variable {c : Instr} {path : BcsPath} {opcode : Nat} {input : Bytes} {s : State}

theorem comesToTheGate_of_bcs {lenOk : Bool} {body : State → State} (hexec : exec c s = .next (bcs path opcode input lenOk body s)) :
    ComesToTheGate c path opcode input s :=
  ⟨_, hexec, fun hneeds hpath => if_pos (by simp [hneeds, hpath])⟩

theorem comesToTheGate_of_unsupported (hexec : exec c s = .next (unsupported path opcode input s)) (hfree : needsPrivilege opcode = false) :
    ComesToTheGate c path opcode input s :=
  ⟨_, hexec, fun hneeds => by simp [hfree] at hneeds⟩

/-- Off the sideband the supervisor's own commands come to the gate as well (R490). -/
theorem comesToTheGate_of_supervised {len : Nat} {body : State → State}
    (hexec : exec c s = .next (supervised path opcode len input body s)) (hpath : path ≠ .sideband) :
    ComesToTheGate c path opcode input s :=
  comesToTheGate_of_bcs (hexec.trans (congrArg _ (if_neg hpath)))

/-- Every BCS command comes to the gate, but for the two that the supervisor executes itself on the sideband. -/
theorem exec_comesToTheGate (hrow : bcsRow c = some (path, opcode, input)) (hself : path = .sideband → opcode ≠ 0xC080 ∧ opcode ≠ 0xC081) :
    ComesToTheGate c path opcode input s := by
  cases c with
  | getSlotTable | setSlotTable | activateSlotTable | createRegion | deleteRegion | resizeRegion | getRegion | listRegions |
    setRegionAttributes | attachExtent | detachExtent | grantMemoryKey | revokeMemoryKey | getCapacity | formPair | armPairJoin |
    dissolvePair | getPairStatus | moveSeat | moveChair | admitReplacement | setStandbyChecks | getPairHealth | forceSeat |
    setWitnessPath | identify | backgroundOperationStatus | getEventRecords | clearEventRecords | getEventInterruptPolicy |
    setEventInterruptPolicy | getFwInfo | transferFw | activateFw | getTimestamp | setTimestamp | getSupportedLogs | getLog |
    identifyMemoryDevice | getPartitionInfo | getLsa | setLsa | getHealthInfo | getAlertConfiguration | setAlertConfiguration |
    getShutdownState | setShutdownState | getPoisonList | injectPoison | clearPoison | getScanMediaCapabilities | scanMedia |
    getScanMediaResults | getDynamicCapacityConfiguration | getDynamicCapacityExtentList | getLdInfo | getLdAllocations |
    setLdAllocations | createQp | modifyQp | queryQp | destroyQp | setGid | getPortStatus | triggerCounter | createQueuePair |
    deleteQueuePair | queryQueuePair | captureControl | replayControl | startScrub | getScrubSummary | getUnitPower | setUnitPower |
    getParameter | setParameter | listParameters | enterDeviceStandby | readEvents | getRecorderStatus | identifyController |
    getIdentityKey | getAttestationReport | getProtectionLevel | setProtectionLevel | sanitize | getSparesInventory | getEraseCounts
    | getStripeState | readWearLog | powerDown | bindTransformStream =>
    cases hrow
    exact comesToTheGate_of_bcs rfl
  | setPartitionInfo | cxlSanitize | secureErase =>
    cases hrow
    exact comesToTheGate_of_unsupported rfl rfl
  | getSequencerStatus =>
    cases hrow
    exact comesToTheGate_of_supervised rfl fun hpath => (hself hpath).1 rfl
  | clearLockout =>
    cases hrow
    exact comesToTheGate_of_supervised rfl fun hpath => (hself hpath).2 rfl
  | _ => cases hrow

variable {body : State → State}

theorem gated_noPair (h : noPair s = true) : gated path opcode input body s = answer path opcode 0x0004 [] s := if_pos h

theorem gated_restarting (hpair : noPair s = false) (hserves : s.mc.serving = false) (hrestart : s.mc.restart.isSome = true) :
    gated path opcode input body s = { s with pair := { s.pair with heldBcs := s.pair.heldBcs ++ [⟨path, opcode, input⟩] } } := by
  simp [gated, hpair, hserves, hrestart]

theorem gated_romRecovery (hpair : noPair s = false) (hserves : s.mc.serving = true) (hrom : s.mc.rom = true)
    (hother : romServes opcode = false ∨ path ≠ .sideband) : gated path opcode input body s = answer path opcode 0x8004 [] s := by
  rcases hother with h | h <;> simp [gated, hpair, hserves, hrom, h]

theorem gated_serving (hpair : noPair s = false) (hserves : s.mc.serving = true) (hrom : s.mc.rom = false) :
    gated path opcode input body s = body s := by
  simp [gated, hpair, hserves, hrom]

end

/-- Settles O60: a BCS command comes to the gate (`exec_comesToTheGate`), which answers by the state of the complex (`gated_noPair`,
`gated_restarting`, `gated_romRecovery`, `gated_serving`). That a command waits during a restart is the model's choice (log entry 158). -/
theorem theExecutorGatesEveryCommand : Obligations.TheExecutorGatesEveryCommand := by
  unfold Obligations.TheExecutorGatesEveryCommand
  refine ⟨fun c path opcode input s hrow hself hnoPair => ?noPair,
    fun c path opcode input s hrow hself ⟨hpair, hserves, hrestart⟩ => ?restarting,
    fun c path opcode input s hrow hself ⟨hpair, hserves, hrom, hother⟩ => ?romRecovery,
    fun c path opcode input s hrow ⟨hpair, hserves, hrom, hneeds, hpath⟩ => ?privilege⟩
  case noPair =>
    obtain ⟨body, hexec, -⟩ := exec_comesToTheGate hrow hself
    rw [hexec, gated_noPair hnoPair]
  case restarting =>
    obtain ⟨body, hexec, -⟩ := exec_comesToTheGate hrow hself
    rw [hexec, gated_restarting hpair hserves hrestart]
  case romRecovery =>
    obtain ⟨body, hexec, -⟩ := exec_comesToTheGate hrow hself
    rw [hexec, gated_romRecovery hpair hserves hrom hother]
  case privilege =>
    have hself : path = .sideband → opcode ≠ 0xC080 ∧ opcode ≠ 0xC081 := by
      rintro rfl
      cases hpath
    obtain ⟨body, hexec, hbody⟩ := exec_comesToTheGate hrow hself
    rw [hexec, gated_serving hpair hserves hrom, hbody hneeds hpath]

end Sys2Proof.Machine
end

section
/-! PROOFS. The BCS proxy of the sideband (13_management R487, R490, 16_power R593, 18_package_electrical R632). -/

namespace Sys2Proof.Machine

/-! ### STATE and its effect on a transaction (R490) -/

theorem proxyState_serving {s : State} (hserves : s.mc.serving = true) (hpair : noPair s = false) :
    proxyState s = if s.mc.proxy.state = 1 then 1 else if s.mc.rom then 3 else s.mc.proxy.state := by
  simp [proxyState, noComplexState, hserves, hpair]

/-- A transaction that is NACKed at its command byte is flagged and counted (R487). -/
theorem transaction_nacked (pecOk : Bool) (body : State → State) {s : State} (hsupply : s.seq.vstby = true) (hclock : s.seq.clk25 = true) :
    transaction true pecOk body s = nackCode s := by
  simp [transaction, hsupply, hclock]

theorem inStandby_eq_false {s : State} (h : s.seq.standby ≠ .entered) : inStandby s = false := by simp [inStandby, h]

/-- The state on which an accepted BCS Execute runs its opcode: the transaction is counted and the output is empty. -/
def executing (s : State) : State := modProxy (fun p => { p with state := 1, rc := 0, output := [] }) (countTransaction s)

section
variable {s : State} (hsupply : s.seq.vstby = true) (hclock : s.seq.clk25 = true)
include hsupply hclock

theorem exec_bcsLoad_nacked (off : Nat) (data : Bytes) (pecOk : Bool) (hruns : proxyState s = 1) :
    exec (.bcsLoad off data pecOk) s = .next (nackCode s) := by
  have hnack : (inStandby s || proxyState s == 1) = true := by simp [hruns]
  change Host.Outcome.next (transaction (inStandby s || proxyState s == 1) pecOk _ s) = _
  rw [hnack, transaction_nacked _ _ hsupply hclock]

/-- A load while the proxy is idle writes its input buffer (R490). -/
theorem exec_bcsLoad_idle (off : Nat) (data : Bytes) (hserves : s.mc.serving = true) (hpair : noPair s = false)
    (hidle : s.mc.proxy.state = 0) (hawake : s.seq.standby ≠ .entered) :
    exec (.bcsLoad off data true) s =
      .next (modProxy (fun p => { p with input := memWriteN off data p.input }) (countTransaction s)) := by
  have hstate : proxyState s = if s.mc.rom then 3 else 0 := by simp [proxyState_serving hserves hpair, hidle]
  have hnack : (inStandby s || proxyState s == 1) = false := by
    cases hrom : s.mc.rom <;> simp [inStandby_eq_false hawake, hstate, hrom]
  have hopen : proxyState (countTransaction s) ≠ 4 := by
    change proxyState s ≠ 4
    cases hrom : s.mc.rom <;> simp [hstate, hrom]
  change Host.Outcome.next (transaction (inStandby s || proxyState s == 1) true _ s) = _
  rw [hnack, transaction_goodPec _ hsupply hclock]
  exact congrArg _ (if_neg hopen)

/-- An execution while no command runs clears the output, and runs the opcode with the loaded input on the sideband (R490). -/
theorem exec_bcsExecute_runs (opcode length : Nat) (hawake : s.seq.standby ≠ .entered) (hruns : proxyState s ≠ 1) :
    exec (.bcsExecute opcode length true) s =
      .next (runBcs .sideband opcode (memReadN s.mc.proxy.input 0 length) (executing s)) := by
  have hnack : ((inStandby s && !supervisorOpcode opcode) || proxyState s == 1) = false := by simp [inStandby_eq_false hawake, hruns]
  change Host.Outcome.next (transaction ((inStandby s && !supervisorOpcode opcode) || proxyState s == 1) true _ s) = _
  rw [hnack, transaction_goodPec _ hsupply hclock]
  rfl

end

/-! ### An opcode that no row of the table names (R491, step 1) -/

theorem runBcs_unknown (path : BcsPath) (input : Bytes) (s : State) :
    runBcs path 0xC0FF input s = unsupported path 0xC0FF input s := rfl

theorem unsupported_serving (path : BcsPath) (opcode : Nat) (input : Bytes) {s : State} (hserves : s.mc.serving = true)
    (hpair : noPair s = false) (hrom : s.mc.rom = false) : unsupported path opcode input s = answer path opcode 0x0003 [] s :=
  gated_serving hpair hserves hrom

/-! ### The obligation -/

/-- Settles O6: each row is its `exec_` lemma, or a transaction with a good PEC, and an opcode that no row names is answered Unsupported
(`unsupported_serving`). -/
theorem sidebandProxy : Obligations.SidebandProxy := by
  unfold Obligations.SidebandProxy
  refine ⟨fun off data s hsupply hclock hserves hpair hidle hawake => ?load, fun off data s hsupply hclock hruns => ?loadNacked,
    fun s hsupply hclock hserves hpair hrom hruns hawake => ?execute, fun s hsupply hclock => ?status, fun off s hsupply hclock => ?fetch,
    fun s => ⟨_, rfl, rfl⟩⟩
  case load => exact ⟨_, exec_bcsLoad_idle hsupply hclock off data hserves hpair hidle hawake, rfl, rfl, hidle, rfl, rfl⟩
  case loadNacked =>
    rw [exec_bcsLoad_nacked hsupply hclock off data true hruns]
    simp [nackCode, emit, satAdd]
  case execute =>
    have hstate : proxyState s ≠ 1 := by simp [proxyState_serving hserves hpair, hruns, hrom]
    have hexec := exec_bcsExecute_runs hsupply hclock 0xC0FF 0 hawake hstate
    have hanswer : unsupported .sideband 0xC0FF (memReadN s.mc.proxy.input 0 0) (executing s) = answer .sideband 0xC0FF 0x0003 [] (executing s) :=
      unsupported_serving (s := executing s) _ _ _ hserves hpair hrom
    rw [runBcs_unknown, hanswer] at hexec
    exact ⟨answer .sideband 0xC0FF 0x0003 [] (executing s), hexec, rfl, rfl, rfl, rfl, by simp [executing, countTransaction, modProxy],
      by simp [executing, countTransaction, modProxy]⟩
  case status =>
    exact ⟨_, congrArg Host.Outcome.next (transaction_goodPec _ hsupply hclock), rfl⟩
  case fetch =>
    exact ⟨_, congrArg Host.Outcome.next (transaction_goodPec _ hsupply hclock), rfl, rfl⟩

end Sys2Proof.Machine
end

section
/-! PROOFS. The corrected errors that a read meets, where the read itself is reported (07_cxl_ports R265, R286, 12_integrity R448). -/

namespace Sys2Proof.Machine

/-- A chest whose head 0 is up; nothing is attached to it. -/
def nothingAttached : State := { State.reset with cxl := { heads := [(0, { up := true })] } }

/-- A read of DPA 4096 by head 0. -/
def unmappedRequest : CxlReq := { head := 0, requester := 0, tag := 9, dpa := 4096 }

theorem exec_cxlMemRead_corrected {q : CxlReq} (c : Corrected) {s : State} (hserves : servesMem q.head s = true) :
    exec (.cxlMemRead q c) s = .next (noteCorrected c (cxlRead q s)) := if_pos hserves

/-- The report of an unmapped read stays the newest event after the one corrected error that the read met. -/
theorem unmappedRead_newestEvent :
    newestEvent (noteCorrected ⟨[], 1, 0, 0⟩ (cxlRead unmappedRequest nothingAttached)) = some (0x0603, .warning) := rfl

/-- Refutes O48: its row on a corrected error below the threshold reads an address that no attachment maps, and claims that the event unit
is unchanged. Such a read is itself reported, with event 0x0603 (R265, R286; `unmappedRead_newestEvent`). -/
theorem not_errorsScrubsAndRefresh : ¬ Obligations.ErrorsScrubsAndRefresh := by
  unfold Obligations.ErrorsScrubsAndRefresh
  rintro ⟨-, -, -, -, -, -, -, -, -, hcorrected, -⟩
  obtain ⟨t, hexec, -, -, -, hev, -⟩ := hcorrected unmappedRequest nothingAttached ⟨rfl, rfl⟩ ⟨rfl, by decide⟩
  rw [exec_cxlMemRead_corrected _ rfl] at hexec
  cases hexec
  have hnewest := unmappedRead_newestEvent
  rw [newestEvent, hev] at hnewest
  cases hnewest

end Sys2Proof.Machine
end

section
/-! PROOFS. An edge of WDI that comes too early, while a region changes (13_management R478, R492, 16_power R580). -/

namespace Sys2Proof.Machine

/-- The WDI window runs and is armed; region 7 is being deleted by a command of the sideband. -/
def watchedChange : State :=
  { State.reset with
    mc := { serving := true }
    params := [(0x0F02, 100)]
    pwr := { wdiArmed := true }
    reg := { changes := [(7, ⟨.delete, some .sideband, 0xC011, 4, .waitBoundary⟩)] } }

theorem exec_wdiEdge_early {m : Nat} {s : State} (hruns : wdiRuns s = true) (harmed : s.pwr.wdiArmed = true)
    (hearly : m * 8 < param 0x0F02 0 s * 1000) : exec (.wdiEdge m) s = .next (wdiViolation false m s) := by
  change execWdiEdge m s = _
  simp [execWdiEdge, hruns, harmed, hearly]

/-- The management reset that follows an early edge takes its command from the change of region 7. -/
theorem watchedChange_orphaned :
    (wdiViolation false 0 watchedChange).reg.changes = [(7, ⟨.delete, none, 0xC011, 4, .waitBoundary⟩)] := rfl

/-- Refutes O42: a WDI violation is followed by a management reset (R478, R580), which ends the commands in progress (R492). A region whose
change a command has started keeps the change without the command, so the region state is not as it was (`watchedChange_orphaned`). -/
theorem not_watchdogWindowAndTemperature : ¬ Obligations.WatchdogWindowAndTemperature := by
  unfold Obligations.WatchdogWindowAndTemperature
  rintro ⟨-, hearly, -⟩
  obtain ⟨t, hexec, -, -, -, -, -, hreg, -⟩ := hearly 0 watchedChange ⟨rfl, rfl, by decide, rfl⟩
  rw [exec_wdiEdge_early rfl rfl (by decide)] at hexec
  cases hexec
  have hchanges := watchedChange_orphaned
  rw [hreg] at hchanges
  cases hchanges

end Sys2Proof.Machine
end

section
/-! PROOFS. The rail sequencer (16_power R570 to R576, R590, R596, 18_package_electrical R627). -/

namespace Sys2Proof.Machine

/-! ### What events, logs and the option area leave -/

theorem OnlyLogs.seq {s t : State} (h : OnlyLogs s t) : t.seq = s.seq := (congrArg State.seq h.rest :)
theorem OnlyLogs.pwr {s t : State} (h : OnlyLogs s t) : t.pwr = s.pwr := (congrArg State.pwr h.rest :)

/-- The sequencer, the power unit, the persistence unit, the tiers, the regions and the outputs are as they were. -/
structure KeepsRails (s t : State) : Prop where
  seq : t.seq = s.seq
  pwr : t.pwr = s.pwr
  pu : t.pu = s.pu
  ti : t.ti = s.ti
  reg : t.reg = s.reg
  out : t.out = s.out

theorem KeepsRails.trans {s t u : State} (h : KeepsRails s t) (g : KeepsRails t u) : KeepsRails s u :=
  ⟨g.seq.trans h.seq, g.pwr.trans h.pwr, g.pu.trans h.pu, g.ti.trans h.ti, g.reg.trans h.reg, g.out.trans h.out⟩

theorem OnlyLogs.keepsRails {s t : State} (h : OnlyLogs s t) : KeepsRails s t := ⟨h.seq, h.pwr, h.pu, h.ti, h.reg, h.out⟩

/-- An event of the supervisor waits in its own buffer, not in the recorder's queue (R566). -/
theorem raiseSeq_onlyLogs (code : Nat) (sev : Severity) (data : Bytes) (s : State) : OnlyLogs s (raiseSeq code sev data s) := by
  unfold raiseSeq raiseSup
  dsimp only
  split <;> exact ev_onlyLogs List.prefix_rfl

/-- The option area sets what the start-up takes from it (R555), and none of the rails. -/
theorem loadOptions_keepsRails (s : State) : KeepsRails s (loadOptions s) := by
  have hreported : KeepsRails s (advance (raiseSeq 0x0E01 .error (freeBytes 1 s) s)) :=
    (raiseSeq_onlyLogs ..).keepsRails.trans ⟨rfl, rfl, rfl, rfl, rfl, rfl⟩
  unfold loadOptions
  dsimp only
  split
  · exact ⟨rfl, rfl, rfl, rfl, rfl, rfl⟩
  · exact hreported.trans ⟨rfl, rfl, rfl, rfl, rfl, rfl⟩

theorem powerCycle_onlyLogs (s : State) : OnlyLogs s (powerCycle s) := ⟨rfl, List.prefix_rfl, rfl⟩

/-! ### Power-up (R571, R572, R590, 18_package_electrical R627) -/

/-- The supervisor's pads after its reset: every one is held (R590), and the sequencer is as it was made but for its lockout count and its
inputs. -/
def leftReset (s : State) : State :=
  modPwr (fun p => { p with padHeld := 0b1111111111 })
    (powerCycle { s with seq := { lockouts := loggedLockouts s, resetLow := s.seq.resetLow, inputOk := s.seq.inputOk } })

theorem exec_vstbyApplied_unlocked {s : State} (hcollapsed : s.seq.vstby = false) (hunlocked : s.seq.state ≠ .lockout) :
    exec .vstbyApplied s = .next (loadOptions (leftReset s)) := by
  change execVstbyApplied s = _
  simp [execVstbyApplied, hcollapsed, hunlocked, leftReset]

/-- The state at the start of step 0: its enable is high. -/
def stepZero (s : State) : State :=
  raiseRail 0 (modSeq (fun q => { q with state := .rising, wanted := false, debounced := 0, pg := 0 }) (loadOptions s))

theorem powerUp_mayRise {s : State} (h : mayRise s = true) : powerUp s = stepZero s := if_pos h

/-- Step 0 of the power-up runs. -/
structure StepZero (s t : State) : Prop where
  state : t.seq.state = .rising
  step : t.seq.step = 0
  attempt : t.seq.attempt = s.seq.attempt
  en : t.seq.en = (s.seq.en ||| 1#12)
  debounced : t.seq.debounced = 0
  out : t.out = Output.rail 0 true :: s.out
  ti : t.ti = s.ti
  pu : t.pu = s.pu
  reg : t.reg = s.reg

theorem stepZero_started (s : State) : StepZero s (stepZero s) := by
  obtain ⟨hseq, -, hpu, hti, hreg, hout⟩ := loadOptions_keepsRails s
  constructor <;> simp [stepZero, raiseRail, emit, hseq, hpu, hti, hreg, hout]

section
variable {s : State} {rail : Nat} (hrising : s.seq.state = .rising)
include hrising

theorem exec_railDebounceComplete_gap (hstep : s.seq.step = rail) (hgap : s.seq.gap = false) (hrail : rail < 11) :
    exec (.railDebounceComplete rail) s = .next (modSeq (fun q => { q with
      pg := q.pg ||| BitVec.ofNat 12 (2 ^ rail), debounced := q.debounced ||| BitVec.ofNat 12 (2 ^ rail), gap := true }) s) := by
  change execRailDebounceComplete rail s = _
  have hin : ¬ 12 ≤ rail := by omega
  simp [execRailDebounceComplete, hrising, hstep, hgap, hrail, hin]

theorem exec_railDebounceComplete_up (hstep : s.seq.step = 11) (hgap : s.seq.gap = false) (hwarm : s.seq.coldPending = false) :
    exec (.railDebounceComplete 11) s = .next (modSeq (fun q => { q with
      pg := q.pg ||| 0x800#12, debounced := q.debounced ||| 0x800#12, gap := false, state := .up, attempt := 1 }) s) := by
  change execRailDebounceComplete 11 s = _
  simp [execRailDebounceComplete, hrising, hstep, hgap, hwarm, modSeq]

theorem exec_stepGapEnd_next (hgap : s.seq.gap = true) (hstep : s.seq.step < 11) :
    exec .stepGapEnd s = .next (raiseRail (s.seq.step + 1) s) := by
  change execStepGapEnd s = _
  simp [execStepGapEnd, hrising, hgap, hstep]

end

theorem exec_retryWaitEnd_waiting {s : State} (h : s.seq.state = .retryWait) :
    exec .retryWaitEnd s = .next (powerUp (modSeq (fun q => { q with state := .off, attempt := q.attempt + 1, wanted := true }) s)) := by
  change execRetryWaitEnd s = _
  simp [execRetryWaitEnd, h]

/-! ### Power-down (R573 to R576) -/

/-- The state of a step that has failed, before its rail is taken low (R573). -/
def stepFailed (micros low : Nat) (s : State) : State :=
  modSeq (fun q => { q with
    state := .falling, downCause := .retry, failRail := s.seq.step, failMicros := micros, failLow := low, gap := false, coldPending := false }) s

theorem exec_stepTimeout_enabled {micros low : Nat} {s : State} (hrising : s.seq.state = .rising) (hgap : s.seq.gap = false)
    (hen : s.seq.en.getLsbD s.seq.step = true) :
    exec (.stepTimeout micros low) s = .next (dropRail s.seq.step (stepFailed micros low s)) := by
  change execStepTimeout micros low s = _
  simp [execStepTimeout, failStep, stepFailed, hrising, hgap, hen]

theorem downFrom_next {n k : Nat} {s : State} (h : enabledBelow s.seq.en n = some k) : downFrom n s = dropRail k s := by
  simp only [downFrom, h]

/-- With no rail left, a commanded power-down ends in OFF, and a power-up follows where one was asked for. -/
theorem downFrom_commanded {n : Nat} {s : State} (hnone : enabledBelow s.seq.en n = none) (hcause : s.seq.downCause = .commanded) :
    downFrom n s = modSeq (fun q => { q with state := .off, wanted := q.riseAgain, riseAgain := false }) s := by
  simp only [downFrom, hnone, downDone, hcause]

section
variable {s : State} {rail : Nat} (hfalling : s.seq.state = .falling) (hstep : s.seq.step = rail) (hrail : rail < 12)
  (hen : s.seq.en.getLsbD rail = false)
include hfalling hstep hrail hen

theorem exec_railLow_step : exec (.railLow rail) s = .next (downFrom rail (modSeq (fun q => { q with
    pg := q.pg &&& ~~~ BitVec.ofNat 12 (2 ^ rail), debounced := q.debounced &&& ~~~ BitVec.ofNat 12 (2 ^ rail) }) s)) := by
  change execRailLow rail s = _
  have hin : ¬ 12 ≤ rail := by omega
  simp [execRailLow, hfalling, hstep, hen, hin, modSeq]

theorem exec_fallTimeout_step : exec (.fallTimeout rail) s = .next (downFrom rail
    (modSeq (fun q => { q with debounced := q.debounced &&& ~~~ BitVec.ofNat 12 (2 ^ rail) }) (downFailed rail 0 s))) := by
  have hends : s.seq.state = .falling ∧ rail = s.seq.step ∧ (!s.seq.en.getLsbD rail) = true ∧ rail < 12 :=
    ⟨hfalling, hstep.symm, by simp [hen], hrail⟩
  exact if_pos hends

end

theorem downFailed_keepsRails (rail how : Nat) (s : State) :
    KeepsRails (modSeq (fun q => { q with downFail := q.downFail ||| BitVec.ofNat 12 (2 ^ rail) }) s) (downFailed rail how s) :=
  (raiseSeq_onlyLogs ..).keepsRails

/-- The state in which a debounced rail has lost its power-good (R576), with event 0x0F05. -/
def powerGoodLost (rail : Nat) (s : State) : State :=
  let s := modSeq (fun q => { q with pgLost := true, pg := q.pg &&& ~~~ BitVec.ofNat 12 (2 ^ rail) }) s
  raiseSeq 0x0F05 .error (le 1 rail ++ zeros 7 ++ le 8 s.tb.beat) s

theorem exec_powerGoodLoss_up {rail : Nat} {s : State} (hrail : rail < 12) (hgood : s.seq.debounced.getLsbD rail = true)
    (hup : s.seq.state = .up) : exec (.powerGoodLoss rail) s = .next (drainDown 1 .powerFail 1 false (powerGoodLost rail s)) := by
  change execPowerGoodLoss rail s = _
  have hin : ¬ 12 ≤ rail := by omega
  simp [execPowerGoodLoss, powerGoodLost, hgood, hup, hin]

theorem powerGoodLost_drains {rail : Nat} {s : State} (hup : s.seq.state = .up) (hdrain : s.pu.drain = none) :
    DrainStarts 1 (goingDown .powerFail 1 false (powerGoodLost rail s)) (drainDown 1 .powerFail 1 false (powerGoodLost rail s)) := by
  have hlogs : OnlyLogs _ (powerGoodLost rail s) := raiseSeq_onlyLogs ..
  exact drainDown_starts _ _ _ _ (by rw [hlogs.seq]; exact hup) (by rw [hlogs.pu]; exact hdrain)

/-! ### The sequencer's commands (R501) -/

theorem supervised_sideband {opcode len : Nat} {input : Bytes} (body : State → State) (s : State) (hlen : input.length = len) :
    supervised .sideband opcode len input body s = body s := by simp [supervised, hlen]

/-- The state in which a lockout has been cleared, with event 0x0F03. -/
def lockoutCleared (s : State) : State :=
  raiseSeq 0x0F03 .info (le 1 0) (modSeq (fun q => { q with state := .off, attempt := 1, wanted := true }) s)

theorem exec_clearLockout_locked {input : Bytes} {s : State} (hlen : input.length = 0) (hlocked : s.seq.state = .lockout) :
    exec (.clearLockout .sideband input) s = .next (success .sideband 0xC081 [] (lockoutCleared s)) := by
  change Host.Outcome.next (supervised .sideband 0xC081 0 input _ s) = _
  rw [supervised_sideband _ _ hlen]
  simp [hlocked, lockoutCleared]

/-! ### The obligation -/

/-- Settles O40: each row is its `exec_` lemma; the option area and the events of the supervisor leave the rails (`KeepsRails`), and the loss
of power-good starts a drain (`powerGoodLost_drains`). A LOCKOUT that stands when VSTBY collapses is left out; what becomes of it is the
model's choice (log 138). -/
theorem sequencerRailsUpAndDown : Obligations.SequencerRailsUpAndDown := by
  unfold Obligations.SequencerRailsUpAndDown
  refine ⟨fun s ⟨hcollapsed, hunlocked⟩ => ?applied, fun s hrise => ?start, fun rail s ⟨hrising, hstep, hgap, hrail⟩ => ?debounced,
    fun s ⟨hrising, hstep, hgap, hwarm⟩ => ?up, fun s ⟨hrising, hgap, hstep⟩ => ?gap, fun micros low s ⟨hrising, hgap, hne, hen⟩ => ?failed,
    fun s ⟨hwait, hv, hc, hr, hw, hs⟩ => ?retry, fun rail k s ⟨hfalling, hstep, hrail, hen, hk, hne⟩ => ?low,
    fun s ⟨hfalling, hstep, hen, hcause⟩ => ?last, fun rail k s ⟨hfalling, hstep, hrail, hen, hk, hne⟩ => ?high,
    fun rail s ⟨hrail, hgood, hup, hdrain⟩ => ?lost, fun input s hlen => ?status, fun input s ⟨hlen, hlocked⟩ => ?clear⟩
  case applied =>
    obtain ⟨hseq, hpwr, hpu, hti, hreg, -⟩ := loadOptions_keepsRails (leftReset s)
    exact ⟨_, exec_vstbyApplied_unlocked hcollapsed hunlocked, by rw [hseq]; rfl, by rw [hseq]; rfl, by rw [hseq]; rfl, by rw [hseq]; rfl,
      by rw [hseq]; rfl, by rw [hseq]; rfl, by rw [hpwr]; rfl, by rw [hti]; rfl, by rw [hpu]; rfl, by rw [hreg]; rfl⟩
  case start =>
    have h := stepZero_started s
    exact ⟨_, congrArg Host.Outcome.next (powerUp_mayRise hrise), h.state, h.step, h.en, h.debounced, h.out, h.ti, h.pu, h.reg⟩
  case debounced => exact ⟨_, exec_railDebounceComplete_gap hrising hstep hgap hrail, by simp⟩
  case up => exact ⟨_, exec_railDebounceComplete_up hrising hstep hgap hwarm, by simp⟩
  case gap => exact ⟨_, exec_stepGapEnd_next hrising hgap hstep, by simp [raiseRail, emit]⟩
  case failed =>
    refine ⟨_, exec_stepTimeout_enabled hrising hgap hen, ?_⟩
    rw [dropRail_of_ne_one hne]
    simp [stepFailed, emit]
  case retry =>
    have hrise : mayRise (modSeq (fun q => { q with state := .off, attempt := q.attempt + 1, wanted := true }) s) = true := by
      simp [mayRise, hv, hc, hr, hw, hs]
    have h := stepZero_started (modSeq (fun q => { q with state := .off, attempt := q.attempt + 1, wanted := true }) s)
    refine ⟨_, (exec_retryWaitEnd_waiting hwait).trans (congrArg Host.Outcome.next (powerUp_mayRise hrise)), h.state, ?_, h.step, ?_, ?_, ?_, ?_⟩
    · simp [h.attempt]
    · simp [h.out]
    · simp [h.ti]
    · simp [h.pu]
    · simp [h.reg]
  case low =>
    refine ⟨_, exec_railLow_step hfalling hstep hrail hen, ?_⟩
    rw [downFrom_next (by exact hk), dropRail_of_ne_one hne]
    simp [emit, hfalling]
  case last =>
    refine ⟨_, exec_railLow_step hfalling hstep (by decide) (by simp [hen]), ?_⟩
    rw [downFrom_commanded rfl (by exact hcause)]
    simp
  case high =>
    obtain ⟨hseq, -, hpu, hti, hreg, hout⟩ := downFailed_keepsRails rail 0 s
    refine ⟨_, exec_fallTimeout_step hfalling hstep hrail hen, ?_⟩
    rw [downFrom_next (by simpa [hseq] using hk), dropRail_of_ne_one hne]
    simp [emit, hfalling, hseq, hpu, hti, hreg, hout]
  case lost =>
    have h := powerGoodLost_drains (rail := rail) hup hdrain
    have hlogs : OnlyLogs _ (powerGoodLost rail s) := raiseSeq_onlyLogs ..
    exact ⟨_, exec_powerGoodLoss_up hrail hgood hup, by simp [h.seq, goingDown, hlogs.seq], by simp [h.seq, goingDown],
      by simp [h.drain, goingDown, hlogs.tb], by simp [h.seq, goingDown, hlogs.seq, hup], by simp [h.chest, goingDown, hlogs.pu],
      by simp [h.ti, goingDown, hlogs.ti], by simp [h.reg, goingDown, hlogs.reg], by simp [hlogs.tb]⟩
  case status => exact ⟨_, congrArg Host.Outcome.next (supervised_sideband _ s hlen), by simp, by simp, by simp, by simp, answered_success ..⟩
  case clear =>
    have hlogs : OnlyLogs _ (lockoutCleared s) := raiseSeq_onlyLogs ..
    refine ⟨_, exec_clearLockout_locked hlen hlocked, answered_success .., ?_⟩
    simp [hlogs.seq, hlogs.ti, hlogs.pu, hlogs.reg]

end Sys2Proof.Machine
end

section
/-! PROOFS. The management complex: resets, background results, and the transfer and activation of firmware (13_management R478 to R480, R489,
R492, R506 to R511, 14_trust R515, R516). -/

namespace Sys2Proof.Machine

theorem OnlyLogs.mc {s t : State} (h : OnlyLogs s t) : t.mc = s.mc := (congrArg State.mc h.rest :)

/-! ### Operations asked of the configuration flash (15_config_flash_events R545) -/

theorem mem_dropOp {o p : NorOp} {l : List NorOp} (h : o ∈ l) (hne : o ≠ p) : o ∈ dropOp p l := by
  induction l with
  | nil => cases h
  | cons q l ih =>
    rcases List.mem_cons.mp h with rfl | h
    · simp [dropOp, hne]
    · simp only [dropOp]
      split
      · exact h
      · exact List.mem_cons_of_mem _ (ih h)

theorem eraseIntent_waiting (block : Nat) (sector : Option Nat) (s : State) :
    (eraseIntent block sector s).nor.waiting = s.nor.waiting := by
  unfold eraseIntent
  dsimp only
  split <;> rfl

theorem beginOp_running (o : NorOp) (s : State) : (beginOp o s).nor.running = some o := rfl

theorem beginOp_waiting (o : NorOp) (s : State) : (beginOp o s).nor.waiting = s.nor.waiting := by
  cases o with
  | optionWrite c after => exact eraseIntent_waiting ..
  | fwProgram slot off => rfl
  | erase block sector =>
    simp only [beginOp]
    split <;> exact eraseIntent_waiting ..

/-- The operations that run or wait. -/
def norOps (s : State) : List NorOp := s.nor.running.toList ++ s.nor.waiting

/-- An operation that waits runs next, or waits still. -/
theorem mem_norOps_issueOp {o : NorOp} {s : State} (h : o ∈ s.nor.waiting) : o ∈ norOps (issueOp s) := by
  unfold issueOp
  split
  · exact List.mem_append_right _ h
  · split
    · exact List.mem_append_right _ h
    · next p _ =>
      rw [norOps, beginOp_running, beginOp_waiting]
      by_cases hp : o = p
      · simp [hp]
      · exact List.mem_append_right _ (mem_dropOp h hp)

theorem mem_norOps_norSubmit (o : NorOp) (s : State) : o ∈ norOps (norSubmit o s) :=
  mem_norOps_issueOp (List.mem_append_right _ (List.mem_singleton_self o))

/-! ### Management resets (R478, R492, R508, R509) -/

/-- A management reset has begun in which no transfer of firmware is lost: what endures is as it was, and no event is recorded. -/
structure ResetBegun (cause : Nat) (toRom : Bool) (s t : State) : Prop where
  serving : t.mc.serving = false
  restart : t.mc.restart.map (fun r => (r.cause, r.beat, r.toRom)) = some (cause, s.tb.beat, toRom)
  active : t.mc.active = s.mc.active
  failed0 : t.mc.failed0 = s.mc.failed0
  spareUsable : t.mc.spareUsable = s.mc.spareUsable
  lastExpiry : t.mc.lastExpiry = s.mc.lastExpiry
  activation : t.mc.activation = s.mc.activation
  ev : t.ev = s.ev
  chest : t.pu.chest = s.pu.chest
  ti : t.ti = s.ti
  table : t.reg.table = s.reg.table
  out : t.out = s.out

theorem dropTransfer_none {what : Nat} {s : State} (h : s.mc.transfer = none) : dropTransfer what s = s := by simp only [dropTransfer, h]

theorem startRestart_begun (cause : Nat) (toRom : Bool) {s : State} (h : s.mc.transfer = none) :
    ResetBegun cause toRom s (startRestart cause toRom s) := by
  have hkept : dropTransfer 2 (interrupt s) = interrupt s := dropTransfer_none h
  rw [startRestart, hkept]
  constructor <;> simp [resetSigner, modSigner, interrupt, orphan]

theorem ResetBegun.cause {cause : Nat} {toRom : Bool} {s t : State} (h : ResetBegun cause toRom s t) :
    t.mc.restart.map (fun r => (r.cause, r.beat)) = some (cause, s.tb.beat) := by
  obtain ⟨r, hr, hfields⟩ := Option.map_eq_some_iff.mp h.restart
  simp_all

/-- The management complex on its spare, once the pair 0 has failed. -/
def spareActive (s : State) : State :=
  modMc (fun m => { m with failed0 := true, spareUsable := false, active := 1 }) s

/-- The failure of pair 0 is recorded with event 0x0C03, logged, and the spares evaluated (R478). -/
def failureLogged (cause : Nat) (s : State) : State :=
  noteSpare 5 (wearLog 0x0006 (le 1 0 ++ le 1 cause) (raise 0x0C03 .error (le 1 0 ++ le 1 (usablePairs (spareActive s))) (spareActive s)))

theorem failureLogged_onlyLogs (cause : Nat) (s : State) : OnlyLogs (spareActive s) (failureLogged cause s) :=
  ((raise_onlyLogs ..).trans (wearLog_onlyLogs ..)).trans (noteSpare_onlyLogs ..)

theorem failureLogged_recorded (cause : Nat) {s : State} (hroom : eventRoom s = true) : recorded 0x0C03 (failureLogged cause s) :=
  ((wearLog_onlyLogs ..).trans (noteSpare_onlyLogs ..)).recorded (recorded_raise _ _ _ (by exact hroom))

theorem exec_lockstepMismatch_spare {sram : Bool} {s : State} (hup : s.seq.state = .up) (hactive : s.mc.active = 0)
    (hf0 : s.mc.failed0 = false) (hf1 : s.mc.failed1 = false) (hspare : s.mc.spareUsable = true) :
    exec (.lockstepMismatch sram) s =
      .next (startRestart (if sram then 3 else 2) false (failureLogged (if sram then 3 else 2) s)) := by
  change execLockstepMismatch sram s = _
  simp [execLockstepMismatch, lockstepFailure, hup, noPair, hactive, hf0, hf1, hspare, failureLogged, spareActive]

theorem exec_watchdogExpiry_first {s : State} (hup : s.seq.state = .up) (hserves : s.mc.serving = true) (hpair : noPair s = false)
    (hrestart : s.mc.restart = none) (hfirst : s.mc.lastExpiry = none) :
    exec .watchdogExpiry s = .next (startRestart 0 false (modMc (fun m => { m with lastExpiry := some s.tb.beat }) s)) := by
  change execWatchdogExpiry s = _
  simp [execWatchdogExpiry, watchdogReset, hup, hserves, hpair, hrestart, hfirst]

theorem exec_activationSelfCheckTimeout_due {a : FwActivation} {r : Restart} {s : State} (ha : s.mc.activation = some a)
    (hnew : a.rolled = false) (hr : s.mc.restart = some r) (hcause : r.cause = 4) (hdue : r.beat + 2 ^ 22 ≤ s.tb.beat) :
    exec .activationSelfCheckTimeout s =
      .next (startRestart 4 false (modMc (fun m => { m with activation := some { a with rolled := true } }) s)) := by
  change execActivationSelfCheckTimeout s = _
  have hnow : ¬ s.tb.beat < r.beat + 2 ^ 22 := Nat.not_lt.mpr hdue
  simp only [execActivationSelfCheckTimeout, ha, hr, hnew, hcause, hnow]
  rfl

/-! ### The end of a restart (R478, R492) -/

/-- The state in which the complex serves again, with event 0x0C01. -/
def servesAgain (r : Restart) (s : State) : State :=
  let s := modMc (fun m => { m with
    serving := true, restart := none, rom := r.toRom, interrupted := [], lastRefresh := s.tb.beat
    fwActive := s.mc.fwActive, fwRunning := if r.toRom then 0 else (fwSlot s.mc.fwActive s).version
    bg := m.bg.map fun b => if b.opcode != 0x0202 && b.result.isNone then { b with result := some ⟨5, 0xFFFF, []⟩ } else b }) s
  let s := { s with pwr := { s.pwr with wdiArmed := false } }
  raise 0x0C01 .warning (le 1 r.cause ++ le 1 s.mc.active ++ zeros 2 ++ le 4 (s.tb.beat - r.beat) ++ le 1 (b2n r.norWait)) s

/-- Event 0x0C02 when the complex leaves ROM recovery (R510). -/
def recoveryLeft (left : Bool) (s : State) : State :=
  if left then raise 0x0C02 .error (le 1 1 ++ zeros 7 ++ le 8 (s.mc.lastExpiry.getD 0)) s else s

theorem recoveryLeft_onlyLogs (left : Bool) (s : State) : OnlyLogs s (recoveryLeft left s) := by
  cases left with
  | false => exact .refl s
  | true => exact raise_onlyLogs ..

/-- Event 0x0C07 when records have been lost (R486). -/
def lossReported (s : State) : State :=
  if s.ev.lostUnreported = 0 then s
  else raise 0x0C07 .warning (le 4 s.ev.lostUnreported) { s with ev := { s.ev with lostUnreported := 0 } }

theorem lossReported_onlyLogs (s : State) : OnlyLogs s (lossReported s) := by
  have hcounted : OnlyLogs s { s with ev := { s.ev with lostUnreported := 0 } } := ev_onlyLogs List.prefix_rfl
  unfold lossReported
  split
  · exact .refl s
  · exact hcounted.trans (raise_onlyLogs ..)

/-- Where nothing was interrupted, the end of the restart adds to that at most the events of ROM recovery and of lost records. -/
theorem restarted_onlyLogs {r : Restart} {s : State} (hr : s.mc.restart = some r) (hint : s.mc.interrupted = []) (hbg : s.mc.bg = [])
    (hact : s.mc.activation = none) : OnlyLogs (servesAgain r s) (restarted s) := by
  have heq : restarted s = endActivation (lossReported (recoveryLeft (s.mc.rom && !r.toRom) (servesAgain r s))) := by
    simp only [restarted, hr, hint, hbg, hact]
    rfl
  have hleft := recoveryLeft_onlyLogs (s.mc.rom && !r.toRom) (servesAgain r s)
  have hlost := lossReported_onlyLogs (recoveryLeft (s.mc.rom && !r.toRom) (servesAgain r s))
  have hnone : (lossReported (recoveryLeft (s.mc.rom && !r.toRom) (servesAgain r s))).mc.activation = none := by
    rw [(hleft.trans hlost).mc]
    exact hact
  rw [heq, endActivation, hnone]
  exact hleft.trans hlost

theorem exec_complexRestartComplete_idle {r : Restart} {s : State} (hr : s.mc.restart = some r) (hready : r.norWait = false)
    (hheld : s.pair.heldBcs = []) : exec .complexRestartComplete s = .next (restarted (modPair (fun p => { p with heldBcs := [] }) s)) := by
  change execComplexRestartComplete s = _
  simp [execComplexRestartComplete, restartReady, hr, hready, hheld]

/-! ### Transfers and activation of firmware (R506 to R508) -/

theorem fwSlot_modSlot_self (n : Nat) (f : FwSlot → FwSlot) (s : State) : fwSlot n (modSlot n f s) = f (fwSlot n s) := by
  by_cases hn : n = 0 <;> simp [fwSlot, modSlot, hn]

theorem exec_fwTransferTimeout_due {x : FwTransfer} {s : State} (hx : s.mc.transfer = some x) (hdue : x.lastBeat + 2 ^ 27 ≤ s.tb.beat) :
    exec .fwTransferTimeout s = .next (dropTransfer 2 s) := by
  change execFwTransferTimeout s = _
  simp only [execFwTransferTimeout, hx, if_pos hdue]

/-- The state in which a transfer has been dropped, before the event of it. -/
def transferDropped (x : FwTransfer) (s : State) : State :=
  modSlot x.slot (fun y => { y with valid := false }) (modMc (fun m => { m with transfer := none }) s)

theorem dropTransfer_some {x : FwTransfer} {s : State} (what : Nat) (hx : s.mc.transfer = some x) :
    ∃ data, dropTransfer what s = raise 0x0C05 .info data (transferDropped x s) := ⟨_, by simp only [dropTransfer, hx]; rfl⟩

/-- The state of a slot whose image is being sent: its last block is to be erased, and nothing of the image has come (R506). -/
def slotOpened (slot : Nat) (s : State) : State :=
  modSlot slot (fun _ => {}) (modMc (fun m => { m with transfer := some { slot := slot, next := 0, lastBeat := s.tb.beat } }) s)

/-- A part without data starts no block and takes no page. -/
theorem takePart_nothing (slot : Nat) (s : State) : takePart slot 0 [] s =
    modSlot slot (fun x => { x with image := [], version := fld 8 4 [], svn := fld 12 4 [] })
      (modMc (fun m => { m with transfer := m.transfer.map fun t => { t with next := 0, lastBeat := s.tb.beat } }) s) := by
  simp [takePart]

theorem modSlot_mc (n : Nat) (f : FwSlot → FwSlot) (s : State) :
    ∃ a b, (modSlot n f s).mc = { s.mc with fwA := a, fwB := b } := by
  simp only [modSlot, modMc_mc]
  split <;> exact ⟨_, _, rfl⟩

@[simp] theorem modSlot_transfer (n : Nat) (f : FwSlot → FwSlot) (s : State) : (modSlot n f s).mc.transfer = s.mc.transfer := by
  obtain ⟨_, _, h⟩ := modSlot_mc n f s
  rw [h]

@[simp] theorem modSlot_bg (n : Nat) (f : FwSlot → FwSlot) (s : State) : (modSlot n f s).mc.bg = s.mc.bg := by
  obtain ⟨_, _, h⟩ := modSlot_mc n f s
  rw [h]

@[simp] theorem modSlot_reg (n : Nat) (f : FwSlot → FwSlot) (s : State) : (modSlot n f s).reg = s.reg := modMc_reg ..
@[simp] theorem modSlot_ti (n : Nat) (f : FwSlot → FwSlot) (s : State) : (modSlot n f s).ti = s.ti := modMc_ti ..
@[simp] theorem modSlot_pu (n : Nat) (f : FwSlot → FwSlot) (s : State) : (modSlot n f s).pu = s.pu := modMc_pu ..
@[simp] theorem modSlot_out (n : Nat) (f : FwSlot → FwSlot) (s : State) : (modSlot n f s).out = s.out := modMc_out ..

theorem fwSlot_of_mc {s t : State} (h : t.mc = s.mc) (n : Nat) : fwSlot n t = fwSlot n s := by simp only [fwSlot, h]

/-- A transfer has been initiated: its command is in the background, and nothing else has changed but the slot and the flash. -/
structure Initiated (slot : Nat) (s t : State) : Prop where
  transfer : t.mc.transfer.map (fun x => (x.slot, x.next)) = some (slot, 0)
  bg : t.mc.bg = s.mc.bg
  invalid : (fwSlot slot t).valid = false
  reg : t.reg = s.reg
  ti : t.ti = s.ti
  pu : t.pu = s.pu
  out : t.out = s.out

theorem startTransfer_onlyLogs (slot : Nat) (s : State) : OnlyLogs (slotOpened slot s) (startTransfer slot s) := norSubmit_onlyLogs ..

theorem startTransfer_transfer (slot : Nat) (s : State) :
    (startTransfer slot s).mc.transfer = some { slot := slot, next := 0, lastBeat := s.tb.beat } := by
  rw [(startTransfer_onlyLogs slot s).mc, slotOpened, modSlot_transfer]
  rfl

theorem startTransfer_takePart (slot : Nat) (s : State) : Initiated slot s (takePart slot 0 [] (startTransfer slot s)) := by
  have hlogs := startTransfer_onlyLogs slot s
  have hopened : fwSlot slot (startTransfer slot s) = {} := by rw [fwSlot_of_mc hlogs.mc, slotOpened, fwSlot_modSlot_self]
  have hbg : (startTransfer slot s).mc.bg = s.mc.bg := by
    rw [hlogs.mc, slotOpened, modSlot_bg]
    rfl
  rw [takePart_nothing]
  constructor
  case invalid =>
    rw [fwSlot_modSlot_self]
    exact congrArg FwSlot.valid hopened
  all_goals simp [startTransfer_transfer, hbg, hlogs.reg, hlogs.ti, hlogs.pu, hlogs.out, slotOpened]

/-- The end of a background command that is alone leaves its result for delivery. -/
theorem finishBg_alone {path : BcsPath} {opcode : Nat} (rc v : Nat) (out : Bytes) {s : State}
    (hbg : s.mc.bg = [{ path := path, opcode := opcode }]) : finishBg path opcode rc v out s =
      { s with mc := { s.mc with bg := [{ path := path, opcode := opcode, result := some ⟨rc, v, out⟩ }] } } := by
  simp [finishBg, hbg]

theorem transferPart_first (path : BcsPath) (slot : Nat) (s : State) :
    transferPart path 0 [] false (startTransfer slot s) = finishBg path 0x0201 0 0xFFFF [] (takePart slot 0 [] (startTransfer slot s)) := by
  simp [transferPart, startTransfer_transfer]

theorem exec_transferFw_initiate {input : Bytes} {s : State} (hopen : bcsOpen .sideband 0x0201 s = true) (hlen : input.length = 128)
    (hact : fld 0 1 input = 1) (hlow : 1 ≤ fld 1 1 input) (hhigh : fld 1 1 input ≤ 2) (hzero : zeroAt 2 2 input = true)
    (hoff : fld 4 4 input = 0) (hrest : zeroAt 8 120 input = true) (hruns : slotRuns (fld 1 1 input - 1) s = false)
    (hidle : s.mc.transfer = none) (hbg : s.mc.bg = []) :
    exec (.transferFw .sideband input) s = .next (transferPart .sideband 0 [] false
      (startTransfer (fld 1 1 input - 1) (startBg .sideband 0x0201 s))) := by
  have hdrop : input.drop 128 = [] := List.drop_eq_nil_of_le hlen.le
  have hfree : bgFree .sideband 0x0201 s = true := by simp [bgFree, hbg]
  have hslot : ¬ fld 1 1 input = 0 := by omega
  have hin : ¬ 2 < fld 1 1 input := by omega
  refine (exec_bcs_checked rfl hopen (by simp [hlen]) (by simp [hact, hzero, hoff, hrest, hdrop])).trans ?_
  simp [hact, hslot, hin, hruns, hidle, inBackground_free hfree, hoff, hdrop]

theorem exec_activateFw_nextReset {input : Bytes} {s : State} (hopen : bcsOpen .sideband 0x0202 s = true) (hlen : input.length = 2)
    (hact : fld 0 1 input = 1) (hlow : 1 ≤ fld 1 1 input) (hhigh : fld 1 1 input ≤ 2)
    (hvalid : (fwSlot (fld 1 1 input - 1) s).valid = true) (hbg : s.mc.bg = []) :
    exec (.activateFw .sideband input) s = .next (writeOption { comingOption s with nextSlot := fld 1 1 input - 1 }
      (.nextSlot (some .sideband) (fld 1 1 input - 1)) (startBg .sideband 0x0202 s)) := by
  have hfree : bgFree .sideband 0x0202 s = true := by simp [bgFree, hbg]
  have hslot : ¬ fld 1 1 input = 0 := by omega
  have hin : ¬ 2 < fld 1 1 input := by omega
  refine (exec_bcs_checked rfl hopen (by simp [hlen]) (by simp [hact])).trans ?_
  simp only [hact, hslot, hin, hvalid, inBackground_free hfree]
  rfl

/-! ### Background results (R489) -/

theorem exec_backgroundCommandComplete_response {b : BgCmd} {r : BgResult} {s : State} (hbg : s.mc.bg = [b]) (hr : b.result = some r)
    (hpath : mailKey b.path = none) : exec (.backgroundCommandComplete b.opcode) s =
      .next (answerV b.path b.opcode r.rc r.vstatus r.out { s with mc := { s.mc with bg := [] } }) := by
  change execBackgroundCommandComplete b.opcode s = _
  simp [execBackgroundCommandComplete, hbg, hr, hpath]

/-! ### The obligation -/

/-- Settles O43: a management reset leaves what endures (`startRestart_begun`), the end of the restart is `restarted_onlyLogs`, and the rows
of the firmware commands are their `exec_` lemmas. The payloads of Transfer FW and Activate FW and their answers are presumed (log 123); the
form of the revision in Get FW Info is the model's choice (log 125). -/
theorem complexRestartsAndFirmware : Obligations.ComplexRestartsAndFirmware := by
  unfold Obligations.ComplexRestartsAndFirmware
  refine ⟨fun sram s ⟨hup, hactive, hf0, hf1, hspare, hidle, hroom⟩ => ?lockstep,
    fun s ⟨hup, hserves, hpair, hrestart, hfirst, hidle⟩ => ?watchdog, fun r s ⟨hr, hready, hint, hbg, hact, hheld, hroom⟩ => ?complete,
    fun a r s ⟨ha, hnew, hr, hcause, hdue, hidle⟩ => ?selfCheck, fun x s ⟨hx, hdue, hroom⟩ => ?timeout,
    fun b r s ⟨hbg, hr, hpath⟩ => ?background, fun path input s hopen hlen => ?info,
    fun input s ⟨hopen, hlen, hact, hlow, hhigh, hzero, hoff, hrest⟩ ⟨hruns, hidle, hbg⟩ => ?transfer,
    fun input s ⟨hopen, hlen, hact, hlow, hhigh, hvalid, hbg⟩ => ?activate⟩
  case lockstep =>
    have hlogs := failureLogged_onlyLogs (if sram then 3 else 2) s
    have h := startRestart_begun (if sram then 3 else 2) false (s := failureLogged (if sram then 3 else 2) s)
      (by rw [hlogs.mc]; exact hidle)
    refine ⟨_, exec_lockstepMismatch_spare hup hactive hf0 hf1 hspare, h.serving, ?_, ?_, ?_, ?_, ?_, ?_, ?_, ?_, ?_⟩
    · rw [h.active, hlogs.mc]; rfl
    · rw [h.failed0, hlogs.mc]; rfl
    · rw [h.spareUsable, hlogs.mc]; rfl
    · rw [h.cause, hlogs.tb]; rfl
    · rw [recorded, h.ev]
      exact failureLogged_recorded _ hroom
    · rw [h.chest, hlogs.pu]; rfl
    · rw [h.ti, hlogs.ti]; rfl
    · rw [h.table, hlogs.reg]; rfl
    · rw [h.out, hlogs.out]; rfl
  case watchdog =>
    have h := startRestart_begun 0 false (s := modMc (fun m => { m with lastExpiry := some s.tb.beat }) s) hidle
    exact ⟨_, exec_watchdogExpiry_first hup hserves hpair hrestart hfirst, h.serving, h.restart, h.lastExpiry, h.active, h.chest, h.ti,
      h.table, h.out⟩
  case complete =>
    have h := restarted_onlyLogs (s := modPair (fun p => { p with heldBcs := [] }) s) hr hint hbg hact
    refine ⟨_, exec_complexRestartComplete_idle hr hready hheld, ?_, ?_, ?_, ?_, h.recorded ?_, h.pu, h.ti, h.reg, h.out⟩
    · rw [h.mc]; rfl
    · rw [h.mc]; rfl
    · rw [h.mc]; rfl
    · rw [h.mc]; rfl
    · exact recorded_raise _ _ _ (by exact hroom)
  case selfCheck =>
    have h := startRestart_begun 4 false (s := modMc (fun m => { m with activation := some { a with rolled := true } }) s) hidle
    exact ⟨_, exec_activationSelfCheckTimeout_due ha hnew hr hcause hdue, h.activation, h.cause, h.serving, h.chest, h.ti, h.table, h.out⟩
  case timeout =>
    obtain ⟨data, hdropped⟩ := dropTransfer_some 2 hx
    have hlogs := raise_onlyLogs 0x0C05 .info data (transferDropped x s)
    refine ⟨_, exec_fwTransferTimeout_due hx hdue, ?_⟩
    rw [hdropped]
    refine ⟨?_, ?_, recorded_raise _ _ _ (by exact hroom), ?_, ?_, ?_, ?_⟩
    · rw [hlogs.mc, transferDropped, modSlot_transfer]
      rfl
    · rw [fwSlot_of_mc hlogs.mc, transferDropped, fwSlot_modSlot_self]
    · simp [transferDropped]
    · simp [transferDropped]
    · simp [transferDropped]
    · simp [transferDropped]
  case background =>
    exact ⟨_, exec_backgroundCommandComplete_response hbg hr hpath, (answerV_out ..).subset (List.mem_cons_self ..), by simp⟩
  case info =>
    have hrunning : s.mc.rom = false := by simp_all [bcsOpen]
    refine ⟨_, exec_bcs_open rfl hopen (by simp [hlen]), ?_, by simp⟩
    simp only [hrunning]
    exact answered_success ..
  case transfer =>
    have h := startTransfer_takePart (fld 1 1 input - 1) (startBg .sideband 0x0201 s)
    have hstarted : (takePart (fld 1 1 input - 1) 0 [] (startTransfer (fld 1 1 input - 1) (startBg .sideband 0x0201 s))).mc.bg =
        [{ path := .sideband, opcode := 0x0201 }] := by rw [h.bg, startBg_bg, hbg]; rfl
    refine ⟨_, exec_transferFw_initiate hopen hlen hact hlow hhigh hzero hoff hrest hruns hidle hbg, ?_⟩
    rw [transferPart_first, finishBg_alone _ _ _ hstarted]
    exact ⟨h.transfer, rfl, h.invalid, h.reg, h.ti, h.pu, h.out⟩
  case activate =>
    have hlogs : OnlyLogs (startBg .sideband 0x0202 s) _ :=
      norSubmit_onlyLogs (.optionWrite { comingOption s with nextSlot := fld 1 1 input - 1 } (.nextSlot (some .sideband) (fld 1 1 input - 1))) _
    refine ⟨_, exec_activateFw_nextReset hopen hlen hact hlow hhigh hvalid hbg, ?_, mem_norOps_norSubmit .., ?_, hlogs.reg, hlogs.ti,
      hlogs.pu, hlogs.out⟩
    · rw [writeOption, hlogs.mc, startBg_bg, hbg]
      rfl
    · rw [writeOption, hlogs.mc]
      rfl

end Sys2Proof.Machine
end

section
/-! PROOFS. The configuration flash and the event recorder at work, and what is read of them (13_management R499, R500, R502,
15_config_flash_events R543 to R566, 17_startup_service_life R612). -/

namespace Sys2Proof.Machine

/-! ### The end of an operation of the configuration flash (R543, R545, R554) -/

/-- The running operation is over; nothing follows at once. -/
def norIdle (s : State) : State := modNor (fun n => { n with running := none, suspended := false, suspends := 0 }) s

theorem issueOp_nothing {s : State} (hwaiting : s.nor.waiting = []) : issueOp s = s := by
  simp [issueOp, hwaiting, nextOp]

theorem norNext_nothing {s : State} (hwaiting : s.nor.waiting = []) : norNext s = norIdle s :=
  issueOp_nothing (s := norIdle s) hwaiting

/-- Block 4, which holds the option copies, is none of the recent area's (R541): its ERASE_DONE entry carries no index. -/
theorem eraseDone_option (n : Nat) (s : State) : eraseDone 4 (some n) s = counterEntry 2 (eraseScope (some n)) 4 0 0 s := rfl

section
variable {s : State} (hresumed : s.nor.suspended = false) (hwaiting : s.nor.waiting = []) (hruns : s.ev.running = true)
include hresumed hwaiting hruns

theorem exec_norOperationComplete_option {c : OptionCopy} {op : Nat} (hop : s.nor.running = some (.optionWrite c (.answer none op))) :
    exec (.norOperationComplete false) s = .next (norIdle (storeOption c s)) := by
  have hstored : norNext (storeOption c s) = norIdle (storeOption c s) := norNext_nothing (by exact hwaiting)
  change execNorOperationComplete false s = _
  simp only [execNorOperationComplete, hop, hresumed, hruns]
  exact (congrArg Host.Outcome.next hstored :)

/-- A page that fails is not in its slot, and the slot holds what came before it (R543). -/
def pageFailed (slot off : Nat) (s : State) : State :=
  modSlot slot (fun x => { x with image := x.image.take off, valid := x.valid && decide (off ≠ 0x003FFFC0) })
    (raise 0x0E06 .error (failureData (.fwProgram slot off) s) s)

theorem exec_norOperationComplete_pageFailed {slot off : Nat} (hop : s.nor.running = some (.fwProgram slot off)) :
    exec (.norOperationComplete true) s = .next (norIdle (pageFailed slot off s)) := by
  have hfailed : norNext (pageFailed slot off s) = norIdle (pageFailed slot off s) := norNext_nothing (by simpa [pageFailed, modSlot] using hwaiting)
  change execNorOperationComplete true s = _
  simp only [execNorOperationComplete, hop, hresumed, hruns]
  exact (congrArg Host.Outcome.next hfailed :)

end

theorem exec_eraseSuspend_running {b : Nat} {sec : Option Nat} {s : State} (hop : s.nor.running = some (.erase b sec))
    (hresumed : s.nor.suspended = false) (hcount : s.nor.suspends < 64) (hdue : s.nor.suspends = 0 ∨ s.nor.ranSince + 3907 ≤ s.tb.beat) :
    exec .eraseSuspend s = .next (modNor (fun n => { n with suspended := true, suspends := n.suspends + 1 }) s) := by
  have hmay : (s.nor.suspended || decide (64 ≤ s.nor.suspends) ||
      (decide (0 < s.nor.suspends) && decide (s.tb.beat < s.nor.ranSince + 3907))) = false := by
    simp only [hresumed, Bool.false_or, Bool.or_eq_false_iff, Bool.and_eq_false_iff, decide_eq_false_iff_not]
    omega
  change execEraseSuspend s = _
  simp [execEraseSuspend, hop, hmay]

/-! ### The counter log (R546, R549, R550) -/

theorem raise_queue_length_le (code : Nat) (sev : Severity) (data : Bytes) (s : State) :
    (raise code sev data s).ev.queue.length ≤ s.ev.queue.length + 1 := by
  by_cases hroom : s.ev.queue.length < 1024
  · rw [raise_queue_room code sev data hroom, List.length_append, List.length_singleton]
  · exact (congrArg List.length (raise_queue_full code sev data (Nat.le_of_not_lt hroom))).le.trans (Nat.le_succ _)

/-- An erase's intent is recorded with one event at most (R546). -/
theorem eraseIntent_queue_length_le (block : Nat) (sector : Option Nat) (s : State) :
    (eraseIntent block sector s).ev.queue.length ≤ s.ev.queue.length + 1 := by
  unfold eraseIntent
  dsimp only
  split
  · exact raise_queue_length_le ..
  · exact Nat.le_succ _

theorem eraseIntent_snapshot (block : Nat) (sector : Option Nat) (s : State) :
    (eraseIntent block sector s).nor.snapshot = s.nor.snapshot := by
  unfold eraseIntent
  dsimp only
  split <;> rfl

/-- The counter log in its other block, which takes a snapshot and its body (R549). -/
def logCompacted (s : State) : State :=
  let b := 19 - s.nor.logBlock
  let s := eraseIntent b none s
  modNor (fun n => { n with
    logBlock := b, snapshot := s.nor.snapshot + 1, lseq := n.lseq + 1, logLeft := 1870
    log := [{ type := 5, value := s.nor.snapshot + 1, lseq := n.lseq + 1, data := 177 }] }) s

theorem logCompacted_onlyLogs (s : State) : OnlyLogs s (logCompacted s) :=
  (eraseIntent_onlyLogs (19 - s.nor.logBlock) none s).trans ⟨rfl, List.prefix_rfl, rfl⟩

theorem exec_counterLogCompaction_due {s : State} (hleft : s.nor.logLeft < 160) (hidle : s.nor.running = none) (hruns : s.ev.running = true) :
    exec .counterLogCompaction s = .next (raise 0x0E07 .info (le 1 (19 - s.nor.logBlock) ++ zeros 3 ++
      le 4 ((eraseIntent (19 - s.nor.logBlock) none s).nor.snapshot + 1)) (logCompacted s)) := by
  have hdue : ¬ 160 ≤ s.nor.logLeft := by omega
  change execCounterLogCompaction s = _
  simp only [execCounterLogCompaction, hdue, hidle, hruns]
  rfl

theorem exec_hourEntry_due {s : State} (hup : vcoreUp s = true) (hfree : dieFree s = true)
    (hdue : 7031250000 * (s.nor.hoursUp + 1) ≤ s.tb.beat) :
    exec .hourEntry s = .next (resumeErase (modNor (fun n => { n with hoursUp := n.hoursUp + 1 })
      (counterEntry 3 0 0 (s.ev.hours + 1) 0 { s with ev := { s.ev with hours := s.ev.hours + 1 } }))) := by
  have hnow : ¬ s.tb.beat < 7031250000 * (s.nor.hoursUp + 1) := Nat.not_lt.mpr hdue
  change execHourEntry s = _
  simp only [execHourEntry, hup, hfree, hnow]
  rfl

/-! ### The event recorder (R561 to R566) -/

/-- The state in which the oldest queued record stands in the recent area, and in the first area while that has room. -/
def recordWritten (e : Event) (r : List Event) (s : State) : State :=
  let i := s.ev.nextIndex
  resumeErase { s with ev := { s.ev with
    queue := r, recent := mput i e s.ev.recent, first := if i < s.ev.firstBase + 4096 then mput i e s.ev.first else s.ev.first
    nextIndex := i + 1 } }

theorem exec_eventRecordWrite_inBlock {e : Event} {r : List Event} {s : State} (hqueue : s.ev.queue = e :: r)
    (hruns : s.ev.running = true) (hfree : dieFree s = true) (herasing : erasing recentBlock s = false) (hrestart : s.mc.restart = none)
    (hpair : noPair s = false) (hlost : s.ev.lostUnreported = 0) (hblock : (s.ev.nextIndex + 1) % 1024 ≠ 0) :
    exec .eventRecordWrite s = .next (recordWritten e r s) := by
  have hreported : reportLost (recordWritten e r s) = recordWritten e r s := if_pos (.inl hlost)
  have hmay : (!s.ev.running || !dieFree s || erasing recentBlock s || s.mc.restart.isSome || noPair s) = false := by
    simp [hruns, hfree, herasing, hrestart, hpair]
  change execEventRecordWrite s = _
  simp only [execEventRecordWrite, hqueue, hmay, if_neg hblock]
  exact (congrArg Host.Outcome.next hreported :)

theorem exec_pendingEventRelay_one {e : Event} {s : State} (hruns : s.ev.running = true) (hpending : s.ev.supPending = [e])
    (hlost : s.ev.supLost = 0) (hroom : s.ev.queue.length < 1024) :
    exec .pendingEventRelay s = .next { s with ev := { setEvt (severityBit e.severity) { s.ev with queue := s.ev.queue ++ [e] } with
      supPending := [], supLost := 0 } } := by
  change execPendingEventRelay s = _
  simp [execPendingEventRelay, hruns, hpending, queueEvent, hroom, setEvt, hlost]

/-! ### The obligation -/

/-- Settles O44: each row is its `exec_` lemma; the queries answer from the state and leave it. What a failed flash operation does to the image
is the model's choice (log 147), and the fixed numbers of the spares are the part's (log 122). -/
theorem flashRecorderAndWearLog : Obligations.FlashRecorderAndWearLog := by
  unfold Obligations.FlashRecorderAndWearLog
  refine ⟨fun c op s ⟨hop, hresumed, hwaiting, hruns⟩ => ?option, fun slot off s ⟨hop, hresumed, hwaiting, hruns, hroom⟩ => ?page,
    fun b sec s ⟨hop, hresumed, hcount, hdue⟩ => ?suspend, fun s ⟨hleft, hidle, hruns, hroom⟩ => ?compact,
    fun s ⟨hup, hfree, hdue⟩ => ?hour, fun e r s ⟨hqueue, hruns, hfree, herasing, hrestart, hpair, hlost, hblock⟩ => ?record,
    fun e s ⟨hruns, hpending, hlost, hroom⟩ => ?relay,
    fun path input e s hopen ⟨hlen, harea, hzero, hcount⟩ hrecords => ?events, fun path input s hopen hlen => ?status,
    fun path input s hopen hlen => ?spares, fun path input s hopen ⟨hlen, hlun, hrange, hone, hmax⟩ => ?erases,
    fun path input s hopen ⟨hlen, hlun, hfirst, hone⟩ => ?stripes, fun path input s hopen ⟨hlen, hempty⟩ => ?wear,
    fun path input s hopen ⟨hlen, hstream, hbind, hqueue⟩ => ?bind⟩
  case option =>
    exact ⟨_, exec_norOperationComplete_option hresumed hwaiting hruns hop, rfl, mget_mput_self .., rfl, rfl, rfl, rfl, rfl⟩
  case page =>
    refine ⟨_, exec_norOperationComplete_pageFailed hresumed hwaiting hruns hop, rfl, ?_, ?_, ?_⟩
    · exact recorded_of_queue (recorded_raise _ _ _ hroom) List.prefix_rfl
    · rw [fwSlot_of_mc (t := norIdle (pageFailed slot off s)) (s := pageFailed slot off s) rfl, pageFailed, fwSlot_modSlot_self]
      rfl
    · simp [norIdle, pageFailed, modSlot]
  case suspend => exact ⟨_, exec_eraseSuspend_running hop hresumed hcount hdue, rfl, rfl, rfl, rfl, rfl, rfl⟩
  case compact =>
    have hlogs := logCompacted_onlyLogs s
    have hstill : eventRoom (logCompacted s) = true := by
      have hone := eraseIntent_queue_length_le (19 - s.nor.logBlock) none s
      have hlength : (logCompacted s).ev.queue.length < 1024 := hone.trans_lt (by omega)
      simpa [eventRoom] using hlength
    refine ⟨_, exec_counterLogCompaction_due hleft hidle hruns, rfl, ?_, rfl, recorded_raise _ _ _ hstill, hlogs.out, hlogs.pu,
      hlogs.ti, hlogs.reg⟩
    exact congrArg (· + 1) (eraseIntent_snapshot ..)
  case hour => exact ⟨_, exec_hourEntry_due hup hfree hdue, rfl, rfl, rfl, rfl, rfl, rfl⟩
  case record =>
    exact ⟨_, exec_eventRecordWrite_inBlock hqueue hruns hfree herasing hrestart hpair hlost hblock, rfl, mget_mput_self .., rfl, rfl, rfl,
      rfl, rfl⟩
  case relay =>
    exact ⟨_, exec_pendingEventRelay_one hruns hpending hlost (by simpa [eventRoom] using hroom), rfl, rfl, rfl, rfl, rfl, rfl⟩
  case events =>
    refine ⟨_, exec_bcs_checked rfl hopen (by simp [hlen]) (by simp [harea, hzero, hcount]), ?_, by simp⟩
    simpa [harea, hcount, hrecords] using answered_success path 0xC030 (le 4 1 ++ le 4 (fld 4 4 input + 1) ++ zeros 8 ++ eventBytes e) s
  case status =>
    refine ⟨_, exec_bcs_open rfl hopen (by simp [hlen]), ?_, by simp⟩
    cases hrecent : s.ev.recent with
    | nil => exact answered_success ..
    | cons e r => exact answered_success ..
  case spares => exact ⟨_, exec_bcs_open rfl hopen (by simp [hlen]), answered_success .., by simp⟩
  case erases =>
    have hfirst : fld 2 4 input < s.ident.blocksPerLun := by omega
    exact ⟨_, exec_bcs_checked rfl hopen (by simp [hlen]) (by simp [hlun, hfirst, hone, hmax, hrange]), answered_success .., by simp⟩
  case stripes =>
    have hlast : fld 2 4 input + 1 ≤ s.ident.blocksPerLun := hfirst
    refine ⟨_, exec_bcs_checked rfl hopen (by simp [hlen]) (by simp [hlun, hfirst, hone, hlast]), ?_, by simp⟩
    simp only [hone]
    exact answered_success ..
  case wear =>
    refine ⟨_, exec_bcs_open rfl hopen (by simp [hlen]), ?_, by simp⟩
    simpa [hempty] using answered_success path 0xC073 (le 4 0 ++ le 4 (fld 0 4 input)) s
  case bind =>
    refine ⟨_, exec_bcs_checked rfl hopen (by simp [hlen]) (by simp [hstream, hbind, hqueue]), answered_success .., ?_⟩
    simp [hbind, streamOf, mget_mput_self]

end Sys2Proof.Machine
end

section
/-! PROOFS. Identity, attestation, signing windows, protection levels, the sanitize, the rollback fuses and the TAP (13_management R499,
14_trust R517 to R536). -/

namespace Sys2Proof.Machine

theorem OnlyLogs.trust {s t : State} (h : OnlyLogs s t) : t.trust = s.trust := (congrArg State.trust h.rest :)

/-! ### The key unit (R519 to R524) -/

/-- With nothing waiting the key unit signs nothing. -/
theorem serveSigner_idle {s : State} (n : Nat) (h : s.trust.signer.waiting = []) : serveSigner n s = s := by
  cases n with
  | zero => rfl
  | succ n => simp only [serveSigner, h]

/-- The report of an attestation with its signature (R523). -/
def signedReport (nonce : Bytes) (s : State) : Bytes := reportBody nonce s ++ padTo 9893 (signature (reportBody nonce s) s)

/-- A report that waits alone is signed, with the next index. -/
theorem serveSigner_report {path : BcsPath} {nonce : Bytes} {s : State} (hsign : canSign s = true) :
    serveSigner 1 (modSigner (fun g => { g with waiting := [.report path nonce] }) s) =
      success path 0xC042 (signedReport nonce s) (useIndex (modSigner (fun g => { g with waiting := [] }) s)) := by
  have hstill : canSign (modSigner (fun g => { g with waiting := [.report path nonce] }) s) = true := hsign
  have hwaiting : (modSigner (fun g => { g with waiting := [.report path nonce] }) s).trust.signer.waiting = [.report path nonce] := rfl
  have htaken : modSigner (fun g => { g with waiting := [] }) (modSigner (fun g => { g with waiting := [.report path nonce] }) s) =
      modSigner (fun g => { g with waiting := [] }) s := rfl
  have hbody : reportBody nonce (modSigner (fun g => { g with waiting := [] }) s) = reportBody nonce s := rfl
  have hsigned (b : Bytes) : signature b (modSigner (fun g => { g with waiting := [] }) s) = signature b s := rfl
  simp only [serveSigner, hwaiting, hstill, Bool.not_true, Bool.false_eq_true, if_false, htaken, hbody, hsigned, signedReport]

theorem exec_getAttestationReport_signs {path : BcsPath} {input : Bytes} {s : State} (hopen : bcsOpen path 0xC042 s = true)
    (hlen : input.length = 32) (hsign : canSign s = true) (hnone : s.trust.signer.waiting = []) :
    exec (.getAttestationReport path input) s =
      .next (success path 0xC042 (signedReport input s) (useIndex (modSigner (fun g => { g with waiting := [] }) s))) := by
  refine (exec_bcs_open rfl hopen (by simp [hlen])).trans ?_
  rw [← serveSigner_report hsign]
  simp [modSigner, modTrust, hnone]

theorem exec_keyUnitReady_idle {s : State} (hserves : s.mc.serving = true) (hrom : s.mc.rom = false) (hnew : s.trust.signer.ready = false)
    (hnone : s.trust.signer.waiting = []) : exec .keyUnitReady s = .next (modSigner (fun g => { g with ready := true }) s) := by
  have hidle (n : Nat) : serveSigner n (modSigner (fun g => { g with ready := true }) s) = modSigner (fun g => { g with ready := true }) s :=
    serveSigner_idle n hnone
  change execKeyUnitReady s = _
  simp [execKeyUnitReady, hserves, hrom, hnew, hidle]

/-! ### Signing windows (R519) -/

/-- The beginning of an operation is recorded with one event at most (15_config_flash_events R546). -/
theorem beginOp_queue_length_le (o : NorOp) (s : State) : (beginOp o s).ev.queue.length ≤ s.ev.queue.length + 1 := by
  cases o with
  | optionWrite c after => exact eraseIntent_queue_length_le ..
  | fwProgram slot off => exact Nat.le_succ _
  | erase block sector =>
    simp only [beginOp]
    split <;> exact eraseIntent_queue_length_le ..

theorem issueOp_queue_length_le (s : State) : (issueOp s).ev.queue.length ≤ s.ev.queue.length + 1 := by
  unfold issueOp
  split
  · exact Nat.le_succ _
  · split
    · exact Nat.le_succ _
    · exact beginOp_queue_length_le ..

theorem windowRecord_queue_length_le (s : State) : (windowRecord s).ev.queue.length ≤ s.ev.queue.length + 1 := by
  rw [windowRecord_eq]
  split
  · exact issueOp_queue_length_le ..
  · exact Nat.le_succ _

/-- The state in which a window is reserved, its record complete (R519). -/
def windowReserved (window : Nat) (s : State) : State :=
  windowRecord (modSigner (fun g => { g with reserved := window + 1, waitSince := none }) s)

theorem windowReserved_onlyLogs (window : Nat) (s : State) :
    OnlyLogs (modSigner (fun g => { g with reserved := window + 1, waitSince := none }) s) (windowReserved window s) :=
  windowRecord_onlyLogs _

theorem windowReserved_eventRoom (window : Nat) {s : State} (hroom : s.ev.queue.length < 1023) :
    eventRoom (windowReserved window s) = true := by
  have hlength : (windowReserved window s).ev.queue.length < 1024 := (windowRecord_queue_length_le _).trans_lt (Nat.succ_lt_succ hroom)
  simpa [eventRoom] using hlength

/-- Event 0x0D05 tells how long a signature waited for the window (R520). -/
def waitReported (since : Option Nat) (window : Nat) (s : State) : State :=
  match since with
  | some b => raise 0x0D05 .warning (le 4 (s.tb.beat - b) ++ le 4 window) s
  | none => s

theorem waitReported_onlyLogs (since : Option Nat) (window : Nat) (s : State) : OnlyLogs s (waitReported since window s) := by
  cases since with
  | none => exact .refl s
  | some b => exact raise_onlyLogs ..

/-- The events of a window that is reserved: 0x0D04, and 0x0D05 where a signature waited. -/
def windowTold (window : Nat) (s : State) : State :=
  waitReported s.trust.signer.waitSince window (raise 0x0D04 .info (le 4 window) (windowReserved window s))

theorem windowTold_onlyLogs (window : Nat) (s : State) :
    OnlyLogs (modSigner (fun g => { g with reserved := window + 1, waitSince := none }) s) (windowTold window s) :=
  ((windowReserved_onlyLogs window s).trans (raise_onlyLogs ..)).trans (waitReported_onlyLogs ..)

theorem exec_signingWindowReservation_due {window : Nat} {s : State} (hdue : windowDue window s = true) (hfree : windowLogFree s = true)
    (hnone : s.trust.signer.waiting = []) : exec (.signingWindowReservation window) s = .next (windowTold window s) := by
  have hwaiting : (windowTold window s).trust.signer.waiting = [] := by
    rw [(windowTold_onlyLogs window s).trust]
    exact hnone
  have hexec : exec (.signingWindowReservation window) s =
      .next (serveSigner (windowTold window s).trust.signer.waiting.length (windowTold window s)) :=
    if_neg (by simp [hdue, hfree])
  rw [hexec, serveSigner_idle _ hwaiting]

/-! ### Fuses and protection levels (R517, R535, R536) -/

theorem exec_rollbackFuseUpdate_rises {s : State} (hserves : s.mc.serving = true) (hrom : s.mc.rom = false)
    (hact : s.mc.activation = none) (hbelow : s.trust.rollback < (fwSlot s.mc.fwActive s).svn) :
    exec .rollbackFuseUpdate s = .next (raise 0x0D03 .info (le 1 s.trust.rollback ++ le 1 (fwSlot s.mc.fwActive s).svn)
      (modTrust (fun t => { t with rollback := (fwSlot s.mc.fwActive s).svn }) s)) := by
  have habove : ¬ (fwSlot s.mc.fwActive s).svn ≤ s.trust.rollback := Nat.not_le.mpr hbelow
  change execRollbackFuseUpdate s = _
  simp [execRollbackFuseUpdate, hserves, hrom, hact, habove]

section
variable {path : BcsPath} {input : Bytes} {s : State} (hopen : bcsOpen path 0xC051 s = true) (hlen : input.length = 2)
  (hkey : fld 1 1 input = 1)
include hopen hlen hkey

theorem exec_setProtectionLevel_burn (hlevel : fld 0 1 input = 2) (hnot : roLevel s ≠ 2) :
    exec (.setProtectionLevel path input) s = .next (success path 0xC051 [] (raise 0x0D06 .info (le 1 (roLevel s) ++ le 1 2 ++ le 1 0)
      (modTrust (fun t => { t with level2 := true }) s))) := by
  refine (exec_bcs_checked rfl hopen (by simp [hlen]) (by simp [hlevel, hkey])).trans ?_
  simp [hlevel, hnot, hnot.symm]

theorem exec_setProtectionLevel_present (hlevel : fld 0 1 input = roLevel s) (hrange : s.trust.level ≤ 1) :
    exec (.setProtectionLevel path input) s = .next (success path 0xC051 [] s) := by
  have hfield : roLevel s ≤ 2 := by
    unfold roLevel
    split <;> omega
  refine (exec_bcs_checked rfl hopen (by simp [hlen]) (by simp [hlevel, hfield, hkey])).trans ?_
  simp [hlevel]

end

/-! ### The sanitize (R531, R532) -/

/-- The state in which a sanitize has started in the background, before its start mark is journaled. -/
def sanitizeStarted (kind : Nat) (s : State) : State :=
  modTrust (fun t => { t with run := some { kind := kind, step := 1, path := some .sideband } }) (startBg .sideband 0xC052 s)

theorem journalMeta_trust (items : List MetaItem) (acts : List MetaAct) (both : Bool) (s : State) :
    (journalMeta items acts both s).trust = s.trust := by
  obtain ⟨p, w, hjournal, -⟩ := journalMeta_eq items acts both s
  rw [hjournal]

theorem journalMeta_mc (items : List MetaItem) (acts : List MetaAct) (both : Bool) (s : State) :
    (journalMeta items acts both s).mc = s.mc := by
  obtain ⟨p, w, hjournal, -⟩ := journalMeta_eq items acts both s
  rw [hjournal]

theorem exec_sanitize_starts {input : Bytes} {s : State} (hopen : bcsOpen .sideband 0xC052 s = true) (hlen : input.length = 2)
    (hkind : fld 0 1 input ≤ 1) (hkey : fld 1 1 input = 1) (htable : s.reg.table = []) (hrings : s.cap.rings = [])
    (hchannels : s.cap.channels = []) (hrun : s.trust.run = none) (hlowering : s.trust.lowering = false) (hbg : s.mc.bg = []) :
    exec (.sanitize .sideband input) s = .next (journalMeta [.sanitizeMark 0 (fld 0 1 input) s.tb.beat]
      [.item (.sanitizeMark 0 (fld 0 1 input) s.tb.beat), .event 0x0D07 .info (le 1 0 ++ le 1 (fld 0 1 input))] false
      (sanitizeStarted (fld 0 1 input) s)) := by
  have hfree : bgFree .sideband 0xC052 s = true := by simp [bgFree, hbg]
  refine (exec_bcs_checked rfl hopen (by simp [hlen]) (by simp [hkind, hkey])).trans ?_
  simp [weighing, captureBusy, htable, hrings, hchannels, hrun, hlowering, inBackground_free hfree, startBg_tb, sanitizeStarted]

/-! ### The obligation -/

/-- Settles O45: each row is its `exec_` lemma; with nothing waiting the key unit signs no more than the row says (`serveSigner_idle`,
`serveSigner_report`). The numbers of the JTAG instructions are the model's choice (log 174). -/
theorem trustSigningAndProtection : Obligations.TrustSigningAndProtection := by
  unfold Obligations.TrustSigningAndProtection
  refine ⟨fun path input s hopen hlen => ?key, fun path input s hopen ⟨hlen, hsign, hnone⟩ => ?report,
    fun window s ⟨hdue, hfree, hnone, hroom⟩ => ?window,
    fun s ⟨hserves, hrom, hnew, hnone⟩ => ⟨_, exec_keyUnitReady_idle hserves hrom hnew hnone, rfl⟩,
    fun s ⟨hserves, hrom, hact, hbelow, hroom⟩ => ?rollback, fun path input s hopen hlen => ?level,
    fun path input s hopen ⟨hlen, hlevel, hkey, hnot, hroom⟩ => ?burn, fun path input s hopen ⟨hlen, hlevel, hkey, hrange⟩ => ?present,
    fun input s ⟨hopen, hlen, hkind, hkey⟩ ⟨htable, hrings, hchannels, hrun, hlowering, hbg⟩ => ?sanitize,
    fun i s ⟨hhigh, hlevel⟩ => ?bypass, fun i s hallowed => ?selected⟩
  case key => exact ⟨_, exec_bcs_open rfl hopen (by simp [hlen]), answered_success .., by simp⟩
  case report =>
    exact ⟨_, exec_getAttestationReport_signs hopen hlen hsign hnone, answered_success .., by simp [useIndex, modSigner]⟩
  case window =>
    have hlogs := windowTold_onlyLogs window s
    refine ⟨_, exec_signingWindowReservation_due hdue hfree hnone, ?_, ?_, ?_, ?_, hlogs.out, hlogs.pu, hlogs.ti, hlogs.reg⟩
    · rw [hlogs.trust]; rfl
    · rw [hlogs.trust]; rfl
    · rw [hlogs.trust]; rfl
    · exact (waitReported_onlyLogs ..).recorded (recorded_raise _ _ _ (windowReserved_eventRoom window hroom))
  case rollback =>
    exact ⟨_, exec_rollbackFuseUpdate_rises hserves hrom hact hbelow, rfl, recorded_raise _ _ _ hroom, rfl, rfl, rfl, rfl⟩
  case level => exact ⟨_, exec_bcs_open rfl hopen (by simp [hlen]), answered_success .., by simp⟩
  case burn =>
    refine ⟨_, exec_setProtectionLevel_burn hopen hlen hkey hlevel hnot, answered_success .., by simp [roLevel], ?_, by simp⟩
    rw [recorded, success, answer_ev]
    exact recorded_raise _ _ _ hroom
  case present => exact ⟨_, exec_setProtectionLevel_present hopen hlen hkey hlevel hrange, answered_success .., by simp⟩
  case sanitize =>
    refine ⟨_, exec_sanitize_starts hopen hlen hkind hkey htable hrings hchannels hrun hlowering hbg, ?_, ?_, journalMeta_items .., ?_, ?_, ?_⟩
    · rw [journalMeta_trust]; rfl
    · rw [journalMeta_mc, sanitizeStarted, modTrust_mc, startBg_bg, hbg]; rfl
    · rw [journalMeta_out]; rfl
    · rw [journalMeta_reg]; rfl
    · rw [journalMeta_ti]; rfl
  case bypass =>
    have hrefused : (decide (i < 4) || roLevel s == 0) = false := by simp [hlevel, hhigh]
    refine ⟨_, rfl, ?_⟩
    simp only [hrefused]
    rfl
  case selected =>
    have hserved : (decide (i < 4) || roLevel s == 0) = true := by simpa using hallowed
    refine ⟨_, rfl, ?_⟩
    simp only [hserved]
    rfl

end Sys2Proof.Machine
end

section
/-! PROOFS. Power states of units, the device parameters, Device Standby and Identify Controller (13_management R497, R498, R504, R505,
16_power R583 to R591). -/

namespace Sys2Proof.Machine

/-! ### A unit's record (R583) -/

theorem unitOfPower_modUnit_self (u : Nat) (f : UnitPower → UnitPower) (s : State) : unitOfPower u (modUnit u f s) = f (unitOfPower u s) := by
  simp [unitOfPower, modUnit, mgetD, mmodD, mget_mput_self]

theorem together_alone {u : Nat} {s : State} (h : unitKind u s ≠ some .slice) : together u s = [u] := if_neg h

/-- Every unit but a front-cache bank is released to its on state in its record alone (R587). -/
theorem commandState_release {u : Nat} {s : State} (h : unitKind u s ≠ some .cacheBank) :
    commandState u 0xFF s = modUnit u (fun x => { x with state := 0, toEnter := none, entry := none })
      (modUnit u (fun x => { x with commanded := none }) s) := if_neg (by exact h)

theorem exec_setUnitPower_release {path : BcsPath} {input : Bytes} {s : State} (hopen : bcsOpen path 0xC021 s = true)
    (hlen : input.length = 8) (hstate : fld 2 1 input = 0xFF) (hidle : fld 4 4 input = 0xFFFFFFFF) (hzero : zeroAt 3 1 input = true)
    (hexists : (unitKind (fld 0 2 input) s).isSome = true) :
    exec (.setUnitPower path input) s = .next (success path 0xC021 [] (commandState (fld 0 2 input) 0xFF s)) := by
  refine (exec_bcs_checked rfl hopen (by simp [hlen]) (by simp [hexists, hstate, hzero])).trans ?_
  simp [hstate, hidle]

/-! ### Device parameters (R497, R498) -/

theorem exec_getParameter_known {path : BcsPath} {input : Bytes} {p : ParamInfo} {s : State} (hopen : bcsOpen path 0xC022 s = true)
    (hlen : input.length = 2) (hp : paramInfo (fld 0 2 input) = some p) :
    exec (.getParameter path input) s = .next (success path 0xC022 (le 2 p.id ++ le 1 (b2n (paramPending p s)) ++ zeros 5 ++
      le 8 (inForce p s) ++ le 8 (optionValue (stored s) p)) s) := by
  refine (exec_bcs_open rfl hopen (by simp [hlen])).trans ?_
  simp only [hp]

/-- A parameter other than the bureau's is only written to the option area (R498). -/
theorem exec_setParameter_writes {path : BcsPath} {input : Bytes} {p : ParamInfo} {s : State} (hopen : bcsOpen path 0xC023 s = true)
    (hlen : input.length = 16) (hp : paramInfo (fld 0 2 input) = some p) (hplain : p.id ≠ 0x0603) (hzero : zeroAt 2 6 input = true)
    (hvalue : valueOk p (fld 8 8 input) s = true) (hfree : paramBusy p.id s = false) :
    exec (.setParameter path input) s = .next (writeOption (setOption (comingOption s) p (fld 8 8 input))
      (.parameter (some path) p.id (fld 8 8 input)) s) := by
  have hfields : firstBad [(zeroAt 2 6 input, 2), (valueOk p (fld 8 8 input) s, 8)] = none := firstBad_none (by simp [hzero, hvalue])
  refine (exec_bcs_open rfl hopen (by simp [hlen])).trans ?_
  simp only [hp, checked_ok hfields, hfree, hplain, false_and, if_false, Bool.false_eq_true]

/-! ### Device Standby (R591) -/

theorem exec_enterDeviceStandby_accepted {path : BcsPath} {input : Bytes} {s : State} (hopen : bcsOpen path 0xC025 s = true)
    (hlen : input.length = 0) (hnone : standbyRefuser s = none) : exec (.enterDeviceStandby path input) s =
      .next (modSeq (fun q => { q with standby := .entering, wakePending := none }) (success path 0xC025 [] s)) := by
  refine (exec_bcs_open rfl hopen (by simp [hlen])).trans ?_
  simp only [hnone]

/-! ### Idle units, and units that are commanded (R585, R587) -/

theorem exec_idleTimerEntry_alone {unit n f : Nat} {s : State} (hkind : unitKind unit s ≠ some .slice)
    (hfigures : (idleFigures unit s).filter (fun g => decide ((unitOfPower unit s).state < g.1)) = [(n, f)])
    (hfree : (unitOfPower unit s).commanded = none) (hup : vcoreUp s = true) :
    exec (.idleTimerEntry unit) s = .next (enterState n unit s) := by
  change execIdleTimerEntry unit s = _
  simp [execIdleTimerEntry, hfigures, hfree, hup, together_alone hkind]

theorem exec_unitWorkArrival_idle {unit agent : Nat} {s : State} (hkind : unitKind unit s ≠ some .slice)
    (hentered : (unitOfPower unit s).entry = none) (hidle : isIdleState unit (unitOfPower unit s).state s = true) :
    exec (.unitWorkArrival unit agent) s = .next (modUnit unit (fun x => { x with state := 0 }) s) := by
  change execUnitWorkArrival unit agent s = _
  simp [execUnitWorkArrival, together_alone hkind, hentered, hidle]

theorem exec_commandedStateEntry_enters {unit n : Nat} {s : State} (hcommanded : (unitOfPower unit s).commanded = some n)
    (hdeep : ((statesOf unit s)[n]?.map fun x => bitOf 0 x.flags) = some true) (hnew : (unitOfPower unit s).state ≠ n)
    (hnone : refuserOf unit s = none) (hkind : unitKind unit s ≠ some .cacheBank) :
    exec (.commandedStateEntry unit) s = .next (modPwr (fun p => { p with padHeld := p.padHeld ||| unitPads unit }) (enterState n unit s)) := by
  have hmay : (!((statesOf unit s)[n]?.map fun x => bitOf 0 x.flags).getD false || (unitOfPower unit s).state == n ||
      (refuserOf unit s).isSome || unitKind unit s == some .cacheBank) = false := by simp [hdeep, hnew, hnone, hkind]
  change execCommandedStateEntry unit s = _
  simp only [execCommandedStateEntry, hcommanded, hmay]
  rfl

/-! ### Pads (R589, R590) -/

/-- The groups of a mask with one bit. -/
theorem groups_single {g : Nat} (hg : g < 10) : (List.range 10).filter (fun i => (BitVec.ofNat 10 (2 ^ g)).getLsbD i) = [g] :=
  (by decide : ∀ i : Fin 10, (List.range 10).filter (fun j => (BitVec.ofNat 10 (2 ^ i.val)).getLsbD j) = [i.val]) ⟨g, hg⟩

theorem releasePads_single {g : Nat} {s : State} (hg : g < 10) (hon : domainOn g s = true) (hheld : s.pwr.padHeld.getLsbD g = true) :
    releasePads (BitVec.ofNat 10 (2 ^ g)) s = raise 0x0F0B .info (le 2 (BitVec.ofNat 10 (2 ^ g)).toNat)
      (modPwr (fun p => { p with padHeld := p.padHeld &&& ~~~ BitVec.ofNat 10 (2 ^ g) }) s) := by
  simp only [releasePads, groups_single hg, List.all_cons, List.all_nil, hon, Bool.and_true, if_true, List.filter_cons, hheld,
    List.filter_nil, List.isEmpty_cons, Bool.false_eq_true, if_false, List.foldl_cons, List.foldl_nil, Nat.zero_add]

/-! ### The obligation -/

/-- Settles O46: each row is its `exec_` lemma, and the queries answer from the state and leave it. Which identifiers the unit power commands
take, the figure at which a unit enters an I state, and a wake without latency are as logs 142, 143 and 144 have them. -/
theorem unitPowerParametersAndIdentity : Obligations.UnitPowerParametersAndIdentity := by
  unfold Obligations.UnitPowerParametersAndIdentity
  refine ⟨fun path input s hopen ⟨hlen, hexists⟩ => ?get, fun path input u s hopen ⟨hlen, hu, hstate, hidle, hzero, hexists, hkind⟩ => ?release,
    fun path input p s hopen ⟨hlen, hp⟩ => ?parameter, fun path input p s hopen ⟨hlen, hp, hplain, hzero, hvalue, hfree⟩ => ?set,
    fun path input s hopen hlen => ?list, fun path input s hopen ⟨hlen, hnone⟩ => ?standby,
    fun unit n f s ⟨hkind, hfigures, hfree, hup⟩ => ⟨_, exec_idleTimerEntry_alone hkind hfigures hfree hup, rfl⟩,
    fun unit agent s ⟨hkind, hentered, hidle⟩ => ⟨_, exec_unitWorkArrival_idle hkind hentered hidle, rfl⟩,
    fun unit n s ⟨hcommanded, hdeep, hnew, hnone, hkind⟩ =>
      ⟨_, exec_commandedStateEntry_enters hcommanded hdeep hnew hnone hkind, rfl⟩,
    fun g s ⟨hg, hon, hheld, hroom⟩ => ?pads, fun path input s hopen hlen => ?identify⟩
  case get => exact ⟨_, exec_bcs_checked rfl hopen (by simp [hlen]) (by simp [hexists]), answered_success .., by simp⟩
  case release =>
    subst hu
    refine ⟨_, exec_setUnitPower_release hopen hlen hstate hidle hzero hexists, answered_success .., ?_⟩
    rw [commandState_release hkind]
    refine ⟨?_, by simp [modUnit]⟩
    have hpwr (t : State) : unitOfPower (fld 0 2 input) (success path 0xC021 [] t) = unitOfPower (fld 0 2 input) t := by
      simp only [unitOfPower, success, answer_pwr]
    rw [hpwr, unitOfPower_modUnit_self, unitOfPower_modUnit_self]
  case parameter => exact ⟨_, exec_getParameter_known hopen hlen hp, answered_success .., by simp⟩
  case set =>
    have hlogs : OnlyLogs s (writeOption (setOption (comingOption s) p (fld 8 8 input)) (.parameter (some path) p.id (fld 8 8 input)) s) :=
      norSubmit_onlyLogs ..
    exact ⟨_, exec_setParameter_writes hopen hlen hp hplain hzero hvalue hfree, mem_norOps_norSubmit ..,
      (congrArg State.params hlogs.rest :), hlogs.out, hlogs.reg, hlogs.ti, hlogs.pu⟩
  case list => exact ⟨_, exec_bcs_open rfl hopen (by simp [hlen]), answered_success .., by simp⟩
  case standby => exact ⟨_, exec_enterDeviceStandby_accepted hopen hlen hnone, answered_success .., by simp⟩
  case pads =>
    refine ⟨_, congrArg Host.Outcome.next (releasePads_single hg hon hheld), by simp, ?_, by simp⟩
    exact recorded_raise _ _ _ hroom
  case identify =>
    have hrunning : s.mc.rom = false := by simp_all [bcsOpen]
    refine ⟨_, exec_bcs_open rfl hopen (by simp [hlen]), ?_⟩
    simp only [hrunning, Bool.false_eq_true, if_false]
    exact ⟨answered_success .., by simp⟩

end Sys2Proof.Machine
end
